-- ==== Sys2Proof/Word.lean ====
section
/-! DEFINITION. The word types of the block: bytes, descriptors and the unit numbers of R31. -/

namespace Sys2Proof

/-- A byte is 8 bits (R11). -/
abbrev Byte := BitVec 8

/-- A 64-byte little-endian descriptor (R569): bit 0 is bit 0 of byte 0x00 (R10). -/
abbrev Desc := BitVec 512

/-- Unit numbers of R31 and R32. -/
abbrev CoreNo := Fin 32
abbrev ClusterNo := Fin 4
abbrev RegionNo := Fin 100
abbrev QueueNo := Fin 256
abbrev FenceNo := Fin 4096
/-- Memory units (R304): 0 to 15 are the HBM stacks, 16 to 31 the DRAM channels, the numbering R705 gives kind 5. -/
abbrev MemUnit := Fin 32
abbrev PortNo := Fin 4
abbrev DoorwayNo := Fin 16
abbrev ContextNo := Fin 512
abbrev CheckNo := Fin 64
abbrev CounterNo := Fin 4096
/-- Where a mover delivers a pane: the sills 0 to 31, and 32 + c for lintel c (R33, R251). -/
abbrev MoverEnd := Fin 36
/-- Ends of hinges: the regions, and from 100 on the clocked islands of the regions that hold one (R70, R80). -/
abbrev HingeEnd := Fin 200
/-- Shutter indexes of R658. -/
abbrev ShutterNo := Fin 104

end Sys2Proof
end

