-- ==== Sys2Proof/Syntax.lean ====
section
/-! DEFINITION. The commands of the block: one constructor for each row of spec/opcode_table.json, with its operands. -/

namespace Sys2Proof

/-- A transfer as its sender offers it: the region that it goes to, and its content (R37, R81). -/
structure Offer where
  dest : RegionNo
  payload : Nat
deriving DecidableEq, Repr

/-- What the controller's own code meets in a codeword it reads (R315): no error, an error in so many symbols that it is corrected or
detected, or the rare miscorrection of an error in more symbols than the code corrects, with the 64 data bytes that come of it. -/
inductive Ecc where
  | clean
  | symbols (n : Nat)
  | miscorrected (bytes : List Byte)
deriving DecidableEq, Repr

/-- A row address of a memory unit in the fields of R339, with the HBM channel (0 for a DRAM channel). -/
structure RowAddr where
  ch : Nat
  sid : Nat
  pc : Nat
  bg : Nat
  bank : Nat
  row : Nat
deriving DecidableEq, Repr

/-- How an attempt to train a memory unit ends (R310, R311): at the rate that is tried it succeeds, with the redundant lanes assigned,
or it fails; a DRAM channel has no module or one outside R309; a stack's failed lanes exceed its redundant ones. `rated` is the rate of
a module's SPD in units of 100 MT/s, `gib` the capacity, `id` the stack's identity or the SPD serial number (R309, R323). -/
inductive MuTraining where
  | trained (rated lanes gib id : Nat)
  | failedAt (rated : Nat)
  | noModule
  | badModule
  | lanesFailed
deriving DecidableEq, Repr

/-- What the repair of a logged row came to at step 3 of R310 (R324); a logged row without an entry could not be repaired. -/
structure MuRepair where
  row : RowAddr
  ok : Bool
deriving DecidableEq, Repr

/-- How the training of a doorway ends (R472, R473). -/
inductive LinkTraining where
  | up (width rate : Nat) (partner : Option Nat)
  | failed
deriving DecidableEq, Repr

/-- How the training of the CXL port ends (R605). -/
inductive CxlTraining where
  | up (wide : Bool) (rate : Nat)
  | down
deriving DecidableEq, Repr

/-- What a port reads from a cartridge's identity element and NAND at step 2 of R360. -/
structure CartIdentity where
  readable : Bool
  record : List Byte
  wear : Nat
  geometryAgrees : Bool
deriving DecidableEq, Repr

/-- A codeword that the copy of a row meets in error (R320): its slot and offset, and what the code makes of it. -/
structure CopyError where
  slot : Nat
  off : Nat
  ecc : Ecc
deriving DecidableEq, Repr

/-- What becomes of a remap entry at the management controller (R320, R322): the log is committed or not, and the codewords in error
that the copy of the row then meets. -/
structure RepairCommit where
  committed : Bool
  found : List CopyError
deriving DecidableEq, Repr

/-- What a mover's read of a pane meets (R166, R240, R373): 4 KiB units of a cartridge that LDPC cannot correct, and the words of the
sill, as offset and length in the pane, that hold an uncorrectable ECC error once it is staged. -/
structure ReadFault where
  flash : Nat
  sill : List (Nat × Nat)
deriving DecidableEq, Repr

/-- A 4 KiB unit of a cartridge (R342, R348): in a spill slot of one of the eight channels, or in a 64 KiB unit of the persistent
region. -/
inductive FlashUnit where
  | spill (chan slot off : Nat)
  | persistent (unit off : Nat)
deriving DecidableEq, Repr

/-- Relocation and map work of a port (R357, R373, R705): bytes programmed, units met that LDPC cannot correct, erase blocks erased. -/
structure Relocation where
  bytes : Nat
  bad : List FlashUnit
  erases : Nat
deriving DecidableEq, Repr

/-- The label of a cartridge (R350): the persistent key as it was wrapped, and the serial number of the device that wrapped it. -/
structure CartLabel where
  serial : List Byte
  psize : Nat
  generation : Nat
  wrappedBy : Nat
  wrapped : List Byte
deriving DecidableEq, Repr

/-- What steps 3 and 4 of R360 give: the rate in MT/s at which each channel trained, 0 for one that failed at every rate (R342, R343),
and each channel's copy of the label, none where its CRC-32C fails (R350). -/
structure CartInit where
  rates : List Nat
  labels : List (Option CartLabel)
deriving DecidableEq, Repr

/-- A configuration request (R607 to R612, R622). -/
inductive ConfigReq where
  | readId
  | readClass
  | readSubsystem
  | readInterruptPin
  | readSerial
  | readCapabilities (extended : Bool)
  | readBar (n : Nat)
  | readDvsec (id : Nat)
  | readBar4Size
  | writeCommand (memSpace busMaster : Bool)
  | writePower (d3hot : Bool)
  | writeBar4Size (log2 : Nat)
  | writeMsixControl (enable funcMask : Bool)
  | maskVector (v : Nat)
deriving DecidableEq, Repr

/-- What the lanes of a doorway bring: the bytes behind the error correction, and the symbols in error in each codeword that had any (R472,
R474). -/
structure LineIn where
  bytes : List Byte
  errors : List Nat
deriving DecidableEq, Repr

/-- A host read of BAR0, or of BAR2 (R562, R610): its offset and its size in bytes (R18). -/
structure RegRead where
  off : Nat
  size : Nat
  bar2 : Bool
deriving DecidableEq, Repr

/-- Which register of a queue page QUEUE_RING_WRITE writes (R596, R597). -/
inductive RingReg where
  | qring
  | sqbase
  | cqbase
deriving DecidableEq, Repr

/-- Which register of a check unit CHECK_STATE_WRITE writes (R411). -/
inductive CheckReg where
  | run
  | count
  | limit
  | tap
  | poly
  | mtch
deriving DecidableEq, Repr

/-- Which register TRACE_CONFIG_WRITE writes (R711). -/
inductive TraceReg where
  | trbase
  | trring
deriving DecidableEq, Repr

/-- Which request of a queue failed on CXL (R589): a ring read, or the write of the record with this SEQ and STATUS. -/
inductive HostFailure where
  | ringRead
  | recordWrite (seq status : Nat)
deriving DecidableEq, Repr

/-- A locator (R488). -/
structure Locator where
  site : Nat
  switch : Nat
deriving DecidableEq, Repr

/-- What a membership lists for each member (R492). -/
structure Member where
  node : Nat
  key : List Byte
  ip : List Byte
  locator : Locator
  neighbours : List Nat
deriving DecidableEq, Repr

/-- A MEMBER packet (R490, R491) by its content, and its Ed25519 signature. -/
inductive MemberBody where
  | hello (joiner : Member) (cert nonce : List Byte)
  | challenge (joiner coordinator : Nat) (key cert nonce : List Byte) (sig : List Byte)
  | proof (joiner : Nat) (sig : List Byte)
  | prepare (epoch : Nat) (coordinator : Nat) (members : List Member)
  | ready (who : Member) (epoch : Nat)
  | commit (epoch : Nat) (coordinator : Nat) (members : List Member)
  | refused (joiner : Nat)
  | handover (node epoch : Nat)
deriving DecidableEq, Repr

/-- A MEMBER packet with its sender and signature. -/
structure MemberPacket where
  sender : Nat
  body : MemberBody
  sig : List Byte
deriving DecidableEq, Repr

/-- What boot finds outside the device (R654 to R657, R680): the two manifest slots with the digests of the components read
from SPI NOR, the result of self-test, and whether the CRC of the repair log holds (R323). -/
structure BootEnv where
  slotA : List Byte
  slotB : List Byte
  compsA : List (List Byte)
  compsB : List (List Byte)
  keyholeOk : Bool
  rootOk : Bool
  coresFailed : List (Fin 32)
  clustersFailed : List (Fin 4)
  enginesFailed : List (Fin 16)
  checksFailed : List (Fin 64)
  repairLogOk : Bool
deriving DecidableEq, Repr

/-- The commands: one constructor per row of the table of operations and events. Operands: the unit concerned, the value the
host writes, a descriptor as the command processor's RdCurr returns it, or what the step meets outside the device. -/
inductive Instr where
  -- registers and configuration space
  | registerWrite (off size value : Nat)
  | registerAccessInvalid (isWrite : Bool) (off size value : Nat)
  | registerReadLowerHalf (r : RegRead)
  | configRequest (r : ConfigReq)
  -- timing regions
  | licTick (n : RegionNo) (cycles : Nat)
  | calibrationWindowEnd
  | licctlCal (n : RegionNo)
  | calibrationTimeout (n : RegionNo)
  | vsetWrite (n : RegionNo) (vcode : Nat)
  | regulatorStep (n : RegionNo)
  | monitorMeasure (n : RegionNo) (mv : Nat) (tq : Int) (rate speed : Nat)
  | louvreRelease (n : RegionNo)
  | hingeStallTimeout (a b : RegionNo)
  | hingeTransfer (a b : HingeEnd) (owner : Option Nat) (offered : Option Offer) (receiverReady : Bool)
  | rstctlReset (n : RegionNo)
  -- taking and the matrix engine
  | invalidOpcode (q : QueueNo) (d : Desc)
  | mma (q : QueueNo) (d : Desc)
  | operandStaged (n : CoreNo)
  | mmaKGroup (n : CoreNo)
  | mmaPassEnd (n : CoreNo)
  | transomWrite (n : CoreNo)
  | transomConsume (n : CoreNo)
  | blockEncode (n : CoreNo)
  | seamContribution (n : CoreNo)
  | mxctlCntclr (n : CoreNo)
  -- the vector engine
  | vectorStep (n : CoreNo)
  | vopCopy (q : QueueNo) (d : Desc)
  | vopNeg (q : QueueNo) (d : Desc)
  | vopAbs (q : QueueNo) (d : Desc)
  | vopCopysign (q : QueueNo) (d : Desc)
  | vopCvt (q : QueueNo) (d : Desc)
  | vopAdd (q : QueueNo) (d : Desc)
  | vopSub (q : QueueNo) (d : Desc)
  | vopMul (q : QueueNo) (d : Desc)
  | vopFma (q : QueueNo) (d : Desc)
  | vopDiv (q : QueueNo) (d : Desc)
  | vopSqrt (q : QueueNo) (d : Desc)
  | vopMin (q : QueueNo) (d : Desc)
  | vopMax (q : QueueNo) (d : Desc)
  | vopAffine (q : QueueNo) (d : Desc)
  | vopRelu (q : QueueNo) (d : Desc)
  | vopExp (q : QueueNo) (d : Desc)
  | vopExp2 (q : QueueNo) (d : Desc)
  | vopLog (q : QueueNo) (d : Desc)
  | vopLog2 (q : QueueNo) (d : Desc)
  | vopRcp (q : QueueNo) (d : Desc)
  | vopRsqrt (q : QueueNo) (d : Desc)
  | vopSin (q : QueueNo) (d : Desc)
  | vopCos (q : QueueNo) (d : Desc)
  | vopTanh (q : QueueNo) (d : Desc)
  | vopSigmoid (q : QueueNo) (d : Desc)
  | vopErf (q : QueueNo) (d : Desc)
  | vopGelu (q : QueueNo) (d : Desc)
  | vopSilu (q : QueueNo) (d : Desc)
  | vopRsum (q : QueueNo) (d : Desc)
  | vopRsumsq (q : QueueNo) (d : Desc)
  | vopRmax (q : QueueNo) (d : Desc)
  | vopRmin (q : QueueNo) (d : Desc)
  | vopRamax (q : QueueNo) (d : Desc)
  | vopSoftmax (q : QueueNo) (d : Desc)
  | vopLayernorm (q : QueueNo) (d : Desc)
  | vopRmsnorm (q : QueueNo) (d : Desc)
  | vopXent (q : QueueNo) (d : Desc)
  | vopXentgrad (q : QueueNo) (d : Desc)
  | vxctlCntclr (n : CoreNo)
  -- movers and placement
  | moveCopy (q : QueueNo) (d : Desc)
  | moveFill (q : QueueNo) (d : Desc)
  | moveMigrate (q : QueueNo) (d : Desc)
  | moveImport (q : QueueNo) (d : Desc)
  | moveExport (q : QueueNo) (d : Desc)
  | moveRelease (q : QueueNo) (d : Desc)
  | paneRead (n : MoverEnd) (handle pane : Nat) (bad : ReadFault)
  | moverWriteBack (n : CoreNo) (handle pane : Nat)
  | tierReplace
  | replaceQuiesced
  | mqReadMetadata
  | mqReadPlacement
  -- memory units
  | memoryAccess (u : MemUnit) (slot off : Nat) (write : Option (List Byte)) (ecc : Ecc) (row : RowAddr)
  | repairLogCommitted (u : MemUnit) (row : RowAddr) (r : RepairCommit)
  | scrubRead (u : MemUnit) (slot off : Nat) (ecc : Ecc) (row : RowAddr)
  | muTempReading (u : MemUnit) (t : Int)
  | muTrainingDone (u : MemUnit) (r : MuTraining) (repairs : List MuRepair)
  | muZeroingDone (u : MemUnit)
  -- cartridges
  | cartPresenceChange (p : PortNo) (present : Bool)
  | cartPresenceDebounced (p : PortNo)
  | cartPgood (p : PortNo) (id : CartIdentity)
  | cartPgoodTimeout (p : PortNo)
  | cartInitialised (p : PortNo) (i : CartInit)
  | format (p : PortNo)
  | erasep (p : PortNo)
  | wearCounterCommit (p : PortNo) (bytes : Nat)
  | wearCounterAck (p : PortNo)
  | flashRelocation (p : PortNo) (r : Relocation)
  -- compression engines and check units
  | compEncode (q : QueueNo) (d : Desc)
  | compDecode (q : QueueNo) (d : Desc)
  | compConfig (q : QueueNo) (d : Desc)
  | compReset (q : QueueNo) (d : Desc)
  | compBlockEncode (x : ContextNo)
  | compBlockDecode (x : ContextNo)
  | tableBuild (x : ContextNo)
  | tableInstall (x : ContextNo)
  | checkByte (u : CheckNo) (tap key : Nat) (b : Byte)
  | ckctlInit (u : CheckNo)
  | ckctlArm (u : CheckNo) (on : Bool)
  | checkStateWrite (u : CheckNo) (r : CheckReg) (value : Nat)
  -- training
  | sweep (q : QueueNo) (d : Desc)
  | sweepPrefetch (c : ClusterNo)
  | sweepUnit (c : ClusterNo)
  | sweepFactorPhaseEnd
  | sweepLayerComplete (layer : Nat)
  | phaseCounterTick
  | phctlSnap
  | digest (q : QueueNo) (d : Desc)
  | chkpExport (q : QueueNo) (d : Desc)
  | chkpImport (q : QueueNo) (d : Desc)
  | chkpCarriageReceive (src : Nat) (image : List Byte)
  -- doorways and transport
  | dwctlWrite (w : DoorwayNo) (value : Nat)
  | linkTrainingDone (w : DoorwayNo) (r : LinkTraining)
  | linkLockLoss (w : DoorwayNo)
  | flitSend (w : DoorwayNo)
  | flitReceive (w : DoorwayNo) (flit : LineIn)
  | frameReceive (w : DoorwayNo) (frame : LineIn)
  | dataSend (w : DoorwayNo) (peer : Nat)
  | packetData (w : DoorwayNo) (pkt : List Byte) (ce : Bool)
  | packetAck (w : DoorwayNo) (pkt : List Byte) (ce : Bool)
  | packetNack (w : DoorwayNo) (pkt : List Byte) (ce : Bool)
  | packetTable (w : DoorwayNo) (pkt : List Byte) (ce : Bool)
  | ackTimer (w : DoorwayNo) (peer : Nat)
  | rtoExpiry (w : DoorwayNo) (peer : Nat)
  | notreadyTimer (w : DoorwayNo) (peer : Nat)
  -- membership
  | ndctlForm
  | ndctlJoin
  | ndctlLeave
  | ndctlApprove
  | ndctlDeny
  | ndctlEvict
  | ndselfWrite (node : Nat)
  | hello (p : MemberPacket)
  | challenge (p : MemberPacket)
  | proof (p : MemberPacket)
  | prepare (p : MemberPacket)
  | ready (p : MemberPacket)
  | commit (p : MemberPacket)
  | refused (p : MemberPacket)
  | handover (p : MemberPacket)
  -- collectives
  | collAllreduce (q : QueueNo) (d : Desc)
  | collReducescatter (q : QueueNo) (d : Desc)
  | collAllgather (q : QueueNo) (d : Desc)
  | collBroadcast (q : QueueNo) (d : Desc)
  | collSend (q : QueueNo) (d : Desc)
  | collRecv (q : QueueNo) (d : Desc)
  | collDigcmp (q : QueueNo) (d : Desc)
  | collBlockReduce (tag block : Nat)
  | collDone (tag node : Nat)
  | collCommit (tag : Nat)
  -- the image loader and casement programs
  | imgLoad
  | imgUnload
  | imgAbort
  | imgFetchDone (bytes : Option (List Byte))
  | imgQuiesced
  | imgRefetchDone (bytes : Option (List Byte))
  | programEntryTake (owner : Nat)
  -- queues, fences, parts
  | sqtail (q : QueueNo) (value : Nat)
  | cqhead (q : QueueNo) (value : Nat)
  | wait (q : QueueNo) (d : Desc)
  | signalAdd (q : QueueNo) (d : Desc)
  | signalMax (q : QueueNo) (d : Desc)
  | signalApply (port : Nat)
  | fenceWrite (f : FenceNo) (value : Nat)
  | partIssue (n : CoreNo)
  | partComplete (id part : Nat)
  | qirqTimer (q : QueueNo)
  | qctlEnable (q : QueueNo) (on : Bool)
  | queueDrained (q : QueueNo)
  | qbindWrite (q : QueueNo) (valid : Bool) (casement : Nat)
  | queueRingWrite (q : QueueNo) (r : RingReg) (value : Nat)
  | hostRequestFailure (q : QueueNo) (f : HostFailure)
  -- CXL host interface
  | cxlLinkTrainingDone (r : CxlTraining)
  | cxlLinkDown
  | bar4Access (off : Nat) (write : Option (List Byte)) (len : Nat)
  | cxlMemRead (line : Nat)
  | cxlMemWrite (line : Nat) (data : List Byte) (poison : Bool)
  | hostSnoop (addr : Nat)
  | hdmctlEn (on : Bool)
  | hdmsizeWrite (units : Nat)
  | hdmZeroingDone
  | hdmReleaseDrained
  | hdmDecoderCommit (size : Nat)
  | msixUnmask (v : Nat)
  | doeDiscovery (index bytes : Nat)
  | cdatTableAccess (bytes : Nat)
  | doeAbort
  | getVersion
  | getCapabilities
  | negotiateAlgorithms
  | getDigests
  | getCertificate (slot offset len : Nat)
  | challengeSpdm (slot : Nat) (nonce : List Byte)
  | getMeasurements (index : Nat) (signed : Bool) (nonce : List Byte)
  | spdmUnsupportedRequest (code : Nat)
  | flr
  | flrQuiesced
  -- arbiters
  | arbDecision (inst : Nat) (asking : Nat)
  | arbRelease (inst : Nat) (asking : Nat)
  | inputmapWrite (inst : Nat) (value : Nat)
  | holdWatchdogBite (inst : Nat)
  -- start-up, shutters, errors
  | porNAssert
  | porNDeassert (env : BootEnv)
  | perstNAssert
  | perstNDeassert (env : BootEnv)
  | warmReset (env : BootEnv)
  | bootReady
  | shutterReqWrite (i : ShutterNo) (req : Bool)
  | shutterTransitionEnd (i : ShutterNo)
  | runmodeWrite (mode : Nat)
  | errheadWrite (slot : Nat)
  | fatalThermalResetStart (env : BootEnv)
  | alertNPulseEnd
  -- keyhole
  | nonce
  | transition
  | lifeCycleRowProgrammed (programmed : Bool) (env : BootEnv)
  | commitsvn
  | revoke
  -- peephole
  | cntselWrite (c : CounterNo) (value : Nat)
  | cntselClr (c : CounterNo)
  | peepCntclr
  | traceEnable
  | traceDisable
  | traceRingWrite
  | trheadWrite (slot : Nat)
  | traceConfigWrite (r : TraceReg) (value : Nat)
  -- the remaining events
  | keyholeIntegrityFailure
  | priorityFlowControlPauseEnd (w : DoorwayNo) (prio : Fin 8)
deriving DecidableEq, Repr

end Sys2Proof
end

