-- ==== Sys2Proof/Decode.lean ====
section
/-! DEFINITION. The command that a word spells by the bits of the table of operations and events: the table gives no row any
bits. -/

namespace Sys2Proof

/-- No row of spec/opcode_table.json has an encoding, so no word spells a command. -/
def decodeTableWord (nbits w : Nat) : Option Instr :=
  let _ := (nbits, w)
  none

end Sys2Proof
end

