-- ==== Sys2Proof/Machine/Assoc.lean ====
section
/-! DEFINITION. Sparse maps from numbers: a list of (key, value) pairs in one canonical form, keys strictly rising and no
value equal to the value an unlisted key has. The register file, memory and every per-unit table of the state use them. -/

namespace Sys2Proof.Machine

/-- The value at key `n`; `d` for a key that is not listed. -/
def assocGet {α : Type} (d : α) : List (Nat × α) → Nat → α
  | [], _ => d
  | (k, v) :: t, n => if k = n then v else assocGet d t n

/-- Replace the keys `lo` to `hi - 1` by the entries `mid`, which the caller lists in rising order and without defaults. -/
def assocSplice {α : Type} (t : List (Nat × α)) (lo hi : Nat) (mid : List (Nat × α)) : List (Nat × α) :=
  t.filter (fun p => decide (p.1 < lo)) ++ mid ++ t.filter (fun p => decide (hi ≤ p.1))

/-- Set key `n`; an entry equal to the default is removed. -/
def assocSet {α : Type} [DecidableEq α] (d : α) (t : List (Nat × α)) (n : Nat) (v : α) : List (Nat × α) :=
  assocSplice t n (n + 1) (if v = d then [] else [(n, v)])

/-- Change the value at key `n`. -/
def assocModify {α : Type} [DecidableEq α] (d : α) (t : List (Nat × α)) (n : Nat) (f : α → α) : List (Nat × α) :=
  assocSet d t n (f (assocGet d t n))

/-- The entry at key `n` of a map without a default. -/
def optGet {α : Type} (t : List (Nat × α)) (n : Nat) : Option α := (t.find? (fun p => decide (p.1 = n))).map (fun p => p.2)

/-- Set or remove the entry at key `n`. -/
def optSet {α : Type} (t : List (Nat × α)) (n : Nat) (v : Option α) : List (Nat × α) :=
  assocSplice t n (n + 1) (match v with
    | some x => [(n, x)]
    | none => [])

/-- The canonical form: keys strictly rising and no entry equal to the default. -/
def assocWf {α : Type} [DecidableEq α] (d : α) : List (Nat × α) → Bool
  | [] => true
  | [(_, v)] => decide (v ≠ d)
  | (k, v) :: (k', v') :: t => decide (v ≠ d) && decide (k < k') && assocWf d ((k', v') :: t)

/-- A value truncated to a width in bits. -/
def truncTo (w v : Nat) : Nat := v % 2 ^ w

/-- Bits `lo` to `lo + w - 1` of `v` (R10). -/
def bitsOf (v lo w : Nat) : Nat := v / 2 ^ lo % 2 ^ w

/-- One bit of `v` (R10). -/
def bitOf (v i : Nat) : Bool := v / 2 ^ i % 2 = 1

/-- A Bool as a bit. -/
def b2n (b : Bool) : Nat := if b then 1 else 0

/-- A saturating counter of width `w`. -/
def satAdd (w a n : Nat) : Nat := min (a + n) (2 ^ w - 1)

/-- Little-endian bytes of a number (R10). -/
def leBytes : Nat → Nat → List Byte
  | 0, _ => []
  | n + 1, v => BitVec.ofNat 8 (v % 256) :: leBytes n (v / 256)

/-- The number that little-endian bytes spell (R10). -/
def leNat : List Byte → Nat
  | [] => 0
  | b :: t => b.toNat + 256 * leNat t

/-- The number that big-endian bytes spell. -/
def beNat (bs : List Byte) : Nat := leNat bs.reverse

/-- Big-endian bytes of a number. -/
def beBytes (n v : Nat) : List Byte := (leBytes n v).reverse

/-- `n` bytes of `bs` from offset `o`; bytes past the end read as zero. -/
def byteSlice (bs : List Byte) (o n : Nat) : List Byte :=
  let t := (bs.drop o).take n
  t ++ List.replicate (n - t.length) 0#8

/-- The little-endian number at offset `o`, `n` bytes wide. -/
def leAt (bs : List Byte) (o n : Nat) : Nat := leNat (byteSlice bs o n)

/-- Two's complement of an integer in `w` bits. -/
def toTwos (w : Nat) (i : Int) : Nat := (i % (2 ^ w : Int)).toNat

/-- The integer that `w` bits spell in two's complement. -/
def ofTwos (w v : Nat) : Int := if v % 2 ^ w < 2 ^ (w - 1) then (v % 2 ^ w : Nat) else ((v % 2 ^ w : Nat) : Int) - (2 ^ w : Nat)

/-- Ceiling division. -/
def ceilDiv (a b : Nat) : Nat := (a + b - 1) / b

/-- Zip with indexes from `i`. -/
def indexFrom {α : Type} : Nat → List α → List (Nat × α)
  | _, [] => []
  | i, x :: t => (i, x) :: indexFrom (i + 1) t

/-- Change the elements that satisfy a test. -/
def updateWhere {α : Type} (p : α → Bool) (f : α → α) (l : List α) : List α := l.map (fun x => if p x then f x else x)

end Sys2Proof.Machine
end

