-- ==== Sys2Proof/Machine/Crc.lean ====
section
/-! DEFINITION. Cyclic redundancy checks and SHA-512, as the spec names them: CRC-32C of R257, the check polynomials of R407, and
the SHA-512 of R525 and R679. -/

namespace Sys2Proof.Machine

/-- One bit of a reflected CRC register with the reflected polynomial `p`. -/
def crcBit (p c : Nat) : Nat := if c % 2 = 1 then (c / 2) ^^^ p else c / 2

/-- `n` zero bits. -/
def crcBits (p : Nat) : Nat → Nat → Nat
  | 0, c => c
  | n + 1, c => crcBits p n (crcBit p c)

/-- One byte. -/
def crcByte (p c : Nat) (b : Byte) : Nat := crcBits p 8 (c ^^^ b.toNat)

/-- A string of bytes. -/
def crcList (p c : Nat) (bs : List Byte) : Nat := bs.foldl (crcByte p) c

/-- Product of two residues in the reflected representation of width `w`. -/
def crcMul (p w : Nat) (a b : Nat) : Nat :=
  ((List.range w).foldl (fun (acc : Nat × Nat) i =>
    (if bitOf b (w - 1 - i) then acc.1 ^^^ acc.2 else acc.1, crcBit p acc.2)) (0, a)).1

/-- The residue of x^(8 n), by squaring; `fuel` bits of n. -/
def crcPow (p w : Nat) : Nat → Nat → Nat → Nat → Nat
  | 0, _, _, acc => acc
  | fuel + 1, n, base, acc =>
    crcPow p w fuel (n / 2) (crcMul p w base base) (if n % 2 = 1 then crcMul p w acc base else acc)

/-- Advance a register over `n` zero bytes. -/
def crcZeros (p w n c : Nat) : Nat :=
  if n ≤ 8 then crcBits p (8 * n) c
  else crcMul p w c (crcPow p w 32 n (crcBits p 8 (2 ^ (w - 1))) (2 ^ (w - 1)))

/-- A CRC register over offsets `at` to `stop - 1` of sparse bytes, listed in rising order; unlisted bytes are zero. -/
def crcCells (p w : Nat) (stop : Nat) : List (Nat × Byte) → Nat → Nat → Nat
  | [], pos, c => crcZeros p w (stop - pos) c
  | (k, b) :: t, pos, c =>
    if k < pos then crcCells p w stop t pos c
    else if stop ≤ k then crcZeros p w (stop - pos) c
    else crcCells p w stop t (k + 1) (crcByte p (crcZeros p w (k - pos) c) b)

/-- CRC-32C: polynomial 0x1EDC6F41, reflected, initial value and final complement all ones. -/
def poly32c : Nat := 0x82F63B78
def crc32c (bs : List Byte) : Nat := crcList poly32c 0xFFFFFFFF bs ^^^ 0xFFFFFFFF

/-! SHA-512 (FIPS 180-4), its constants from the primes that they are defined by. -/

/-- The first `n` primes, by trial division of the numbers below `m` by those found. -/
def primesBelow (m : Nat) : List Nat :=
  (List.range m).foldl (fun ps k => if 2 ≤ k ∧ ps.all (fun p => decide (k % p ≠ 0)) then ps ++ [k] else ps) []

/-- The largest number below 2^(b + 1) whose `e`-th power does not exceed `x`, bit by bit from bit `b`. -/
def rootBits (e x : Nat) : Nat → Nat → Nat
  | 0, r => if (r + 1) ^ e ≤ x then r + 1 else r
  | b + 1, r => rootBits e x b (if (r + 2 ^ (b + 1)) ^ e ≤ x then r + 2 ^ (b + 1) else r)

/-- The first 64 bits of the fractional part of the `e`-th root of `p`. -/
def rootFraction (e p : Nat) : Nat := rootBits e (p * 2 ^ (64 * e)) 69 0 % 2 ^ 64

/-- The initial hash value, and the constants of the rounds. -/
def shaInit : List Nat := (primesBelow 20).map (rootFraction 2)
def shaK : List Nat := (primesBelow 410).map (rootFraction 3)

/-- Rotation and shift right of a 64-bit word by the amounts of a list, added without carry: the last amount is `last`. -/
def rotr64 (n x : Nat) : Nat := x / 2 ^ n + x % 2 ^ n * 2 ^ (64 - n)
def mixRot (ns : List Nat) (last x : Nat) : Nat := ns.foldl (fun a n => a ^^^ rotr64 n x) last

/-- The eight working words of a compression. -/
structure ShaWords where
  a : Nat
  b : Nat
  c : Nat
  d : Nat
  e : Nat
  f : Nat
  g : Nat
  h : Nat
deriving DecidableEq, Repr

/-- Eight words, and a list of them. -/
def ShaWords.ofList (l : List Nat) : ShaWords :=
  ⟨l.getD 0 0, l.getD 1 0, l.getD 2 0, l.getD 3 0, l.getD 4 0, l.getD 5 0, l.getD 6 0, l.getD 7 0⟩
def ShaWords.list (v : ShaWords) : List Nat := [v.a, v.b, v.c, v.d, v.e, v.f, v.g, v.h]

/-- Bit by bit: `y` where `x` has a one and `z` elsewhere; and the majority of three. -/
def bitChoice (x y z : Nat) : Nat := z ^^^ (x &&& (y ^^^ z))
def bitMajority (x y z : Nat) : Nat := (x &&& (y ||| z)) ||| (y &&& z)

/-- One round with its constant and its word of the schedule. -/
def ShaWords.round (v : ShaWords) (k w : Nat) : ShaWords :=
  let t := v.h + mixRot [14, 18, 41] 0 v.e + bitChoice v.e v.f v.g + k + w
  ⟨(t + mixRot [28, 34, 39] 0 v.a + bitMajority v.a v.b v.c) % 2 ^ 64, v.a, v.b, v.c, (v.d + t) % 2 ^ 64, v.e, v.f, v.g⟩

/-- The rounds of one block: the window holds the next 16 words of the schedule and slides by one at each round. -/
def shaRounds : List Nat → List Nat → ShaWords → ShaWords
  | [], _, v => v
  | k :: ks, win, v =>
    let x := win.getD 1 0
    let y := win.getD 14 0
    let next := win.getD 0 0 + mixRot [1, 8] (x / 2 ^ 7) x + win.getD 9 0 + mixRot [19, 61] (y / 2 ^ 6) y
    shaRounds ks (win.drop 1 ++ [next % 2 ^ 64]) (v.round k (win.getD 0 0))

/-- The chaining value after the next `n` blocks of 128 bytes. -/
def shaChain : Nat → List Nat → List Byte → List Nat
  | 0, h, _ => h
  | n + 1, h, bs =>
    let win := (List.range 16).map (fun i => beNat ((bs.drop (8 * i)).take 8))
    let v := (shaRounds shaK win (ShaWords.ofList h)).list
    shaChain n ((h.zip v).map (fun p => (p.1 + p.2) % 2 ^ 64)) (bs.drop 128)

/-- SHA-512 of a byte string: a one bit, zeros and the length in bits fill the last block. -/
def sha512 (bs : List Byte) : List Byte :=
  let zeros := (239 - bs.length % 128) % 128
  let filled := bs ++ 0x80#8 :: (List.replicate zeros 0#8 ++ beBytes 16 (bs.length * 8))
  (shaChain (filled.length / 128) shaInit filled).flatMap (beBytes 8)

end Sys2Proof.Machine
end

