-- ==== Sys2Proof/Machine/Num.lean ====
section
/-! DEFINITION. Number formats (chapter 03) and the block encoders of chapter 05: format tags, decoding into an exact value,
rounding, encoding, and the flags each raises. -/

namespace Sys2Proof.Machine

/-- A decoded value (R125): NaN, an infinity, or the exact value ± m × 2^e, a zero when m is 0. -/
inductive Num where
  | nan
  | inf (neg : Bool)
  | fin (neg : Bool) (m : Nat) (e : Int)
deriving DecidableEq, Repr

def Num.isNan : Num → Bool
  | .nan => true
  | _ => false
def Num.isInf : Num → Bool
  | .inf _ => true
  | _ => false
def Num.isZero : Num → Bool
  | .fin _ m _ => decide (m = 0)
  | _ => false
def Num.isFinite : Num → Bool
  | .fin _ m _ => decide (m ≠ 0)
  | _ => false
def Num.neg : Num → Bool
  | .nan => false
  | .inf n => n
  | .fin n _ _ => n
/-- The value with another sign. -/
def Num.withSign (s : Bool) : Num → Num
  | .nan => .nan
  | .inf _ => .inf s
  | .fin _ m e => .fin s m e
def Num.zero (s : Bool) : Num := .fin s 0 0

/-! Flag bits of R195. -/
def fINVALID : Nat := 1
def fDIVZERO : Nat := 2
def fOVERFLOW : Nat := 4
def fUNDERFLOW : Nat := 8
def fINEXACT : Nat := 16
def fFLUSHIN : Nat := 32
def fFLUSHOUT : Nat := 64
def fSATURATED : Nat := 128

/-! Format tags (R105). -/
def fmtB32 : Nat := 0
def fmtB64 : Nat := 1
def fmtGF16 : Nat := 2
def fmtGB8 : Nat := 3
def fmtGL8 : Nat := 4
def fmtE4M3 : Nat := 5
def fmtE5M2 : Nat := 6

def tagFmt (t : Nat) : Nat := t % 16
def tagBlk (t : Nat) : Nat := t / 16 % 4
def isBlockTag (t : Nat) : Bool := decide (tagFmt t = 3) || decide (tagFmt t = 4)
def isOfp8Tag (t : Nat) : Bool := decide (tagFmt t = 5) || decide (tagFmt t = 6)
/-- A malformed tag (R105). -/
def malformedTag (t : Nat) : Bool :=
  decide (64 ≤ t) || decide (7 ≤ tagFmt t) || (decide (tagBlk t ≠ 0) && !isBlockTag t)
/-- Elements of a block (R105). -/
def blockSize (t : Nat) : Nat := 16 * 2 ^ tagBlk t
/-- Bytes of an element (R105). -/
def fmtBytes (t : Nat) : Nat :=
  match tagFmt t with
  | 0 => 4
  | 1 => 8
  | 2 => 2
  | _ => 1

/-- Entries of the log table (R114): 2^(r/16) × 2^23 rounded to nearest. -/
def logTable : List Nat := [8388608, 8760003, 9147842, 9552851, 9975792, 10417458, 10878679, 11360319,
  11863283, 12388516, 12937002, 13509772, 14107901, 14732511, 15384775, 16065917]

/-! Rounding. -/

/-- Rounding directions (R115): to nearest even, toward zero, up, down. -/
inductive Rm where
  | rne
  | rtz
  | rup
  | rdn
deriving DecidableEq, Repr

/-- m × 2^e as an integer multiple of 2^q, truncated, with the part lost: half bits compared with one half. -/
def shiftTo (m : Nat) (e q : Int) : Nat × Ordering × Bool :=
  if q ≤ e then (m * 2 ^ (e - q).toNat, .lt, true)
  else
    let d := (q - e).toNat
    let r := m % 2 ^ d
    (m / 2 ^ d, compare (2 * r) (2 ^ d), decide (r = 0))

/-- Round a magnitude to a multiple of 2^q: the multiple, and whether it is exact (R117, R115). -/
def roundAt (rm : Rm) (neg : Bool) (m : Nat) (e q : Int) : Nat × Bool :=
  let (k, half, exact) := shiftTo m e q
  if exact then (k, true)
  else
    let up : Bool := match rm with
      | .rne => decide (half = .gt) || (decide (half = .eq) && decide (k % 2 = 1))
      | .rtz => false
      | .rup => !neg
      | .rdn => neg
    (if up then k + 1 else k, false)

/-- Exponent E of a magnitude in [2^E, 2^(E+1)) (R188). -/
def ilog (m : Nat) (e : Int) : Int := (Nat.log2 m : Int) + e

/-- Compare two magnitudes m × 2^e and m' × 2^e'. -/
def cmpMag (m : Nat) (e : Int) (m' : Nat) (e' : Int) : Ordering :=
  let q := min e e'
  compare (m * 2 ^ (e - q).toNat) (m' * 2 ^ (e' - q).toNat)

/-- Round a magnitude to `prec` bits with unbounded exponent: a significand, its exponent, exactness. -/
def roundPrec (rm : Rm) (neg : Bool) (prec : Nat) (m : Nat) (e : Int) : Nat × Int × Bool :=
  if m = 0 then (0, 0, true)
  else
    let q := ilog m e - prec + 1
    let (k, ex) := roundAt rm neg m e q
    (k, q, ex)

/-- The grid of a scalar format or of a GB8 element (R129): precision, exponent of the smallest normal, exponent of the
smallest non-zero, the largest finite. -/
structure Grid where
  prec : Nat
  emin : Int
  qmin : Int
  maxM : Nat
  maxE : Int
  /-- Whether overflow gives an infinity. -/
  hasInf : Bool
deriving DecidableEq, Repr

def gridOf (fmt : Nat) : Grid :=
  match fmt with
  | 0 => ⟨24, -126, -149, 2 ^ 24 - 1, 104, true⟩
  | 1 => ⟨53, -1022, -1074, 2 ^ 53 - 1, 971, true⟩
  | 2 => ⟨9, -62, -70, 511, 55, true⟩
  | 3 => ⟨4, -6, -9, 15, 5, false⟩
  | 5 => ⟨4, -6, -9, 14, 5, false⟩
  | 6 => ⟨3, -14, -16, 7, 13, true⟩
  | _ => ⟨24, -126, -149, 2 ^ 24 - 1, 104, true⟩

/-- The value overflows the grid (R129). -/
def overflows (g : Grid) (rm : Rm) (neg : Bool) (m : Nat) (e : Int) : Bool :=
  let (k, q, _) := roundPrec rm neg g.prec m e
  decide (cmpMag k q g.maxM g.maxE = .gt)

/-- A non-zero value is tiny (R122). -/
def isTiny (g : Grid) (rm : Rm) (neg : Bool) (m : Nat) (e : Int) : Bool :=
  let (k, q, _) := roundPrec rm neg g.prec m e
  decide (m ≠ 0) && decide (cmpMag k q 1 g.emin = .lt)

/-- Assemble a bit pattern from sign, magnitude as a multiple of 2^q with q at least qmin, and field widths. -/
def packBits (g : Grid) (ebits fbits : Nat) (neg : Bool) (k : Nat) (q : Int) : Nat :=
  let s := b2n neg * 2 ^ (ebits + fbits)
  if k = 0 then s
  else
    let E := ilog k q
    if E < g.emin then s + k * 2 ^ (q - g.qmin).toNat
    else
      let frac := if (fbits : Int) + (q - E) ≥ 0 then k * 2 ^ (fbits + (q - E)).toNat else k / 2 ^ (-(fbits + (q - E))).toNat
      s + ((E - g.emin).toNat + 1) * 2 ^ fbits + frac % 2 ^ fbits

/-- Field widths of a scalar format: exponent bits, fraction bits. -/
def fieldBits (fmt : Nat) : Nat × Nat :=
  match fmt with
  | 0 => (8, 23)
  | 1 => (11, 52)
  | 2 => (7, 8)
  | 3 => (4, 3)
  | 5 => (4, 3)
  | 6 => (5, 2)
  | _ => (8, 23)

/-- Canonical NaN (R123). -/
def canonNan (fmt : Nat) : Nat :=
  match fmt with
  | 0 => 0x7FC00000
  | 1 => 0x7FF8000000000000
  | 2 => 0x7FC0
  | 5 => 0x7F
  | 6 => 0x7E
  | _ => 0

/-- Infinity of a sign. -/
def infBits (fmt : Nat) (neg : Bool) : Nat :=
  let (eb, fb) := fieldBits fmt
  b2n neg * 2 ^ (eb + fb) + (2 ^ eb - 1) * 2 ^ fb

/-- The largest finite of a format with a sign (R129, R194). -/
def maxBits (fmt : Nat) (neg : Bool) : Nat :=
  let g := gridOf fmt
  let (eb, fb) := fieldBits fmt
  packBits g eb fb neg g.maxM g.maxE

/-- Zero of a sign. -/
def zeroBits (fmt : Nat) (neg : Bool) : Nat := let (eb, fb) := fieldBits fmt; b2n neg * 2 ^ (eb + fb)

/-- Encode a value into a scalar format with one rounding (R129 to R131): bits and flags. `flush` is the unit's flush mode bit
(R122); `sat` writes the largest finite value where a finite value overflows, with SATURATED (R194). -/
def encodeWith (fmt : Nat) (rm : Rm) (flush sat : Bool) (n : Num) : Nat × Nat :=
  let g := gridOf fmt
  let (eb, fb) := fieldBits fmt
  match n with
  | .nan => (canonNan fmt, 0)
  | .inf neg => if g.hasInf then (infBits fmt neg, 0) else (canonNan fmt, fINVALID)
  | .fin neg m e =>
    if m = 0 then (zeroBits fmt neg, 0)
    else if overflows g rm neg m e then
      if sat then (maxBits fmt neg, fOVERFLOW ||| fINEXACT ||| fSATURATED)
      else if !g.hasInf then (maxBits fmt neg, fOVERFLOW ||| fINEXACT)
      else
        let toMax := match rm with
          | .rne => false
          | .rtz => true
          | .rup => neg
          | .rdn => !neg
        (if toMax then maxBits fmt neg else infBits fmt neg, fOVERFLOW ||| fINEXACT)
    else
      let tiny := isTiny g rm neg m e
      if tiny && flush then (zeroBits fmt neg, fFLUSHOUT ||| fUNDERFLOW ||| fINEXACT)
      else
        let q := max (ilog m e - g.prec + 1) g.qmin
        let (k, exact) := roundAt rm neg m e q
        (packBits g eb fb neg k q, if exact then 0 else if tiny then fINEXACT ||| fUNDERFLOW else fINEXACT)

/-- Encode by R129, to nearest. -/
def encode (fmt : Nat) (flush : Bool) (n : Num) : Nat × Nat := encodeWith fmt .rne flush false n

/-! Decoding (R127). -/

/-- A decoded element: its value, whether it is a subnormal (or a GB8 element with e = 0 and f ≠ 0, R122), whether it is a binary
signalling NaN (R124). -/
structure Decoded where
  num : Num
  sub : Bool
  snan : Bool
deriving DecidableEq, Repr

/-- Decode the bits of an element with its block's scale byte (R127); the scale is 127 for an unscaled format. -/
def decodeBits (fmt scale bits : Nat) : Decoded :=
  let sc : Int := (scale : Int) - 127
  if fmt = 4 then
    if scale = 255 then ⟨.nan, false, false⟩
    else
      let neg := bitOf bits 7
      let k := ofTwos 7 (bits % 128)
      if k = -64 then ⟨.zero neg, false, false⟩
      else ⟨.fin neg (logTable.getD (k % 16).toNat 0) (k / 16 - 23 + sc), false, false⟩
  else if fmt = 3 && decide (scale = 255) then ⟨.nan, false, false⟩
  else
    let g := gridOf fmt
    let (eb, fb) := fieldBits fmt
    let neg := bitOf bits (eb + fb)
    let e := bitsOf bits fb eb
    let f := bits % 2 ^ fb
    let x : Int := if fmt = 3 then sc else 0
    if fmt = 5 && decide (bits % 128 = 127) then ⟨.nan, false, false⟩
    else if e = 2 ^ eb - 1 && g.hasInf then
      if f = 0 then ⟨.inf neg, false, false⟩
      else ⟨.nan, false, (decide (fmt = 0) || decide (fmt = 1)) && !bitOf f (fb - 1)⟩
    else if e = 0 then
      if f = 0 then ⟨.zero neg, false, false⟩ else ⟨.fin neg f (g.qmin + x), true, false⟩
    else ⟨.fin neg (2 ^ fb + f) (g.qmin + e - 1 + x), false, false⟩

/-- Read an element in a unit with a flush mode bit (R122, R124): value and flags. -/
def readFlush (flush : Bool) (d : Decoded) : Num × Nat :=
  if d.snan then (.nan, fINVALID)
  else if flush && d.sub then (.zero d.num.neg, fFLUSHIN)
  else (d.num, 0)

/-! Block encoders (R132 to R134, R182 to R185). -/

/-- The linear value of a GL8 code as an integer multiple of 2^-27, zero for k = -64 (R113). -/
def gl8Lin (k : Int) : Nat :=
  if k ≤ -64 then 0 else logTable.getD (k % 16).toNat 0 * 2 ^ (k / 16 + 4).toNat

/-- A magnitude overflows a GL8 element: at least the midpoint of the value of k = 63 and 16 (R132). -/
def gl8Overflows (m : Nat) (e : Int) : Bool := decide (cmpMag m e (gl8Lin 63 + 16 * 2 ^ 27) (-28) ≠ .lt)

/-- The largest code whose value is at most m × 2^e, from a candidate downwards. -/
def gl8Floor (m : Nat) (e : Int) : Nat → Int → Int
  | 0, _ => -64
  | fuel + 1, k => if cmpMag (gl8Lin k) (-27) m e ≠ .gt then k else gl8Floor m e fuel (k - 1)

/-- The code nearest to a magnitude that does not overflow, ties to the even k (R132). -/
def gl8Code (m : Nat) (e : Int) : Int :=
  let start := min 63 (16 * ilog m e + 15)
  let k := if start < -64 then -64 else gl8Floor m e 128 start
  if k = 63 then 63
  else
    -- compare 2 v with lin k + lin (k+1)
    match cmpMag (2 * m) e (gl8Lin k + gl8Lin (k + 1)) (-27) with
    | .lt => k
    | .gt => k + 1
    | .eq => if k % 2 = 0 then k else k + 1

/-- A magnitude overflows the element format of a block format at scale 2^0. -/
def elemOverflows (fmt m : Nat) (e : Int) : Bool :=
  if fmt = 4 then gl8Overflows m e else overflows (gridOf 3) .rne false m e

/-- The larger of two magnitudes. -/
def maxMag (a b : Nat × Int) : Nat × Int := if cmpMag a.1 a.2 b.1 b.2 = .lt then b else a

/-- The largest magnitude of a block, before rounding and flush (R133, R185). -/
def blockMax (vs : List Num) : Nat × Int :=
  vs.foldl (fun a v => match v with
    | .fin _ m e => maxMag a (m, e)
    | _ => a) (0, 0)

/-- choose_scale (R133): the scale byte, and whether elements saturate. -/
def chooseScale (fmt : Nat) (vs : List Num) : Nat × Bool :=
  if vs.any (fun v => v.isNan || v.isInf) then (255, false)
  else
    let (m, e) := blockMax vs
    if m = 0 then (0, false)
    else match (List.range 255).find? (fun s : Nat => !elemOverflows fmt m (e - ((s : Int) - 127))) with
      | some s => (s, false)
      | none => (254, true)

/-- One element of a block at its scale (R129, R131, R132, R134): bits and flags. -/
def encodeElem (fmt : Nat) (flush : Bool) (s : Nat) (v : Num) : Nat × Nat :=
  match v with
  | .fin neg m e =>
    let e' := e - ((s : Int) - 127)
    if fmt = 4 then
      if m = 0 then (b2n neg * 128 + 64, 0)
      else if gl8Overflows m e' then (b2n neg * 128 + 63, fOVERFLOW ||| fINEXACT ||| fSATURATED)
      else
        let k := gl8Code m e'
        (b2n neg * 128 + toTwos 7 k, if cmpMag (gl8Lin k) (-27) m e' = .eq then 0 else fINEXACT)
    else encodeWith 3 .rne flush true (.fin neg m e')
  | _ => (0, 0)

/-- Encode a block (R133, R134, R111): scale byte, elements, flags. -/
def encodeBlock (fmt : Nat) (flush : Bool) (vs : List Num) : Nat × List Nat × Nat :=
  let (s, _) := chooseScale fmt vs
  if s = 255 then (255, vs.map (fun _ => 0), if vs.any (fun v => v.isInf) then fINVALID else 0)
  else
    let es := vs.map (encodeElem fmt flush s)
    (s, es.map (fun p => p.1), es.foldl (fun a p => a ||| p.2) 0)

/-! Exact arithmetic. -/

/-- The integer value of a finite number as a multiple of 2^q, q at most its exponent. -/
def Num.toInt (q : Int) : Num → Int
  | .fin neg m e => if neg then -((m * 2 ^ (e - q).toNat : Nat) : Int) else (m * 2 ^ (e - q).toNat : Nat)
  | _ => 0

/-- Exponent of a finite number. -/
def Num.expo : Num → Int
  | .fin _ m e => if m = 0 then 0 else e
  | _ => 0

/-- A number from an integer multiple of 2^q; a zero gets the sign `z`. -/
def Num.ofInt (z : Bool) (i q : Int) : Num := if i = 0 then .fin z 0 0 else .fin (decide (i < 0)) i.natAbs q

/-- Exact sum of two finite numbers; a zero sum gets the sign `z` unless both addends are zeros of one sign. -/
def addFin (z : Bool) (a b : Num) : Num :=
  if a.isZero && b.isZero then .zero (if a.neg = b.neg then a.neg else z)
  else if a.isZero then b
  else if b.isZero then a
  else let q := min a.expo b.expo; Num.ofInt z (a.toInt q + b.toInt q) q

/-- Exact product of two finite numbers. -/
def mulFin : Num → Num → Num
  | .fin n m e, .fin n' m' e' => .fin (n != n') (m * m') (e + e')
  | _, _ => .nan

/-- Order of two finite or infinite numbers, zeros of either sign equal. -/
def cmpNum (a b : Num) : Ordering :=
  let key (x : Num) : Int := match x with
    | .inf neg => if neg then -1 else 1
    | _ => 0
  if a.isInf || b.isInf then compare (key a) (key b)
  else let q := min a.expo b.expo; compare (a.toInt q) (b.toInt q)

/-- Scale a number by 2^k. -/
def scaleNum (k : Int) : Num → Num
  | .fin neg m e => .fin neg m (e + k)
  | x => x

end Sys2Proof.Machine
end

