-- ==== Sys2Proof/Config.lean ====
section
/-! DEFINITION. What the part fixes and the spec does not state: per-device secrets, random sources and free values. None of
these has a body, so no statement can rest on a number chosen here. -/

namespace Sys2Proof.Config

/-- The root secret, programmed at manufacture (R677). Log 30, safe. -/
opaque rootSecret : List (BitVec 8)

/-- The Ed25519 public key of a seed (RFC 8032), as R678 names it. Log 31, safe. -/
opaque ed25519Public : List (BitVec 8) → List (BitVec 8)

/-- The n-th byte string drawn from the keyhole's random source (R679): n is State.freeIdx. Free value, log 4, safe. -/
opaque random : Nat → Nat → List (BitVec 8)

/-- A free value: the n-th value that the spec leaves open, as a number; n is State.freeIdx. Log 4, safe. -/
opaque freeValue : Nat → Nat

/-- Ed25519 of RFC 8032, as R679 names it: a signature by a 32-byte seed over a message. Log 31, safe. -/
opaque ed25519Sign : List (BitVec 8) → List (BitVec 8) → List (BitVec 8)

/-- Ed25519 verification: public key, message, signature. Log 31, safe. -/
opaque ed25519Verify : List (BitVec 8) → List (BitVec 8) → List (BitVec 8) → Bool

/-- SHA-512 of the vendor firmware keys 0 to 3, as the boot ROM holds them (R677). Log 32, safe. -/
opaque vendorKeyHash : Nat → List (BitVec 8)

/-- Whether a certificate chain leads to the manufacturer's root and which identity key it certifies (R490, R692). Log 32, safe. -/
opaque certCheck : List (BitVec 8) → List (BitVec 8) → Bool

/-- The vendor cartridge key in the boot ROM (R677). Log 32, safe. -/
opaque cartridgeKey : List (BitVec 8)

/-- Whether 32 bytes are a valid Ed25519 public key by RFC 8032 (R689). Log 31, safe. -/
opaque ed25519KeyValid : List (BitVec 8) → Bool

/-- What stands for the current row where no row is valid, in the LIFECYCLE record and the record of a transition (R684, R691); the
spec states none. Free value, log 34, safe. -/
opaque noRow : Nat

/-- SHA-512 of the boot ROM (R684). Log 32, safe. -/
opaque romDigest : List (BitVec 8)

/-- The device's own certificate chain (R692). Log 32, safe. -/
opaque certChain : List (BitVec 8)

/-- The subsystem ID that a board configuration gives; the spec does not lay the component out (R607, R680). Log 33, safe. -/
opaque subsystemId : List (BitVec 8) → Nat

/-- A layout that another standard gives: the byte string of a DOE, CDAT or SPDM response whose layout the spec leaves to that
standard, from a tag and the response's content. Log 33, safe. -/
opaque otherStandard : Nat → List (BitVec 8) → List (BitVec 8)

/-- A DVQ codebook trained on no vector at all, since every block of its window is emitted RAW (R390 states none): 4,096 bytes.
Free value, log 35, safe. -/
opaque emptyCodebook : List (BitVec 8)

/-- The bytes that a MEMBER packet's signature covers, from its sender and content; the spec gives no layout (R491). Log 36, safe. -/
opaque memberMessage : Nat → MemberBody → List (BitVec 8)

/-- The bytes that the signature over a nonce and two nodes covers (R491). Log 36, safe. -/
opaque nonceMessage : List (BitVec 8) → Nat → Nat → List (BitVec 8)

end Sys2Proof.Config
end

