-- ==== Sys2Proof/Machine/Keys.lean ====
section
/-! DEFINITION. The keys that the keyhole derives from the root secret (R678). -/

namespace Sys2Proof.Machine

/-- The identity seed: bytes 0 to 31 of SHA-512 over the root secret and the seven bytes of GW16-ID. -/
def identitySeed : List Byte := (sha512 (Config.rootSecret ++ [0x47#8, 0x57#8, 0x31#8, 0x36#8, 0x2D#8, 0x49#8, 0x44#8])).take 32

/-- The identity public key, as bytes and as the number that KEY.IDKEY shows (R699). -/
def identityPublic : List Byte := Config.ed25519Public identitySeed
def identityKey : Nat := leNat (identityPublic.take 32)

/-- The serial number: bytes 0 to 7 of SHA-512 over the identity public key. -/
def deviceSerial : Nat := leNat ((sha512 identityPublic).take 8)

/-- The storage key of a life-cycle row: bytes 0 to 31 of SHA-512 over the root secret, the seven bytes of GW16-ST and the row. -/
def storageKeyOf (row : Nat) : List Byte :=
  (sha512 (Config.rootSecret ++ [0x47#8, 0x57#8, 0x31#8, 0x36#8, 0x2D#8, 0x53#8, 0x54#8] ++ leBytes 2 row)).take 32

end Sys2Proof.Machine
end

