-- ==== Sys2Proof/Machine/Units.lean ====
section
/-! DEFINITION. The fixed structure of the device: unit numbers, regions, neighbours, arbiter instances and where each
register block lies. -/

namespace Sys2Proof.Machine

/-- Kind code of a region (R69). -/
def regionKind (n : Nat) : Nat :=
  if n < 64 then n % 2
  else if n < 68 then 2
  else if n < 72 then 3
  else if n < 96 then
    match (n - 72) % 6 with
    | 0 => 4
    | 1 => 4
    | 2 => 5
    | 3 => 6
    | 4 => 7
    | _ => 8
  else n - 96 + 9

/-- Whether a region holds clocked interface logic (R69, R70). -/
def regionClocked (n : Nat) : Bool :=
  let k := regionKind n
  k = 4 || k = 5 || k = 6 || k = 8 || k = 9 || k = 11

/-- Whether a hinge joins two regions, lower number first (R80). -/
def hingeJoins (a b : Nat) : Bool :=
  (a < 64 && a % 2 = 0 && b = a + 1)
  || (a < 64 && a % 2 = 1 && b = 64 + a / 2 / 8)
  || (a < 64 && a % 2 = 1 && b = 68 + a / 2 / 8)
  || (64 ≤ a && a < 68 && 68 ≤ b && b < 72 && (b - 68 = a - 64 || b - 68 = (a - 64 + 1) % 4 || b - 68 = (a - 64 + 3) % 4))
  || (68 ≤ a && a < 72 && 68 ≤ b && b < 72 && a < b && (b - 68 = (a - 68 + 1) % 4 || a - 68 = (b - 68 + 1) % 4))
  || (68 ≤ a && a < 72 && b = 77 + 6 * (a - 68))
  || (72 ≤ a && a < 96 && (a - 72) % 6 < 5 && b = a - (a - 72) % 6 + 5)
  || (a = 77 && 96 ≤ b && b < 100)

/-- Two regions are neighbours when a hinge joins them (R80). -/
def neighbours (a b : Nat) : Bool := hingeJoins a b || hingeJoins b a

/-- The clocked island of a region as an end of a hinge: the numbers from 100 on name the islands (R70). -/
def islandOf (n : Nat) : Nat := 100 + n

/-- The region that an end of a hinge is, or lies in (R70). -/
def endRegion (x : Nat) : Nat := if x < 100 then x else x - 100

/-- A hinge joins two ends: two neighbours, or a region and its own clocked island (R70, R80). -/
def hingeHere (a b : Nat) : Bool :=
  neighbours a b || (a < 100 && b = islandOf a && regionClocked a) || (b < 100 && a = islandOf b && regionClocked b)

/-- The neighbours of a region in ascending region number (R103). -/
def neighbourList (n : Nat) : List Nat := (List.range 100).filter (neighbours n)

/-- The other ends of the hinges of a region (R70, R80). -/
def hingeEnds (n : Nat) : List Nat := neighbourList n ++ (if regionClocked n then [islandOf n] else [])

/-! The path of a transfer, a function of its endpoints alone (R35, R37, R40). -/

/-- The quadrant that traffic between opposite quadrants passes (R35). -/
def viaQuadrant (q : Nat) : Nat := if q % 2 = 0 then (q + 1) % 4 else (q + 3) % 4

/-- The quadrants from `p` to `q`, both ends included (R35). -/
def quadrantRoute (p q : Nat) : List Nat := if p = q then [p] else if (p + 2) % 4 = q then [p, viaQuadrant p, q] else [p, q]

/-- The quadrant of a region's cluster or edge (R31, R32). -/
def homeQuadrant (n : Nat) : Nat :=
  if n < 64 then n / 16 else if n < 68 then n - 64 else if n < 72 then n - 68 else if n < 96 then (n - 72) / 6 else 0

/-- The frame die of a region; none on the compute die (R32, R36). -/
def frameDie (n : Nat) : Option Nat := if n < 72 then none else some (homeQuadrant n)

/-- The regions from `n` to the mullion, the quadrant excluded: a core's mover, a frame die's fabric (R35, R36). -/
def towardMullion (n : Nat) : List Nat :=
  if n < 64 then (if n % 2 = 0 then [n, n + 1] else [n])
  else if n < 68 then [n]
  else if n < 72 then []
  else if n = 77 + 6 * homeQuadrant n then [n]
  else [n, 77 + 6 * homeQuadrant n]

/-- The quadrants of a route that a lintel at its end leaves out: it is entered from the first that is joined to it (R35, R40). -/
def cutForLintel (b : Nat) : List Nat → List Nat
  | [] => []
  | q :: t => if 64 ≤ b && b < 68 && neighbours b (68 + q) then [q] else q :: cutForLintel b t

/-- The quadrants that traffic from region `a` to region `b` passes. -/
def quadrantPath (a b : Nat) : List Nat :=
  (cutForLintel a (cutForLintel b (quadrantRoute (homeQuadrant a) (homeQuadrant b))).reverse).reverse

/-- The regions that traffic from `a` to `b` passes, both included: within a core, from a core's mover to its own lintel, and on a
frame die's fabric directly; else over the mullion (R33, R35, R37, R40). -/
def regionPath (a b : Nat) : List Nat :=
  if a = b then [a]
  else if neighbours a b then [a, b]
  else if (frameDie a).isSome && frameDie a = frameDie b then [a, 77 + 6 * homeQuadrant a, b]
  else if a < 64 && b = 64 + a / 16 then [a, a + 1, b]
  else if b < 64 && a = 64 + b / 16 then [a, b + 1, b]
  else towardMullion a ++ (quadrantPath a b).map (fun q => 68 + q) ++ (towardMullion b).reverse

/-- The hops of a path. -/
def hops : List Nat → List (Nat × Nat)
  | a :: b :: t => (a, b) :: hops (b :: t)
  | _ => []

/-- Region number in a neighbour slot, 0xFF for none (R103). -/
def neighbourSlot (n i : Nat) : Nat := (neighbourList n).getD i 0xFF

/-- The slot of neighbour `m` of region `n` (R84, R103). -/
def slotOfNeighbour (n m : Nat) : Nat := (neighbourList n).findIdx (fun x => decide (x = m))

/-- Kind of an arbiter instance; none for an unused number (R633). -/
def arbKind (i : Nat) : Option Nat :=
  if i < 64 then some 0
  else if i < 120 then some 1
  else if i < 128 then none
  else if i < 640 then some 2
  else if i < 672 then some 3
  else if i < 688 then some 4
  else if i < 720 then some 5
  else if i < 724 then some 6
  else if i < 756 then some 7
  else none

/-- Region of an arbiter instance (R633). -/
def arbRegion (i : Nat) : Nat :=
  match arbKind i with
  | some 0 => 64 + i / 16
  | some 1 => 68 + (i - 64) / 14
  | some 2 => let s := (i - 128) / 32; if s % 4 < 2 then 72 + 6 * (s / 4) else 73 + 6 * (s / 4)
  | some 3 => 74 + 6 * ((i - 640) / 2 / 4)
  | some 4 => 75 + 6 * ((i - 672) / 4)
  | some 5 => 98
  | some 6 => 77 + 6 * (i - 720)
  | some 7 => 2 * (i - 724) + 1
  | _ => 0

/-- Requesters of an arbiter instance (R633). -/
def arbReqs (i : Nat) : Nat :=
  match arbKind i with
  | some 0 => 12
  | some 1 => 14
  | some 2 => 8
  | some 3 => 8
  | some 4 => 3
  | some 5 => 3
  | some 6 => 7
  | some 7 => 1
  | _ => 0

/-- Reset input number of a requester (R634). -/
def arbResetInput (i r : Nat) : Nat :=
  match arbKind i with
  | some 4 => if r = 0 then 15 else if r = 1 then 1 else 0
  | _ => r

/-- Sum of a function over 0 to n - 1. -/
def sumUpTo (f : Nat → Nat) : Nat → Nat
  | 0 => 0
  | n + 1 => sumUpTo f n + f n

/-- Reset value of ARB.INPUTMAP (R644). -/
def arbResetMap (i : Nat) : Nat := sumUpTo (fun r => arbResetInput i r * 2 ^ (4 * r)) (arbReqs i)

/-- Reset value of ARB.WAITLIM0 and WAITLIM1 (R645): 16 for each requester the instance has. -/
def arbResetLims (i half : Nat) : Nat := sumUpTo (fun j => if 8 * half + j < arbReqs i then 16 * 2 ^ (8 * j) else 0) 8

/-- The lower half of a word of the identity key (R699). -/
def identityKeyWord (i : Nat) : Nat := identityKey / 2 ^ (32 * i) % 2 ^ 32

/-- Base of a frame die's blocks (R329). -/
def frmBase (k : Nat) : Nat := 0x01800000 + k * 0x100000

/-- Memory units: 0 to 15 stacks, 16 to 31 DRAM channels (R304, R329). -/
def muBase (u : Nat) : Nat :=
  if u < 16 then frmBase (u / 4) + u % 4 * 0x1000 else frmBase ((u - 16) / 4) + 0x10000 + (u - 16) % 4 * 0x1000

/-- Doorway page (R505). -/
def dwBase (w : Nat) : Nat := frmBase (w / 4) + 0x20000 + w % 4 * 0x1000

/-- Compression engine page (R413). -/
def ceBase (e : Nat) : Nat := frmBase (e / 4) + 0x40000 + e % 4 * 0x1000

/-- Check unit page (R413). -/
def ckBase (u : Nat) : Nat := frmBase (u / 16) + 0x50000 + u % 16 * 0x1000

/-- The timing region of a memory unit (R69). -/
def muRegion (u : Nat) : Nat :=
  if u < 16 then (if u % 4 < 2 then 72 + 6 * (u / 4) else 73 + 6 * (u / 4)) else 74 + 6 * ((u - 16) / 4)

/-- The timing region of a doorway, a compression engine or a check unit (R69). -/
def dwRegion (w : Nat) : Nat := 75 + 6 * (w / 4)
def ceRegion (e : Nat) : Nat := 76 + 6 * (e / 4)
def ckRegion (u : Nat) : Nat := 76 + 6 * (u / 16)

end Sys2Proof.Machine
end

