-- ==== Sys2Proof/Machine/Fields.lean ====
section
/-! DEFINITION. Every field of every register of BAR0, by the register tables of the spec: its register's address, its lowest
bit, its width and its reset value. -/

namespace Sys2Proof.Machine

/-- A register field (R14, R15): address of its register in BAR0, lowest bit, width, reset value. -/
structure Fld where
  addr : Nat
  lo : Nat
  width : Nat
  reset : Nat
deriving DecidableEq, Repr

/-- The key of a field in the field map of the state. -/
def Fld.key (f : Fld) : Nat := f.addr * 64 + f.lo

/-- REG.ID (R94). -/
def REG.ID_CLOCKED (n : Nat) : Fld := ⟨(0x03000000 + n * 0x1000), 16, 1, b2n (regionClocked n)⟩
def REG.ID_KIND (n : Nat) : Fld := ⟨(0x03000000 + n * 0x1000), 8, 8, regionKind n⟩
def REG.ID_NUM (n : Nat) : Fld := ⟨(0x03000000 + n * 0x1000), 0, 8, n⟩
/-- REG.LIC (R95). -/
def REG.LIC_COUNT (n : Nat) : Fld := ⟨(0x03000000 + n * 0x1000) + 0x008, 0, 64, 0⟩
/-- REG.LICCTL (R96). -/
def REG.LICCTL_CALFAIL (n : Nat) : Fld := ⟨(0x03000000 + n * 0x1000) + 0x010, 2, 1, 0⟩
def REG.LICCTL_CALBUSY (n : Nat) : Fld := ⟨(0x03000000 + n * 0x1000) + 0x010, 1, 1, 0⟩
def REG.LICCTL_CAL (n : Nat) : Fld := ⟨(0x03000000 + n * 0x1000) + 0x010, 0, 1, 0⟩
/-- REG.LICSTEP (R97). -/
def REG.LICSTEP_STEP (n : Nat) : Fld := ⟨(0x03000000 + n * 0x1000) + 0x014, 0, 32, 0x10000⟩
/-- REG.LICCOUNT (R97). -/
def REG.LICCOUNT_COUNT (n : Nat) : Fld := ⟨(0x03000000 + n * 0x1000) + 0x018, 0, 32, 0⟩
/-- REG.VSET (R98). -/
def REG.VSET_VCODE (n : Nat) : Fld := ⟨(0x03000000 + n * 0x1000) + 0x020, 0, 6, 40⟩
/-- REG.VMEAS (R99). -/
def REG.VMEAS_MV (n : Nat) : Fld := ⟨(0x03000000 + n * 0x1000) + 0x024, 0, 16, 0⟩
/-- REG.TMEAS (R99). -/
def REG.TMEAS_TQ (n : Nat) : Fld := ⟨(0x03000000 + n * 0x1000) + 0x028, 0, 16, 0⟩
/-- REG.RATE (R99). -/
def REG.RATE_EVENTS (n : Nat) : Fld := ⟨(0x03000000 + n * 0x1000) + 0x02C, 0, 24, 0⟩
/-- REG.LOUVRE (R100). -/
def REG.LOUVRE_LVAL (n : Nat) : Fld := ⟨(0x03000000 + n * 0x1000) + 0x030, 0, 5, 16⟩
/-- REG.MONSTAT (R101). -/
def REG.MONSTAT_NSLOT (n : Nat) : Fld := ⟨(0x03000000 + n * 0x1000) + 0x034, 8, 4, 0⟩
def REG.MONSTAT_STALL (n : Nat) : Fld := ⟨(0x03000000 + n * 0x1000) + 0x034, 4, 1, 0⟩
def REG.MONSTAT_HARD (n : Nat) : Fld := ⟨(0x03000000 + n * 0x1000) + 0x034, 3, 1, 0⟩
def REG.MONSTAT_RATIO (n : Nat) : Fld := ⟨(0x03000000 + n * 0x1000) + 0x034, 2, 1, 0⟩
def REG.MONSTAT_TDIFF (n : Nat) : Fld := ⟨(0x03000000 + n * 0x1000) + 0x034, 1, 1, 0⟩
def REG.MONSTAT_VDIFF (n : Nat) : Fld := ⟨(0x03000000 + n * 0x1000) + 0x034, 0, 1, 0⟩
/-- REG.HSTALL (R102). -/
def REG.HSTALL_LIMIT (n : Nat) : Fld := ⟨(0x03000000 + n * 0x1000) + 0x038, 0, 32, 0x1000000⟩
/-- REG.SPEED (R739). -/
def REG.SPEED_HANDSHAKES (n : Nat) : Fld := ⟨(0x03000000 + n * 0x1000) + 0x03C, 0, 24, 0⟩
/-- REG.NBR (R103). -/
def REG.NBR_SLOT3 (n : Nat) (i : Nat) : Fld := ⟨(0x03000000 + n * 0x1000) + 0x040 + 4 * i, 24, 8, neighbourSlot n (4 * i + 3)⟩
def REG.NBR_SLOT2 (n : Nat) (i : Nat) : Fld := ⟨(0x03000000 + n * 0x1000) + 0x040 + 4 * i, 16, 8, neighbourSlot n (4 * i + 2)⟩
def REG.NBR_SLOT1 (n : Nat) (i : Nat) : Fld := ⟨(0x03000000 + n * 0x1000) + 0x040 + 4 * i, 8, 8, neighbourSlot n (4 * i + 1)⟩
def REG.NBR_SLOT0 (n : Nat) (i : Nat) : Fld := ⟨(0x03000000 + n * 0x1000) + 0x040 + 4 * i, 0, 8, neighbourSlot n (4 * i)⟩
/-- REG.RSTCTL (R104). -/
def REG.RSTCTL_RESET (n : Nat) : Fld := ⟨(0x03000000 + n * 0x1000) + 0x050, 0, 1, 0⟩
/-- CORE.MXID (R175). -/
def CORE.MXID_VER (n : Nat) : Fld := ⟨(0x01000000 + n * 0x10000), 24, 8, 0⟩
def CORE.MXID_COLS (n : Nat) : Fld := ⟨(0x01000000 + n * 0x10000), 16, 8, 0x20⟩
def CORE.MXID_ROWS (n : Nat) : Fld := ⟨(0x01000000 + n * 0x10000), 8, 8, 0x20⟩
def CORE.MXID_DOTLEN (n : Nat) : Fld := ⟨(0x01000000 + n * 0x10000), 0, 8, 0x20⟩
/-- CORE.MXCTL (R176). -/
def CORE.MXCTL_CNTCLR (n : Nat) : Fld := ⟨(0x01000000 + n * 0x10000) + 0x004, 1, 1, 0⟩
def CORE.MXCTL_CNTEN (n : Nat) : Fld := ⟨(0x01000000 + n * 0x10000) + 0x004, 0, 1, 1⟩
/-- CORE.MXSTAT (R177). -/
def CORE.MXSTAT_PASS (n : Nat) : Fld := ⟨(0x01000000 + n * 0x10000) + 0x008, 6, 2, 0⟩
def CORE.MXSTAT_PATH (n : Nat) : Fld := ⟨(0x01000000 + n * 0x10000) + 0x008, 5, 1, 0⟩
def CORE.MXSTAT_TRWAIT (n : Nat) : Fld := ⟨(0x01000000 + n * 0x10000) + 0x008, 4, 1, 0⟩
def CORE.MXSTAT_OPWAIT (n : Nat) : Fld := ⟨(0x01000000 + n * 0x10000) + 0x008, 3, 1, 0⟩
def CORE.MXSTAT_BUSY (n : Nat) : Fld := ⟨(0x01000000 + n * 0x10000) + 0x008, 0, 1, 0⟩
/-- CORE.MXFLAGS (R178). -/
def CORE.MXFLAGS_POISON (n : Nat) : Fld := ⟨(0x01000000 + n * 0x10000) + 0x00C, 17, 1, 0⟩
def CORE.MXFLAGS_RANGE (n : Nat) : Fld := ⟨(0x01000000 + n * 0x10000) + 0x00C, 16, 1, 0⟩
def CORE.MXFLAGS_SATURATED (n : Nat) : Fld := ⟨(0x01000000 + n * 0x10000) + 0x00C, 7, 1, 0⟩
def CORE.MXFLAGS_FLUSH_OUT (n : Nat) : Fld := ⟨(0x01000000 + n * 0x10000) + 0x00C, 6, 1, 0⟩
def CORE.MXFLAGS_FLUSH_IN (n : Nat) : Fld := ⟨(0x01000000 + n * 0x10000) + 0x00C, 5, 1, 0⟩
def CORE.MXFLAGS_INEXACT (n : Nat) : Fld := ⟨(0x01000000 + n * 0x10000) + 0x00C, 4, 1, 0⟩
def CORE.MXFLAGS_UNDERFLOW (n : Nat) : Fld := ⟨(0x01000000 + n * 0x10000) + 0x00C, 3, 1, 0⟩
def CORE.MXFLAGS_OVERFLOW (n : Nat) : Fld := ⟨(0x01000000 + n * 0x10000) + 0x00C, 2, 1, 0⟩
def CORE.MXFLAGS_DIVIDE_BY_ZERO (n : Nat) : Fld := ⟨(0x01000000 + n * 0x10000) + 0x00C, 1, 1, 0⟩
def CORE.MXFLAGS_INVALID (n : Nat) : Fld := ⟨(0x01000000 + n * 0x10000) + 0x00C, 0, 1, 0⟩
/-- CORE.MXBEATS (R179). -/
def CORE.MXBEATS_COUNT (n : Nat) : Fld := ⟨(0x01000000 + n * 0x10000) + 0x010, 0, 64, 0⟩
/-- CORE.MXTILES (R179). -/
def CORE.MXTILES_COUNT (n : Nat) : Fld := ⟨(0x01000000 + n * 0x10000) + 0x018, 0, 64, 0⟩
/-- CORE.MXPASSES (R179). -/
def CORE.MXPASSES_COUNT (n : Nat) : Fld := ⟨(0x01000000 + n * 0x10000) + 0x020, 0, 64, 0⟩
/-- CORE.MXRANGE (R180). -/
def CORE.MXRANGE_COUNT (n : Nat) : Fld := ⟨(0x01000000 + n * 0x10000) + 0x028, 0, 32, 0⟩
/-- CORE.MXLAST (R181). -/
def CORE.MXLAST_SRC (n : Nat) : Fld := ⟨(0x01000000 + n * 0x10000) + 0x02C, 18, 2, 0⟩
def CORE.MXLAST_PASS (n : Nat) : Fld := ⟨(0x01000000 + n * 0x10000) + 0x02C, 16, 2, 0⟩
def CORE.MXLAST_TILE (n : Nat) : Fld := ⟨(0x01000000 + n * 0x10000) + 0x02C, 0, 16, 0⟩
/-- CORE.VXID (R245). -/
def CORE.VXID_VER (n : Nat) : Fld := ⟨(0x01000000 + n * 0x10000) + 0x1000, 24, 8, 0⟩
def CORE.VXID_TLANES (n : Nat) : Fld := ⟨(0x01000000 + n * 0x10000) + 0x1000, 16, 8, 0x20⟩
def CORE.VXID_D64LANES (n : Nat) : Fld := ⟨(0x01000000 + n * 0x10000) + 0x1000, 8, 8, 0x40⟩
def CORE.VXID_S32LANES (n : Nat) : Fld := ⟨(0x01000000 + n * 0x10000) + 0x1000, 0, 8, 0x80⟩
/-- CORE.VXCTL (R246). -/
def CORE.VXCTL_CNTCLR (n : Nat) : Fld := ⟨(0x01000000 + n * 0x10000) + 0x1004, 1, 1, 0⟩
def CORE.VXCTL_CNTEN (n : Nat) : Fld := ⟨(0x01000000 + n * 0x10000) + 0x1004, 0, 1, 1⟩
/-- CORE.VXSTAT (R247). -/
def CORE.VXSTAT_SEAMWAIT (n : Nat) : Fld := ⟨(0x01000000 + n * 0x10000) + 0x1008, 7, 1, 0⟩
def CORE.VXSTAT_TRWAIT (n : Nat) : Fld := ⟨(0x01000000 + n * 0x10000) + 0x1008, 6, 1, 0⟩
def CORE.VXSTAT_OPWAIT (n : Nat) : Fld := ⟨(0x01000000 + n * 0x10000) + 0x1008, 5, 1, 0⟩
def CORE.VXSTAT_WIDE (n : Nat) : Fld := ⟨(0x01000000 + n * 0x10000) + 0x1008, 4, 1, 0⟩
def CORE.VXSTAT_BUSY (n : Nat) : Fld := ⟨(0x01000000 + n * 0x10000) + 0x1008, 0, 1, 0⟩
/-- CORE.VXFLAGS (R248). -/
def CORE.VXFLAGS_POISON (n : Nat) : Fld := ⟨(0x01000000 + n * 0x10000) + 0x100C, 17, 1, 0⟩
def CORE.VXFLAGS_SATURATED (n : Nat) : Fld := ⟨(0x01000000 + n * 0x10000) + 0x100C, 7, 1, 0⟩
def CORE.VXFLAGS_FLUSH_OUT (n : Nat) : Fld := ⟨(0x01000000 + n * 0x10000) + 0x100C, 6, 1, 0⟩
def CORE.VXFLAGS_FLUSH_IN (n : Nat) : Fld := ⟨(0x01000000 + n * 0x10000) + 0x100C, 5, 1, 0⟩
def CORE.VXFLAGS_INEXACT (n : Nat) : Fld := ⟨(0x01000000 + n * 0x10000) + 0x100C, 4, 1, 0⟩
def CORE.VXFLAGS_UNDERFLOW (n : Nat) : Fld := ⟨(0x01000000 + n * 0x10000) + 0x100C, 3, 1, 0⟩
def CORE.VXFLAGS_OVERFLOW (n : Nat) : Fld := ⟨(0x01000000 + n * 0x10000) + 0x100C, 2, 1, 0⟩
def CORE.VXFLAGS_DIVIDE_BY_ZERO (n : Nat) : Fld := ⟨(0x01000000 + n * 0x10000) + 0x100C, 1, 1, 0⟩
def CORE.VXFLAGS_INVALID (n : Nat) : Fld := ⟨(0x01000000 + n * 0x10000) + 0x100C, 0, 1, 0⟩
/-- CORE.VXELEMS (R249). -/
def CORE.VXELEMS_COUNT (n : Nat) : Fld := ⟨(0x01000000 + n * 0x10000) + 0x1010, 0, 64, 0⟩
/-- CORE.VXTRANS (R249). -/
def CORE.VXTRANS_COUNT (n : Nat) : Fld := ⟨(0x01000000 + n * 0x10000) + 0x1018, 0, 64, 0⟩
/-- CORE.VXTRTILES (R249). -/
def CORE.VXTRTILES_COUNT (n : Nat) : Fld := ⟨(0x01000000 + n * 0x10000) + 0x1020, 0, 64, 0⟩
/-- CORE.TRSTAT (R250). -/
def CORE.TRSTAT_PEAK (n : Nat) : Fld := ⟨(0x01000000 + n * 0x10000) + 0x1030, 24, 5, 0⟩
def CORE.TRSTAT_FILL (n : Nat) : Fld := ⟨(0x01000000 + n * 0x10000) + 0x1030, 16, 5, 0⟩
def CORE.TRSTAT_NEXT (n : Nat) : Fld := ⟨(0x01000000 + n * 0x10000) + 0x1030, 0, 16, 0⟩
/-- CORE.SEQSTAT (R603). -/
def CORE.SEQSTAT_HELD (n : Nat) : Fld := ⟨(0x01000000 + n * 0x10000) + 0x2000, 0, 8, 0⟩
/-- CORE.SEQPARTS (R603). -/
def CORE.SEQPARTS_COUNT (n : Nat) : Fld := ⟨(0x01000000 + n * 0x10000) + 0x2008, 0, 64, 0⟩
/-- TIER.CTRL (R291). -/
def TIER.CTRL_REPLACE : Fld := ⟨0x00800000, 0, 1, 0⟩
/-- TIER.STAT (R292). -/
def TIER.STAT_BUSY : Fld := ⟨0x00800000 + 0x004, 31, 1, 0⟩
def TIER.STAT_PERR : Fld := ⟨0x00800000 + 0x004, 16, 8, 0⟩
def TIER.STAT_NOHOME : Fld := ⟨0x00800000 + 0x004, 0, 16, 0⟩
/-- TIER.PLGEN (R293). -/
def TIER.PLGEN_GEN : Fld := ⟨0x00800000 + 0x008, 0, 32, 0⟩
/-- TIER.CAP (R294). -/
def TIER.CAP_SLOTS (i : Nat) : Fld := ⟨0x00800000 + 0x010 + 4 * i, 0, 32, 0⟩
/-- TIER.FREE (R294). -/
def TIER.FREE_SLOTS (i : Nat) : Fld := ⟨0x00800000 + 0x020 + 4 * i, 0, 32, 0⟩
/-- TIER.QSEL (R295). -/
def TIER.QSEL_TENANT : Fld := ⟨0x00800000 + 0x040, 0, 6, 0⟩
/-- TIER.QUOTA (R296). -/
def TIER.QUOTA_PANES (i : Nat) : Fld := ⟨0x00800000 + 0x044 + 4 * i, 0, 32, 0⟩
/-- TIER.USED (R296). -/
def TIER.USED_PANES (i : Nat) : Fld := ⟨0x00800000 + 0x050 + 4 * i, 0, 32, 0⟩
/-- TIER.QLAST (R297). -/
def TIER.QLAST_VALID : Fld := ⟨0x00800000 + 0x060, 31, 1, 0⟩
def TIER.QLAST_FULL : Fld := ⟨0x00800000 + 0x060, 14, 1, 0⟩
def TIER.QLAST_TIER : Fld := ⟨0x00800000 + 0x060, 12, 2, 0⟩
def TIER.QLAST_CASE : Fld := ⟨0x00800000 + 0x060, 0, 10, 0⟩
/-- TIER.MQHANDLE (R298). -/
def TIER.MQHANDLE_HANDLE : Fld := ⟨0x00800000 + 0x080, 0, 32, 0⟩
/-- TIER.MQPANE (R298). -/
def TIER.MQPANE_PANE : Fld := ⟨0x00800000 + 0x084, 0, 32, 0⟩
/-- TIER.MQCMD (R299). -/
def TIER.MQCMD_ERR : Fld := ⟨0x00800000 + 0x088, 4, 4, 0⟩
def TIER.MQCMD_OP : Fld := ⟨0x00800000 + 0x088, 1, 1, 0⟩
def TIER.MQCMD_GO : Fld := ⟨0x00800000 + 0x088, 0, 1, 0⟩
/-- TIER.MQDATA (R300). -/
def TIER.MQDATA_DATA (i : Nat) : Fld := ⟨0x00800000 + 0x400 + 4 * i, 0, 32, 0⟩
/-- TIER.RPCORE (R301). -/
def TIER.RPCORE_ASSIGNED (i : Nat) : Fld := ⟨0x00800000 + 0x800 + 4 * i, 31, 1, 0⟩
def TIER.RPCORE_MEMBER (i : Nat) : Fld := ⟨0x00800000 + 0x800 + 4 * i, 16, 5, 0⟩
def TIER.RPCORE_LEAF (i : Nat) : Fld := ⟨0x00800000 + 0x800 + 4 * i, 0, 10, 0⟩
/-- TIER.RPLINTEL (R302). -/
def TIER.RPLINTEL_UNASSIGNED (i : Nat) : Fld := ⟨0x00800000 + 0x880 + 4 * i, 16, 10, 0⟩
def TIER.RPLINTEL_LEAVES (i : Nat) : Fld := ⟨0x00800000 + 0x880 + 4 * i, 0, 4, 0⟩
/-- TIER.RPNODE (R303). -/
def TIER.RPNODE_REPLICA : Fld := ⟨0x00800000 + 0x8A0, 32, 16, 0⟩
def TIER.RPNODE_STAGE : Fld := ⟨0x00800000 + 0x8A0, 16, 16, 0⟩
def TIER.RPNODE_TRANK : Fld := ⟨0x00800000 + 0x8A0, 0, 16, 0⟩
/-- TIER.RPDEG (R303). -/
def TIER.RPDEG_REPLICA : Fld := ⟨0x00800000 + 0x8A8, 32, 16, 0⟩
def TIER.RPDEG_STAGE : Fld := ⟨0x00800000 + 0x8A8, 16, 16, 0⟩
def TIER.RPDEG_TRANK : Fld := ⟨0x00800000 + 0x8A8, 0, 16, 0⟩
/-- MU.MUID (R330). -/
def MU.MUID_VER (n : Nat) : Fld := ⟨muBase n, 24, 8, 0⟩
def MU.MUID_KIND (n : Nat) : Fld := ⟨muBase n, 16, 1, n / 16⟩
def MU.MUID_UNIT (n : Nat) : Fld := ⟨muBase n, 0, 4, n % 16⟩
/-- MU.MUSTAT (R331). -/
def MU.MUSTAT_FAIL (n : Nat) : Fld := ⟨muBase n + 0x004, 24, 8, 0⟩
def MU.MUSTAT_RATE (n : Nat) : Fld := ⟨muBase n + 0x004, 16, 8, 0⟩
def MU.MUSTAT_LANEREP (n : Nat) : Fld := ⟨muBase n + 0x004, 8, 8, 0⟩
def MU.MUSTAT_TSTATE (n : Nat) : Fld := ⟨muBase n + 0x004, 0, 3, 0⟩
/-- MU.MUCAP (R332). -/
def MU.MUCAP_GIB (n : Nat) : Fld := ⟨muBase n + 0x008, 0, 16, 0⟩
/-- MU.MUSLOTS (R332). -/
def MU.MUSLOTS_SLOTS (n : Nat) : Fld := ⟨muBase n + 0x00C, 0, 32, 0⟩
/-- MU.MUTEMP (R333). -/
def MU.MUTEMP_OVERT2 (n : Nat) : Fld := ⟨muBase n + 0x010, 31, 1, 0⟩
def MU.MUTEMP_ABOVET1 (n : Nat) : Fld := ⟨muBase n + 0x010, 30, 1, 0⟩
def MU.MUTEMP_REFX2 (n : Nat) : Fld := ⟨muBase n + 0x010, 29, 1, 0⟩
def MU.MUTEMP_LVAL (n : Nat) : Fld := ⟨muBase n + 0x010, 16, 5, 16⟩
def MU.MUTEMP_TCUR (n : Nat) : Fld := ⟨muBase n + 0x010, 0, 8, 0⟩
/-- MU.MUTHR (R334). -/
def MU.MUTHR_T2 (n : Nat) : Fld := ⟨muBase n + 0x014, 8, 8, 95⟩
def MU.MUTHR_T1 (n : Nat) : Fld := ⟨muBase n + 0x014, 0, 8, 85⟩
/-- MU.MUCECNT (R335). -/
def MU.MUCECNT_COUNT (n : Nat) : Fld := ⟨muBase n + 0x018, 0, 32, 0⟩
/-- MU.MUUECNT (R335). -/
def MU.MUUECNT_COUNT (n : Nat) : Fld := ⟨muBase n + 0x01C, 0, 32, 0⟩
/-- MU.MUCTL (R336). -/
def MU.MUCTL_CETHR (n : Nat) : Fld := ⟨muBase n + 0x020, 16, 4, 4⟩
def MU.MUCTL_SCRUBINT (n : Nat) : Fld := ⟨muBase n + 0x020, 8, 8, 64⟩
def MU.MUCTL_PPREN (n : Nat) : Fld := ⟨muBase n + 0x020, 2, 1, 1⟩
def MU.MUCTL_REMAPEN (n : Nat) : Fld := ⟨muBase n + 0x020, 1, 1, 1⟩
def MU.MUCTL_SCRUBEN (n : Nat) : Fld := ⟨muBase n + 0x020, 0, 1, 1⟩
/-- MU.MUREMAP (R337). -/
def MU.MUREMAP_FULL (n : Nat) : Fld := ⟨muBase n + 0x024, 31, 1, 0⟩
def MU.MUREMAP_LOGFAIL (n : Nat) : Fld := ⟨muBase n + 0x024, 30, 1, 0⟩
def MU.MUREMAP_USED (n : Nat) : Fld := ⟨muBase n + 0x024, 0, 15, 0⟩
/-- MU.MURMSEL (R338). -/
def MU.MURMSEL_CH (n : Nat) : Fld := ⟨muBase n + 0x028, 9, 5, 0⟩
def MU.MURMSEL_IDX (n : Nat) : Fld := ⟨muBase n + 0x028, 0, 9, 0⟩
/-- MU.MURMDATA (R339). -/
def MU.MURMDATA_VALID (n : Nat) : Fld := ⟨muBase n + 0x030, 63, 1, 0⟩
def MU.MURMDATA_CAUSE (n : Nat) : Fld := ⟨muBase n + 0x030, 61, 2, 0⟩
def MU.MURMDATA_PPRFAIL (n : Nat) : Fld := ⟨muBase n + 0x030, 60, 1, 0⟩
def MU.MURMDATA_SID (n : Nat) : Fld := ⟨muBase n + 0x030, 32, 4, 0⟩
def MU.MURMDATA_PC (n : Nat) : Fld := ⟨muBase n + 0x030, 31, 1, 0⟩
def MU.MURMDATA_BG (n : Nat) : Fld := ⟨muBase n + 0x030, 28, 3, 0⟩
def MU.MURMDATA_BANK (n : Nat) : Fld := ⟨muBase n + 0x030, 24, 4, 0⟩
def MU.MURMDATA_ROW (n : Nat) : Fld := ⟨muBase n + 0x030, 0, 24, 0⟩
/-- MU.MUERRLAST (R339). -/
def MU.MUERRLAST_VALID (n : Nat) : Fld := ⟨muBase n + 0x038, 63, 1, 0⟩
def MU.MUERRLAST_UNCORR (n : Nat) : Fld := ⟨muBase n + 0x038, 62, 1, 0⟩
def MU.MUERRLAST_SLOT (n : Nat) : Fld := ⟨muBase n + 0x038, 40, 22, 0⟩
def MU.MUERRLAST_SID (n : Nat) : Fld := ⟨muBase n + 0x038, 32, 4, 0⟩
def MU.MUERRLAST_PC (n : Nat) : Fld := ⟨muBase n + 0x038, 31, 1, 0⟩
def MU.MUERRLAST_BG (n : Nat) : Fld := ⟨muBase n + 0x038, 28, 3, 0⟩
def MU.MUERRLAST_BANK (n : Nat) : Fld := ⟨muBase n + 0x038, 24, 4, 0⟩
def MU.MUERRLAST_ROW (n : Nat) : Fld := ⟨muBase n + 0x038, 0, 24, 0⟩
/-- MU.MUZERO (R340). -/
def MU.MUZERO_DONE (n : Nat) : Fld := ⟨muBase n + 0x040, 31, 1, 0⟩
def MU.MUZERO_REMAIN (n : Nat) : Fld := ⟨muBase n + 0x040, 0, 31, 0⟩
/-- MU.MUREPAIR (R340). -/
def MU.MUREPAIR_FAILED (n : Nat) : Fld := ⟨muBase n + 0x044, 16, 16, 0⟩
def MU.MUREPAIR_DONE (n : Nat) : Fld := ⟨muBase n + 0x044, 0, 16, 0⟩
/-- CART.CPSTAT (R368). -/
def CART.CPSTAT_REASON (n : Nat) : Fld := ⟨(0x01C00000 + n * 0x1000), 24, 8, 0⟩
def CART.CPSTAT_SAFE (n : Nat) : Fld := ⟨(0x01C00000 + n * 0x1000), 13, 1, 0⟩
def CART.CPSTAT_SPILLGONE (n : Nat) : Fld := ⟨(0x01C00000 + n * 0x1000), 12, 1, 0⟩
def CART.CPSTAT_LOWLIFE (n : Nat) : Fld := ⟨(0x01C00000 + n * 0x1000), 11, 1, 0⟩
def CART.CPSTAT_WORN (n : Nat) : Fld := ⟨(0x01C00000 + n * 0x1000), 10, 1, 0⟩
def CART.CPSTAT_FOREIGN (n : Nat) : Fld := ⟨(0x01C00000 + n * 0x1000), 9, 1, 0⟩
def CART.CPSTAT_UNFMT (n : Nat) : Fld := ⟨(0x01C00000 + n * 0x1000), 8, 1, 0⟩
def CART.CPSTAT_CSTATE (n : Nat) : Fld := ⟨(0x01C00000 + n * 0x1000), 0, 3, 0⟩
/-- CART.CPCTL (R369). -/
def CART.CPCTL_LOWTHR (n : Nat) : Fld := ⟨(0x01C00000 + n * 0x1000) + 0x004, 0, 10, 50⟩
/-- CART.CPCMD (R370). -/
def CART.CPCMD_ERR (n : Nat) : Fld := ⟨(0x01C00000 + n * 0x1000) + 0x008, 28, 4, 0⟩
def CART.CPCMD_PSIZE (n : Nat) : Fld := ⟨(0x01C00000 + n * 0x1000) + 0x008, 8, 12, 0⟩
def CART.CPCMD_CMD (n : Nat) : Fld := ⟨(0x01C00000 + n * 0x1000) + 0x008, 1, 2, 0⟩
def CART.CPCMD_GO (n : Nat) : Fld := ⟨(0x01C00000 + n * 0x1000) + 0x008, 0, 1, 0⟩
/-- CART.CPSERIAL (R371). -/
def CART.CPSERIAL_SERIAL (n : Nat) (i : Nat) : Fld := ⟨(0x01C00000 + n * 0x1000) + 0x010 + 4 * i, 0, 32, 0⟩
/-- CART.CPCAP (R372). -/
def CART.CPCAP_PSIZE (n : Nat) : Fld := ⟨(0x01C00000 + n * 0x1000) + 0x020, 16, 16, 0⟩
def CART.CPCAP_CAPGIB (n : Nat) : Fld := ⟨(0x01C00000 + n * 0x1000) + 0x020, 0, 16, 0⟩
/-- CART.CPSLOTS (R372). -/
def CART.CPSLOTS_SLOTS (n : Nat) : Fld := ⟨(0x01C00000 + n * 0x1000) + 0x024, 0, 32, 0⟩
/-- CART.CPWEAR (R373). -/
def CART.CPWEAR_COMMITTED (n : Nat) : Fld := ⟨(0x01C00000 + n * 0x1000) + 0x028, 0, 32, 0⟩
/-- CART.CPRATED (R373). -/
def CART.CPRATED_RATED (n : Nat) : Fld := ⟨(0x01C00000 + n * 0x1000) + 0x02C, 0, 32, 0⟩
/-- CART.CPLIFE (R373). -/
def CART.CPLIFE_PERMILLE (n : Nat) : Fld := ⟨(0x01C00000 + n * 0x1000) + 0x030, 0, 10, 0⟩
/-- CART.CPUECNT (R373). -/
def CART.CPUECNT_COUNT (n : Nat) : Fld := ⟨(0x01C00000 + n * 0x1000) + 0x034, 0, 32, 0⟩
/-- CE.CEID (R414). -/
def CE.CEID_VER (n : Nat) : Fld := ⟨ceBase n, 24, 8, 0⟩
def CE.CEID_CTXBASE (n : Nat) : Fld := ⟨ceBase n, 4, 10, 32 * n⟩
def CE.CEID_ENGINE (n : Nat) : Fld := ⟨ceBase n, 0, 4, n⟩
/-- CE.CESTAT (R415). -/
def CE.CESTAT_RETWAIT (n : Nat) : Fld := ⟨ceBase n + 0x004, 2, 1, 0⟩
def CE.CESTAT_BUILDING (n : Nat) : Fld := ⟨ceBase n + 0x004, 1, 1, 0⟩
def CE.CESTAT_BUSY (n : Nat) : Fld := ⟨ceBase n + 0x004, 0, 1, 0⟩
/-- CE.CEFLAGS (R416). -/
def CE.CEFLAGS_FLUSH_OUT (n : Nat) : Fld := ⟨ceBase n + 0x008, 6, 1, 0⟩
def CE.CEFLAGS_FLUSH_IN (n : Nat) : Fld := ⟨ceBase n + 0x008, 5, 1, 0⟩
def CE.CEFLAGS_INEXACT (n : Nat) : Fld := ⟨ceBase n + 0x008, 4, 1, 0⟩
def CE.CEFLAGS_UNDERFLOW (n : Nat) : Fld := ⟨ceBase n + 0x008, 3, 1, 0⟩
def CE.CEFLAGS_OVERFLOW (n : Nat) : Fld := ⟨ceBase n + 0x008, 2, 1, 0⟩
def CE.CEFLAGS_DIVIDE_BY_ZERO (n : Nat) : Fld := ⟨ceBase n + 0x008, 1, 1, 0⟩
def CE.CEFLAGS_INVALID (n : Nat) : Fld := ⟨ceBase n + 0x008, 0, 1, 0⟩
/-- CE.CEBLOCKS (R417). -/
def CE.CEBLOCKS_COUNT (n : Nat) : Fld := ⟨ceBase n + 0x010, 0, 64, 0⟩
/-- CE.CEBYTES (R417). -/
def CE.CEBYTES_COUNT (n : Nat) : Fld := ⟨ceBase n + 0x018, 0, 64, 0⟩
/-- CE.CERAW (R418). -/
def CE.CERAW_COUNT (n : Nat) : Fld := ⟨ceBase n + 0x020, 0, 32, 0⟩
/-- CE.CECORRUPT (R418). -/
def CE.CECORRUPT_COUNT (n : Nat) : Fld := ⟨ceBase n + 0x024, 0, 32, 0⟩
/-- CE.CEGENMISS (R418). -/
def CE.CEGENMISS_COUNT (n : Nat) : Fld := ⟨ceBase n + 0x028, 0, 32, 0⟩
/-- CE.CXSEL (R419). -/
def CE.CXSEL_CTX (n : Nat) : Fld := ⟨ceBase n + 0x030, 0, 5, 0⟩
/-- CE.CXSTAT (R419). -/
def CE.CXSTAT_MODE (n : Nat) : Fld := ⟨ceBase n + 0x034, 22, 2, 0⟩
def CE.CXSTAT_FMT (n : Nat) : Fld := ⟨ceBase n + 0x034, 14, 8, 0⟩
def CE.CXSTAT_RETLIVE (n : Nat) : Fld := ⟨ceBase n + 0x034, 13, 1, 0⟩
def CE.CXSTAT_RETGEN (n : Nat) : Fld := ⟨ceBase n + 0x034, 10, 3, 0⟩
def CE.CXSTAT_CURLIVE (n : Nat) : Fld := ⟨ceBase n + 0x034, 9, 1, 0⟩
def CE.CXSTAT_CURGEN (n : Nat) : Fld := ⟨ceBase n + 0x034, 6, 3, 0⟩
def CE.CXSTAT_S1VALID (n : Nat) : Fld := ⟨ceBase n + 0x034, 5, 1, 0⟩
def CE.CXSTAT_S0VALID (n : Nat) : Fld := ⟨ceBase n + 0x034, 4, 1, 0⟩
def CE.CXSTAT_SLOTGEN (n : Nat) : Fld := ⟨ceBase n + 0x034, 0, 4, 0⟩
/-- CE.CXSEQ (R420). -/
def CE.CXSEQ_UNACKED (n : Nat) : Fld := ⟨ceBase n + 0x038, 16, 16, 0⟩
def CE.CXSEQ_NEXT (n : Nat) : Fld := ⟨ceBase n + 0x038, 0, 16, 0⟩
/-- CK.CKCTL (R421). -/
def CK.CKCTL_OWNER (n : Nat) : Fld := ⟨ckBase n, 31, 1, 0⟩
def CK.CKCTL_TAP (n : Nat) : Fld := ⟨ckBase n, 16, 5, 0⟩
def CK.CKCTL_INIT (n : Nat) : Fld := ⟨ckBase n, 4, 1, 0⟩
def CK.CKCTL_POLY (n : Nat) : Fld := ⟨ckBase n, 2, 2, 0⟩
def CK.CKCTL_CMPEN (n : Nat) : Fld := ⟨ckBase n, 1, 1, 0⟩
def CK.CKCTL_ARM (n : Nat) : Fld := ⟨ckBase n, 0, 1, 0⟩
/-- CK.CKSTAT (R422). -/
def CK.CKSTAT_ACTIVE (n : Nat) : Fld := ⟨ckBase n + 0x004, 2, 1, 0⟩
def CK.CKSTAT_MISMATCH (n : Nat) : Fld := ⟨ckBase n + 0x004, 1, 1, 0⟩
def CK.CKSTAT_DONE (n : Nat) : Fld := ⟨ckBase n + 0x004, 0, 1, 0⟩
/-- CK.CKMATCH (R422). -/
def CK.CKMATCH_MATCH (n : Nat) : Fld := ⟨ckBase n + 0x008, 0, 32, 0⟩
/-- CK.CKLIMIT (R423). -/
def CK.CKLIMIT_LIMIT (n : Nat) : Fld := ⟨ckBase n + 0x010, 0, 64, 0⟩
/-- CK.CKCOUNT (R423). -/
def CK.CKCOUNT_COUNT (n : Nat) : Fld := ⟨ckBase n + 0x018, 0, 64, 0⟩
/-- CK.CKRUN (R423). -/
def CK.CKRUN_RUN (n : Nat) : Fld := ⟨ckBase n + 0x020, 0, 64, 0⟩
/-- CK.CKFINAL (R423). -/
def CK.CKFINAL_FINAL (n : Nat) : Fld := ⟨ckBase n + 0x028, 0, 64, 0⟩
/-- CK.CKCMP (R423). -/
def CK.CKCMP_CMP (n : Nat) : Fld := ⟨ckBase n + 0x030, 0, 64, 0⟩
/-- TRN.ID (R460). -/
def TRN.ID_VER : Fld := ⟨0x00C00000, 24, 8, 0⟩
def TRN.ID_ENTRIES : Fld := ⟨0x00C00000, 0, 17, 0⟩
/-- TRN.STAT (R461). -/
def TRN.STAT_CKRECVD : Fld := ⟨0x00C00000 + 0x004, 8, 1, 0⟩
def TRN.STAT_STATLOST : Fld := ⟨0x00C00000 + 0x004, 7, 1, 0⟩
def TRN.STAT_STEERLOST : Fld := ⟨0x00C00000 + 0x004, 6, 1, 0⟩
def TRN.STAT_LOSTHIST : Fld := ⟨0x00C00000 + 0x004, 5, 1, 0⟩
def TRN.STAT_ZALARM : Fld := ⟨0x00C00000 + 0x004, 4, 1, 0⟩
def TRN.STAT_DGMISMATCH : Fld := ⟨0x00C00000 + 0x004, 3, 1, 0⟩
def TRN.STAT_CKBUSY : Fld := ⟨0x00C00000 + 0x004, 1, 1, 0⟩
def TRN.STAT_SWBUSY : Fld := ⟨0x00C00000 + 0x004, 0, 1, 0⟩
/-- TRN.SWFLAGS (R462). -/
def TRN.SWFLAGS_SATURATED : Fld := ⟨0x00C00000 + 0x008, 7, 1, 0⟩
def TRN.SWFLAGS_FLUSH_OUT : Fld := ⟨0x00C00000 + 0x008, 6, 1, 0⟩
def TRN.SWFLAGS_FLUSH_IN : Fld := ⟨0x00C00000 + 0x008, 5, 1, 0⟩
def TRN.SWFLAGS_INEXACT : Fld := ⟨0x00C00000 + 0x008, 4, 1, 0⟩
def TRN.SWFLAGS_UNDERFLOW : Fld := ⟨0x00C00000 + 0x008, 3, 1, 0⟩
def TRN.SWFLAGS_OVERFLOW : Fld := ⟨0x00C00000 + 0x008, 2, 1, 0⟩
def TRN.SWFLAGS_DIVIDE_BY_ZERO : Fld := ⟨0x00C00000 + 0x008, 1, 1, 0⟩
def TRN.SWFLAGS_INVALID : Fld := ⟨0x00C00000 + 0x008, 0, 1, 0⟩
/-- TRN.SWPRE (R463). -/
def TRN.SWPRE_DEPTH : Fld := ⟨0x00C00000 + 0x00C, 0, 4, 8⟩
/-- TRN.ZALARM (R463). -/
def TRN.ZALARM_THRESH : Fld := ⟨0x00C00000 + 0x010, 0, 16, 64⟩
/-- TRN.DGEVERY (R463). -/
def TRN.DGEVERY_EVERY : Fld := ⟨0x00C00000 + 0x014, 0, 32, 0⟩
/-- TRN.LSEL (R464). -/
def TRN.LSEL_LAYER : Fld := ⟨0x00C00000 + 0x018, 0, 13, 0⟩
/-- TRN.LZERO (R464). -/
def TRN.LZERO_ALARMED : Fld := ⟨0x00C00000 + 0x01C, 16, 1, 0⟩
def TRN.LZERO_ZCOUNT : Fld := ⟨0x00C00000 + 0x01C, 0, 16, 0⟩
/-- TRN.LRATIO (R464). -/
def TRN.LRATIO_RATIO : Fld := ⟨0x00C00000 + 0x020, 0, 32, 0⟩
/-- TRN.LMAXD (R464). -/
def TRN.LMAXD_MAXD : Fld := ⟨0x00C00000 + 0x024, 0, 32, 0⟩
/-- TRN.SHDATA (R464). -/
def TRN.SHDATA_ENTRY : Fld := ⟨0x00C00000 + 0x028, 0, 64, 0⟩
/-- TRN.SWSKIP (R465). -/
def TRN.SWSKIP_COUNT : Fld := ⟨0x00C00000 + 0x030, 0, 32, 0⟩
/-- TRN.SWHALF (R465). -/
def TRN.SWHALF_COUNT : Fld := ⟨0x00C00000 + 0x034, 0, 32, 0⟩
/-- TRN.SWTAGBAD (R465). -/
def TRN.SWTAGBAD_COUNT : Fld := ⟨0x00C00000 + 0x038, 0, 32, 0⟩
/-- TRN.DGHANDLE (R466). -/
def TRN.DGHANDLE_HANDLE : Fld := ⟨0x00C00000 + 0x040, 0, 32, 0⟩
/-- TRN.DGSHARD (R466). -/
def TRN.DGSHARD_SHARD : Fld := ⟨0x00C00000 + 0x044, 0, 28, 0⟩
/-- TRN.DGNODE (R466). -/
def TRN.DGNODE_NODE : Fld := ⟨0x00C00000 + 0x048, 0, 16, 0⟩
/-- TRN.CKRECV (R467). -/
def TRN.CKRECV_ARMED : Fld := ⟨0x00C00000 + 0x050, 31, 1, 0⟩
def TRN.CKRECV_DONE : Fld := ⟨0x00C00000 + 0x050, 30, 1, 0⟩
def TRN.CKRECV_PORT : Fld := ⟨0x00C00000 + 0x050, 0, 2, 0⟩
/-- TRN.CKRFIRST (R467). -/
def TRN.CKRFIRST_UNIT : Fld := ⟨0x00C00000 + 0x054, 0, 32, 0⟩
/-- TRN.CKRCOUNT (R467). -/
def TRN.CKRCOUNT_COUNT : Fld := ⟨0x00C00000 + 0x058, 0, 32, 0⟩
/-- TRN.PHCTL (R468). -/
def TRN.PHCTL_AUTOSNAP : Fld := ⟨0x00C00000 + 0x060, 1, 1, 1⟩
def TRN.PHCTL_SNAP : Fld := ⟨0x00C00000 + 0x060, 0, 1, 0⟩
/-- TRN.OPT (R469). -/
def TRN.OPT_VALUE (i : Nat) : Fld := ⟨0x00C00000 + 0x100 + 4 * i, 0, 32, 0⟩
/-- TRN.PHREP (R470). -/
def TRN.PHREP_COUNT (i : Nat) : Fld := ⟨0x00C00000 + 0x400 + 8 * i, 0, 64, 0⟩
/-- DW.DWID (R506). -/
def DW.DWID_VER (n : Nat) : Fld := ⟨dwBase n, 24, 8, 0⟩
def DW.DWID_DOORWAY (n : Nat) : Fld := ⟨dwBase n, 0, 4, n⟩
/-- DW.DWCTL (R507). -/
def DW.DWCTL_MINW (n : Nat) : Fld := ⟨dwBase n + 0x004, 4, 2, 0⟩
def DW.DWCTL_NOFALL (n : Nat) : Fld := ⟨dwBase n + 0x004, 1, 1, 0⟩
def DW.DWCTL_MODE (n : Nat) : Fld := ⟨dwBase n + 0x004, 0, 1, 0⟩
/-- DW.DWSTAT (R508). -/
def DW.DWSTAT_PARTNER (n : Nat) : Fld := ⟨dwBase n + 0x008, 16, 16, 0⟩
def DW.DWSTAT_PVALID (n : Nat) : Fld := ⟨dwBase n + 0x008, 15, 1, 0⟩
def DW.DWSTAT_RATE (n : Nat) : Fld := ⟨dwBase n + 0x008, 7, 8, 0⟩
def DW.DWSTAT_WIDTH (n : Nat) : Fld := ⟨dwBase n + 0x008, 4, 3, 0⟩
def DW.DWSTAT_LSTATE (n : Nat) : Fld := ⟨dwBase n + 0x008, 0, 3, 0⟩
/-- DW.DWFECCOR (R509). -/
def DW.DWFECCOR_COUNT (n : Nat) : Fld := ⟨dwBase n + 0x010, 0, 64, 0⟩
/-- DW.DWFECUNC (R509). -/
def DW.DWFECUNC_COUNT (n : Nat) : Fld := ⟨dwBase n + 0x018, 0, 64, 0⟩
/-- DW.DWTXBYTES (R509). -/
def DW.DWTXBYTES_COUNT (n : Nat) : Fld := ⟨dwBase n + 0x020, 0, 64, 0⟩
/-- DW.DWRXBYTES (R509). -/
def DW.DWRXBYTES_COUNT (n : Nat) : Fld := ⟨dwBase n + 0x028, 0, 64, 0⟩
/-- DW.DWDROP (R510). -/
def DW.DWDROP_COUNT (n : Nat) : Fld := ⟨dwBase n + 0x030, 0, 32, 0⟩
/-- DW.DWICRC (R510). -/
def DW.DWICRC_COUNT (n : Nat) : Fld := ⟨dwBase n + 0x034, 0, 32, 0⟩
/-- DW.DWRETX (R510). -/
def DW.DWRETX_COUNT (n : Nat) : Fld := ⟨dwBase n + 0x038, 0, 32, 0⟩
/-- DW.DWCE (R510). -/
def DW.DWCE_COUNT (n : Nat) : Fld := ⟨dwBase n + 0x03C, 0, 32, 0⟩
/-- DW.DWTRANS (R511). -/
def DW.DWTRANS_RETRY (n : Nat) : Fld := ⟨dwBase n + 0x040, 28, 4, 8⟩
def DW.DWTRANS_CWINIT (n : Nat) : Fld := ⟨dwBase n + 0x040, 16, 9, 16⟩
def DW.DWTRANS_RTO (n : Nat) : Fld := ⟨dwBase n + 0x040, 0, 16, 64⟩
/-- DW.DWETH (R512). -/
def DW.DWETH_PORT (n : Nat) : Fld := ⟨dwBase n + 0x044, 16, 16, 39216⟩
def DW.DWETH_HOPLIM (n : Nat) : Fld := ⟨dwBase n + 0x044, 8, 8, 64⟩
def DW.DWETH_PFCEN (n : Nat) : Fld := ⟨dwBase n + 0x044, 0, 8, 0⟩
/-- DW.DWVLAN (R512). -/
def DW.DWVLAN_VLANEN (n : Nat) : Fld := ⟨dwBase n + 0x048, 31, 1, 0⟩
def DW.DWVLAN_PCP (n : Nat) : Fld := ⟨dwBase n + 0x048, 12, 9, 0⟩
def DW.DWVLAN_VID (n : Nat) : Fld := ⟨dwBase n + 0x048, 0, 12, 0⟩
/-- DW.DWQOS (R512). -/
def DW.DWQOS_DSCP (n : Nat) : Fld := ⟨dwBase n + 0x04C, 0, 18, 0⟩
/-- DW.DWMAC (R513). -/
def DW.DWMAC_MAC (n : Nat) : Fld := ⟨dwBase n + 0x050, 0, 48, 0⟩
/-- DW.DWGWMAC (R513). -/
def DW.DWGWMAC_MAC (n : Nat) : Fld := ⟨dwBase n + 0x058, 0, 48, 0⟩
/-- DW.DWIP (R513). -/
def DW.DWIP_ADDR (n : Nat) (i : Nat) : Fld := ⟨dwBase n + 0x060 + 4 * i, 0, 32, 0⟩
/-- ND.NDSELF (R515). -/
def ND.NDSELF_MEMBER : Fld := ⟨0x01830000, 31, 1, 0⟩
def ND.NDSELF_COORD : Fld := ⟨0x01830000, 30, 1, 0⟩
def ND.NDSELF_STATE : Fld := ⟨0x01830000, 16, 3, 0⟩
def ND.NDSELF_NODE : Fld := ⟨0x01830000, 0, 16, 0⟩
/-- ND.NDEPOCH (R516). -/
def ND.NDEPOCH_EPOCH : Fld := ⟨0x01830000 + 0x004, 0, 32, 0⟩
/-- ND.NDCOUNT (R516). -/
def ND.NDCOUNT_COUNT : Fld := ⟨0x01830000 + 0x008, 0, 17, 0⟩
/-- ND.NDCOORD (R516). -/
def ND.NDCOORD_NODE : Fld := ⟨0x01830000 + 0x00C, 0, 16, 0⟩
/-- ND.NDCTL (R517). -/
def ND.NDCTL_CMD : Fld := ⟨0x01830000 + 0x010, 0, 6, 0⟩
/-- ND.NDEVENT (R517). -/
def ND.NDEVENT_CMDERR : Fld := ⟨0x01830000 + 0x014, 4, 1, 0⟩
def ND.NDEVENT_REFUSED : Fld := ⟨0x01830000 + 0x014, 3, 1, 0⟩
def ND.NDEVENT_PEERFAIL : Fld := ⟨0x01830000 + 0x014, 2, 1, 0⟩
def ND.NDEVENT_CHANGED : Fld := ⟨0x01830000 + 0x014, 1, 1, 0⟩
def ND.NDEVENT_JOINREQ : Fld := ⟨0x01830000 + 0x014, 0, 1, 0⟩
/-- ND.NDARG (R518). -/
def ND.NDARG_NODE : Fld := ⟨0x01830000 + 0x018, 0, 16, 0⟩
/-- ND.NDCONTIP (R519). -/
def ND.NDCONTIP_ADDR (i : Nat) : Fld := ⟨0x01830000 + 0x020 + 4 * i, 0, 32, 0⟩
/-- ND.NDREQ (R518). -/
def ND.NDREQ_VALID : Fld := ⟨0x01830000 + 0x030, 31, 1, 0⟩
def ND.NDREQ_NODE : Fld := ⟨0x01830000 + 0x030, 0, 16, 0⟩
/-- ND.NDREQFP (R519). -/
def ND.NDREQFP_FP (i : Nat) : Fld := ⟨0x01830000 + 0x040 + 4 * i, 0, 32, 0⟩
/-- ND.NDLOC (R520). -/
def ND.NDLOC_SITE : Fld := ⟨0x01830000 + 0x060, 32, 16, 0⟩
def ND.NDLOC_SWITCH : Fld := ⟨0x01830000 + 0x060, 0, 32, 0⟩
/-- ND.NDFAILED (R518). -/
def ND.NDFAILED_NODE : Fld := ⟨0x01830000 + 0x068, 0, 16, 0⟩
/-- ND.NDRTSEL (R521). -/
def ND.NDRTSEL_NODE : Fld := ⟨0x01830000 + 0x070, 0, 16, 0⟩
/-- ND.NDRTDATA (R521). -/
def ND.NDRTDATA_VALID : Fld := ⟨0x01830000 + 0x074, 31, 1, 0⟩
def ND.NDRTDATA_MEMBER : Fld := ⟨0x01830000 + 0x074, 30, 1, 0⟩
def ND.NDRTDATA_MASK : Fld := ⟨0x01830000 + 0x074, 0, 16, 0⟩
/-- IMG.ID (R550). -/
def IMG.ID_VER : Fld := ⟨0x00200000, 24, 8, 0⟩
def IMG.ID_IMGVER : Fld := ⟨0x00200000, 16, 8, 1⟩
def IMG.ID_MAXMIB : Fld := ⟨0x00200000, 0, 8, 0x80⟩
/-- IMG.CTRL (R551). -/
def IMG.CTRL_ABORT : Fld := ⟨0x00200000 + 0x004, 2, 1, 0⟩
def IMG.CTRL_UNLOAD : Fld := ⟨0x00200000 + 0x004, 1, 1, 0⟩
def IMG.CTRL_LOAD : Fld := ⟨0x00200000 + 0x004, 0, 1, 0⟩
/-- IMG.STAT (R552). -/
def IMG.STAT_SIGREQ : Fld := ⟨0x00200000 + 0x008, 6, 1, 0⟩
def IMG.STAT_SIGNED : Fld := ⟨0x00200000 + 0x008, 5, 1, 0⟩
def IMG.STAT_LOADED : Fld := ⟨0x00200000 + 0x008, 4, 1, 0⟩
def IMG.STAT_STATE : Fld := ⟨0x00200000 + 0x008, 0, 4, 0⟩
/-- IMG.ADDR (R553). -/
def IMG.ADDR_ADDR : Fld := ⟨0x00200000 + 0x010, 0, 64, 0⟩
/-- IMG.LOADID (R553). -/
def IMG.LOADID_ID : Fld := ⟨0x00200000 + 0x018, 0, 64, 0⟩
/-- IMG.LEN (R554). -/
def IMG.LEN_LEN : Fld := ⟨0x00200000 + 0x020, 0, 32, 0⟩
/-- IMG.ERR (R554). -/
def IMG.ERR_SECTION : Fld := ⟨0x00200000 + 0x024, 8, 8, 0⟩
def IMG.ERR_CODE : Fld := ⟨0x00200000 + 0x024, 0, 8, 0⟩
/-- IMG.ERRREC (R554). -/
def IMG.ERRREC_RECORD : Fld := ⟨0x00200000 + 0x028, 0, 32, 0⟩
/-- IMG.LOADS (R555). -/
def IMG.LOADS_COUNT : Fld := ⟨0x00200000 + 0x02C, 0, 32, 0⟩
/-- IMG.DWSKIP (R555). -/
def IMG.DWSKIP_SKIP : Fld := ⟨0x00200000 + 0x030, 0, 16, 0⟩
/-- IMG.DIGEST (R556). -/
def IMG.DIGEST_DIGEST (i : Nat) : Fld := ⟨0x00200000 + 0x040 + 4 * i, 0, 32, 0⟩
/-- IMG.PRSEL (R557). -/
def IMG.PRSEL_CASEMENT : Fld := ⟨0x00200000 + 0x100, 0, 10, 0⟩
/-- IMG.PRSTAT (R557). -/
def IMG.PRSTAT_PSTATE : Fld := ⟨0x00200000 + 0x104, 12, 3, 0⟩
def IMG.PRSTAT_ENTRY : Fld := ⟨0x00200000 + 0x104, 0, 12, 0⟩
/-- IMG.PRROUND (R557). -/
def IMG.PRROUND_ROUND : Fld := ⟨0x00200000 + 0x108, 0, 32, 0⟩
/-- CMDQ.QCTL (R593). -/
def CMDQ.QCTL_MAXFLT (n : Nat) : Fld := ⟨(0x00400000 + n * 0x1000), 16, 12, 0⟩
def CMDQ.QCTL_WEIGHT (n : Nat) : Fld := ⟨(0x00400000 + n * 0x1000), 4, 4, 1⟩
def CMDQ.QCTL_ENABLE (n : Nat) : Fld := ⟨(0x00400000 + n * 0x1000), 0, 1, 0⟩
/-- CMDQ.QSTAT (R594). -/
def CMDQ.QSTAT_INFLIGHT (n : Nat) : Fld := ⟨(0x00400000 + n * 0x1000) + 0x004, 16, 13, 0⟩
def CMDQ.QSTAT_LOST (n : Nat) : Fld := ⟨(0x00400000 + n * 0x1000) + 0x004, 12, 4, 0⟩
def CMDQ.QSTAT_PEND (n : Nat) : Fld := ⟨(0x00400000 + n * 0x1000) + 0x004, 11, 1, 0⟩
def CMDQ.QSTAT_WAITING (n : Nat) : Fld := ⟨(0x00400000 + n * 0x1000) + 0x004, 10, 1, 0⟩
def CMDQ.QSTAT_BINDERR (n : Nat) : Fld := ⟨(0x00400000 + n * 0x1000) + 0x004, 9, 1, 0⟩
def CMDQ.QSTAT_DBERR (n : Nat) : Fld := ⟨(0x00400000 + n * 0x1000) + 0x004, 8, 1, 0⟩
def CMDQ.QSTAT_ERR (n : Nat) : Fld := ⟨(0x00400000 + n * 0x1000) + 0x004, 4, 4, 0⟩
def CMDQ.QSTAT_STATE (n : Nat) : Fld := ⟨(0x00400000 + n * 0x1000) + 0x004, 0, 2, 0⟩
/-- CMDQ.QBIND (R595). -/
def CMDQ.QBIND_VALID (n : Nat) : Fld := ⟨(0x00400000 + n * 0x1000) + 0x008, 31, 1, 0⟩
def CMDQ.QBIND_CASEMENT (n : Nat) : Fld := ⟨(0x00400000 + n * 0x1000) + 0x008, 0, 10, 0⟩
/-- CMDQ.QRING (R596). -/
def CMDQ.QRING_CQLOG2 (n : Nat) : Fld := ⟨(0x00400000 + n * 0x1000) + 0x00C, 16, 5, 4⟩
def CMDQ.QRING_SQLOG2 (n : Nat) : Fld := ⟨(0x00400000 + n * 0x1000) + 0x00C, 0, 5, 4⟩
/-- CMDQ.SQBASE (R597). -/
def CMDQ.SQBASE_ADDR (n : Nat) : Fld := ⟨(0x00400000 + n * 0x1000) + 0x010, 12, 52, 0⟩
/-- CMDQ.CQBASE (R597). -/
def CMDQ.CQBASE_ADDR (n : Nat) : Fld := ⟨(0x00400000 + n * 0x1000) + 0x018, 12, 52, 0⟩
/-- CMDQ.QPTR (R598). -/
def CMDQ.QPTR_CQHEAD (n : Nat) : Fld := ⟨(0x00400000 + n * 0x1000) + 0x020, 48, 16, 0⟩
def CMDQ.QPTR_CQTAIL (n : Nat) : Fld := ⟨(0x00400000 + n * 0x1000) + 0x020, 32, 16, 0⟩
def CMDQ.QPTR_SQTAIL (n : Nat) : Fld := ⟨(0x00400000 + n * 0x1000) + 0x020, 16, 16, 0⟩
def CMDQ.QPTR_SQHEAD (n : Nat) : Fld := ⟨(0x00400000 + n * 0x1000) + 0x020, 0, 16, 0⟩
/-- CMDQ.QIRQ (R599). -/
def CMDQ.QIRQ_EN (n : Nat) : Fld := ⟨(0x00400000 + n * 0x1000) + 0x028, 31, 1, 0⟩
def CMDQ.QIRQ_ERRIRQ (n : Nat) : Fld := ⟨(0x00400000 + n * 0x1000) + 0x028, 30, 1, 1⟩
def CMDQ.QIRQ_VECTOR (n : Nat) : Fld := ⟨(0x00400000 + n * 0x1000) + 0x028, 16, 11, 0⟩
def CMDQ.QIRQ_THRESH (n : Nat) : Fld := ⟨(0x00400000 + n * 0x1000) + 0x028, 8, 8, 0⟩
def CMDQ.QIRQ_TIMER (n : Nat) : Fld := ⟨(0x00400000 + n * 0x1000) + 0x028, 0, 8, 0⟩
/-- CMDQ.QDONE (R600). -/
def CMDQ.QDONE_COUNT (n : Nat) : Fld := ⟨(0x00400000 + n * 0x1000) + 0x030, 0, 64, 0⟩
/-- CMDG.GSTAT (R601). -/
def CMDG.GSTAT_COLLS : Fld := ⟨0x00500000, 16, 9, 0⟩
def CMDG.GSTAT_INFLIGHT : Fld := ⟨0x00500000, 0, 13, 0⟩
/-- CMDG.FENCE (R601). -/
def CMDG.FENCE_VALUE (i : Nat) : Fld := ⟨0x00500000 + 0x10000 + 8 * i, 0, 64, 0⟩
/-- HOSTIF.LNKSTAT (R629). -/
def HOSTIF.LNKSTAT_RETRAINS : Fld := ⟨0x03810000, 16, 16, 0⟩
def HOSTIF.LNKSTAT_MEM : Fld := ⟨0x03810000, 7, 1, 0⟩
def HOSTIF.LNKSTAT_CACHE : Fld := ⟨0x03810000, 6, 1, 0⟩
def HOSTIF.LNKSTAT_RATE : Fld := ⟨0x03810000, 2, 2, 0⟩
def HOSTIF.LNKSTAT_WIDE : Fld := ⟨0x03810000, 1, 1, 0⟩
def HOSTIF.LNKSTAT_UP : Fld := ⟨0x03810000, 0, 1, 0⟩
/-- HOSTIF.HDMSIZE (R630). -/
def HOSTIF.HDMSIZE_UNITS : Fld := ⟨0x03810000 + 0x004, 0, 15, 0⟩
/-- HOSTIF.HDMCTL (R630). -/
def HOSTIF.HDMCTL_EN : Fld := ⟨0x03810000 + 0x008, 0, 1, 0⟩
/-- HOSTIF.HDMSTAT (R631). -/
def HOSTIF.HDMSTAT_CHANS : Fld := ⟨0x03810000 + 0x00C, 16, 8, 0⟩
def HOSTIF.HDMSTAT_ERR : Fld := ⟨0x03810000 + 0x00C, 8, 2, 0⟩
def HOSTIF.HDMSTAT_STATE : Fld := ⟨0x03810000 + 0x00C, 0, 3, 0⟩
/-- HOSTIF.HDMPOISON (R632). -/
def HOSTIF.HDMPOISON_COUNT : Fld := ⟨0x03810000 + 0x010, 0, 32, 0⟩
/-- HOSTIF.FLRCOUNT (R632). -/
def HOSTIF.FLRCOUNT_COUNT : Fld := ⟨0x03810000 + 0x014, 0, 32, 0⟩
/-- ARB.ID (R643). -/
def ARB.ID_VER (n : Nat) : Fld := ⟨(0x03400000 + n * 0x1000), 24, 8, 0⟩
def ARB.ID_KIND (n : Nat) : Fld := ⟨(0x03400000 + n * 0x1000), 16, 4, (arbKind n).getD 0⟩
def ARB.ID_REGION (n : Nat) : Fld := ⟨(0x03400000 + n * 0x1000), 8, 8, arbRegion n⟩
def ARB.ID_REQS (n : Nat) : Fld := ⟨(0x03400000 + n * 0x1000), 0, 5, arbReqs n⟩
/-- ARB.INPUTMAP (R644). -/
def ARB.INPUTMAP_MAP (n : Nat) : Fld := ⟨(0x03400000 + n * 0x1000) + 0x008, 0, 64, arbResetMap n⟩
/-- ARB.WAITLIM0 (R645). -/
def ARB.WAITLIM0_LIMS (n : Nat) : Fld := ⟨(0x03400000 + n * 0x1000) + 0x010, 0, 64, arbResetLims n 0⟩
/-- ARB.WAITLIM1 (R645). -/
def ARB.WAITLIM1_LIMS (n : Nat) : Fld := ⟨(0x03400000 + n * 0x1000) + 0x018, 0, 64, arbResetLims n 1⟩
/-- ARB.HOLD (R646). -/
def ARB.HOLD_LIMIT (n : Nat) : Fld := ⟨(0x03400000 + n * 0x1000) + 0x020, 0, 32, 0x4000⟩
/-- ARB.STAT (R647). -/
def ARB.STAT_OWNED (n : Nat) : Fld := ⟨(0x03400000 + n * 0x1000) + 0x024, 31, 1, 0⟩
def ARB.STAT_PARKED (n : Nat) : Fld := ⟨(0x03400000 + n * 0x1000) + 0x024, 30, 1, 0⟩
def ARB.STAT_OWNER (n : Nat) : Fld := ⟨(0x03400000 + n * 0x1000) + 0x024, 16, 4, 0⟩
def ARB.STAT_ASKING (n : Nat) : Fld := ⟨(0x03400000 + n * 0x1000) + 0x024, 0, 14, 0⟩
/-- ARB.WAITCNT0 (R648). -/
def ARB.WAITCNT0_CNTS (n : Nat) : Fld := ⟨(0x03400000 + n * 0x1000) + 0x028, 0, 64, 0⟩
/-- ARB.WAITCNT1 (R648). -/
def ARB.WAITCNT1_CNTS (n : Nat) : Fld := ⟨(0x03400000 + n * 0x1000) + 0x030, 0, 64, 0⟩
/-- ARB.DECISIONS (R648). -/
def ARB.DECISIONS_COUNT (n : Nat) : Fld := ⟨(0x03400000 + n * 0x1000) + 0x038, 0, 64, 0⟩
/-- ARB.FORCED (R648). -/
def ARB.FORCED_COUNT (n : Nat) : Fld := ⟨(0x03400000 + n * 0x1000) + 0x040, 0, 64, 0⟩
/-- ARB.BITES (R648). -/
def ARB.BITES_COUNT (n : Nat) : Fld := ⟨(0x03400000 + n * 0x1000) + 0x048, 0, 32, 0⟩
/-- GLB.ID (R669). -/
def GLB.ID_DEVID : Fld := ⟨0x00000000, 16, 16, 0x160⟩
def GLB.ID_STEPPING : Fld := ⟨0x00000000, 8, 8, 0⟩
/-- GLB.SERIAL (R669). -/
def GLB.SERIAL_SERIAL : Fld := ⟨0x00000000 + 0x008, 0, 64, deviceSerial⟩
/-- GLB.RESET (R670). -/
def GLB.RESET_WARM : Fld := ⟨0x00000000 + 0x010, 0, 1, 0⟩
/-- GLB.STAT (R670). -/
def GLB.STAT_FATAL : Fld := ⟨0x00000000 + 0x014, 31, 1, 0⟩
def GLB.STAT_FCAUSE : Fld := ⟨0x00000000 + 0x014, 24, 4, 0⟩
def GLB.STAT_CAUSE : Fld := ⟨0x00000000 + 0x014, 0, 4, 0⟩
/-- GLB.BOOT (R671). -/
def GLB.BOOT_FAIL : Fld := ⟨0x00000000 + 0x018, 8, 8, 0⟩
def GLB.BOOT_STAGE : Fld := ⟨0x00000000 + 0x018, 0, 8, 1⟩
/-- GLB.BOOTZERO (R671). -/
def GLB.BOOTZERO_MIB : Fld := ⟨0x00000000 + 0x01C, 0, 32, 0⟩
/-- GLB.RUNMODE (R672). -/
def GLB.RUNMODE_MODE : Fld := ⟨0x00000000 + 0x020, 0, 2, 0⟩
/-- GLB.BIST (R673). -/
def GLB.BIST_CLUFAIL : Fld := ⟨0x00000000 + 0x024, 16, 4, 0⟩
def GLB.BIST_CEFAIL : Fld := ⟨0x00000000 + 0x024, 0, 16, 0⟩
/-- GLB.BISTCORE (R673). -/
def GLB.BISTCORE_COREFAIL : Fld := ⟨0x00000000 + 0x028, 0, 32, 0⟩
/-- GLB.ERRHEAD (R674). -/
def GLB.ERRHEAD_SLOT : Fld := ⟨0x00000000 + 0x040, 0, 10, 0⟩
/-- GLB.ERRTAIL (R674). -/
def GLB.ERRTAIL_SLOT : Fld := ⟨0x00000000 + 0x044, 0, 10, 0⟩
/-- GLB.ERRLOST (R674). -/
def GLB.ERRLOST_COUNT : Fld := ⟨0x00000000 + 0x048, 0, 32, 0⟩
/-- GLB.ERRVEC (R675). -/
def GLB.ERRVEC_EN (i : Nat) : Fld := ⟨0x00000000 + 0x080 + 4 * i, 31, 1, 0⟩
def GLB.ERRVEC_MINSEV (i : Nat) : Fld := ⟨0x00000000 + 0x080 + 4 * i, 26, 2, 1⟩
def GLB.ERRVEC_VECTOR (i : Nat) : Fld := ⟨0x00000000 + 0x080 + 4 * i, 0, 11, 0⟩
/-- GLB.SHUT (R676). -/
def GLB.SHUT_FENCED (i : Nat) : Fld := ⟨0x00000000 + 0x100 + 4 * i, 9, 1, 0⟩
def GLB.SHUT_PEND (i : Nat) : Fld := ⟨0x00000000 + 0x100 + 4 * i, 8, 1, 0⟩
def GLB.SHUT_STATE (i : Nat) : Fld := ⟨0x00000000 + 0x100 + 4 * i, 4, 2, 0⟩
def GLB.SHUT_REQ (i : Nat) : Fld := ⟨0x00000000 + 0x100 + 4 * i, 0, 1, 1⟩
/-- KEY.ID (R696). -/
def KEY.ID_VER : Fld := ⟨0x00100000, 24, 8, 0⟩
/-- KEY.STAT (R696). -/
def KEY.STAT_ROWS : Fld := ⟨0x00100000 + 0x004, 8, 8, 63⟩
def KEY.STAT_BOOTSLOT : Fld := ⟨0x00100000 + 0x004, 7, 1, 0⟩
def KEY.STAT_NONCEV : Fld := ⟨0x00100000 + 0x004, 6, 1, 0⟩
def KEY.STAT_OWNKEY : Fld := ⟨0x00100000 + 0x004, 5, 1, 0⟩
def KEY.STAT_SIGREQ : Fld := ⟨0x00100000 + 0x004, 4, 1, 0⟩
def KEY.STAT_STATE : Fld := ⟨0x00100000 + 0x004, 0, 2, 0⟩
/-- KEY.FWSTAT (R697). -/
def KEY.FWSTAT_REVOKED : Fld := ⟨0x00100000 + 0x008, 28, 4, 0⟩
def KEY.FWSTAT_KEYIDX : Fld := ⟨0x00100000 + 0x008, 24, 2, 0⟩
def KEY.FWSTAT_SVNMIN : Fld := ⟨0x00100000 + 0x008, 8, 7, 0⟩
def KEY.FWSTAT_SVN : Fld := ⟨0x00100000 + 0x008, 0, 7, 0⟩
/-- KEY.CMD (R698). -/
def KEY.CMD_ERR : Fld := ⟨0x00100000 + 0x00C, 28, 4, 0⟩
def KEY.CMD_CMD : Fld := ⟨0x00100000 + 0x00C, 1, 3, 0⟩
def KEY.CMD_GO : Fld := ⟨0x00100000 + 0x00C, 0, 1, 0⟩
/-- KEY.LCTARGET (R698). -/
def KEY.LCTARGET_KEYIDX : Fld := ⟨0x00100000 + 0x010, 4, 2, 0⟩
def KEY.LCTARGET_SIGREQ : Fld := ⟨0x00100000 + 0x010, 3, 1, 0⟩
def KEY.LCTARGET_TARGET : Fld := ⟨0x00100000 + 0x010, 0, 2, 0⟩
/-- KEY.NONCE (R699). -/
def KEY.NONCE_NONCE (i : Nat) : Fld := ⟨0x00100000 + 0x020 + 4 * i, 0, 32, 0⟩
/-- KEY.LCKEY (R699). -/
def KEY.LCKEY_KEY (i : Nat) : Fld := ⟨0x00100000 + 0x040 + 4 * i, 0, 32, 0⟩
/-- KEY.LCSIG (R699). -/
def KEY.LCSIG_SIG (i : Nat) : Fld := ⟨0x00100000 + 0x060 + 4 * i, 0, 32, 0⟩
/-- KEY.OWNKEY (R699). -/
def KEY.OWNKEY_KEY (i : Nat) : Fld := ⟨0x00100000 + 0x0A0 + 4 * i, 0, 32, 0⟩
/-- KEY.IDKEY (R699). -/
def KEY.IDKEY_KEY (i : Nat) : Fld := ⟨0x00100000 + 0x0C0 + 4 * i, 0, 32, identityKeyWord i⟩
/-- KEY.MLSTAT (R700). -/
def KEY.MLSTAT_LOGFULL : Fld := ⟨0x00100000 + 0x100, 31, 1, 0⟩
def KEY.MLSTAT_DROPPED : Fld := ⟨0x00100000 + 0x100, 9, 15, 0⟩
def KEY.MLSTAT_COUNT : Fld := ⟨0x00100000 + 0x100, 0, 9, 0⟩
/-- KEY.MLSEL (R700). -/
def KEY.MLSEL_ENTRY : Fld := ⟨0x00100000 + 0x104, 0, 8, 0⟩
/-- KEY.MLDATA (R700). -/
def KEY.MLDATA_DATA (i : Nat) : Fld := ⟨0x00100000 + 0x140 + 4 * i, 0, 32, 0⟩
/-- KEY.M0 (R700). -/
def KEY.M0_VALUE (i : Nat) : Fld := ⟨0x00100000 + 0x200 + 4 * i, 0, 32, 0⟩
/-- KEY.M1 (R700). -/
def KEY.M1_VALUE (i : Nat) : Fld := ⟨0x00100000 + 0x240 + 4 * i, 0, 32, 0⟩
/-- PEEP.ID (R713). -/
def PEEP.ID_VER : Fld := ⟨0x02000000, 24, 8, 0⟩
def PEEP.ID_COUNTERS : Fld := ⟨0x02000000, 0, 13, 0x1000⟩
/-- PEEP.CTRL (R713). -/
def PEEP.CTRL_TREN : Fld := ⟨0x02000000 + 0x004, 8, 1, 0⟩
def PEEP.CTRL_CNTCLR : Fld := ⟨0x02000000 + 0x004, 1, 1, 0⟩
def PEEP.CTRL_CNTEN : Fld := ⟨0x02000000 + 0x004, 0, 1, 0⟩
/-- PEEP.TRSTAT (R714). -/
def PEEP.TRSTAT_IDLE : Fld := ⟨0x02000000 + 0x008, 11, 1, 1⟩
def PEEP.TRSTAT_FILL : Fld := ⟨0x02000000 + 0x008, 0, 11, 0⟩
/-- PEEP.TRBASE (R715). -/
def PEEP.TRBASE_ADDR : Fld := ⟨0x02000000 + 0x010, 12, 52, 0⟩
/-- PEEP.TRRING (R714). -/
def PEEP.TRRING_LOG2 : Fld := ⟨0x02000000 + 0x018, 0, 5, 7⟩
/-- PEEP.TRCLASS (R714). -/
def PEEP.TRCLASS_MASK : Fld := ⟨0x02000000 + 0x01C, 0, 14, 0⟩
/-- PEEP.TRHEAD (R716). -/
def PEEP.TRHEAD_SLOT : Fld := ⟨0x02000000 + 0x020, 0, 20, 0⟩
/-- PEEP.TRTAIL (R716). -/
def PEEP.TRTAIL_SLOT : Fld := ⟨0x02000000 + 0x024, 0, 20, 0⟩
/-- PEEP.TRLOST (R716). -/
def PEEP.TRLOST_COUNT : Fld := ⟨0x02000000 + 0x028, 0, 32, 0⟩
/-- PEEP.TRIRQ (R716). -/
def PEEP.TRIRQ_EN : Fld := ⟨0x02000000 + 0x02C, 31, 1, 0⟩
def PEEP.TRIRQ_VECTOR : Fld := ⟨0x02000000 + 0x02C, 16, 11, 0⟩
def PEEP.TRIRQ_THRESH : Fld := ⟨0x02000000 + 0x02C, 0, 16, 0⟩
/-- PEEP.CNTSEL (R717). -/
def PEEP.CNTSEL_EN (i : Nat) : Fld := ⟨0x02000000 + 0x10000 + 4 * i, 31, 1, 0⟩
def PEEP.CNTSEL_CLR (i : Nat) : Fld := ⟨0x02000000 + 0x10000 + 4 * i, 30, 1, 0⟩
def PEEP.CNTSEL_KIND (i : Nat) : Fld := ⟨0x02000000 + 0x10000 + 4 * i, 24, 4, 0⟩
def PEEP.CNTSEL_UNIT (i : Nat) : Fld := ⟨0x02000000 + 0x10000 + 4 * i, 14, 10, 0⟩
def PEEP.CNTSEL_EVENT (i : Nat) : Fld := ⟨0x02000000 + 0x10000 + 4 * i, 0, 8, 0⟩
/-- PEEP.CNT (R717). -/
def PEEP.CNT_COUNT (i : Nat) : Fld := ⟨0x02000000 + 0x20000 + 8 * i, 0, 64, 0⟩

end Sys2Proof.Machine
end

