-- ==== Sys2Proof/Machine/RegMap.lean ====
section
/-! DEFINITION. The register map of BAR0: which register lies at an address, with the type of each of its fields (R15, R16),
whether a command row of its own writes the field, and the encodings that the table lists as valid (R21). -/

namespace Sys2Proof.Machine

/-- Field types of R16. RSV bits are those no field covers. -/
inductive Access where
  | ro
  | rw
  | w1c
  | w1s
deriving DecidableEq, Repr

/-- A field of a register table. `own` marks a field that a command row of its own writes. -/
structure FieldRow where
  lo : Nat
  width : Nat
  acc : Access
  own : Bool
  reset : Nat
  first : Nat
  last : Nat
deriving DecidableEq, Repr

/-- A register of a block: offset, width, how many and how far apart, its fields for each unit and index. -/
structure RegRow where
  off : Nat
  width : Nat
  count : Nat
  step : Nat
  fields : Nat → Nat → List FieldRow

/-- The register blocks of BAR0. -/
inductive Blk where
  | reg
  | core
  | tier
  | mu
  | cart
  | ce
  | ck
  | trn
  | dw
  | nd
  | img
  | cmdq
  | cmdg
  | hostif
  | arb
  | glb
  | key
  | peep
deriving DecidableEq, Repr

def rowsReg_ID : RegRow := ⟨0x000, 32, 1, 0, fun n _ => [⟨16, 1, .ro, false, b2n (regionClocked n), 0, 0x1⟩,
    ⟨8, 8, .ro, false, regionKind n, 0, 0xff⟩,
    ⟨0, 8, .ro, false, n, 0, 0xff⟩]⟩
def rowsReg_LIC : RegRow := ⟨0x008, 64, 1, 0, fun _ _ => [⟨0, 64, .ro, false, 0, 0, 0xffffffffffffffff⟩]⟩
def rowsReg_LICCTL : RegRow := ⟨0x010, 32, 1, 0, fun _ _ => [⟨2, 1, .w1c, false, 0, 0, 0x1⟩,
    ⟨1, 1, .ro, false, 0, 0, 0x1⟩,
    ⟨0, 1, .w1s, true, 0, 0, 0x1⟩]⟩
def rowsReg_LICSTEP : RegRow := ⟨0x014, 32, 1, 0, fun _ _ => [⟨0, 32, .ro, false, 0x10000, 0, 0xffffffff⟩]⟩
def rowsReg_LICCOUNT : RegRow := ⟨0x018, 32, 1, 0, fun _ _ => [⟨0, 32, .ro, false, 0, 0, 0xffffffff⟩]⟩
def rowsReg_VSET : RegRow := ⟨0x020, 32, 1, 0, fun _ _ => [⟨0, 6, .rw, true, 40, 10, 60⟩]⟩
def rowsReg_VMEAS : RegRow := ⟨0x024, 32, 1, 0, fun _ _ => [⟨0, 16, .ro, false, 0, 0, 0xffff⟩]⟩
def rowsReg_TMEAS : RegRow := ⟨0x028, 32, 1, 0, fun _ _ => [⟨0, 16, .ro, false, 0, 0, 0xffff⟩]⟩
def rowsReg_RATE : RegRow := ⟨0x02C, 32, 1, 0, fun _ _ => [⟨0, 24, .ro, false, 0, 0, 0xffffff⟩]⟩
def rowsReg_LOUVRE : RegRow := ⟨0x030, 32, 1, 0, fun _ _ => [⟨0, 5, .ro, false, 16, 0, 0x1f⟩]⟩
def rowsReg_MONSTAT : RegRow := ⟨0x034, 32, 1, 0, fun _ _ => [⟨8, 4, .ro, false, 0, 0, 0xf⟩,
    ⟨4, 1, .ro, false, 0, 0, 0x1⟩,
    ⟨3, 1, .w1c, false, 0, 0, 0x1⟩,
    ⟨2, 1, .w1c, false, 0, 0, 0x1⟩,
    ⟨1, 1, .w1c, false, 0, 0, 0x1⟩,
    ⟨0, 1, .w1c, false, 0, 0, 0x1⟩]⟩
def rowsReg_HSTALL : RegRow := ⟨0x038, 32, 1, 0, fun _ _ => [⟨0, 32, .rw, false, 0x1000000, 0x10000, 0xFFFFFFFF⟩]⟩
def rowsReg_SPEED : RegRow := ⟨0x03C, 32, 1, 0, fun _ _ => [⟨0, 24, .ro, false, 0, 0, 0xffffff⟩]⟩
def rowsReg_NBR : RegRow := ⟨0x040, 32, 4, 4, fun n i => [⟨24, 8, .ro, false, neighbourSlot n (4 * i + 3), 0, 0xff⟩,
    ⟨16, 8, .ro, false, neighbourSlot n (4 * i + 2), 0, 0xff⟩,
    ⟨8, 8, .ro, false, neighbourSlot n (4 * i + 1), 0, 0xff⟩,
    ⟨0, 8, .ro, false, neighbourSlot n (4 * i), 0, 0xff⟩]⟩
def rowsReg_RSTCTL : RegRow := ⟨0x050, 32, 1, 0, fun _ _ => [⟨0, 1, .w1s, true, 0, 0, 0x1⟩]⟩
def rowsReg : List RegRow := [rowsReg_ID, rowsReg_LIC, rowsReg_LICCTL, rowsReg_LICSTEP, rowsReg_LICCOUNT, rowsReg_VSET, rowsReg_VMEAS, rowsReg_TMEAS, rowsReg_RATE, rowsReg_LOUVRE, rowsReg_MONSTAT, rowsReg_HSTALL, rowsReg_SPEED, rowsReg_NBR, rowsReg_RSTCTL]

def rowsCore_MXID : RegRow := ⟨0x000, 32, 1, 0, fun _ _ => [⟨24, 8, .ro, false, 0, 0, 0xff⟩,
    ⟨16, 8, .ro, false, 0x20, 0, 0xff⟩,
    ⟨8, 8, .ro, false, 0x20, 0, 0xff⟩,
    ⟨0, 8, .ro, false, 0x20, 0, 0xff⟩]⟩
def rowsCore_MXCTL : RegRow := ⟨0x004, 32, 1, 0, fun _ _ => [⟨1, 1, .w1s, true, 0, 0, 0x1⟩,
    ⟨0, 1, .rw, false, 1, 0, 0x1⟩]⟩
def rowsCore_MXSTAT : RegRow := ⟨0x008, 32, 1, 0, fun _ _ => [⟨6, 2, .ro, false, 0, 0, 0x3⟩,
    ⟨5, 1, .ro, false, 0, 0, 0x1⟩,
    ⟨4, 1, .ro, false, 0, 0, 0x1⟩,
    ⟨3, 1, .ro, false, 0, 0, 0x1⟩,
    ⟨0, 1, .ro, false, 0, 0, 0x1⟩]⟩
def rowsCore_MXFLAGS : RegRow := ⟨0x00C, 32, 1, 0, fun _ _ => [⟨17, 1, .w1c, false, 0, 0, 0x1⟩,
    ⟨16, 1, .w1c, false, 0, 0, 0x1⟩,
    ⟨7, 1, .w1c, false, 0, 0, 0x1⟩,
    ⟨6, 1, .w1c, false, 0, 0, 0x1⟩,
    ⟨5, 1, .w1c, false, 0, 0, 0x1⟩,
    ⟨4, 1, .w1c, false, 0, 0, 0x1⟩,
    ⟨3, 1, .w1c, false, 0, 0, 0x1⟩,
    ⟨2, 1, .w1c, false, 0, 0, 0x1⟩,
    ⟨1, 1, .ro, false, 0, 0, 0x1⟩,
    ⟨0, 1, .w1c, false, 0, 0, 0x1⟩]⟩
def rowsCore_MXBEATS : RegRow := ⟨0x010, 64, 1, 0, fun _ _ => [⟨0, 64, .ro, false, 0, 0, 0xffffffffffffffff⟩]⟩
def rowsCore_MXTILES : RegRow := ⟨0x018, 64, 1, 0, fun _ _ => [⟨0, 64, .ro, false, 0, 0, 0xffffffffffffffff⟩]⟩
def rowsCore_MXPASSES : RegRow := ⟨0x020, 64, 1, 0, fun _ _ => [⟨0, 64, .ro, false, 0, 0, 0xffffffffffffffff⟩]⟩
def rowsCore_MXRANGE : RegRow := ⟨0x028, 32, 1, 0, fun _ _ => [⟨0, 32, .ro, false, 0, 0, 0xffffffff⟩]⟩
def rowsCore_MXLAST : RegRow := ⟨0x02C, 32, 1, 0, fun _ _ => [⟨18, 2, .ro, false, 0, 0, 0x3⟩,
    ⟨16, 2, .ro, false, 0, 0, 0x3⟩,
    ⟨0, 16, .ro, false, 0, 0, 0xffff⟩]⟩
def rowsCore_VXID : RegRow := ⟨0x1000, 32, 1, 0, fun _ _ => [⟨24, 8, .ro, false, 0, 0, 0xff⟩,
    ⟨16, 8, .ro, false, 0x20, 0, 0xff⟩,
    ⟨8, 8, .ro, false, 0x40, 0, 0xff⟩,
    ⟨0, 8, .ro, false, 0x80, 0, 0xff⟩]⟩
def rowsCore_VXCTL : RegRow := ⟨0x1004, 32, 1, 0, fun _ _ => [⟨1, 1, .w1s, true, 0, 0, 0x1⟩,
    ⟨0, 1, .rw, false, 1, 0, 0x1⟩]⟩
def rowsCore_VXSTAT : RegRow := ⟨0x1008, 32, 1, 0, fun _ _ => [⟨7, 1, .ro, false, 0, 0, 0x1⟩,
    ⟨6, 1, .ro, false, 0, 0, 0x1⟩,
    ⟨5, 1, .ro, false, 0, 0, 0x1⟩,
    ⟨4, 1, .ro, false, 0, 0, 0x1⟩,
    ⟨0, 1, .ro, false, 0, 0, 0x1⟩]⟩
def rowsCore_VXFLAGS : RegRow := ⟨0x100C, 32, 1, 0, fun _ _ => [⟨17, 1, .w1c, false, 0, 0, 0x1⟩,
    ⟨7, 1, .w1c, false, 0, 0, 0x1⟩,
    ⟨6, 1, .w1c, false, 0, 0, 0x1⟩,
    ⟨5, 1, .w1c, false, 0, 0, 0x1⟩,
    ⟨4, 1, .w1c, false, 0, 0, 0x1⟩,
    ⟨3, 1, .w1c, false, 0, 0, 0x1⟩,
    ⟨2, 1, .w1c, false, 0, 0, 0x1⟩,
    ⟨1, 1, .w1c, false, 0, 0, 0x1⟩,
    ⟨0, 1, .w1c, false, 0, 0, 0x1⟩]⟩
def rowsCore_VXELEMS : RegRow := ⟨0x1010, 64, 1, 0, fun _ _ => [⟨0, 64, .ro, false, 0, 0, 0xffffffffffffffff⟩]⟩
def rowsCore_VXTRANS : RegRow := ⟨0x1018, 64, 1, 0, fun _ _ => [⟨0, 64, .ro, false, 0, 0, 0xffffffffffffffff⟩]⟩
def rowsCore_VXTRTILES : RegRow := ⟨0x1020, 64, 1, 0, fun _ _ => [⟨0, 64, .ro, false, 0, 0, 0xffffffffffffffff⟩]⟩
def rowsCore_TRSTAT : RegRow := ⟨0x1030, 32, 1, 0, fun _ _ => [⟨24, 5, .ro, false, 0, 0, 0x1f⟩,
    ⟨16, 5, .ro, false, 0, 0, 0x1f⟩,
    ⟨0, 16, .ro, false, 0, 0, 0xffff⟩]⟩
def rowsCore_SEQSTAT : RegRow := ⟨0x2000, 32, 1, 0, fun _ _ => [⟨0, 8, .ro, false, 0, 0, 0xff⟩]⟩
def rowsCore_SEQPARTS : RegRow := ⟨0x2008, 64, 1, 0, fun _ _ => [⟨0, 64, .ro, false, 0, 0, 0xffffffffffffffff⟩]⟩
def rowsCore : List RegRow := [rowsCore_MXID, rowsCore_MXCTL, rowsCore_MXSTAT, rowsCore_MXFLAGS, rowsCore_MXBEATS, rowsCore_MXTILES, rowsCore_MXPASSES, rowsCore_MXRANGE, rowsCore_MXLAST, rowsCore_VXID, rowsCore_VXCTL, rowsCore_VXSTAT, rowsCore_VXFLAGS, rowsCore_VXELEMS, rowsCore_VXTRANS, rowsCore_VXTRTILES, rowsCore_TRSTAT, rowsCore_SEQSTAT, rowsCore_SEQPARTS]

def rowsTier_CTRL : RegRow := ⟨0x000, 32, 1, 0, fun _ _ => [⟨0, 1, .w1s, true, 0, 0, 0x1⟩]⟩
def rowsTier_STAT : RegRow := ⟨0x004, 32, 1, 0, fun _ _ => [⟨31, 1, .ro, false, 0, 0, 0x1⟩,
    ⟨16, 8, .ro, false, 0, 0, 0xff⟩,
    ⟨0, 16, .ro, false, 0, 0, 0xffff⟩]⟩
def rowsTier_PLGEN : RegRow := ⟨0x008, 32, 1, 0, fun _ _ => [⟨0, 32, .ro, false, 0, 0, 0xffffffff⟩]⟩
def rowsTier_CAP : RegRow := ⟨0x010, 32, 3, 4, fun _ _ => [⟨0, 32, .ro, false, 0, 0, 0xffffffff⟩]⟩
def rowsTier_FREE : RegRow := ⟨0x020, 32, 3, 4, fun _ _ => [⟨0, 32, .ro, false, 0, 0, 0xffffffff⟩]⟩
def rowsTier_QSEL : RegRow := ⟨0x040, 32, 1, 0, fun _ _ => [⟨0, 6, .rw, false, 0, 0, 0x3f⟩]⟩
def rowsTier_QUOTA : RegRow := ⟨0x044, 32, 3, 4, fun _ _ => [⟨0, 32, .ro, false, 0, 0, 0xffffffff⟩]⟩
def rowsTier_USED : RegRow := ⟨0x050, 32, 3, 4, fun _ _ => [⟨0, 32, .ro, false, 0, 0, 0xffffffff⟩]⟩
def rowsTier_QLAST : RegRow := ⟨0x060, 32, 1, 0, fun _ _ => [⟨31, 1, .w1c, false, 0, 0, 0x1⟩,
    ⟨14, 1, .ro, false, 0, 0, 0x1⟩,
    ⟨12, 2, .ro, false, 0, 0, 0x3⟩,
    ⟨0, 10, .ro, false, 0, 0, 0x3ff⟩]⟩
def rowsTier_MQHANDLE : RegRow := ⟨0x080, 32, 1, 0, fun _ _ => [⟨0, 32, .rw, false, 0, 0, 0xffffffff⟩]⟩
def rowsTier_MQPANE : RegRow := ⟨0x084, 32, 1, 0, fun _ _ => [⟨0, 32, .rw, false, 0, 0, 0xffffffff⟩]⟩
def rowsTier_MQCMD : RegRow := ⟨0x088, 32, 1, 0, fun _ _ => [⟨4, 4, .ro, false, 0, 0, 0xf⟩,
    ⟨1, 1, .rw, false, 0, 0, 0x1⟩,
    ⟨0, 1, .w1s, true, 0, 0, 0x1⟩]⟩
def rowsTier_MQDATA : RegRow := ⟨0x400, 32, 256, 4, fun _ _ => [⟨0, 32, .ro, false, 0, 0, 0xffffffff⟩]⟩
def rowsTier_RPCORE : RegRow := ⟨0x800, 32, 32, 4, fun _ _ => [⟨31, 1, .ro, false, 0, 0, 0x1⟩,
    ⟨16, 5, .ro, false, 0, 0, 0x1f⟩,
    ⟨0, 10, .ro, false, 0, 0, 0x3ff⟩]⟩
def rowsTier_RPLINTEL : RegRow := ⟨0x880, 32, 4, 4, fun _ _ => [⟨16, 10, .ro, false, 0, 0, 0x3ff⟩,
    ⟨0, 4, .ro, false, 0, 0, 0xf⟩]⟩
def rowsTier_RPNODE : RegRow := ⟨0x8A0, 64, 1, 0, fun _ _ => [⟨32, 16, .ro, false, 0, 0, 0xffff⟩,
    ⟨16, 16, .ro, false, 0, 0, 0xffff⟩,
    ⟨0, 16, .ro, false, 0, 0, 0xffff⟩]⟩
def rowsTier_RPDEG : RegRow := ⟨0x8A8, 64, 1, 0, fun _ _ => [⟨32, 16, .ro, false, 0, 0, 0xffff⟩,
    ⟨16, 16, .ro, false, 0, 0, 0xffff⟩,
    ⟨0, 16, .ro, false, 0, 0, 0xffff⟩]⟩
def rowsTier : List RegRow := [rowsTier_CTRL, rowsTier_STAT, rowsTier_PLGEN, rowsTier_CAP, rowsTier_FREE, rowsTier_QSEL, rowsTier_QUOTA, rowsTier_USED, rowsTier_QLAST, rowsTier_MQHANDLE, rowsTier_MQPANE, rowsTier_MQCMD, rowsTier_MQDATA, rowsTier_RPCORE, rowsTier_RPLINTEL, rowsTier_RPNODE, rowsTier_RPDEG]

def rowsMu_MUID : RegRow := ⟨0x000, 32, 1, 0, fun n _ => [⟨24, 8, .ro, false, 0, 0, 0xff⟩,
    ⟨16, 1, .ro, false, n / 16, 0, 0x1⟩,
    ⟨0, 4, .ro, false, n % 16, 0, 0xf⟩]⟩
def rowsMu_MUSTAT : RegRow := ⟨0x004, 32, 1, 0, fun _ _ => [⟨24, 8, .ro, false, 0, 0, 0xff⟩,
    ⟨16, 8, .ro, false, 0, 0, 0xff⟩,
    ⟨8, 8, .ro, false, 0, 0, 0xff⟩,
    ⟨0, 3, .ro, false, 0, 0, 0x7⟩]⟩
def rowsMu_MUCAP : RegRow := ⟨0x008, 32, 1, 0, fun _ _ => [⟨0, 16, .ro, false, 0, 0, 0xffff⟩]⟩
def rowsMu_MUSLOTS : RegRow := ⟨0x00C, 32, 1, 0, fun _ _ => [⟨0, 32, .ro, false, 0, 0, 0xffffffff⟩]⟩
def rowsMu_MUTEMP : RegRow := ⟨0x010, 32, 1, 0, fun _ _ => [⟨31, 1, .w1c, false, 0, 0, 0x1⟩,
    ⟨30, 1, .ro, false, 0, 0, 0x1⟩,
    ⟨29, 1, .ro, false, 0, 0, 0x1⟩,
    ⟨16, 5, .ro, false, 16, 0, 0x1f⟩,
    ⟨0, 8, .ro, false, 0, 0, 0xff⟩]⟩
def rowsMu_MUTHR : RegRow := ⟨0x014, 32, 1, 0, fun _ _ => [⟨8, 8, .rw, false, 95, 0, 0xff⟩,
    ⟨0, 8, .rw, false, 85, 0, 0xff⟩]⟩
def rowsMu_MUCECNT : RegRow := ⟨0x018, 32, 1, 0, fun _ _ => [⟨0, 32, .ro, false, 0, 0, 0xffffffff⟩]⟩
def rowsMu_MUUECNT : RegRow := ⟨0x01C, 32, 1, 0, fun _ _ => [⟨0, 32, .ro, false, 0, 0, 0xffffffff⟩]⟩
def rowsMu_MUCTL : RegRow := ⟨0x020, 32, 1, 0, fun _ _ => [⟨16, 4, .rw, false, 4, 1, 15⟩,
    ⟨8, 8, .rw, false, 64, 1, 255⟩,
    ⟨2, 1, .rw, false, 1, 0, 0x1⟩,
    ⟨1, 1, .rw, false, 1, 0, 0x1⟩,
    ⟨0, 1, .rw, false, 1, 0, 0x1⟩]⟩
def rowsMu_MUREMAP : RegRow := ⟨0x024, 32, 1, 0, fun _ _ => [⟨31, 1, .w1c, false, 0, 0, 0x1⟩,
    ⟨30, 1, .w1c, false, 0, 0, 0x1⟩,
    ⟨0, 15, .ro, false, 0, 0, 0x7fff⟩]⟩
def rowsMu_MURMSEL : RegRow := ⟨0x028, 32, 1, 0, fun _ _ => [⟨9, 5, .rw, false, 0, 0, 0x1f⟩,
    ⟨0, 9, .rw, false, 0, 0, 0x1ff⟩]⟩
def rowsMu_MURMDATA : RegRow := ⟨0x030, 64, 1, 0, fun _ _ => [⟨63, 1, .ro, false, 0, 0, 0x1⟩,
    ⟨61, 2, .ro, false, 0, 0, 0x3⟩,
    ⟨60, 1, .ro, false, 0, 0, 0x1⟩,
    ⟨32, 4, .ro, false, 0, 0, 0xf⟩,
    ⟨31, 1, .ro, false, 0, 0, 0x1⟩,
    ⟨28, 3, .ro, false, 0, 0, 0x7⟩,
    ⟨24, 4, .ro, false, 0, 0, 0xf⟩,
    ⟨0, 24, .ro, false, 0, 0, 0xffffff⟩]⟩
def rowsMu_MUERRLAST : RegRow := ⟨0x038, 64, 1, 0, fun _ _ => [⟨63, 1, .w1c, false, 0, 0, 0x1⟩,
    ⟨62, 1, .ro, false, 0, 0, 0x1⟩,
    ⟨40, 22, .ro, false, 0, 0, 0x3fffff⟩,
    ⟨32, 4, .ro, false, 0, 0, 0xf⟩,
    ⟨31, 1, .ro, false, 0, 0, 0x1⟩,
    ⟨28, 3, .ro, false, 0, 0, 0x7⟩,
    ⟨24, 4, .ro, false, 0, 0, 0xf⟩,
    ⟨0, 24, .ro, false, 0, 0, 0xffffff⟩]⟩
def rowsMu_MUZERO : RegRow := ⟨0x040, 32, 1, 0, fun _ _ => [⟨31, 1, .ro, false, 0, 0, 0x1⟩,
    ⟨0, 31, .ro, false, 0, 0, 0x7fffffff⟩]⟩
def rowsMu_MUREPAIR : RegRow := ⟨0x044, 32, 1, 0, fun _ _ => [⟨16, 16, .ro, false, 0, 0, 0xffff⟩,
    ⟨0, 16, .ro, false, 0, 0, 0xffff⟩]⟩
def rowsMu : List RegRow := [rowsMu_MUID, rowsMu_MUSTAT, rowsMu_MUCAP, rowsMu_MUSLOTS, rowsMu_MUTEMP, rowsMu_MUTHR, rowsMu_MUCECNT, rowsMu_MUUECNT, rowsMu_MUCTL, rowsMu_MUREMAP, rowsMu_MURMSEL, rowsMu_MURMDATA, rowsMu_MUERRLAST, rowsMu_MUZERO, rowsMu_MUREPAIR]

def rowsCart_CPSTAT : RegRow := ⟨0x000, 32, 1, 0, fun _ _ => [⟨24, 8, .ro, false, 0, 0, 0xff⟩,
    ⟨13, 1, .w1c, false, 0, 0, 0x1⟩,
    ⟨12, 1, .w1c, false, 0, 0, 0x1⟩,
    ⟨11, 1, .w1c, false, 0, 0, 0x1⟩,
    ⟨10, 1, .ro, false, 0, 0, 0x1⟩,
    ⟨9, 1, .ro, false, 0, 0, 0x1⟩,
    ⟨8, 1, .ro, false, 0, 0, 0x1⟩,
    ⟨0, 3, .ro, false, 0, 0, 0x7⟩]⟩
def rowsCart_CPCTL : RegRow := ⟨0x004, 32, 1, 0, fun _ _ => [⟨0, 10, .rw, false, 50, 0, 1000⟩]⟩
def rowsCart_CPCMD : RegRow := ⟨0x008, 32, 1, 0, fun _ _ => [⟨28, 4, .ro, false, 0, 0, 0xf⟩,
    ⟨8, 12, .rw, false, 0, 0, 0xfff⟩,
    ⟨1, 2, .rw, false, 0, 1, 2⟩,
    ⟨0, 1, .w1s, true, 0, 0, 0x1⟩]⟩
def rowsCart_CPSERIAL : RegRow := ⟨0x010, 32, 4, 4, fun _ _ => [⟨0, 32, .ro, false, 0, 0, 0xffffffff⟩]⟩
def rowsCart_CPCAP : RegRow := ⟨0x020, 32, 1, 0, fun _ _ => [⟨16, 16, .ro, false, 0, 0, 0xffff⟩,
    ⟨0, 16, .ro, false, 0, 0, 0xffff⟩]⟩
def rowsCart_CPSLOTS : RegRow := ⟨0x024, 32, 1, 0, fun _ _ => [⟨0, 32, .ro, false, 0, 0, 0xffffffff⟩]⟩
def rowsCart_CPWEAR : RegRow := ⟨0x028, 32, 1, 0, fun _ _ => [⟨0, 32, .ro, false, 0, 0, 0xffffffff⟩]⟩
def rowsCart_CPRATED : RegRow := ⟨0x02C, 32, 1, 0, fun _ _ => [⟨0, 32, .ro, false, 0, 0, 0xffffffff⟩]⟩
def rowsCart_CPLIFE : RegRow := ⟨0x030, 32, 1, 0, fun _ _ => [⟨0, 10, .ro, false, 0, 0, 0x3ff⟩]⟩
def rowsCart_CPUECNT : RegRow := ⟨0x034, 32, 1, 0, fun _ _ => [⟨0, 32, .ro, false, 0, 0, 0xffffffff⟩]⟩
def rowsCart : List RegRow := [rowsCart_CPSTAT, rowsCart_CPCTL, rowsCart_CPCMD, rowsCart_CPSERIAL, rowsCart_CPCAP, rowsCart_CPSLOTS, rowsCart_CPWEAR, rowsCart_CPRATED, rowsCart_CPLIFE, rowsCart_CPUECNT]

def rowsCe_CEID : RegRow := ⟨0x000, 32, 1, 0, fun n _ => [⟨24, 8, .ro, false, 0, 0, 0xff⟩,
    ⟨4, 10, .ro, false, 32 * n, 0, 0x3ff⟩,
    ⟨0, 4, .ro, false, n, 0, 0xf⟩]⟩
def rowsCe_CESTAT : RegRow := ⟨0x004, 32, 1, 0, fun _ _ => [⟨2, 1, .ro, false, 0, 0, 0x1⟩,
    ⟨1, 1, .ro, false, 0, 0, 0x1⟩,
    ⟨0, 1, .ro, false, 0, 0, 0x1⟩]⟩
def rowsCe_CEFLAGS : RegRow := ⟨0x008, 32, 1, 0, fun _ _ => [⟨6, 1, .w1c, false, 0, 0, 0x1⟩,
    ⟨5, 1, .w1c, false, 0, 0, 0x1⟩,
    ⟨4, 1, .w1c, false, 0, 0, 0x1⟩,
    ⟨3, 1, .w1c, false, 0, 0, 0x1⟩,
    ⟨2, 1, .w1c, false, 0, 0, 0x1⟩,
    ⟨1, 1, .ro, false, 0, 0, 0x1⟩,
    ⟨0, 1, .w1c, false, 0, 0, 0x1⟩]⟩
def rowsCe_CEBLOCKS : RegRow := ⟨0x010, 64, 1, 0, fun _ _ => [⟨0, 64, .ro, false, 0, 0, 0xffffffffffffffff⟩]⟩
def rowsCe_CEBYTES : RegRow := ⟨0x018, 64, 1, 0, fun _ _ => [⟨0, 64, .ro, false, 0, 0, 0xffffffffffffffff⟩]⟩
def rowsCe_CERAW : RegRow := ⟨0x020, 32, 1, 0, fun _ _ => [⟨0, 32, .ro, false, 0, 0, 0xffffffff⟩]⟩
def rowsCe_CECORRUPT : RegRow := ⟨0x024, 32, 1, 0, fun _ _ => [⟨0, 32, .ro, false, 0, 0, 0xffffffff⟩]⟩
def rowsCe_CEGENMISS : RegRow := ⟨0x028, 32, 1, 0, fun _ _ => [⟨0, 32, .ro, false, 0, 0, 0xffffffff⟩]⟩
def rowsCe_CXSEL : RegRow := ⟨0x030, 32, 1, 0, fun _ _ => [⟨0, 5, .rw, false, 0, 0, 0x1f⟩]⟩
def rowsCe_CXSTAT : RegRow := ⟨0x034, 32, 1, 0, fun _ _ => [⟨22, 2, .ro, false, 0, 0, 0x3⟩,
    ⟨14, 8, .ro, false, 0, 0, 0xff⟩,
    ⟨13, 1, .ro, false, 0, 0, 0x1⟩,
    ⟨10, 3, .ro, false, 0, 0, 0x7⟩,
    ⟨9, 1, .ro, false, 0, 0, 0x1⟩,
    ⟨6, 3, .ro, false, 0, 0, 0x7⟩,
    ⟨5, 1, .ro, false, 0, 0, 0x1⟩,
    ⟨4, 1, .ro, false, 0, 0, 0x1⟩,
    ⟨0, 4, .ro, false, 0, 0, 0xf⟩]⟩
def rowsCe_CXSEQ : RegRow := ⟨0x038, 32, 1, 0, fun _ _ => [⟨16, 16, .ro, false, 0, 0, 0xffff⟩,
    ⟨0, 16, .ro, false, 0, 0, 0xffff⟩]⟩
def rowsCe : List RegRow := [rowsCe_CEID, rowsCe_CESTAT, rowsCe_CEFLAGS, rowsCe_CEBLOCKS, rowsCe_CEBYTES, rowsCe_CERAW, rowsCe_CECORRUPT, rowsCe_CEGENMISS, rowsCe_CXSEL, rowsCe_CXSTAT, rowsCe_CXSEQ]

def rowsCk_CKCTL : RegRow := ⟨0x000, 32, 1, 0, fun _ _ => [⟨31, 1, .ro, false, 0, 0, 0x1⟩,
    ⟨16, 5, .rw, true, 0, 0, 16⟩,
    ⟨4, 1, .w1s, true, 0, 0, 0x1⟩,
    ⟨2, 2, .rw, true, 0, 0, 0x3⟩,
    ⟨1, 1, .rw, false, 0, 0, 0x1⟩,
    ⟨0, 1, .rw, true, 0, 0, 0x1⟩]⟩
def rowsCk_CKSTAT : RegRow := ⟨0x004, 32, 1, 0, fun _ _ => [⟨2, 1, .ro, false, 0, 0, 0x1⟩,
    ⟨1, 1, .w1c, false, 0, 0, 0x1⟩,
    ⟨0, 1, .w1c, false, 0, 0, 0x1⟩]⟩
def rowsCk_CKMATCH : RegRow := ⟨0x008, 32, 1, 0, fun _ _ => [⟨0, 32, .rw, true, 0, 0, 0xffffffff⟩]⟩
def rowsCk_CKLIMIT : RegRow := ⟨0x010, 64, 1, 0, fun _ _ => [⟨0, 64, .rw, true, 0, 0, 0xffffffffffffffff⟩]⟩
def rowsCk_CKCOUNT : RegRow := ⟨0x018, 64, 1, 0, fun _ _ => [⟨0, 64, .rw, true, 0, 0, 0xffffffffffffffff⟩]⟩
def rowsCk_CKRUN : RegRow := ⟨0x020, 64, 1, 0, fun _ _ => [⟨0, 64, .rw, true, 0, 0, 0xffffffffffffffff⟩]⟩
def rowsCk_CKFINAL : RegRow := ⟨0x028, 64, 1, 0, fun _ _ => [⟨0, 64, .ro, false, 0, 0, 0xffffffffffffffff⟩]⟩
def rowsCk_CKCMP : RegRow := ⟨0x030, 64, 1, 0, fun _ _ => [⟨0, 64, .rw, false, 0, 0, 0xffffffffffffffff⟩]⟩
def rowsCk : List RegRow := [rowsCk_CKCTL, rowsCk_CKSTAT, rowsCk_CKMATCH, rowsCk_CKLIMIT, rowsCk_CKCOUNT, rowsCk_CKRUN, rowsCk_CKFINAL, rowsCk_CKCMP]

def rowsTrn_ID : RegRow := ⟨0x000, 32, 1, 0, fun _ _ => [⟨24, 8, .ro, false, 0, 0, 0xff⟩,
    ⟨0, 17, .ro, false, 0, 0, 0x1ffff⟩]⟩
def rowsTrn_STAT : RegRow := ⟨0x004, 32, 1, 0, fun _ _ => [⟨8, 1, .w1c, false, 0, 0, 0x1⟩,
    ⟨7, 1, .w1c, false, 0, 0, 0x1⟩,
    ⟨6, 1, .w1c, false, 0, 0, 0x1⟩,
    ⟨5, 1, .w1c, false, 0, 0, 0x1⟩,
    ⟨4, 1, .w1c, false, 0, 0, 0x1⟩,
    ⟨3, 1, .w1c, false, 0, 0, 0x1⟩,
    ⟨1, 1, .ro, false, 0, 0, 0x1⟩,
    ⟨0, 1, .ro, false, 0, 0, 0x1⟩]⟩
def rowsTrn_SWFLAGS : RegRow := ⟨0x008, 32, 1, 0, fun _ _ => [⟨7, 1, .ro, false, 0, 0, 0x1⟩,
    ⟨6, 1, .w1c, false, 0, 0, 0x1⟩,
    ⟨5, 1, .w1c, false, 0, 0, 0x1⟩,
    ⟨4, 1, .w1c, false, 0, 0, 0x1⟩,
    ⟨3, 1, .w1c, false, 0, 0, 0x1⟩,
    ⟨2, 1, .w1c, false, 0, 0, 0x1⟩,
    ⟨1, 1, .w1c, false, 0, 0, 0x1⟩,
    ⟨0, 1, .w1c, false, 0, 0, 0x1⟩]⟩
def rowsTrn_SWPRE : RegRow := ⟨0x00C, 32, 1, 0, fun _ _ => [⟨0, 4, .rw, false, 8, 1, 12⟩]⟩
def rowsTrn_ZALARM : RegRow := ⟨0x010, 32, 1, 0, fun _ _ => [⟨0, 16, .rw, false, 64, 0, 0xffff⟩]⟩
def rowsTrn_DGEVERY : RegRow := ⟨0x014, 32, 1, 0, fun _ _ => [⟨0, 32, .rw, false, 0, 0, 0xffffffff⟩]⟩
def rowsTrn_LSEL : RegRow := ⟨0x018, 32, 1, 0, fun _ _ => [⟨0, 13, .rw, false, 0, 0, 0x1fff⟩]⟩
def rowsTrn_LZERO : RegRow := ⟨0x01C, 32, 1, 0, fun _ _ => [⟨16, 1, .ro, false, 0, 0, 0x1⟩,
    ⟨0, 16, .ro, false, 0, 0, 0xffff⟩]⟩
def rowsTrn_LRATIO : RegRow := ⟨0x020, 32, 1, 0, fun _ _ => [⟨0, 32, .ro, false, 0, 0, 0xffffffff⟩]⟩
def rowsTrn_LMAXD : RegRow := ⟨0x024, 32, 1, 0, fun _ _ => [⟨0, 32, .ro, false, 0, 0, 0xffffffff⟩]⟩
def rowsTrn_SHDATA : RegRow := ⟨0x028, 64, 1, 0, fun _ _ => [⟨0, 64, .rw, false, 0, 0, 0xffffffffffffffff⟩]⟩
def rowsTrn_SWSKIP : RegRow := ⟨0x030, 32, 1, 0, fun _ _ => [⟨0, 32, .ro, false, 0, 0, 0xffffffff⟩]⟩
def rowsTrn_SWHALF : RegRow := ⟨0x034, 32, 1, 0, fun _ _ => [⟨0, 32, .ro, false, 0, 0, 0xffffffff⟩]⟩
def rowsTrn_SWTAGBAD : RegRow := ⟨0x038, 32, 1, 0, fun _ _ => [⟨0, 32, .ro, false, 0, 0, 0xffffffff⟩]⟩
def rowsTrn_DGHANDLE : RegRow := ⟨0x040, 32, 1, 0, fun _ _ => [⟨0, 32, .ro, false, 0, 0, 0xffffffff⟩]⟩
def rowsTrn_DGSHARD : RegRow := ⟨0x044, 32, 1, 0, fun _ _ => [⟨0, 28, .ro, false, 0, 0, 0xfffffff⟩]⟩
def rowsTrn_DGNODE : RegRow := ⟨0x048, 32, 1, 0, fun _ _ => [⟨0, 16, .ro, false, 0, 0, 0xffff⟩]⟩
def rowsTrn_CKRECV : RegRow := ⟨0x050, 32, 1, 0, fun _ _ => [⟨31, 1, .rw, false, 0, 0, 0x1⟩,
    ⟨30, 1, .w1c, false, 0, 0, 0x1⟩,
    ⟨0, 2, .rw, false, 0, 0, 0x3⟩]⟩
def rowsTrn_CKRFIRST : RegRow := ⟨0x054, 32, 1, 0, fun _ _ => [⟨0, 32, .rw, false, 0, 0, 0xffffffff⟩]⟩
def rowsTrn_CKRCOUNT : RegRow := ⟨0x058, 32, 1, 0, fun _ _ => [⟨0, 32, .rw, false, 0, 0, 0xffffffff⟩]⟩
def rowsTrn_PHCTL : RegRow := ⟨0x060, 32, 1, 0, fun _ _ => [⟨1, 1, .rw, false, 1, 0, 0x1⟩,
    ⟨0, 1, .w1s, true, 0, 0, 0x1⟩]⟩
def rowsTrn_OPT : RegRow := ⟨0x100, 32, 128, 4, fun _ _ => [⟨0, 32, .rw, false, 0, 0, 0xffffffff⟩]⟩
def rowsTrn_PHREP : RegRow := ⟨0x400, 64, 10, 8, fun _ _ => [⟨0, 64, .ro, false, 0, 0, 0xffffffffffffffff⟩]⟩
def rowsTrn : List RegRow := [rowsTrn_ID, rowsTrn_STAT, rowsTrn_SWFLAGS, rowsTrn_SWPRE, rowsTrn_ZALARM, rowsTrn_DGEVERY, rowsTrn_LSEL, rowsTrn_LZERO, rowsTrn_LRATIO, rowsTrn_LMAXD, rowsTrn_SHDATA, rowsTrn_SWSKIP, rowsTrn_SWHALF, rowsTrn_SWTAGBAD, rowsTrn_DGHANDLE, rowsTrn_DGSHARD, rowsTrn_DGNODE, rowsTrn_CKRECV, rowsTrn_CKRFIRST, rowsTrn_CKRCOUNT, rowsTrn_PHCTL, rowsTrn_OPT, rowsTrn_PHREP]

def rowsDw_DWID : RegRow := ⟨0x000, 32, 1, 0, fun n _ => [⟨24, 8, .ro, false, 0, 0, 0xff⟩,
    ⟨0, 4, .ro, false, n, 0, 0xf⟩]⟩
def rowsDw_DWCTL : RegRow := ⟨0x004, 32, 1, 0, fun _ _ => [⟨4, 2, .rw, true, 0, 0, 2⟩,
    ⟨1, 1, .rw, true, 0, 0, 0x1⟩,
    ⟨0, 1, .rw, true, 0, 0, 0x1⟩]⟩
def rowsDw_DWSTAT : RegRow := ⟨0x008, 32, 1, 0, fun _ _ => [⟨16, 16, .ro, false, 0, 0, 0xffff⟩,
    ⟨15, 1, .ro, false, 0, 0, 0x1⟩,
    ⟨7, 8, .ro, false, 0, 0, 0xff⟩,
    ⟨4, 3, .ro, false, 0, 0, 0x7⟩,
    ⟨0, 3, .ro, false, 0, 0, 0x7⟩]⟩
def rowsDw_DWFECCOR : RegRow := ⟨0x010, 64, 1, 0, fun _ _ => [⟨0, 64, .ro, false, 0, 0, 0xffffffffffffffff⟩]⟩
def rowsDw_DWFECUNC : RegRow := ⟨0x018, 64, 1, 0, fun _ _ => [⟨0, 64, .ro, false, 0, 0, 0xffffffffffffffff⟩]⟩
def rowsDw_DWTXBYTES : RegRow := ⟨0x020, 64, 1, 0, fun _ _ => [⟨0, 64, .ro, false, 0, 0, 0xffffffffffffffff⟩]⟩
def rowsDw_DWRXBYTES : RegRow := ⟨0x028, 64, 1, 0, fun _ _ => [⟨0, 64, .ro, false, 0, 0, 0xffffffffffffffff⟩]⟩
def rowsDw_DWDROP : RegRow := ⟨0x030, 32, 1, 0, fun _ _ => [⟨0, 32, .ro, false, 0, 0, 0xffffffff⟩]⟩
def rowsDw_DWICRC : RegRow := ⟨0x034, 32, 1, 0, fun _ _ => [⟨0, 32, .ro, false, 0, 0, 0xffffffff⟩]⟩
def rowsDw_DWRETX : RegRow := ⟨0x038, 32, 1, 0, fun _ _ => [⟨0, 32, .ro, false, 0, 0, 0xffffffff⟩]⟩
def rowsDw_DWCE : RegRow := ⟨0x03C, 32, 1, 0, fun _ _ => [⟨0, 32, .ro, false, 0, 0, 0xffffffff⟩]⟩
def rowsDw_DWTRANS : RegRow := ⟨0x040, 32, 1, 0, fun _ _ => [⟨28, 4, .rw, false, 8, 1, 15⟩,
    ⟨16, 9, .rw, false, 16, 1, 256⟩,
    ⟨0, 16, .rw, false, 64, 1, 65535⟩]⟩
def rowsDw_DWETH : RegRow := ⟨0x044, 32, 1, 0, fun _ _ => [⟨16, 16, .rw, false, 39216, 0, 0xffff⟩,
    ⟨8, 8, .rw, false, 64, 1, 255⟩,
    ⟨0, 8, .rw, false, 0, 0, 0xff⟩]⟩
def rowsDw_DWVLAN : RegRow := ⟨0x048, 32, 1, 0, fun _ _ => [⟨31, 1, .rw, false, 0, 0, 0x1⟩,
    ⟨12, 9, .rw, false, 0, 0, 0x1ff⟩,
    ⟨0, 12, .rw, false, 0, 0, 0xfff⟩]⟩
def rowsDw_DWQOS : RegRow := ⟨0x04C, 32, 1, 0, fun _ _ => [⟨0, 18, .rw, false, 0, 0, 0x3ffff⟩]⟩
def rowsDw_DWMAC : RegRow := ⟨0x050, 64, 1, 0, fun _ _ => [⟨0, 48, .rw, false, 0, 0, 0xffffffffffff⟩]⟩
def rowsDw_DWGWMAC : RegRow := ⟨0x058, 64, 1, 0, fun _ _ => [⟨0, 48, .rw, false, 0, 0, 0xffffffffffff⟩]⟩
def rowsDw_DWIP : RegRow := ⟨0x060, 32, 4, 4, fun _ _ => [⟨0, 32, .rw, false, 0, 0, 0xffffffff⟩]⟩
def rowsDw : List RegRow := [rowsDw_DWID, rowsDw_DWCTL, rowsDw_DWSTAT, rowsDw_DWFECCOR, rowsDw_DWFECUNC, rowsDw_DWTXBYTES, rowsDw_DWRXBYTES, rowsDw_DWDROP, rowsDw_DWICRC, rowsDw_DWRETX, rowsDw_DWCE, rowsDw_DWTRANS, rowsDw_DWETH, rowsDw_DWVLAN, rowsDw_DWQOS, rowsDw_DWMAC, rowsDw_DWGWMAC, rowsDw_DWIP]

def rowsNd_NDSELF : RegRow := ⟨0x000, 32, 1, 0, fun _ _ => [⟨31, 1, .ro, false, 0, 0, 0x1⟩,
    ⟨30, 1, .ro, false, 0, 0, 0x1⟩,
    ⟨16, 3, .ro, false, 0, 0, 0x7⟩,
    ⟨0, 16, .rw, true, 0, 0, 0xffff⟩]⟩
def rowsNd_NDEPOCH : RegRow := ⟨0x004, 32, 1, 0, fun _ _ => [⟨0, 32, .ro, false, 0, 0, 0xffffffff⟩]⟩
def rowsNd_NDCOUNT : RegRow := ⟨0x008, 32, 1, 0, fun _ _ => [⟨0, 17, .ro, false, 0, 0, 0x1ffff⟩]⟩
def rowsNd_NDCOORD : RegRow := ⟨0x00C, 32, 1, 0, fun _ _ => [⟨0, 16, .ro, false, 0, 0, 0xffff⟩]⟩
def rowsNd_NDCTL : RegRow := ⟨0x010, 32, 1, 0, fun _ _ => [⟨0, 6, .w1s, true, 0, 0, 0x3f⟩]⟩
def rowsNd_NDEVENT : RegRow := ⟨0x014, 32, 1, 0, fun _ _ => [⟨4, 1, .w1c, false, 0, 0, 0x1⟩,
    ⟨3, 1, .w1c, false, 0, 0, 0x1⟩,
    ⟨2, 1, .w1c, false, 0, 0, 0x1⟩,
    ⟨1, 1, .w1c, false, 0, 0, 0x1⟩,
    ⟨0, 1, .w1c, false, 0, 0, 0x1⟩]⟩
def rowsNd_NDARG : RegRow := ⟨0x018, 32, 1, 0, fun _ _ => [⟨0, 16, .rw, false, 0, 0, 0xffff⟩]⟩
def rowsNd_NDCONTIP : RegRow := ⟨0x020, 32, 4, 4, fun _ _ => [⟨0, 32, .rw, false, 0, 0, 0xffffffff⟩]⟩
def rowsNd_NDREQ : RegRow := ⟨0x030, 32, 1, 0, fun _ _ => [⟨31, 1, .ro, false, 0, 0, 0x1⟩,
    ⟨0, 16, .ro, false, 0, 0, 0xffff⟩]⟩
def rowsNd_NDREQFP : RegRow := ⟨0x040, 32, 8, 4, fun _ _ => [⟨0, 32, .ro, false, 0, 0, 0xffffffff⟩]⟩
def rowsNd_NDLOC : RegRow := ⟨0x060, 64, 1, 0, fun _ _ => [⟨32, 16, .rw, false, 0, 0, 0xffff⟩,
    ⟨0, 32, .rw, false, 0, 0, 0xffffffff⟩]⟩
def rowsNd_NDFAILED : RegRow := ⟨0x068, 32, 1, 0, fun _ _ => [⟨0, 16, .ro, false, 0, 0, 0xffff⟩]⟩
def rowsNd_NDRTSEL : RegRow := ⟨0x070, 32, 1, 0, fun _ _ => [⟨0, 16, .rw, false, 0, 0, 0xffff⟩]⟩
def rowsNd_NDRTDATA : RegRow := ⟨0x074, 32, 1, 0, fun _ _ => [⟨31, 1, .rw, false, 0, 0, 0x1⟩,
    ⟨30, 1, .ro, false, 0, 0, 0x1⟩,
    ⟨0, 16, .rw, false, 0, 0, 0xffff⟩]⟩
def rowsNd : List RegRow := [rowsNd_NDSELF, rowsNd_NDEPOCH, rowsNd_NDCOUNT, rowsNd_NDCOORD, rowsNd_NDCTL, rowsNd_NDEVENT, rowsNd_NDARG, rowsNd_NDCONTIP, rowsNd_NDREQ, rowsNd_NDREQFP, rowsNd_NDLOC, rowsNd_NDFAILED, rowsNd_NDRTSEL, rowsNd_NDRTDATA]

def rowsImg_ID : RegRow := ⟨0x000, 32, 1, 0, fun _ _ => [⟨24, 8, .ro, false, 0, 0, 0xff⟩,
    ⟨16, 8, .ro, false, 1, 0, 0xff⟩,
    ⟨0, 8, .ro, false, 0x80, 0, 0xff⟩]⟩
def rowsImg_CTRL : RegRow := ⟨0x004, 32, 1, 0, fun _ _ => [⟨2, 1, .w1s, true, 0, 0, 0x1⟩,
    ⟨1, 1, .w1s, true, 0, 0, 0x1⟩,
    ⟨0, 1, .w1s, true, 0, 0, 0x1⟩]⟩
def rowsImg_STAT : RegRow := ⟨0x008, 32, 1, 0, fun _ _ => [⟨6, 1, .ro, false, 0, 0, 0x1⟩,
    ⟨5, 1, .ro, false, 0, 0, 0x1⟩,
    ⟨4, 1, .ro, false, 0, 0, 0x1⟩,
    ⟨0, 4, .ro, false, 0, 0, 0xf⟩]⟩
def rowsImg_ADDR : RegRow := ⟨0x010, 64, 1, 0, fun _ _ => [⟨0, 64, .rw, false, 0, 0, 0xffffffffffffffff⟩]⟩
def rowsImg_LOADID : RegRow := ⟨0x018, 64, 1, 0, fun _ _ => [⟨0, 64, .ro, false, 0, 0, 0xffffffffffffffff⟩]⟩
def rowsImg_LEN : RegRow := ⟨0x020, 32, 1, 0, fun _ _ => [⟨0, 32, .rw, false, 0, 0, 0xffffffff⟩]⟩
def rowsImg_ERR : RegRow := ⟨0x024, 32, 1, 0, fun _ _ => [⟨8, 8, .ro, false, 0, 0, 0xff⟩,
    ⟨0, 8, .ro, false, 0, 0, 0xff⟩]⟩
def rowsImg_ERRREC : RegRow := ⟨0x028, 32, 1, 0, fun _ _ => [⟨0, 32, .ro, false, 0, 0, 0xffffffff⟩]⟩
def rowsImg_LOADS : RegRow := ⟨0x02C, 32, 1, 0, fun _ _ => [⟨0, 32, .ro, false, 0, 0, 0xffffffff⟩]⟩
def rowsImg_DWSKIP : RegRow := ⟨0x030, 32, 1, 0, fun _ _ => [⟨0, 16, .w1c, false, 0, 0, 0xffff⟩]⟩
def rowsImg_DIGEST : RegRow := ⟨0x040, 32, 16, 4, fun _ _ => [⟨0, 32, .ro, false, 0, 0, 0xffffffff⟩]⟩
def rowsImg_PRSEL : RegRow := ⟨0x100, 32, 1, 0, fun _ _ => [⟨0, 10, .rw, false, 0, 0, 0x3ff⟩]⟩
def rowsImg_PRSTAT : RegRow := ⟨0x104, 32, 1, 0, fun _ _ => [⟨12, 3, .ro, false, 0, 0, 0x7⟩,
    ⟨0, 12, .ro, false, 0, 0, 0xfff⟩]⟩
def rowsImg_PRROUND : RegRow := ⟨0x108, 32, 1, 0, fun _ _ => [⟨0, 32, .ro, false, 0, 0, 0xffffffff⟩]⟩
def rowsImg : List RegRow := [rowsImg_ID, rowsImg_CTRL, rowsImg_STAT, rowsImg_ADDR, rowsImg_LOADID, rowsImg_LEN, rowsImg_ERR, rowsImg_ERRREC, rowsImg_LOADS, rowsImg_DWSKIP, rowsImg_DIGEST, rowsImg_PRSEL, rowsImg_PRSTAT, rowsImg_PRROUND]

def rowsCmdq_QCTL : RegRow := ⟨0x000, 32, 1, 0, fun _ _ => [⟨16, 12, .rw, false, 0, 0, 0xfff⟩,
    ⟨4, 4, .rw, false, 1, 1, 15⟩,
    ⟨0, 1, .rw, true, 0, 0, 0x1⟩]⟩
def rowsCmdq_QSTAT : RegRow := ⟨0x004, 32, 1, 0, fun _ _ => [⟨16, 13, .ro, false, 0, 0, 0x1fff⟩,
    ⟨12, 4, .ro, false, 0, 0, 0xf⟩,
    ⟨11, 1, .ro, false, 0, 0, 0x1⟩,
    ⟨10, 1, .ro, false, 0, 0, 0x1⟩,
    ⟨9, 1, .w1c, false, 0, 0, 0x1⟩,
    ⟨8, 1, .w1c, false, 0, 0, 0x1⟩,
    ⟨4, 4, .ro, false, 0, 0, 0xf⟩,
    ⟨0, 2, .ro, false, 0, 0, 0x3⟩]⟩
def rowsCmdq_QBIND : RegRow := ⟨0x008, 32, 1, 0, fun _ _ => [⟨31, 1, .rw, true, 0, 0, 0x1⟩,
    ⟨0, 10, .rw, true, 0, 0, 0x3ff⟩]⟩
def rowsCmdq_QRING : RegRow := ⟨0x00C, 32, 1, 0, fun _ _ => [⟨16, 5, .rw, true, 4, 4, 16⟩,
    ⟨0, 5, .rw, true, 4, 4, 16⟩]⟩
def rowsCmdq_SQBASE : RegRow := ⟨0x010, 64, 1, 0, fun _ _ => [⟨12, 52, .rw, true, 0, 0, 0xfffffffffffff⟩]⟩
def rowsCmdq_CQBASE : RegRow := ⟨0x018, 64, 1, 0, fun _ _ => [⟨12, 52, .rw, true, 0, 0, 0xfffffffffffff⟩]⟩
def rowsCmdq_QPTR : RegRow := ⟨0x020, 64, 1, 0, fun _ _ => [⟨48, 16, .ro, false, 0, 0, 0xffff⟩,
    ⟨32, 16, .ro, false, 0, 0, 0xffff⟩,
    ⟨16, 16, .ro, false, 0, 0, 0xffff⟩,
    ⟨0, 16, .ro, false, 0, 0, 0xffff⟩]⟩
def rowsCmdq_QIRQ : RegRow := ⟨0x028, 32, 1, 0, fun _ _ => [⟨31, 1, .rw, false, 0, 0, 0x1⟩,
    ⟨30, 1, .rw, false, 1, 0, 0x1⟩,
    ⟨16, 11, .rw, false, 0, 0, 0x7ff⟩,
    ⟨8, 8, .rw, false, 0, 0, 0xff⟩,
    ⟨0, 8, .rw, false, 0, 0, 0xff⟩]⟩
def rowsCmdq_QDONE : RegRow := ⟨0x030, 64, 1, 0, fun _ _ => [⟨0, 64, .ro, false, 0, 0, 0xffffffffffffffff⟩]⟩
def rowsCmdq : List RegRow := [rowsCmdq_QCTL, rowsCmdq_QSTAT, rowsCmdq_QBIND, rowsCmdq_QRING, rowsCmdq_SQBASE, rowsCmdq_CQBASE, rowsCmdq_QPTR, rowsCmdq_QIRQ, rowsCmdq_QDONE]

def rowsCmdg_GSTAT : RegRow := ⟨0x000, 32, 1, 0, fun _ _ => [⟨16, 9, .ro, false, 0, 0, 0x1ff⟩,
    ⟨0, 13, .ro, false, 0, 0, 0x1fff⟩]⟩
def rowsCmdg_FENCE : RegRow := ⟨0x10000, 64, 4096, 8, fun _ _ => [⟨0, 64, .rw, true, 0, 0, 0xffffffffffffffff⟩]⟩
def rowsCmdg : List RegRow := [rowsCmdg_GSTAT, rowsCmdg_FENCE]

def rowsHostif_LNKSTAT : RegRow := ⟨0x000, 32, 1, 0, fun _ _ => [⟨16, 16, .ro, false, 0, 0, 0xffff⟩,
    ⟨7, 1, .ro, false, 0, 0, 0x1⟩,
    ⟨6, 1, .ro, false, 0, 0, 0x1⟩,
    ⟨2, 2, .ro, false, 0, 0, 0x3⟩,
    ⟨1, 1, .ro, false, 0, 0, 0x1⟩,
    ⟨0, 1, .ro, false, 0, 0, 0x1⟩]⟩
def rowsHostif_HDMSIZE : RegRow := ⟨0x004, 32, 1, 0, fun _ _ => [⟨0, 15, .rw, true, 0, 0, 16384⟩]⟩
def rowsHostif_HDMCTL : RegRow := ⟨0x008, 32, 1, 0, fun _ _ => [⟨0, 1, .rw, true, 0, 0, 0x1⟩]⟩
def rowsHostif_HDMSTAT : RegRow := ⟨0x00C, 32, 1, 0, fun _ _ => [⟨16, 8, .ro, false, 0, 0, 0xff⟩,
    ⟨8, 2, .ro, false, 0, 0, 0x3⟩,
    ⟨0, 3, .ro, false, 0, 0, 0x7⟩]⟩
def rowsHostif_HDMPOISON : RegRow := ⟨0x010, 32, 1, 0, fun _ _ => [⟨0, 32, .ro, false, 0, 0, 0xffffffff⟩]⟩
def rowsHostif_FLRCOUNT : RegRow := ⟨0x014, 32, 1, 0, fun _ _ => [⟨0, 32, .ro, false, 0, 0, 0xffffffff⟩]⟩
def rowsHostif : List RegRow := [rowsHostif_LNKSTAT, rowsHostif_HDMSIZE, rowsHostif_HDMCTL, rowsHostif_HDMSTAT, rowsHostif_HDMPOISON, rowsHostif_FLRCOUNT]

def rowsArb_ID : RegRow := ⟨0x000, 32, 1, 0, fun n _ => [⟨24, 8, .ro, false, 0, 0, 0xff⟩,
    ⟨16, 4, .ro, false, (arbKind n).getD 0, 0, 0xf⟩,
    ⟨8, 8, .ro, false, arbRegion n, 0, 0xff⟩,
    ⟨0, 5, .ro, false, arbReqs n, 0, 0x1f⟩]⟩
def rowsArb_INPUTMAP : RegRow := ⟨0x008, 64, 1, 0, fun n _ => [⟨0, 64, .rw, true, arbResetMap n, 0, 0xffffffffffffffff⟩]⟩
def rowsArb_WAITLIM0 : RegRow := ⟨0x010, 64, 1, 0, fun n _ => [⟨0, 64, .rw, false, arbResetLims n 0, 0, 0xffffffffffffffff⟩]⟩
def rowsArb_WAITLIM1 : RegRow := ⟨0x018, 64, 1, 0, fun n _ => [⟨0, 64, .rw, false, arbResetLims n 1, 0, 0xffffffffffffffff⟩]⟩
def rowsArb_HOLD : RegRow := ⟨0x020, 32, 1, 0, fun _ _ => [⟨0, 32, .rw, false, 0x4000, 16, 0xFFFFFFFF⟩]⟩
def rowsArb_STAT : RegRow := ⟨0x024, 32, 1, 0, fun _ _ => [⟨31, 1, .ro, false, 0, 0, 0x1⟩,
    ⟨30, 1, .ro, false, 0, 0, 0x1⟩,
    ⟨16, 4, .ro, false, 0, 0, 0xf⟩,
    ⟨0, 14, .ro, false, 0, 0, 0x3fff⟩]⟩
def rowsArb_WAITCNT0 : RegRow := ⟨0x028, 64, 1, 0, fun _ _ => [⟨0, 64, .ro, false, 0, 0, 0xffffffffffffffff⟩]⟩
def rowsArb_WAITCNT1 : RegRow := ⟨0x030, 64, 1, 0, fun _ _ => [⟨0, 64, .ro, false, 0, 0, 0xffffffffffffffff⟩]⟩
def rowsArb_DECISIONS : RegRow := ⟨0x038, 64, 1, 0, fun _ _ => [⟨0, 64, .ro, false, 0, 0, 0xffffffffffffffff⟩]⟩
def rowsArb_FORCED : RegRow := ⟨0x040, 64, 1, 0, fun _ _ => [⟨0, 64, .ro, false, 0, 0, 0xffffffffffffffff⟩]⟩
def rowsArb_BITES : RegRow := ⟨0x048, 32, 1, 0, fun _ _ => [⟨0, 32, .ro, false, 0, 0, 0xffffffff⟩]⟩
def rowsArb : List RegRow := [rowsArb_ID, rowsArb_INPUTMAP, rowsArb_WAITLIM0, rowsArb_WAITLIM1, rowsArb_HOLD, rowsArb_STAT, rowsArb_WAITCNT0, rowsArb_WAITCNT1, rowsArb_DECISIONS, rowsArb_FORCED, rowsArb_BITES]

def rowsGlb_ID : RegRow := ⟨0x000, 32, 1, 0, fun _ _ => [⟨16, 16, .ro, false, 0x160, 0, 0xffff⟩,
    ⟨8, 8, .ro, false, 0, 0, 0xff⟩]⟩
def rowsGlb_SERIAL : RegRow := ⟨0x008, 64, 1, 0, fun _ _ => [⟨0, 64, .ro, false, deviceSerial, 0, 0xffffffffffffffff⟩]⟩
def rowsGlb_RESET : RegRow := ⟨0x010, 32, 1, 0, fun _ _ => [⟨0, 1, .w1s, true, 0, 0, 0x1⟩]⟩
def rowsGlb_STAT : RegRow := ⟨0x014, 32, 1, 0, fun _ _ => [⟨31, 1, .ro, false, 0, 0, 0x1⟩,
    ⟨24, 4, .ro, false, 0, 0, 0xf⟩,
    ⟨0, 4, .ro, false, 0, 0, 0xf⟩]⟩
def rowsGlb_BOOT : RegRow := ⟨0x018, 32, 1, 0, fun _ _ => [⟨8, 8, .ro, false, 0, 0, 0xff⟩,
    ⟨0, 8, .ro, false, 1, 0, 0xff⟩]⟩
def rowsGlb_BOOTZERO : RegRow := ⟨0x01C, 32, 1, 0, fun _ _ => [⟨0, 32, .ro, false, 0, 0, 0xffffffff⟩]⟩
def rowsGlb_RUNMODE : RegRow := ⟨0x020, 32, 1, 0, fun _ _ => [⟨0, 2, .rw, true, 0, 0, 2⟩]⟩
def rowsGlb_BIST : RegRow := ⟨0x024, 32, 1, 0, fun _ _ => [⟨16, 4, .ro, false, 0, 0, 0xf⟩,
    ⟨0, 16, .ro, false, 0, 0, 0xffff⟩]⟩
def rowsGlb_BISTCORE : RegRow := ⟨0x028, 32, 1, 0, fun _ _ => [⟨0, 32, .ro, false, 0, 0, 0xffffffff⟩]⟩
def rowsGlb_ERRHEAD : RegRow := ⟨0x040, 32, 1, 0, fun _ _ => [⟨0, 10, .rw, true, 0, 0, 0x3ff⟩]⟩
def rowsGlb_ERRTAIL : RegRow := ⟨0x044, 32, 1, 0, fun _ _ => [⟨0, 10, .ro, false, 0, 0, 0x3ff⟩]⟩
def rowsGlb_ERRLOST : RegRow := ⟨0x048, 32, 1, 0, fun _ _ => [⟨0, 32, .ro, false, 0, 0, 0xffffffff⟩]⟩
def rowsGlb_ERRVEC : RegRow := ⟨0x084, 32, 13, 4, fun _ _ => [⟨31, 1, .rw, false, 0, 0, 0x1⟩,
    ⟨26, 2, .rw, false, 1, 0, 2⟩,
    ⟨0, 11, .rw, false, 0, 0, 0x7ff⟩]⟩
def rowsGlb_SHUT : RegRow := ⟨0x100, 32, 104, 4, fun _ _ => [⟨9, 1, .ro, false, 0, 0, 0x1⟩,
    ⟨8, 1, .ro, false, 0, 0, 0x1⟩,
    ⟨4, 2, .ro, false, 0, 0, 0x3⟩,
    ⟨0, 1, .rw, true, 1, 0, 0x1⟩]⟩
def rowsGlb : List RegRow := [rowsGlb_ID, rowsGlb_SERIAL, rowsGlb_RESET, rowsGlb_STAT, rowsGlb_BOOT, rowsGlb_BOOTZERO, rowsGlb_RUNMODE, rowsGlb_BIST, rowsGlb_BISTCORE, rowsGlb_ERRHEAD, rowsGlb_ERRTAIL, rowsGlb_ERRLOST, rowsGlb_ERRVEC, rowsGlb_SHUT]

def rowsKey_ID : RegRow := ⟨0x000, 32, 1, 0, fun _ _ => [⟨24, 8, .ro, false, 0, 0, 0xff⟩]⟩
def rowsKey_STAT : RegRow := ⟨0x004, 32, 1, 0, fun _ _ => [⟨8, 8, .ro, false, 63, 0, 0xff⟩,
    ⟨7, 1, .ro, false, 0, 0, 0x1⟩,
    ⟨6, 1, .ro, false, 0, 0, 0x1⟩,
    ⟨5, 1, .ro, false, 0, 0, 0x1⟩,
    ⟨4, 1, .ro, false, 0, 0, 0x1⟩,
    ⟨0, 2, .ro, false, 0, 0, 0x3⟩]⟩
def rowsKey_FWSTAT : RegRow := ⟨0x008, 32, 1, 0, fun _ _ => [⟨28, 4, .ro, false, 0, 0, 0xf⟩,
    ⟨24, 2, .ro, false, 0, 0, 0x3⟩,
    ⟨8, 7, .ro, false, 0, 0, 0x7f⟩,
    ⟨0, 7, .ro, false, 0, 0, 0x7f⟩]⟩
def rowsKey_CMD : RegRow := ⟨0x00C, 32, 1, 0, fun _ _ => [⟨28, 4, .ro, false, 0, 0, 0xf⟩,
    ⟨1, 3, .rw, false, 0, 1, 4⟩,
    ⟨0, 1, .w1s, true, 0, 0, 0x1⟩]⟩
def rowsKey_LCTARGET : RegRow := ⟨0x010, 32, 1, 0, fun _ _ => [⟨4, 2, .rw, false, 0, 0, 0x3⟩,
    ⟨3, 1, .rw, false, 0, 0, 0x1⟩,
    ⟨0, 2, .rw, false, 0, 0, 0x3⟩]⟩
def rowsKey_NONCE : RegRow := ⟨0x020, 32, 8, 4, fun _ _ => [⟨0, 32, .ro, false, 0, 0, 0xffffffff⟩]⟩
def rowsKey_LCKEY : RegRow := ⟨0x040, 32, 8, 4, fun _ _ => [⟨0, 32, .rw, false, 0, 0, 0xffffffff⟩]⟩
def rowsKey_LCSIG : RegRow := ⟨0x060, 32, 16, 4, fun _ _ => [⟨0, 32, .rw, false, 0, 0, 0xffffffff⟩]⟩
def rowsKey_OWNKEY : RegRow := ⟨0x0A0, 32, 8, 4, fun _ _ => [⟨0, 32, .ro, false, 0, 0, 0xffffffff⟩]⟩
def rowsKey_IDKEY : RegRow := ⟨0x0C0, 32, 8, 4, fun _ i => [⟨0, 32, .ro, false, identityKeyWord i, 0, 0xffffffff⟩]⟩
def rowsKey_MLSTAT : RegRow := ⟨0x100, 32, 1, 0, fun _ _ => [⟨31, 1, .ro, false, 0, 0, 0x1⟩,
    ⟨9, 15, .ro, false, 0, 0, 0x7fff⟩,
    ⟨0, 9, .ro, false, 0, 0, 0x1ff⟩]⟩
def rowsKey_MLSEL : RegRow := ⟨0x104, 32, 1, 0, fun _ _ => [⟨0, 8, .rw, false, 0, 0, 0xff⟩]⟩
def rowsKey_MLDATA : RegRow := ⟨0x140, 32, 20, 4, fun _ _ => [⟨0, 32, .ro, false, 0, 0, 0xffffffff⟩]⟩
def rowsKey_M0 : RegRow := ⟨0x200, 32, 16, 4, fun _ _ => [⟨0, 32, .ro, false, 0, 0, 0xffffffff⟩]⟩
def rowsKey_M1 : RegRow := ⟨0x240, 32, 16, 4, fun _ _ => [⟨0, 32, .ro, false, 0, 0, 0xffffffff⟩]⟩
def rowsKey : List RegRow := [rowsKey_ID, rowsKey_STAT, rowsKey_FWSTAT, rowsKey_CMD, rowsKey_LCTARGET, rowsKey_NONCE, rowsKey_LCKEY, rowsKey_LCSIG, rowsKey_OWNKEY, rowsKey_IDKEY, rowsKey_MLSTAT, rowsKey_MLSEL, rowsKey_MLDATA, rowsKey_M0, rowsKey_M1]

def rowsPeep_ID : RegRow := ⟨0x000, 32, 1, 0, fun _ _ => [⟨24, 8, .ro, false, 0, 0, 0xff⟩,
    ⟨0, 13, .ro, false, 0x1000, 0, 0x1fff⟩]⟩
def rowsPeep_CTRL : RegRow := ⟨0x004, 32, 1, 0, fun _ _ => [⟨8, 1, .rw, true, 0, 0, 0x1⟩,
    ⟨1, 1, .w1s, true, 0, 0, 0x1⟩,
    ⟨0, 1, .rw, false, 0, 0, 0x1⟩]⟩
def rowsPeep_TRSTAT : RegRow := ⟨0x008, 32, 1, 0, fun _ _ => [⟨11, 1, .ro, false, 1, 0, 0x1⟩,
    ⟨0, 11, .ro, false, 0, 0, 0x7ff⟩]⟩
def rowsPeep_TRBASE : RegRow := ⟨0x010, 64, 1, 0, fun _ _ => [⟨12, 52, .rw, true, 0, 0, 0xfffffffffffff⟩]⟩
def rowsPeep_TRRING : RegRow := ⟨0x018, 32, 1, 0, fun _ _ => [⟨0, 5, .rw, true, 7, 7, 20⟩]⟩
def rowsPeep_TRCLASS : RegRow := ⟨0x01C, 32, 1, 0, fun _ _ => [⟨0, 14, .rw, false, 0, 0, 0x3fff⟩]⟩
def rowsPeep_TRHEAD : RegRow := ⟨0x020, 32, 1, 0, fun _ _ => [⟨0, 20, .rw, true, 0, 0, 0xfffff⟩]⟩
def rowsPeep_TRTAIL : RegRow := ⟨0x024, 32, 1, 0, fun _ _ => [⟨0, 20, .ro, false, 0, 0, 0xfffff⟩]⟩
def rowsPeep_TRLOST : RegRow := ⟨0x028, 32, 1, 0, fun _ _ => [⟨0, 32, .ro, false, 0, 0, 0xffffffff⟩]⟩
def rowsPeep_TRIRQ : RegRow := ⟨0x02C, 32, 1, 0, fun _ _ => [⟨31, 1, .rw, false, 0, 0, 0x1⟩,
    ⟨16, 11, .rw, false, 0, 0, 0x7ff⟩,
    ⟨0, 16, .rw, false, 0, 0, 0xffff⟩]⟩
def rowsPeep_CNTSEL : RegRow := ⟨0x10000, 32, 4096, 4, fun _ _ => [⟨31, 1, .rw, true, 0, 0, 0x1⟩,
    ⟨30, 1, .w1s, true, 0, 0, 0x1⟩,
    ⟨24, 4, .rw, true, 0, 0, 0xf⟩,
    ⟨14, 10, .rw, true, 0, 0, 0x3ff⟩,
    ⟨0, 8, .rw, true, 0, 0, 0xff⟩]⟩
def rowsPeep_CNT : RegRow := ⟨0x20000, 64, 4096, 8, fun _ _ => [⟨0, 64, .ro, false, 0, 0, 0xffffffffffffffff⟩]⟩
def rowsPeep : List RegRow := [rowsPeep_ID, rowsPeep_CTRL, rowsPeep_TRSTAT, rowsPeep_TRBASE, rowsPeep_TRRING, rowsPeep_TRCLASS, rowsPeep_TRHEAD, rowsPeep_TRTAIL, rowsPeep_TRLOST, rowsPeep_TRIRQ, rowsPeep_CNTSEL, rowsPeep_CNT]

/-- The registers of a block. -/
def blkRows : Blk → List RegRow
  | .reg => rowsReg
  | .core => rowsCore
  | .tier => rowsTier
  | .mu => rowsMu
  | .cart => rowsCart
  | .ce => rowsCe
  | .ck => rowsCk
  | .trn => rowsTrn
  | .dw => rowsDw
  | .nd => rowsNd
  | .img => rowsImg
  | .cmdq => rowsCmdq
  | .cmdg => rowsCmdg
  | .hostif => rowsHostif
  | .arb => rowsArb
  | .glb => rowsGlb
  | .key => rowsKey
  | .peep => rowsPeep

end Sys2Proof.Machine
end

