-- ==== Sys2Proof/Machine/Dot.lean ====
section
/-! DEFINITION. The arithmetic of one dot-product unit and of the output converter (chapters 04 and 05): products, the window sum
of a K group, accumulation and its rounding, range events and their measurement, scale, bias, clip and encoding. -/

namespace Sys2Proof.Machine

/-- An operand as the matrix engine's decoder delivers it (R116, R127, R146): its value, the flags of reading it, and for a finite
GL8 element its code and scale byte. -/
structure Opd where
  num : Num
  flags : Nat
  gl : Option (Int × Nat)
deriving DecidableEq, Repr

/-- Decode an element for the matrix engine: subnormal binary32 and binary64 are flushed (R116, R121, R143). -/
def opdOf (fmt scale bits : Nat) : Opd :=
  let d := decodeBits fmt scale bits
  let (n, f) := readFlush (decide (fmt = 0) || decide (fmt = 1)) d
  ⟨n, f, if fmt = 4 && n.isFinite then some (ofTwos 7 (bits % 128), scale) else none⟩

/-- An operand of a poisoned pane (R166). -/
def opdPoison : Opd := ⟨.nan, 0, none⟩

/-- A product (R144 to R148): class 0 zero, 1 finite, 2 infinite, 3 NaN; a finite one is ± m × 2^p with product exponent ep. -/
structure Prod1 where
  cls : Nat
  neg : Bool
  m : Nat
  p : Int
  ep : Int
  flags : Nat
deriving DecidableEq, Repr

/-- Bring a significand to exactly `w` bits: the significand and the exponent of its leading bit. -/
def normSig (w m : Nat) (e : Int) : Nat × Int := (m * 2 ^ (w - 1 - Nat.log2 m), ilog m e)

/-- Exponent bounds of the internal form (R125). -/
def eHi : Int := 4095
def eLo : Int := -4096

/-- The product of two operands in a pass of scale exponent `ps` (R144 to R147). -/
def product (b64 : Bool) (ps : Int) (a b : Opd) : Prod1 :=
  let fl := a.flags ||| b.flags
  let s := a.num.neg != b.num.neg
  if a.num.isNan || b.num.isNan then ⟨3, false, 0, 0, 0, fl⟩
  else if (a.num.isZero && b.num.isInf) || (a.num.isInf && b.num.isZero) then ⟨3, false, 0, 0, 0, fl ||| fINVALID⟩
  else if a.num.isInf || b.num.isInf then ⟨2, s, 0, 0, 0, fl⟩
  else if a.num.isZero || b.num.isZero then ⟨0, s, 0, 0, 0, fl⟩
  else match a.gl, b.gl with
    | some (ka, sa), some (kb, sb) =>
      let k := ka + kb
      let p := k / 16 + sa + sb - 254 - 47 + ps
      ⟨1, s, logTable.getD (k % 16).toNat 0 * 2 ^ 24, p, p + 46, fl⟩
    | _, _ =>
      let w := if b64 then 53 else 24
      match a.num, b.num with
      | .fin _ m e, .fin _ m' e' =>
        let (ma, ea) := normSig w m e
        let (mb, eb) := normSig w m' e'
        let p := ea + eb - (2 * (w : Int) - 2) + ps
        if b64 && decide (cmpMag (ma * mb) p (2 ^ 53 - 1) 971 = .gt) then ⟨2, s, 0, 0, 0, fl ||| fOVERFLOW ||| fINEXACT⟩
        else ⟨1, s, ma * mb, p, ea + eb + ps, fl⟩
      | _, _ => ⟨3, false, 0, 0, 0, fl⟩

/-- What the engine measures in a pass (R188), and the source of the latest range event (R181). -/
structure Meas where
  ov : Int
  un : Int
  hr : Option Int
  src : Nat
deriving DecidableEq, Repr

def measInit : Meas := ⟨0, 0, none, 0⟩

/-- The exponent of a product or accumulator lies outside the range (R148, R152). -/
def outOfRange (e : Int) : Bool := decide (eHi < e) || decide (e < eLo)

/-- A contribution of exponent `e` with growth allowance `a` (R188). -/
def Meas.add (mm : Meas) (a e : Int) (src : Nat) : Meas :=
  let h := eHi - a - e
  { ov := if eHi < e then max mm.ov (e + a - eHi) else mm.ov
    un := if e < eLo then max mm.un (eLo - e) else mm.un
    hr := some (match mm.hr with
      | none => h
      | some x => min x h)
    src := if outOfRange e then src else mm.src }

/-- The largest finite internal-form magnitude of the path (R160): significand and exponent. -/
def maxInternal (b64 : Bool) : Nat × Int := if b64 then (2 ^ 53 - 1, 4043) else (2 ^ 24 - 1, 4072)

/-- Flags of a value resolved above or below the range in the last pass (R160). -/
def resolveHi : Nat := fOVERFLOW ||| fINEXACT ||| fSATURATED
def resolveLo : Nat := fUNDERFLOW ||| fINEXACT ||| fSATURATED

/-- A product with Ep out of range in the last pass (R160). Log 40: the replaced product takes the largest significand and the
lowest weight that hold its value. -/
def resolveProd (b64 last : Bool) (x : Prod1) : Prod1 :=
  if x.cls = 1 && last && outOfRange x.ep then
    if eHi < x.ep then
      let (m, e) := maxInternal b64
      let w : Nat := if b64 then 53 else 24
      { x with m := m * 2 ^ w, p := e - w, flags := x.flags ||| resolveHi }
    else { x with cls := 0, m := 0, flags := x.flags ||| resolveLo }
  else x

/-- group_sum (R149): the window sum as a multiple of a power of two, none without a finite product, and the sticky bit. -/
def groupSum (b64 : Bool) (ps : List Prod1) : Option (Int × Int) × Bool :=
  let w : Int := if b64 then 106 else 48
  let win : Int := if b64 then 128 else 64
  match ps.filter (fun x => decide (x.cls = 1)) with
  | [] => (none, false)
  | x :: t =>
    let top := (x :: t).foldl (fun a y => max a (y.p + w)) (x.p + w)
    let low := top - win
    let r := (x :: t).foldl (fun (acc : Int × Bool) y =>
      let (k, _, exact) := shiftTo y.m y.p low
      (if y.neg then acc.1 - k else acc.1 + k, acc.2 || !exact)) (0, false)
    (some (r.1, low), r.2)

/-- round(x, st) (R152): significand, exponent and exactness of a non-zero magnitude. -/
def roundSt (prec m : Nat) (e : Int) (st : Bool) : Nat × Int × Bool :=
  let q := ilog m e - prec + 1
  let (k, half, exact) := shiftTo m e q
  if exact then (k, q, !st)
  else
    let up := decide (half = .gt) || (decide (half = .eq) && (st || decide (k % 2 = 1)))
    (if up then k + 1 else k, q, false)

/-- The accumulator of one unit (R151, R155): empty or a finite value; the class decided over all terms (0 finite, 1 NaN,
2 +∞, 3 −∞); flags raised in every case and flags of the finite accumulation. -/
structure Acc where
  empty : Bool
  val : Num
  cls : Nat
  flags : Nat
deriving DecidableEq, Repr

/-- A finite accumulator out of range is resolved in the last pass (R160). -/
def resolveAcc (b64 last : Bool) (n : Num) : Num × Nat :=
  match n with
  | .fin neg m e =>
    if m ≠ 0 && last && outOfRange (ilog m e) then
      if eHi < ilog m e then (.fin neg (maxInternal b64).1 (maxInternal b64).2, resolveHi) else (.zero neg, resolveLo)
    else (n, 0)
  | _ => (n, 0)

/-- The class of an element over all its terms (R155), with the flag of opposite infinities. -/
def classOf (c : Option Num) (terms : List Prod1) : Nat × Nat :=
  let nan := terms.any (fun t => decide (t.cls = 3)) || (match c with | some x => x.isNan | none => false)
  let pinf := terms.any (fun t => decide (t.cls = 2) && !t.neg) || (match c with | some (.inf false) => true | _ => false)
  let ninf := terms.any (fun t => decide (t.cls = 2) && t.neg) || (match c with | some (.inf true) => true | _ => false)
  if nan then (1, 0) else if pinf && ninf then (1, fINVALID) else if pinf then (2, 0) else if ninf then (3, 0) else (0, 0)

/-- The accumulator at the start of a pass (R151, R191): C scaled by 2^adj, or empty; `terms` are all products of the pass. -/
def startAcc (b64 last : Bool) (a adj : Int) (c : Option Opd) (terms : List Prod1) (mm : Meas) : Acc × Meas :=
  let cn := c.map (fun o => scaleNum adj o.num)
  let (cls, fl) := classOf cn terms
  let fl := fl ||| (match c with | some o => o.flags | none => 0)
  match cn with
  | some (.fin neg m e) =>
    if cls ≠ 0 then (⟨false, .zero false, cls, fl⟩, mm)
    else
      let mm := if m = 0 then mm else mm.add a (ilog m e) 2
      let (v, f) := resolveAcc b64 last (.fin neg m e)
      (⟨false, v, cls, fl ||| f⟩, mm)
  | _ => (⟨true, .zero false, cls, fl⟩, mm)

/-- One K group in one unit (R149 to R156): the new accumulator and the measurements. -/
def accGroup (b64 last : Bool) (a : Int) (acc : Acc) (ps : List Prod1) (mm : Meas) : Acc × Meas :=
  let mm := ps.foldl (fun mm x => if x.cls = 1 then mm.add a x.ep 1 else mm) mm
  let ps := ps.map (resolveProd b64 last)
  let acc := { acc with flags := ps.foldl (fun f x => f ||| x.flags) acc.flags }
  if acc.cls ≠ 0 then (acc, mm)
  else
    let (g, st) := groupSum b64 ps
    let prevNeg := acc.empty || (acc.val.isZero && acc.val.neg)
    let x : Num := match g with
      | none => if acc.empty then .zero false else acc.val
      | some (i, q) => if acc.empty then Num.ofInt false i q else addFin false acc.val (Num.ofInt false i q)
    let stf := if st then fINEXACT else 0
    match x with
    | .fin neg m e =>
      if m = 0 then
        let z := prevNeg && ps.all (fun x => decide (x.cls = 0) && x.neg) && !st
        (⟨false, .zero z, 0, acc.flags ||| stf⟩, mm)
      else
        let (k, q, exact) := roundSt (if b64 then 53 else 24) m e st
        let mm := mm.add a (ilog k q) 2
        let (v, f) := resolveAcc b64 last (.fin neg k q)
        (⟨false, v, 0, acc.flags ||| f ||| (if exact then 0 else fINEXACT)⟩, mm)
    | _ => (acc, mm)

/-- z = acc × sc + bi (R161, R162): value and flags. -/
def convertZ (acc : Acc) (sc bi : Num) : Num × Nat :=
  let a : Num := match acc.cls with
    | 1 => .nan
    | 2 => .inf false
    | 3 => .inf true
    | _ => acc.val
  let (x, f) : Num × Nat :=
    if a.isNan || sc.isNan then (.nan, 0)
    else if (a.isZero && sc.isInf) || (a.isInf && sc.isZero) then (.nan, fINVALID)
    else if a.isInf || sc.isInf then (.inf (a.neg != sc.neg), 0)
    else (mulFin a sc, 0)
  if x.isNan || bi.isNan then (.nan, f)
  else if x.isInf && bi.isInf then (if x.neg = bi.neg then (x, f) else (.nan, f ||| fINVALID))
  else if x.isInf then (x, f)
  else if bi.isInf then (bi, f)
  else (addFin false x bi, f)

/-- Clip to [lo, hi] (R163). -/
def clipZ (lo hi z : Num) : Num :=
  if z.isNan then z
  else if cmpNum z lo = .lt then lo
  else if cmpNum z hi = .gt then hi
  else z

/-- Emax of a non-block output (R188). -/
def emaxOf (fmt : Nat) : Int := ilog (gridOf fmt).maxM (gridOf fmt).maxE

/-- A finite z overflows a non-block output format (R157). -/
def zOverflows (fmt : Nat) : Num → Bool
  | .fin neg m e => decide (m ≠ 0) && overflows (gridOf fmt) .rne neg m e
  | _ => false

/-- The contribution of a finite z to the measurements (R188, R189). -/
def measZ (fmt : Nat) (mm : Meas) (z : Num) : Meas :=
  match z with
  | .fin _ m e =>
    if m = 0 then mm
    else
      let E := ilog m e
      let h := emaxOf fmt - 1 - E
      { mm with
        ov := if zOverflows fmt z then max mm.ov (E - emaxOf fmt + 1) else mm.ov
        hr := some (match mm.hr with
          | none => h
          | some x => min x h)
        src := if zOverflows fmt z then 3 else mm.src }
  | _ => mm

/-- PSCALE of the next pass (R190). -/
def nextPscale (ps : Int) (mm : Meas) : Int :=
  let step := if 0 < mm.ov then -mm.ov else max 0 (min mm.un (mm.hr.getD mm.un))
  max (-4096) (min 4095 (ps + step))

/-- Growth allowance A = 7 + ceil(log2 G) (R188). -/
def growth (k : Nat) : Int :=
  let g := ceilDiv k 32
  7 + (if g ≤ 1 then 0 else (Nat.log2 (g - 1) + 1 : Nat))

/-- Beats of a K group by format (R137). -/
def beatsOf (fmt : Nat) : Nat :=
  match fmt with
  | 0 => 16
  | 1 => 64
  | 2 => 4
  | _ => 1

end Sys2Proof.Machine
end

