-- ==== Sys2Proof/Machine/State.lean ====
section
/-! DEFINITION. The state of the device: every register field, the memories, the rings' and engines' own state, and the queue
of commands that wait. Plain data. -/

namespace Sys2Proof.Machine

/-- No command ends in a fault: the spec gives the block no stop (INVENTORY, Faults). The type has no constructor, which is the
claim itself: safe. -/
inductive Fault where
deriving DecidableEq, Repr

/-- Why the model gives a command no meaning. -/
inductive Refusal where
  /-- The command has no meaning yet: raised by the arm of a command not modelled. Safe: the machine stops. -/
  | notModelled (mnemonic : String)
deriving DecidableEq, Repr

/-- An error record (R663). -/
structure ErrRec where
  seq : Nat
  cls : Nat
  sev : Nat
  region : Nat
  code : Nat
  unit : Nat
  lic : Nat
  detail : List Nat
deriving DecidableEq, Repr

/-- A trace record (R707). -/
structure TraceRec where
  cls : Nat
  event : Nat
  region : Nat
  seq : Nat
  lic : Nat
  arg0 : Nat
  arg1 : Nat
deriving DecidableEq, Repr

/-- The capabilities of configuration space (R608). -/
inductive Capability where
  | powerManagement
  | pciExpress
  | msix
  | advancedErrorReporting
  | serialNumber
  | dataLinkFeature
  /-- The physical layer at 32, 64 or 128 GT/s. -/
  | physicalLayer (gts : Nat)
  | laneMargining
  /-- For one BAR. -/
  | resizableBar (bar : Nat)
  | doe
  /-- A DVSEC of R609. -/
  | dvsec (id : Nat)
deriving DecidableEq, Repr

/-- What the device puts on its boundary, oldest last. -/
inductive Out where
  /-- A CXL.io memory write (R613). -/
  | hostWrite (addr : Nat) (bytes : List Byte)
  /-- A CXL.cache RdCurr of one line (R614). -/
  | rdCurr (addr : Nat)
  /-- A CXL.io memory read request of the loader, of up to 512 bytes and within 4 KiB (R541, R613). -/
  | hostRead (addr len : Nat)
  /-- An MSI-X message: its vector, and the address and data of the vector's table entry (R622). -/
  | msix (vector addr data : Nat)
  /-- An AER report (R621, R665). -/
  | aer (fatal : Bool)
  /-- The answer to a configuration request (R607 to R612). -/
  | configReply (value : Nat)
  /-- The capabilities of a list of configuration space; software assumes no order (R608). -/
  | capabilities (list : List Capability)
  /-- A base address register: 64 bits wide, prefetchable or not, of 2 to this power bytes (R610). -/
  | bar (n : Nat) (prefetchable : Bool) (log2 : Nat)
  /-- The content of a CXL DVSEC in the order of R609's table; its layout is CXL's. -/
  | dvsec (id : Nat) (content : List Nat)
  /-- Configuration Request Retry Status (R655). -/
  | retryStatus
  /-- Unsupported Request (R612). -/
  | unsupportedRequest
  /-- Data returned by a read, with its poison mark (R611, R621). -/
  | readReply (bytes : List Byte) (poison : Bool)
  /-- A back-invalidate snoop of a window line (R616): invalidating or not. -/
  | biSnoop (line : Nat) (inv : Bool)
  /-- RspIHitI (R614). -/
  | snoopMiss (addr : Nat)
  /-- A register's value returned to the host (R19, R20). -/
  | regReply (value : Nat)
  /-- A data object returned by the DOE mailbox (R623, R624, R625). -/
  | doe (kind : Nat) (bytes : List Byte)
  /-- SETDASA on a port's I3C bus, and reads and writes of the identity element's memory (R344). -/
  | i3cSetdasa (port staticAddr dynamicAddr : Nat)
  | i3cRead (port addr len : Nat)
  | i3cWrite (port addr : Nat) (bytes : List Byte)
  /-- A flit or frame sent on a doorway (R474, R478). -/
  | link (w : Nat) (bytes : List Byte)
  /-- The node number that a native doorway sends its partner while it trains (R473). -/
  | trainNode (w node : Nat)
  /-- A MEMBER packet sent to a node at an IPv6 address (R491, R478). -/
  | member (dst : Nat) (ip : List Byte) (p : MemberPacket)
  /-- DONE of a COLL to rank 0, or COMMIT to a member (R498). -/
  | collMsg (dst tag : Nat) (isCommit : Bool)
  /-- A checkpoint carriage sent to a node (R456). -/
  | carriage (dst : Nat) (bytes : List Byte)
deriving DecidableEq, Repr

/-- Configuration space and the MSI-X table (R607 to R612, R622). -/
structure Cfg where
  memSpace : Bool
  busMaster : Bool
  d3hot : Bool
  bar4Log2 : Nat
  msixEnable : Bool
  funcMask : Bool
  /-- Vectors whose mask bit in the MSI-X table is 0. -/
  unmasked : List Nat
  pendingVec : List Nat
  /-- Address and data words of the MSI-X table, by dword number. -/
  msixTable : List (Nat × Nat)
  decoderCommitted : Bool
  decoderSize : Nat
  /-- The decoder's Error Not Committed indication (R620). -/
  decoderError : Bool
deriving DecidableEq, Repr

/-- The calibration of a region (R76, R77): cycles since it began, and those of the window it counts once one has started. -/
structure Calib where
  since : Nat
  window : Option Nat
deriving DecidableEq, Repr

/-- What a region holds beside REG n. -/
structure Region where
  /-- Fraction of the LIC accumulator, 16 bits (R75). -/
  frac : Nat
  /-- Whether the LIC counts, from step 6 of R651 on (R75). -/
  running : Bool
  cal : Option Calib
  /-- Regulator output in mV (R73). -/
  vout : Nat
  /-- LIC count at the regulator's last step (R73). -/
  vstamp : Nat
  /-- Whether the monitor has measured the region since its registers were reset (R93). -/
  measured : Bool
  /-- Powered down by a shutter (R660). -/
  down : Bool
  /-- In a reset, until the calibration of step 5 of R651 ends. -/
  inReset : Bool
deriving DecidableEq, Repr

/-- A transfer held at a hinge: the descriptor it belongs to, if any, its content, and the regions of its path beyond the hinge's
far side (R37, R81). -/
structure Transfer where
  owner : Option Nat
  payload : Nat
  path : List Nat
deriving DecidableEq, Repr

/-- A hinge between two neighbours a < b (R80 to R88). -/
structure Hinge where
  /-- Soft limits the pair now exceeds: bit 0 supply, 1 temperature, 2 ratio (R84). -/
  exceed : Nat
  /-- The louvre requirement: the faster side and the LVAL (R84). -/
  need : Option (Nat × Nat)
  /-- LIC count of the louvred region since which the pair stays within the release limits (R86). -/
  calmSince : Option Nat
  /-- Stalled since this LIC count of the faster side (R87, R88). -/
  stalled : Option (Nat × Nat)
  /-- Transfers held from a to b and from b to a, oldest first (R81). -/
  fwd : List Transfer
  bwd : List Transfer
  /-- Transfers whose path ends there, delivered to b and to a, oldest first (R81). -/
  atB : List Transfer
  atA : List Transfer
deriving DecidableEq, Repr

/-- Which tier, unit and slot holds a pane (R264, R266). -/
structure PaneLoc where
  tier : Nat
  unit : Nat
  slot : Nat
deriving DecidableEq, Repr

/-- A casement of the image (R527). -/
structure Casement where
  parent : Option Nat
  leaf : Bool
  cores : Nat
  host : Bool
deriving DecidableEq, Repr

/-- An entry of the tensor table (R260): extents and origins of d0 to d3. -/
structure Tensor where
  handle : Nat
  base : Nat
  ext : List Nat
  org : List Nat
  fmt : Nat
  baxis : Nat
  owner : Nat
  layer : Nat
  role : Nat
  pin : Nat
deriving DecidableEq, Repr

/-- An entry of a casement program (R537). -/
structure PEntry where
  target : Nat
  patch : Nat
  poff : Nat
  layer : Nat
  desc : Desc
deriving DecidableEq, Repr

/-- A casement program (R536). -/
structure Program where
  owner : Nat
  entries : List PEntry
  trigger : Nat
  rounds : Nat
  first : Nat
  stride : Nat
deriving DecidableEq, Repr

/-- What the loader installs from an image (R523 to R537). -/
structure Image where
  id : Nat
  signed : Bool
  digest : List Byte
  tdeg : Nat
  pdeg : Nat
  rdeg : Nat
  mbatch : Nat
  casements : List Casement
  bindings : List (Nat × Nat)
  quotas : List (Nat × List Nat)
  transomDeny : List Nat
  arbiters : List (Nat × Nat × Nat × Nat)
  vcodes : List (Nat × Nat)
  doorways : List (Nat × Nat)
  tensors : List Tensor
  sweeps : List (Nat × List Byte)
  history : List (Nat × Nat)
  programs : List Program
deriving DecidableEq, Repr

/-- Where a part of a descriptor stands (R62, R58). -/
inductive PartSt where
  /-- Held back inside the casement: the sequencer holds 128 (R62). -/
  | back
  /-- Held by the sequencer, not started. -/
  | held
  /-- Started. -/
  | running
  /-- Its work has ended; PART_COMPLETE has not come. -/
  | ended
  | complete
deriving DecidableEq, Repr

/-- A part of a descriptor: the core that serves it (32 + c for sweep engine c, 255 for the root sequencer), the run of
units lo to hi - 1 it takes (R54, R55), and what it has come to. -/
structure Part where
  core : Nat
  lo : Nat
  hi : Nat
  st : PartSt
  status : Nat
  flags : Nat
  replay : Nat
deriving DecidableEq, Repr

/-- What a descriptor in flight waits for. -/
inductive FlightSt where
  /-- An MMA with DEST 1 held until the next descriptor of its port (R234). -/
  | pairing
  /-- A WAIT that holds its port (R577). -/
  | waiting
  /-- A SIGNAL before it is applied (R578). -/
  | signal
  | running
deriving DecidableEq, Repr

/-- A descriptor in flight (R567): `queue` receives its record; `port` is the casement whose port took it. -/
structure InFlight where
  id : Nat
  port : Nat
  queue : Option Nat
  seq : Nat
  fromProgram : Bool
  entry : Nat
  opcode : Nat
  desc : Desc
  mode : Nat
  takenLic : Nat
  st : FlightSt
  parts : List Part
  /-- The other descriptor of a transom pair (R234). -/
  mate : Option Nat
  /-- The shape of a transom-fed X, d0 to d3; empty for any other (R234, R243). -/
  xshape : List Nat
  /-- A status set before or beside the parts' own; 0 when none. -/
  status : Nat
  flags : Nat
deriving DecidableEq, Repr

/-- What the completion record of a descriptor says (R581, R582): the descriptor, STATUS, FLAGS, REPLAY, CHECK, TIER and DURATION. -/
structure DoneRec where
  flight : InFlight
  status : Nat
  flags : Nat
  replay : Nat
  check : Nat
  tier : Nat
  dur : Nat
deriving DecidableEq, Repr

/-- What a queue holds beside its CMDQ page. -/
structure QAux where
  /-- The PHASE bit of the next record (R561). -/
  phase : Bool
  /-- Records written since the last interrupt (R588). -/
  sinceIrq : Nat
  /-- LIC count of TR99 at the oldest record written without an interrupt since (R588). -/
  oldest : Option Nat
  /-- Records that wait in D3hot, oldest first (R612). -/
  late : List DoneRec
deriving DecidableEq, Repr

/-- Where a casement program stands (R538). -/
structure ProgState where
  round : Nat
  next : Nat
  passed : List Nat
deriving DecidableEq, Repr


/-- What a pane holds: data cells by offset, unlisted bytes zero, POISON, tile adjustments by tile, step tag, and whether it is
the zero pane (R256, R257, R263). -/
structure PaneData where
  data : List Host.Cell
  poison : Bool
  tadj : List (Nat × Nat)
  step : Nat
  zero : Bool
deriving DecidableEq, Repr

/-- A working copy of a pane in a sill (core 0 to 31) or lintel (32 + c), made for one descriptor (R33, R251, R252). -/
structure WorkCopy where
  core : Nat
  owner : Nat
  handle : Nat
  pane : Nat
  /-- What the mover delivered; none for a copy that is only written. -/
  staged : Option PaneData
  /-- Bytes written by the part and not yet written back, by offset; zeros are not listed. -/
  dirty : List Host.Cell
  /-- The spans written, offset and length, newest first. -/
  spans : List (Nat × Nat)
  /-- Tile adjustments written, by tile of the pane (R192, R258). -/
  tadj : List (Nat × Nat)
  /-- A poisoned value was written into the pane (R166, R240). -/
  poisonOut : Bool
  /-- Words of the sill, offset and length, that hold an uncorrectable ECC error (R166, R240). -/
  badWords : List (Nat × Nat)
deriving DecidableEq, Repr

/-- The matrix engine of a core at work on a part (R136 to R168). -/
structure MxRun where
  id : Nat
  part : Nat
  /-- Row-major index of the tile in the output (R54). -/
  tile : Nat
  pass : Nat
  /-- PSCALE of the pass (R145, R190). -/
  ps : Int
  /-- The K group that comes next. -/
  group : Nat
  /-- Accumulators of the units inside M and N, row-major in the tile; empty before the first K group of a pass. -/
  accs : List Acc
  mm : Meas
  /-- A range event was raised in the pass (R157). -/
  ranged : Bool
  /-- A converted tile held for the transom (R165, R168): values and tile adjustment. -/
  held : Option (List Nat × Int)
deriving DecidableEq, Repr

/-- An entry of a transom queue (R232): values, tile adjustment, index within the MMA part. -/
structure TrEntry where
  bits : List Nat
  adj : Int
  tile : Nat
deriving DecidableEq, Repr

/-- The vector engine of a core at work on a part (R212). -/
structure VxRun where
  id : Nat
  part : Nat
  /-- Positions, or transom tiles, of the part that are done. -/
  pos : Nat
  /-- Every result of the part has been formed. -/
  done : Bool
deriving DecidableEq, Repr

/-- Values on their way to a block encoder (R183, R237): `core` holds them, `dest` encodes the block for part `part` of
descriptor `id`; the block begins at coordinates `first` of tensor `handle` and has `len` elements along `axis`. -/
structure EncBlk where
  core : Nat
  dest : Nat
  id : Nat
  part : Nat
  handle : Nat
  first : List Nat
  axis : Nat
  len : Nat
  /-- Values by index in the block, with their poison mark and tile adjustment. -/
  got : List (Nat × Num × Bool × Int)
deriving DecidableEq, Repr

/-- Units of the topology table at the last placement (R266, R272). -/
structure Placed where
  hbm : List Nat
  chans : List Nat
  carts : List Nat
deriving DecidableEq, Repr

/-- Spans of a poisoned pane that a descriptor has written whole with valid values (R259). -/
structure Cover where
  owner : Nat
  handle : Nat
  pane : Nat
  spans : List (Nat × Nat)
deriving DecidableEq, Repr

/-- A remap entry: spare row number, the row it stands for, CAUSE, PPRFAIL, and whether its spare row is retired (R319 to R325). -/
structure Remap where
  idx : Nat
  row : RowAddr
  cause : Nat
  pprfail : Bool
  retired : Bool
deriving DecidableEq, Repr

/-- A request that waits in a memory unit's queues (R305). -/
structure MemReq where
  slot : Nat
  off : Nat
  write : Option (List Byte)
  ecc : Ecc
  row : RowAddr
deriving DecidableEq, Repr

/-- A memory unit beside its register page: row trackers and remap tables by channel, remaps whose log entries are not yet
committed, channels whose full table is recorded, and whether its bring-up is that of a zeroing reset (R310, R319, R320, R322). -/
structure MuAux where
  /-- Channel, row, spare row plus one (0 for the row itself), errors; the latest error last (R319, R321). -/
  track : List (Nat × RowAddr × Nat × Nat)
  remaps : List (Nat × Remap)
  /-- Channel, row, CAUSE. -/
  pend : List (Nat × RowAddr × Nat)
  full : List Nat
  zeroing : Bool
  /-- In self-refresh: behind a CLOSED shutter, or for a reset that keeps the contents (R312, R313, R660). -/
  rest : Bool
  /-- Training attempts of this bring-up that have failed (R311). -/
  fell : Nat
  /-- Requests queued and not yet served, oldest first (R305, R320). -/
  queue : List MemReq
  /-- Requests that came up to be served since the last multiple of 16 (R327). -/
  beat : Nat
deriving DecidableEq, Repr


/-- A cartridge port beside its register page (R341, R352 to R364). -/
structure CartAux where
  /-- Presence as the pin shows it, and the LIC count of TR98 at its last change. -/
  present : Bool
  since : Nat
  /-- Presence as debounced (R360). -/
  seated : Bool
  /-- CRTp_PWREN, and the LIC count at its assertion. -/
  powered : Bool
  pwrSince : Nat
  /-- CRTp_WP_N asserted (R358). -/
  protect : Bool
  /-- SERIAL, RATEDGB and label of the cartridge. -/
  serial : List Byte
  label : Option CartLabel
  /-- Bytes programmed (R357). -/
  written : Nat
  /-- A value written to the wear counter and not yet acknowledged, and the bytes of the program held for it (R357). -/
  commit : Option Nat
  heldBytes : Nat
  /-- The life has fallen to LOWTHR or below (R358). -/
  low : Bool
  /-- Spill-region slots that the last placement took in (R366). -/
  placedSlots : Nat
  /-- Rates of the eight ONFI channels in MT/s (R342). -/
  rates : List Nat
  /-- Spill and persistent keys, as the keyhole holds them (R353). -/
  spillKey : List Byte
  persistKey : List Byte
deriving DecidableEq, Repr

/-- A life-cycle row (R688). -/
structure LcRow where
  code : Nat
  sigreq : Bool
  key : List Byte
  valid : Bool
deriving DecidableEq, Repr

/-- The keyhole's one-time programmable memory: life-cycle rows, the minimum security version, the revoked vendor keys (R682, R688). -/
structure Otp where
  rows : List LcRow
  svn : Nat
  revoked : Nat
deriving DecidableEq, Repr

/-- An entry of the measurement log (R685). -/
structure MeasEntry where
  reg : Nat
  kind : Nat
  digest : List Byte
deriving DecidableEq, Repr

/-- A joiner that the coordinator deals with (R491): what its HELLO said, its nonce and the coordinator's, and whether its PROOF
has been verified. -/
structure Joiner where
  who : Member
  cert : List Byte
  theirs : List Byte
  ours : List Byte
  proven : Bool
deriving DecidableEq, Repr

/-- A change of membership under way (R490, R491): its epoch, who coordinates it, the members to be, who leaves, and at the
coordinator the nodes that have answered READY. -/
structure Change where
  epoch : Nat
  coordinator : Nat
  members : List Member
  old : List Member
  ready : List Nat
deriving DecidableEq, Repr

/-- A request that waits at the coordinator while a change runs (R489): a node that enters or one to leave out, and whether that node itself
leaves and so takes part in the change. -/
structure ChangeReq where
  node : Nat
  entrant : Option Member
  leaves : Bool
deriving DecidableEq, Repr

/-- Membership beside the ND page (R486 to R492). -/
structure NdAux where
  /-- Members of the current epoch, ascending by node; empty for none. -/
  members : List Member
  change : Option Change
  joiners : List Joiner
  requests : List ChangeReq
  /-- This device's own nonce and the contact while it joins. -/
  nonce : List Byte
  contact : Nat
  /-- While joining: the coordinator that has proved itself, and its key. -/
  host : Option (Nat × List Byte)
  /-- The route table by node: NDRTDATA's VALID and MASK bits (R487, R521). -/
  routes : List (Nat × Nat)
  /-- Route sets of the peers, fixed at the epoch's commit (R487). -/
  routeSets : List (Nat × List Nat)
deriving DecidableEq, Repr

/-- A table of a generation (R384, R390, R391). -/
structure CompTable where
  gen : Nat
  tmode : Nat
  fmt : Nat
  seed : Nat
  twin : Nat
  body : List Byte
deriving DecidableEq, Repr

/-- Parameters of a stream, as CONFIG stores them (R400). -/
structure CompParams where
  bh : Nat
  eh : Nat
  fmt : Nat
  mode : Nat
  twin : Nat
  rebuild : Nat
  seed : Nat
deriving DecidableEq, Repr

/-- A stream context (R375, R393, R394). -/
structure CompCtx where
  params : CompParams
  cur : Option CompTable
  ret : Option CompTable
  /-- BSEQ of the next block, and blocks since the last rebuild point. -/
  seq : Nat
  since : Nat
  /-- The table of the next block, a rebuild point, has been built. -/
  built : Bool
  /-- Unacknowledged blocks coded with a generation: generation and BSEQ, oldest first. -/
  unacked : List (Nat × Nat)
  slot0 : Option CompTable
  slot1 : Option CompTable
  /-- The encoder waits at a rebuild point for its retiring generation (R394, R415). -/
  waits : Bool
deriving DecidableEq, Repr

/-- A COMP ENCODE or DECODE at work on its context (R397 to R405). -/
structure CompJob where
  id : Nat
  ctx : Nat
  decode : Bool
  /-- Next block, and offset in the image of the next record. -/
  block : Nat
  off : Nat
  /-- Generation whose table message stands in the image already. -/
  sentGen : Option Nat
  /-- Blocks that could not be decoded, and generations whose table was rejected (R404). -/
  bad : List Nat
  rejected : List Nat
  status : Nat
  flags : Nat
  poison : Bool
deriving DecidableEq, Repr

/-- A record that a connection carries in one DATA packet (R480): the header fields of its packet and its payload. -/
structure SendRec where
  tag : Nat
  op : Nat
  fmt : Nat
  tc : Nat
  bidx : Nat
  down : Bool
  first : Bool
  total : Nat
  payload : List Byte
  /-- Context, generation and BSEQ of a block coded with a generation (R394). -/
  coded : Option (Nat × Nat × Nat)
deriving DecidableEq, Repr

/-- A DATA packet sent and not acknowledged (R482): how often, and the LIC count of the doorway's region when it was last sent. -/
structure TxPkt where
  psn : Nat
  body : SendRec
  sent : Nat
  stamp : Nat
deriving DecidableEq, Repr

/-- A connection (R480 to R484). -/
structure Conn where
  peer : Nat
  w : Nat
  failed : Bool
  nextPsn : Nat
  queue : List SendRec
  unacked : List TxPkt
  cwnd : Nat
  /-- Packets acknowledged since CWND last changed, and those still to come before CWND may be halved again (R484). -/
  acked : Nat
  hold : Nat
  expect : Nat
  /-- DATA packets received and not yet handed to the decoder, by PSN (R481). -/
  window : List (Nat × List Byte)
  /-- Packets accepted since the last ACK, and the LIC count at the last of them (R481). -/
  sinceAck : Nat
  rxStamp : Option Nat
  ce : Bool
  /-- LIC count at the last NOTREADY for data that waits (R483). -/
  notready : Option Nat
deriving DecidableEq, Repr

/-- A doorway beside its register page: flit counts by class as sender and receiver, credits, packets in the making, packets that
wait for egress, packets that have arrived, paused priorities, and whether it retrains (R473 to R479). -/
structure DwAux where
  sent : List Nat
  credited : List Nat
  retired : List Nat
  next : List Nat
  making : List (List Byte)
  egress : List (Nat × List Byte × Nat)
  arrived : List (List Byte × Bool)
  paused : List Nat
  retrain : Bool
deriving DecidableEq, Repr

/-- What a COLL sends to one peer over one doorway (R497): the blocks still to send, in order, each with its phase. -/
structure CollStream where
  peer : Nat
  w : Nat
  ctx : Option Nat
  /-- Blocks of the stream in order: broadcast phase or not, block number; and how many are coded. -/
  items : List (Bool × Nat)
  pos : Nat
deriving DecidableEq, Repr

/-- A COLL in flight (R493 to R500). -/
structure CollJob where
  id : Nat
  tag : Nat
  op : Nat
  fmt : Nat
  slot : Nat
  flush : Bool
  build : Bool
  group : List Nat
  rank : Nat
  /-- Rank of ROOT; peer of a SEND or RECV. -/
  root : Nat
  peer : Nat
  sh : Nat
  dh : Nat
  aux : Nat
  /-- Linear image of SH, and bytes of the sequence. -/
  own : List Byte
  total : Nat
  /-- Values from children: block, rank, bytes (R495). -/
  got : List (Nat × Nat × List Byte)
  sums : List (Nat × List Byte)
  final : List (Nat × List Byte)
  streams : List CollStream
  /-- Decoder contexts by peer and doorway (R497). -/
  recvs : List (Nat × Nat × Nat)
  doneSent : Bool
  dones : List Nat
  commit : Bool
  flags : Nat
  poison : Bool
  /-- Bytes of `own` that come of poisoned elements and enter the operation, as offset and length (R496, R738). -/
  bad : List (Nat × Nat)
deriving DecidableEq, Repr

/-- A statistics record (R437): SD and SW in binary64, MAXD in binary32. -/
structure SweepRec where
  sd : Nat
  sw : Nat
  maxd : Nat
  step : Nat
  flags : Nat
  zero : Bool
  moment : Bool
deriving DecidableEq, Repr

/-- A pane in the sweep journal (R436, R437): the DRAM channel and number of its entry, the slot that it goes to, the slot's cells. -/
structure JournalPane where
  chan : Nat
  entry : Nat
  loc : PaneLoc
  cells : List Host.Cell
deriving DecidableEq, Repr

/-- A valid group of the sweep journal (R436): the engine that owns it, its panes, and the statistics record with its key. -/
structure JournalGroup where
  eng : Nat
  panes : List JournalPane
  record : Option (Nat × SweepRec)
deriving DecidableEq, Repr

/-- A member's part of a SWEEP (R434): its engine, and the units left of its factor run and of its shard run. -/
structure SweepPart where
  eng : Nat
  fpos : Nat
  fend : Nat
  spos : Nat
  send : Nat
  /-- Records of the shards of its present unit whose moments have been committed and whose weights come next. -/
  mid : Option (List Nat)
deriving DecidableEq, Repr

/-- A SWEEP at work (R433 to R437, R442): what it sampled, its parts, and what its shards have come to. -/
structure SweepJob where
  id : Nat
  opts : List Nat
  hist : List (Nat × Nat)
  parts : List SweepPart
  /-- Every member has completed its factor units. -/
  shards : Bool
  /-- Entries with a factor tag mismatch. -/
  bad : List Nat
  /-- Shards processed, by record number, with what they contribute. -/
  results : List (Nat × Option SweepRec)
  /-- Layers whose completion is committed. -/
  layers : List Nat
  /-- Units prefetched (R441). -/
  ahead : List Nat
deriving DecidableEq, Repr

/-- Steering of a layer (R442, R443, R464). -/
structure LayerStat where
  zcount : Nat
  alarmed : Bool
  ratio : Nat
  maxd : Nat
  /-- STEP of the SWEEP whose shards the layer's completion stands for; 0 once a shard is updated after it (R439). -/
  step : Nat
deriving DecidableEq, Repr

/-- What step 4 of R541 came to: cores, role of the device, and the placement with its accounts. -/
structure LoadPlan where
  cores : List (Nat × Nat × Nat)
  role : Nat × Nat × Nat
  stages : List (Nat × Nat)
  homes : List (Nat × Nat)
  panes : List (Nat × PaneLoc)
  used : List (Nat × Nat)
  placed : Placed
  spill : List (Nat × Nat)
  nohome : Nat
deriving DecidableEq, Repr

/-- A load under way, or an UNLOAD, which has no image (R541, R544). -/
structure LoadJob where
  image : Option Image
  plan : Option LoadPlan
deriving DecidableEq, Repr

/-- A boot under way: what it finds outside the device, and whether PERST_N began it (R654). -/
structure BootJob where
  env : BootEnv
  perst : Bool
deriving DecidableEq, Repr

/-- The state of the device. -/
structure State where
  /-- Register fields that differ from their reset value, by Fld.key. -/
  flds : List (Nat × Nat)
  /-- Lower halves of 64-bit registers held for a write, by address (R19). -/
  held : List (Nat × Nat)
  /-- Upper halves of 64-bit registers latched for a read, by address (R19). -/
  latch : List (Nat × Nat)
  /-- Bytes of the memory units, by unit, slot and offset (MEMORY in INVENTORY). -/
  mem : List Host.Cell
  /-- Numbers of the 64-byte lines that hold poison codewords (R317). -/
  poison : List Nat
  /-- Slots of the panes, by handle and pane index. -/
  panes : List (Nat × PaneLoc)
  /-- Home tiers of the tensors, one more than the tier, by handle (R276). -/
  homes : List (Nat × Nat)
  /-- Panes charged, by casement and tier (R268). -/
  used : List (Nat × Nat)
  image : Option Image
  regions : List (Nat × Region)
  hinges : List (Nat × Hinge)
  errlog : List (Nat × ErrRec)
  errSeq : Nat
  cfg : Cfg
  inflight : List InFlight
  qaux : List (Nat × QAux)
  progs : List (Nat × ProgState)
  fifo : List TraceRec
  traceSeq : Nat
  /-- Dropped records not yet announced by a LOST record, and the SEQ of the first (R710). -/
  traceLost : Option (Nat × Nat)
  tracePhase : Bool
  traceSince : Nat
  /-- A function-level reset is under way (R627). -/
  flrActive : Bool
  /-- LIC count of its region at the grant of an owned arbiter (R640). -/
  arbStamp : List (Nat × Nat)
  /-- Functions in OPENING that wait for the cluster or compression engine that they depend on (R660). -/
  shutWait : List Nat
  /-- Stage of each layer (R278). -/
  stages : List (Nat × Nat)
  copies : List WorkCopy
  /-- Matrix engines at work, by core. -/
  mx : List (Nat × MxRun)
  /-- Vector engines at work, by core. -/
  vx : List (Nat × VxRun)
  /-- Transom queues, by core, head first (R232). -/
  transom : List (Nat × List TrEntry)
  /-- Values that block encoders hold, oldest first (R183), the seam areas among them (R237). -/
  encs : List EncBlk
  placed : Placed
  covers : List Cover
  /-- Slots of the HDM window: unit, first slot, count (R615). -/
  winRuns : List (Nat × Nat × Nat)
  mu : List (Nat × MuAux)
  /-- The repair log: unit, row, PPRFAIL, oldest first (R323). -/
  repairLog : List (Nat × RowAddr × Bool)
  /-- The identity of each unit's stack or module, as the repair log holds it (R323). -/
  repairIds : List (Nat × Nat)
  carts : List (Nat × CartAux)
  /-- One-time-programmable memory: life-cycle rows from row 0, burned SVN fuses, revoked vendor keys (R682, R688). -/
  otp : Otp
  /-- A TRANSITION has programmed the last row's data and its valid word comes next (R691). -/
  lcPending : Bool
  /-- The measurement log, oldest first (R685). -/
  measLog : List MeasEntry
  /-- The CDAT sequence number (R624). -/
  cdatSeq : Nat
  /-- The DOE mailbox's error bit (R623). -/
  doeError : Bool
  /-- Membership (R486 to R492). -/
  nd : NdAux
  /-- Stream contexts (R375). -/
  ctxs : List (Nat × CompCtx)
  /-- COMP descriptors at work on their contexts. -/
  cjobs : List CompJob
  /-- Check units that self-test fenced (R657). -/
  ckFenced : List Nat
  /-- LIC count at the last byte a check unit took, plus one (R422). -/
  ckStamp : List (Nat × Nat)
  /-- Check units that the device has armed on its own account, with the descriptor that uses each (R412). -/
  ckOwner : List (Nat × Nat)
  /-- Doorways (R471 to R479). -/
  dws : List (Nat × DwAux)
  /-- Connections of the epoch (R480). -/
  conns : List Conn
  colls : List CollJob
  /-- COLLs taken while the membership changes (R504). -/
  collHeld : List Nat
  /-- The scale history that differs from zero, by layer (R204). -/
  hist : List (Nat × Nat)
  layerStats : List (Nat × LayerStat)
  /-- Statistics records, by DRAM channel × 2^21 + index (R437). -/
  sweepRecs : List (Nat × SweepRec)
  /-- Valid groups of the sweep journal, oldest first (R436). -/
  journal : List JournalGroup
  sweeps : List SweepJob
  /-- Live phase counters 0 to 9, and the LIC count of TR99 at their last tick (R444). -/
  phLive : List Nat
  phStamp : Nat
  /-- The load or UNLOAD under way (R541, R544). -/
  load : Option LoadJob
  /-- POR_N and PERST_N are asserted (R722). -/
  porAsserted : Bool
  perstAsserted : Bool
  /-- ALERT_N is held asserted for a record of severity 2, and THERMTRIP_N is asserted (R734). -/
  alertPulse : Bool
  thermtrip : Bool
  /-- A reset that waits for 105 degrees or less after a fatal cause 3: 1 PERST_N, 2 warm, 0 none (R667). -/
  awaited : Nat
  /-- The boot under way (R654). -/
  boot : Option BootJob
  /-- Subsystem ID from the board configuration (R607). -/
  subsystem : Nat
  /-- What the device has put on its boundary, newest first. -/
  out : List Out
  /-- Model's own: number of the next descriptor in flight. -/
  nextId : Nat
  /-- Model's own: how many free values have been drawn. -/
  freeIdx : Nat
  /-- Commands that wait, first in first out. -/
  pending : List Instr
deriving DecidableEq, Repr

end Sys2Proof.Machine

namespace Sys2Proof.Machine

/-- Configuration space and the MSI-X table at reset (R610, R622; log 20). -/
def Cfg.init : Cfg := ⟨false, false, false, 28, false, false, [], [], [], false, 0, false⟩

/-- Membership of no epoch (R515). -/
def NdAux.init : NdAux := ⟨[], none, [], [], [], 0, none, [], []⟩

/-- The machine right after reset (log 3): the power-on reset has reached every region, POR_N and PERST_N are still asserted, and
nothing is in the memories (R649, R720, R722). REG n.RSTCTL[RESET] reads 1 for every region (R651). -/
def State.reset : State where
  flds := (List.range 100).map (fun n => ((REG.RSTCTL_RESET n).key, 1))
  held := []
  latch := []
  mem := []
  poison := []
  panes := []
  homes := []
  used := []
  image := none
  regions := []
  hinges := []
  errlog := []
  errSeq := 0
  cfg := Cfg.init
  inflight := []
  qaux := []
  progs := []
  fifo := []
  traceSeq := 0
  traceLost := none
  tracePhase := true
  traceSince := 0
  flrActive := false
  arbStamp := []
  shutWait := []
  stages := []
  copies := []
  mx := []
  vx := []
  transom := []
  encs := []
  placed := ⟨[], [], []⟩
  covers := []
  winRuns := []
  mu := []
  repairLog := []
  repairIds := []
  carts := []
  otp := ⟨[], 0, 0⟩
  lcPending := false
  measLog := []
  cdatSeq := 0
  doeError := false
  nd := NdAux.init
  ctxs := []
  cjobs := []
  ckFenced := []
  ckStamp := []
  ckOwner := []
  dws := []
  conns := []
  colls := []
  collHeld := []
  hist := []
  layerStats := []
  sweepRecs := []
  journal := []
  sweeps := []
  phLive := List.replicate 10 0
  phStamp := 0
  load := none
  porAsserted := true
  perstAsserted := true
  alertPulse := false
  thermtrip := false
  awaited := 0
  boot := none
  subsystem := 0
  out := []
  nextId := 0
  freeIdx := 0
  pending := []

end Sys2Proof.Machine
end

