-- ==== Sys2Proof/Machine/Ops.lean ====
section
/-! DEFINITION. The named operations on the state that every family uses: register fields, LIC counts, MSI-X messages, error
records, trace records, peephole counters, the fatal state and the reach of a host access. -/

namespace Sys2Proof.Machine

/-- The value of a register field (R15, R16). -/
def getF (f : Fld) (s : State) : Nat := assocGet f.reset s.flds f.key

/-- Set a register field, truncated to its width. -/
def setF (f : Fld) (v : Nat) (s : State) : State :=
  { s with flds := assocSet f.reset s.flds f.key (truncTo f.width v) }

/-- A field as a condition. -/
def flag (f : Fld) (s : State) : Bool := getF f s = 1

/-- Add to a counter modulo its width. -/
def addF (f : Fld) (n : Nat) (s : State) : State := setF f (getF f s + n) s

/-- Add to a counter that saturates. -/
def satF (f : Fld) (n : Nat) (s : State) : State := setF f (satAdd f.width (getF f s) n) s

/-- OR bits into a field. -/
def orF (f : Fld) (n : Nat) (s : State) : State := setF f (getF f s ||| n) s

/-- Return every field of the registers at the addresses `p` picks to its reset value (R15). -/
def resetFields (p : Nat → Bool) (s : State) : State := { s with flds := s.flds.filter (fun x => !p (x.1 / 64)) }

/-- Return one field to its reset value. -/
def resetF (f : Fld) (s : State) : State := setF f f.reset s

/-- A lower half held for the register at an address is gone (R19). -/
def dropHeld (a : Nat) (s : State) : State := { s with held := optSet s.held a none }

/-- Fold a list of numbers over the state. -/
def forEach {α : Type} (l : List α) (f : α → State → State) (s : State) : State := l.foldl (fun a x => f x a) s

/-- The LIC count of a region (R75, R95). -/
def licOf (n : Nat) (s : State) : Nat := getF (REG.LIC_COUNT n) s

/-- A LIC duration: a difference of counts modulo 2^64 (R79). -/
def licSince (n stamp : Nat) (s : State) : Nat := (licOf n s + 2 ^ 64 - stamp) % 2 ^ 64

/-- Put something on the boundary. -/
def emit (o : Out) (s : State) : State := { s with out := o :: s.out }

/-- A region at reset (R75, R654 step 1, R93). -/
def regionInit : Region := ⟨0, false, none, 800, 0, false, false, true⟩

/-- A hinge with nothing held. -/
def hingeInit : Hinge := ⟨0, none, none, none, [], [], [], []⟩

def regionOf (n : Nat) (s : State) : Region := assocGet regionInit s.regions n
def setRegion (n : Nat) (f : Region → Region) (s : State) : State :=
  { s with regions := assocModify regionInit s.regions n f }

/-- The key of the two ends of a hinge, in either order. -/
def pairKey (a b : Nat) : Nat := min a b * 256 + max a b

def hingeOf (a b : Nat) (s : State) : Hinge := assocGet hingeInit s.hinges (pairKey a b)
def setHinge (a b : Nat) (f : Hinge → Hinge) (s : State) : State :=
  { s with hinges := assocModify hingeInit s.hinges (pairKey a b) f }

/-- Draw one free value: the counter that Config's free values are applied to advances. -/
def drawFree (s : State) : Nat × State := (Config.freeValue s.freeIdx, { s with freeIdx := s.freeIdx + 1 })

/-- Draw `n` random bytes (R679). -/
def drawRandom (n : Nat) (s : State) : List Byte × State :=
  (byteSlice (Config.random s.freeIdx n) 0 n, { s with freeIdx := s.freeIdx + 1 })

/-- A configured device may issue CXL.io and CXL.cache requests (R612), but not in a function-level reset (R627). -/
def busOk (s : State) : Bool := s.cfg.busMaster && !s.cfg.d3hot && !s.flrActive

/-- The address and the data of a vector's entry in the MSI-X table (R622; the entry's layout is PCI Express's, log 25). -/
def msixAddr (v : Nat) (s : State) : Nat :=
  assocGet 0 s.cfg.msixTable (4 * v) + assocGet 0 s.cfg.msixTable (4 * v + 1) * 2 ^ 32
def msixData (v : Nat) (s : State) : Nat := assocGet 0 s.cfg.msixTable (4 * v + 2)

/-- Send an MSI-X message: one for a masked vector, or one that the bus master enable holds, sets its pending bit (R612, R622). -/
def sendMsix (v : Nat) (s : State) : State :=
  if !s.cfg.msixEnable then s
  else if s.cfg.funcMask || !s.cfg.unmasked.contains v || !busOk s then
    { s with cfg := { s.cfg with pendingVec := if s.cfg.pendingVec.contains v then s.cfg.pendingVec else v :: s.cfg.pendingVec } }
  else emit (.msix v (msixAddr v s) (msixData v s)) s

/-- The peephole counters whose enable is set, from the field map (R704, R717). -/
def enabledCounters (s : State) : List Nat :=
  (s.flds.filter (fun p => decide (0x02010000 * 64 ≤ p.1) && decide (p.1 < 0x02014000 * 64) && decide (p.1 % 64 = 31)
    && decide (p.2 = 1))).map (fun p => (p.1 / 64 - 0x02010000) / 4)

/-- A counter selects this event (R705). -/
def counterSelects (c kind unit event : Nat) (s : State) : Bool :=
  getF (PEEP.CNTSEL_KIND c) s = kind && getF (PEEP.CNTSEL_EVENT c) s = event
  && (getF (PEEP.CNTSEL_UNIT c) s = unit || (kind = 11 && getF (PEEP.CNTSEL_UNIT c) s = 1023))

/-- An event that the peephole may count, with its increment (R704). -/
def peep (kind unit event inc : Nat) (s : State) : State :=
  if flag PEEP.CTRL_CNTEN s then
    forEach ((enabledCounters s).filter (fun c => counterSelects c kind unit event s))
      (fun c s => addF (PEEP.CNT_COUNT c) inc s) s
  else s

/-- The slots of the trace ring (R710). -/
def traceSize (s : State) : Nat := 2 ^ getF PEEP.TRRING_LOG2 s

/-- A formed record is dropped and counted (R710). -/
def traceDrop (seq : Nat) (s : State) : State :=
  satF PEEP.TRLOST_COUNT 1
    { s with traceLost := some (match s.traceLost with
      | none => (1, seq)
      | some (n, q) => (n + 1, q)) }

/-- Put a formed record into the FIFO of 1,024 (R709). -/
def tracePush (r : TraceRec) (s : State) : State :=
  setF PEEP.TRSTAT_FILL (s.fifo.length + 1) { s with fifo := s.fifo ++ [r] }

/-- The LOST record of R710: it is a record formed, so SEQ counts it. -/
def lostRecord (s : State) : Option (TraceRec × State) :=
  match s.traceLost with
  | none => none
  | some (n, first) =>
    let seq := (s.traceSeq + 1) % 2 ^ 32
    some (⟨15, 0, 97, seq, licOf 97 s, n, first⟩, { s with traceSeq := seq, traceLost := none })

/-- Form a trace record of an enabled class (R707, R708): it enters the FIFO, after a LOST record when records were dropped
(R710), or is dropped while the FIFO is full. -/
def trace (cls event region arg0 arg1 : Nat) (s : State) : State :=
  if flag PEEP.CTRL_TREN s && bitOf (getF PEEP.TRCLASS_MASK s) cls then
    let s := if s.fifo.length < 1023 then
        (match lostRecord s with
        | some (l, s) => tracePush l s
        | none => s)
      else s
    let seq := (s.traceSeq + 1) % 2 ^ 32
    let s := { s with traceSeq := seq }
    if 1024 ≤ s.fifo.length || s.traceLost.isSome then traceDrop seq s
    else tracePush ⟨cls, event, region, seq, licOf region s, arg0 % 2 ^ 64, arg1 % 2 ^ 64⟩ s
  else s

/-- The 64 bytes of an error record (R663). -/
def errBytes (r : ErrRec) : List Byte :=
  leBytes 4 r.seq ++ leBytes 1 r.cls ++ leBytes 1 r.sev ++ leBytes 1 r.region ++ leBytes 1 0 ++ leBytes 2 r.code
  ++ leBytes 2 r.unit ++ leBytes 4 0 ++ leBytes 8 r.lic ++ ((r.detail ++ [0, 0, 0, 0, 0]).take 5).flatMap (fun d => leBytes 8 d)

/-- Write an error record at ERRTAIL, over the oldest when the ring is full (R664), and send its message (R665); one of severity 2
asserts ALERT_N (R734). -/
def errRecord (cls sev region code unit : Nat) (detail : List Nat) (s : State) : State :=
  let seq := (s.errSeq + 1) % 2 ^ 32
  let tail := getF GLB.ERRTAIL_SLOT s
  let next := (tail + 1) % 1024
  let r : ErrRec := ⟨seq, cls, sev, region, code, unit, licOf 97 s, detail.map (fun d => d % 2 ^ 64)⟩
  let s := { s with errlog := assocSplice s.errlog tail (tail + 1) [(tail, r)], errSeq := seq }
  let s := setF GLB.ERRTAIL_SLOT next s
  let s := if next = getF GLB.ERRHEAD_SLOT s then satF GLB.ERRLOST_COUNT 1 (setF GLB.ERRHEAD_SLOT (next + 1) s) else s
  let s := trace 11 cls region seq sev s
  let s := if flag (GLB.ERRVEC_EN cls) s && decide (getF (GLB.ERRVEC_MINSEV cls) s ≤ sev)
    then sendMsix (getF (GLB.ERRVEC_VECTOR cls) s) s else s
  if sev = 2 then emit (.aer true) { s with alertPulse := true } else s

/-- Error classes of R663. -/
def clsRegAccess : Nat := 1
def clsRegion : Nat := 2
def clsMemory : Nat := 3
def clsStorage : Nat := 4
def clsLink : Nat := 5
def clsTraining : Nat := 6
def clsCheck : Nat := 7
def clsArbiter : Nat := 8
def clsHost : Nat := 9
def clsQueue : Nat := 10
def clsBoot : Nat := 11
def clsFatal : Nat := 12
def clsSecurity : Nat := 13

/-- The unit field of a record that concerns no unit (R663). -/
def noUnit : Nat := 0xFFFF

/-- An error record of class register access, naming the register (R18, R21, R736). -/
def regAccessError (addr : Nat) (s : State) : State := errRecord clsRegAccess 0 97 0 noUnit [addr] s

/-- The fatal state is entered (R667); cause 3 asserts THERMTRIP_N (R734). -/
def enterFatal (cause region : Nat) (s : State) : State :=
  if flag GLB.STAT_FATAL s then s
  else
    let s := { s with thermtrip := s.thermtrip || decide (cause = 3) }
    errRecord clsFatal 2 region 0 noUnit [cause] (setF GLB.STAT_FCAUSE cause (setF GLB.STAT_FATAL 1 s))

def fatal (s : State) : Bool := flag GLB.STAT_FATAL s

/-- Boot has ended: STAGE READY and no failure (R654, R656). -/
def bootReadyNow (s : State) : Bool := getF GLB.BOOT_STAGE s = 8 && getF GLB.BOOT_FAIL s = 0

/-- Boot stopped with a failure (R656). -/
def bootFailed (s : State) : Bool := getF GLB.BOOT_FAIL s ≠ 0

/-- POR_N, or PERST_N, holds every region in reset (R649, R722); a PERST_N that waits for the temperature to fall does not yet
(R667). -/
def inHold (s : State) : Bool := s.porAsserted || (s.perstAsserted && decide (s.awaited ≠ 1))

/-- The work of the device goes on: boot has ended and the device is not in the fatal state (R667, R656). -/
def alive (s : State) : Bool := bootReadyNow s && !fatal s

/-- Blocks that answer before READY (R655): GLB, REG n, ARB and HOSTIF; GLB alone after a boot failure or in the fatal
state (R656, R667). -/
inductive BlkReach where
  | glb
  | early
  | late
deriving DecidableEq, Repr

/-- Whether an access to a block of this kind is served. -/
def blkServed (k : BlkReach) (s : State) : Bool :=
  match k with
  | .glb => true
  | .early => !bootFailed s && !fatal s
  | .late => alive s

/-- A host write to BAR0 or BAR2: answered with Unsupported Request where memory space is not enabled (R612), discarded where
the block does not answer (R655), else applied. -/
def hostWrite (k : BlkReach) (f : State → State) (s : State) : State :=
  if !s.cfg.memSpace || s.cfg.d3hot then emit .unsupportedRequest s
  else if blkServed k s then f s
  else s

/-- The address of an instruction's operand bits in a descriptor: `n` bits at byte `o`, bit `b` (R10, R569). -/
def dfield (d : Desc) (o b n : Nat) : Nat := bitsOf d.toNat (8 * o + b) n

/-- The in-flight entry with an identifier. -/
def flight (id : Nat) (s : State) : Option InFlight := s.inflight.find? (fun e => e.id = id)

/-- Change an in-flight entry. -/
def setFlight (id : Nat) (f : InFlight → InFlight) (s : State) : State :=
  { s with inflight := updateWhere (fun e => decide (e.id = id)) f s.inflight }

/-- Change one part of an in-flight entry. -/
def setPart (id p : Nat) (f : Part → Part) (s : State) : State :=
  setFlight id (fun e => { e with parts := (indexFrom 0 e.parts).map (fun x => if x.1 = p then f x.2 else x.2) }) s

end Sys2Proof.Machine
end

