-- ==== Sys2Proof/Machine/Queue.lean ====
section
/-! DEFINITION. Queues, casements and completion (chapters 01 and 14): the casement tree, the division of work, fences,
completion records, interrupts and the taking of a descriptor. -/

namespace Sys2Proof.Machine

/-- Status codes of R585. -/
def stOk : Nat := 0x0000
def stOpcodeInvalid : Nat := 0x0001
def stFieldInvalid : Nat := 0x0002
def stFormatInvalid : Nat := 0x0003
def stFormatNotPermitted : Nat := 0x0004
def stHandleInvalid : Nat := 0x0005
def stFormatMismatch : Nat := 0x0006
def stShapeMismatch : Nat := 0x0007
def stBlockLayoutInvalid : Nat := 0x0008
def stOperandAlias : Nat := 0x0009
def stPositionRange : Nat := 0x000A
def stTransomUnpaired : Nat := 0x000B
def stHostRange : Nat := 0x000C
def stQuotaExceeded : Nat := 0x0010
def stTierFull : Nat := 0x0011
def stTierNotPermitted : Nat := 0x0012
def stPoisonRead : Nat := 0x0018
def stUnitClosed : Nat := 0x0019
def stRegionReset : Nat := 0x001A
def stQueueStopped : Nat := 0x001B
def stStreamBusy : Nat := 0x0020
def stCompCorrupt : Nat := 0x0021
def stCompGenMissing : Nat := 0x0022
def stSweepTagMismatch : Nat := 0x0028
def stSweepNoJournal : Nat := 0x0029
def stSweepTooLarge : Nat := 0x002A
def stChkpSpace : Nat := 0x0030
def stChkpCorrupt : Nat := 0x0031
def stChkpStep : Nat := 0x0032
def stChkpRefused : Nat := 0x0033
def stCartForeign : Nat := 0x0034
def stCartWorn : Nat := 0x0035
def stEpochChanged : Nat := 0x0038
def stPeerLost : Nat := 0x0039
def stCollMismatch : Nat := 0x003A
def stNotMember : Nat := 0x003B
def stFenceInvalid : Nat := 0x0040
def stFenceRange : Nat := 0x0041

/-- A descriptor with `n` bits at byte `o`, bit `b` replaced (R10). -/
def dput (d : Desc) (o b n v : Nat) : Desc :=
  let p := 8 * o + b
  BitVec.ofNat 512 (d.toNat / 2 ^ (p + n) * 2 ^ (p + n) + v % 2 ^ n * 2 ^ p + d.toNat % 2 ^ p)

/-- A descriptor of the row's opcode (R569, R570). -/
def withOpcode (op : Nat) (d : Desc) : Desc := dput d 0 0 8 op

/-- Descriptor header fields (R569). -/
def dOpcode (d : Desc) : Nat := dfield d 0 0 8
def dPhase (d : Desc) : Nat := dfield d 1 0 3
def dIrq (d : Desc) : Bool := dfield d 2 0 1 = 1
def dUtag (d : Desc) : Nat := dfield d 4 0 32

/-- Check 2 of R571 fails: a reserved bit of the header is 1, or PHASE is 6 or 7. -/
def headerFaulty (d : Desc) : Bool :=
  decide (6 ≤ dPhase d) || decide (dfield d 1 3 5 ≠ 0) || decide (dfield d 2 1 7 ≠ 0) || decide (dfield d 3 0 8 ≠ 0)
  || decide (dfield d 8 0 64 ≠ 0)

/-- The check of R571 that fails: status and CHECK value (R582). -/
def headerCheck (d : Desc) : Option (Nat × Nat) :=
  if dOpcode d = 0 ∨ 0x0A < dOpcode d then some (stOpcodeInvalid, 0x81)
  else if headerFaulty d then some (stFieldInvalid, 0x82)
  else none

/-! The casement tree (R43 to R47). -/

/-- The casement with a logical identifier. -/
def casementOf (c : Nat) (s : State) : Option Casement :=
  match s.image with
  | some im => im.casements[c]?
  | none => none

/-- Ancestors of a casement from itself upwards to its tenant (R64). -/
def accountChain (cs : List Casement) : Nat → Nat → List Nat
  | 0, _ => []
  | fuel + 1, c =>
    match cs[c]? with
    | none => []
    | some k =>
      match k.parent with
      | none => [c]
      | some p => c :: accountChain cs fuel p

/-- The accounts that a pane of casement `c` is charged to, owner first (R64). -/
def chainOf (c : Nat) (s : State) : List Nat :=
  match s.image with
  | some im => accountChain im.casements 1024 c
  | none => []

/-- The top-level casement above `c` (R45). -/
def topOf (c : Nat) (s : State) : Nat := (chainOf c s).getLastD c

/-- Tenant number of a casement: the rank of its top-level casement (R572). -/
def tenantNo (c : Nat) (s : State) : Nat :=
  match s.image with
  | some im => ((indexFrom 0 im.casements).filter (fun p => p.2.parent.isNone && decide (p.1 < topOf c s))).length
  | none => 0

/-- The top-level casement of a tenant number (R572). -/
def tenantTop (t : Nat) (s : State) : Option Nat :=
  match s.image with
  | some im => (((indexFrom 0 im.casements).filter (fun p => p.2.parent.isNone)).map (fun p => p.1))[t]?
  | none => none

/-- The children of an inner casement in member order (R47, R527). -/
def childrenOf (cs : List Casement) (c : Nat) : List Nat :=
  ((indexFrom 0 cs).filter (fun p => decide (p.2.parent = some c))).map (fun p => p.1)

/-- The core that serves member `m` of a leaf casement (R48, R301). -/
def coreOfMember (leaf m : Nat) (s : State) : Option Nat :=
  (List.range 32).find? (fun n => flag (TIER.RPCORE_ASSIGNED n) s && decide (getF (TIER.RPCORE_LEAF n) s = leaf)
    && decide (getF (TIER.RPCORE_MEMBER n) s = m))

/-- The run of units that member `i` of `members` takes of `units` (R54): first and count. -/
def memberRun (units members i : Nat) : Nat × Nat :=
  let base := units / members
  let extra := units % members
  (i * base + min i extra, base + (if i < extra then 1 else 0))

/-- The division of units `lo` to `lo + n - 1` among the cores of a casement's subtree, members in order (R52 to R55). -/
def divide (cs : List Casement) (s : State) : Nat → Nat → Nat → Nat → List (Nat × Nat × Nat)
  | 0, _, _, _ => []
  | fuel + 1, c, lo, n =>
    match cs[c]? with
    | none => []
    | some k =>
      if k.leaf then
        (List.range k.cores).filterMap (fun i =>
          let r := memberRun n k.cores i
          if r.2 = 0 then none else some ((coreOfMember c i s).getD 31, lo + r.1, lo + r.1 + r.2))
      else
        let ms := childrenOf cs c
        (indexFrom 0 ms).flatMap (fun p =>
          let r := memberRun n ms.length p.1
          if r.2 = 0 then [] else divide cs s fuel p.2 (lo + r.1) r.2)

/-- The parts of a descriptor of `units` units on a casement's port. -/
def partsFor (port units : Nat) (s : State) : List Part :=
  match s.image with
  | none => []
  | some im => (divide im.casements s 1024 port 0 units).map (fun p => ⟨p.1, p.2.1, p.2.2, .back, 0, 0, 0⟩)

/-- The one part of a descriptor that goes whole to the root sequencer (R56). -/
def rootPart (units : Nat) : Part := ⟨255, 0, units, .running, 0, 0, 0⟩

/-- Whether the shutter of a function is OPEN (R676). -/
def isOpen (i : Nat) (s : State) : Bool := getF (GLB.SHUT_STATE i) s = 2

/-- Cores of the subtree of a casement (R48). -/
def coresOf (c : Nat) (s : State) : List Nat :=
  (List.range 32).filter (fun n => flag (TIER.RPCORE_ASSIGNED n) s && (chainOf (getF (TIER.RPCORE_LEAF n) s) s).contains c)

/-- The leaf casements of the subtree of a casement. -/
def leavesOf (c : Nat) (s : State) : List Nat :=
  match s.image with
  | none => []
  | some im => (List.range im.casements.length).filter (fun l =>
      (match im.casements[l]? with | some k => k.leaf | none => false) && (chainOf l s).contains c)

/-! Queues. -/

def qState (q : Nat) (s : State) : Nat := getF (CMDQ.QSTAT_STATE q) s
def qDisabled : Nat := 0
def qEnabled : Nat := 1
def qStopping : Nat := 2
def qError : Nat := 3

def qauxInit : QAux := ⟨true, 0, none, []⟩
def qauxOf (q : Nat) (s : State) : QAux := assocGet qauxInit s.qaux q
def setQaux (q : Nat) (f : QAux → QAux) (s : State) : State := { s with qaux := assocModify qauxInit s.qaux q f }

/-- The queue bound to a casement (R50, R595). -/
def queueOf (c : Nat) (s : State) : Option Nat :=
  (List.range 256).find? (fun q => flag (CMDQ.QBIND_VALID q) s && decide (getF (CMDQ.QBIND_CASEMENT q) s = c))

/-- Completion ring entries not yet consumed (R559). -/
def cqUsed (q : Nat) (s : State) : Nat :=
  let size := 2 ^ getF (CMDQ.QRING_CQLOG2 q) s
  (getF (CMDQ.QPTR_CQTAIL q) s + size - getF (CMDQ.QPTR_CQHEAD q) s) % size

/-- Descriptors in flight whose record goes to queue `q`: one is in flight until its record has been written, so those whose record D3hot
holds count (R567, R612). -/
def qInflight (q : Nat) (s : State) : Nat :=
  (s.inflight.filter (fun e => decide (e.queue = some q))).length + (qauxOf q s).late.length

/-- Descriptors in flight on the device (R567). -/
def allInflight (s : State) : Nat := s.inflight.length + (s.qaux.map (fun p => p.2.late.length)).sum

/-- GSTAT and QSTAT show what is in flight (R594, R601): they are set whenever the in-flight list changes. -/
def recountQueue (q : Nat) (s : State) : State :=
  let s := setF (CMDQ.QSTAT_INFLIGHT q) (qInflight q s) s
  setF (CMDQ.QSTAT_WAITING q)
    (b2n (s.inflight.any (fun e => decide (e.queue = some q) && decide (e.st = .waiting) && !e.fromProgram))) s

/-- Counts of what is in flight on the device, by GSTAT (R601). -/
def recount (q : Option Nat) (s : State) : State :=
  let s := setF CMDG.GSTAT_INFLIGHT (allInflight s) s
  let s := setF CMDG.GSTAT_COLLS (s.inflight.filter (fun e => decide (e.opcode = 4))).length s
  match q with
  | some q => recountQueue q s
  | none => s

/-- A queue goes to ERROR (R589): the code of QSTAT[ERR] and one error record naming the queue and, for a record write, its SEQ, with the
STATUS of its descriptor (R663, log 283). -/
def queueError (q err : Nat) (lost : Option (Nat × Nat)) (s : State) : State :=
  let s := setF (CMDQ.QSTAT_STATE q) qError (setF (CMDQ.QSTAT_ERR q) err s)
  let s := if lost.isSome then satF (CMDQ.QSTAT_LOST q) 1 s else s
  errRecord clsQueue 1 99 ((lost.map (fun l => l.2)).getD 0) q (match lost with
    | some l => [q, l.1]
    | none => [q]) s

/-- A queue raises its interrupt (R588). -/
def queueIrq (q : Nat) (s : State) : State :=
  setQaux q (fun a => { a with sinceIrq := 0, oldest := none }) (sendMsix (getF (CMDQ.QIRQ_VECTOR q) s) s)

/-- After a record: the interrupt of R588, or the record joins those that wait. -/
def recordIrq (q : Nat) (irq : Bool) (status : Nat) (s : State) : State :=
  let a := qauxOf q s
  let th := getF (CMDQ.QIRQ_THRESH q) s
  if flag (CMDQ.QIRQ_EN q) s && (irq || (decide (status ≠ stOk) && flag (CMDQ.QIRQ_ERRIRQ q) s)
      || (decide (th ≠ 0) && decide (th ≤ a.sinceIrq + 1))) then queueIrq q s
  else setQaux q (fun a => { a with sinceIrq := a.sinceIrq + 1, oldest := some (a.oldest.getD (licOf 99 s)) }) s

/-- The 32 bytes of a completion record (R581, R582). -/
def recordBytes (e : InFlight) (status flags replay check tier dur : Nat) (phase : Bool) : List Byte :=
  leBytes 4 e.seq ++ leBytes 2 status ++ leBytes 2 flags ++ leBytes 1 (dOpcode e.desc) ++ leBytes 1 replay
  ++ leBytes 1 (b2n e.fromProgram) ++ leBytes 1 0 ++ leBytes 4 (dUtag e.desc) ++ leBytes 8 dur
  ++ leBytes 4 ((if e.fromProgram then e.entry * 2 ^ 16 else 0) + tier * 2 ^ 8 + check) ++ leBytes 4 (b2n phase * 2 ^ 31)

/-- Write a completion record into the ring of a queue, and raise what it raises (R581, R583, R588). -/
def putRecord (q : Nat) (r : DoneRec) (s : State) : State :=
  let tail := getF (CMDQ.QPTR_CQTAIL q) s
  let next := (tail + 1) % 2 ^ getF (CMDQ.QRING_CQLOG2 q) s
  let a := qauxOf q s
  let s := emit (.hostWrite (getF (CMDQ.CQBASE_ADDR q) s * 2 ^ 12 + 32 * tail)
    (recordBytes r.flight r.status r.flags r.replay r.check r.tier r.dur a.phase)) s
  let s := setF (CMDQ.QPTR_CQTAIL q) next s
  let s := if next = 0 then setQaux q (fun a => { a with phase := !a.phase }) s else s
  recordIrq q (dIrq r.flight.desc) r.status (peep 11 q 2 1 (addF (CMDQ.QDONE_COUNT q) 1 s))

/-- A record is held in its queue while the device is in D3hot (R612; log 127). -/
def holdRecord (q : Nat) (r : DoneRec) (s : State) : State := setQaux q (fun a => { a with late := a.late ++ [r] }) s

/-- A record for a queue: dropped in ERROR, held in D3hot, failed without bus mastering, else written (R589, R590, R612). -/
def offerRecord (q : Nat) (r : DoneRec) (s : State) : State :=
  if qState q s = qError then errRecord clsQueue 1 99 r.status q [q, r.flight.seq] (satF (CMDQ.QSTAT_LOST q) 1 s)
  else if s.cfg.d3hot then holdRecord q r s
  else if !busOk s then queueError q 2 (some (r.flight.seq, r.status)) s
  else putRecord q r s

/-- The record of a descriptor that completes now (R581). -/
def writeRecord (q : Nat) (e : InFlight) (status flags replay check tier : Nat) (s : State) : State :=
  offerRecord q ⟨e, status, flags, replay, check, tier, licSince 99 e.takenLic s⟩ s

/-- A snapshot of the phase counters (R444). -/
def snapPhases (s : State) : State :=
  let s' := forEach (List.range 10) (fun i s => setF (TRN.PHREP_COUNT i) (s.phLive.getD i 0) s) s
  { s' with phLive := List.replicate 10 0 }

/-- The check units that a descriptor has armed are released (R412). -/
def releaseChecks (id : Nat) (s : State) : State :=
  forEach (s.ckOwner.filter (fun p => decide (p.2 = id))) (fun p s => setF (CK.CKCTL_OWNER p.1) 0 (setF (CK.CKCTL_ARM p.1) 0 s))
    { s with ckOwner := s.ckOwner.filter (fun p => decide (p.2 ≠ id)) }

/-- A descriptor completes: it leaves flight and its record is written (R58, R567, R583); the completion of a SWEEP takes a snapshot of
the phase counters where AUTOSNAP says so (R444). -/
def finish (e : InFlight) (status flags replay check : Nat) (s : State) : State :=
  let tier := if status = stQuotaExceeded ∨ status = stTierFull then getF TIER.QLAST_TIER s else 0
  let s := releaseChecks e.id (if e.opcode = 5 && flag TRN.PHCTL_AUTOSNAP s then snapPhases s else s)
  let s := { s with
    inflight := s.inflight.filter (fun x => decide (x.id ≠ e.id))
    copies := s.copies.filter (fun c => decide (c.owner ≠ e.id))
    covers := s.covers.filter (fun c => decide (c.owner ≠ e.id)) }
  let s := match e.queue with
    | some q => writeRecord q e status flags replay check tier s
    | none => s
  recount e.queue (trace 1 0 99
    ((e.queue.getD 0) + e.opcode * 2 ^ 8 + b2n e.fromProgram * 2 ^ 16 + e.entry * 2 ^ 20 + status * 2 ^ 48)
    (dUtag e.desc + e.seq * 2 ^ 32) s)

/-- A WAIT's condition holds (R574). -/
def waitHolds (d : Desc) (s : State) : Bool :=
  decide (dfield d 0x18 0 64 ≤ getF (CMDG.FENCE_VALUE (dfield d 0x10 0 12)) s)

/-- Every held WAIT whose condition holds completes (R577). -/
def completeWaits (s : State) : State :=
  forEach (s.inflight.filter (fun e => decide (e.st = .waiting) && waitHolds e.desc s)) (fun e s => finish e stOk 0 0 0 s) s

/-- A fence counter takes a new value; WAITs that it readies complete (R572, R577). -/
def setFence (f v : Nat) (event : Nat) (s : State) : State :=
  completeWaits (trace 12 event 99 f v (setF (CMDG.FENCE_VALUE f) v s))

/-- Status of a descriptor from its parts: its own status if one is set, else that of the first part that failed, the parts
standing in member order (R58). -/
def combinedStatus (e : InFlight) : Nat :=
  if e.status ≠ 0 then e.status
  else match e.parts.find? (fun p => decide (p.status ≠ 0)) with
    | some p => p.status
    | none => 0

/-- Flags and replay count of a descriptor from its parts (R58). -/
def combinedFlags (e : InFlight) : Nat := e.parts.foldl (fun a p => a ||| p.flags) e.flags
def combinedReplay (e : InFlight) : Nat := e.parts.foldl (fun a p => max a p.replay) 0

/-! Taking. -/

/-- While a load or UNLOAD quiesces, and during a REPLACE, nothing is taken (R568). -/
def takingStopped (s : State) : Bool :=
  flag TIER.STAT_BUSY s || decide (4 ≤ getF IMG.STAT_STATE s ∧ getF IMG.STAT_STATE s ≤ 6)

/-- A WAIT taken earlier holds the port (R577, R580). -/
def portHeld (port : Nat) (s : State) : Bool :=
  s.inflight.any (fun e => decide (e.st = .waiting) && decide (e.port = port))

/-- The limits of R567 on the device and on the queue that receives the records. -/
def withinLimits (q opcode : Nat) (s : State) : Bool :=
  decide (allInflight s < 4096)
  && decide (qInflight q s + cqUsed q s < 2 ^ getF (CMDQ.QRING_CQLOG2 q) s - 1)
  && (decide (getF (CMDQ.QCTL_MAXFLT q) s = 0) || decide (qInflight q s < getF (CMDQ.QCTL_MAXFLT q) s))
  && (decide (opcode ≠ 4) || decide ((s.inflight.filter (fun e => decide (e.opcode = 4))).length < 256))

/-- The command processor may take the next descriptor of queue `q` (R565 to R568, R589, R656, R667). -/
def takeable (q opcode : Nat) (s : State) : Bool :=
  alive s && decide (qState q s = qEnabled) && flag (CMDQ.QBIND_VALID q) s && s.image.isSome && !takingStopped s
  && decide (getF (CMDQ.QPTR_SQHEAD q) s ≠ getF (CMDQ.QPTR_SQTAIL q) s)
  && withinLimits q opcode s && !portHeld (getF (CMDQ.QBIND_CASEMENT q) s) s && !(regionOf 99 s).inReset
  && decide (s.flrActive = false)

/-- The MMA that is held until the next descriptor of its port is taken (R234). -/
def pairingOn (port : Nat) (s : State) : Option InFlight :=
  s.inflight.find? (fun e => decide (e.st = .pairing) && decide (e.port = port))

/-- A held MMA that cannot be paired completes (R234). -/
def breakPair (port : Nat) (s : State) : State :=
  match pairingOn port s with
  | some m => finish m stTransomUnpaired 0 0 0 s
  | none => s

/-- A VOP that takes its X from the transom (R234, R242). -/
def isTransomVop (d : Desc) : Bool := decide (dOpcode d = 2) && decide (dfield d 0x3C 4 1 = 1)

/-- A descriptor enters flight (R565, R567): the common header is checked first, then `k` runs the opcode's own checks. -/
def enterFlight (port q seq entry : Nat) (fromProgram : Bool) (d : Desc) (k : InFlight → State → State) (s : State) : State :=
  let e : InFlight := ⟨s.nextId, port, some q, seq, fromProgram, entry, dOpcode d, d, getF GLB.RUNMODE_MODE s, licOf 99 s,
    .running, [], none, [], 0, 0⟩
  let s := { s with inflight := s.inflight ++ [e], nextId := s.nextId + 1 }
  let s := peep 11 q 1 1 (recount (some q) s)
  let s := trace 0 0 99 (q + dOpcode d * 2 ^ 8 + b2n fromProgram * 2 ^ 16 + entry * 2 ^ 20) (dUtag d + seq * 2 ^ 32) s
  match headerCheck d with
  | some (st, ck) => finish e st 0 0 ck (peep 11 q 3 1 (breakPair port s))
  | none => k e (if isTransomVop d then s else breakPair port s)

/-- A descriptor fails a check of its opcode: it completes at once (R565, R582). -/
def failCheck (e : InFlight) (status check : Nat) (s : State) : State :=
  finish e status 0 0 check (match e.queue with
    | some q => peep 11 q 3 1 s
    | none => s)

/-- The command processor takes the next descriptor of queue `q`, which its RdCurr reads as `d` (R565, R566, R614): none in D3hot, where
work already taken goes on (R612; log 127). -/
def takeRing (q : QueueNo) (d : Desc) (k : InFlight → State → State) (s : State) : State :=
  if takeable q (dOpcode d) s then
    if busOk s then
      let head := getF (CMDQ.QPTR_SQHEAD q) s
      let s := peep 10 0 1 1 (emit (.rdCurr (getF (CMDQ.SQBASE_ADDR q) s * 2 ^ 12 + 64 * head)) s)
      let s := setF (CMDQ.QPTR_SQHEAD q) ((head + 1) % 2 ^ getF (CMDQ.QRING_SQLOG2 q) s) s
      enterFlight (getF (CMDQ.QBIND_CASEMENT q) s) q head 0 false d k s
    else if s.cfg.d3hot then s
    else queueError q 1 none s
  else s

/-- The first check that fails, in order: CHECK number and status (R565). -/
def firstFailure (cs : List (Nat × Nat × Bool)) : Option (Nat × Nat) :=
  match cs.find? (fun c => c.2.2) with
  | some c => some (c.1, c.2.1)
  | none => none

/-- Run an opcode's checks, then go on with the descriptor (R565). -/
def validated (e : InFlight) (cs : List (Nat × Nat × Bool)) (k : State → State) (s : State) : State :=
  match firstFailure cs with
  | some (n, st) => failCheck e st n s
  | none => k s

/-! Parts. -/

/-- Parts held by the sequencer of a core (R62, R603). -/
def heldParts (n : Nat) (s : State) : Nat :=
  (s.inflight.map (fun e => (e.parts.filter (fun p => decide (p.core = n)
    && (decide (p.st = .held) || decide (p.st = .running) || decide (p.st = .ended)))).length)).sum

/-- Mark the first part of a core that is held back as held by its sequencer; in order of taking (R62). -/
def promoteOne (n : Nat) : List InFlight → Option (List InFlight)
  | [] => none
  | e :: t =>
    if e.parts.any (fun p => decide (p.core = n) && decide (p.st = .back)) && decide (e.st = .running) then
      let i := e.parts.findIdx (fun p => decide (p.core = n) && decide (p.st = .back))
      some ({ e with parts := (indexFrom 0 e.parts).map (fun x => if x.1 = i then { x.2 with st := .held } else x.2) } :: t)
    else (promoteOne n t).map (fun t' => e :: t')

/-- Fill the 128 places of a sequencer from the parts held back (R62). -/
def promote (n : Nat) : Nat → State → State
  | 0, s => s
  | fuel + 1, s =>
    if heldParts n s < 128 then
      match promoteOne n s.inflight with
      | some l => promote n fuel { s with inflight := l }
      | none => s
    else s

/-- The sequencer of a core takes what it can hold, and SEQSTAT shows it (R62, R603). -/
def fillSequencer (n : Nat) (s : State) : State :=
  if n < 32 then
    let s := promote n 128 s
    setF (CORE.SEQSTAT_HELD n) (heldParts n s) s
  else s

/-- A part destined for a core or cluster that is not OPEN completes with UNIT_CLOSED (R281). -/
def refuseClosed (p : Part) (s : State) : Part :=
  if p.core < 36 && !isOpen p.core s then { p with st := .ended, status := stUnitClosed } else p

/-- A descriptor goes on with its parts (R52): each sequencer takes what it can hold. -/
def launch (e : InFlight) (parts : List Part) (s : State) : State :=
  let parts := parts.map (fun p => refuseClosed p s)
  let s := setFlight e.id (fun x => { x with parts := parts, st := .running }) s
  forEach (List.range 32) (fun n s => if parts.any (fun p => decide (p.core = n)) then fillSequencer n s else s) s

/-- A part of a descriptor has done its work, with a status and flags (R58, R59). -/
def endPart (id p status flags replay : Nat) (s : State) : State :=
  setPart id p (fun x => { x with
    st := .ended, status := if x.status = 0 then status else x.status,
    flags := x.flags ||| flags, replay := max x.replay replay }) s

end Sys2Proof.Machine
end

