-- ==== Sys2Proof/Machine/Panes.lean ====
section
/-! DEFINITION. Memory and panes (chapters 07 and 08): the one memory, the geometry of panes, the tensor table, slots, striping,
quotas, and a pane's data and metadata. -/

namespace Sys2Proof.Machine

/-! The memory (INVENTORY, Memory and ordering): a byte lies at unit, slot and offset. An unlisted byte is zero (R314). -/

/-- What an unlisted byte reads as: zeroing writes zero (R314). -/
def memDefault : Byte := 0#8

/-- The canonical form of the memory. -/
def Memory.wf (m : List Host.Cell) : Bool := assocWf memDefault m

/-- The address of a byte: unit, slot, offset in the slot. -/
def memAddr (unit slot off : Nat) : Nat := (unit * 2 ^ 24 + slot) * 2 ^ 17 + off

/-- One byte of memory. -/
def memByte (a : Nat) (s : State) : Byte := assocGet memDefault s.mem a

/-- Bytes listed with rising addresses, zeros left out. -/
def cellsOf : Nat → List Byte → List Host.Cell
  | _, [] => []
  | a, b :: t => if b = memDefault then cellsOf (a + 1) t else (a, b) :: cellsOf (a + 1) t

/-- Store bytes at an address. -/
def memWrite (a : Nat) (bs : List Byte) (s : State) : State :=
  { s with mem := assocSplice s.mem a (a + bs.length) (cellsOf a bs) }

/-- The listed bytes of a range, by offset from its start. -/
def memCells (a n : Nat) (s : State) : List Host.Cell :=
  (s.mem.filter (fun c => decide (a ≤ c.1) && decide (c.1 < a + n))).map (fun c => (c.1 - a, c.2))

/-- Spread rising cells over `n` bytes from offset `o`. -/
def spread : List Host.Cell → Nat → Nat → List Byte
  | _, _, 0 => []
  | [], _, n + 1 => 0#8 :: spread [] 0 n
  | (k, b) :: t, o, n + 1 => if k = o then b :: spread t (o + 1) n else 0#8 :: spread ((k, b) :: t) (o + 1) n

/-- Read bytes at an address. -/
def memRead (a n : Nat) (s : State) : List Byte := spread (memCells a n s) 0 n

/-- Cells in the canonical form: those that are not are put into it. -/
def canonCells (cs : List Host.Cell) : List Host.Cell :=
  if assocWf memDefault cs then cs else cs.foldl (fun m c => assocSet memDefault m c.1 c.2) []

/-- Replace a whole range by cells given by offset. -/
def memPutCells (a n : Nat) (cs : List Host.Cell) (s : State) : State :=
  { s with mem := assocSplice s.mem a (a + n) (((canonCells cs).filter (fun c => decide (c.1 < n))).map (fun c => (c.1 + a, c.2))) }

/-- The 64-byte line of an address (R317). -/
def lineOf (a : Nat) : Nat := a / 64

/-- Some line of a range holds a poison codeword (R317). -/
def poisonedRange (a n : Nat) (s : State) : Bool :=
  s.poison.any (fun l => decide (lineOf a ≤ l) && decide (l ≤ lineOf (a + n - 1)))

/-- A line is written as a poison codeword (R317). -/
def poisonLine (l : Nat) (s : State) : State := if s.poison.contains l then s else { s with poison := l :: s.poison }

/-- The lines wholly inside a range are written anew and hold no poison. -/
def healRange (a n : Nat) (s : State) : State :=
  { s with poison := s.poison.filter (fun l => !(decide (a ≤ 64 * l) && decide (64 * l + 64 ≤ a + n))) }

/-! Units. -/

/-- A memory unit takes part in placement: its shutter is OPEN and it is ready (R41, R331). -/
def muOpen (u : Nat) (s : State) : Bool := isOpen (36 + u) s && decide (getF (MU.MUSTAT_TSTATE u) s = 4)

/-- A cartridge port at reset: empty, its supplies off. -/
def cartAuxInit : CartAux := ⟨false, 0, false, false, 0, false, [], none, 0, none, 0, false, 0, [], [], []⟩
def cartAuxOf (p : Nat) (s : State) : CartAux := assocGet cartAuxInit s.carts p
def setCart (p : Nat) (f : CartAux → CartAux) (s : State) : State := { s with carts := assocModify cartAuxInit s.carts p f }

/-- The cartridge of a port is worn (R358). -/
def cartWorn (p : Nat) (s : State) : Bool := flag (CART.CPSTAT_WORN p) s

/-- Addresses of persistent regions: each cartridge, by its serial number, keeps its own wherever it is seated (R348, R351). -/
def persistBase (serial : List Byte) : Nat := 2 ^ 50 + leNat serial * 2 ^ 46

/-- Address of a byte of the persistent region of the cartridge in a port: unit of 64 KiB, offset (R348). -/
def persistAddr (p unit off : Nat) (s : State) : Nat := persistBase (cartAuxOf p s).serial + unit * 65536 + off

/-- A cartridge port takes part in placement (R41, R368). -/
def cartOpen (p : Nat) (s : State) : Bool := isOpen (100 + p) s && decide (getF (CART.CPSTAT_CSTATE p) s = 4)

/-- Memory units by number: 0 to 15 stacks, 16 to 31 DRAM channels, 32 + 8 p + c channel c of cartridge port p. -/
def unitOpen (u : Nat) (s : State) : Bool := if u < 32 then muOpen u s else cartOpen ((u - 32) / 8) s

/-- Tier of a unit: 0 H, 1 D, 2 C. -/
def unitTier (u : Nat) : Nat := if u < 16 then 0 else if u < 32 then 1 else 2

/-- The smallest slot count among the OPEN DRAM channels (R265). -/
def dramSlots (s : State) : Nat :=
  let l := ((List.range 16).filter (fun d => muOpen (16 + d) s)).map (fun d => getF (MU.MUSLOTS_SLOTS (16 + d)) s)
  match l with
  | [] => 0
  | x :: t => t.foldl min x

/-- Spill-region slots of a channel of a port (R349): a cartridge's slots lie evenly on its eight channels (log 24). -/
def spillShare (u : Nat) (s : State) : Nat := getF (CART.CPSLOTS_SLOTS ((u - 32) / 8)) s / 8

/-- Slots of a unit that placement may use (R264, R265): of a cartridge those that the last placement took in, as far as the cartridge
still has them (R350, R366). -/
def unitSlots (u : Nat) (s : State) : Nat :=
  if u < 16 then getF (MU.MUSLOTS_SLOTS u) s
  else if u < 32 then min (getF (MU.MUSLOTS_SLOTS u) s) (dramSlots s)
  else min ((cartAuxOf ((u - 32) / 8) s).placedSlots / 8) (spillShare u s)

/-- Slot capacity of a unit (R264, R265, R349). -/
def unitCap (u : Nat) (s : State) : Nat := if u < 32 then unitSlots u s else spillShare u s

/-- Slots of a unit that panes or the window hold (R264, R615). -/
def slotTaken (u n : Nat) (s : State) : Bool :=
  s.panes.any (fun p => decide (p.2.unit = u) && decide (p.2.slot = n))
  || s.winRuns.any (fun r => decide (r.1 = u) && decide (r.2.1 ≤ n) && decide (n < r.2.1 + r.2.2))

/-- Search for a free slot from `n`; past a window run the search goes on behind it. -/
def freeSlotFrom (u cap : Nat) (s : State) : Nat → Nat → Option Nat
  | 0, _ => none
  | fuel + 1, n =>
    if cap ≤ n then none
    else match s.winRuns.find? (fun r => decide (r.1 = u) && decide (r.2.1 ≤ n) && decide (n < r.2.1 + r.2.2)) with
      | some r => freeSlotFrom u cap s fuel (r.2.1 + r.2.2)
      | none => if slotTaken u n s then freeSlotFrom u cap s fuel (n + 1) else some n

/-- The lowest-numbered free slot of a unit (R266); a worn cartridge counts as having none (R358). -/
def freeSlot (u : Nat) (s : State) : Option Nat :=
  if 32 ≤ u && cartWorn ((u - 32) / 8) s then none
  else freeSlotFrom u (unitSlots u s) s (s.panes.length + s.winRuns.length + 1) 0

/-- How many slots of a unit are taken. -/
def takenSlots (u : Nat) (s : State) : Nat :=
  (s.panes.filter (fun p => decide (p.2.unit = u))).length
  + ((s.winRuns.filter (fun r => decide (r.1 = u))).map (fun r => r.2.2)).sum

/-- Units of a tier that are OPEN. -/
def tierUnits (tier : Nat) (s : State) : List Nat :=
  match tier with
  | 0 => (List.range 16).filter (fun u => muOpen u s)
  | 1 => ((List.range 16).map (fun d => 16 + d)).filter (fun u => muOpen u s)
  | _ => ((List.range 32).map (fun d => 32 + d)).filter (fun u => unitOpen u s)

/-- Slot capacity and free slots of a tier (R264, R265, R294). -/
def tierCap (tier : Nat) (s : State) : Nat := ((tierUnits tier s).map (fun u => unitCap u s)).sum
def tierFree (tier : Nat) (s : State) : Nat :=
  ((tierUnits tier s).map (fun u => if 32 ≤ u && cartWorn ((u - 32) / 8) s then 0 else unitCap u s - takenSlots u s)).sum

/-! Tensors (R254 to R262). -/

/-- The tensor table entry of a handle. -/
def tensorOf (h : Nat) (s : State) : Option Tensor :=
  match s.image with
  | some im => im.tensors.find? (fun t => decide (t.handle = h))
  | none => none

/-- The tensor that holds the panes of a handle: a view's base (R261). -/
def rootOf (t : Tensor) (s : State) : Tensor := if t.base = 0 then t else (tensorOf t.base s).getD t

/-- Extents of a pane's box, d0 to d3 (R254). -/
def boxOf (tag baxis : Nat) : List Nat :=
  match tagFmt tag with
  | 0 => [128, 128, 1, 1]
  | 1 => [128, 64, 1, 1]
  | 2 => [256, 128, 1, 1]
  | 5 => [256, 256, 1, 1]
  | 6 => [256, 256, 1, 1]
  | _ => match baxis with
    | 0 => [128, 480, 1, 1]
    | 1 => [480, 128, 1, 1]
    | 2 => [480, 1, 128, 1]
    | _ => [480, 1, 1, 128]

/-- Panes of a tensor in each dimension (R255). -/
def gridDims (t : Tensor) : List Nat := (t.ext.zip (boxOf t.fmt t.baxis)).map (fun p => ceilDiv p.1 p.2)

def prodList (l : List Nat) : Nat := l.foldl (fun a b => a * b) 1

/-- Panes of a tensor (R255, R260). -/
def paneCount (t : Tensor) : Nat := prodList (gridDims t)

/-- Row-major index of coordinates, d3 outermost; lists run from d0 (R255). -/
def rowMajor : List Nat → List Nat → Nat
  | [], _ => 0
  | _, [] => 0
  | x :: xs, d :: ds => x + d * rowMajor xs ds

/-- Coordinates of a row-major index, d0 first. -/
def unRowMajor : List Nat → Nat → List Nat
  | [], _ => []
  | d :: ds, i => i % d :: unRowMajor ds (i / d)

/-- Offset of an element in the data area of its pane, from its coordinates in the box (R256). -/
def elemOffset (tag baxis : Nat) (y : List Nat) : Nat :=
  let box := boxOf tag baxis
  let g (i : Nat) := y.getD i 0
  if isBlockTag tag && decide (2 ≤ baxis) then g baxis * 480 + g 0
  else (((g 1 / 32) * (box.getD 0 1 / 32) + g 0 / 32) * 1024 + g 1 % 32 * 32 + g 0 % 32) * fmtBytes tag

/-- Tile of a pane that holds an element, in tile order (R256); 0 in a line box. -/
def tileOfElem (tag baxis : Nat) (y : List Nat) : Nat :=
  if isBlockTag tag && decide (2 ≤ baxis) then 0
  else (y.getD 1 0 / 32) * ((boxOf tag baxis).getD 0 1 / 32) + y.getD 0 0 / 32

/-- Box extents counted in blocks. -/
def blockDims (tag baxis : Nat) : List Nat :=
  (indexFrom 0 (boxOf tag baxis)).map (fun p => if p.1 = baxis then p.2 / blockSize tag else p.2)

/-- Offset of the scale byte of an element's block (R256). -/
def scaleOffset (tag baxis : Nat) (y : List Nat) : Nat :=
  0xF000 + rowMajor ((indexFrom 0 y).map (fun p => if p.1 = baxis then p.2 / blockSize tag else p.2)) (blockDims tag baxis)

/-- Where an element lies: pane index, coordinates in the box. -/
def locate (root : Tensor) (x : List Nat) : Nat × List Nat :=
  let box := boxOf root.fmt root.baxis
  (rowMajor ((x.zip box).map (fun p => p.1 / p.2)) (gridDims root), (x.zip box).map (fun p => p.1 % p.2))

/-- Coordinates in the base tensor of an element of a handle (R261). -/
def baseCoords (t : Tensor) (x : List Nat) : List Nat := (x.zip t.org).map (fun p => p.1 + p.2)

/-- Pane coordinates of a pane index. -/
def paneCoords (root : Tensor) (i : Nat) : List Nat := unRowMajor (gridDims root) i

/-- An edge pane reaches beyond the tensor (R255). -/
def isEdge (root : Tensor) (i : Nat) : Bool :=
  ((paneCoords root i).zip ((boxOf root.fmt root.baxis).zip root.ext)).any (fun p => decide (p.2.2 < (p.1 + 1) * p.2.1))

/-- Bytes in the scale strip of a pane (R257). -/
def scCount (tag : Nat) : Nat := if isBlockTag tag then 61440 / blockSize tag else 0

/-! Locality (R279, R280). -/

/-- Stage of a layer (R278), from the placement's record. -/
def stageOf (layer : Nat) (s : State) : Nat := assocGet 0 s.stages layer

/-- A tensor is local (R279). -/
def isLocal (t : Tensor) (s : State) : Bool :=
  decide (t.layer = 0xFFFF) || decide (stageOf t.layer s = getF TIER.RPNODE_STAGE s)

/-- A pane of a tensor is local (R279, R280). -/
def localPane (t : Tensor) (i : Nat) (s : State) : Bool :=
  isLocal t s && (!(decide (t.role = 3) || decide (t.role = 4)) ||
    decide (i % (max 1 (getF TIER.RPDEG_REPLICA s)) = getF TIER.RPNODE_REPLICA s))

/-- The local panes of a tensor (R280). -/
def localPanes (t : Tensor) (s : State) : List Nat := (List.range (paneCount t)).filter (fun i => localPane t i s)

/-! Slots, striping and quotas (R264 to R269). -/

/-- Key of a pane. -/
def paneKey (h i : Nat) : Nat := h * 2 ^ 28 + i

/-- A pane that is not allocated. -/
def noLoc : PaneLoc := ⟨3, 0, 0⟩

def paneLoc (h i : Nat) (s : State) : Option PaneLoc :=
  let l := assocGet noLoc s.panes (paneKey h i)
  if l = noLoc then none else some l

/-- The stripe set of a tier for an owning casement (R266). -/
def stripeSet (tier owner : Nat) (s : State) : List Nat :=
  match tier with
  | 0 =>
    let cl := (coresOf owner s).map (fun n => n / 8)
    s.placed.hbm.filter (fun u => cl.contains (u / 4))
  | 1 => s.placed.chans
  | _ => (List.range 8).flatMap (fun c => s.placed.carts.map (fun p => 32 + 8 * p + c))

/-- The units where R266 may place a pane, in order. -/
def placeOrder (tier : Nat) (t : Tensor) (i : Nat) (s : State) : List Nat :=
  let set := stripeSet tier t.owner s
  let n := set.length
  let start := if n = 0 then 0 else (i + t.handle % n) % n
  (set.drop start ++ set.take start)
  ++ (if tier = 0 then (List.range 16).filter (fun u => !set.contains u) else [])

/-- The slot of a pane in a tier (R266): the lowest free slot of the first OPEN unit that has one. -/
def chooseSlot (tier : Nat) (t : Tensor) (i : Nat) (s : State) : Option PaneLoc :=
  ((placeOrder tier t i s).filter (fun u => unitOpen u s)).findSome? (fun u => (freeSlot u s).map (fun n => ⟨tier, u, n⟩))

/-- The quota of an account in a tier; none when it has no limit of its own (R529). -/
def quotaOf (c tier : Nat) (s : State) : Option Nat :=
  match s.image with
  | none => none
  | some im =>
    match im.quotas.find? (fun q => decide (q.1 = c)) with
    | some q => some (q.2.getD tier 0)
    | none => match im.casements[c]? with
      | some k => if k.parent.isNone then some 0 else none
      | none => none

def usedKey (c tier : Nat) : Nat := c * 4 + tier
def usedOf (c tier : Nat) (s : State) : Nat := assocGet 0 s.used (usedKey c tier)

/-- The first account, from the owner upwards, that cannot take `n` more panes (R269). -/
def failingAccount (owner tier n : Nat) (s : State) : Option Nat :=
  (chainOf owner s).find? (fun c => match quotaOf c tier s with
    | some q => decide (q < usedOf c tier s + n)
    | none => false)

/-- Charge `n` panes to every account of the chain (R64), or remove a charge. -/
def charge (owner tier n : Nat) (s : State) : State :=
  forEach (chainOf owner s) (fun c s => { s with used := assocSet 0 s.used (usedKey c tier) (usedOf c tier s + n) }) s
def uncharge (owner tier n : Nat) (s : State) : State :=
  forEach (chainOf owner s) (fun c s => { s with used := assocSet 0 s.used (usedKey c tier) (usedOf c tier s - n) }) s

/-- TIER.QLAST records a charge failure (R269, R297). -/
def recordQlast (full : Bool) (tier c : Nat) (s : State) : State :=
  setF TIER.QLAST_VALID 1 (setF TIER.QLAST_FULL (b2n full) (setF TIER.QLAST_TIER tier (setF TIER.QLAST_CASE c s)))

/-- Record where a pane lies. -/
def setLoc (h i : Nat) (l : PaneLoc) (s : State) : State := { s with panes := assocSet noLoc s.panes (paneKey h i) l }

/-- The slot that a slot's HANDLE field marks as free (R263): its first four metadata bytes are zero. -/
def freeSlotBytes (l : PaneLoc) (s : State) : State := memWrite (memAddr l.unit l.slot 65536) (leBytes 4 0) s

/-- A pane returns to free slots and its charge is removed (R268, R287). -/
def releasePane (t : Tensor) (i : Nat) (s : State) : State :=
  match paneLoc t.handle i s with
  | none => s
  | some l => uncharge t.owner l.tier 1 (freeSlotBytes l { s with panes := assocSet noLoc s.panes (paneKey t.handle i) noLoc })

/-- Place and charge one pane in a tier; a fresh slot holds no pane data (R263, R266, R268). -/
def allocPane (tier : Nat) (t : Tensor) (i : Nat) (s : State) : State :=
  match chooseSlot tier t i s with
  | none => s
  | some l => charge t.owner tier 1 (freeSlotBytes l (setLoc t.handle i l s))

/-- The home tier of a tensor (R276). -/
def homeOf (t : Tensor) (s : State) : Option Nat :=
  let h := assocGet 0 s.homes t.handle
  if h = 0 then none else some (h - 1)

/-- A tier that PIN and ROLE allow (R260, R270, R276). -/
def tierAllowed (t : Tensor) (tier : Nat) : Bool :=
  (match t.pin with
  | 1 => decide (tier = 0)
  | 2 => decide (tier = 1)
  | 3 => decide (tier = 2)
  | 4 => decide (tier < 2)
  | _ => true) && !(decide (tier = 2) && decide (t.role = 5))

def firstAllowed (t : Tensor) : Nat := ((List.range 3).find? (tierAllowed t)).getD 0

/-- Allocate a list of panes in a tier, or record and report the failure, leaving the state as it was (R269). -/
def allocAll (tier : Nat) (t : Tensor) (is : List Nat) (s : State) : Option State × State × Nat :=
  match failingAccount t.owner tier is.length s with
  | some c => (none, recordQlast false tier c s, stQuotaExceeded)
  | none =>
    let s' := forEach is (fun i s => allocPane tier t i s) s
    if is.all (fun i => (paneLoc t.handle i s').isSome) then (some s', s, 0)
    else (none, recordQlast true tier t.owner s, stTierFull)

/-- Panes of a tensor that a box of it covers, given by first and last coordinates (R255). -/
def panesOfBox (root : Tensor) (lo hi : List Nat) : List Nat :=
  let box := boxOf root.fmt root.baxis
  let rng (i : Nat) : List Nat :=
    let b := box.getD i 1
    let a := lo.getD i 0 / b
    (List.range (hi.getD i 0 / b + 1 - a)).map (fun k => a + k)
  (rng 3).flatMap (fun c3 => (rng 2).flatMap (fun c2 => (rng 1).flatMap (fun c1 => (rng 0).map (fun c0 =>
    rowMajor [c0, c1, c2, c3] (gridDims root)))))

/-- Panes of a handle: those its box covers in the base (R261). -/
def panesOfHandle (t root : Tensor) : List Nat :=
  panesOfBox root t.org ((t.org.zip t.ext).map (fun p => p.1 + p.2 - 1))

/-- Allocate the panes that a descriptor will write and that are not allocated (R268, R269, R276, R287; the CASE of QLAST for a tensor
without a home is the owning casement, DESIGN CHOICE, log 268): the state with them, or
the state with QLAST set and the status. -/
def allocForWrite (t : Tensor) (s : State) : State × Nat :=
  let root := rootOf t s
  match homeOf root s with
  | none => (recordQlast false (firstAllowed root) root.owner s, stQuotaExceeded)
  | some tier =>
    let is := (panesOfHandle t root).filter (fun i => localPane root i s && (paneLoc root.handle i s).isNone)
    match allocAll tier root is s with
    | (some s', _, _) => (s', 0)
    | (none, s', st) => (s', st)

/-- Allocate the panes that a descriptor will write of every tensor of a list, or of none (R64, R269). -/
def chargeAll (l : List Tensor) (s : State) : State × Nat :=
  let r := l.foldl (fun a t => if a.2 = 0 then allocForWrite t a.1 else a) (s, 0)
  if r.2 = 0 then r
  else
    let q := r.1
    (setF TIER.QLAST_VALID (getF TIER.QLAST_VALID q) (setF TIER.QLAST_FULL (getF TIER.QLAST_FULL q)
      (setF TIER.QLAST_TIER (getF TIER.QLAST_TIER q) (setF TIER.QLAST_CASE (getF TIER.QLAST_CASE q) s))), r.2)

/-! A pane's bytes (R256, R257, R263). -/

/-- Base address of a pane's slot. -/
def locAddr (l : PaneLoc) : Nat := memAddr l.unit l.slot 0

/-- The slot holds no pane data (R263). -/
def unwritten (l : PaneLoc) (s : State) : Bool := decide (leNat (memRead (locAddr l + 65536) 4 s) = 0)

/-- The bytes of a slot, by offset. -/
def slotCells (l : PaneLoc) (s : State) : List Host.Cell := memCells (locAddr l) 66560 s

/-- CRC-32C of a slot's cells over the data area and metadata 0x000 to 0x3FB (R257). -/
def slotCrc (cs : List Host.Cell) : Nat := crcCells poly32c 32 66556 cs 0 0xFFFFFFFF ^^^ 0xFFFFFFFF

/-- The element +0 of a format (R263). -/
def zeroElem (tag : Nat) : Byte := if tagFmt tag = 4 then 0x40#8 else 0#8

/-- The data area of the zero pane: positions inside the tensor hold +0, those outside zero (R255, R263). -/
def zeroData (root : Tensor) (i : Nat) : List Host.Cell :=
  if tagFmt root.fmt = 4 then
    let box := boxOf root.fmt root.baxis
    let c := paneCoords root i
    let inside (y : List Nat) : Bool := ((c.zip box).zip (y.zip root.ext)).all (fun p => decide (p.1.1 * p.1.2 + p.2.1 < p.2.2))
    let tiled := decide (root.baxis < 2)
    (List.range 61440).filterMap (fun o =>
      let y := if tiled then
          let tile := o / 1024
          let across := box.getD 0 1 / 32
          [tile % across * 32 + o % 32, tile / across * 32 + o / 32 % 32, 0, 0]
        else if root.baxis = 2 then [o % 480, 0, o / 480, 0] else [o % 480, 0, 0, o / 480]
      if inside y then some (o, 0x40#8) else none)
  else []

/-- Smallest scale byte other than 0xFF and the largest, over a strip (R257). -/
def scRange (tag : Nat) (cs : List Host.Cell) : Nat × Nat :=
  if isBlockTag tag then
    let strip := (spread (cs.filter (fun c => decide (0xF000 ≤ c.1) && decide (c.1 < 0xF000 + scCount tag))) 0xF000 (scCount tag)).map
      (fun b => b.toNat)
    (strip.foldl (fun a b => if b = 255 then a else min a b) 255, strip.foldl max 0)
  else (0, 0)

/-- The cells of a slot that holds a pane (R257, R258): data, metadata and CRC. -/
def paneCells (root : Tensor) (i : Nat) (data : List Host.Cell) (poison : Bool) (tadj : List (Nat × Nat)) (step : Nat) :
    List Host.Cell :=
  let data := data.filter (fun c => decide (c.1 < 65536) && decide (c.2 ≠ 0#8))
  let (mn, mx) := scRange root.fmt data
  let adj := (List.range 64).map (fun k => match tadj.find? (fun p => decide (p.1 = k)) with
    | some p => p.2 % 65536
    | none => 0)
  let flags := b2n poison + 2 * b2n (adj.any (fun a => decide (a ≠ 0))) + 4 * b2n (isEdge root i)
  let md := leBytes 4 root.handle ++ leBytes 1 root.fmt ++ leBytes 1 (if isBlockTag root.fmt then root.baxis else 0)
    ++ leBytes 1 flags ++ leBytes 1 0 ++ ((paneCoords root i).flatMap (fun c => leBytes 4 c)) ++ leBytes 4 i
    ++ leBytes 2 (scCount root.fmt) ++ leBytes 1 mn ++ leBytes 1 mx ++ (adj.flatMap (fun a => leBytes 2 a)) ++ leBytes 8 step
  let cells := data ++ cellsOf 65536 md
  cells ++ cellsOf (65536 + 0x3FC) (leBytes 4 (slotCrc cells))

/-- Write a pane whole (R257, R258): data cells, poison, tile adjustments and step tag; its metadata and CRC follow. -/
def writePane (root : Tensor) (i : Nat) (l : PaneLoc) (data : List Host.Cell) (poison : Bool) (tadj : List (Nat × Nat))
    (step : Nat) (s : State) : State :=
  healRange (locAddr l) 66560 (memPutCells (locAddr l) 66560 (paneCells root i data poison tadj step) s)

/-- Read a slot: the zero pane where it holds no pane data (R263). -/
def readSlot (root : Tensor) (i : Nat) (l : PaneLoc) (s : State) : PaneData :=
  if unwritten l s then ⟨zeroData root i, false, [], 0, true⟩
  else
    let cs := slotCells l s
    let b (o n : Nat) : Nat := leNat (spread (cs.filter (fun c => decide (65536 + o ≤ c.1) && decide (c.1 < 65536 + o + n))) (65536 + o) n)
    let adj := (indexFrom 0 ((List.range 64).map (fun k => b (0x20 + 2 * k) 2))).filter (fun p => decide (p.2 ≠ 0))
    ⟨cs.filter (fun c => decide (c.1 < 65536)), bitOf (b 6 1) 0, adj, b 0xA0 8, false⟩

/-- The CRC of a slot matches (R282). -/
def crcHolds (l : PaneLoc) (s : State) : Bool :=
  decide (slotCrc (slotCells l s) = leNat (memRead (locAddr l + 65536 + 0x3FC) 4 s))

/-! The wear of a cartridge (R357, R358): every write of a pane to a port programs a slot. -/

/-- An error record of a cartridge port (R663: class storage, unit the port). -/
def portRecord (sev p : Nat) (detail : List Nat) (s : State) : State := errRecord clsStorage sev 98 0 p detail s

/-- The remaining life in permille (R358). -/
def lifeOf (rated committed : Nat) : Nat := 1000 * (rated - committed) / rated

/-- The committed volume of a port is `v` (R357, R358). -/
def setCommitted (p v : Nat) (s : State) : State :=
  let rated := getF (CART.CPRATED_RATED p) s
  let life := lifeOf rated v
  let s := setF (CART.CPLIFE_PERMILLE p) life (setF (CART.CPWEAR_COMMITTED p) v s)
  let s := if !(cartAuxOf p s).low && decide (life ≤ getF (CART.CPCTL_LOWTHR p) s) then
      portRecord 0 p [life] (setF (CART.CPSTAT_LOWLIFE p) 1 (setCart p (fun a => { a with low := true }) s))
    else s
  if rated ≤ v then setF (CART.CPSTAT_WORN p) 1 (setCart p (fun a => { a with protect := true }) s) else s

/-- The device writes the wear counter over I3C (R344, R357). -/
def writeCounter (p v : Nat) (s : State) : State := emit (.i3cWrite p 0x0100 (leBytes 8 v)) s

/-- `n` bytes are programmed. -/
def programBytes (p n : Nat) (s : State) : State := setCart p (fun a => { a with written := a.written + n }) (peep 9 p 2 n s)

/-- Programs of a descriptor that is carried out whole: the counter is written and acknowledged as often as they need, within the step
(R357, log 72); nothing is programmed once the cartridge is worn (R358). -/
def programWhole (p n : Nat) (s : State) : State :=
  let need := ceilDiv ((cartAuxOf p s).written + n) (10 ^ 9)
  let c := getF (CART.CPWEAR_COMMITTED p) s
  let v := c + 64 * ceilDiv (need - c) 64
  let s := if c < need then setCommitted p v (writeCounter p v s) else s
  if cartWorn p s then s else programBytes p n s

/-- A slot is about to be written: a cartridge programs it, unless it is worn (R358): the state, and whether the write goes on. -/
def programSlot (l : PaneLoc) (n : Nat) (s : State) : State × Bool :=
  if l.unit < 32 then (s, true)
  else
    let p := (l.unit - 32) / 8
    let s := if cartWorn p s then s else programWhole p n s
    (s, !cartWorn p s)

/-! The sweep journal (R436, R437). -/

/-- A valid group is copied to its slots, with its record, and cleared. -/
def copyGroup (g : JournalGroup) (s : State) : State :=
  let s := forEach g.panes (fun p s => healRange (locAddr p.loc) 66560 (memPutCells (locAddr p.loc) 66560 p.cells s)) s
  match g.record with
  | some (k, r) => { s with sweepRecs := assocSet ⟨0, 0, 0, 0, 0, false, false⟩ s.sweepRecs k r }
  | none => s

/-- Every valid group of engine `c` is copied and cleared (R436); one with a slot in a unit that is not OPEN, which cannot be written
(R281), stays valid. DESIGN CHOICE: that it stays (log 263). -/
def replayGroups (c : Nat) (s : State) : State :=
  let now (g : JournalGroup) : Bool := decide (g.eng = c) && g.panes.all (fun p => unitOpen p.loc.unit s)
  forEach (s.journal.filter now) copyGroup { s with journal := s.journal.filter (fun g => !now g) }

/-! Reading. -/

/-- Mark a stored pane as poisoned: its POISON bit and CRC are written, and no codeword of its data (R282, R317). -/
def markPoison (root : Tensor) (i : Nat) (l : PaneLoc) (s : State) : State :=
  let p := readSlot root i l s
  match programSlot l 4096 s with
  | (s, true) => memPutCells (locAddr l) 66560 (paneCells root i p.data true p.tadj p.step) s
  | (s, false) => s

/-- The record of a CRC mismatch (R282). -/
def crcRecord (root : Tensor) (i : Nat) (l : PaneLoc) (s : State) : State :=
  errRecord clsMemory 1 (if l.unit < 32 then muRegion l.unit else 98) 0 l.unit [l.tier, l.unit, root.handle, i] s

/-- A slot of an OPEN unit is read and checked (R263, R282, R317): a CRC mismatch poisons the pane with a record, a poison codeword
poisons it without a further one. -/
def checkedRead (root : Tensor) (i : Nat) (l : PaneLoc) (s : State) : PaneData × State :=
  let p := readSlot root i l s
  if unwritten l s then (p, s)
  else if !crcHolds l s then ({ p with poison := true }, crcRecord root i l (markPoison root i l s))
  else if poisonedRange (locAddr l) 66560 s && !p.poison then ({ p with poison := true }, markPoison root i l s)
  else (p, s)

/-- A mover reads a pane (R263, R281, R282): an unallocated pane reads as the zero pane; one in a unit that is not OPEN reads as
poisoned. -/
def moverRead (root : Tensor) (i : Nat) (s : State) : PaneData × State :=
  match paneLoc root.handle i s with
  | none => (⟨zeroData root i, false, [], 0, true⟩, s)
  | some l => if unitOpen l.unit s then checkedRead root i l s else (⟨[], true, [], 0, false⟩, s)

/-- Insert a span by its offset. -/
def insertSpan (x : Nat × Nat) : List (Nat × Nat) → List (Nat × Nat)
  | [] => [x]
  | y :: t => if x.1 ≤ y.1 then x :: y :: t else y :: insertSpan x t

/-- Bytes that a rising list of spans covers from `pos` on. -/
def spanBytes : List (Nat × Nat) → Nat → Nat
  | [], _ => 0
  | (o, n) :: t, pos => (o + n - max o pos) + spanBytes t (max pos (o + n))

/-- Distinct bytes that a list of spans covers. -/
def coveredBytes (l : List (Nat × Nat)) : Nat := spanBytes (l.foldr insertSpan []) 0

/-- The spans cover every byte of the 64 at an offset. -/
def coversLine (spans : List (Nat × Nat)) (o : Nat) : Bool :=
  decide (coveredBytes ((spans.filter (fun p => decide (p.1 < o + 64) && decide (o < p.1 + p.2))).map (fun p =>
    (max p.1 o, min (p.1 + p.2) (o + 64) - max p.1 o))) = 64)

/-- The codewords that written spans of a slot cover whole hold no poison any longer (R317). -/
def healSpans (a : Nat) (spans : List (Nat × Nat)) (s : State) : State :=
  { s with poison := s.poison.filter (fun l =>
      !(decide (a ≤ 64 * l) && decide (64 * l < a + 65536) && coversLine spans (64 * l - a))) }

/-- Replace spans of a pane's data by written bytes: `spans` says which offsets are written, `dirty` their non-zero bytes. -/
def overlay (data : List Host.Cell) (spans : List (Nat × Nat)) (dirty : List Host.Cell) : List Host.Cell :=
  spans.foldl (fun d p =>
    assocSplice d p.1 (p.1 + p.2) (dirty.filter (fun c => decide (p.1 ≤ c.1) && decide (c.1 < p.1 + p.2)))) data

end Sys2Proof.Machine
end

