-- ==== Sys2Proof/Machine/Timing.lean ====
section
/-! DEFINITION. Timing regions and hinges (chapter 02): the LIC, calibration, supplies, the region monitor and hinge transfers.
The commands that reset a region stand in Reset.lean, and the end of a calibration in Boot.lean. -/

namespace Sys2Proof.Machine

/-- Peephole events counted in LIC counts of a region (R705): `d` counts have passed. -/
def peepLic (n d : Nat) (s : State) : State :=
  if d = 0 || !flag PEEP.CTRL_CNTEN s then s
  else
    let s := if getF (REG.LOUVRE_LVAL n) s < 16 then peep 13 n 1 d s else s
    let s := if flag (REG.MONSTAT_STALL n) s then peep 13 n 2 d s else s
    let s :=
      if n < 64 && n % 2 = 0 then
        let s := if flag (CORE.MXSTAT_OPWAIT (n / 2)) s then peep 0 (n / 2) 4 d s else s
        if flag (CORE.MXSTAT_TRWAIT (n / 2)) s then peep 0 (n / 2) 5 d s else s
      else if n < 64 then
        let s := if flag (CORE.VXSTAT_TRWAIT (n / 2)) s || flag (CORE.VXSTAT_SEAMWAIT (n / 2)) s then peep 1 (n / 2) 5 d s else s
        if getF (CORE.SEQSTAT_HELD (n / 2)) s = 128 then peep 2 (n / 2) 3 d s else s
      else s
    let s := forEach ((List.range 32).filter (fun u => decide (muRegion u = n)))
      (fun u s => if getF (MU.MUTEMP_LVAL u) s < 16 then peep 5 u 4 d s else s) s
    forEach ((List.range 756).filter (fun i => (arbKind i).isSome && decide (arbRegion i = n)))
      (fun i s => if flag (ARB.STAT_OWNED i) s then peep 12 i 3 d s else s) s

/-- `cycles` oscillator cycles of region `n` (R75, R76, R77): a calibration counts them, and a running LIC adds its step at each. -/
def ticks (n cycles : Nat) (s : State) : State :=
  let r := regionOf n s
  let cal := r.cal.map (fun c => ⟨c.since + cycles, c.window.map (fun w => w + cycles)⟩)
  if r.running then
    let acc := licOf n s * 2 ^ 16 + r.frac + cycles * getF (REG.LICSTEP_STEP n) s
    let old := licOf n s
    let s := setRegion n (fun r => { r with cal := cal, frac := acc % 2 ^ 16 }) s
    peepLic n (acc / 2 ^ 16 - old) (setF (REG.LIC_COUNT n) (acc / 2 ^ 16) s)
  else setRegion n (fun r => { r with cal := cal }) s

/-- BOOTZERO shows what is left to zero (R671). -/
def showBootZero (s : State) : State :=
  setF GLB.BOOTZERO_MIB (((List.range 32).map (fun u => getF (MU.MUZERO_REMAIN u) s)).sum) s

/-- Zeroing goes on with time (R310 step 5, R314): what MUZERO[REMAIN] has come down to is a free value, no larger than before (log 249). -/
def zeroingGoesOn (n : Nat) (s : State) : State :=
  forEach ((List.range 32).filter (fun u => decide (muRegion u = n) && decide (getF (MU.MUSTAT_TSTATE u) s = 3))) (fun u s =>
    let (v, s) := drawFree s
    showBootZero (setF (MU.MUZERO_REMAIN u) (min v (getF (MU.MUZERO_REMAIN u) s)) s)) s

/-- LIC_TICK (R75, R310). -/
def execLicTick (n : RegionNo) (cycles : Nat) (s : State) : Host.Outcome State Fault Refusal :=
  .next (zeroingGoesOn n (ticks n cycles s))

/-- A calibration starts: the cycles of the next whole window are counted (R76). -/
def startCal (n : Nat) (s : State) : State :=
  setF (REG.LICCTL_CALBUSY n) 1 (setRegion n (fun r => { r with cal := some ⟨0, none⟩ }) s)

/-- LICCTL_CAL (R77, R96): no effect while a calibration is under way. -/
def execLicctlCal (n : RegionNo) (s : State) : Host.Outcome State Fault Refusal :=
  .next (hostWrite .early (fun s =>
    if flag (REG.LICCTL_CALBUSY n) s then s else setF (REG.LICCTL_CAL n) 1 (startCal n s)) s)

/-- The step that a count of cycles in a window gives (R76). -/
def calStep (count : Nat) : Option Nat :=
  if count = 0 then none
  else
    let step := (2 * (10485760 * 65536) + count) / (2 * count)
    if step < 0x8000 || 0x20000 < step then none else some step

/-- A calibration of region `n` ends, with a step or with CALFAIL (R76, R77). DESIGN CHOICE (log 240): one that succeeds leaves a
CALFAIL that stands, which R96 types W1C, for the host to clear. -/
def endCal (n : Nat) (result : Option (Nat × Nat)) (s : State) : State :=
  let s := setF (REG.LICCTL_CALBUSY n) 0 (setF (REG.LICCTL_CAL n) 0 (setRegion n (fun r => { r with cal := none }) s))
  match result with
  | some (step, count) => setF (REG.LICCOUNT_COUNT n) count (setF (REG.LICSTEP_STEP n) step s)
  | none => setF (REG.LICCTL_CALFAIL n) 1 s

/-- Steps 5 and 6 of R651 end: RESET reads 0, the hinges are released and the LIC counts from zero (R75, R104). -/
def releaseRegion (n : Nat) (s : State) : State :=
  if (regionOf n s).inReset then
    setF (REG.RSTCTL_RESET n) 0 (setF (REG.LIC_COUNT n) 0
      (setRegion n (fun r => { r with frac := 0, running := true, inReset := false, vstamp := 0 }) s))
  else s

/-- A region is given a supply code (R73, R74): an idle regulator starts towards it now. -/
def setVset (n vcode : Nat) (s : State) : State :=
  let idle := (regionOf n s).vout = 600 + 5 * getF (REG.VSET_VCODE n) s
  let s := setF (REG.VSET_VCODE n) vcode s
  if idle then setRegion n (fun r => { r with vstamp := licOf n s }) s else s

/-- VSET_WRITE (R72, R73, R98): the target is replaced and the slew goes on from the present output. -/
def execVsetWrite (n : RegionNo) (vcode : Nat) (s : State) : Host.Outcome State Fault Refusal :=
  .next (hostWrite .early (fun s =>
    if 10 ≤ vcode ∧ vcode ≤ 60 then setVset n vcode s
    else regAccessError (0x03000000 + n * 0x1000 + 0x20) s) s)

/-- REGULATOR_STEP (R73): after 512 LIC counts the output moves 5 mV toward the target. -/
def execRegulatorStep (n : RegionNo) (s : State) : Host.Outcome State Fault Refusal :=
  let r := regionOf n s
  let target := 600 + 5 * getF (REG.VSET_VCODE n) s
  .next (if r.vout = target || licSince n r.vstamp s < 512 then s
    else setRegion n (fun r => { r with
      vout := if r.vout < target then r.vout + 5 else r.vout - 5, vstamp := licOf n s }) s)

/-- Temperature of a region in quarters of a degree (R99). -/
def tmeas (n : Nat) (s : State) : Int := ofTwos 16 (getF (REG.TMEAS_TQ n) s)

/-- The faster side of a pair first (R83): the higher SPEED, the lower number when equal. -/
def fasterFirst (a b : Nat) (s : State) : Nat × Nat :=
  let (lo, hi) := (min a b, max a b)
  if getF (REG.SPEED_HANDSHAKES lo) s < getF (REG.SPEED_HANDSHAKES hi) s then (hi, lo) else (lo, hi)

/-- Supply difference of a pair in mV and temperature difference in quarters of a degree. -/
def pairDv (a b : Nat) (s : State) : Nat := ((getF (REG.VMEAS_MV a) s : Int) - getF (REG.VMEAS_MV b) s).natAbs
def pairDt (a b : Nat) (s : State) : Nat := (tmeas a s - tmeas b s).natAbs

/-- An error record of the region monitor for a pair (R84). -/
def pairRecord (a b event reset : Nat) (s : State) : State :=
  let (f, l) := fasterFirst a b s
  let sf := getF (REG.SPEED_HANDSHAKES f) s
  let sl := getF (REG.SPEED_HANDSHAKES l) s
  errRecord clsRegion (if event = 6 then 1 else 0) f 0 noUnit
    [f + 256 * l + 65536 * reset, event, toTwos 64 ((getF (REG.VMEAS_MV f) s : Int) - getF (REG.VMEAS_MV l) s),
     toTwos 64 (tmeas f s - tmeas l s), if sl = 0 then 2 ^ 64 - 1 else sf * 256 / sl] s

/-- LVAL of a region: the lowest requirement of its pairs, 16 without one (R84, R85). -/
def louvreNeed (n : Nat) (s : State) : Nat :=
  (neighbourList n).foldl (fun acc m =>
    match (hingeOf n m s).need with
    | some (f, l) => if f = n then min acc l else acc
    | none => acc) 16

/-- LVAL follows the requirements; a change is traced (R85, R708). -/
def recomputeLouvre (n nbr : Nat) (s : State) : State :=
  let v := louvreNeed n s
  if getF (REG.LOUVRE_LVAL n) s = v then s else trace 4 0 n v nbr (setF (REG.LOUVRE_LVAL n) v s)

/-- Whether a hinge of the region is stalled (R101). -/
def anyStall (n : Nat) (s : State) : Bool := (neighbourList n).any (fun m => (hingeOf n m s).stalled.isSome)

/-- MONSTAT[STALL] of a pair follows its hinges (R101). -/
def recomputeStall (a b : Nat) (s : State) : State :=
  setF (REG.MONSTAT_STALL b) (b2n (anyStall b s)) (setF (REG.MONSTAT_STALL a) (b2n (anyStall a s)) s)

/-- A stall of the hinge between a pair ends (R87, R88). -/
def endStall (a b : Nat) (s : State) : State :=
  if (hingeOf a b s).stalled.isSome then
    trace 4 2 (fasterFirst a b s).1 0 (fasterFirst a b s).2
      (recomputeStall a b (setHinge a b (fun h => { h with stalled := none }) s))
  else s

/-- The soft limits of R82 that a pair exceeds: bit 0 supply, 1 temperature, 2 ratio. -/
def softExceeded (a b : Nat) (s : State) : Nat :=
  let (f, l) := fasterFirst a b s
  b2n (150 < pairDv a b s) + 2 * b2n (160 < pairDt a b s)
  + 4 * b2n (4 * getF (REG.SPEED_HANDSHAKES l) s < getF (REG.SPEED_HANDSHAKES f) s)

/-- The hard limits of R87 that a pair exceeds, in the same bits. -/
def hardExceeded (a b : Nat) (s : State) : Nat :=
  let (f, l) := fasterFirst a b s
  b2n (200 < pairDv a b s) + 2 * b2n (220 < pairDt a b s)
  + 4 * b2n (6 * getF (REG.SPEED_HANDSHAKES l) s < getF (REG.SPEED_HANDSHAKES f) s)

/-- The release limits of R86. -/
def withinRelease (a b : Nat) (s : State) : Bool :=
  let (f, l) := fasterFirst a b s
  decide (pairDv a b s ≤ 130) && decide (pairDt a b s ≤ 140)
  && decide (2 * getF (REG.SPEED_HANDSHAKES f) s ≤ 7 * getF (REG.SPEED_HANDSHAKES l) s)

/-- The louvre requirement of a pair that exceeds the soft limits `soft` (R84). -/
def louvreOf (soft a b : Nat) (s : State) : Nat :=
  let (f, l) := fasterFirst a b s
  let v := if soft % 4 ≠ 0 then 8 else 16
  if bitOf soft 2 then min v (max 1 (32 * getF (REG.SPEED_HANDSHAKES l) s / getF (REG.SPEED_HANDSHAKES f) s)) else v

/-- Set MONSTAT bits and NSLOT of both sides (R84). -/
def monBits (a b soft : Nat) (s : State) : State :=
  let one (x y : Nat) (s : State) : State :=
    let s := if bitOf soft 0 then setF (REG.MONSTAT_VDIFF x) 1 s else s
    let s := if bitOf soft 1 then setF (REG.MONSTAT_TDIFF x) 1 s else s
    let s := if bitOf soft 2 then setF (REG.MONSTAT_RATIO x) 1 s else s
    setF (REG.MONSTAT_NSLOT x) (slotOfNeighbour x y) s
  one b a (one a b s)

/-- The monitor's actions for limits newly exceeded (R84): bits, slots and one record for each limit. -/
def softActions (a b new : Nat) (s : State) : State :=
  if new = 0 then s
  else forEach [0, 1, 2] (fun k s => if bitOf new k then pairRecord a b k 0 s else s) (monBits a b new s)

/-- The stall of a hinge past a hard limit (R87). DESIGN CHOICE (log 241): R87 lists no NSLOT, so a hard limit leaves the slot that
the latest newly exceeded soft limit wrote. -/
def hardActions (a b hard : Nat) (s : State) : State :=
  if hard = 0 || (hingeOf a b s).stalled.isSome then s
  else
    let (f, l) := fasterFirst a b s
    let s := setHinge a b (fun h => { h with stalled := some (f, licOf f s) }) s
    let s := setF (REG.MONSTAT_HARD a) 1 (setF (REG.MONSTAT_HARD b) 1 (recomputeStall a b s))
    let s := trace 4 1 f (getF (REG.LOUVRE_LVAL f) s) l s
    forEach [0, 1, 2] (fun k s => if bitOf hard k then pairRecord a b (3 + k) 0 s else s) s

/-- The monitor checks one pair (R82 to R87). -/
def checkPair (a b : Nat) (s : State) : State :=
  let ra := regionOf a s
  let rb := regionOf b s
  if !ra.measured || !rb.measured || ra.down || rb.down then s
  else
    let soft := softExceeded a b s
    let hard := hardExceeded a b s
    let h := hingeOf a b s
    let f := (fasterFirst a b s).1
    let s := softActions a b (soft &&& (7 - h.exceed % 8)) s
    let need := if soft = 0 then h.need
      else match h.need with
        | some (f', l') => some (f, if f' = f then min l' (louvreOf soft a b s) else louvreOf soft a b s)
        | none => some (f, louvreOf soft a b s)
    let calm := match need with
      | some (f', _) => if withinRelease a b s then some (h.calmSince.getD (licOf f' s)) else none
      | none => none
    let s := setHinge a b (fun h => { h with exceed := soft, need := need, calmSince := calm }) s
    let s := recomputeLouvre a b (recomputeLouvre b a s)
    if hard ≠ 0 then hardActions a b hard s
    else if soft = 0 then endStall a b s
    else s

/-- MONITOR_MEASURE (R83 to R87, R666): the measurements of region `n`, and its pairs. -/
def execMonitorMeasure (n : RegionNo) (mv : Nat) (tq : Int) (rate speed : Nat) (s : State) :
    Host.Outcome State Fault Refusal :=
  if inHold s then .next s else
  let s := setF (REG.VMEAS_MV n) mv (setF (REG.TMEAS_TQ n) (toTwos 16 tq)
    (setF (REG.RATE_EVENTS n) rate (setF (REG.SPEED_HANDSHAKES n) speed
      (setRegion n (fun r => { r with measured := true }) s))))
  let s := forEach (neighbourList n) (fun m s => checkPair n m s) s
  .next (if 500 < tmeas n s then enterFatal 3 n s else s)

/-- LOUVRE_RELEASE (R86): a requirement whose pair has stayed within the release limits for 2^20 counts is lifted. -/
def execLouvreRelease (n : RegionNo) (s : State) : Host.Outcome State Fault Refusal :=
  .next (forEach (neighbourList n) (fun m s =>
    match (hingeOf n m s).need, (hingeOf n m s).calmSince with
    | some (f, _), some t =>
      if f = n.val && decide (2 ^ 20 ≤ licSince n t s) then
        recomputeLouvre n m (setHinge n m (fun h => { h with need := none, calmSince := none }) s)
      else s
    | _, _ => s) s)

/-- Bytes that one hinge transfer carries at the mullion (R633). -/
def transferBytes : Nat := 256

/-- Peephole events of a transfer delivered from `a` to `b` (R705 kind 4). -/
def peepTransfer (a b : Nat) (s : State) : State :=
  let quad (x : Nat) : Bool := decide (68 ≤ x) && decide (x < 72)
  if quad a && quad b then peep 4 (a - 68) 1 transferBytes s
  else if quad a && decide (b = 77 + 6 * (a - 68)) then peep 4 (a - 68) 2 transferBytes s
  else if quad b && decide (a = 77 + 6 * (b - 68)) then peep 4 (b - 68) 3 transferBytes s
  else s

/-- Whether a hinge can deliver: not stalled, neither side in reset, not fatal (R81, R87, R651, R667). A clocked island lies in its
region (R70, log 242). -/
def hingeOpen (a b : Nat) (s : State) : Bool :=
  (hingeOf a b s).stalled.isNone && !(regionOf (endRegion a) s).inReset && !(regionOf (endRegion b) s).inReset && !fatal s

/-- Every hinge of a path can deliver (R40, R81). -/
def pathOpen (p : List Nat) (s : State) : Bool := (hops p).all (fun h => hingeOpen h.1 h.2 s)

/-- Transfers held at a hinge in the direction from `a` to `b`, oldest first (R81). -/
def heldAt (a b : Nat) (s : State) : List Transfer := if a < b then (hingeOf a b s).fwd else (hingeOf a b s).bwd

/-- The held transfers of a direction are replaced. -/
def setHeld (a b : Nat) (l : List Transfer) (s : State) : State :=
  setHinge a b (fun h => if a < b then { h with fwd := l } else { h with bwd := l }) s

/-- A transfer joins those held from `a` to `b`. -/
def holdTransfer (a b : Nat) (t : Transfer) (s : State) : State := setHeld a b (heldAt a b s ++ [t]) s

/-- A transfer comes out of a hinge at `b`: it has arrived, or it joins the next hinge of its path (R35, R37). -/
def transferArrives (a b : Nat) (t : Transfer) (s : State) : State :=
  match t.path with
  | [] => setHinge a b (fun h => if a < b then { h with atB := h.atB ++ [t] } else { h with atA := h.atA ++ [t] }) s
  | c :: rest => holdTransfer b c { t with path := rest } s

/-- The path of a transfer that end `a` offers to end `b`, beyond `b`; none where `b` is no next step of its path (R37). -/
def offerPath (a b : Nat) (o : Offer) : Option (List Nat) :=
  if 100 ≤ b then some []
  else if 100 ≤ a then some ((regionPath b o.dest).drop 1)
  else if (regionPath a o.dest).getD 1 a = b ∧ a ≠ b then some ((regionPath a o.dest).drop 2)
  else none

/-- What end `a` offers to end `b` is accepted by their hinge, where it lies on the transfer's path (R37, R81). -/
def acceptOffer (a b : Nat) (owner : Option Nat) (offered : Option Offer) (s : State) : State :=
  match offered with
  | none => s
  | some o => match offerPath a b o with
    | some p => holdTransfer a b ⟨owner, o.payload, p⟩ s
    | none => s

/-- HINGE_TRANSFER (R35, R37, R70, R81): a transfer offered from `a` to `b` joins those held; when the receiver is ready and the hinge
is open, the oldest is delivered. -/
def execHingeTransfer (a b : HingeEnd) (owner : Option Nat) (offered : Option Offer) (receiverReady : Bool) (s : State) :
    Host.Outcome State Fault Refusal :=
  if !hingeHere a b then .next s
  else
    let s := acceptOffer a b owner offered s
    match heldAt a b s with
    | [] => .next s
    | t :: rest =>
      if receiverReady && hingeOpen a b s then .next (peepTransfer a b (transferArrives a b t (setHeld a b rest s))) else .next s

end Sys2Proof.Machine
end

