-- ==== Sys2Proof/Machine/MemUnits.lean ====
section
/-! DEFINITION. Memory units (chapter 08): ECC, poison codewords, scrubbing, row remapping, the repair log, temperature, and the
bring-up of a unit. -/

namespace Sys2Proof.Machine

def muAuxInit : MuAux := ⟨[], [], [], [], false, false, 0, [], 0⟩
def muAuxOf (u : Nat) (s : State) : MuAux := assocGet muAuxInit s.mu u
def setMuAux (u : Nat) (f : MuAux → MuAux) (s : State) : State := { s with mu := assocModify muAuxInit s.mu u f }

/-- Slots of a unit of `gib` GiB (R264). -/
def slotsOfGib (u gib : Nat) : Nat :=
  16384 * ((gib * 2 ^ 30 - (if u < 16 then 16 else 64) * 2 ^ 20) / (16384 * 66560))

/-- The row address of R339, bits 35:0. -/
def rowBits (r : RowAddr) : Nat :=
  r.row % 2 ^ 24 + r.bank % 2 ^ 4 * 2 ^ 24 + r.bg % 2 ^ 3 * 2 ^ 28 + r.pc % 2 * 2 ^ 31 + r.sid % 2 ^ 4 * 2 ^ 32

/-- The channel whose tracker and table serve a row: one for a DRAM channel (R319). -/
def rowChan (u : Nat) (r : RowAddr) : Nat := if u < 16 then r.ch else 0

/-- Unit number within its kind (R31, R663). -/
def muUnitNo (u : Nat) : Nat := u % 16

/-- The remap entry in force for a row. -/
def remapOf (u : Nat) (r : RowAddr) (s : State) : Option Remap :=
  ((muAuxOf u s).remaps.find? (fun e => decide (e.1 = rowChan u r) && decide (e.2.row = r) && !e.2.retired)).map (fun e => e.2)

/-- MUREMAP[USED] shows the entries in use (R337). -/
def showUsed (u : Nat) (s : State) : State :=
  setF (MU.MUREMAP_USED u) ((muAuxOf u s).remaps.filter (fun e => !e.2.retired)).length s

/-- A row is to be remapped (R319 to R322): its entry goes to the management controller, unless the table is full, the entries under way
counted. -/
def startRemap (u : Nat) (r : RowAddr) (cause : Nat) (s : State) : State :=
  let a := muAuxOf u s
  let c := rowChan u r
  if !flag (MU.MUCTL_REMAPEN u) s || a.pend.any (fun p => decide (p.2.1 = r)) then s
  else if 512 ≤ (a.remaps.filter (fun e => decide (e.1 = c))).length + (a.pend.filter (fun p => decide (p.1 = c))).length then
    let s := setF (MU.MUREMAP_FULL u) 1 s
    if a.full.contains c then s
    else errRecord clsMemory 0 (muRegion u) 0 (muUnitNo u) [u, c] (setMuAux u (fun a => { a with full := c :: a.full }) s)
  else setMuAux u (fun a => { a with pend := a.pend ++ [(c, r, if (remapOf u r s).isSome then 2 else cause)] }) s

/-- Count a correctable error against a row, or its spare row (R319, R321): the new count. -/
def countRow (u : Nat) (r : RowAddr) (s : State) : Nat × State :=
  let c := rowChan u r
  let spare := ((remapOf u r s).map (fun e => e.idx + 1)).getD 0
  let a := muAuxOf u s
  let same (t : Nat × RowAddr × Nat × Nat) : Bool := decide (t.1 = c) && decide (t.2.1 = r) && decide (t.2.2.1 = spare)
  let n := ((a.track.find? same).map (fun t => t.2.2.2)).getD 0 + 1
  let others := a.track.filter (fun t => !same t)
  let mine := others.filter (fun t => decide (t.1 = c))
  let others := if 64 ≤ mine.length then others.erase (mine.headD (0, ⟨0, 0, 0, 0, 0, 0⟩, 0, 0)) else others
  (n, setMuAux u (fun a => { a with track := others ++ [(c, r, spare, n)] }) s)

/-- A correctable error (R316): the codeword is corrected, and the row remapped at the threshold. -/
def correctable (u : Nat) (r : RowAddr) (s : State) : State :=
  let s := peep 5 u 3 1 (satF (MU.MUCECNT_COUNT u) 1 s)
  let (n, s) := countRow u r s
  if getF (MU.MUCTL_CETHR u) s ≤ n then startRemap u r 0 s else s

/-- The tensor and pane whose slot this is. -/
def paneAt (u slot : Nat) (s : State) : Option (Nat × Nat) :=
  (s.panes.find? (fun p => decide (p.2.unit = u) && decide (p.2.slot = slot))).map (fun p => (p.1 / 2 ^ 28, p.1 % 2 ^ 28))

/-- An uncorrectable error (R317): a poison codeword, the pane's POISON bit and CRC, a record; the row is remapped (R319). -/
def uncorrectable (u slot off : Nat) (r : RowAddr) (s : State) : State :=
  let s := satF (MU.MUUECNT_COUNT u) 1 s
  let s := setF (MU.MUERRLAST_VALID u) 1 (setF (MU.MUERRLAST_UNCORR u) 1 (setF (MU.MUERRLAST_SLOT u) slot
    (setF (MU.MUERRLAST_SID u) r.sid (setF (MU.MUERRLAST_PC u) r.pc (setF (MU.MUERRLAST_BG u) r.bg
      (setF (MU.MUERRLAST_BANK u) r.bank (setF (MU.MUERRLAST_ROW u) r.row s)))))))
  let s := match paneAt u slot s with
    | none => s
    | some (h, i) =>
      match tensorOf h s with
      | none => s
      | some t => if unwritten ⟨unitTier u, u, slot⟩ s then s else markPoison t i ⟨unitTier u, u, slot⟩ s
  let s := poisonLine (lineOf (memAddr u slot off)) s
  let s := errRecord clsMemory 1 (muRegion u) 0 (muUnitNo u) [u, slot, rowBits r] s
  startRemap u r 1 (trace 6 1 (muRegion u) (muUnitNo u) (rowBits r) s)

/-- Symbols of a codeword that the code corrects (R315). -/
def correctsUpTo (u : Nat) : Nat := if u < 16 then 4 else 8

/-- What a read of a codeword meets (R315 to R317): one that is a poison codeword already decodes as poisoned again; a miscorrection
counts as corrected, and its bytes are written back. -/
def codewordRead (u slot off : Nat) (ecc : Ecc) (r : RowAddr) (s : State) : State :=
  if s.poison.contains (lineOf (memAddr u slot off)) then s
  else match ecc with
    | .clean => s
    | .symbols n => if n = 0 then s else if n ≤ correctsUpTo u then correctable u r s else uncorrectable u slot off r s
    | .miscorrected bs => correctable u r (memWrite (memAddr u slot (off / 64 * 64)) (byteSlice bs 0 64) s)

/-- The unit serves requests: ready, not in self-refresh, its region out of reset and powered (R305, R310, R660). -/
def muServes (u : Nat) (s : State) : Bool :=
  !fatal s && decide (getF (MU.MUSTAT_TSTATE u) s = 4) && !(muAuxOf u s).rest && !(regionOf (muRegion u) s).inReset && !(regionOf (muRegion u) s).down

/-- A row whose remap is under way holds new accesses (R320). -/
def rowHeld (u : Nat) (r : RowAddr) (s : State) : Bool := (muAuxOf u s).pend.any (fun p => decide (p.2.1 = r))

/-! The queues (R305, R306): one for each HBM channel or DRAM subchannel, served when its arbiter grants it. -/

/-- Queues of a unit, and the one that serves a byte of a slot: its stripe's (R306). -/
def muQueues (u : Nat) : Nat := if u < 16 then 32 else 2
def queueOfByte (u slot off : Nat) : Nat := (off / 256 + slot) % muQueues u

/-- The arbiter of a queue (R633). -/
def queueArb (u c : Nat) : Nat := if u < 16 then 128 + 32 * u + c else 640 + 2 * (u - 16) + c

/-- The unit and queue of an arbiter. -/
def arbQueue (i : Nat) : Option (Nat × Nat) :=
  if 128 ≤ i ∧ i < 640 then some ((i - 128) / 32, (i - 128) % 32)
  else if 640 ≤ i ∧ i < 672 then some (16 + (i - 640) / 2, (i - 640) % 2)
  else none

/-- The bytes of a unit's reserve (R307). -/
def reserveBytes (u : Nat) : Nat := (if u < 16 then 16 else 64) * 2 ^ 20

/-- A byte of the unit's slots or of the reserve above the last one (R305, R306). -/
def muHas (u slot off : Nat) (s : State) : Bool :=
  decide (off < 66560) && decide (slot * 66560 + off < getF (MU.MUSLOTS_SLOTS u) s * 66560 + reserveBytes u)

/-- The row of a request lies on the channel or subchannel that serves its stripe (R306). -/
def rowServes (u slot off : Nat) (r : RowAddr) (s : State) : Bool :=
  decide (getF (MU.MUSLOTS_SLOTS u) s ≤ slot)
  || (if u < 16 then decide (r.ch = queueOfByte u slot off) else decide (r.pc = queueOfByte u slot off))

/-- A request is served: a read of a codeword, or a write within a stripe (R305, R315, R317). -/
def serveReq (u : Nat) (q : MemReq) (s : State) : State :=
  match q.write with
  | none => codewordRead u q.slot q.off q.ecc q.row (peep 5 u 1 64 s)
  | some bs =>
    let bs := bs.take (256 - q.off % 256)
    let a := memAddr u q.slot q.off
    healRange a bs.length (memWrite a bs (peep 5 u 2 bs.length s))

/-- A queue's turn: its oldest request whose row is not held comes up, and of every 16 that come up the unit serves LVAL (R320, R327). -/
def serveNext (u c : Nat) (s : State) : State :=
  match (muAuxOf u s).queue.find? (fun q => decide (queueOfByte u q.slot q.off = c) && !rowHeld u q.row s) with
  | none => s
  | some q =>
    if !muServes u s || !flag (ARB.STAT_OWNED (queueArb u c)) s then s
    else
      let up := decide ((muAuxOf u s).beat < getF (MU.MUTEMP_LVAL u) s)
      let s := setMuAux u (fun a => { a with beat := (a.beat + 1) % 16 }) s
      if up then serveReq u q (setMuAux u (fun a => { a with queue := a.queue.erase q }) s) else s

/-- The requests that a unit has accepted are completed (R660); those of rows under remap go to the row as it stands. -/
def serveAll (u : Nat) (s : State) : State :=
  forEach (muAuxOf u s).queue (fun q s => serveReq u q s) (setMuAux u (fun a => { a with queue := [] }) s)

/-- A grant of a memory queue's arbiter serves it (R305, R633). -/
def serveGrant (i : Nat) (s : State) : State :=
  match arbQueue i with
  | some (u, c) => serveNext u c s
  | none => s

/-- MEMORY_ACCESS (R305, R306, R315): a request joins the queue of its stripe's channel or subchannel, and the queue is served while its
arbiter is owned (log 250). -/
def execMemoryAccess (u : MemUnit) (slot off : Nat) (write : Option (List Byte)) (ecc : Ecc) (row : RowAddr) (s : State) :
    Host.Outcome State Fault Refusal :=
  .next (if !muServes u s || !muHas u slot off s || !rowServes u slot off row s then s
    else serveNext u (queueOfByte u slot off) (setMuAux u (fun a => { a with queue := a.queue ++ [⟨slot, off, write, ecc, row⟩] }) s))

/-- SCRUB_READ (R318). -/
def execScrubRead (u : MemUnit) (slot off : Nat) (ecc : Ecc) (row : RowAddr) (s : State) : Host.Outcome State Fault Refusal :=
  .next (if !muServes u s || !flag (MU.MUCTL_SCRUBEN u) s || rowHeld u row s || !muHas u slot off s || !rowServes u slot off row s then s
    else codewordRead u slot off ecc row s)

/-- The lowest free spare row of a channel. -/
def freeSpare (u c : Nat) (s : State) : Nat :=
  ((List.range 512).find? (fun i => !(muAuxOf u s).remaps.any (fun e => decide (e.1 = c) && decide (e.2.idx = i)))).getD 512

/-- An entry enters the remap table with the lowest free spare row; an earlier one of the same row is retired (R320, R321, R325). -/
def enterRemap (u : Nat) (r : RowAddr) (cause : Nat) (pprfail : Bool) (s : State) : State :=
  let c := rowChan u r
  let i := freeSpare u c s
  setMuAux u (fun a => { a with
    remaps := a.remaps.map (fun e => if e.1 = c ∧ e.2.row = r then (e.1, { e.2 with retired := true }) else e)
      ++ [(c, ⟨i, r, cause, pprfail, false⟩)] }) s

/-- REPAIR_LOG_COMMITTED (R320 to R323): the log holds the entry, the row is copied with its codewords corrected or poisoned, and the
held accesses are released; or the remap is abandoned. -/
def execRepairLogCommitted (u : MemUnit) (row : RowAddr) (r : RepairCommit) (s : State) : Host.Outcome State Fault Refusal :=
  .next (match (muAuxOf u s).pend.find? (fun p => decide (p.2.1 = row)) with
    | none => s
    | some (c, x, cause) =>
      let s := if r.committed then
          let s := { s with repairLog := s.repairLog ++ [(u.val, x, false)] }
          let s := forEach r.found (fun e s => codewordRead u e.slot e.off e.ecc x s) s
          let s := showUsed u (enterRemap u x cause false s)
          trace 6 0 (muRegion u) (muUnitNo u) (rowBits x) (errRecord clsMemory 0 (muRegion u) 0 (muUnitNo u) [u, rowBits x] s)
        else errRecord clsMemory 0 (muRegion u) 0 (muUnitNo u) [u, rowBits x] (setF (MU.MUREMAP_LOGFAIL u) 1 s)
      serveNext u (if u.val < 16 then c else x.pc) (setMuAux u (fun a => { a with pend := a.pend.filter (fun p => decide (p.2.1 ≠ row)) }) s))

/-- The louvre value of a reading (R327). -/
def muLouvre (t1 t2 : Nat) (t : Int) : Nat :=
  if t ≤ t1 then 16 else if (t2 : Int) < t then 1 else 16 - ceilDiv (15 * (t.toNat - t1)) (t2 - t1)

/-- MU_TEMP_READING (R326 to R328, R333). -/
def execMuTempReading (u : MemUnit) (t : Int) (s : State) : Host.Outcome State Fault Refusal :=
  .next (if fatal s || (regionOf (muRegion u) s).inReset || (regionOf (muRegion u) s).down || decide (getF (MU.MUSTAT_TSTATE u) s = 0) then s
    else
      let t1 := getF (MU.MUTHR_T1 u) s
      let t2 := getF (MU.MUTHR_T2 u) s
      let before := ofTwos 8 (getF (MU.MUTEMP_TCUR u) s)
      let l := muLouvre t1 t2 t
      let cur := getF (MU.MUTEMP_LVAL u) s
      let s := setF (MU.MUTEMP_LVAL u) (if cur < l then cur + 1 else l) s
      let s := setF (MU.MUTEMP_TCUR u) (toTwos 8 t) (setF (MU.MUTEMP_ABOVET1 u) (b2n (decide ((t1 : Int) < t))) s)
      let s := setF (MU.MUTEMP_REFX2 u) (b2n (decide (u.val < 16) && decide (85 < t))) s
      if (t2 : Int) < t then
        let s := setF (MU.MUTEMP_OVERT2 u) 1 s
        if (t2 : Int) < before then s else errRecord clsMemory 0 (muRegion u) 0 (muUnitNo u) [u, toTwos 64 t] s
      else s)

/-! Bring-up (R310 to R314, R324, R325). -/

/-- A unit in self-refresh while its shutter is CLOSED, boot apart (R660). -/
def shutRest (u : Nat) (s : State) : Bool := s.boot.isNone && decide (getF (GLB.SHUT_STATE (36 + u)) s = 0)

/-- Step 1: the unit begins training. `zeroing` says whether its reset is a zeroing reset; in any other the unit is held in self-refresh
throughout, before any other act of the reset (R310, R312, R313). -/
def muStart (u : Nat) (zeroing : Bool) (s : State) : State :=
  let s := setMuAux u (fun a =>
    { a with track := [], remaps := [], pend := [], zeroing := zeroing, rest := !zeroing, fell := 0, queue := [], beat := 0 }) s
  setF (MU.MUSTAT_TSTATE u) 1 (setF (MU.MUSTAT_FAIL u) 0 (showUsed u s))

/-- Step 4: the remap table is loaded from the repair log, in the order of the log (R325). -/
def loadRemaps (u : Nat) (s : State) : State :=
  showUsed u (forEach (s.repairLog.filter (fun l => decide (l.1 = u))) (fun l s => enterRemap u l.2.1 3 l.2.2 s) s)

/-- Rows that the repair log holds for a unit, each once. -/
def loggedRows (u : Nat) (s : State) : List RowAddr :=
  (s.repairLog.filter (fun l => decide (l.1 = u))).foldl (fun a l => if a.contains l.2.1 then a else a ++ [l.2.1]) []

/-- Step 3: every logged row of the unit is repaired, and its entries go, or stay with PPRFAIL set (R324). -/
def repairRows (u : Nat) (repairs : List MuRepair) (s : State) : State :=
  if flag (MU.MUCTL_PPREN u) s then
    let rows := loggedRows u s
    let fixed (r : RowAddr) : Bool := repairs.any (fun x => decide (x.row = r) && x.ok)
    let s := { s with repairLog := (s.repairLog.filter (fun l => !(decide (l.1 = u) && fixed l.2.1))).map (fun l =>
      if l.1 = u then (l.1, l.2.1, true) else l) }
    setF (MU.MUREPAIR_DONE u) (rows.filter fixed).length (setF (MU.MUREPAIR_FAILED u) (rows.filter (fun r => !fixed r)).length s)
  else setF (MU.MUREPAIR_DONE u) 0 (setF (MU.MUREPAIR_FAILED u) 0 s)

/-- The bring-up of a unit ends without it (R311). -/
def muAbsent (u tstate cause : Nat) (s : State) : State :=
  let s := setMuAux u (fun a => { a with rest := shutRest u s }) s
  setF (MU.MUSTAT_TSTATE u) tstate (setF (MU.MUSTAT_FAIL u) cause (setF (MU.MUCAP_GIB u) 0 (setF (MU.MUSLOTS_SLOTS u) 0 s)))

/-- The unit fails (R311). -/
def muFail (u cause : Nat) (s : State) : State := errRecord clsMemory 1 (muRegion u) 0 (muUnitNo u) [u, cause] (muAbsent u 5 cause s)

/-- Rates at which a unit trains, the highest first, as MUSTAT[RATE] shows them (R308, R309, R331); `rated` is what a module's SPD gives. -/
def ratesOf (u rated : Nat) : List Nat := if u < 16 then [12, 10, 8] else if 128 ≤ rated then [128, 88] else [88]

/-- A unit that this device supports (R308, R309). -/
def supportedGib (u gib : Nat) : Bool :=
  if u < 16 then decide (gib = 64) else decide (gib = 32) || decide (gib = 64) || decide (gib = 128) || decide (gib = 256)

/-- The log drops the entries of a stack or module that is no longer the one they are of, and holds the identity from now on (R323). -/
def takeIdentity (u id : Nat) (s : State) : State :=
  let same := s.repairIds.all (fun x => decide (x.1 ≠ u) || decide (x.2 = id))
  { s with
    repairLog := if same then s.repairLog else s.repairLog.filter (fun l => decide (l.1 ≠ u))
    repairIds := (u, id) :: s.repairIds.filter (fun x => decide (x.1 ≠ u)) }

/-- Slots and spare area of a unit in MiB (R307, R314). -/
def zeroMib (u : Nat) (s : State) : Nat := getF (MU.MUSLOTS_SLOTS u) s * 66560 / 2 ^ 20 + (if u < 16 then 16 else 4)

/-- Training has succeeded (R310 steps 2 to 6). -/
def muTrainedAt (u rate lanes gib id : Nat) (s : State) : State :=
  let s := setF (MU.MUSTAT_RATE u) rate (setF (MU.MUSTAT_LANEREP u) lanes (setF (MU.MUCAP_GIB u) gib
    (setF (MU.MUSLOTS_SLOTS u) (slotsOfGib u gib) s)))
  let s := takeIdentity u id (setMuAux u (fun a => { a with rest := shutRest u s }) s)
  if (muAuxOf u s).zeroing then setF (MU.MUSTAT_TSTATE u) 2 s
  else setF (MU.MUZERO_DONE u) 1 (setF (MU.MUSTAT_TSTATE u) 4 (loadRemaps u s))

/-- The repair of a zeroing reset has ended (R310 steps 3 to 5): the remap table is loaded and zeroing begins. -/
def muRepaired (u : Nat) (repairs : List MuRepair) (s : State) : State :=
  let s := loadRemaps u (repairRows u repairs s)
  showBootZero (setF (MU.MUZERO_DONE u) 0 (setF (MU.MUZERO_REMAIN u) (zeroMib u s) (setF (MU.MUSTAT_TSTATE u) 3 s)))

/-- A training attempt ends, or, in TSTATE 2, the repair that follows it (R310 steps 1 to 5, R311, log 251). Only a DRAM channel has a
module to miss, and only a stack redundant lanes; a stack that is not R308's is not accepted, and its training does not go on. -/
def muTrained (u : Nat) (r : MuTraining) (repairs : List MuRepair) (s : State) : State :=
  if getF (MU.MUSTAT_TSTATE u) s = 2 then muRepaired u repairs s
  else if getF (MU.MUSTAT_TSTATE u) s ≠ 1 then s
  else match r with
    | .noModule => if u < 16 then s else muAbsent u 0 1 s
    | .badModule => if u < 16 then s else muFail u 2 s
    | .lanesFailed => if u < 16 then muFail u 4 s else s
    | .failedAt rated =>
      let n := (muAuxOf u s).fell + 1
      if n < (ratesOf u rated).length then setMuAux u (fun a => { a with fell := n }) s else muFail u 3 s
    | .trained rated lanes gib id =>
      match supportedGib u gib, (ratesOf u rated)[(muAuxOf u s).fell]? with
      | true, some rate => muTrainedAt u rate lanes gib id s
      | true, none => muFail u 3 s
      | false, _ => if u < 16 then s else muFail u 2 s

/-- Zeroing ends (R310 step 6, R314). -/
def muZeroed (u : Nat) (s : State) : State :=
  if getF (MU.MUSTAT_TSTATE u) s ≠ 3 then s
  else
    let lo := u * 2 ^ 41
    let s := { s with mem := assocSplice s.mem lo (lo + 2 ^ 41) []
                      poison := s.poison.filter (fun l => !(decide (lo / 64 ≤ l) && decide (l < (lo + 2 ^ 41) / 64))) }
    showBootZero (setF (MU.MUZERO_DONE u) 1 (setF (MU.MUZERO_REMAIN u) 0 (setF (MU.MUSTAT_TSTATE u) 4
      (setMuAux u (fun a => { a with zeroing := false }) s))))

end Sys2Proof.Machine
end

