-- ==== Sys2Proof/Machine/Arbiters.lean ====
section
/-! DEFINITION. The commands of the arbiters (chapter 16). The bite of the hold watchdog stands in Reset.lean. -/

namespace Sys2Proof.Machine

/-- Requesters that exist and may ask (R633, R634): no port asks for its own mullion output; some ask only on F0. -/
def mayAsk (i r : Nat) : Bool :=
  decide (r < arbReqs i) &&
  (match arbKind i with
  | some 1 => decide (r ≠ (i - 64) % 14)
  | some 2 => decide (r ≠ 7) || decide (arbRegion i < 78)
  | some 3 => decide (r ≠ 7) || decide (arbRegion i < 78)
  | some 6 => decide (r < 4) || decide (i = 720)
  | _ => true)

/-- Input number, wait limit and wait counter of a requester (R644, R645, R648). -/
def inputOf (i r : Nat) (s : State) : Nat := bitsOf (getF (ARB.INPUTMAP_MAP i) s) (4 * r) 4
def limOf (i r : Nat) (s : State) : Nat :=
  if r < 8 then bitsOf (getF (ARB.WAITLIM0_LIMS i) s) (8 * r) 8 else bitsOf (getF (ARB.WAITLIM1_LIMS i) s) (8 * (r - 8)) 8
def cntOf (i r : Nat) (s : State) : Nat :=
  if r < 8 then bitsOf (getF (ARB.WAITCNT0_CNTS i) s) (8 * r) 8 else bitsOf (getF (ARB.WAITCNT1_CNTS i) s) (8 * (r - 8)) 8

/-- A byte of a word replaced. -/
def putBits (v lo w x : Nat) : Nat := v / 2 ^ (lo + w) * 2 ^ (lo + w) + x % 2 ^ w * 2 ^ lo + v % 2 ^ lo

/-- Set a wait counter (R648). -/
def setCnt (i r v : Nat) (s : State) : State :=
  if r < 8 then setF (ARB.WAITCNT0_CNTS i) (putBits (getF (ARB.WAITCNT0_CNTS i) s) (8 * r) 8 v) s
  else setF (ARB.WAITCNT1_CNTS i) (putBits (getF (ARB.WAITCNT1_CNTS i) s) (8 * (r - 8)) 8 v) s

/-- Requesters whose bit is set in a mask. -/
def reqsIn (m : Nat) : List Nat := (List.range 14).filter (fun r => bitOf m r)

/-- The requesters that take part in a decision (R635): the forced ones when there are any. -/
def participants (i asking : Nat) (s : State) : Bool × List Nat :=
  let all := reqsIn asking
  let forced := all.filter (fun r => decide (limOf i r s ≠ 0) && decide (limOf i r s ≤ cntOf i r s))
  if forced.isEmpty then (false, all) else (true, forced)

/-- The highest input number wins (R635). -/
def winnerOf (i : Nat) (s : State) : List Nat → Option Nat
  | [] => none
  | r :: t =>
    match winnerOf i s t with
    | none => some r
    | some w => if inputOf i w s < inputOf i r s then some r else some w

/-- Requests raised now, added to those still raised (R635). -/
def raise (i asking : Nat) (s : State) : State :=
  let m := sumUpTo (fun r => if bitOf asking r && mayAsk i r then 2 ^ r else 0) 14
  setF (ARB.STAT_ASKING i) (getF (ARB.STAT_ASKING i) s ||| m) s

/-- The grant goes to requester `w`: the hold counts from now (R635, R640). -/
def grant (i w : Nat) (s : State) : State :=
  let s := setF (ARB.STAT_OWNED i) 1 (setF (ARB.STAT_PARKED i) 0 (setF (ARB.STAT_OWNER i) w s))
  let s := setF (ARB.STAT_ASKING i) (putBits (getF (ARB.STAT_ASKING i) s) w 1 0) s
  { s with arbStamp := assocSet 0 s.arbStamp i (licOf (arbRegion i) s) }

/-- A decision (R635, R637). -/
def decideArb (i : Nat) (s : State) : State :=
  let (forced, ps) := participants i (getF (ARB.STAT_ASKING i) s) s
  match winnerOf i s ps with
  | none => s
  | some w =>
    let s := forEach ps (fun r s => setCnt i r (if r = w then 0 else satAdd 8 (cntOf i r s) 1) s) s
    let s := peep 12 i 1 1 (addF (ARB.DECISIONS_COUNT i) 1 s)
    let s := if forced then
      trace 10 0 (arbRegion i) (i + w * 2 ^ 16) 0 (peep 12 i 2 1 (addF (ARB.FORCED_COUNT i) 1 s)) else s
    grant i w s

/-- ARB_DECISION (R635, R637, R638): requests are raised; a free resource is granted, without a decision when only the parked
owner asks; a memory queue that is granted is served (R305). -/
def execArbDecision (inst asking : Nat) (s : State) : Host.Outcome State Fault Refusal :=
  if (arbKind inst).isNone then .next s
  else
    let s := raise inst asking s
    let m := getF (ARB.STAT_ASKING inst) s
    if flag (ARB.STAT_OWNED inst) s || decide (m = 0) || (regionOf (arbRegion inst) s).inReset || fatal s then .next s
    else if flag (ARB.STAT_PARKED inst) s && decide (m = 2 ^ getF (ARB.STAT_OWNER inst) s) then
      .next (serveGrant inst (grant inst (getF (ARB.STAT_OWNER inst) s) s))
    else .next (serveGrant inst (decideArb inst s))

/-- ARB_RELEASE (R638): the owner releases; the grant parks on it when no other requester asks. The vector engine that owns a full
transom queue releases it by reading a tile (R639). -/
def execArbRelease (inst asking : Nat) (s : State) : Host.Outcome State Fault Refusal :=
  if (arbKind inst).isNone then .next s
  else
    let s := raise inst asking s
    if flag (ARB.STAT_OWNED inst) s && !(decide (724 ≤ inst) && flag (CORE.MXSTAT_TRWAIT (inst - 724)) s) then
      let others := putBits (getF (ARB.STAT_ASKING inst) s) (getF (ARB.STAT_OWNER inst) s) 1 0
      .next (setF (ARB.STAT_PARKED inst) (b2n (others = 0)) (setF (ARB.STAT_OWNED inst) 0
        { s with arbStamp := assocSet 0 s.arbStamp inst 0 }))
    else .next s

/-- The input numbers of a map, in requester order. -/
def mapInputs (i v : Nat) : List Nat := (List.range (arbReqs i)).map (fun r => bitsOf v (4 * r) 4)

/-- No two requesters share an input number (R636). -/
def noDup : List Nat → Bool
  | [] => true
  | x :: t => !t.contains x && noDup t

/-- A map that R636 accepts. -/
def mapValid (i v : Nat) : Bool := noDup (mapInputs i v) && (decide (arbKind i ≠ some 4) || decide (bitsOf v 0 4 = 15))

/-- An input map is written whole (R636, R644). -/
def mapWrite (inst value : Nat) (s : State) : State :=
  let a := (ARB.INPUTMAP_MAP inst).addr
  let s := dropHeld a s
  if mapValid inst value then setF (ARB.INPUTMAP_MAP inst) (value % 2 ^ (4 * arbReqs inst)) s else regAccessError a s

/-- INPUTMAP_WRITE (R636, R644). -/
def execInputmapWrite (inst value : Nat) (s : State) : Host.Outcome State Fault Refusal :=
  if (arbKind inst).isNone then .next s
  else .next (hostWrite .early (mapWrite inst value) s)

end Sys2Proof.Machine
end

