-- ==== Sys2Proof/Machine/Aes.lean ====
section
/-! DEFINITION. AES-256 (FIPS 197) and the AES key wrap of RFC 3394, by which a persistent key stands in a cartridge's label (R353). Bytes
are numbers below 256; a block is a list of 16 of them, column by column. -/

namespace Sys2Proof.Machine

/-! The field of 256 elements with reduction polynomial 0x11B. -/

def gfDouble (a : Nat) : Nat := if 128 ≤ a then (2 * a) ^^^ 0x11B else 2 * a

/-- The product: the doublings of `a` that the bits of `b` name. -/
def gfMul (a b : Nat) : Nat :=
  ((List.range 8).foldl (fun (p : Nat × Nat) k => (if b / 2 ^ k % 2 = 1 then p.1 ^^^ p.2 else p.1, gfDouble p.2)) (0, a)).1

/-- The inverse, 0 for 0: the 254th power, as the product of the powers of exponents 2, 4, 8 and so on to 128. -/
def gfInv (a : Nat) : Nat :=
  ((List.range 7).foldl (fun (p : Nat × Nat) _ => (gfMul p.1 (gfMul p.2 p.2), gfMul p.2 p.2)) (1, a)).1

def rotByte (k a : Nat) : Nat := a * 2 ^ k % 256 + a / 2 ^ (8 - k)

def aesSub (a : Nat) : Nat := [1, 2, 3, 4].foldl (fun v k => v ^^^ rotByte k (gfInv a)) (gfInv a) ^^^ 0x63
def aesUnsub (a : Nat) : Nat := gfInv ([1, 3, 6].foldl (fun v k => v ^^^ rotByte k a) 0x05)

/-! The rounds. -/

/-- Row `r` of every column takes the byte of the column `f r` further on. -/
def aesShift (f : Nat → Nat) (b : List Nat) : List Nat := (List.range 16).map (fun i => b.getD (i % 4 + 4 * ((i / 4 + f (i % 4)) % 4)) 0)

/-- Every column times the circulant of `m`. -/
def aesMix (m : List Nat) (b : List Nat) : List Nat := (List.range 16).map (fun i =>
  (List.range 4).foldl (fun v k => v ^^^ gfMul (m.getD k 0) (b.getD (i / 4 * 4 + (i + k) % 4) 0)) 0)

def aesAdd (k b : List Nat) : List Nat := List.zipWith (fun x y => x ^^^ y) b k

/-- The next word of the key schedule. -/
def aesNextWord (ws : List (List Nat)) : List Nat :=
  let i := ws.length
  let t := ws.getD (i - 1) []
  let t := if i % 8 = 0 then aesAdd [2 ^ (i / 8 - 1), 0, 0, 0] ((t.drop 1 ++ t.take 1).map aesSub) else if i % 8 = 4 then t.map aesSub else t
  aesAdd t (ws.getD (i - 8) [])

/-- The 15 round keys of a key of 32 bytes. -/
def aesKeys (key : List Nat) : List (List Nat) :=
  let ws := (List.range 52).foldl (fun ws _ => ws ++ [aesNextWord ws]) ((List.range 8).map (fun i => (key.drop (4 * i)).take 4))
  (List.range 15).map (fun r => ((ws.drop (4 * r)).take 4).flatten)

def aesEncrypt (ks : List (List Nat)) (b : List Nat) : List Nat :=
  let half (b : List Nat) : List Nat := aesShift id (b.map aesSub)
  let b := (List.range 13).foldl (fun b r => aesAdd (ks.getD (r + 1) []) (aesMix [2, 3, 1, 1] (half b))) (aesAdd (ks.getD 0 []) b)
  aesAdd (ks.getD 14 []) (half b)

def aesDecrypt (ks : List (List Nat)) (b : List Nat) : List Nat :=
  let half (b : List Nat) : List Nat := (aesShift (fun r => 4 - r) b).map aesUnsub
  let b := (List.range 13).foldl (fun b r => aesMix [14, 11, 13, 9] (aesAdd (ks.getD (13 - r) []) (half b))) (aesAdd (ks.getD 14 []) b)
  aesAdd (ks.getD 0 []) (half b)

/-! The key wrap. -/

def wrapStart : List Nat := List.replicate 8 0xA6

/-- The step counter of a wrap, eight bytes, most significant first. -/
def wrapCount (t : Nat) : List Nat := (List.range 8).map (fun i => t / 256 ^ (7 - i) % 256)

/-- A key wrapped under a key of 32 bytes: the registers are A and the n words of the key. -/
def keyWrap (kek key : List Byte) : List Byte :=
  let ks := aesKeys (kek.map BitVec.toNat)
  let n := key.length / 8
  let words := (List.range n).map (fun i => ((key.map BitVec.toNat).drop (8 * i)).take 8)
  let (a, ws) := (List.range (6 * n)).foldl (fun (p : List Nat × List (List Nat)) t =>
    let b := aesEncrypt ks (p.1 ++ p.2.getD (t % n) [])
    (aesAdd (wrapCount (t + 1)) (b.take 8), p.2.set (t % n) (b.drop 8))) (wrapStart, words)
  (a ++ ws.flatten).map (BitVec.ofNat 8)

/-- The key that a wrapped key holds, or none where its check value does not come out. -/
def keyUnwrap (kek wrapped : List Byte) : Option (List Byte) :=
  let ks := aesKeys (kek.map BitVec.toNat)
  let n := wrapped.length / 8 - 1
  let word (i : Nat) : List Nat := ((wrapped.map BitVec.toNat).drop (8 * i)).take 8
  let (a, ws) := (List.range (6 * n)).foldl (fun (p : List Nat × List (List Nat)) k =>
    let t := 6 * n - 1 - k
    let b := aesDecrypt ks (aesAdd (wrapCount (t + 1)) p.1 ++ p.2.getD (t % n) [])
    (b.take 8, p.2.set (t % n) (b.drop 8))) (word 0, (List.range n).map (fun i => word (i + 1)))
  if a = wrapStart then some (ws.flatten.map (BitVec.ofNat 8)) else none

end Sys2Proof.Machine
end

