-- ==== Sys2Proof/Machine/Cart.lean ====
section
/-! DEFINITION. Sholy cartridges (chapter 09): ports, identification, the wear counter, the spill and persistent keys, and the
port commands. -/

namespace Sys2Proof.Machine

/-- First memory unit of a port's spill region. -/
def portUnit (p : Nat) : Nat := 32 + 8 * p

/-- Erase every listed byte and poison mark of an address range. -/
def wipeRange (lo hi : Nat) (s : State) : State :=
  { s with mem := assocSplice s.mem lo (max lo hi) []
           poison := s.poison.filter (fun l => !(decide (lo / 64 ≤ l) && decide (l < hi / 64))) }

/-- Panes charged to a port (R354). -/
def portPanes (p : Nat) (s : State) : Nat :=
  (s.panes.filter (fun x => decide (portUnit p ≤ x.2.unit) && decide (x.2.unit < portUnit p + 8))).length

/-- An XTS key: 512 bits of the random source with its two halves distinct (R352): the second is the first and a drawn distance. -/
def drawXts (s : State) : List Byte × State :=
  let (a, s) := drawRandom 32 s
  let (b, s) := drawRandom 32 s
  (a ++ leBytes 32 (leNat a + leNat b % (2 ^ 256 - 1) + 1), s)

/-- The spill key of a port is replaced (R353, R354), `n` panes being charged there: its slots read as unwritten, with SPILLGONE and a
record at every replacement. -/
def eraseSpill (p n : Nat) (s : State) : State :=
  let (k, s) := drawXts s
  let s := setCart p (fun a => { a with spillKey := k }) (wipeRange (portUnit p * 2 ^ 41) ((portUnit p + 8) * 2 ^ 41) s)
  portRecord 1 p [n] (setF (CART.CPSTAT_SPILLGONE p) 1 s)

/-- The spill key of a port is replaced (R353, R354). -/
def replaceSpill (p : Nat) (s : State) : State := eraseSpill p (portPanes p s) s

/-- A program of `n` bytes stays within the committed volume (R357). -/
def wearRoom (p n : Nat) (s : State) : Bool :=
  decide ((cartAuxOf p s).written + n ≤ getF (CART.CPWEAR_COMMITTED p) s * 10 ^ 9)

/-- The device writes committed + 64 to the wear counter and holds the program (R357). -/
def startCommit (p n : Nat) (s : State) : State :=
  let v := getF (CART.CPWEAR_COMMITTED p) s + 64
  writeCounter p v (setCart p (fun a => { a with commit := some v, heldBytes := n }) s)

/-- A port of a cartridge in service. -/
def portReady (p : Nat) (s : State) : Bool := decide (getF (CART.CPSTAT_CSTATE p) s = 4)

/-- Bytes are to be programmed into a cartridge: programmed, or held while the wear counter is committed, with those held already
(R357); a worn cartridge is not programmed (R358). -/
def programOrHold (p n : Nat) (s : State) : State :=
  if !portReady p s || cartWorn p s then s
  else if (cartAuxOf p s).commit.isSome then setCart p (fun a => { a with heldBytes := a.heldBytes + n }) s
  else if wearRoom p n s then programBytes p n s
  else startCommit p n s

/-- WEAR_COUNTER_COMMIT (R357): a program of `bytes` bytes is due. -/
def execWearCounterCommit (p : PortNo) (bytes : Nat) (s : State) : Host.Outcome State Fault Refusal :=
  .next (if fatal s then s else programOrHold p bytes s)

/-- 4 KiB units that LDPC cannot correct are counted, with a record (R373, R666). -/
def flashUncorrectable (p bad : Nat) (s : State) : State :=
  portRecord 1 p [p, bad] (satF (CART.CPUECNT_COUNT p) bad s)

/-- A unit that LDPC cannot correct poisons its pane or its persistent unit (R373). -/
def flashUnitBad (p : Nat) (f : FlashUnit) (s : State) : State :=
  let s := flashUncorrectable p 1 s
  match f with
  | .spill chan slot _ =>
    let u := portUnit p + chan % 8
    (match paneAt u slot s with
    | none => s
    | some (h, i) =>
      match tensorOf h s with
      | none => s
      | some t => if unwritten ⟨2, u, slot⟩ s then s else markPoison t i ⟨2, u, slot⟩ s)
  | .persistent unit _ =>
    let a := persistAddr p unit 0 s
    forEach (List.range 1024) (fun k s => poisonLine (lineOf a + k) s) s

/-- FLASH_RELOCATION (R357, R373, R705): relocation and map writes are programs, the units read may be beyond correction, and erases
count for the peephole alone. -/
def execFlashRelocation (p : PortNo) (r : Relocation) (s : State) : Host.Outcome State Fault Refusal :=
  .next (if fatal s || !portReady p s then s
    else programOrHold p r.bytes (forEach r.bad (fun f s => flashUnitBad p f s) (peep 9 p 3 r.erases s)))

/-- WEAR_COUNTER_ACK (R345, R357): the element has taken the value, and the held program proceeds unless the cartridge is now
worn (R358). -/
def execWearCounterAck (p : PortNo) (s : State) : Host.Outcome State Fault Refusal :=
  .next (match (cartAuxOf p s).commit with
    | none => s
    | some v =>
      let n := (cartAuxOf p s).heldBytes
      let s := setCommitted p v (setCart p (fun a => { a with commit := none, heldBytes := 0 }) s)
      if fatal s then s else programOrHold p n s)

/-! Insertion and removal (R360 to R364). -/

/-- A port takes no cartridge into service: its registers, and what it holds beside them; the serial number of a cartridge that is still
seated is known (R361). -/
def emptyPort (p : Nat) (s : State) : State :=
  let s := setCart p (fun a =>
    { cartAuxInit with
      present := a.present, since := a.since, seated := a.seated, serial := if a.seated then a.serial else [], placedSlots := a.placedSlots
      spillKey := a.spillKey }) s
  let s := forEach [0, 1, 2, 3] (fun i s => setF (CART.CPSERIAL_SERIAL p i) 0 s) s
  let s := setF (CART.CPCAP_PSIZE p) 0 (setF (CART.CPCAP_CAPGIB p) 0 (setF (CART.CPSLOTS_SLOTS p) 0 s))
  let s := setF (CART.CPWEAR_COMMITTED p) 0 (setF (CART.CPRATED_RATED p) 0 (setF (CART.CPLIFE_PERMILLE p) 0 s))
  setF (CART.CPSTAT_WORN p) 0 (setF (CART.CPSTAT_FOREIGN p) 0 (setF (CART.CPSTAT_UNFMT p) 0
    (setF (CART.CPSTAT_CSTATE p) 0 (setF (CART.CPSTAT_REASON p) 0 s))))

/-- Step 1 of R360. -/
def startInsertion (p : Nat) (s : State) : State :=
  let s := emptyPort p s
  setF (CART.CPSTAT_CSTATE p) 1 (setCart p (fun a => { a with powered := true, pwrSince := licOf 98 s, serial := [] }) s)

/-- A port rejects its cartridge (R361). -/
def rejectCart (p reason : Nat) (s : State) : State :=
  let s := emptyPort p s
  portRecord 1 p [reason] (setF (CART.CPSTAT_CSTATE p) 5 (setF (CART.CPSTAT_REASON p) reason s))

/-- A CHKP in flight uses a port (R365). -/
def chkpUses (p : Nat) (e : InFlight) : Bool :=
  decide (e.opcode = 6) && decide (dfield e.desc 0x11 0 8 = 1) && decide (dfield e.desc 0x12 0 8 = p)

/-- A surprise removal (R364): a CHKP in flight on the port completes with UNIT_CLOSED. -/
def surpriseRemoval (p : Nat) (s : State) : State :=
  let s := { s with inflight := updateWhere (chkpUses p) (fun e =>
    { e with parts := e.parts.map (fun x => { x with status := stUnitClosed }) }) s.inflight }
  portRecord 1 p [] s

/-- CART_PRESENCE_CHANGE (R360): CRTp_PRES_N takes a level, and the debounce count starts. -/
def execCartPresenceChange (p : PortNo) (present : Bool) (s : State) : Host.Outcome State Fault Refusal :=
  .next (if (cartAuxOf p s).present = present then s
    else setCart p (fun a => { a with present := present, since := licOf 98 s }) s)

/-- CART_PRESENCE_DEBOUNCED (R360, R361, R364, R353). -/
def execCartPresenceDebounced (p : PortNo) (s : State) : Host.Outcome State Fault Refusal :=
  let a := cartAuxOf p s
  .next (if a.present = a.seated || decide (licSince 98 a.since s < 2 ^ 24) || fatal s then s
    else
      let shut := getF (GLB.SHUT_STATE (100 + p)) s
      let s := setCart p (fun a => { a with seated := a.present }) s
      if a.present then (if shut = 0 ∨ shut = 3 then s else startInsertion p s)
      else
        let s := if shut = 0 then s else surpriseRemoval p s
        emptyPort p (replaceSpill p s))

/-- Fields of the identity record (R346). -/
def recSerial (r : List Byte) : List Byte := byteSlice r 8 16
def recCap (r : List Byte) : Nat := leAt r 0x18 4
def recRated (r : List Byte) : Nat := leAt r 0x1C 4

/-- The raw capacity (R347). -/
def recRaw (r : List Byte) : Nat :=
  8 * leAt r 0x32 2 * leAt r 0x30 2 * leAt r 0x2C 4 * leAt r 0x28 4 * leAt r 0x20 4

/-- Every field of an identity record lies within R346, and the raw capacity suffices (R347). -/
def recValid (r : List Byte) : Bool :=
  decide (leAt r 0 4 = 0x594C4853) && decide (leAt r 4 2 = 1) && decide (leAt r 6 2 = 8)
  && decide (recCap r % 512 = 0) && decide (1024 ≤ recCap r) && decide (recCap r ≤ 8192)
  && (decide (leAt r 0x20 4 = 4096) || decide (leAt r 0x20 4 = 8192) || decide (leAt r 0x20 4 = 16384))
  && decide (leAt r 0x20 4 ≤ 16 * leAt r 0x24 4)
  && decide (1 ≤ leAt r 0x30 2) && decide (leAt r 0x30 2 ≤ 8) && decide (1 ≤ leAt r 0x32 2) && decide (leAt r 0x32 2 ≤ 4)
  && decide (3600 ≤ leAt r 0x34 2) && (byteSlice r 0x36 138).all (fun b => decide (b = 0#8))
  && decide (107 * recCap r * 2 ^ 30 ≤ 100 * recRaw r)

/-- Another port holds a cartridge with this serial number, in whatever state (R361). -/
def serialHeld (p : Nat) (serial : List Byte) (s : State) : Bool :=
  (List.range 4).any (fun q => decide (q ≠ p) && (cartAuxOf q s).seated && decide ((cartAuxOf q s).serial = serial))

/-- The REASON for which step 2 of R360 rejects a cartridge (R347, R361, R368); 0 when it is accepted. -/
def identityReason (p : Nat) (i : CartIdentity) (s : State) : Nat :=
  if !i.readable then 1
  else if !Config.ed25519Verify Config.cartridgeKey (byteSlice i.record 0 0xC0) (byteSlice i.record 0xC0 64) then 2
  else if !recValid i.record then 3
  else if !i.geometryAgrees then 4
  else if serialHeld p (recSerial i.record) s then 7
  else 0

/-- The port takes the identity element under its dynamic address and reads the record and the wear counter (R344). -/
def readElement (p : Nat) (s : State) : State :=
  emit (.i3cRead p 0x0100 8) (emit (.i3cRead p 0x0000 256) (emit (.i3cSetdasa p 0x50 0x08) s))

/-- CART_PGOOD (R360 step 2, R344, R347, R357): the serial number of a record that is accepted is known, whatever else rejects the
cartridge. -/
def execCartPgood (p : PortNo) (i : CartIdentity) (s : State) : Host.Outcome State Fault Refusal :=
  .next (if getF (CART.CPSTAT_CSTATE p) s ≠ 1 || fatal s then s
    else
      let why := identityReason p i s
      let s := readElement p s
      let s := if why = 0 || 4 ≤ why then setCart p (fun a => { a with serial := recSerial i.record }) s else s
      if why ≠ 0 then rejectCart p why s
      else
        let s := setCart p (fun a => { a with written := i.wear * 10 ^ 9 }) s
        let s := setF (CART.CPCAP_CAPGIB p) (recCap i.record) (setF (CART.CPRATED_RATED p) (recRated i.record) s)
        setCommitted p i.wear (setF (CART.CPSTAT_CSTATE p) 2 s))

/-- CART_PGOOD_TIMEOUT (R361). -/
def execCartPgoodTimeout (p : PortNo) (s : State) : Host.Outcome State Fault Refusal :=
  .next (if getF (CART.CPSTAT_CSTATE p) s = 1 && decide (2 ^ 27 ≤ licSince 98 (cartAuxOf p s).pwrSince s) && !fatal s
    then rejectCart p 8 s else s)

/-- Index of the current life-cycle row (R688). -/
def currentRow (s : State) : Option Nat :=
  ((indexFrom 0 s.otp.rows).filter (fun r => r.2.valid)).getLast?.map (fun r => r.1)

/-- The keyhole holds a storage key (R687, R694). -/
def storageKey (s : State) : Bool := getF KEY.STAT_STATE s = 1 || getF KEY.STAT_STATE s = 2

/-- Spill-region slots (R264, R349). -/
def spillSlots (cap psize : Nat) : Nat := 16384 * ((cap - (64 + 16 * psize)) * 2 ^ 30 / (16384 * 66560))

/-- The persistent key of a label: this device unwraps what it has wrapped itself, under the storage key of the current row (R355, R694). -/
def unwrapLabel (l : CartLabel) (s : State) : Option (List Byte) :=
  if l.wrappedBy = deviceSerial then (currentRow s).bind (fun r => keyUnwrap (storageKeyOf r) l.wrapped) else none

/-- Rates at which an ONFI channel trains (R342). -/
def onfiRates : List Nat := [3600, 2400, 1600]

/-- The label of a cartridge: the first copy whose CRC holds, when its serial number is the identity record's (R350). -/
def labelOf (p : Nat) (i : CartInit) (s : State) : Option CartLabel :=
  ((i.labels.take 8).findSome? (fun l => l)).filter (fun l => decide (l.serial = (cartAuxOf p s).serial))

/-- Step 3 of R360: the channels are trained, the label is read and its key unwrapped. -/
def initialisePort (p : Nat) (i : CartInit) (s : State) : State :=
  if i.rates.length ≠ 8 || !i.rates.all (fun r => onfiRates.contains r) then rejectCart p 5 s
  else if !storageKey s then rejectCart p 6 s
  else
    let l := labelOf p i s
    let k := (l.bind (fun l => unwrapLabel l s)).getD []
    let s := setCart p (fun a => { a with rates := i.rates, label := l, persistKey := k }) s
    let s := forEach [0, 1, 2, 3] (fun k s => setF (CART.CPSERIAL_SERIAL p k) (leAt (cartAuxOf p s).serial (4 * k) 4) s) s
    setF (CART.CPSTAT_CSTATE p) 3 s

/-- Step 4 of R360: the maps are read, or the cartridge is unformatted (R350, R355). -/
def readyPort (p : Nat) (s : State) : State :=
  let s := setF (CART.CPSTAT_CSTATE p) 4 s
  match (cartAuxOf p s).label with
  | none => setF (CART.CPSTAT_UNFMT p) 1 s
  | some l =>
    let s := setF (CART.CPSTAT_FOREIGN p) (b2n (unwrapLabel l s).isNone) (setF (CART.CPCAP_PSIZE p) l.psize s)
    setF (CART.CPSLOTS_SLOTS p) (spillSlots (getF (CART.CPCAP_CAPGIB p) s) l.psize) s

/-- CART_INITIALISED (R360 steps 3 and 4, R342, R350, R355, R356): in CSTATE 2 step 3 ends, in CSTATE 3 step 4 (log 252). -/
def execCartInitialised (p : PortNo) (i : CartInit) (s : State) : Host.Outcome State Fault Refusal :=
  .next (if fatal s then s
    else if getF (CART.CPSTAT_CSTATE p) s = 2 then initialisePort p i s
    else if getF (CART.CPSTAT_CSTATE p) s = 3 then readyPort p s
    else s)

/-- Bytes of a label or map write: the spec states no length, so it is a free value (log 253). -/
def labelWrite (p : Nat) (s : State) : State :=
  let (n, s) := drawFree s
  programWhole p n s

/-- The orderly end of a port (R363): maps are written, the counter is committed to the written volume rounded up, and the supplies go
off. A rejected port stays so (R361). -/
def closePort (p : Nat) (s : State) : State :=
  if getF (CART.CPSTAT_CSTATE p) s = 5 then s
  else
    let s := if portReady p s && !cartWorn p s then labelWrite p s else s
    let v := ceilDiv (cartAuxOf p s).written (10 ^ 9)
    let s := if portReady p s && decide (getF (CART.CPWEAR_COMMITTED p) s < v) then setCommitted p v (writeCounter p v s) else s
    setF (CART.CPSTAT_SAFE p) 1 (emptyPort p s)

/-! Commands (R365). -/

/-- Why FORMAT or ERASEP cannot run (R365); 0 when it can. -/
def cartCmdErr (p : Nat) (s : State) : Nat :=
  if !portReady p s then 2
  else if portPanes p s ≠ 0 || s.inflight.any (chkpUses p) then 1
  else 0

/-- A new persistent key, wrapped in the label; the region reads as unwritten (R353, R365). -/
def newPersistKey (p psize : Nat) (s : State) : State :=
  let (k, s) := drawXts s
  let a := cartAuxOf p s
  let l : CartLabel := ⟨a.serial, psize, ((a.label.map (fun l => l.generation)).getD 0) + 1, deviceSerial,
    keyWrap (storageKeyOf ((currentRow s).getD 0)) k⟩
  let s := setCart p (fun a => { a with label := some l, persistKey := k }) s
  setF (CART.CPSTAT_FOREIGN p) 0 (wipeRange (persistBase a.serial) (persistBase a.serial + 2 ^ 46) s)

/-- The label of a cartridge is written: ERR 4 when it is worn, or when the commit for these bytes makes it so (R357, R358, R365). -/
def rewriteLabel (p psize : Nat) (f : State → State) (s : State) : State :=
  let t := labelWrite p s
  if cartWorn p t then setF (CART.CPCMD_ERR p) 4 t else f (newPersistKey p psize (setF (CART.CPCMD_ERR p) 0 t))

/-- FORMAT (R365, R366). -/
def execFormat (p : PortNo) (s : State) : Host.Outcome State Fault Refusal :=
  .next (hostWrite .late (fun s =>
    let psize := getF (CART.CPCMD_PSIZE p) s
    let err := if cartCmdErr p s ≠ 0 then cartCmdErr p s
      else if getF (CART.CPCAP_CAPGIB p) s < 32 * psize then 3
      else if cartWorn p s then 4 else 0
    let s := setF (CART.CPCMD_CMD p) 1 s
    if err ≠ 0 then setF (CART.CPCMD_ERR p) err s
    else rewriteLabel p psize (fun s => setF (CART.CPSTAT_UNFMT p) 0 (setF (CART.CPCAP_PSIZE p) psize
      (setF (CART.CPSLOTS_SLOTS p) (spillSlots (getF (CART.CPCAP_CAPGIB p) s) psize) (replaceSpill p s)))) s) s)

/-- ERASEP (R365): an unformatted cartridge has no label to rewrite and is left as it is. -/
def execErasep (p : PortNo) (s : State) : Host.Outcome State Fault Refusal :=
  .next (hostWrite .late (fun s =>
    let err := if cartCmdErr p s ≠ 0 then cartCmdErr p s else if cartWorn p s then 4 else 0
    let s := setF (CART.CPCMD_CMD p) 2 s
    if err ≠ 0 || (cartAuxOf p s).label.isNone then setF (CART.CPCMD_ERR p) err s
    else rewriteLabel p (getF (CART.CPCAP_PSIZE p) s) (fun s => s) s) s)

end Sys2Proof.Machine
end

