-- ==== Sys2Proof/Machine/Keyhole.lean ====
section
/-! DEFINITION. The keyhole (chapter 18): life-cycle rows, fuses, measurement, and the KEY commands. The reset that follows a
transition stands in Boot.lean. -/

namespace Sys2Proof.Machine

/-- The row in force (R688). -/
def lcRow (s : State) : Option LcRow := (s.otp.rows.filter (fun r => r.valid)).getLast?

/-- The current life-cycle state (R688). -/
def lcState (s : State) : Nat := ((lcRow s).map (fun r => r.code)).getD 0

/-- The owner key of the current row; zero when none (R687, R699). -/
def ownerKey (s : State) : List Byte := ((lcRow s).map (fun r => r.key)).getD (List.replicate 32 0#8)

/-- A key of zero bytes stands for none (R689). -/
def noKey (k : List Byte) : Bool := k.all (fun b => decide (b = 0#8))

/-- Bytes that an array of 32-bit registers holds: byte 4i in bits 7:0 of word i (R695). -/
def arrayBytes (f : Nat → Fld) (n : Nat) (s : State) : List Byte := (List.range n).flatMap (fun i => leBytes 4 (getF (f i) s))

/-- Write bytes to an array of 32-bit registers. -/
def setArray (f : Nat → Fld) (n : Nat) (bs : List Byte) (s : State) : State :=
  forEach (List.range n) (fun i s => setF (f i) (leAt bs (4 * i) 4) s) s

/-- KEY.STAT and OWNKEY show the current row (R696, R699). -/
def showLifeCycle (s : State) : State :=
  let s := setF KEY.STAT_STATE (lcState s) (setF KEY.STAT_ROWS (63 - min 63 s.otp.rows.length) s)
  let s := setF KEY.STAT_SIGREQ (b2n (((lcRow s).map (fun r => r.sigreq)).getD false)) s
  let s := setF KEY.STAT_OWNKEY (b2n (!noKey (ownerKey s))) s
  setArray KEY.OWNKEY_KEY 8 (ownerKey s) s

/-- KEY.FWSTAT shows the fuses (R697). -/
def showFuses (s : State) : State := setF KEY.FWSTAT_SVNMIN s.otp.svn (setF KEY.FWSTAT_REVOKED s.otp.revoked s)

/-- A record of the keyhole (R663: class security). -/
def keyRecord (sev : Nat) (detail : List Nat) (s : State) : State := errRecord clsSecurity sev 97 0 noUnit detail s

/-! Measurement (R683 to R685). -/

/-- The registers M0 and M1 as bytes. -/
def measured (r : Nat) (s : State) : List Byte := if r = 0 then arrayBytes KEY.M0_VALUE 16 s else arrayBytes KEY.M1_VALUE 16 s

/-- Extend measurement register `r` with a digest, of TYPE `kind` (R683, R685, R700). -/
def extend (r kind : Nat) (d : List Byte) (s : State) : State :=
  let m := sha512 (measured r s ++ d)
  let s := if r = 0 then setArray KEY.M0_VALUE 16 m s else setArray KEY.M1_VALUE 16 m s
  if s.measLog.length < 256 then
    let s := { s with measLog := s.measLog ++ [⟨r, kind, d⟩] }
    let s := setF KEY.MLSTAT_COUNT s.measLog.length s
    if s.measLog.length = 256 then setF KEY.MLSTAT_LOGFULL 1 s else s
  else satF KEY.MLSTAT_DROPPED 1 (setF KEY.MLSTAT_LOGFULL 1 s)

/-- The measurement registers and log start afresh (R683, R700). -/
def clearMeasurement (s : State) : State :=
  let s := setArray KEY.M0_VALUE 16 [] (setArray KEY.M1_VALUE 16 [] { s with measLog := [] })
  setF KEY.MLSTAT_COUNT 0 (setF KEY.MLSTAT_DROPPED 0 (setF KEY.MLSTAT_LOGFULL 0 s))

/-- The 80 bytes of a log entry (R685). -/
def measBytes (i : Nat) (e : MeasEntry) : List Byte :=
  leBytes 2 e.reg ++ leBytes 1 e.kind ++ leBytes 1 0 ++ leBytes 4 i ++ byteSlice e.digest 0 64 ++ leBytes 8 0

/-- The word that KEY.MLDATA shows (R700): zero beyond COUNT. -/
def mlData (i : Nat) (s : State) : Nat :=
  let n := getF KEY.MLSEL_ENTRY s
  match s.measLog[n]? with
  | some e => leAt (measBytes n e) (4 * i) 4
  | none => 0

/-- The 40-byte LIFECYCLE record (R684). -/
def lifeCycleRecord (s : State) : List Byte :=
  leBytes 1 (lcState s) ++ leBytes 1 (b2n (((lcRow s).map (fun r => r.sigreq)).getD false))
  ++ leBytes 2 ((currentRow s).getD Config.noRow) ++ leBytes 4 0 ++ byteSlice (ownerKey s) 0 32

/-! KEY.CMD (R682, R691, R692, R698). -/

/-- A command of KEY.CMD with GO: discarded with ERR 6 while GO reads 1 (R692). -/
def keyCommand (cmd : Nat) (f : State → State) (s : State) : State :=
  hostWrite .late (fun s => if flag KEY.CMD_GO s then setF KEY.CMD_ERR 6 s else f (setF KEY.CMD_CMD cmd s)) s

/-- NONCE (R691 step 1). -/
def execNonce (s : State) : Host.Outcome State Fault Refusal :=
  .next (keyCommand 1 (fun s =>
    let (n, s) := drawRandom 32 s
    setF KEY.CMD_ERR 0 (setF KEY.STAT_NONCEV 1 (setArray KEY.NONCE_NONCE 8 n s))) s)

/-- A transition from one state to another is allowed (R689). -/
def lcAllowed (fr tgt : Nat) : Bool :=
  match fr, tgt with
  | 0, 1 => true
  | 1, 0 => true
  | 1, 2 => true
  | 2, 2 => true
  | 2, 1 => true
  | 0, 3 => true
  | 1, 3 => true
  | 2, 3 => true
  | _, _ => false

/-- SIGREQ of the new row (R689). -/
def newSigreq (tgt : Nat) (s : State) : Bool := decide (tgt = 2) && flag KEY.LCTARGET_SIGREQ s

/-- The signed message (R690). -/
def lcMessage (row tgt : Nat) (s : State) : List Byte :=
  arrayBytes KEY.NONCE_NONCE 8 s ++ leBytes 8 deviceSerial ++ leBytes 2 row ++ leBytes 1 tgt ++ leBytes 1 (b2n (newSigreq tgt s))
  ++ leBytes 4 0 ++ arrayBytes KEY.LCKEY_KEY 8 s

/-- The key whose signature a transition needs (R689). -/
def lcSigner (fr tgt : Nat) (s : State) : Option (List Byte) :=
  if fr = 1 ∧ tgt = 2 then some (arrayBytes KEY.LCKEY_KEY 8 s)
  else if fr = 2 then some (ownerKey s)
  else none

/-- The owner key of the new row (R689). -/
def newOwner (fr tgt : Nat) (s : State) : List Byte :=
  if tgt = 2 ∨ (fr = 0 ∧ tgt = 1) then arrayBytes KEY.LCKEY_KEY 8 s
  else if fr = 2 ∧ tgt = 1 then ownerKey s
  else List.replicate 32 0#8

/-- The ERR code of a TRANSITION with a valid nonce (R688 to R690, R698); 0 when its checks pass. -/
def lcErr (s : State) : Nat :=
  let fr := lcState s
  let tgt := getF KEY.LCTARGET_TARGET s
  let row := s.otp.rows.length
  if !lcAllowed fr tgt then 2
  else if 64 ≤ row ∨ (row = 63 ∧ tgt ≠ 3) then 4
  else if tgt = 2 ∧ Config.ed25519KeyValid (arrayBytes KEY.LCKEY_KEY 8 s) = false then 5
  else match lcSigner fr tgt s with
    | some k => if Config.ed25519Verify k (lcMessage row tgt s) (arrayBytes KEY.LCSIG_SIG 16 s) then 0 else 3
    | none => 0

/-- TRANSITION (R691 step 2): the row's data is programmed; its valid word comes with LIFE_CYCLE_ROW_PROGRAMMED. -/
def execTransition (s : State) : Host.Outcome State Fault Refusal :=
  .next (keyCommand 2 (fun s =>
    let err := if flag KEY.STAT_NONCEV s then lcErr s else 1
    let s := setF KEY.STAT_NONCEV 0 s
    if err ≠ 0 then keyRecord 1 [] (setF KEY.CMD_ERR err s)
    else
      let fr := lcState s
      let tgt := getF KEY.LCTARGET_TARGET s
      let s := { s with otp := { s.otp with rows := s.otp.rows ++ [⟨tgt, newSigreq tgt s, newOwner fr tgt s, false⟩] }, lcPending := true }
      showLifeCycle (setF KEY.CMD_GO 1 (setF KEY.CMD_ERR 0 s))) s)

/-- COMMITSVN (R682). -/
def execCommitsvn (s : State) : Host.Outcome State Fault Refusal :=
  .next (keyCommand 3 (fun s =>
    let svn := getF KEY.FWSTAT_SVN s
    if lcState s = 3 ∨ svn ≤ s.otp.svn then setF KEY.CMD_ERR 2 s
    else showFuses (setF KEY.CMD_ERR 0 { s with otp := { s.otp with svn := svn } })) s)

/-- REVOKE (R682). -/
def execRevoke (s : State) : Host.Outcome State Fault Refusal :=
  .next (keyCommand 4 (fun s =>
    let k := getF KEY.LCTARGET_KEYIDX s
    if lcState s = 3 ∨ k = getF KEY.FWSTAT_KEYIDX s ∨ bitOf s.otp.revoked k = true then setF KEY.CMD_ERR 2 s
    else showFuses (setF KEY.CMD_ERR 0 { s with otp := { s.otp with revoked := s.otp.revoked ||| 2 ^ k } })) s)

/-- The data of the last row has its valid word (R691 step 3): the transition has happened. -/
def rowValid (s : State) : State :=
  let old := (currentRow s).getD Config.noRow
  let new := s.otp.rows.length - 1
  let s := { s with otp := { s.otp with rows := (indexFrom 0 s.otp.rows).map (fun r => if r.1 = new then { r.2 with valid := true } else r.2) }, lcPending := false }
  keyRecord 0 [old, new] (showLifeCycle s)

/-- The row could not be programmed (R698, ERR 7): it counts as used and the state is unchanged (R688). -/
def rowFailed (s : State) : State := setF KEY.CMD_GO 0 (setF KEY.CMD_ERR 7 { s with lcPending := false })

/-- KEYHOLE_INTEGRITY_FAILURE (R666, R667, R679). -/
def execKeyholeIntegrityFailure (s : State) : Host.Outcome State Fault Refusal :=
  .next (if inHold s then s else enterFatal 2 97 s)

end Sys2Proof.Machine
end

