-- ==== Sys2Proof/Machine/Transc.lean ====
section
/-! DEFINITION. Square root, division and the transcendental operations (R218 to R221): integers bound the exact result from
both sides, with precision doubled until both bounds round to one binary32 value. -/

namespace Sys2Proof.Machine

/-! Exact quotients and roots with a sticky bit: the value lies strictly inside the last place when the last bit is 1. -/

/-- One Newton descent to the integer square root. -/
def isqrtGo (n : Nat) : Nat → Nat → Nat
  | 0, x => x
  | fuel + 1, x =>
    let y := (x + n / x) / 2
    if y < x then isqrtGo n fuel y else x

/-- The integer square root. -/
def isqrt (n : Nat) : Nat := if n = 0 then 0 else isqrtGo n 128 (2 ^ (Nat.log2 n / 2 + 1))

/-- The square root of a positive magnitude, with a sticky bit far below any format's precision. -/
def sqrtMag (m : Nat) (e : Int) : Num :=
  let (m, e) := if e % 2 = 0 then (m, e) else (2 * m, e - 1)
  let n := m * 2 ^ 256
  let q := isqrt n
  .fin false (2 * q + b2n (decide (q * q ≠ n))) (e / 2 - 129)

/-- The quotient of two magnitudes, the divisor not zero. -/
def divMag (neg : Bool) (m : Nat) (e : Int) (m' : Nat) (e' : Int) : Num :=
  let n := m * 2 ^ 256
  .fin neg (2 * (n / m') + b2n (decide (n % m' ≠ 0))) (e - e' - 257)

/-- 1/√x of a positive magnitude (R218). -/
def rsqrtMag (m : Nat) (e : Int) : Num :=
  let (m, e) := if e % 2 = 0 then (m, e) else (2 * m, e - 1)
  let q := isqrt (2 ^ 512 / m)
  .fin false (2 * q + b2n (decide (q * q * m ≠ 2 ^ 512))) (-(e / 2) - 257)

/-! Intervals at a scale of 2^-P. -/

abbrev IV := Int × Int

def ivAdd (a b : IV) : IV := (a.1 + b.1, a.2 + b.2)
def ivNeg (a : IV) : IV := (-a.2, -a.1)
def ivSub (a b : IV) : IV := ivAdd a (ivNeg b)
def ivWiden (k : Int) (a : IV) : IV := (a.1 - k, a.2 + k)
def ivScale (k : Int) (a : IV) : IV := if 0 ≤ k then (a.1 * k, a.2 * k) else (a.2 * k, a.1 * k)
/-- Divide by 2^P, outwards. -/
def ivShift (p : Nat) (a : IV) : IV := (a.1 / 2 ^ p, -((-a.2) / 2 ^ p))
def ivDivNat (a : IV) (n : Nat) : IV := (a.1 / n, -((-a.2) / n))
def ivMul (p : Nat) (a b : IV) : IV :=
  let w := a.1 * b.1
  let x := a.1 * b.2
  let y := a.2 * b.1
  let z := a.2 * b.2
  ivShift p (min (min w x) (min y z), max (max w x) (max y z))
/-- Divide by a positive interval, outwards. -/
def ivDiv (p : Nat) (a b : IV) : IV :=
  let q (x y : Int) : IV := (x * 2 ^ p / y, -((-x) * 2 ^ p / y))
  let c := [q a.1 b.1, q a.1 b.2, q a.2 b.1, q a.2 b.2]
  (c.foldl (fun m x => min m x.1) (q a.1 b.1).1, c.foldl (fun m x => max m x.2) (q a.1 b.1).2)
/-- A dyadic value. -/
def ivOf (p : Nat) (neg : Bool) (m : Nat) (e : Int) : IV :=
  let k := e + p
  let a : IV := if 0 ≤ k then ((m * 2 ^ k.toNat : Nat), (m * 2 ^ k.toNat : Nat)) else ivShift (-k).toNat ((m : Int), (m : Int))
  if neg then ivNeg a else a

/-- A series whose terms at least halve once `n` reaches `nmin`: it stops at terms of at most two units and bounds the rest. -/
def ivSeries (nmin : Nat) (next contrib : Nat → IV → IV) : Nat → Nat → IV → IV → IV
  | 0, _, t, sum => ivWiden (8 + t.1.natAbs + t.2.natAbs : Nat) sum
  | fuel + 1, n, t, sum =>
    let t' := next n t
    let sum' := ivAdd sum (contrib n t')
    if nmin ≤ n && decide (t'.1.natAbs ≤ 2) && decide (t'.2.natAbs ≤ 2) then ivWiden 8 sum'
    else ivSeries nmin next contrib fuel (n + 1) t' sum'

/-- Σ w (±(p/q)²)^n / (2n + 1) with w the first term, each term cut off to an integer; the number of terms bounds the error. -/
def oddSeries (alt : Bool) (p q : Nat) : Nat → Nat → Nat → Int → Int × Nat
  | 0, n, _, sum => (sum, n)
  | fuel + 1, n, w, sum =>
    if w = 0 then (sum, n)
    else
      let c : Int := (w / (2 * n + 1) : Nat)
      oddSeries alt p q fuel (n + 1) (w * (p * p) / (q * q)) (if alt && decide (n % 2 = 1) then sum - c else sum + c)

/-- atanh(p/q) or atan(p/q) for 0 ≤ p/q ≤ 1/3. -/
def oddIv (pr : Nat) (alt : Bool) (p q : Nat) : IV :=
  let (s, n) := oddSeries alt p q (pr + 2) 0 (p * 2 ^ pr / q) 0
  ivWiden (3 * n + 4 : Nat) (s, s)

def ln2Iv (p : Nat) : IV := ivScale 2 (oddIv p false 1 3)
def piIv (p : Nat) : IV := ivSub (ivScale 16 (oddIv p true 1 5)) (ivScale 4 (oddIv p true 1 239))
/-- √π. -/
def sqrtPiIv (p : Nat) : IV :=
  let x := piIv p
  ((isqrt (x.1.toNat * 2 ^ p) : Nat), (isqrt (x.2.toNat * 2 ^ p) + 1 : Nat))

/-- e^r for |r| below 1. -/
def expSmall (p : Nat) (r : IV) : IV :=
  let one : IV := (2 ^ p, 2 ^ p)
  ivSeries 2 (fun n t => ivDivNat (ivMul p t r) n) (fun _ t => t) (p + 20) 1 one one

/-- e^x as an interval and a power of two. -/
def expIv (p : Nat) (x : IV) : IV × Int :=
  let l := ln2Iv p
  let k := (2 * x.1 + l.1) / (2 * l.1)
  (expSmall p (ivSub x (ivScale k l)), k)

/-- e^x at the scale of 2^-P, for x at most 0. -/
def expNeg (p : Nat) (x : IV) : IV :=
  let (v, k) := expIv p x
  if k ≤ 0 then ivShift (-k).toNat v else ivScale (2 ^ k.toNat) v

/-- ln of m × 2^e, m not zero. -/
def logIv (p : Nat) (m : Nat) (e : Int) : IV :=
  let b := Nat.log2 m
  -- m = 2^b × f with f in [1, 2); halve f when it is at least 4/3
  let (b, d) := if 3 * m < 4 * 2 ^ b then (b, 2 ^ b) else (b + 1, 2 ^ (b + 1))
  let k : Int := e + b
  let z := if d ≤ m then oddIv p false (m - d) (m + d) else ivNeg (oddIv p false (d - m) (m + d))
  ivAdd (ivScale k (ln2Iv p)) (ivScale 2 z)

/-- The quadrant and the rest of x by π/2, x = ± m × 2^e. -/
def quadrant (p : Nat) (neg : Bool) (m : Nat) (e : Int) : Int × IV :=
  let w := p + 160
  let x := ivOf w neg m e
  let half := piIv w
  -- half is π at scale w; π/2 is half / 2
  let k := (4 * x.1 + half.1) / (2 * half.1)
  let r := ivSub (ivScale 2 x) (ivScale k half)
  (k, ivShift 161 r)

def sinSmall (p : Nat) (r : IV) : IV :=
  let r2 := ivMul p r r
  ivSeries 1 (fun n t => ivNeg (ivDivNat (ivMul p t r2) (2 * n * (2 * n + 1)))) (fun _ t => t) (p + 20) 1 r r
def cosSmall (p : Nat) (r : IV) : IV :=
  let one : IV := (2 ^ p, 2 ^ p)
  let r2 := ivMul p r r
  ivSeries 1 (fun n t => ivNeg (ivDivNat (ivMul p t r2) ((2 * n - 1) * (2 * n)))) (fun _ t => t) (p + 20) 1 one one

/-- sin x or cos x. -/
def sinCosIv (p : Nat) (cos neg : Bool) (m : Nat) (e : Int) : IV :=
  let (k, r) := quadrant p neg m e
  match ((k + (if cos then 1 else 0)) % 4).toNat with
  | 0 => sinSmall p r
  | 1 => cosSmall p r
  | 2 => ivNeg (sinSmall p r)
  | _ => ivNeg (cosSmall p r)

/-- (√π/2) erf x from its Taylor series. -/
def erfSeries (p : Nat) (x : IV) : IV :=
  let x2 := ivMul p x x
  let nmin := (2 * x2.2 / 2 ^ p).toNat + 2
  ivSeries nmin (fun n t => ivNeg (ivDivNat (ivMul p t x2) n)) (fun n t => ivDivNat t (2 * n + 1)) (p + 2 * nmin + 20) 1 x x

def erfIv (p : Nat) (x : IV) : IV := ivDiv p (ivScale 2 (erfSeries p x)) (sqrtPiIv p)

/-- Φ(x) = (1 + erf(x/√2))/2. -/
def phiIv (p : Nat) (x : IV) : IV :=
  let r2 : IV := ((isqrt (2 * 2 ^ (2 * p)) : Nat), (isqrt (2 * 2 ^ (2 * p)) + 1 : Nat))
  let one : IV := (2 ^ p, 2 ^ p)
  ivShift 1 (ivAdd one (erfIv p (ivDiv p x r2)))

/-! Rounding. -/

/-- Bounds that round to one binary32 value with the same flags: an irrational value lies between them (R220, R221). -/
def roundIv (flush : Bool) (v : IV) (e : Int) : Option (Nat × Nat) :=
  let enc (i : Int) : Nat × Nat := encode 0 flush (Num.ofInt false i (e - 2))
  let a := enc (4 * v.1 - 1)
  let b := enc (4 * v.2 + 1)
  if a.1 = b.1 && decide (a.2 ||| fINEXACT = b.2 ||| fINEXACT) && decide (0 < v.1 * v.2) then some (a.1, a.2 ||| fINEXACT) else none

/-- Double the precision until the bounds agree. -/
def ziv (flush : Bool) (f : Nat → IV × Int) : Nat → Nat → Nat × Nat
  | 0, p => let (v, e) := f p; let r := encode 0 flush (Num.ofInt false (2 * v.1 + 1) (e - 1)); (r.1, r.2 ||| fINEXACT)
  | fuel + 1, p =>
    let (v, e) := f p
    match roundIv flush v e with
    | some r => r
    | none => ziv flush f fuel (2 * p)

/-- A result known only to lie far above, far below, or next to a representable value: ± (m × 2^e), not exact. -/
def nearly (flush : Bool) (neg : Bool) (m : Nat) (e : Int) : Nat × Nat :=
  let r := encode 0 flush (.fin neg m e); (r.1, r.2 ||| fINEXACT)
def nearHuge (flush : Bool) : Nat × Nat := nearly flush false 1 200
def nearZero (flush : Bool) : Nat × Nat := nearly flush false 1 (-200)
def nearOne (flush neg : Bool) : Nat × Nat := nearly flush neg (2 ^ 60 - 1) (-60)

/-- The transcendental operations of R218 whose results this file forms. -/
inductive TOp where
  | exp | exp2 | log | log2 | rcp | rsqrt | sin | cos | tanh | sigmoid | erf | phi
deriving DecidableEq, Repr

/-- The exact value is above `n` in magnitude: compare m × 2^e with an integer. -/
def magAbove (m : Nat) (e : Int) (n : Nat) : Bool := decide (cmpMag m e n 0 = .gt)

/-- The correctly rounded result for a finite non-zero input ± m × 2^e (R220, R221). -/
def transcFinite (op : TOp) (flush neg : Bool) (m : Nat) (e : Int) : Nat × Nat :=
  let nan := (canonNan 0, fINVALID)
  let go (f : Nat → IV × Int) : Nat × Nat := ziv flush f 6 160
  let fixed (f : Nat → IV) : Nat × Nat := go (fun p => (f p, -(p : Int)))
  let withExp (f : Nat → IV × Int) : Nat × Nat := go (fun p => let (v, k) := f p; (v, k - p))
  match op with
  | .exp =>
    if magAbove m e 120 then (if neg then nearZero flush else nearHuge flush)
    else withExp (fun p => expIv p (ivOf p neg m e))
  | .exp2 =>
    if magAbove m e 170 then (if neg then nearZero flush else nearHuge flush)
    else
      let k := (ivOf 0 neg m e).1
      if cmpMag m e k.natAbs 0 = .eq then encode 0 flush (.fin false 1 k)
      else withExp (fun p =>
        let f := ivSub (ivOf p neg m e) (ivScale (2 ^ p) (k, k))
        (expSmall p (ivMul p f (ln2Iv p)), k))
  | .log =>
    if neg then nan
    else if cmpMag m e 1 0 = .eq then (0, 0)
    else fixed (fun p => logIv p m e)
  | .log2 =>
    if neg then nan
    else if m = 2 ^ Nat.log2 m then encode 0 flush (Num.ofInt false (ilog m e) 0)
    else fixed (fun p => ivDiv p (logIv p m e) (ln2Iv p))
  | .rcp => encode 0 flush (divMag neg 1 0 m e)
  | .rsqrt => if neg then nan else encode 0 flush (rsqrtMag m e)
  | .sin => fixed (fun p => sinCosIv p false neg m e)
  | .cos => fixed (fun p => sinCosIv p true neg m e)
  | .tanh =>
    if magAbove m e 30 then nearOne flush neg
    else fixed (fun p =>
      let t := expNeg p (ivScale (-2) (ivOf p false m e))
      let one : IV := (2 ^ p, 2 ^ p)
      let r := ivDiv p (ivSub one t) (ivAdd one t)
      if neg then ivNeg r else r)
  | .sigmoid =>
    if magAbove m e 120 then (if neg then nearZero flush else nearOne flush false)
    else fixed (fun p =>
      let t := expNeg p (ivNeg (ivOf p false m e))
      let one : IV := (2 ^ p, 2 ^ p)
      ivDiv p (if neg then t else one) (ivAdd one t))
  | .erf => if magAbove m e 6 then nearOne flush neg else fixed (fun p => erfIv p (ivOf p neg m e))
  | .phi =>
    if magAbove m e 16 then (if neg then nearZero flush else nearOne flush false)
    else fixed (fun p => phiIv p (ivOf p neg m e))

/-- A transcendental operation on a binary32 value (R220, R221): bits and flags. -/
def transc (op : TOp) (flush : Bool) (x : Num) : Nat × Nat :=
  match x with
  | .nan => (canonNan 0, 0)
  | .inf neg =>
    match op with
    | .exp => (if neg then 0 else infBits 0 false, 0)
    | .exp2 => (if neg then 0 else infBits 0 false, 0)
    | .log => if neg then (canonNan 0, fINVALID) else (infBits 0 false, 0)
    | .log2 => if neg then (canonNan 0, fINVALID) else (infBits 0 false, 0)
    | .rcp => (zeroBits 0 neg, 0)
    | .rsqrt => if neg then (canonNan 0, fINVALID) else (0, 0)
    | .sin => (canonNan 0, fINVALID)
    | .cos => (canonNan 0, fINVALID)
    | .tanh => (b2n neg * 2 ^ 31 + 0x3F800000, 0)
    | .sigmoid => (if neg then 0 else 0x3F800000, 0)
    | .erf => (b2n neg * 2 ^ 31 + 0x3F800000, 0)
    | .phi => (if neg then 0 else 0x3F800000, 0)
  | .fin neg m e =>
    if m = 0 then
      match op with
      | .exp => (0x3F800000, 0)
      | .exp2 => (0x3F800000, 0)
      | .log => (infBits 0 true, fDIVZERO)
      | .log2 => (infBits 0 true, fDIVZERO)
      | .rcp => (infBits 0 neg, fDIVZERO)
      | .rsqrt => (infBits 0 neg, fDIVZERO)
      | .sin => (zeroBits 0 neg, 0)
      | .cos => (0x3F800000, 0)
      | .tanh => (zeroBits 0 neg, 0)
      | .sigmoid => (0x3F000000, 0)
      | .erf => (zeroBits 0 neg, 0)
      | .phi => (0x3F000000, 0)
    else transcFinite op flush neg m e

end Sys2Proof.Machine
end

