-- ==== Sys2Proof/Machine/VecOps.lean ====
section
/-! DEFINITION. The arithmetic of the vector engine (chapter 06): elementwise operations, the reduction tree, and the line operations
of softmax, normalisation and loss. Values are exact values of the working precision, 0 binary32 or 1 binary64 (R214). -/

namespace Sys2Proof.Machine

/-- Round an exact value to the working precision (R215, R216, R217): value and flags. -/
def wround (wp : Nat) (rm : Rm) (flush : Bool) (x : Num) : Num × Nat :=
  let (b, f) := encodeWith wp rm flush false x
  ((decodeBits wp 127 b).num, f)

/-- The sign of an exact zero sum of opposite signs (R115). -/
def zsign (rm : Rm) : Bool := decide (rm = .rdn)

/-- x + y exactly, with the special values of IEEE 754-2019 addition (R219). -/
def addX (rm : Rm) (x y : Num) : Num × Nat :=
  if x.isNan || y.isNan then (.nan, 0)
  else if x.isInf && y.isInf then (if x.neg = y.neg then (x, 0) else (.nan, fINVALID))
  else if x.isInf then (x, 0)
  else if y.isInf then (y, 0)
  else (addFin (zsign rm) x y, 0)

/-- x × y exactly (R219). -/
def mulX (x y : Num) : Num × Nat :=
  if x.isNan || y.isNan then (.nan, 0)
  else if (x.isZero && y.isInf) || (x.isInf && y.isZero) then (.nan, fINVALID)
  else if x.isInf || y.isInf then (.inf (x.neg != y.neg), 0)
  else (mulFin x y, 0)

def negX : Num → Num
  | .nan => .nan
  | .inf s => .inf (!s)
  | .fin s m e => .fin (!s) m e

/-- Round the result of an exact operation. -/
def rounded (wp : Nat) (rm : Rm) (flush : Bool) (r : Num × Nat) : Num × Nat :=
  let (v, f) := wround wp rm flush r.1; (v, r.2 ||| f)

def vAdd (wp : Nat) (rm : Rm) (flush : Bool) (x y : Num) : Num × Nat := rounded wp rm flush (addX rm x y)
def vMul (wp : Nat) (rm : Rm) (flush : Bool) (x y : Num) : Num × Nat := rounded wp rm flush (mulX x y)

/-- x × y + z with one rounding; zero times an infinity is INVALID whatever z is (R219). -/
def vFma (wp : Nat) (rm : Rm) (flush : Bool) (x y z : Num) : Num × Nat :=
  if (x.isZero && y.isInf) || (x.isInf && y.isZero) then (.nan, fINVALID)
  else
    let (p, f) := mulX x y
    let (r, f') := addX rm p z
    rounded wp rm flush (r, f ||| f')

def vDiv (wp : Nat) (rm : Rm) (flush : Bool) (x y : Num) : Num × Nat :=
  if x.isNan || y.isNan then (.nan, 0)
  else if (x.isZero && y.isZero) || (x.isInf && y.isInf) then (.nan, fINVALID)
  else
    let s := x.neg != y.neg
    if x.isInf then (.inf s, 0)
    else if y.isInf then (.zero s, 0)
    else if y.isZero then (.inf s, fDIVZERO)
    else if x.isZero then (.zero s, 0)
    else match x, y with
      | .fin _ m e, .fin _ m' e' => rounded wp rm flush (divMag s m e m' e', 0)
      | _, _ => (.nan, 0)

def vSqrt (wp : Nat) (rm : Rm) (flush : Bool) (x : Num) : Num × Nat :=
  match x with
  | .nan => (.nan, 0)
  | .inf neg => if neg then (.nan, fINVALID) else (x, 0)
  | .fin neg m e =>
    if m = 0 then (x, 0) else if neg then (.nan, fINVALID) else rounded wp rm flush (sqrtMag m e, 0)

/-- IEEE 754-2019 minimum and maximum: NaN propagates and −0 is below +0 (R218). -/
def vMin (x y : Num) : Num :=
  if x.isNan || y.isNan then .nan
  else match cmpNum x y with
    | .lt => x
    | .gt => y
    | .eq => if x.neg then x else y
def vMax (x y : Num) : Num :=
  if x.isNan || y.isNan then .nan
  else match cmpNum x y with
    | .lt => y
    | .gt => x
    | .eq => if x.neg then y else x

/-- A transcendental step on a value of the working precision; in binary64 its argument is first rounded to binary32 (R220, R225). -/
def vTransc (wp : Nat) (op : TOp) (flush : Bool) (x : Num) : Num × Nat :=
  let (a, f) := if wp = 1 then wround 0 .rne flush x else (x, 0)
  let (b, f') := transc op flush a
  ((decodeBits 0 127 b).num, f ||| f')

/-- GELU and SILU: x times a factor, each rounded once; an infinite x is special (R218, R221). DESIGN CHOICE (log 259): the flags of the
factor's rounding count in the result's. -/
def vGated (op : TOp) (flush : Bool) (x : Num) : Num × Nat :=
  match x with
  | .inf neg => (if neg then .zero true else x, 0)
  | _ =>
    let (g, f) := vTransc 0 op flush x
    let (y, f') := vMul 0 .rne flush x g
    (y, f ||| f')

/-- An elementwise operation of R218 other than COPYSIGN's sign: value and flags in the working precision. -/
def elemOp (op wp : Nat) (rm : Rm) (flush : Bool) (imm0 imm1 : Num) (ysign : Bool) (x y z : Num) : Num × Nat :=
  match op with
  | 0x01 => (negX x, 0)
  | 0x02 => (x.withSign false, 0)
  | 0x03 => (x.withSign ysign, 0)
  | 0x10 => vAdd wp rm flush x y
  | 0x11 => vAdd wp rm flush x (negX y)
  | 0x12 => vMul wp rm flush x y
  | 0x13 => vFma wp rm flush x y z
  | 0x14 => vDiv wp rm flush x y
  | 0x15 => vSqrt wp rm flush x
  | 0x16 => (vMin x y, 0)
  | 0x17 => (vMax x y, 0)
  | 0x18 => vFma wp rm flush x imm0 imm1
  | 0x19 => (vMax x (.zero false), 0)
  | 0x20 => vTransc wp .exp flush x
  | 0x21 => vTransc wp .exp2 flush x
  | 0x22 => vTransc wp .log flush x
  | 0x23 => vTransc wp .log2 flush x
  | 0x24 => vTransc wp .rcp flush x
  | 0x25 => vTransc wp .rsqrt flush x
  | 0x26 => vTransc wp .sin flush x
  | 0x27 => vTransc wp .cos flush x
  | 0x28 => vTransc wp .tanh flush x
  | 0x29 => vTransc wp .sigmoid flush x
  | 0x2A => vTransc wp .erf flush x
  | 0x2B => vGated .phi flush x
  | 0x2C => vGated .sigmoid flush x
  | _ => (x, 0)

/-! The reduction tree (R222, R223, R239). Flags are kept with the index of the unit's first element that they belong to; those of
levels above a unit of 64 chunks, and of per-line values, have none. -/

abbrev LFlags := List (Option Nat × Nat)

inductive Red where
  | sum | sumsq | max | min | amax
deriving DecidableEq, Repr

/-- The exact sum of present elements, with IEEE special values and zero signs (R223). -/
def exactSum (vs : List Num) : Num × Nat :=
  if vs.any (fun v => v.isNan) then (.nan, 0)
  else
    let p := vs.any (fun v => v.isInf && !v.neg)
    let n := vs.any (fun v => v.isInf && v.neg)
    if p && n then (.nan, fINVALID)
    else if p then (.inf false, 0)
    else if n then (.inf true, 0)
    else match vs with
      | [] => (.zero false, 0)
      | v :: t => (t.foldl (fun a x => addFin false a x) v, 0)

/-- The square of an element, exactly. -/
def square (x : Num) : Num := (mulX x x).1

/-- A chunk of present elements (R222, R223). -/
def chunkOf (op : Red) (wp : Nat) (flush : Bool) (vs : List Num) : Num × Nat :=
  match op with
  | .sum => rounded wp .rne flush (exactSum vs)
  | .sumsq => rounded wp .rne flush (exactSum (vs.map square))
  | .max => (match vs with | [] => .nan | v :: t => t.foldl vMax v, 0)
  | .min => (match vs with | [] => .nan | v :: t => t.foldl vMin v, 0)
  | .amax => (match vs.map (Num.withSign false) with | [] => .nan | v :: t => t.foldl vMax v, 0)

/-- Combine two nodes (R222). -/
def combine (op : Red) (wp : Nat) (flush : Bool) (x y : Num) : Num × Nat :=
  match op with
  | .sum => vAdd wp .rne flush x y
  | .sumsq => vAdd wp .rne flush x y
  | .min => (vMin x y, 0)
  | _ => (vMax x y, 0)

/-- One level of the tree: nodes of level `lev`, `j` the index of the next pair. -/
def treeLevel (op : Red) (wp : Nat) (flush : Bool) (lev : Nat) : Nat → List (Option Num) → List (Option Num) × LFlags
  | _, [] => ([], [])
  | _, [x] => ([x], [])
  | j, a :: b :: t =>
    let (ns, fs) := treeLevel op wp flush lev (j + 1) t
    match a, b with
    | some x, some y =>
      let (v, f) := combine op wp flush x y
      (some v :: ns, ((if lev ≤ 6 then some (j * 2 ^ lev / 64 * 2048) else none), f) :: fs)
    | some x, none => (some x :: ns, fs)
    | none, y => (y :: ns, fs)

def treeGo (op : Red) (wp : Nat) (flush : Bool) : Nat → Nat → List (Option Num) → LFlags → Option Num × LFlags
  | 0, _, ns, fs => (ns.headD none, fs)
  | fuel + 1, lev, ns, fs =>
    if ns.length ≤ 1 then (ns.headD none, fs)
    else
      let (ns', fs') := treeLevel op wp flush lev 0 ns
      treeGo op wp flush fuel (lev + 1) ns' (fs ++ fs')

/-- Split into runs of 32. -/
def chunks32 {α : Type} : Nat → List α → List (List α)
  | 0, _ => []
  | fuel + 1, l => if l.isEmpty then [] else l.take 32 :: chunks32 fuel (l.drop 32)

/-- What an axis without a present element gives (R222). -/
def redEmpty : Red → Num
  | .max => .inf true
  | .min => .inf false
  | _ => .zero false

/-- reduce (R222): none marks an element that is not present. -/
def reduceTree (op : Red) (wp : Nat) (flush : Bool) (vs : List (Option Num)) : Num × LFlags :=
  let cs := (indexFrom 0 (chunks32 (vs.length / 32 + 1) vs)).map (fun p =>
    match p.2.filterMap id with
    | [] => (none, (none, 0))
    | l => let (v, f) := chunkOf op wp flush l; (some v, (some (p.1 / 64 * 2048), f)))
  let (r, fs) := treeGo op wp flush 32 1 (cs.map (fun c => c.1)) (cs.map (fun c => c.2))
  match r with
  | some v => (v, fs)
  | none => (redEmpty op, [])

/-! Line operations (R225 to R227). -/

/-- Apply a step to each present element, its flags kept with its index. -/
def mapPresent (f : Nat → Num → Num × Nat) (vs : List (Option Num)) : List (Option Num) × LFlags :=
  let r := (indexFrom 0 vs).map (fun p => match p.2 with
    | none => (none, (some p.1, 0))
    | some x => let (v, fl) := f p.1 x; (some v, (some p.1, fl)))
  (r.map (fun x => x.1), r.map (fun x => x.2))

/-- An integer of the reals as a value. -/
def natNum (n : Nat) : Num := .fin false n 0

/-- The target of a loss line: an integer value from 0 to `l` - 1 (R226). -/
def targetOf (t : Num) (l : Nat) : Option Nat :=
  match t with
  | .fin neg m e =>
    if m = 0 then some 0
    else if neg then none
    else
      let (k, _, exact) := shiftTo m e 0
      if exact && decide (k < l) then some k else none
  | _ => none

/-- One line of operations 0x30 to 0x44 (R222 to R227): results by index (index 0 for a reduced line; none where MFILL writes), flags,
and how many transcendental results were formed. `gamma` and `beta` are by index, `tgt` the line's target. -/
def lineOp (op wp : Nat) (flush : Bool) (imm0 : Num) (xs : List (Option Num)) (gamma beta : Nat → Num) (tgt : Num) :
    List (Option Num) × LFlags × Nat :=
  let add := vAdd wp .rne flush
  let sub (x y : Num) := vAdd wp .rne flush x (negX y)
  let mul := vMul wp .rne flush
  let div := vDiv wp .rne flush
  let one : Num := .fin false 1 0
  let p := (xs.filterMap id).length
  let red (r : Red) : List (Option Num) × LFlags × Nat :=
    let (v, f) := reduceTree r wp flush xs; ([some v], f, 0)
  let soft : Num × List (Option Num) × Num × LFlags :=
    let (m, f1) := reduceTree .max wp flush xs
    let (e, f2) := mapPresent (fun _ x =>
      let (d, g1) := sub x m
      let (e, g2) := vTransc wp .exp flush d
      (e, g1 ||| g2)) xs
    let (s, f3) := reduceTree .sum wp flush e
    (m, e, s, f1 ++ f2 ++ f3)
  let nanLine : List (Option Num) := xs.map (fun x => x.map (fun _ => Num.nan))
  let present (i : Nat) : Bool := (xs.getD i none).isSome
  match op with
  | 0x30 => red .sum
  | 0x31 => red .sumsq
  | 0x32 => red .max
  | 0x33 => red .min
  | 0x34 => red .amax
  | 0x40 =>
    if p = 0 then (xs, [], 0)
    else
      let (_, e, s, f) := soft
      let (y, f') := mapPresent (fun _ x => div x s) e
      (y, f ++ f', p)
  | 0x41 =>
    if p = 0 then (xs, [], 0)
    else
      let (sm, f1) := reduceTree .sum wp flush xs
      let (mu, g1) := div sm (natNum p)
      let (d, f2) := mapPresent (fun _ x => sub x mu) xs
      let (sq, f3) := reduceTree .sumsq wp flush d
      let (v, g2) := div sq (natNum p)
      let (t, g3) := add v imm0
      let (r, g4) := vTransc wp .rsqrt flush t
      let (y, f4) := mapPresent (fun i x =>
        let (a, h1) := mul x r
        let (b, h2) := vFma wp .rne flush a (gamma i) (beta i)
        (b, h1 ||| h2)) d
      (y, f1 ++ f2 ++ f3 ++ f4 ++ [(none, g1 ||| g2 ||| g3 ||| g4)], 1)
  | 0x42 =>
    if p = 0 then (xs, [], 0)
    else
      let (sq, f1) := reduceTree .sumsq wp flush xs
      let (v, g1) := div sq (natNum p)
      let (t, g2) := add v imm0
      let (r, g3) := vTransc wp .rsqrt flush t
      let (y, f2) := mapPresent (fun i x =>
        let (a, h1) := mul x r
        let (b, h2) := mul a (gamma i)
        (b, h1 ||| h2)) xs
      (y, f1 ++ f2 ++ [(none, g1 ||| g2 ||| g3)], 1)
  | 0x43 =>
    if p = 0 then ([some (.zero false)], [], 0)
    else match (targetOf tgt xs.length).filter present with
      | none => ([some .nan], [(none, fINVALID)], 0)
      | some i =>
        let (m, _, s, f) := soft
        let (l, g1) := vTransc wp .log flush s
        let (a, g2) := add m l
        let (r, g3) := sub a ((xs.getD i none).getD .nan)
        ([some r], f ++ [(none, g1 ||| g2 ||| g3)], p + 1)
  | _ =>
    if p = 0 then (xs, [], 0)
    else match (targetOf tgt xs.length).filter present with
      | none => (nanLine, [(none, fINVALID)], 0)
      | some i =>
        let (_, e, s, f) := soft
        let (y, f') := mapPresent (fun j x =>
          let (a, h1) := div x s
          let (b, h2) := sub a (if j = i then one else .zero false)
          let (c, h3) := mul b imm0
          (c, h1 ||| h2 ||| h3)) e
        (y, f ++ f', p)

end Sys2Proof.Machine
end

