-- ==== Sys2Proof/Machine/Compression.lean ====
section
/-! DEFINITION. The coding of compression engines (chapter 10): blocks, EXP and DVQ, table bodies and table messages, on byte
strings and exact values. The commands that drive streams stand in Streams.lean. -/

namespace Sys2Proof.Machine

/-! Bits and elements. -/

/-- `n` bits of a value, least significant first. -/
def bitsLow : Nat → Nat → List Bool
  | 0, _ => []
  | n + 1, v => decide (v % 2 = 1) :: bitsLow n (v / 2)

/-- The value that bits spell, least significant first. -/
def natLow : List Bool → Nat
  | [] => 0
  | b :: t => b2n b + 2 * natLow t

/-- Bytes of a bitstream, zero bits up to a byte boundary (R383). -/
def packBytes : Nat → List Bool → List Byte
  | 0, _ => []
  | fuel + 1, l => if l = [] then [] else BitVec.ofNat 8 (natLow (l.take 8)) :: packBytes fuel (l.drop 8)

/-- The bits of a byte string (R383). -/
def unpackBytes (bs : List Byte) : List Bool := bs.flatMap (fun b => bitsLow 8 b.toNat)

/-- Little-endian elements of `w` bytes. -/
def elemsOf (w : Nat) (bs : List Byte) : List Nat := (List.range (bs.length / w)).map (fun i => leAt bs (w * i) w)

/-! Blocks (R379). -/

def modeRaw : Nat := 0
def modeExp : Nat := 1
def modeDvq : Nat := 2

/-- Modes that a format allows (R378). -/
def modeAllowed (mode fmt : Nat) : Bool :=
  match mode with
  | 0 => !isOfp8Tag fmt
  | 1 => decide (fmt ≤ 2)
  | 2 => decide (fmt = 0) || decide (fmt = 2)
  | _ => false

/-- A block: header and payload (R379). -/
def blockRecord (mode gen ulen seq : Nat) (payload : List Byte) (crc : Nat) : List Byte :=
  leBytes 2 (mode + 4 * gen) ++ leBytes 2 payload.length ++ leBytes 2 ulen ++ leBytes 2 (seq % 65536) ++ leBytes 4 crc ++ payload

/-- A RAW block (R380). -/
def rawRecord (seq : Nat) (bs : List Byte) : List Byte := blockRecord 0 0 bs.length seq bs (crc32c bs)

/-- Fields of a record's header (R379, R391). -/
def recMode (r : List Byte) : Nat := leAt r 0 1 % 4
def recGen (r : List Byte) : Nat := leAt r 0 1 / 4 % 8
def recClen (r : List Byte) : Nat := leAt r 2 2
def recUlen (r : List Byte) : Nat := leAt r 4 2
def recSeq (r : List Byte) : Nat := leAt r 6 2
def recCrc (r : List Byte) : Nat := leAt r 8 4

/-! EXP (R382 to R385). -/

/-- Exponent bits and fraction bits of a format that EXP codes. -/
def expWidths (fmt : Nat) : Nat × Nat :=
  match fmt with
  | 0 => (8, 23)
  | 1 => (11, 52)
  | _ => (7, 8)

/-- Symbols of the EXP alphabet (R382). -/
def alphabet (fmt : Nat) : Nat := 2 ^ (expWidths fmt).1

/-- Exponent field and rest of an element (R382). -/
def expParts (fmt bits : Nat) : Nat × Nat :=
  let (e, f) := expWidths fmt
  (bitsOf bits f e, bitsOf bits (e + f) 1 * 2 ^ f + bits % 2 ^ f)

/-- The element of an exponent field and a rest. -/
def expJoin (fmt ex rest : Nat) : Nat :=
  let (e, f) := expWidths fmt
  rest / 2 ^ f * 2 ^ (e + f) + ex * 2 ^ f + rest % 2 ^ f

/-- A tree of R384. -/
inductive HTree where
  | leaf (sym : Nat)
  | node (l r : HTree)

/-- Insert a node by its key, weight before order. -/
def hInsert (x : Nat × Nat × HTree) : List (Nat × Nat × HTree) → List (Nat × Nat × HTree)
  | [] => [x]
  | y :: t => if x.1 < y.1 ∨ (x.1 = y.1 ∧ x.2.1 ≤ y.2.1) then x :: y :: t else y :: hInsert x t

/-- Join the two smallest nodes until one remains (R384). -/
def hJoin : Nat → Nat → List (Nat × Nat × HTree) → List (Nat × Nat × HTree)
  | 0, _, l => l
  | fuel + 1, next, l =>
    match l with
    | a :: b :: t => hJoin fuel (next + 1) (hInsert (a.1 + b.1, next, .node a.2.2 b.2.2) t)
    | l => l

/-- Depths of the leaves below a node. -/
def hDepths : HTree → Nat → List (Nat × Nat)
  | .leaf s, d => [(s, d)]
  | .node l r, d => hDepths l (d + 1) ++ hDepths r (d + 1)

/-- Sum of 2^(12 − len) (R384). -/
def kraft (lens : List Nat) : Nat := (lens.map (fun l => 2 ^ (12 - l))).sum

/-- Lengthen codes until the sum is at most 4,096 (R384). -/
def lengthen : Nat → List Nat → List Nat
  | 0, lens => lens
  | fuel + 1, lens =>
    if kraft lens ≤ 4096 then lens
    else
      let l := lens.foldl (fun m x => if x < 12 then max m x else m) 0
      let s := (indexFrom 0 lens).foldl (fun m p => if p.2 = l then p.1 else m) 0
      lengthen fuel (lens.set s (l + 1))

/-- Code lengths of an alphabet of `n` symbols from the symbols that occur (R384). -/
def codeLengths (n : Nat) (syms : List Nat) : List Nat :=
  let leaves := (List.range n).map (fun s => ((syms.filter (fun x => decide (x = s))).length + 1, s, HTree.leaf s))
  let lens : List Nat := match hJoin n n (leaves.foldr hInsert []) with
    | t :: _ =>
      let d := hDepths t.2.2 0
      (List.range n).map (fun s => match d.find? (fun p => decide (p.1 = s)) with
        | some p => min 12 p.2
        | none => 12)
    | [] => []
  lengthen (12 * n) lens

/-- The canonical code: for each length the first code and its symbols in order (R385). -/
def canonCode (lens : List Nat) : List (Nat × Nat × List Nat) :=
  ((List.range 12).foldl (fun (a : List (Nat × Nat × List Nat) × Nat) i =>
    let syms := ((indexFrom 0 lens).filter (fun p => decide (p.2 = i + 1))).map (fun p => p.1)
    (a.1 ++ [(i + 1, a.2, syms)], (a.2 + syms.length) * 2)) ([], 0)).1

/-- The code of a symbol, first bit first (R383, R385). -/
def symbolBits (code : List (Nat × Nat × List Nat)) (s : Nat) : List Bool :=
  match code.find? (fun c => c.2.2.contains s) with
  | some c => (bitsLow c.1 (c.2.1 + c.2.2.findIdx (fun x => decide (x = s)))).reverse
  | none => []

/-- The payload of an EXP block (R383). -/
def expEncode (fmt : Nat) (lens : List Nat) (elems : List Nat) : List Byte :=
  let code := canonCode lens
  let f := (expWidths fmt).2
  let bits := elems.flatMap (fun b => let (ex, rest) := expParts fmt b; symbolBits code ex ++ bitsLow (f + 1) rest)
  packBytes bits.length bits

/-- Read one symbol; none when no code matches or the bits run out (R381). -/
def readSymbol : List (Nat × Nat × List Nat) → Nat → List Bool → Option (Nat × List Bool)
  | [], _, _ => none
  | _, _, [] => none
  | (_, first, syms) :: t, acc, b :: bits =>
    let acc := acc * 2 + b2n b
    if first ≤ acc ∧ acc - first < syms.length then some (syms.getD (acc - first) 0, bits) else readSymbol t acc bits

/-- Decode `n` elements; the bits left over remain. -/
def expElems (fmt : Nat) (code : List (Nat × Nat × List Nat)) : Nat → List Bool → Option (List Nat × List Bool)
  | 0, bits => some ([], bits)
  | n + 1, bits =>
    match readSymbol code 0 bits with
    | none => none
    | some (ex, rest) =>
      let w := (expWidths fmt).2 + 1
      if rest.length < w then none
      else match expElems fmt code n (rest.drop w) with
        | none => none
        | some (l, left) => some (expJoin fmt ex (natLow (rest.take w)) :: l, left)

/-- The ULEN bytes of an EXP payload; none for a corrupt one (R381). -/
def expDecode (fmt : Nat) (lens : List Nat) (ulen : Nat) (payload : List Byte) : Option (List Byte) :=
  match expElems fmt (canonCode lens) (ulen / fmtBytes fmt) (unpackBytes payload) with
  | none => none
  | some (l, left) => if left.length < 8 ∧ left.all (fun b => !b) then some (l.flatMap (fun b => leBytes (fmtBytes fmt) b)) else none

/-! DVQ (R386 to R390). -/

/-- Consecutive pieces of `n` items. -/
def pieces {α : Type} (n : Nat) : Nat → List α → List (List α)
  | 0, _ => []
  | fuel + 1, l => if l.isEmpty then [] else l.take n :: pieces n fuel (l.drop n)

/-- Round to binary32 (R387). -/
def roundB32 (flush : Bool) (x : Num × Nat) : Num × Nat := rounded 0 .rne flush x

/-- r of R387 for one element: x − base + e, rounded once. -/
def residual (flush : Bool) (x base e : Num) : Num × Nat :=
  let (a, f) := addX .rne x (negX base)
  let (b, f') := addX .rne a e
  roundB32 flush (b, f ||| f')

/-- A value that DVQ cannot code (R387). -/
def dvqRefuses (r : Num) : Bool :=
  match r with
  | .fin _ m e => decide (cmpMag m e 1 127 = .gt)
  | _ => true

/-- The scale of a group (R387). -/
def groupScale (rs : List Num) : Nat :=
  let (m, e) := rs.foldl (fun a r => match r with
    | .fin _ m e => maxMag a (m, e)
    | _ => a) ((0, 0) : Nat × Int)
  ((List.range 255).find? (fun s : Nat => decide (cmpMag m e 1 ((s : Int) - 127) ≠ .gt))).getD 254

/-- Eight values: a vector, its short end filled with zeros. -/
def padVector (v : List Num) : List Num := v ++ List.replicate (8 - v.length) (.zero false)

/-- A vector of a group, divided by the group's scale (R387). -/
def normVector (s : Nat) (v : List Num) : List Num := padVector (v.map (scaleNum (127 - (s : Int))))

/-- The exact squared distance of two vectors as a number. -/
def distance2 (a b : List Num) : Num :=
  (a.zip b).foldl (fun acc p => let d := addFin false p.1 (negX p.2); addFin false acc (mulFin d d)) (.zero false)

/-- Index of the nearest entry, ties to the lower (R387). -/
def nearest (cb : List (List Num)) (u : List Num) : Nat :=
  ((indexFrom 0 cb).foldl (fun (best : Option (Nat × Num)) p =>
    let d := distance2 u p.2
    match best with
    | some (i, x) => if cmpNum d x = .lt then some (p.1, d) else some (i, x)
    | none => some (p.1, d)) none).elim 0 (fun b => b.1)

/-- Entries of a codebook body: 256 entries of 8 GF16 values (R391). -/
def codebook (body : List Byte) : List (List Num) :=
  (List.range 256).map (fun j => (List.range 8).map (fun p => (decodeBits fmtGF16 127 (leAt body (16 * j + 2 * p) 2)).num))

/-- GF16 bits of a value, subnormals kept (R390). -/
def gf16Bits (v : Num) : Nat := (encode fmtGF16 false v).1

/-- The normalised vectors of a run of residuals that is coded (R387, R390). -/
def trainVectors (rs : List Num) : List (List Num) :=
  (pieces 128 rs.length rs).flatMap (fun g => (pieces 8 g.length g).map (normVector (groupScale g)))

/-- One step of the seed's generator (R390). -/
def xorshift (x : Nat) : Nat :=
  let x := x ^^^ (x * 2 ^ 13 % 2 ^ 32)
  let x := x ^^^ (x / 2 ^ 17)
  x ^^^ (x * 2 ^ 5 % 2 ^ 32)

/-- The first entries of a codebook (R390). -/
def seedEntries (sample : List (List Num)) : Nat → Nat → List (List Nat)
  | 0, _ => []
  | n + 1, x =>
    let x := xorshift x
    ((sample.getD (x % sample.length) []).map gf16Bits) :: seedEntries sample n x

/-- Exact mean of some values, rounded once to GF16 (R390). -/
def meanBits (vs : List Num) : Nat :=
  match vs.foldl (fun a v => addFin false a v) (.zero false) with
  | .fin neg m e => if m = 0 then 0 else gf16Bits (divMag neg m e vs.length 0)
  | _ => 0

/-- One refinement of the entries (R390). -/
def refine (sample : List (List Num)) (cb : List (List Nat)) : List (List Nat) :=
  let nums := cb.map (fun e => e.map (fun b => (decodeBits fmtGF16 127 b).num))
  let idx := sample.map (nearest nums)
  (indexFrom 0 cb).map (fun p =>
    let mine := ((sample.zip idx).filter (fun q => decide (q.2 = p.1))).map (fun q => q.1)
    if mine.isEmpty then p.2 else (List.range 8).map (fun k => meanBits (mine.map (fun v => v.getD k (.zero false)))))

/-- A codebook body from the vectors of a training window (R390). -/
def dvqBody (vectors : List (List Num)) (seed : Nat) : List Byte :=
  let sample := vectors.take 4096
  if sample.isEmpty then byteSlice Config.emptyCodebook 0 4096
  else
    let cb := (List.range 4).foldl (fun cb _ => refine sample cb) (seedEntries sample 256 seed)
    cb.flatMap (fun e => e.flatMap (fun b => leBytes 2 b))

/-- What DVQ makes of one element: reconstruction, feedback and flags. -/
structure DvqElem where
  y : Nat
  e : Nat
  flags : Nat
deriving DecidableEq, Repr

/-- 2^(s − 127) × cb rounded to binary32 (R387). -/
def dvqStep (flush : Bool) (s : Nat) (c : Num) : Num × Nat := roundB32 flush (scaleNum ((s : Int) - 127) c, 0)

/-- y of R387 and R388: base + d, rounded once to the element format. -/
def dvqRebuild (fmt : Nat) (flush : Bool) (base d : Num) : Nat × Nat :=
  let (v, f) := addX .rne base d
  let (b, f') := encode fmt flush v
  (b, f ||| f')

/-- The payload and the elements of a DVQ block from residuals and bases (R387). -/
def dvqEncode (fmt : Nat) (flush : Bool) (cb : List (List Num)) (rs base : List Num) : List Byte × List DvqElem :=
  let gs := (pieces 128 rs.length rs).zip (pieces 128 base.length base)
  gs.foldl (fun acc g =>
    let s := groupScale g.1
    let vs := (pieces 8 g.1.length g.1).zip (pieces 8 g.2.length g.2)
    let coded := vs.map (fun v =>
      let j := nearest cb (normVector s v.1)
      (j, (indexFrom 0 (v.1.zip v.2)).map (fun q =>
        let (d, f1) := dvqStep flush s ((cb.getD j []).getD q.1 (.zero false))
        let (y, f2) := dvqRebuild fmt flush q.2.2 d
        let (a, f3) := addX .rne q.2.1 (negX d)
        let (b, f4) := encodeWith 0 .rne flush false a
        (⟨y, b, f1 ||| f2 ||| f3 ||| f4⟩ : DvqElem))))
    (acc.1 ++ leBytes 1 s ++ coded.map (fun c => BitVec.ofNat 8 c.1), acc.2 ++ coded.flatMap (fun c => c.2))) ([], [])

/-- Payload bytes of a DVQ block of `n` elements (R386). -/
def dvqLen (n : Nat) : Nat := ((pieces 128 n (List.range n)).map (fun g => 1 + ceilDiv g.length 8)).sum

/-- Rebuild a DVQ block of `n` elements: bits and flags of each (R388). -/
def dvqElems (fmt : Nat) (flush : Bool) (cb : List (List Num)) : List (List Num) → List Byte → List (Nat × Nat)
  | [], _ => []
  | g :: gs, payload =>
    let s := leAt payload 0 1
    let vs := pieces 8 g.length g
    (indexFrom 0 vs).flatMap (fun v =>
      let entry := cb.getD (leAt payload (1 + v.1) 1) []
      (indexFrom 0 v.2).map (fun q =>
        let (d, f1) := dvqStep flush s (entry.getD q.1 (.zero false))
        let (y, f2) := dvqRebuild fmt flush q.2 d
        (y, f1 ||| f2)))
    ++ dvqElems fmt flush cb gs (payload.drop (1 + vs.length))

/-- The bytes of a DVQ payload, with flags; none for a corrupt one (R381). -/
def dvqDecode (fmt : Nat) (flush : Bool) (cb : List (List Num)) (base : List Num) (payload : List Byte) : Option (List Byte × Nat) :=
  if payload.length ≠ dvqLen base.length then none
  else
    let es := dvqElems fmt flush cb (pieces 128 base.length base) payload
    some (es.flatMap (fun e => leBytes (fmtBytes fmt) e.1), es.foldl (fun a e => a ||| e.2) 0)

/-! Tables (R391, R392). -/

/-- Bytes of a table body; 0 for a pair that no table has. -/
def bodyLen (tmode fmt : Nat) : Nat :=
  if !modeAllowed tmode fmt || decide (tmode = 0) then 0
  else if tmode = modeExp then alphabet fmt / 2 else 4096

/-- A body of 4-bit lengths (R391). -/
def lensBody (lens : List Nat) : List Byte :=
  (List.range (lens.length / 2)).map (fun i => BitVec.ofNat 8 (lens.getD (2 * i) 0 + 16 * lens.getD (2 * i + 1) 0))

/-- The lengths that a body holds. -/
def bodyLens (body : List Byte) : List Nat := body.flatMap (fun b => [b.toNat % 16, b.toNat / 16])

/-- A table message (R391). -/
def tableMessage (t : CompTable) : List Byte :=
  let head := leBytes 2 (3 + 4 * t.gen + 32 * t.tmode) ++ leBytes 1 t.fmt ++ leBytes 1 0 ++ leBytes 4 t.body.length
    ++ leBytes 4 (if t.tmode = modeDvq then t.seed else 0) ++ leBytes 2 t.twin ++ leBytes 2 0 ++ t.body
  head ++ leBytes 4 (crc32c head)

/-- The table that a message holds; none for one that is rejected (R392). -/
def readTable (m : List Byte) : Option CompTable :=
  let w := leAt m 0 2
  let fmt := leAt m 2 1
  let tmode := w / 32 % 4
  let n := leAt m 4 4
  let body := byteSlice m 16 n
  if m.length < 20 || decide (w % 4 ≠ 3) || decide (128 ≤ w) || decide (leAt m 3 1 ≠ 0) || decide (leAt m 14 2 ≠ 0)
     || decide (n = 0) || decide (n ≠ bodyLen tmode fmt) || decide (m.length < 20 + n)
     || decide (crc32c (m.take (16 + n)) ≠ leAt m (16 + n) 4)
     || (decide (tmode = modeExp) && (bodyLens body).any (fun l => decide (l = 0) || decide (12 < l))) then none
  else some ⟨w / 4 % 8, tmode, fmt, leAt m 8 4, leAt m 12 2, body⟩

/-- Bytes of a table message whose header stands at the head of a string. -/
def tableLen (m : List Byte) : Nat := 20 + leAt m 4 4

/-! Decoding a block (R381, R388, R393). -/

/-- How a block decodes. -/
inductive BlockResult where
  | good (bytes : List Byte) (flags : Nat)
  | corrupt
  | genMissing (gen : Nat)
deriving DecidableEq, Repr

/-- Decode a block of format `fmt`, with the tables of the two slots and the base's values and their flags (R381, R389, R393). -/
def decodeBlock (fmt : Nat) (flush : Bool) (slots : Option CompTable × Option CompTable) (base : List (Num × Nat)) (ulen : Nat)
    (r : List Byte) : BlockResult :=
  let w := leAt r 0 2
  let mode := w % 4
  let gen := w / 4 % 8
  let clen := recClen r
  let payload := byteSlice r 12 clen
  if decide (32 ≤ w) || decide (clen = 0) || decide (4096 < clen) || decide (recUlen r ≠ ulen) || decide (r.length < 12 + clen)
     || (decide (mode = modeRaw) && decide (clen ≠ ulen)) || decide (mode = 3) then .corrupt
  else
    let check (x : Option (List Byte × Nat)) : BlockResult := match x with
      | some (bs, f) => if crc32c bs = recCrc r then .good bs f else .corrupt
      | none => .corrupt
    if mode = modeRaw then check (some (payload, 0))
    else
      let slot := if gen % 2 = 0 then slots.1 else slots.2
      match slot with
      | none => .genMissing gen
      | some t =>
        if t.gen ≠ gen then .genMissing gen
        else if t.tmode ≠ mode || t.fmt ≠ fmt then .corrupt
        else if mode = modeExp then check ((expDecode fmt (bodyLens t.body) ulen payload).map (fun bs => (bs, 0)))
        else check ((dvqDecode fmt flush (codebook t.body) (base.map (fun b => b.1)) payload).map (fun x =>
          (x.1, base.foldl (fun a b => a ||| b.2) x.2)))

/-! Encoding a block (R379, R380, R387). -/

/-- A coded block: mode, payload, bytes the decoder is to produce, new feedback (for DVQ) and flags. -/
structure Coded where
  mode : Nat
  payload : List Byte
  bytes : List Byte
  feedback : Option (List Nat)
  flags : Nat
  /-- The block is RAW for its length (R380). -/
  fellBack : Bool
deriving DecidableEq, Repr

/-- Code a block in EXP (R380, R383). -/
def codeExp (fmt : Nat) (t : CompTable) (bs : List Byte) : Coded :=
  let p := expEncode fmt (bodyLens t.body) (elemsOf (fmtBytes fmt) bs)
  if bs.length < p.length then ⟨modeRaw, bs, bs, none, 0, true⟩ else ⟨modeExp, p, bs, none, 0, false⟩

/-- The value of an element as a lane of a compression engine reads it. -/
def readB (fmt : Nat) (flush : Bool) (bits : Nat) : Num × Nat := readFlush flush (decodeBits fmt 127 bits)

/-- Residuals of a block: values and flags (R387). -/
def residuals (fmt : Nat) (flush : Bool) (bs : List Byte) (base e : List (Num × Nat)) : List (Num × Nat) :=
  ((elemsOf (fmtBytes fmt) bs).zip (base.zip e)).map (fun x =>
    let (v, f) := readB fmt flush x.1
    let (r, f') := residual flush v x.2.1.1 x.2.2.1
    (r, f ||| f' ||| x.2.1.2 ||| x.2.2.2))

/-- Code a block in DVQ (R380, R387, R389): with the feedback of each element. -/
def codeDvq (fmt : Nat) (flush : Bool) (t : CompTable) (bs : List Byte) (base e : List (Num × Nat)) : Coded :=
  let rs := residuals fmt flush bs base e
  if rs.any (fun r => dvqRefuses r.1) then ⟨modeRaw, bs, bs, some (rs.map (fun _ => 0)), 0, true⟩
  else
    let (p, es) := dvqEncode fmt flush (codebook t.body) (rs.map (fun r => r.1)) (base.map (fun b => b.1))
    if bs.length < p.length then ⟨modeRaw, bs, bs, some (rs.map (fun _ => 0)), 0, true⟩
    else ⟨modeDvq, p, es.flatMap (fun x => leBytes (fmtBytes fmt) x.y), some (es.map (fun x => x.e)),
      es.foldl (fun a x => a ||| x.flags) (rs.foldl (fun a r => a ||| r.2) 0), false⟩

end Sys2Proof.Machine
end

