-- ==== Sys2Proof/Machine/Flags.lean ====
section
/-! DEFINITION. Exception flags (R195 to R200): a part's flag word and the sticky bits of the engines' flag registers. -/

namespace Sys2Proof.Machine

/-- A part gathers a status, flags and a replay count while it runs (R58, R196). -/
def orPart (id p status flags replay : Nat) (s : State) : State :=
  setPart id p (fun x => { x with
    status := if x.status = 0 then status else x.status, flags := x.flags ||| flags, replay := max x.replay replay }) s

/-- Set the sticky register bits of a flag word: fields with the bit each stands for (R178, R248, R199). -/
def setSticky (fs : List (Nat × Fld)) (v : Nat) (s : State) : State :=
  forEach (fs.filter (fun p => bitOf v p.1)) (fun p s => setF p.2 1 s) s

/-- The sticky bits of CORE n.MXFLAGS (R178). -/
def mxSticky (n : Nat) : List (Nat × Fld) :=
  [(0, CORE.MXFLAGS_INVALID n), (2, CORE.MXFLAGS_OVERFLOW n), (3, CORE.MXFLAGS_UNDERFLOW n), (4, CORE.MXFLAGS_INEXACT n),
   (5, CORE.MXFLAGS_FLUSH_IN n), (6, CORE.MXFLAGS_FLUSH_OUT n), (7, CORE.MXFLAGS_SATURATED n),
   (16, CORE.MXFLAGS_RANGE n), (17, CORE.MXFLAGS_POISON n)]

/-- The sticky bits of CORE n.VXFLAGS (R248). -/
def vxSticky (n : Nat) : List (Nat × Fld) :=
  [(0, CORE.VXFLAGS_INVALID n), (1, CORE.VXFLAGS_DIVIDE_BY_ZERO n), (2, CORE.VXFLAGS_OVERFLOW n), (3, CORE.VXFLAGS_UNDERFLOW n),
   (4, CORE.VXFLAGS_INEXACT n), (5, CORE.VXFLAGS_FLUSH_IN n), (6, CORE.VXFLAGS_FLUSH_OUT n), (7, CORE.VXFLAGS_SATURATED n),
   (17, CORE.VXFLAGS_POISON n)]

end Sys2Proof.Machine
end

