-- ==== Sys2Proof/Machine/Operands.lean ====
section
/-! DEFINITION. The operands that a descriptor names: tensors and views of its tenant, how their boxes meet, the elements of panes
and of working copies, and the elements written into working copies (chapters 04, 06 and 07). -/

namespace Sys2Proof.Machine

/-- The tensor or view of the issuing tenant that a handle names, if it is local (R262, R279). -/
def ownTensor (e : InFlight) (h : Nat) (s : State) : Option Tensor :=
  match tensorOf h s with
  | some t => if decide (h ≠ 0) && decide (topOf t.owner s = topOf e.port s) && isLocal (rootOf t s) s then some t else none
  | none => none

def handleBad (e : InFlight) (h : Nat) (s : State) : Bool := (ownTensor e h s).isNone

/-- A handle that may be 0, but else must name a tensor. -/
def optHandleBad (e : InFlight) (h : Nat) (s : State) : Bool := decide (h ≠ 0) && handleBad e h s

/-- A tensor that no handle names; it stands where a check has already failed. -/
def noTensor : Tensor := ⟨0, 0, [1, 1, 1, 1], [0, 0, 0, 0], 0, 0, 0, 0xFFFF, 0, 0⟩

/-- The entry of a handle that validation has accepted. -/
def tensorAt (h : Nat) (s : State) : Tensor := (tensorOf h s).getD noTensor

/-- A tag differs from the tensor table's (R172, R243, R289); a handle of 0 has none. -/
def tagDiffers (h tag : Nat) (s : State) : Bool := decide (h ≠ 0) && decide ((tensorAt h s).fmt ≠ tag)

/-- OFP8 under the Normal run mode as it stood when the descriptor was taken (R120). -/
def ofp8Refused (e : InFlight) (tag : Nat) : Bool := decide (e.mode = 0) && isOfp8Tag tag

def extOf (t : Tensor) (i : Nat) : Nat := t.ext.getD i 1
def orgOf (t : Tensor) (i : Nat) : Nat := t.org.getD i 0

/-- Two handles name the same elements (R167, R213, R289). -/
def sameElems (a b : Tensor) (s : State) : Bool :=
  decide ((rootOf a s).handle = (rootOf b s).handle) && decide (a.org = b.org) && decide (a.ext = b.ext)

/-- Two handles have an element in common. -/
def overlaps (a b : Tensor) (s : State) : Bool :=
  decide ((rootOf a s).handle = (rootOf b s).handle) &&
  (List.range 4).all (fun i => decide (orgOf a i < orgOf b i + extOf b i) && decide (orgOf b i < orgOf a i + extOf a i))

/-- Two handles overlap without being the same elements. -/
def aliases (a b : Tensor) (s : State) : Bool := overlaps a b s && !sameElems a b s

/-- A written region of a block-format tensor that does not consist of whole blocks (R184). -/
def breaksBlocks (t : Tensor) (s : State) : Bool :=
  let root := rootOf t s
  isBlockTag t.fmt &&
  (let b := blockSize t.fmt
   let a := root.baxis
   let last := orgOf t a + extOf t a
   decide (orgOf t a % b ≠ 0) || (decide (last % b ≠ 0) && decide (last ≠ extOf root a)))

/-! Elements of a pane. -/

/-- A little-endian value of `n` bytes at an offset of sparse cells. -/
def cellsNat (cs : List Host.Cell) (o n : Nat) : Nat := leNat ((List.range n).map (fun i => assocGet 0#8 cs (o + i)))

/-- Bits and scale byte of an element of a pane (R256); the scale of an unscaled format is 127. -/
def elemIn (root : Tensor) (data : List Host.Cell) (y : List Nat) : Nat × Nat :=
  (cellsNat data (elemOffset root.fmt root.baxis y) (fmtBytes root.fmt),
   if isBlockTag root.fmt then cellsNat data (scaleOffset root.fmt root.baxis y) 1 else 127)

/-- The panes of a handle that a box of its coordinates, first to last, covers. -/
def panesCovering (t root : Tensor) (lo hi : List Nat) : List Nat := panesOfBox root (baseCoords t lo) (baseCoords t hi)

/-! Working copies (R33, R140, R252). -/

def copyFor (core owner h pane : Nat) (s : State) : Option WorkCopy :=
  s.copies.find? (fun c => decide (c.core = core) && decide (c.owner = owner) && decide (c.handle = h) && decide (c.pane = pane))

/-- The pane that a mover has delivered to a core for a descriptor. -/
def stagedPane (core owner h pane : Nat) (s : State) : Option PaneData := (copyFor core owner h pane s).bind (fun c => c.staged)

/-- Change a working copy; one that does not exist yet is made. -/
def upsertCopy (core owner h pane : Nat) (f : WorkCopy → WorkCopy) (s : State) : State :=
  let is (c : WorkCopy) : Bool :=
    decide (c.core = core) && decide (c.owner = owner) && decide (c.handle = h) && decide (c.pane = pane)
  if s.copies.any is then { s with copies := updateWhere is f s.copies }
  else { s with copies := s.copies ++ [f ⟨core, owner, h, pane, none, [], [], [], false, []⟩] }

/-- Every one of a list of panes, by root handle and index, has been delivered. -/
def allStaged (core owner : Nat) (l : List (Nat × Nat)) (s : State) : Bool :=
  l.all (fun p => (stagedPane core owner p.1 p.2 s).isSome)

/-- The copy still holds something to write back: bytes, or adjustments of tiles whose elements stand (R236, R252). -/
def unsaved (c : WorkCopy) : Bool := decide (c.spans ≠ []) || decide (c.tadj ≠ [])

/-- `n` bytes at an offset of a working copy meet a word with an uncorrectable ECC error (R166, R240). -/
def meetsBad (bad : List (Nat × Nat)) (off n : Nat) : Bool := bad.any (fun w => decide (w.1 < off + n) && decide (off < w.1 + w.2))

/-- The element at coordinates `y` of a pane lies, or its scale byte does, in a word with an uncorrectable ECC error. -/
def elemBad (root : Tensor) (bad : List (Nat × Nat)) (y : List Nat) : Bool :=
  meetsBad bad (elemOffset root.fmt root.baxis y) (fmtBytes root.fmt)
  || (isBlockTag root.fmt && meetsBad bad (scaleOffset root.fmt root.baxis y) 1)

/-- What an engine reads at coordinates `x` of a handle: bits, scale byte, whether its pane is poisoned or its word of the sill holds an
uncorrectable ECC error (R166, R240). -/
def fetchElem (core owner : Nat) (t root : Tensor) (x : List Nat) (s : State) : Nat × Nat × Bool :=
  let (pane, y) := locate root (baseCoords t x)
  match copyFor core owner root.handle pane s with
  | some ⟨_, _, _, _, some p, _, _, _, _, bad⟩ => let (b, sc) := elemIn root p.data y; (b, sc, p.poison || elemBad root bad y)
  | _ => (0, 127, true)

/-- Decode what an engine reads: an element of a poisoned pane is NaN, with no flag. -/
def fetchDecoded (core owner : Nat) (t root : Tensor) (x : List Nat) (s : State) : Decoded × Bool :=
  let (b, sc, poison) := fetchElem core owner t root x s
  if poison then (⟨.nan, false, false⟩, true) else (decodeBits (tagFmt root.fmt) sc b, false)

/-- Write bytes into the working copy of a pane. -/
def putSpan (core owner h pane off : Nat) (bs : List Byte) (s : State) : State :=
  upsertCopy core owner h pane (fun c => { c with
    dirty := assocSplice c.dirty off (off + bs.length) (cellsOf off bs), spans := (off, bs.length) :: c.spans }) s

/-- The tile of a written element takes an adjustment (R258); a line box has none. DESIGN CHOICE (log 261): where several tiles of D
cover one tile of a pane, since D is a view whose origin is no multiple of 32, the adjustment of the one written last stands (R192). -/
def putTadj (core owner : Nat) (root : Tensor) (pane : Nat) (y : List Nat) (adj : Int) (s : State) : State :=
  if isBlockTag root.fmt && decide (2 ≤ root.baxis) then s
  else
    let k := tileOfElem root.fmt root.baxis y
    upsertCopy core owner root.handle pane (fun c => { c with
      tadj := (k, toTwos 16 adj) :: c.tadj.filter (fun p => decide (p.1 ≠ k)) }) s

/-- A poisoned value is written into a pane (R166, R240). -/
def putPoison (core owner h pane : Nat) (s : State) : State :=
  upsertCopy core owner h pane (fun c => { c with poisonOut := true }) s

/-- Write one element of an unscaled format, with the adjustment of its tile and its poison mark (R213, R240, R258). -/
def putElem (core owner : Nat) (t root : Tensor) (x : List Nat) (bits : Nat) (adj : Int) (poison : Bool) (s : State) : State :=
  let (pane, y) := locate root (baseCoords t x)
  let s := putSpan core owner root.handle pane (elemOffset root.fmt root.baxis y) (leBytes (fmtBytes root.fmt) bits) s
  let s := putTadj core owner root pane y adj s
  if poison then putPoison core owner root.handle pane s else s

/-- Coordinates with the one in dimension `a` moved by `n`. -/
def stepCoord (x : List Nat) (a n : Nat) : List Nat := (indexFrom 0 x).map (fun p => if p.1 = a then p.2 + n else p.2)

/-- Write one whole block of a block-format tensor, from base coordinates of its first element: each element with the adjustment
of its tile (R183, R184, R258). -/
def putBlock (core owner : Nat) (root : Tensor) (first : List Nat) (scale : Nat) (elems : List (Nat × Int)) (poison : Bool)
    (s : State) : State :=
  let (pane, y) := locate root first
  let s := forEach (indexFrom 0 elems) (fun p s =>
    let y := stepCoord y root.baxis p.1
    putTadj core owner root pane y p.2.2
      (putSpan core owner root.handle pane (elemOffset root.fmt root.baxis y) (leBytes 1 p.2.1) s)) s
  let s := putSpan core owner root.handle pane (scaleOffset root.fmt root.baxis y) (leBytes 1 scale) s
  if poison then putPoison core owner root.handle pane s else s

/-! Block encoders (R183, R237). -/

/-- The block of a root tensor that holds base coordinates `x`: coordinates of its first element, its length (R109). -/
def blockOf (root : Tensor) (x : List Nat) : List Nat × Nat :=
  let b := blockSize root.fmt
  let a := root.baxis
  let c := x.getD a 0
  ((indexFrom 0 x).map (fun p => if p.1 = a then p.2 / b * b else p.2), min b (extOf root a - c / b * b))

/-- A value reaches the encoder of `dest`, or the seam area on its way there, from `core` (R183, R237). -/
def offerEnc (core dest id part : Nat) (root : Tensor) (x : List Nat) (v : Num) (poison : Bool) (adj : Int)
    (s : State) : State :=
  let (first, len) := blockOf root x
  let entry := (x.getD root.baxis 0 - first.getD root.baxis 0, v, poison, adj)
  let is (b : EncBlk) : Bool := decide (b.core = core) && decide (b.dest = dest) && decide (b.id = id)
    && decide (b.handle = root.handle) && decide (b.first = first)
  if s.encs.any is then { s with encs := updateWhere is (fun b => { b with got := b.got ++ [entry] }) s.encs }
  else { s with encs := s.encs ++ [⟨core, dest, id, part, root.handle, first, root.baxis, len, [entry]⟩] }

/-- Write a value of a result into D: at once, or through the block encoder (R164, R183, R184): `bits` is its encoding in an
unscaled format. -/
def putResult (core dest id part : Nat) (t root : Tensor) (x : List Nat) (v : Num) (bits : Nat) (adj : Int) (poison : Bool)
    (s : State) : State :=
  if isBlockTag root.fmt then offerEnc core dest id part root (baseCoords t x) v poison adj s
  else putElem core id t root x bits adj poison s

/-- The oldest whole block that the encoder of a core holds (R183). -/
def encReady (n : Nat) (s : State) : Option EncBlk :=
  s.encs.find? (fun b => decide (b.core = n) && decide (b.dest = n) && decide (b.got.length = b.len))

/-- Take a block out of the encoder. -/
def encDrop (b : EncBlk) (s : State) : State := { s with encs := s.encs.filter (fun x => decide (x ≠ b)) }

/-- The values of a held block in order. -/
def encValues (b : EncBlk) : List (Num × Bool × Int) :=
  (List.range b.len).map (fun i => match b.got.find? (fun g => decide (g.1 = i)) with
    | some g => g.2
    | none => (.nan, true, 0))

end Sys2Proof.Machine
end

