-- ==== Sys2Proof/Machine/Matrix.lean ====
section
/-! DEFINITION. The matrix engine (chapters 04 and 05): the MMA descriptor, its passes over a tile, replay, output conversion and
the transom's matrix side. -/

namespace Sys2Proof.Machine

/-! Fields of the MMA descriptor (R170, R171). -/
def mmaAH (d : Desc) : Nat := dfield d 0x10 0 32
def mmaBH (d : Desc) : Nat := dfield d 0x14 0 32
def mmaCH (d : Desc) : Nat := dfield d 0x18 0 32
def mmaDH (d : Desc) : Nat := dfield d 0x1C 0 32
def mmaSCH (d : Desc) : Nat := dfield d 0x20 0 32
def mmaBIH (d : Desc) : Nat := dfield d 0x24 0 32
def mmaM (d : Desc) : Nat := dfield d 0x28 0 32
def mmaN (d : Desc) : Nat := dfield d 0x2C 0 32
def mmaK (d : Desc) : Nat := dfield d 0x30 0 32
def mmaAFMT (d : Desc) : Nat := dfield d 0x34 0 8
def mmaBFMT (d : Desc) : Nat := dfield d 0x35 0 8
def mmaCFMT (d : Desc) : Nat := dfield d 0x36 0 8
def mmaDFMT (d : Desc) : Nat := dfield d 0x37 0 8
def mmaCLIPLO (d : Desc) : Nat := dfield d 0x38 0 16
def mmaCLIPHI (d : Desc) : Nat := dfield d 0x3A 0 16
def mmaRLIM (d : Desc) : Nat := dfield d 0x3C 18 2
def mmaDEST (d : Desc) : Bool := decide (dfield d 0x3C 17 1 = 1)
def mmaCLIP (d : Desc) : Bool := decide (dfield d 0x3C 16 1 = 1)
def mmaOFLUSH (d : Desc) : Bool := decide (dfield d 0x3C 15 1 = 1)
def mmaTRB (d : Desc) : Bool := decide (dfield d 0x3C 14 1 = 1)
def mmaTRA (d : Desc) : Bool := decide (dfield d 0x3C 13 1 = 1)
def mmaPSCALE (d : Desc) : Int := ofTwos 13 (dfield d 0x3C 0 13)

/-- The clip bounds as values (R163). -/
def gf16Val (bits : Nat) : Num := (decodeBits 2 127 bits).num

/-- Output tiles (R54). -/
def mmaTilesN (d : Desc) : Nat := ceilDiv (mmaN d) 32
def mmaTiles (d : Desc) : Nat := ceilDiv (mmaM d) 32 * mmaTilesN d

/-- An extent of M, N or K is out of range (R170). -/
def badExtent (n : Nat) : Bool := decide (n = 0) || decide (16777216 < n)

/-- A tensor is a matrix of `rows` by `cols` (R172). -/
def isMatrix (t : Tensor) (rows cols : Nat) : Bool := decide (t.ext = [cols, rows, 1, 1])

/-- Check 3 of R172. -/
def mmaFieldBad (d : Desc) : Bool :=
  decide (dfield d 0x3C 20 12 ≠ 0) || decide (mmaRLIM d = 3) || badExtent (mmaM d) || badExtent (mmaN d) || badExtent (mmaK d)
  || (decide (mmaCH d = 0) && decide (mmaCFMT d ≠ 0))
  || (mmaDEST d && (decide (mmaDH d ≠ 0) || decide (mmaDFMT d ≠ 0)))
  || (mmaCLIP d && ((gf16Val (mmaCLIPLO d)).isNan || (gf16Val (mmaCLIPHI d)).isNan
      || decide (cmpNum (gf16Val (mmaCLIPLO d)) (gf16Val (mmaCLIPHI d)) = .gt)))

/-- The checks of R172 before the charge. -/
def mmaChecks (e : InFlight) (s : State) : List (Nat × Nat × Bool) :=
  let d := e.desc
  let tags := [mmaAFMT d, mmaBFMT d, mmaCFMT d, mmaDFMT d]
  let a := tensorAt (mmaAH d) s
  let b := tensorAt (mmaBH d) s
  let c := tensorAt (mmaCH d) s
  let o := tensorAt (mmaDH d) s
  let v := tensorAt (mmaSCH d) s
  let w := tensorAt (mmaBIH d) s
  let hasC := decide (mmaCH d ≠ 0)
  let hasD := !mmaDEST d
  let hasV := decide (mmaSCH d ≠ 0)
  let hasW := decide (mmaBIH d ≠ 0)
  let vecFmt (t : Tensor) : Bool := decide (t.fmt ≠ 0) && decide (t.fmt ≠ 1)
  let m := mmaM d
  let n := mmaN d
  let k := mmaK d
  let offK (t : Tensor) (onD0 : Bool) : Bool := isBlockTag t.fmt && decide ((rootOf t s).baxis ≠ if onD0 then 0 else 1)
  [(1, stFormatInvalid, tags.any malformedTag),
   (2, stFormatNotPermitted, tags.any (ofp8Refused e)),
   (3, stFieldInvalid, mmaFieldBad d),
   (4, stHandleInvalid, handleBad e (mmaAH d) s || handleBad e (mmaBH d) s || (hasD && handleBad e (mmaDH d) s)
      || optHandleBad e (mmaCH d) s || optHandleBad e (mmaSCH d) s || optHandleBad e (mmaBIH d) s),
   (5, stFormatMismatch, tagDiffers (mmaAH d) (mmaAFMT d) s || tagDiffers (mmaBH d) (mmaBFMT d) s
      || tagDiffers (mmaCH d) (mmaCFMT d) s || tagDiffers (mmaDH d) (mmaDFMT d) s
      || (hasV && vecFmt v) || (hasW && vecFmt w)),
   (6, stShapeMismatch, !(if mmaTRA d then isMatrix a k m else isMatrix a m k) || !(if mmaTRB d then isMatrix b n k else isMatrix b k n)
      || (hasC && !isMatrix c m n) || (hasD && !isMatrix o m n)
      || (hasV && !isMatrix v 1 n) || (hasW && !isMatrix w 1 n)),
   (7, stBlockLayoutInvalid, offK a (!mmaTRA d) || offK b (mmaTRB d)
      || (hasD && isBlockTag o.fmt && (decide (2 ≤ tagBlk o.fmt) || decide ((rootOf o s).baxis ≠ 0) || breaksBlocks o s))),
   (8, stOperandAlias, hasD && (overlaps o a s || overlaps o b s || (hasV && overlaps o v s) || (hasW && overlaps o w s)
      || (hasC && aliases o c s)))]

/-- Charge and allocate the panes of D, the last check of R172, R243 and R289, then go on. -/
def chargeThen (e : InFlight) (check : Nat) (o : Tensor) (k : State → State) (s : State) : State :=
  match allocForWrite o s with
  | (s', 0) => k s'
  | (s', st) => failCheck e st check s'

/-- A leaf casement under a port has ALLOW 0 (R530). -/
def transomDenied (port : Nat) (s : State) : Bool :=
  match s.image with
  | some im => (leavesOf port s).any (fun l => im.transomDeny.contains l)
  | none => false

/-- An MMA enters flight (R172, R173, R234, R530): held until the next descriptor of its port when it feeds the transom, else divided. -/
def beginMma (e : InFlight) (s : State) : State :=
  validated e (mmaChecks e s) (fun s =>
    if mmaDEST e.desc && transomDenied e.port s then finish e stTransomUnpaired 0 0 0 s
    else if mmaDEST e.desc then setFlight e.id (fun x => { x with st := .pairing }) s
    else chargeThen e 9 (tensorAt (mmaDH e.desc) s) (launch e (partsFor e.port (mmaTiles e.desc) s)) s) s

/-- MMA (R172): the descriptor that the command processor takes from a ring. -/
def execMma (q : QueueNo) (d : Desc) (s : State) : Host.Outcome State Fault Refusal :=
  .next (takeRing q (withOpcode 1 d) beginMma s)

/-! A tile. -/

/-- The core's regions run: not in a reset and not powered down (R651, R660). -/
def matrixUp (n : Nat) (s : State) : Bool := alive s && !(regionOf (2 * n) s).inReset && !(regionOf (2 * n) s).down
def vectorUp (n : Nat) (s : State) : Bool := alive s && !(regionOf (2 * n + 1) s).inReset && !(regionOf (2 * n + 1) s).down

/-- The short path or the binary64 path (R128, R138). -/
def mmaB64 (d : Desc) : Bool := decide (tagFmt (mmaAFMT d) = 1) || decide (tagFmt (mmaBFMT d) = 1)

/-- First row, first column, rows and columns of an output tile inside M and N (R142). -/
def tileBox (d : Desc) (tile : Nat) : Nat × Nat × Nat × Nat :=
  let i := tile / mmaTilesN d * 32
  let j := tile % mmaTilesN d * 32
  (i, j, min 32 (mmaM d - i), min 32 (mmaN d - j))

/-- Coordinates of A[i][k], B[k][j] as stored (R141). -/
def coordA (d : Desc) (i k : Nat) : List Nat := if mmaTRA d then [i, k, 0, 0] else [k, i, 0, 0]
def coordB (d : Desc) (k j : Nat) : List Nat := if mmaTRB d then [k, j, 0, 0] else [j, k, 0, 0]

/-- The panes that a tile reads (R140). -/
def tilePanes (e : InFlight) (tile : Nat) (s : State) : List (Nat × Nat) :=
  let d := e.desc
  let (i, j, rows, cols) := tileBox d tile
  let of (h : Nat) (lo hi : List Nat) : List (Nat × Nat) :=
    if h = 0 then []
    else
      let t := tensorAt h s
      let root := rootOf t s
      (panesCovering t root lo hi).map (fun p => (root.handle, p))
  of (mmaAH d) (coordA d i 0) (coordA d (i + rows - 1) (mmaK d - 1))
  ++ of (mmaBH d) (coordB d 0 j) (coordB d (mmaK d - 1) (j + cols - 1))
  ++ of (mmaCH d) [j, i, 0, 0] [j + cols - 1, i + rows - 1, 0, 0]
  ++ of (mmaSCH d) [j, 0, 0, 0] [j + cols - 1, 0, 0, 0]
  ++ of (mmaBIH d) [j, 0, 0, 0] [j + cols - 1, 0, 0, 0]

/-- An operand element as the engine decodes it (R143, R166). -/
def operand (n : Nat) (e : InFlight) (h : Nat) (x : List Nat) (s : State) : Opd :=
  let t := tensorAt h s
  let root := rootOf t s
  let (b, sc, poison) := fetchElem n e.id t root x s
  if poison then opdPoison else opdOf (tagFmt root.fmt) sc b

/-- An element of the scale or bias vector, taken exactly (R161, R162, R166): value and flags. -/
def vectorElem (n : Nat) (e : InFlight) (h j : Nat) (dflt : Num) (s : State) : Num × Nat :=
  if h = 0 then (dflt, 0)
  else
    let t := tensorAt h s
    let (d, _) := fetchDecoded n e.id t (rootOf t s) [j, 0, 0, 0] s
    readFlush false d

/-- The products of unit (i, j) for a run of k (R142, R144). -/
def unitProducts (n : Nat) (e : InFlight) (ps : Int) (i j lo hi : Nat) (s : State) : List Prod1 :=
  (List.range (hi - lo)).map (fun k => product (mmaB64 e.desc) ps
    (operand n e (mmaAH e.desc) (coordA e.desc i (lo + k)) s) (operand n e (mmaBH e.desc) (coordB e.desc (lo + k) j) s))

/-- The units of a tile inside M and N, row-major: output row and column (R136, R142). -/
def tileUnits (d : Desc) (tile : Nat) : List (Nat × Nat) :=
  let (i, j, rows, cols) := tileBox d tile
  (List.range rows).flatMap (fun r => (List.range cols).map (fun c => (i + r, j + c)))

/-- The pass limit (R158). -/
def passLimit (d : Desc) : Nat := if isBlockTag (mmaDFMT d) then 0 else mmaRLIM d

/-- The tile adjustment of the pass (R191). -/
def passAdj (d : Desc) (ps : Int) : Int := ps - mmaPSCALE d

/-- The accumulators at the start of a pass (R151, R155, R191). -/
def passStart (n : Nat) (e : InFlight) (r : MxRun) (s : State) : List Acc × Meas :=
  let d := e.desc
  (tileUnits d r.tile).foldl (fun (a : List Acc × Meas) u =>
    let c := if mmaCH d = 0 then none else some (operand n e (mmaCH d) [u.2, u.1, 0, 0] s)
    let (acc, mm) := startAcc (mmaB64 d) (decide (r.pass = passLimit d)) (growth (mmaK d)) (passAdj d r.ps) c
      (unitProducts n e r.ps u.1 u.2 0 (mmaK d) s) a.2
    (a.1 ++ [acc], mm)) ([], measInit)

/-- One K group in every unit (R149, R151). -/
def groupStep (n : Nat) (e : InFlight) (r : MxRun) (start : List Acc × Meas) (s : State) : List Acc × Meas :=
  let d := e.desc
  ((tileUnits d r.tile).zip start.1).foldl (fun (a : List Acc × Meas) u =>
    let (acc, mm) := accGroup (mmaB64 d) (decide (r.pass = passLimit d)) (growth (mmaK d)) u.2
      (unitProducts n e r.ps u.1.1 u.1.2 (32 * r.group) (min (mmaK d) (32 * r.group + 32)) s) a.2
    (a.1 ++ [acc], mm)) ([], start.2)

/-- A counter of R179 counts while CNTEN is 1. -/
def mxCount (n : Nat) (f : Fld) (k : Nat) (s : State) : State := if flag (CORE.MXCTL_CNTEN n) s then addF f k s else s

/-- CORE n.MXLAST records a range event (R181). -/
def recordLast (n : Nat) (e : InFlight) (r : MxRun) (mm : Meas) (s : State) : State :=
  let lo := ((e.parts[r.part]?).map (fun p => p.lo)).getD 0
  setF (CORE.MXLAST_SRC n) mm.src (setF (CORE.MXLAST_PASS n) r.pass (setF (CORE.MXLAST_TILE n) (r.tile - lo) s))

def setMx (n : Nat) (r : Option MxRun) (s : State) : State := { s with mx := optSet s.mx n r }

/-- A pass that is not the last is discarded and the next one begins with another PSCALE (R159, R190). -/
def replay (n : Nat) (e : InFlight) (r : MxRun) (mm : Meas) (s : State) : State :=
  let ps := nextPscale r.ps mm
  let lo := ((e.parts[r.part]?).map (fun p => p.lo)).getD 0
  let s := peep 0 n 3 1 (mxCount n (CORE.MXPASSES_COUNT n) 1 s)
  let s := trace 3 0 (2 * n) (n + r.pass * 2 ^ 8 + mm.src * 2 ^ 10 + (r.tile - lo) % 2 ^ 16 * 2 ^ 16) (toTwos 64 ps) s
  setF (CORE.MXSTAT_PASS n) (r.pass + 1)
    (setMx n (some { r with pass := r.pass + 1, ps := ps, group := 0, accs := [], mm := measInit, ranged := false }) s)

/-- MMA_K_GROUP (R139, R151, R186): the next K group of the pass, in the core's matrix engine. -/
def execMmaKGroup (n : CoreNo) (s : State) : Host.Outcome State Fault Refusal :=
  .next (match optGet s.mx n with
    | none => s
    | some r =>
      match flight r.id s with
      | none => s
      | some e =>
        let d := e.desc
        if matrixUp n s && !flag (CORE.MXSTAT_OPWAIT n) s && r.held.isNone && decide (32 * r.group < mmaK d) then
          let start := if r.group = 0 then passStart n e r s else (r.accs, r.mm)
          let (accs, mm) := groupStep n e r start s
          let f := max (beatsOf (tagFmt (mmaAFMT d))) (beatsOf (tagFmt (mmaBFMT d)))
          let s := peep 0 n 1 f (mxCount n (CORE.MXBEATS_COUNT n) f s)
          let event := decide (0 < mm.ov) || decide (0 < mm.un)
          let s := if event then recordLast n e r mm s else s
          if event && decide (r.pass < passLimit d) then replay n e r mm s
          else setMx n (some { r with group := r.group + 1, accs := accs, mm := mm, ranged := event }) s
        else s)

/-- The converter's result for one unit of the last group (R161 to R163, R191): z, its flags, the measurements. -/
def convertUnit (n : Nat) (e : InFlight) (r : MxRun) (u : (Nat × Nat) × Acc) (mm : Meas) (s : State) : Num × Nat × Meas :=
  let d := e.desc
  let adj := passAdj d r.ps
  let (sc, f1) := vectorElem n e (mmaSCH d) u.1.2 (.fin false 1 0) s
  let (bi, f2) := vectorElem n e (mmaBIH d) u.1.2 (.zero false) s
  let (z, f3) := convertZ u.2 sc (scaleNum adj bi)
  let z := if mmaCLIP d then clipZ (scaleNum adj (gf16Val (mmaCLIPLO d))) (scaleNum adj (gf16Val (mmaCLIPHI d))) z else z
  (z, u.2.flags ||| f1 ||| f2 ||| f3, if isBlockTag (mmaDFMT d) then mm else measZ (tagFmt (mmaDFMT d)) mm z)

/-- Every z of a tile with its unit (R161). -/
def convertTile (n : Nat) (e : InFlight) (r : MxRun) (s : State) : List ((Nat × Nat) × Num × Nat) × Meas :=
  ((tileUnits e.desc r.tile).zip r.accs).foldl (fun (a : List ((Nat × Nat) × Num × Nat) × Meas) u =>
    let (z, f, mm) := convertUnit n e r u a.2 s
    (a.1 ++ [(u.1, z, f)], mm)) ([], r.mm)

/-- The coordinates at which a tile reads the operand that a handle names, where `h` is a field of the descriptor (R140). -/
def tileReads (d : Desc) (tile : Nat) : List (Nat × List (List Nat)) :=
  let (i, j, rows, cols) := tileBox d tile
  let rs := (List.range rows).map (fun r => i + r)
  let cs := (List.range cols).map (fun c => j + c)
  let ks := List.range (mmaK d)
  [(mmaAH d, rs.flatMap (fun r => ks.map (fun k => coordA d r k))), (mmaBH d, cs.flatMap (fun c => ks.map (fun k => coordB d k c))),
   (mmaCH d, rs.flatMap (fun r => cs.map (fun c => [c, r, 0, 0]))),
   (mmaSCH d, cs.map (fun c => [c, 0, 0, 0])), (mmaBIH d, cs.map (fun c => [c, 0, 0, 0]))]

/-- A pane that the tile reads is poisoned, or an element that it reads lies in a word of the sill with an uncorrectable ECC error
(R166). -/
def tilePoisoned (n : Nat) (e : InFlight) (tile : Nat) (s : State) : Bool :=
  (tilePanes e tile s).any (fun p => match stagedPane n e.id p.1 p.2 s with
    | some x => x.poison
    | none => false)
  || (s.copies.any (fun c => decide (c.core = n) && decide (c.owner = e.id) && decide (c.badWords ≠ []))
    && (tileReads e.desc tile).any (fun r => decide (r.1 ≠ 0) && (let t := tensorAt r.1 s
      r.2.any (fun x => (fetchElem n e.id t (rootOf t s) x s).2.2))))

/-- The engine goes on to the next tile of its part, or leaves the part (R139, R177). -/
def nextTile (n : Nat) (e : InFlight) (r : MxRun) (s : State) : State :=
  let hi := ((e.parts[r.part]?).map (fun p => p.hi)).getD 0
  let s := setF (CORE.MXSTAT_PASS n) 0 (setF (CORE.MXSTAT_TRWAIT n) 0 s)
  if r.tile + 1 < hi then
    setF (CORE.MXSTAT_OPWAIT n) (b2n (!allStaged n e.id (tilePanes e (r.tile + 1) s) s))
      (setMx n (some ⟨r.id, r.part, r.tile + 1, 0, mmaPSCALE e.desc, 0, [], measInit, false, none⟩) s)
  else setF (CORE.MXSTAT_BUSY n) 0 (setMx n none s)

/-- A part whose engine has left it, whose blocks are encoded and whose copies are written back has ended (R252). -/
def checkEnd (id p : Nat) (s : State) : State :=
  match flight id s with
  | none => s
  | some e =>
    match e.parts[p]? with
    | none => s
    | some x =>
      if decide (x.st = .running)
        && !s.mx.any (fun r => decide (r.2.id = id) && decide (r.2.part = p))
        && !s.vx.any (fun r => decide (r.2.id = id) && decide (r.2.part = p))
        && !s.encs.any (fun b => decide (b.id = id) && (decide (b.part = p) || decide (b.core = x.core)))
        && !s.copies.any (fun c => decide (c.owner = id) && decide (c.core = x.core) && unsaved c)
      then
        let s := if e.opcode = 2 then
            setSticky (vxSticky x.core) (x.flags + (if x.status = stPoisonRead then 2 ^ 17 else 0)) s
          else s
        setPart id p (fun x => { x with st := .ended }) s
      else s

/-- Core `n`'s transom arbiter is owned, by a requester that no REQ names, since the matrix engine waits on a full queue; the hold counts
from now (R168, R639, R640). DESIGN CHOICE (log 260): OWNER reads 0 meanwhile. -/
def transomStall (n : Nat) (s : State) : State :=
  if flag (CORE.MXSTAT_TRWAIT n) s then s
  else
    let i := 724 + n
    let s := setF (CORE.MXSTAT_TRWAIT n) 1 (setF (ARB.STAT_OWNED i) 1 (setF (ARB.STAT_PARKED i) 0 (setF (ARB.STAT_OWNER i) 0 s)))
    { s with arbStamp := assocSet 0 s.arbStamp i (licOf (2 * n + 1) s) }

/-- An entry is free again: the stall ends, and with it the hold (R168, R639). -/
def transomFree (n : Nat) (s : State) : State :=
  if flag (CORE.MXSTAT_TRWAIT n) s then
    setF (CORE.MXSTAT_TRWAIT n) 0 (setF (ARB.STAT_OWNED (724 + n)) 0 { s with arbStamp := assocSet 0 s.arbStamp (724 + n) 0 })
  else s

/-- The last pass of a tile ends (R160, R164, R165, R173, R192, R194): what is written, what is counted. -/
def finishTile (n : Nat) (e : InFlight) (r : MxRun) (zs : List ((Nat × Nat) × Num × Nat)) (mm : Meas) (s : State) : State :=
  let d := e.desc
  let fmt := tagFmt (mmaDFMT d)
  let block := isBlockTag (mmaDFMT d)
  let adj := if block then 0 else passAdj d r.ps
  let ranged := r.ranged || (!block && zs.any (fun z => zOverflows fmt z.2.1))
  let enc := zs.map (fun z => (z.1, z.2.1, if block then (0, z.2.2) else
    let (b, f) := encodeWith fmt .rne (mmaOFLUSH d) true z.2.1; (b, z.2.2 ||| f)))
  let flags := enc.foldl (fun a x => a ||| x.2.2.2) 0
  let poison := tilePoisoned n e r.tile s
  let s := if ranged then satF (CORE.MXRANGE_COUNT n) 1 (recordLast n e r mm s) else s
  let s := setSticky (mxSticky n) (flags + b2n ranged * 2 ^ 16 + b2n poison * 2 ^ 17) s
  let s := peep 0 n 2 1 (mxCount n (CORE.MXTILES_COUNT n) 1 s)
  let s := orPart e.id r.part (if poison then stPoisonRead else 0) flags r.pass s
  if mmaDEST d then
    let (i, j, _, _) := tileBox d r.tile
    let bits := (List.range 1024).map (fun k => match enc.find? (fun x => decide (x.1 = (i + k / 32, j + k % 32))) with
      | some x => x.2.2.1
      | none => 0)
    let s := setMx n (some { r with held := some (bits, adj) }) s
    if 16 ≤ (assocGet [] s.transom n).length then transomStall n s else s
  else
    let t := tensorAt (mmaDH d) s
    let root := rootOf t s
    let s := forEach enc (fun x s => putResult n n e.id r.part t root [x.1.2, x.1.1, 0, 0] x.2.1 x.2.2.1 adj poison s) s
    checkEnd e.id r.part (nextTile n e r s)

/-- MMA_PASS_END (R161, R186, R190, R194): the converter forms z for every element once the last K group is done. -/
def execMmaPassEnd (n : CoreNo) (s : State) : Host.Outcome State Fault Refusal :=
  .next (match optGet s.mx n with
    | none => s
    | some r =>
      match flight r.id s with
      | none => s
      | some e =>
        if matrixUp n s && r.held.isNone && decide (mmaK e.desc ≤ 32 * r.group) then
          let (zs, mm) := convertTile n e r s
          let beyond := !isBlockTag (mmaDFMT e.desc) && zs.any (fun z => zOverflows (tagFmt (mmaDFMT e.desc)) z.2.1)
          if beyond && decide (r.pass < passLimit e.desc) then replay n e r mm (recordLast n e r mm s)
          else finishTile n e r zs mm s
        else s)

/-! The transom's matrix side (R165, R168, R232). -/

/-- Occupancy and head of a transom queue, as TRSTAT shows them (R250). -/
def showTransom (n : Nat) (next : Nat) (s : State) : State :=
  let l := assocGet [] s.transom n
  let s := setF (CORE.TRSTAT_FILL n) l.length (setF (CORE.TRSTAT_NEXT n) next s)
  setF (CORE.TRSTAT_PEAK n) (max (getF (CORE.TRSTAT_PEAK n) s) l.length) s

/-- TRANSOM_WRITE (R165, R168, R233): the held tile enters the queue once an entry is free and the hinge of the core delivers. -/
def execTransomWrite (n : CoreNo) (s : State) : Host.Outcome State Fault Refusal :=
  .next (match optGet s.mx n with
    | none => s
    | some r =>
      match r.held, flight r.id s with
      | some (bits, adj), some e =>
        if matrixUp n s && vectorUp n s && (hingeOf (2 * n) (2 * n + 1) s).stalled.isNone then
          let l := assocGet [] s.transom n
          if l.length < 16 then
            let lo := ((e.parts[r.part]?).map (fun p => p.lo)).getD 0
            let k := r.tile - lo
            let s := { s with transom := assocSet [] s.transom n (l ++ [⟨bits, adj, k⟩]) }
            let s := showTransom n (match l with
              | [] => k
              | h :: _ => h.tile) s
            checkEnd e.id r.part (nextTile n e { r with held := none } (setF (CORE.VXSTAT_TRWAIT n) 0 s))
          else transomStall n s
        else s
      | _, _ => s)

/-- MXCTL_CNTCLR (R176). -/
def execMxctlCntclr (n : CoreNo) (s : State) : Host.Outcome State Fault Refusal :=
  .next (hostWrite .late (fun s =>
    setF (CORE.MXBEATS_COUNT n) 0 (setF (CORE.MXTILES_COUNT n) 0 (setF (CORE.MXPASSES_COUNT n) 0
      (setF (CORE.MXRANGE_COUNT n) 0 s)))) s)

end Sys2Proof.Machine
end

