-- ==== Sys2Proof/Machine/Vector.lean ====
section
/-! DEFINITION. The vector engine (chapter 06): the VOP descriptor, its steps over a tensor, the transom's vector side, block encoders
and the seam area. -/

namespace Sys2Proof.Machine

/-! Fields of the VOP descriptor (R241, R242). -/
def vopXH (d : Desc) : Nat := dfield d 0x10 0 32
def vopYH (d : Desc) : Nat := dfield d 0x14 0 32
def vopZH (d : Desc) : Nat := dfield d 0x18 0 32
def vopDH (d : Desc) : Nat := dfield d 0x1C 0 32
def vopMH (d : Desc) : Nat := dfield d 0x20 0 32
def vopIMM0 (d : Desc) : Nat := dfield d 0x24 0 32
def vopIMM1 (d : Desc) : Nat := dfield d 0x28 0 32
def vopOP (d : Desc) : Nat := dfield d 0x2C 0 8
def vopXFMT (d : Desc) : Nat := dfield d 0x2D 0 8
def vopYFMT (d : Desc) : Nat := dfield d 0x2E 0 8
def vopDFMT (d : Desc) : Nat := dfield d 0x2F 0 8
def vopQAXIS (d : Desc) : Nat := dfield d 0x30 21 2
def vopQPOS (d : Desc) : Nat := dfield d 0x30 0 21
def vopKAXIS (d : Desc) : Nat := dfield d 0x34 21 2
def vopKPOS (d : Desc) : Nat := dfield d 0x34 0 21
def vopMFILL (d : Desc) : Nat := dfield d 0x38 24 2
def vopMMODE (d : Desc) : Nat := dfield d 0x38 22 2
def vopWIN (d : Desc) : Nat := dfield d 0x38 0 21
def vopBAXIS (d : Desc) : Nat := dfield d 0x3C 8 2
def vopAXIS (d : Desc) : Nat := dfield d 0x3C 6 2
def vopUNADJ (d : Desc) : Bool := decide (dfield d 0x3C 5 1 = 1)
def vopXSRC (d : Desc) : Bool := decide (dfield d 0x3C 4 1 = 1)
def vopWIDE (d : Desc) : Bool := decide (dfield d 0x3C 3 1 = 1)
def vopVFLUSH (d : Desc) : Bool := decide (dfield d 0x3C 2 1 = 1)
def vopRND (d : Desc) : Rm :=
  match dfield d 0x3C 0 2 with
  | 0 => .rne
  | 1 => .rtz
  | 2 => .rup
  | _ => .rdn

/-- A VOP descriptor of an operation (R570, R218). -/
def vopDesc (op : Nat) (d : Desc) : Desc := dput (withOpcode 2 d) 0x2C 0 8 op

/-- The operations of R218. -/
def vopValid (op : Nat) : Bool :=
  decide (op ≤ 4) || (decide (0x10 ≤ op) && decide (op ≤ 0x19)) || (decide (0x20 ≤ op) && decide (op ≤ 0x2C))
  || (decide (0x30 ≤ op) && decide (op ≤ 0x34)) || (decide (0x40 ≤ op) && decide (op ≤ 0x44))
def vopReadsY (op : Nat) : Bool := [0x03, 0x10, 0x11, 0x12, 0x13, 0x14, 0x16, 0x17, 0x41, 0x42, 0x43, 0x44].contains op
def vopReadsZ (op : Nat) : Bool := decide (op = 0x13) || decide (op = 0x41)
/-- Operations along a line (R225, R222). -/
def vopLine (op : Nat) : Bool := decide (0x30 ≤ op)
/-- Operations whose D has extent 1 along AXIS (R224, R225). -/
def vopReduces (op : Nat) : Bool := (decide (0x30 ≤ op) && decide (op ≤ 0x34)) || decide (op = 0x43)
/-- Operations 0x20 to 0x2C (R214). -/
def vopTrans (op : Nat) : Bool := decide (0x20 ≤ op) && decide (op ≤ 0x2C)

/-- Working precision (R214): 0 binary32, 1 binary64. -/
def vopWP (d : Desc) : Nat :=
  if vopTrans (vopOP d) then 0
  else if vopWIDE d || decide (tagFmt (vopXFMT d) = 1) || decide (tagFmt (vopYFMT d) = 1) || decide (tagFmt (vopDFMT d) = 1) then 1
  else 0

/-- Check 3 of R243. -/
def vopFieldBad (d : Desc) : Bool :=
  let op := vopOP d
  let blockD := isBlockTag (vopDFMT d)
  decide (dfield d 0x30 23 9 ≠ 0) || decide (dfield d 0x34 23 9 ≠ 0) || decide (dfield d 0x38 26 6 ≠ 0)
  || decide (dfield d 0x38 21 1 ≠ 0) || decide (dfield d 0x3C 10 22 ≠ 0)
  || decide (vopMFILL d = 3) || decide (vopMMODE d = 3) || !vopValid op
  || (!vopReadsY op && decide (vopYH d ≠ 0)) || (!vopReadsZ op && decide (vopZH d ≠ 0))
  || (!vopReadsY op && !vopReadsZ op && decide (vopYFMT d ≠ 0))
  || (vopXSRC d && (decide (vopXH d ≠ 0) || decide (vopXFMT d ≠ 0)))
  || (decide (op ≠ 4) && (isOfp8Tag (vopXFMT d) || isOfp8Tag (vopYFMT d) || isOfp8Tag (vopDFMT d)))
  || (decide (0x20 ≤ op) && decide (dfield d 0x3C 0 2 ≠ 0))
  || (if vopMMODE d = 2 then decide (vopWIN d = 0) else decide (vopWIN d ≠ 0))
  || (!vopLine op && decide (vopAXIS d ≠ 0))
  || (!blockD && decide (vopBAXIS d ≠ 0))
  || (vopUNADJ d && !vopXSRC d)
  || (vopXSRC d && ((vopLine op && decide (vopAXIS d ≠ 0)) || (blockD && decide (vopBAXIS d ≠ 0))))
  || (blockD && (decide (vopMFILL d = 1) || decide (vopMFILL d = 2)))

/-- A tensor's extents match a reference shape (R211). -/
def matchesRef (ref : List Nat) (t : Tensor) : Bool := (ref.zip t.ext).all (fun p => decide (p.2 = p.1) || decide (p.2 = 1))

/-- Check 6 of R243 against the shape of X; `x` is none where a transom-fed X has no shape yet. -/
def vopShapeBad (d : Desc) (x : Option (List Nat)) (s : State) : Bool :=
  let op := vopOP d
  let o := tensorAt (vopDH d) s
  let y := tensorAt (vopYH d) s
  let z := tensorAt (vopZH d) s
  let m := tensorAt (vopMH d) s
  let a := vopAXIS d
  let operandsBad (ref : List Nat) : Bool := (decide (vopYH d ≠ 0) && !matchesRef ref y) || (decide (vopZH d ≠ 0) && !matchesRef ref z)
    || (decide (vopMH d ≠ 0) && !matchesRef ref m)
  if vopLine op then
    (vopReduces op && decide (extOf o a ≠ 1))
    || ((decide (op = 0x43) || decide (op = 0x44)) && decide (extOf y a ≠ 1))
    || (match x with
      | none => false
      | some xs => operandsBad xs
        || (indexFrom 0 xs).any (fun p => decide (extOf o p.1 ≠ if p.1 = a && vopReduces op then 1 else p.2)))
  else operandsBad o.ext || (match x with
    | none => false
    | some xs => if vopXSRC d then decide (xs ≠ o.ext) else !((o.ext.zip xs).all (fun p => decide (p.2 = p.1) || decide (p.2 = 1))))

/-- Positions beyond the sequence limit (R230). -/
def vopPositionBad (d : Desc) (ref : List Nat) : Bool :=
  (decide (vopMMODE d = 1) || decide (vopMMODE d = 2)) &&
  (decide (2097151 < vopQPOS d + ref.getD (vopQAXIS d) 1 - 1) || decide (2097151 < vopKPOS d + ref.getD (vopKAXIS d) 1 - 1))

/-- The checks of R243 before the charge. -/
def vopChecks (e : InFlight) (s : State) : List (Nat × Nat × Bool) :=
  let d := e.desc
  let op := vopOP d
  let tags := [vopXFMT d, vopYFMT d, vopDFMT d]
  let x := tensorAt (vopXH d) s
  let o := tensorAt (vopDH d) s
  let needX := !vopXSRC d
  let bad (need : Bool) (h : Nat) : Bool := (need && handleBad e h s) || optHandleBad e h s
  let al (h : Nat) : Bool := decide (h ≠ 0) && aliases o (tensorAt h s) s
  [(1, stFormatInvalid, tags.any malformedTag),
   (2, stFormatNotPermitted, tags.any (ofp8Refused e)),
   (3, stFieldInvalid, vopFieldBad d),
   (4, stHandleInvalid, handleBad e (vopDH d) s || bad needX (vopXH d) || bad (vopReadsY op) (vopYH d) || bad (vopReadsZ op) (vopZH d)
      || bad false (vopMH d)),
   (5, stFormatMismatch, tagDiffers (vopXH d) (vopXFMT d) s || tagDiffers (vopYH d) (vopYFMT d) s || tagDiffers (vopZH d) (vopYFMT d) s
      || tagDiffers (vopDH d) (vopDFMT d) s || (isBlockTag o.fmt && decide (vopBAXIS d ≠ (rootOf o s).baxis))
      || (vopTrans op && (decide (tagFmt (vopXFMT d) = 1) || decide (tagFmt (vopDFMT d) = 1)))
      || (decide (op = 0x43) && decide (vopDFMT d ≠ 0) && decide (vopDFMT d ≠ 1))),
   (6, stShapeMismatch, vopShapeBad d (if needX then some x.ext else none) s),
   (7, stPositionRange, vopPositionBad d (if vopLine op && needX then x.ext else o.ext)),
   (8, stBlockLayoutInvalid, breaksBlocks o s),
   (9, stOperandAlias, al (vopXH d) || al (vopYH d) || al (vopZH d) || al (vopMH d))]

/-- Indices of d3 in one unit of division (R239). -/
def vopUnit (d : Desc) : Nat :=
  if vopLine (vopOP d) && decide (vopAXIS d = 3) then 2048
  else if isBlockTag (vopDFMT d) && decide (vopBAXIS d = 3) then blockSize (vopDFMT d)
  else 1

/-- The reference shape (R211). -/
def vopRef (e : InFlight) (s : State) : List Nat :=
  if vopLine (vopOP e.desc) then (if vopXSRC e.desc then e.xshape else (tensorAt (vopXH e.desc) s).ext)
  else (tensorAt (vopDH e.desc) s).ext

/-- Pair a transom-fed VOP with the MMA that its port holds (R234, R243); `s'` is the state with D's panes charged. DESIGN CHOICE
(log 255): positions beyond the limit along a dimension of X that D does not have fail check 7 here, for the VOP alone (R230). -/
def pairVop (e : InFlight) (s s' : State) : State :=
  match pairingOn e.port s with
  | none => finish e stTransomUnpaired 0 0 0 s
  | some m =>
    let x := [mmaN m.desc, mmaM m.desc, 1, 1]
    if vopShapeBad e.desc (some x) s || (vopLine (vopOP e.desc) && decide (32 < mmaN m.desc)) then
      finish e stShapeMismatch 0 0 0 (finish m stShapeMismatch 0 0 0 s)
    else if vopLine (vopOP e.desc) && vopPositionBad e.desc x then failCheck e stPositionRange 7 (breakPair e.port s)
    else
      let parts := partsFor e.port (mmaTiles m.desc) s'
      let s := setFlight m.id (fun f => { f with mate := some e.id }) s'
      let s := setFlight e.id (fun f => { f with mate := some m.id, xshape := x }) s
      launch e parts (launch m parts s)

/-- A VOP enters flight (R234, R239, R243). -/
def beginVop (e : InFlight) (s : State) : State :=
  let d := e.desc
  let o := tensorAt (vopDH d) s
  match firstFailure (vopChecks e s) with
  | some (n, st) => failCheck e st n (if vopXSRC d then breakPair e.port s else s)
  | none =>
    if vopXSRC d then
      match allocForWrite o s with
      | (s', 0) => pairVop e s s'
      | (s', st) => failCheck e st 10 (breakPair e.port s')
    else
      chargeThen e 10 o (launch e (partsFor e.port (ceilDiv ((vopRef e s).getD 3 1) (vopUnit d)) s)) s

/-! Elements. -/

/-- Coordinates of a matched tensor: an extent of 1 is broadcast (R211). -/
def bcast (t : Tensor) (x : List Nat) : List Nat := (x.zip t.ext).map (fun p => if p.2 = 1 then 0 else p.1)

/-- The working precision of a read element: value, flags, poison (R122, R215, R240). -/
def vopRead (core : Nat) (e : InFlight) (h : Nat) (x : List Nat) (s : State) : Num × Nat × Bool :=
  let d := e.desc
  let t := tensorAt h s
  let (v, poison) := fetchDecoded core e.id t (rootOf t s) (bcast t x) s
  if poison then (.nan, 0, true)
  else
    let (n, f) := readFlush (vopVFLUSH d) v
    let (w, f') := wround (vopWP d) .rne (vopVFLUSH d) n
    (w, f ||| f', false)

/-- The sign bit of a read element (R218); an element of a poisoned pane or block, and a NaN of GF16, has none (R108, R125). -/
def vopSign (core : Nat) (e : InFlight) (h : Nat) (x : List Nat) (s : State) : Bool :=
  let t := tensorAt h s
  let root := rootOf t s
  let (b, sc, poison) := fetchElem core e.id t root (bcast t x) s
  !poison && !(isBlockTag root.fmt && decide (sc = 255)) && !(decide (tagFmt root.fmt = 2) && (gf16Val b).isNan)
  && bitOf b (8 * fmtBytes root.fmt - 1)

/-- What COPYSIGN reads of Y (R215, R219): flags and poison. No INVALID where Y is of the working precision itself, since the operation
is no computational one. -/
def vopSignRead (core : Nat) (e : InFlight) (x : List Nat) (s : State) : Num × Nat × Bool :=
  let r := vopRead core e (vopYH e.desc) x s
  (.nan, if tagFmt (vopYFMT e.desc) = vopWP e.desc then r.2.1 &&& (2 ^ 32 - 2) else r.2.1, r.2.2)

/-- Whether a position is kept, and whether a poisoned mask element was read (R228, R229, R240). -/
def vopKept (core : Nat) (e : InFlight) (x : List Nat) (s : State) : Bool × Bool :=
  let d := e.desc
  let (m, poison) : Bool × Bool :=
    if vopMH d = 0 then (true, false)
    else
      let t := tensorAt (vopMH d) s
      let (v, p) := fetchDecoded core e.id t (rootOf t s) (bcast t x) s
      (v.num.isInf || v.num.isFinite, p)
  let qp := vopQPOS d + x.getD (vopQAXIS d) 0
  let kp := vopKPOS d + x.getD (vopKAXIS d) 0
  let pos := match vopMMODE d with
    | 0 => true
    | 1 => decide (kp ≤ qp)
    | _ => decide (kp ≤ qp) && decide (qp < kp + vopWIN d)
  (m && pos, poison)

/-- An immediate as a value of the working precision (R218). -/
def immOf (b : Nat) : Num × Nat := readFlush false (decodeBits 0 127 b)

/-- A result in D's format (R215, R216): bits and flags; a block format is encoded later. -/
def vopEncode (d : Desc) (v : Num) : Nat × Nat :=
  if isBlockTag (vopDFMT d) then (0, 0)
  else
    let f := tagFmt (vopDFMT d)
    if f = vopWP d then ((encode f false v).1, 0)
    else encodeWith f (if f = 0 ∨ f = 1 then vopRND d else .rne) (vopVFLUSH d) false v

/-- One position of operations 0x00 to 0x2C: value, bits, flags, poison; `xv` is X's element, `xbits` its bits (R218, R219, R240). -/
def elemAt (core : Nat) (e : InFlight) (x : List Nat) (xv : Num × Nat × Bool) (xbits : Nat) (s : State) : Num × Nat × Nat × Bool :=
  let d := e.desc
  let op := vopOP d
  let (yv, yf, yp) : Num × Nat × Bool :=
    if op = 3 then vopSignRead core e x s
    else if vopReadsY op then vopRead core e (vopYH d) x s else (.nan, 0, false)
  let (zv, zf, zp) : Num × Nat × Bool := if vopReadsZ op then vopRead core e (vopZH d) x s else (.nan, 0, false)
  let ys := decide (op = 3) && vopSign core e (vopYH d) x s
  if xv.2.2 || yp || zp then
    (.nan, (vopEncode d .nan).1, 0, true)
  else if decide (op ≤ 3) && decide (vopXFMT d = vopDFMT d) && decide (vopXFMT d ≤ 1) && xv.1.isNan then
    let w := 8 * fmtBytes (vopXFMT d) - 1
    let mag := xbits % 2 ^ w
    (.nan, (match op with
      | 0 => xbits
      | 1 => mag + b2n (!bitOf xbits w) * 2 ^ w
      | 2 => mag
      | _ => mag + b2n ys * 2 ^ w), yf, false)
  else
    let (i0, f0) := if op = 0x18 then immOf (vopIMM0 d) else (.nan, 0)
    let (i1, f1) := if op = 0x18 then immOf (vopIMM1 d) else (.nan, 0)
    let (v, f) := elemOp op (vopWP d) (vopRND d) (vopVFLUSH d) i0 i1 ys xv.1 yv zv
    let (b, g) := vopEncode d v
    (v, b, xv.2.1 ||| yf ||| zf ||| f0 ||| f1 ||| f ||| g, false)

/-- What MFILL writes (R231): none leaves the element unchanged. -/
def fillOf (d : Desc) : Option (Num × Nat) :=
  match vopMFILL d with
  | 0 => some (.zero false, (vopEncode d (.zero false)).1)
  | 1 => some (.inf true, (vopEncode d (.inf true)).1)
  | _ => none

/-! Parts and counters. -/

def setVx (n : Nat) (r : Option VxRun) (s : State) : State := { s with vx := optSet s.vx n r }

/-- A counter of R249 counts while CNTEN is 1, and the peephole with it (R705). -/
def vxCount (n : Nat) (f : Fld) (event k : Nat) (s : State) : State :=
  if k = 0 then s
  else peep 1 n event k (if flag (CORE.VXCTL_CNTEN n) s then addF f k s else s)

/-- Indices of d3 in a part (R239). -/
def partD3 (e : InFlight) (p : Part) (s : State) : Nat × Nat :=
  (p.lo * vopUnit e.desc, min ((vopRef e s).getD 3 1) (p.hi * vopUnit e.desc))

/-- The part whose units hold an index of d3 (R239). -/
def partAt (e : InFlight) (x3 : Nat) : Nat := e.parts.findIdx (fun p => decide (x3 / vopUnit e.desc < p.hi))

/-- The core of a part. -/
def coreOfPart (e : InFlight) (p : Nat) : Nat := ((e.parts[p]?).map (fun x => x.core)).getD 0

/-- The part whose tiles hold an output position of a transom-fed VOP (R237). -/
def partOfTile (e : InFlight) (x : List Nat) : Nat :=
  let t := x.getD 1 0 / 32 * ceilDiv (e.xshape.getD 0 1) 32 + x.getD 0 0 / 32
  e.parts.findIdx (fun p => decide (t < p.hi))

/-- The part that encodes the block of a position (R237): its own, or that of the block's first element. -/
def encPart (e : InFlight) (p : Nat) (x : List Nat) (s : State) : Nat :=
  let o := tensorAt (vopDH e.desc) s
  if vopXSRC e.desc && isBlockTag o.fmt then
    partOfTile e [x.getD 0 0 / blockSize o.fmt * blockSize o.fmt, x.getD 1 0, 0, 0]
  else p

/-- Write a result at a position of D: the value, its bits and marks (R183, R231, R236, R240). -/
def writeD (e : InFlight) (p : Nat) (x : List Nat) (v : Num) (bits : Nat) (poison : Bool) (adj : Int) (s : State) : State :=
  let o := tensorAt (vopDH e.desc) s
  let c := coreOfPart e p
  let q := encPart e p x s
  let s := putResult c (coreOfPart e q) e.id q o (rootOf o s) x v bits adj poison s
  if coreOfPart e q = c then vxCount c (CORE.VXELEMS_COUNT c) 2 1 s else s

/-- The tile of a position that the result leaves unchanged takes the adjustment of the transom tile all the same (R236). -/
def keepD (e : InFlight) (p : Nat) (x : List Nat) (adj : Int) (s : State) : State :=
  if vopXSRC e.desc && !vopUNADJ e.desc then
    let o := tensorAt (vopDH e.desc) s
    let root := rootOf o s
    let (pane, y) := locate root (baseCoords o x)
    putTadj (coreOfPart e p) e.id root pane y adj s
  else s

/-- Write MFILL at an excluded position (R231). -/
def writeFill (e : InFlight) (p : Nat) (x : List Nat) (adj : Int) (s : State) : State :=
  match fillOf e.desc with
  | some (v, b) => writeD e p x v b false adj s
  | none => vxCount (coreOfPart e p) (CORE.VXELEMS_COUNT (coreOfPart e p)) 2 1 (keepD e p x adj s)

/-- One position of operations 0x00 to 0x2C: read, compute, write (R212, R213, R231). -/
def stepElem (e : InFlight) (p : Nat) (x : List Nat) (xv : Num × Nat × Bool) (xbits : Nat) (adj : Int) (s : State) : State :=
  let c := coreOfPart e p
  let (kept, mp) := vopKept c e x s
  if kept then
    let (v, b, f, poison) := elemAt c e x xv xbits s
    let s := writeD e p x v b poison adj s
    let s := if vopTrans (vopOP e.desc) then vxCount c (CORE.VXTRANS_COUNT c) 3 1 s else s
    orPart e.id p (if poison || mp then stPoisonRead else 0) f 0 s
  else orPart e.id p (if mp then stPoisonRead else 0) 0 0 (writeFill e p x adj s)

/-- X's element from its handle: value, flags, poison, and bits. -/
def xFromHandle (core : Nat) (e : InFlight) (x : List Nat) (s : State) : (Num × Nat × Bool) × Nat :=
  let t := tensorAt (vopXH e.desc) s
  (vopRead core e (vopXH e.desc) x s, (fetchElem core e.id t (rootOf t s) (bcast t x) s).1)

/-- Transcendental results of a line (R209, R249): an EXP of SOFTMAX, XENT and XENTGRAD counts where its element was read, every other
one where the line is completed. DESIGN CHOICE (log 262): what counts is each function evaluated, which R209 does not say for lines. -/
def countTrans (e : InFlight) (p : Nat) (nt : Nat) (present : List Nat) (partOf : Nat → Nat) (s : State) : State :=
  let op := vopOP e.desc
  let soft := decide (nt ≠ 0) && (decide (op = 0x40) || decide (op = 0x43) || decide (op = 0x44))
  let add (q k : Nat) (s : State) : State := vxCount (coreOfPart e q) (CORE.VXTRANS_COUNT (coreOfPart e q)) 3 k s
  if soft then
    add p (nt - present.length) (forEach ((present.map partOf).eraseDups) (fun q s =>
      add q (present.filter (fun i => decide (partOf i = q))).length s) s)
  else add p nt s

/-- One line of operations 0x30 to 0x44 (R222 to R227, R239): `at i` gives the part of index i, `xAt` the element there. A part
that no longer runs is read as poisoned (log 52). POISON_READ goes to the parts that read a poisoned element, mask element or target
(R240). DESIGN CHOICE: the part that read it takes it where a line spans several parts (log 257); a XENT line without a present element
whose target is poisoned gives NaN, by R240, not the +0 of R227 (log 258). -/
def stepLine (e : InFlight) (p : Nat) (base : List Nat) (len : Nat) (partOf : Nat → Nat)
    (xAt : Nat → List Nat → Num × Nat × Bool) (adj : Int) (s : State) : State :=
  let d := e.desc
  let op := vopOP d
  let a := vopAXIS d
  let wp := vopWP d
  let pos (i : Nat) : List Nat := stepCoord base a i
  let core (i : Nat) : Nat := coreOfPart e (partOf i)
  let kept := (List.range len).map (fun i => vopKept (core i) e (pos i) s)
  let xs := (indexFrom 0 kept).map (fun k => if k.2.1 then some (xAt k.1 (pos k.1)) else none)
  let readAt (h i : Nat) : Num × Nat × Bool := vopRead (core i) e h (pos i) s
  let norm := decide (op = 0x41) || decide (op = 0x42)
  let loss := decide (op = 0x43) || decide (op = 0x44)
  let tgt := if loss then vopRead (coreOfPart e p) e (vopYH d) base s else (.nan, 0, false)
  let (imm, immf) := if op = 0x41 ∨ op = 0x42 ∨ op = 0x44 then immOf (vopIMM0 d) else (.nan, 0)
  let (rs, fl, nt) := lineOp op wp (vopVFLUSH d) imm (xs.map (fun x => x.map (fun v => v.1)))
    (fun i => (readAt (vopYH d) i).1) (fun i => (readAt (vopZH d) i).1) tgt.1
  let empty := !xs.any (fun x => x.isSome)
  let poison := xs.any (fun x => match x with | some v => v.2.2 | none => false) || (loss && tgt.2.2)
  -- flags of reading, by index
  let rf : LFlags := (indexFrom 0 xs).filterMap (fun x => x.2.map (fun v =>
    (some x.1, v.2.1 ||| (if norm then (readAt (vopYH d) x.1).2.1 else 0) ||| (if op = 0x41 then (readAt (vopZH d) x.1).2.1 else 0))))
  let all := if empty then [] else rf ++ fl ++ [(none, (if loss then tgt.2.1 else 0) ||| immf)]
  let s := forEach all (fun f s => orPart e.id (match f.1 with | some i => partOf i | none => p) 0 f.2 0 s) s
  let hit (i : Nat) : Bool := (kept.getD i (false, false)).2 || (match xs.getD i none with | some v => v.2.2 | none => false)
  let s := forEach (((List.range len).filter hit).map partOf).eraseDups (fun q s => orPart e.id q stPoisonRead 0 0 s) s
  let s := if loss && tgt.2.2 then orPart e.id p stPoisonRead 0 0 s else s
  let present := (indexFrom 0 xs).filterMap (fun x => if x.2.isSome then some x.1 else none)
  let s := countTrans e p nt present partOf s
  if vopReduces op then
    let v := if poison then .nan else (rs.headD none).getD .nan
    let (b, g) := vopEncode d v
    orPart e.id p 0 (if poison || empty then 0 else g) 0 (writeD e p (stepCoord base a 0) v b poison adj s)
  else
    forEach (indexFrom 0 rs) (fun r s =>
      let q := partOf r.1
      match r.2 with
      | none => writeFill e q (pos r.1) adj s
      | some v =>
        let own := (norm && (readAt (vopYH d) r.1).2.2) || (decide (op = 0x41) && (readAt (vopZH d) r.1).2.2)
        let bad := poison || own
        let v := if bad then Num.nan else v
        let (b, g) := vopEncode d v
        orPart e.id q (if own then stPoisonRead else 0) (if bad then 0 else g) 0 (writeD e q (pos r.1) v b bad adj s)) s

/-! Steps. -/

/-- Elements of a vector (R212). -/
def vecWidth (d : Desc) : Nat := if vopWP d = 1 then 64 else 128

/-- Vectors of a part. -/
def vecTotal (e : InFlight) (p : Part) (s : State) : Nat :=
  let r := vopRef e s
  let (lo, hi) := partD3 e p s
  ceilDiv (r.getD 0 1) (vecWidth e.desc) * r.getD 1 1 * r.getD 2 1 * (hi - lo)

/-- The positions of vector `k` of a part (R212). -/
def vecPositions (e : InFlight) (p : Part) (k : Nat) (s : State) : List (List Nat) :=
  let r := vopRef e s
  let w := vecWidth e.desc
  let per := ceilDiv (r.getD 0 1) w
  let line := k / per
  let x0 := k % per * w
  (List.range (min w (r.getD 0 1 - x0))).map (fun i =>
    [x0 + i, line % r.getD 1 1, line / r.getD 1 1 % r.getD 2 1, (partD3 e p s).1 + line / r.getD 1 1 / r.getD 2 1])

/-- The panes that a VOP reads at positions (R140, R247). -/
def vopPanes (e : InFlight) (xs : List (List Nat)) (s : State) : List (Nat × Nat) :=
  ([vopXH e.desc, vopYH e.desc, vopZH e.desc, vopMH e.desc].filter (fun h => decide (h ≠ 0))).flatMap (fun h =>
    let t := tensorAt h s
    let root := rootOf t s
    ((xs.map (fun x => (locate root (baseCoords t (bcast t x))).1)).eraseDups).map (fun p => (root.handle, p)))

/-- The output positions of a transom tile (R235). -/
def tilePositions (e : InFlight) (tile : Nat) : List (List Nat) :=
  let n := e.xshape.getD 0 1
  let m := e.xshape.getD 1 1
  let i := tile / ceilDiv n 32 * 32
  let j := tile % ceilDiv n 32 * 32
  (List.range (min 32 (m - i))).flatMap (fun r => (List.range (min 32 (n - j))).map (fun c => [j + c, i + r, 0, 0]))

/-- The panes that the next step of a vector engine reads. -/
def vxPanes (e : InFlight) (r : VxRun) (s : State) : List (Nat × Nat) :=
  match e.parts[r.part]? with
  | none => []
  | some p => vopPanes e (if vopXSRC e.desc then tilePositions e (p.lo + r.pos) else vecPositions e p r.pos s) s

/-- A line whose parts cannot all be read at its last step: AXIS 3 over several parts (R239). -/
def vopSpread (e : InFlight) : Bool := vopLine (vopOP e.desc) && decide (vopAXIS e.desc = 3) && decide (1 < e.parts.length)

/-- A part of a spread VOP has read all its positions, or no longer runs. -/
def partWalked (e : InFlight) (p : Nat) (s : State) : Bool :=
  match e.parts[p]? with
  | none => true
  | some x => decide (x.st = .ended) || decide (x.st = .complete)
    || s.vx.any (fun r => decide (r.2.id = e.id) && decide (r.2.part = p) && r.2.done)

/-- A part that ended without its work: its unit was closed or reset. -/
def partLost (p : Part) : Bool :=
  (decide (p.st = .ended) || decide (p.st = .complete)) && (decide (p.status = stUnitClosed) || decide (p.status = stRegionReset))

/-- The part whose tiles hold the i-th value of a block of a transom-fed VOP (R237). -/
def seamSource (e : InFlight) (b : EncBlk) (i : Nat) (s : State) : Option Part :=
  let t := tensorAt (vopDH e.desc) s
  let x := ((indexFrom 0 b.first).map (fun c => if c.1 = b.axis then c.2 + i else c.2)).zip t.org |>.map (fun c => c.1 - c.2)
  let tile := x.getD 1 0 / 32 * ceilDiv (e.xshape.getD 0 1) 32 + x.getD 0 0 / 32
  e.parts.find? (fun p => decide (p.lo ≤ tile) && decide (tile < p.hi))

/-- Seam contributions that a lost part will never make count as poisoned values (R238, log 52). -/
def fillLost (e : InFlight) (s : State) : State :=
  if vopXSRC e.desc && e.parts.any partLost then
    { s with encs := updateWhere (fun b => decide (b.id = e.id) && decide (b.core = b.dest)) (fun b =>
        { b with got := b.got ++ ((List.range b.len).filter (fun i => !b.got.any (fun g => decide (g.1 = i))
          && ((seamSource e b i s).map partLost).getD false)).map (fun i => (i, .nan, true, 0)) }) s.encs }
  else s

/-- The engine leaves a part whose blocks are all held, or waits on the seam area (R237). -/
def leaveVx (n : Nat) (r : VxRun) (s : State) : State :=
  let s := match flight r.id s with
    | some e => fillLost e s
    | none => s
  if s.encs.any (fun b => decide (b.core = n) && decide (b.dest = n) && decide (b.id = r.id) && decide (b.got.length < b.len)) then
    setF (CORE.VXSTAT_SEAMWAIT n) 1 (setVx n (some { r with done := true }) s)
  else
    checkEnd r.id r.part (setF (CORE.VXSTAT_BUSY n) 0 (setF (CORE.VXSTAT_SEAMWAIT n) 0 (setF (CORE.VXSTAT_TRWAIT n) 0
      (setF (CORE.VXSTAT_WIDE n) 0 (setVx n none s)))))

/-- Every part of a spread VOP has been read: the lines are completed by part `p` and the engines leave (R239). -/
def completeSpread (e : InFlight) (p : Nat) (s : State) : State :=
  let r := vopRef e s
  let dead (q : Nat) : Bool := match e.parts[q]? with
    | none => true
    | some x => decide (x.st = .ended) || decide (x.st = .complete)
  let s := forEach (List.range (r.getD 2 1)) (fun x2 s => forEach (List.range (r.getD 1 1)) (fun x1 s =>
    forEach (List.range (r.getD 0 1)) (fun x0 s =>
      stepLine e p [x0, x1, x2, 0] (r.getD 3 1) (fun i => partAt e i)
        (fun i x => if dead (partAt e i) then (.nan, 0, true) else (xFromHandle (coreOfPart e (partAt e i)) e x s).1) 0 s) s) s) s
  forEach (s.vx.filter (fun v => decide (v.2.id = e.id))) (fun v s => leaveVx v.1 v.2 s) s

/-- VECTOR_STEP (R208, R212): the next vector of the part that the engine runs. -/
def execVectorStep (n : CoreNo) (s : State) : Host.Outcome State Fault Refusal :=
  .next (match optGet s.vx n with
    | none => s
    | some r =>
      match flight r.id s with
      | none => s
      | some e =>
        match e.parts[r.part]? with
        | none => s
        | some p =>
          if vectorUp n s && !flag (CORE.VXSTAT_OPWAIT n) s && !r.done && !vopXSRC e.desc then
            let xs := vecPositions e p r.pos s
            let s := peep 1 n 1 1 s
            let a := vopAXIS e.desc
            let s :=
              if !vopLine (vopOP e.desc) then
                forEach xs (fun x s => let (v, b) := xFromHandle n e x s; stepElem e r.part x v b 0 s) s
              else if vopSpread e then s
              else
                let len := (vopRef e s).getD a 1
                let ends := (xs.filter (fun x => decide (x.getD a 0 + 1 = len))).map (fun x =>
                  (indexFrom 0 x).map (fun c => if c.1 = a then 0 else c.2))
                forEach ends (fun b s => stepLine e r.part b len (fun _ => r.part)
                  (fun _ x => (xFromHandle n e x s).1) 0 s) s
            let r' := { r with pos := r.pos + 1 }
            if r'.pos < vecTotal e p s then
              setF (CORE.VXSTAT_OPWAIT n) (b2n (!allStaged n e.id (vxPanes e r' s) s)) (setVx n (some r') s)
            else if vopSpread e then
              let s := setVx n (some { r' with done := true }) s
              if (List.range e.parts.length).all (fun q => partWalked e q s) then completeSpread e r.part s else s
            else leaveVx n r' s
          else s)

/-! The transom's vector side (R233 to R237). -/

/-- X's element from a transom tile: UNADJ scales it by 2^-adj in binary32, else it is converted as it stands (R236). -/
def xFromTile (e : InFlight) (t : TrEntry) (k : Nat) : Num × Nat × Bool :=
  let fl := vopVFLUSH e.desc
  let (v, f) := readFlush fl (decodeBits 0 127 (t.bits.getD k 0))
  let (v, f) := if vopUNADJ e.desc then let (w, g) := wround 0 .rne fl (scaleNum (-t.adj) v); (w, f ||| g) else (v, f)
  let (w, g) := wround (vopWP e.desc) .rne fl v
  (w, f ||| g, false)

/-- TRANSOM_CONSUME (R232, R233, R235, R236): the tile at the head is read, its results are formed, and the entry is freed. -/
def execTransomConsume (n : CoreNo) (s : State) : Host.Outcome State Fault Refusal :=
  .next (match optGet s.vx n with
    | none => s
    | some r =>
      match flight r.id s with
      | none => s
      | some e =>
        match e.parts[r.part]? with
        | none => s
        | some p =>
          if vectorUp n s && !flag (CORE.VXSTAT_OPWAIT n) s && !r.done && vopXSRC e.desc then
            match assocGet [] s.transom n with
            | [] => setF (CORE.VXSTAT_TRWAIT n) 1 s
            | t :: rest =>
              let adj := if vopUNADJ e.desc then 0 else t.adj
              let tile := p.lo + t.tile
              let xs := tilePositions e tile
              let idx (x : List Nat) : Nat := x.getD 1 0 % 32 * 32 + x.getD 0 0 % 32
              let s :=
                if vopLine (vopOP e.desc) then
                  forEach (xs.filter (fun x => decide (x.getD 0 0 = 0))) (fun b s =>
                    stepLine e r.part b (e.xshape.getD 0 1) (fun _ => r.part) (fun _ x => xFromTile e t (idx x)) adj s) s
                else forEach xs (fun x s => stepElem e r.part x (xFromTile e t (idx x))
                  (if vopUNADJ e.desc then canonNan 0 else t.bits.getD (idx x) 0) adj s) s
              let s := transomFree n { s with transom := assocSet [] s.transom n rest }
              let s := showTransom n (match rest with
                | [] => t.tile + 1
                | h :: _ => h.tile) s
              let s := vxCount n (CORE.VXTRTILES_COUNT n) 4 1 s
              let r' := { r with pos := r.pos + 1 }
              if p.lo + r'.pos < p.hi then
                setF (CORE.VXSTAT_TRWAIT n) (b2n rest.isEmpty)
                  (setF (CORE.VXSTAT_OPWAIT n) (b2n (!allStaged n e.id (vxPanes e r' s) s)) (setVx n (some r') s))
              else leaveVx n r' s
          else s)

/-! Staging and encoders. -/

/-- OPERAND_STAGED (R140, R177, R247): an engine that waits goes on once every pane it needs has arrived. -/
def execOperandStaged (n : CoreNo) (s : State) : Host.Outcome State Fault Refusal :=
  let s := match optGet s.mx n with
    | none => s
    | some r => match flight r.id s with
      | none => s
      | some e => if allStaged n e.id (tilePanes e r.tile s) s then setF (CORE.MXSTAT_OPWAIT n) 0 s else s
  .next (match optGet s.vx n with
    | none => s
    | some r => match flight r.id s with
      | none => s
      | some e => if allStaged n e.id (vxPanes e r s) s then setF (CORE.VXSTAT_OPWAIT n) 0 s else s)

/-- BLOCK_ENCODE (R183, R184): the oldest whole block that the core's encoder holds is scaled, encoded and written. -/
def execBlockEncode (n : CoreNo) (s : State) : Host.Outcome State Fault Refusal :=
  .next (match encReady n s with
    | none => s
    | some b =>
      match flight b.id s with
      | none => encDrop b s
      | some e =>
        let mma := decide (e.opcode = 1)
        if (if mma then matrixUp n s else vectorUp n s) then
          let root := tensorAt b.handle s
          let vs := encValues b
          let flush := if mma then mmaOFLUSH e.desc else vopVFLUSH e.desc
          let poison := vs.any (fun v => v.2.1)
          let (sc, es, f) := encodeBlock (tagFmt root.fmt) flush (vs.map (fun v => v.1))
          let s := putBlock n e.id root b.first sc (es.zip (vs.map (fun v => v.2.2))) poison (encDrop b s)
          let s := orPart e.id b.part (if poison then stPoisonRead else 0) f 0 s
          let s := if mma then setSticky (mxSticky n) f s else s
          checkEnd e.id b.part s
        else s)

/-- SEAM_CONTRIBUTION (R237): the oldest values that core `n` holds for another core's block reach that core's encoder. -/
def execSeamContribution (n : CoreNo) (s : State) : Host.Outcome State Fault Refusal :=
  .next (match s.encs.find? (fun b => decide (b.core = n.val) && decide (b.dest ≠ n.val)) with
    | none => s
    | some b =>
      let gone : Bool := match (flight b.id s).bind (fun e => e.parts[b.part]?) with
        | some p => decide (p.st ≠ .running)
        | none => true
      if gone then
        match flight b.id s with
        | some e => checkEnd b.id (e.parts.findIdx (fun p => decide (p.core = n.val))) (encDrop b s)
        | none => encDrop b s
      else if vectorUp n s && vectorUp b.dest s then
        let is (x : EncBlk) : Bool := decide (x.core = b.dest) && decide (x.dest = b.dest) && decide (x.id = b.id)
          && decide (x.handle = b.handle) && decide (x.first = b.first)
        let s := vxCount b.dest (CORE.VXELEMS_COUNT b.dest) 2 b.got.length (encDrop b s)
        let s := if s.encs.any is then { s with encs := updateWhere is (fun x => { x with got := x.got ++ b.got }) s.encs }
          else { s with encs := s.encs ++ [{ b with core := b.dest }] }
        let s := match flight b.id s with
          | some e => checkEnd b.id (e.parts.findIdx (fun p => decide (p.core = n.val))) s
          | none => s
        match optGet s.vx b.dest with
        | some r => if r.done && decide (r.id = b.id) then leaveVx b.dest r s else s
        | none => s
      else s)

/-- VXCTL_CNTCLR (R246). DESIGN CHOICE (log 256): TRSTAT[PEAK] is cleared with entries in the queue too, and counts afresh from the next
write or consumption (R250). -/
def execVxctlCntclr (n : CoreNo) (s : State) : Host.Outcome State Fault Refusal :=
  .next (hostWrite .late (fun s =>
    setF (CORE.VXELEMS_COUNT n) 0 (setF (CORE.VXTRANS_COUNT n) 0 (setF (CORE.VXTRTILES_COUNT n) 0
      (setF (CORE.TRSTAT_PEAK n) 0 s)))) s)

/-! The rows of the operation table (R218). -/

/-- VOP_COPY (R218): OP 0x00. -/
def execVopCopy (q : QueueNo) (d : Desc) (s : State) : Host.Outcome State Fault Refusal :=
  .next (takeRing q (vopDesc 0x00 d) beginVop s)

/-- VOP_NEG (R218): OP 0x01. -/
def execVopNeg (q : QueueNo) (d : Desc) (s : State) : Host.Outcome State Fault Refusal :=
  .next (takeRing q (vopDesc 0x01 d) beginVop s)

/-- VOP_ABS (R218): OP 0x02. -/
def execVopAbs (q : QueueNo) (d : Desc) (s : State) : Host.Outcome State Fault Refusal :=
  .next (takeRing q (vopDesc 0x02 d) beginVop s)

/-- VOP_COPYSIGN (R218): OP 0x03. -/
def execVopCopysign (q : QueueNo) (d : Desc) (s : State) : Host.Outcome State Fault Refusal :=
  .next (takeRing q (vopDesc 0x03 d) beginVop s)

/-- VOP_CVT (R218): OP 0x04. -/
def execVopCvt (q : QueueNo) (d : Desc) (s : State) : Host.Outcome State Fault Refusal :=
  .next (takeRing q (vopDesc 0x04 d) beginVop s)

/-- VOP_ADD (R218): OP 0x10. -/
def execVopAdd (q : QueueNo) (d : Desc) (s : State) : Host.Outcome State Fault Refusal :=
  .next (takeRing q (vopDesc 0x10 d) beginVop s)

/-- VOP_SUB (R218): OP 0x11. -/
def execVopSub (q : QueueNo) (d : Desc) (s : State) : Host.Outcome State Fault Refusal :=
  .next (takeRing q (vopDesc 0x11 d) beginVop s)

/-- VOP_MUL (R218): OP 0x12. -/
def execVopMul (q : QueueNo) (d : Desc) (s : State) : Host.Outcome State Fault Refusal :=
  .next (takeRing q (vopDesc 0x12 d) beginVop s)

/-- VOP_FMA (R218): OP 0x13. -/
def execVopFma (q : QueueNo) (d : Desc) (s : State) : Host.Outcome State Fault Refusal :=
  .next (takeRing q (vopDesc 0x13 d) beginVop s)

/-- VOP_DIV (R218): OP 0x14. -/
def execVopDiv (q : QueueNo) (d : Desc) (s : State) : Host.Outcome State Fault Refusal :=
  .next (takeRing q (vopDesc 0x14 d) beginVop s)

/-- VOP_SQRT (R218): OP 0x15. -/
def execVopSqrt (q : QueueNo) (d : Desc) (s : State) : Host.Outcome State Fault Refusal :=
  .next (takeRing q (vopDesc 0x15 d) beginVop s)

/-- VOP_MIN (R218): OP 0x16. -/
def execVopMin (q : QueueNo) (d : Desc) (s : State) : Host.Outcome State Fault Refusal :=
  .next (takeRing q (vopDesc 0x16 d) beginVop s)

/-- VOP_MAX (R218): OP 0x17. -/
def execVopMax (q : QueueNo) (d : Desc) (s : State) : Host.Outcome State Fault Refusal :=
  .next (takeRing q (vopDesc 0x17 d) beginVop s)

/-- VOP_AFFINE (R218): OP 0x18. -/
def execVopAffine (q : QueueNo) (d : Desc) (s : State) : Host.Outcome State Fault Refusal :=
  .next (takeRing q (vopDesc 0x18 d) beginVop s)

/-- VOP_RELU (R218): OP 0x19. -/
def execVopRelu (q : QueueNo) (d : Desc) (s : State) : Host.Outcome State Fault Refusal :=
  .next (takeRing q (vopDesc 0x19 d) beginVop s)

/-- VOP_EXP (R218): OP 0x20. -/
def execVopExp (q : QueueNo) (d : Desc) (s : State) : Host.Outcome State Fault Refusal :=
  .next (takeRing q (vopDesc 0x20 d) beginVop s)

/-- VOP_EXP2 (R218): OP 0x21. -/
def execVopExp2 (q : QueueNo) (d : Desc) (s : State) : Host.Outcome State Fault Refusal :=
  .next (takeRing q (vopDesc 0x21 d) beginVop s)

/-- VOP_LOG (R218): OP 0x22. -/
def execVopLog (q : QueueNo) (d : Desc) (s : State) : Host.Outcome State Fault Refusal :=
  .next (takeRing q (vopDesc 0x22 d) beginVop s)

/-- VOP_LOG2 (R218): OP 0x23. -/
def execVopLog2 (q : QueueNo) (d : Desc) (s : State) : Host.Outcome State Fault Refusal :=
  .next (takeRing q (vopDesc 0x23 d) beginVop s)

/-- VOP_RCP (R218): OP 0x24. -/
def execVopRcp (q : QueueNo) (d : Desc) (s : State) : Host.Outcome State Fault Refusal :=
  .next (takeRing q (vopDesc 0x24 d) beginVop s)

/-- VOP_RSQRT (R218): OP 0x25. -/
def execVopRsqrt (q : QueueNo) (d : Desc) (s : State) : Host.Outcome State Fault Refusal :=
  .next (takeRing q (vopDesc 0x25 d) beginVop s)

/-- VOP_SIN (R218): OP 0x26. -/
def execVopSin (q : QueueNo) (d : Desc) (s : State) : Host.Outcome State Fault Refusal :=
  .next (takeRing q (vopDesc 0x26 d) beginVop s)

/-- VOP_COS (R218): OP 0x27. -/
def execVopCos (q : QueueNo) (d : Desc) (s : State) : Host.Outcome State Fault Refusal :=
  .next (takeRing q (vopDesc 0x27 d) beginVop s)

/-- VOP_TANH (R218): OP 0x28. -/
def execVopTanh (q : QueueNo) (d : Desc) (s : State) : Host.Outcome State Fault Refusal :=
  .next (takeRing q (vopDesc 0x28 d) beginVop s)

/-- VOP_SIGMOID (R218): OP 0x29. -/
def execVopSigmoid (q : QueueNo) (d : Desc) (s : State) : Host.Outcome State Fault Refusal :=
  .next (takeRing q (vopDesc 0x29 d) beginVop s)

/-- VOP_ERF (R218): OP 0x2A. -/
def execVopErf (q : QueueNo) (d : Desc) (s : State) : Host.Outcome State Fault Refusal :=
  .next (takeRing q (vopDesc 0x2A d) beginVop s)

/-- VOP_GELU (R218): OP 0x2B. -/
def execVopGelu (q : QueueNo) (d : Desc) (s : State) : Host.Outcome State Fault Refusal :=
  .next (takeRing q (vopDesc 0x2B d) beginVop s)

/-- VOP_SILU (R218): OP 0x2C. -/
def execVopSilu (q : QueueNo) (d : Desc) (s : State) : Host.Outcome State Fault Refusal :=
  .next (takeRing q (vopDesc 0x2C d) beginVop s)

/-- VOP_RSUM (R218): OP 0x30. -/
def execVopRsum (q : QueueNo) (d : Desc) (s : State) : Host.Outcome State Fault Refusal :=
  .next (takeRing q (vopDesc 0x30 d) beginVop s)

/-- VOP_RSUMSQ (R218): OP 0x31. -/
def execVopRsumsq (q : QueueNo) (d : Desc) (s : State) : Host.Outcome State Fault Refusal :=
  .next (takeRing q (vopDesc 0x31 d) beginVop s)

/-- VOP_RMAX (R218): OP 0x32. -/
def execVopRmax (q : QueueNo) (d : Desc) (s : State) : Host.Outcome State Fault Refusal :=
  .next (takeRing q (vopDesc 0x32 d) beginVop s)

/-- VOP_RMIN (R218): OP 0x33. -/
def execVopRmin (q : QueueNo) (d : Desc) (s : State) : Host.Outcome State Fault Refusal :=
  .next (takeRing q (vopDesc 0x33 d) beginVop s)

/-- VOP_RAMAX (R218): OP 0x34. -/
def execVopRamax (q : QueueNo) (d : Desc) (s : State) : Host.Outcome State Fault Refusal :=
  .next (takeRing q (vopDesc 0x34 d) beginVop s)

/-- VOP_SOFTMAX (R218): OP 0x40. -/
def execVopSoftmax (q : QueueNo) (d : Desc) (s : State) : Host.Outcome State Fault Refusal :=
  .next (takeRing q (vopDesc 0x40 d) beginVop s)

/-- VOP_LAYERNORM (R218): OP 0x41. -/
def execVopLayernorm (q : QueueNo) (d : Desc) (s : State) : Host.Outcome State Fault Refusal :=
  .next (takeRing q (vopDesc 0x41 d) beginVop s)

/-- VOP_RMSNORM (R218): OP 0x42. -/
def execVopRmsnorm (q : QueueNo) (d : Desc) (s : State) : Host.Outcome State Fault Refusal :=
  .next (takeRing q (vopDesc 0x42 d) beginVop s)

/-- VOP_XENT (R218): OP 0x43. -/
def execVopXent (q : QueueNo) (d : Desc) (s : State) : Host.Outcome State Fault Refusal :=
  .next (takeRing q (vopDesc 0x43 d) beginVop s)

/-- VOP_XENTGRAD (R218): OP 0x44. -/
def execVopXentgrad (q : QueueNo) (d : Desc) (s : State) : Host.Outcome State Fault Refusal :=
  .next (takeRing q (vopDesc 0x44 d) beginVop s)

end Sys2Proof.Machine
end

