-- ==== Sys2Proof/Machine/Window.lean ====
section
/-! DEFINITION. The HDM window (chapter 15): its slots, its states, and the accesses that CXL.mem, BAR4 and descriptors make. -/

namespace Sys2Proof.Machine

/-- States of HDMSTAT (R631). -/
def winOff : Nat := 0
def winZeroing : Nat := 1
def winReady : Nat := 2
def winReleasing : Nat := 3
def winFailed : Nat := 4
def winState (s : State) : Nat := getF HOSTIF.HDMSTAT_STATE s

/-- Window units of 64 KiB (R615). -/
def winUnits (s : State) : Nat := getF HOSTIF.HDMSIZE_UNITS s * 4096

/-- The length of the window that a descriptor or BAR4 sees (R619). -/
def winLen (s : State) : Nat := if winState s = winReady then getF HOSTIF.HDMSIZE_UNITS s * 2 ^ 28 else 0

/-- Insert into a rising list of numbers. -/
def insertNat (x : Nat) : List Nat → List Nat
  | [] => [x]
  | y :: t => if x ≤ y then x :: y :: t else y :: insertNat x t

def sortNat (l : List Nat) : List Nat := l.foldr insertNat []

/-- Drop repeats of a rising list. -/
def dedupNat : List Nat → List Nat
  | [] => []
  | [x] => [x]
  | x :: y :: t => if x = y then dedupNat (y :: t) else x :: dedupNat (y :: t)

/-- The lowest `need` slots below `cap` that a rising list of taken slots leaves free, from `pos`, as runs. -/
def gapRuns (cap : Nat) : List Nat → Nat → Nat → List (Nat × Nat)
  | [], pos, need => let n := min need (cap - pos); if n = 0 then [] else [(pos, n)]
  | t :: ts, pos, need =>
    let n := min need (min t cap - pos)
    (if n = 0 then [] else [(pos, n)]) ++ gapRuns cap ts (max pos (t + 1)) (need - n)

/-- Slots of a unit that panes hold, rising. -/
def paneSlots (u : Nat) (s : State) : List Nat :=
  sortNat ((s.panes.filter (fun p => decide (p.2.unit = u))).map (fun p => p.2.slot))

/-- Window units that the i-th of `n` channels holds (R615). -/
def winShare (total n i : Nat) : Nat := (total + n - 1 - i) / n

/-- The runs of slots that a window of `total` units takes on channels `ch`, past the slots `taken` names (R615); none when a
channel lacks free slots. -/
def winPlan (total : Nat) (ch : List Nat) (taken : Nat → List Nat) (s : State) : Option (List (Nat × Nat × Nat)) :=
  (indexFrom 0 ch).foldl (fun acc p =>
    match acc with
    | none => none
    | some l =>
      let need := winShare total ch.length p.1
      let runs := gapRuns (unitSlots p.2 s) (taken p.2) 0 need
      if (runs.map (fun r => r.2)).sum = need then some (l ++ runs.map (fun r => (p.2, r.1, r.2))) else none) (some [])

/-- The channels that hold the window, in ascending order. -/
def winChans (runs : List (Nat × Nat × Nat)) : List Nat := dedupNat (sortNat (runs.map (fun r => r.1)))

/-- The k-th slot of a list of runs. -/
def nthSlot : List (Nat × Nat × Nat) → Nat → Nat
  | [], _ => 0
  | r :: t, k => if k < r.2.2 then r.2.1 + k else nthSlot t (k - r.2.2)

/-- Memory unit and slot of a window unit (R615). -/
def winSlot (runs : List (Nat × Nat × Nat)) (u : Nat) : Nat × Nat :=
  let ch := winChans runs
  let c := ch.getD (u % max 1 ch.length) 16
  (c, nthSlot (runs.filter (fun r => decide (r.1 = c))) (u / max 1 ch.length))

/-- Memory address of a window offset (R615). -/
def winAddr (o : Nat) (s : State) : Nat :=
  let (c, n) := winSlot s.winRuns (o / 65536)
  memAddr c n (o % 65536)

/-- A window line reads as poisoned (R621): its channel is not OPEN, or its codeword is poisoned. -/
def winPoisoned (o : Nat) (s : State) : Bool :=
  !unitOpen (winSlot s.winRuns (o / 65536)).1 s || s.poison.contains (lineOf (winAddr o s))

/-- The host tenant's top-level casement (R618). -/
def hostCasement (s : State) : Option Nat :=
  match s.image with
  | some im => ((indexFrom 0 im.casements).find? (fun p => p.2.host)).map (fun p => p.1)
  | none => none

/-- The window's charge to the D account of the host tenant (R618): it never fails. -/
def chargeWindow (s : State) : State :=
  match hostCasement s with
  | some c => charge c 1 (winUnits s) s
  | none => s
def unchargeWindow (s : State) : State :=
  match hostCasement s with
  | some c => uncharge c 1 (winUnits s) s
  | none => s

/-- The window has slots (R619). -/
def winHeld (s : State) : Bool := winState s = winZeroing || winState s = winReady || winState s = winReleasing

/-- A descriptor names the window (R619). -/
def namesWindow (e : InFlight) : Bool :=
  (decide (e.opcode = 3) && (decide (dfield e.desc 0x2C 0 8 = 3) || decide (dfield e.desc 0x2C 0 8 = 4)))
  || (decide (e.opcode = 8) && decide (dfield e.desc 0x2C 0 8 ≤ 1))
  || (decide (e.opcode = 6) && decide (dfield e.desc 0x11 0 8 = 0))

/-- OFF or FAILED to ZEROING or FAILED, when EN is 1 (R619). -/
def startWindow (s : State) : State :=
  let fail (err : Nat) (s : State) : State :=
    errRecord clsHost 1 96 0 noUnit [err] (setF HOSTIF.HDMSTAT_ERR err (setF HOSTIF.HDMSTAT_STATE winFailed s))
  let ch := tierUnits 1 s
  if ch = [] then fail 2 s
  else match winPlan (winUnits s) ch (fun u => paneSlots u s) s with
    | none => fail 1 s
    | some runs =>
      let s := chargeWindow { s with winRuns := runs }
      setF HOSTIF.HDMSTAT_CHANS ch.length (setF HOSTIF.HDMSTAT_STATE winZeroing s)

/-- The memory bytes of the window's slots are dropped: zeros (R619). -/
def wipeWindow (s : State) : State :=
  forEach s.winRuns (fun r s => wipeRange (memAddr r.1 r.2.1 0) (memAddr r.1 (r.2.1 + r.2.2) 0) s) s

/-- The window is released to OFF (R619, R626): its slots are free and hold HANDLE 0 (R263). -/
def freeWindow (s : State) : State :=
  let s := unchargeWindow (wipeWindow s)
  setF HOSTIF.HDMSTAT_CHANS 0 (setF HOSTIF.HDMSTAT_STATE winOff { s with winRuns := [] })

/-- READY with EN 0 begins RELEASING; OFF with EN 1 begins ZEROING (R619). -/
def followWindow (s : State) : State :=
  let en := flag HOSTIF.HDMCTL_EN s
  if winState s = winReady && !en && !s.cfg.decoderCommitted then setF HOSTIF.HDMSTAT_STATE winReleasing s
  else if winState s = winOff && en then startWindow s
  else if winState s = winFailed && !en then setF HOSTIF.HDMSTAT_ERR 0 (setF HOSTIF.HDMSTAT_STATE winOff s)
  else s

/-- HDMCTL_EN (R619, R630). -/
def execHdmctlEn (on : Bool) (s : State) : Host.Outcome State Fault Refusal :=
  .next (hostWrite .early (fun s =>
    if !on && s.cfg.decoderCommitted then regAccessError HOSTIF.HDMCTL_EN.addr s
    else followWindow (setF HOSTIF.HDMCTL_EN (b2n on) s)) s)

/-- HDMSIZE_WRITE (R619, R630). -/
def execHdmsizeWrite (units : Nat) (s : State) : Host.Outcome State Fault Refusal :=
  .next (hostWrite .early (fun s =>
    if winState s ≠ winOff then regAccessError HOSTIF.HDMSIZE_UNITS.addr s
    else if units ≤ 16384 then setF HOSTIF.HDMSIZE_UNITS units s
    else regAccessError HOSTIF.HDMSIZE_UNITS.addr s) s)

/-- HDM_ZEROING_DONE (R619, R624). -/
def execHdmZeroingDone (s : State) : Host.Outcome State Fault Refusal :=
  .next (if winState s = winZeroing && alive s then
      followWindow (setF HOSTIF.HDMSTAT_STATE winReady { wipeWindow s with cdatSeq := s.cdatSeq + 1 })
    else s)

/-- HDM_RELEASE_DRAINED (R619). -/
def execHdmReleaseDrained (s : State) : Host.Outcome State Fault Refusal :=
  .next (if winState s = winReleasing && !s.inflight.any namesWindow && alive s then
      followWindow { freeWindow s with cdatSeq := s.cdatSeq + 1 }
    else s)

/-- HDM_DECODER_COMMIT (R620): a commit succeeds only with the window's capacity and while READY. -/
def execHdmDecoderCommit (size : Nat) (s : State) : Host.Outcome State Fault Refusal :=
  .next (hostWrite .early (fun s =>
    if winState s = winReady ∧ size = winLen s then
      { s with cfg := { s.cfg with decoderCommitted := true, decoderSize := size, decoderError := false } }
    else { s with cfg := { s.cfg with decoderCommitted := false, decoderSize := 0, decoderError := true } }) s)

/-! Accesses. -/

/-- Take ownership of the lines of a range from host caches (R616). -/
def snoopRange (o n : Nat) (inv : Bool) (s : State) : State :=
  if n = 0 then s
  else forEach (List.range (lineOf (o + n - 1) + 1 - lineOf o)) (fun k s => emit (.biSnoop (lineOf o + k) inv) s) s

/-- Bytes of the window, by offset; each from the slot that holds it. -/
def winBytes (o n : Nat) (s : State) : List Byte := (List.range n).map (fun k => memByte (winAddr (o + k) s) s)

/-- Lines of a range that read as poisoned (R621). -/
def winPoisonLines (o n : Nat) (s : State) : Nat :=
  if n = 0 then 0
  else ((List.range (lineOf (o + n - 1) + 1 - lineOf o)).filter (fun k => winPoisoned (64 * (lineOf o + k)) s)).length

/-- A descriptor reads a range of the window: the lines are taken from host caches, and poisoned ones counted (R616, R632). -/
def winRead (o n : Nat) (s : State) : List Byte × State :=
  (winBytes o n s, satF HOSTIF.HDMPOISON_COUNT (winPoisonLines o n s) (snoopRange o n false s))

/-- Some byte of a range lies in a line that reads as poisoned. -/
def winRangePoisoned (o n : Nat) (s : State) : Bool := decide (winPoisonLines o n s ≠ 0)

/-- Write window bytes within one line; writes to a channel that is not OPEN are discarded (R621). -/
def winPutLine (o : Nat) (bs : List Byte) (s : State) : State :=
  if bs = [] || !unitOpen (winSlot s.winRuns (o / 65536)).1 s then s
  else let a := winAddr o s; healRange a bs.length (memWrite a bs s)

/-- Write window bytes, line by line; `fuel` lines at most. -/
def winPut : Nat → Nat → List Byte → State → State
  | 0, _, _, s => s
  | fuel + 1, o, bs, s =>
    let n := min bs.length (64 - o % 64)
    if n = 0 then s else winPut fuel (o + n) (bs.drop n) (winPutLine o (bs.take n) s)

/-- A descriptor writes window bytes (R616). -/
def winWrite (o : Nat) (bs : List Byte) (s : State) : State := winPut (bs.length / 64 + 2) o bs (snoopRange o bs.length true s)

/-- BAR4_ACCESS (R611, R612, R616, R621): a read of `len` bytes, or a write. -/
def execBar4Access (off : Nat) (write : Option (List Byte)) (len : Nat) (s : State) : Host.Outcome State Fault Refusal :=
  .next (if !s.cfg.memSpace || s.cfg.d3hot then emit .unsupportedRequest s
    else
      let s := if alive s then peep 10 0 4 1 s else s
      let l := if alive s then winLen s else 0
      match write with
      | some bs => winWrite off (bs.take (l - off)) s
      | none =>
        let n := min len (l - off)
        let bad := winPoisonLines off n s
        let (bs, s) := winRead off n s
        let s := forEach (List.range bad) (fun _ s => emit (.aer false) s) s
        emit (.readReply (bs ++ List.replicate (len - n) 0#8) false) s)

/-- The line lies in the committed decoder (R620). -/
def cxlMapped (line : Nat) (s : State) : Bool := alive s && s.cfg.decoderCommitted && decide (64 * line + 64 ≤ min s.cfg.decoderSize (winLen s))

/-- CXL_MEM_READ (R615, R621). -/
def execCxlMemRead (line : Nat) (s : State) : Host.Outcome State Fault Refusal :=
  .next (if cxlMapped line s then
      let p := winPoisoned (64 * line) s
      let s := peep 10 0 2 1 s
      emit (.readReply (winBytes (64 * line) 64 s) p) (satF HOSTIF.HDMPOISON_COUNT (b2n p) s)
    else s)

/-- CXL_MEM_WRITE (R615, R621): a write that carries poison writes a poison codeword. -/
def execCxlMemWrite (line : Nat) (data : List Byte) (poison : Bool) (s : State) : Host.Outcome State Fault Refusal :=
  .next (if cxlMapped line s then
      let o := 64 * line
      let open' := unitOpen (winSlot s.winRuns (o / 65536)).1 s
      let s := winPutLine o (byteSlice data 0 64) (peep 10 0 3 1 s)
      if poison && open' then poisonLine (lineOf (winAddr o s)) s else s
    else s)

/-- HOST_SNOOP (R614): the device's cache holds no host line. -/
def execHostSnoop (addr : Nat) (s : State) : Host.Outcome State Fault Refusal := .next (emit (.snoopMiss addr) s)

end Sys2Proof.Machine
end

