-- ==== Sys2Proof/Machine/Movers.lean ====
section
/-! DEFINITION. The movers (chapter 07): the staging and writing back of panes, and the MOVE descriptor. -/

namespace Sys2Proof.Machine

/-! Writing back (R252, R258, R259, R281). -/

/-- Extents of the part of a pane's box that lies inside the tensor. -/
def insideExt (root : Tensor) (i : Nat) : List Nat :=
  ((paneCoords root i).zip ((boxOf root.fmt root.baxis).zip root.ext)).map (fun p => min p.2.1 (p.2.2 - p.1 * p.2.1))

/-- Bytes of a pane that lie inside the tensor, scale bytes included (R259). -/
def insideBytes (root : Tensor) (i : Nat) : Nat :=
  let x := insideExt root i
  prodList x * fmtBytes root.fmt
  + (if isBlockTag root.fmt then prodList ((indexFrom 0 x).map (fun p => if p.1 = root.baxis then ceilDiv p.2 (blockSize root.fmt) else p.2))
     else 0)

/-- Spans that a descriptor has written into a poisoned pane with valid values. -/
def coverOf (owner h pane : Nat) (s : State) : List (Nat × Nat) :=
  match s.covers.find? (fun c => decide (c.owner = owner) && decide (c.handle = h) && decide (c.pane = pane)) with
  | some c => c.spans
  | none => []

def setCover (owner h pane : Nat) (spans : List (Nat × Nat)) (s : State) : State :=
  { s with covers := ⟨owner, h, pane, spans⟩ :: s.covers.filter (fun c =>
      !(decide (c.owner = owner) && decide (c.handle = h) && decide (c.pane = pane))) }

/-- The pane has a place to be written to: one allocated already, or a fresh one in the home tier (R287). -/
def placeForWrite (root : Tensor) (i : Nat) (s : State) : Option PaneLoc × State × Nat :=
  match paneLoc root.handle i s with
  | some l => (some l, s, 0)
  | none =>
    match homeOf root s with
    | none => (none, recordQlast false (firstAllowed root) root.owner s, stQuotaExceeded)
    | some tier =>
      match allocAll tier root [i] s with
      | (some s', _, _) => (paneLoc root.handle i s', s', 0)
      | (none, s', st) => (none, s', st)

/-- What a working copy makes of the pane in a slot (R252, R258, R259, R282): a stored pane that the copy does not write whole is checked
first, and the POISON bit stays as R259 says. With it, whether the pane is written anew. -/
def mergeCopy (root : Tensor) (w : WorkCopy) (l : PaneLoc) (s : State) : State × PaneData × Bool :=
  let all := decide (insideBytes root w.pane ≤ coveredBytes w.spans)
  let (p, s) := if all then (readSlot root w.pane l s, s) else checkedRead root w.pane l s
  let spans := if w.poisonOut then [] else w.spans ++ coverOf w.owner w.handle w.pane s
  let whole := decide (insideBytes root w.pane ≤ coveredBytes spans)
  let poison := w.poisonOut || (p.poison && !whole)
  let tadj := w.tadj ++ p.tadj.filter (fun t => !w.tadj.any (fun x => decide (x.1 = t.1)))
  let s := if p.poison then setCover w.owner w.handle w.pane spans s else s
  (s, ⟨overlay p.data w.spans w.dirty, poison, tadj, p.step, p.zero⟩, all || whole || p.zero)

/-- What a writer leaves of a pane in a slot (R252, R258, R259, R317): a pane written whole is written anew; else the codewords that the
spans cover whole are. -/
def writeMerged (root : Tensor) (i : Nat) (l : PaneLoc) (p : PaneData) (spans : List (Nat × Nat)) (anew : Bool) (s : State) : State :=
  if anew then writePane root i l p.data p.poison p.tadj p.step s
  else healSpans (locAddr l) spans (memPutCells (locAddr l) 66560 (paneCells root i p.data p.poison p.tadj p.step) s)

/-- The slot that a working copy is written to (R279, R281, R287, R358): none, with a status, where the write cannot be made; none with
status 0 for a pane that another device holds. -/
def slotForWrite (w : WorkCopy) (s : State) : Option PaneLoc × State × Nat :=
  let root := tensorAt w.handle s
  if !localPane root w.pane s then (none, s, 0)
  else match placeForWrite root w.pane s with
  | (none, s, st) => (none, s, st)
  | (some l, s, _) =>
    if !unitOpen l.unit s then (none, s, stUnitClosed)
    else match programSlot l 66560 s with
    | (s, false) => (none, s, stCartWorn)
    | (s, true) => (some l, s, 0)

/-- Write a working copy over the stored pane (R252): the state, and the status of a write that cannot be made. -/
def storeCopy (w : WorkCopy) (s : State) : State × Nat :=
  let root := tensorAt w.handle s
  match slotForWrite w s with
  | (none, s, st) => (s, st)
  | (some l, s, _) =>
    let (s, p, anew) := mergeCopy root w l s
    (writeMerged root w.pane l p w.spans anew s, 0)

/-- The copy holds nothing more to write back. -/
def cleanCopy (w : WorkCopy) (s : State) : State :=
  let is (c : WorkCopy) : Bool :=
    decide (c.core = w.core) && decide (c.owner = w.owner) && decide (c.handle = w.handle) && decide (c.pane = w.pane)
  let clean := updateWhere is (fun c => { c with dirty := [], spans := [], tadj := [], poisonOut := false }) s.copies
  { s with copies := clean.filter (fun c => !(is c && c.staged.isNone)) }

/-- The port that holds a pane has room for its program, or is asked for it (R357). -/
def writeBackWaits (w : WorkCopy) (s : State) : Option Nat :=
  match paneLoc w.handle w.pane s with
  | none => none
  | some l =>
    let p := (l.unit - 32) / 8
    if 32 ≤ l.unit && unitOpen l.unit s && !cartWorn p s && (!wearRoom p 66560 s || (cartAuxOf p s).commit.isSome) then some p else none

/-- MOVER_WRITE_BACK (R252): the oldest written working copy of a pane on core `n` goes back to the pane's tier. A cartridge whose
committed volume has no room holds it, and its wear counter is written first (R357). -/
def execMoverWriteBack (n : CoreNo) (handle pane : Nat) (s : State) : Host.Outcome State Fault Refusal :=
  .next (match s.copies.find? (fun c => decide (c.core = n.val) && decide (c.handle = handle) && decide (c.pane = pane)
      && unsaved c) with
    | none => s
    | some w =>
      if !alive s then s
      else match writeBackWaits w s with
      | some p => if (cartAuxOf p s).commit.isSome then s else startCommit p 0 s
      | none =>
        let (s, st) := storeCopy w s
        let s := cleanCopy w s
        match flight w.owner s with
        | none => s
        | some e =>
          let p := e.parts.findIdx (fun x => decide (x.core = n.val))
          checkEnd w.owner p (if st = 0 then s else orPart w.owner p st 0 0 s))

/-- A pane held on a cartridge meets units that LDPC cannot correct: it is poisoned (R373). -/
def flashBad (root : Tensor) (i bad : Nat) (s : State) : State :=
  match paneLoc root.handle i s with
  | none => s
  | some l =>
    if l.unit < 32 || bad = 0 || unwritten l s || !unitOpen l.unit s then s
    else
      markPoison root i l (flashUncorrectable ((l.unit - 32) / 8) bad s)

/-- Panes that the engines of a core need now, with the descriptor that needs each. -/
def neededPanes (n : Nat) (s : State) : List (Nat × Nat × Nat) :=
  (match optGet s.mx n with
    | some r => (match flight r.id s with
      | some e => (tilePanes e r.tile s).map (fun p => (r.id, p.1, p.2))
      | none => [])
    | none => [])
  ++ (match optGet s.vx n with
    | some r => (match flight r.id s with
      | some e => (vxPanes e r s).map (fun p => (r.id, p.1, p.2))
      | none => [])
    | none => [])

/-- Bytes read from a cartridge port (R705). -/
def peepPort (h i n : Nat) (s : State) : State :=
  match paneLoc h i s with
  | some l => if 32 ≤ l.unit then peep 9 ((l.unit - 32) / 8) 1 n s else s
  | none => s

/-- Panes that a sill and a lintel hold (R30, R251). -/
def sillPanes : Nat := 96
def lintelPanes : Nat := 768

/-- Panes of one mover end that engines need now, with the descriptor that needs each: a sill's own core, a lintel's eight (R33, R251). -/
def wantedAt (n : Nat) (s : State) : List (Nat × Nat × Nat) :=
  if n < 32 then neededPanes n s else (List.range 8).flatMap (fun k => neededPanes (8 * (n - 32) + k) s)

/-- A sill or lintel that holds more panes than it has room for gives up staged copies, oldest first, that nothing was written into and
that no engine needs now (R30, R251, log 247). -/
def trimCopies (n : Nat) (s : State) : State :=
  let room := if n < 32 then sillPanes else lintelPanes
  let needed := wantedAt n s
  let mine := s.copies.filter (fun c => decide (c.core = n))
  let idle := (mine.filter (fun c => c.staged.isSome && !unsaved c
    && !needed.any (fun x => decide (x.1 = c.owner) && decide (x.2.1 = c.handle) && decide (x.2.2 = c.pane)))).take (mine.length - room)
  { s with copies := s.copies.filter (fun c => !(decide (c.core = n) && idle.contains c)) }

/-- Where a pane that goes to a mover end comes from: its cluster's lintel, when a copy for the descriptor stands there and a sill asks
(R33, R34). -/
def lintelCopy (n owner handle pane : Nat) (s : State) : Option PaneData :=
  if n < 32 then stagedPane (32 + n / 8) owner handle pane s else none

/-- The region where a mover end lies, and that of a memory unit (R32). -/
def endOf (n : Nat) : Nat := if n < 32 then 2 * n + 1 else 32 + n
def unitRegion (u : Nat) : Nat := if u < 32 then muRegion u else 98

/-- The joins from a pane's unit to a mover end are open (R35, R40, R81); a pane without a slot crosses none. -/
def wayOpen (n handle pane : Nat) (s : State) : Bool :=
  match paneLoc handle pane s with
  | none => true
  | some l => pathOpen (regionPath (unitRegion l.unit) (endOf n)) s

/-- A pane stands in a sill or lintel for a descriptor, with the words of the sill that hold an error (R166, R240, R252). -/
def stagePane (n owner handle pane : Nat) (p : PaneData) (sill : List (Nat × Nat)) (s : State) : State :=
  trimCopies n (upsertCopy n owner handle pane (fun c => { c with staged := some p, badWords := if n < 32 then sill else [] }) s)

/-- PANE_READ (R33, R40, R252, R253, R263, R281, R282): a pane reaches a sill or a lintel for every part there that needs it, over the
joins of its path: from the lintel of the core's cluster where it is staged, else from its tier. -/
def execPaneRead (n : MoverEnd) (handle pane : Nat) (bad : ReadFault) (s : State) : Host.Outcome State Fault Refusal :=
  .next (if !alive s then s
    else
      let want := (wantedAt n s).filter (fun x => decide (x.2.1 = handle) && decide (x.2.2 = pane)
        && (stagedPane n x.1 handle pane s).isNone)
      let near := want.filter (fun x => (lintelCopy n x.1 handle pane s).isSome)
      let far := want.filter (fun x => (lintelCopy n x.1 handle pane s).isNone)
      let s := if pathOpen [32 + (32 + n / 8), endOf n] s then
          forEach near (fun x s => match lintelCopy n x.1 handle pane s with
            | some p => stagePane n x.1 handle pane p bad.sill s
            | none => s) s
        else s
      if far = [] || !wayOpen n handle pane s then s
      else
        let root := tensorAt handle s
        let (p, s) := moverRead root pane (peepPort handle pane 66560 (flashBad root pane bad.flash s))
        forEach far (fun x s => stagePane n x.1 handle pane p bad.sill s) s)

/-! Whole-descriptor movers: number 255 stands for the root sequencer's own movers (R56). -/

def rootCore : Nat := 255

/-- Read every pane of a handle for a descriptor; a pane that another device holds reads as the zero pane (log 54). -/
def stageTensor (owner : Nat) (t : Tensor) (s : State) : State :=
  let root := rootOf t s
  forEach (panesOfHandle t root) (fun i s =>
    if (stagedPane rootCore owner root.handle i s).isSome then s
    else
      let (p, s) := moverRead root i (peepPort root.handle i 66560 s)
      upsertCopy rootCore owner root.handle i (fun c => { c with staged := some p }) s) s

/-- Write back everything that a descriptor's own movers have written: the first status that stands in a write's way. -/
def flushCopies (owner : Nat) (s : State) : State × Nat :=
  (s.copies.filter (fun c => decide (c.core = rootCore) && decide (c.owner = owner) && unsaved c)).foldl (fun a w =>
    let (s, st) := storeCopy w a.1
    (cleanCopy w s, if a.2 = 0 then st else a.2)) (s, 0)

/-- Coordinates of every element of extents, in row-major order with d3 outermost. -/
def allCoords (ext : List Nat) : List (List Nat) := (List.range (prodList ext)).map (fun i => unRowMajor ext i)

/-- First elements, and lengths, of the blocks of a handle, in row-major order (R109, R288). -/
def blocksOf (t root : Tensor) : List (List Nat × Nat) :=
  let b := blockSize root.fmt
  let dims := (indexFrom 0 t.ext).map (fun p => if p.1 = root.baxis then ceilDiv p.2 b else p.2)
  (allCoords dims).map (fun c =>
    let x := (indexFrom 0 c).map (fun p => if p.1 = root.baxis then p.2 * b else p.2)
    (x, min b (extOf t root.baxis - x.getD root.baxis 0)))

/-- The descriptor's work is done: it has one part, with this status and these flags (R56, R58). -/
def endWhole (e : InFlight) (status flags : Nat) (s : State) : State :=
  setFlight e.id (fun x => { x with parts := [⟨rootCore, 0, 1, .ended, status, flags, 0⟩] }) s

/-- Write one converted value of an unscaled format, or gather the values of a block; see `convertInto`. -/
def writeScalar (owner : Nat) (t root : Tensor) (x : List Nat) (bits : Nat) (poison : Bool) (s : State) : State :=
  putElem rootCore owner t root x (if poison then canonNan (tagFmt root.fmt) else bits) 0 poison s

/-- Write one block, or a poisoned block (R111, R738). -/
def writeBlock (owner : Nat) (t root : Tensor) (x : List Nat) (len scale : Nat) (elems : List Nat) (poison : Bool) (s : State) :
    State :=
  putBlock rootCore owner root (baseCoords t x) (if poison then 255 else scale)
    (if poison then List.replicate len (0, 0) else elems.map (fun b => (b, 0))) poison s

/-- Convert a function of coordinates into every element of a handle (R129 to R134, R258): value, flags, poison mark of each. DESIGN
CHOICE (log 269): a source subnormal that the converter has read as zero (R122) counts as zero in the block maximum of R185. -/
def convertInto (owner : Nat) (t : Tensor) (flush : Bool) (f : List Nat → Num × Nat × Bool) (s : State) : State × Nat × Bool :=
  let root := rootOf t s
  let fmt := tagFmt root.fmt
  if isBlockTag root.fmt then
    (blocksOf t root).foldl (fun a b =>
      let vs := (List.range b.2).map (fun k => f (stepCoord b.1 root.baxis k))
      let bad := vs.any (fun v => v.2.2)
      let (sc, es, fl) := encodeBlock fmt flush (vs.map (fun v => v.1))
      let rf := vs.foldl (fun a v => a ||| v.2.1) 0
      (writeBlock owner t root b.1 b.2 sc es bad a.1, a.2.1 ||| rf ||| (if bad then 0 else fl), a.2.2 || bad)) (s, 0, false)
  else
    (allCoords t.ext).foldl (fun a x =>
      let v := f x
      let (bits, fl) := encode fmt flush v.1
      (writeScalar owner t root x bits v.2.2 a.1, a.2.1 ||| (if v.2.2 then 0 else v.2.1 ||| fl), a.2.2 || v.2.2)) (s, 0, false)

/-- The value a mover's converter reads at coordinates of a staged handle: flags, poison (R124, R738). -/
def readValue (owner : Nat) (t : Tensor) (flush : Bool) (s : State) (x : List Nat) : Num × Nat × Bool :=
  let root := rootOf t s
  let (d, poison) := fetchDecoded rootCore owner t root x s
  if poison then (.nan, 0, true) else let (v, f) := readFlush flush d; (v, f, false)

/-! The MOVE descriptor (R283). -/

def movSH (d : Desc) : Nat := dfield d 0x10 0 32
def movDH (d : Desc) : Nat := dfield d 0x14 0 32
def movHOFF (d : Desc) : Nat := dfield d 0x18 0 64
def movVALUE (d : Desc) : Nat := dfield d 0x20 0 32
def movPFIRST (d : Desc) : Nat := dfield d 0x24 0 32
def movPCOUNT (d : Desc) : Nat := dfield d 0x28 0 32
def movOP (d : Desc) : Nat := dfield d 0x2C 0 8
def movSFMT (d : Desc) : Nat := dfield d 0x2D 0 8
def movDFMT (d : Desc) : Nat := dfield d 0x2E 0 8
def movTIER (d : Desc) : Nat := dfield d 0x2F 0 8
def movMFLUSH (d : Desc) : Bool := decide (dfield d 0x3C 0 1 = 1)

/-- Operations that use a field (R284). -/
def movUsesS (op : Nat) : Bool := decide (op = 0) || decide (op = 2) || decide (op = 4) || decide (op = 5)
def movUsesD (op : Nat) : Bool := decide (op = 0) || decide (op = 1) || decide (op = 3)
def movUsesH (op : Nat) : Bool := decide (op = 3) || decide (op = 4)

/-- A field that the operation does not use is not zero (R284). -/
def movUnused (d : Desc) : Bool :=
  let op := movOP d
  (!movUsesS op && (decide (movSH d ≠ 0) || decide (movSFMT d ≠ 0)))
  || (!movUsesD op && (decide (movDH d ≠ 0) || decide (movDFMT d ≠ 0)))
  || (!movUsesH op && decide (movHOFF d ≠ 0))
  || (decide (op ≠ 1) && decide (movVALUE d ≠ 0))
  || (decide (op ≠ 2) && (decide (movPFIRST d ≠ 0) || decide (movPCOUNT d ≠ 0) || decide (movTIER d ≠ 0)))
  || (!(decide (op ≤ 1)) && movMFLUSH d)

/-- Bytes of the linear image of a handle (R288), from an offset that is a multiple of 64. -/
def linearScale (t root : Tensor) : Nat := if isBlockTag root.fmt then ceilDiv (prodList t.ext) 64 * 64 else 0
def linearLen (t root : Tensor) : Nat :=
  if isBlockTag root.fmt then linearScale t root + (blocksOf t root).length else prodList t.ext * fmtBytes root.fmt

/-- Panes that a MIGRATE names (R283). -/
def movLast (d : Desc) (t : Tensor) : Nat := if movPCOUNT d = 0 then paneCount t else movPFIRST d + movPCOUNT d

/-- A MOVE that converts: FILL, and COPY between two formats (R119, R284, R285). -/
def movConverts (d : Desc) : Bool := decide (movOP d = 1) || (decide (movOP d = 0) && decide (movSFMT d ≠ movDFMT d))

/-- The checks of R289, but for the charges. An OFP8 tag stands in a converting MOVE only, whatever the run mode (R119). DEDUCED (log 270):
with the status of check 2. -/
def moveChecks (e : InFlight) (s : State) : List (Nat × Nat × Bool) :=
  let d := e.desc
  let op := movOP d
  let st := tensorAt (movSH d) s
  let dt := tensorAt (movDH d) s
  let it := if op = 3 then dt else st
  [(1, stFormatInvalid, malformedTag (movSFMT d) || malformedTag (movDFMT d)),
   (2, stFormatNotPermitted, ofp8Refused e (movSFMT d) || ofp8Refused e (movDFMT d)
      || (!movConverts d && (isOfp8Tag (movSFMT d) || isOfp8Tag (movDFMT d)))),
   (3, stFieldInvalid, decide (dfield d 0x30 0 96 ≠ 0) || decide (dfield d 0x3C 1 31 ≠ 0) || decide (5 < op)
      || (decide (op = 2) && decide (2 < movTIER d)) || movUnused d || decide (movHOFF d % 64 ≠ 0)
      || ((decide (op = 2) || decide (op = 5)) && (tensorOf (movSH d) s).isSome && decide (st.base ≠ 0))),
   (4, stHandleInvalid, (movUsesS op && handleBad e (movSH d) s) || (movUsesD op && handleBad e (movDH d) s)),
   (5, stFormatMismatch, (movUsesS op && tagDiffers (movSH d) (movSFMT d) s) || (movUsesD op && tagDiffers (movDH d) (movDFMT d) s)),
   (6, stShapeMismatch, (decide (op = 0) && decide (st.ext ≠ dt.ext))
      || (decide (op = 2) && (decide (paneCount st ≤ movPFIRST d) || decide (paneCount st < movLast d st)))),
   (7, stBlockLayoutInvalid, movUsesD op && breaksBlocks dt s),
   (8, stOperandAlias, decide (op = 0) && aliases st dt s),
   (9, stHostRange, movUsesH op && decide (winLen s < movHOFF d + linearLen it (rootOf it s))),
   (10, stTierNotPermitted, decide (op = 2) && decide (st.role = 5) && decide (movTIER d = 2))]

/-- COPY copies bits: one tag, and blocks that coincide (R285). -/
def copiesBits (a b : Tensor) (s : State) : Bool :=
  let ra := rootOf a s
  let rb := rootOf b s
  decide (ra.fmt = rb.fmt) && (!isBlockTag ra.fmt || (decide (ra.baxis = rb.baxis)
    && decide (orgOf a ra.baxis % blockSize ra.fmt = 0) && decide (orgOf b rb.baxis % blockSize rb.fmt = 0)))

/-- Copy the bits of every element (R285, R738): whether a poisoned pane was read. -/
def copyBits (owner : Nat) (a b : Tensor) (s : State) : State × Bool :=
  let ra := rootOf a s
  let rb := rootOf b s
  if isBlockTag ra.fmt then
    (blocksOf b rb).foldl (fun acc k =>
      let es := (List.range k.2).map (fun i => fetchElem rootCore owner a ra (stepCoord k.1 rb.baxis i) s)
      let bad := es.any (fun x => x.2.2)
      (writeBlock owner b rb k.1 k.2 ((es.headD (0, 255, true)).2.1) (es.map (fun x => x.1)) bad acc.1, acc.2 || bad)) (s, false)
  else
    (allCoords b.ext).foldl (fun acc x =>
      let (bits, _, bad) := fetchElem rootCore owner a ra x s
      (writeScalar owner b rb x bits bad acc.1, acc.2 || bad)) (s, false)

/-- The status of a descriptor's own movers: a write that could not be made before a poisoned read (log 53). -/
def moverStatus (write : Nat) (poison : Bool) : Nat := if write ≠ 0 then write else if poison then stPoisonRead else stOk

/-- COPY (R285). -/
def moveCopyWork (e : InFlight) (s : State) : State :=
  let a := tensorAt (movSH e.desc) s
  let b := tensorAt (movDH e.desc) s
  let s := stageTensor e.id a s
  let (s, flags, bad) :=
    if copiesBits a b s then
      let (s, bad) := copyBits e.id a b s
      (s, 0, bad)
    else convertInto e.id b (movMFLUSH e.desc) (readValue e.id a (movMFLUSH e.desc) s) s
  let (s, st) := flushCopies e.id s
  endWhole e (moverStatus st bad) flags s

/-- FILL (R284). -/
def moveFillWork (e : InFlight) (s : State) : State :=
  let (v, f) := readFlush (movMFLUSH e.desc) (decodeBits 0 127 (movVALUE e.desc))
  let (s, flags, _) := convertInto e.id (tensorAt (movDH e.desc) s) (movMFLUSH e.desc) (fun _ => (v, f, false)) s
  let (s, st) := flushCopies e.id s
  endWhole e st flags s

/-- IMPORT (R288, R738): elements and scale bytes as they stand. -/
def moveImportWork (e : InFlight) (s : State) : State :=
  let t := tensorAt (movDH e.desc) s
  let root := rootOf t s
  let o := movHOFF e.desc
  let w := fmtBytes root.fmt
  let (_, s) := winRead o (linearLen t root) s
  let (s, bad) :=
    if isBlockTag root.fmt then
      (indexFrom 0 (blocksOf t root)).foldl (fun acc k =>
        let at' (i : Nat) : Nat := o + rowMajor (stepCoord k.2.1 root.baxis i) t.ext
        let so := o + linearScale t root + k.1
        let bad := winPoisoned so s || (List.range k.2.2).any (fun i => winPoisoned (at' i) s)
        (writeBlock e.id t root k.2.1 k.2.2 (leNat (winBytes so 1 s)) ((List.range k.2.2).map (fun i => leNat (winBytes (at' i) 1 s)))
          bad acc.1, acc.2 || bad)) (s, false)
    else
      (indexFrom 0 (allCoords t.ext)).foldl (fun acc x =>
        let bad := winPoisoned (o + x.1 * w) s
        (writeScalar e.id t root x.2 (leNat (winBytes (o + x.1 * w) w s)) bad acc.1, acc.2 || bad)) (s, false)
  let (s, st) := flushCopies e.id s
  endWhole e (moverStatus st bad) 0 s

/-- The block of a handle that holds coordinates `x`: its first element, its length (R109, R288). -/
def handleBlock (t root : Tensor) (x : List Nat) : List Nat × Nat :=
  let b := blockSize root.fmt
  ((indexFrom 0 x).map (fun p => if p.1 = root.baxis then p.2 / b * b else p.2),
   min b (extOf t root.baxis - x.getD root.baxis 0 / b * b))

/-- A staged block holds a poisoned element (R738). -/
def blockBad (owner : Nat) (t root : Tensor) (b : List Nat × Nat) (s : State) : Bool :=
  (List.range b.2).any (fun i => (fetchElem rootCore owner t root (stepCoord b.1 root.baxis i) s).2.2)

/-- The linear image of a staged handle (R288, R738), and whether a poisoned pane was read. -/
def linearImage (owner : Nat) (t : Tensor) (s : State) : List Byte × Bool :=
  let root := rootOf t s
  let es := (allCoords t.ext).map (fun x => fetchElem rootCore owner t root x s)
  let bad := es.any (fun x => x.2.2)
  if isBlockTag root.fmt then
    let elems := (allCoords t.ext).map (fun x =>
      if blockBad owner t root (handleBlock t root x) s then 0#8
      else BitVec.ofNat 8 (fetchElem rootCore owner t root x s).1)
    (byteSlice elems 0 (linearScale t root) ++ (blocksOf t root).map (fun b =>
      if blockBad owner t root b s then 0xFF#8 else BitVec.ofNat 8 (fetchElem rootCore owner t root b.1 s).2.1), bad)
  else (es.flatMap (fun x => leBytes (fmtBytes root.fmt) (if x.2.2 then canonNan (tagFmt root.fmt) else x.1)), bad)

/-- EXPORT (R288). -/
def moveExportWork (e : InFlight) (s : State) : State :=
  let t := tensorAt (movSH e.desc) s
  let s := stageTensor e.id t s
  let (bs, bad) := linearImage e.id t s
  endWhole e (moverStatus 0 bad) 0 (winWrite (movHOFF e.desc) bs s)

/-- Move one pane to a slot of another tier (R268, R281, R286): the state, and whether the pane could not be read. DESIGN CHOICE
(log 248): a CRC mismatch met here poisons the pane with its record (R282) and the MIGRATE completes with OK, as R738 says of every pane
that it can read. A cartridge that its own wear commit has made worn takes no pane (R358): the pane stays where it is. -/
def movePane (t : Tensor) (i : Nat) (old l : PaneLoc) (s : State) : State × Bool × Nat :=
  match programSlot l 66560 s with
  | (s, false) => (s, false, stCartWorn)
  | (s, true) =>
    let s := charge t.owner l.tier 1 s
    let (s, lost) :=
      if !unitOpen old.unit s then (writePane t i l [] true [] 0 (setLoc t.handle i l s), true)
      else if unwritten old s then (freeSlotBytes l (setLoc t.handle i l s), false)
      else
        let (p, s) := checkedRead t i old s
        (writePane t i l p.data p.poison p.tadj p.step (setLoc t.handle i l s), false)
    (uncharge t.owner old.tier 1 (freeSlotBytes old s), lost, 0)

/-- Move a list of panes to a tier, all or none (R286): the state, whether some pane could not be read, and a write status. -/
def migrateAll (tier : Nat) (t : Tensor) : List Nat → State × Bool × Nat → Option (State × Bool × Nat)
  | [], a => some a
  | i :: is, a =>
    match paneLoc t.handle i a.1, chooseSlot tier t i a.1 with
    | some old, some l =>
      let (s, lost, st) := movePane t i old l a.1
      migrateAll tier t is (s, a.2.1 || lost, if a.2.2 = 0 then st else a.2.2)
    | _, _ => none

/-- MIGRATE (R286), its charges being the last check of R289. -/
def moveMigrateWork (e : InFlight) (s : State) : State :=
  let t := tensorAt (movSH e.desc) s
  let tier := movTIER e.desc
  let is := ((List.range (movLast e.desc t - movPFIRST e.desc)).map (fun k => movPFIRST e.desc + k)).filter (fun i =>
    localPane t i s && (match paneLoc t.handle i s with
      | some l => decide (l.tier ≠ tier)
      | none => false))
  match failingAccount t.owner tier is.length s with
  | some c => failCheck e stQuotaExceeded 11 (recordQlast false tier c s)
  | none =>
    match migrateAll tier t is (s, false, 0) with
    | none => failCheck e stTierFull 11 (recordQlast true tier t.owner s)
    | some (s, lost, st) => endWhole e (moverStatus st lost) 0 s

/-- RELEASE (R287). -/
def moveReleaseWork (e : InFlight) (s : State) : State :=
  let t := tensorAt (movSH e.desc) s
  endWhole e stOk 0 (forEach (localPanes t s) (fun i s => releasePane t i s) s)

/-- A MOVE enters flight (R289, R56). -/
def beginMove (e : InFlight) (s : State) : State :=
  validated e (moveChecks e s) (fun s =>
    let dt := tensorAt (movDH e.desc) s
    match movOP e.desc with
    | 0 => chargeThen e 11 dt (moveCopyWork e) s
    | 1 => chargeThen e 11 dt (moveFillWork e) s
    | 2 => moveMigrateWork e s
    | 3 => chargeThen e 11 dt (moveImportWork e) s
    | 4 => moveExportWork e s
    | _ => moveReleaseWork e s) s

/-- A MOVE of one operation, as the command processor takes it. -/
def takeMove (op : Nat) (q : QueueNo) (d : Desc) (s : State) : State :=
  takeRing q (withOpcode 3 (dput d 0x2C 0 8 op)) beginMove s

/-- MOVE_COPY (R285). -/
def execMoveCopy (q : QueueNo) (d : Desc) (s : State) : Host.Outcome State Fault Refusal := .next (takeMove 0 q d s)
/-- MOVE_FILL (R284). -/
def execMoveFill (q : QueueNo) (d : Desc) (s : State) : Host.Outcome State Fault Refusal := .next (takeMove 1 q d s)
/-- MOVE_MIGRATE (R286). -/
def execMoveMigrate (q : QueueNo) (d : Desc) (s : State) : Host.Outcome State Fault Refusal := .next (takeMove 2 q d s)
/-- MOVE_IMPORT (R288). -/
def execMoveImport (q : QueueNo) (d : Desc) (s : State) : Host.Outcome State Fault Refusal := .next (takeMove 3 q d s)
/-- MOVE_EXPORT (R288). -/
def execMoveExport (q : QueueNo) (d : Desc) (s : State) : Host.Outcome State Fault Refusal := .next (takeMove 4 q d s)
/-- MOVE_RELEASE (R287). -/
def execMoveRelease (q : QueueNo) (d : Desc) (s : State) : Host.Outcome State Fault Refusal := .next (takeMove 5 q d s)

end Sys2Proof.Machine
end

