-- ==== Sys2Proof/Machine/Placement.lean ====
section
/-! DEFINITION. The placement engine (chapter 07): cores, sills and lintels, homes, the ranks of a tightly coupled system, REPLACE,
and the reads of pane metadata and placement. -/

namespace Sys2Proof.Machine

/-! Cores and lintels (R274, R275). -/

/-- Cores picked for a leaf casement with `c` members from the free cores. -/
def pickCores (free : List Nat) (c : Nat) : Option (List Nat) :=
  match [0, 1, 2, 3].find? (fun cl => decide (c ≤ (free.filter (fun n => decide (n / 8 = cl))).length)) with
  | some cl => some ((free.filter (fun n => decide (n / 8 = cl))).take c)
  | none => if c ≤ free.length then some (free.take c) else none

/-- Core, leaf and member of every assignment; none when a leaf casement finds too few free cores. -/
def assignCores (cs : List Casement) (free : List Nat) : Option (List (Nat × Nat × Nat)) :=
  ((indexFrom 0 cs).foldl (fun (acc : Option (List (Nat × Nat × Nat) × List Nat)) k =>
    match acc with
    | none => none
    | some (l, free) =>
      if k.2.leaf then
        match pickCores free k.2.cores with
        | some pick => some (l ++ (indexFrom 0 pick).map (fun p => (p.2, k.1, p.1)), free.filter (fun n => !pick.contains n))
        | none => none
      else some (l, free)) (some ([], free))).map (fun r => r.1)

/-- The registers RPCORE and RPLINTEL show an assignment (R275, R301, R302). -/
def showCores (l : List (Nat × Nat × Nat)) (s : State) : State :=
  let s := forEach (List.range 32) (fun n s =>
    match l.find? (fun a => decide (a.1 = n)) with
    | some a => setF (TIER.RPCORE_ASSIGNED n) 1 (setF (TIER.RPCORE_LEAF n) a.2.1 (setF (TIER.RPCORE_MEMBER n) a.2.2 s))
    | none => setF (TIER.RPCORE_ASSIGNED n) 0 (setF (TIER.RPCORE_LEAF n) 0 (setF (TIER.RPCORE_MEMBER n) 0 s))) s
  forEach (List.range 4) (fun cl s =>
    let here := (l.filter (fun a => decide (a.1 / 8 = cl))).map (fun a => a.2.1)
    let leaves := dedupNat (sortNat here)
    let u := 768 - 64 - leaves.length
    let shared := (leaves.map (fun f => u * (here.filter (fun x => decide (x = f))).length / 8)).sum
    setF (TIER.RPLINTEL_UNASSIGNED cl) (u - shared) (setF (TIER.RPLINTEL_LEAVES cl) leaves.length s)) s

/-! The cross-device placement (R277, R278, R488). -/

/-- The distance class of two members (R488). -/
def distance (a b : Member) : Nat :=
  if a.neighbours.contains b.node && b.neighbours.contains a.node then 0
  else if a.locator = b.locator then 1
  else if a.locator.site = b.locator.site then 2
  else 3

/-- The node groups of size `t`, by R277; none where a group stays short. -/
def nodeGroups (t : Nat) : Nat → List Member → Option (List (List Member))
  | 0, l => if l = [] then some [] else none
  | fuel + 1, l =>
    match l with
    | [] => some []
    | first :: _ =>
      let g := l.foldl (fun g n => if !g.contains n && decide (g.length < t) && g.all (fun x => decide (distance n x = 0))
        then g ++ [n] else g) [first]
      if g.length < t then none
      else (nodeGroups t fuel (l.filter (fun n => !g.contains n))).map (fun r => g :: r)

/-- The chains of `p` node groups, by R277. -/
def nodeChains (p : Nat) : Nat → List (List Member) → Option (List (List (List Member)))
  | 0, l => if l = [] then some [] else none
  | fuel + 1, l =>
    match l with
    | [] => some []
    | first :: _ =>
      let ch := l.foldl (fun (ch : List (List Member)) g =>
        if !ch.contains g && decide (ch.length < p) && (((ch.getLast?).getD []).zip g).all (fun x => decide (distance x.1 x.2 ≤ 1))
        then ch ++ [g] else ch) [first]
      if ch.length < p then none
      else (nodeChains p fuel (l.filter (fun g => !ch.contains g))).map (fun r => ch :: r)

/-- Tensor rank, stage and replica of a node (R277). -/
def nodeRole (node t p : Nat) (ms : List Member) : Option (Nat × Nat × Nat) :=
  match nodeGroups t ms.length ms with
  | none => none
  | some gs =>
    match nodeChains p gs.length gs with
    | none => none
    | some cs =>
      ((indexFrom 0 cs).flatMap (fun c => (indexFrom 0 c.2).flatMap (fun g => (indexFrom 0 g.2).map (fun n =>
        (n.2.node, n.1, g.1, c.1))))).find? (fun x => decide (x.1 = node)) |>.map (fun x => x.2)

/-- Pane counts f and a of a layer (R278). -/
def layerF (ts : List Tensor) (l : Nat) : Nat :=
  ((ts.filter (fun t => decide (t.layer = l) && decide (2 ≤ t.role) && decide (t.role ≤ 5))).map paneCount).sum
def layerA (ts : List Tensor) (l : Nat) : Nat :=
  ((ts.filter (fun t => decide (t.layer = l) && decide (t.role = 1))).map paneCount).sum

/-- Micro-batches whose activations stage `st` holds (R278). -/
def stageHold (mb p st : Nat) : Nat := mb + p - 1 - st

/-- Cost of a run of layers, given as (f, a), on a stage. -/
def runCost (hold : Nat) (run : List (Nat × Nat)) : Nat := (run.map (fun l => l.1 + hold * l.2)).sum

/-- Length of the longest prefix of at most `limit` layers whose cost is at most `x`. -/
def longestRun (hold x : Nat) : Nat → List (Nat × Nat) → Nat → Nat
  | 0, _, _ => 0
  | _, [], _ => 0
  | limit + 1, l :: t, used =>
    if used + l.1 + hold * l.2 ≤ x then 1 + longestRun hold x limit t (used + l.1 + hold * l.2) else 0

/-- fits(x) of R278: the run lengths of the stages from `st` on. `k` stages remain after this one. -/
def fitsFrom (mb p x : Nat) : Nat → List (Nat × Nat) → Option (List Nat)
  | 0, ls => if runCost (stageHold mb p (p - 1)) ls ≤ x then some [ls.length] else none
  | k + 1, ls =>
    let n := longestRun (stageHold mb p (p - 2 - k)) x (ls.length - (k + 1)) ls 0
    if n = 0 then none else (fitsFrom mb p x k (ls.drop n)).map (fun r => n :: r)

/-- The costs that a bound can take: those of every run on every stage. -/
def boundCandidates (mb p : Nat) (ls : List (Nat × Nat)) : List Nat :=
  (List.range p).flatMap (fun st => (List.range ls.length).flatMap (fun i =>
    (List.range (ls.length - i)).map (fun k => runCost (stageHold mb p st) ((ls.drop i).take (k + 1)))))

/-- Run lengths of the stages at the smallest bound that fits (R278). -/
def layStages (mb p : Nat) (ls : List (Nat × Nat)) : Option (List Nat) :=
  let best := (boundCandidates mb p ls).foldl (fun (b : Option Nat) x =>
    let better : Bool := match b with
      | some y => decide (x < y)
      | none => true
    if better && (fitsFrom mb p x (p - 1) ls).isSome then some x else b) none
  match best with
  | some x => fitsFrom mb p x (p - 1) ls
  | none => none

/-- Stage of each item of a list that runs of these lengths cut up. -/
def spreadRuns : List Nat → Nat → List Nat → List (Nat × Nat)
  | [], _, _ => []
  | n :: t, st, ls => (ls.take n).map (fun l => (l, st)) ++ spreadRuns t (st + 1) (ls.drop n)

/-- The stages of the layers (R278); in a system of one device every tensor is local (R280; log 55). -/
def stagesOf (im : Image) (members : Nat) : Option (List (Nat × Nat)) :=
  let ts := im.tensors.filter (fun t => decide (t.base = 0))
  let layers := dedupNat (sortNat ((ts.filter (fun t => decide (t.layer ≠ 0xFFFF))).map (fun t => t.layer)))
  if members ≤ 1 then some []
  else if layers.length < im.pdeg then none
  else (layStages im.mbatch im.pdeg (layers.map (fun l => (layerF ts l, layerA ts l)))).map (fun r =>
    (spreadRuns r 0 layers).filter (fun x => decide (x.2 ≠ 0)))

/-- Members of the epoch; a device that is none of a system counts as one (R280). -/
def memberCount (s : State) : Nat := max 1 s.nd.members.length

/-- Rank, stage, replica and stages of this device, or none for PLACE_TOPOLOGY (R277, R278). -/
def crossDevice (im : Image) (s : State) : Option ((Nat × Nat × Nat) × List (Nat × Nat)) :=
  if im.tdeg * im.pdeg * im.rdeg ≠ memberCount s then none
  else
    let role := if s.nd.members = [] then some (0, 0, 0) else nodeRole (getF ND.NDSELF_NODE s) im.tdeg im.pdeg s.nd.members
    match role, stagesOf im (memberCount s) with
    | some r, some st => some (r, st)
    | _, _ => none

/-- RPNODE, RPDEG and the stages (R278, R303). -/
def showNode (im : Image) (r : Nat × Nat × Nat) (st : List (Nat × Nat)) (s : State) : State :=
  let s := setF TIER.RPNODE_TRANK r.1 (setF TIER.RPNODE_STAGE r.2.1 (setF TIER.RPNODE_REPLICA r.2.2 { s with stages := st }))
  setF TIER.RPDEG_TRANK im.tdeg (setF TIER.RPDEG_STAGE im.pdeg (setF TIER.RPDEG_REPLICA im.rdeg s))

/-! Homes (R276). -/

/-- The rank of a role in the order of R276. -/
def roleRank (role : Nat) : Nat :=
  match role with
  | 5 => 0
  | 2 => 1
  | 3 => 2
  | 1 => 3
  | 4 => 4
  | _ => 5

def homeKey (t : Tensor) : Nat := (if t.pin = 0 then 2 ^ 40 else 0) + roleRank t.role * 2 ^ 32 + t.handle

/-- Insert a tensor in the order of R276. -/
def insertHome (t : Tensor) : List Tensor → List Tensor
  | [] => [t]
  | u :: l => if homeKey t ≤ homeKey u then t :: u :: l else u :: insertHome t l

/-- The tensors that placement homes, in order. -/
def homeOrder (im : Image) : List Tensor := (im.tensors.filter (fun t => decide (t.base = 0))).foldr insertHome []

/-- panes(t) (R280). -/
def localCount (t : Tensor) (s : State) : Nat :=
  if !isLocal t s then 0
  else if t.role = 3 ∨ t.role = 4 then
    let n := paneCount t
    let m := max 1 (getF TIER.RPDEG_REPLICA s)
    let r := getF TIER.RPNODE_REPLICA s
    if n ≤ r then 0 else (n - r + m - 1) / m
  else paneCount t

/-- Home one tensor and allocate the local ones of the panes that `held` names there (R273, R276, R280). -/
def placeTensor (held : Tensor → List Nat) (t : Tensor) (s : State) : State :=
  let n := localCount t s
  match (List.range 3).find? (fun tier => tierAllowed t tier && (failingAccount t.owner tier n s).isNone
      && decide (n ≤ tierFree tier s)) with
  | some tier =>
    forEach ((held t).filter (fun i => localPane t i s)) (fun i s => allocPane tier t i s) { s with homes := assocSet 0 s.homes t.handle (tier + 1) }
  | none => setF TIER.STAT_NOHOME (min 0xFFFF (getF TIER.STAT_NOHOME s + 1)) { s with homes := assocSet 0 s.homes t.handle 0 }

/-- The units that a placement takes in (R266, R272, R366). -/
def takeTopology (s : State) : State :=
  let ports := (List.range 4).filter (fun p => cartOpen p s)
  let s := forEach ports (fun p s => setCart p (fun a => { a with placedSlots := getF (CART.CPSLOTS_SLOTS p) s }) s) s
  { s with placed := ⟨tierUnits 0 s, tierUnits 1 s, ports⟩ }

/-- PERR values (R292). -/
def perrCores : Nat := 1
def perrTopology : Nat := 2
def perrShrink : Nat := 3

/-- The placement of R274 to R280 over empty accounts and empty tiers: the panes `held` names are allocated. Answers PERR. -/
def placeImage (held : Tensor → List Nat) (s : State) : State × Nat :=
  match s.image with
  | none => (takeTopology (showCores [] s), 0)
  | some im =>
    match assignCores im.casements ((List.range 32).filter (fun n => isOpen n s)) with
    | none => (s, perrCores)
    | some l =>
      match crossDevice im s with
      | none => (s, perrTopology)
      | some (r, st) =>
        let s := setF TIER.STAT_NOHOME 0 (takeTopology (showNode im r st (showCores l { s with homes := [] })))
        (forEach (homeOrder im) (placeTensor held) s, 0)

/-- A placement succeeds or fails: PERR and PLGEN show it (R292, R293). -/
def placed (perr : Nat) (s : State) : State :=
  let s := setF TIER.STAT_PERR perr s
  if perr = 0 then addF TIER.PLGEN_GEN 1 s else s

/-! REPLACE (R273, R281, R621). -/

/-- TIER_REPLACE (R273, R291): no further effect while BUSY; a load or UNLOAD that quiesces comes first (R568). -/
def execTierReplace (s : State) : Host.Outcome State Fault Refusal :=
  .next (hostWrite .late (fun s =>
    if takingStopped s then s else setF TIER.CTRL_REPLACE 1 (setF TIER.STAT_BUSY 1 s)) s)

/-- A pane that a REPLACE collects: its tensor, index, old place, and what it holds; none for an unwritten one. -/
structure MovedPane where
  root : Tensor
  pane : Nat
  old : PaneLoc
  held : Option PaneData
deriving DecidableEq, Repr

/-- Read every held pane (R273, R281). -/
def collectPanes (s : State) : List MovedPane × State :=
  s.panes.foldl (fun acc p =>
    let root := tensorAt (p.1 / 2 ^ 28) acc.2
    let i := p.1 % 2 ^ 28
    if !unitOpen p.2.unit acc.2 then (acc.1 ++ [⟨root, i, p.2, some ⟨[], true, [], 0, false⟩⟩], acc.2)
    else if unwritten p.2 acc.2 && !poisonedRange (locAddr p.2) 66560 acc.2 then (acc.1 ++ [⟨root, i, p.2, none⟩], acc.2)
    else
      let (d, s) := moverRead root i acc.2
      (acc.1 ++ [⟨root, i, p.2, some d⟩], s)) ([], s)

/-- The new place of the window (R615, R621): none when an OPEN channel lacks slots, or none is OPEN. -/
def replanWindow (s : State) : Option (List (Nat × Nat × Nat)) :=
  if !winHeld s then some []
  else
    let ch := tierUnits 1 s
    if ch = [] then none else winPlan (winUnits s) ch (fun _ => []) s

/-- Bytes and poisoned lines of a window unit where it lies; none in a channel that is not OPEN. -/
def windowUnit (runs : List (Nat × Nat × Nat)) (u : Nat) (s : State) : Option (List Host.Cell × List Nat) :=
  let (c, n) := winSlot runs u
  if unitOpen c s then
    let a := memAddr c n 0
    some (memCells a 65536 s, (s.poison.filter (fun l => decide (a / 64 ≤ l) && decide (l < a / 64 + 1024))).map (fun l => l - a / 64))
  else none

/-- Put a window unit into its new place: contents, or poison codewords (R317, R621). -/
def putWindowUnit (runs : List (Nat × Nat × Nat)) (u : Nat) (x : Option (List Host.Cell × List Nat)) (s : State) : State :=
  let (c, n) := winSlot runs u
  let a := memAddr c n 0
  match x with
  | some (cells, bad) => forEach bad (fun l s => poisonLine (a / 64 + l) s) (healRange a 65536 (memPutCells a 65536 cells s))
  | none => forEach (List.range 1024) (fun l s => poisonLine (a / 64 + l) s) (memPutCells a 65536 [] s)

/-- Move the window to its new slots, and show their channels (R619); one whose slots and channels all stay is left as it is. -/
def moveWindow (new : List (Nat × Nat × Nat)) (before s : State) : State :=
  if new = before.winRuns && new.all (fun r => unitOpen r.1 before) then s
  else
    let all := List.range (winUnits before)
    let held := all.map (fun u => windowUnit before.winRuns u before)
    setF HOSTIF.HDMSTAT_CHANS (winChans new).length (forEach (all.zip held) (fun x s => putWindowUnit new x.1 x.2 s) s)

/-- Write a collected pane where the placement has put it; a pane that is no longer local is dropped. -/
def putPane (m : MovedPane) (s : State) : State :=
  match paneLoc m.root.handle m.pane s, m.held with
  | some l, some d =>
    let s := if 32 ≤ l.unit && decide (l ≠ m.old) then programWhole ((l.unit - 32) / 8) 66560 s else s
    writePane m.root m.pane l d.data d.poison d.tadj d.step s
  | _, _ => s

/-- A tensor that the previous placement homed has no home now (R273). -/
def lostHome (before after : State) : Bool :=
  match before.image with
  | none => false
  | some im => im.tensors.any (fun t => (homeOf t before).isSome && (homeOf t after).isNone)

/-- A REPLACE ends without a new placement: the previous one stays in force (R273). -/
def replaceFails (perr : Nat) (s : State) : State :=
  placed perr (setF TIER.CTRL_REPLACE 0 (setF TIER.STAT_BUSY 0 s))

/-- A cartridge can be programmed with `n` more bytes without reaching its rating (R357, R358). -/
def portTakes (p n : Nat) (s : State) : Bool :=
  let need := ceilDiv ((cartAuxOf p s).written + n) (10 ^ 9)
  let c := getF (CART.CPWEAR_COMMITTED p) s
  decide (n = 0) || (!cartWorn p s && (decide (need ≤ c) || decide (c + 64 * ceilDiv (need - c) 64 < getF (CART.CPRATED_RATED p) s)))

/-- Panes that a placement moves into slots of port `p`. -/
def movedTo (p : Nat) (panes : List MovedPane) (s : State) : Nat :=
  (panes.filter (fun m => m.held.isSome && (match paneLoc m.root.handle m.pane s with
    | some l => decide (32 ≤ l.unit) && decide ((l.unit - 32) / 8 = p) && decide (l ≠ m.old)
    | none => false))).length

/-- Step 3 of R273. DESIGN CHOICE (log 266): a placement whose moves would wear a cartridge out, which R358 lets no further program enter,
fails with PLACE_SHRINK. -/
def replaceNow (s : State) : State :=
  match replanWindow s with
  | none => replaceFails perrShrink s
  | some runs =>
    let (panes, s1) := collectPanes s
    let s2 := chargeWindow { s1 with panes := [], used := [], winRuns := runs }
    let held (t : Tensor) : List Nat :=
      (panes.filter (fun m => decide (m.root.handle = t.handle))).map (fun m => m.pane)
    let (s3, perr) := placeImage held (if winHeld s then s2 else { s1 with panes := [], used := [] })
    if perr = perrTopology then replaceFails perrTopology s1
    else if perr ≠ 0 || lostHome s s3 || !(List.range 4).all (fun p => portTakes p (66560 * movedTo p panes s3) s3) then
      replaceFails perrShrink s1
    else
      let s4 := forEach panes (fun m s => freeSlotBytes m.old s) s3
      let s5 := forEach panes (fun m s => match paneLoc m.root.handle m.pane s with
        | some l => healRange (locAddr l) 66560 (freeSlotBytes l s)
        | none => s) (moveWindow runs s s4)
      placed 0 (setF TIER.CTRL_REPLACE 0 (setF TIER.STAT_BUSY 0 (forEach panes putPane s5)))

/-- REPLACE_QUIESCED (R273, R545): every descriptor in flight has completed; a load that quiesces goes on waiting. -/
def execReplaceQuiesced (s : State) : Host.Outcome State Fault Refusal :=
  .next (if flag TIER.CTRL_REPLACE s && s.inflight.isEmpty && alive s && !(regionOf 99 s).inReset then
      let s := replaceNow s
      if getF IMG.STAT_STATE s = 4 then setF TIER.STAT_BUSY 1 s else s
    else s)

/-! The tensor-metadata read (R298 to R300). -/

/-- MQDATA takes a list of words; the other words read 0. -/
def setMqdata (ws : List Nat) (s : State) : State :=
  forEach (List.range 256) (fun i s => setF (TIER.MQDATA_DATA i) (ws.getD i 0) s) s

/-- Little-endian words of a byte string. -/
def wordsOf (n : Nat) (bs : List Byte) : List Nat := (List.range n).map (fun i => leAt bs (4 * i) 4)

/-- The tensor that MQHANDLE names, a view standing for its base. -/
def mqRoot (s : State) : Option Tensor :=
  let h := getF TIER.MQHANDLE_HANDLE s
  if h = 0 then none else (tensorOf h s).map (fun t => rootOf t s)

/-- The metadata of a pane (R257): of an unwritten or unallocated one, the zero pane's (R263). -/
def paneMeta (t : Tensor) (i : Nat) (l : Option PaneLoc) (s : State) : List Byte :=
  let zero := spread ((paneCells t i (zeroData t i) false [] 0).filter (fun c => decide (65536 ≤ c.1))) 65536 1024
  match l with
  | none => zero
  | some l => if unwritten l s then zero else memRead (locAddr l + 65536) 1024 s

/-- MQ_READ_METADATA (R299, R300). DESIGN CHOICE (log 267): MQDATA reads 0 after an ERR other than 0. -/
def execMqReadMetadata (s : State) : Host.Outcome State Fault Refusal :=
  .next (hostWrite .late (fun s =>
    let s := setF TIER.MQCMD_OP 0 s
    match mqRoot s with
    | none => setMqdata [] (setF TIER.MQCMD_ERR 1 s)
    | some t =>
      let i := getF TIER.MQPANE_PANE s
      if paneCount t ≤ i || !localPane t i s then setMqdata [] (setF TIER.MQCMD_ERR 2 s)
      else
        let l := paneLoc t.handle i s
        let shut : Bool := match l with
          | some l => !unitOpen l.unit s
          | none => false
        if shut then setMqdata [] (setF TIER.MQCMD_ERR 3 s)
        else setMqdata (wordsOf 256 (paneMeta t i l s)) (setF TIER.MQCMD_ERR 0 s)) s)

/-- Panes of a tensor that lie in a tier. -/
def panesIn (t : Tensor) (tier : Nat) (s : State) : Nat :=
  (s.panes.filter (fun p => decide (p.1 / 2 ^ 28 = t.handle) && decide (p.2.tier = tier))).length

/-- MQ_READ_PLACEMENT (R299, R300). -/
def execMqReadPlacement (s : State) : Host.Outcome State Fault Refusal :=
  .next (hostWrite .late (fun s =>
    let s := setF TIER.MQCMD_OP 1 s
    match mqRoot s with
    | none => setMqdata [] (setF TIER.MQCMD_ERR 1 s)
    | some t =>
      setMqdata [(homeOf t s).getD 3, localCount t s, panesIn t 0 s, panesIn t 1 s, panesIn t 2 s,
        ((stripeSet 0 t.owner s).map (fun u => 2 ^ u)).sum, t.owner] (setF TIER.MQCMD_ERR 0 s)) s)

end Sys2Proof.Machine
end

