-- ==== Sys2Proof/Machine/Links.lean ====
section
/-! DEFINITION. Doorways (R471 to R479, R505 to R513): training, link flits and credits, Ethernet frames, and the transport packets
that leave and arrive. -/

namespace Sys2Proof.Machine

/-- LSTATE of DWSTAT (R508). -/
def lState (w : Nat) (s : State) : Nat := getF (DW.DWSTAT_LSTATE w) s

/-- A doorway carries traffic: its shutter is OPEN and its link is up (R41, R473). -/
def dwOpen (w : Nat) (s : State) : Bool := isOpen (68 + w) s && decide (lState w s = 2)

/-- Ethernet mode (R471). -/
def isEth (w : Nat) (s : State) : Bool := flag (DW.DWCTL_MODE w) s

/-- A doorway whose link has just trained (R476). -/
def dwAuxInit : DwAux := ⟨[0, 0, 0], [0, 0, 0], [0, 0, 0], [0, 0, 0], [[], [], []], [], [], [], false⟩
def dwAuxOf (w : Nat) (s : State) : DwAux := assocGet dwAuxInit s.dws w
def setDw (w : Nat) (f : DwAux → DwAux) (s : State) : State := { s with dws := assocModify dwAuxInit s.dws w f }

/-- An error record of a doorway (R663). -/
def linkRecord (sev w : Nat) (detail : List Nat) (s : State) : State := errRecord clsLink sev (dwRegion w) 0 w detail s

/-- The doorway page answers: it is not in a reset, and the device is not fatal. -/
def dwAlive (w : Nat) (s : State) : Bool := !fatal s && !(regionOf (dwRegion w) s).inReset

/-! Training (R471, R473). -/

/-- Write DWCTL (R471, R507): a change of MODE while the shutter is not CLOSED is discarded whole. -/
def writeDwctl (w value : Nat) (s : State) : State :=
  let mode := value % 2
  if mode ≠ getF (DW.DWCTL_MODE w) s ∧ getF (GLB.SHUT_STATE (68 + w)) s ≠ 0 then regAccessError (DW.DWCTL_MODE w).addr s
  else
    let s := setF (DW.DWCTL_MODE w) mode (setF (DW.DWCTL_NOFALL w) (bitsOf value 1 1) s)
    if bitsOf value 4 2 = 3 then regAccessError (DW.DWCTL_MODE w).addr s else setF (DW.DWCTL_MINW w) (bitsOf value 4 2) s

/-- DWCTL_WRITE (R471, R507). -/
def execDwctlWrite (w : DoorwayNo) (value : Nat) (s : State) : Host.Outcome State Fault Refusal :=
  .next (hostWrite .late (writeDwctl w value) s)

/-- Training of a doorway begins (R473, R660): each side sends its node number, which DWSTAT shows in native mode. -/
def startTraining (w : Nat) (s : State) : State :=
  let s := setF (DW.DWSTAT_LSTATE w) 1 (setF (DW.DWSTAT_WIDTH w) 0 (setF (DW.DWSTAT_RATE w) 0 (setF (DW.DWSTAT_PVALID w) 0
    (setF (DW.DWSTAT_PARTNER w) 0 s))))
  if isEth w s then s else emit (.trainNode w (getF ND.NDSELF_NODE s)) s

/-- The outcome that training may have: no narrower than MINW, no slower than NOFALL allows (R473); Ethernet lanes run at 200 Gb/s (R474). -/
def trainingAllowed (w width rate : Nat) (s : State) : Bool :=
  (decide (width = 1) || decide (width = 2) || decide (width = 4)) && decide (2 ^ getF (DW.DWCTL_MINW w) s ≤ width)
  && (if isEth w s then decide (rate = 20) && decide (width = 4)
      else decide (rate = 40) || (decide (rate = 20) && !flag (DW.DWCTL_NOFALL w) s))

/-- A link fails to train (R473). -/
def trainingFails (w : Nat) (s : State) : State :=
  linkRecord 1 w [w] (setF (DW.DWSTAT_LSTATE w) 3 (setDw w (fun a => { a with retrain := false }) s))

/-- LINK_TRAINING_DONE (R473, R476). -/
def execLinkTrainingDone (w : DoorwayNo) (r : LinkTraining) (s : State) : Host.Outcome State Fault Refusal :=
  .next (if lState w s ≠ 1 || !dwAlive w s then s
    else match r with
    | .failed => trainingFails w s
    | .up width rate partner =>
      if !trainingAllowed w width rate s then trainingFails w s
      else
        let eth := isEth w s
        let s := setF (DW.DWSTAT_LSTATE w) 2 (setF (DW.DWSTAT_WIDTH w) width (setF (DW.DWSTAT_RATE w) rate s))
        let s := setDw w (fun a => { dwAuxInit with egress := a.egress.map (fun e => (e.1, e.2.1, 0)), arrived := a.arrived }) s
        match partner with
        | some n => if eth then s else setF (DW.DWSTAT_PVALID w) 1 (setF (DW.DWSTAT_PARTNER w) n s)
        | none => s)

/-- LINK_LOCK_LOSS (R473): a trained link retrains once. -/
def execLinkLockLoss (w : DoorwayNo) (s : State) : Host.Outcome State Fault Refusal :=
  .next (if lState w s ≠ 2 || !dwAlive w s then s
    else startTraining w (setDw w (fun a => { a with retrain := true }) s))

/-! Transport packets (R480). -/

/-- A transport packet with its ICRC. `kind` is TYPE; `flags` is byte 1. -/
def packetBytes (kind flags src dst epoch psn tag bidx aux op fmt reason gen : Nat) (payload : List Byte) : List Byte :=
  let body := leBytes 1 (1 + 16 * kind) ++ leBytes 1 flags ++ leBytes 2 payload.length ++ leBytes 2 src ++ leBytes 2 dst
    ++ leBytes 4 epoch ++ leBytes 4 psn ++ leBytes 4 tag ++ leBytes 4 bidx ++ leBytes 4 aux ++ leBytes 1 op ++ leBytes 1 fmt
    ++ leBytes 1 reason ++ leBytes 1 gen ++ payload
  body ++ leBytes 4 (crc32c body)

/-- Fields of a packet (R480). -/
def pkVer (p : List Byte) : Nat := leAt p 0 1 % 16
def pkType (p : List Byte) : Nat := leAt p 0 1 / 16
def pkTc (p : List Byte) : Nat := leAt p 1 1 % 4
def pkEce (p : List Byte) : Bool := bitOf (leAt p 1 1) 3
def pkFirst (p : List Byte) : Bool := bitOf (leAt p 1 1) 4
def pkDown (p : List Byte) : Bool := bitOf (leAt p 1 1) 5
def pkLen (p : List Byte) : Nat := leAt p 2 2
def pkSrc (p : List Byte) : Nat := leAt p 4 2
def pkDst (p : List Byte) : Nat := leAt p 6 2
def pkEpoch (p : List Byte) : Nat := leAt p 8 4
def pkPsn (p : List Byte) : Nat := leAt p 12 4
def pkTag (p : List Byte) : Nat := leAt p 16 4
def pkBidx (p : List Byte) : Nat := leAt p 20 4
def pkAux (p : List Byte) : Nat := leAt p 24 4
def pkOp (p : List Byte) : Nat := leAt p 28 1
def pkFmt (p : List Byte) : Nat := leAt p 29 1
def pkReason (p : List Byte) : Nat := leAt p 30 1
def pkGen (p : List Byte) : Nat := leAt p 31 1
def pkPayload (p : List Byte) : List Byte := byteSlice p 32 (pkLen p)

/-- The ICRC matches (R480). -/
def pkSound (p : List Byte) : Bool :=
  let n := 32 + pkLen p
  decide (n + 4 ≤ p.length) && decide (crc32c (p.take n) = leAt p n 4)

def ownNode (s : State) : Nat := getF ND.NDSELF_NODE s
def epochOf (s : State) : Nat := getF ND.NDEPOCH_EPOCH s

/-! Ethernet frames (R478, R479). -/

/-- Octets of a register that holds a MAC address (R513). -/
def macBytes (v : Nat) : List Byte := beBytes 6 v
/-- Octets of DWIP (R513). -/
def ipBytes (w : Nat) (s : State) : List Byte := [0, 1, 2, 3].flatMap (fun i => beBytes 4 (getF (DW.DWIP_ADDR w i) s))

/-- Sum of big-endian 16-bit words, a last odd byte padded with zero. -/
def wordSum : List Byte → Nat
  | [] => 0
  | [a] => a.toNat * 256
  | a :: b :: t => a.toNat * 256 + b.toNat + wordSum t

/-- Fold a sum into 16 bits of ones' complement. -/
def onesFold (n : Nat) : Nat :=
  let a := n / 65536 + n % 65536
  let b := a / 65536 + a % 65536
  b / 65536 + b % 65536

/-- The UDP checksum over IPv6 (R478): zero is sent as all ones. -/
def udpChecksum (src dst udp : List Byte) : Nat :=
  let v := 0xFFFF - onesFold (wordSum (src ++ dst ++ beBytes 4 udp.length ++ [0#8, 0#8, 0#8, 17#8] ++ udp))
  if v = 0 then 0xFFFF else v

/-- Reflected CRC-32 of IEEE 802.3, as the FCS uses it. -/
def crc32eth (bs : List Byte) : Nat := crcList 0xEDB88320 0xFFFFFFFF bs ^^^ 0xFFFFFFFF

/-- The frame of a packet (R478). -/
def frameOf (w : Nat) (p : List Byte) (s : State) : List Byte :=
  let tc := pkTc p
  let pcp := bitsOf (getF (DW.DWVLAN_PCP w) s) (3 * tc) 3
  let src := ipBytes w s
  let dst := match s.nd.members.find? (fun m => decide (m.node = pkDst p)) with
    | some m => byteSlice m.ip 0 16
    | none => byteSlice [] 0 16
  let tag := if flag (DW.DWVLAN_VLANEN w) s then beBytes 2 0x8100 ++ beBytes 2 (pcp * 8192 + getF (DW.DWVLAN_VID w) s) else []
  let dscp := bitsOf (getF (DW.DWQOS_DSCP w) s) (6 * tc) 6
  let ports := beBytes 2 (49152 + (pkSrc p * 16 + w) % 16384) ++ beBytes 2 (getF (DW.DWETH_PORT w) s) ++ beBytes 2 (8 + p.length)
  let ck := udpChecksum src dst (ports ++ [0#8, 0#8] ++ p)
  let ip := beBytes 4 (6 * 2 ^ 28 + (dscp * 4 + 2) * 2 ^ 20 + tc * 2 ^ 16 + pkSrc p) ++ beBytes 2 (8 + p.length) ++ beBytes 1 17
    ++ beBytes 1 (getF (DW.DWETH_HOPLIM w) s) ++ src ++ dst
  let f := macBytes (getF (DW.DWGWMAC_MAC w) s) ++ macBytes (getF (DW.DWMAC_MAC w) s) ++ tag ++ beBytes 2 0x86DD
    ++ ip ++ ports ++ beBytes 2 ck ++ p
  f ++ leBytes 4 (crc32eth f)

/-- The priority of a traffic class (R474, R512). -/
def prioOf (w tc : Nat) (s : State) : Nat := bitsOf (getF (DW.DWVLAN_PCP w) s) (3 * tc) 3

/-- A packet leaves on the wire whole: one Ethernet frame. -/
def sendFrame (w : Nat) (p : List Byte) (s : State) : State :=
  peep 6 w 1 1 (addF (DW.DWTXBYTES_COUNT w) p.length (emit (.link w (frameOf w p s)) s))

/-- Frames leave in order while their priorities are not paused (R474). -/
def drainFrames (w : Nat) (s : State) : State :=
  if !isEth w s || !dwOpen w s then s
  else
    let a := dwAuxOf w s
    let free (e : Nat × List Byte × Nat) : Bool := !a.paused.contains (prioOf w e.1 s)
    forEach (a.egress.filter free) (fun e s => sendFrame w e.2.1 s)
      (setDw w (fun a => { a with egress := a.egress.filter (fun e => !free e) }) s)

/-- A packet of a class goes to the egress of a doorway (R476). -/
def sendPacket (w tc : Nat) (p : List Byte) (s : State) : State :=
  drainFrames w (setDw w (fun a => { a with egress := a.egress ++ [(tc, p, 0)] }) s)

/-! Packets that arrive (R479, R480, R485). -/

/-- A transport packet arrives on a doorway: discarded by R480 and R485, or kept for its command. -/
def arrive (w : Nat) (p : List Byte) (ce : Bool) (s : State) : State :=
  let s := addF (DW.DWRXBYTES_COUNT w) p.length s
  if !pkSound p then satF (DW.DWICRC_COUNT w) 1 s
  else if pkVer p ≠ 1 ∨ 4 < pkType p ∨ (pkType p ≠ 4 ∧ pkEpoch p ≠ epochOf s) then satF (DW.DWDROP_COUNT w) 1 s
  else setDw w (fun a => { a with arrived := a.arrived ++ [(p.take (36 + pkLen p), ce)] }) s

/-- Take an arrived packet of a type off a doorway's list; none when no such packet has arrived. -/
def takeArrived (w kind : Nat) (p : List Byte) (ce : Bool) (s : State) : Option State :=
  if pkType p = kind ∧ (dwAuxOf w s).arrived.contains (p, ce) ∧ dwAlive w s = true then
    some (setDw w (fun a => { a with arrived := a.arrived.erase (p, ce) }) s)
  else none

/-! Link flits (R475 to R477). -/

/-- Receive pools and CRED ranges by class (R475, R476). -/
def poolOf (tc : Nat) : Nat := if tc = 0 then 128 else 448
def credRange (tc : Nat) : Nat := if tc = 0 then 1024 else 2048

/-- Credits that a sender holds for a class (R476). -/
def creditsOf (w tc : Nat) (s : State) : Nat :=
  let a := dwAuxOf w s
  let r := credRange tc
  poolOf tc - (a.sent.getD tc 0 + r - a.credited.getD tc 0 % r) % r

/-- The CRED field of a flit (R475). -/
def credField (a : DwAux) : Nat :=
  a.retired.getD 0 0 % 1024 + a.retired.getD 1 0 % 2048 * 2 ^ 10 + a.retired.getD 2 0 % 2048 * 2 ^ 21

/-- A flit with its CRC (R475). -/
def flitBytes (kind tc fseq cred : Nat) (data : List Byte) : List Byte :=
  let b := leBytes 1 kind ++ leBytes 1 tc ++ leBytes 2 fseq ++ leBytes 4 cred ++ byteSlice data 0 628
  b ++ leBytes 4 (crc32c b)

/-- Egress input of a class by the doorway's egress arbiter (R476, R633). -/
def egressInput (w tc : Nat) (s : State) : Nat := bitsOf (getF (ARB.INPUTMAP_MAP (672 + w)) s) (4 * tc) 4

/-- The class whose flit leaves next: of those with a packet and a credit, the one on the highest input. -/
def egressClass (w : Nat) (s : State) : Option Nat :=
  [0, 1, 2].foldl (fun (best : Option Nat) tc =>
    if (dwAuxOf w s).egress.any (fun e => decide (e.1 = tc)) && decide (0 < creditsOf w tc s) then
      match best with
      | some b => if egressInput w b s < egressInput w tc s then some tc else some b
      | none => some tc
    else best) none

/-- Advance the first packet of a class by one flit; a packet that is sent whole leaves. -/
def advanceEgress (tc : Nat) : List (Nat × List Byte × Nat) → List (Nat × List Byte × Nat)
  | [] => []
  | e :: t => if e.1 = tc then (if e.2.1.length ≤ e.2.2 + 628 then t else (e.1, e.2.1, e.2.2 + 628) :: t) else e :: advanceEgress tc t

/-- FLIT_SEND (R475, R476): one data flit of a class with a credit, or an idle flit with the three FSEQ counters. -/
def execFlitSend (w : DoorwayNo) (s : State) : Host.Outcome State Fault Refusal :=
  .next (if isEth w s || !dwOpen w s || !dwAlive w s then s
    else
      let a := dwAuxOf w s
      let s := peep 6 w 1 1 s
      match egressClass w s with
      | none =>
        emit (.link w (flitBytes 0 0 (a.sent.getD 0 0 % 65536) (credField a) (a.sent.flatMap (fun n => leBytes 2 n)))) s
      | some tc =>
        match a.egress.find? (fun e => decide (e.1 = tc)) with
        | none => s
        | some e =>
          let last := decide (e.2.1.length ≤ e.2.2 + 628)
          let data := (e.2.1.drop e.2.2).take 628
          let s := setDw w (fun a => { a with
            sent := a.sent.set tc (a.sent.getD tc 0 + 1), egress := advanceEgress tc a.egress }) s
          addF (DW.DWTXBYTES_COUNT w) data.length
            (emit (.link w (flitBytes (if last then 2 else 1) tc (a.sent.getD tc 0 % 65536) (credField a) data)) s))

/-- Flits of a class up to count `fseq` that have not come are retired as lost (R477). -/
def retireGap (w tc fseq : Nat) (s : State) : State :=
  let a := dwAuxOf w s
  let gap := (fseq + 65536 - a.next.getD tc 0 % 65536) % 65536
  if gap = 0 then s
  else setDw w (fun a => { a with
    retired := a.retired.set tc (a.retired.getD tc 0 + gap), next := a.next.set tc (a.next.getD tc 0 + gap),
    making := a.making.set tc [] }) s

/-- The credit returns of a flit (R476). -/
def takeCredits (w cred : Nat) (s : State) : State :=
  setDw w (fun a => { a with credited := [bitsOf cred 0 10, bitsOf cred 10 11, bitsOf cred 21 11] }) s

/-- The error correction corrects a codeword of up to `t` symbols in error, and counts it, and counts one that it cannot correct (R472,
R474, R509). -/
def countFec (w t : Nat) (errors : List Nat) (s : State) : State :=
  if errors = [] then s
  else
    addF (DW.DWFECUNC_COUNT w) (errors.filter (fun n => decide (t < n))).length
      (addF (DW.DWFECCOR_COUNT w) (errors.filter (fun n => decide (1 ≤ n ∧ n ≤ t))).length s)

/-- A flit arrives behind the error correction (R475 to R477). -/
def takeFlit (w : Nat) (flit : List Byte) (s : State) : State :=
  let s := peep 6 w 2 1 s
  let kind := leAt flit 0 1
  let tc := leAt flit 1 1
  if decide (flit.length ≠ 640) || decide (crc32c (flit.take 636) ≠ leAt flit 636 4) || decide (2 < kind) || decide (2 < tc) then
    satF (DW.DWDROP_COUNT w) 1 s
  else
    let s := takeCredits w (leAt flit 4 4) s
    if kind = 0 then forEach [0, 1, 2] (fun t s => retireGap w t (leAt flit (8 + 2 * t) 2) s) s
    else
      let s := retireGap w tc (leAt flit 2 2) s
      let a := dwAuxOf w s
      let p := a.making.getD tc [] ++ byteSlice flit 8 628
      let s := setDw w (fun a => { a with
        retired := a.retired.set tc (a.retired.getD tc 0 + 1), next := a.next.set tc (a.next.getD tc 0 + 1),
        making := a.making.set tc (if kind = 2 then [] else p) }) s
      if kind = 2 then arrive w (p.take (36 + pkLen p)) false s else s

/-- FLIT_RECEIVE (R472, R475 to R477): RS(544,512) corrects 16 symbols. -/
def execFlitReceive (w : DoorwayNo) (flit : LineIn) (s : State) : Host.Outcome State Fault Refusal :=
  .next (if isEth w s || !dwOpen w s || !dwAlive w s then s else takeFlit w flit.bytes (countFec w 16 flit.errors s))

/-! Ethernet reception (R474, R479). -/

/-- Priorities that an IEEE 802.1Qbb frame pauses or releases (R474). -/
def takePfc (w : Nat) (f : List Byte) (s : State) : State :=
  let mask := beNat (byteSlice f 16 2)
  let on := (List.range 8).filter (fun p => bitOf mask p && bitOf (getF (DW.DWETH_PFCEN w) s) p)
  let timed := on.filter (fun p => decide (beNat (byteSlice f (18 + 2 * p) 2) ≠ 0))
  drainFrames w (setDw w (fun a => { a with paused := timed ++ a.paused.filter (fun p => !on.contains p) }) s)

/-- A frame arrives with its FCS, behind the error correction (R474, R479). -/
def takeFrame (w : Nat) (frame : List Byte) (s : State) : State :=
  let n := frame.length - 4
  let f := frame.take n
  let drop := satF (DW.DWDROP_COUNT w) 1
  if frame.length < 64 ∨ 9216 < frame.length ∨ crc32eth f ≠ leAt frame n 4 then s
  else
    let s := peep 6 w 2 1 s
    let et := beNat (byteSlice f 12 2)
    if et = 0x8808 then (if beNat (byteSlice f 14 2) = 0x0101 then takePfc w f s else drop s)
    else
      let tagged := decide (et = 0x8100)
      let o := if tagged then 18 else 14
      let src := byteSlice f (o + 8) 16
      let dst := byteSlice f (o + 24) 16
      let udp := byteSlice f (o + 40) (beNat (byteSlice f (o + 44) 2))
      if decide (byteSlice f 0 6 ≠ macBytes (getF (DW.DWMAC_MAC w) s)) || tagged != flag (DW.DWVLAN_VLANEN w) s
         || decide (beNat (byteSlice f (o - 2) 2) ≠ 0x86DD) || decide (dst ≠ ipBytes w s)
         || decide (beNat (byteSlice f (o + 6) 1) ≠ 17)
         || decide (beNat (byteSlice udp 2 2) ≠ getF (DW.DWETH_PORT w) s) || decide (udp.length < 8)
         || decide (beNat (byteSlice udp 6 2) = 0)
         || decide (beNat (byteSlice udp 6 2) ≠ udpChecksum src dst (udp.take 6 ++ [0#8, 0#8] ++ udp.drop 8)) then drop s
      else
        let ce := decide (beNat (byteSlice f o 2) / 16 % 4 = 3)
        arrive w (udp.drop 8) ce (if ce then satF (DW.DWCE_COUNT w) 1 s else s)

/-- FRAME_RECEIVE (R474, R479): RS(544,514) corrects 15 symbols. -/
def execFrameReceive (w : DoorwayNo) (frame : LineIn) (s : State) : Host.Outcome State Fault Refusal :=
  .next (if !isEth w s || !dwOpen w s || !dwAlive w s then s else takeFrame w frame.bytes (countFec w 15 frame.errors s))

/-- PRIORITY_FLOW_CONTROL_PAUSE_END (R474). -/
def execPriorityFlowControlPauseEnd (w : DoorwayNo) (prio : Fin 8) (s : State) : Host.Outcome State Fault Refusal :=
  .next (if isEth w s && (dwAuxOf w s).paused.contains prio.val && dwAlive w s then
      drainFrames w (setDw w (fun a => { a with paused := a.paused.filter (fun p => decide (p ≠ prio.val)) }) s)
    else s)

end Sys2Proof.Machine
end

