-- ==== Sys2Proof/Machine/Coll.lean ====
section
/-! DEFINITION. Stream contexts and the state of a COLL (R375, R393, R394, R493 to R500): trees, streams, shadow panes, commit. -/

namespace Sys2Proof.Machine

/-! Stream contexts (R375). -/

/-- A context after reset or RESET (R400). -/
def ctxInit : CompCtx := ⟨⟨0, 0, 0, 0, 0, 0, 0⟩, none, none, 0, 0, false, [], none, none, false⟩
def ctxOf (x : Nat) (s : State) : CompCtx := assocGet ctxInit s.ctxs x
def setCtx (x : Nat) (f : CompCtx → CompCtx) (s : State) : State := { s with ctxs := assocModify ctxInit s.ctxs x f }

/-- The engine of a context. -/
def ceOf (x : Nat) : Nat := x / 32

/-- Install a table in its slot (R393). -/
def installTable (x : Nat) (t : CompTable) (s : State) : State :=
  setCtx x (fun c => if t.gen % 2 = 0 then { c with slot0 := some t } else { c with slot1 := some t }) s

/-- The retiring generation is retired once no block coded with it is unacknowledged (R394). -/
def retireIfDone (x : Nat) (s : State) : State :=
  match (ctxOf x s).ret with
  | none => s
  | some t =>
    if (ctxOf x s).unacked.any (fun u => decide (u.1 = t.gen)) then s
    else trace 8 1 (ceRegion (ceOf x)) (x + t.gen * 2 ^ 16) (ctxOf x s).seq
      (setCtx x (fun c => { c with ret := none, waits := false }) s)

/-! Trees (R495). -/

def collN (j : CollJob) : Nat := max 1 j.group.length

/-- Rank at a position of the tree of a block: rotated by the block's slice, or with ROOT first (R495). -/
def treeRank (j : CollJob) (v p : Nat) : Nat :=
  if j.op = 3 then (if p = 0 then j.root else if p ≤ j.root then p - 1 else p)
  else (p + v % collN j) % collN j

/-- Position of a rank in the tree of a block (R495). -/
def treePos (j : CollJob) (v r : Nat) : Nat :=
  if j.op = 3 then (if r = j.root then 0 else if r < j.root then r + 1 else r)
  else (r + collN j - v % collN j) % collN j

def nodeOf (j : CollJob) (r : Nat) : Nat := j.group.getD r 0
def rankOf (j : CollJob) (node : Nat) : Nat := j.group.findIdx (fun x => decide (x = node))

/-- Blocks of the data (R377), and blocks on the trees: a DIGCMP carries every member's blocks, block b of rank r as number
b × n + r, in the slice that rank r owns (log 58). -/
def collBlocks (j : CollJob) : Nat := ceilDiv j.total 4096
def collSpan (j : CollJob) : Nat := if j.op = 6 then collBlocks j * collN j else collBlocks j

/-- Offset and length of a block in the uncompressed sequence. -/
def collOff (j : CollJob) (v : Nat) : Nat := 4096 * (if j.op = 6 then v / collN j else v)
def collLen (j : CollJob) (v : Nat) : Nat := min 4096 (j.total - collOff j v)
def ownBlock (j : CollJob) (v : Nat) : List Byte := byteSlice j.own (collOff j v) (collLen j v)

/-- Operations with a reduce phase and with a broadcast phase (R495, R499). -/
def hasReduce (j : CollJob) : Bool := decide (j.op ≤ 1)
def hasDown (j : CollJob) : Bool := decide (j.op = 0) || decide (j.op = 2) || decide (j.op = 3) || decide (j.op = 6)

/-- Children of this member in the tree of a block, by rank. -/
def childRanks (j : CollJob) (v : Nat) : List Nat :=
  let p := treePos j v j.rank
  ([2 * p + 1, 2 * p + 2].filter (fun c => decide (c < collN j))).map (treeRank j v)

/-- The parent of this member in the tree of a block. -/
def parentRank (j : CollJob) (v : Nat) : Option Nat :=
  let p := treePos j v j.rank
  if p = 0 then none else some (treeRank j v ((p - 1) / 2))

/-- What this member sends, in stream order: phase, block, node. Reduce phase first, blocks ascending (log 59). -/
def collItems (j : CollJob) : List (Bool × Nat × Nat) :=
  let vs := List.range (collSpan j)
  (if hasReduce j then vs.filterMap (fun v => (parentRank j v).map (fun r => (false, v, nodeOf j r))) else [])
  ++ (if hasDown j then vs.flatMap (fun v => (childRanks j v).map (fun r => (true, v, nodeOf j r))) else [])
  ++ (if j.op = 4 then vs.map (fun v => (false, v, j.peer)) else [])

/-- Nodes that this member receives from. -/
def collSources (j : CollJob) : List Nat :=
  let vs := List.range (collSpan j)
  dedupNat (sortNat (
    (if hasReduce j then vs.flatMap (fun v => (childRanks j v).map (nodeOf j)) else [])
    ++ (if hasDown j then vs.filterMap (fun v => (parentRank j v).map (nodeOf j)) else [])
    ++ (if j.op = 5 then [j.peer] else [])))

/-- The route set of a peer (R487). -/
def routeSet (node : Nat) (s : State) : List Nat := (optGet s.nd.routeSets node).getD []

/-- The doorway that carries a block to a peer (R487). -/
def routeDoor (node v : Nat) (s : State) : Nat := let m := routeSet node s; m.getD (v % max 1 m.length) 0

/-- The streams of a COLL by peer and doorway, peers ascending, without contexts (R487, R497). -/
def bareStreams (j : CollJob) (s : State) : List CollStream :=
  let items := collItems j
  (dedupNat (sortNat (items.map (fun i => i.2.2)))).flatMap (fun peer =>
    (routeSet peer s).map (fun w =>
      ⟨peer, w, none, (items.filter (fun i => decide (i.2.2 = peer) && decide (routeDoor peer i.2.1 s = w))).map (fun i => (i.1, i.2.1)), 0⟩))

/-- Peers and doorways that a COLL receives over (R497). -/
def bareRecvs (j : CollJob) (s : State) : List (Nat × Nat) :=
  (collSources j).flatMap (fun peer => (routeSet peer s).map (fun w => (peer, w)))

/-- Context of the i-th pair of a doorway (R497). -/
def slotCtx (slot w i : Nat) : Nat := 32 * w + (slot + i) % 32

/-- Give each stream its context (R497): the count runs per doorway, peers ascending. -/
def withCtxs (slot : Nat) (l : List CollStream) : List CollStream :=
  if slot = 0xFF then l
  else (indexFrom 0 l).map (fun p =>
    { p.2 with ctx := some (slotCtx slot p.2.w ((l.take p.1).filter (fun x => decide (x.w = p.2.w))).length) })
def withRecvCtxs (slot : Nat) (l : List (Nat × Nat)) : List (Nat × Nat × Nat) :=
  if slot = 0xFF then []
  else (indexFrom 0 l).map (fun p =>
    (p.2.1, p.2.2, slotCtx slot p.2.2 ((l.take p.1).filter (fun x => decide (x.2 = p.2.2))).length))

/-! The job. -/

def collOf (tag : Nat) (s : State) : Option CollJob := s.colls.find? (fun j => decide (j.tag = tag))
def setColl (id : Nat) (f : CollJob → CollJob) (s : State) : State :=
  { s with colls := updateWhere (fun j => decide (j.id = id)) f s.colls }

/-- The bytes of a block by number. -/
def blockIn (l : List (Nat × List Byte)) (v : Nat) : Option (List Byte) := (l.find? (fun p => decide (p.1 = v))).map (fun p => p.2)

/-- The bytes that an item of a stream carries, once they exist. -/
def itemBytes (j : CollJob) (i : Bool × Nat) : Option (List Byte) :=
  if j.op = 4 then some (ownBlock j i.2) else if i.1 then blockIn j.final i.2 else blockIn j.sums i.2

/-- Blocks that must be final at this member. -/
def wantedBlocks (j : CollJob) : List Nat :=
  let vs := List.range (collSpan j)
  if j.op = 4 then [] else if j.op = 1 then vs.filter (fun v => decide (treePos j v j.rank = 0)) else vs

/-- Everything that a SEND sends has been acknowledged (R498). -/
def sendAcked (j : CollJob) (s : State) : Bool :=
  j.streams.all (fun t => decide (t.pos = t.items.length)) &&
  s.conns.all (fun c => c.queue.all (fun r => decide (r.tag ≠ j.tag)) && c.unacked.all (fun p => decide (p.body.tag ≠ j.tag)))

/-- The member's own data is complete (R498). -/
def collComplete (j : CollJob) (s : State) : Bool :=
  if j.op = 4 then sendAcked j s else (wantedBlocks j).all (fun v => (blockIn j.final v).isSome)

/-- Rank 0 with DONE from every member sends COMMIT (R498). -/
def gatherDone (j : CollJob) (s : State) : State :=
  if j.rank = 0 && !j.commit && j.group.all (fun n => j.dones.contains n) then
    forEach (j.group.filter (fun n => decide (n ≠ nodeOf j 0))) (fun n s => emit (.collMsg n j.tag true) s)
      (setColl j.id (fun j => { j with commit := true }) s)
  else s

/-- Once its own data is complete a member sends DONE to rank 0 (R498); SEND and RECV need none. -/
def collProgress (tag : Nat) (s : State) : State :=
  match collOf tag s with
  | none => s
  | some j =>
    if j.doneSent || decide (j.op = 4) || decide (j.op = 5) || !collComplete j s then s
    else
      let s := setColl j.id (fun j => { j with doneSent := true }) s
      if j.rank = 0 then gatherDone { j with dones := nodeOf j 0 :: j.dones }
          (setColl j.id (fun j => { j with dones := nodeOf j 0 :: j.dones }) s)
      else emit (.collMsg (nodeOf j 0) j.tag false) s

/-! Shadow panes (R498). -/

/-- Key of the shadow of a pane for a descriptor: beyond every handle. -/
def shadowKey (id h i : Nat) : Nat := paneKey (h + 2 ^ 32 * (id + 1)) i

def shadowLoc (id h i : Nat) (s : State) : Option PaneLoc :=
  let l := assocGet noLoc s.panes (shadowKey id h i)
  if l = noLoc then none else some l

/-- Allocate and charge the shadow of one pane. -/
def allocShadow (tier : Nat) (t : Tensor) (id i : Nat) (s : State) : State :=
  match chooseSlot tier t i s with
  | none => s
  | some l => charge t.owner tier 1 (freeSlotBytes l { s with panes := assocSet noLoc s.panes (shadowKey id t.handle i) l })

/-- Shadows of the local panes of a handle in its tensor's home tier (R498, R269): none with QLAST set and the status. -/
def shadowAll (id : Nat) (t : Tensor) (s : State) : Option State × State × Nat :=
  let root := rootOf t s
  match homeOf root s with
  | none => (none, recordQlast false (firstAllowed root) root.owner s, stQuotaExceeded)
  | some tier =>
    let is := (panesOfHandle t root).filter (fun i => localPane root i s && (shadowLoc id root.handle i s).isNone)
    match failingAccount root.owner tier is.length s with
    | some c => (none, recordQlast false tier c s, stQuotaExceeded)
    | none =>
      let s' := forEach is (fun i s => allocShadow tier root id i s) s
      if is.all (fun i => (shadowLoc id root.handle i s').isSome) then (some s', s, 0)
      else (none, recordQlast true tier root.owner s, stTierFull)

/-- Shadows of several handles, all or none. -/
def shadowEach (id : Nat) : List Nat → State → Option State × State × Nat
  | [], s => (some s, s, 0)
  | h :: hs, s =>
    match shadowAll id (tensorAt h s) s with
    | (none, q, st) => (none, q, st)
    | (some s', _, _) =>
      match shadowEach id hs s' with
      | (some s'', _, _) => (some s'', s, 0)
      | (none, q, st) => (none, setF TIER.QLAST_VALID 1 (setF TIER.QLAST_FULL (getF TIER.QLAST_FULL q)
          (setF TIER.QLAST_TIER (getF TIER.QLAST_TIER q) (setF TIER.QLAST_CASE (getF TIER.QLAST_CASE q) s))), st)

/-- The shadows that a descriptor still holds: key, place. -/
def shadowsOf (id : Nat) (s : State) : List (Nat × PaneLoc) :=
  s.panes.filter (fun p => decide (p.1 / 2 ^ 60 = id + 1))

/-- Release the shadows of a descriptor (R500). -/
def dropShadows (id : Nat) (s : State) : State :=
  forEach (shadowsOf id s) (fun p s =>
    uncharge (tensorAt (p.1 / 2 ^ 28 % 2 ^ 32) s).owner p.2.tier 1
      (freeSlotBytes p.2 { s with panes := assocSet noLoc s.panes p.1 noLoc })) s

/-- What a pane holds now, for a writer that replaces part of it: a pane in a unit that is not OPEN reads as poisoned (R281). -/
def paneNow (root : Tensor) (i : Nat) (s : State) : PaneData :=
  match paneLoc root.handle i s with
  | none => ⟨zeroData root i, false, [], 0, true⟩
  | some l => if unitOpen l.unit s then readSlot root i l s else ⟨[], true, [], 0, false⟩

/-- A pane is replaced by its shadow with a working copy's bytes written in; the old pane, checked as it leaves its tier unless the copy
writes it whole, is released (R282, R498). A shadow that cannot be written leaves the pane as it was (R281, R358): the status. -/
def commitShadow (w : WorkCopy) (s : State) : State × Nat :=
  let root := tensorAt w.handle s
  match shadowLoc w.owner w.handle w.pane s with
  | none => (s, 0)
  | some l =>
    if !unitOpen l.unit s then (s, stUnitClosed)
    else match programSlot l 66560 s with
    | (s, false) => (s, stCartWorn)
    | (s, true) =>
      let whole := decide (insideBytes root w.pane ≤ coveredBytes w.spans)
      let (p, s) := if whole then (paneNow root w.pane s, s) else moverRead root w.pane s
      let tadj := w.tadj ++ p.tadj.filter (fun t => !w.tadj.any (fun x => decide (x.1 = t.1)))
      let s := releasePane root w.pane s
      let s := { s with panes := assocSet noLoc s.panes (shadowKey w.owner w.handle w.pane) noLoc }
      (writePane root w.pane l (overlay p.data w.spans w.dirty) (w.poisonOut || (p.poison && !whole)) tadj p.step
        (setLoc w.handle w.pane l s), 0)

/-- Every pane that a descriptor has written is replaced by its shadow in one step; shadows that nothing was written to are
released (R498). The first status that stands in a write's way. -/
def commitShadows (id : Nat) (s : State) : State × Nat :=
  let r := (s.copies.filter (fun c => decide (c.core = rootCore) && decide (c.owner = id) && unsaved c)).foldl (fun a w =>
    let (s, st) := commitShadow w a.1
    (s, if a.2 = 0 then st else a.2)) (s, 0)
  (dropShadows id r.1, r.2)

/-! Bytes of the linear image of a handle (R288, R377). -/

/-- Write one byte of the linear image of a block-format handle. -/
def putLinearByte (owner : Nat) (t root : Tensor) (o : Nat) (b : Byte) (s : State) : State :=
  if o < prodList t.ext then
    let (pane, y) := locate root (baseCoords t (unRowMajor t.ext o))
    putTadj rootCore owner root pane y 0 (putSpan rootCore owner root.handle pane (elemOffset root.fmt root.baxis y) [b] s)
  else if o < linearScale t root then s
  else match (blocksOf t root)[o - linearScale t root]? with
    | none => s
    | some k =>
      let (pane, y) := locate root (baseCoords t k.1)
      putSpan rootCore owner root.handle pane (scaleOffset root.fmt root.baxis y) [b] s

/-- Write bytes of the linear image of a handle from an offset, into working copies. -/
def putLinear (owner : Nat) (t : Tensor) (o : Nat) (bs : List Byte) (s : State) : State :=
  let root := rootOf t s
  if isBlockTag root.fmt then forEach (indexFrom o bs) (fun p s => putLinearByte owner t root p.1 p.2 s) s
  else
    let w := fmtBytes root.fmt
    forEach (indexFrom (o / w) (elemsOf w bs)) (fun p s =>
      writeScalar owner t root (unRowMajor t.ext p.1) p.2 false s) s

/-- The pane of the element at a byte of the linear image of a handle carries poison (R738). -/
def poisonLinear (owner : Nat) (t : Tensor) (o : Nat) (s : State) : State :=
  let root := rootOf t s
  let n := o / fmtBytes root.fmt
  if n < prodList t.ext then
    putPoison rootCore owner root.handle (locate root (baseCoords t (unRowMajor t.ext n))).1 s
  else s

/-! Ending a COLL. -/

/-- What a COLL has queued and its job are dropped; none of its encoders waits any longer (R415). -/
def dropColl (j : CollJob) (s : State) : State :=
  let s := forEach (j.streams.filterMap (fun t => t.ctx)) (fun x s => setCtx x (fun c => { c with waits := false }) s) s
  { s with
    colls := s.colls.filter (fun x => decide (x.id ≠ j.id))
    conns := s.conns.map (fun c => { c with queue := c.queue.filter (fun r => decide (r.tag ≠ j.tag)) }) }

/-- An uncommitted COLL completes without any result (R500). -/
def failColl (status : Nat) (j : CollJob) (s : State) : State :=
  match flight j.id s with
  | none => dropColl j s
  | some e => finish e status j.flags 0 0 (dropShadows j.id (dropColl j s))

/-- Shards whose digests differ, with the lowest node that differs (R499). -/
def digestDiffs (j : CollJob) : List (Nat × Nat) :=
  let own := elemsOf 8 j.own
  let image (r : Nat) : List Nat :=
    (List.range (collBlocks j)).flatMap (fun b => elemsOf 8 ((blockIn j.final (b * collN j + r)).getD []))
  let others := ((indexFrom 0 j.group).filter (fun p => decide (p.1 ≠ j.rank))).map (fun p => (p.2, image p.1))
  (indexFrom 0 own).filterMap (fun p =>
    (others.find? (fun o => decide (o.2.getD p.1 0 ≠ p.2))).map (fun o => (p.1, o.1)))

/-- Report the differences of a DIGCMP (R449, R499). -/
def reportDigests (j : CollJob) (s : State) : State :=
  match digestDiffs j with
  | [] => s
  | d :: ds =>
    let s := setF TRN.STAT_DGMISMATCH 1 (setF TRN.DGHANDLE_HANDLE j.aux (setF TRN.DGSHARD_SHARD d.1 (setF TRN.DGNODE_NODE d.2 s)))
    forEach ((d :: ds).take 16) (fun x s => errRecord clsTraining 1 99 0 noUnit [j.aux, x.1, x.2] s) s

/-- A COLL commits (R498): shadows replace panes, those that hold results of this member's poisoned elements carry POISON (R738), and the
record is written. -/
def commitColl (j : CollJob) (s : State) : State :=
  match flight j.id s with
  | none => dropColl j s
  | some e =>
    let s := if j.op = 6 then reportDigests j s else s
    let s := if j.op = 4 ∨ j.op = 6 then s
      else forEach (j.final.filter (fun p => (wantedBlocks j).contains p.1)) (fun p s =>
        putLinear j.id (tensorAt j.dh s) (collOff j p.1) p.2 s) s
    let s := if j.op = 4 ∨ j.op = 6 then s
      else forEach (j.bad.filter (fun b => (wantedBlocks j).contains (b.1 / 4096))) (fun b s => poisonLinear j.id (tensorAt j.dh s) b.1 s) s
    let (s, st) := commitShadows j.id s
    finish e (if st ≠ 0 then st else if j.poison then stPoisonRead else stOk) j.flags 0 0 (dropColl j s)

/-! Connections (R480, R482). -/

def connOf (w peer : Nat) (s : State) : Option Conn := s.conns.find? (fun c => decide (c.w = w) && decide (c.peer = peer))
def setConn (w peer : Nat) (f : Conn → Conn) (s : State) : State :=
  { s with conns := updateWhere (fun c => decide (c.w = w) && decide (c.peer = peer)) f s.conns }

/-- A COLL uses a connection. -/
def collUses (w peer : Nat) (j : CollJob) : Bool :=
  j.streams.any (fun t => decide (t.w = w) && decide (t.peer = peer)) || j.recvs.any (fun r => decide (r.1 = peer) && decide (r.2.1 = w))
  || (collSources j).contains peer

/-- A checkpoint carriage in flight to a node, or to any, ends with a status of its cause (R456, R501, R585; log 278). -/
def endCarriage (status : Nat) (peer : Option Nat) (s : State) : State :=
  let ends (e : InFlight) : Bool := decide (e.opcode = 6) && decide (dfield e.desc 0x11 0 8 = 2) && (match peer with
    | some n => decide (dfield e.desc 0x14 0 16 = n)
    | none => true)
  { s with inflight := updateWhere ends (fun e =>
      { e with parts := e.parts.map (fun x => { x with status := if x.status = 0 then status else x.status }) }) s.inflight }

/-- A connection fails (R482): it stays failed until the next epoch. -/
def failConn (w peer : Nat) (s : State) : State :=
  match connOf w peer s with
  | none => s
  | some c =>
    if c.failed then s
    else
      let s := setConn w peer (fun c => { c with failed := true, queue := [], unacked := [], window := [] }) s
      let s := satF (DW.DWRETX_COUNT w) 1 (setF ND.NDFAILED_NODE peer (setF ND.NDEVENT_PEERFAIL 1 s))
      let s := trace 7 1 (dwRegion w) (w + peer * 2 ^ 16) c.nextPsn (linkRecord 1 w [w, peer] s)
      endCarriage stPeerLost (some peer) (forEach (s.colls.filter (fun j => collUses w peer j && !j.commit)) (failColl stPeerLost) s)

end Sys2Proof.Machine
end

