-- ==== Sys2Proof/Machine/Transport.lean ====
section
/-! DEFINITION. The transport (R480 to R485): connections, the packets they send, acknowledge and repeat, and what they hand to
decoders. -/

namespace Sys2Proof.Machine

/-- A new connection (R481, R484, R491). -/
def newConn (peer w : Nat) (s : State) : Conn :=
  ⟨peer, w, false, 0, [], [], getF (DW.DWTRANS_CWINIT w) s, 0, 0, 0, [], 0, none, false, none⟩

/-- RTO of a doorway in LIC counts (R482, R511). -/
def rtoOf (w : Nat) (s : State) : Nat := getF (DW.DWTRANS_RTO w) s * 1024

/-- The sender's limit of unacknowledged packets (R484). -/
def windowLimit (c : Conn) (s : State) : Nat := if isEth c.w s then c.cwnd else 256

/-- The bytes of a DATA packet (R480). -/
def dataPacket (c : Conn) (psn : Nat) (retx : Bool) (r : SendRec) (s : State) : List Byte :=
  packetBytes 0 (r.tc + 4 * b2n retx + 16 * b2n r.first + 32 * b2n r.down) (ownNode s) c.peer (epochOf s) psn r.tag r.bidx
    (if r.first then r.total else 0) r.op r.fmt 0 0 r.payload

/-- Send an ACK (R480, R481, R484). -/
def sendAck (w peer : Nat) (s : State) : State :=
  match connOf w peer s with
  | none => s
  | some c =>
    let map := (List.range 32).map (fun k => BitVec.ofNat 8 (natLow ((List.range 8).map (fun b =>
      c.window.any (fun p => decide (p.1 = (c.expect + 1 + 8 * k + b) % 2 ^ 32))))))
    sendPacket w 0 (packetBytes 1 (8 * b2n c.ce) (ownNode s) peer (epochOf s) 0 0 0 c.expect 0 0 0 0 map)
      (setConn w peer (fun c => { c with sinceAck := 0, rxStamp := none, ce := false }) s)

/-- Send a NACK (R480). -/
def sendNack (w peer psn tag reason gen : Nat) (s : State) : State :=
  sendPacket w 0 (packetBytes 2 0 (ownNode s) peer (epochOf s) 0 tag 0 psn 0 0 reason gen []) s

/-- NACK reasons (R480). -/
def nackMissing : Nat := 0
def nackGenmiss : Nat := 1
def nackCorrupt : Nat := 2
def nackNotready : Nat := 3

/-- Retransmit a packet, or fail the connection after RETRY + 1 sends (R482). -/
def resend (w peer psn : Nat) (s : State) : State :=
  match connOf w peer s with
  | none => s
  | some c =>
    match c.unacked.find? (fun p => decide (p.psn = psn)) with
    | none => s
    | some p =>
      if getF (DW.DWTRANS_RETRY w) s + 1 ≤ p.sent then failConn w peer s
      else
        let again (x : TxPkt) : TxPkt := { x with sent := x.sent + 1, stamp := licOf (dwRegion w) s }
        let s := setConn w peer (fun c => { c with unacked := updateWhere (fun x => decide (x.psn = psn)) again c.unacked }) s
        trace 7 0 (dwRegion w) (w + peer * 2 ^ 16) psn (peep 6 w 3 1
          (sendPacket w p.body.tc (dataPacket c psn true p.body s) s))

/-! Records to send. -/

/-- The record of a stream's item with a payload. -/
def streamRec (j : CollJob) (t : CollStream) (item : Bool × Nat) (first : Bool) (payload : List Byte)
    (coded : Option (Nat × Nat × Nat)) : SendRec :=
  ⟨j.tag, j.op, j.fmt, if j.op = 4 then 2 else 1, item.2, item.1, first, (t.items.map (fun i => collLen j i.2)).sum, payload, coded⟩

/-- Queue a record on a stream's connection. -/
def queueRec (t : CollStream) (r : SendRec) (s : State) : State :=
  setConn t.w t.peer (fun c => { c with queue := c.queue ++ [r] }) s

/-- A stream goes on to its next item. -/
def advanceStream (j : CollJob) (t : CollStream) (s : State) : State :=
  let is (x : CollStream) : Bool := decide (x.peer = t.peer) && decide (x.w = t.w)
  setColl j.id (fun j => { j with streams := updateWhere is (fun x => { x with pos := x.pos + 1 }) j.streams }) s

/-- Counters of an engine for a coded or decoded block (R417, R705): blocks, header and payload bytes, uncompressed bytes. -/
def countBlock (ce event record bytes : Nat) (s : State) : State :=
  peep 7 ce 4 record (peep 7 ce 3 bytes (peep 7 ce event 1
    (addF (CE.CEBYTES_COUNT ce) record (addF (CE.CEBLOCKS_COUNT ce) 1 s))))

/-- A table message counts in the bytes of an engine as a block's record does, padding apart. DESIGN CHOICE (log 271): R417 names header
and payload bytes. -/
def countTable (ce n : Nat) (s : State) : State := peep 7 ce 4 n (addF (CE.CEBYTES_COUNT ce) n s)

/-- The first RAW stream to a peer over a doorway whose next block exists (R376, R497). -/
def rawReady (w peer : Nat) (s : State) : Option (CollJob × CollStream × (Bool × Nat) × List Byte) :=
  s.colls.findSome? (fun j => (j.streams.find? (fun t => decide (t.w = w) && decide (t.peer = peer) && t.ctx.isNone)).bind (fun t =>
    (t.items[t.pos]?).bind (fun i => (itemBytes j i).map (fun bs => (j, t, i, bs)))))

/-- A stream without a context codes its next block RAW (R376). -/
def queueRaw (w peer : Nat) (s : State) : State :=
  match rawReady w peer s with
  | none => s
  | some (j, t, i, bs) =>
    let r := rawRecord t.pos bs
    countBlock w 1 r.length bs.length (advanceStream j t (queueRec t (streamRec j t i (decide (t.pos = 0)) r none) s))

/-- DATA_SEND (R481, R484): a connection sends the oldest record that waits, when its window allows. -/
def execDataSend (w : DoorwayNo) (peer : Nat) (s : State) : Host.Outcome State Fault Refusal :=
  .next (match connOf w peer s with
    | none => s
    | some c0 =>
      if c0.failed || !dwOpen w s || !dwAlive w s || decide (windowLimit c0 s ≤ c0.unacked.length) then s
      else
        let s := if c0.queue.isEmpty then queueRaw w peer s else s
        match connOf w peer s with
        | none => s
        | some c =>
          match c.queue with
          | [] => s
          | r :: rest =>
            let s := setConn w peer (fun c => { c with
              queue := rest, nextPsn := (c.nextPsn + 1) % 2 ^ 32,
              unacked := c.unacked ++ [⟨c.nextPsn, r, 1, licOf (dwRegion w) s⟩] }) s
            sendPacket w r.tc (dataPacket c c.nextPsn false r s) s)

/-! Receiving. -/

/-- Values of a staged tensor for consecutive elements of the uncompressed sequence; zeros for handle 0 (R386). -/
def seqValues (owner h first n : Nat) (flush : Bool) (s : State) : List (Num × Nat) :=
  if h = 0 then List.replicate n (.zero false, 0)
  else
    let t := tensorAt h s
    (List.range n).map (fun k =>
      let v := readValue owner t flush s (unRowMajor t.ext (first + k))
      (v.1, v.2.1))

/-- The context that decodes a COLL's stream from a peer over a doorway (R497). -/
def recvCtx (j : CollJob) (w peer : Nat) : Option Nat :=
  (j.recvs.find? (fun r => decide (r.1 = peer) && decide (r.2.1 = w))).map (fun r => r.2.2)

/-- Bytes that a peer should announce with FIRST (R480, R500): those of the blocks that come from it over this doorway. -/
def expectedBytes (j : CollJob) (w peer : Nat) (s : State) : Nat :=
  let vs := (List.range (collSpan j)).filter (fun v => decide (routeDoor peer v s = w))
  let r := rankOf j peer
  ((vs.map (fun v =>
    (if hasReduce j && (childRanks j v).contains r then collLen j v else 0)
    + (if hasDown j && decide (parentRank j v = some r) then collLen j v else 0)
    + (if j.op = 5 then collLen j v else 0)))).sum

/-- OP that a peer's packets carry: SEND for a RECV. -/
def peerOp (j : CollJob) : Nat := if j.op = 5 then 4 else j.op

/-- A peer's data disagrees with the COLL (R500): OP, FMT, SLOT use or byte count. -/
def mismatched (j : CollJob) (w peer : Nat) (p : List Byte) (s : State) : Bool :=
  decide (pkOp p ≠ peerOp j) || decide (pkFmt p ≠ j.fmt) || decide (collSpan j ≤ pkBidx p)
  || (decide (j.slot = 0xFF) && decide (recMode (pkPayload p) ≠ 0))
  || (pkFirst p && decide (pkAux p ≠ expectedBytes j w peer s))

/-- A decoded block joins its COLL (R495, R497). -/
def deliver (j : CollJob) (peer v : Nat) (down : Bool) (bs : List Byte) (flags : Nat) (s : State) : State :=
  let s := setColl j.id (fun j =>
    let j := { j with flags := j.flags ||| flags }
    if hasReduce j && !down then { j with got := j.got ++ [(v, rankOf j peer, bs)] }
    else if (blockIn j.final v).isSome then j
    else { j with final := j.final ++ [(v, bs)] }) s
  collProgress j.tag s

/-- The connection accepts the record of its next expected packet (R481). -/
def acceptNext (w peer : Nat) (s : State) : State :=
  let s := setConn w peer (fun c => { c with
    window := c.window.filter (fun p => decide (p.1 ≠ c.expect)), expect := (c.expect + 1) % 2 ^ 32, sinceAck := c.sinceAck + 1,
    rxStamp := some (licOf (dwRegion w) s), notready := none }) s
  match connOf w peer s with
  | some c => if 8 ≤ c.sinceAck then sendAck w peer s else s
  | none => s

/-- The decoder rejects the record of the next expected packet: it is asked for again (R483, R393). -/
def rejectNext (w peer psn tag reason gen : Nat) (s : State) : State :=
  sendNack w peer psn tag reason gen
    (setConn w peer (fun c => { c with window := c.window.filter (fun p => decide (p.1 ≠ c.expect)) }) s)

/-- What the decoder of a connection makes of a block. -/
def decodeFor (j : CollJob) (w peer : Nat) (p : List Byte) (s : State) : BlockResult :=
  let n := collLen j (pkBidx p)
  match recvCtx j w peer with
  | none => decodeBlock (tagFmt j.fmt) j.flush (none, none) [] n (pkPayload p)
  | some x =>
    let c := ctxOf x s
    let width := fmtBytes j.fmt
    let base := if recMode (pkPayload p) = modeDvq then
        seqValues j.id c.params.bh (collOff j (pkBidx p) / width) (n / width) j.flush s else []
    decodeBlock (tagFmt j.fmt) j.flush (c.slot0, c.slot1) base n (pkPayload p)

/-- Sticky flags of a compression engine (R416). -/
def ceSticky (ce : Nat) : List (Nat × Fld) :=
  [(0, CE.CEFLAGS_INVALID ce), (2, CE.CEFLAGS_OVERFLOW ce), (3, CE.CEFLAGS_UNDERFLOW ce), (4, CE.CEFLAGS_INEXACT ce),
   (5, CE.CEFLAGS_FLUSH_IN ce), (6, CE.CEFLAGS_FLUSH_OUT ce)]

/-- Hand the records of the window to the decoder in PSN order (R481, R483, R393, R500). -/
def drainWindow (w peer : Nat) : Nat → State → State
  | 0, s => s
  | fuel + 1, s =>
    match connOf w peer s with
    | none => s
    | some c =>
      match c.window.find? (fun p => decide (p.1 = c.expect)) with
      | none => s
      | some (psn, p) =>
        match collOf (pkTag p) s with
        | none =>
          if c.notready.isSome then s
          else sendNack w peer psn (pkTag p) nackNotready 0
            (setConn w peer (fun c => { c with notready := some (licOf (dwRegion w) s) }) s)
        | some j =>
          let bs := pkPayload p
          if mismatched j w peer p s then failColl stCollMismatch j s
          else if recMode bs = 3 then
            match readTable bs, recvCtx j w peer with
            | some t, some x => drainWindow w peer fuel (acceptNext w peer (installTable x t (countTable w bs.length s)))
            | _, _ => rejectNext w peer psn j.tag nackCorrupt 0 s
          else
            match decodeFor j w peer p s with
            | .good out f =>
              let s := countBlock w 2 bs.length out.length (setSticky (ceSticky w) f s)
              drainWindow w peer fuel (deliver j peer (pkBidx p) (pkDown p) out f (acceptNext w peer s))
            | .corrupt => rejectNext w peer psn j.tag nackCorrupt 0 (satF (CE.CECORRUPT_COUNT w) 1 s)
            | .genMissing g => rejectNext w peer psn j.tag nackGenmiss g (satF (CE.CEGENMISS_COUNT w) 1 s)

/-- Every connection looks again at what it holds: a COLL has been taken (R483). -/
def drainAll (s : State) : State :=
  forEach (s.conns.filter (fun c => !c.failed)) (fun c s => drainWindow c.w c.peer 257 s) s

/-- PACKET_DATA (R481, R483, R485). -/
def execPacketData (w : DoorwayNo) (pkt : List Byte) (ce : Bool) (s : State) : Host.Outcome State Fault Refusal :=
  .next (match takeArrived w 0 pkt ce s with
    | none => s
    | some s =>
      let peer := pkSrc pkt
      match connOf w peer s with
      | none => s
      | some c =>
        if c.failed then s
        else
          let s := if ce then setConn w peer (fun c => { c with ce := true }) s else s
          let psn := pkPsn pkt
          let d := (psn + 2 ^ 32 - c.expect) % 2 ^ 32
          if 2 ^ 31 ≤ d ∨ c.window.any (fun p => decide (p.1 = psn)) = true then sendAck w peer s
          else if 255 < d then s
          else
            let s := setConn w peer (fun c => { c with window := c.window ++ [(psn, pkt)] }) s
            if d = 0 then drainWindow w peer 257 s else sendAck w peer s)

/-- A packet stands before the next expected one of an ACK. -/
def psnBefore (psn aux : Nat) : Bool := decide (psn ≠ aux) && decide ((aux + 2 ^ 32 - psn) % 2 ^ 32 < 2 ^ 31)

/-- Packets are acknowledged: their blocks no longer hold their generation (R394). -/
def ackPackets (l : List TxPkt) (s : State) : State :=
  forEach l (fun p s => match p.body.coded with
    | some (x, g, q) => retireIfDone x (setCtx x (fun c => { c with unacked := c.unacked.filter (fun u => decide (u ≠ (g, q))) }) s)
    | none => s) s

/-- CWND grows after each CWND acknowledged packets without ECE (R484). -/
def growCwnd : Nat → Conn → Conn
  | 0, c => c
  | n + 1, c => growCwnd n (if c.cwnd ≤ c.acked + 1 then { c with cwnd := min 256 (c.cwnd + 1), acked := 0 } else { c with acked := c.acked + 1 })

/-- CWND after an ACK of `n` packets (R484). -/
def adjustCwnd (ece : Bool) (n : Nat) (c : Conn) : Conn :=
  let c := { c with hold := c.hold - n }
  if ece then
    if c.hold = 0 then
      let v := max 1 (c.cwnd / 2)
      { c with cwnd := v, acked := 0, hold := v }
    else { c with acked := 0 }
  else growCwnd n c

/-- PACKET_ACK (R481, R482, R484, R394). -/
def packetAck (w : Nat) (pkt : List Byte) (ce : Bool) (s : State) : State :=
  (match takeArrived w 1 pkt ce s with
    | none => s
    | some s =>
      let peer := pkSrc pkt
      match connOf w peer s with
      | none => s
      | some c =>
        if c.failed then s
        else
          let aux := pkAux pkt
          let gone := c.unacked.filter (fun p => psnBefore p.psn aux)
          let left := c.unacked.filter (fun p => !psnBefore p.psn aux)
          let s := ackPackets gone (setConn w peer (fun c => adjustCwnd (pkEce pkt) gone.length { c with unacked := left }) s)
          let bits := leNat (pkPayload pkt)
          let got (psn : Nat) : Bool := let d := (psn + 2 ^ 32 - aux) % 2 ^ 32; decide (d ≠ 0) && decide (d ≤ 256) && bitOf bits (d - 1)
          let later (psn : Nat) : Bool :=
            let d := (psn + 2 ^ 32 - aux) % 2 ^ 32
            decide (d < 256) && decide (bits / 2 ^ d ≠ 0)
          forEach (left.filter (fun p => !got p.psn && later p.psn)) (fun p s => resend w peer p.psn s) s)

/-- The live table of a generation in an encoder (R394, R396). -/
def liveTable (x g : Nat) (s : State) : Option CompTable :=
  match (ctxOf x s).cur with
  | some t => if t.gen = g then some t else (ctxOf x s).ret.filter (fun r => decide (r.gen = g))
  | none => (ctxOf x s).ret.filter (fun r => decide (r.gen = g))

/-- PACKET_NACK (R482, R396). -/
def packetNack (w : Nat) (pkt : List Byte) (ce : Bool) (s : State) : State :=
  (match takeArrived w 2 pkt ce s with
    | none => s
    | some s =>
      let peer := pkSrc pkt
      let psn := pkAux pkt
      match connOf w peer s with
      | none => s
      | some c =>
        let s := peep 6 w 4 1 s
        match c.unacked.find? (fun p => decide (p.psn = psn)) with
        | none => s
        | some p =>
          if c.failed then s
          else if pkReason pkt = nackNotready then
            let again (x : TxPkt) : TxPkt := { x with sent := x.sent - 1, stamp := licOf (dwRegion w) s }
            setConn w peer (fun c => { c with unacked := updateWhere (fun x => decide (x.psn = psn)) again c.unacked }) s
          else if pkReason pkt = nackGenmiss then
            let x : Option Nat := match p.body.coded with
              | some k => some k.1
              | none => none
            match x.bind (fun x => liveTable x (pkGen pkt) s) with
            | some t =>
              resend w peer psn (sendPacket w 0 (packetBytes 3 0 (ownNode s) peer (epochOf s) 0 p.body.tag p.body.bidx 0 p.body.op
                p.body.fmt 0 t.gen (tableMessage t)) s)
            | none =>
              let s := linkRecord 0 w [w, peer, pkGen pkt] s
              match collOf p.body.tag s with
              | some j => if j.commit then s else failColl stCompGenMissing j s
              | none => s
          else if pkReason pkt = nackMissing ∨ pkReason pkt = nackCorrupt then resend w peer psn s
          else s)

/-- PACKET_TABLE (R482, R393, R396). -/
def execPacketTable (w : DoorwayNo) (pkt : List Byte) (ce : Bool) (s : State) : Host.Outcome State Fault Refusal :=
  .next (match takeArrived w 3 pkt ce s with
    | none => s
    | some s =>
      match collOf (pkTag pkt) s with
      | none => s
      | some j =>
        match readTable (pkPayload pkt), recvCtx j w (pkSrc pkt) with
        | some t, some x => installTable x t (countTable w (pkPayload pkt).length s)
        | _, _ => s)

/-! Timers. -/

/-- ACK_TIMER (R481). -/
def execAckTimer (w : DoorwayNo) (peer : Nat) (s : State) : Host.Outcome State Fault Refusal :=
  .next (match connOf w peer s with
    | none => s
    | some c => match c.rxStamp with
      | none => s
      | some t => if !c.failed && dwAlive w s && decide (rtoOf w s ≤ 4 * licSince (dwRegion w) t s) then sendAck w peer s else s)

/-- RTO_EXPIRY (R482). -/
def rtoExpiry (w : Nat) (peer : Nat) (s : State) : State :=
  (match connOf w peer s with
    | none => s
    | some c => match c.unacked with
      | [] => s
      | p :: _ => if !c.failed && dwAlive w s && decide (rtoOf w s ≤ licSince (dwRegion w) p.stamp s) then resend w peer p.psn s else s)

/-- NOTREADY_TIMER (R483). -/
def execNotreadyTimer (w : DoorwayNo) (peer : Nat) (s : State) : Host.Outcome State Fault Refusal :=
  .next (match connOf w peer s with
    | none => s
    | some c => match c.notready with
      | none => s
      | some t =>
        if c.failed || !dwAlive w s || decide (licSince (dwRegion w) t s < rtoOf w s) then s
        else drainWindow w peer 257 (setConn w peer (fun c => { c with notready := none }) s))

end Sys2Proof.Machine
end

