-- ==== Sys2Proof/Machine/Streams.lean ====
section
/-! DEFINITION. Streams and the COMP descriptor (R374 to R406): the encoders of link and memory streams, tables, compressed images. -/

namespace Sys2Proof.Machine

/-! The COMP descriptor (R399). -/

def cmSH (d : Desc) : Nat := dfield d 0x10 0 32
def cmDH (d : Desc) : Nat := dfield d 0x14 0 32
def cmBH (d : Desc) : Nat := dfield d 0x18 0 32
def cmEH (d : Desc) : Nat := dfield d 0x1C 0 32
def cmHOFF (d : Desc) : Nat := dfield d 0x20 0 64
def cmHLEN (d : Desc) : Nat := dfield d 0x28 0 32
def cmOP (d : Desc) : Nat := dfield d 0x2C 0 8
def cmFMT (d : Desc) : Nat := dfield d 0x2D 0 8
def cmMODE (d : Desc) : Nat := dfield d 0x2E 0 8
def cmSCTX (d : Desc) : Nat := dfield d 0x30 0 16
def cmTWIN (d : Desc) : Nat := dfield d 0x32 0 16
def cmREBUILD (d : Desc) : Nat := dfield d 0x34 0 32
def cmSEED (d : Desc) : Nat := dfield d 0x38 0 32
def cmBUILD (d : Desc) : Bool := decide (dfield d 0x3C 0 1 = 1)
def cmFLUSH (d : Desc) : Bool := decide (dfield d 0x3C 1 1 = 1)

/-- A field that the operation does not use is not zero (R400). -/
def cmUnused (d : Desc) : Bool :=
  let op := cmOP d
  let no (b : Bool) (v : Nat) : Bool := !b && decide (v ≠ 0)
  no (decide (op = 0)) (cmSH d) || no (decide (op = 1)) (cmDH d) || no (decide (op ≤ 2)) (cmBH d)
  || no (decide (op = 0) || decide (op = 2)) (cmEH d) || no (decide (op ≤ 1)) (cmHOFF d) || no (decide (op = 0)) (cmHLEN d)
  || no (decide (op ≤ 2)) (cmFMT d) || no (decide (op ≤ 2)) (cmMODE d)
  || no (decide (op = 0) || decide (op = 2)) (cmTWIN d) || no (decide (op = 0) || decide (op = 2)) (cmREBUILD d)
  || no (decide (op = 0) || decide (op = 2)) (cmSEED d) || no (decide (op = 0)) (dfield d 0x3C 0 32)

/-- Operations that carry parameters of an encoder (R400). -/
def cmCodes (d : Desc) : Bool := decide (cmOP d = 0) || decide (cmOP d = 2)

def pad8 (n : Nat) : Nat := ceilDiv n 8 * 8

/-- The bound of R403 on an image of `total` bytes. -/
def imageBound (mode fmt total rebuild : Nat) : Nat :=
  let blocks := ceilDiv total 4096
  let tables := if mode = modeRaw ∨ isBlockTag fmt = true then 0 else if rebuild = 0 then 1 else 1 + ceilDiv blocks rebuild
  32 + (blocks - 1) * pad8 (12 + 4096) + pad8 (12 + (total - 4096 * (blocks - 1))) + tables * pad8 (20 + bodyLen mode (tagFmt fmt))

/-- IMGLEN of the image at an offset, as its header gives it. -/
def imageLen (o : Nat) (s : State) : Nat := leNat (winBytes (o + 8) 8 s)
def imageMarked (o : Nat) (s : State) : Bool := decide (winBytes o 4 s = [0x47#8, 0x57#8, 0x43#8, 0x49#8]) && decide (leNat (winBytes (o + 4) 2 s) = 1)

/-- The context is in use by a COLL (R402). -/
def ctxBusy (x : Nat) (s : State) : Bool :=
  s.colls.any (fun j => j.streams.any (fun t => decide (t.ctx = some x)) || j.recvs.any (fun r => decide (r.2.2 = x)))

/-- The checks of R403 before the charge. -/
def compChecks (e : InFlight) (s : State) : List (Nat × Nat × Bool) :=
  let d := e.desc
  let op := cmOP d
  let dvq := decide (cmMODE d = modeDvq)
  let h := if op = 0 then cmSH d else cmDH d
  let t := tensorAt h s
  let total := linearLen t (rootOf t s)
  [(1, stFormatInvalid, malformedTag (cmFMT d)),
   (2, stFormatNotPermitted, isOfp8Tag (cmFMT d)),
   (3, stFieldInvalid, decide (3 < op) || decide (dfield d 0x2F 0 8 ≠ 0) || decide (dfield d 0x3C 2 30 ≠ 0) || cmUnused d
      || decide (511 < cmSCTX d) || (cmCodes d && (decide (cmTWIN d = 0) || decide (1024 < cmTWIN d)))
      || (cmCodes d && decide (cmSEED d = 0) == dvq) || (decide (op ≤ 2) && !modeAllowed (cmMODE d) (cmFMT d))
      || decide (cmHOFF d % 64 ≠ 0)),
   (4, stHandleInvalid, (decide (op ≤ 1) && handleBad e h s) || optHandleBad e (cmBH d) s || optHandleBad e (cmEH d) s
      || (cmCodes d && dvq && decide (cmEH d = 0))),
   (5, stFormatMismatch, (decide (op ≤ 1) && tagDiffers h (cmFMT d) s)
      || (decide (cmEH d ≠ 0) && decide ((tensorAt (cmEH d) s).fmt ≠ 0))),
   (6, stShapeMismatch, decide (op ≤ 1) && ((decide (cmBH d ≠ 0) && decide ((tensorAt (cmBH d) s).ext ≠ t.ext))
      || (decide (cmEH d ≠ 0) && decide ((tensorAt (cmEH d) s).ext ≠ t.ext)))),
   (7, stHostRange, (decide (op = 0) && (decide (cmHLEN d < imageBound (cmMODE d) (cmFMT d) total (cmREBUILD d))
        || decide (winLen s < cmHOFF d + cmHLEN d)))
      || (decide (op = 1) && (decide (winLen s < cmHOFF d + 32)
        || (imageMarked (cmHOFF d) s && decide (winLen s < cmHOFF d + imageLen (cmHOFF d) s))))),
   (8, stStreamBusy, ctxBusy (cmSCTX d) s)]

/-- A COMP enters flight (R401, R403): member 0 takes it whole. -/
def beginComp (e : InFlight) (s : State) : State :=
  validated e (compChecks e s) (fun s =>
    let go := launch e (partsFor e.port 1 s)
    if cmOP e.desc = 1 then chargeThen e 9 (tensorAt (cmDH e.desc) s) go s
    else if cmCodes e.desc && decide (cmMODE e.desc = modeDvq) then chargeThen e 9 (tensorAt (cmEH e.desc) s) go s
    else go s) s

/-- A COMP of one operation, as the command processor takes it. -/
def takeComp (op : Nat) (q : QueueNo) (d : Desc) (s : State) : State :=
  takeRing q (withOpcode 8 (dput d 0x2C 0 8 op)) beginComp s

/-- COMP_ENCODE (R397, R400, R405). -/
def execCompEncode (q : QueueNo) (d : Desc) (s : State) : Host.Outcome State Fault Refusal := .next (takeComp 0 q d s)
/-- COMP_DECODE (R400, R404). -/
def execCompDecode (q : QueueNo) (d : Desc) (s : State) : Host.Outcome State Fault Refusal := .next (takeComp 1 q d s)
/-- COMP_CONFIG (R400). -/
def execCompConfig (q : QueueNo) (d : Desc) (s : State) : Host.Outcome State Fault Refusal := .next (takeComp 2 q d s)
/-- COMP_RESET (R400). -/
def execCompReset (q : QueueNo) (d : Desc) (s : State) : Host.Outcome State Fault Refusal := .next (takeComp 3 q d s)

/-! Jobs on contexts. -/

/-- The COMP at work on a context. -/
def cjobOf (x : Nat) (s : State) : Option CompJob := s.cjobs.find? (fun j => decide (j.ctx = x))
def setCjob (x : Nat) (f : CompJob → CompJob) (s : State) : State := { s with cjobs := updateWhere (fun j => decide (j.ctx = x)) f s.cjobs }

/-- The engine of a context works: its region is not in a reset, the device is not fatal. -/
def ceAlive (x : Nat) (s : State) : Bool := alive s && !(regionOf (ceRegion (ceOf x)) s).inReset

/-- The part of a COMP ends (R58, R416). -/
def endComp (id ce status flags : Nat) (s : State) : State :=
  endPart id 0 status flags 0 (setSticky (ceSticky ce) flags { s with cjobs := s.cjobs.filter (fun j => decide (j.id ≠ id)) })

/-- The uncompressed sequence of a staged handle: bytes of a block, and whether a poisoned pane was read (R377, R405). -/
def seqBytes (owner h o n : Nat) (s : State) : List Byte × Bool :=
  let t := tensorAt h s
  let root := rootOf t s
  if isBlockTag root.fmt then
    let l := (linearImage owner t s).1
    let blockAt (k : List Nat × Nat) : Bool :=
      (List.range k.2).any (fun i => (fetchElem rootCore owner t root (stepCoord k.1 root.baxis i) s).2.2)
    let touched := (indexFrom 0 (blocksOf t root)).any (fun k =>
      blockAt k.2 && (decide (o ≤ linearScale t root + k.1 ∧ linearScale t root + k.1 < o + n)
        || (List.range k.2.2).any (fun i =>
          let p := rowMajor (stepCoord k.2.1 root.baxis i) t.ext
          decide (o ≤ p) && decide (p < o + n))))
    (byteSlice l o n, touched)
  else
    let w := fmtBytes root.fmt
    let es := (List.range (n / w)).map (fun k => fetchElem rootCore owner t root (unRowMajor t.ext (o / w + k)) s)
    (es.flatMap (fun x => leBytes w (if x.2.2 then canonNan (tagFmt root.fmt) else x.1)), es.any (fun x => x.2.2))

/-- A staged element of a handle from a poisoned pane, among consecutive ones. -/
def seqPoisoned (owner h first n : Nat) (s : State) : Bool :=
  if h = 0 then false
  else
    let t := tensorAt h s
    (List.range n).any (fun k => (fetchElem rootCore owner t (rootOf t s) (unRowMajor t.ext (first + k)) s).2.2)

/-- What an encoder codes with: the parameters, the flush bit and the descriptor that staged the operands. -/
structure Coding where
  owner : Nat
  sh : Nat
  flush : Bool
  p : CompParams
deriving DecidableEq, Repr

/-- The mode a block is coded in: GB8 and GL8 are always RAW (R378). -/
def codeMode (c : Coding) : Nat := if isBlockTag c.p.fmt then modeRaw else c.p.mode

/-- Elements of a stream's block: first and count. -/
def blockElems (fmt off len : Nat) : Nat × Nat := (off / fmtBytes fmt, len / fmtBytes fmt)

/-- Code one block's bytes (R380, R383, R387, R405): `poison` forces RAW. -/
def codeBlock (c : Coding) (t : Option CompTable) (bs : List Byte) (off : Nat) (poison : Bool) (s : State) : Coded :=
  let (first, n) := blockElems c.p.fmt off bs.length
  let dvq := decide (codeMode c = modeDvq)
  let raw : Coded := ⟨modeRaw, bs, bs, if dvq then some (List.replicate n 0) else none, 0, false⟩
  match t with
  | none => raw
  | some t =>
    if poison || decide (codeMode c = modeRaw) then raw
    else if dvq then
      codeDvq (tagFmt c.p.fmt) c.flush t bs (seqValues c.owner c.p.bh first n c.flush s) (seqValues c.owner c.p.eh first n c.flush s)
    else codeExp (tagFmt c.p.fmt) t bs

/-- Write the feedback of a block into EH's working copies (R386, R387). -/
def putFeedback (c : Coding) (off : Nat) (es : Option (List Nat)) (s : State) : State :=
  match es with
  | none => s
  | some l =>
    let t := tensorAt c.p.eh s
    forEach (indexFrom (off / fmtBytes c.p.fmt) l) (fun p s =>
      writeScalar c.owner t (rootOf t s) (unRowMajor t.ext p.1) p.2 false s) s

/-- The next block of a context is a rebuild point whose table is still to be built (R394). -/
def rebuildDue (c : Coding) (build first : Bool) (k : CompCtx) : Bool :=
  decide (codeMode c ≠ modeRaw) && !k.built &&
  (match k.cur with
   | none => true
   | some t => decide (t.tmode ≠ codeMode c) || decide (t.fmt ≠ c.p.fmt) || (first && build)
      || (decide (c.p.rebuild ≠ 0) && decide (c.p.rebuild ≤ k.since)))

/-- The body of a table trained on blocks, given with their offsets (R384, R390). -/
def trainBody (c : Coding) (window : List (List Byte × Nat)) (s : State) : List Byte :=
  let fmt := tagFmt c.p.fmt
  if codeMode c = modeExp then
    lensBody (codeLengths (alphabet fmt) (window.flatMap (fun b => (elemsOf (fmtBytes fmt) b.1).map (fun x => (expParts fmt x).1))))
  else
    dvqBody (window.flatMap (fun b =>
      let (first, n) := blockElems c.p.fmt b.2 b.1.length
      let rs := (residuals fmt c.flush b.1 (seqValues c.owner c.p.bh first n c.flush s)
        (seqValues c.owner c.p.eh first n c.flush s)).map (fun r => r.1)
      if rs.any dvqRefuses then [] else trainVectors rs)) c.p.seed

/-- A new generation becomes current and the old one retiring (R394). -/
def newGeneration (x : Nat) (c : Coding) (body : List Byte) (s : State) : CompTable × State :=
  let k := ctxOf x s
  let g := match k.cur with
    | some t => (t.gen + 1) % 8
    | none => 0
  let t : CompTable := ⟨g, codeMode c, c.p.fmt, c.p.seed, c.p.twin, body⟩
  (t, trace 8 0 (ceRegion (ceOf x)) (x + g * 2 ^ 16) k.seq
    (setCtx x (fun k => { k with cur := some t, ret := k.cur, since := 0, built := true, waits := false }) s))

/-- A block of a context has been coded (R380, R394, R418). -/
def blockCoded (x : Nat) (r : Coded) (record : Nat) (s : State) : State :=
  let s := setCtx x (fun k => { k with seq := (k.seq + 1) % 65536, since := k.since + 1, built := false }) s
  let s := if r.fellBack then satF (CE.CERAW_COUNT (ceOf x)) 1 s else s
  countBlock (ceOf x) 1 record r.bytes.length (if r.mode = modeRaw then peep 7 (ceOf x) 5 1 s else s)

/-! Memory streams (R397, R398). -/

/-- Parameters of an ENCODE (R400). -/
def encodeCoding (e : InFlight) : Coding :=
  let d := e.desc
  ⟨e.id, cmSH d, cmFLUSH d, ⟨cmBH d, cmEH d, cmFMT d, cmMODE d, cmTWIN d, cmREBUILD d, cmSEED d⟩⟩

/-- Bytes of the sequence, and blocks. -/
def encodeTotal (e : InFlight) (s : State) : Nat :=
  let t := tensorAt (if cmOP e.desc = 0 then cmSH e.desc else cmDH e.desc) s
  linearLen t (rootOf t s)
def encodeBlocks (e : InFlight) (s : State) : Nat := ceilDiv (encodeTotal e s) 4096
def blockLen (total b : Nat) : Nat := min 4096 (total - 4096 * b)

/-- A record padded to a multiple of 8 (R397). -/
def padRecord (r : List Byte) : List Byte := byteSlice r 0 (pad8 r.length)

/-- An ENCODE ends: header, EH's panes, status (R397, R405). -/
def endEncode (e : InFlight) (j : CompJob) (s : State) : State :=
  let d := e.desc
  let head := [0x47#8, 0x57#8, 0x43#8, 0x49#8] ++ leBytes 2 1 ++ leBytes 1 (cmFMT d) ++ leBytes 1 (cmMODE d) ++ leBytes 8 j.off
    ++ leBytes 8 (encodeTotal e s) ++ leBytes 4 (encodeBlocks e s) ++ leBytes 4 0
  let (s, st) := flushCopies e.id (winWrite (cmHOFF d) head s)
  endComp e.id (ceOf j.ctx) (moverStatus st j.poison) j.flags s

/-- Bytes of a table's body. -/
def recTableLen (t : Option CompTable) : Nat := (t.map (fun t => t.body.length)).getD 0

/-- Code the next block of an ENCODE. -/
def encodeNext (e : InFlight) (j : CompJob) (s : State) : State :=
  let c := encodeCoding e
  let x := j.ctx
  let total := encodeTotal e s
  let off := 4096 * j.block
  if rebuildDue c (cmBUILD e.desc) (decide (j.block = 0)) (ctxOf x s) then s
  else
    let (bs, bad) := seqBytes e.id c.sh off (blockLen total j.block) s
    let (first, n) := blockElems c.p.fmt off bs.length
    let dvq := decide (codeMode c = modeDvq)
    let bad' := bad || (dvq && (seqPoisoned e.id c.p.bh first n s || seqPoisoned e.id c.p.eh first n s))
    let k := ctxOf x s
    let r := codeBlock c k.cur bs off bad' s
    let gen : Nat := match k.cur with
      | some t => t.gen
      | none => 0
    let msg : List Byte := match k.cur with
      | some t => if r.mode ≠ modeRaw ∧ j.sentGen ≠ some t.gen then padRecord (tableMessage t) else []
      | none => []
    let rec1 := blockRecord r.mode (if r.mode = modeRaw then 0 else gen) bs.length k.seq r.payload (crc32c r.bytes)
    let image := msg ++ padRecord rec1
    let s := putFeedback c off r.feedback (winWrite (cmHOFF e.desc + j.off) image s)
    let s := blockCoded x r rec1.length (if msg = [] then s else countTable (ceOf x) (20 + recTableLen k.cur) s)
    let j' : CompJob := { j with
      block := j.block + 1, off := j.off + image.length, sentGen := if msg = [] then j.sentGen else some gen,
      flags := j.flags ||| r.flags, poison := j.poison || bad' }
    let s := setCjob x (fun _ => j') s
    if j'.block < encodeBlocks e s then s else endEncode e j' s

/-- Build the table of an ENCODE's next block (R384, R390, R394, R397, R398): the old generation retires at once, and the image does not
hold the new one's table yet. -/
def buildMemory (e : InFlight) (j : CompJob) (s : State) : State :=
  let c := encodeCoding e
  if rebuildDue c (cmBUILD e.desc) (decide (j.block = 0)) (ctxOf j.ctx s) then
    let total := encodeTotal e s
    let window := (List.range (min c.p.twin (encodeBlocks e s - j.block))).map (fun k =>
      ((seqBytes e.id c.sh (4096 * (j.block + k)) (blockLen total (j.block + k)) s).1, 4096 * (j.block + k)))
    setCjob j.ctx (fun j => { j with sentGen := none }) (retireIfDone j.ctx (newGeneration j.ctx c (trainBody c window s) s).2)
  else s

/-! Link streams (R375, R394). -/

/-- The link stream that a context codes: the first with a block left. -/
def linkStream (x : Nat) (s : State) : Option (CollJob × CollStream) :=
  s.colls.findSome? (fun j => (j.streams.find? (fun t => decide (t.ctx = some x) && decide (t.pos < t.items.length))).map (fun t => (j, t)))

def linkCoding (j : CollJob) (x : Nat) (s : State) : Coding := ⟨j.id, 0, j.flush, (ctxOf x s).params⟩

/-- Code the next block of a link stream into its connection (R376, R394, R497). -/
def linkNext (x : Nat) (j : CollJob) (t : CollStream) (s : State) : State :=
  let c := linkCoding j x s
  match t.items[t.pos]?, connOf t.w t.peer s with
  | some i, some cn =>
    match itemBytes j i with
    | none => s
    | some bs =>
      if cn.failed || rebuildDue c j.build (decide (t.pos = 0)) (ctxOf x s) then s
      else
        let k := ctxOf x s
        let off := collOff j i.2
        let r := codeBlock c k.cur bs off false s
        let gen : Nat := match k.cur with
          | some t => t.gen
          | none => 0
        let coded := if r.mode = modeRaw then none else some (x, gen, k.seq)
        let rec1 := blockRecord r.mode (if r.mode = modeRaw then 0 else gen) bs.length k.seq r.payload (crc32c r.bytes)
        let s := putFeedback c off r.feedback s
        let s := if coded.isSome then setCtx x (fun q => { q with unacked := q.unacked ++ [(gen, k.seq)] }) s else s
        let first := decide (t.pos = 0) && !k.built
        let s := queueRec t (streamRec j t i first rec1 coded) s
        let s := setColl j.id (fun j => { j with flags := j.flags ||| r.flags }) (setSticky (ceSticky (ceOf x)) r.flags s)
        blockCoded x r rec1.length (advanceStream j t s)
  | _, _ => s

/-- Blocks of a stream from its next one that train a table: those of one phase, as many as TWIN (log 59); none while one does not
exist yet. -/
def linkWindow (j : CollJob) (t : CollStream) (twin : Nat) : Option (List (List Byte × Nat)) :=
  let rest := t.items.drop t.pos
  let phase := (rest.headD (false, 0)).1
  (((rest.filter (fun i => decide (i.1 = phase))).take twin).foldr (fun i acc => match itemBytes j i, acc with
    | some bs, some l => some ((bs, collOff j i.2) :: l)
    | _, _ => none) (some []))

/-- Build the table of a link stream's next block, once no generation is retiring, and send it (R394). -/
def buildLink (x : Nat) (j : CollJob) (t : CollStream) (s : State) : State :=
  let c := linkCoding j x s
  if !rebuildDue c j.build (decide (t.pos = 0)) (ctxOf x s) then s
  else if (ctxOf x s).ret.isSome then setCtx x (fun k => { k with waits := true }) s
  else match linkWindow j t c.p.twin, t.items[t.pos]? with
    | some window, some i =>
      let (table, s) := newGeneration x c (trainBody c window s) s
      retireIfDone x (countTable (ceOf x) (tableMessage table).length
        (queueRec t (streamRec j t i (decide (t.pos = 0)) (tableMessage table) none) s))
    | _, _ => s

/-! The rows. -/

/-- TABLE_BUILD (R384, R390, R394). -/
def execTableBuild (x : ContextNo) (s : State) : Host.Outcome State Fault Refusal :=
  .next (if !ceAlive x s then s
    else match cjobOf x s with
    | some j => if j.decode then s else (match flight j.id s with
      | some e => buildMemory e j s
      | none => s)
    | none => match linkStream x s with
      | some (j, t) => buildLink x j t s
      | none => s)

/-- COMP_BLOCK_ENCODE (R379, R380, R383, R387). -/
def execCompBlockEncode (x : ContextNo) (s : State) : Host.Outcome State Fault Refusal :=
  .next (if !ceAlive x s then s
    else match cjobOf x s with
    | some j => if j.decode then s else (match flight j.id s with
      | some e => encodeNext e j s
      | none => s)
    | none => match linkStream x s with
      | some (j, t) => linkNext x j t s
      | none => s)

/-! DECODE (R404). -/

/-- Bytes of an image record at an offset of the image, as far as the image reaches. -/
def imageBytes (e : InFlight) (off n : Nat) (s : State) : List Byte :=
  winBytes (cmHOFF e.desc + off) (min n (imageLen (cmHOFF e.desc) s - off)) s

/-- Poisoned blocks in place of what a stream's failed blocks cover in a block-format tensor (R404). -/
def poisonBlocks (e : InFlight) (bad : List Nat) (s : State) : State :=
  let t := tensorAt (cmDH e.desc) s
  let root := rootOf t s
  if bad = [] || !isBlockTag root.fmt then s
  else forEach (indexFrom 0 (blocksOf t root)) (fun k s =>
    if bad.contains ((linearScale t root + k.1) / 4096)
       || (List.range k.2.2).any (fun i => bad.contains (rowMajor (stepCoord k.2.1 root.baxis i) t.ext / 4096)) then
      writeBlock e.id t root k.2.1 k.2.2 255 [] true s
    else s) s

/-- A DECODE ends (R404). -/
def endDecode (e : InFlight) (j : CompJob) (s : State) : State :=
  let (s, st) := flushCopies e.id (poisonBlocks e j.bad s)
  endComp e.id (ceOf j.ctx) (if st ≠ 0 then st else if j.status ≠ 0 then j.status else moverStatus 0 j.poison) j.flags s

/-- The DECODE goes on behind a block. -/
def decodeStep (e : InFlight) (j : CompJob) (s : State) : State :=
  let s := setCjob j.ctx (fun _ => j) s
  if j.block < encodeBlocks e s then s else endDecode e j s

/-- A block that cannot be decoded (R404): NaN or poison in its place. `missing`: its generation is not resident (R393). -/
def decodeBad (e : InFlight) (j : CompJob) (missing : Bool) (status next : Nat) (s : State) : State :=
  let t := tensorAt (cmDH e.desc) s
  let root := rootOf t s
  let len := blockLen (encodeTotal e s) j.block
  let s := if isBlockTag root.fmt then s
    else
      let (first, n) := blockElems root.fmt (4096 * j.block) len
      forEach (List.range n) (fun k s => writeScalar e.id t root (unRowMajor t.ext (first + k)) 0 true s) s
  let s := satF (CE.CECORRUPT_COUNT (ceOf j.ctx)) 1 (if missing then satF (CE.CEGENMISS_COUNT (ceOf j.ctx)) 1 s else s)
  decodeStep e { j with
    block := j.block + 1, off := next, bad := j.block :: j.bad, status := if j.status = 0 then status else j.status } s

/-- Decode the next block of an image (R381, R393, R404): past the end of the image every block is corrupt. -/
def decodeNext (e : InFlight) (j : CompJob) (s : State) : State :=
  let head := imageBytes e j.off 12 s
  let fmt := cmFMT e.desc
  if recMode head = 3 ∧ head.length = 12 then s
  else
    let clen := recClen head
    let r := imageBytes e j.off (12 + clen) s
    let sane := decide (head.length = 12) && decide (1 ≤ clen) && decide (clen ≤ 4096)
    let next := if sane then j.off + pad8 (12 + clen) else imageLen (cmHOFF e.desc) s
    let len := blockLen (encodeTotal e s) j.block
    let c := ctxOf j.ctx s
    let (first, n) := blockElems fmt (4096 * j.block) len
    let dvq := decide (recMode head = modeDvq)
    let base := if dvq then seqValues e.id (cmBH e.desc) first n false s else []
    let bad := winRangePoisoned (cmHOFF e.desc + j.off) (12 + clen) s
    let res := if bad || !sane || (dvq && isBlockTag fmt) then .corrupt
      else decodeBlock (tagFmt fmt) false (c.slot0, c.slot1) base len r
    let j := { j with poison := j.poison || bad || (dvq && seqPoisoned e.id (cmBH e.desc) first n s) }
    match res with
    | .good bs f =>
      let s := putLinear e.id (tensorAt (cmDH e.desc) s) (4096 * j.block) bs (countBlock (ceOf j.ctx) 2 r.length bs.length s)
      decodeStep e { j with block := j.block + 1, off := next, flags := j.flags ||| f } s
    | .corrupt => decodeBad e j false stCompCorrupt next s
    | .genMissing g => decodeBad e j true (if j.rejected.contains g then stCompCorrupt else stCompGenMissing) next s

/-- COMP_BLOCK_DECODE (R381, R404): the next block of the DECODE on a context; a link stream's blocks are decoded as their packets
come (R481). -/
def execCompBlockDecode (x : ContextNo) (s : State) : Host.Outcome State Fault Refusal :=
  .next (if !ceAlive x s then s
    else match cjobOf x s with
    | none => s
    | some j => if !j.decode then s else (match flight j.id s with
      | some e => decodeNext e j s
      | none => s))

/-- TABLE_INSTALL (R392, R393, R404): the table message that comes next in the image of a DECODE; one that the image's end cuts in its
header is rejected. -/
def execTableInstall (x : ContextNo) (s : State) : Host.Outcome State Fault Refusal :=
  .next (if !ceAlive x s then s
    else match cjobOf x s with
    | none => s
    | some j => if !j.decode then s else (match flight j.id s with
      | none => s
      | some e =>
        let head := imageBytes e j.off 16 s
        if recMode head ≠ 3 ∨ head.length < 12 then s
        else
          let n := tableLen head
          let m := imageBytes e j.off (min n 4116) s
          let next := if head.length = 16 ∧ n ≤ 4116 then j.off + pad8 n else imageLen (cmHOFF e.desc) s
          let s := countTable (ceOf x) m.length s
          match (if winRangePoisoned (cmHOFF e.desc + j.off) (min n 4116) s then none else readTable m) with
          | some t => installTable x t (setCjob x (fun j => { j with off := next, rejected := j.rejected.filter (fun g => decide (g ≠ t.gen)) }) s)
          | none => setCjob x (fun j => { j with
              off := next, rejected := recGen head :: j.rejected, status := if j.status = 0 then stCompCorrupt else j.status }) s))

/-! Starting a COMP (R400, R402, R404). -/

/-- The image header agrees with the descriptor and DH (R404). -/
def imageAgrees (e : InFlight) (s : State) : Bool :=
  let o := cmHOFF e.desc
  imageMarked o s && decide (leNat (winBytes (o + 6) 1 s) = cmFMT e.desc) && decide (leNat (winBytes (o + 7) 1 s) = cmMODE e.desc)
  && decide (leNat (winBytes (o + 16) 8 s) = encodeTotal e s) && !winRangePoisoned o 32 s

/-- A COMP starts on its engine. -/
def startComp (e : InFlight) (s : State) : State :=
  let d := e.desc
  let x := cmSCTX d
  let ce := ceOf x
  if !isOpen (84 + ce) s then endComp e.id ce stUnitClosed 0 s
  else match cmOP d with
  | 0 =>
    let s := stageTensor e.id (tensorAt (cmSH d) s) s
    let s := if cmBH d = 0 then s else stageTensor e.id (tensorAt (cmBH d) s) s
    let s := if cmEH d = 0 then s else stageTensor e.id (tensorAt (cmEH d) s) s
    setCtx x (fun k => { k with seq := 0, built := false })
      { s with cjobs := s.cjobs ++ [⟨e.id, x, false, 0, 32, none, [], [], 0, 0, false⟩] }
  | 1 =>
    if !imageAgrees e s then endComp e.id ce stCompCorrupt 0 s
    else
      let s := (winRead (cmHOFF d) (imageLen (cmHOFF d) s) s).2
      let s := if cmBH d = 0 then s else stageTensor e.id (tensorAt (cmBH d) s) s
      setCtx x (fun k => { k with slot0 := none, slot1 := none })
        { s with cjobs := s.cjobs ++ [⟨e.id, x, true, 0, 32, none, [], [], 0, 0, false⟩] }
  | 2 =>
    endComp e.id ce stOk 0 (setCtx x (fun k => { k with
      params := ⟨cmBH d, cmEH d, cmFMT d, cmMODE d, cmTWIN d, cmREBUILD d, cmSEED d⟩ }) s)
  | _ => endComp e.id ce stOk 0 (setCtx x (fun _ => ctxInit) s)

end Sys2Proof.Machine
end

