-- ==== Sys2Proof/Machine/CollCmds.lean ====
section
/-! DEFINITION. The commands of collectives (R493 to R504): the COLL descriptor, its checks, reduction, completion and commit. -/

namespace Sys2Proof.Machine

/-! The COLL descriptor (R502). -/

def clSH (d : Desc) : Nat := dfield d 0x10 0 32
def clDH (d : Desc) : Nat := dfield d 0x14 0 32
def clAUX (d : Desc) : Nat := dfield d 0x18 0 32
def clTAG (d : Desc) : Nat := dfield d 0x1C 0 32
def clEPOCH (d : Desc) : Nat := dfield d 0x20 0 32
def clPEER (d : Desc) : Nat := dfield d 0x24 0 16
def clOP (d : Desc) : Nat := dfield d 0x26 0 8
def clGROUP (d : Desc) : Nat := dfield d 0x27 0 8
def clFMT (d : Desc) : Nat := dfield d 0x28 0 8
def clSLOT (d : Desc) : Nat := dfield d 0x29 0 8
def clBUILD (d : Desc) : Bool := decide (dfield d 0x3C 0 1 = 1)
def clRFLUSH (d : Desc) : Bool := decide (dfield d 0x3C 1 1 = 1)

/-- Operations that use a field (R494, R502). -/
def clUsesS (d : Desc) : Bool := decide (clOP d ≠ 5)
def clUsesD (d : Desc) : Bool := decide (clOP d ≠ 4) && decide (clOP d ≠ 6)
def clUsesPeer (d : Desc) : Bool := decide (3 ≤ clOP d) && decide (clOP d ≤ 5)

/-- A field that the operation does not use is not zero (R502). -/
def clUnused (d : Desc) : Bool :=
  (!clUsesS d && decide (clSH d ≠ 0)) || (!clUsesD d && decide (clDH d ≠ 0)) || (decide (clOP d ≠ 6) && decide (clAUX d ≠ 0))
  || (!clUsesPeer d && decide (clPEER d ≠ 0)) || ((decide (clOP d = 4) || decide (clOP d = 5)) && decide (clGROUP d ≠ 0))

/-- Role of each member in the placement (R277): tensor rank, stage and replica; none in a membership that does not divide so. -/
def memberRole (node : Nat) (s : State) : Option (Nat × Nat × Nat) :=
  match s.image with
  | none => none
  | some im => nodeRole node im.tdeg im.pdeg s.nd.members

/-- Whether a member stands in a group with this device (R493). -/
def sameGroup (group : Nat) (a b : Nat × Nat × Nat) : Bool :=
  match group with
  | 1 => decide (a.2 = b.2)
  | 2 => decide (a.1 = b.1) && decide (a.2.1 = b.2.1)
  | _ => decide (a.2.2 = b.2.2)

/-- The nodes of a group, ascending (R493). -/
def groupOf (group : Nat) (s : State) : List Nat :=
  let all := s.nd.members.map (fun m => m.node)
  if group = 0 then all
  else match memberRole (ownNode s) s with
    | none => []
    | some me => all.filter (fun n => match memberRole n s with
      | some r => sameGroup group r me
      | none => false)

/-- The job that a descriptor asks for, with nothing staged yet. -/
def bareJob (e : InFlight) (s : State) : CollJob :=
  let d := e.desc
  let g := groupOf (clGROUP d) s
  let t := tensorAt (if clUsesS d then clSH d else clDH d) s
  let rank (n : Nat) : Nat := g.findIdx (fun x => decide (x = n))
  ⟨e.id, clTAG d, clOP d, clFMT d, clSLOT d, clRFLUSH d, clBUILD d, g, rank (ownNode s),
   if clOP d = 3 then rank (clPEER d) else 0, clPEER d, clSH d, clDH d, clAUX d, [], linearLen t (rootOf t s),
   [], [], [], [], [], false, [], false, 0, false, []⟩

/-- Contexts that a job's streams use (R497). -/
def sendCtxs (j : CollJob) (s : State) : List Nat := (withCtxs j.slot (bareStreams j s)).filterMap (fun t => t.ctx)
def recvCtxs (j : CollJob) (s : State) : List Nat := (withRecvCtxs j.slot (bareRecvs j s)).map (fun r => r.2.2)
def collCtxs (j : CollJob) (s : State) : List Nat := sendCtxs j s ++ recvCtxs j s

/-- A context's stored format differs, or its mode is not allowed (R503). -/
def ctxUnfit (j : CollJob) (s : State) : Bool :=
  (collCtxs j s).any (fun x => decide ((ctxOf x s).params.fmt ≠ j.fmt) || !modeAllowed (ctxOf x s).params.mode j.fmt)

/-- A context is in use (R402): by a COMP or by another COLL. -/
def ctxInUse (x : Nat) (s : State) : Bool :=
  ctxBusy x s || s.inflight.any (fun e => decide (e.opcode = 8) && decide (e.parts ≠ []) && decide (dfield e.desc 0x30 0 16 = x))

/-- Peers of a job. -/
def collPeers (j : CollJob) : List Nat := dedupNat (sortNat ((collItems j).map (fun i => i.2.2) ++ collSources j))

/-- A doorway carries more than 32 (peer, doorway) pairs (R497, R503). -/
def tooManyPairs (j : CollJob) (s : State) : Bool :=
  decide (j.slot ≠ 0xFF) && (List.range 16).any (fun w =>
    decide (32 < ((bareStreams j s).filter (fun t => decide (t.w = w))).length)
    || decide (32 < ((bareRecvs j s).filter (fun r => decide (r.2 = w))).length))

/-- A TAG is in use by a COLL in flight (R502). -/
def tagInUse (e : InFlight) (s : State) : Bool :=
  s.inflight.any (fun x => decide (x.id ≠ e.id) && decide (x.opcode = 4) && decide (clTAG x.desc = clTAG e.desc))

/-- Checks 1 to 6 of R503; `ctx` says whether the contexts can be named yet. -/
def collChecks (e : InFlight) (ctx : Bool) (s : State) : List (Nat × Nat × Bool) :=
  let d := e.desc
  let st := tensorAt (clSH d) s
  let dt := tensorAt (clDH d) s
  [(1, stFormatInvalid, malformedTag (clFMT d)),
   (2, stFormatNotPermitted, isOfp8Tag (clFMT d)),
   (3, stFieldInvalid, decide (6 < clOP d) || decide (3 < clGROUP d) || decide (dfield d 0x2A 0 144 ≠ 0) || decide (dfield d 0x3C 2 30 ≠ 0)
      || clUnused d || decide (clTAG d = 0) || tagInUse e s || (decide (32 ≤ clSLOT d) && decide (clSLOT d ≤ 0xFE))),
   (4, stHandleInvalid, (clUsesS d && handleBad e (clSH d) s) || (clUsesD d && handleBad e (clDH d) s)
      || (decide (clOP d = 6) && handleBad e (clAUX d) s)),
   (5, stFormatMismatch, (clUsesS d && tagDiffers (clSH d) (clFMT d) s) || (clUsesD d && tagDiffers (clDH d) (clFMT d) s)
      || ((decide (clOP d ≤ 1) || decide (clOP d = 6)) && decide (1 < clFMT d)) || (decide (clOP d = 6) && decide (clFMT d ≠ 1))
      || (ctx && ctxUnfit (bareJob e s) s)),
   (6, stShapeMismatch, (clUsesS d && clUsesD d && decide (st.ext ≠ dt.ext))
      || (decide (clOP d = 6) && (st.ext.drop 1).any (fun n => decide (n ≠ 1))))]

/-- Checks 7 to 10 of R503, and the part of check 5 that waits with them. -/
def collEpochChecks (e : InFlight) (s : State) : List (Nat × Nat × Bool) :=
  let d := e.desc
  let j := bareJob e s
  [(5, stFormatMismatch, ctxUnfit j s),
   (7, stNotMember, !flag ND.NDSELF_MEMBER s || !j.group.contains (ownNode s)
      || (clUsesPeer d && !j.group.contains (clPEER d)) || (collPeers j).any (fun p => decide (routeSet p s = []))),
   (8, stFieldInvalid, tooManyPairs j s),
   (9, stEpochChanged, decide (clEPOCH d ≠ 0) && decide (clEPOCH d ≠ epochOf s)),
   (10, stStreamBusy, (collCtxs j s).any (fun x => ctxInUse x s))]

/-- EH of the DVQ contexts that a job sends through (R498). -/
def feedbackHandles (j : CollJob) (s : State) : List Nat :=
  dedupNat (sortNat (((sendCtxs j s).map (fun x => (ctxOf x s).params)).filterMap (fun p =>
    if p.mode = modeDvq ∧ p.eh ≠ 0 then some p.eh else none)))

/-- Handles that the streams of a job read beside the data: BH and EH of its contexts. -/
def contextHandles (j : CollJob) (s : State) : List Nat :=
  (dedupNat (sortNat ((collCtxs j s).flatMap (fun x =>
    let p := (ctxOf x s).params
    if p.mode = modeDvq then [p.bh, p.eh] else [p.bh])))).filter (fun h => decide (h ≠ 0))

/-- Blocks that are final from the start: those that this member contributes to the broadcast phase (R495). -/
def firstFinal (j : CollJob) : List (Nat × List Byte) :=
  if j.op = 2 ∨ j.op = 3 ∨ j.op = 6 then
    ((List.range (collSpan j)).filter (fun v => decide (treePos j v j.rank = 0))).map (fun v => (v, ownBlock j v))
  else []

/-- A block of this member's data enters the operation (R494, R495): all of them but for what ALLGATHER and BROADCAST take from others. -/
def entersColl (j : CollJob) (v : Nat) : Bool :=
  if j.op = 2 ∨ j.op = 3 then decide (treePos j v j.rank = 0) else true

/-- Bytes of the linear image of a staged handle that come of poisoned elements, as offset and length (R738). -/
def badSpans (owner : Nat) (t : Tensor) (s : State) : List (Nat × Nat) :=
  let root := rootOf t s
  let w := fmtBytes root.fmt
  (indexFrom 0 (allCoords t.ext)).filterMap (fun x =>
    if isBlockTag root.fmt then (if blockBad owner t root (handleBlock t root x.2) s then some (x.1, 1) else none)
    else if (fetchElem rootCore owner t root x.2 s).2.2 then some (x.1 * w, w) else none)

/-- A COLL runs (R495, R497, R498): its operands are read and its streams stand ready; connections look again at what they hold. -/
def startJob (e : InFlight) (s : State) : State :=
  let d := e.desc
  let j := bareJob e s
  let s := forEach (contextHandles j s) (fun h s => stageTensor e.id (tensorAt h s) s) s
  let t := tensorAt (clSH d) s
  let s := if clUsesS d then stageTensor e.id t s else s
  let (own, poison) := if clUsesS d then linearImage e.id t s else ([], false)
  let bad := if poison then (badSpans e.id t s).filter (fun b => entersColl j (b.1 / 4096)) else []
  let j : CollJob := { j with own := own, poison := decide (bad ≠ []), bad := bad }
  let j : CollJob := { j with
    streams := withCtxs j.slot (bareStreams j s), recvs := withRecvCtxs j.slot (bareRecvs j s), final := firstFinal j }
  let s := setFlight e.id (fun x => { x with parts := [⟨rootCore, 0, 1, .running, 0, 0, 0⟩], st := .running }) s
  collProgress j.tag (drainAll { s with colls := s.colls ++ [j] })

/-- Check 11 of R503: the shadow panes are charged, or nothing is. -/
def chargeColl (e : InFlight) (s : State) : State :=
  let j := bareJob e s
  match shadowEach e.id ((if clUsesD e.desc then [clDH e.desc] else []) ++ feedbackHandles j s) s with
  | (some s, _, _) => startJob e s
  | (none, q, st) => failCheck e st 11 q

/-- The COLL meets the epoch (R503, R504). -/
def enterEpoch (e : InFlight) (s : State) : State := validated e (collEpochChecks e s) (chargeColl e) s

/-- A COLL enters flight (R503, R504): while the membership changes it waits for the commit. -/
def beginColl (e : InFlight) (s : State) : State :=
  if getF ND.NDSELF_STATE s = 3 then
    validated e (collChecks e false s) (fun s => { s with collHeld := s.collHeld ++ [e.id] }) s
  else validated e (collChecks e true s) (enterEpoch e) s

/-- COLLs that waited for the commit run under the new epoch (R504). -/
def releaseHeld (s : State) : State :=
  forEach s.collHeld (fun id s => match flight id s with
    | some e => enterEpoch e s
    | none => s) { s with collHeld := [] }

/-- A COLL of one operation, as the command processor takes it. -/
def takeColl (op : Nat) (q : QueueNo) (d : Desc) (s : State) : State :=
  takeRing q (withOpcode 4 (dput d 0x26 0 8 op)) beginColl s

/-- COLL_ALLREDUCE (R494, R495). -/
def execCollAllreduce (q : QueueNo) (d : Desc) (s : State) : Host.Outcome State Fault Refusal := .next (takeColl 0 q d s)
/-- COLL_REDUCESCATTER (R494, R495). -/
def execCollReducescatter (q : QueueNo) (d : Desc) (s : State) : Host.Outcome State Fault Refusal := .next (takeColl 1 q d s)
/-- COLL_ALLGATHER (R494, R495). -/
def execCollAllgather (q : QueueNo) (d : Desc) (s : State) : Host.Outcome State Fault Refusal := .next (takeColl 2 q d s)
/-- COLL_BROADCAST (R494, R495). -/
def execCollBroadcast (q : QueueNo) (d : Desc) (s : State) : Host.Outcome State Fault Refusal := .next (takeColl 3 q d s)
/-- COLL_SEND (R494). -/
def execCollSend (q : QueueNo) (d : Desc) (s : State) : Host.Outcome State Fault Refusal := .next (takeColl 4 q d s)
/-- COLL_RECV (R494). -/
def execCollRecv (q : QueueNo) (d : Desc) (s : State) : Host.Outcome State Fault Refusal := .next (takeColl 5 q d s)
/-- COLL_DIGCMP (R499). -/
def execCollDigcmp (q : QueueNo) (d : Desc) (s : State) : Host.Outcome State Fault Refusal := .next (takeColl 6 q d s)

/-! Reduction (R495, R496). -/

/-- round(acc + value) of one element (R496): bits and flags. -/
def reduceElem (fmt : Nat) (flush : Bool) (acc v : Nat) : Nat × Nat :=
  let (x, fx) := readFlush flush (decodeBits fmt 127 acc)
  let (y, fy) := readFlush flush (decodeBits fmt 127 v)
  let (z, fz) := addX .rne x y
  let (b, fb) := encode fmt flush z
  (b, fx ||| fy ||| fz ||| fb)

/-- Add a child's block into the accumulated one: bits and flags of every element. -/
def reduceBlock (fmt : Nat) (flush : Bool) (acc : List Nat × Nat) (v : List Nat) : List Nat × Nat :=
  let rs := (acc.1.zip v).map (fun p => reduceElem fmt flush p.1 p.2)
  (rs.map (fun r => r.1), rs.foldl (fun a r => a ||| r.2) acc.2)

/-- The value that a child has sent for a block. -/
def fromChild (j : CollJob) (v r : Nat) : Option (List Byte) :=
  (j.got.find? (fun g => decide (g.1 = v) && decide (g.2.1 = r))).map (fun g => g.2.2)

/-- The engine whose lanes add a block (R496). -/
def reduceEngine (j : CollJob) (v : Nat) (s : State) : Nat :=
  match parentRank j v with
  | some r => routeDoor (nodeOf j r) v s
  | none => 0

/-- Reduce one block at this member. -/
def reduceNow (j : CollJob) (v : Nat) (s : State) : State :=
  let w := fmtBytes j.fmt
  let kids := (childRanks j v).map (fun r => fromChild j v r)
  let (es, flags) := kids.foldl (fun a k => reduceBlock j.fmt j.flush a (elemsOf w (k.getD []))) (elemsOf w (ownBlock j v), 0)
  let bs := es.flatMap (fun x => leBytes w x)
  let flushes := [(5, CE.CEFLAGS_FLUSH_IN (reduceEngine j v s)), (6, CE.CEFLAGS_FLUSH_OUT (reduceEngine j v s))]
  collProgress j.tag (setColl j.id (fun j => { j with
    sums := j.sums ++ [(v, bs)], flags := j.flags ||| flags,
    final := if treePos j v j.rank = 0 then j.final ++ [(v, bs)] else j.final }) (setSticky flushes flags s))

/-- COLL_BLOCK_REDUCE (R495, R496): a block whose children's values have all come. -/
def execCollBlockReduce (tag block : Nat) (s : State) : Host.Outcome State Fault Refusal :=
  .next (match collOf tag s with
    | none => s
    | some j =>
      if hasReduce j && decide (block < collSpan j) && (blockIn j.sums block).isNone
         && (childRanks j block).all (fun r => (fromChild j block r).isSome) && alive s
         && !(regionOf (ceRegion (reduceEngine j block s)) s).inReset then reduceNow j block s
      else s)

/-! Commit (R498). -/

/-- COLL_DONE (R498): DONE of a member reaches rank 0. -/
def execCollDone (tag node : Nat) (s : State) : Host.Outcome State Fault Refusal :=
  .next (match collOf tag s with
    | none => s
    | some j =>
      if decide (j.rank = 0) && decide (j.op ≠ 4) && decide (j.op ≠ 5) && decide (node ≠ nodeOf j 0) && j.group.contains node
         && !j.dones.contains node && alive s then
        gatherDone { j with dones := node :: j.dones } (setColl j.id (fun j => { j with dones := node :: j.dones }) s)
      else s)

/-- COLL_COMMIT (R498): COMMIT reaches a member that has sent DONE, or the condition of a SEND or RECV holds. -/
def execCollCommit (tag : Nat) (s : State) : Host.Outcome State Fault Refusal :=
  .next (match collOf tag s with
    | none => s
    | some j =>
      let may := if j.op = 4 ∨ j.op = 5 then collComplete j s else if j.rank = 0 then j.commit else j.doneSent
      if may && alive s then commitColl j s else s)

end Sys2Proof.Machine
end

