-- ==== Sys2Proof/Machine/Membership.lean ====
section
/-! DEFINITION. Membership (R486 to R492): the host's commands, the MEMBER packets, and the change from one epoch to the next. -/

namespace Sys2Proof.Machine

/-- Membership states of NDSELF (R515). -/
def ndNone : Nat := 0
def ndJoining : Nat := 1
def ndMember : Nat := 2
def ndChanging : Nat := 3
def ndLeaving : Nat := 4

def ndState (s : State) : Nat := getF ND.NDSELF_STATE s
def setNdState (v : Nat) (s : State) : State := setF ND.NDSELF_STATE v s
def setNd (f : NdAux → NdAux) (s : State) : State := { s with nd := f s.nd }
def isCoord (s : State) : Bool := flag ND.NDSELF_COORD s
def cmdErr (s : State) : State := setF ND.NDEVENT_CMDERR 1 s

/-- The node page works: boot has ended, the device is not fatal, its region is not in a reset. -/
def ndAlive (s : State) : Bool := alive s && !(regionOf 99 s).inReset

/-- This device's identity public key (R699). -/
def ownKey : List Byte := leBytes 32 identityKey

/-- A MEMBER packet of this device, signed under its identity key (R491). -/
def ownPacket (b : MemberBody) (s : State) : MemberPacket :=
  ⟨ownNode s, b, Config.ed25519Sign identitySeed (Config.memberMessage (ownNode s) b)⟩

/-- The node's entry in the membership, in the change that runs, or among the joiners. -/
def knownMember (node : Nat) (s : State) : Option Member :=
  (s.nd.members ++ ((s.nd.change.map (fun c => c.members ++ c.old)).getD []) ++ s.nd.joiners.map (fun j => j.who)).find?
    (fun m => decide (m.node = node))

/-- The IPv6 address that a packet to a node is sent to: that of its entry; without one, as a joiner has none, NDCONTIP (R489, R519;
log 61). -/
def memberIp (node : Nat) (s : State) : List Byte :=
  match knownMember node s with
  | some m => m.ip
  | none => [0, 1, 2, 3].flatMap (fun i => beBytes 4 (getF (ND.NDCONTIP_ADDR i) s))

/-- Send a MEMBER packet to a node (R491). -/
def postMember (tgt : Nat) (p : MemberPacket) (s : State) : State := emit (.member tgt (memberIp tgt s) p) s

def sendMember (tgt : Nat) (b : MemberBody) (s : State) : State := postMember tgt (ownPacket b s) s

/-- The signature of a packet stands under a key (R491). -/
def signedBy (key : List Byte) (p : MemberPacket) : Bool := Config.ed25519Verify key (Config.memberMessage p.sender p.body) p.sig

/-- The IPv6 address that this device announces: that of its lowest OPEN Ethernet doorway, zeros without one (log 61). -/
def ownIp (s : State) : List Byte :=
  match (List.range 16).find? (fun w => isEth w s && dwOpen w s) with
  | some w => ipBytes w s
  | none => List.replicate 16 0#8

/-- This device's entry in a membership, as it stands now (R488, R492). -/
def ownMember (s : State) : Member :=
  ⟨ownNode s, ownKey, ownIp s, ⟨getF ND.NDLOC_SITE s, getF ND.NDLOC_SWITCH s⟩,
   dedupNat (sortNat (((List.range 16).filter (fun w => dwOpen w s && flag (DW.DWSTAT_PVALID w) s)).map (fun w =>
     getF (DW.DWSTAT_PARTNER w) s)))⟩

def memberAt (node : Nat) (l : List Member) : Option Member := l.find? (fun m => decide (m.node = node))

/-- Put a member into a list that rises by node, over one of the same node. -/
def putMember (m : Member) : List Member → List Member
  | [] => [m]
  | x :: t => if m.node < x.node then m :: x :: t else if m.node = x.node then m :: t else x :: putMember m t

def dropMember (node : Nat) (l : List Member) : List Member := l.filter (fun m => decide (m.node ≠ node))

/-- The epoch after the current one (R492). -/
def nextEpoch (s : State) : Nat := if epochOf s = 0xFFFFFFFF then 1 else epochOf s + 1

/-! Adopting an epoch (R487, R488, R491). -/

/-- The doorways of the route set of a node, as an epoch fixes them (R487). -/
def routeNow (node : Nat) (s : State) : List Nat :=
  let r := assocGet 0 s.nd.routes node
  if bitOf r 31 then (List.range 16).filter (fun w => bitOf r w && dwOpen w s)
  else (List.range 16).filter (fun w => dwOpen w s && flag (DW.DWSTAT_PVALID w) s && decide (getF (DW.DWSTAT_PARTNER w) s = node))

/-- A joiner is sent away (R491). -/
def refuse (node : Nat) (s : State) : State :=
  setNd (fun n => { n with
    joiners := n.joiners.filter (fun j => decide (j.who.node ≠ node)), requests := n.requests.filter (fun r => !(decide (r.node = node) && r.entrant.isSome)) })
    (sendMember node (.refused node) s)

/-- Every joiner is sent away, and no join is pending (R490). -/
def refuseAll (s : State) : State :=
  setF ND.NDREQ_VALID 0 (setF ND.NDEVENT_JOINREQ 0
    (forEach (s.nd.joiners.map (fun j => j.who.node)) refuse s))

/-- A membership comes to this device's registers: epoch, members, coordinator (R515, R516). -/
def showEpoch (epoch : Nat) (ms : List Member) (s : State) : State :=
  let own := ownNode s
  let low := (ms.map (fun m => m.node)).headD 0
  let inside := (memberAt own ms).isSome
  setF ND.NDEPOCH_EPOCH (if inside then epoch else 0) (setF ND.NDCOUNT_COUNT (if inside then ms.length else 0)
    (setF ND.NDCOORD_NODE (if inside then low else 0) (setF ND.NDSELF_MEMBER (b2n inside)
      (setF ND.NDSELF_COORD (b2n (inside && decide (low = own))) (setNdState (if inside then ndMember else ndNone) s)))))

/-- Packets of another epoch that wait at a doorway are discarded and counted (R485). -/
def dropStale (w : Nat) (s : State) : State :=
  let stale (p : List Byte × Bool) : Bool := decide (pkEpoch p.1 ≠ epochOf s)
  match ((dwAuxOf w s).arrived.filter stale).length with
  | 0 => s
  | n => satF (DW.DWDROP_COUNT w) n (setDw w (fun a => { a with arrived := a.arrived.filter (fun p => !stale p) }) s)

/-- Connections and route sets of an epoch (R487, R491); what is left of another epoch is discarded (R485). -/
def openConns (ms : List Member) (s : State) : State :=
  let s := forEach (List.range 16) dropStale s
  let sets := ((ms.map (fun m => m.node)).filter (fun n => decide (n ≠ ownNode s))).map (fun n => (n, routeNow n s))
  { s with
    nd := { s.nd with routeSets := sets }
    conns := sets.flatMap (fun r => r.2.map (fun w => newConn r.1 w s)) }

/-- A new epoch, or the end of this device's membership, takes force (R490, R491): connections open, COLLs that waited run. -/
def adoptEpoch (epoch : Nat) (ms : List Member) (s : State) : State :=
  let inside := (memberAt (ownNode s) ms).isSome
  let ms := if inside then ms else []
  let s := showEpoch epoch ms (setNd (fun n => { n with members := ms, change := none, host := none, nonce := [] }) s)
  let s := openConns ms s
  let s := if inside then setF ND.NDEVENT_CHANGED 1 (trace 7 2 99 0 epoch s) else s
  let s := if isCoord s then s else setNd (fun n => { n with requests := [] }) (refuseAll s)
  releaseHeld s

/-! Running a change (R489 to R491). -/

/-- Every uncommitted COLL completes (R491 step 6, R500); one that has received COMMIT completes with OK. -/
def endColls (s : State) : State :=
  endCarriage stEpochChanged none (forEach s.colls (fun j s => if j.commit then commitColl j s else failColl stEpochChanged j s) s)

/-- Nodes that take part in a change: the members to be and those that leave. -/
def changeNodes (c : Change) : List Nat := c.members.map (fun m => m.node) ++ c.old.map (fun m => m.node)

/-- COMMIT once READY has come from all (R490, R491). -/
def finishChange (s : State) : State :=
  match s.nd.change with
  | none => s
  | some c =>
    if c.coordinator = ownNode s ∧ (changeNodes c).all (fun n => c.ready.contains n) = true then
      adoptEpoch c.epoch c.members
        (forEach ((changeNodes c).filter (fun n => decide (n ≠ ownNode s))) (fun n s =>
          sendMember n (.commit c.epoch c.coordinator c.members) s) s)
    else s

/-- The coordinator starts a change to a list of members; `leavers` go (R490, R491 step 5). -/
def runChange (ms leavers : List Member) (s : State) : State :=
  let own := ownNode s
  let ms := ms.map (fun m => if m.node = own then ownMember s else m)
  let c : Change := ⟨nextEpoch s, own, ms, leavers, [own]⟩
  let s := endColls (setNdState ndChanging (setNd (fun n => { n with change := some c }) s))
  finishChange (forEach ((changeNodes c).filter (fun n => decide (n ≠ own))) (fun n s =>
    sendMember n (.prepare c.epoch own ms) s) s)

/-- The request of the lowest node that waits (R489). -/
def firstRequest (s : State) : Option ChangeReq :=
  s.nd.requests.foldl (fun (b : Option ChangeReq) r => match b with
    | some x => if r.node < x.node then some r else b
    | none => some r) none

/-- The coordinator takes the next pending request, if none runs (R489). A change that ends at once leaves room for the next. -/
def nextChange : Nat → State → State
  | 0, s => s
  | fuel + 1, s =>
    if !isCoord s || decide (ndState s ≠ ndMember) then s
    else match firstRequest s with
    | none => s
    | some r =>
      let s := setNd (fun n => { n with requests := n.requests.filter (fun x => decide (x ≠ r)) }) s
      nextChange fuel (match r.entrant with
        | some m => runChange (putMember m s.nd.members) [] s
        | none => match memberAt r.node s.nd.members with
          | some m => runChange (dropMember r.node s.nd.members) (if r.leaves then [m] else []) s
          | none => s)

/-- The joiner that NDREQ shows: the lowest of those that have proved themselves (R489, R491 step 4). -/
def showJoiner (s : State) : State :=
  if flag ND.NDREQ_VALID s then s
  else match sortNat ((s.nd.joiners.filter (fun j => j.proven)).map (fun j => j.who.node)) with
  | [] => s
  | n :: _ =>
    match s.nd.joiners.find? (fun j => decide (j.who.node = n)) with
    | none => s
    | some j =>
      let fp := sha512 j.who.key
      forEach (List.range 8) (fun i s => setF (ND.NDREQFP_FP i) (leAt fp (4 * i) 4) s)
        (setF ND.NDREQ_NODE n (setF ND.NDREQ_VALID 1 (setF ND.NDEVENT_JOINREQ 1 s)))

/-- Go on with what waits after a change of state. -/
def proceed (s : State) : State :=
  let s := nextChange (s.nd.requests.length + 1) s
  if isCoord s then showJoiner s else s

/-- A member fails while the membership changes (R491): its coordinator restarts the change without it; when the coordinator fails,
the lowest surviving member takes its place. -/
def memberFailed (node : Nat) (s : State) : State :=
  match s.nd.change with
  | none => s
  | some c =>
    let own := ownNode s
    let left := dropMember node c.members
    let survivors := (dropMember node s.nd.members).map (fun m => m.node)
    if (changeNodes c).contains node = false ∧ node ≠ c.coordinator then s
    else if c.coordinator = own ∨ (c.coordinator = node ∧ survivors.headD 65536 = own) then
      runChange left (dropMember node c.old) (setF ND.NDSELF_COORD 1 (setF ND.NDCOORD_NODE own s))
    else s

/-- After an event that may have failed connections, changes that their peers took part in restart. -/
def withFailures (f : State → State) (s : State) : State :=
  let s' := f s
  let dead := (s'.conns.filter (fun c => c.failed && !s.conns.any (fun x => decide (x.w = c.w) && decide (x.peer = c.peer) && x.failed))).map
    (fun c => c.peer)
  forEach (dedupNat (sortNat dead)) memberFailed s'

/-- PACKET_ACK (R481, R482, R484, R394, R491). -/
def execPacketAck (w : DoorwayNo) (pkt : List Byte) (ce : Bool) (s : State) : Host.Outcome State Fault Refusal :=
  .next (withFailures (packetAck w pkt ce) s)

/-- PACKET_NACK (R482, R396, R491). -/
def execPacketNack (w : DoorwayNo) (pkt : List Byte) (ce : Bool) (s : State) : Host.Outcome State Fault Refusal :=
  .next (withFailures (packetNack w pkt ce) s)

/-- RTO_EXPIRY (R482, R491). -/
def execRtoExpiry (w : DoorwayNo) (peer : Nat) (s : State) : Host.Outcome State Fault Refusal :=
  .next (withFailures (rtoExpiry w peer) s)

/-! The host's commands (R489, R490). A command's bit of NDCTL reads 0 again once it is acted on, in the same step. -/

/-- FORM and JOIN are open to a device of no membership (R489), unless it is RETIRED (R687). -/
def mayEnter (s : State) : Bool := decide (ndState s = ndNone) && decide (lcState s ≠ 3)

/-- NDCTL_FORM. -/
def execNdctlForm (s : State) : Host.Outcome State Fault Refusal :=
  .next (hostWrite .late (fun s =>
    if !mayEnter s then cmdErr s
    else
      let ms := [ownMember s]
      openConns ms (showEpoch 1 ms (setNd (fun n => { n with members := ms, change := none }) s))) s)

/-- NDCTL_JOIN (R491 step 1). -/
def execNdctlJoin (s : State) : Host.Outcome State Fault Refusal :=
  .next (hostWrite .late (fun s =>
    if !mayEnter s then cmdErr s
    else
      let tgt := getF ND.NDARG_NODE s
      let (nj, s) := drawRandom 32 s
      let s := setNdState ndJoining (setNd (fun n => { n with nonce := nj, contact := tgt, host := none }) s)
      sendMember tgt (.hello (ownMember s) Config.certChain nj) s) s)

/-- NDCTL_LEAVE. -/
def execNdctlLeave (s : State) : Host.Outcome State Fault Refusal :=
  .next (hostWrite .late (fun s =>
    if ndState s ≠ ndMember then cmdErr s
    else
      let own := ownNode s
      let others := dropMember own s.nd.members
      if !isCoord s then sendMember (getF ND.NDCOORD_NODE s) (.handover own (epochOf s)) (setNdState ndLeaving s)
      else match others with
      | [] => adoptEpoch 0 [] (endColls s)
      | m :: _ =>
        sendMember m.node (.handover own (epochOf s)) (refuseAll (setNdState ndLeaving (setNd (fun n => { n with requests := [] }) s)))) s)

/-- The pending joiner leaves NDREQ. -/
def takeJoiner (s : State) : Option Joiner × State :=
  (s.nd.joiners.find? (fun j => decide (j.who.node = getF ND.NDREQ_NODE s)),
   setF ND.NDREQ_VALID 0 (setF ND.NDEVENT_JOINREQ 0 s))

/-- A join awaits the host's answer here (R489). -/
def joinPending (s : State) : Bool := isCoord s && flag ND.NDEVENT_JOINREQ s

/-- NDCTL_APPROVE (R491 step 5). -/
def execNdctlApprove (s : State) : Host.Outcome State Fault Refusal :=
  .next (hostWrite .late (fun s =>
    if !joinPending s then cmdErr s
    else match takeJoiner s with
    | (none, s) => proceed s
    | (some j, s) => proceed (setNd (fun n => { n with
        joiners := n.joiners.filter (fun x => decide (x.who.node ≠ j.who.node)),
        requests := n.requests ++ [⟨j.who.node, some j.who, false⟩] }) s)) s)

/-- NDCTL_DENY (R491). -/
def execNdctlDeny (s : State) : Host.Outcome State Fault Refusal :=
  .next (hostWrite .late (fun s =>
    if !joinPending s then cmdErr s
    else match takeJoiner s with
    | (none, s) => proceed s
    | (some j, s) => proceed (refuse j.who.node s)) s)

/-- NDCTL_EVICT (R489, R490): of a node that is not a member it has no effect. -/
def execNdctlEvict (s : State) : Host.Outcome State Fault Refusal :=
  .next (hostWrite .late (fun s =>
    let n := getF ND.NDARG_NODE s
    if !isCoord s || decide (n = ownNode s) || (memberAt n s.nd.members).isNone then cmdErr s
    else proceed (setNd (fun a => { a with requests := a.requests ++ [⟨n, none, false⟩] }) s)) s)

/-- NDSELF_WRITE (R515). -/
def execNdselfWrite (node : Nat) (s : State) : Host.Outcome State Fault Refusal :=
  .next (hostWrite .late (fun s =>
    if ndState s ≠ ndNone then regAccessError ND.NDSELF_NODE.addr s else setF ND.NDSELF_NODE node s) s)

/-! The MEMBER packets (R490, R491). -/

/-- HELLO at the coordinator (R491 step 2). -/
def helloHere (p : MemberPacket) (j : Member) (cert nonce : List Byte) (s : State) : State :=
  if !signedBy j.key p || decide (p.sender ≠ j.node) || !Config.certCheck cert j.key then refuse j.node s
  else
    let (nc, s) := drawRandom 32 s
    let own := ownNode s
    let sig := Config.ed25519Sign identitySeed (Config.nonceMessage nonce j.node own)
    sendMember j.node (.challenge j.node own ownKey Config.certChain nc sig) (setNd (fun n => { n with
      joiners := n.joiners.filter (fun x => decide (x.who.node ≠ j.node)) ++ [⟨j, cert, nonce, nc, false⟩] }) s)

/-- HELLO (R491 step 2): a contact that is not the coordinator forwards it. -/
def execHello (p : MemberPacket) (s : State) : Host.Outcome State Fault Refusal :=
  .next (match p.body with
    | .hello j cert nonce =>
      if !ndAlive s || !flag ND.NDSELF_MEMBER s then s
      else if isCoord s then helloHere p j cert nonce s
      else postMember (getF ND.NDCOORD_NODE s) p s
    | _ => s)

/-- A join of this device has been refused (R491). -/
def joinRefused (s : State) : State :=
  setF ND.NDEVENT_REFUSED 1 (setNdState ndNone (setNd (fun n => { n with nonce := [], host := none, change := none }) s))

/-- CHALLENGE (R491 steps 2 and 3). -/
def execChallenge (p : MemberPacket) (s : State) : Host.Outcome State Fault Refusal :=
  .next (match p.body with
    | .challenge j c key cert nonce sig =>
      if !ndAlive s || decide (ndState s ≠ ndJoining) || decide (j ≠ ownNode s) then s
      else if !signedBy key p || decide (p.sender ≠ c) || !Config.certCheck cert key
         || !Config.ed25519Verify key (Config.nonceMessage s.nd.nonce j c) sig then joinRefused s
      else
        sendMember c (.proof j (Config.ed25519Sign identitySeed (Config.nonceMessage nonce c j)))
          (setNd (fun n => { n with host := some (c, key) }) s)
    | _ => s)

/-- PROOF (R491 steps 3 and 4). -/
def execProof (p : MemberPacket) (s : State) : Host.Outcome State Fault Refusal :=
  .next (match p.body with
    | .proof j sig =>
      if !ndAlive s || !isCoord s then s
      else match s.nd.joiners.find? (fun x => decide (x.who.node = j)) with
      | none => s
      | some x =>
        if !signedBy x.who.key p || decide (p.sender ≠ j)
           || !Config.ed25519Verify x.who.key (Config.nonceMessage x.ours (ownNode s) j) sig
           || (memberAt j s.nd.members).isSome then refuse j s
        else
          let is (y : Joiner) : Bool := decide (y.who.node = j)
          showJoiner (setNd (fun n => { n with joiners := updateWhere is (fun y => { y with proven := true }) n.joiners }) s)
    | _ => s)

/-- The key under which a sender's PREPARE or COMMIT is to stand: a member's, or at a joiner the coordinator's that has proved itself. -/
def senderKey (node : Nat) (s : State) : Option (List Byte) :=
  match memberAt node s.nd.members with
  | some m => some m.key
  | none => s.nd.host.bind (fun h => if h.1 = node then some h.2 else none)

/-- A packet that a member, or this joiner's coordinator, has sent and signed. -/
def fromMember (p : MemberPacket) (s : State) : Bool :=
  match senderKey p.sender s with
  | some k => signedBy k p
  | none => false

/-- PREPARE (R490 step 3, R491 step 6). -/
def execPrepare (p : MemberPacket) (s : State) : Host.Outcome State Fault Refusal :=
  .next (match p.body with
    | .prepare epoch c ms =>
      let known := s.nd.members ≠ []
      if !ndAlive s || decide (ndState s = ndNone) || decide (p.sender ≠ c) || decide (c = ownNode s) || !fromMember p s
         || (decide known && decide (epoch ≠ nextEpoch s)) then s
      else
        let leavers := if (memberAt (ownNode s) ms).isSome then [] else [ownMember s]
        let s := endColls (setNdState ndChanging (setNd (fun n => { n with change := some ⟨epoch, c, ms, leavers, []⟩ }) s))
        sendMember c (.ready (ownMember s) epoch) s
    | _ => s)

/-- READY (R490, R491): its sender's entry is as it stands now (log 62). -/
def execReady (p : MemberPacket) (s : State) : Host.Outcome State Fault Refusal :=
  .next (match p.body with
    | .ready m epoch =>
      match s.nd.change with
      | none => s
      | some c =>
        match (c.members ++ c.old).find? (fun x => decide (x.node = p.sender)) with
        | none => s
        | some x =>
          if !ndAlive s || decide (c.coordinator ≠ ownNode s) || decide (epoch ≠ c.epoch) || decide (m.node ≠ p.sender) || decide (m.key ≠ x.key)
             || !signedBy x.key p then s
          else
            let ms := if (memberAt m.node c.members).isSome then putMember m c.members else c.members
            proceed (finishChange (setNd (fun n => { n with change := some { c with members := ms, ready := m.node :: c.ready } }) s))
    | _ => s)

/-- COMMIT of a new epoch (R490 step 4, R491 step 7). -/
def execCommit (p : MemberPacket) (s : State) : Host.Outcome State Fault Refusal :=
  .next (match p.body with
    | .commit epoch c ms =>
      match s.nd.change with
      | none => s
      | some ch =>
        if !ndAlive s || decide (ndState s ≠ ndChanging) || decide (ch.epoch ≠ epoch) || decide (ch.coordinator ≠ c) || decide (p.sender ≠ c)
           || decide (c = ownNode s) || !fromMember p s then s
        else proceed (adoptEpoch epoch ms s)
    | _ => s)

/-- REFUSED (R491). -/
def execRefused (p : MemberPacket) (s : State) : Host.Outcome State Fault Refusal :=
  .next (match p.body with
    | .refused j =>
      let sound : Bool := match s.nd.host with
        | some h => decide (p.sender = h.1) && signedBy h.2 p
        | none => true
      if !ndAlive s || decide (ndState s ≠ ndJoining) || decide (j ≠ ownNode s) || !sound then s else joinRefused s
    | _ => s)

/-- HANDOVER (R489, R490): from the leaving coordinator to its successor, or from another leaving member to the coordinator (log 63). -/
def execHandover (p : MemberPacket) (s : State) : Host.Outcome State Fault Refusal :=
  .next (match p.body with
    | .handover node epoch =>
      if !ndAlive s || decide (p.sender ≠ node) || decide (epoch ≠ epochOf s) || decide (node = ownNode s) || !fromMember p s then s
      else
        let others := (dropMember node s.nd.members).map (fun m => m.node)
        if isCoord s then
          proceed (setNd (fun n => { n with requests := n.requests ++ [⟨node, none, true⟩] }) s)
        else if decide (node = getF ND.NDCOORD_NODE s) && decide (others.headD 65536 = ownNode s) && decide (ndState s = ndMember) then
          proceed (setNd (fun n => { n with requests := [⟨node, none, true⟩] }) (setF ND.NDSELF_COORD 1 (setF ND.NDCOORD_NODE (ownNode s) s)))
        else s
    | _ => s)

end Sys2Proof.Machine
end

