-- ==== Sys2Proof/Machine/Check.lean ====
section
/-! DEFINITION. Check units (R407 to R412, R421 to R423). -/

namespace Sys2Proof.Machine

/-- One bit of an unreflected CRC register of width `w`. -/
def crcMsbBit (w p c : Nat) : Nat := if bitOf c (w - 1) then (c * 2 % 2 ^ w) ^^^ p else c * 2 % 2 ^ w

/-- `n` shifts of an unreflected register. -/
def crcMsbBits (w p : Nat) : Nat → Nat → Nat
  | 0, c => c
  | n + 1, c => crcMsbBits w p n (crcMsbBit w p c)

/-- One byte into an unreflected register. -/
def crcMsbByte (w p c : Nat) (b : Byte) : Nat := crcMsbBits w p 8 (c ^^^ (b.toNat * 2 ^ (w - 8)))

/-- Width of a check polynomial (R407). -/
def ckWidth (poly : Nat) : Nat :=
  match poly with
  | 2 => 64
  | 3 => 16
  | _ => 32

/-- The initial value of RUN (R407). -/
def ckInitial (poly : Nat) : Nat :=
  match poly with
  | 2 => 0
  | 3 => 0xFFFF
  | _ => 0xFFFFFFFF

/-- RUN after one byte (R407): the register as the algorithm of the catalogue holds it (log 57). -/
def ckStep (poly run : Nat) (b : Byte) : Nat :=
  match poly with
  | 0 => crcByte poly32c run b
  | 1 => crcByte 0xEDB88320 run b
  | 2 => crcMsbByte 64 0x42F0E1EBA9EA3693 run b
  | _ => crcMsbByte 16 0x1021 run b

/-- FINAL from RUN (R407, R423). -/
def ckFinal (poly run : Nat) : Nat := if poly ≤ 1 then run ^^^ 0xFFFFFFFF else run

/-- A CRC of R407 over a byte string. -/
def ckCrc (poly : Nat) (bs : List Byte) : Nat := ckFinal poly (bs.foldl (ckStep poly) (ckInitial poly))

/-- The registers that follow from RUN. -/
def setRun (u run : Nat) (s : State) : State :=
  setF (CK.CKFINAL_FINAL u) (ckFinal (getF (CK.CKCTL_POLY u) s) run) (setF (CK.CKRUN_RUN u) run s)

/-- COUNT reaches LIMIT (R410). -/
def ckLimit (u : Nat) (s : State) : State :=
  let lim := getF (CK.CKLIMIT_LIMIT u) s
  if lim = 0 ∨ getF (CK.CKCOUNT_COUNT u) s ≠ lim then s
  else
    let s := setF (CK.CKCTL_ARM u) 0 (setF (CK.CKSTAT_DONE u) 1 s)
    if flag (CK.CKCTL_CMPEN u) s && decide (getF (CK.CKFINAL_FINAL u) s ≠ getF (CK.CKCMP_CMP u) s) then
      errRecord clsCheck 1 (ckRegion u) 0 u [u] (setF (CK.CKSTAT_MISMATCH u) 1 s)
    else s

/-- CHECK_BYTE (R408, R410, R422): a byte that tap `tap` of the unit's frame die presents under `key`. A unit that the device has armed
for a digest takes its bytes with the digest (log 178). -/
def execCheckByte (u : CheckNo) (tap key : Nat) (b : Byte) (s : State) : Host.Outcome State Fault Refusal :=
  .next (if !flag (CK.CKCTL_ARM u) s || decide (getF (CK.CKCTL_TAP u) s ≠ tap) || decide (getF (CK.CKMATCH_MATCH u) s ≠ key)
      || flag (CK.CKCTL_OWNER u) s || s.ckFenced.contains u.val || fatal s || (regionOf (ckRegion u) s).inReset then s
    else
      let s := setRun u (ckStep (getF (CK.CKCTL_POLY u) s) (getF (CK.CKRUN_RUN u) s) b) (addF (CK.CKCOUNT_COUNT u) 1 s)
      let s := { s with ckStamp := assocSet 0 s.ckStamp u (licOf (ckRegion u) s + 1) }
      ckLimit u (peep 8 u 1 1 s))

/-! Units that the device arms (R412, R446, R447). -/

/-- A descriptor arms a check unit of frame die `k` on tap 16 for its digests (R407, R412): DESIGN CHOICE (log 178), the lowest one that is
neither armed nor fenced, and none where there is none. -/
def armCheck (id k : Nat) (s : State) : State :=
  if s.ckOwner.any (fun p => decide (p.2 = id) && decide (p.1 / 16 = k)) || (regionOf (ckRegion (16 * k)) s).inReset then s
  else match ((List.range 16).map (fun i => 16 * k + i)).find? (fun u => !flag (CK.CKCTL_ARM u) s && !s.ckFenced.contains u) with
    | none => s
    | some u =>
      let s := setF (CK.CKCTL_TAP u) 16 (setF (CK.CKCTL_POLY u) 2 (setF (CK.CKCTL_CMPEN u) 0 (setF (CK.CKLIMIT_LIMIT u) 0 s)))
      setF (CK.CKCTL_OWNER u) 1 (setF (CK.CKCTL_ARM u) 1 { s with ckOwner := s.ckOwner ++ [(u, id)] })

/-- The unit that a descriptor has armed on a frame die takes the bytes of a digest of tensor `h`, afresh (R408, R410). -/
def feedCheck (id k h : Nat) (bs : List Byte) (s : State) : State :=
  forEach (s.ckOwner.filter (fun p => decide (p.2 = id) && decide (p.1 / 16 = k))) (fun p s =>
    let u := p.1
    let s := setRun u (bs.foldl (ckStep 2) (ckInitial 2)) (setF (CK.CKCOUNT_COUNT u) bs.length (setF (CK.CKMATCH_MATCH u) h s))
    peep 8 u 1 bs.length { s with ckStamp := assocSet 0 s.ckStamp u (licOf (ckRegion u) s + 1) }) s

/-- A host write to a check unit's page: a fenced unit and one that the device has armed discard it (R412, R657). -/
def ckWrite (u : Nat) (f : State → State) (s : State) : State :=
  hostWrite .late (fun s => if s.ckFenced.contains u || flag (CK.CKCTL_OWNER u) s then s else f s) s

/-- CKCTL_INIT (R411). -/
def execCkctlInit (u : CheckNo) (s : State) : Host.Outcome State Fault Refusal :=
  .next (ckWrite u (fun s => setF (CK.CKCOUNT_COUNT u) 0 (setRun u (ckInitial (getF (CK.CKCTL_POLY u) s)) s)) s)

/-- CKCTL_ARM (R411, R421). -/
def execCkctlArm (u : CheckNo) (on : Bool) (s : State) : Host.Outcome State Fault Refusal :=
  .next (ckWrite u (setF (CK.CKCTL_ARM u) (b2n on)) s)

/-- Address of the register that a CHECK_STATE_WRITE names. -/
def ckRegAddr (u : Nat) : CheckReg → Nat
  | .run => (CK.CKRUN_RUN u).addr
  | .count => (CK.CKCOUNT_COUNT u).addr
  | .limit => (CK.CKLIMIT_LIMIT u).addr
  | .tap => (CK.CKCTL_TAP u).addr
  | .poly => (CK.CKCTL_POLY u).addr
  | .mtch => (CK.CKMATCH_MATCH u).addr

/-- A register of a check unit is written whole: only while it is not armed (R411, R421, R423). -/
def checkWrite (u : Nat) (r : CheckReg) (value : Nat) (s : State) : State :=
  let s := dropHeld (ckRegAddr u r) s
  if flag (CK.CKCTL_ARM u) s then regAccessError (ckRegAddr u r) s
  else match r with
  | .run => setRun u (value % 2 ^ ckWidth (getF (CK.CKCTL_POLY u) s)) s
  | .count => setF (CK.CKCOUNT_COUNT u) value s
  | .limit => setF (CK.CKLIMIT_LIMIT u) value s
  | .tap => if value % 32 ≤ 16 then setF (CK.CKCTL_TAP u) value s else regAccessError (ckRegAddr u r) s
  | .poly =>
    let s := setF (CK.CKCTL_POLY u) value s
    setRun u (getF (CK.CKRUN_RUN u) s % 2 ^ ckWidth (value % 4)) s
  | .mtch => setF (CK.CKMATCH_MATCH u) value s

/-- CHECK_STATE_WRITE (R411, R412, R421, R423). -/
def execCheckStateWrite (u : CheckNo) (r : CheckReg) (value : Nat) (s : State) : Host.Outcome State Fault Refusal :=
  .next (ckWrite u (checkWrite u r value) s)

end Sys2Proof.Machine
end

