-- ==== Sys2Proof/Machine/Sweep.lean ====
section
/-! DEFINITION. The update sweep (R424 to R443): the sweep table, shards, step tags, the optimisers, commits and the steering of layers. -/

namespace Sys2Proof.Machine

/-! The sweep table (R424). -/

def swEntries (s : State) : List (List Byte) :=
  match s.image with
  | some im => im.sweeps.map (fun p => p.2)
  | none => []
def swWH (b : List Byte) : Nat := leAt b 0 4
def swWWH (b : List Byte) : Nat := leAt b 4 4
def swGH (b : List Byte) : Nat := leAt b 8 4
def swM1H (b : List Byte) : Nat := leAt b 12 4
def swM2H (b : List Byte) : Nat := leAt b 16 4
def swM3H (b : List Byte) : Nat := leAt b 20 4
def swDGH (b : List Byte) : Nat := leAt b 24 4
def swOPT (b : List Byte) : Nat := leAt b 28 1
def swKIND (b : List Byte) : Nat := leAt b 29 1
def swLayer (b : List Byte) (s : State) : Nat := (tensorAt (swWH b) s).layer
/-- Handles that an entry names. -/
def swHandles (b : List Byte) : List Nat :=
  [swWH b, swWWH b, swGH b, swM1H b, swM2H b, swM3H b, swDGH b].filter (fun h => decide (h ≠ 0))

/-! Shards (R425, R426). -/

def shardDims (t : Tensor) : List Nat := [ceilDiv (extOf t 0) 128, ceilDiv (extOf t 1) 128, extOf t 2, extOf t 3]
def shardCount (t : Tensor) : Nat := prodList (shardDims t)
/-- Coordinates of a shard's first element, and its extents in d0 and d1. -/
def shardOrg (t : Tensor) (i : Nat) : List Nat :=
  let c := unRowMajor (shardDims t) i
  [c.getD 0 0 * 128, c.getD 1 0 * 128, c.getD 2 0, c.getD 3 0]
def shardExt (t : Tensor) (i : Nat) : List Nat :=
  let o := shardOrg t i
  [min 128 (extOf t 0 - o.getD 0 0), min 128 (extOf t 1 - o.getD 1 0), 1, 1]
/-- Coordinates of a shard's elements in row-major order. -/
def shardCoords (t : Tensor) (i : Nat) : List (List Nat) :=
  (allCoords (shardExt t i)).map (fun x => (x.zip (shardOrg t i)).map (fun p => p.1 + p.2))
/-- Panes of a tensor that a shard touches. -/
def shardPanes (t root : Tensor) (i : Nat) : List Nat :=
  panesCovering t root (shardOrg t i) (((shardOrg t i).zip (shardExt t i)).map (fun p => p.1 + p.2 - 1))

/-- Pane and half of a pane that hold the tag of a shard (R426). -/
def tagPlace (t : Tensor) (i : Nat) : Nat × Nat :=
  let (pane, y) := locate t (shardOrg t i)
  (pane, if tagFmt t.fmt = 2 then y.getD 0 0 / 128 else 0)

/-- STEPTAG of a pane: 0 for one that holds no data or cannot be read (R426, R281). -/
def stepTag (t : Tensor) (pane : Nat) (s : State) : Nat :=
  match paneLoc t.handle pane s with
  | none => 0
  | some l => if unitOpen l.unit s then (readSlot t pane l s).step else 0

/-- The tag of a shard (R426). -/
def shardTag (t : Tensor) (i : Nat) (s : State) : Nat := let (pane, h) := tagPlace t i; bitsOf (stepTag t pane s) (32 * h) 32

/-- Write STEPTAG of a pane that holds data, in a unit that is OPEN (R281, R426): its metadata and CRC, and no codeword of its data. -/
def putStepTag (t : Tensor) (pane v : Nat) (s : State) : State :=
  match paneLoc t.handle pane s with
  | none => s
  | some l =>
    if !unitOpen l.unit s then s
    else
      let p := readSlot t pane l s
      memPutCells (locAddr l) 66560 (paneCells t pane p.data p.poison p.tadj v) s

/-- STEPTAG with the tag of a shard in its half. -/
def withShardTag (t : Tensor) (i v old : Nat) : Nat :=
  if (tagPlace t i).2 = 0 then old / 2 ^ 32 * 2 ^ 32 + v else v * 2 ^ 32 + old % 2 ^ 32

/-- Write the tag of a shard. -/
def putShardTag (t : Tensor) (i v : Nat) (s : State) : State :=
  let pane := (tagPlace t i).1
  putStepTag t pane (withShardTag t i v (stepTag t pane s)) s

/-! The SWEEP descriptor (R432). -/

def spSTEP (d : Desc) : Nat := dfield d 0x10 0 32
def spLFIRST (d : Desc) : Nat := dfield d 0x14 0 16
def spLLAST (d : Desc) : Nat := dfield d 0x16 0 16
def spLRMUL (d : Desc) : Nat := dfield d 0x18 0 32
def spBC1 (d : Desc) : Nat := dfield d 0x1C 0 32
def spBC2 (d : Desc) : Nat := dfield d 0x20 0 32
def spSFLUSH (d : Desc) : Bool := decide (dfield d 0x3C 0 1 = 1)
def spZEROG (d : Desc) : Bool := decide (dfield d 0x3C 1 1 = 1)
def spDIGEST (d : Desc) : Bool := decide (dfield d 0x3C 2 1 = 1)

/-- A sweep unit (R433): its entry; what it is: 0 a pane of the row factor, 1 of the column factor, 2 shards, 3 a zero-only shard; its
panes or shards, each with the number of its record. -/
structure SwUnit where
  ent : Nat
  kind : Nat
  items : List (Nat × Nat)
deriving DecidableEq, Repr

/-- Entries of a SWEEP: in the range of layers, WH not remote (R433). -/
def swRange (d : Desc) (s : State) : List (Nat × List Byte) :=
  (indexFrom 0 (swEntries s)).filter (fun p => decide (spLFIRST d ≤ swLayer p.2 s) && decide (swLayer p.2 s ≤ spLLAST d)
    && isLocal (tensorAt (swWH p.2) s) s)

/-- The factor units of a SWEEP (R433). -/
def swFactorUnits (d : Desc) (s : State) : List SwUnit :=
  (swRange d s).flatMap (fun p =>
    if swKIND p.2 = 3 then
      (List.range (paneCount (tensorAt (swM2H p.2) s))).map (fun i => ⟨p.1, 0, [(i, 0)]⟩)
      ++ (List.range (paneCount (tensorAt (swM3H p.2) s))).map (fun i => ⟨p.1, 1, [(i, 0)]⟩)
    else [])

/-- Add a shard to the unit before it: the second shard of one GF16 moment pane (R433). -/
def joinUnit (i k : Nat) : List SwUnit → List SwUnit
  | [] => []
  | [u] => [{ u with items := u.items ++ [(i, k)] }]
  | u :: t => u :: joinUnit i k t

/-- The shard units of one entry, records numbered from `k`. -/
def entryUnits (zerog : Bool) (n : Nat) (b : List Byte) (k : Nat) (s : State) : List SwUnit × Nat :=
  let wh := tensorAt (swWH b) s
  let paired := decide (tagFmt (tensorAt (swM1H b) s).fmt = 2)
  (List.range (shardCount wh)).foldl (fun acc i =>
    if localPane wh i s then
      (if paired && decide ((unRowMajor (shardDims wh) i).getD 0 0 % 2 = 1) then joinUnit i acc.2 acc.1 else acc.1 ++ [⟨n, 2, [(i, acc.2)]⟩],
       acc.2 + 1)
    else if zerog then (acc.1 ++ [⟨n, 3, [(i, 0)]⟩], acc.2)
    else acc) ([], k)

/-- The shard units of a SWEEP, and its local shards (R433, R437). -/
def swShardUnits (d : Desc) (s : State) : List SwUnit × Nat :=
  (swRange d s).foldl (fun acc p => let (us, k) := entryUnits (spZEROG d) p.1 p.2 acc.2 s; (acc.1 ++ us, k)) ([], 0)

/-- OPEN DRAM channels (R437). -/
def recChans (s : State) : List Nat := tierUnits 1 s

/-- Key of a record, and the record (R437). -/
def recKey (k : Nat) (s : State) : Nat :=
  let d := recChans s
  let n := max 1 d.length
  d.getD (k % n) 0 * 2 ^ 21 + k / n
def recInit : SweepRec := ⟨0, 0, 0, 0, 0, false, false⟩
def recAt (k : Nat) (s : State) : SweepRec := assocGet recInit s.sweepRecs (recKey k s)

/-- The checks of R438. -/
def sweepChecks (e : InFlight) (s : State) : List (Nat × Nat × Bool) :=
  let d := e.desc
  [(1, stFieldInvalid, decide (dfield d 0x24 0 192 ≠ 0) || decide (dfield d 0x3C 3 29 ≠ 0) || decide (spSTEP d = 0)
      || decide (spLLAST d < spLFIRST d) || decide (8191 < spLLAST d)),
   (2, stSweepNoJournal, decide (recChans s = [])),
   (3, stSweepTooLarge, decide (1310720 * (recChans s).length < (swShardUnits d s).2)),
   (4, stQuotaExceeded, (swRange d s).any (fun p => (swHandles p.2).any (fun h => (homeOf (tensorAt h s) s).isNone)))]

/-! Division (R434). -/

/-- Cores of a casement's members in order. -/
def memberCores (port : Nat) (s : State) : List Nat := (partsFor port (2 ^ 30) s).map (fun p => p.core)

/-- Run of a core in a division of units. -/
def runOf (ps : List Part) (core : Nat) : Nat × Nat :=
  match ps.find? (fun p => decide (p.core = core)) with
  | some p => (p.lo, p.hi)
  | none => (0, 0)

/-- A member's part on the engine of its core's cluster; a part for a core or lintel that is not OPEN ends at once (R281, R434). -/
def enginePart (core lo hi : Nat) (s : State) : Part :=
  if isOpen core s && isOpen (32 + core / 8) s then ⟨32 + core / 8, lo, hi, .running, 0, 0, 0⟩
  else ⟨32 + core / 8, lo, hi, .ended, stUnitClosed, 0, 0⟩

/-- Digests of working-weight shards are due (R446). -/
def digestDue (e : InFlight) (b : List Byte) (s : State) : Bool :=
  let every := getF TRN.DGEVERY_EVERY s
  spDIGEST e.desc && decide (every ≠ 0) && decide (spSTEP e.desc % every = 0) && decide (swWWH b ≠ 0) && decide (swDGH b ≠ 0)

/-- The tensors that a SWEEP writes (R424, R429, R433, R446). -/
def sweepWrites (e : InFlight) (s : State) : List Tensor :=
  (swRange e.desc s).flatMap (fun p =>
    let b := p.2
    ([swM1H b] ++ (if swKIND b = 0 then [] else [swM2H b]) ++ (if swKIND b = 3 then [swM3H b] else []) ++ [swWH b, swWWH b]
      ++ (if digestDue e b s then [swDGH b] else []) ++ (if spZEROG e.desc then [swGH b] else [])).filterMap (fun h =>
        if h = 0 then none else tensorOf h s))

/-- A SWEEP begins (R427, R433, R434, R436, R465): its engines copy what their journal holds, and it samples the optimiser sets and λ.
Where a closed member has factor units, no part can come to its shards, and all end (log 72). -/
def startSweep (e : InFlight) (s : State) : State :=
  let s := forEach [0, 1, 2, 3] replayGroups s
  let fs := (swFactorUnits e.desc s).length
  let ns := (swShardUnits e.desc s).1.length
  let fp := partsFor e.port fs s
  let sp := partsFor e.port ns s
  let cores := (memberCores e.port s).filter (fun n => decide ((runOf fp n).1 < (runOf fp n).2) || decide ((runOf sp n).1 < (runOf sp n).2))
  let s := setF TRN.SWSKIP_COUNT 0 (setF TRN.SWHALF_COUNT 0 (setF TRN.SWTAGBAD_COUNT 0 s))
  if cores = [] then finish e stOk 0 0 0 s
  else
    let job : SweepJob := ⟨e.id, (List.range 128).map (fun i => getF (TRN.OPT_VALUE i) s), s.hist,
      cores.map (fun n => ⟨n / 8, (runOf fp n).1, (runOf fp n).2, (runOf sp n).1, (runOf sp n).2, none⟩), decide (fs = 0), [], [], [], []⟩
    let s := { s with sweeps := s.sweeps ++ [job] }
    let s := if (swRange e.desc s).any (fun p => digestDue e p.2 s) then
        forEach ((cores.map (fun n => n / 8)).eraseDups) (armCheck e.id) s else s
    let ps := cores.map (fun n => (enginePart n (runOf sp n).1 (runOf sp n).2 s, decide ((runOf fp n).1 < (runOf fp n).2)))
    let stuck := ps.any (fun p => p.2 && decide (p.1.st = .ended))
    let closed (p : Part) : Part := { p with st := .ended, status := stUnitClosed }
    setFlight e.id (fun x => { x with parts := ps.map (fun p => if stuck then closed p.1 else p.1), st := .running }) s

/-- A SWEEP enters flight (R438): every pane that it will write is charged and allocated, or none is, with the last check's number
(R64, R269). DEDUCED: R438 names no status for a charge that fails (log 265). -/
def beginSweep (e : InFlight) (s : State) : State :=
  validated e (sweepChecks e s) (fun s => match chargeAll (sweepWrites e s) s with
    | (s, 0) => startSweep e s
    | (s, st) => failCheck e st 4 s) s

/-- SWEEP (R432 to R438). -/
def execSweep (q : QueueNo) (d : Desc) (s : State) : Host.Outcome State Fault Refusal :=
  .next (takeRing q (withOpcode 5 d) beginSweep s)

/-! Arithmetic in binary32 (R428): a value with the flags of everything that has entered it. -/

abbrev FV := Num × Nat

def fMul (a b : FV) : FV := let (v, f) := mulX a.1 b.1; (v, a.2 ||| b.2 ||| f)
def fAdd (a b : FV) : FV := let (v, f) := addX .rne a.1 b.1; (v, a.2 ||| b.2 ||| f)
def fNeg (a : FV) : FV := (negX a.1, a.2)
def r32 (flush : Bool) (a : FV) : FV := let (v, f) := wround 0 .rne flush a.1; (v, a.2 ||| f)
def fDiv (flush : Bool) (a b : FV) : FV := let (v, f) := vDiv 0 .rne flush a.1 b.1; (v, a.2 ||| b.2 ||| f)
def fSqrt (flush : Bool) (a : FV) : FV := let (v, f) := vSqrt 0 .rne flush a.1; (v, a.2 ||| f)
/-- A binary32 word taken exactly as written (R428). -/
def fWord (w : Nat) : FV := readFlush false (decodeBits 0 127 w)
def fOne : FV := (.fin false 1 0, 0)

/-- What an entry's arithmetic takes from the SWEEP (R427, R428). -/
structure SwConst where
  flush : Bool
  b1 : FV
  b2 : FV
  eps : FV
  wd : FV
  gmul : FV
  eps2 : FV
  clip : Nat
  bc1 : FV
  bc2 : FV
  c1 : FV
  c2 : FV
  etas : FV
  lam : Int
deriving DecidableEq, Repr

/-- LRSCALE of a scale-history entry (R204). -/
def lamOf (entry : Nat) : Int := ofTwos 8 (bitsOf entry 48 8)

def swConst (e : InFlight) (j : SweepJob) (b : List Byte) (s : State) : SwConst :=
  let flush := spSFLUSH e.desc
  let o (w : Nat) : FV := fWord (j.opts.getD (8 * swOPT b + w) 0)
  let lam := lamOf (assocGet 0 j.hist (swLayer b s))
  let eta := r32 flush (fMul (o 0) (fWord (spLRMUL e.desc)))
  ⟨flush, o 1, o 2, o 3, o 4, o 5, o 6, j.opts.getD (8 * swOPT b + 7) 0, fWord (spBC1 e.desc), fWord (spBC2 e.desc),
   r32 flush (fAdd fOne (fNeg (o 1))), r32 flush (fAdd fOne (fNeg (o 2))),
   r32 flush (fMul eta (.fin false 1 lam, 0)), lam⟩

/-- store() (R428): bits in the moment format, and the value as stored. -/
def fStore (fmt : Nat) (flush : Bool) (a : FV) : Nat × FV :=
  let (b, f) := encode (tagFmt fmt) flush a.1
  (b, ((decodeBits (tagFmt fmt) 127 b).num, a.2 ||| f))

/-- gs and gh (R429). -/
def swGs (c : SwConst) (g : FV) : FV := r32 c.flush (fMul c.gmul g)
def swGh (kind : Nat) (c : SwConst) (g w : FV) : FV :=
  if kind ≤ 1 then r32 c.flush (fAdd (fMul c.wd w) (swGs c g)) else swGs c g

/-- u0 of KIND 3 (R429): `rf` and `cf` are the stored new factors of the element, `sc` is s. -/
def swU0 (c : SwConst) (gh rf cf sc : FV) : FV :=
  let vh := r32 c.flush (fDiv c.flush (r32 c.flush (fMul rf cf)) sc)
  let den := r32 c.flush (fAdd (fSqrt c.flush (r32 c.flush (fMul vh c.bc2))) c.eps)
  let u := fDiv c.flush gh den
  if c.clip = 0 then u
  else
    let k := fWord c.clip
    (vMax (negX k.1) (vMin k.1 u.1), u.2 ||| k.2)

/-- m' of an element: its bits, with flags (R429). -/
def swMoment (kind fmt : Nat) (c : SwConst) (gh m u0 : FV) : Nat × FV :=
  fStore fmt c.flush (r32 c.flush (fAdd (fMul c.b1 m)
    (if kind = 0 then gh else if kind = 3 then fMul c.c1 u0 else fMul c.c1 gh)))

/-- v' of an element (R429). -/
def swSecond (fmt : Nat) (c : SwConst) (gh v : FV) : Nat × FV :=
  fStore fmt c.flush (r32 c.flush (fAdd (fMul c.b2 v) (fMul (fMul c.c2 gh) gh)))

/-- The weight half (R429): delta and w'. -/
def swWeight (kind : Nat) (c : SwConst) (w m v : FV) : FV × FV :=
  let u :=
    if kind = 0 then m
    else if kind = 3 then r32 c.flush (fMul m c.bc1)
    else
      let den := r32 c.flush (fAdd (fSqrt c.flush (r32 c.flush (fMul v c.bc2))) c.eps)
      fDiv c.flush (r32 c.flush (fMul m c.bc1)) den
  let d := if kind ≤ 1 then u else r32 c.flush (fAdd (fMul c.wd w) u)
  let delta := r32 c.flush (fMul c.etas d)
  (delta, r32 c.flush (fAdd w (fNeg (fMul delta (.fin false 1 (-c.lam), 0)))))

/-! Reading and writing shards. -/

/-- Working copies of sweep engine `c`. -/
def swCore (c : Nat) : Nat := 32 + c

/-- Read panes of a tensor into sweep staging (R275, R282). -/
def swStage (c owner : Nat) (t : Tensor) (panes : List Nat) (s : State) : State :=
  forEach panes (fun i s =>
    if (stagedPane (swCore c) owner t.handle i s).isSome then s
    else
      let (p, s) := moverRead t i (peep 3 c 2 66560 (peepPort t.handle i 66560 s))
      upsertCopy (swCore c) owner t.handle i (fun k => { k with staged := some p }) s) s

/-- Sweep staging is given back. -/
def swUnstage (c owner : Nat) (s : State) : State :=
  { s with copies := s.copies.filter (fun k => !(decide (k.core = swCore c) && decide (k.owner = owner))) }

/-- An element as the engine reads it: value with flags, and poison (R431). -/
def swRead (c owner : Nat) (t : Tensor) (flush : Bool) (x : List Nat) (s : State) : FV × Bool :=
  let (d, bad) := fetchDecoded (swCore c) owner t t x s
  if bad then ((.nan, 0), true) else (readFlush flush d, false)

/-- Write the working copies of a list of tensors back: the first status that stands in a write's way (R252, R281). -/
def swFlush (c owner : Nat) (hs : List Nat) (s : State) : State × Nat :=
  (s.copies.filter (fun k => decide (k.core = swCore c) && decide (k.owner = owner) && hs.contains k.handle && unsaved k)).foldl
    (fun a w =>
      let (s, st) := storeCopy w a.1
      (cleanCopy w s, if a.2 = 0 then st else a.2)) (s, 0)

/-- A working copy as it goes into the journal, entry `k` of engine `c`, with its new STEPTAG; nothing where it cannot be written. -/
def journalPane (c k : Nat) (tag : Tensor → Nat → Nat) (w : WorkCopy) (s : State) : State × List JournalPane × Nat :=
  let root := tensorAt w.handle s
  match slotForWrite w s with
  | (none, s, st) => (s, [], st)
  | (some l, s, _) =>
    let (s, p, _) := mergeCopy root w l s
    (s, [⟨(recChans s).headD 0, 63 * c + k, l, paneCells root w.pane p.data p.poison p.tadj (tag root p.step)⟩], 0)

/-- Commit the panes of a list of tensors with their tags, and a record, as one group (R436): all of them stand valid in the journal, or
none when one cannot be written. Engine `c` owns 63 entries of a channel, and clears a group before its next one (log 64). -/
def commitGroup (c owner : Nat) (hs : List Nat) (tag : Tensor → Nat → Nat) (record : Option (Nat × SweepRec)) (s : State) : State × Nat :=
  let s := replayGroups c s
  let ws := s.copies.filter (fun k => decide (k.core = swCore c) && decide (k.owner = owner) && hs.contains k.handle && unsaved k)
  let r := ws.foldl (fun (a : State × List JournalPane × Nat) w =>
    if a.2.2 ≠ 0 then a
    else
      let (s, ps, st) := journalPane c a.2.1.length tag w a.1
      (s, a.2.1 ++ ps, st)) (s, [], 0)
  if r.2.2 ≠ 0 then (r.1, r.2.2) else ({ r.1 with journal := r.1.journal ++ [⟨c, r.2.1, record⟩] }, 0)

/-- Part of a SWEEP that runs unit `u` on engine `c`. -/
def jobOf (id : Nat) (s : State) : Option SweepJob := s.sweeps.find? (fun j => decide (j.id = id))
def setJob (id : Nat) (f : SweepJob → SweepJob) (s : State) : State := { s with sweeps := updateWhere (fun j => decide (j.id = id)) f s.sweeps }

/-- Trace record of class SWEEP (R708). -/
def sweepTrace (c event handle shard : Nat) (s : State) : State := trace 9 event (64 + c) c (handle + shard * 2 ^ 32) s

/-! The factor phase (R430, R435). -/

/-- The rows and columns of a master weight (R424), and coordinates of one. -/
def swRows (t : Tensor) : Nat := extOf t 1 * extOf t 2 * extOf t 3
def swCols (t : Tensor) : Nat := extOf t 0
def atRowCol (t : Tensor) (i j : Nat) : List Nat := j :: unRowMajor (t.ext.drop 1) i
def rowOfCoords (t : Tensor) (x : List Nat) : Nat := rowMajor (x.drop 1) (t.ext.drop 1)

/-- Flags of a reduction (R222). -/
def treeFlags (l : LFlags) : Nat := l.foldl (fun a f => a ||| f.2) 0

/-- r32(reduce over a line of gh² + eps2, over its length): with flags and poison. -/
def factorMean (c : SwConst) (gs : List (FV × Bool)) : FV × Bool :=
  let sq := gs.map (fun g => r32 c.flush (fAdd (fMul g.1 g.1) c.eps2))
  let (v, fs) := reduceTree .sum 0 c.flush (sq.map (fun x => some x.1))
  let (q, f) := vDiv 0 .rne c.flush v (.fin false gs.length 0)
  ((q, f ||| treeFlags fs ||| sq.foldl (fun a x => a ||| x.2) 0), gs.any (fun g => g.2))

/-- Compute a pane of a factor and commit it (R430, R436). -/
def factorPane (c : Nat) (e : InFlight) (k : SwConst) (b : List Byte) (row : Bool) (i : Nat) (s : State) : State × Nat × Nat :=
  let wh := tensorAt (swWH b) s
  let g := tensorAt (swGH b) s
  let t := tensorAt (if row then swM2H b else swM3H b) s
  let o := (paneCoords t i).getD 0 0 * 128
  let n := min 128 (extOf t 0 - o)
  let (s, flags, bad) := (List.range n).foldl (fun acc p =>
    let line := if row then (List.range (swCols wh)).map (fun j => atRowCol wh (o + p) j)
      else (List.range (swRows wh)).map (fun r => atRowCol wh r (o + p))
    let gs := line.map (fun x => let (v, bad) := swRead c e.id g k.flush x acc.1; (swGs k v, bad))
    let (a, badG) := factorMean k gs
    let (old, badF) := swRead c e.id t k.flush [o + p, 0, 0, 0] acc.1
    let v := r32 k.flush (fAdd (fMul k.b2 old) (fMul k.c2 a))
    let bad := badG || badF
    (putElem (swCore c) e.id t t [o + p, 0, 0, 0] (if bad then canonNan 0 else (encode 0 false v.1).1) 0 bad acc.1,
     acc.2.1 ||| v.2, acc.2.2 || bad)) (s, 0, false)
  let (s, st) := commitGroup c e.id [t.handle] (fun _ _ => spSTEP e.desc + flags % 65536 * 2 ^ 32) none s
  let s := if st = 0 then peep 3 c 4 1 (replayGroups c s) else s
  (s, if st ≠ 0 then st else if bad then stPoisonRead else 0, flags)

/-- Count a tag mismatch (R435, R465). -/
def tagBad (s : State) : State := satF TRN.SWTAGBAD_COUNT 1 s

/-- A factor unit (R435): state, status and flags. -/
def factorUnit (c : Nat) (e : InFlight) (k : SwConst) (n : Nat) (b : List Byte) (row : Bool) (i : Nat) (s : State) : State × Nat × Nat :=
  let t := tensorAt (if row then swM2H b else swM3H b) s
  let tag := stepTag t i s
  if tag % 2 ^ 32 = spSTEP e.desc then (s, 0, bitsOf tag 32 16)
  else if tag % 2 ^ 32 = spSTEP e.desc - 1 then
    let g := tensorAt (swGH b) s
    factorPane c e k b row i (swStage c e.id t [i] (swStage c e.id g (List.range (paneCount g)) s))
  else (setJob e.id (fun j => { j with bad := n :: j.bad }) (tagBad s), stSweepTagMismatch, 0)

/-- s of R430 from the stored row factor: with flags and poison. -/
def factorScale (c : Nat) (e : InFlight) (k : SwConst) (b : List Byte) (s : State) : FV × Bool :=
  let t := tensorAt (swM2H b) s
  let xs := (List.range (extOf t 0)).map (fun i => swRead c e.id t k.flush [i, 0, 0, 0] s)
  let (v, fs) := reduceTree .sum 0 k.flush (xs.map (fun x => some x.1.1))
  let (q, f) := vDiv 0 .rne k.flush v (.fin false xs.length 0)
  ((q, f ||| treeFlags fs ||| xs.foldl (fun a x => a ||| x.1.2) 0), xs.any (fun x => x.2))

/-! Shards (R435 to R437). -/

/-- What R435 does with a shard. -/
inductive SwAct where
  | skip
  | half
  | full
  | bad
deriving DecidableEq, Repr

def shardAct (step : Nat) (b : List Byte) (i : Nat) (s : State) : SwAct :=
  let tw := shardTag (tensorAt (swWH b) s) i s
  let tm := shardTag (tensorAt (swM1H b) s) i s
  if tw = step ∧ tm = step then .skip
  else if tw = step - 1 ∧ tm = step then .half
  else if tw = step - 1 ∧ tm = step - 1 then .full
  else .bad

/-- Second moment tensor of an entry with one. -/
def swSecondT (b : List Byte) (s : State) : Option Tensor := if swKIND b = 1 ∨ swKIND b = 2 then some (tensorAt (swM2H b) s) else none

/-- Stage what the units of an entry read of a shard. -/
def stageShard (c owner : Nat) (b : List Byte) (i : Nat) (s : State) : State :=
  let st (h : Nat) (s : State) : State := let t := tensorAt h s; swStage c owner t (shardPanes t t i) s
  let s := st (swWH b) (st (swGH b) (st (swM1H b) s))
  if swKIND b = 1 ∨ swKIND b = 2 then st (swM2H b) s
  else if swKIND b = 3 then
    let all (h : Nat) (s : State) : State := let t := tensorAt h s; swStage c owner t (List.range (paneCount t)) s
    all (swM2H b) (all (swM3H b) s)
  else s

/-- Compute and commit the moments of a shard with its moment record (R429, R436, R437): the status. The group stays valid in the journal
until the engine's next commit or command. -/
def shardMoments (c : Nat) (e : InFlight) (k : SwConst) (b : List Byte) (i rec1 : Nat) (s : State) : State × Bool × Nat :=
  let kind := swKIND b
  let step := spSTEP e.desc
  let s := stageShard c e.id b i s
  let wh := tensorAt (swWH b) s
  let g := tensorAt (swGH b) s
  let m := tensorAt (swM1H b) s
  let rf := tensorAt (swM2H b) s
  let cf := tensorAt (swM3H b) s
  let (sc, badS) := if kind = 3 then factorScale c e k b s else ((.nan, 0), false)
  let (s, flags, bad) := (shardCoords wh i).foldl (fun acc x =>
    let rd (t : Tensor) (x : List Nat) : FV × Bool := swRead c e.id t k.flush x acc.1
    let (gv, badG) := rd g x
    let (wv, badW) := if kind ≤ 1 then rd wh x else ((.nan, 0), false)
    let (mv, badM) := rd m x
    let gh := swGh kind k gv wv
    let (u0, badU) :=
      if kind = 3 then
        let (r, br) := rd rf [rowOfCoords wh x, 0, 0, 0]
        let (q, bq) := rd cf [x.getD 0 0, 0, 0, 0]
        (swU0 k gh r q sc, badS || br || bq)
      else (gh, false)
    let bad := badG || badW || badM || badU
    let (mb, mf) := swMoment kind m.fmt k gh mv u0
    let s := putElem (swCore c) e.id m m x (if bad then canonNan (tagFmt m.fmt) else mb) 0 bad acc.1
    match swSecondT b s with
    | none => (s, acc.2.1 ||| mf.2, acc.2.2 || bad)
    | some t =>
      let (vv, badV) := swRead c e.id t k.flush x acc.1
      let (vb, vf) := swSecond t.fmt k gh vv
      let badX := badG || badW || badV
      (putElem (swCore c) e.id t t x (if badX then canonNan (tagFmt t.fmt) else vb) 0 badX s, acc.2.1 ||| mf.2 ||| vf.2, acc.2.2 || bad || badX))
    (s, 0, false)
  let ms := m.handle :: (match swSecondT b s with
    | some t => [t.handle]
    | none => [])
  let (s, st) := commitGroup c e.id ms (fun t old => withShardTag t i step old)
    (some (recKey rec1 s, ⟨0, 0, 0, step, flags % 256, false, true⟩)) s
  if st ≠ 0 then (swUnstage c e.id s, false, st)
  else (swUnstage c e.id (sweepTrace c 0 wh.handle i (peep 3 c 4 1 s)), true, if bad then stPoisonRead else 0)

/-- Blocks of a block-format tensor that lie in a shard: coordinates of the first element, length (R109, R429). -/
def shardBlocks (t : Tensor) (i : Nat) : List (List Nat × Nat) :=
  ((shardCoords t i).map (blockOf t)).eraseDups

/-- Write a shard's new values into the working weight (R429): flags. -/
def putWorking (c owner : Nat) (flush : Bool) (t : Tensor) (i : Nat) (val : List Nat → Num × Bool) (s : State) : State × Nat :=
  let fmt := tagFmt t.fmt
  if isBlockTag t.fmt then
    (shardBlocks t i).foldl (fun a k =>
      let vs := (List.range k.2).map (fun n => val (stepCoord k.1 t.baxis n))
      let (sc, es, f) := encodeBlock fmt flush (vs.map (fun v => v.1))
      let bad := vs.any (fun v => v.2)
      (putBlock (swCore c) owner t k.1 (if bad then 255 else sc) (if bad then List.replicate k.2 (0, 0) else es.map (fun b => (b, 0))) bad a.1,
       a.2 ||| (if bad then 0 else f))) (s, 0)
  else
    (shardCoords t i).foldl (fun a x =>
      let v := val x
      let (b, f) := encode fmt flush v.1
      (putElem (swCore c) owner t t x (if v.2 then canonNan fmt else b) 0 v.2 a.1, a.2 ||| (if v.2 then 0 else f))) (s, 0)

/-- The bytes that a digest takes of a shard (R445): of a poisoned one, canonical NaNs or poisoned blocks. `elem` gives an element's
bits and scale byte. -/
def digestBytes (t : Tensor) (i : Nat) (poison : Bool) (elem : List Nat → Nat × Nat) : List Byte :=
  let fmt := tagFmt t.fmt
  let block := isBlockTag t.fmt
  let es := (shardCoords t i).flatMap (fun x =>
    leBytes (fmtBytes t.fmt) (if poison then (if block then 0 else canonNan fmt) else (elem x).1))
  if block then es ++ (shardBlocks t i).map (fun k => BitVec.ofNat 8 (if poison then 255 else (elem k.1).2)) else es

/-- CRC-64/ECMA-182 (R407, R445). -/
def digestOf (bs : List Byte) : Nat := ckCrc 2 bs

/-- The bytes that the digest of a shard takes of its working copy (R446). -/
def writtenBytes (c owner : Nat) (t : Tensor) (i : Nat) (s : State) : List Byte :=
  let at' (x : List Nat) : Nat × List Host.Cell × List Nat :=
    let (pane, y) := locate t x
    (pane, (match copyFor (swCore c) owner t.handle pane s with
      | some k => k.dirty
      | none => []), y)
  let poison := (shardPanes t t i).any (fun p => match copyFor (swCore c) owner t.handle p s with
    | some k => k.poisonOut
    | none => false)
  digestBytes t i poison (fun x => let (_, d, y) := at' x; elemIn t d y)

/-- The change of an element for R442, from w as read: its square, the square of w. -/
def changeTerms (w w' : Num) : Num × Num :=
  let d := (wround 1 .rne false (addX .rne w' (negX w)).1).1
  ((wround 1 .rne false (mulX d d).1).1, (wround 1 .rne false (mulX w w).1).1)

/-- Bits of the magnitude of a finite binary32 value; 0 for any other (R437). -/
def finiteMag (x : Num) : Nat :=
  match x with
  | .fin _ m e => (encode 0 false (.fin false m e)).1
  | _ => 0

/-- Sum a list of binary64 values by the tree of R222, to binary64 bits (R442). -/
def sum64 (l : List Num) : Nat := (encode 1 false (reduceTree .sum 1 false (l.map some)).1).1

/-- A shard of a layer is updated: what the layer's last completion stood for no longer holds (R439). -/
def layerOpen (layer : Nat) (s : State) : State :=
  { s with layerStats := assocModify ⟨0, false, 0, 0, 0⟩ s.layerStats layer (fun x => { x with step := 0 }) }

/-- The weight half of a shard (R429, R436, R437, R446): the status, and the record where the commit was made. `prior` are the flags of its
moment half. -/
def shardWeights (c : Nat) (e : InFlight) (k : SwConst) (b : List Byte) (i rec1 prior : Nat) (s : State) : State × Nat × Option SweepRec :=
  let kind := swKIND b
  let step := spSTEP e.desc
  let s := stageShard c e.id b i s
  let wh := tensorAt (swWH b) s
  let m := tensorAt (swM1H b) s
  let rows := (shardCoords wh i).map (fun x =>
    let rd (t : Tensor) : FV × Bool := swRead c e.id t k.flush x s
    let (w, badW) := rd wh
    let (mv, badM) := rd m
    let (v, badV) := match swSecondT b s with
      | some t => rd t
      | none => ((.nan, 0), false)
    let bad := badW || badM || badV
    let (delta, w') := swWeight kind k w mv v
    let old := (fetchDecoded (swCore c) e.id wh wh x s).1.num
    let new : Num := if bad then .nan else w'.1
    (x, new, bad, w'.2, finiteMag delta.1, changeTerms old new,
      !old.isNan && !new.isNan && decide (cmpNum old new = Ordering.eq)))
  let flags := rows.foldl (fun a r => a ||| r.2.2.2.1) prior
  let bad := rows.any (fun r => r.2.2.1)
  let s := forEach rows (fun r s =>
    putElem (swCore c) e.id wh wh r.1 (if r.2.2.1 then canonNan 0 else (encode 0 false r.2.1).1) 0 r.2.2.1 s) s
  let val (x : List Nat) : Num × Bool := match rows.find? (fun r => decide (r.1 = x)) with
    | some r => (r.2.1, r.2.2.1)
    | none => (.nan, true)
  let ww := tensorAt (swWWH b) s
  let (s, wf) := if swWWH b = 0 then (s, 0) else putWorking c e.id k.flush ww i val s
  let dig := digestDue e b s
  let s := if dig then
      let t := tensorAt (swDGH b) s
      let bs := writtenBytes c e.id ww i s
      putElem (swCore c) e.id t t [i, 0, 0, 0] (digestOf bs) 0 false (feedCheck e.id c ww.handle bs s)
    else s
  let (s, st0) := swFlush c e.id (((if dig then [swDGH b] else []) ++ [swWWH b]).filter (fun h => decide (h ≠ wh.handle))) s
  let r : SweepRec := ⟨sum64 (rows.map (fun r => r.2.2.2.2.2.1.1)), sum64 (rows.map (fun r => r.2.2.2.2.2.1.2)),
    rows.foldl (fun a r => max a r.2.2.2.2.1) 0, step, (flags ||| wf) % 256, rows.all (fun r => r.2.2.2.2.2.2), false⟩
  let (s, st1) := commitGroup c e.id [wh.handle] (fun t old => withShardTag t i step old) (some (recKey rec1 s, r)) s
  if st1 ≠ 0 then (swUnstage c e.id s, st1, none)
  else
    let s := layerOpen wh.layer (sweepTrace c 1 wh.handle i (peep 3 c 4 1 (replayGroups c s)))
    (swUnstage c e.id s, if st0 ≠ 0 then st0 else if bad then stPoisonRead else 0, some r)

/-- Write +0 to a shard of GH (R433, R435): the status. -/
def zeroShard (c : Nat) (e : InFlight) (b : List Byte) (i : Nat) (s : State) : State × Nat :=
  let g := tensorAt (swGH b) s
  let s := forEach (shardCoords g i) (fun x s => putElem (swCore c) e.id g g x 0 0 false s) s
  let (s, st) := swFlush c e.id [g.handle] s
  (swUnstage c e.id s, st)

/-- Keep the status that stands first. -/
def firstStatus (a b : Nat) : Nat := if a ≠ 0 then a else b

/-- Statistics of a shard are lost (R437), with a record of the sweep engine that names the weight and the shard (R736, log 212). -/
def loseStats (c : Nat) (b : List Byte) (i : Nat) (s : State) : State :=
  errRecord clsTraining 1 (64 + c) 0 noUnit [swWH b, i] (setF TRN.STAT_STATLOST 1 s)

/-- The weight half of a shard's turn, a skip or a mismatch (R435): `mid` says that its moments were committed just before. DESIGN CHOICE
(log 264): a shard with a commit that could not be made keeps its shard of GH too, and contributes no statistics. -/
def finishShard (c : Nat) (e : InFlight) (k : SwConst) (b : List Byte) (mid : Bool) (i rec1 : Nat) (s : State) : State × Nat × Nat :=
  let step := spSTEP e.desc
  let act := if mid then .half else shardAct step b i s
  let note (r : Option SweepRec) (s : State) : State := setJob e.id (fun j => { j with results := j.results ++ [(rec1, r)] }) s
  let zeroed (r : State × Nat × Nat) : State × Nat × Nat :=
    if spZEROG e.desc then let (s, st) := zeroShard c e b i r.1; (s, firstStatus r.2.1 st, r.2.2) else r
  let r := recAt rec1 s
  match act with
  | .skip =>
    let s := sweepTrace c 2 (swWH b) i (satF TRN.SWSKIP_COUNT 1 s)
    if r.step = step ∧ r.moment = false then zeroed (note (some r) s, 0, r.flags)
    else zeroed (note none (loseStats c b i s), 0, 0)
  | .bad => (note none (tagBad s), stSweepTagMismatch, 0)
  | .full => (note none s, 0, 0)
  | .half =>
    let known := decide (r.step = step) && r.moment
    let s := if mid then s else satF TRN.SWHALF_COUNT 1 (if known then s else loseStats c b i s)
    match shardWeights c e k b i rec1 (if known then r.flags else 0) s with
    | (s, st, some r') => zeroed (note (some r') s, st, r'.flags)
    | (s, st, none) => (note none s, st, 0)

/-! Units and parts (R434, R435). -/

/-- The next unit of a part: its number in the factor or shard list. -/
def nextUnit (j : SweepJob) (p : SweepPart) : Option (Bool × Nat) :=
  if p.fpos < p.fend then some (true, p.fpos)
  else if j.shards && decide (p.spos < p.send) then some (false, p.spos)
  else none

/-- Part `n` of a SWEEP gathers status and flags, and ends after its last unit (R58, R462). -/
def sweepGather (id n status flags : Nat) (s : State) : State :=
  let s := orPart id n status flags 0 s
  match jobOf id s with
  | none => s
  | some j =>
    match j.parts[n]? with
    | none => s
    | some p =>
      if p.fpos < p.fend ∨ p.spos < p.send ∨ p.mid.isSome = true then s
      else
        let f : Nat := match flight id s with
          | some e => (match e.parts[n]? with
            | some x => x.flags
            | none => 0)
          | none => 0
        let sticky := [(0, TRN.SWFLAGS_INVALID), (1, TRN.SWFLAGS_DIVIDE_BY_ZERO), (2, TRN.SWFLAGS_OVERFLOW), (3, TRN.SWFLAGS_UNDERFLOW),
          (4, TRN.SWFLAGS_INEXACT), (5, TRN.SWFLAGS_FLUSH_IN), (6, TRN.SWFLAGS_FLUSH_OUT)]
        endPart id n 0 0 0 (setSticky sticky f s)

/-- Change one part of a SWEEP. -/
def setSwPart (id n : Nat) (f : SweepPart → SweepPart) (s : State) : State :=
  setJob id (fun j => { j with parts := (indexFrom 0 j.parts).map (fun x => if x.1 = n then f x.2 else x.2) }) s

/-- A part has done a unit. -/
def unitDone (c id n : Nat) (factor : Bool) (u status flags : Nat) (s : State) : State :=
  let s := setSwPart id n (fun p => if factor then { p with fpos := p.fpos + 1 } else { p with spos := p.spos + 1, mid := none }) s
  let s := setJob id (fun j => { j with ahead := j.ahead.filter (fun x => decide (x ≠ u)) }) s
  sweepGather id n status flags (peep 3 c 3 1 s)

/-- Process the next unit of part `n` (R435): what the journal holds is copied first; a unit with shards to update in full takes two
commands, its moment commits and then the rest (log 64). -/
def runUnit (c : Nat) (e : InFlight) (j : SweepJob) (n : Nat) (p : SweepPart) (factor : Bool) (u : Nat) (s : State) : State :=
  let s := replayGroups c s
  let units := if factor then swFactorUnits e.desc s else (swShardUnits e.desc s).1
  match units[u]? with
  | none => s
  | some x =>
    let b := (swEntries s).getD x.ent []
    let k := swConst e j b s
    let s := peep 3 c 1 66560 s
    if factor then
      let (s, st, f) := factorUnit c e k x.ent b (decide (x.kind = 0)) (x.items.headD (0, 0)).1 s
      unitDone c e.id n true u st f (swUnstage c e.id s)
    else if j.bad.contains x.ent then
      unitDone c e.id n false u stSweepTagMismatch 0 (if x.kind = 3 then s
        else forEach x.items (fun i s => setJob e.id (fun j => { j with results := j.results ++ [(i.2, none)] }) s) s)
    else if x.kind = 3 then
      let (s, st) := zeroShard c e b (x.items.headD (0, 0)).1 s
      unitDone c e.id n false u st 0 s
    else
      let full := x.items.filter (fun i => decide (shardAct (spSTEP e.desc) b i.1 s = .full))
      if p.mid.isNone && decide (full ≠ []) then
        let (s, st, done) := full.foldl (fun (a : State × Nat × List Nat) i =>
          let (s, ok, st) := shardMoments c e k b i.1 i.2 a.1
          (s, firstStatus a.2.1 st, if ok then a.2.2 ++ [i.2] else a.2.2)) (s, 0, [])
        setSwPart e.id n (fun p => { p with mid := some done }) (orPart e.id n st 0 0 s)
      else
        let (s, st, f) := x.items.foldl (fun (a : State × Nat × Nat) i =>
          let (s, st, f) := finishShard c e k b ((p.mid.getD []).contains i.2) i.1 i.2 a.1
          (s, firstStatus a.2.1 st, a.2.2 ||| f)) (s, 0, 0)
        unitDone c e.id n false u st f s

/-- The part that runs next on engine `c`: of the first SWEEP with a unit for it, the one earliest in its sequence. -/
def nextPart (c : Nat) (s : State) : Option (InFlight × SweepJob × Nat × SweepPart × Bool × Nat) :=
  s.sweeps.findSome? (fun j => (flight j.id s).bind (fun e =>
    let runs := (indexFrom 0 j.parts).filterMap (fun p =>
      if p.2.eng = c && (match e.parts[p.1]? with
        | some x => decide (x.st = .running)
        | none => false) then (nextUnit j p.2).map (fun u => (p.1, p.2, u.1, u.2)) else none)
    (runs.foldl (fun (best : Option (Nat × SweepPart × Bool × Nat)) r => match best with
      | some x => if r.2.2.2 < x.2.2.2 then some r else best
      | none => some r) none).map (fun r => (e, j, r.1, r.2.1, r.2.2.1, r.2.2.2))))

/-- The sweep engine of a cluster works: its lintel and the regions that its traffic crosses are not in a reset (R439). -/
def sweepAlive (c : Nat) (s : State) : Bool := alive s && !(regionOf (64 + c) s).inReset

/-- SWEEP_UNIT (R435). -/
def execSweepUnit (c : ClusterNo) (s : State) : Host.Outcome State Fault Refusal :=
  .next (if !sweepAlive c s then s
    else match nextPart c s with
    | none => s
    | some (e, j, n, p, factor, u) => runUnit c e j n p factor u s)

/-- Panes that a unit reads, by tensor (R441). -/
def unitPanes (x : SwUnit) (b : List Byte) (s : State) : List (Nat × List Nat) :=
  let all (h : Nat) : Nat × List Nat := (h, List.range (paneCount (tensorAt h s)))
  match x.kind with
  | 0 => [all (swGH b), (swM2H b, x.items.map (fun i => i.1))]
  | 1 => [all (swGH b), (swM3H b, x.items.map (fun i => i.1))]
  | 2 =>
    let at' (h : Nat) : Nat × List Nat := (h, dedupNat (sortNat (x.items.flatMap (fun i => shardPanes (tensorAt h s) (tensorAt h s) i.1))))
    [at' (swWH b), at' (swGH b), at' (swM1H b)] ++ (match swSecondT b s with
      | some t => [at' t.handle]
      | none => []) ++ (if swKIND b = 3 then [all (swM2H b), all (swM3H b)] else [])
  | _ => []

/-- SWEEP_PREFETCH (R441): the next unit of engine `c` that is not prefetched is read into sweep staging, as far ahead as DEPTH and the
64 units of staging allow. A unit reads its panes again when it runs, so that prefetching affects no value. -/
def execSweepPrefetch (c : ClusterNo) (s : State) : Host.Outcome State Fault Refusal :=
  .next (if !sweepAlive c s then s
    else match nextPart c s with
    | none => s
    | some (e, j, _, p, factor, u) =>
      let units := if factor then swFactorUnits e.desc s else (swShardUnits e.desc s).1
      let stop := if factor then p.fend else p.send
      match ((List.range (stop - u)).map (fun i => u + i)).find? (fun v => !j.ahead.contains v) with
      | none => s
      | some v =>
        match units[v]? with
        | none => s
        | some x =>
          let ps := unitPanes x ((swEntries s).getD x.ent []) s
          let n := (ps.map (fun q => q.2.length)).sum
          if min (getF TRN.SWPRE_DEPTH s) (64 / max 1 n) ≤ v - u then s
          else
            let s := forEach ps (fun q s => swStage c e.id (tensorAt q.1 s) q.2 s) s
            setJob e.id (fun j => { j with ahead := j.ahead ++ [v] }) (swUnstage c e.id s))

/-- SWEEP_FACTOR_PHASE_END (R434): every member of the oldest SWEEP in its factor phase has completed its factor units. -/
def execSweepFactorPhaseEnd (s : State) : Host.Outcome State Fault Refusal :=
  .next (match s.sweeps.find? (fun j => !j.shards) with
    | none => s
    | some j =>
      if alive s && j.parts.all (fun p => decide (p.fend ≤ p.fpos)) then
        forEach (indexFrom 0 j.parts) (fun p s => sweepGather j.id p.1 0 0 s) (setJob j.id (fun j => { j with shards := true }) s)
      else s)

/-! Layers (R203, R442, R443). -/

/-- Record numbers of the local shards of a layer in a SWEEP, in sequence order. -/
def layerRecs (e : InFlight) (layer : Nat) (s : State) : List Nat :=
  ((swShardUnits e.desc s).1.filter (fun u => decide (u.kind = 2) && decide (swLayer ((swEntries s).getD u.ent []) s = layer))).flatMap
    (fun u => u.items.map (fun i => i.2))

/-- The last shard of a layer has completed, and the layer is not committed yet. -/
def layerDue (e : InFlight) (j : SweepJob) (layer : Nat) (s : State) : Bool :=
  let ks := layerRecs e layer s
  decide (ks ≠ []) && !j.layers.contains layer && ks.all (fun k => j.results.any (fun r => decide (r.1 = k)))

/-- The square root of a quotient of two positive magnitudes, with a sticky bit (R442). -/
def sqrtQuotient (a : Nat) (ea : Int) (b : Nat) (eb : Int) : Num :=
  let d := ea - eb
  let (a, d) := if d % 2 = 0 then (a, d) else (2 * a, d - 1)
  let n := a * 2 ^ 512
  let r := isqrt (n / b)
  .fin false (2 * r + b2n (decide (r * r * b ≠ n))) (d / 2 - 257)

/-- The update-to-weight ratio in binary32 (R442). -/
def updateRatio (sd sw : Num) : Nat :=
  if sd.isZero then 0
  else if sw.isZero then 0x7F800000
  else if sd.isNan || sw.isNan then canonNan 0
  else match sd, sw with
    | .fin _ a ea, .fin _ b eb => (encode 0 false (sqrtQuotient a ea b eb)).1
    | .inf _, .inf _ => canonNan 0
    | .inf _, _ => 0x7F800000
    | _, _ => 0

/-- λ after a SWEEP (R203): `mx` in binary32 bits. -/
def nextLam (lam : Int) (mx : Nat) : Int :=
  if mx < 0x33800000 ∧ lam < 127 then lam + 1 else if 0x4B800000 ≤ mx ∧ -128 < lam then lam - 1 else lam

def statInit : LayerStat := ⟨0, false, 0, 0, 0⟩
def layerStat (layer : Nat) (s : State) : LayerStat := assocGet statInit s.layerStats layer

/-- Replace LRSCALE of an entry (R204). -/
def withLam (entry : Nat) (lam : Int) : Nat := entry / 2 ^ 56 * 2 ^ 56 + toTwos 8 lam * 2 ^ 48 + entry % 2 ^ 48

/-- Count a layer's zero update, and raise its alarm (R443). -/
def countZero (layer : Nat) (zero : Bool) (s : State) : State :=
  let old := (layerStat layer s).zcount
  let new := if zero then satAdd 16 old 1 else 0
  let put (f : LayerStat → LayerStat) (s : State) : State := { s with layerStats := assocModify statInit s.layerStats layer f }
  if new ≤ old then put (fun x => { x with zcount := new }) s
  else
    let rise := decide (getF TRN.ZALARM_THRESH s ≠ 0) && decide (new = getF TRN.ZALARM_THRESH s)
    let s := put (fun x => { x with zcount := new, alarmed := rise }) s
    if rise then errRecord clsTraining 0 99 0 noUnit [layer] (setF TRN.STAT_ZALARM 1 s) else s

/-- Commit a layer's completion (R203, R442, R443): not again where an interrupted SWEEP of the same STEP has committed it and no shard of
it has been updated since (R439). -/
def commitLayer (j : SweepJob) (e : InFlight) (layer : Nat) (s : State) : State :=
  if (layerStat layer s).step = spSTEP e.desc then setJob j.id (fun j => { j with layers := layer :: j.layers }) s
  else
  let rs := (layerRecs e layer s).map (fun k => (j.results.find? (fun r => decide (r.1 = k))).bind (fun r => r.2))
  let sum (f : SweepRec → Nat) : Num := (reduceTree .sum 1 false (rs.map (fun r => r.map (fun x => (decodeBits 1 127 (f x)).num)))).1
  let mx := rs.foldl (fun a r => match r with
    | some x => max a x.maxd
    | none => a) 0
  let s := { s with layerStats := assocModify statInit s.layerStats layer (fun x => { x with
    ratio := updateRatio (sum (fun r => r.sd)) (sum (fun r => r.sw)), maxd := mx, step := spSTEP e.desc }) }
  let was := assocGet 0 j.hist layer
  let s := if bitOf was 62 then
      { s with hist := assocModify 0 s.hist layer (fun x => withLam x (nextLam (lamOf was) mx)) }
    else s
  countZero layer (rs.all (fun r => match r with
    | some x => x.zero
    | none => false)) (setJob j.id (fun j => { j with layers := layer :: j.layers }) s)

/-- SWEEP_LAYER_COMPLETE (R442): the oldest SWEEP in which the layer's last shard has completed commits it. -/
def execSweepLayerComplete (layer : Nat) (s : State) : Host.Outcome State Fault Refusal :=
  .next (if !alive s then s
    else match s.sweeps.findSome? (fun j => (flight j.id s).bind (fun e => if layerDue e j layer s then some (j, e) else none)) with
    | some (j, e) => commitLayer j e layer s
    | none => s)

/-- A SWEEP still has a completed layer to commit. -/
def layersDue (e : InFlight) (j : SweepJob) (s : State) : Bool :=
  (dedupNat (sortNat ((swRange e.desc s).map (fun p => swLayer p.2 s)))).any (fun l => layerDue e j l s)

end Sys2Proof.Machine
end

