-- ==== Sys2Proof/Machine/Chkp.lean ====
section
/-! DEFINITION. Digests, checkpoints and phase counters (R444 to R456), and the restoring of the scale history (R206, R207). -/

namespace Sys2Proof.Machine

/-! DIGEST (R445, R447, R448). -/

def dgSH (d : Desc) : Nat := dfield d 0x10 0 32
def dgDGH (d : Desc) : Nat := dfield d 0x14 0 32
def dgSFIRST (d : Desc) : Nat := dfield d 0x18 0 32
def dgSCOUNT (d : Desc) : Nat := dfield d 0x1C 0 32

/-- The checks of R448 before the charge. -/
def digestChecks (e : InFlight) (s : State) : List (Nat × Nat × Bool) :=
  let d := e.desc
  let t := tensorAt (dgSH d) s
  let g := tensorAt (dgDGH d) s
  let n := shardCount t
  [(1, stFieldInvalid, decide (dfield d 0x20 0 256 ≠ 0)),
   (2, stHandleInvalid, handleBad e (dgSH d) s || handleBad e (dgDGH d) s),
   (3, stFormatMismatch, decide (g.fmt ≠ 1)),
   (4, stShapeMismatch, decide (extOf g 0 ≠ n) || (g.ext.drop 1).any (fun x => decide (x ≠ 1)) || decide (n ≤ dgSFIRST d)
      || (decide (dgSCOUNT d ≠ 0) && decide (n < dgSFIRST d + dgSCOUNT d)))]

/-- A shard of a handle is local: so are the panes that hold it (R279). -/
def shardLocal (t : Tensor) (i : Nat) (s : State) : Bool :=
  let root := rootOf t s
  (shardPanes t root i).all (fun p => localPane root p s)

/-- Distinct blocks that a shard of a handle touches, by base coordinates (R445, R451). -/
def handleBlocks (t root : Tensor) (i : Nat) : List (List Nat) :=
  ((shardCoords t i).map (fun x => (blockOf root (baseCoords t x)).1)).eraseDups

/-- The bytes that the digest of a staged shard takes, and whether it was read from a poisoned pane (R445). -/
def shardDigest (owner : Nat) (t : Tensor) (i : Nat) (s : State) : List Byte × Bool :=
  let root := rootOf t s
  let fmt := tagFmt root.fmt
  let block := isBlockTag root.fmt
  let poison := (shardPanes t root i).any (fun p => match stagedPane rootCore owner root.handle p s with
    | some d => d.poison
    | none => true)
  let es := (shardCoords t i).flatMap (fun x => leBytes (fmtBytes root.fmt)
    (if poison then (if block then 0 else canonNan fmt) else (fetchElem rootCore owner t root x s).1))
  let scales := if block then (handleBlocks t root i).map (fun x => BitVec.ofNat 8
      (if poison then 255 else (fetchElem rootCore owner root root x s).2.1)) else []
  (es ++ scales, poison)

/-- One part of a DIGEST on sweep engine `c`: shards `lo` to `hi - 1` of those it names (R412, R447). -/
def digestPart (c : Nat) (e : InFlight) (lo hi : Nat) (s : State) : State × Nat :=
  let t := tensorAt (dgSH e.desc) s
  let root := rootOf t s
  let g := tensorAt (dgDGH e.desc) s
  let is := ((List.range (hi - lo)).map (fun k => dgSFIRST e.desc + lo + k)).filter (fun i => shardLocal t i s)
  let (s, bad) := is.foldl (fun a i =>
    let s := forEach (shardPanes t root i) (fun p s =>
      if (stagedPane rootCore e.id root.handle p s).isSome then s
      else
        let (d, s) := moverRead root p (peepPort root.handle p 66560 s)
        upsertCopy rootCore e.id root.handle p (fun c => { c with staged := some d }) s) a.1
    let (bs, bad) := shardDigest e.id t i s
    (writeScalar e.id g (rootOf g s) [i, 0, 0, 0] (digestOf bs) false (feedCheck e.id c t.handle bs s), a.2 || bad)) (armCheck e.id c s, false)
  let (s, st) := flushCopies e.id s
  (s, moverStatus st bad)

/-- A DIGEST enters flight (R447, R448): each member's engine digests its shards. -/
def beginDigest (e : InFlight) (s : State) : State :=
  validated e (digestChecks e s) (fun s =>
    chargeThen e 5 (tensorAt (dgDGH e.desc) s) (fun s =>
      let n := if dgSCOUNT e.desc = 0 then shardCount (tensorAt (dgSH e.desc) s) - dgSFIRST e.desc else dgSCOUNT e.desc
      let (s, ps) := (partsFor e.port n s).foldl (fun a p =>
        let q := enginePart p.core p.lo p.hi a.1
        if q.status ≠ 0 then (a.1, a.2 ++ [q])
        else
          let (s, st) := digestPart (p.core / 8) e p.lo p.hi a.1
          (s, a.2 ++ [{ q with st := .ended, status := st }])) (s, [])
      setFlight e.id (fun x => { x with parts := ps, st := .running }) s) s) s

/-- DIGEST (R447). -/
def execDigest (q : QueueNo) (d : Desc) (s : State) : Host.Outcome State Fault Refusal :=
  .next (takeRing q (withOpcode 7 d) beginDigest s)

/-! The CHKP descriptor (R452, R453). -/

def ckOP (d : Desc) : Nat := dfield d 0x10 0 8
def ckTARGET (d : Desc) : Nat := dfield d 0x11 0 8
def ckPORT (d : Desc) : Nat := dfield d 0x12 0 8
def ckROLES (d : Desc) : Nat := dfield d 0x13 0 8
def ckNODE (d : Desc) : Nat := dfield d 0x14 0 16
def ckLFIRST (d : Desc) : Nat := dfield d 0x16 0 16
def ckLLAST (d : Desc) : Nat := dfield d 0x18 0 16
def ckCFMT (d : Desc) : Nat := dfield d 0x1A 0 8
def ckSTEP (d : Desc) : Nat := dfield d 0x1C 0 32
def ckOFFSET (d : Desc) : Nat := dfield d 0x20 0 64
def ckLENGTH (d : Desc) : Nat := dfield d 0x28 0 64
def ckHIST (d : Desc) : Bool := decide (dfield d 0x3C 0 1 = 1)
def ckSTEER (d : Desc) : Bool := decide (dfield d 0x3C 1 1 = 1)
def ckCONVERT (d : Desc) : Bool := decide (dfield d 0x3C 2 1 = 1)
def ckKFLUSH (d : Desc) : Bool := decide (dfield d 0x3C 3 1 = 1)

/-- Units of the persistent region of a port (R348). -/
def persistUnits (p : Nat) (s : State) : Nat := getF (CART.CPCAP_PSIZE p) s * 2 ^ 18

/-- A CHKP selects a tensor: of the issuing tenant, no view, of a selected ROLE, in the range of layers (R452). -/
def ckSelects (e : InFlight) (t : Tensor) (s : State) : Bool :=
  let d := e.desc
  decide (t.base = 0) && decide (topOf t.owner s = topOf e.port s) && bitOf (ckROLES d) t.role
  && (decide (t.layer = 0xFFFF) || (decide (ckLFIRST d ≤ t.layer) && decide (t.layer ≤ ckLLAST d)))

/-- Insert a tensor by handle. -/
def insertTensor (t : Tensor) : List Tensor → List Tensor
  | [] => [t]
  | u :: l => if t.handle ≤ u.handle then t :: u :: l else u :: insertTensor t l

/-- The selected local tensors, ascending by handle (R454). -/
def ckTensors (e : InFlight) (s : State) : List Tensor :=
  match s.image with
  | some im => (im.tensors.filter (fun t => ckSelects e t s && isLocal t s)).foldr insertTensor []
  | none => []

/-- The checks of R453 before the charge. -/
def chkpChecks (e : InFlight) (s : State) : List (Nat × Nat × Bool) :=
  let d := e.desc
  let tg := ckTARGET d
  let conv := ckCONVERT d && decide (ckOP d = 0)
  [(1, stFormatInvalid, conv && malformedTag (ckCFMT d)),
   (2, stFormatNotPermitted, ofp8Refused e (ckCFMT d)),
   (3, stFieldInvalid, decide (1 < ckOP d) || decide (2 < tg) || (decide (ckOP d = 1) && decide (tg = 2))
      || decide (dfield d 0x1B 0 8 ≠ 0) || decide (dfield d 0x30 0 96 ≠ 0) || decide (dfield d 0x3C 4 28 ≠ 0)
      || (decide (tg = 1) && decide (3 < ckPORT d)) || (decide (tg ≠ 1) && decide (ckPORT d ≠ 0))
      || (decide (tg ≠ 2) && decide (ckNODE d ≠ 0)) || (!conv && decide (ckCFMT d ≠ 0)) || decide (64 ≤ ckROLES d)
      || decide (ckLLAST d < ckLFIRST d) || decide (8191 < ckLLAST d) || (decide (tg = 0) && decide (ckOFFSET d % 64 ≠ 0))
      || (decide (tg = 2) && (decide (ckOFFSET d ≠ 0) || decide (ckLENGTH d ≠ 0))) || (decide (tg ≠ 2) && decide (ckLENGTH d = 0))),
   (4, stHostRange, decide (tg = 0) && decide (winLen s < ckOFFSET d + ckLENGTH d)),
   (5, stUnitClosed, decide (tg = 1) && !cartOpen (ckPORT d) s),
   (6, stCartForeign, decide (tg = 1) && flag (CART.CPSTAT_FOREIGN (ckPORT d)) s),
   (7, stChkpSpace, decide (tg = 1) && decide (persistUnits (ckPORT d) s < ckOFFSET d + ckLENGTH d)),
   (8, stCartWorn, decide (tg = 1) && decide (ckOP d = 0) && cartWorn (ckPORT d) s),
   (9, stNotMember, decide (tg = 2) && (!flag ND.NDSELF_MEMBER s || decide (ckNODE d = ownNode s)
      || (memberAt (ckNODE d) s.nd.members).isNone || decide (routeSet (ckNODE d) s = [])))]

/-! EXPORT (R450, R451, R454). -/

/-- A number padded to a multiple of 8. -/
def zeroTo8 (bs : List Byte) : List Byte := byteSlice bs 0 (pad8 bs.length)

/-- Bytes followed by their CRC-32C and four zero bytes (R451). -/
def withCrc8 (bs : List Byte) : List Byte := bs ++ leBytes 4 (crc32c bs) ++ leBytes 4 0

/-- A 64-byte header with its CRC at 0x3C. -/
def head64 (bs : List Byte) : List Byte := let b := byteSlice bs 0 60; b ++ leBytes 4 (crc32c b)

/-- Values of a tensor as a checkpoint carries them: an element's bits, the scale byte of its block, flags, poison (R454, R738). -/
def ckElem (e : InFlight) (t : Tensor) (fmt : Nat) (x : List Nat) (s : State) : Nat × Nat × Nat × Bool :=
  let flush := ckKFLUSH e.desc
  if !ckCONVERT e.desc then
    let blockBad := isBlockTag fmt && (let (f, n) := blockOf t x
      (List.range n).any (fun k => (fetchElem rootCore e.id t t (stepCoord f t.baxis k) s).2.2))
    let (b, sc, bad) := fetchElem rootCore e.id t t x s
    if isBlockTag fmt then (if blockBad then (0, 255, 0, true) else (b, sc, 0, false))
    else (if bad then canonNan (tagFmt fmt) else b, 127, 0, bad)
  else if isBlockTag fmt then
    let t' : Tensor := { t with fmt := fmt }
    let (f, n) := blockOf t' x
    let vs := (List.range n).map (fun k => readValue e.id t flush s (stepCoord f t.baxis k))
    let bad := vs.any (fun v => v.2.2)
    let (sc, es, fl) := encodeBlock (tagFmt fmt) flush (vs.map (fun v => v.1))
    if bad then (0, 255, 0, true)
    else (es.getD (x.getD t.baxis 0 - f.getD t.baxis 0) 0, sc, vs.foldl (fun a v => a ||| v.2.1) fl, false)
  else
    let v := readValue e.id t flush s x
    let (b, fl) := encode (tagFmt fmt) flush v.1
    if v.2.2 then (canonNan (tagFmt fmt), 127, 0, true) else (b, 127, v.2.1 ||| fl, false)

/-- What names a tensor in the sweep table: 0 nothing, 1 a master weight or moment, 2 a factor (R426). -/
def tagUse (h : Nat) (s : State) : Nat :=
  if (swEntries s).any (fun b => decide (swKIND b = 3) && (decide (swM2H b = h) || decide (swM3H b = h))) then 2
  else if (swEntries s).any (fun b => decide (swWH b = h) || decide (swM1H b = h)
      || ((decide (swKIND b = 1) || decide (swKIND b = 2)) && decide (swM2H b = h))) then 1
  else 0

/-- A shard record (R451): its bytes, flags and poison. -/
def shardRecord (e : InFlight) (t : Tensor) (fmt i : Nat) (s : State) : List Byte × Nat × Bool :=
  let xs := (shardCoords t i).map (fun x => ckElem e t fmt x s)
  let tag := if tagUse t.handle s = 0 then 0 else shardTag t i s
  let t' : Tensor := { t with fmt := fmt }
  let scales := if isBlockTag fmt then (handleBlocks t' t' i).map (fun x => BitVec.ofNat 8 (ckElem e t fmt x s).2.1) else []
  let data := zeroTo8 (xs.flatMap (fun x => leBytes (fmtBytes fmt) x.1) ++ scales)
  let body := leBytes 4 i ++ leBytes 4 tag ++ ((shardOrg t i).flatMap (fun c => leBytes 4 c))
    ++ (((shardExt t i).take 2).flatMap (fun c => leBytes 4 c)) ++ data
  (withCrc8 body, xs.foldl (fun a x => a ||| x.2.2.1) 0, xs.any (fun x => x.2.2.2))

/-- A section: header and body (R451). -/
def ckSection (kind fmt role baxis handle : Nat) (ext : List Nat) (records : Nat) (body : List Byte) : List Byte :=
  head64 (leBytes 1 kind ++ leBytes 1 fmt ++ leBytes 1 role ++ leBytes 1 baxis ++ leBytes 4 handle ++ (ext.flatMap (fun x => leBytes 4 x))
    ++ leBytes 4 records ++ leBytes 4 0 ++ leBytes 8 (64 + body.length)) ++ body

/-- A tensor section, with flags and poison. -/
def tensorSection (e : InFlight) (t : Tensor) (s : State) : List Byte × Nat × Bool :=
  let fmt := if ckCONVERT e.desc then ckCFMT e.desc else t.fmt
  let rs := ((List.range (shardCount t)).filter (fun i => shardLocal t i s)).map (fun i => shardRecord e t fmt i s)
  (ckSection 1 fmt t.role t.baxis t.handle t.ext rs.length (rs.flatMap (fun r => r.1)),
   rs.foldl (fun a r => a ||| r.2.1) 0, rs.any (fun r => r.2.2))

/-- Scale-history and steering sections (R206, R451). -/
def histSection (s : State) : List Byte :=
  ckSection 2 0 0 0 0 [0, 0, 0, 0] 0 (withCrc8 (leBytes 4 8192 ++ leBytes 4 0
    ++ (List.range 8192).flatMap (fun l => leBytes 8 (assocGet 0 s.hist l))))
def steerSection (s : State) : List Byte :=
  ckSection 3 0 0 0 0 [0, 0, 0, 0] 0 (withCrc8 (zeroTo8 (leBytes 4 8192 ++ leBytes 4 0
    ++ (List.range 8192).flatMap (fun l => leBytes 2 (layerStat l s).zcount))))

/-- A checkpoint image of the state (R450, R454): its bytes, flags and poison. The selected tensors are staged. An image without a scale
history has no layer entries (log 279). -/
def ckImage (e : InFlight) (s : State) : List Byte × Nat × Bool :=
  let d := e.desc
  let ts := (ckTensors e s).map (fun t => tensorSection e t s)
  let secs := ts.map (fun t => t.1) ++ (if ckHIST d then [histSection s] else []) ++ (if ckSTEER d then [steerSection s] else [])
  let body := secs.flatMap (fun x => zeroTo8 x)
  let node := if s.nd.members = [] then 0 else ownNode s
  (head64 ([0x47#8, 0x57#8, 0x43#8, 0x4B#8] ++ leBytes 2 1 ++ leBytes 2 secs.length ++ leBytes 4 (ckSTEP d) ++ leBytes 2 node
    ++ leBytes 2 0 ++ leBytes 8 (64 + body.length) ++ leBytes 4 (if ckHIST d then (s.hist.filter (fun h => bitOf h.2 63)).length else 0)) ++ body,
   ts.foldl (fun a t => a ||| t.2.1) 0, ts.any (fun t => t.2.2))

/-- Write 64 KiB units of a persistent region (R351): the last is padded with zeros. A cartridge that is worn, its commit for these bytes
included, is not written (R358): the state, and whether the units were written. -/
def putPersist (p unit : Nat) (bs : List Byte) (s : State) : State × Bool :=
  let n := ceilDiv bs.length 65536 * 65536
  let s := if cartWorn p s then s else programWhole p n s
  let a := persistAddr p unit 0 s
  if cartWorn p s then (s, false) else (healRange a n (memWrite a (byteSlice bs 0 n) s), true)

/-- EXPORT (R454, R456); a carriage meets a failed connection (R501; log 278). -/
def exportWork (e : InFlight) (s : State) : State :=
  let d := e.desc
  let s := forEach (ckTensors e s) (fun t s => stageTensor e.id t s) s
  let (bs, flags, bad) := ckImage e s
  let done (s : State) : State := endWhole e (moverStatus 0 bad) flags s
  match ckTARGET d with
  | 0 => if ckLENGTH d < bs.length then endWhole e stHostRange 0 s else done (winWrite (ckOFFSET d) bs s)
  | 1 => if ckLENGTH d * 65536 < bs.length then endWhole e stChkpSpace 0 s
    else match putPersist (ckPORT d) (ckOFFSET d) bs s with
    | (s, true) => done s
    | (s, false) => endWhole e stCartWorn flags s
  | _ =>
    if s.conns.any (fun c => decide (c.peer = ckNODE d) && c.failed) then endWhole e stPeerLost 0 s
    else
    let (v, s) := drawFree (emit (.carriage (ckNODE d) bs) s)
    if v % 2 = 1 then endWhole e stChkpRefused flags s else done s

/-! IMPORT (R455). -/

/-- What a checkpoint image is read from: bytes, and whether some byte of a range cannot be read. -/
structure CkSource where
  bytes : List Byte
  badLines : List Nat
deriving DecidableEq, Repr

def ckBad (c : CkSource) (o n : Nat) : Bool := c.badLines.any (fun l => decide (l * 64 < o + n) && decide (o < l * 64 + 64))

/-- Read the bytes that an IMPORT may take (R456): poisoned window lines as R621 counts them, persistent units that R373 poisons. -/
def ckSource (e : InFlight) (s : State) : CkSource × State :=
  let d := e.desc
  if ckTARGET d = 0 then
    let lenAt := leNat (winBytes (ckOFFSET d + 0x10) 8 s)
    let n := min (ckLENGTH d) (max 64 lenAt)
    let (bs, s') := winRead (ckOFFSET d) n s
    (⟨bs, (List.range (n / 64 + 1)).filter (fun l => winRangePoisoned (ckOFFSET d + 64 * l) (min 64 (n - 64 * l)) s)⟩, s')
  else
    let a := persistAddr (ckPORT d) (ckOFFSET d) 0 s
    let n := min (ckLENGTH d * 65536) (max 64 (leNat (memRead (a + 0x10) 8 s)))
    (⟨memRead a n s, (List.range (n / 64 + 1)).filter (fun l => s.poison.contains (lineOf a + l))⟩, peep 9 (ckPORT d) 1 n s)

/-- A 64-byte header whose CRC stands. -/
def headSound (c : CkSource) (o : Nat) : Bool :=
  decide (o + 64 ≤ c.bytes.length) && !ckBad c o 64 && decide (crc32c (byteSlice c.bytes o 60) = leAt c.bytes (o + 60) 4)

/-- Offsets and lengths of the sections; none where they do not end exactly at IMGLEN (R455). -/
def ckWalk (c : CkSource) (stop : Nat) : Nat → Nat → Option (List (Nat × Nat))
  | 0, o => if o = stop then some [] else none
  | n + 1, o =>
    if !headSound c o then none
    else
      let len := leAt c.bytes (o + 0x20) 8
      if len < 64 ∨ stop < o + len then none
      else (ckWalk c stop n (o + len)).map (fun r => (o, len) :: r)

/-- The image's structure (R455): its sections. -/
def ckSections (c : CkSource) : Option (List (Nat × Nat)) :=
  let stop := leAt c.bytes 0x10 8
  if !headSound c 0 || decide (c.bytes.take 4 ≠ [0x47#8, 0x57#8, 0x43#8, 0x4B#8]) || decide (leAt c.bytes 4 2 ≠ 1)
     || decide (c.bytes.length < stop) then none
  else ckWalk c stop (leAt c.bytes 6 2) 64

/-- Bytes of a shard record's data, padded (R451). -/
def recordData (t : Tensor) (fmt baxis i : Nat) : Nat :=
  let t' : Tensor := { t with fmt := fmt, baxis := baxis }
  pad8 (prodList (shardExt t i) * fmtBytes fmt + (if isBlockTag fmt then (handleBlocks t' t' i).length else 0))

/-- The records of a tensor section (R455): shard, offset, bytes; none where the walk fails. -/
def ckRecords (c : CkSource) (t : Tensor) (fmt baxis stop : Nat) : Nat → Nat → Nat → Option (List (Nat × Nat × Nat))
  | 0, o, _ => if o = stop then some [] else none
  | n + 1, o, low =>
    let i := leAt c.bytes o 4
    if stop < o + 40 ∨ i < low ∨ shardCount t ≤ i then none
    else
      let len := 32 + recordData t fmt baxis i + 8
      if leAt c.bytes (o + 0x18) 4 ≠ (shardExt t i).getD 0 0 ∨ leAt c.bytes (o + 0x1C) 4 ≠ (shardExt t i).getD 1 0 ∨ stop < o + len then none
      else (ckRecords c t fmt baxis stop n (o + len) (i + 1)).map (fun r => (i, o, len) :: r)

/-- A tensor section that a walk has accepted, with the format and block axis of its elements. -/
structure CkTensor where
  t : Tensor
  fmt : Nat
  baxis : Nat
  recs : List (Nat × Nat × Nat)
deriving DecidableEq, Repr

/-- The tensor of the issuing tenant that a section names: never a view (R451). -/
def ckNamed (e : InFlight) (h : Nat) (s : State) : Option Tensor :=
  (tensorOf h s).filter (fun t => decide (h ≠ 0) && decide (t.base = 0) && decide (topOf t.owner s = topOf e.port s))

/-- Length that a COUNT of 8,192 entries gives a section. -/
def countLen (entry count : Nat) : Nat := 64 + pad8 (8 + entry * count) + 8

/-- One section through the rows of pass 1 that follow STEP (R455): the tensor to import, or the status. -/
def ckSectionCheck (e : InFlight) (c : CkSource) (sec : Nat × Nat) (s : State) : Option CkTensor × Nat :=
  let (o, len) := sec
  let kind := leAt c.bytes o 1
  if kind = 2 ∨ kind = 3 then
    (none, if len = countLen (if kind = 2 then 8 else 2) (leAt c.bytes (o + 64) 4) then 0 else stChkpCorrupt)
  else if kind ≠ 1 then (none, stChkpCorrupt)
  else
    let fmt := leAt c.bytes (o + 1) 1
    let baxis := leAt c.bytes (o + 3) 1
    match ckNamed e (leAt c.bytes (o + 4) 4) s with
    | none => (none, stHandleInvalid)
    | some t =>
      if malformedTag fmt then (none, stFormatInvalid)
      else if t.ext ≠ [0, 1, 2, 3].map (fun i => leAt c.bytes (o + 8 + 4 * i) 4) then (none, stShapeMismatch)
      else match ckRecords c t fmt baxis (o + len) (leAt c.bytes (o + 0x18) 4) (o + 64) 0 with
      | none => (none, stChkpCorrupt)
      | some rs =>
        let differs := decide (fmt ≠ t.fmt) || (isBlockTag fmt && decide (baxis ≠ t.baxis))
        if differs && !ckCONVERT e.desc then (none, stFormatMismatch)
        else if ofp8Refused e fmt then (none, stFormatNotPermitted)
        else (some ⟨t, fmt, baxis, rs⟩, 0)

/-- Pass 1 (R455): the tensor sections to import and the status of the first failure. -/
def ckPass1 (e : InFlight) (c : CkSource) (s : State) : List CkTensor × List (Nat × Nat) × Nat :=
  match ckSections c with
  | none => ([], [], stChkpCorrupt)
  | some secs =>
    if ckSTEP e.desc ≠ 0 ∧ ckSTEP e.desc ≠ leAt c.bytes 8 4 then ([], [], stChkpStep)
    else secs.foldl (fun acc sec =>
      if acc.2.2 ≠ 0 then acc
      else match ckSectionCheck e c sec s with
      | (some t, _) => (acc.1 ++ [t], acc.2.1, 0)
      | (none, st) => (acc.1, acc.2.1 ++ [sec], st)) ([], [], 0)

/-- Some of a record's data read as poisoned (R738). -/
def recordPoisoned (c : CkSource) (o len : Nat) : Bool := ckBad c (o + 32) (len - 40)

/-- A record stands (R455): its CRC does. Where data of it read as poisoned the CRC cannot be computed, and the record's other elements
are written normally (R738, log 254). -/
def recordSound (c : CkSource) (o len : Nat) : Bool :=
  !ckBad c o 32 && !ckBad c (o + len - 8) 8
  && (recordPoisoned c o len || decide (crc32c (byteSlice c.bytes o (len - 8)) = leAt c.bytes (o + len - 8) 4))

/-- An element of a section: bits, scale byte, poison; poison where no sound record holds it, or where it or its scale byte read as
poisoned (R738). -/
def ckValue (c : CkSource) (k : CkTensor) (x : List Nat) : Nat × Nat × Bool :=
  let i := rowMajor [x.getD 0 0 / 128, x.getD 1 0 / 128, x.getD 2 0, x.getD 3 0] (shardDims k.t)
  match k.recs.find? (fun r => decide (r.1 = i)) with
  | none => (0, 255, true)
  | some (_, o, len) =>
    if !recordSound c o len then (0, 255, true)
    else
      let t' : Tensor := { k.t with fmt := k.fmt, baxis := k.baxis }
      let w := fmtBytes k.fmt
      let n := prodList (shardExt k.t i)
      let p := (shardCoords k.t i).findIdx (fun y => decide (y = x))
      let f := (blockOf t' x).1
      let so := o + 32 + n * w + (handleBlocks t' t' i).findIdx (fun y => decide (y = f))
      let block := isBlockTag k.fmt
      (leAt c.bytes (o + 32 + p * w) w, if block then leAt c.bytes so 1 else 127,
        ckBad c (o + 32 + p * w) w || (block && ckBad c so 1))

/-- Bits, flags and poison of a value in an unscaled tensor (R455). -/
def importScalar (e : InFlight) (c : CkSource) (k : CkTensor) (x : List Nat) : Nat × Nat × Bool :=
  let (b, sc, bad) := ckValue c k x
  let fmt := tagFmt k.t.fmt
  if bad then (canonNan fmt, 0, true)
  else if !ckCONVERT e.desc then (b, 0, false)
  else
    let (v, f) := readFlush (ckKFLUSH e.desc) (decodeBits (tagFmt k.fmt) sc b)
    let (r, f') := encode fmt (ckKFLUSH e.desc) v
    (r, f ||| f', false)

/-- Scale byte, elements, flags and poison of a block (R455). -/
def importBlock (e : InFlight) (c : CkSource) (k : CkTensor) (first : List Nat) (len : Nat) : Nat × List Nat × Nat × Bool :=
  let vs := (List.range len).map (fun n => ckValue c k (stepCoord first k.t.baxis n))
  if vs.any (fun v => v.2.2) then (255, List.replicate len 0, 0, true)
  else if !ckCONVERT e.desc then ((vs.headD (0, 255, true)).2.1, vs.map (fun v => v.1), 0, false)
  else
    let ds := vs.map (fun v => readFlush (ckKFLUSH e.desc) (decodeBits (tagFmt k.fmt) v.2.1 v.1))
    let (sc, es, f) := encodeBlock (tagFmt k.t.fmt) (ckKFLUSH e.desc) (ds.map (fun d => d.1))
    (sc, es, ds.foldl (fun a d => a ||| d.2) f, false)

/-- Write one record's elements (R455): state, flags. -/
def importRecord (e : InFlight) (c : CkSource) (k : CkTensor) (i : Nat) (s : State) : State × Nat :=
  let t := k.t
  if isBlockTag t.fmt then
    (handleBlocks t t i).foldl (fun a x =>
      let (first, len) := blockOf t x
      let (sc, es, f, bad) := importBlock e c k first len
      (writeBlock e.id t t first len sc es bad a.1, a.2 ||| f)) (s, 0)
  else
    (shardCoords t i).foldl (fun a x =>
      let (b, f, bad) := importScalar e c k x
      (writeScalar e.id t t x b bad a.1, a.2 ||| f)) (s, 0)

/-- Write a record's TAG (R426, R455). -/
def importTag (t : Tensor) (i v : Nat) (s : State) : State :=
  match tagUse t.handle s with
  | 0 => s
  | 1 => putShardTag t i v s
  | _ => putStepTag t (tagPlace t i).1 v s

/-- Pass 2 over one tensor section: state, flags, and the status of a write, else of a record that failed, else of data that read as
poisoned (R455, R738). -/
def importTensor (e : InFlight) (c : CkSource) (k : CkTensor) (s : State) : State × Nat × Nat :=
  if !ckSelects e k.t s || !isLocal k.t s then (s, 0, 0)
  else
    let rs := k.recs.filter (fun r => shardLocal k.t r.1 s)
    let (s, f) := rs.foldl (fun a r => let (s, f) := importRecord e c k r.1 a.1; (s, a.2 ||| f)) (s, 0)
    let (s, st) := flushCopies e.id s
    let good := rs.filter (fun r => recordSound c r.2.1 r.2.2)
    let st := if st ≠ 0 then st else if good.length ≠ rs.length then stChkpCorrupt
      else if good.any (fun r => recordPoisoned c r.2.1 r.2.2) then stPoisonRead else 0
    (forEach good (fun r s => importTag k.t r.1 (leAt c.bytes (r.2.1 + 4) 4) s) s, f, st)

/-- Defaults of the scale history (R205). -/
def histDefaults (s : State) : List (Nat × Nat) :=
  match s.image with
  | some im => im.history
  | none => []

/-- Layers of a history that carry VALID. -/
def validLayers (h : List (Nat × Nat)) : List Nat := (h.filter (fun p => bitOf p.2 63)).map (fun p => p.1)

/-- The body of a count section whose CRC stands and whose COUNT is 8,192. -/
def countBody (c : CkSource) (sec : Nat × Nat) : Option Nat :=
  let (o, len) := sec
  if leAt c.bytes (o + 64) 4 = 8192 ∧ ckBad c o len = false ∧ crc32c (byteSlice c.bytes (o + 64) (len - 72)) = leAt c.bytes (o + len - 8) 4
  then some (o + 72) else none

/-- The scale history is lost (R207): the record names the checkpoint by its target, port, offset and step, and carries the STATUS of its
CHKP (R663, log 283). -/
def loseHist (e : InFlight) (c : CkSource) (status : Nat) (s : State) : State :=
  errRecord clsTraining 1 99 status noUnit [ckTARGET e.desc, ckPORT e.desc, ckOFFSET e.desc, leAt c.bytes 8 4]
    (setF TRN.STAT_LOSTHIST 1 { s with hist := histDefaults s })

/-- Restore the scale history, or count it as lost (R206, R207). -/
def restoreHist (e : InFlight) (c : CkSource) (status : Nat) (sec : Option (Nat × Nat)) (s : State) : State :=
  let read (o : Nat) : List (Nat × Nat) :=
    ((List.range 8192).map (fun l => (l, leAt c.bytes (o + 8 * l) 8))).filter (fun p => decide (p.2 ≠ 0))
  match (sec.bind (countBody c)).map read with
  | some h => if validLayers h = validLayers (histDefaults s) then { s with hist := h } else loseHist e c status s
  | none => loseHist e c status s

/-- Restore the zero-update counters, or set them to 0 (R455). -/
def restoreSteer (c : CkSource) (status : Nat) (sec : Option (Nat × Nat)) (s : State) : State :=
  let put (f : Nat → Nat) (s : State) : State := forEach (List.range 8192) (fun l s =>
    { s with layerStats := assocModify statInit s.layerStats l (fun x => { x with zcount := f l }) }) s
  match sec.bind (countBody c) with
  | some o => put (fun l => leAt c.bytes (o + 2 * l) 2) s
  | none => errRecord clsTraining 1 99 status noUnit [] (setF TRN.STAT_STEERLOST 1 (put (fun _ => 0) s))

/-- The last section of a kind. -/
def sectionOf (c : CkSource) (kind : Nat) (l : List (Nat × Nat)) : Option (Nat × Nat) := l.find? (fun x => decide (leAt c.bytes x.1 1 = kind))

/-- The status of an IMPORT from those of its tensors: a write that could not be made, else a record that failed, else poison (log 53). -/
def worstImport (sts : List Nat) : Nat :=
  match sts.find? (fun st => decide (st ≠ 0) && decide (st ≠ stChkpCorrupt) && decide (st ≠ stPoisonRead)) with
  | some st => st
  | none => if sts.contains stChkpCorrupt then stChkpCorrupt else if sts.contains stPoisonRead then stPoisonRead else stOk

/-- IMPORT (R455). -/
def importWork (e : InFlight) (s : State) : State :=
  let (c, s) := ckSource e s
  let (ts, others, st) := ckPass1 e c s
  if st ≠ 0 then endWhole e st 0 s
  else
    let (s, flags, sts) := ts.foldl (fun a k =>
      let (s, f, st) := importTensor e c k a.1
      (s, a.2.1 ||| f, a.2.2 ++ [st])) (s, 0, [])
    let s := if ckHIST e.desc then restoreHist e c (worstImport sts) (sectionOf c 2 others) s else s
    let s := if ckSTEER e.desc then restoreSteer c (worstImport sts) (sectionOf c 3 others) s else s
    endWhole e (worstImport sts) flags s

/-- A CHKP enters flight (R452, R453). -/
def beginChkp (e : InFlight) (s : State) : State :=
  validated e (chkpChecks e s) (fun s =>
    if ckOP e.desc = 0 then exportWork e s
    else match chargeAll (ckTensors e s) s with
    | (s, 0) => importWork e s
    | (s, st) => failCheck e st 10 s) s

/-- A CHKP of one operation, as the command processor takes it. -/
def takeChkp (op : Nat) (q : QueueNo) (d : Desc) (s : State) : State :=
  takeRing q (withOpcode 6 (dput d 0x10 0 8 op)) beginChkp s

/-- CHKP_EXPORT (R454). -/
def execChkpExport (q : QueueNo) (d : Desc) (s : State) : Host.Outcome State Fault Refusal := .next (takeChkp 0 q d s)
/-- CHKP_IMPORT (R455). -/
def execChkpImport (q : QueueNo) (d : Desc) (s : State) : Host.Outcome State Fault Refusal := .next (takeChkp 1 q d s)

/-- CHKP_CARRIAGE_RECEIVE (R456, R501): an armed receiver with room stores an image that another member carries to it; any other
refuses it. -/
def execChkpCarriageReceive (src : Nat) (image : List Byte) (s : State) : Host.Outcome State Fault Refusal :=
  let p := getF TRN.CKRECV_PORT s
  let first := getF TRN.CKRFIRST_UNIT s
  let units := ceilDiv image.length 65536
  let may := ndAlive s && flag ND.NDSELF_MEMBER s && decide (src ≠ ownNode s) && (memberAt src s.nd.members).isSome
    && flag TRN.CKRECV_ARMED s && decide (units ≤ getF TRN.CKRCOUNT_COUNT s) && cartOpen p s && !flag (CART.CPSTAT_FOREIGN p) s
    && !cartWorn p s && decide (first + units ≤ persistUnits p s)
  .next (if may then
      (match putPersist p first image s with
      | (s, true) => setF TRN.STAT_CKRECVD 1 (setF TRN.CKRECV_DONE 1 (setF TRN.CKRECV_ARMED 0 s))
      | (s, false) => s)
    else s)

/-! Phase counters (R444, R468). -/

/-- Some descriptor of a phase is in flight. -/
def inPhase (p : Nat) (s : State) : Bool := s.inflight.any (fun e => decide (dPhase e.desc = p))

/-- Engines at work, each with whether it waits for operands, and whether it waits at all. -/
def busyEngines (s : State) : List (Bool × Bool) :=
  (List.range 32).flatMap (fun n =>
    (if flag (CORE.MXSTAT_BUSY n) s then [(flag (CORE.MXSTAT_OPWAIT n) s, flag (CORE.MXSTAT_OPWAIT n) s || flag (CORE.MXSTAT_TRWAIT n) s)] else [])
    ++ (if flag (CORE.VXSTAT_BUSY n) s then [(flag (CORE.VXSTAT_OPWAIT n) s,
      flag (CORE.VXSTAT_OPWAIT n) s || flag (CORE.VXSTAT_TRWAIT n) s || flag (CORE.VXSTAT_SEAMWAIT n) s)] else []))

/-- The conditions of the phase counters (R444). -/
def phaseHolds (i : Nat) (s : State) : Bool :=
  let any (ops : List Nat) : Bool := s.inflight.any (fun e => ops.contains e.opcode)
  let busy := busyEngines s
  match i with
  | 0 => inPhase 1 s
  | 1 => inPhase 2 s
  | 2 => any [4] && !any [1, 2, 5]
  | 3 => inPhase 4 s
  | 4 => inPhase 5 s
  | 5 => decide (busy ≠ []) && busy.all (fun b => b.1)
  | 6 => (List.range 32).any (fun n => flag (CORE.MXSTAT_TRWAIT n) s || flag (CORE.VXSTAT_TRWAIT n) s || flag (CORE.VXSTAT_SEAMWAIT n) s)
      && busy.all (fun b => b.2)
  | 7 => (List.range 100).any (fun n => decide (getF (REG.LOUVRE_LVAL n) s < 16))
      || (List.range 32).any (fun u => decide (getF (MU.MUTEMP_LVAL u) s < 16)) || s.hinges.any (fun h => h.2.stalled.isSome)
  | 8 => decide (s.inflight ≠ []) && s.inflight.all (fun e => decide (e.st = .waiting))
  | _ => s.inflight.isEmpty

/-- PHASE_COUNTER_TICK (R444): 1,024 counts of TR99 have passed since the last. -/
def execPhaseCounterTick (s : State) : Host.Outcome State Fault Refusal :=
  .next (if licSince 99 s.phStamp s < 1024 || fatal s || (regionOf 99 s).inReset then s
    else { s with
      phStamp := (s.phStamp + 1024) % 2 ^ 64
      phLive := (List.range 10).map (fun i => (s.phLive.getD i 0 + if phaseHolds i s then 1024 else 0) % 2 ^ 64) })

/-- PHCTL_SNAP (R444, R468): the snapshot ends in the same step, so that SNAP reads 0 again. -/
def execPhctlSnap (s : State) : Host.Outcome State Fault Refusal := .next (hostWrite .late snapPhases s)

end Sys2Proof.Machine
end

