-- ==== Sys2Proof/Machine/QueueCmds.lean ====
section
/-! DEFINITION. The commands of queues and fences (chapter 14), but for the issue and completion of parts. -/

namespace Sys2Proof.Machine

/-- Submission ring size of a queue (R558). -/
def sqSize (q : Nat) (s : State) : Nat := 2 ^ getF (CMDQ.QRING_SQLOG2 q) s
def cqSize (q : Nat) (s : State) : Nat := 2 ^ getF (CMDQ.QRING_CQLOG2 q) s

/-- A doorbell write is discarded with DBERR and a record (R563). -/
def doorbellError (q : Nat) (s : State) : State := regAccessError (q * 0x10000) (setF (CMDQ.QSTAT_DBERR q) 1 s)

/-- SQTAIL (R562, R563, R564). -/
def execSqtail (q : QueueNo) (value : Nat) (s : State) : Host.Outcome State Fault Refusal :=
  .next (hostWrite .early (fun s =>
    if qState q s ≠ qEnabled ∨ sqSize q s ≤ value then doorbellError q s
    else setF (CMDQ.QPTR_SQTAIL q) value s) s)

/-- CQHEAD (R562, R563): the new head lies from the present head to the tail, counted forwards round the ring. -/
def execCqhead (q : QueueNo) (value : Nat) (s : State) : Host.Outcome State Fault Refusal :=
  .next (hostWrite .early (fun s =>
    let size := cqSize q s
    let head := getF (CMDQ.QPTR_CQHEAD q) s
    if qState q s ≠ qEnabled ∨ size ≤ value ∨ cqUsed q s < (value + size - head) % size then doorbellError q s
    else setF (CMDQ.QPTR_CQHEAD q) value s) s)

/-- Reserved fields of a WAIT or SIGNAL that are not zero (R574, R575). -/
def waitReserved (d : Desc) : Bool :=
  decide (dfield d 0x10 12 4 ≠ 0) || decide (dfield d 0x12 0 48 ≠ 0) || decide (dfield d 0x20 0 256 ≠ 0)
def signalReserved (d : Desc) : Bool :=
  decide (dfield d 0x10 12 4 ≠ 0) || decide (dfield d 0x13 0 40 ≠ 0) || decide (dfield d 0x20 0 256 ≠ 0)

/-- MODE and VALUE of a SIGNAL (R575). -/
def signalMode (d : Desc) : Nat := dfield d 0x12 0 8
def fenceValue (d : Desc) : Nat := dfield d 0x18 0 64
def fenceCounter (d : Desc) : Nat := dfield d 0x10 0 12

/-- The counter belongs to the tenant of the port (R572). -/
def fenceOwn (e : InFlight) (s : State) : Bool := decide (fenceCounter e.desc / 64 = tenantNo e.port s)

/-- A WAIT enters flight (R574, R576, R577): it holds its port unless its condition already holds. -/
def beginWait (e : InFlight) (s : State) : State :=
  validated e [(1, stFieldInvalid, waitReserved e.desc), (2, stFenceInvalid, !fenceOwn e s)]
    (fun s => if waitHolds e.desc s then finish e stOk 0 0 0 s
      else recount e.queue (setFlight e.id (fun x => { x with st := .waiting }) s)) s

/-- A SIGNAL enters flight (R575, R576, R578). -/
def beginSignal (e : InFlight) (s : State) : State :=
  validated e [(1, stFieldInvalid, signalReserved e.desc || decide (2 ≤ signalMode e.desc)
      || (decide (signalMode e.desc = 0) && decide (fenceValue e.desc = 0))),
    (2, stFenceInvalid, !fenceOwn e s)]
    (setFlight e.id (fun x => { x with st := .signal })) s

/-- SIGNAL_APPLY (R578): the oldest SIGNAL of a port, once every earlier descriptor of the port has completed. -/
def execSignalApply (port : Nat) (s : State) : Host.Outcome State Fault Refusal :=
  if fatal s then .next s
  else match s.inflight.find? (fun e => decide (e.st = .signal) && decide (e.port = port)) with
  | none => .next s
  | some e =>
    if s.inflight.any (fun x => decide (x.port = port) && decide (x.id < e.id) && decide (x.st ≠ .signal)) then .next s
    else
      let f := fenceCounter e.desc
      let old := getF (CMDG.FENCE_VALUE f) s
      let new := if signalMode e.desc = 0 then old + fenceValue e.desc else max old (fenceValue e.desc)
      if 2 ^ 64 ≤ new then .next (finish e stFenceRange 0 0 0 s)
      else .next (completeWaits (finish e stOk 0 0 0 (trace 12 0 99 f new (setF (CMDG.FENCE_VALUE f) new s))))

/-- A host writes a fence counter whole: it never lowers it (R601). -/
def fenceWrite (f value : Nat) (s : State) : State :=
  let s := dropHeld (CMDG.FENCE_VALUE f).addr s
  setFence f (max (getF (CMDG.FENCE_VALUE f) s) (value % 2 ^ 64)) 1 s

/-- FENCE_WRITE (R601). -/
def execFenceWrite (f : FenceNo) (value : Nat) (s : State) : Host.Outcome State Fault Refusal :=
  .next (hostWrite .late (fenceWrite f value) s)

/-- QIRQ_TIMER (R588): a record has waited TIMER × 1,024 LIC counts of TR99. -/
def execQirqTimer (q : QueueNo) (s : State) : Host.Outcome State Fault Refusal :=
  match (qauxOf q s).oldest with
  | none => .next s
  | some t =>
    let timer := getF (CMDQ.QIRQ_TIMER q) s
    .next (if flag (CMDQ.QIRQ_EN q) s && decide (timer ≠ 0) && decide (timer * 1024 ≤ licSince 99 t s)
      then queueIrq q s else s)

/-- Two byte ranges overlap. -/
def rangesOverlap (a n b m : Nat) : Bool := decide (a < b + m) && decide (b < a + n)

/-- The binding and ring settings are valid (R589). -/
def settingsValid (q : Nat) (s : State) : Bool :=
  let sq := getF (CMDQ.SQBASE_ADDR q) s * 2 ^ 12
  let cq := getF (CMDQ.CQBASE_ADDR q) s * 2 ^ 12
  flag (CMDQ.QBIND_VALID q) s && (casementOf (getF (CMDQ.QBIND_CASEMENT q) s) s).isSome && decide (sq ≠ 0) && decide (cq ≠ 0)
  && !rangesOverlap sq (64 * sqSize q s) cq (32 * cqSize q s)

/-- A DISABLED queue is enabled (R589): from a latched enable heads, tails and PHASE keep their values. -/
def enableQueue (q : Nat) (latched : Bool) (s : State) : State :=
  if settingsValid q s then
    let s := setF (CMDQ.QSTAT_STATE q) qEnabled (setF (CMDQ.QDONE_COUNT q) 0 s)
    if latched then s
    else setQaux q (fun _ => qauxInit) (setF (CMDQ.QPTR_SQHEAD q) 0 (setF (CMDQ.QPTR_SQTAIL q) 0
      (setF (CMDQ.QPTR_CQHEAD q) 0 (setF (CMDQ.QPTR_CQTAIL q) 0 s))))
  else queueError q 3 none s

/-- The queue stops (R590): a WAIT and an MMA held for pairing end with QUEUE_STOPPED. -/
def stopQueue (q : Nat) (s : State) : State :=
  forEach (s.inflight.filter (fun e => decide (e.queue = some q) && (decide (e.st = .waiting) || decide (e.st = .pairing))))
    (fun e s => finish e stQueueStopped 0 0 0 s) (setF (CMDQ.QSTAT_STATE q) qStopping s)

/-- QCTL_ENABLE (R589). -/
def execQctlEnable (q : QueueNo) (on : Bool) (s : State) : Host.Outcome State Fault Refusal :=
  .next (hostWrite .late (fun s =>
    let st := qState q s
    let s := setF (CMDQ.QCTL_ENABLE q) (b2n on) s
    if on then
      if st = qDisabled then enableQueue q false s
      else if st = qStopping then setF (CMDQ.QSTAT_PEND q) 1 s
      else s
    else if st = qEnabled then stopQueue q s
    else if st = qStopping then setF (CMDQ.QSTAT_PEND q) 0 s
    else if st = qError ∧ qInflight q s = 0 then setF (CMDQ.QSTAT_STATE q) qDisabled (setF (CMDQ.QSTAT_ERR q) 0 s)
    else s) s)

/-- QUEUE_DRAINED (R589): nothing is in flight from a STOPPING queue, or from one in ERROR whose ENABLE was written 0. -/
def execQueueDrained (q : QueueNo) (s : State) : Host.Outcome State Fault Refusal :=
  if qInflight q s ≠ 0 then .next s
  else if qState q s = qStopping then
    let s := setF (CMDQ.QSTAT_STATE q) qDisabled s
    .next (if flag (CMDQ.QSTAT_PEND q) s then enableQueue q true (setF (CMDQ.QSTAT_PEND q) 0 s) else s)
  else if qState q s = qError ∧ getF (CMDQ.QCTL_ENABLE q) s = 0 then
    .next (setF (CMDQ.QSTAT_STATE q) qDisabled (setF (CMDQ.QSTAT_ERR q) 0 s))
  else .next s

/-- A casement is TARGET of some program entry (R537). -/
def isTarget (c : Nat) (s : State) : Bool :=
  match s.image with
  | some im => im.programs.any (fun p => p.entries.any (fun x => decide (x.target = c)))
  | none => false

/-- QBIND_WRITE (R591, R595). -/
def execQbindWrite (q : QueueNo) (valid : Bool) (casement : Nat) (s : State) : Host.Outcome State Fault Refusal :=
  .next (hostWrite .late (fun s =>
    let c := casement % 1024
    let other := (List.range 256).any (fun r => decide (r ≠ q.val) && flag (CMDQ.QBIND_VALID r) s
      && decide (getF (CMDQ.QBIND_CASEMENT r) s = c))
    if qState q s ≠ qDisabled ∨ (valid = true ∧ ((casementOf c s).isNone ∨ other = true ∨ isTarget c s = true)) then
      regAccessError (0x00400000 + q * 0x1000 + 8) (setF (CMDQ.QSTAT_BINDERR q) 1 s)
    else setF (CMDQ.QBIND_VALID q) (b2n valid) (setF (CMDQ.QBIND_CASEMENT q) c s)) s)

/-- A log2 field of a ring register: reserved encodings leave it unchanged with a record (R21). -/
def setLog2 (f : Fld) (lo hi v : Nat) (s : State) : State :=
  if lo ≤ v ∧ v ≤ hi then setF f v s else regAccessError f.addr s

/-- Address of the register that a QUEUE_RING_WRITE names. -/
def ringAddr (q : Nat) (r : RingReg) : Nat :=
  0x00400000 + q * 0x1000 + (match r with
    | .qring => 0x0C
    | .sqbase => 0x10
    | .cqbase => 0x18)

/-- A ring register of queue `q` is written whole: only while DISABLED (R596, R597); a held lower half is replaced (R19). -/
def ringWrite (q : Nat) (r : RingReg) (value : Nat) (s : State) : State :=
  let s := dropHeld (ringAddr q r) s
  if qState q s ≠ qDisabled then regAccessError (ringAddr q r) s
  else match r with
    | .qring => setLog2 (CMDQ.QRING_SQLOG2 q) 4 16 (bitsOf value 0 5) (setLog2 (CMDQ.QRING_CQLOG2 q) 4 16 (bitsOf value 16 5) s)
    | .sqbase => setF (CMDQ.SQBASE_ADDR q) (bitsOf value 12 52) s
    | .cqbase => setF (CMDQ.CQBASE_ADDR q) (bitsOf value 12 52) s

/-- QUEUE_RING_WRITE (R596, R597). -/
def execQueueRingWrite (q : QueueNo) (r : RingReg) (value : Nat) (s : State) : Host.Outcome State Fault Refusal :=
  .next (hostWrite .late (ringWrite q r value) s)

/-- HOST_REQUEST_FAILURE (R589, R590, R606). -/
def execHostRequestFailure (q : QueueNo) (f : HostFailure) (s : State) : Host.Outcome State Fault Refusal :=
  if qState q s = qEnabled ∨ qState q s = qStopping then
    match f with
    | .ringRead => .next (queueError q 1 none s)
    | .recordWrite seq status => .next (queueError q 2 (some (seq, status)) s)
  else .next s

end Sys2Proof.Machine
end

