-- ==== Sys2Proof/Machine/ImageCheck.lean ====
section
/-! DEFINITION. The Woilo image (R522 to R537): its header and directory, its sections, the loader's checks in code order (R548),
and what it installs. A failing check is the code of R548, the TYPE concerned and the failing record. -/

namespace Sys2Proof.Machine

/-- Index of the first element that is bad. -/
def firstBad {α : Type} (l : List α) (bad : Nat → α → Bool) : Option Nat :=
  ((indexFrom 0 l).find? (fun p => bad p.1 p.2)).map (fun p => p.1)

/-- The first check that fails, in order. -/
def firstCheck : List (Nat × Nat × Option Nat) → Option (Nat × Nat × Nat)
  | [] => none
  | (c, sec, some r) :: _ => some (c, sec, r)
  | (_, _, none) :: t => firstCheck t

/-- Bytes `o` to `o + n - 1` are zero. -/
def zeroAt (bs : List Byte) (o n : Nat) : Bool := decide (leAt bs o n = 0)

/-- The bytes of a list of records of `n` bytes. -/
def recordsOf (n : Nat) (bs : List Byte) : List (List Byte) := (List.range (bs.length / n)).map (fun i => byteSlice bs (n * i) n)

/-! Header, directory, trailer (R522 to R525). -/

def imgSections (bs : List Byte) : Nat := leAt bs 6 2
def imgLen (bs : List Byte) : Nat := leAt bs 8 8
def imgId (bs : List Byte) : Nat := leAt bs 0x10 8
def imgSigned (bs : List Byte) : Bool := decide (leAt bs 0x1B 1 % 2 = 1)
def imgDegree (i : Nat) (bs : List Byte) : Nat := leAt bs (0x20 + 2 * i) 2
/-- Where the sections must end (R525). -/
def imgEnd (bs : List Byte) : Nat := imgLen bs - (if imgSigned bs then 128 else 0)
/-- The span of the image's SHA-512 (R541). -/
def imgDigest (bs : List Byte) : List Byte := sha512 (bs.take (imgEnd bs))

/-- Bytes of a LEN that the loader accepts (R523). -/
def lenAllowed (n : Nat) : Bool := decide (4096 ≤ n) && decide (n ≤ 0x08000000)

/-- HEADER (R523, R548). -/
def headerFault (len : Nat) (bs : List Byte) : Bool :=
  decide (leAt bs 0 4 ≠ 0x4C494F57) || decide (leAt bs 4 2 ≠ 1) || decide (imgSections bs < 2) || decide (12 < imgSections bs)
  || !lenAllowed (imgLen bs) || decide (len ≠ imgLen bs) || decide (2 ≤ leAt bs 0x1B 1) || !zeroAt bs 0x1C 4 || !zeroAt bs 0x28 20
  || (List.range 4).any (fun i => decide (imgDegree i bs = 0)) || decide (crc32c (byteSlice bs 0 0x3C) ≠ leAt bs 0x3C 4)

/-- PART (R523, R548). -/
def partFault (bs : List Byte) : Bool := decide (leAt bs 0x18 2 ≠ 0x0160) || decide (leAt bs 0x1A 1 ≠ 0)

/-- A directory entry (R524). -/
structure ImgSec where
  ty : Nat
  rsv : Nat
  off : Nat
  len : Nat
  crc : Nat
deriving DecidableEq, Repr

def directory (bs : List Byte) : List ImgSec :=
  (List.range (imgSections bs)).map (fun i =>
    let o := 0x40 + 16 * i
    ⟨leAt bs o 2, leAt bs (o + 2) 2, leAt bs (o + 4) 4, leAt bs (o + 8) 4, leAt bs (o + 12) 4⟩)

/-- Bytes of a record of a section (R524); 16 divides every program (R536). -/
def recSize (ty : Nat) : Nat :=
  match ty with
  | 1 => 8 | 2 => 4 | 3 => 16 | 4 => 4 | 5 => 8 | 6 => 4 | 7 => 4 | 8 => 8 | 9 => 64 | 10 => 32 | _ => 16

/-- Offsets of the program headers of a PROGRAM section; none where the section does not end with a program (R536). -/
def programHeads (b : List Byte) : Nat → Nat → Option (List Nat)
  | 0, pos => if pos = b.length then some [] else none
  | fuel + 1, pos =>
    if pos = b.length then some []
    else if b.length < pos + 32 then none
    else
      let next := pos + 32 + 80 * leAt b (pos + 4) 4
      if b.length < next then none else (programHeads b fuel next).map (fun l => pos :: l)

/-- The bytes of a section by directory entry, and by TYPE (none for a section that the image lacks). -/
def secBytes (bs : List Byte) (e : ImgSec) : List Byte := byteSlice bs e.off e.len
def section0 (ty : Nat) (bs : List Byte) : List Byte :=
  match (directory bs).find? (fun e => decide (e.ty = ty)) with
  | some e => secBytes bs e
  | none => []

/-- A directory entry breaks R522 or R524: its TYPE, reserved bytes, place, length, or an overlap with an earlier section. -/
def entryFault (bs : List Byte) (i : Nat) (e : ImgSec) : Bool :=
  let before := (directory bs).take i
  decide (e.ty = 0) || decide (12 < e.ty) || decide (e.rsv ≠ 0) || before.any (fun x => decide (x.ty = e.ty))
  || decide (e.off % 64 ≠ 0) || decide (e.off < 0x40 + 16 * imgSections bs) || decide (imgEnd bs < e.off + e.len)
  || before.any (fun x => rangesOverlap x.off x.len e.off e.len) || decide (e.len % recSize e.ty ≠ 0)
  || (decide (e.ty = 12) && (programHeads (secBytes bs e) (e.len / 32 + 1) 0).isNone)

/-- A byte outside header, directory, sections and trailer is not zero (R522). -/
def strayByte (bs : List Byte) : Bool :=
  (indexFrom 0 bs).any (fun p => decide (p.2 ≠ 0#8) && decide (0x40 + 16 * imgSections bs ≤ p.1) && decide (p.1 < imgEnd bs)
    && !(directory bs).any (fun e => decide (e.off ≤ p.1) && decide (p.1 < e.off + e.len)))

/-- A TYPE in a record of the loader's error (R548): 0 for one that R524 does not list. -/
def errType (ty : Nat) : Nat := if ty ≤ 12 then ty else 0

/-- DIRECTORY (R548). -/
def directoryFault (bs : List Byte) : Option (Nat × Nat) :=
  match firstBad (directory bs) (entryFault bs) with
  | some i => some (errType (((directory bs).map (fun e => e.ty)).getD i 0), i)
  | none =>
    match [1, 9].find? (fun ty => !(directory bs).any (fun e => decide (e.ty = ty))) with
    | some ty => some (ty, 0)
    | none => if strayByte bs then some (0, 0) else none

/-- SECTION_CRC (R548). -/
def sectionCrcFault (bs : List Byte) : Option (Nat × Nat) :=
  (firstBad (directory bs) (fun _ e => decide (crc32c (secBytes bs e) ≠ e.crc))).map (fun i =>
    (((directory bs).map (fun e => e.ty)).getD i 0, i))

/-- SIG_REQUIRED and SIG_INVALID (R525, R542, R693). -/
def sigFault (bs : List Byte) (s : State) : Option Nat :=
  if !imgSigned bs then (if flag KEY.STAT_SIGREQ s then some 6 else none)
  else
    let digest := byteSlice bs (imgLen bs - 128) 64
    if !noKey (ownerKey s) && decide (digest = imgDigest bs)
        && Config.ed25519Verify (ownerKey s) digest (byteSlice bs (imgLen bs - 64) 64) then none
    else some 7

/-- The checks of step 1 of R541 on what the loader has read. -/
def outerFault (len : Nat) (bs : List Byte) (s : State) : Option (Nat × Nat × Nat) :=
  if headerFault len bs then some (2, 0, 0)
  else if partFault bs then some (3, 0, 0)
  else match directoryFault bs with
  | some (ty, r) => some (4, ty, r)
  | none =>
    match sectionCrcFault bs with
    | some (ty, r) => some (5, ty, r)
    | none =>
      match sigFault bs s with
      | some c => some (c, 0, 0)
      | none => if lcState s = 3 then some (8, 0, 0) else none

/-! CASEMENT (R527). -/

def parseCasement (r : List Byte) : Casement :=
  ⟨if leAt r 0 2 = 0xFFFF then none else some (leAt r 0 2), decide (leAt r 2 1 = 0), leAt r 3 1, decide (leAt r 4 1 % 2 = 1)⟩

def parseCasements (bs : List Byte) : List Casement := (recordsOf 8 (section0 1 bs)).map parseCasement

/-- A record breaks R527 or the limits of R46. -/
def casementFault (cs : List Casement) (i : Nat) (r : List Byte) : Bool :=
  let k := parseCasement r
  let kids := (childrenOf cs i).length
  let tops := ((cs.take (i + 1)).filter (fun c => c.parent.isNone)).length
  let parentBad : Bool := match k.parent with
    | none => decide (64 < tops)
    | some p => decide (i = 0) || !(accountChain cs 1024 (i - 1)).contains p
        || (match cs[p]? with | some q => q.leaf | none => true)
  decide (1024 ≤ i) || decide (2 ≤ leAt r 2 1) || decide (2 ≤ leAt r 4 1) || !zeroAt r 5 3 || parentBad
  || (if k.leaf then decide (k.cores = 0) || decide (32 < k.cores) else decide (k.cores ≠ 0) || decide (kids = 0) || decide (64 < kids))
  || (k.host && (k.parent.isSome || (cs.take i).any (fun c => c.host)))

def treeFault (bs : List Byte) : Option Nat :=
  let rs := recordsOf 8 (section0 1 bs)
  if rs = [] then some 0 else firstBad rs (casementFault (parseCasements bs))

/-- The tenant above a casement (R45). -/
def treeTop (cs : List Casement) (c : Nat) : Nat := (accountChain cs 1024 c).getLastD c

/-! PROGRAM as a list of records (R536, R537, R548). -/

/-- A record of the PROGRAM section: whether it is a header, its program's number and header, its index in the program, its bytes. -/
structure ProgRec where
  head : Bool
  prog : Nat
  header : List Byte
  index : Nat
  bytes : List Byte
deriving DecidableEq, Repr

def programRecs (bs : List Byte) : List ProgRec :=
  let b := section0 12 bs
  (indexFrom 0 ((programHeads b (b.length / 32 + 1) 0).getD [])).flatMap (fun p =>
    let h := byteSlice b p.2 32
    ⟨true, p.1, h, 0, h⟩ :: (List.range (leAt h 4 4)).map (fun i => ⟨false, p.1, h, i, byteSlice b (p.2 + 32 + 80 * i) 80⟩))

def prOwner (h : List Byte) : Nat := leAt h 0 2
def peTarget (b : List Byte) : Nat := leAt b 0 2
def pePatch (b : List Byte) : Nat := leAt b 2 1
def pePoff (b : List Byte) : Nat := leAt b 3 1
def peLayer (b : List Byte) : Nat := leAt b 4 2
def peDesc (b : List Byte) : Desc := BitVec.ofNat 512 (leAt b 0x10 64)

/-- Casements that some entry targets (R537). -/
def programTargets (bs : List Byte) : List Nat := ((programRecs bs).filter (fun r => !r.head)).map (fun r => peTarget r.bytes)

/-! BINDING, QUOTA, TRANSOM, ARBITER, REGION, DOORWAY (R528 to R533). -/

def parseBindings (bs : List Byte) : List (Nat × Nat) := (recordsOf 4 (section0 2 bs)).map (fun r => (leAt r 0 2, leAt r 2 2))

def bindingFault (bs : List Byte) : Option Nat :=
  let l := parseBindings bs
  let n := (parseCasements bs).length
  let targets := programTargets bs
  firstBad l (fun i b => decide (256 ≤ b.1) || decide (n ≤ b.2) || (l.take i).any (fun x => decide (x.1 = b.1) || decide (x.2 = b.2))
    || targets.contains b.2)

def parseQuotas (bs : List Byte) : List (Nat × List Nat) :=
  (recordsOf 16 (section0 3 bs)).map (fun r => (leAt r 0 2, [leAt r 4 4, leAt r 8 4, leAt r 12 4]))

/-- The nearest ancestor that has a quota record, a top-level casement always counting as one (R529). -/
def quotaParent (cs : List Casement) (l : List (Nat × List Nat)) (c : Nat) : Option Nat :=
  ((accountChain cs 1024 c).drop 1).find? (fun a => l.any (fun q => decide (q.1 = a)) || decide (treeTop cs a = a))

/-- Quota of a casement in a tier, 0 without a record. -/
def quotaIn (l : List (Nat × List Nat)) (c tier : Nat) : Nat :=
  match l.find? (fun q => decide (q.1 = c)) with
  | some q => q.2.getD tier 0
  | none => 0

/-- A record breaks R529: the sums of R63 are taken over the records up to it. -/
def quotaFault (bs : List Byte) : Option Nat :=
  let cs := parseCasements bs
  let l := parseQuotas bs
  let rs := recordsOf 16 (section0 3 bs)
  firstBad l (fun i q => decide (cs.length ≤ q.1) || !zeroAt (rs.getD i []) 2 2 || (l.take i).any (fun x => decide (x.1 = q.1))
    || (match quotaParent cs l q.1 with
      | none => false
      | some p => (List.range 3).any (fun tier =>
          decide (quotaIn l p tier < (((l.take (i + 1)).filter (fun x => decide (quotaParent cs l x.1 = some p))).map
            (fun x => x.2.getD tier 0)).sum))))

def transomFault (bs : List Byte) : Option Nat :=
  let cs := parseCasements bs
  let rs := recordsOf 4 (section0 4 bs)
  firstBad rs (fun i r => !((cs[leAt r 0 2]?).map (fun k => k.leaf)).getD false || !zeroAt r 3 1
    || (rs.take i).any (fun x => decide (leAt x 0 2 = leAt r 0 2)))

/-- Leaf casements with ALLOW 0 (R530). -/
def parseTransomDeny (bs : List Byte) : List Nat :=
  ((recordsOf 4 (section0 4 bs)).filter (fun r => decide (leAt r 2 1 % 2 = 0))).map (fun r => leAt r 0 2)

/-- INST, REQ, INPUT, WAITLIM (R531). -/
def parseArbiters (bs : List Byte) : List (Nat × Nat × Nat × Nat) :=
  (recordsOf 8 (section0 5 bs)).map (fun r => (leAt r 0 2, leAt r 2 1, leAt r 3 1, leAt r 4 1))

/-- The input number that a requester comes to have (R531). -/
def finalInput (l : List (Nat × Nat × Nat × Nat)) (inst req : Nat) : Nat :=
  match l.find? (fun a => decide (a.1 = inst) && decide (a.2.1 = req)) with
  | some a => a.2.2.1
  | none => arbResetInput inst req

/-- A record breaks R531 or R642, TC0's input number being fixed. -/
def arbiterFault (bs : List Byte) : Option Nat :=
  let l := parseArbiters bs
  let rs := recordsOf 8 (section0 5 bs)
  firstBad l (fun i a => (arbKind a.1).isNone || decide (arbReqs a.1 ≤ a.2.1) || decide (15 < a.2.2.1) || !zeroAt (rs.getD i []) 5 3
    || (l.take i).any (fun x => decide (x.1 = a.1) && decide (x.2.1 = a.2.1))
    || (decide (arbKind a.1 = some 4) && decide (a.2.1 = 0) && decide (a.2.2.1 ≠ 15))
    || (List.range (arbReqs a.1)).any (fun r => decide (r ≠ a.2.1) && decide (finalInput l a.1 r = a.2.2.1)))

def parseRegions (bs : List Byte) : List (Nat × Nat) := (recordsOf 4 (section0 6 bs)).map (fun r => (leAt r 0 1, leAt r 1 1))

/-- The VCODE that the image gives a region (R532). -/
def imageVcode (l : List (Nat × Nat)) (n : Nat) : Nat := (optGet l n).getD 40

def regionFault (bs : List Byte) : Option Nat :=
  let l := parseRegions bs
  let rs := recordsOf 4 (section0 6 bs)
  firstBad l (fun i p => decide (100 ≤ p.1) || decide (p.2 < 10) || decide (60 < p.2) || !zeroAt (rs.getD i []) 2 2
    || (l.take i).any (fun x => decide (x.1 = p.1))
    || (neighbourList p.1).any (fun m => decide (30 < ((p.2 : Int) - imageVcode l m).natAbs)))

def parseDoorways (bs : List Byte) : List (Nat × Nat) := (recordsOf 4 (section0 7 bs)).map (fun r => (leAt r 0 1, leAt r 1 1))

def doorwayFault (bs : List Byte) : Option Nat :=
  let l := parseDoorways bs
  let rs := recordsOf 4 (section0 7 bs)
  firstBad l (fun i p => decide (16 ≤ p.1) || decide (64 ≤ p.2) || decide (bitsOf p.2 2 2 ≠ 0) || decide (bitsOf p.2 4 2 = 3)
    || !zeroAt (rs.getD i []) 2 2 || (l.take i).any (fun x => decide (x.1 = p.1)))

/-! DEFFMT and TENSOR (R534, R535, R260, R261). -/

/-- TENANT, ROLE, FMTTAG, BAXIS (R534). -/
def parseDeffmts (bs : List Byte) : List (Nat × Nat × Nat × Nat) :=
  (recordsOf 8 (section0 8 bs)).map (fun r => (leAt r 0 2, leAt r 2 1, leAt r 3 1, leAt r 4 1))

def deffmtFault (bs : List Byte) : Option Nat :=
  let cs := parseCasements bs
  let l := parseDeffmts bs
  let rs := recordsOf 8 (section0 8 bs)
  firstBad l (fun i d => malformedTag d.2.2.1 || !((cs[d.1]?).map (fun k => k.parent.isNone)).getD false || decide (5 < d.2.1)
    || (l.take i).any (fun x => decide (x.1 = d.1) && decide (x.2.1 = d.2.1)) || decide (3 < d.2.2.2)
    || (decide (d.2.2.2 ≠ 0) && !isBlockTag d.2.2.1) || !zeroAt (rs.getD i []) 5 3)

def tensorRecs (bs : List Byte) : List (List Byte) := recordsOf 64 (section0 9 bs)
def trUsedef (r : List Byte) : Bool := decide (leAt r 0x30 1 % 2 = 1)

/-- An entry as it stands in the image, the fields of R260. -/
def rawTensor (r : List Byte) : Tensor :=
  ⟨leAt r 0 4, leAt r 4 4, (List.range 4).map (fun i => leAt r (8 + 4 * i) 4), (List.range 4).map (fun i => leAt r (0x18 + 4 * i) 4),
    leAt r 0x28 1, leAt r 0x29 1, leAt r 0x2A 2, leAt r 0x2C 2, leAt r 0x2E 1, leAt r 0x2F 1⟩

/-- The default format of a tensor's tenant and role (R535). -/
def defaultFmt (cs : List Casement) (ds : List (Nat × Nat × Nat × Nat)) (t : Tensor) : Option (Nat × Nat) :=
  (ds.find? (fun d => decide (d.1 = treeTop cs t.owner) && decide (d.2.1 = t.role))).map (fun d => (d.2.2.1, d.2.2.2))

/-- A tensor, not a view, with USEDEF resolved. -/
def resolveBase (cs : List Casement) (ds : List (Nat × Nat × Nat × Nat)) (r : List Byte) : Tensor :=
  let t := rawTensor r
  if trUsedef r then
    match defaultFmt cs ds t with
    | some (f, a) => { t with fmt := f, baxis := a }
    | none => t
  else t

/-- The entries with USEDEF resolved (R535): a view takes its base's format. -/
def resolveTensors (cs : List Casement) (ds : List (Nat × Nat × Nat × Nat)) (rs : List (List Byte)) : List Tensor :=
  let bases := (rs.filter (fun r => decide (leAt r 4 4 = 0))).map (resolveBase cs ds)
  rs.map (fun r =>
    let t := rawTensor r
    if t.base = 0 then resolveBase cs ds r
    else if trUsedef r then
      match bases.find? (fun b => decide (b.handle = t.base)) with
      | some b => { t with fmt := b.fmt, baxis := b.baxis }
      | none => t
    else t)

def parseTensors (bs : List Byte) : List Tensor := resolveTensors (parseCasements bs) (parseDeffmts bs) (tensorRecs bs)

/-- A malformed tag or a missing default in the tensor table (R106, R535). -/
def tensorFmtFault (bs : List Byte) : Option Nat :=
  let cs := parseCasements bs
  let ds := parseDeffmts bs
  firstBad (tensorRecs bs) (fun _ r =>
    if trUsedef r then decide (leAt r 4 4 = 0) && (defaultFmt cs ds (rawTensor r)).isNone
    else malformedTag (leAt r 0x28 1))

/-- A view begins or ends inside a block of its base (R261). -/
def viewBreaksBlocks (b v : Tensor) : Bool :=
  isBlockTag b.fmt &&
    (let e := orgOf v b.baxis + extOf v b.baxis
     decide (orgOf v b.baxis % blockSize b.fmt ≠ 0) || (decide (e % blockSize b.fmt ≠ 0) && decide (e ≠ extOf b b.baxis)))

/-- A resolved entry breaks R260, R261, R270 or R535. -/
def tensorFault (bs : List Byte) : Option Nat :=
  let cs := parseCasements bs
  let ts := parseTensors bs
  let rs := tensorRecs bs
  firstBad ts (fun i t =>
    let r := rs.getD i []
    let baseBad : Bool :=
      if t.base = 0 then t.org.any (fun o => decide (o ≠ 0)) || decide (268435456 < paneCount t)
      else match ts.find? (fun b => decide (b.handle = t.base) && decide (b.base = 0)) with
        | none => true
        | some b => (List.range 4).any (fun d => decide (extOf b d < orgOf t d + extOf t d)) || decide (t.baxis ≠ b.baxis)
            || decide (t.owner ≠ b.owner) || decide (t.fmt ≠ b.fmt) || viewBreaksBlocks b t
    decide (1048576 ≤ i) || decide (t.handle = 0) || (ts.take i).any (fun x => decide (x.handle = t.handle))
    || t.ext.any (fun e => decide (e = 0) || decide (16777216 < e)) || decide (3 < t.baxis)
    || (decide (t.baxis ≠ 0) && !isBlockTag t.fmt) || decide (cs.length ≤ t.owner)
    || (decide (8191 < t.layer) && decide (t.layer ≠ 0xFFFF)) || decide (5 < t.role) || decide (4 < t.pin)
    || (decide (t.pin = 3) && decide (t.role = 5)) || decide (2 ≤ leAt r 0x30 1) || !zeroAt r 0x31 15 || baseBad)

/-! SWEEP and HISTORY (R424, R535). -/

/-- The tensor, not a view, that a handle names. -/
def baseTensor (ts : List Tensor) (h : Nat) : Option Tensor := ts.find? (fun t => decide (t.handle = h) && decide (t.base = 0))

/-- A handle names a tensor of a role, with a format and extents that hold `p`. -/
def namesTensor (ts : List Tensor) (h role : Nat) (p : Tensor → Bool) : Bool :=
  match baseTensor ts h with
  | some t => decide (t.role = role) && p t
  | none => false

/-- An entry of the sweep table breaks R424. -/
def sweepEntryFault (ts : List Tensor) (rdeg : Nat) (b : List Byte) : Bool :=
  match baseTensor ts (swWH b) with
  | none => true
  | some w =>
    let same (t : Tensor) : Bool := decide (t.ext = w.ext)
    let kind := swKIND b
    let mfmt := ((baseTensor ts (swM1H b)).map (fun t => t.fmt)).getD 0
    let momentOk (t : Tensor) : Bool := same t && (decide (t.fmt = fmtB32) || (decide (t.fmt = fmtGF16) && decide (rdeg ≤ 1)))
    let shape (e : List Nat) (t : Tensor) : Bool := decide (t.fmt = fmtB32) && decide (t.ext = e)
    let m2Ok : Bool := match kind with
      | 0 => decide (swM2H b = 0)
      | 3 => namesTensor ts (swM2H b) 0 (shape [swRows w, 1, 1, 1])
      | _ => namesTensor ts (swM2H b) 4 (fun t => momentOk t && decide (t.fmt = mfmt))
    let m3Ok : Bool := if kind = 3 then namesTensor ts (swM3H b) 0 (shape [swCols w, 1, 1, 1]) else decide (swM3H b = 0)
    let wwOk : Bool := decide (swWWH b = 0) || namesTensor ts (swWWH b) 2 (fun t => same t
      && (decide (t.fmt = fmtB32) || decide (t.fmt = fmtGF16) || (isBlockTag t.fmt && decide (t.baxis ≤ 1))))
    let dgOk : Bool := decide (swDGH b = 0) || namesTensor ts (swDGH b) 0 (fun t => decide (t.fmt = fmtB64)
      && decide (extOf t 0 = shardCount w))
    !(decide (w.role = 3) && decide (w.fmt = fmtB32) && decide (w.layer ≠ 0xFFFF) && wwOk
      && namesTensor ts (swGH b) 5 (fun t => same t && decide (t.fmt = fmtB32)) && namesTensor ts (swM1H b) 4 momentOk && m2Ok && m3Ok
      && dgOk && decide (swOPT b ≤ 15) && decide (kind ≤ 3) && zeroAt b 0x1E 2)

def sweepFault (bs : List Byte) : Option Nat :=
  let ts := parseTensors bs
  firstBad (recordsOf 32 (section0 10 bs)) (fun i b => decide (65536 ≤ i) || sweepEntryFault ts (imgDegree 2 bs) b)

/-- LAYER and entry of the HISTORY section (R535). -/
def parseHistory (bs : List Byte) : List (Nat × Nat) := (recordsOf 16 (section0 11 bs)).map (fun r => (leAt r 0 2, leAt r 8 8))

/-- Reserved bits of an entry of the scale history (R204). -/
def histReserved (v : Nat) : Bool :=
  decide (bitsOf v 56 6 ≠ 0) || decide (bitsOf v 45 3 ≠ 0) || decide (bitsOf v 29 3 ≠ 0) || decide (bitsOf v 0 16 ≠ 0)

def historyFault (bs : List Byte) : Option Nat :=
  let ts := parseTensors bs
  let l := parseHistory bs
  let rs := recordsOf 16 (section0 11 bs)
  firstBad l (fun i p => decide (8191 < p.1) || !zeroAt (rs.getD i []) 2 6 || !bitOf p.2 63 || histReserved p.2
    || !ts.any (fun t => decide (t.layer = p.1)) || (l.take i).any (fun x => decide (x.1 = p.1)))

/-- The scale history that the loader writes (R205, R535): an entry for every layer that some tensor names. -/
def imageHistory (bs : List Byte) : List (Nat × Nat) :=
  let ls := dedupNat (sortNat (((parseTensors bs).filter (fun t => decide (t.layer ≠ 0xFFFF))).map (fun t => t.layer)))
  let h := parseHistory bs
  ls.map (fun l => (l, (optGet h l).getD (2 ^ 63)))

/-! PROGRAM (R536, R537). -/

/-- The tenant number of a casement: the rank of its top-level casement among those of the image (R572). -/
def tenantRank (cs : List Casement) (c : Nat) : Nat :=
  ((indexFrom 0 cs).filter (fun x => x.2.parent.isNone && decide (x.1 < treeTop cs c))).length

/-- A program header breaks R536 or R573: `recs` are the records before it. -/
def programHeadFault (cs : List Casement) (bound : List Nat) (recs : List ProgRec) (r : ProgRec) : Bool :=
  let h := r.bytes
  let heads := recs.filter (fun x => x.head)
  let sum := leAt h 4 4 + (heads.map (fun x => leAt x.bytes 4 4)).sum
  !bound.contains (prOwner h) || !zeroAt h 2 2 || decide (leAt h 4 4 = 0) || decide (4096 < leAt h 4 4) || decide (65536 < sum)
  || decide (4096 ≤ leAt h 8 2) || !zeroAt h 0x0A 2 || decide (leAt h 0x18 8 = 0)
  || heads.any (fun x => decide (prOwner x.bytes = prOwner h)) || decide (leAt h 8 2 / 64 ≠ tenantRank cs (prOwner h))

/-- A program entry breaks R537: `recs` are the records before it. -/
def programEntryFault (cs : List Casement) (recs : List ProgRec) (r : ProgRec) : Bool :=
  let b := r.bytes
  let owner := prOwner r.header
  let op := dOpcode (peDesc b)
  decide (peTarget b = owner) || !(accountChain cs 1024 (peTarget b)).contains owner || decide (3 < pePatch b)
  || (if pePatch b = 3 then decide (pePoff b < 0x10) || decide (0x3C < pePoff b) || decide (pePoff b % 4 ≠ 0) else decide (pePoff b ≠ 0))
  || (if pePatch b = 1 ∨ pePatch b = 2 then decide (8191 < peLayer b) || decide (op ≠ 1) else decide (peLayer b ≠ 0))
  || !zeroAt b 6 10 || decide (op = 0) || decide (0x0A < op)
  || recs.any (fun x => !x.head && decide (x.prog ≠ r.prog) && decide (peTarget x.bytes = peTarget b))

def programFault (bs : List Byte) : Option Nat :=
  let cs := parseCasements bs
  let bound := (parseBindings bs).map (fun b => b.2)
  let recs := programRecs bs
  firstBad recs (fun i r => if r.head then programHeadFault cs bound (recs.take i) r else programEntryFault cs (recs.take i) r)

def parsePrograms (bs : List Byte) : List Program :=
  let recs := programRecs bs
  (recs.filter (fun r => r.head)).map (fun r =>
    let h := r.bytes
    ⟨prOwner h, (recs.filter (fun x => !x.head && decide (x.prog = r.prog))).map (fun x =>
      ⟨peTarget x.bytes, pePatch x.bytes, pePoff x.bytes, peLayer x.bytes, peDesc x.bytes⟩),
      leAt h 8 2, leAt h 0x0C 4, leAt h 0x10 8, leAt h 0x18 8⟩)

/-! STATE 3 of R541. -/

/-- The checks of the sections in code order (R541, R548). -/
def innerFault (bs : List Byte) : Option (Nat × Nat × Nat) :=
  firstCheck [(9, 1, treeFault bs), (10, 2, bindingFault bs), (11, 3, quotaFault bs), (12, 4, transomFault bs), (13, 5, arbiterFault bs),
    (14, 6, regionFault bs), (15, 7, doorwayFault bs), (16, 8, deffmtFault bs), (16, 9, tensorFmtFault bs), (17, 9, tensorFault bs),
    (18, 10, sweepFault bs), (19, 11, historyFault bs), (20, 12, programFault bs)]

/-- What the loader installs (R523 to R537). -/
def parseImage (bs : List Byte) : Image where
  id := imgId bs
  signed := imgSigned bs
  digest := imgDigest bs
  tdeg := imgDegree 0 bs
  pdeg := imgDegree 1 bs
  rdeg := imgDegree 2 bs
  mbatch := imgDegree 3 bs
  casements := parseCasements bs
  bindings := parseBindings bs
  quotas := parseQuotas bs
  transomDeny := parseTransomDeny bs
  arbiters := parseArbiters bs
  vcodes := parseRegions bs
  doorways := parseDoorways bs
  tensors := parseTensors bs
  sweeps := (indexFrom 0 (recordsOf 32 (section0 10 bs)))
  history := imageHistory bs
  programs := parsePrograms bs

end Sys2Proof.Machine
end

