-- ==== Sys2Proof/Machine/Loader.lean ====
section
/-! DEFINITION. The loader of the Woilo image (R541 to R548): loads, UNLOADs and ABORT, and the taking of casement-program entries
(R538). -/

namespace Sys2Proof.Machine

def imgState (s : State) : Nat := getF IMG.STAT_STATE s

/-- The loader runs: TR99 is out of reset and the device is neither booting nor fatal (R656, R667). -/
def loaderUp (s : State) : Bool := alive s && !(regionOf 99 s).inReset

/-- IMG.STAT[STATE] takes a value, with a trace record (R552, R708). -/
def setImgState (v : Nat) (s : State) : State :=
  let id := match s.load.bind (fun j => j.image) with
    | some im => im.id
    | none => getF IMG.LOADID_ID s
  trace 13 v 99 (getF IMG.ERR_CODE s + getF IMG.ERR_SECTION s * 2 ^ 8) id (setF IMG.STAT_STATE v s)

/-- A load or UNLOAD ends in STATE 8 (R541, R545, R548): the previous image stays in force and descriptors are taken again. -/
def loadFails (code sec rec : Nat) (s : State) : State :=
  let s := setF IMG.ERR_CODE code (setF IMG.ERR_SECTION sec (setF IMG.ERRREC_RECORD rec s))
  let s := setF IMG.CTRL_LOAD 0 (setF IMG.CTRL_UNLOAD 0 (setF TIER.STAT_BUSY (getF TIER.CTRL_REPLACE s) s))
  { setImgState 8 s with load := none }

/-- The read requests for a range of host memory: up to 512 bytes each, never across 4 KiB (R613). -/
def readRequests : Nat → Nat → Nat → List (Nat × Nat)
  | 0, _, _ => []
  | fuel + 1, a, len =>
    let k := min len (min 512 (4096 - a % 4096))
    if k = 0 then [] else (a, k) :: readRequests fuel (a + k) (len - k)

/-- The requests of an image, whose address is a multiple of 64 (R541). -/
def imageRequests (s : State) : List (Nat × Nat) :=
  readRequests (getF IMG.LEN_LEN s / 64 + 1) (getF IMG.ADDR_ADDR s) (getF IMG.LEN_LEN s)

/-- The loader's CXL.io reads of the whole image (R541, R613); without bus mastering it fails with FETCH. -/
def readImage (s : State) : State :=
  if busOk s then forEach (imageRequests s) (fun r s => emit (.hostRead r.1 r.2) s) s else loadFails 1 0 0 s

/-- STATE 1 to 6: a load or UNLOAD is under way (R545). -/
def loading (s : State) : Bool := decide (1 ≤ imgState s) && decide (imgState s ≤ 6)

/-- IMG_LOAD (R541 step 1, R545, R548): ADDR and LEN are checked before any read. -/
def execImgLoad (s : State) : Host.Outcome State Fault Refusal :=
  .next (hostWrite .late (fun s =>
    if loading s then s
    else
      let s := { s with load := some ⟨none, none⟩ }
      let s := setF IMG.CTRL_LOAD 1 (setF IMG.ERR_CODE 0 (setF IMG.ERR_SECTION 0 (setF IMG.ERRREC_RECORD 0 s)))
      let s := setImgState 1 s
      if getF IMG.ADDR_ADDR s % 64 ≠ 0 then loadFails 1 0 0 s
      else if !lenAllowed (getF IMG.LEN_LEN s) then loadFails 2 0 0 s
      else readImage s) s)

/-- A load or UNLOAD quiesces (R541 step 3, R568). -/
def startQuiesce (s : State) : State := setImgState 4 (setF TIER.STAT_BUSY 1 s)

/-- IMG_FETCH_DONE (R541 steps 1 and 2, R542, R548): the first LEN bytes that the reads returned, or none where one failed. -/
def execImgFetchDone (bytes : Option (List Byte)) (s : State) : Host.Outcome State Fault Refusal :=
  .next (if imgState s ≠ 1 || !loaderUp s then s
    else match bytes with
    | none => loadFails 1 0 0 s
    | some raw =>
      let len := getF IMG.LEN_LEN s
      let bs := byteSlice raw 0 len
      match outerFault len bs s with
      | some (c, sec, r) => loadFails c sec r s
      | none =>
        let s := setImgState 3 { s with load := some ⟨some (parseImage bs), none⟩ }
        match innerFault bs with
        | some (c, sec, r) => loadFails c sec r s
        | none => startQuiesce s)

/-- IMG_UNLOAD (R544, R545). -/
def execImgUnload (s : State) : Host.Outcome State Fault Refusal :=
  .next (hostWrite .late (fun s =>
    if loading s then s
    else startQuiesce (setF IMG.CTRL_UNLOAD 1 { s with load := some ⟨none, none⟩ })) s)

/-- IMG_ABORT (R545): it is acted on at once, so that ABORT reads 0 again. -/
def execImgAbort (s : State) : Host.Outcome State Fault Refusal :=
  .next (hostWrite .late (fun s =>
    if 1 ≤ imgState s ∧ imgState s ≤ 4 then loadFails 23 0 0 s else s) s)

/-! Step 4: placement over the topology as it stands. -/

/-- The state in which a new image is placed: the image, empty tiers and accounts, and the window's charge (R273, R618, R543). -/
def freshPlacement (im : Option Image) (s : State) : State :=
  let s := { s with image := im, panes := [], used := [], homes := [], stages := [] }
  if winHeld s then chargeWindow s else s

/-- The placement of an image: what it comes to, and PERR (R274 to R280). -/
def planImage (im : Image) (s : State) : LoadPlan × Nat :=
  let s0 := freshPlacement (some im) s
  let (s1, perr) := placeImage (fun t => localPanes t
    { s0 with
      flds := (showNode im (((crossDevice im s0).map (fun r => r.1)).getD (0, 0, 0)) [] s0).flds
      stages := ((crossDevice im s0).map (fun r => r.2)).getD [] }) s0
  (⟨(assignCores im.casements ((List.range 32).filter (fun n => isOpen n s0))).getD [],
    ((crossDevice im s0).map (fun r => r.1)).getD (0, 0, 0), s1.stages, s1.homes, s1.panes, s1.used, s1.placed,
    ((List.range 4).map (fun p => (p, (cartAuxOf p s1).placedSlots))), getF TIER.STAT_NOHOME s1⟩, perr)

/-- Every slot that holds a pane is freed (R263, R268). -/
def freeAllPanes (s : State) : State := forEach s.panes (fun p s => freeSlotBytes p.2 s) s

/-- A queue left unbound is set to DISABLED; its rings and pointers are kept (R591). -/
def unbindQueue (q : Nat) (s : State) : State :=
  setF (CMDQ.QBIND_VALID q) 0 (setF (CMDQ.QBIND_CASEMENT q) 0
    (setF (CMDQ.QSTAT_STATE q) qDisabled (setF (CMDQ.QSTAT_ERR q) 0 (setF (CMDQ.QSTAT_PEND q) 0 s))))

/-- Bindings of the image: every other queue is left unbound (R528). -/
def writeBindings (l : List (Nat × Nat)) (s : State) : State :=
  forEach (List.range 256) (fun q s => match optGet l q with
    | some c => setF (CMDQ.QBIND_VALID q) 1 (setF (CMDQ.QBIND_CASEMENT q) c s)
    | none => unbindQueue q s) s

/-- A register of ARB that R642 returns to its Reset value: RW fields and counters. -/
def arbSetting (addr : Nat) : Bool :=
  decide (0x03400000 ≤ addr) && decide (addr < 0x03400000 + 756 * 0x1000)
  && [0x08, 0x10, 0x18, 0x20, 0x38, 0x40, 0x48].contains (addr % 0x1000)

/-- The ARBITER section (R531, R642). -/
def writeArbiters (l : List (Nat × Nat × Nat × Nat)) (s : State) : State :=
  forEach l (fun a s =>
    let s := setF (ARB.INPUTMAP_MAP a.1) (putBits (getF (ARB.INPUTMAP_MAP a.1) s) (4 * a.2.1) 4 a.2.2.1) s
    let f := if a.2.1 < 8 then ARB.WAITLIM0_LIMS a.1 else ARB.WAITLIM1_LIMS a.1
    setF f (putBits (getF f s) (8 * (a.2.1 % 8)) 8 a.2.2.2) s) (resetFields arbSetting s)

/-- The DOORWAY section: a doorway whose shutter is not CLOSED is skipped (R533, R547). -/
def writeDoorways (l : List (Nat × Nat)) (s : State) : State :=
  forEach (List.range 16) (fun w s =>
    if getF (GLB.SHUT_STATE (68 + w)) s = 0 then
      let v := (optGet l w).getD 0
      setF (DW.DWCTL_MODE w) v (setF (DW.DWCTL_NOFALL w) (bitsOf v 1 1) (setF (DW.DWCTL_MINW w) (bitsOf v 4 2) s))
    else orF IMG.DWSKIP_SKIP (2 ^ w) s) s

/-- The fence counters' registers (R572, R601). -/
def fenceRegister (addr : Nat) : Bool := decide (0x00510000 ≤ addr) && decide (addr < 0x00510000 + 8 * 4096)

/-- The registers that name the image in force (R552, R553, R556). -/
def showImage (im : Option Image) (s : State) : State :=
  match im with
  | some im => setArray IMG.DIGEST_DIGEST 16 im.digest (setF IMG.LOADID_ID im.id (setF IMG.STAT_SIGNED (b2n im.signed)
      (setF IMG.STAT_LOADED 1 s)))
  | none => setArray IMG.DIGEST_DIGEST 16 [] (setF IMG.LOADID_ID 0 (setF IMG.STAT_SIGNED 0 (setF IMG.STAT_LOADED 0 s)))

/-- Step 5 of R541, once the second reading agrees, and step 6. -/
def installImage (im : Image) (p : LoadPlan) (s : State) : State :=
  let s := freeAllPanes s
  let s := { s with
    image := some im, panes := p.panes, used := p.used, homes := p.homes, placed := p.placed, progs := [], covers := [], copies := [] }
  let s := forEach p.panes (fun x s => freeSlotBytes x.2 s) s
  let s := forEach p.spill (fun x s => setCart x.1 (fun a => { a with placedSlots := x.2 }) s) s
  let s := setF TIER.STAT_NOHOME p.nohome (showNode im p.role p.stages (showCores p.cores s))
  let s := writeDoorways im.doorways (writeArbiters im.arbiters (writeBindings im.bindings s))
  let s := forEach (List.range 100) (fun n s => setVset n (imageVcode im.vcodes n) s) s
  let s := resetFields fenceRegister { s with hist := im.history }
  let s := extend 1 4 im.digest (showImage (some im) s)
  let s := addF IMG.LOADS_COUNT 1 (placed 0 s)
  let s := setF IMG.CTRL_LOAD 0 (setF TIER.STAT_BUSY 0 s)
  { setImgState 7 s with load := none }

/-- An UNLOAD releases every pane and removes every binding and program (R544). -/
def unloadImage (s : State) : State :=
  let s := freeAllPanes s
  let s := (placeImage (fun _ => []) (freshPlacement none { s with progs := [], hist := [], load := none })).1
  let s := resetFields fenceRegister (writeBindings [] (showImage none s))
  let s := setF TIER.RPNODE_TRANK 0 (setF TIER.RPNODE_STAGE 0 (setF TIER.RPNODE_REPLICA 0 (setF TIER.STAT_NOHOME 0 s)))
  let s := resetF TIER.RPDEG_TRANK (resetF TIER.RPDEG_STAGE (resetF TIER.RPDEG_REPLICA s))
  setImgState 0 (setF IMG.CTRL_UNLOAD 0 (setF TIER.STAT_BUSY 0 s))

/-- The loader's code for a placement that fails (R548). -/
def placeCode (perr : Nat) : Nat := if perr = perrCores then 21 else 22

/-- IMG_QUIESCED (R541 steps 3 and 4, R544): nothing is in flight and no REPLACE is under way. -/
def execImgQuiesced (s : State) : Host.Outcome State Fault Refusal :=
  .next (if imgState s ≠ 4 || !loaderUp s || !s.inflight.isEmpty || flag TIER.CTRL_REPLACE s then s
    else match s.load with
    | none => s
    | some j =>
      match j.image with
      | none => unloadImage (setImgState 6 s)
      | some im =>
        let s := setImgState 5 s
        let (p, perr) := planImage im s
        let s := setF TIER.STAT_PERR perr s
        if perr ≠ 0 then loadFails (placeCode perr) 0 0 s
        else readImage (setImgState 6 { s with load := some ⟨some im, some p⟩ }))

/-- IMG_REFETCH_DONE (R541 steps 5 and 6): what the second reading returned, or none where a read failed. -/
def execImgRefetchDone (bytes : Option (List Byte)) (s : State) : Host.Outcome State Fault Refusal :=
  .next (if imgState s ≠ 6 || !loaderUp s then s
    else match s.load with
    | some ⟨some im, some p⟩ =>
      match bytes with
      | none => loadFails 1 0 0 s
      | some raw =>
        let bs := byteSlice raw 0 (getF IMG.LEN_LEN s)
        if sha512 (bs.take (bs.length - if im.signed then 128 else 0)) = im.digest then installImage im p s
        else loadFails 24 0 0 s
    | _ => s)

/-! Casement programs (R538 to R540, R557). -/

def progInit : ProgState := ⟨0, 0, []⟩
def progOf (owner : Nat) (s : State) : ProgState := assocGet progInit s.progs owner
def setProg (owner : Nat) (p : ProgState) (s : State) : State := { s with progs := assocSet progInit s.progs owner p }

/-- The program that a casement owns (R536). -/
def programOf (owner : Nat) (s : State) : Option Program := s.image.bind (fun im => im.programs.find? (fun p => decide (p.owner = owner)))

/-- A program's rounds have all run (R536, R538). -/
def programFinished (p : Program) (st : ProgState) : Bool := decide (p.rounds ≠ 0) && decide (p.rounds ≤ st.round)

/-- The present round is ready (R538). -/
def roundReady (p : Program) (st : ProgState) (s : State) : Bool :=
  !programFinished p st && decide (p.first + st.round * p.stride ≤ getF (CMDG.FENCE_VALUE p.trigger) s)

/-- Index of the entry that the command processor takes next (R538): one passed over before comes first. -/
def nextEntry (p : Program) (st : ProgState) (s : State) : Option Nat :=
  (st.passed ++ (List.range p.entries.length).drop st.next).find? (fun i =>
    match p.entries[i]? with
    | some e => !portHeld e.target s
    | none => false)

/-- The program after entry `i` of its round is taken (R538): the last entry of a round begins the next. -/
def afterEntry (p : Program) (st : ProgState) (i : Nat) : ProgState :=
  let st' : ProgState := if i < st.next then { st with passed := st.passed.filter (fun x => decide (x ≠ i)) }
    else { st with passed := st.passed ++ (List.range (i - st.next)).map (fun k => st.next + k), next := i + 1 }
  if st'.passed = [] ∧ p.entries.length ≤ st'.next then ⟨st'.round + 1, 0, []⟩ else st'

/-- FHINT and BHINT of a layer (R204). -/
def histHint (patch layer : Nat) (s : State) : Nat :=
  let h := assocGet 0 s.hist layer
  if patch = 1 then bitsOf h 32 13 else bitsOf h 16 13

/-- The patch of an entry (R537, R538). -/
def patched (e : PEntry) (round : Nat) (s : State) : Desc :=
  if e.patch = 1 ∨ e.patch = 2 then dput e.desc 0x3C 0 13 (histHint e.patch e.layer s)
  else if e.patch = 3 then dput e.desc e.poff 0 32 (dfield e.desc e.poff 0 32 + round)
  else e.desc

/-- Run a descriptor that passed the common header by its OPCODE (R565, R570). -/
def beginAny (e : InFlight) (s : State) : State :=
  match e.opcode with
  | 1 => beginMma e s
  | 2 => beginVop e s
  | 3 => beginMove e s
  | 4 => beginColl e s
  | 5 => beginSweep e s
  | 6 => beginChkp e s
  | 7 => beginDigest e s
  | 8 => beginComp e s
  | 9 => beginWait e s
  | _ => beginSignal e s

/-- Program entries are taken: the owner's queue is ENABLED and nothing has stopped taking (R538, R567, R568). -/
def programMayTake (q opcode : Nat) (s : State) : Bool :=
  loaderUp s && decide (qState q s = qEnabled) && !takingStopped s && withinLimits q opcode s && decide (s.flrActive = false)

/-- PROGRAM_ENTRY_TAKE (R538, R539, R540). -/
def execProgramEntryTake (owner : Nat) (s : State) : Host.Outcome State Fault Refusal :=
  .next (match programOf owner s, queueOf owner s with
    | some p, some q =>
      let st := progOf owner s
      if !roundReady p st s && decide (st.next = 0) && decide (st.passed = []) then s
      else match nextEntry p st s with
      | none => s
      | some i =>
        match p.entries[i]? with
        | none => s
        | some e =>
          let d := patched e st.round s
          if programMayTake q (dOpcode d) s then
            enterFlight e.target q (st.round % 2 ^ 32) i true d beginAny (setProg owner (afterEntry p st i) s)
          else s
    | _, _ => s)

/-- PSTATE, ENTRY and ROUND of the program that IMG.PRSEL names (R557). -/
def prStat (s : State) : Nat :=
  match programOf (getF IMG.PRSEL_CASEMENT s) s with
  | none => 0
  | some p =>
    let st := progOf (getF IMG.PRSEL_CASEMENT s) s
    let ps := if programFinished p st then 3 else if roundReady p st s || decide (st.next ≠ 0) then 2 else 1
    ps * 2 ^ 12 + (st.passed.head?.getD st.next) % 2 ^ 12
def prRound (s : State) : Nat :=
  match programOf (getF IMG.PRSEL_CASEMENT s) s with
  | none => 0
  | some _ => min (progOf (getF IMG.PRSEL_CASEMENT s) s).round 0xFFFFFFFF

end Sys2Proof.Machine
end

