-- ==== Sys2Proof/Machine/Parts.lean ====
section
/-! DEFINITION. Parts and the remaining commands of queues: INVALID_OPCODE, WAIT, SIGNAL, the issue of parts to the engines and their
completion (R52 to R62, R571 to R580). -/

namespace Sys2Proof.Machine

/-- INVALID_OPCODE (R565, R571): the next descriptor, taken with the header that it has. -/
def execInvalidOpcode (q : QueueNo) (d : Desc) (s : State) : Host.Outcome State Fault Refusal := .next (takeRing q d beginAny s)

/-- WAIT (R574 to R577). -/
def execWait (q : QueueNo) (d : Desc) (s : State) : Host.Outcome State Fault Refusal :=
  .next (takeRing q (withOpcode 9 d) beginWait s)

/-- SIGNAL with MODE ADD (R575). -/
def execSignalAdd (q : QueueNo) (d : Desc) (s : State) : Host.Outcome State Fault Refusal :=
  .next (takeRing q (withOpcode 10 (dput d 0x12 0 8 0)) beginSignal s)

/-- SIGNAL with MODE MAX (R575). -/
def execSignalMax (q : QueueNo) (d : Desc) (s : State) : Host.Outcome State Fault Refusal :=
  .next (takeRing q (withOpcode 10 (dput d 0x12 0 8 1)) beginSignal s)

/-! Issue (R52, R62). -/

/-- An earlier COMP on the same context has not ended (R402). -/
def compBefore (e : InFlight) (s : State) : Bool :=
  s.inflight.any (fun x => decide (x.opcode = 8) && decide (x.id < e.id) && decide (cmSCTX x.desc = cmSCTX e.desc)
    && x.parts.any (fun p => decide (p.st ≠ .ended) && decide (p.st ≠ .complete)))

/-- The engine that a part needs is free: the matrix engine, the vector engine, or the stream context (R401). -/
def engineFree (n : Nat) (e : InFlight) (s : State) : Bool :=
  match e.opcode with
  | 1 => matrixUp n s && (optGet s.mx n).isNone
  | 2 => vectorUp n s && (optGet s.vx n).isNone
  | 8 => vectorUp n s && !compBefore e s
  | _ => false

/-- The first part, in order of taking, that the sequencer of core `n` holds and whose engine is free. -/
def issuable (n : Nat) (s : State) : Option (InFlight × Nat) :=
  (s.inflight.filter (fun e => decide (e.st = .running) && engineFree n e s)).findSome? (fun e =>
    ((indexFrom 0 e.parts).find? (fun p => decide (p.2.core = n) && decide (p.2.st = .held))).map (fun p => (e, p.1)))

/-- A part starts in the matrix engine (R139, R140, R177). -/
def startMx (n : Nat) (e : InFlight) (p : Nat) (lo : Nat) (s : State) : State :=
  let s := setMx n (some ⟨e.id, p, lo, 0, mmaPSCALE e.desc, 0, [], measInit, false, none⟩) s
  let s := setF (CORE.MXSTAT_PASS n) 0 (setF (CORE.MXSTAT_PATH n) (b2n (mmaB64 e.desc)) (setF (CORE.MXSTAT_TRWAIT n) 0 s))
  setF (CORE.MXSTAT_BUSY n) 1 (setF (CORE.MXSTAT_OPWAIT n) (b2n (!allStaged n e.id (tilePanes e lo s) s)) s)

/-- A part starts in the vector engine (R212, R232, R247, R250). -/
def startVx (n : Nat) (e : InFlight) (p : Nat) (s : State) : State :=
  let r : VxRun := ⟨e.id, p, 0, false⟩
  let s := setVx n (some r) s
  let s := if vopXSRC e.desc && decide (assocGet [] s.transom n = []) then setF (CORE.TRSTAT_NEXT n) 0 s else s
  let s := setF (CORE.VXSTAT_WIDE n) (b2n (decide (vopWP e.desc = 1))) (setF (CORE.VXSTAT_TRWAIT n)
    (b2n (vopXSRC e.desc && decide (assocGet [] s.transom n = []))) (setF (CORE.VXSTAT_SEAMWAIT n) 0 s))
  setF (CORE.VXSTAT_BUSY n) 1 (setF (CORE.VXSTAT_OPWAIT n) (b2n (!allStaged n e.id (vxPanes e r s) s)) s)

/-- PART_ISSUE (R52, R62, R401): the sequencer of core `n` issues a part that it holds. -/
def execPartIssue (n : CoreNo) (s : State) : Host.Outcome State Fault Refusal :=
  .next (if !vectorUp n s then s
    else match issuable n s with
    | none => s
    | some (e, p) =>
      let lo := ((e.parts[p]?).map (fun x => x.lo)).getD 0
      let s := setPart e.id p (fun x => { x with st := .running }) s
      let s := trace 2 0 (2 * n + 1) (n + e.opcode * 2 ^ 8) (dUtag e.desc) (peep 2 n 1 1 s)
      match e.opcode with
      | 1 => startMx n e p lo s
      | 2 => startVx n e p s
      | _ => startComp e s)

/-! Completion (R58, R59). -/

/-- Mark a pane that holds data as poisoned (R59, R257); one in a unit that is not OPEN reads as poisoned as it is (R281). -/
def poisonPane (root : Tensor) (i : Nat) (s : State) : State :=
  match paneLoc root.handle i s with
  | none => s
  | some l =>
    if unitOpen l.unit s then
      let d := readSlot root i l s
      writePane root i l d.data true d.tadj d.step s
    else s

/-- Mark every pane of a box of a tensor or view. -/
def poisonBox (h : Nat) (lo hi : List Nat) (s : State) : State :=
  let t := tensorAt h s
  let root := rootOf t s
  forEach (panesCovering t root lo hi) (poisonPane root) s

/-- The output range of a part that has failed is poisoned (R59): for an ENCODE, the feedback tensor that it updates. What a SWEEP writes
keeps its old or its new contents, by R436 and R439. -/
def poisonOutput (e : InFlight) (p : Part) (s : State) : State :=
  let d := e.desc
  let tiles : List Nat := (List.range (p.hi - p.lo)).map (fun k => p.lo + k)
  let o := tensorAt (vopDH d) s
  match e.opcode with
  | 1 =>
    if mmaDEST d then s
    else forEach tiles (fun t s =>
      let (i, j, rows, cols) := tileBox d t
      poisonBox (mmaDH d) [j, i, 0, 0] [j + cols - 1, i + rows - 1, 0, 0] s) s
  | 2 =>
    if vopXSRC d then
      forEach tiles (fun t s =>
        match tilePositions e t with
        | [] => s
        | x :: l => poisonBox (vopDH d) (bcast o x) (bcast o (l.getLastD x)) s) s
    else
      let r := vopRef e s
      let (a, b) := partD3 e p s
      poisonBox (vopDH d) (bcast o [0, 0, 0, a]) (bcast o [r.getD 0 1 - 1, r.getD 1 1 - 1, r.getD 2 1 - 1, b - 1]) s
  | 7 => poisonBox (dgDGH d) [dgSFIRST d + p.lo, 0, 0, 0] [dgSFIRST d + p.hi - 1, 0, 0, 0] s
  | 8 =>
    if cmOP d = 1 then
      let t := tensorAt (cmDH d) s
      poisonBox (cmDH d) [0, 0, 0, 0] (t.ext.map (fun x => x - 1)) s
    else if cmEH d ≠ 0 then
      let t := tensorAt (cmEH d) s
      poisonBox (cmEH d) [0, 0, 0, 0] (t.ext.map (fun x => x - 1)) s
    else s
  | _ => s

/-- A part that did no work because its unit was closed or reset. -/
def partFailed (p : Part) : Bool := decide (p.status = stUnitClosed) || decide (p.status = stRegionReset)

/-- Every part has completed: the descriptor's record is written (R58). -/
def finishParts (e : InFlight) (s : State) : State :=
  let s := { s with sweeps := s.sweeps.filter (fun j => decide (j.id ≠ e.id)), encs := s.encs.filter (fun b => decide (b.id ≠ e.id)) }
  finish e (combinedStatus e) (combinedFlags e) (combinedReplay e) 0 s

/-- The last part of a SWEEP waits until the layers that are complete are committed (R437, R442). -/
def heldByLayers (e : InFlight) (p : Nat) (s : State) : Bool :=
  (indexFrom 0 e.parts).all (fun x => decide (x.1 = p) || decide (x.2.st = .complete))
  && (match s.sweeps.find? (fun j => decide (j.id = e.id)) with
    | some j => layersDue e j s
    | none => false)

/-- A part completes (R58, R59, R62, R603). -/
def completePart (e : InFlight) (i : Nat) (p : Part) (s : State) : State :=
  let s := if partFailed p then poisonOutput e p s else s
  let s := setPart e.id i (fun x => { x with st := .complete }) s
  let s := if p.core < 32 then
      trace 2 1 (2 * p.core + 1) (p.core + e.opcode * 2 ^ 8) (dUtag e.desc)
        (peep 2 p.core 2 1 (addF (CORE.SEQPARTS_COUNT p.core) 1 (fillSequencer p.core s)))
    else s
  match flight e.id s with
  | some e => if e.parts.all (fun x => decide (x.st = .complete)) then finishParts e s else s
  | none => s

/-- PART_COMPLETE (R58): part `part` of descriptor `id`, whose work has ended. -/
def execPartComplete (id part : Nat) (s : State) : Host.Outcome State Fault Refusal :=
  .next (if !alive s then s
    else match flight id s with
    | none => s
    | some e =>
      match e.parts[part]? with
      | none => s
      | some p => if p.st = .ended ∧ heldByLayers e part s = false then completePart e part p s else s)

end Sys2Proof.Machine
end

