-- ==== Sys2Proof/Machine/Peephole.lean ====
section
/-! DEFINITION. The commands of the peephole (chapter 19). -/

namespace Sys2Proof.Machine

/-- Units of a counter kind that R705 lists. -/
def unitListed (kind unit : Nat) : Bool :=
  match kind with
  | 0 => decide (unit < 32)
  | 1 => decide (unit < 32)
  | 2 => decide (unit < 32)
  | 3 => decide (unit < 4)
  | 4 => decide (unit < 4)
  | 5 => decide (unit < 32)
  | 6 => decide (unit < 16)
  | 7 => decide (unit < 16)
  | 8 => decide (unit < 64)
  | 9 => decide (unit < 4)
  | 10 => decide (unit = 0)
  | 11 => decide (unit < 256) || decide (unit = 1023)
  | 12 => (arbKind unit).isSome
  | 13 => decide (unit < 100)
  | _ => false

/-- Highest event number of a counter kind that R705 lists. -/
def eventsOf (kind : Nat) : Nat :=
  match kind with
  | 0 => 5
  | 1 => 5
  | 2 => 3
  | 3 => 4
  | 4 => 3
  | 5 => 4
  | 6 => 4
  | 7 => 5
  | 8 => 1
  | 9 => 3
  | 10 => 4
  | 11 => 3
  | 12 => 3
  | 13 => 2
  | _ => 0

/-- CNTSEL_WRITE (R705, R706, R717): a reserved KIND, UNIT or EVENT leaves its field unchanged, with a record (R21). -/
def execCntselWrite (c : CounterNo) (value : Nat) (s : State) : Host.Outcome State Fault Refusal :=
  .next (hostWrite .late (fun s =>
    let kind := bitsOf value 24 4
    let unit := bitsOf value 14 10
    let event := bitsOf value 0 8
    let kindOk := decide (kind < 14)
    let k := if kindOk then kind else getF (PEEP.CNTSEL_KIND c) s
    let unitOk := unitListed k unit
    let eventOk := decide (1 ≤ event ∧ event ≤ eventsOf k)
    let s := setF (PEEP.CNTSEL_EN c) (bitsOf value 31 1) s
    let s := setF (PEEP.CNTSEL_KIND c) k s
    let s := if unitOk then setF (PEEP.CNTSEL_UNIT c) unit s else s
    let s := if eventOk then setF (PEEP.CNTSEL_EVENT c) event s else s
    if kindOk && unitOk && eventOk then s else regAccessError (0x02010000 + 4 * c) s) s)

/-- CNTSEL_CLR (R706): counter c is cleared; CLR reads 0 once done. -/
def execCntselClr (c : CounterNo) (s : State) : Host.Outcome State Fault Refusal :=
  .next (hostWrite .late (setF (PEEP.CNT_COUNT c) 0) s)

/-- Keys of the field map that hold counter values. -/
def isCounterKey (k : Nat) : Bool := decide (0x02020000 * 64 ≤ k) && decide (k < 0x02028000 * 64)

/-- PEEP_CNTCLR (R706): every counter is cleared. -/
def execPeepCntclr (s : State) : Host.Outcome State Fault Refusal :=
  .next (hostWrite .late (fun s => { s with flds := s.flds.filter (fun p => !isCounterKey p.1) }) s)

/-- TRACE_ENABLE (R711): TREN written 1 from 0. -/
def execTraceEnable (s : State) : Host.Outcome State Fault Refusal :=
  .next (hostWrite .late (fun s =>
    if flag PEEP.CTRL_TREN s then s
    else setF PEEP.CTRL_TREN 1 (setF PEEP.TRSTAT_IDLE 0 (setF PEEP.TRHEAD_SLOT 0 (setF PEEP.TRTAIL_SLOT 0
      (setF PEEP.TRLOST_COUNT 0
        { s with traceSeq := 0, tracePhase := true, traceLost := none, traceSince := 0 }))))) s)

/-- IDLE once tracing is off and the FIFO is written out (R711). -/
def traceIdle (s : State) : State :=
  if s.fifo.isEmpty && !flag PEEP.CTRL_TREN s then setF PEEP.TRSTAT_IDLE 1 s else s

/-- TRACE_DISABLE (R711). -/
def execTraceDisable (s : State) : Host.Outcome State Fault Refusal :=
  .next (hostWrite .late (fun s => traceIdle (setF PEEP.CTRL_TREN 0 s)) s)

/-- The 32 bytes of a trace record (R707). -/
def traceBytes (r : TraceRec) (phase : Bool) : List Byte :=
  leBytes 1 r.cls ++ leBytes 1 r.event ++ leBytes 1 r.region ++ leBytes 1 (b2n phase) ++ leBytes 4 r.seq ++ leBytes 8 r.lic
  ++ leBytes 8 r.arg0 ++ leBytes 8 r.arg1

/-- Slots of the ring that are free (R710). -/
def traceRoom (s : State) : Nat :=
  let size := traceSize s
  size - 1 - (getF PEEP.TRTAIL_SLOT s + size - getF PEEP.TRHEAD_SLOT s) % size

/-- Write records at TRTAIL in one request; PHASE inverts at the end of a pass (R709, R711). -/
def traceStore (rs : List TraceRec) (s : State) : State :=
  let tail := getF PEEP.TRTAIL_SLOT s
  let next := (tail + rs.length) % traceSize s
  let s := emit (.hostWrite (getF PEEP.TRBASE_ADDR s * 2 ^ 12 + 32 * tail) (rs.flatMap (fun r => traceBytes r s.tracePhase))) s
  let s := setF PEEP.TRTAIL_SLOT next s
  if next = 0 then { s with tracePhase := !s.tracePhase } else s

/-- The message of R712. -/
def traceMessage (n : Nat) (lost : Bool) (s : State) : State :=
  let since := s.traceSince + n
  let th := getF PEEP.TRIRQ_THRESH s
  if flag PEEP.TRIRQ_EN s && (lost || (decide (th ≠ 0) && decide (th ≤ since))) then
    sendMsix (getF PEEP.TRIRQ_VECTOR s) { s with traceSince := 0 }
  else { s with traceSince := since }

/-- The record at the head of the FIFO is dropped; a LOST record's count goes on to the next one (R710). -/
def traceDropHead (r : TraceRec) (s : State) : State :=
  if r.cls = 15 then
    { s with traceLost := some (match s.traceLost with
      | none => (r.arg0, r.arg1)
      | some (n, _) => (n + r.arg0, r.arg1)) }
  else traceDrop r.seq s

/-- TRACE_RING_WRITE (R709, R710, R712): up to 512 bytes of records, never across a 4 KiB boundary or the end of the ring; a LOST
record first after drops; without room, or with bus master enable clear, the oldest record is dropped. -/
def execTraceRingWrite (s : State) : Host.Outcome State Fault Refusal :=
  match s.fifo with
  | [] => .next (traceIdle s)
  | r :: rest =>
    if !busOk s || decide (traceRoom s = 0) then
      .next (traceIdle (setF PEEP.TRSTAT_FILL rest.length (traceDropHead r { s with fifo := rest })))
    else
      match lostRecord s with
      | some (l, s) => .next (traceMessage 1 true (traceStore [l] s))
      | none =>
        let tail := getF PEEP.TRTAIL_SLOT s
        let n := min (min 16 (traceRoom s)) (min (128 - tail % 128) (traceSize s - tail))
        let rs := s.fifo.take n
        let s := traceStore rs { s with fifo := s.fifo.drop n }
        .next (traceIdle (traceMessage rs.length (rs.any (fun x => decide (x.cls = 15)))
          (setF PEEP.TRSTAT_FILL s.fifo.length s)))

/-- TRHEAD_WRITE (R711, R716): a write outside the span from head to tail is discarded. -/
def execTrheadWrite (slot : Nat) (s : State) : Host.Outcome State Fault Refusal :=
  .next (hostWrite .late (fun s =>
    let size := traceSize s
    let head := getF PEEP.TRHEAD_SLOT s
    let used := (getF PEEP.TRTAIL_SLOT s + size - head) % size
    if slot < size ∧ (slot + size - head) % size ≤ used then setF PEEP.TRHEAD_SLOT slot s else s) s)

/-- TRBASE or TRRING is written whole: only while tracing is off and idle (R711, R714, R715). -/
def traceConfigWrite (r : TraceReg) (value : Nat) (s : State) : State :=
  let a := match r with
    | .trbase => 0x02000010
    | .trring => 0x02000018
  let s := dropHeld a s
  if flag PEEP.CTRL_TREN s || !flag PEEP.TRSTAT_IDLE s then regAccessError a s
  else match r with
    | .trbase => setF PEEP.TRBASE_ADDR (bitsOf value 12 52) s
    | .trring =>
      let v := bitsOf value 0 5
      if 7 ≤ v ∧ v ≤ 20 then setF PEEP.TRRING_LOG2 v s else regAccessError a s

/-- TRACE_CONFIG_WRITE (R711, R714, R715). -/
def execTraceConfigWrite (r : TraceReg) (value : Nat) (s : State) : Host.Outcome State Fault Refusal :=
  .next (hostWrite .late (traceConfigWrite r value) s)

end Sys2Proof.Machine
end

