-- ==== Sys2Proof/Machine/Shutters.lean ====
section
/-! DEFINITION. Shutters (R658 to R661): effective requests, the two transitions of each function, and their end. -/

namespace Sys2Proof.Machine

/-- The effective request of a function (R659). -/
def effective (i : Nat) (s : State) : Bool :=
  flag (GLB.SHUT_REQ i) s && !flag (GLB.SHUT_FENCED i) s
  && (if i < 32 then flag (GLB.SHUT_REQ (32 + i / 8)) s
      else if 68 ≤ i ∧ i < 84 then flag (GLB.SHUT_REQ (i + 16)) s
      else true)

def shutState (i : Nat) (s : State) : Nat := getF (GLB.SHUT_STATE i) s

/-- The region where a shutter's event arises (R707). -/
def shutRegion (i : Nat) : Nat :=
  if i < 32 then 2 * i + 1
  else if i < 36 then 32 + i
  else if i < 68 then muRegion (i - 36)
  else if i < 84 then dwRegion (i - 68)
  else if i < 100 then ceRegion (i - 84)
  else 98

/-- STATE takes a value, PEND is 0 (R659, R676, R708). -/
def setShut (i st : Nat) (s : State) : State :=
  trace 5 st (shutRegion i) i 0 (setF (GLB.SHUT_STATE i) st (setF (GLB.SHUT_PEND i) 0 s))

/-- Regions that a shutter powers (R660). -/
def shutRegions (i : Nat) : List Nat := if i < 32 then [2 * i, 2 * i + 1] else if i < 36 then [32 + i] else []

/-- A region powers up and is calibrated (R660). -/
def powerUp (n : Nat) (s : State) : State :=
  let s := setRegion n (fun r => { r with down := false }) s
  if flag (REG.LICCTL_CALBUSY n) s then s else startCal n s

def powerDown (n : Nat) (s : State) : State := setRegion n (fun r => { r with down := true }) s

/-- A descriptor has a part that runs on a core. -/
def runsOn (n id : Nat) (s : State) : Bool :=
  match flight id s with
  | some e => e.parts.any (fun p => decide (p.core = n) && decide (p.st = .running))
  | none => false

/-- Parts that a core holds and has not started complete with UNIT_CLOSED (R281, R660); the part that runs together with one
that has started counts as started (R234, log 71). -/
def refuseHeld (n : Nat) (s : State) : State :=
  { s with inflight := s.inflight.map (fun e => { e with parts := e.parts.map (fun p =>
      if p.core = n ∧ (p.st = .held ∨ p.st = .back) ∧ (e.mate.map (fun m => runsOn n m s)).getD false = false then { p with st := .ended, status := stUnitClosed } else p) }) }

/-- Every connection over a doorway fails, and its lanes are powered down (R482, R660). -/
def closeDoorway (w : Nat) (s : State) : State :=
  let s := withFailures (fun s => forEach (s.conns.filter (fun c => decide (c.w = w))) (fun c s => failConn w c.peer s) s) s
  let s := setDw w (fun _ => dwAuxInit) s
  setF (DW.DWSTAT_LSTATE w) 0 (setF (DW.DWSTAT_WIDTH w) 0 (setF (DW.DWSTAT_RATE w) 0 (setF (DW.DWSTAT_PVALID w) 0
    (setF (DW.DWSTAT_PARTNER w) 0 s))))

/-- What a transition toward CLOSED does when it begins (R660). -/
def beginClosing (i : Nat) (s : State) : State :=
  if i < 32 then refuseHeld i s
  else if 68 ≤ i ∧ i < 84 then closeDoorway (i - 68) s
  else s

/-- An OPENING core or doorway waits for its cluster or engine to be OPEN (R660). -/
def openingWaits (i : Nat) (s : State) : Bool :=
  if i < 32 then decide (shutState (32 + i / 8) s ≠ 2)
  else if 68 ≤ i ∧ i < 84 then decide (shutState (i + 16) s ≠ 2)
  else false

/-- The sill or lintel is zeroed: it holds no working copy. -/
def dropCore (i : Nat) (s : State) : State := { s with copies := s.copies.filter (fun c => decide (c.core ≠ i)) }

/-- The bring-up of an OPENING function (R660): a memory unit that boot has brought up is not trained again (log 70). -/
def bringUp (i : Nat) (s : State) : State :=
  if i < 36 then forEach (shutRegions i) powerUp (dropCore i s)
  else if i < 68 then (if (muAuxOf (i - 36) s).rest then muStart (i - 36) false s else s)
  else if i < 84 then startTraining (i - 68) s
  else if i < 100 then s
  else if (cartAuxOf (i - 100) s).seated then startInsertion (i - 100) s
  else s

/-- Follow the effective request of one function (R659). -/
def drive (i : Nat) (s : State) : State :=
  let eff := effective i s
  match shutState i s, eff with
  | 0, true =>
    let s := setShut i 1 s
    if openingWaits i s then { s with shutWait := s.shutWait ++ [i] } else bringUp i s
  | 2, false => beginClosing i (setShut i 3 s)
  | 1, _ => setF (GLB.SHUT_PEND i) (b2n (!eff)) s
  | 3, _ => setF (GLB.SHUT_PEND i) (b2n eff) s
  | _, _ => s

/-- The order in which shutters are looked at: clusters and engines before the cores and doorways that depend on them. -/
def shutOrder : List Nat := (List.range 36).map (fun k => (k + 32) % 36) ++ (List.range 68).map (fun k => 36 + (k + 48) % 68)

/-- Every shutter follows its effective request, from step 7 of boot on (R654, R659). -/
def driveShutters (s : State) : State := if alive s then forEach shutOrder drive s else s

/-- SHUTTER_REQ_WRITE (R659, R676). -/
def execShutterReqWrite (i : ShutterNo) (req : Bool) (s : State) : Host.Outcome State Fault Refusal :=
  .next (hostWrite .glb (fun s => driveShutters (setF (GLB.SHUT_REQ i) (b2n req) s)) s)

/-! The end of a transition (R659, R660). -/

/-- A part is held or runs on a core. -/
def coreBusy (n : Nat) (s : State) : Bool :=
  s.inflight.any (fun e => e.parts.any (fun p => decide (p.core = n) && (decide (p.st = .held) || decide (p.st = .back)
    || (decide (p.st = .running) && decide (e.opcode ≠ 8)))))

/-- A core or doorway holds nothing of what it depends on: it is CLOSED, or its OPENING waits (R660; log 284). -/
def shutOff (i : Nat) (s : State) : Bool := decide (shutState i s = 0) || (decide (shutState i s = 1) && s.shutWait.contains i)

/-- The closing of a function may end (R660); a cluster's sweep engine first ends the parts that it runs for its cores (log 71). -/
def closingDone (i : Nat) (s : State) : Bool :=
  if i < 32 then !coreBusy i s
  else if i < 36 then (List.range 8).all (fun k => shutOff (8 * (i - 32) + k) s)
    && !s.inflight.any (fun e => e.parts.any (fun p => decide (p.core = i) && decide (p.st = .running)))
  else if i < 84 then true
  else if i < 100 then shutOff (i - 16) s && !s.cjobs.any (fun j => decide (ceOf j.ctx = i - 84))
  else !s.inflight.any (chkpUses (i - 100)) && (cartAuxOf (i - 100) s).commit.isNone

/-- The bring-up of a function has ended, successful or not (R660): for a doorway also where its engine stays CLOSED (log 284). -/
def openingDone (i : Nat) (s : State) : Bool :=
  !s.shutWait.contains i &&
  (if i < 36 then (shutRegions i).all (fun n => !flag (REG.LICCTL_CALBUSY n) s)
   else if i < 68 then decide (getF (MU.MUSTAT_TSTATE (i - 36)) s = 4) || decide (getF (MU.MUSTAT_TSTATE (i - 36)) s = 5)
     || decide (getF (MU.MUSTAT_TSTATE (i - 36)) s = 0)
   else if i < 84 then decide (lState (i - 68) s = 2) || decide (lState (i - 68) s = 3) || decide (shutState (i + 16) s = 0)
   else if i < 100 then true
   else decide (getF (CART.CPSTAT_CSTATE (i - 100)) s = 0) || decide (getF (CART.CPSTAT_CSTATE (i - 100)) s = 4)
     || decide (getF (CART.CPSTAT_CSTATE (i - 100)) s = 5))

/-- The contexts of some engines are empty, the parameters of CONFIG apart (R400; log 108). -/
def emptyCtxs (p : Nat → Bool) (s : State) : State :=
  { s with ctxs := (s.ctxs.map (fun c => if p (ceOf c.1) then (c.1, { ctxInit with params := c.2.params }) else c)).filter (fun c =>
      decide (c.2 ≠ ctxInit)) }

/-- Functions that wait for this one to be OPEN (R660). -/
def waiters (i : Nat) : List Nat :=
  if 32 ≤ i ∧ i < 36 then (List.range 8).map (fun k => 8 * (i - 32) + k) else if 84 ≤ i ∧ i < 100 then [i - 16] else []

/-- Where a function reaches CLOSED and is not asked for, the bring-up of those that wait for it ends without success (R660, R737;
log 284). -/
def endWaits (i : Nat) (s : State) : State :=
  if effective i s then s else { s with shutWait := s.shutWait.filter (fun k => !(waiters i).contains k) }

/-- What a function does as it reaches CLOSED (R660). -/
def endClosing (i : Nat) (s : State) : State :=
  let s := endWaits i s
  if i < 36 then
    forEach (shutRegions i) powerDown { s with copies := s.copies.filter (fun c => decide (c.core ≠ i)) }
  else if i < 68 then setMuAux (i - 36) (fun a => { a with rest := true }) (serveAll (i - 36) s)
  else if i < 84 then s
  else if i < 100 then emptyCtxs (fun ce => decide (ce = i - 84)) s
  else closePort (i - 100) s

/-- A function reaches OPEN: those that waited for it are brought up. -/
def endOpening (i : Nat) (s : State) : State :=
  forEach ((waiters i).filter s.shutWait.contains) (fun k s => bringUp k { s with shutWait := s.shutWait.filter (fun x => decide (x ≠ k)) }) s

/-- SHUTTER_TRANSITION_END (R659, R660). -/
def execShutterTransitionEnd (i : ShutterNo) (s : State) : Host.Outcome State Fault Refusal :=
  .next (if !alive s then s
    else if shutState i s = 1 ∧ openingDone i s = true then drive i (endOpening i (setShut i 2 s))
    else if shutState i s = 3 ∧ closingDone i s = true then drive i (endClosing i (setShut i 0 s))
    else s)

end Sys2Proof.Machine
end

