-- ==== Sys2Proof/Machine/Reset.lean ====
section
/-! DEFINITION. Region resets (R60, R88, R104, R640, R641, R649 to R652): what a reset does in the region that it reaches. -/

namespace Sys2Proof.Machine

/-- The region that holds the register at an address, for the registers that a reset of it returns to their Reset values (R651
step 4). GLB, KEY, REG n and ARB have rules of their own (R93, R642, R652). -/
def addrRegion (a : Nat) : Option Nat :=
  if 0x01000000 ≤ a ∧ a < 0x01200000 then
    some ((a - 0x01000000) / 0x10000 * 2 + (if a % 0x10000 < 0x1000 then 0 else 1))
  else if 0x01800000 ≤ a ∧ a < 0x01C00000 then
    let k := (a - 0x01800000) / 0x100000
    let o := a % 0x100000
    if o < 0x10000 then some (muRegion (4 * k + o / 0x1000 % 4))
    else if o < 0x20000 then some (74 + 6 * k)
    else if o < 0x30000 then some (75 + 6 * k)
    else if o < 0x40000 then some 99
    else some (76 + 6 * k)
  else if 0x01C00000 ≤ a ∧ a < 0x01D00000 then some 98
  else if 0x02000000 ≤ a ∧ a < 0x03000000 then some 97
  else if 0x03800000 ≤ a then some 96
  else if 0x00200000 ≤ a ∧ a < 0x01000000 then some 99
  else none

/-- Registers of the HDM window, which a reset of TR96 keeps (R626). -/
def windowRegister (a : Nat) : Bool := decide (0x03810004 ≤ a) && decide (a < 0x03810010)

/-- The registers that a region reset of region `n` returns to their Reset values (R651, R169). -/
def regionRegister (n a : Nat) : Bool :=
  (decide (addrRegion a = some n) || (decide (n < 64) && decide (n % 2 = 1) && decide (addrRegion a = some (n - 1)))) && !windowRegister a

/-! Parts (R60, R169, R238, R406, R439, R586). -/

/-- A region whose reset ends every part of every SWEEP (R439). -/
def sweepCrosses (n : Nat) : Bool := (decide (68 ≤ n) && decide (n < 96) && (decide (n < 72) || decide ((n - 72) % 6 ≠ 3))) || decide (n = 98)

/-- A SWEEP whose factor phase cannot end, since a part with factor units on lintel `c` ends (R434). -/
def factorCut (c : Nat) (e : InFlight) (s : State) : Bool :=
  match s.sweeps.find? (fun j => decide (j.id = e.id)) with
  | some j => !j.shards && j.parts.any (fun p => decide (p.eng = c) && decide (p.fpos < p.fend))
  | none => false

/-- A part runs in region `n`, or is interrupted by its reset. -/
def partIn (n : Nat) (e : InFlight) (p : Part) (s : State) : Bool :=
  match e.opcode with
  | 5 => sweepCrosses n || (decide (64 ≤ n) && decide (n < 68) && (decide (p.core = n - 32) || factorCut (n - 64) e s))
  | 8 => decide (n = ceRegion (ceOf (cmSCTX e.desc)))
  | _ => decide (p.core < 32) && decide (n / 2 = p.core)

/-- The other descriptor of a transom pair has begun on a core, or has ended. -/
def mateStarted (e : InFlight) (core : Nat) (s : State) : Bool :=
  match e.mate with
  | none => false
  | some m => match flight m s with
    | none => true
    | some f => f.parts.any (fun q => decide (q.core = core) && !(decide (q.st = .held) || decide (q.st = .back)))

/-- The reset of region `n` ends a part: it runs there, or its transom pair has begun on the core (R60, R238). -/
def cutHere (n : Nat) (e : InFlight) (p : Part) (s : State) : Bool :=
  partIn n e p s && (decide (p.st = .running) || ((decide (p.st = .held) || decide (p.st = .back)) && mateStarted e p.core s))

/-- Descriptors with a part that the reset of region `n` ends. -/
def cutIds (n : Nat) (s : State) : List Nat :=
  (s.inflight.filter (fun e => e.parts.any (fun p => cutHere n e p s))).map (fun e => e.id)

/-- Descriptors that end in the reset of region `n`: a reset of TR99 discards every one in flight (R652). -/
def endedIds (n : Nat) (s : State) : List Nat := if n = 99 then s.inflight.map (fun e => e.id) else cutIds n s

/-- A part ends by a region reset: its flags are discarded (R60, R198, R586). -/
def cutPart (p : Part) : Part := { p with st := .ended, status := stRegionReset, flags := 0 }

/-- The parts that run in region `n` end; of a transom pair, those of both descriptors on the core (R238). -/
def cutParts (n : Nat) (s : State) : State :=
  { s with inflight := s.inflight.map (fun e => { e with parts := e.parts.map (fun p => if cutHere n e p s then cutPart p else p) }) }

/-- What waits on a lost part goes on: lines that every part has now read, blocks whose values have all come, parts that end. -/
def settleLost (ids : List Nat) (s : State) : State :=
  forEach ids (fun id s => match flight id s with
    | none => s
    | some e =>
      let runs := s.vx.filter (fun v => decide (v.2.id = id) && v.2.done)
      let s := if vopSpread e then
          (match runs.head? with
          | some v => if (List.range e.parts.length).all (fun q => partWalked e q s) then completeSpread e v.2.part s else s
          | none => s)
        else forEach runs (fun v s => leaveVx v.1 v.2 s) s
      forEach (List.range e.parts.length) (fun i s => checkEnd id i s) s) s

/-- The status of a core's engines and of its transom queue shows that nothing runs there (R177, R238, R247, R250). -/
def idleCore (n : Nat) (s : State) : State :=
  forEach [CORE.MXSTAT_PASS n, CORE.MXSTAT_OPWAIT n, CORE.MXSTAT_BUSY n, CORE.VXSTAT_SEAMWAIT n, CORE.VXSTAT_TRWAIT n, CORE.VXSTAT_OPWAIT n,
    CORE.VXSTAT_WIDE n, CORE.VXSTAT_BUSY n, CORE.TRSTAT_FILL n, CORE.TRSTAT_NEXT n] (fun f s => setF f 0 s) (transomFree n s)

/-- The engines, queue and working copies of a core are empty (R169, R238, R651 step 3). -/
def clearCore (n : Nat) (s : State) : State :=
  let s := idleCore n s
  fillSequencer n { s with
    mx := s.mx.filter (fun x => decide (x.1 ≠ n))
    vx := s.vx.filter (fun x => decide (x.1 ≠ n))
    transom := s.transom.filter (fun x => decide (x.1 ≠ n))
    encs := s.encs.filter (fun b => decide (b.core ≠ n) && decide (b.dest ≠ n))
    copies := s.copies.filter (fun c => decide (c.core ≠ n)) }

/-- Working copies of a sill or lintel are zeroed (R651 step 3). -/
def dropCopies (core : Nat) (s : State) : State := { s with copies := s.copies.filter (fun c => decide (c.core ≠ core)) }

/-- Jobs of interrupted SWEEPs with no part left stop. -/
def dropSweeps (ids : List Nat) (s : State) : State :=
  { s with sweeps := s.sweeps.filter (fun j => !ids.contains j.id || match flight j.id s with
      | some e => e.parts.any (fun p => decide (p.st = .running))
      | none => false) }

/-- The contexts of a compression-and-check region are empty, the parameters of CONFIG apart (R400), and its COMPs stop (R406, R422). -/
def clearEngines (n : Nat) (s : State) : State :=
  let lost := (s.cjobs.filter (fun j => decide (ceRegion (ceOf j.ctx) = n))).map (fun j => j.id)
  { emptyCtxs (fun ce => decide (ceRegion ce = n)) s with
    cjobs := s.cjobs.filter (fun j => decide (ceRegion (ceOf j.ctx) ≠ n))
    copies := s.copies.filter (fun c => !lost.contains c.owner)
    ckStamp := s.ckStamp.filter (fun c => decide (ckRegion c.1 ≠ n))
    ckOwner := s.ckOwner.filter (fun c => decide (ckRegion c.1 ≠ n)) }

/-- Transfers of ended parts that the hinges of region `n` hold are discarded (R81, R651 step 2). -/
def dropTransfers (n : Nat) (ids : List Nat) (s : State) : State :=
  let keep (t : Transfer) : Bool := match t.owner with
    | some id => !ids.contains id
    | none => true
  forEach (hingeEnds n) (fun m s => setHinge n m (fun h => { h with fwd := h.fwd.filter keep, bwd := h.bwd.filter keep }) s) s

/-- The arbiters of region `n` release and clear their wait counters; requests that stand are raised afresh (R641). -/
def clearArbiters (n : Nat) (s : State) : State :=
  forEach ((List.range 756).filter (fun i => (arbKind i).isSome && decide (arbRegion i = n))) (fun i s =>
    setF (ARB.STAT_OWNED i) 0 (setF (ARB.STAT_PARKED i) 0 (setF (ARB.STAT_OWNER i) 0
      (setF (ARB.WAITCNT0_CNTS i) 0 (setF (ARB.WAITCNT1_CNTS i) 0 { s with arbStamp := assocSet 0 s.arbStamp i 0 }))))) s

/-! What a region holds beside its registers. -/

/-- Every descriptor in flight is discarded, without a record (R627, R652, R653). -/
def discardFlights (s : State) : State :=
  let s := forEach (s.ckOwner.map (fun p => p.2)) releaseChecks s
  let s := forEach s.colls (fun j s => dropShadows j.id (dropColl j s)) s
  let s := { s with
    inflight := [], collHeld := [], cjobs := [], sweeps := [], mx := [], vx := [], transom := [], encs := [], copies := [], covers := []
    qaux := s.qaux.map (fun p => (p.1, { p.2 with late := [] })) }
  recount none (forEach (List.range 256) (fun q s => recountQueue q s) (forEach (List.range 32) (fun n s => clearCore n s) s))

/-- The root sequencer forgets its queues, its image and its membership (R544, R572, R652). -/
def clearRoot (s : State) : State :=
  let s := discardFlights s
  let s := if s.image.isSome || s.load.isSome then unloadImage s else s
  let s := forEach (List.range 32) (fun n s => resetFields (fun a => decide (a = 0x01000008 + n * 0x10000)
    || decide (a = 0x01001008 + n * 0x10000)) s) s
  { s with
    image := none, load := none, qaux := [], progs := [], hist := [], layerStats := [], phLive := List.replicate 10 0, phStamp := 0
    nd := NdAux.init, conns := [], collHeld := [] }

/-- A port starts again: its spill key is replaced, and a cartridge in an OPEN port is identified anew (R353, R360). -/
def restartPort (p : Nat) (s : State) : State :=
  let s := eraseSpill p (portPanes p s) (emptyPort p s)
  let s := setCart p (fun a => { a with since := 0, commit := none, heldBytes := 0 }) s
  let st := getF (GLB.SHUT_STATE (100 + p)) s
  if (cartAuxOf p s).seated && (decide (st = 1) || decide (st = 2)) then startInsertion p s else s

/-- The management controller and the region monitor start again (R642, R652, R691, R703). -/
def clearController (s : State) : State :=
  let s := resetFields (fun a => arbSetting a || (decide (0x80 ≤ a) && decide (a < 0xC0))) s
  let s := forEach (List.range 104) (fun i s => resetF (GLB.SHUT_REQ i) s) s
  let s := setArray KEY.NONCE_NONCE 8 [] (setF KEY.STAT_NONCEV 0 s)
  { s with fifo := [], traceSeq := 0, traceLost := none, tracePhase := true, traceSince := 0 }

/-- The CXL link goes down: a load with a read in flight fails, and the link trains anew (R548, R606). -/
def cxlDown (s : State) : State :=
  let s := setF HOSTIF.LNKSTAT_UP 0 (setF HOSTIF.LNKSTAT_RATE 0 (setF HOSTIF.LNKSTAT_WIDE 0
    (setF HOSTIF.LNKSTAT_MEM 0 (setF HOSTIF.LNKSTAT_CACHE 0 s))))
  let s := satF HOSTIF.LNKSTAT_RETRAINS 1 s
  let st := imgState s
  if st = 1 ∨ (st = 6 ∧ ((s.load.bind (fun j => j.image)).isSome = true)) then loadFails 1 0 0 s else s

/-- Unit actions of a region reset, after the registers of the region have their Reset values. -/
def resetUnits (n : Nat) (s : State) : State :=
  let s := forEach ((List.range 32).filter (fun u => decide (muRegion u = n))) (fun u s => muStart u false s) s
  let s := forEach ((List.range 16).filter (fun w => decide (dwRegion w = n))) (fun w s =>
    let s := setDw w (fun _ => dwAuxInit) s
    if isOpen (68 + w) s then startTraining w s else s) s
  if n = 96 then cxlDown s
  else if n = 98 then forEach [0, 1, 2, 3] restartPort s
  else s

/-- What region `n` does before its registers are reset (R651 steps 1 to 3). -/
def clearUnits (n : Nat) (s : State) : State :=
  if n < 64 then clearCore (n / 2) s
  else if n < 68 then dropCopies (n - 32) s
  else if n = 97 then clearController s
  else if n = 99 then clearRoot s
  else if n < 96 ∧ (n - 72) % 6 = 4 ∧ 72 ≤ n then clearEngines n s
  else s

/-- The counts of the monitor that region `n`'s LIC measures start again with it: the calm of a louvred region, the stall of a
faster side (R79, R86, R88). -/
def restampHinges (n : Nat) (s : State) : State :=
  forEach (neighbourList n) (fun m s => setHinge n m (fun h => { h with
    calmSince := if (h.need.map (fun x => x.1)) = some n then h.calmSince.map (fun _ => 0) else h.calmSince
    stalled := h.stalled.map (fun x => if x.1 = n then (n, 0) else x) }) s) s

/-- Registers whose latched and held halves a reset of region `n` ends: its own, REG n, and with TR97 what that region serves (R19,
R93, R642, R668). -/
def halvesEnd (n a : Nat) : Bool :=
  regionRegister n a || (decide (0x03000000 + n * 0x1000 ≤ a) && decide (a < 0x03001000 + n * 0x1000))
  || (decide (n = 97) && (decide (a < 0x00200000) || (decide (0x03400000 ≤ a) && decide (a < 0x03800000))))

/-- Latched upper halves and held lower halves of the registers that a reset reaches are gone (R19). -/
def dropHalves (n : Nat) (s : State) : State :=
  { s with latch := s.latch.filter (fun p => !halvesEnd n p.1), held := s.held.filter (fun p => !halvesEnd n p.1) }

/-- The region enters calibration, its LIC at zero (R75, R77, R93, R104). -/
def holdRegion (n : Nat) (s : State) : State :=
  let s := setF (REG.LIC_COUNT n) 0 (setF (REG.LICCTL_CALFAIL n) 0 (setF (REG.LICCTL_CAL n) 0
    (setF (REG.LICSTEP_STEP n) 0x10000 (setF (REG.LICCOUNT_COUNT n) 0 s))))
  startCal n (setF (REG.RSTCTL_RESET n) 1 (restampHinges n (dropHalves n
    (setRegion n (fun r => { r with frac := 0, running := false, inReset := true, vstamp := 0 }) s))))

/-- A region reset (R651); one of a region already in reset is merged (R652). -/
def resetRegion (n : Nat) (s : State) : State :=
  if (regionOf n s).inReset then s
  else
    let ids := endedIds n s
    let s := dropTransfers n ids (clearUnits n (cutParts n s))
    let s := resetFields (regionRegister n) (holdRegion n s)
    let s := resetUnits n (clearArbiters n s)
    let s := if n < 64 then fillSequencer (n / 2) s else s
    let s := settleLost ids (dropSweeps ids s)
    if n = 97 then driveShutters s else s

/-- A reset of region `n` ends (R651 steps 5 and 6); where it reached a lintel, the valid groups of its sweep engine are copied first
(R436). -/
def regionRuns (n : Nat) (s : State) : State :=
  releaseRegion n (if 64 ≤ n ∧ n < 68 ∧ (regionOf n s).inReset = true then replayGroups (n - 64) s else s)

/-- RSTCTL_RESET (R104). -/
def execRstctlReset (n : RegionNo) (s : State) : Host.Outcome State Fault Refusal := .next (hostWrite .early (resetRegion n) s)

/-- How far the measured supply of a region lies from its target, in mV (R88). -/
def supplyError (n : Nat) (s : State) : Nat :=
  ((getF (REG.VMEAS_MV n) s : Int) - (600 + 5 * getF (REG.VSET_VCODE n) s : Nat)).natAbs

/-- The region of a stalled pair that is reset (R88). -/
def stallVictim (a b : Nat) (s : State) : Nat :=
  let (f, l) := fasterFirst a b s
  if supplyError f s < supplyError l s then l else f

/-- HINGE_STALL_TIMEOUT (R88): a stall has lasted longer than HSTALL counts of the faster side. -/
def execHingeStallTimeout (a b : RegionNo) (s : State) : Host.Outcome State Fault Refusal :=
  .next (match (hingeOf a b s).stalled with
    | none => s
    | some (f, t) =>
      if getF (REG.HSTALL_LIMIT f) s < licSince f t s && neighbours a b && !fatal s then
        let v := stallVictim a b s
        resetRegion v (endStall a b (pairRecord a b 6 v s))
      else s)

/-- HOLD_WATCHDOG_BITE (R640). -/
def execHoldWatchdogBite (inst : Nat) (s : State) : Host.Outcome State Fault Refusal :=
  .next (if (arbKind inst).isNone || !flag (ARB.STAT_OWNED inst) s || fatal s then s
    else
      let n := arbRegion inst
      let hold := licSince n (assocGet 0 s.arbStamp inst) s
      if getF (ARB.HOLD_LIMIT inst) s * 1024 < hold && !(regionOf n s).inReset then
        let r := getF (ARB.STAT_OWNER inst) s
        let s := errRecord clsArbiter 1 n 0 noUnit [inst, r, inputOf inst r s, hold] s
        let s := satF (ARB.BITES_COUNT inst) 1 (trace 10 1 n (inst + r * 2 ^ 16) hold s)
        resetRegion n s
      else s)

end Sys2Proof.Machine
end

