-- ==== Sys2Proof/Machine/Boot.lean ====
section
/-! DEFINITION. The resets that reach every region, boot and self-test (R649 to R657, R680 to R684), calibration ends (R76, R77),
and the commands of GLB and of the board-control pins. -/

namespace Sys2Proof.Machine

/-! Full resets (R626, R649, R650, R653). -/

/-- Causes of GLB.STAT (R670). -/
def causePower : Nat := 0
def causePerst : Nat := 1
def causeWarm : Nat := 2
def causeLife : Nat := 3

/-- Fields of GLB that a reset keeps: the error log but at power-on (R650, R674), the results of self-test at PERST_N (R657). -/
def keptField (cause key : Nat) : Bool :=
  let a := key / 64
  (decide (cause ≠ causePower) && (decide (a = 0x40) || decide (a = 0x44) || decide (a = 0x48)))
  || (decide (cause = causePerst) && (decide (a = 0x24) || decide (a = 0x28)
    || (decide (0x100 ≤ a) && decide (a < 0x2A0) && decide (key % 64 = 9))))

/-- A cartridge port after a reset: what its pin shows, and what the keyhole holds until the spill key is replaced. -/
def portAfterReset (cause : Nat) (a : CartAux) : CartAux :=
  { cartAuxInit with
    present := a.present, seated := a.seated && decide (cause ≠ causePower), spillKey := a.spillKey }

/-- The state that a reset of every region leaves, all regions still in it: nothing is in flight, no image, no window, no
membership; what is one-time-programmed or held in SPI NOR stands (R650, R651). At PERST_N every memory unit is in self-refresh (R313). -/
def fullReset (cause : Nat) (s : State) : State :=
  let panes := (List.range 4).map (fun p => portPanes p s)
  let gone := decide (winLen s ≠ 0)
  let w := wipeWindow s
  let t : State := { State.reset with
    flds := s.flds.filter (fun f => keptField cause f.1) ++ State.reset.flds
    mem := w.mem
    poison := w.poison
    errlog := if cause = causePower then [] else s.errlog
    errSeq := if cause = causePower then 0 else s.errSeq
    mu := if cause = causePerst then (List.range 32).map (fun u => (u, { muAuxInit with rest := true })) else []
    repairLog := s.repairLog
    repairIds := s.repairIds
    carts := (List.range 4).foldl (fun l p => assocSet cartAuxInit l p (portAfterReset cause (cartAuxOf p s))) []
    otp := s.otp
    cdatSeq := s.cdatSeq + b2n gone
    ckFenced := if cause = causePerst then s.ckFenced else []
    sweepRecs := if cause = causePerst then s.sweepRecs else []
    journal := if cause = causePerst then s.journal else []
    porAsserted := s.porAsserted
    perstAsserted := s.perstAsserted
    alertPulse := s.alertPulse && decide (cause ≠ causePower)
    out := s.out
    nextId := s.nextId
    freeIdx := s.freeIdx
    pending := s.pending }
  let t := showLifeCycle (showFuses (setF GLB.STAT_CAUSE cause t))
  if cause = causePower then t
  else forEach (indexFrom 0 panes) (fun p s => eraseSpill p.1 p.2 s) t

/-! The firmware manifest (R680, R681). -/

def mfMagic (m : List Byte) : Bool := decide (leAt m 0 4 = 0x57464755)
def mfCount (m : List Byte) : Nat := leAt m 6 2
def mfSvn (m : List Byte) : Nat := leAt m 8 4
def mfKeyidx (m : List Byte) : Nat := leAt m 0x0C 1
def mfPubkey (m : List Byte) : List Byte := byteSlice m 0x10 32
def mfEntry (m : List Byte) (i : Nat) : List Byte := byteSlice m (0x30 + 96 * i) 96
def meType (e : List Byte) : Nat := leAt e 0 1
def meLength (e : List Byte) : Nat := leAt e 8 4
def meDigest (e : List Byte) : List Byte := byteSlice e 16 64

/-- Entries 0 to COUNT - 1. -/
def mfEntries (m : List Byte) : List (List Byte) := (List.range (mfCount m)).map (mfEntry m)

/-- Fields of a manifest that R680 fixes: VERSION, COUNT, zero fields, SVN, KEYIDX, entries and their types. -/
def mfWellFormed (m : List Byte) : Bool :=
  let ts := (mfEntries m).map meType
  let times (t : Nat) : Nat := (ts.filter (fun x => decide (x = t))).length
  decide (leAt m 4 2 = 1) && decide (1 ≤ mfCount m) && decide (mfCount m ≤ 8) && decide (mfSvn m ≤ 64) && decide (mfKeyidx m ≤ 3)
  && zeroAt m 0x0D 3 && (List.range 8).all (fun i => decide (i < mfCount m) || zeroAt m (0x30 + 96 * i) 96)
  && (mfEntries m).all (fun e => zeroAt e 1 3 && zeroAt e 12 4 && zeroAt e 80 16 && decide (1 ≤ meLength e) && decide (meLength e ≤ 2 ^ 22))
  && ts.all (fun t => decide (t ≤ 3)) && decide (times 0 = 1) && decide (times 1 = 1) && decide (times 2 ≤ 1) && decide (times 3 ≤ 1)

/-- The boot ROM accepts a manifest slot with the components that it names (R681). -/
def slotAccepted (m : List Byte) (comps : List (List Byte)) (s : State) : Bool :=
  mfMagic m && mfWellFormed m && decide (sha512 (mfPubkey m) = Config.vendorKeyHash (mfKeyidx m)) && !bitOf s.otp.revoked (mfKeyidx m)
  && Config.ed25519Verify (mfPubkey m) (byteSlice m 0 0x330) (byteSlice m 0x330 64) && decide (s.otp.svn ≤ mfSvn m)
  && (indexFrom 0 (mfEntries m)).all (fun e => decide (sha512 (comps.getD e.1 []) = meDigest e.2))

/-- The measurements of boot, in the order of R684. -/
def measureBoot (m : List Byte) (s : State) : State :=
  let s := extend 0 0 Config.romDigest s
  let s := extend 0 1 (sha512 (byteSlice m 0 880)) s
  let s := forEach (mfEntries m) (fun e s => extend 0 2 (meDigest e) s) s
  extend 0 3 (sha512 (lifeCycleRecord s)) s

/-- The subsystem ID that the components give (R607). -/
def subsystemOf (m : List Byte) (comps : List (List Byte)) : Nat :=
  match (indexFrom 0 (mfEntries m)).find? (fun e => decide (meType e.2 = 3)) with
  | some e => Config.subsystemId (comps.getD e.1 []) % 65536
  | none => 0

/-! Boot (R654, R656). -/

/-- Boot stops with a failure (R656). -/
def bootFails (code : Nat) (s : State) : State :=
  errRecord clsBoot 2 97 0 noUnit [] (setF GLB.BOOT_FAIL code { s with boot := none })

/-- Steps 2 and 3 with a verified manifest (R654): the measurements are made and every region begins its calibration. -/
def bootVerified (slot : Nat) (m : List Byte) (comps : List (List Byte)) (s : State) : State :=
  let s := measureBoot m { s with subsystem := subsystemOf m comps }
  let s := setF KEY.STAT_BOOTSLOT slot (setF KEY.FWSTAT_SVN (mfSvn m) (setF KEY.FWSTAT_KEYIDX (mfKeyidx m) s))
  forEach (List.range 100) startCal (setF GLB.BOOT_STAGE 3 (setF GLB.RESET_WARM 0 s))

/-- Boot begins (R654 steps 1 to 3) after a reset of every region. -/
def startBoot (env : BootEnv) (s : State) : State :=
  let cause := getF GLB.STAT_CAUSE s
  let s := if cause = causePower then forEach (List.range 4) (fun p s => eraseSpill p 0 s) s else s
  let s := setF GLB.BOOT_STAGE 2 { s with boot := some ⟨env, decide (cause = causePerst)⟩ }
  if slotAccepted env.slotA env.compsA s then bootVerified 0 env.slotA env.compsA s
  else if slotAccepted env.slotB env.compsB s then bootVerified 1 env.slotB env.compsB (keyRecord 0 [0] s)
  else bootFails (if mfMagic env.slotA || mfMagic env.slotB then 2 else 1) s

/-- A bit for each number in a list. -/
def maskOf (l : List Nat) : Nat := l.foldl (fun a i => a ||| 2 ^ i) 0

/-- Functions that self-test fences, by shutter index (R657). -/
def fencedBy (env : BootEnv) : List Nat :=
  let clus := env.clustersFailed.map (fun c => c.val)
  (List.range 104).filter (fun i =>
    if i < 32 then env.coresFailed.any (fun n => decide (n.val = i)) || clus.contains (i / 8)
    else if i < 36 then clus.contains (i - 32)
    else if 68 ≤ i ∧ i < 84 then env.enginesFailed.any (fun e => decide (e.val = i - 68))
    else if 84 ≤ i ∧ i < 100 then env.enginesFailed.any (fun e => decide (e.val = i - 84))
    else false)

/-- Unit number of a function within its kind (R31). -/
def shutUnit (i : Nat) : Nat :=
  if i < 32 then i else if i < 36 then i - 32 else if i < 52 then i - 36 else if i < 68 then i - 52
  else if i < 84 then i - 68 else if i < 100 then i - 84 else i - 100

/-- The results of self-test (R657, R673): fenced units and a record for each. -/
def fenceUnits (env : BootEnv) (s : State) : State :=
  let f := fencedBy env
  let cks := (List.range 64).filter (fun u => env.checksFailed.any (fun x => decide (x.val = u)))
  let s := setF GLB.BISTCORE_COREFAIL (maskOf (f.filter (fun i => decide (i < 32)))) s
  let s := setF GLB.BIST_CLUFAIL (maskOf ((f.filter (fun i => decide (32 ≤ i) && decide (i < 36))).map (fun i => i - 32))) s
  let s := setF GLB.BIST_CEFAIL (maskOf ((f.filter (fun i => decide (84 ≤ i))).map (fun i => i - 84))) { s with ckFenced := cks }
  let s := forEach f (fun i s => errRecord clsBoot 1 (shutRegion i) 0 (shutUnit i) [] (setF (GLB.SHUT_FENCED i) 1 s)) s
  forEach cks (fun u s => errRecord clsBoot 1 (ckRegion u) 0 u [] s) s

/-- Step 5 (R654, R310, R323): every memory unit begins its bring-up. -/
def bootMemory (j : BootJob) (s : State) : State :=
  let s := setF GLB.BOOT_STAGE 5 s
  let s := if j.env.repairLogOk then s else errRecord clsMemory 0 97 0 noUnit [] { s with repairLog := [], repairIds := [] }
  forEach (List.range 32) (fun u s => muStart u (!j.perst) s) s

/-- Step 4 (R654, R656, R657): PERST_N keeps the previous results. -/
def bootSelfTest (j : BootJob) (s : State) : State :=
  let s := setF GLB.BOOT_STAGE 4 s
  if j.perst then bootMemory j s
  else if !j.env.keyholeOk then bootFails 3 s
  else if !j.env.rootOk then bootFails 5 s
  else
    let s := fenceUnits j.env s
    if (List.range 32).all (fun n => flag (GLB.SHUT_FENCED n) s) then bootFails 6 s else bootMemory j s

/-- Regions whose calibration boot waits for at step 4 (R654). -/
def bootRegions : List Nat := [97, 99, 77, 83, 89, 95]

/-- Boot goes on once its regions are calibrated (R654 step 4, R656 FAIL 4). -/
def bootCalibrated (s : State) : State :=
  match s.boot with
  | none => s
  | some j =>
    if getF GLB.BOOT_STAGE s ≠ 3 || bootRegions.any (fun n => flag (REG.LICCTL_CALBUSY n) s) then s
    else if bootRegions.any (fun n => flag (REG.LICCTL_CALFAIL n) s) then bootFails 4 s
    else bootSelfTest j s

/-! The end of a calibration (R76, R77, R651). -/

/-- The window that region `n` counts has ended, or its window begins (R76). -/
def windowEnd (n : Nat) (s : State) : State :=
  match (regionOf n s).cal with
  | none => s
  | some c =>
    match c.window with
    | none => setRegion n (fun r => { r with cal := some ⟨c.since, some 0⟩ }) s
    | some k => regionRuns n (endCal n ((calStep k).map (fun st => (st, k))) s)

/-- CALIBRATION_WINDOW_END (R76, R651, R654): a window ends at every region, and the next begins. -/
def execCalibrationWindowEnd (s : State) : Host.Outcome State Fault Refusal :=
  .next (bootCalibrated (forEach (List.range 100) windowEnd s))

/-- CALIBRATION_TIMEOUT (R77). -/
def execCalibrationTimeout (n : RegionNo) (s : State) : Host.Outcome State Fault Refusal :=
  .next (match (regionOf n s).cal with
    | some c => if 2 ^ 25 ≤ c.since then bootCalibrated (regionRuns n (endCal n none s)) else s
    | none => s)

/-! Memory units at boot. -/

/-- Step 6 (R654): zeroing is under way. -/
def bootZeroing (s : State) : State :=
  if s.boot.isSome && decide (getF GLB.BOOT_STAGE s = 5) && (List.range 32).any (fun u => decide (getF (MU.MUSTAT_TSTATE u) s = 3))
  then setF GLB.BOOT_STAGE 6 s else s

/-- MU_TRAINING_DONE (R310, R311, R324, R325). -/
def execMuTrainingDone (u : MemUnit) (r : MuTraining) (repairs : List MuRepair) (s : State) : Host.Outcome State Fault Refusal :=
  .next (if (regionOf (muRegion u) s).inReset then s else bootZeroing (muTrained u r repairs s))

/-- MU_ZEROING_DONE (R310, R314). -/
def execMuZeroingDone (u : MemUnit) (s : State) : Host.Outcome State Fault Refusal := .next (muZeroed u s)

/-- A memory unit has settled (R654 step 7). -/
def muSettled (u : Nat) (s : State) : Bool :=
  decide (getF (MU.MUSTAT_TSTATE u) s = 4) || decide (getF (MU.MUSTAT_TSTATE u) s = 5)
  || (decide (getF (MU.MUSTAT_TSTATE u) s = 0) && decide (getF (MU.MUSTAT_FAIL u) s = 1))

/-- BOOT_READY (R654 step 7): the shutters are driven. -/
def execBootReady (s : State) : Host.Outcome State Fault Refusal :=
  .next (if s.boot.isSome && decide (5 ≤ getF GLB.BOOT_STAGE s) && (List.range 32).all (fun u => muSettled u s) then
      driveShutters (setF GLB.BOOT_STAGE 8 { s with boot := none })
    else s)

/-! The commands that start a reset (R649, R652, R667, R722). -/

/-- Every region reads 105 degrees or less (R667). -/
def cooled (s : State) : Bool := (List.range 100).all (fun n => decide (tmeas n s ≤ 420))

/-- A reset must wait for the temperature to fall (R667). -/
def tooHot (s : State) : Bool := fatal s && decide (getF GLB.STAT_FCAUSE s = 3) && !cooled s

/-- POR_N_ASSERT (R650, R720, R722). -/
def execPorNAssert (s : State) : Host.Outcome State Fault Refusal := .next (fullReset causePower { s with porAsserted := true })

/-- POR_N_DEASSERT (R649, R722, R728): boot waits while PERST_N holds. -/
def execPorNDeassert (env : BootEnv) (s : State) : Host.Outcome State Fault Refusal :=
  .next (if !s.porAsserted then s
    else
      let s := { s with porAsserted := false }
      if s.perstAsserted then s else startBoot env s)

/-- PERST_N_ASSERT (R313, R649, R652, R653, R667, R722). -/
def execPerstNAssert (s : State) : Host.Outcome State Fault Refusal :=
  .next (if s.perstAsserted then s
    else if s.porAsserted then { s with perstAsserted := true }
    else if tooHot s then { s with perstAsserted := true, awaited := 1 }
    else fullReset causePerst { s with perstAsserted := true })

/-- PERST_N_DEASSERT (R649, R654, R667, R722). -/
def execPerstNDeassert (env : BootEnv) (s : State) : Host.Outcome State Fault Refusal :=
  .next (if !s.perstAsserted then s
    else
      let s := { s with perstAsserted := false }
      if s.porAsserted || decide (s.awaited = 1) then s else startBoot env s)

/-- A warm reset (R649, R670): WARM reads 1 until boot reaches step 3. -/
def warmReset (env : BootEnv) (s : State) : State := startBoot env (setF GLB.RESET_WARM 1 (fullReset causeWarm s))

/-- WARM_RESET (R652, R667, R670). -/
def execWarmReset (env : BootEnv) (s : State) : Host.Outcome State Fault Refusal :=
  .next (hostWrite .glb (fun s =>
    if tooHot s then setF GLB.RESET_WARM 1 { s with awaited := if s.awaited = 1 then 1 else 2 }
    else warmReset env s) s)

/-- FATAL_THERMAL_RESET_START (R667, R734). -/
def execFatalThermalResetStart (env : BootEnv) (s : State) : Host.Outcome State Fault Refusal :=
  .next (if decide (s.awaited = 0) || !fatal s || !cooled s then s
    else if s.awaited = 2 then warmReset env s
    else
      let s := fullReset causePerst s
      if s.perstAsserted then s else startBoot env s)

/-- LIFE_CYCLE_ROW_PROGRAMMED (R691 steps 3 and 4, R698): the row is valid and the life-cycle change reset starts, or it cannot be
programmed. In the fatal state no reset starts (R667). -/
def execLifeCycleRowProgrammed (programmed : Bool) (env : BootEnv) (s : State) : Host.Outcome State Fault Refusal :=
  .next (if !s.lcPending then s
    else if !programmed then rowFailed s
    else if fatal s then setF KEY.CMD_GO 0 (rowValid s)
    else startBoot env (fullReset causeLife (rowValid s)))

/-! GLB and board control (R662, R674, R734). -/

/-- RUNMODE_WRITE (R662, R672): discarded in RETIRED. -/
def execRunmodeWrite (mode : Nat) (s : State) : Host.Outcome State Fault Refusal :=
  .next (hostWrite .glb (fun s =>
    if mode % 4 = 3 ∨ (lcState s = 3 ∧ mode % 4 ≠ 0) then regAccessError GLB.RUNMODE_MODE.addr s
    else setF GLB.RUNMODE_MODE (mode % 4) s) s)

/-- ERRHEAD_WRITE (R664, R674): a write outside the span from head to tail is discarded. -/
def execErrheadWrite (slot : Nat) (s : State) : Host.Outcome State Fault Refusal :=
  .next (hostWrite .glb (fun s =>
    let head := getF GLB.ERRHEAD_SLOT s
    let v := slot % 1024
    if (v + 1024 - head) % 1024 ≤ (getF GLB.ERRTAIL_SLOT s + 1024 - head) % 1024 then setF GLB.ERRHEAD_SLOT v s else s) s)

/-- ALERT_N_PULSE_END (R734). -/
def execAlertNPulseEnd (s : State) : Host.Outcome State Fault Refusal := .next { s with alertPulse := false }

/-- ALERT_N is asserted (R734). -/
def alertAsserted (s : State) : Bool := fatal s || s.alertPulse

end Sys2Proof.Machine
end

