-- ==== Sys2Proof/Machine/HostIf.lean ====
section
/-! DEFINITION. The host interface beside the window: the CXL link (R605, R606), configuration space (R607 to R612, R655), MSI-X
(R622), DOE with CDAT and SPDM (R623 to R625, R686), and the function-level reset (R627). -/

namespace Sys2Proof.Machine

/-! The link. -/

/-- The link comes up at a width and a rate (R605, R629). -/
def cxlUp (wide : Bool) (rate : Nat) (s : State) : State :=
  let s := setF HOSTIF.LNKSTAT_UP 1 (setF HOSTIF.LNKSTAT_WIDE (b2n wide) (setF HOSTIF.LNKSTAT_RATE rate s))
  setF HOSTIF.LNKSTAT_MEM 1 (setF HOSTIF.LNKSTAT_CACHE 1 s)

/-- CXL_LINK_TRAINING_DONE (R605): a link that trains comes up, or stays in training with a record. -/
def execCxlLinkTrainingDone (r : CxlTraining) (s : State) : Host.Outcome State Fault Refusal :=
  .next (if inHold s || flag HOSTIF.LNKSTAT_UP s then s
    else match r with
      | .up wide rate => if 1 ≤ rate ∧ rate ≤ 3 then cxlUp wide rate s else s
      | .down => errRecord clsHost 1 96 0 noUnit [] s)

/-- CXL_LINK_DOWN (R606): requests in flight to the host fail and the link retrains. -/
def execCxlLinkDown (s : State) : Host.Outcome State Fault Refusal :=
  .next (if flag HOSTIF.LNKSTAT_UP s then cxlDown s else s)

/-! MSI-X and configuration space. -/

/-- Send the held messages that nothing holds any longer, lowest vector first (R612, R622). -/
def sendHeld (s : State) : State :=
  if !s.cfg.msixEnable || s.cfg.funcMask || !busOk s then s
  else
    let go := sortNat (s.cfg.pendingVec.filter (fun v => s.cfg.unmasked.contains v))
    let s := { s with cfg := { s.cfg with pendingVec := s.cfg.pendingVec.filter (fun v => !s.cfg.unmasked.contains v) } }
    forEach go (fun v s => emit (.msix v (msixAddr v s) (msixData v s)) s) s

/-- The records that D3hot held go to their queue, oldest first (R612). -/
def writeLate (q : Nat) (s : State) : State :=
  let l := (qauxOf q s).late
  if l = [] then s else recount (some q) (forEach l (offerRecord q) (setQaux q (fun a => { a with late := [] }) s))

/-- The power state changes (R612): outside D3hot the held records are written, but in the fatal state (R667), and the held messages
sent. -/
def setPower (d3hot : Bool) (s : State) : State :=
  let s := { s with cfg := { s.cfg with d3hot := d3hot } }
  sendHeld (if d3hot || fatal s then s else forEach (s.qaux.map (fun p => p.1)) writeLate s)

/-- Clear or set the mask bit of a vector (R622). -/
def maskVector (v : Nat) (mask : Bool) (s : State) : State :=
  let others := s.cfg.unmasked.filter (fun w => decide (w ≠ v))
  { s with cfg := { s.cfg with unmasked := if mask then others else v :: others } }

/-- MSIX_UNMASK (R622): a message held for the vector is sent. -/
def execMsixUnmask (v : Nat) (s : State) : Host.Outcome State Fault Refusal :=
  .next (if v < 2048 then hostWrite .early (fun s => sendHeld (maskVector v false s)) s else s)

/-- The device answers configuration requests with Retry Status: it is held in reset, or a function-level reset runs (R627, R655). -/
def configHeld (s : State) : Bool := inHold s || s.flrActive

/-- What a DVSEC holds (R609). ID 0: Cache_Capable, IO_Capable and Mem_Capable, which make the device a Type 2 device (R3, R604),
HDM_Count, the cache size, Range 1 Size, Memory_Info_Valid, Memory_Active. ID 7: CXL.cache, CXL.io and CXL.mem negotiated, 256-byte
flit mode. ID 8: one entry, its BAR and offset. -/
def dvsecContent (id : Nat) (s : State) : Option (List Nat) :=
  match id with
  | 0 => some [1, 1, 1, 1, 65536, winLen s, 1, b2n (decide (winLen s ≠ 0))]
  | 7 => some [getF HOSTIF.LNKSTAT_CACHE s, getF HOSTIF.LNKSTAT_UP s, getF HOSTIF.LNKSTAT_MEM s, getF HOSTIF.LNKSTAT_UP s]
  | 8 => some [1, 0, 0x03800000]
  | _ => none

/-- The two lists of capabilities (R608). -/
def pciCapabilities : List Capability := [.powerManagement, .pciExpress, .msix]
def extendedCapabilities : List Capability :=
  [.advancedErrorReporting, .serialNumber, .dataLinkFeature, .physicalLayer 32, .physicalLayer 64, .physicalLayer 128, .laneMargining,
   .resizableBar 4, .doe, .dvsec 0, .dvsec 7, .dvsec 8]

/-- A BAR (R610): whether it is prefetchable, and the logarithm of its size. -/
def barContent (n : Nat) (s : State) : Option (Bool × Nat) :=
  match n with
  | 0 => some (false, 26)
  | 2 => some (false, 24)
  | 4 => some (true, s.cfg.bar4Log2)
  | _ => none

/-- The answer to a configuration request that is served (R3, R607, R609 to R612, R622). -/
def configServe (r : ConfigReq) (s : State) : State :=
  match r with
  | .readId => emit (.configReply (0x0160 * 2 ^ 16 + 0x1F2B)) s
  | .readClass => emit (.configReply (0x120000 * 2 ^ 8 + 0x00)) s
  | .readDvsec id => (match dvsecContent id s with
    | some c => emit (.dvsec id c) s
    | none => s)
  | .readSubsystem => emit (.configReply (s.subsystem % 2 ^ 16 * 2 ^ 16 + 0x1F2B)) s
  | .readInterruptPin => emit (.configReply 0) s
  | .readSerial => emit (.configReply deviceSerial) s
  | .readCapabilities extended => emit (.capabilities (if extended then extendedCapabilities else pciCapabilities)) s
  | .readBar n => (match barContent n s with
    | some (p, k) => emit (.bar n p k) s
    | none => s)
  | .readBar4Size => emit (.configReply s.cfg.bar4Log2) s
  | .writeCommand memSpace busMaster => sendHeld { s with cfg := { s.cfg with memSpace := memSpace, busMaster := busMaster } }
  | .writePower d3hot => setPower d3hot s
  | .writeBar4Size log2 => if 28 ≤ log2 ∧ log2 ≤ 42 then { s with cfg := { s.cfg with bar4Log2 := log2 } } else s
  | .writeMsixControl enable funcMask => sendHeld { s with cfg := { s.cfg with msixEnable := enable, funcMask := funcMask } }
  | .maskVector v => if v < 2048 then maskVector v true s else s

/-- CONFIG_REQUEST (R655). -/
def execConfigRequest (r : ConfigReq) (s : State) : Host.Outcome State Fault Refusal :=
  .next (if configHeld s then emit .retryStatus s else configServe r s)

/-! DOE (R623). -/

/-- An object of the mailbox: it is answered unless configuration space is not served or the error bit stands (R623). -/
def doeServe (kind : Nat) (f : State → List Byte × State) (s : State) : State :=
  if configHeld s || s.doeError then s
  else
    let (bs, s) := f s
    emit (.doe kind bs) s

/-- An object of `bytes` bytes: one longer than 64 KiB is discarded, with the error bit (R623). -/
def doeObject (kind bytes : Nat) (f : State → List Byte × State) (s : State) : State :=
  if 65536 < bytes then (if configHeld s then s else { s with doeError := true }) else doeServe kind f s

/-- DOE_DISCOVERY (R623): the object types are discovery, table access and CMA/SPDM. -/
def execDoeDiscovery (index bytes : Nat) (s : State) : Host.Outcome State Fault Refusal :=
  .next (doeObject 0 bytes (fun s => (Config.otherStandard 0 (leBytes 1 index), s)) s)

/-- What the CDAT holds (R624): handle 0, DPA base 0, the window's length while READY, the bandwidth in GB/s, and the sequence
number. -/
def cdatContent (s : State) : List Byte :=
  leBytes 1 0 ++ leBytes 8 0 ++ leBytes 8 (winLen s) ++ leBytes 2 1640 ++ leBytes 4 s.cdatSeq

/-- CDAT_TABLE_ACCESS (R624). -/
def execCdatTableAccess (bytes : Nat) (s : State) : Host.Outcome State Fault Refusal :=
  .next (doeObject 1 bytes (fun s => (Config.otherStandard 1 (cdatContent s), s)) s)

/-- DOE_ABORT (R623). -/
def execDoeAbort (s : State) : Host.Outcome State Fault Refusal :=
  .next (if configHeld s then s else { s with doeError := false })

/-! SPDM (R625, R686). The layout of a response is that of its standard; its content is this. -/

/-- A response of SPDM: its name by tag, its content. -/
def spdm (tag : Nat) (content : State → List Byte × State) (s : State) : Host.Outcome State Fault Refusal :=
  .next (doeServe 2 (fun s => let (bs, s) := content s; (Config.otherStandard tag bs, s)) s)

/-- GET_VERSION (R625): SPDM 1.2. -/
def execGetVersion (s : State) : Host.Outcome State Fault Refusal := spdm 16 (fun s => ([0x12#8], s)) s

/-- GET_CAPABILITIES (R625): certificates, challenge and measurements; no key exchange. -/
def execGetCapabilities (s : State) : Host.Outcome State Fault Refusal := spdm 17 (fun s => ([], s)) s

/-- NEGOTIATE_ALGORITHMS (R625): EdDSA Ed25519 and SHA-512. -/
def execNegotiateAlgorithms (s : State) : Host.Outcome State Fault Refusal := spdm 18 (fun s => ([], s)) s

/-- GET_DIGESTS (R625, R686): the digest of slot 0's chain; slots 1 to 7 are empty. -/
def execGetDigests (s : State) : Host.Outcome State Fault Refusal := spdm 19 (fun s => (sha512 Config.certChain, s)) s

/-- ERROR, with its code (R625): 1 InvalidRequest, 7 UnsupportedRequest. -/
def spdmError (code datum : Nat) (s : State) : Host.Outcome State Fault Refusal :=
  spdm 127 (fun s => (leBytes 1 code ++ leBytes 1 datum, s)) s

/-- GET_CERTIFICATE (R686): a portion of slot 0's chain; the other slots are empty. -/
def execGetCertificate (slot offset len : Nat) (s : State) : Host.Outcome State Fault Refusal :=
  if slot = 0 then spdm 20 (fun s => ((Config.certChain.drop offset).take len, s)) s else spdmError 1 0 s

/-- A response signed with the identity key (R678, R686): content, a nonce of the device's own, and the signature. -/
def signedResponse (tag : Nat) (request content : List Byte) (s : State) : List Byte × State :=
  let (n, s) := drawRandom 32 s
  let body := content ++ n
  (body ++ Config.ed25519Sign identitySeed (Config.otherStandard (tag + 128) (request ++ body)), s)

/-- CHALLENGE_SPDM (R686). -/
def execChallengeSpdm (slot : Nat) (nonce : List Byte) (s : State) : Host.Outcome State Fault Refusal :=
  if slot = 0 then spdm 21 (fun s => signedResponse 21 nonce (sha512 Config.certChain) s) s else spdmError 1 0 s

/-- The 8 bytes of measurement block 5 (R686). -/
def svnInfo (s : State) : List Byte :=
  leBytes 1 (getF KEY.FWSTAT_SVN s) ++ leBytes 1 (getF KEY.FWSTAT_SVNMIN s) ++ leBytes 1 (getF KEY.FWSTAT_KEYIDX s)
  ++ leBytes 1 (getF KEY.FWSTAT_REVOKED s) ++ leBytes 4 0

/-- A measurement block (R686): its content by index. -/
def measBlock (i : Nat) (s : State) : List Byte :=
  match i with
  | 1 => Config.romDigest
  | 2 => measured 0 s
  | 3 => measured 1 s
  | 4 => lifeCycleRecord s
  | 5 => svnInfo s
  | _ => match s.image with
    | some im => im.digest
    | none => List.replicate 64 0#8

/-- GET_MEASUREMENTS (R686): index 0 asks how many blocks there are, 255 for all. -/
def execGetMeasurements (index : Nat) (signed : Bool) (nonce : List Byte) (s : State) : Host.Outcome State Fault Refusal :=
  if 6 < index ∧ index ≠ 255 then spdmError 1 0 s
  else spdm 22 (fun s =>
    let block (i : Nat) : List Byte := leBytes 1 i ++ measBlock i s
    let content := if index = 0 then [6#8] else if index = 255 then [1, 2, 3, 4, 5, 6].flatMap block else block index
    if signed then signedResponse 22 (leBytes 1 index ++ nonce) content s else (content, s)) s

/-- SPDM_UNSUPPORTED_REQUEST (R625). -/
def execSpdmUnsupportedRequest (code : Nat) (s : State) : Host.Outcome State Fault Refusal := spdmError 7 code s

/-! The function-level reset (R627). -/

/-- A COLL meets a function-level reset (R500, R627): one that has received COMMIT takes effect, any other leaves no result; neither
writes a record. -/
def endColl (j : CollJob) (s : State) : State := if j.commit then commitColl j s else dropShadows j.id (dropColl j s)

/-- Step 2: no descriptor in flight writes a record. -/
def flrDiscard (s : State) : State :=
  let s := { s with inflight := s.inflight.map (fun e => { e with queue := none }) }
  discardFlights (forEach s.colls endColl s)

/-- FLR (R627, steps 1 and 2); the steps of the work are those of a device that has booted. -/
def execFlr (s : State) : Host.Outcome State Fault Refusal :=
  .next (if configHeld s then s
    else
      let s := { s with flrActive := true, doeError := false }
      let ids := s.inflight.map (fun e => e.id)
      if alive s then forEach (List.range 72) resetRegion (forEach (List.range 72) (fun n s => dropTransfers n ids s) (flrDiscard s))
      else s)

/-- Queue `q` returns to DISABLED, its settings at their reset values and its binding kept (R627). -/
def disableQueue (q : Nat) (s : State) : State :=
  let b := 0x00400000 + q * 0x1000
  setF (CMDQ.QSTAT_STATE q) qDisabled
    (resetFields (fun a => decide (a = b) || decide (a = b + 0x0C) || decide (a = b + 0x10) || decide (a = b + 0x18) || decide (a = b + 0x28)) s)

/-- Configuration space and the MSI-X table at their reset values; the HDM decoder is kept with the window (R626, R627). -/
def configReset (c : Cfg) : Cfg :=
  { Cfg.init with decoderCommitted := c.decoderCommitted, decoderSize := c.decoderSize, decoderError := c.decoderError }

/-- FLR_QUIESCED (R627, steps 3 and 4). -/
def execFlrQuiesced (s : State) : Host.Outcome State Fault Refusal :=
  .next (if s.flrActive && decide (s.inflight = []) then
      let s := forEach (List.range 256) disableQueue { s with cfg := configReset s.cfg, qaux := [], flrActive := false }
      satF HOSTIF.FLRCOUNT_COUNT 1 s
    else s)

end Sys2Proof.Machine
end

