-- ==== Sys2Proof/Machine/Registers.lean ====
section
/-! DEFINITION. Host accesses to the registers of BAR0 that have no command row of their own (R14 to R21, R655): which register an
address names, what it reads as, and what a write does to its fields. -/

namespace Sys2Proof.Machine

/-! Where an address lies. -/

/-- Which blocks answer, by address (R655, R656, R667). -/
def addrReach (a : Nat) : BlkReach :=
  if a < 0x00100000 then .glb
  else if 0x03000000 ≤ a then .early
  else .late

/-- The memory page of a frame die (R329). -/
def memoryPage (a : Nat) : Bool := decide (0x01800000 ≤ a) && decide (a < 0x01C00000) && decide (a % 0x100000 < 0x20000)

/-- Whether a register answers: GLB always; KEY is read in the fatal state too (R692), and the memory pages from step 5 of boot on,
where R654 lets software read them (log 243). -/
def readServed (a : Nat) (s : State) : Bool :=
  blkServed (addrReach a) s
  || (memoryPage a && decide (5 ≤ getF GLB.BOOT_STAGE s) && !bootFailed s && !fatal s)
  || (decide (0x00100000 ≤ a) && decide (a < 0x00200000) && fatal s && bootReadyNow s)

/-- The block of a frame die's page (R329): its kind and its unit. -/
def frmPage (k o : Nat) : Option (Blk × Nat) :=
  let u := o / 0x1000
  if u < 4 then some (.mu, 4 * k + u)
  else if 0x10 ≤ u ∧ u < 0x14 then some (.mu, 16 + 4 * k + (u - 0x10))
  else if 0x20 ≤ u ∧ u < 0x24 then some (.dw, 4 * k + (u - 0x20))
  else if u = 0x30 ∧ k = 0 then some (.nd, 0)
  else if 0x40 ≤ u ∧ u < 0x44 then some (.ce, 4 * k + (u - 0x40))
  else if 0x50 ≤ u ∧ u < 0x60 then some (.ck, 16 * k + (u - 0x50))
  else none

/-- The block, the unit, and the offset in the unit's page of a BAR0 address. -/
def blkAt (a : Nat) : Option (Blk × Nat × Nat) :=
  if a < 0x00100000 then some (.glb, 0, a)
  else if a < 0x00200000 then some (.key, 0, a - 0x00100000)
  else if a < 0x00400000 then some (.img, 0, a - 0x00200000)
  else if a < 0x00500000 then some (.cmdq, (a - 0x00400000) / 0x1000, a % 0x1000)
  else if a < 0x00800000 then some (.cmdg, 0, a - 0x00500000)
  else if a < 0x00C00000 then some (.tier, 0, a - 0x00800000)
  else if a < 0x01000000 then some (.trn, 0, a - 0x00C00000)
  else if a < 0x01200000 then some (.core, (a - 0x01000000) / 0x10000, a % 0x10000)
  else if a < 0x01800000 then none
  else if a < 0x01C00000 then (frmPage ((a - 0x01800000) / 0x100000) (a % 0x100000)).map (fun b => (b.1, b.2, a % 0x1000))
  else if a < 0x02000000 then some (.cart, (a - 0x01C00000) / 0x1000, a % 0x1000)
  else if a < 0x03000000 then some (.peep, 0, a - 0x02000000)
  else if a < 0x03400000 then some (.reg, (a - 0x03000000) / 0x1000, a % 0x1000)
  else if a < 0x03800000 then some (.arb, (a - 0x03400000) / 0x1000, a % 0x1000)
  else if 0x03810000 ≤ a ∧ a < 0x03820000 then some (.hostif, 0, a - 0x03810000)
  else none

/-- How many units a block has. -/
def blkUnits : Blk → Nat
  | .reg => 100
  | .core => 32
  | .tier => 1
  | .mu => 32
  | .cart => 4
  | .ce => 16
  | .ck => 64
  | .trn => 1
  | .dw => 16
  | .nd => 1
  | .img => 1
  | .cmdq => 256
  | .cmdg => 1
  | .hostif => 1
  | .arb => 756
  | .glb => 1
  | .key => 1
  | .peep => 1

/-- A register of a unit: its block, unit, offset in the page, index in its array, address and row. -/
structure RegAt where
  blk : Blk
  unit : Nat
  off : Nat
  idx : Nat
  addr : Nat
  row : RegRow

/-- The index in a register's array that an offset falls into. -/
def rowIndex (r : RegRow) (o : Nat) : Option Nat :=
  if o < r.off then none
  else if r.count = 1 then (if o < r.off + r.width / 8 then some 0 else none)
  else if (o - r.off) / r.step < r.count ∧ (o - r.off) % r.step < r.width / 8 then some ((o - r.off) / r.step)
  else none

/-- The register that an aligned address lies in; none where no register is defined (R20). -/
def regAt (a : Nat) : Option RegAt :=
  match blkAt a with
  | none => none
  | some (b, u, o) =>
    if blkUnits b ≤ u ∨ (b = .arb ∧ arbKind u = none) then none
    else (blkRows b).findSome? (fun r => (rowIndex r o).map (fun i => ⟨b, u, r.off, i, a - (o - (r.off + r.step * i)), r⟩))

/-- The fields of a register. -/
def RegAt.fields (r : RegAt) : List FieldRow := r.row.fields r.unit r.idx

/-- A field of a register as the field map names it. -/
def RegAt.fld (r : RegAt) (f : FieldRow) : Fld := ⟨r.addr, f.lo, f.width, f.reset⟩

/-! What a register reads as. -/

/-- The value that the stored fields give (R16): reserved bits read 0. -/
def storedValue (r : RegAt) (s : State) : Nat := (r.fields.map (fun f => getF (r.fld f) s * 2 ^ f.lo)).sum

/-- A compression engine has a stream at work (R415). -/
def engineBusy (e : Nat) (s : State) : Bool :=
  s.cjobs.any (fun j => decide (ceOf j.ctx = e)) || (List.range 32).any (fun i => ctxBusy (32 * e + i) s)
  || s.colls.any (fun j => j.streams.any (fun t => decide (t.w = e)) || (bareRecvs j s).any (fun r => decide (r.2 = e)))

/-- An encoder of an engine waits for its retiring generation (R394, R415). -/
def engineWaits (e : Nat) (s : State) : Bool := (List.range 32).any (fun i => (ctxOf (32 * e + i) s).waits)

/-- An engine builds a table (R415): a context's next block is a rebuild point, its window is there and nothing retires. DESIGN CHOICE
(log 272): the build lasts until the TABLE_BUILD that completes it. -/
def engineBuilding (e : Nat) (s : State) : Bool :=
  (List.range 32).any (fun i =>
    let x := 32 * e + i
    match cjobOf x s with
    | some j => !j.decode && (match flight j.id s with
      | some f => rebuildDue (encodeCoding f) (cmBUILD f.desc) (decide (j.block = 0)) (ctxOf x s)
      | none => false)
    | none => match linkStream x s with
      | some (j, t) => let c := linkCoding j x s
        rebuildDue c j.build (decide (t.pos = 0)) (ctxOf x s) && (ctxOf x s).ret.isNone && (linkWindow j t c.p.twin).isSome
      | none => false)

/-- FRM k.CXSTAT and CXSEQ of the context that CXSEL names (R419, R420). -/
def cxstat (e : Nat) (s : State) : Nat :=
  let c := ctxOf (32 * e + getF (CE.CXSEL_CTX e) s) s
  let gen (t : Option CompTable) : Nat := (t.map (fun t => t.gen)).getD 0
  c.params.mode % 4 * 2 ^ 22 + c.params.fmt % 256 * 2 ^ 14 + b2n c.ret.isSome * 2 ^ 13 + gen c.ret % 8 * 2 ^ 10
  + b2n c.cur.isSome * 2 ^ 9 + gen c.cur % 8 * 2 ^ 6 + b2n c.slot1.isSome * 2 ^ 5 + b2n c.slot0.isSome * 2 ^ 4
  + gen c.slot1 / 2 % 4 * 4 + gen c.slot0 / 2 % 4
def cxseq (e : Nat) (s : State) : Nat :=
  let c := ctxOf (32 * e + getF (CE.CXSEL_CTX e) s) s
  let un := match c.ret with
    | some t => ((c.unacked.find? (fun u => decide (u.1 = t.gen))).map (fun u => u.2)).getD 0
    | none => 0
  un % 2 ^ 16 * 2 ^ 16 + c.seq % 2 ^ 16

/-- FRM k.MURMDATA: the remap entry that MURMSEL selects (R338, R339); one whose spare row is retired is no longer in use (R321). -/
def murmdata (u : Nat) (s : State) : Nat :=
  match (muAuxOf u s).remaps.find? (fun e => decide (e.1 = getF (MU.MURMSEL_CH u) s) && decide (e.2.idx = getF (MU.MURMSEL_IDX u) s)) with
  | none => 0
  | some (_, e) => b2n (!e.retired) * 2 ^ 63 + e.cause * 2 ^ 61 + b2n e.pprfail * 2 ^ 60 + rowBits e.row

/-- A matching byte was taken in the last 4,096 LIC counts (R422). -/
def ckActive (u : Nat) (s : State) : Bool :=
  let t := assocGet 0 s.ckStamp u
  decide (t ≠ 0) && decide (licSince (ckRegion u) (t - 1) s ≤ 4096)

/-- Quota or charge of the tenant that TIER.QSEL selects, by tier (R295, R296). -/
def tenantQuota (tier : Nat) (s : State) : Nat :=
  match tenantTop (getF TIER.QSEL_TENANT s) s with
  | some c => (quotaOf c tier s).getD 0
  | none => 0
def tenantUsed (tier : Nat) (s : State) : Nat :=
  match tenantTop (getF TIER.QSEL_TENANT s) s with
  | some c => usedOf c tier s
  | none => 0

/-- FRM 0.NDRTDATA of the node that NDRTSEL selects (R521). -/
def ndrtdata (s : State) : Nat :=
  let n := getF ND.NDRTSEL_NODE s
  let r := assocGet 0 s.nd.routes n
  b2n (bitOf r 31) * 2 ^ 31 + b2n (s.nd.members.any (fun m => decide (m.node = n))) * 2 ^ 30 + r % 2 ^ 16

/-- A register that shows state kept elsewhere: its value, whole. -/
def shownValue (r : RegAt) (s : State) : Option Nat :=
  let layer := layerStat (getF TRN.LSEL_LAYER s) s
  match r.blk with
  | .tier =>
    if r.off = 0x010 then some (tierCap r.idx s)
    else if r.off = 0x020 then some (tierFree r.idx s)
    else if r.off = 0x044 then some (tenantQuota r.idx s)
    else if r.off = 0x050 then some (tenantUsed r.idx s)
    else none
  | .mu => if r.off = 0x030 then some (murmdata r.unit s) else none
  | .ce =>
    if r.off = 0x004 then some (4 * b2n (engineWaits r.unit s) + 2 * b2n (engineBuilding r.unit s) + b2n (engineBusy r.unit s))
    else if r.off = 0x034 then some (cxstat r.unit s)
    else if r.off = 0x038 then some (cxseq r.unit s)
    else none
  | .ck =>
    if s.ckFenced.contains r.unit then some 0
    else if r.off = 0x004 then some (storedValue r s + b2n (ckActive r.unit s) * 4)
    else none
  | .trn =>
    if r.off = 0x000 then some ((s.image.map (fun im => im.sweeps.length)).getD 0)
    else if r.off = 0x004 then
      some (storedValue r s + b2n (s.inflight.any (fun e => decide (e.opcode = 6))) * 2 + b2n (s.inflight.any (fun e => decide (e.opcode = 5))))
    else if r.off = 0x01C then some (b2n layer.alarmed * 2 ^ 16 + layer.zcount)
    else if r.off = 0x020 then some layer.ratio
    else if r.off = 0x024 then some layer.maxd
    else if r.off = 0x028 then some (assocGet 0 s.hist (getF TRN.LSEL_LAYER s))
    else none
  | .nd => if r.off = 0x074 then some (ndrtdata s) else none
  | .img =>
    if r.off = 0x008 then some (storedValue r s + b2n (decide (lcState s = 2) && flag KEY.STAT_SIGREQ s) * 64)
    else if r.off = 0x104 then some (prStat s)
    else if r.off = 0x108 then some (prRound s)
    else none
  | .key => if r.off = 0x140 then some (mlData r.idx s) else none
  | _ => none

/-- The value of a register (R16). -/
def regValue (r : RegAt) (s : State) : Nat := (shownValue r s).getD (storedValue r s) % 2 ^ r.row.width

/-- A word of the error log in GLB (R664); a slot that holds no record reads zero. -/
def errlogWord (a : Nat) (s : State) : Nat :=
  match optGet s.errlog ((a - 0x10000) / 64) with
  | some e => leAt (errBytes e) (a % 64) 4
  | none => 0

/-- A word of the MSI-X table or of the pending-bit array (R622; their layout is PCI Express's, log 25). -/
def msixWord (a : Nat) (s : State) : Nat :=
  if a < 0x03828000 then
    let d := (a - 0x03820000) / 4
    if d % 4 = 3 then b2n (!s.cfg.unmasked.contains (d / 4)) else assocGet 0 s.cfg.msixTable d
  else if 0x03830000 ≤ a ∧ a < 0x03830100 then
    ((List.range 32).map (fun i => b2n (s.cfg.pendingVec.contains ((a - 0x03830000) * 8 + i)) * 2 ^ i)).sum
  else 0

/-- What a 32-bit read of an aligned address returns, and the state after it (R19, R20): the lower half of a 64-bit register
latches the upper half; the upper half is the latched one, or the current one where none is latched. The component registers are
laid out by CXL: what they return is a free value (log 25). -/
def readWord (a : Nat) (s : State) : Nat × State :=
  match regAt a with
  | some r =>
    let v := regValue r s
    if r.row.width = 32 then (v, s)
    else if a = r.addr then (v % 2 ^ 32, { s with latch := optSet s.latch r.addr (some (v / 2 ^ 32)) })
    else ((optGet s.latch r.addr).getD (v / 2 ^ 32), s)
  | none =>
    if 0x10000 ≤ a ∧ a < 0x20000 then (errlogWord a s, s)
    else if 0x03800000 ≤ a ∧ a < 0x03810000 then (let (v, s) := drawFree s; (v % 2 ^ 32, s))
    else if 0x03820000 ≤ a ∧ a < 0x03840000 then (msixWord a s, s)
    else (0, s)

/-- A host read of BAR0: Unsupported Request without memory space (R612), zero where the block does not answer (R655). -/
def hostRead (a : Nat) (f : State → Nat × State) (s : State) : State :=
  if !s.cfg.memSpace || s.cfg.d3hot then emit .unsupportedRequest s
  else if readServed a s then (let (v, s) := f s; emit (.regReply v) s)
  else emit (.regReply 0) s

/-- What a 64-bit read of an aligned address returns: a 64-bit register whole, else two 32-bit reads, the lower offset first
(R18). It latches nothing: R19 speaks of 32-bit reads. -/
def readDouble (a : Nat) (s : State) : Nat × State :=
  let two :=
    let (lo, s) := readWord a s
    let (hi, s) := readWord (a + 4) s
    (lo + hi * 2 ^ 32, s)
  match regAt a with
  | some r => if r.row.width = 64 then (regValue r s, s) else two
  | none => two

/-- Whether an access has a size and alignment that R18 serves. -/
def accessValid (off size : Nat) : Bool := (decide (size = 4) && decide (off % 4 = 0)) || (decide (size = 8) && decide (off % 8 = 0))

/-- A word of the doorbell pages (R562): SQTAIL and CQHEAD of the page's queue, zero elsewhere. -/
def doorbellWord (a : Nat) (s : State) : Nat :=
  let q := a / 0x10000
  if a % 0x10000 = 0 then getF (CMDQ.QPTR_SQTAIL q) s else if a % 0x10000 = 4 then getF (CMDQ.QPTR_CQHEAD q) s else 0

/-- A host read of BAR2 (R18, R562, R612). -/
def doorbellRead (a size : Nat) (s : State) : State :=
  let v := doorbellWord a s + (if size = 8 then doorbellWord (a + 4) s * 2 ^ 32 else 0)
  if !s.cfg.memSpace || s.cfg.d3hot then emit .unsupportedRequest s
  else emit (.regReply (if blkServed .early s then v else 0)) s

/-- REGISTER_READ_LOWER_HALF (R18, R19, R562): a 32-bit or a 64-bit read of BAR0, or of the doorbells in BAR2. -/
def execRegisterReadLowerHalf (r : RegRead) (s : State) : Host.Outcome State Fault Refusal :=
  .next (if r.bar2 then (if accessValid r.off r.size && decide (r.off < 0x01000000) then doorbellRead r.off r.size s else s)
    else if accessValid r.off r.size && decide (r.off < 0x04000000) then
      hostRead r.off (if r.size = 4 then readWord r.off else readDouble r.off) s
    else s)

/-! What a write does. -/

/-- An encoding that a field's table lists (R21). -/
def encodingListed (f : FieldRow) (x : Nat) : Bool := decide (f.first ≤ x) && decide (x ≤ f.last)

/-- Write one field (R16, R21): its new state, and whether the encoding is reserved. -/
def writeField (r : RegAt) (v : Nat) (f : FieldRow) (s : State) : State :=
  let x := bitsOf v f.lo f.width
  if f.own then s
  else match f.acc with
    | .ro => s
    | .rw => if encodingListed f x then setF (r.fld f) x s else s
    | .w1c => setF (r.fld f) (getF (r.fld f) s - (getF (r.fld f) s &&& x)) s
    | .w1s => orF (r.fld f) x s

/-- A field of a write holds a reserved encoding (R21). -/
def fieldRefused (v : Nat) (f : FieldRow) : Bool :=
  match f.acc with
  | .rw => !f.own && !encodingListed f (bitsOf v f.lo f.width)
  | _ => false

/-- Write every field; one record names the register when an encoding is reserved (R21). -/
def writeFields (r : RegAt) (v : Nat) (s : State) : State :=
  let s := forEach r.fields (writeField r v) s
  if r.fields.any (fieldRefused v) then regAccessError r.addr s else s

/-- The reserved bits of a scale-history entry (R204). -/
def histMask : Nat := 0x3F00E000E000FFFF

/-- Which state of a check unit a 64-bit register of its page is (R423). -/
def checkRegAt (o : Nat) : Option CheckReg :=
  if o = 0x010 then some .limit else if o = 0x018 then some .count else if o = 0x020 then some .run else none

/-- A 64-bit register that a command row of its own writes takes a value whole, when its upper half is written or a 64-bit access
reaches it (R18, R19): the effect is that of the row. -/
def writeOwnDouble (r : RegAt) (v : Nat) (s : State) : State :=
  match r.blk with
  | .cmdq => if r.off = 0x010 then ringWrite r.unit .sqbase v s else if r.off = 0x018 then ringWrite r.unit .cqbase v s else s
  | .cmdg => if 0x10000 ≤ r.off then fenceWrite r.idx v s else s
  | .arb => if r.off = 0x008 then mapWrite r.unit v s else s
  | .peep => if r.off = 0x010 then traceConfigWrite .trbase v s else s
  | .ck => (match checkRegAt r.off with
    | some c => checkWrite r.unit c v s
    | none => s)
  | _ => s

/-- A write of a whole register takes effect (R16, R17, R21), with the rules that hold for one register alone. -/
def writeReg (r : RegAt) (v : Nat) (s : State) : State :=
  if r.blk = .mu ∧ r.off = 0x014 then
    let t1 := v % 256
    let t2 := v / 256 % 256
    if 60 ≤ t1 ∧ t1 ≤ 105 ∧ t1 < t2 ∧ t2 ≤ 110 then writeFields r v s else regAccessError r.addr s
  else if r.blk = .mu ∧ r.off = 0x028 ∧ 16 ≤ r.unit ∧ bitsOf v 9 5 ≠ 0 then
    regAccessError r.addr (setF (MU.MURMSEL_IDX r.unit) (bitsOf v 0 9) s)
  else if r.blk = .arb ∧ r.off = 0x010 then writeFields r (v % 2 ^ (8 * min 8 (arbReqs r.unit))) s
  else if r.blk = .arb ∧ r.off = 0x018 then writeFields r (v % 2 ^ (8 * (arbReqs r.unit - 8))) s
  else if r.blk = .trn ∧ r.off = 0x028 then
    let e := v % 2 ^ 64
    let s := { s with hist := assocSet 0 s.hist (getF TRN.LSEL_LAYER s) (e - (e &&& histMask)) }
    if e &&& histMask ≠ 0 then regAccessError r.addr s else s
  else if r.blk = .nd ∧ r.off = 0x074 then
    { s with nd := { s.nd with routes := assocSet 0 s.nd.routes (getF ND.NDRTSEL_NODE s) (bitsOf v 31 1 * 2 ^ 31 + v % 2 ^ 16) } }
  else if r.blk = .ck && (s.ckFenced.contains r.unit || (flag (CK.CKCTL_OWNER r.unit) s && decide (r.off ≠ 0x004))) then s
  else if r.row.width = 64 && r.fields.any (fun f => f.own) then writeOwnDouble r v s
  else writeFields r v s

/-- The lower half that a write of the upper half alone leaves (R19): RW bits as they stand, W1C and W1S bits 0. -/
def lowerKept (r : RegAt) (s : State) : Nat :=
  (r.fields.map (fun f => if f.acc = .rw then regValue r s / 2 ^ f.lo % 2 ^ f.width * 2 ^ f.lo else 0)).sum % 2 ^ 32

/-- A word of the MSI-X table is written; the mask bit of a vector that is cleared sends its held message (R622). -/
def writeMsixCell (d v : Nat) (s : State) : State :=
  if d % 4 = 3 then sendHeld (maskVector (d / 4) (v % 2 = 1) s)
  else { s with cfg := { s.cfg with msixTable := assocSet 0 s.cfg.msixTable d (v % 2 ^ 32) } }

/-- A write at an address of the MSI-X table. -/
def writeMsix (a v : Nat) (s : State) : State := writeMsixCell ((a - 0x03820000) / 4) v s

/-- A 32-bit write at an aligned address (R19, R20). -/
def writeWord (a v : Nat) (s : State) : State :=
  match regAt a with
  | some r =>
    if r.row.width = 32 then writeReg r (v % 2 ^ 32) s
    else if a = r.addr then { s with held := optSet s.held r.addr (some (v % 2 ^ 32)) }
    else writeReg r ((optGet s.held r.addr).getD (lowerKept r s) + v % 2 ^ 32 * 2 ^ 32) { s with held := optSet s.held r.addr none }
  | none => if 0x03820000 ≤ a ∧ a < 0x03828000 then writeMsix a v s else s

/-- A 64-bit write at an aligned address: a 64-bit register whole, in place of any held half; else two 32-bit writes, the lower
first (R18, R19). -/
def writeDouble (a v : Nat) (s : State) : State :=
  let two := writeWord (a + 4) (v / 2 ^ 32) (writeWord a v s)
  match regAt a with
  | some r => if r.row.width = 64 then writeReg r (v % 2 ^ 64) { s with held := optSet s.held r.addr none } else two
  | none => two

/-- REGISTER_ACCESS_INVALID (R18): a wrong size or alignment reads zero or is discarded, with a record naming the address. -/
def execRegisterAccessInvalid (isWrite : Bool) (off size value : Nat) (s : State) : Host.Outcome State Fault Refusal :=
  let _ := value
  .next (if accessValid off size then s
    else if isWrite then hostWrite (addrReach off) (regAccessError off) s
    else hostRead off (fun s => (0, if blkServed (addrReach off) s then regAccessError off s else s)) s)

/-- REGISTER_WRITE (R16, R17, R19, R21). -/
def execRegisterWrite (off size value : Nat) (s : State) : Host.Outcome State Fault Refusal :=
  .next (if !accessValid off size then hostWrite (addrReach off) (regAccessError off) s
    else hostWrite (addrReach off) (if size = 4 then writeWord off value else writeDouble off value) s)

end Sys2Proof.Machine
end

