-- ==== Sys2Proof/Machine/Dispatch.lean ====
section
/-! DEFINITION. The meaning of every command: one arm for each constructor of Instr. -/

namespace Sys2Proof.Machine

/-- The effect of a command on everything but the queue of commands that wait. -/
def exec (i : Instr) (s : State) : Host.Outcome State Fault Refusal :=
  match i with
  | .registerWrite off size value => Sys2Proof.Machine.execRegisterWrite off size value s
  | .registerAccessInvalid isWrite off size value => Sys2Proof.Machine.execRegisterAccessInvalid isWrite off size value s
  | .registerReadLowerHalf r => Sys2Proof.Machine.execRegisterReadLowerHalf r s
  | .configRequest r => Sys2Proof.Machine.execConfigRequest r s
  | .licTick n cycles => Sys2Proof.Machine.execLicTick n cycles s
  | .calibrationWindowEnd => Sys2Proof.Machine.execCalibrationWindowEnd s
  | .licctlCal n => Sys2Proof.Machine.execLicctlCal n s
  | .calibrationTimeout n => Sys2Proof.Machine.execCalibrationTimeout n s
  | .vsetWrite n vcode => Sys2Proof.Machine.execVsetWrite n vcode s
  | .regulatorStep n => Sys2Proof.Machine.execRegulatorStep n s
  | .monitorMeasure n mv tq rate speed => Sys2Proof.Machine.execMonitorMeasure n mv tq rate speed s
  | .louvreRelease n => Sys2Proof.Machine.execLouvreRelease n s
  | .hingeStallTimeout a b => Sys2Proof.Machine.execHingeStallTimeout a b s
  | .hingeTransfer a b owner offered receiverReady => Sys2Proof.Machine.execHingeTransfer a b owner offered receiverReady s
  | .rstctlReset n => Sys2Proof.Machine.execRstctlReset n s
  | .invalidOpcode q d => Sys2Proof.Machine.execInvalidOpcode q d s
  | .mma q d => Sys2Proof.Machine.execMma q d s
  | .operandStaged n => Sys2Proof.Machine.execOperandStaged n s
  | .mmaKGroup n => Sys2Proof.Machine.execMmaKGroup n s
  | .mmaPassEnd n => Sys2Proof.Machine.execMmaPassEnd n s
  | .transomWrite n => Sys2Proof.Machine.execTransomWrite n s
  | .transomConsume n => Sys2Proof.Machine.execTransomConsume n s
  | .blockEncode n => Sys2Proof.Machine.execBlockEncode n s
  | .seamContribution n => Sys2Proof.Machine.execSeamContribution n s
  | .mxctlCntclr n => Sys2Proof.Machine.execMxctlCntclr n s
  | .vectorStep n => Sys2Proof.Machine.execVectorStep n s
  | .vopCopy q d => Sys2Proof.Machine.execVopCopy q d s
  | .vopNeg q d => Sys2Proof.Machine.execVopNeg q d s
  | .vopAbs q d => Sys2Proof.Machine.execVopAbs q d s
  | .vopCopysign q d => Sys2Proof.Machine.execVopCopysign q d s
  | .vopCvt q d => Sys2Proof.Machine.execVopCvt q d s
  | .vopAdd q d => Sys2Proof.Machine.execVopAdd q d s
  | .vopSub q d => Sys2Proof.Machine.execVopSub q d s
  | .vopMul q d => Sys2Proof.Machine.execVopMul q d s
  | .vopFma q d => Sys2Proof.Machine.execVopFma q d s
  | .vopDiv q d => Sys2Proof.Machine.execVopDiv q d s
  | .vopSqrt q d => Sys2Proof.Machine.execVopSqrt q d s
  | .vopMin q d => Sys2Proof.Machine.execVopMin q d s
  | .vopMax q d => Sys2Proof.Machine.execVopMax q d s
  | .vopAffine q d => Sys2Proof.Machine.execVopAffine q d s
  | .vopRelu q d => Sys2Proof.Machine.execVopRelu q d s
  | .vopExp q d => Sys2Proof.Machine.execVopExp q d s
  | .vopExp2 q d => Sys2Proof.Machine.execVopExp2 q d s
  | .vopLog q d => Sys2Proof.Machine.execVopLog q d s
  | .vopLog2 q d => Sys2Proof.Machine.execVopLog2 q d s
  | .vopRcp q d => Sys2Proof.Machine.execVopRcp q d s
  | .vopRsqrt q d => Sys2Proof.Machine.execVopRsqrt q d s
  | .vopSin q d => Sys2Proof.Machine.execVopSin q d s
  | .vopCos q d => Sys2Proof.Machine.execVopCos q d s
  | .vopTanh q d => Sys2Proof.Machine.execVopTanh q d s
  | .vopSigmoid q d => Sys2Proof.Machine.execVopSigmoid q d s
  | .vopErf q d => Sys2Proof.Machine.execVopErf q d s
  | .vopGelu q d => Sys2Proof.Machine.execVopGelu q d s
  | .vopSilu q d => Sys2Proof.Machine.execVopSilu q d s
  | .vopRsum q d => Sys2Proof.Machine.execVopRsum q d s
  | .vopRsumsq q d => Sys2Proof.Machine.execVopRsumsq q d s
  | .vopRmax q d => Sys2Proof.Machine.execVopRmax q d s
  | .vopRmin q d => Sys2Proof.Machine.execVopRmin q d s
  | .vopRamax q d => Sys2Proof.Machine.execVopRamax q d s
  | .vopSoftmax q d => Sys2Proof.Machine.execVopSoftmax q d s
  | .vopLayernorm q d => Sys2Proof.Machine.execVopLayernorm q d s
  | .vopRmsnorm q d => Sys2Proof.Machine.execVopRmsnorm q d s
  | .vopXent q d => Sys2Proof.Machine.execVopXent q d s
  | .vopXentgrad q d => Sys2Proof.Machine.execVopXentgrad q d s
  | .vxctlCntclr n => Sys2Proof.Machine.execVxctlCntclr n s
  | .moveCopy q d => Sys2Proof.Machine.execMoveCopy q d s
  | .moveFill q d => Sys2Proof.Machine.execMoveFill q d s
  | .moveMigrate q d => Sys2Proof.Machine.execMoveMigrate q d s
  | .moveImport q d => Sys2Proof.Machine.execMoveImport q d s
  | .moveExport q d => Sys2Proof.Machine.execMoveExport q d s
  | .moveRelease q d => Sys2Proof.Machine.execMoveRelease q d s
  | .paneRead n handle pane bad => Sys2Proof.Machine.execPaneRead n handle pane bad s
  | .moverWriteBack n handle pane => Sys2Proof.Machine.execMoverWriteBack n handle pane s
  | .tierReplace => Sys2Proof.Machine.execTierReplace s
  | .replaceQuiesced => Sys2Proof.Machine.execReplaceQuiesced s
  | .mqReadMetadata => Sys2Proof.Machine.execMqReadMetadata s
  | .mqReadPlacement => Sys2Proof.Machine.execMqReadPlacement s
  | .memoryAccess u slot off write ecc row => Sys2Proof.Machine.execMemoryAccess u slot off write ecc row s
  | .repairLogCommitted u row committed => Sys2Proof.Machine.execRepairLogCommitted u row committed s
  | .scrubRead u slot off ecc row => Sys2Proof.Machine.execScrubRead u slot off ecc row s
  | .muTempReading u t => Sys2Proof.Machine.execMuTempReading u t s
  | .muTrainingDone u r repairs => Sys2Proof.Machine.execMuTrainingDone u r repairs s
  | .muZeroingDone u => Sys2Proof.Machine.execMuZeroingDone u s
  | .cartPresenceChange p present => Sys2Proof.Machine.execCartPresenceChange p present s
  | .cartPresenceDebounced p => Sys2Proof.Machine.execCartPresenceDebounced p s
  | .cartPgood p id => Sys2Proof.Machine.execCartPgood p id s
  | .cartPgoodTimeout p => Sys2Proof.Machine.execCartPgoodTimeout p s
  | .cartInitialised p ix => Sys2Proof.Machine.execCartInitialised p ix s
  | .format p => Sys2Proof.Machine.execFormat p s
  | .erasep p => Sys2Proof.Machine.execErasep p s
  | .wearCounterCommit p bytes => Sys2Proof.Machine.execWearCounterCommit p bytes s
  | .wearCounterAck p => Sys2Proof.Machine.execWearCounterAck p s
  | .flashRelocation p bytes => Sys2Proof.Machine.execFlashRelocation p bytes s
  | .compEncode q d => Sys2Proof.Machine.execCompEncode q d s
  | .compDecode q d => Sys2Proof.Machine.execCompDecode q d s
  | .compConfig q d => Sys2Proof.Machine.execCompConfig q d s
  | .compReset q d => Sys2Proof.Machine.execCompReset q d s
  | .compBlockEncode x => Sys2Proof.Machine.execCompBlockEncode x s
  | .compBlockDecode x => Sys2Proof.Machine.execCompBlockDecode x s
  | .tableBuild x => Sys2Proof.Machine.execTableBuild x s
  | .tableInstall x => Sys2Proof.Machine.execTableInstall x s
  | .checkByte u tap key b => Sys2Proof.Machine.execCheckByte u tap key b s
  | .ckctlInit u => Sys2Proof.Machine.execCkctlInit u s
  | .ckctlArm u on1 => Sys2Proof.Machine.execCkctlArm u on1 s
  | .checkStateWrite u r value => Sys2Proof.Machine.execCheckStateWrite u r value s
  | .sweep q d => Sys2Proof.Machine.execSweep q d s
  | .sweepPrefetch c => Sys2Proof.Machine.execSweepPrefetch c s
  | .sweepUnit c => Sys2Proof.Machine.execSweepUnit c s
  | .sweepFactorPhaseEnd => Sys2Proof.Machine.execSweepFactorPhaseEnd s
  | .sweepLayerComplete layer => Sys2Proof.Machine.execSweepLayerComplete layer s
  | .phaseCounterTick => Sys2Proof.Machine.execPhaseCounterTick s
  | .phctlSnap => Sys2Proof.Machine.execPhctlSnap s
  | .digest q d => Sys2Proof.Machine.execDigest q d s
  | .chkpExport q d => Sys2Proof.Machine.execChkpExport q d s
  | .chkpImport q d => Sys2Proof.Machine.execChkpImport q d s
  | .chkpCarriageReceive src image => Sys2Proof.Machine.execChkpCarriageReceive src image s
  | .dwctlWrite w value => Sys2Proof.Machine.execDwctlWrite w value s
  | .linkTrainingDone w r => Sys2Proof.Machine.execLinkTrainingDone w r s
  | .linkLockLoss w => Sys2Proof.Machine.execLinkLockLoss w s
  | .flitSend w => Sys2Proof.Machine.execFlitSend w s
  | .flitReceive w flit => Sys2Proof.Machine.execFlitReceive w flit s
  | .frameReceive w frame => Sys2Proof.Machine.execFrameReceive w frame s
  | .dataSend w peer => Sys2Proof.Machine.execDataSend w peer s
  | .packetData w pkt ce => Sys2Proof.Machine.execPacketData w pkt ce s
  | .packetAck w pkt ce => Sys2Proof.Machine.execPacketAck w pkt ce s
  | .packetNack w pkt ce => Sys2Proof.Machine.execPacketNack w pkt ce s
  | .packetTable w pkt ce => Sys2Proof.Machine.execPacketTable w pkt ce s
  | .ackTimer w peer => Sys2Proof.Machine.execAckTimer w peer s
  | .rtoExpiry w peer => Sys2Proof.Machine.execRtoExpiry w peer s
  | .notreadyTimer w peer => Sys2Proof.Machine.execNotreadyTimer w peer s
  | .ndctlForm => Sys2Proof.Machine.execNdctlForm s
  | .ndctlJoin => Sys2Proof.Machine.execNdctlJoin s
  | .ndctlLeave => Sys2Proof.Machine.execNdctlLeave s
  | .ndctlApprove => Sys2Proof.Machine.execNdctlApprove s
  | .ndctlDeny => Sys2Proof.Machine.execNdctlDeny s
  | .ndctlEvict => Sys2Proof.Machine.execNdctlEvict s
  | .ndselfWrite node => Sys2Proof.Machine.execNdselfWrite node s
  | .hello p => Sys2Proof.Machine.execHello p s
  | .challenge p => Sys2Proof.Machine.execChallenge p s
  | .proof p => Sys2Proof.Machine.execProof p s
  | .prepare p => Sys2Proof.Machine.execPrepare p s
  | .ready p => Sys2Proof.Machine.execReady p s
  | .commit p => Sys2Proof.Machine.execCommit p s
  | .refused p => Sys2Proof.Machine.execRefused p s
  | .handover p => Sys2Proof.Machine.execHandover p s
  | .collAllreduce q d => Sys2Proof.Machine.execCollAllreduce q d s
  | .collReducescatter q d => Sys2Proof.Machine.execCollReducescatter q d s
  | .collAllgather q d => Sys2Proof.Machine.execCollAllgather q d s
  | .collBroadcast q d => Sys2Proof.Machine.execCollBroadcast q d s
  | .collSend q d => Sys2Proof.Machine.execCollSend q d s
  | .collRecv q d => Sys2Proof.Machine.execCollRecv q d s
  | .collDigcmp q d => Sys2Proof.Machine.execCollDigcmp q d s
  | .collBlockReduce tag block => Sys2Proof.Machine.execCollBlockReduce tag block s
  | .collDone tag node => Sys2Proof.Machine.execCollDone tag node s
  | .collCommit tag => Sys2Proof.Machine.execCollCommit tag s
  | .imgLoad => Sys2Proof.Machine.execImgLoad s
  | .imgUnload => Sys2Proof.Machine.execImgUnload s
  | .imgAbort => Sys2Proof.Machine.execImgAbort s
  | .imgFetchDone bytes => Sys2Proof.Machine.execImgFetchDone bytes s
  | .imgQuiesced => Sys2Proof.Machine.execImgQuiesced s
  | .imgRefetchDone bytes => Sys2Proof.Machine.execImgRefetchDone bytes s
  | .programEntryTake owner => Sys2Proof.Machine.execProgramEntryTake owner s
  | .sqtail q value => Sys2Proof.Machine.execSqtail q value s
  | .cqhead q value => Sys2Proof.Machine.execCqhead q value s
  | .wait q d => Sys2Proof.Machine.execWait q d s
  | .signalAdd q d => Sys2Proof.Machine.execSignalAdd q d s
  | .signalMax q d => Sys2Proof.Machine.execSignalMax q d s
  | .signalApply port => Sys2Proof.Machine.execSignalApply port s
  | .fenceWrite f value => Sys2Proof.Machine.execFenceWrite f value s
  | .partIssue n => Sys2Proof.Machine.execPartIssue n s
  | .partComplete id part => Sys2Proof.Machine.execPartComplete id part s
  | .qirqTimer q => Sys2Proof.Machine.execQirqTimer q s
  | .qctlEnable q on1 => Sys2Proof.Machine.execQctlEnable q on1 s
  | .queueDrained q => Sys2Proof.Machine.execQueueDrained q s
  | .qbindWrite q valid casement => Sys2Proof.Machine.execQbindWrite q valid casement s
  | .queueRingWrite q r value => Sys2Proof.Machine.execQueueRingWrite q r value s
  | .hostRequestFailure q f => Sys2Proof.Machine.execHostRequestFailure q f s
  | .cxlLinkTrainingDone r => Sys2Proof.Machine.execCxlLinkTrainingDone r s
  | .cxlLinkDown => Sys2Proof.Machine.execCxlLinkDown s
  | .bar4Access off write len => Sys2Proof.Machine.execBar4Access off write len s
  | .cxlMemRead line => Sys2Proof.Machine.execCxlMemRead line s
  | .cxlMemWrite line data poison => Sys2Proof.Machine.execCxlMemWrite line data poison s
  | .hostSnoop addr => Sys2Proof.Machine.execHostSnoop addr s
  | .hdmctlEn on1 => Sys2Proof.Machine.execHdmctlEn on1 s
  | .hdmsizeWrite units => Sys2Proof.Machine.execHdmsizeWrite units s
  | .hdmZeroingDone => Sys2Proof.Machine.execHdmZeroingDone s
  | .hdmReleaseDrained => Sys2Proof.Machine.execHdmReleaseDrained s
  | .hdmDecoderCommit size => Sys2Proof.Machine.execHdmDecoderCommit size s
  | .msixUnmask v => Sys2Proof.Machine.execMsixUnmask v s
  | .doeDiscovery index bytes => Sys2Proof.Machine.execDoeDiscovery index bytes s
  | .cdatTableAccess bytes => Sys2Proof.Machine.execCdatTableAccess bytes s
  | .doeAbort => Sys2Proof.Machine.execDoeAbort s
  | .getVersion => Sys2Proof.Machine.execGetVersion s
  | .getCapabilities => Sys2Proof.Machine.execGetCapabilities s
  | .negotiateAlgorithms => Sys2Proof.Machine.execNegotiateAlgorithms s
  | .getDigests => Sys2Proof.Machine.execGetDigests s
  | .getCertificate slot offset len => Sys2Proof.Machine.execGetCertificate slot offset len s
  | .challengeSpdm slot nonce => Sys2Proof.Machine.execChallengeSpdm slot nonce s
  | .getMeasurements index signed nonce => Sys2Proof.Machine.execGetMeasurements index signed nonce s
  | .spdmUnsupportedRequest code => Sys2Proof.Machine.execSpdmUnsupportedRequest code s
  | .flr => Sys2Proof.Machine.execFlr s
  | .flrQuiesced => Sys2Proof.Machine.execFlrQuiesced s
  | .arbDecision inst asking => Sys2Proof.Machine.execArbDecision inst asking s
  | .arbRelease inst asking => Sys2Proof.Machine.execArbRelease inst asking s
  | .inputmapWrite inst value => Sys2Proof.Machine.execInputmapWrite inst value s
  | .holdWatchdogBite inst => Sys2Proof.Machine.execHoldWatchdogBite inst s
  | .porNAssert => Sys2Proof.Machine.execPorNAssert s
  | .porNDeassert env => Sys2Proof.Machine.execPorNDeassert env s
  | .perstNAssert => Sys2Proof.Machine.execPerstNAssert s
  | .perstNDeassert env => Sys2Proof.Machine.execPerstNDeassert env s
  | .warmReset env => Sys2Proof.Machine.execWarmReset env s
  | .bootReady => Sys2Proof.Machine.execBootReady s
  | .shutterReqWrite ix req => Sys2Proof.Machine.execShutterReqWrite ix req s
  | .shutterTransitionEnd ix => Sys2Proof.Machine.execShutterTransitionEnd ix s
  | .runmodeWrite mode => Sys2Proof.Machine.execRunmodeWrite mode s
  | .errheadWrite slot => Sys2Proof.Machine.execErrheadWrite slot s
  | .fatalThermalResetStart env => Sys2Proof.Machine.execFatalThermalResetStart env s
  | .alertNPulseEnd => Sys2Proof.Machine.execAlertNPulseEnd s
  | .nonce => Sys2Proof.Machine.execNonce s
  | .transition => Sys2Proof.Machine.execTransition s
  | .lifeCycleRowProgrammed programmed env => Sys2Proof.Machine.execLifeCycleRowProgrammed programmed env s
  | .commitsvn => Sys2Proof.Machine.execCommitsvn s
  | .revoke => Sys2Proof.Machine.execRevoke s
  | .cntselWrite c value => Sys2Proof.Machine.execCntselWrite c value s
  | .cntselClr c => Sys2Proof.Machine.execCntselClr c s
  | .peepCntclr => Sys2Proof.Machine.execPeepCntclr s
  | .traceEnable => Sys2Proof.Machine.execTraceEnable s
  | .traceDisable => Sys2Proof.Machine.execTraceDisable s
  | .traceRingWrite => Sys2Proof.Machine.execTraceRingWrite s
  | .trheadWrite slot => Sys2Proof.Machine.execTrheadWrite slot s
  | .traceConfigWrite r value => Sys2Proof.Machine.execTraceConfigWrite r value s
  | .keyholeIntegrityFailure => Sys2Proof.Machine.execKeyholeIntegrityFailure s
  | .priorityFlowControlPauseEnd w prio => Sys2Proof.Machine.execPriorityFlowControlPauseEnd w prio s

end Sys2Proof.Machine
end

