-- ==== Sys2Proof/WellFormed.lean ====
section
/-! DEFINITION. Which commands a sender can form: every operand lies in the range that the spec gives it. -/

namespace Sys2Proof

/-- Bytes of BAR0 (R610). -/
def bar0Size : Nat := 0x04000000
/-- Bytes of BAR2 (R610). -/
def bar2Size : Nat := 0x01000000

/-- Node numbers (R486). -/
def nodeCount : Nat := 65536

/-- Arbiter instances (R633): the numbers of the ARB pages. -/
def arbCount : Nat := 756

/-- Two different regions. -/
def neighbourPair (a b : RegionNo) : Bool := decide (a ≠ b)

/-- An aligned 32-bit or 64-bit read of BAR0 (R18). -/
def RegRead.wf (r : RegRead) : Bool :=
  decide (r.off < (if r.bar2 then bar2Size else bar0Size)) && ((decide (r.size = 4) && decide (r.off % 4 = 0)) || (decide (r.size = 8) && decide (r.off % 8 = 0)))

/-- A configuration request names values that its registers hold (R610, R622). -/
def ConfigReq.wf : ConfigReq → Bool
  | .readId => true
  | .readClass => true
  | .readSubsystem => true
  | .readInterruptPin => true
  | .readSerial => true
  | .readCapabilities _ => true
  | .readBar n => decide (n = 0) || decide (n = 2) || decide (n = 4)
  | .readDvsec id => decide (id = 0) || decide (id = 7) || decide (id = 8)
  | .readBar4Size => true
  | .writeCommand _ _ => true
  | .writePower _ => true
  | .writeBar4Size log2 => decide (28 ≤ log2) && decide (log2 ≤ 42)
  | .writeMsixControl _ _ => true
  | .maskVector v => decide (v < 2048)

/-- A training ends with lanes and a capacity that MUSTAT and MUCAP hold (R331, R332). -/
def MuTraining.wf : MuTraining → Bool
  | .trained _ lanes gib _ => decide (lanes < 256) && decide (gib < 2 ^ 16)
  | .noModule => true
  | .badModule => true
  | .failedAt _ => true
  | .lanesFailed => true

/-- A doorway trains at a width and rate that DWSTAT holds (R472). -/
def LinkTraining.wf : LinkTraining → Bool
  | .up width rate partner => decide (width < 256) && decide (rate < 256) && decide (partner.getD 0 < nodeCount)
  | .failed => true

/-- What boot finds: manifest slots of 880 bytes each, or none (R680). -/
def BootEnv.wf (env : BootEnv) : Bool :=
  (decide (env.slotA.length = 880) || decide (env.slotA = [])) && (decide (env.slotB.length = 880) || decide (env.slotB = []))
  && decide (env.compsA.length ≤ 8) && decide (env.compsB.length ≤ 8)

/-- The packet is a HELLO (R491). -/
def MemberPacket.isHello (p : MemberPacket) : Bool :=
  match p.body with
  | .hello _ _ _ => true
  | _ => false

/-- The packet is a CHALLENGE (R491). -/
def MemberPacket.isChallenge (p : MemberPacket) : Bool :=
  match p.body with
  | .challenge _ _ _ _ _ _ => true
  | _ => false

/-- The packet is a PROOF (R491). -/
def MemberPacket.isProof (p : MemberPacket) : Bool :=
  match p.body with
  | .proof _ _ => true
  | _ => false

/-- The packet is a PREPARE (R491). -/
def MemberPacket.isPrepare (p : MemberPacket) : Bool :=
  match p.body with
  | .prepare _ _ _ => true
  | _ => false

/-- The packet is a READY (R491). -/
def MemberPacket.isReady (p : MemberPacket) : Bool :=
  match p.body with
  | .ready _ _ => true
  | _ => false

/-- The packet is a COMMIT (R491). -/
def MemberPacket.isCommit (p : MemberPacket) : Bool :=
  match p.body with
  | .commit _ _ _ => true
  | _ => false

/-- The packet is a REFUSED (R491). -/
def MemberPacket.isRefused (p : MemberPacket) : Bool :=
  match p.body with
  | .refused _ => true
  | _ => false

/-- The packet is a HANDOVER (R491). -/
def MemberPacket.isHandover (p : MemberPacket) : Bool :=
  match p.body with
  | .handover _ _ => true
  | _ => false

/-- A command that a sender can form. -/
def Instr.wf : Instr → Bool
  | .registerWrite off size value => decide (off < bar0Size) && decide (size ≤ 64) && decide (value < 2 ^ (8 * size))
  | .registerAccessInvalid _ off size value => decide (off < bar0Size) && decide (size ≤ 64) && decide (value < 2 ^ (8 * size)) && !(decide (size = 4) && decide (off % 4 = 0))
    && !(decide (size = 8) && decide (off % 8 = 0))
  | .registerReadLowerHalf r => r.wf
  | .configRequest r => r.wf
  | .licTick _ cycles => decide (cycles < 2 ^ 32)
  | .calibrationWindowEnd => true
  | .licctlCal _ => true
  | .calibrationTimeout _ => true
  | .vsetWrite _ vcode => decide (vcode < 64)
  | .regulatorStep _ => true
  | .monitorMeasure _ mv tq rate speed => decide (mv < 2 ^ 16) && decide (-2 ^ 15 ≤ tq) && decide (tq < 2 ^ 15) && decide (rate < 2 ^ 24) && decide (speed < 2 ^ 24)
  | .louvreRelease _ => true
  | .hingeStallTimeout a b => neighbourPair a b
  | .hingeTransfer a b _ _ _ => decide (a ≠ b)
  | .rstctlReset _ => true
  | .invalidOpcode _ _ => true
  | .mma _ _ => true
  | .operandStaged _ => true
  | .mmaKGroup _ => true
  | .mmaPassEnd _ => true
  | .transomWrite _ => true
  | .transomConsume _ => true
  | .blockEncode _ => true
  | .seamContribution _ => true
  | .mxctlCntclr _ => true
  | .vectorStep _ => true
  | .vopCopy _ _ => true
  | .vopNeg _ _ => true
  | .vopAbs _ _ => true
  | .vopCopysign _ _ => true
  | .vopCvt _ _ => true
  | .vopAdd _ _ => true
  | .vopSub _ _ => true
  | .vopMul _ _ => true
  | .vopFma _ _ => true
  | .vopDiv _ _ => true
  | .vopSqrt _ _ => true
  | .vopMin _ _ => true
  | .vopMax _ _ => true
  | .vopAffine _ _ => true
  | .vopRelu _ _ => true
  | .vopExp _ _ => true
  | .vopExp2 _ _ => true
  | .vopLog _ _ => true
  | .vopLog2 _ _ => true
  | .vopRcp _ _ => true
  | .vopRsqrt _ _ => true
  | .vopSin _ _ => true
  | .vopCos _ _ => true
  | .vopTanh _ _ => true
  | .vopSigmoid _ _ => true
  | .vopErf _ _ => true
  | .vopGelu _ _ => true
  | .vopSilu _ _ => true
  | .vopRsum _ _ => true
  | .vopRsumsq _ _ => true
  | .vopRmax _ _ => true
  | .vopRmin _ _ => true
  | .vopRamax _ _ => true
  | .vopSoftmax _ _ => true
  | .vopLayernorm _ _ => true
  | .vopRmsnorm _ _ => true
  | .vopXent _ _ => true
  | .vopXentgrad _ _ => true
  | .vxctlCntclr _ => true
  | .moveCopy _ _ => true
  | .moveFill _ _ => true
  | .moveMigrate _ _ => true
  | .moveImport _ _ => true
  | .moveExport _ _ => true
  | .moveRelease _ _ => true
  | .paneRead _ handle pane bad => decide (handle < 2 ^ 32) && decide (pane < 2 ^ 28) && decide (bad.flash < 2 ^ 16) && bad.sill.all (fun p => decide (p.1 + p.2 ≤ 66560))
  | .moverWriteBack _ handle pane => decide (handle < 2 ^ 32) && decide (pane < 2 ^ 28)
  | .tierReplace => true
  | .replaceQuiesced => true
  | .mqReadMetadata => true
  | .mqReadPlacement => true
  | .memoryAccess _ slot off write _ _ => decide (slot < 2 ^ 22) && decide (off < 66560) && decide (((write.getD []).length + off) ≤ 66560)
  | .repairLogCommitted _ _ _ => true
  | .scrubRead _ slot off _ _ => decide (slot < 2 ^ 22) && decide (off < 66560)
  | .muTempReading _ t => decide (-128 ≤ t) && decide (t < 256)
  | .muTrainingDone _ r _ => r.wf
  | .muZeroingDone _ => true
  | .cartPresenceChange _ _ => true
  | .cartPresenceDebounced _ => true
  | .cartPgood _ _ => true
  | .cartPgoodTimeout _ => true
  | .cartInitialised _ _ => true
  | .format _ => true
  | .erasep _ => true
  | .wearCounterCommit _ _ => true
  | .wearCounterAck _ => true
  | .flashRelocation _ _ => true
  | .compEncode _ _ => true
  | .compDecode _ _ => true
  | .compConfig _ _ => true
  | .compReset _ _ => true
  | .compBlockEncode _ => true
  | .compBlockDecode _ => true
  | .tableBuild _ => true
  | .tableInstall _ => true
  | .checkByte _ tap key _ => decide (tap ≤ 16) && decide (key < 2 ^ 32)
  | .ckctlInit _ => true
  | .ckctlArm _ _ => true
  | .checkStateWrite _ _ value => decide (value < 2 ^ 64)
  | .sweep _ _ => true
  | .sweepPrefetch _ => true
  | .sweepUnit _ => true
  | .sweepFactorPhaseEnd => true
  | .sweepLayerComplete layer => decide (layer < 8192)
  | .phaseCounterTick => true
  | .phctlSnap => true
  | .digest _ _ => true
  | .chkpExport _ _ => true
  | .chkpImport _ _ => true
  | .chkpCarriageReceive src _ => decide (src < nodeCount)
  | .dwctlWrite _ value => decide (value < 2 ^ 32)
  | .linkTrainingDone _ r => r.wf
  | .linkLockLoss _ => true
  | .flitSend _ => true
  | .flitReceive _ flit => decide (flit.bytes.length = 640) && decide (flit.errors.length ≤ 1) && flit.errors.all (fun n => decide (1 ≤ n ∧ n ≤ 544))
  | .frameReceive _ frame => frame.errors.all (fun n => decide (1 ≤ n ∧ n ≤ 544))
  | .dataSend _ peer => decide (peer < nodeCount)
  | .packetData _ _ _ => true
  | .packetAck _ _ _ => true
  | .packetNack _ _ _ => true
  | .packetTable _ _ _ => true
  | .ackTimer _ peer => decide (peer < nodeCount)
  | .rtoExpiry _ peer => decide (peer < nodeCount)
  | .notreadyTimer _ peer => decide (peer < nodeCount)
  | .ndctlForm => true
  | .ndctlJoin => true
  | .ndctlLeave => true
  | .ndctlApprove => true
  | .ndctlDeny => true
  | .ndctlEvict => true
  | .ndselfWrite node => decide (node < nodeCount)
  | .hello p => decide (p.sender < nodeCount) && p.isHello
  | .challenge p => decide (p.sender < nodeCount) && p.isChallenge
  | .proof p => decide (p.sender < nodeCount) && p.isProof
  | .prepare p => decide (p.sender < nodeCount) && p.isPrepare
  | .ready p => decide (p.sender < nodeCount) && p.isReady
  | .commit p => decide (p.sender < nodeCount) && p.isCommit
  | .refused p => decide (p.sender < nodeCount) && p.isRefused
  | .handover p => decide (p.sender < nodeCount) && p.isHandover
  | .collAllreduce _ _ => true
  | .collReducescatter _ _ => true
  | .collAllgather _ _ => true
  | .collBroadcast _ _ => true
  | .collSend _ _ => true
  | .collRecv _ _ => true
  | .collDigcmp _ _ => true
  | .collBlockReduce tag _ => decide (tag < 2 ^ 32)
  | .collDone tag node => decide (tag < 2 ^ 32) && decide (node < nodeCount)
  | .collCommit tag => decide (tag < 2 ^ 32)
  | .imgLoad => true
  | .imgUnload => true
  | .imgAbort => true
  | .imgFetchDone _ => true
  | .imgQuiesced => true
  | .imgRefetchDone _ => true
  | .programEntryTake owner => decide (owner < 1024)
  | .sqtail _ value => decide (value < 2 ^ 32)
  | .cqhead _ value => decide (value < 2 ^ 32)
  | .wait _ _ => true
  | .signalAdd _ _ => true
  | .signalMax _ _ => true
  | .signalApply port => decide (port < 1024)
  | .fenceWrite _ value => decide (value < 2 ^ 64)
  | .partIssue _ => true
  | .partComplete _ part => decide (part < 4096)
  | .qirqTimer _ => true
  | .qctlEnable _ _ => true
  | .queueDrained _ => true
  | .qbindWrite _ _ casement => decide (casement < 1024)
  | .queueRingWrite _ _ value => decide (value < 2 ^ 64)
  | .hostRequestFailure _ _ => true
  | .cxlLinkTrainingDone _ => true
  | .cxlLinkDown => true
  | .bar4Access _ write len => decide (len ≤ 4096) && decide ((write.getD []).length ≤ 4096)
  | .cxlMemRead _ => true
  | .cxlMemWrite _ data _ => decide (data.length = 64)
  | .hostSnoop addr => decide (addr < 2 ^ 64)
  | .hdmctlEn _ => true
  | .hdmsizeWrite units => decide (units < 2 ^ 15)
  | .hdmZeroingDone => true
  | .hdmReleaseDrained => true
  | .hdmDecoderCommit size => decide (size < 2 ^ 64)
  | .msixUnmask v => decide (v < 2048)
  | .doeDiscovery index _ => decide (index < 256)
  | .cdatTableAccess _ => true
  | .doeAbort => true
  | .getVersion => true
  | .getCapabilities => true
  | .negotiateAlgorithms => true
  | .getDigests => true
  | .getCertificate slot offset len => decide (slot < 8) && decide (offset < 2 ^ 16) && decide (len < 2 ^ 16)
  | .challengeSpdm slot rnd => decide (slot < 8) && decide (rnd.length = 32)
  | .getMeasurements index signed rnd => decide (index < 256) && (!signed || decide (rnd.length = 32))
  | .spdmUnsupportedRequest code => decide (code < 256)
  | .flr => true
  | .flrQuiesced => true
  | .arbDecision inst asking => decide (inst < arbCount) && decide (asking < 2 ^ 16)
  | .arbRelease inst asking => decide (inst < arbCount) && decide (asking < 2 ^ 16)
  | .inputmapWrite inst value => decide (inst < arbCount) && decide (value < 2 ^ 64)
  | .holdWatchdogBite inst => decide (inst < arbCount)
  | .porNAssert => true
  | .porNDeassert env => env.wf
  | .perstNAssert => true
  | .perstNDeassert env => env.wf
  | .warmReset env => env.wf
  | .bootReady => true
  | .shutterReqWrite _ _ => true
  | .shutterTransitionEnd _ => true
  | .runmodeWrite mode => decide (mode < 4)
  | .errheadWrite slot => decide (slot < 1024)
  | .fatalThermalResetStart env => env.wf
  | .alertNPulseEnd => true
  | .nonce => true
  | .transition => true
  | .lifeCycleRowProgrammed _ env => env.wf
  | .commitsvn => true
  | .revoke => true
  | .cntselWrite _ value => decide (value < 2 ^ 32)
  | .cntselClr _ => true
  | .peepCntclr => true
  | .traceEnable => true
  | .traceDisable => true
  | .traceRingWrite => true
  | .trheadWrite slot => decide (slot < 2 ^ 20)
  | .traceConfigWrite _ value => decide (value < 2 ^ 64)
  | .keyholeIntegrityFailure => true
  | .priorityFlowControlPauseEnd _ _ => true

end Sys2Proof
end

