-- ==== Sys2Proof/Safety.lean ====
section
/-! DEFINITION. What the claims call safe: the memory in its canonical form, a queue of commands that a sender can form, and fuses
that no command takes back. -/

namespace Sys2Proof.Machine

/-- The memory is in its canonical form: addresses rise strictly and no listed byte is zero. -/
def MemOk (s : State) : Prop := Memory.wf s.mem = true

/-- Every waiting command is one that a sender can form. -/
def QueueOk (s : State) : Prop := s.pending.all Instr.wf = true

/-- What `a` holds one-time programmed stands in `b`: the minimum security version has not fallen, every revoked key is still
revoked, and every life-cycle row keeps its data and its valid word (R682, R688). -/
def FusesKept (a b : Otp) : Prop :=
  a.svn ≤ b.svn ∧ (∀ k, bitOf a.revoked k = true → bitOf b.revoked k = true) ∧
    ∀ (i : Nat) (r : LcRow), a.rows[i]? = some r →
      ∃ r' : LcRow, b.rows[i]? = some r' ∧ r'.code = r.code ∧ r'.sigreq = r.sigreq ∧ r'.key = r.key ∧ (r.valid = true → r'.valid = true)

/-- A host access reaches BAR0: memory space is enabled and the device is not in D3hot (R612). -/
def Reached (s : State) : Prop := s.cfg.memSpace = true ∧ s.cfg.d3hot = false

/-- A host access to a block of this reach is served (R612, R655). -/
def Served (k : BlkReach) (s : State) : Prop := Reached s ∧ blkServed k s = true

/-- The command processor may take the next descriptor of queue `q`, which has opcode `op`, and may read the ring (R565 to R568, R612). -/
def Takes (q : QueueNo) (op : Nat) (s : State) : Prop := takeable q op s = true ∧ busOk s = true

/-- The slot at SQHEAD has been read with RdCurr and SQHEAD has advanced by one round the ring (R558, R563, R614). -/
def fetched (q : QueueNo) (s : State) : State :=
  setF (CMDQ.QPTR_SQHEAD q) ((getF (CMDQ.QPTR_SQHEAD q) s + 1) % 2 ^ getF (CMDQ.QRING_SQLOG2 q) s)
    (peep 10 0 1 1 (emit (.rdCurr (getF (CMDQ.SQBASE_ADDR q) s * 2 ^ 12 + 64 * getF (CMDQ.QPTR_SQHEAD q) s)) s))

/-- The state after the descriptor `d`, read at SQHEAD, has entered flight on the port that the queue is bound to, with its ring slot
as sequence number, and `k` has run its opcode's checks and its division into parts (R565, R567). -/
def taken (q : QueueNo) (d : Desc) (k : InFlight → State → State) (s : State) : State :=
  enterFlight (getF (CMDQ.QBIND_CASEMENT q) s) q (getF (CMDQ.QPTR_SQHEAD q) s) 0 false d k (fetched q s)

/-- A request for a byte of a memory unit comes up at once and is served: the unit serves requests and holds the byte, nothing is before it
in its queue, its row is not held, and the queue's arbiter is owned (R305, R306, R320, R327). -/
def AccessServed (u : MemUnit) (slot off : Nat) (row : RowAddr) (s : State) : Prop :=
  muServes u s = true ∧ muHas u slot off s = true ∧ rowServes u slot off row s = true ∧ rowHeld u row s = false
    ∧ getF (ARB.STAT_OWNED (queueArb u (queueOfByte u slot off))) s = 1 ∧ (muAuxOf u s).beat < getF (MU.MUTEMP_LVAL u) s
    ∧ ∀ q ∈ (muAuxOf u s).queue, queueOfByte u q.slot q.off ≠ queueOfByte u slot off

end Sys2Proof.Machine
end

