-- ==== Sys2Proof/Certificates/Slice0/Obligations.lean ====
section
/-! DEFINITION. The statements for the provers. -/

section

open Sys2Proof Sys2Proof.Machine

/-! The queue of commands, reset and the invariants of every step. -/

/-- A step runs the command at the front of the queue on the state with the queue's rest; on an empty queue the block idles (the model's
choice, log 2). -/
def Obligations.StepRunsTheFrontCommand : Prop :=
  (∀ (c : Instr) (rest : List Instr) (s : State), s.pending = c :: rest → step s = exec c { s with pending := rest })
  ∧ ∀ s : State, s.pending = [] → step s = .next s

/-- A command's effect falls on everything but the queue: what waits behind it waits unchanged. -/
def Obligations.NoCommandTouchesTheQueue : Prop :=
  ∀ (c : Instr) (s t : State), exec c s = .next t → t.pending = s.pending

/-- The block answers every command in every state with a next state: it neither faults nor refuses (the model's choice for a command that
cannot occur in the state it meets is no change, log 1). -/
def Obligations.EveryCommandIsAnswered : Prop :=
  ∀ (c : Instr) (s : State), ∃ t, exec c s = .next t

/-- Every step keeps the memory in its canonical form. -/
def Obligations.StepKeepsTheMemoryCanonical : Prop :=
  ∀ s t : State, MemOk s → step s = .next t → MemOk t

/-- No step takes back a fuse: the minimum security version never falls, no key revocation is undone and no life-cycle row that has been
programmed changes or loses its valid word (R682, R688). -/
def Obligations.StepKeepsBlownFuses : Prop :=
  ∀ s t : State, step s = .next t → FusesKept s.otp t.otp

/-- The reset state: nothing waits, memory lists nothing and is canonical, no image is loaded, nothing is in flight, every region is in
reset with its regulator at 800 mV, its LIC stopped and RSTCTL[RESET] 1, boot stands at STAGE 1, and every other field of a register reads
its reset value (R15, R75, R649, R654; that the model starts at the power-on reset with POR_N and PERST_N asserted is its choice, log 3). -/
def Obligations.ResetState : Prop :=
  State.reset.pending = [] ∧ State.reset.mem = [] ∧ MemOk State.reset ∧ State.reset.image = none ∧ State.reset.inflight = []
  ∧ State.reset.porAsserted = true ∧ State.reset.perstAsserted = true
  ∧ getF GLB.BOOT_STAGE State.reset = 1 ∧ getF GLB.BOOT_FAIL State.reset = 0 ∧ getF GLB.STAT_FATAL State.reset = 0
  ∧ (∀ n : RegionNo, getF (REG.RSTCTL_RESET n) State.reset = 1 ∧ (regionOf n State.reset).inReset = true
      ∧ (regionOf n State.reset).running = false ∧ (regionOf n State.reset).vout = 800)
  ∧ ∀ f : Fld, (∀ n : RegionNo, f.key ≠ (REG.RSTCTL_RESET n).key) → getF f State.reset = f.reset

/-! The register file and configuration space. -/

/-- A field that has been set reads the value, truncated to its width; every other field reads as before, and nothing of the state but the
field map changes. -/
def Obligations.FieldSetThenRead : Prop :=
  ∀ (f g : Fld) (v : Nat) (s : State),
    getF f (setF f v s) = v % 2 ^ f.width
    ∧ (g.key ≠ f.key → getF g (setF f v s) = getF g s)
    ∧ setF f v s = { s with flds := (setF f v s).flds }

/-- A register access of a wrong size or alignment (R18): a write is discarded, a read returns zeros, and each writes one error record of
class register access that names the address; where memory space is not enabled the request is answered with Unsupported Request (R612).
REGISTER_READ_LOWER_HALF (R18, R19): a 32-bit read of the lower half of a 64-bit register returns it and latches the upper half; the read of
the upper half that follows returns the latched half, whatever has been written in between; a 32-bit register is read by one 32-bit access;
and an aligned 64-bit read returns a 64-bit register whole. A read of BAR2 (R562): each doorbell returns its current value, and every other
offset of a doorbell page zero. REGISTER_WRITE (R16, R19, R20, R21), 32 bits: a 32-bit register takes the value, field by field; the lower
half of a 64-bit one is held until the upper half is written; an address that no register has discards the write. -/
def Obligations.RegisterAccesses : Prop :=
  (∀ (off size value : Nat) (s : State), accessValid off size = false →
    (Served (addrReach off) s → exec (.registerAccessInvalid true off size value) s = .next (regAccessError off s))
    ∧ (Reached s → readServed off s = true → blkServed (addrReach off) s = true →
        exec (.registerAccessInvalid false off size value) s = .next (emit (.regReply 0) (regAccessError off s)))
    ∧ (¬ Reached s → ∀ w, exec (.registerAccessInvalid w off size value) s = .next (emit .unsupportedRequest s)))
  ∧ (∀ (off : Nat) (r : RegAt) (s : State), off % 4 = 0 → off < 0x04000000 → Reached s → readServed off s = true → regAt off = some r →
    (r.row.width = 64 →
      (off = r.addr → exec (.registerReadLowerHalf ⟨off, 4, false⟩) s = .next (emit (.regReply (regValue r s % 2 ^ 32))
        { s with latch := optSet s.latch r.addr (some (regValue r s / 2 ^ 32)) }))
      ∧ (∀ v, off ≠ r.addr → optGet s.latch r.addr = some v → exec (.registerReadLowerHalf ⟨off, 4, false⟩) s = .next (emit (.regReply v) s))
      ∧ (off = r.addr → off % 8 = 0 → exec (.registerReadLowerHalf ⟨off, 8, false⟩) s = .next (emit (.regReply (regValue r s)) s)))
    ∧ (r.row.width = 32 → exec (.registerReadLowerHalf ⟨off, 4, false⟩) s = .next (emit (.regReply (regValue r s)) s)))
  ∧ (∀ (q : QueueNo) (s : State), Served .early s →
    exec (.registerReadLowerHalf ⟨q * 0x10000, 4, true⟩) s = .next (emit (.regReply (getF (CMDQ.QPTR_SQTAIL q) s)) s)
    ∧ exec (.registerReadLowerHalf ⟨q * 0x10000 + 4, 4, true⟩) s = .next (emit (.regReply (getF (CMDQ.QPTR_CQHEAD q) s)) s)
    ∧ ∀ o, o % 4 = 0 → 8 ≤ o → o < 0x10000 → exec (.registerReadLowerHalf ⟨q * 0x10000 + o, 4, true⟩) s = .next (emit (.regReply 0) s))
  ∧ (∀ (off value : Nat) (s : State), off % 4 = 0 → Served (addrReach off) s →
    (∀ r, regAt off = some r → r.row.width = 32 → exec (.registerWrite off 4 value) s = .next (writeReg r (value % 2 ^ 32) s))
    ∧ (∀ r, regAt off = some r → r.row.width = 64 → off = r.addr →
        exec (.registerWrite off 4 value) s = .next { s with held := optSet s.held r.addr (some (value % 2 ^ 32)) })
    ∧ (regAt off = none → (off < 0x03820000 ∨ 0x03828000 ≤ off) → exec (.registerWrite off 4 value) s = .next s))

/-- REG n.HSTALL (R102): after reset LIMIT is 0x0100_0000; it reads as the last value written; a write of at least 0x1_0000 becomes LIMIT
and nothing else changes; a smaller one is a reserved encoding: the field keeps its value and one error record names the register; and a
stall of a faster side n that lasts longer than LIMIT counts ends in a region reset. -/
def Obligations.HstallWrite : Prop :=
  ∀ (n : RegionNo) (value : Nat) (s : State),
    getF (REG.HSTALL_LIMIT n) State.reset = 0x01000000
    ∧ (Served .early s →
      (0x10000 ≤ value % 2 ^ 32 →
        exec (.registerWrite (0x03000000 + n * 0x1000 + 0x38) 4 value) s = .next (setF (REG.HSTALL_LIMIT n) (value % 2 ^ 32) s))
      ∧ (value % 2 ^ 32 < 0x10000 →
        exec (.registerWrite (0x03000000 + n * 0x1000 + 0x38) 4 value) s
          = .next (regAccessError (0x03000000 + n * 0x1000 + 0x38) s))
      ∧ exec (.registerReadLowerHalf ⟨0x03000000 + n * 0x1000 + 0x38, 4, false⟩) s
          = .next (emit (.regReply (getF (REG.HSTALL_LIMIT n) s % 2 ^ 32)) s))
    ∧ ∀ (m : RegionNo) (t : Nat), (hingeOf n m s).stalled = some (n.val, t) → neighbours n m = true → fatal s = false →
      (getF (REG.HSTALL_LIMIT n) s < licSince n t s →
        exec (.hingeStallTimeout n m) s
          = .next (resetRegion (stallVictim n m s) (endStall n m (pairRecord n m 6 (stallVictim n m s) s))))
      ∧ (licSince n t s ≤ getF (REG.HSTALL_LIMIT n) s → exec (.hingeStallTimeout n m) s = .next s)

/-- CONFIG_REQUEST (R655, R607, R608, R610, R612): while a pin holds the device in reset, or a function-level reset runs, a request is
answered with Retry Status and changes nothing; afterwards it is served: the identifiers, the class code, the interrupt pin, the serial
number and the BARs read as the spec gives them, and the command register's enables and the power state are stored. In D3hot no descriptor
is taken, and a record that completes is held in its queue until the device leaves D3hot (R612; how the rule is read is the model's, log
127). -/
def Obligations.ConfigRequests : Prop :=
  (∀ (r : ConfigReq) (s : State),
    (configHeld s = true → exec (.configRequest r) s = .next (emit .retryStatus s))
    ∧ (configHeld s = false →
        exec (.configRequest .readId) s = .next (emit (.configReply 0x01601F2B) s)
        ∧ exec (.configRequest .readClass) s = .next (emit (.configReply 0x12000000) s)
        ∧ exec (.configRequest .readInterruptPin) s = .next (emit (.configReply 0) s)
        ∧ exec (.configRequest .readSerial) s = .next (emit (.configReply deviceSerial) s)
        ∧ exec (.configRequest (.readBar 0)) s = .next (emit (.bar 0 false 26) s)
        ∧ exec (.configRequest (.readBar 2)) s = .next (emit (.bar 2 false 24) s)
        ∧ exec (.configRequest (.readBar 4)) s = .next (emit (.bar 4 true s.cfg.bar4Log2) s)
        ∧ (∀ mem bus, exec (.configRequest (.writeCommand mem bus)) s
            = .next (sendHeld { s with cfg := { s.cfg with memSpace := mem, busMaster := bus } }))
        ∧ exec (.configRequest (.writePower true)) s = .next (sendHeld { s with cfg := { s.cfg with d3hot := true } })))
  ∧ ((∀ (q : QueueNo) (d : Desc) (s : State), s.cfg.d3hot = true → exec (.mma q d) s = .next s)
  ∧ ∀ (q : QueueNo) (a : QAux) (r : DoneRec) (s : State), configHeld s = false → s.cfg.busMaster = true → qState q s ≠ 3 →
    s.qaux = [(q.val, { a with late := [r] })] →
    exec (.configRequest (.writePower false)) s
      = .next (sendHeld (putRecord q r (setQaux q (fun a => { a with late := [] }) { s with cfg := { s.cfg with d3hot := false } }))))

/-! Timing regions (chapter 02). -/

/-- LIC_TICK (R75): `cycles` oscillator cycles of a running region add `cycles` × STEP to its accumulator of 2^16 parts of a count: COUNT
takes the whole counts and the fraction keeps the rest, and a calibration under way counts the cycles; a region whose LIC is stopped only
counts for its calibration; the event counters see the counts that passed; every other region, its LIC, memory and what is in flight stay as
they are. MUZERO[REMAIN] of a unit in the region that is zeroed never rises; what it comes down to is a free value (R310 step 5; the model's
choice, log 249). Calibration (R76, R77, R96): writing LICCTL[CAL] starts one, CAL and CALBUSY reading 1, unless one is under way; the next
window that begins is counted, and one that counts `c` cycles to its end sets STEP to the rounded quotient 10,485,760 × 2^16 / c when that
lies from 0x8000 to 0x20000, with LICCOUNT `c`, and otherwise sets CALFAIL and keeps the step; 2^25 cycles without a window end it with
CALFAIL; at either end CAL and CALBUSY read 0, a region in reset then runs, a lintel after the valid groups of its sweep engine are copied,
and boot goes on where it waited. -/
def Obligations.LicsCountAndCalibrate : Prop :=
  (∀ (n : RegionNo) (cycles : Nat) (s : State),
    ((regionOf n s).running = true →
      exec (.licTick n cycles) s = .next (zeroingGoesOn n (
        peepLic n ((licOf n s * 2 ^ 16 + (regionOf n s).frac + cycles * getF (REG.LICSTEP_STEP n) s) / 2 ^ 16 - licOf n s)
          (setF (REG.LIC_COUNT n) ((licOf n s * 2 ^ 16 + (regionOf n s).frac + cycles * getF (REG.LICSTEP_STEP n) s) / 2 ^ 16)
            (setRegion n (fun r => { r with
              cal := (regionOf n s).cal.map (fun c => ⟨c.since + cycles, c.window.map (fun w => w + cycles)⟩)
              frac := (licOf n s * 2 ^ 16 + (regionOf n s).frac + cycles * getF (REG.LICSTEP_STEP n) s) % 2 ^ 16 }) s)))))
    ∧ ∃ t, exec (.licTick n cycles) s = .next t
      ∧ ((regionOf n s).running = true →
          licOf n t = (licOf n s * 2 ^ 16 + (regionOf n s).frac + cycles * getF (REG.LICSTEP_STEP n) s) / 2 ^ 16 % 2 ^ 64
          ∧ (regionOf n t).frac = (licOf n s * 2 ^ 16 + (regionOf n s).frac + cycles * getF (REG.LICSTEP_STEP n) s) % 2 ^ 16)
      ∧ ((regionOf n s).running = false → licOf n t = licOf n s ∧ (regionOf n t).frac = (regionOf n s).frac)
      ∧ (regionOf n t).cal = (regionOf n s).cal.map (fun c => ⟨c.since + cycles, c.window.map (fun w => w + cycles)⟩)
      ∧ (∀ m, m ≠ n.val → regionOf m t = regionOf m s ∧ (m < 100 → licOf m t = licOf m s))
      ∧ (∀ u : MemUnit, getF (MU.MUZERO_REMAIN u) t ≤ getF (MU.MUZERO_REMAIN u) s)
      ∧ t.mem = s.mem ∧ t.inflight = s.inflight)
  ∧ (∀ (n : RegionNo) (s : State),
    (Served .early s → getF (REG.LICCTL_CALBUSY n) s ≠ 1 →
      exec (.licctlCal n) s = .next (setF (REG.LICCTL_CAL n) 1 (setF (REG.LICCTL_CALBUSY n) 1
        (setRegion n (fun r => { r with cal := some ⟨0, none⟩ }) s))))
    ∧ (Served .early s → getF (REG.LICCTL_CALBUSY n) s = 1 → exec (.licctlCal n) s = .next s)
    ∧ (∀ c, (regionOf n s).cal = some c → 2 ^ 25 ≤ c.since →
        exec (.calibrationTimeout n) s = .next (bootCalibrated (regionRuns n (setF (REG.LICCTL_CALFAIL n) 1
          (setF (REG.LICCTL_CALBUSY n) 0 (setF (REG.LICCTL_CAL n) 0 (setRegion n (fun r => { r with cal := none }) s)))))))
    ∧ (∀ c, (regionOf n s).cal = some c → c.since < 2 ^ 25 → exec (.calibrationTimeout n) s = .next s)
    ∧ (∀ c, calStep c = if 0 < c ∧ 0x8000 ≤ (2 * (10485760 * 65536) + c) / (2 * c) ∧ (2 * (10485760 * 65536) + c) / (2 * c) ≤ 0x20000
        then some ((2 * (10485760 * 65536) + c) / (2 * c)) else none)
    ∧ exec .calibrationWindowEnd s = .next (bootCalibrated (forEach (List.range 100) windowEnd s))
    ∧ ((regionOf n s).cal = none → windowEnd n s = s)
    ∧ (∀ c, (regionOf n s).cal = some ⟨c, none⟩ → windowEnd n s = setRegion n (fun r => { r with cal := some ⟨c, some 0⟩ }) s)
    ∧ (∀ c k st, (regionOf n s).cal = some ⟨c, some k⟩ → calStep k = some st →
        windowEnd n s = regionRuns n (setF (REG.LICCOUNT_COUNT n) k (setF (REG.LICSTEP_STEP n) st
          (setF (REG.LICCTL_CALBUSY n) 0 (setF (REG.LICCTL_CAL n) 0 (setRegion n (fun r => { r with cal := none }) s))))))
    ∧ (∀ c k, (regionOf n s).cal = some ⟨c, some k⟩ → calStep k = none →
        windowEnd n s = regionRuns n (setF (REG.LICCTL_CALFAIL n) 1
          (setF (REG.LICCTL_CALBUSY n) 0 (setF (REG.LICCTL_CAL n) 0 (setRegion n (fun r => { r with cal := none }) s)))))
    ∧ ((regionOf n s).inReset = false → regionRuns n s = s)
    ∧ (∀ u, (regionOf n s).inReset = true → u = (if 64 ≤ n.val ∧ n.val < 68 then replayGroups (n - 64) s else s) →
        regionRuns n s = setF (REG.RSTCTL_RESET n) 0 (setF (REG.LIC_COUNT n) 0
          (setRegion n (fun r => { r with frac := 0, running := true, inReset := false, vstamp := 0 }) u)))
    ∧ (s.boot = none → bootCalibrated s = s))

/-- REG n.VSET[VCODE] and the regulator (R98): after reset VCODE is 40 and the output 800 mV; a code from 10 to 60 becomes the target and
any other is discarded with a record; the output stays at a target of 600 + 5 × VCODE mV and moves toward it by 5 mV, 512 LIC counts after
the last step or the write that gave a regulator at rest a new target. -/
def Obligations.SupplySlew : Prop :=
  ∀ (n : RegionNo) (vcode : Nat) (s : State),
    getF (REG.VSET_VCODE n) State.reset = 40 ∧ (regionOf n State.reset).vout = 800
    ∧ (Served .early s → 10 ≤ vcode → vcode ≤ 60 → (regionOf n s).vout ≠ 600 + 5 * getF (REG.VSET_VCODE n) s →
      exec (.vsetWrite n vcode) s = .next (setF (REG.VSET_VCODE n) vcode s))
    ∧ (Served .early s → 10 ≤ vcode → vcode ≤ 60 → (regionOf n s).vout = 600 + 5 * getF (REG.VSET_VCODE n) s →
      exec (.vsetWrite n vcode) s
        = .next (setRegion n (fun r => { r with vstamp := licOf n s }) (setF (REG.VSET_VCODE n) vcode s)))
    ∧ (Served .early s → vcode < 10 ∨ 60 < vcode →
        exec (.vsetWrite n vcode) s = .next (regAccessError (0x03000000 + n * 0x1000 + 0x20) s))
    ∧ ((regionOf n s).vout = 600 + 5 * getF (REG.VSET_VCODE n) s → exec (.regulatorStep n) s = .next s)
    ∧ ((regionOf n s).vout < 600 + 5 * getF (REG.VSET_VCODE n) s → 512 ≤ licSince n (regionOf n s).vstamp s →
        exec (.regulatorStep n) s = .next (setRegion n (fun r => { r with vout := (regionOf n s).vout + 5, vstamp := licOf n s }) s))
    ∧ (600 + 5 * getF (REG.VSET_VCODE n) s < (regionOf n s).vout → 512 ≤ licSince n (regionOf n s).vstamp s →
        exec (.regulatorStep n) s = .next (setRegion n (fun r => { r with vout := (regionOf n s).vout - 5, vstamp := licOf n s }) s))

/-- The regulator's output never passes its target: one step leaves it as far from the target or 5 mV nearer (R73; outputs and targets are
multiples of 5 mV). -/
def Obligations.RegulatorNeverOvershoots : Prop :=
  ∀ (n : RegionNo) (s t : State), (regionOf n s).vout % 5 = 0 → exec (.regulatorStep n) s = .next t →
    (regionOf n t).vout % 5 = 0 ∧ getF (REG.VSET_VCODE n) t = getF (REG.VSET_VCODE n) s ∧
    (((regionOf n t).vout = (regionOf n s).vout) ∨
     ((regionOf n s).vout < (regionOf n t).vout ∧ (regionOf n t).vout ≤ 600 + 5 * getF (REG.VSET_VCODE n) s) ∨
     (600 + 5 * getF (REG.VSET_VCODE n) s ≤ (regionOf n t).vout ∧ (regionOf n t).vout < (regionOf n s).vout))

/-- MONITOR_MEASURE, LOUVRE_RELEASE, HINGE_STALL_TIMEOUT and RSTCTL_RESET (R83, R86, R88, R99, R104, R666): the monitor's registers take the
measurement, each pair with a neighbour is checked, and more than 125 degrees (500 quarters) is the fatal cause 3; a requirement whose pair
stayed within the release limits for 2^20 counts is lifted; a stall beyond HSTALL resets one region of the pair; a write of RESET resets the
region, unless it is in reset: RESET reads 1, the LIC stands at 0 with STEP 0x1_0000, and a calibration has begun. -/
def Obligations.MonitorAndResets : Prop :=
  (∀ (n : RegionNo) (mv : Nat) (tq : Int) (rate speed : Nat) (s u : State), inHold s = false →
    u = forEach (neighbourList n) (fun m s => checkPair n m s) (setF (REG.VMEAS_MV n) mv (setF (REG.TMEAS_TQ n) (toTwos 16 tq)
      (setF (REG.RATE_EVENTS n) rate (setF (REG.SPEED_HANDSHAKES n) speed (setRegion n (fun r => { r with measured := true }) s))))) →
    exec (.monitorMeasure n mv tq rate speed) s = .next (if 500 < tmeas n u then enterFatal 3 n u else u))
  ∧ (∀ (n : RegionNo) (s : State), exec (.louvreRelease n) s = .next (forEach (neighbourList n) (fun m s =>
      match (hingeOf n m s).need, (hingeOf n m s).calmSince with
      | some (f, _), some t =>
        if f = n.val && decide (2 ^ 20 ≤ licSince n t s) then
          recomputeLouvre n m (setHinge n m (fun h => { h with need := none, calmSince := none }) s)
        else s
      | _, _ => s) s))
  ∧ (∀ (a b : RegionNo) (f t : Nat) (s : State), (hingeOf a b s).stalled = some (f, t) → getF (REG.HSTALL_LIMIT f) s < licSince f t s →
      neighbours a b = true → fatal s = false →
      exec (.hingeStallTimeout a b) s
        = .next (resetRegion (stallVictim a b s) (endStall a b (pairRecord a b 6 (stallVictim a b s) s))))
  ∧ (∀ (n : RegionNo) (s : State), Served .early s → exec (.rstctlReset n) s = .next (resetRegion n s)
      ∧ ((regionOf n s).inReset = true → resetRegion n s = s)
      ∧ ((regionOf n s).inReset = false → getF (REG.RSTCTL_RESET n) (resetRegion n s) = 1 ∧ licOf n (resetRegion n s) = 0
          ∧ getF (REG.LICSTEP_STEP n) (resetRegion n s) = 0x10000 ∧ getF (REG.LICCTL_CALBUSY n) (resetRegion n s) = 1
          ∧ (regionOf n (resetRegion n s)).inReset = true ∧ (regionOf n (resetRegion n s)).running = false))

/-- HINGE_TRANSFER (R35, R37, R70, R81): a hinge delivers each transfer exactly once and in order. What is offered joins the transfers held
in its direction, at their end; they stay held while the receiver is not ready or the hinge is not open; else the oldest comes out and the
others stay: it arrives where its path ends, or joins those held at the next hinge of its path. The other direction and every other hinge
stay as they are. The path from any region to any other runs from hinge to hinge, passes no region twice and depends on its two ends alone.
-/
def Obligations.HingeDeliversInOrder : Prop :=
  (∀ (a b : HingeEnd) (owner : Option Nat) (offered : Option Offer) (ready : Bool) (s : State) (held : List Transfer),
    hingeHere a b = true →
    held = heldAt a b s ++ ((offered.bind (fun o => (offerPath a b o).map (fun p => (⟨owner, o.payload, p⟩ : Transfer)))).toList) →
    ∃ t, exec (.hingeTransfer a b owner offered ready) s = .next t ∧ t.mem = s.mem ∧ t.inflight = s.inflight
      ∧ (ready = false ∨ hingeOpen a b s = false ∨ held = [] →
          heldAt a b t = held ∧ heldAt b a t = heldAt b a s ∧ (hingeOf a b t).atA = (hingeOf a b s).atA
          ∧ (hingeOf a b t).atB = (hingeOf a b s).atB ∧ ∀ c d, pairKey c d ≠ pairKey a b → hingeOf c d t = hingeOf c d s)
      ∧ ∀ x rest, ready = true → hingeOpen a b s = true → held = x :: rest →
          heldAt a b t = rest
          ∧ (x.path = [] → heldAt b a t = heldAt b a s
              ∧ (a < b → (hingeOf a b t).atB = (hingeOf a b s).atB ++ [x] ∧ (hingeOf a b t).atA = (hingeOf a b s).atA)
              ∧ (b < a → (hingeOf a b t).atA = (hingeOf a b s).atA ++ [x] ∧ (hingeOf a b t).atB = (hingeOf a b s).atB)
              ∧ ∀ c d, pairKey c d ≠ pairKey a b → hingeOf c d t = hingeOf c d s)
          ∧ ∀ c more, x.path = c :: more → c < 256 →
              heldAt b c t = heldAt b c s ++ [{ x with path := more }] ∧ (hingeOf a b t).atA = (hingeOf a b s).atA
              ∧ (hingeOf a b t).atB = (hingeOf a b s).atB
              ∧ ∀ d e, pairKey d e ≠ pairKey a b → pairKey d e ≠ pairKey b c → hingeOf d e t = hingeOf d e s)
  ∧ ∀ a b : RegionNo, (regionPath a b).head? = some a.val ∧ (regionPath a b).getLast? = some b.val ∧ (regionPath a b).Nodup
      ∧ ∀ h ∈ hops (regionPath a b), neighbours h.1 h.2 = true

/-! Queues, descriptors and fences (chapter 14). -/

/-- SQTAIL and CQHEAD (R562, R563): on an ENABLED queue a tail inside the ring is taken, and a head is taken that lies from the present head
to the tail; any other write is discarded with DBERR and an error record that names the doorbell. Consuming records makes room: after CQHEAD
has moved on by `k` of the records that wait, `k` fewer wait (R559, R563). -/
def Obligations.QueuePointers : Prop :=
  (∀ (q : QueueNo) (v : Nat) (s : State), Served .early s →
    (getF (CMDQ.QSTAT_STATE q) s = 1 → v < 2 ^ getF (CMDQ.QRING_SQLOG2 q) s →
      exec (.sqtail q v) s = .next (setF (CMDQ.QPTR_SQTAIL q) v s))
    ∧ (getF (CMDQ.QSTAT_STATE q) s ≠ 1 ∨ 2 ^ getF (CMDQ.QRING_SQLOG2 q) s ≤ v →
      exec (.sqtail q v) s = .next (regAccessError (q * 0x10000) (setF (CMDQ.QSTAT_DBERR q) 1 s)))
    ∧ (getF (CMDQ.QSTAT_STATE q) s = 1 → v < 2 ^ getF (CMDQ.QRING_CQLOG2 q) s →
      (v + 2 ^ getF (CMDQ.QRING_CQLOG2 q) s - getF (CMDQ.QPTR_CQHEAD q) s) % 2 ^ getF (CMDQ.QRING_CQLOG2 q) s ≤ cqUsed q s →
      exec (.cqhead q v) s = .next (setF (CMDQ.QPTR_CQHEAD q) v s))
    ∧ (getF (CMDQ.QSTAT_STATE q) s ≠ 1 ∨ 2 ^ getF (CMDQ.QRING_CQLOG2 q) s ≤ v
        ∨ cqUsed q s < (v + 2 ^ getF (CMDQ.QRING_CQLOG2 q) s - getF (CMDQ.QPTR_CQHEAD q) s) % 2 ^ getF (CMDQ.QRING_CQLOG2 q) s →
      exec (.cqhead q v) s = .next (regAccessError (q * 0x10000) (setF (CMDQ.QSTAT_DBERR q) 1 s))))
  ∧ (∀ (q : QueueNo) (k : Nat) (s : State), Served .early s → getF (CMDQ.QSTAT_STATE q) s = 1 → getF (CMDQ.QRING_CQLOG2 q) s ≤ 16 →
    getF (CMDQ.QPTR_CQHEAD q) s < 2 ^ getF (CMDQ.QRING_CQLOG2 q) s → getF (CMDQ.QPTR_CQTAIL q) s < 2 ^ getF (CMDQ.QRING_CQLOG2 q) s →
    k ≤ cqUsed q s →
    ∃ t, exec (.cqhead q ((getF (CMDQ.QPTR_CQHEAD q) s + k) % 2 ^ getF (CMDQ.QRING_CQLOG2 q) s)) s = .next t
      ∧ cqUsed q t = cqUsed q s - k ∧ getF (CMDQ.QPTR_CQTAIL q) t = getF (CMDQ.QPTR_CQTAIL q) s)

/-- QCTL_ENABLE, QUEUE_DRAINED and HOST_REQUEST_FAILURE (R589, R590, R606): a DISABLED queue with valid settings becomes ENABLED with its
pointers, DONE and PHASE begun anew; one with invalid settings goes to ERROR 3; a STOPPING queue latches the enable; clearing ENABLE stops
an ENABLED queue, takes a latched enable back, and takes a queue in ERROR with nothing in flight to DISABLED; a failed ring read is ERROR 1
and a failed record write ERROR 2, with one record counted lost. The interrupt timer (R588): once the oldest record that waits has waited
TIMER × 1,024 LIC counts of TR99, and not before, the queue's interrupt is raised; with EN or TIMER 0 it is not. -/
def Obligations.QueueStatesAndInterrupts : Prop :=
  ((∀ (q : QueueNo) (s : State), Served .late s →
    (getF (CMDQ.QSTAT_STATE q) s = 0 → settingsValid q (setF (CMDQ.QCTL_ENABLE q) 1 s) = true →
      ∃ t, exec (.qctlEnable q true) s = .next t ∧ getF (CMDQ.QSTAT_STATE q) t = 1 ∧ getF (CMDQ.QDONE_COUNT q) t = 0
        ∧ getF (CMDQ.QPTR_SQHEAD q) t = 0 ∧ getF (CMDQ.QPTR_SQTAIL q) t = 0 ∧ getF (CMDQ.QPTR_CQHEAD q) t = 0
        ∧ getF (CMDQ.QPTR_CQTAIL q) t = 0 ∧ (qauxOf q t).phase = true ∧ t.mem = s.mem ∧ t.inflight = s.inflight)
    ∧ (getF (CMDQ.QSTAT_STATE q) s = 0 → settingsValid q (setF (CMDQ.QCTL_ENABLE q) 1 s) = false →
      exec (.qctlEnable q true) s = .next (queueError q 3 none (setF (CMDQ.QCTL_ENABLE q) 1 s)))
    ∧ (getF (CMDQ.QSTAT_STATE q) s = 2 →
      exec (.qctlEnable q true) s = .next (setF (CMDQ.QSTAT_PEND q) 1 (setF (CMDQ.QCTL_ENABLE q) 1 s))
      ∧ exec (.qctlEnable q false) s = .next (setF (CMDQ.QSTAT_PEND q) 0 (setF (CMDQ.QCTL_ENABLE q) 0 s)))
    ∧ (getF (CMDQ.QSTAT_STATE q) s = 1 → (∀ e ∈ s.inflight, e.queue ≠ some q.val) →
      exec (.qctlEnable q false) s = .next (setF (CMDQ.QSTAT_STATE q) 2 (setF (CMDQ.QCTL_ENABLE q) 0 s)))
    ∧ (getF (CMDQ.QSTAT_STATE q) s = 3 → (∀ e ∈ s.inflight, e.queue ≠ some q.val) →
      exec (.qctlEnable q false) s
        = .next (setF (CMDQ.QSTAT_STATE q) 0 (setF (CMDQ.QSTAT_ERR q) 0 (setF (CMDQ.QCTL_ENABLE q) 0 s)))))
  ∧ (∀ (q : QueueNo) (s : State), (∀ e ∈ s.inflight, e.queue ≠ some q.val) →
    (getF (CMDQ.QSTAT_STATE q) s = 2 → getF (CMDQ.QSTAT_PEND q) s = 0 →
      exec (.queueDrained q) s = .next (setF (CMDQ.QSTAT_STATE q) 0 s))
    ∧ (getF (CMDQ.QSTAT_STATE q) s = 3 → getF (CMDQ.QCTL_ENABLE q) s = 0 →
      exec (.queueDrained q) s = .next (setF (CMDQ.QSTAT_STATE q) 0 (setF (CMDQ.QSTAT_ERR q) 0 s))))
  ∧ ∀ (q : QueueNo) (seq st : Nat) (s : State), getF (CMDQ.QSTAT_STATE q) s = 1 ∨ getF (CMDQ.QSTAT_STATE q) s = 2 →
    exec (.hostRequestFailure q .ringRead) s = .next (errRecord 10 1 99 0 q [q]
      (setF (CMDQ.QSTAT_STATE q) 3 (setF (CMDQ.QSTAT_ERR q) 1 s)))
    ∧ exec (.hostRequestFailure q (.recordWrite seq st)) s = .next (errRecord 10 1 99 st q [q, seq]
      (satF (CMDQ.QSTAT_LOST q) 1 (setF (CMDQ.QSTAT_STATE q) 3 (setF (CMDQ.QSTAT_ERR q) 2 s)))))
  ∧ (∀ (q : QueueNo) (t : Nat) (s : State), (qauxOf q s).oldest = some t →
    (getF (CMDQ.QIRQ_EN q) s = 1 → getF (CMDQ.QIRQ_TIMER q) s ≠ 0 → getF (CMDQ.QIRQ_TIMER q) s * 1024 ≤ licSince 99 t s →
      exec (.qirqTimer q) s = .next (setQaux q (fun a => { a with sinceIrq := 0, oldest := none })
        (sendMsix (getF (CMDQ.QIRQ_VECTOR q) s) s)))
    ∧ (getF (CMDQ.QIRQ_EN q) s = 0 ∨ getF (CMDQ.QIRQ_TIMER q) s = 0 ∨ licSince 99 t s < getF (CMDQ.QIRQ_TIMER q) s * 1024 → exec (.qirqTimer q) s = .next s))

/-- QBIND_WRITE and QUEUE_RING_WRITE (R591, R595, R596, R597): a DISABLED queue is bound to a casement that is placed, is no other queue's
and is no program's target, and takes its ring's size and bases; any other binding is refused with BINDERR and a record, and a ring write
outside DISABLED is discarded with a record. A whole write of a ring register drops a half that was held for it (R19). -/
def Obligations.QueueSettings : Prop :=
  ∀ (q : QueueNo) (c value : Nat) (s : State), Served .late s →
    (getF (CMDQ.QSTAT_STATE q) s = 0 → c < 1024 → (casementOf c s).isSome = true → isTarget c s = false →
      (∀ r : Nat, r < 256 → r ≠ q.val → getF (CMDQ.QBIND_VALID r) s = 1 → getF (CMDQ.QBIND_CASEMENT r) s ≠ c) →
      exec (.qbindWrite q true c) s = .next (setF (CMDQ.QBIND_VALID q) 1 (setF (CMDQ.QBIND_CASEMENT q) c s)))
    ∧ (getF (CMDQ.QSTAT_STATE q) s = 0 → c < 1024 →
      exec (.qbindWrite q false c) s = .next (setF (CMDQ.QBIND_VALID q) 0 (setF (CMDQ.QBIND_CASEMENT q) c s)))
    ∧ (∀ v, getF (CMDQ.QSTAT_STATE q) s ≠ 0 ∨ (v = true ∧ c < 1024 ∧ (casementOf c s = none ∨ isTarget c s = true)) →
      exec (.qbindWrite q v c) s
        = .next (regAccessError (0x00400008 + q * 0x1000) (setF (CMDQ.QSTAT_BINDERR q) 1 s)))
    ∧ (getF (CMDQ.QSTAT_STATE q) s = 0 →
      (4 ≤ value % 32 → value % 32 ≤ 16 → 4 ≤ value / 65536 % 32 → value / 65536 % 32 ≤ 16 →
        exec (.queueRingWrite q .qring value) s
          = .next (setF (CMDQ.QRING_SQLOG2 q) (value % 32) (setF (CMDQ.QRING_CQLOG2 q) (value / 65536 % 32)
              (dropHeld (0x0040000C + q * 0x1000) s))))
      ∧ exec (.queueRingWrite q .sqbase value) s
          = .next (setF (CMDQ.SQBASE_ADDR q) (value / 4096 % 2 ^ 52) (dropHeld (0x00400010 + q * 0x1000) s))
      ∧ exec (.queueRingWrite q .cqbase value) s
          = .next (setF (CMDQ.CQBASE_ADDR q) (value / 4096 % 2 ^ 52) (dropHeld (0x00400018 + q * 0x1000) s)))
    ∧ (getF (CMDQ.QSTAT_STATE q) s ≠ 0 →
      exec (.queueRingWrite q .qring value) s
        = .next (regAccessError (0x0040000C + q * 0x1000) (dropHeld (0x0040000C + q * 0x1000) s))
      ∧ exec (.queueRingWrite q .sqbase value) s
        = .next (regAccessError (0x00400010 + q * 0x1000) (dropHeld (0x00400010 + q * 0x1000) s))
      ∧ exec (.queueRingWrite q .cqbase value) s
        = .next (regAccessError (0x00400018 + q * 0x1000) (dropHeld (0x00400018 + q * 0x1000) s)))

/-- The taking of a descriptor, for the VOP operations on elements: one that the queue may take is read at SQHEAD, enters flight with its
row's operation and runs the checks and the division of a VOP (R210, R565, R567, R569). The taking of a descriptor, for the transcendental
functions (R210, R223, R565). The taking of a descriptor, for the reductions and the composite operations (R210, R565). The taking of a
descriptor, for every other operation: MMA, MOVE, SWEEP, CHKP, DIGEST, COMP, WAIT and SIGNAL (R565, R567, R570). The taking of a COLL (R467,
R468, R565, R567). -/
def Obligations.DescriptorsAreTaken : Prop :=
  (∀ (q : QueueNo) (d : Desc) (s : State), Takes q 2 s →
    exec (.vopCopy q d) s = .next (taken q (vopDesc 0x00 d) beginVop s)
    ∧ exec (.vopNeg q d) s = .next (taken q (vopDesc 0x01 d) beginVop s)
    ∧ exec (.vopAbs q d) s = .next (taken q (vopDesc 0x02 d) beginVop s)
    ∧ exec (.vopCopysign q d) s = .next (taken q (vopDesc 0x03 d) beginVop s)
    ∧ exec (.vopCvt q d) s = .next (taken q (vopDesc 0x04 d) beginVop s)
    ∧ exec (.vopAdd q d) s = .next (taken q (vopDesc 0x10 d) beginVop s)
    ∧ exec (.vopSub q d) s = .next (taken q (vopDesc 0x11 d) beginVop s)
    ∧ exec (.vopMul q d) s = .next (taken q (vopDesc 0x12 d) beginVop s)
    ∧ exec (.vopFma q d) s = .next (taken q (vopDesc 0x13 d) beginVop s)
    ∧ exec (.vopDiv q d) s = .next (taken q (vopDesc 0x14 d) beginVop s)
    ∧ exec (.vopSqrt q d) s = .next (taken q (vopDesc 0x15 d) beginVop s)
    ∧ exec (.vopMin q d) s = .next (taken q (vopDesc 0x16 d) beginVop s)
    ∧ exec (.vopMax q d) s = .next (taken q (vopDesc 0x17 d) beginVop s)
    ∧ exec (.vopAffine q d) s = .next (taken q (vopDesc 0x18 d) beginVop s)
    ∧ exec (.vopRelu q d) s = .next (taken q (vopDesc 0x19 d) beginVop s))
  ∧ (∀ (q : QueueNo) (d : Desc) (s : State), Takes q 2 s →
    exec (.vopExp q d) s = .next (taken q (vopDesc 0x20 d) beginVop s)
    ∧ exec (.vopExp2 q d) s = .next (taken q (vopDesc 0x21 d) beginVop s)
    ∧ exec (.vopLog q d) s = .next (taken q (vopDesc 0x22 d) beginVop s)
    ∧ exec (.vopLog2 q d) s = .next (taken q (vopDesc 0x23 d) beginVop s)
    ∧ exec (.vopRcp q d) s = .next (taken q (vopDesc 0x24 d) beginVop s)
    ∧ exec (.vopRsqrt q d) s = .next (taken q (vopDesc 0x25 d) beginVop s)
    ∧ exec (.vopSin q d) s = .next (taken q (vopDesc 0x26 d) beginVop s)
    ∧ exec (.vopCos q d) s = .next (taken q (vopDesc 0x27 d) beginVop s)
    ∧ exec (.vopTanh q d) s = .next (taken q (vopDesc 0x28 d) beginVop s)
    ∧ exec (.vopSigmoid q d) s = .next (taken q (vopDesc 0x29 d) beginVop s)
    ∧ exec (.vopErf q d) s = .next (taken q (vopDesc 0x2A d) beginVop s)
    ∧ exec (.vopGelu q d) s = .next (taken q (vopDesc 0x2B d) beginVop s)
    ∧ exec (.vopSilu q d) s = .next (taken q (vopDesc 0x2C d) beginVop s))
  ∧ (∀ (q : QueueNo) (d : Desc) (s : State), Takes q 2 s →
    exec (.vopRsum q d) s = .next (taken q (vopDesc 0x30 d) beginVop s)
    ∧ exec (.vopRsumsq q d) s = .next (taken q (vopDesc 0x31 d) beginVop s)
    ∧ exec (.vopRmax q d) s = .next (taken q (vopDesc 0x32 d) beginVop s)
    ∧ exec (.vopRmin q d) s = .next (taken q (vopDesc 0x33 d) beginVop s)
    ∧ exec (.vopRamax q d) s = .next (taken q (vopDesc 0x34 d) beginVop s)
    ∧ exec (.vopSoftmax q d) s = .next (taken q (vopDesc 0x40 d) beginVop s)
    ∧ exec (.vopLayernorm q d) s = .next (taken q (vopDesc 0x41 d) beginVop s)
    ∧ exec (.vopRmsnorm q d) s = .next (taken q (vopDesc 0x42 d) beginVop s)
    ∧ exec (.vopXent q d) s = .next (taken q (vopDesc 0x43 d) beginVop s)
    ∧ exec (.vopXentgrad q d) s = .next (taken q (vopDesc 0x44 d) beginVop s))
  ∧ (∀ (q : QueueNo) (d : Desc) (s : State),
    (Takes q 1 s → exec (.mma q d) s = .next (taken q (withOpcode 1 d) beginMma s))
    ∧ (Takes q 3 s →
        exec (.moveCopy q d) s = .next (taken q (withOpcode 3 (dput d 0x2C 0 8 0)) beginMove s)
        ∧ exec (.moveFill q d) s = .next (taken q (withOpcode 3 (dput d 0x2C 0 8 1)) beginMove s)
        ∧ exec (.moveMigrate q d) s = .next (taken q (withOpcode 3 (dput d 0x2C 0 8 2)) beginMove s)
        ∧ exec (.moveImport q d) s = .next (taken q (withOpcode 3 (dput d 0x2C 0 8 3)) beginMove s)
        ∧ exec (.moveExport q d) s = .next (taken q (withOpcode 3 (dput d 0x2C 0 8 4)) beginMove s)
        ∧ exec (.moveRelease q d) s = .next (taken q (withOpcode 3 (dput d 0x2C 0 8 5)) beginMove s))
    ∧ (Takes q 5 s → exec (.sweep q d) s = .next (taken q (withOpcode 5 d) beginSweep s))
    ∧ (Takes q 6 s →
        exec (.chkpExport q d) s = .next (taken q (withOpcode 6 (dput d 0x10 0 8 0)) beginChkp s)
        ∧ exec (.chkpImport q d) s = .next (taken q (withOpcode 6 (dput d 0x10 0 8 1)) beginChkp s))
    ∧ (Takes q 7 s → exec (.digest q d) s = .next (taken q (withOpcode 7 d) beginDigest s))
    ∧ (Takes q 8 s →
        exec (.compEncode q d) s = .next (taken q (withOpcode 8 (dput d 0x2C 0 8 0)) beginComp s)
        ∧ exec (.compDecode q d) s = .next (taken q (withOpcode 8 (dput d 0x2C 0 8 1)) beginComp s)
        ∧ exec (.compConfig q d) s = .next (taken q (withOpcode 8 (dput d 0x2C 0 8 2)) beginComp s)
        ∧ exec (.compReset q d) s = .next (taken q (withOpcode 8 (dput d 0x2C 0 8 3)) beginComp s))
    ∧ (Takes q 9 s → exec (.wait q d) s = .next (taken q (withOpcode 9 d) beginWait s))
    ∧ (Takes q 10 s →
        exec (.signalAdd q d) s = .next (taken q (withOpcode 10 (dput d 0x12 0 8 0)) beginSignal s)
        ∧ exec (.signalMax q d) s = .next (taken q (withOpcode 10 (dput d 0x12 0 8 1)) beginSignal s)))
  ∧ (∀ (q : QueueNo) (d : Desc) (s : State), Takes q 4 s →
    exec (.collAllreduce q d) s = .next (taken q (withOpcode 4 (dput d 0x26 0 8 0)) beginColl s)
    ∧ exec (.collReducescatter q d) s = .next (taken q (withOpcode 4 (dput d 0x26 0 8 1)) beginColl s)
    ∧ exec (.collAllgather q d) s = .next (taken q (withOpcode 4 (dput d 0x26 0 8 2)) beginColl s)
    ∧ exec (.collBroadcast q d) s = .next (taken q (withOpcode 4 (dput d 0x26 0 8 3)) beginColl s)
    ∧ exec (.collSend q d) s = .next (taken q (withOpcode 4 (dput d 0x26 0 8 4)) beginColl s)
    ∧ exec (.collRecv q d) s = .next (taken q (withOpcode 4 (dput d 0x26 0 8 5)) beginColl s)
    ∧ exec (.collDigcmp q d) s = .next (taken q (withOpcode 4 (dput d 0x26 0 8 6)) beginColl s))

/-- What every taking does (R558, R565, R567, R614): the slot at SQHEAD is read, SQHEAD moves on by one round the ring, and no other pointer
of the queue moves at the read; what cannot be taken changes nothing. -/
def Obligations.TakingMovesTheHead : Prop :=
  ∀ (q : QueueNo) (d : Desc) (s : State),
    getF (CMDQ.QPTR_SQHEAD q) (fetched q s)
      = (getF (CMDQ.QPTR_SQHEAD q) s + 1) % 2 ^ getF (CMDQ.QRING_SQLOG2 q) s % 2 ^ 16
    ∧ getF (CMDQ.QPTR_SQTAIL q) (fetched q s) = getF (CMDQ.QPTR_SQTAIL q) s
    ∧ getF (CMDQ.QPTR_CQHEAD q) (fetched q s) = getF (CMDQ.QPTR_CQHEAD q) s
    ∧ getF (CMDQ.QPTR_CQTAIL q) (fetched q s) = getF (CMDQ.QPTR_CQTAIL q) s
    ∧ (fetched q s).mem = s.mem ∧ (fetched q s).inflight = s.inflight
    ∧ (takeable q (dOpcode d) s = false → exec (.invalidOpcode q d) s = .next s)
    ∧ (takeable q 2 s = false → exec (.vopAdd q d) s = .next s)
    ∧ (takeable q 1 s = false → exec (.mma q d) s = .next s)
    ∧ (takeable q 3 s = false → exec (.moveCopy q d) s = .next s)

/-- The ring's lines and the host's snoops (R614): every taking of a descriptor, whatever its opcode, begins with one RdCurr of its slot and
no other request, keeps no line, and every host snoop is answered with RspIHitI. -/
def Obligations.RingReadsAndSnoops : Prop :=
  ∀ (q : QueueNo) (s : State),
    (fetched q s).out = .rdCurr (getF (CMDQ.SQBASE_ADDR q) s * 2 ^ 12 + 64 * getF (CMDQ.QPTR_SQHEAD q) s) :: s.out
    ∧ (∀ d k, Takes q (dOpcode d) s → takeRing q d k s
        = enterFlight (getF (CMDQ.QBIND_CASEMENT q) s) q (getF (CMDQ.QPTR_SQHEAD q) s) 0 false d k (fetched q s))
    ∧ (∀ d, Takes q (dOpcode d) s → exec (.invalidOpcode q d) s = .next (taken q d beginAny s))
    ∧ ∀ addr, exec (.hostSnoop addr) s = .next (emit (.snoopMiss addr) s)

/-- INVALID_OPCODE and the header's checks (R571, R581, R582): a descriptor whose opcode is 0 or above 10 is OPCODE_INVALID with CHECK 0x81,
and one of a known opcode with a reserved header bit set or PHASE 6 or 7 is FIELD_INVALID with CHECK 0x82. Taken by any row's command, it
completes at once: its record, with this status and CHECK and the slot it was read from as SEQ, is written at the tail of the completion
ring, the tail moves on by one, nothing is left in flight and no byte of memory changes. -/
def Obligations.HeaderChecks : Prop :=
  ∀ (q : QueueNo) (d : Desc) (s : State),
    (dOpcode d = 0 ∨ 10 < dOpcode d → headerCheck d = some (1, 0x81))
    ∧ (1 ≤ dOpcode d → dOpcode d ≤ 10 → headerFaulty d = true → headerCheck d = some (2, 0x82))
    ∧ (1 ≤ dOpcode d → dOpcode d ≤ 10 → headerFaulty d = false → headerCheck d = none)
    ∧ (Takes q (dOpcode d) s → exec (.invalidOpcode q d) s = .next (taken q d beginAny s))
    ∧ ∀ st ck, headerCheck d = some (st, ck) → Takes q (dOpcode d) s → pairingOn (getF (CMDQ.QBIND_CASEMENT q) s) s = none →
        (∀ e ∈ s.inflight, e.id < s.nextId) → ∀ k : InFlight → State → State,
        ∃ e t, taken q d k s = t ∧ e.desc = d ∧ e.seq = getF (CMDQ.QPTR_SQHEAD q) s ∧ e.fromProgram = false
          ∧ Out.hostWrite (getF (CMDQ.CQBASE_ADDR q) s * 2 ^ 12 + 32 * getF (CMDQ.QPTR_CQTAIL q) s)
              (recordBytes e st 0 0 ck 0 0 (qauxOf q s).phase) ∈ t.out
          ∧ getF (CMDQ.QPTR_CQTAIL q) t = (getF (CMDQ.QPTR_CQTAIL q) s + 1) % 2 ^ getF (CMDQ.QRING_CQLOG2 q) s % 2 ^ 16
          ∧ t.inflight = s.inflight ∧ t.nextId = s.nextId + 1 ∧ t.mem = s.mem ∧ t.panes = s.panes

/-- WAIT (R574, R577): a valid one whose counter has reached its value completes at once with OK; any other valid one is held and holds its
port. SIGNAL_APPLY and FENCE_WRITE (R572, R575, R578, R601): the oldest SIGNAL of a port, when nothing earlier of the port is in flight,
adds its value or raises the counter to it; an addition beyond 64 bits completes with FENCE_RANGE and leaves the counter; while an earlier
descriptor of the port is in flight nothing is applied; a host write never lowers a counter, and drops a half that was held for it (R19). -/
def Obligations.WaitsAndFences : Prop :=
  (∀ (e : InFlight) (s : State), dfield e.desc 0x10 12 4 = 0 → dfield e.desc 0x12 0 48 = 0 → dfield e.desc 0x20 0 256 = 0 →
    dfield e.desc 0x10 0 12 / 64 = tenantNo e.port s →
    (dfield e.desc 0x18 0 64 ≤ getF (CMDG.FENCE_VALUE (dfield e.desc 0x10 0 12)) s → beginWait e s = finish e 0 0 0 0 s)
    ∧ (getF (CMDG.FENCE_VALUE (dfield e.desc 0x10 0 12)) s < dfield e.desc 0x18 0 64 →
        (∃ x ∈ s.inflight, x.id = e.id ∧ x.port = e.port) → portHeld e.port (beginWait e s) = true))
  ∧ ((∀ (port : Nat) (e : InFlight) (s : State), fatal s = false →
    s.inflight.find? (fun x => decide (x.st = .signal) && decide (x.port = port)) = some e →
    ((∀ x ∈ s.inflight, x.port = port → x.id < e.id → x.st = .signal) →
      (dfield e.desc 0x12 0 8 = 0 → 2 ^ 64 ≤ getF (CMDG.FENCE_VALUE (dfield e.desc 0x10 0 12)) s + dfield e.desc 0x18 0 64 →
        exec (.signalApply port) s = .next (finish e 0x41 0 0 0 s))
      ∧ (dfield e.desc 0x12 0 8 = 0 → getF (CMDG.FENCE_VALUE (dfield e.desc 0x10 0 12)) s + dfield e.desc 0x18 0 64 < 2 ^ 64 →
        exec (.signalApply port) s = .next (completeWaits (finish e 0 0 0 0 (trace 12 0 99 (dfield e.desc 0x10 0 12)
          (getF (CMDG.FENCE_VALUE (dfield e.desc 0x10 0 12)) s + dfield e.desc 0x18 0 64)
          (setF (CMDG.FENCE_VALUE (dfield e.desc 0x10 0 12))
            (getF (CMDG.FENCE_VALUE (dfield e.desc 0x10 0 12)) s + dfield e.desc 0x18 0 64) s)))))
      ∧ (dfield e.desc 0x12 0 8 ≠ 0 → getF (CMDG.FENCE_VALUE (dfield e.desc 0x10 0 12)) s < 2 ^ 64 →
        exec (.signalApply port) s = .next (completeWaits (finish e 0 0 0 0 (trace 12 0 99 (dfield e.desc 0x10 0 12)
          (max (getF (CMDG.FENCE_VALUE (dfield e.desc 0x10 0 12)) s) (dfield e.desc 0x18 0 64))
          (setF (CMDG.FENCE_VALUE (dfield e.desc 0x10 0 12))
            (max (getF (CMDG.FENCE_VALUE (dfield e.desc 0x10 0 12)) s) (dfield e.desc 0x18 0 64)) s))))))
    ∧ ((∃ x ∈ s.inflight, x.port = port ∧ x.id < e.id ∧ x.st ≠ .signal) → exec (.signalApply port) s = .next s))
  ∧ ∀ (f : FenceNo) (v : Nat) (s : State), Served .late s →
    exec (.fenceWrite f v) s = .next (completeWaits (trace 12 1 99 f (max (getF (CMDG.FENCE_VALUE f) s) (v % 2 ^ 64))
      (setF (CMDG.FENCE_VALUE f) (max (getF (CMDG.FENCE_VALUE f) s) (v % 2 ^ 64)) (dropHeld (CMDG.FENCE_VALUE f).addr s)))))

/-- The division of work (R54): the runs of the members of a casement cover the units in order without gap or overlap, and no two runs
differ by more than one unit. The status of a descriptor (R58): its parts stand in member order, and its status is that of the first part
that has one other than OK, so a descriptor whose parts are all OK is OK. -/
def Obligations.DividedDescriptors : Prop :=
  (∀ units members : Nat, 0 < members →
    (memberRun units members 0).1 = 0
    ∧ (∀ i, i + 1 < members → (memberRun units members (i + 1)).1 = (memberRun units members i).1 + (memberRun units members i).2)
    ∧ (memberRun units members (members - 1)).1 + (memberRun units members (members - 1)).2 = units
    ∧ ∀ i j, i < members → j < members → (memberRun units members i).2 ≤ (memberRun units members j).2 + 1)
  ∧ (∀ e : InFlight, e.status = 0 →
    ((∀ p ∈ e.parts, p.status = 0) → combinedStatus e = 0)
    ∧ ∀ (a b : List Part) (p : Part), e.parts = a ++ p :: b → (∀ x ∈ a, x.status = 0) → p.status ≠ 0 → combinedStatus e = p.status)

/-- PART_ISSUE and PART_COMPLETE (R52, R58, R62, R603): the first part of a MMA or VOP, in order of taking, that a running sequencer holds
and whose engine is free starts in that engine, and with none nothing happens; a part whose work has ended completes unless a commit of its
layers still holds it, and one whose work has not ended changes nothing. -/
def Obligations.PartsIssueAndComplete : Prop :=
  (∀ (n : CoreNo) (s : State), vectorUp n s = true →
    (issuable n s = none → exec (.partIssue n) s = .next s)
    ∧ ∀ e p, issuable n s = some (e, p) →
      (e.opcode = 1 → exec (.partIssue n) s = .next (startMx n e p (((e.parts[p]?).map (fun x => x.lo)).getD 0)
        (trace 2 0 (2 * n + 1) (n + 1 * 2 ^ 8) (dUtag e.desc) (peep 2 n 1 1 (setPart e.id p (fun x => { x with st := .running }) s)))))
      ∧ (e.opcode = 2 → exec (.partIssue n) s = .next (startVx n e p
        (trace 2 0 (2 * n + 1) (n + 2 * 2 ^ 8) (dUtag e.desc) (peep 2 n 1 1 (setPart e.id p (fun x => { x with st := .running }) s)))))
      ∧ (e.opcode = 8 → exec (.partIssue n) s = .next (startComp e
        (trace 2 0 (2 * n + 1) (n + 8 * 2 ^ 8) (dUtag e.desc) (peep 2 n 1 1 (setPart e.id p (fun x => { x with st := .running }) s))))))
  ∧ ∀ (id part : Nat) (e : InFlight) (p : Part) (s : State), alive s = true → flight id s = some e → e.parts[part]? = some p →
    (p.st = .ended → heldByLayers e part s = false → exec (.partComplete id part) s = .next (completePart e part p s))
    ∧ (p.st ≠ .ended ∨ heldByLayers e part s = true → exec (.partComplete id part) s = .next s)

/-! Arithmetic, the matrix engine and the vector engine (chapters 03 to 06). -/

/-- Decoding and encoding agree (R127, R129): every pattern of binary32, binary64, GF16, E4M3 and E5M2 that is no NaN decodes to a value
that encodes, to nearest and without flush, to that pattern again with no flag. -/
def Obligations.FormatsRoundTrip : Prop :=
  ∀ (f b : Nat), (f = 0 ∨ f = 1 ∨ f = 2 ∨ f = 5 ∨ f = 6) → b < 2 ^ (8 * fmtBytes f) → (decodeBits f 127 b).num.isNan = false →
    encode f false (decodeBits f 127 b).num = (b, 0)

/-- Addition and multiplication do not depend on the order of their operands (R219), whatever the precision, direction and flush. -/
def Obligations.AddAndMulCommute : Prop :=
  ∀ (wp : Nat) (rm : Rm) (flush : Bool) (x y : Machine.Num),
    vAdd wp rm flush x y = vAdd wp rm flush y x ∧ vMul wp rm flush x y = vMul wp rm flush y x

/-- The special results of the elementwise operations (R218, R219, R221): division of a finite non-zero value by zero is an infinity of the
operands' signs with DIVIDE_BY_ZERO; the square root of a value below zero, zero by zero, zero times an infinity and the difference of two
infinities are NaN with INVALID; NaN propagates; NEG, ABS and COPYSIGN act on the sign alone; minimum and maximum take -0 as below +0; RCP
of a zero is an infinity of its sign and LOG of a zero minus infinity, each with DIVIDE_BY_ZERO; EXP of a zero is 1. -/
def Obligations.SpecialResults : Prop :=
  ∀ (wp : Nat) (rm : Rm) (flush : Bool) (i0 i1 z : Machine.Num) (ys : Bool),
    (∀ n n' m e e', m ≠ 0 → elemOp 0x14 wp rm flush i0 i1 ys (.fin n m e) (.fin n' 0 e') z = (.inf (n != n'), 2))
    ∧ (∀ n n' e e', elemOp 0x14 wp rm flush i0 i1 ys (.fin n 0 e) (.fin n' 0 e') z = (.nan, 1))
    ∧ (∀ m e, m ≠ 0 → elemOp 0x15 wp rm flush i0 i1 ys (.fin true m e) i0 z = (.nan, 1))
    ∧ (∀ n, vSqrt wp rm flush (.fin n 0 0) = (.fin n 0 0, 0))
    ∧ (∀ n n' e, (elemOp 0x12 wp rm flush i0 i1 ys (.fin n 0 e) (.inf n') z).1 = .nan ∧ mulX (.fin n 0 e) (.inf n') = (.nan, 1))
    ∧ (∀ n, addX rm (.inf n) (negX (.inf n)) = (.nan, 1))
    ∧ (∀ x, elemOp 0x14 wp rm flush i0 i1 ys .nan x z = (.nan, 0) ∧ elemOp 0x16 wp rm flush i0 i1 ys x .nan z = (.nan, 0)
        ∧ elemOp 0x17 wp rm flush i0 i1 ys .nan x z = (.nan, 0))
    ∧ (∀ n m e, elemOp 0x01 wp rm flush i0 i1 ys (.fin n m e) i0 z = (.fin (!n) m e, 0)
        ∧ elemOp 0x02 wp rm flush i0 i1 ys (.fin n m e) i0 z = (.fin false m e, 0)
        ∧ elemOp 0x03 wp rm flush i0 i1 ys (.fin n m e) i0 z = (.fin ys m e, 0))
    ∧ elemOp 0x16 wp rm flush i0 i1 ys (.fin false 0 0) (.fin true 0 0) z = (.fin true 0 0, 0)
    ∧ elemOp 0x17 wp rm flush i0 i1 ys (.fin true 0 0) (.fin false 0 0) z = (.fin false 0 0, 0)
    ∧ (∀ n e, transc .rcp flush (.fin n 0 e) = (infBits 0 n, 2) ∧ transc .log flush (.fin n 0 e) = (0xFF800000, 2)
        ∧ transc .exp flush (.fin n 0 e) = (0x3F800000, 0) ∧ transc .log flush (.fin false 1 0) = (0, 0))

/-- OPERAND_STAGED (R140, R177, R247): each engine of the core that waits goes on when every pane that its tile or vector needs has arrived
in the core's staging memory, and waits on when one has not; no other register field, no memory and no engine run changes. MMA_K_GROUP
(R139, R151, R157, R159, R181, R186, R190): the next K group of the pass adds its products to the accumulators, and the beats are counted.
Without a range event the engine keeps them and goes on to the next group; with one in a pass that may be repeated it records the event and
begins the tile's pass again, one pass later, from the first group, with the PSCALE that the measurements give; with one in the last pass it
records the event, saturates and goes on. Otherwise nothing of the tile is written. MMA_PASS_END (R139, R160, R161, R186, R190): when the
last K group of a pass is done the converter forms z for every element of the tile; the pass is repeated, from the first group with the
PSCALE that the measurements give, only where a result overflows its format and the pass limit allows it, and otherwise the tile is
finished; before the last group, and while a tile is held, nothing happens. -/
def Obligations.MatrixPasses : Prop :=
  (∀ (n : CoreNo) (s : State), ∃ t, exec (.operandStaged n) s = .next t ∧ t.mem = s.mem ∧ t.inflight = s.inflight ∧ t.mx = s.mx ∧ t.vx = s.vx
    ∧ t.copies = s.copies
    ∧ (∀ r e, optGet s.mx n = some r → flight r.id s = some e → getF (CORE.MXSTAT_OPWAIT n) t
        = if allStaged n e.id (tilePanes e r.tile s) s = true then 0 else getF (CORE.MXSTAT_OPWAIT n) s)
    ∧ (∀ r e, optGet s.vx n = some r → flight r.id s = some e → getF (CORE.VXSTAT_OPWAIT n) t
        = if allStaged n e.id (vxPanes e r s) s = true then 0 else getF (CORE.VXSTAT_OPWAIT n) s)
    ∧ (optGet s.mx n = none → getF (CORE.MXSTAT_OPWAIT n) t = getF (CORE.MXSTAT_OPWAIT n) s)
    ∧ (optGet s.vx n = none → getF (CORE.VXSTAT_OPWAIT n) t = getF (CORE.VXSTAT_OPWAIT n) s)
    ∧ ∀ f : Fld, f.key ≠ (CORE.MXSTAT_OPWAIT n).key → f.key ≠ (CORE.VXSTAT_OPWAIT n).key → getF f t = getF f s)
  ∧ (∀ (n : CoreNo) (r : MxRun) (e : InFlight) (acc : List Acc) (mm : Meas) (s u : State),
    optGet s.mx n = some r → flight r.id s = some e → matrixUp n s = true → getF (CORE.MXSTAT_OPWAIT n) s = 0 → r.held = none →
    32 * r.group < mmaK e.desc →
    groupStep n e r (if r.group = 0 then passStart n e r s else (r.accs, r.mm)) s = (acc, mm) →
    u = peep 0 n 1 (max (beatsOf (tagFmt (mmaAFMT e.desc))) (beatsOf (tagFmt (mmaBFMT e.desc))))
      (mxCount n (CORE.MXBEATS_COUNT n) (max (beatsOf (tagFmt (mmaAFMT e.desc))) (beatsOf (tagFmt (mmaBFMT e.desc)))) s) →
    (mm.ov = 0 → mm.un = 0 →
      exec (.mmaKGroup n) s = .next (setMx n (some { r with group := r.group + 1, accs := acc, mm := mm, ranged := false }) u))
    ∧ (0 < mm.ov ∨ 0 < mm.un → passLimit e.desc ≤ r.pass →
      exec (.mmaKGroup n) s
        = .next (setMx n (some { r with group := r.group + 1, accs := acc, mm := mm, ranged := true }) (recordLast n e r mm u)))
    ∧ (0 < mm.ov ∨ 0 < mm.un → r.pass < passLimit e.desc →
      ∃ t, exec (.mmaKGroup n) s = .next t ∧ t = replay n e r mm (recordLast n e r mm u)
        ∧ optGet t.mx n = some { r with pass := r.pass + 1, ps := nextPscale r.ps mm, group := 0, accs := [], mm := measInit, ranged := false }
        ∧ getF (CORE.MXSTAT_PASS n) t = (r.pass + 1) % 4 ∧ getF (CORE.MXLAST_PASS n) t = r.pass % 4
        ∧ t.mem = s.mem ∧ t.copies = s.copies ∧ t.inflight = s.inflight ∧ t.transom = s.transom))
  ∧ (∀ (n : CoreNo) (r : MxRun) (e : InFlight) (zs : List ((Nat × Nat) × Machine.Num × Nat)) (mm : Meas) (s : State),
    optGet s.mx n = some r → flight r.id s = some e → matrixUp n s = true →
    convertTile n e r s = (zs, mm) →
    (r.held = none → mmaK e.desc ≤ 32 * r.group → passLimit e.desc ≤ r.pass → exec (.mmaPassEnd n) s = .next (finishTile n e r zs mm s))
    ∧ (r.held = none → mmaK e.desc ≤ 32 * r.group → (∀ z ∈ zs, zOverflows (tagFmt (mmaDFMT e.desc)) z.2.1 = false) →
      exec (.mmaPassEnd n) s = .next (finishTile n e r zs mm s))
    ∧ (r.held = none → mmaK e.desc ≤ 32 * r.group → isBlockTag (mmaDFMT e.desc) = false → r.pass < passLimit e.desc →
      (∃ z ∈ zs, zOverflows (tagFmt (mmaDFMT e.desc)) z.2.1 = true) →
      ∃ t, exec (.mmaPassEnd n) s = .next t ∧ t = replay n e r mm (recordLast n e r mm s)
        ∧ optGet t.mx n = some { r with pass := r.pass + 1, ps := nextPscale r.ps mm, group := 0, accs := [], mm := measInit, ranged := false }
        ∧ t.mem = s.mem ∧ t.copies = s.copies ∧ t.inflight = s.inflight ∧ t.transom = s.transom)
    ∧ (32 * r.group < mmaK e.desc ∨ r.held ≠ none → exec (.mmaPassEnd n) s = .next s))

/-- TRANSOM_WRITE (R165, R168, R233, R639): a tile that the matrix engine holds enters the core's transom queue at its end, with its
adjustment and its number in the part, while fewer than 16 wait there, and the engine goes on to its next tile or leaves the part; with 16
the engine waits, the queue stays as it is, and the transom's arbiter is owned from then on. TRANSOM_CONSUME (R232, R233, R235, R236, R639):
the tile at the head of the queue is read, its results are formed, element by element or, for an operation on lines, line by line along d0,
and its entry is freed, oldest first, which ends a stall of the matrix engine; after the last tile of the part the engine leaves it; on an
empty queue the vector engine waits. -/
def Obligations.TransomQueue : Prop :=
  (∀ (n : CoreNo) (r : MxRun) (e : InFlight) (bits : List Nat) (adj : Int) (p : Machine.Part) (s : State),
    optGet s.mx n = some r → flight r.id s = some e → r.held = some (bits, adj) → matrixUp n s = true → vectorUp n s = true →
    (hingeOf (2 * n) (2 * n + 1) s).stalled = none → e.parts[r.part]? = some p →
    ((assocGet [] s.transom n).length < 16 →
      exec (.transomWrite n) s = .next (checkEnd e.id r.part (nextTile n e { r with held := none } (setF (CORE.VXSTAT_TRWAIT n) 0
        (showTransom n (match assocGet [] s.transom n with
            | [] => r.tile - p.lo
            | h :: _ => h.tile)
          { s with transom := assocSet [] s.transom n (assocGet [] s.transom n ++ [⟨bits, adj, r.tile - p.lo⟩]) })))))
    ∧ (16 ≤ (assocGet [] s.transom n).length → getF (CORE.MXSTAT_TRWAIT n) s = 0 →
      ∃ t, exec (.transomWrite n) s = .next t ∧ getF (CORE.MXSTAT_TRWAIT n) t = 1 ∧ getF (ARB.STAT_OWNED (724 + n)) t = 1
        ∧ assocGet 0 t.arbStamp (724 + n) = licOf (2 * n + 1) s ∧ t.transom = s.transom ∧ t.mx = s.mx ∧ t.inflight = s.inflight)
    ∧ (16 ≤ (assocGet [] s.transom n).length → getF (CORE.MXSTAT_TRWAIT n) s = 1 → exec (.transomWrite n) s = .next s))
  ∧ (∀ (n : CoreNo) (r : VxRun) (e : InFlight) (p : Machine.Part) (s : State),
    optGet s.vx n = some r → flight r.id s = some e → e.parts[r.part]? = some p → vectorUp n s = true →
    getF (CORE.VXSTAT_OPWAIT n) s = 0 → r.done = false → vopXSRC e.desc = true →
    (assocGet [] s.transom n = [] → exec (.transomConsume n) s = .next (setF (CORE.VXSTAT_TRWAIT n) 1 s))
    ∧ ∀ t rest u adj, assocGet [] s.transom n = t :: rest → adj = (if vopUNADJ e.desc then 0 else t.adj) →
        (vopLine (vopOP e.desc) = false → u = forEach (tilePositions e (p.lo + t.tile)) (fun x s =>
          stepElem e r.part x (xFromTile e t (x.getD 1 0 % 32 * 32 + x.getD 0 0 % 32))
            (if vopUNADJ e.desc then canonNan 0 else t.bits.getD (x.getD 1 0 % 32 * 32 + x.getD 0 0 % 32) 0) adj s) s) →
        (vopLine (vopOP e.desc) = true → u = forEach ((tilePositions e (p.lo + t.tile)).filter (fun x => decide (x.getD 0 0 = 0))) (fun b s =>
          stepLine e r.part b (e.xshape.getD 0 1) (fun _ => r.part)
            (fun _ x => xFromTile e t (x.getD 1 0 % 32 * 32 + x.getD 0 0 % 32)) adj s) s) →
        ∃ v, v = vxCount n (CORE.VXTRTILES_COUNT n) 4 1 (showTransom n (match rest with
            | [] => t.tile + 1
            | h :: _ => h.tile) (transomFree n { u with transom := assocSet [] u.transom n rest }))
          ∧ assocGet [] v.transom n = rest ∧ (getF (CORE.MXSTAT_TRWAIT n) u = 1 → getF (CORE.MXSTAT_TRWAIT n) v = 0)
          ∧ (p.lo + (r.pos + 1) < p.hi → exec (.transomConsume n) s = .next (setF (CORE.VXSTAT_TRWAIT n) (b2n rest.isEmpty)
              (setF (CORE.VXSTAT_OPWAIT n) (b2n (!allStaged n e.id (vxPanes e { r with pos := r.pos + 1 } v) v))
                (setVx n (some { r with pos := r.pos + 1 }) v))))
          ∧ (p.hi ≤ p.lo + (r.pos + 1) → exec (.transomConsume n) s = .next (leaveVx n { r with pos := r.pos + 1 } v)))

/-- VECTOR_STEP (R208, R212, R239): the next vector's positions are read, computed and written in order, for an operation on lines each line
at its last position; the engine goes on to the next vector, waiting for its panes where they are missing, or, after the last, leaves the
part. An operation along AXIS 3 that several parts share is carried out when the last of them has read its positions. While an operand is
missing nothing happens, and nothing either for a VOP that takes X from the transom. BLOCK_ENCODE and SEAM_CONTRIBUTION (R133, R183, R184,
R237): the oldest whole block of a core's encoder, a tile's or a vector engine's, is scaled by choose_scale, encoded and written, and leaves
the encoder, with POISON_READ where one of its values is poisoned; values that a core holds for another core's block move to that core's
encoder, joining the values of the same block that wait there, and are counted there; an engine that waited for them alone leaves its part.
MXCTL_CNTCLR and VXCTL_CNTCLR (R176, R246): the engine's counters read zero and nothing else changes. -/
def Obligations.VectorEngine : Prop :=
  (∀ (n : CoreNo) (r : VxRun) (e : InFlight) (p : Machine.Part) (s u : State),
    optGet s.vx n = some r → flight r.id s = some e → e.parts[r.part]? = some p → vectorUp n s = true → r.done = false →
    (vopLine (vopOP e.desc) = false → u = forEach (vecPositions e p r.pos s) (fun x s =>
      stepElem e r.part x (xFromHandle n e x s).1 (xFromHandle n e x s).2 0 s) (peep 1 n 1 1 s)) →
    (vopLine (vopOP e.desc) = true → vopSpread e = true → u = peep 1 n 1 1 s) →
    (vopLine (vopOP e.desc) = true → vopSpread e = false →
      u = forEach (((vecPositions e p r.pos s).filter (fun x => decide
          (x.getD (vopAXIS e.desc) 0 + 1 = (vopRef e (peep 1 n 1 1 s)).getD (vopAXIS e.desc) 1))).map (fun x =>
            (indexFrom 0 x).map (fun c => if c.1 = vopAXIS e.desc then 0 else c.2)))
        (fun b s => stepLine e r.part b ((vopRef e (peep 1 n 1 1 s)).getD (vopAXIS e.desc) 1) (fun _ => r.part)
          (fun _ x => (xFromHandle n e x s).1) 0 s) (peep 1 n 1 1 s)) →
    (getF (CORE.VXSTAT_OPWAIT n) s = 1 ∨ vopXSRC e.desc = true → exec (.vectorStep n) s = .next s)
    ∧ (getF (CORE.VXSTAT_OPWAIT n) s = 0 → vopXSRC e.desc = false → r.pos + 1 < vecTotal e p u →
      exec (.vectorStep n) s = .next (setF (CORE.VXSTAT_OPWAIT n)
        (b2n (!allStaged n e.id (vxPanes e { r with pos := r.pos + 1 } u) u)) (setVx n (some { r with pos := r.pos + 1 }) u)))
    ∧ (getF (CORE.VXSTAT_OPWAIT n) s = 0 → vopXSRC e.desc = false → vecTotal e p u ≤ r.pos + 1 →
      (vopSpread e = false → exec (.vectorStep n) s = .next (leaveVx n { r with pos := r.pos + 1 } u))
      ∧ (vopSpread e = true → ∀ v, v = setVx n (some { r with pos := r.pos + 1, done := true }) u →
        ((∀ q, q < e.parts.length → partWalked e q v = true) → exec (.vectorStep n) s = .next (completeSpread e r.part v))
        ∧ ((∃ q, q < e.parts.length ∧ partWalked e q v = false) → exec (.vectorStep n) s = .next v))))
  ∧ ((∀ (n : CoreNo) (b : EncBlk) (e : InFlight) (sc f st : Nat) (es : List Nat) (s : State),
    encReady n s = some b → flight b.id s = some e →
    st = (if (encValues b).any (fun v => v.2.1) then 0x18 else 0) →
    (e.opcode ≠ 1 → vectorUp n s = true →
      encodeBlock (tagFmt (tensorAt b.handle s).fmt) (vopVFLUSH e.desc) ((encValues b).map (fun v => v.1)) = (sc, es, f) →
      exec (.blockEncode n) s = .next (checkEnd e.id b.part (orPart e.id b.part st f 0
        (putBlock n e.id (tensorAt b.handle s) b.first sc (es.zip ((encValues b).map (fun v => v.2.2)))
          ((encValues b).any (fun v => v.2.1)) (encDrop b s)))))
    ∧ (e.opcode = 1 → matrixUp n s = true →
      encodeBlock (tagFmt (tensorAt b.handle s).fmt) (mmaOFLUSH e.desc) ((encValues b).map (fun v => v.1)) = (sc, es, f) →
      exec (.blockEncode n) s = .next (checkEnd e.id b.part (setSticky (mxSticky n) f (orPart e.id b.part st f 0
        (putBlock n e.id (tensorAt b.handle s) b.first sc (es.zip ((encValues b).map (fun v => v.2.2)))
          ((encValues b).any (fun v => v.2.1)) (encDrop b s)))))))
  ∧ (∀ (n : CoreNo) (s : State), encReady n s = none → exec (.blockEncode n) s = .next s)
  ∧ ∀ (n : CoreNo) (b : EncBlk) (e : InFlight) (p : Machine.Part) (s u v w : State) (same : EncBlk → Bool),
      s.encs.find? (fun b => decide (b.core = n.val) && decide (b.dest ≠ n.val)) = some b →
      flight b.id s = some e → e.parts[b.part]? = some p → p.st = .running → vectorUp n s = true → vectorUp b.dest s = true →
      (∀ x, same x = true ↔ x.core = b.dest ∧ x.dest = b.dest ∧ x.id = b.id ∧ x.handle = b.handle ∧ x.first = b.first) →
      u = vxCount b.dest (CORE.VXELEMS_COUNT b.dest) 2 b.got.length (encDrop b s) →
      ((∃ x ∈ u.encs, same x = true) →
        v = { u with encs := u.encs.map (fun x => if same x = true then { x with got := x.got ++ b.got } else x) }) →
      ((∀ x ∈ u.encs, same x = false) → v = { u with encs := u.encs ++ [{ b with core := b.dest }] }) →
      w = checkEnd b.id (e.parts.findIdx (fun p => decide (p.core = n.val))) v →
      (optGet w.vx b.dest = none → exec (.seamContribution n) s = .next w)
      ∧ ∀ r, optGet w.vx b.dest = some r →
        (r.done = true → r.id = b.id → exec (.seamContribution n) s = .next (leaveVx b.dest r w))
        ∧ (r.done = false ∨ r.id ≠ b.id → exec (.seamContribution n) s = .next w))
  ∧ (∀ (n : CoreNo) (s : State), Served .late s →
    exec (.mxctlCntclr n) s = .next (setF (CORE.MXBEATS_COUNT n) 0 (setF (CORE.MXTILES_COUNT n) 0 (setF (CORE.MXPASSES_COUNT n) 0
      (setF (CORE.MXRANGE_COUNT n) 0 s))))
    ∧ exec (.vxctlCntclr n) s = .next (setF (CORE.VXELEMS_COUNT n) 0 (setF (CORE.VXTRANS_COUNT n) 0 (setF (CORE.VXTRTILES_COUNT n) 0
      (setF (CORE.TRSTAT_PEAK n) 0 s)))))

/-! Data movement, placement, memory units and cartridges (chapters 07 to 10). -/

/-- PANE_READ and MOVER_WRITE_BACK (R33, R40, R252, R253, R263, R281, R357): a pane reaches a sill or a lintel for every part there that
needs it, and only while one does: from the lintel of the core's cluster where it is staged and the joins between them are open, else from
its tier, as the mover reads it there, once the joins of its path are open; a written working copy goes back to the pane's tier with the
status that its write gives, and then holds nothing more to write, unless a cartridge has no room for it, whose wear counter is then written
first. TIER_REPLACE and REPLACE_QUIESCED (R273, R291, R568): a REPLACE sets BUSY, and nothing more while taking is already stopped; it is
carried out once no descriptor is in flight. -/
def Obligations.PanesMoveAndReplaceWaits : Prop :=
  ((∀ (n : MoverEnd) (h i : Nat) (bad : ReadFault) (near far : List (Nat × Nat × Nat)) (s u : State), alive s = true →
    near = (wantedAt n s).filter (fun x => (decide (x.2.1 = h) && decide (x.2.2 = i) && (stagedPane n x.1 h i s).isNone)
      && (lintelCopy n x.1 h i s).isSome) →
    far = (wantedAt n s).filter (fun x => (decide (x.2.1 = h) && decide (x.2.2 = i) && (stagedPane n x.1 h i s).isNone)
      && (lintelCopy n x.1 h i s).isNone) →
    (near = [] ∨ pathOpen [32 + (32 + n / 8), endOf n] s = false → u = s) →
    (pathOpen [32 + (32 + n / 8), endOf n] s = true → u = forEach near (fun x s => match lintelCopy n x.1 h i s with
      | some p => stagePane n x.1 h i p bad.sill s
      | none => s) s) →
    (far = [] ∨ wayOpen n h i u = false → exec (.paneRead n h i bad) s = .next u)
    ∧ ∀ p v, far ≠ [] → wayOpen n h i u = true → moverRead (tensorAt h u) i (peepPort h i 66560 (flashBad (tensorAt h u) i bad.flash u)) = (p, v) →
        exec (.paneRead n h i bad) s = .next (forEach far (fun x s => stagePane n x.1 h i p bad.sill s) v))
  ∧ ∀ (n : CoreNo) (h i : Nat) (s : State), alive s = true →
      (s.copies.find? (fun c => decide (c.core = n.val) && decide (c.handle = h) && decide (c.pane = i) && unsaved c) = none →
        exec (.moverWriteBack n h i) s = .next s)
      ∧ ∀ w, s.copies.find? (fun c => decide (c.core = n.val) && decide (c.handle = h) && decide (c.pane = i) && unsaved c) = some w →
        (∀ p, writeBackWaits w s = some p → (cartAuxOf p s).commit = none → exec (.moverWriteBack n h i) s = .next (startCommit p 0 s))
        ∧ (∀ p, writeBackWaits w s = some p → (cartAuxOf p s).commit ≠ none → exec (.moverWriteBack n h i) s = .next s)
        ∧ ∀ u st e, writeBackWaits w s = none → storeCopy w s = (u, st) → flight w.owner (cleanCopy w u) = some e →
          exec (.moverWriteBack n h i) s = .next (checkEnd w.owner (e.parts.findIdx (fun x => decide (x.core = n.val)))
            (if st = 0 then cleanCopy w u
              else orPart w.owner (e.parts.findIdx (fun x => decide (x.core = n.val))) st 0 0 (cleanCopy w u)))
          ∧ ∀ c ∈ (cleanCopy w u).copies, c.core = w.core → c.owner = w.owner → c.handle = w.handle → c.pane = w.pane → unsaved c = false)
  ∧ (∀ s : State,
    (Served .late s → takingStopped s = false → exec .tierReplace s = .next (setF TIER.CTRL_REPLACE 1 (setF TIER.STAT_BUSY 1 s)))
    ∧ (Served .late s → takingStopped s = true → exec .tierReplace s = .next s)
    ∧ (getF TIER.CTRL_REPLACE s = 1 → s.inflight = [] → alive s = true → (regionOf 99 s).inReset = false →
        getF IMG.STAT_STATE (replaceNow s) ≠ 4 → exec .replaceQuiesced s = .next (replaceNow s))
    ∧ (s.inflight ≠ [] → exec .replaceQuiesced s = .next s))

/-- MQ_READ_METADATA and MQ_READ_PLACEMENT (R298, R299, R300): a handle of no tensor gives ERR 1, a pane beyond the tensor or of another
device ERR 2, a pane in a unit that is not OPEN ERR 3, each with zeros; else MQDATA takes the pane's 1,024 metadata bytes, or the tensor's
home tier, its panes in each tier, its channels and its owner, with ERR 0. -/
def Obligations.MetadataReads : Prop :=
  ∀ s u v : State, Served .late s → u = setF TIER.MQCMD_OP 0 s → v = setF TIER.MQCMD_OP 1 s →
    (mqRoot u = none → exec .mqReadMetadata s = .next (setMqdata [] (setF TIER.MQCMD_ERR 1 u)))
    ∧ (∀ t, mqRoot u = some t → paneCount t ≤ getF TIER.MQPANE_PANE u ∨ localPane t (getF TIER.MQPANE_PANE u) u = false →
        exec .mqReadMetadata s = .next (setMqdata [] (setF TIER.MQCMD_ERR 2 u)))
    ∧ (∀ t l, mqRoot u = some t → getF TIER.MQPANE_PANE u < paneCount t → localPane t (getF TIER.MQPANE_PANE u) u = true →
        paneLoc t.handle (getF TIER.MQPANE_PANE u) u = some l →
        (unitOpen l.unit u = false → exec .mqReadMetadata s = .next (setMqdata [] (setF TIER.MQCMD_ERR 3 u)))
        ∧ (unitOpen l.unit u = true → exec .mqReadMetadata s
            = .next (setMqdata (wordsOf 256 (paneMeta t (getF TIER.MQPANE_PANE u) (some l) u)) (setF TIER.MQCMD_ERR 0 u))))
    ∧ (mqRoot v = none → exec .mqReadPlacement s = .next (setMqdata [] (setF TIER.MQCMD_ERR 1 v)))
    ∧ (∀ t, mqRoot v = some t → exec .mqReadPlacement s = .next (setMqdata
        [(homeOf t v).getD 3, localCount t v, panesIn t 0 v, panesIn t 1 v, panesIn t 2 v, ((stripeSet 0 t.owner v).map (fun u => 2 ^ u)).sum,
          t.owner] (setF TIER.MQCMD_ERR 0 v)))

/-- MEMORY_ACCESS, a write (R305, R306, R315, R317, R320): where its request comes up at once and is served, every byte of the codeword's
range takes its new value, every other byte of memory reads as before, and the lines wholly written hold poison no more; a request whose row
is held, or whose queue's arbiter no requester owns, waits in the queue of its stripe's channel or subchannel, and nothing else changes. -/
def Obligations.MemoryWriteStores : Prop :=
  ∀ (u : MemUnit) (slot off : Nat) (bs : List Byte) (ecc : Ecc) (row : RowAddr) (s : State), off % 256 + bs.length ≤ 256 →
    (AccessServed u slot off row s →
      ∃ t, exec (.memoryAccess u slot off (some bs) ecc row) s = .next t
        ∧ (∀ k (h : k < bs.length), memByte (memAddr u slot off + k) t = bs[k])
        ∧ (∀ a, a < memAddr u slot off ∨ memAddr u slot off + bs.length ≤ a → memByte a t = memByte a s)
        ∧ (∀ l, l ∈ t.poison ↔ l ∈ s.poison ∧ ¬ (memAddr u slot off ≤ 64 * l ∧ 64 * l + 64 ≤ memAddr u slot off + bs.length))
        ∧ t.inflight = s.inflight ∧ t.panes = s.panes ∧ (muAuxOf u t).queue = (muAuxOf u s).queue)
    ∧ (muServes u s = true → muHas u slot off s = true → rowServes u slot off row s = true →
        (∀ q ∈ (muAuxOf u s).queue, queueOfByte u q.slot q.off = queueOfByte u slot off → rowHeld u q.row s = true) →
        rowHeld u row s = true ∨ getF (ARB.STAT_OWNED (queueArb u (queueOfByte u slot off))) s = 0 →
        exec (.memoryAccess u slot off (some bs) ecc row) s
          = .next (setMuAux u (fun a => { a with queue := a.queue ++ [⟨slot, off, some bs, ecc, row⟩] }) s))

/-- MEMORY_ACCESS, a read, and SCRUB_READ (R305, R315 to R319): a read that comes up at once is served. A clean codeword, and one that is
poisoned already, changes nothing but the counts of the access; one with as many wrong symbols as the code corrects, or one that it
miscorrects, counts against its row, which is remapped at the threshold; one with more is poisoned, with MUERRLAST showing where, and its
row remapped. A scrub read does the same without an access of the host, and nothing while SCRUBEN is 0. REPAIR_LOG_COMMITTED (R320 to R323,
R337): with the log entry written the row's remap takes the lowest free spare row of its channel, an older entry of the row is retired,
MUREMAP counts the entries in use, the log takes the row, and the codewords that the copy meets in error are corrected or poisoned; without
it the remap is abandoned and LOGFAIL set; either way the row is held no more and its queue goes on. -/
def Obligations.CodewordsAndRepair : Prop :=
  (∀ (u : MemUnit) (slot off : Nat) (ecc : Ecc) (row : RowAddr) (s : State),
    (AccessServed u slot off row s →
      ∃ v, exec (.memoryAccess u slot off none ecc row) s = .next (codewordRead u slot off ecc row (peep 5 u 1 64 v))
        ∧ v = { s with mu := v.mu } ∧ muAuxOf u v = { muAuxOf u s with beat := ((muAuxOf u s).beat + 1) % 16 })
    ∧ (muServes u s = true → rowHeld u row s = false → muHas u slot off s = true → rowServes u slot off row s = true →
        (getF (MU.MUCTL_SCRUBEN u) s = 1 → exec (.scrubRead u slot off ecc row) s = .next (codewordRead u slot off ecc row s))
        ∧ (getF (MU.MUCTL_SCRUBEN u) s = 0 → exec (.scrubRead u slot off ecc row) s = .next s))
    ∧ (lineOf (memAddr u slot off) ∈ s.poison → codewordRead u slot off ecc row s = s)
    ∧ (lineOf (memAddr u slot off) ∉ s.poison →
        codewordRead u slot off .clean row s = s
        ∧ (∀ k, 0 < k → k ≤ (if u.val < 16 then 4 else 8) → codewordRead u slot off (.symbols k) row s = correctable u row s)
        ∧ (∀ bs, codewordRead u slot off (.miscorrected bs) row s
            = correctable u row (memWrite (memAddr u slot (off / 64 * 64)) (byteSlice bs 0 64) s))
        ∧ ∀ k, (if u.val < 16 then 4 else 8) < k → codewordRead u slot off (.symbols k) row s = uncorrectable u slot off row s
            ∧ lineOf (memAddr u slot off) ∈ (uncorrectable u slot off row s).poison
            ∧ getF (MU.MUERRLAST_VALID u) (uncorrectable u slot off row s) = 1
            ∧ getF (MU.MUERRLAST_SLOT u) (uncorrectable u slot off row s) = slot % 2 ^ 22)
    ∧ ∀ c v, countRow u row (peep 5 u 3 1 (satF (MU.MUCECNT_COUNT u) 1 s)) = (c, v) →
        correctable u row s = if getF (MU.MUCTL_CETHR u) v ≤ c then startRemap u row 0 v else v)
  ∧ (∀ (u : MemUnit) (row : RowAddr) (c cause : Nat) (found : List CopyError) (s : State),
    (muAuxOf u s).pend.find? (fun p => decide (p.2.1 = row)) = some (c, row, cause) →
    (∃ v, exec (.repairLogCommitted u row ⟨true, found⟩) s = .next (serveNext u (if u.val < 16 then c else row.pc) v)
      ∧ rowHeld u row v = false ∧ v.repairLog = s.repairLog ++ [(u.val, row, false)]
      ∧ (muAuxOf u v).remaps = (muAuxOf u s).remaps.map (fun e =>
            if e.1 = rowChan u row ∧ e.2.row = row then (e.1, { e.2 with retired := true }) else e)
          ++ [(rowChan u row, ⟨freeSpare u (rowChan u row) s, row, cause, false, false⟩)]
      ∧ getF (MU.MUREMAP_USED u) v = ((muAuxOf u v).remaps.filter (fun e => !e.2.retired)).length % 2 ^ 15
      ∧ (found = [] → v.mem = s.mem))
    ∧ (∀ i, i < freeSpare u (rowChan u row) s → i < 512 → ∃ e ∈ (muAuxOf u s).remaps, e.1 = rowChan u row ∧ e.2.idx = i)
    ∧ ∃ v, exec (.repairLogCommitted u row ⟨false, found⟩) s = .next (serveNext u (if u.val < 16 then c else row.pc) v)
        ∧ rowHeld u row v = false ∧ v.repairLog = s.repairLog ∧ (muAuxOf u v).remaps = (muAuxOf u s).remaps
        ∧ getF (MU.MUREMAP_LOGFAIL u) v = 1 ∧ v.mem = s.mem)

/-- MU_TEMP_READING (R326, R327, R328, R333): the unit's louvre value falls at once and rises one step at a reading; TCUR takes the reading,
ABOVET1 follows T1, OVERT2 is set beyond T2 with one record when the temperature passes it, and a stack refreshes at twice the rate above 85
degrees. The louvre value of a memory temperature (R327): 16 at or below T1, 1 beyond T2, and never outside 1 to 16 for thresholds in order.
MU_TRAINING_DONE and MU_ZEROING_DONE (R308 to R312, R314, R324, R325): a DRAM channel in training that finds no module is absent, one with
an unsupported module, and a stack whose lanes redundancy does not cover, fails; a unit that fails at one rate tries its next lower one, and
fails after its last; a unit of a supported capacity that trains takes its rate and slots and is READY where its reset is no zeroing reset;
in a zeroing reset it is then repaired, with its remap table loaded from the log and everything of its slots and spare area still to zero,
and at the end of zeroing every byte of the unit reads zero, every other byte of memory as before, and the unit is READY. -/
def Obligations.MemoryUnits : Prop :=
  (∀ (u : MemUnit) (t : Int) (s v : State), fatal s = false → (regionOf (muRegion u) s).inReset = false →
    (regionOf (muRegion u) s).down = false → getF (MU.MUSTAT_TSTATE u) s ≠ 0 →
    v = setF (MU.MUTEMP_REFX2 u) (if u.val < 16 ∧ 85 < t then 1 else 0)
      (setF (MU.MUTEMP_TCUR u) (toTwos 8 t) (setF (MU.MUTEMP_ABOVET1 u) (if (getF (MU.MUTHR_T1 u) s : Int) < t then 1 else 0)
        (setF (MU.MUTEMP_LVAL u)
          (if getF (MU.MUTEMP_LVAL u) s < muLouvre (getF (MU.MUTHR_T1 u) s) (getF (MU.MUTHR_T2 u) s) t then getF (MU.MUTEMP_LVAL u) s + 1
            else muLouvre (getF (MU.MUTHR_T1 u) s) (getF (MU.MUTHR_T2 u) s) t) s))) →
    (t ≤ (getF (MU.MUTHR_T2 u) s : Int) → exec (.muTempReading u t) s = .next v)
    ∧ ((getF (MU.MUTHR_T2 u) s : Int) < t → (getF (MU.MUTHR_T2 u) s : Int) < ofTwos 8 (getF (MU.MUTEMP_TCUR u) s) →
        exec (.muTempReading u t) s = .next (setF (MU.MUTEMP_OVERT2 u) 1 v))
    ∧ ((getF (MU.MUTHR_T2 u) s : Int) < t → ofTwos 8 (getF (MU.MUTEMP_TCUR u) s) ≤ (getF (MU.MUTHR_T2 u) s : Int) →
        exec (.muTempReading u t) s
          = .next (errRecord 3 0 (muRegion u) 0 (u.val % 16) [u.val, toTwos 64 t] (setF (MU.MUTEMP_OVERT2 u) 1 v))))
  ∧ (∀ (t1 t2 : Nat) (t : Int), t1 < t2 →
    (t ≤ t1 → muLouvre t1 t2 t = 16) ∧ ((t2 : Int) < t → muLouvre t1 t2 t = 1) ∧ muLouvre t1 t2 t2 = 1
    ∧ 1 ≤ muLouvre t1 t2 t ∧ muLouvre t1 t2 t ≤ 16)
  ∧ ((∀ (u : MemUnit) (repairs : List MuRepair) (s : State), (regionOf (muRegion u) s).inReset = false → getF (MU.MUSTAT_TSTATE u) s = 1 →
    (16 ≤ u.val → ∃ t, exec (.muTrainingDone u .noModule repairs) s = .next t ∧ getF (MU.MUSTAT_TSTATE u) t = 0 ∧ getF (MU.MUSTAT_FAIL u) t = 1
      ∧ getF (MU.MUCAP_GIB u) t = 0 ∧ getF (MU.MUSLOTS_SLOTS u) t = 0)
    ∧ (16 ≤ u.val → exec (.muTrainingDone u .badModule repairs) s = .next (bootZeroing (muFail u 2 s)))
    ∧ (u.val < 16 → exec (.muTrainingDone u .lanesFailed repairs) s = .next (bootZeroing (muFail u 4 s)))
    ∧ (∀ rated, (muAuxOf u s).fell + 1 < (ratesOf u rated).length → exec (.muTrainingDone u (.failedAt rated) repairs) s
        = .next (bootZeroing (setMuAux u (fun a => { a with fell := (muAuxOf u s).fell + 1 }) s)))
    ∧ (∀ rated, (ratesOf u rated).length ≤ (muAuxOf u s).fell + 1 → exec (.muTrainingDone u (.failedAt rated) repairs) s
        = .next (bootZeroing (muFail u 3 s)))
    ∧ (∀ c, getF (MU.MUSTAT_TSTATE u) (muFail u c s) = 5 ∧ getF (MU.MUSTAT_FAIL u) (muFail u c s) = c % 2 ^ 8
        ∧ getF (MU.MUSLOTS_SLOTS u) (muFail u c s) = 0)
    ∧ ∀ rated lanes gib id rate, supportedGib u gib = true → (ratesOf u rated)[(muAuxOf u s).fell]? = some rate →
        ∃ t, exec (.muTrainingDone u (.trained rated lanes gib id) repairs) s = .next t
          ∧ getF (MU.MUSTAT_TSTATE u) t = (if (muAuxOf u s).zeroing then 2 else 4) ∧ getF (MU.MUSTAT_RATE u) t = rate
          ∧ getF (MU.MUCAP_GIB u) t = gib ∧ getF (MU.MUSLOTS_SLOTS u) t = slotsOfGib u gib ∧ t.mem = s.mem)
  ∧ (∀ (u : MemUnit) (r : MuTraining) (repairs : List MuRepair) (s : State), (regionOf (muRegion u) s).inReset = false →
    getF (MU.MUSTAT_TSTATE u) s = 2 →
    ∃ t, exec (.muTrainingDone u r repairs) s = .next (bootZeroing t) ∧ t = muRepaired u repairs s ∧ getF (MU.MUSTAT_TSTATE u) t = 3
      ∧ getF (MU.MUZERO_DONE u) t = 0 ∧ t.mem = s.mem)
  ∧ ∀ (u : MemUnit) (s : State), getF (MU.MUSTAT_TSTATE u) s = 3 →
      ∃ t, exec (.muZeroingDone u) s = .next t ∧ getF (MU.MUSTAT_TSTATE u) t = 4 ∧ getF (MU.MUZERO_DONE u) t = 1
        ∧ getF (MU.MUZERO_REMAIN u) t = 0
        ∧ (∀ a, u.val * 2 ^ 41 ≤ a → a < (u.val + 1) * 2 ^ 41 → memByte a t = 0#8)
        ∧ (∀ a, a < u.val * 2 ^ 41 ∨ (u.val + 1) * 2 ^ 41 ≤ a → memByte a t = memByte a s)
        ∧ t.inflight = s.inflight ∧ t.panes = s.panes)

/-- The presence of a cartridge (R360, R361, R364): a new level of CRTp_PRES_N starts the debounce count; after 2^24 counts an inserted
cartridge is powered when its port's shutter is open or opening, and one taken out of a port that was not closed is a surprise removal,
recorded and its spill key replaced; a supply that is not good 2^27 counts later rejects it with reason 8. The identification and
initialisation of a cartridge (R342, R344, R346, R347, R350, R355 to R358, R360, R361): the identity element is read, and a record that
fails a check rejects the cartridge with the first reason in order; else its capacity, rating and wear are shown; a channel that does not
train at one of the three rates is reason 5, a keyhole without a storage key reason 6; then its serial number is shown, and it is READY:
UNFORMATTED without a label of its serial number, else with the size and slots that the label gives, FOREIGN where its key does not unwrap.
-/
def Obligations.Cartridges : Prop :=
  (∀ (p : PortNo) (s : State),
    (∀ lv, (cartAuxOf p s).present ≠ lv →
      exec (.cartPresenceChange p lv) s = .next (setCart p (fun a => { a with present := lv, since := licOf 98 s }) s))
    ∧ (2 ^ 24 ≤ licSince 98 (cartAuxOf p s).since s → fatal s = false → (cartAuxOf p s).present = true → (cartAuxOf p s).seated = false →
        getF (GLB.SHUT_STATE (100 + p)) s = 2 →
        exec (.cartPresenceDebounced p) s = .next (startInsertion p (setCart p (fun a => { a with seated := a.present }) s)))
    ∧ (2 ^ 24 ≤ licSince 98 (cartAuxOf p s).since s → fatal s = false → (cartAuxOf p s).present = false → (cartAuxOf p s).seated = true →
        getF (GLB.SHUT_STATE (100 + p)) s = 2 →
        exec (.cartPresenceDebounced p) s
          = .next (emptyPort p (replaceSpill p (surpriseRemoval p (setCart p (fun a => { a with seated := a.present }) s)))))
    ∧ (licSince 98 (cartAuxOf p s).since s < 2 ^ 24 → exec (.cartPresenceDebounced p) s = .next s)
    ∧ (getF (CART.CPSTAT_CSTATE p) s = 1 → 2 ^ 27 ≤ licSince 98 (cartAuxOf p s).pwrSince s → fatal s = false →
        exec (.cartPgoodTimeout p) s = .next (rejectCart p 8 s)))
  ∧ (∀ (p : PortNo) (i : CartIdentity) (x : CartInit) (s w : State), fatal s = false →
    (identityReason p i s = 0 ∨ 4 ≤ identityReason p i s →
      w = setCart p (fun a => { a with serial := byteSlice i.record 8 16 }) (readElement p s)) →
    (0 < identityReason p i s → identityReason p i s < 4 → w = readElement p s) →
    (getF (CART.CPSTAT_CSTATE p) s = 1 → identityReason p i s ≠ 0 →
      exec (.cartPgood p i) s = .next (rejectCart p (identityReason p i s) w))
    ∧ (getF (CART.CPSTAT_CSTATE p) s = 1 → identityReason p i s = 0 → exec (.cartPgood p i) s = .next (setCommitted p i.wear
        (setF (CART.CPSTAT_CSTATE p) 2 (setF (CART.CPCAP_CAPGIB p) (leAt i.record 0x18 4) (setF (CART.CPRATED_RATED p) (leAt i.record 0x1C 4)
          (setCart p (fun a => { a with written := i.wear * 10 ^ 9 }) w))))))
    ∧ (i.readable = false → identityReason p i s = 1)
    ∧ (readElement p s).out = [.i3cRead p 0x0100 8, .i3cRead p 0x0000 256, .i3cSetdasa p 0x50 0x08] ++ s.out
    ∧ (getF (CART.CPSTAT_CSTATE p) s = 2 →
        (x.rates.length ≠ 8 ∨ (∃ r ∈ x.rates, r ≠ 3600 ∧ r ≠ 2400 ∧ r ≠ 1600) → exec (.cartInitialised p x) s = .next (rejectCart p 5 s))
        ∧ (x.rates.length = 8 → (∀ r ∈ x.rates, r = 3600 ∨ r = 2400 ∨ r = 1600) →
          (storageKey s = false → exec (.cartInitialised p x) s = .next (rejectCart p 6 s))
          ∧ (storageKey s = true → ∃ t, exec (.cartInitialised p x) s = .next t ∧ getF (CART.CPSTAT_CSTATE p) t = 3
              ∧ (∀ k, k < 4 → getF (CART.CPSERIAL_SERIAL p k) t = leAt (cartAuxOf p s).serial (4 * k) 4 % 2 ^ 32)
              ∧ cartAuxOf p t = { cartAuxOf p s with
                  rates := x.rates, label := labelOf p x s, persistKey := ((labelOf p x s).bind (fun l => unwrapLabel l s)).getD [] })))
    ∧ (getF (CART.CPSTAT_CSTATE p) s = 3 →
        ((cartAuxOf p s).label = none →
          exec (.cartInitialised p x) s = .next (setF (CART.CPSTAT_UNFMT p) 1 (setF (CART.CPSTAT_CSTATE p) 4 s)))
        ∧ ∀ l, (cartAuxOf p s).label = some l → ∃ t, exec (.cartInitialised p x) s = .next t ∧ getF (CART.CPSTAT_CSTATE p) t = 4
            ∧ getF (CART.CPCAP_PSIZE p) t = l.psize % 2 ^ 16
            ∧ getF (CART.CPSLOTS_SLOTS p) t = spillSlots (getF (CART.CPCAP_CAPGIB p) s) l.psize % 2 ^ 32
            ∧ getF (CART.CPSTAT_FOREIGN p) t = (if unwrapLabel l s = none then 1 else 0) ∧ t.mem = s.mem))

/-- FORMAT and ERASEP (R353, R357, R358, R365, R366): each gives the first error in order (port not ready 2, panes held or a CHKP in flight
1, too small 3, worn 4, also where writing the label wears it out) and then writes nothing; a FORMAT without error gives the cartridge a
label, a new persistent key, a new spill key, its size and its slots; an ERASEP a new persistent key; after either the persistent region
reads as unwritten. An ERASEP of a cartridge that has no label changes no key. The wear counter (R344, R345, R357, R358, R373): a program of
a cartridge in service that has room in the committed volume is written at once; one that has none waits, and the counter is written 64 GB
on; one that comes while it is written waits with it; the acknowledged value is then committed and the programs proceed; a worn cartridge,
and one that is not in service, is not programmed. A relocation first poisons what it meets beyond correction, and the peephole counts its
erases. -/
def Obligations.CartridgeCommands : Prop :=
  (∀ (p : PortNo) (s t v : State), Served .late s →
    (portReady p s = false →
      exec (.format p) s = .next (setF (CART.CPCMD_ERR p) 2 (setF (CART.CPCMD_CMD p) 1 s))
      ∧ exec (.erasep p) s = .next (setF (CART.CPCMD_ERR p) 2 (setF (CART.CPCMD_CMD p) 2 s)))
    ∧ (portReady p s = true → (portPanes p s ≠ 0 ∨ ∃ e ∈ s.inflight, chkpUses p e = true) →
      exec (.format p) s = .next (setF (CART.CPCMD_ERR p) 1 (setF (CART.CPCMD_CMD p) 1 s))
      ∧ exec (.erasep p) s = .next (setF (CART.CPCMD_ERR p) 1 (setF (CART.CPCMD_CMD p) 2 s)))
    ∧ (cartCmdErr p s = 0 → getF (CART.CPCAP_CAPGIB p) s < 32 * getF (CART.CPCMD_PSIZE p) s →
      exec (.format p) s = .next (setF (CART.CPCMD_ERR p) 3 (setF (CART.CPCMD_CMD p) 1 s)))
    ∧ (cartCmdErr p s = 0 → cartWorn p s = true → exec (.erasep p) s = .next (setF (CART.CPCMD_ERR p) 4 (setF (CART.CPCMD_CMD p) 2 s)))
    ∧ (cartCmdErr p s = 0 → cartWorn p s = false → (cartAuxOf p s).label = none →
      exec (.erasep p) s = .next (setF (CART.CPCMD_ERR p) 0 (setF (CART.CPCMD_CMD p) 2 s)))
    ∧ (cartCmdErr p s = 0 → cartWorn p s = false → 32 * getF (CART.CPCMD_PSIZE p) s ≤ getF (CART.CPCAP_CAPGIB p) s →
        t = labelWrite p (setF (CART.CPCMD_CMD p) 1 s) →
        (cartWorn p t = true → exec (.format p) s = .next (setF (CART.CPCMD_ERR p) 4 t))
        ∧ (cartWorn p t = false → ∃ z x y, exec (.format p) s = .next z ∧ getF (CART.CPCMD_ERR p) z = 0 ∧ getF (CART.CPSTAT_UNFMT p) z = 0
            ∧ getF (CART.CPCAP_PSIZE p) z = getF (CART.CPCMD_PSIZE p) s % 2 ^ 16
            ∧ getF (CART.CPSLOTS_SLOTS p) z = spillSlots (getF (CART.CPCAP_CAPGIB p) s) (getF (CART.CPCMD_PSIZE p) s) % 2 ^ 32
            ∧ (∃ l, (cartAuxOf p z).label = some l ∧ l.serial = (cartAuxOf p s).serial ∧ l.psize = getF (CART.CPCMD_PSIZE p) s)
            ∧ (cartAuxOf p z).persistKey = (drawXts x).1 ∧ (cartAuxOf p z).spillKey = (drawXts y).1
            ∧ s.freeIdx ≤ x.freeIdx ∧ x.freeIdx < y.freeIdx
            ∧ ∀ a, persistBase (cartAuxOf p s).serial ≤ a → a < persistBase (cartAuxOf p s).serial + 2 ^ 46 → memByte a z = 0#8))
    ∧ (cartCmdErr p s = 0 → cartWorn p s = false → (cartAuxOf p s).label.isSome = true → v = labelWrite p (setF (CART.CPCMD_CMD p) 2 s) →
        (cartWorn p v = true → exec (.erasep p) s = .next (setF (CART.CPCMD_ERR p) 4 v))
        ∧ (cartWorn p v = false → ∃ z x, exec (.erasep p) s = .next z ∧ getF (CART.CPCMD_ERR p) z = 0
            ∧ (cartAuxOf p z).persistKey = (drawXts x).1 ∧ s.freeIdx ≤ x.freeIdx
            ∧ ∀ a, persistBase (cartAuxOf p s).serial ≤ a → a < persistBase (cartAuxOf p s).serial + 2 ^ 46 → memByte a z = 0#8)))
  ∧ (∀ (p : PortNo) (bytes erases : Nat) (bad : List FlashUnit) (s : State), fatal s = false →
    exec (.wearCounterCommit p bytes) s = .next (programOrHold p bytes s)
    ∧ (portReady p s = true → cartWorn p s = false →
      ((cartAuxOf p s).commit = none → wearRoom p bytes s = true → programOrHold p bytes s = programBytes p bytes s)
      ∧ ((cartAuxOf p s).commit = none → wearRoom p bytes s = false → ∃ t, programOrHold p bytes s = t
          ∧ cartAuxOf p t = { cartAuxOf p s with commit := some (getF (CART.CPWEAR_COMMITTED p) s + 64), heldBytes := bytes }
          ∧ t.out = .i3cWrite p 0x0100 (leBytes 8 (getF (CART.CPWEAR_COMMITTED p) s + 64)) :: s.out ∧ t.mem = s.mem)
      ∧ ((cartAuxOf p s).commit ≠ none →
          programOrHold p bytes s = setCart p (fun a => { a with heldBytes := a.heldBytes + bytes }) s))
    ∧ (portReady p s = false ∨ cartWorn p s = true → programOrHold p bytes s = s)
    ∧ (portReady p s = true → exec (.flashRelocation p ⟨bytes, bad, erases⟩) s
        = .next (programOrHold p bytes (forEach bad (fun f s => flashUnitBad p f s) (peep 9 p 3 erases s))))
    ∧ (portReady p s = false → exec (.flashRelocation p ⟨bytes, bad, erases⟩) s = .next s)
    ∧ ((cartAuxOf p s).commit = none → exec (.wearCounterAck p) s = .next s)
    ∧ ∀ v, (cartAuxOf p s).commit = some v → exec (.wearCounterAck p) s = .next (programOrHold p (cartAuxOf p s).heldBytes
        (setCommitted p v (setCart p (fun a => { a with commit := none, heldBytes := 0 }) s))))

/-! Compression, check units, the sweep and the phase counters (chapters 11 and 12). -/

/-- TABLE_BUILD, COMP_BLOCK_ENCODE, COMP_BLOCK_DECODE and TABLE_INSTALL (R379 to R384, R390 to R394, R404): an ENCODE on a context builds
the table of a block that is a rebuild point, and encodes it only then, its sequence number going up by one; a DECODE takes the next record
of the image; a table message installs its table, and one that cannot be read leaves COMP_CORRUPT and its generation rejected; a context
that codes for a link builds and codes the stream's next block; a context without a stream does nothing. -/
def Obligations.StreamsAdvance : Prop :=
  ∀ (x : ContextNo) (s : State), ceAlive x s = true →
    (∀ j e, cjobOf x s = some j → j.decode = false → flight j.id s = some e →
      exec (.tableBuild x) s = .next (buildMemory e j s) ∧ exec (.compBlockEncode x) s = .next (encodeNext e j s)
      ∧ exec (.compBlockDecode x) s = .next s ∧ exec (.tableInstall x) s = .next s
      ∧ (rebuildDue (encodeCoding e) (cmBUILD e.desc) (decide (j.block = 0)) (ctxOf j.ctx s) = true → encodeNext e j s = s)
      ∧ (rebuildDue (encodeCoding e) (cmBUILD e.desc) (decide (j.block = 0)) (ctxOf j.ctx s) = false → buildMemory e j s = s
          ∧ (ctxOf x (encodeNext e j s)).seq = ((ctxOf x s).seq + 1) % 65536 ∧ (ctxOf x (encodeNext e j s)).since = (ctxOf x s).since + 1
          ∧ (ctxOf x (encodeNext e j s)).built = false))
    ∧ (∀ j e, cjobOf x s = some j → j.decode = true → flight j.id s = some e →
      exec (.compBlockDecode x) s = .next (decodeNext e j s) ∧ exec (.compBlockEncode x) s = .next s
      ∧ exec (.tableBuild x) s = .next s
      ∧ (recMode (imageBytes e j.off 12 s) ≠ 3 → exec (.tableInstall x) s = .next s))
    ∧ (∀ j e m, cjobOf x s = some j → j.decode = true → flight j.id s = some e →
      recMode (imageBytes e j.off 16 s) = 3 → (imageBytes e j.off 16 s).length = 16 → tableLen (imageBytes e j.off 16 s) ≤ 4116 →
      m = imageBytes e j.off (tableLen (imageBytes e j.off 16 s)) s →
      (∀ t, winRangePoisoned (cmHOFF e.desc + j.off) (tableLen (imageBytes e j.off 16 s)) s = false → readTable m = some t →
        exec (.tableInstall x) s = .next (installTable x t (setCjob x (fun k => { k with
          off := j.off + pad8 (tableLen (imageBytes e j.off 16 s)), rejected := k.rejected.filter (fun g => decide (g ≠ t.gen)) })
          (countTable (ceOf x) m.length s))))
      ∧ (winRangePoisoned (cmHOFF e.desc + j.off) (tableLen (imageBytes e j.off 16 s)) s = true ∨ readTable m = none →
        exec (.tableInstall x) s = .next (setCjob x (fun k => { k with
          off := j.off + pad8 (tableLen (imageBytes e j.off 16 s)), rejected := recGen (imageBytes e j.off 16 s) :: k.rejected,
          status := if k.status = 0 then 0x21 else k.status }) (countTable (ceOf x) m.length s))))
    ∧ (∀ j t, cjobOf x s = none → linkStream x s = some (j, t) → exec (.tableBuild x) s = .next (buildLink x j t s)
      ∧ exec (.compBlockEncode x) s = .next (linkNext x j t s))
    ∧ (cjobOf x s = none → exec (.compBlockDecode x) s = .next s ∧ exec (.tableInstall x) s = .next s)
    ∧ (cjobOf x s = none → linkStream x s = none → exec (.tableBuild x) s = .next s ∧ exec (.compBlockEncode x) s = .next s)

/-- The check values of the catalogue (R407): each CRC over the nine bytes of ASCII 123456789. -/
def Obligations.CrcCheckValues : Prop :=
  ckCrc 0 [0x31, 0x32, 0x33, 0x34, 0x35, 0x36, 0x37, 0x38, 0x39] = 0xE3069283
  ∧ ckCrc 1 [0x31, 0x32, 0x33, 0x34, 0x35, 0x36, 0x37, 0x38, 0x39] = 0xCBF43926
  ∧ ckCrc 2 [0x31, 0x32, 0x33, 0x34, 0x35, 0x36, 0x37, 0x38, 0x39] = 0x6C40DF5F0B497347
  ∧ ckCrc 3 [0x31, 0x32, 0x33, 0x34, 0x35, 0x36, 0x37, 0x38, 0x39] = 0x29B1

/-- A check unit tells two byte strings apart that differ in one byte, whatever CRC it computes: a step keeps RUN in its width, no two
values of RUN come together under one byte, and no two bytes give one RUN (R407). -/
def Obligations.CrcDetectsAnyByte : Prop :=
  ∀ (poly run run' : Nat) (a b : Byte), poly < 4 → run < 2 ^ ckWidth poly → run' < 2 ^ ckWidth poly →
    ckStep poly run a < 2 ^ ckWidth poly
    ∧ (ckStep poly run a = ckStep poly run' a → run = run')
    ∧ (ckStep poly run a = ckStep poly run b → a = b)

/-- CHECK_BYTE (R408, R410, R422): an armed unit takes the bytes that its tap presents under its key: COUNT goes up and RUN and FINAL
follow; a byte of another tap or key, or of a unit that is not armed or that the device has armed for a digest of its own, changes nothing;
at LIMIT the unit disarms with DONE. The registers of a check unit (R411, R412, R421, R423): INIT gives RUN the initial value of its CRC and
COUNT zero; ARM starts and stops it; while it is disarmed and not the device's own each part of its state can be written, a reserved tap
leaving it unchanged with a record, and while it is armed a write is discarded with a record; a unit that the device has armed discards them
all. A whole write drops a half held for the register. -/
def Obligations.CheckUnits : Prop :=
  (∀ (u : CheckNo) (tap key : Nat) (b : Byte) (s : State),
    (getF (CK.CKCTL_ARM u) s = 1 → getF (CK.CKCTL_TAP u) s = tap → getF (CK.CKMATCH_MATCH u) s = key → u.val ∉ s.ckFenced →
      getF (CK.CKCTL_OWNER u) s = 0 →
      fatal s = false → (regionOf (ckRegion u) s).inReset = false → ∃ t, exec (.checkByte u tap key b) s = .next t
        ∧ getF (CK.CKCOUNT_COUNT u) t = (getF (CK.CKCOUNT_COUNT u) s + 1) % 2 ^ 64
        ∧ getF (CK.CKRUN_RUN u) t = ckStep (getF (CK.CKCTL_POLY u) s) (getF (CK.CKRUN_RUN u) s) b % 2 ^ 64
        ∧ getF (CK.CKFINAL_FINAL u) t = ckFinal (getF (CK.CKCTL_POLY u) s) (ckStep (getF (CK.CKCTL_POLY u) s) (getF (CK.CKRUN_RUN u) s) b) % 2 ^ 64
        ∧ (getF (CK.CKLIMIT_LIMIT u) s ≠ 0 → getF (CK.CKLIMIT_LIMIT u) s = (getF (CK.CKCOUNT_COUNT u) s + 1) % 2 ^ 64 →
            getF (CK.CKCTL_ARM u) t = 0 ∧ getF (CK.CKSTAT_DONE u) t = 1)
        ∧ t.mem = s.mem ∧ t.inflight = s.inflight)
    ∧ (getF (CK.CKCTL_ARM u) s ≠ 1 ∨ getF (CK.CKCTL_TAP u) s ≠ tap ∨ getF (CK.CKMATCH_MATCH u) s ≠ key
        ∨ getF (CK.CKCTL_OWNER u) s = 1 →
        exec (.checkByte u tap key b) s = .next s))
  ∧ (∀ (u : CheckNo) (v : Nat) (s : State), Served .late s →
    (u.val ∉ s.ckFenced → getF (CK.CKCTL_OWNER u) s = 0 →
      exec (.ckctlInit u) s = .next (setF (CK.CKCOUNT_COUNT u) 0 (setF (CK.CKFINAL_FINAL u)
        (ckFinal (getF (CK.CKCTL_POLY u) s) (ckInitial (getF (CK.CKCTL_POLY u) s))) (setF (CK.CKRUN_RUN u) (ckInitial (getF (CK.CKCTL_POLY u) s)) s)))
      ∧ exec (.ckctlArm u true) s = .next (setF (CK.CKCTL_ARM u) 1 s) ∧ exec (.ckctlArm u false) s = .next (setF (CK.CKCTL_ARM u) 0 s)
      ∧ (getF (CK.CKCTL_ARM u) s = 0 →
          exec (.checkStateWrite u .run v) s = .next (setRun u (v % 2 ^ ckWidth (getF (CK.CKCTL_POLY u) s)) (dropHeld (ckRegAddr u .run) s))
          ∧ exec (.checkStateWrite u .count v) s = .next (setF (CK.CKCOUNT_COUNT u) v (dropHeld (ckRegAddr u .count) s))
          ∧ exec (.checkStateWrite u .limit v) s = .next (setF (CK.CKLIMIT_LIMIT u) v (dropHeld (ckRegAddr u .limit) s))
          ∧ exec (.checkStateWrite u .mtch v) s = .next (setF (CK.CKMATCH_MATCH u) v (dropHeld (ckRegAddr u .mtch) s))
          ∧ (v % 32 ≤ 16 → exec (.checkStateWrite u .tap v) s = .next (setF (CK.CKCTL_TAP u) v (dropHeld (ckRegAddr u .tap) s)))
          ∧ (16 < v % 32 → exec (.checkStateWrite u .tap v) s
              = .next (regAccessError (ckRegAddr u .tap) (dropHeld (ckRegAddr u .tap) s)))
          ∧ ∀ w, w = setF (CK.CKCTL_POLY u) v (dropHeld (ckRegAddr u .poly) s) →
              exec (.checkStateWrite u .poly v) s = .next (setRun u (getF (CK.CKRUN_RUN u) w % 2 ^ ckWidth (v % 4)) w))
      ∧ (getF (CK.CKCTL_ARM u) s = 1 → ∀ r, exec (.checkStateWrite u r v) s
          = .next (regAccessError (ckRegAddr u r) (dropHeld (ckRegAddr u r) s))))
    ∧ (getF (CK.CKCTL_OWNER u) s = 1 → exec (.ckctlInit u) s = .next s ∧ (∀ on, exec (.ckctlArm u on) s = .next s)
        ∧ ∀ r, exec (.checkStateWrite u r v) s = .next s))

/-- SWEEP_UNIT, SWEEP_PREFETCH, SWEEP_FACTOR_PHASE_END and SWEEP_LAYER_COMPLETE (R434, R435, R441, R442): a cluster whose region is out of
reset runs the next unit of its part: a factor unit whole, a unit of an entry whose factors mismatch with SWEEP_TAG_MISMATCH, one that only
zeroes a gradient with that, any other first with the moments of its shards and then with the rest; a prefetch reads the panes of the next
unit that is not prefetched, as far ahead as DEPTH and the staging allow, and changes no value that the sweep computes; the shard phase
begins when every part has done its factor units, and not before; a layer whose last shard has completed is committed once for a STEP, with
the largest of its shards' MAXD. λ after a SWEEP (R203): below 2^-24 it rises by one, from 2^24 on it falls by one, else it stays, and it
never leaves -128 to 127. -/
def Obligations.SweepAdvancesAndLambda : Prop :=
  ((∀ (c : ClusterNo) (s : State), sweepAlive c s = true → nextPart c s = none → exec (.sweepUnit c) s = .next s)
  ∧ (∀ (c : ClusterNo) (e : InFlight) (j : SweepJob) (n : Nat) (p : SweepPart) (f : Bool) (u : Nat) (x : SwUnit) (s v : State),
      sweepAlive c s = true → nextPart c s = some (e, j, n, p, f, u) →
      (if f then swFactorUnits e.desc (replayGroups c s) else (swShardUnits e.desc (replayGroups c s)).1)[u]? = some x →
      v = peep 3 c 1 66560 (replayGroups c s) →
      (f = true → ∀ w st fl, factorUnit c e (swConst e j ((swEntries (replayGroups c s)).getD x.ent []) (replayGroups c s)) x.ent
          ((swEntries (replayGroups c s)).getD x.ent []) (decide (x.kind = 0)) (x.items.headD (0, 0)).1 v = (w, st, fl) →
        exec (.sweepUnit c) s = .next (unitDone c e.id n true u st fl (swUnstage c e.id w)))
      ∧ (f = false → x.ent ∈ j.bad → ∃ w, exec (.sweepUnit c) s = .next (unitDone c e.id n false u 0x28 0 w) ∧ w.mem = v.mem
          ∧ w.sweepRecs = v.sweepRecs ∧ w.inflight = v.inflight)
      ∧ (f = false → x.ent ∉ j.bad → x.kind = 3 →
          ∀ w st, zeroShard c e ((swEntries (replayGroups c s)).getD x.ent []) (x.items.headD (0, 0)).1 v = (w, st) →
          exec (.sweepUnit c) s = .next (unitDone c e.id n false u st 0 w))
      ∧ (f = false → x.ent ∉ j.bad → x.kind ≠ 3 →
        (p.mid = none → (∃ i ∈ x.items, shardAct (spSTEP e.desc) ((swEntries (replayGroups c s)).getD x.ent []) i.1 v = .full) →
          ∃ w st done, exec (.sweepUnit c) s = .next (setSwPart e.id n (fun q => { q with mid := some done }) (orPart e.id n st 0 0 w)))
        ∧ (p.mid ≠ none ∨ (∀ i ∈ x.items, shardAct (spSTEP e.desc) ((swEntries (replayGroups c s)).getD x.ent []) i.1 v ≠ .full) →
          ∃ w st fl, exec (.sweepUnit c) s = .next (unitDone c e.id n false u st fl w))))
  ∧ (∀ (c : ClusterNo) (e : InFlight) (j : SweepJob) (n : Nat) (p : SweepPart) (f : Bool) (u v : Nat) (x : SwUnit) (ps : List (Nat × List Nat))
      (s : State), sweepAlive c s = true → nextPart c s = some (e, j, n, p, f, u) →
      ((List.range ((if f then p.fend else p.send) - u)).map (fun i => u + i)).find? (fun v => !j.ahead.contains v) = some v →
      (if f then swFactorUnits e.desc s else (swShardUnits e.desc s).1)[v]? = some x →
      unitPanes x ((swEntries s).getD x.ent []) s = ps →
      v - u < min (getF TRN.SWPRE_DEPTH s) (64 / max 1 (ps.map (fun q => q.2.length)).sum) →
      exec (.sweepPrefetch c) s = .next (setJob e.id (fun j => { j with ahead := j.ahead ++ [v] }) (swUnstage c e.id
        (forEach ps (fun q s => swStage c e.id (tensorAt q.1 s) q.2 s) s))))
  ∧ (∀ (c : ClusterNo) (s t : State), exec (.sweepPrefetch c) s = .next t →
      t.panes = s.panes ∧ t.inflight = s.inflight ∧ t.sweepRecs = s.sweepRecs ∧ t.layerStats = s.layerStats ∧ t.hist = s.hist)
  ∧ (∀ (j : SweepJob) (s : State), s.sweeps.find? (fun j => !j.shards) = some j → alive s = true →
      ((∀ p ∈ j.parts, p.fend ≤ p.fpos) → exec .sweepFactorPhaseEnd s = .next (forEach (indexFrom 0 j.parts)
        (fun p s => sweepGather j.id p.1 0 0 s) (setJob j.id (fun j => { j with shards := true }) s)))
      ∧ ((∃ p ∈ j.parts, p.fpos < p.fend) → exec .sweepFactorPhaseEnd s = .next s))
  ∧ ∀ (layer : Nat) (j : SweepJob) (e : InFlight) (s : State), alive s = true →
      s.sweeps.findSome? (fun j => (flight j.id s).bind (fun e => if layerDue e j layer s then some (j, e) else none)) = some (j, e) →
      ((layerStat layer s).step = spSTEP e.desc →
        exec (.sweepLayerComplete layer) s = .next (setJob j.id (fun j => { j with layers := layer :: j.layers }) s))
      ∧ ((layerStat layer s).step ≠ spSTEP e.desc → ∃ t, exec (.sweepLayerComplete layer) s = .next t ∧ t = commitLayer j e layer s
          ∧ (layerStat layer t).step = spSTEP e.desc
          ∧ (∀ k ∈ layerRecs e layer s, ∀ r, (j.results.find? (fun x => decide (x.1 = k))).bind (fun x => x.2) = some r →
              r.maxd ≤ (layerStat layer t).maxd)
          ∧ t.mem = s.mem ∧ t.inflight = s.inflight))
  ∧ (∀ (lam : Int) (mx : Nat), -128 ≤ lam → lam ≤ 127 →
    (mx < 0x33800000 → lam < 127 → nextLam lam mx = lam + 1)
    ∧ (0x4B800000 ≤ mx → -128 < lam → nextLam lam mx = lam - 1)
    ∧ (0x33800000 ≤ mx → mx < 0x4B800000 → nextLam lam mx = lam)
    ∧ -128 ≤ nextLam lam mx ∧ nextLam lam mx ≤ 127)

/-- PHASE_COUNTER_TICK and PHCTL_SNAP (R444, R468): every 1,024 counts of TR99 each live counter whose condition holds gains 1,024, modulo
2^64, and the others stay; before that nothing counts; SNAP copies the live counters to TRN.PHREP and clears them. CHKP_CARRIAGE_RECEIVE
(R351, R358, R456, R501): an armed receiver that is a member, with room in the units it offers on an open, own, unworn cartridge, stores the
image whole from the first unit on, disarms and shows DONE, unless the cartridge's wear counter wears it out first, when nothing is stored;
a receiver that is not armed, or has too few units, is left as it is. -/
def Obligations.PhasesAndCarriages : Prop :=
  (∀ s : State,
    (1024 ≤ licSince 99 s.phStamp s → fatal s = false → (regionOf 99 s).inReset = false → ∃ t, exec .phaseCounterTick s = .next t
      ∧ (∀ i, i < 10 → t.phLive.getD i 0 = (s.phLive.getD i 0 + if phaseHolds i s then 1024 else 0) % 2 ^ 64)
      ∧ t.phStamp = (s.phStamp + 1024) % 2 ^ 64 ∧ t.flds = s.flds ∧ t.mem = s.mem ∧ t.inflight = s.inflight)
    ∧ (licSince 99 s.phStamp s < 1024 → exec .phaseCounterTick s = .next s)
    ∧ (Served .late s → ∃ t, exec .phctlSnap s = .next t
      ∧ (∀ i, i < 10 → getF (TRN.PHREP_COUNT i) t = s.phLive.getD i 0 % 2 ^ 64 ∧ t.phLive.getD i 0 = 0)
      ∧ t.phStamp = s.phStamp ∧ t.mem = s.mem ∧ t.inflight = s.inflight))
  ∧ (∀ (src : Nat) (image : List Byte) (s : State),
    (ndAlive s = true → getF ND.NDSELF_MEMBER s = 1 → src ≠ ownNode s → (memberAt src s.nd.members).isSome = true →
      getF TRN.CKRECV_ARMED s = 1 → ceilDiv image.length 65536 ≤ getF TRN.CKRCOUNT_COUNT s → cartOpen (getF TRN.CKRECV_PORT s) s = true →
      getF (CART.CPSTAT_FOREIGN (getF TRN.CKRECV_PORT s)) s ≠ 1 → cartWorn (getF TRN.CKRECV_PORT s) s = false →
      getF TRN.CKRFIRST_UNIT s + ceilDiv image.length 65536 ≤ persistUnits (getF TRN.CKRECV_PORT s) s →
      (∀ v, putPersist (getF TRN.CKRECV_PORT s) (getF TRN.CKRFIRST_UNIT s) image s = (v, true) →
        exec (.chkpCarriageReceive src image) s = .next (setF TRN.STAT_CKRECVD 1 (setF TRN.CKRECV_DONE 1 (setF TRN.CKRECV_ARMED 0 v)))
        ∧ ∀ k (h : k < image.length), memByte (persistAddr (getF TRN.CKRECV_PORT s) (getF TRN.CKRFIRST_UNIT s) 0 s + k) v = image[k])
      ∧ ∀ v, putPersist (getF TRN.CKRECV_PORT s) (getF TRN.CKRFIRST_UNIT s) image s = (v, false) →
        exec (.chkpCarriageReceive src image) s = .next v ∧ v.mem = s.mem)
    ∧ (getF TRN.CKRECV_ARMED s ≠ 1 ∨ getF TRN.CKRCOUNT_COUNT s < ceilDiv image.length 65536 →
      exec (.chkpCarriageReceive src image) s = .next s))

/-! Links, transport, membership and collectives (chapter 13). -/

/-- The links (R471, R473, R475, R476, R507, R508): a write of DWCTL sets the mode and the floors, but a change of mode while the shutter is
not CLOSED is discarded with a record, and the reserved MINW 3 keeps MINW; a training that fails, or ends below its floors, leaves the link
failed with a record, and one that comes up shows its width and rate with fresh counters, and in link mode the node number of a known
partner; a trained link that loses lock trains once more; a link that is up sends the next flit of a class that has a packet and a credit,
or an idle flit. FLIT_RECEIVE, FRAME_RECEIVE and PRIORITY_FLOW_CONTROL_PAUSE_END (R472, R474 to R479, R509): codewords with up to 16 symbols
in error, 15 in Ethernet mode, count as corrected and others with errors as uncorrectable; a flit whose length, CRC, kind or class is wrong
is dropped and counted; a sound idle flit returns credits and retires what its counters show as lost; a sound data flit is counted, retired
and joined to its packet, and the packet of a last flit arrives whole; a frame of a wrong size or FCS changes nothing, one that pauses
priorities is obeyed, one for another station or of another protocol is dropped and counted, and the packet of one that passes every check
arrives; the end of a pause lets the waiting frames of its priority go. -/
def Obligations.LinksFlitsAndFrames : Prop :=
  (∀ (w : DoorwayNo) (s : State),
    (∀ v, Served .late s → v / 16 % 4 ≠ 3 → v % 2 = getF (DW.DWCTL_MODE w) s ∨ getF (GLB.SHUT_STATE (68 + w)) s = 0 →
      exec (.dwctlWrite w v) s = .next (setF (DW.DWCTL_MINW w) (v / 16 % 4) (setF (DW.DWCTL_MODE w) (v % 2)
        (setF (DW.DWCTL_NOFALL w) (v / 2 % 2) s))))
    ∧ (∀ v, Served .late s → v / 16 % 4 = 3 → v % 2 = getF (DW.DWCTL_MODE w) s ∨ getF (GLB.SHUT_STATE (68 + w)) s = 0 →
      exec (.dwctlWrite w v) s = .next (regAccessError (DW.DWCTL_MODE w).addr (setF (DW.DWCTL_MODE w) (v % 2)
        (setF (DW.DWCTL_NOFALL w) (v / 2 % 2) s))))
    ∧ (∀ v, Served .late s → v % 2 ≠ getF (DW.DWCTL_MODE w) s → getF (GLB.SHUT_STATE (68 + w)) s ≠ 0 →
      exec (.dwctlWrite w v) s = .next (regAccessError (DW.DWCTL_MODE w).addr s))
    ∧ (getF (DW.DWSTAT_LSTATE w) s = 1 → dwAlive w s = true →
        exec (.linkTrainingDone w .failed) s = .next (trainingFails w s)
        ∧ (∀ wd rt p, trainingAllowed w wd rt s = false → exec (.linkTrainingDone w (.up wd rt p)) s = .next (trainingFails w s))
        ∧ ∀ wd rt t, trainingAllowed w wd rt s = true → t = setDw w (fun a => { dwAuxInit with
            egress := a.egress.map (fun e => (e.1, e.2.1, 0)), arrived := a.arrived })
            (setF (DW.DWSTAT_LSTATE w) 2 (setF (DW.DWSTAT_WIDTH w) wd (setF (DW.DWSTAT_RATE w) rt s))) →
          exec (.linkTrainingDone w (.up wd rt none)) s = .next t
          ∧ ∀ n, exec (.linkTrainingDone w (.up wd rt (some n))) s
            = .next (if isEth w s then t else setF (DW.DWSTAT_PVALID w) 1 (setF (DW.DWSTAT_PARTNER w) n t)))
    ∧ (getF (DW.DWSTAT_LSTATE w) s = 2 → dwAlive w s = true →
        exec (.linkLockLoss w) s = .next (startTraining w (setDw w (fun a => { a with retrain := true }) s)))
    ∧ (isEth w s = false → dwOpen w s = true → dwAlive w s = true →
        (egressClass w (peep 6 w 1 1 s) = none → exec (.flitSend w) s = .next (emit (.link w (flitBytes 0 0 ((dwAuxOf w s).sent.getD 0 0 % 65536)
          (credField (dwAuxOf w s)) ((dwAuxOf w s).sent.flatMap (fun n => leBytes 2 n)))) (peep 6 w 1 1 s)))
        ∧ ∀ tc e, egressClass w (peep 6 w 1 1 s) = some tc → (dwAuxOf w s).egress.find? (fun e => decide (e.1 = tc)) = some e →
            ∃ t, exec (.flitSend w) s = .next t ∧ (dwAuxOf w t).egress = advanceEgress tc (dwAuxOf w s).egress
              ∧ (dwAuxOf w t).sent = (dwAuxOf w s).sent.set tc ((dwAuxOf w s).sent.getD tc 0 + 1) ∧ t.mem = s.mem))
  ∧ (∀ (w : DoorwayNo) (s : State), dwOpen w s = true → dwAlive w s = true →
    (isEth w s = false →
      (∀ f es, es ≠ [] → ∃ t, exec (.flitReceive w ⟨f, es⟩) s = .next t
        ∧ getF (DW.DWFECCOR_COUNT w) t = (getF (DW.DWFECCOR_COUNT w) s + (es.filter (fun n => decide (1 ≤ n ∧ n ≤ 16))).length) % 2 ^ 64
        ∧ getF (DW.DWFECUNC_COUNT w) t = (getF (DW.DWFECUNC_COUNT w) s + (es.filter (fun n => decide (16 < n))).length) % 2 ^ 64)
      ∧ (∀ f, f.length ≠ 640 ∨ crc32c (f.take 636) ≠ leAt f 636 4 ∨ 2 < leAt f 0 1 ∨ 2 < leAt f 1 1 →
        exec (.flitReceive w ⟨f, []⟩) s = .next (satF (DW.DWDROP_COUNT w) 1 (peep 6 w 2 1 s)))
      ∧ (∀ f, f.length = 640 → crc32c (f.take 636) = leAt f 636 4 → leAt f 0 1 = 0 → leAt f 1 1 ≤ 2 →
        exec (.flitReceive w ⟨f, []⟩) s = .next (forEach [0, 1, 2] (fun t s => retireGap w t (leAt f (8 + 2 * t) 2) s)
          (takeCredits w (leAt f 4 4) (peep 6 w 2 1 s))))
      ∧ ∀ f u p, f.length = 640 → crc32c (f.take 636) = leAt f 636 4 → leAt f 1 1 ≤ 2 →
        u = retireGap w (leAt f 1 1) (leAt f 2 2) (takeCredits w (leAt f 4 4) (peep 6 w 2 1 s)) →
        p = (dwAuxOf w u).making.getD (leAt f 1 1) [] ++ byteSlice f 8 628 →
        (leAt f 0 1 = 1 → exec (.flitReceive w ⟨f, []⟩) s = .next (setDw w (fun a => { a with
          retired := a.retired.set (leAt f 1 1) (a.retired.getD (leAt f 1 1) 0 + 1)
          next := a.next.set (leAt f 1 1) (a.next.getD (leAt f 1 1) 0 + 1)
          making := a.making.set (leAt f 1 1) p }) u))
        ∧ (leAt f 0 1 = 2 → exec (.flitReceive w ⟨f, []⟩) s = .next (arrive w (p.take (36 + pkLen p)) false (setDw w (fun a => { a with
          retired := a.retired.set (leAt f 1 1) (a.retired.getD (leAt f 1 1) 0 + 1)
          next := a.next.set (leAt f 1 1) (a.next.getD (leAt f 1 1) 0 + 1)
          making := a.making.set (leAt f 1 1) [] }) u))))
    ∧ (isEth w s = true →
      (∀ f es, es ≠ [] → ∃ t, exec (.frameReceive w ⟨f, es⟩) s = .next t
        ∧ getF (DW.DWFECCOR_COUNT w) t = (getF (DW.DWFECCOR_COUNT w) s + (es.filter (fun n => decide (1 ≤ n ∧ n ≤ 15))).length) % 2 ^ 64
        ∧ getF (DW.DWFECUNC_COUNT w) t = (getF (DW.DWFECUNC_COUNT w) s + (es.filter (fun n => decide (15 < n))).length) % 2 ^ 64)
      ∧ (∀ f, f.length < 64 ∨ 9216 < f.length ∨ crc32eth (f.take (f.length - 4)) ≠ leAt f (f.length - 4) 4 →
        exec (.frameReceive w ⟨f, []⟩) s = .next s)
      ∧ (∀ f, 64 ≤ f.length → f.length ≤ 9216 → crc32eth (f.take (f.length - 4)) = leAt f (f.length - 4) 4 →
        beNat (byteSlice (f.take (f.length - 4)) 12 2) = 0x8808 → beNat (byteSlice (f.take (f.length - 4)) 14 2) = 0x0101 →
        exec (.frameReceive w ⟨f, []⟩) s = .next (takePfc w (f.take (f.length - 4)) (peep 6 w 2 1 s)))
      ∧ (∀ f, 64 ≤ f.length → f.length ≤ 9216 → crc32eth (f.take (f.length - 4)) = leAt f (f.length - 4) 4 →
        beNat (byteSlice (f.take (f.length - 4)) 12 2) = 0x8808 → beNat (byteSlice (f.take (f.length - 4)) 14 2) ≠ 0x0101 →
        exec (.frameReceive w ⟨f, []⟩) s = .next (satF (DW.DWDROP_COUNT w) 1 (peep 6 w 2 1 s)))
      ∧ (∀ f g o udp ce u, u = peep 6 w 2 1 s → g = f.take (f.length - 4) → 64 ≤ f.length → f.length ≤ 9216 → crc32eth g = leAt f (f.length - 4) 4 →
        beNat (byteSlice g 12 2) ≠ 0x8808 → o = (if getF (DW.DWVLAN_VLANEN w) u = 1 then 18 else 14) →
        udp = byteSlice g (o + 40) (beNat (byteSlice g (o + 44) 2)) → ce = decide (beNat (byteSlice g o 2) / 16 % 4 = 3) →
        (byteSlice g 0 6 = macBytes (getF (DW.DWMAC_MAC w) u) → (beNat (byteSlice g 12 2) = 0x8100 ↔ getF (DW.DWVLAN_VLANEN w) u = 1) →
          beNat (byteSlice g (o - 2) 2) = 0x86DD → byteSlice g (o + 24) 16 = ipBytes w u → beNat (byteSlice g (o + 6) 1) = 17 →
          beNat (byteSlice udp 2 2) = getF (DW.DWETH_PORT w) u → 8 ≤ udp.length → beNat (byteSlice udp 6 2) ≠ 0 →
          beNat (byteSlice udp 6 2) = udpChecksum (byteSlice g (o + 8) 16) (ipBytes w u) (udp.take 6 ++ [0#8, 0#8] ++ udp.drop 8) →
          exec (.frameReceive w ⟨f, []⟩) s = .next (arrive w (udp.drop 8) ce
            (if ce then satF (DW.DWCE_COUNT w) 1 u else u)))
        ∧ (byteSlice g 0 6 ≠ macBytes (getF (DW.DWMAC_MAC w) u) ∨ ¬ (beNat (byteSlice g 12 2) = 0x8100 ↔ getF (DW.DWVLAN_VLANEN w) u = 1)
            ∨ beNat (byteSlice g (o - 2) 2) ≠ 0x86DD ∨ byteSlice g (o + 24) 16 ≠ ipBytes w u ∨ beNat (byteSlice g (o + 6) 1) ≠ 17
            ∨ beNat (byteSlice udp 2 2) ≠ getF (DW.DWETH_PORT w) u ∨ udp.length < 8 ∨ beNat (byteSlice udp 6 2) = 0
            ∨ beNat (byteSlice udp 6 2) ≠ udpChecksum (byteSlice g (o + 8) 16) (ipBytes w u) (udp.take 6 ++ [0#8, 0#8] ++ udp.drop 8) →
          exec (.frameReceive w ⟨f, []⟩) s = .next (satF (DW.DWDROP_COUNT w) 1 u)))
      ∧ ∀ prio : Fin 8, prio.val ∈ (dwAuxOf w s).paused → exec (.priorityFlowControlPauseEnd w prio) s = .next (drainFrames w
          (setDw w (fun a => { a with paused := a.paused.filter (fun p => decide (p ≠ prio.val)) }) s))))

/-- Flits and packets keep what is put into them (R475, R480): a flit has 640 bytes, its CRC holds, and its kind, class, FSEQ and CRED read
back; a packet's ICRC holds, and every field of its header and its payload read back. -/
def Obligations.FlitsAndPacketsRoundTrip : Prop :=
  (∀ (kind tc fseq cred : Nat) (data : List Byte), kind < 256 → tc < 256 → fseq < 2 ^ 16 → cred < 2 ^ 32 → data.length = 628 →
    (flitBytes kind tc fseq cred data).length = 640
    ∧ crc32c ((flitBytes kind tc fseq cred data).take 636) = leAt (flitBytes kind tc fseq cred data) 636 4
    ∧ leAt (flitBytes kind tc fseq cred data) 0 1 = kind ∧ leAt (flitBytes kind tc fseq cred data) 1 1 = tc
    ∧ leAt (flitBytes kind tc fseq cred data) 2 2 = fseq ∧ leAt (flitBytes kind tc fseq cred data) 4 4 = cred
    ∧ byteSlice (flitBytes kind tc fseq cred data) 8 628 = data)
  ∧ ∀ (kind flags src dst epoch psn tag bidx aux op fmt reason gen : Nat) (payload p : List Byte), kind < 16 → flags < 256 → src < 2 ^ 16 →
      dst < 2 ^ 16 → epoch < 2 ^ 32 → psn < 2 ^ 32 → tag < 2 ^ 32 → bidx < 2 ^ 32 → aux < 2 ^ 32 → op < 256 → fmt < 256 → reason < 256 →
      gen < 256 → payload.length < 2 ^ 16 → p = packetBytes kind flags src dst epoch psn tag bidx aux op fmt reason gen payload →
      pkSound p = true ∧ pkVer p = 1 ∧ pkType p = kind ∧ pkSrc p = src ∧ pkDst p = dst ∧ pkEpoch p = epoch ∧ pkPsn p = psn ∧ pkTag p = tag
      ∧ pkBidx p = bidx ∧ pkAux p = aux ∧ pkOp p = op ∧ pkFmt p = fmt ∧ pkReason p = reason ∧ pkGen p = gen ∧ pkTc p = flags % 4
      ∧ pkPayload p = payload

/-- DATA_SEND, PACKET_DATA, PACKET_ACK, PACKET_NACK, PACKET_TABLE and the timers (R480 to R484, R393, R396): a connection sends the oldest
waiting record with its next PSN while its window allows, and nothing once it is full; the packet expected next is handed on in order, a
later one within reach is kept and acknowledged, one already taken is acknowledged again, one too far ahead is dropped, and a CE mark is
noted; an ACK frees everything before AUX and sends again what it shows as missing; a NACK for a missing or corrupt packet sends it again,
one for a decoder that is not ready starts its time anew, and one for a generation sends the table first or ends the COLL; a TABLE packet
installs its table; and each timer acts once its time has passed, and not before. -/
def Obligations.TransportDelivers : Prop :=
  ∀ (w : DoorwayNo) (c : Conn) (s u : State), dwAlive w s = true → c.failed = false →
    (∀ peer r rest v, connOf w peer s = some c → dwOpen w s = true → c.queue = r :: rest →
      v = setConn w peer (fun c => { c with
        queue := rest, nextPsn := (c.nextPsn + 1) % 2 ^ 32, unacked := c.unacked ++ [⟨c.nextPsn, r, 1, licOf (dwRegion w) s⟩] }) s →
      (c.unacked.length < windowLimit c s → exec (.dataSend w peer) s = .next (sendPacket w r.tc (dataPacket c c.nextPsn false r v) v))
      ∧ (windowLimit c s ≤ c.unacked.length → exec (.dataSend w peer) s = .next s))
    ∧ (∀ pkt ce v, takeArrived w 0 pkt ce s = some u → connOf w (pkSrc pkt) u = some c →
      v = (if ce then setConn w (pkSrc pkt) (fun c => { c with ce := true }) u else u) →
      (pkPsn pkt = c.expect → pkPsn pkt < 2 ^ 32 → (∀ p ∈ c.window, p.1 ≠ pkPsn pkt) →
        exec (.packetData w pkt ce) s = .next (drainWindow w (pkSrc pkt) 257
          (setConn w (pkSrc pkt) (fun c => { c with window := c.window ++ [(pkPsn pkt, pkt)] }) v)))
      ∧ (0 < (pkPsn pkt + 2 ^ 32 - c.expect) % 2 ^ 32 → (pkPsn pkt + 2 ^ 32 - c.expect) % 2 ^ 32 ≤ 255 → (∀ p ∈ c.window, p.1 ≠ pkPsn pkt) →
        exec (.packetData w pkt ce) s = .next (sendAck w (pkSrc pkt)
          (setConn w (pkSrc pkt) (fun c => { c with window := c.window ++ [(pkPsn pkt, pkt)] }) v)))
      ∧ ((∃ p ∈ c.window, p.1 = pkPsn pkt) ∨ 2 ^ 31 ≤ (pkPsn pkt + 2 ^ 32 - c.expect) % 2 ^ 32 →
        exec (.packetData w pkt ce) s = .next (sendAck w (pkSrc pkt) v))
      ∧ (255 < (pkPsn pkt + 2 ^ 32 - c.expect) % 2 ^ 32 → (pkPsn pkt + 2 ^ 32 - c.expect) % 2 ^ 32 < 2 ^ 31 →
          (∀ p ∈ c.window, p.1 ≠ pkPsn pkt) → exec (.packetData w pkt ce) s = .next v))
    ∧ (∀ pkt ce gone left (dist : TxPkt → Nat) (missing : TxPkt → Bool), takeArrived w 1 pkt ce s = some u → connOf w (pkSrc pkt) u = some c →
      gone = c.unacked.filter (fun p => psnBefore p.psn (pkAux pkt)) → left = c.unacked.filter (fun p => !psnBefore p.psn (pkAux pkt)) →
      (∀ p, dist p = (p.psn + 2 ^ 32 - pkAux pkt) % 2 ^ 32) →
      (∀ p, missing p = true ↔ dist p < 256 ∧ leNat (pkPayload pkt) / 2 ^ dist p ≠ 0
        ∧ (dist p = 0 ∨ bitOf (leNat (pkPayload pkt)) (dist p - 1) = false)) →
      exec (.packetAck w pkt ce) s = .next (withFailures (fun _ => forEach (left.filter missing) (fun p s => resend w (pkSrc pkt) p.psn s)
        (ackPackets gone (setConn w (pkSrc pkt) (fun d => adjustCwnd (pkEce pkt) gone.length { d with unacked := left }) u))) s))
    ∧ (∀ pkt ce p v, takeArrived w 2 pkt ce s = some u → connOf w (pkSrc pkt) u = some c → v = peep 6 w 4 1 u →
      c.unacked.find? (fun p => decide (p.psn = pkAux pkt)) = some p →
      (pkReason pkt = 0 ∨ pkReason pkt = 2 → exec (.packetNack w pkt ce) s = .next (withFailures (fun _ => resend w (pkSrc pkt) (pkAux pkt) v) s))
      ∧ (pkReason pkt = 3 → exec (.packetNack w pkt ce) s = .next (withFailures (fun _ => setConn w (pkSrc pkt) (fun c => { c with
          unacked := updateWhere (fun x => decide (x.psn = pkAux pkt))
            (fun x => { x with sent := x.sent - 1, stamp := licOf (dwRegion w) v }) c.unacked }) v) s))
      ∧ ∀ x g q, pkReason pkt = 1 → p.body.coded = some (x, g, q) →
        (∀ t, liveTable x (pkGen pkt) v = some t → exec (.packetNack w pkt ce) s = .next (withFailures (fun _ => resend w (pkSrc pkt) (pkAux pkt)
          (sendPacket w 0 (packetBytes 3 0 (ownNode v) (pkSrc pkt) (epochOf v) 0 p.body.tag p.body.bidx 0 p.body.op p.body.fmt 0 t.gen
            (tableMessage t)) v)) s))
        ∧ ∀ j, liveTable x (pkGen pkt) v = none → j.commit = false →
          collOf p.body.tag (linkRecord 0 w [w.val, pkSrc pkt, pkGen pkt] v) = some j →
          exec (.packetNack w pkt ce) s = .next (withFailures (fun _ => failColl stCompGenMissing j
            (linkRecord 0 w [w.val, pkSrc pkt, pkGen pkt] v)) s))
    ∧ (∀ pkt ce j t x, takeArrived w 3 pkt ce s = some u → collOf (pkTag pkt) u = some j → recvCtx j w (pkSrc pkt) = some x →
      (readTable (pkPayload pkt) = some t → exec (.packetTable w pkt ce) s = .next (installTable x t (countTable w (pkPayload pkt).length u)))
      ∧ (readTable (pkPayload pkt) = none → exec (.packetTable w pkt ce) s = .next u))
    ∧ (∀ peer t, connOf w peer s = some c → c.rxStamp = some t →
      (rtoOf w s ≤ 4 * licSince (dwRegion w) t s → exec (.ackTimer w peer) s = .next (sendAck w peer s))
      ∧ (4 * licSince (dwRegion w) t s < rtoOf w s → exec (.ackTimer w peer) s = .next s))
    ∧ (∀ peer p l, connOf w peer s = some c → c.unacked = p :: l →
      (rtoOf w s ≤ licSince (dwRegion w) p.stamp s → exec (.rtoExpiry w peer) s = .next (withFailures (fun _ => resend w peer p.psn s) s))
      ∧ (licSince (dwRegion w) p.stamp s < rtoOf w s → exec (.rtoExpiry w peer) s = .next (withFailures id s)))
    ∧ (∀ peer t, connOf w peer s = some c → c.notready = some t →
      (rtoOf w s ≤ licSince (dwRegion w) t s →
        exec (.notreadyTimer w peer) s = .next (drainWindow w peer 257 (setConn w peer (fun c => { c with notready := none }) s)))
      ∧ (licSince (dwRegion w) t s < rtoOf w s → exec (.notreadyTimer w peer) s = .next s))

/-- The host's membership commands (R489 to R491, R515, R687), FORM and JOIN those of a device that is not RETIRED: FORM makes an epoch 1 of
this device alone; JOIN sends HELLO with a fresh nonce; LEAVE of a member that does not coordinate asks the coordinator, of a coordinator
with members left hands over to the lowest of them, and of one alone ends the membership; APPROVE and DENY answer the joiner that NDREQ
shows; EVICT asks for a change without the member; each in a state that does not allow it sets CMDERR alone; the node number can be written
only outside a membership. -/
def Obligations.MembershipCommands : Prop :=
  ∀ s : State, Served .late s →
    (getF ND.NDSELF_STATE s = 0 → lcState s ≠ 3 →
      exec .ndctlForm s = .next (openConns [ownMember s] (showEpoch 1 [ownMember s]
        (setNd (fun n => { n with members := [ownMember s], change := none }) s)))
      ∧ (∀ nj u, drawRandom 32 s = (nj, u) → exec .ndctlJoin s = .next (sendMember (getF ND.NDARG_NODE s)
          (.hello (ownMember (setNdState 1 (setNd (fun n => { n with nonce := nj, contact := getF ND.NDARG_NODE s, host := none }) u)))
            Config.certChain nj) (setNdState 1 (setNd (fun n => { n with nonce := nj, contact := getF ND.NDARG_NODE s, host := none }) u)))))
    ∧ (getF ND.NDSELF_STATE s ≠ 0 ∨ lcState s = 3 →
        exec .ndctlForm s = .next (setF ND.NDEVENT_CMDERR 1 s) ∧ exec .ndctlJoin s = .next (setF ND.NDEVENT_CMDERR 1 s))
    ∧ (∀ n, (getF ND.NDSELF_STATE s = 0 → exec (.ndselfWrite n) s = .next (setF ND.NDSELF_NODE n s))
        ∧ (getF ND.NDSELF_STATE s ≠ 0 → exec (.ndselfWrite n) s = .next (regAccessError ND.NDSELF_NODE.addr s)))
    ∧ (getF ND.NDSELF_STATE s ≠ 2 → exec .ndctlLeave s = .next (setF ND.NDEVENT_CMDERR 1 s))
    ∧ (getF ND.NDSELF_STATE s = 2 →
      (getF ND.NDSELF_COORD s = 0 → exec .ndctlLeave s = .next (sendMember (getF ND.NDCOORD_NODE s)
        (.handover (ownNode s) (epochOf s)) (setNdState 4 s)))
      ∧ (getF ND.NDSELF_COORD s = 1 → dropMember (ownNode s) s.nd.members = [] → exec .ndctlLeave s = .next (adoptEpoch 0 [] (endColls s)))
      ∧ (getF ND.NDSELF_COORD s = 1 → ∀ m l, dropMember (ownNode s) s.nd.members = m :: l →
          exec .ndctlLeave s = .next (sendMember m.node (.handover (ownNode s) (epochOf s))
            (refuseAll (setNdState 4 (setNd (fun n => { n with requests := [] }) s))))))
    ∧ (joinPending s = false → exec .ndctlApprove s = .next (setF ND.NDEVENT_CMDERR 1 s) ∧ exec .ndctlDeny s = .next (setF ND.NDEVENT_CMDERR 1 s))
    ∧ (∀ j u, joinPending s = true → takeJoiner s = (some j, u) →
        exec .ndctlApprove s = .next (proceed (setNd (fun n => { n with
          joiners := n.joiners.filter (fun x => decide (x.who.node ≠ j.who.node))
          requests := n.requests ++ [⟨j.who.node, some j.who, false⟩] }) u))
        ∧ exec .ndctlDeny s = .next (proceed (refuse j.who.node u)))
    ∧ (∀ n, getF ND.NDARG_NODE s = n →
      (∀ m, getF ND.NDSELF_COORD s = 1 → n ≠ ownNode s → memberAt n s.nd.members = some m →
        exec .ndctlEvict s = .next (proceed (setNd (fun a => { a with requests := a.requests ++ [⟨n, none, false⟩] }) s)))
      ∧ (getF ND.NDSELF_COORD s = 0 ∨ n = ownNode s ∨ memberAt n s.nd.members = none →
        exec .ndctlEvict s = .next (setF ND.NDEVENT_CMDERR 1 s)))

/-- The MEMBER packets (R490, R491): a HELLO whose signature and certificate hold is answered by the coordinator with a CHALLENGE and a
fresh nonce, and any other refused; another member forwards it; a sound CHALLENGE is answered with a PROOF, an unsound one ends the join; a
PROOF that does not verify, or of a member, is refused; a PREPARE of the next epoch ends the uncommitted COLLs and is answered with READY,
also by a node that leaves; a COMMIT of the prepared change adopts the epoch; REFUSED ends a join; a HANDOVER to the coordinator asks for a
change without its sender, and one from the coordinator makes its successor coordinator. -/
def Obligations.MemberPackets : Prop :=
  ∀ (p : MemberPacket) (s u : State), ndAlive s = true →
    (∀ j cert nonce nc, p.body = .hello j cert nonce → getF ND.NDSELF_MEMBER s = 1 →
      (getF ND.NDSELF_COORD s = 0 → exec (.hello p) s = .next (postMember (getF ND.NDCOORD_NODE s) p s))
      ∧ (getF ND.NDSELF_COORD s = 1 → signedBy j.key p = false ∨ p.sender ≠ j.node ∨ Config.certCheck cert j.key = false →
        exec (.hello p) s = .next (refuse j.node s))
      ∧ (getF ND.NDSELF_COORD s = 1 → signedBy j.key p = true → p.sender = j.node → Config.certCheck cert j.key = true →
        drawRandom 32 s = (nc, u) →
        exec (.hello p) s = .next (sendMember j.node (.challenge j.node (ownNode u) ownKey Config.certChain nc
          (Config.ed25519Sign identitySeed (Config.nonceMessage nonce j.node (ownNode u)))) (setNd (fun n => { n with
            joiners := n.joiners.filter (fun x => decide (x.who.node ≠ j.node)) ++ [⟨j, cert, nonce, nc, false⟩] }) u))))
    ∧ (∀ j c key cert nonce sig, p.body = .challenge j c key cert nonce sig → getF ND.NDSELF_STATE s = 1 → j = ownNode s →
      (signedBy key p = true → p.sender = c → Config.certCheck cert key = true →
        Config.ed25519Verify key (Config.nonceMessage s.nd.nonce j c) sig = true →
        exec (.challenge p) s = .next (sendMember c (.proof j (Config.ed25519Sign identitySeed (Config.nonceMessage nonce c j)))
          (setNd (fun n => { n with host := some (c, key) }) s)))
      ∧ (signedBy key p = false ∨ p.sender ≠ c ∨ Config.certCheck cert key = false
          ∨ Config.ed25519Verify key (Config.nonceMessage s.nd.nonce j c) sig = false → exec (.challenge p) s = .next (joinRefused s)))
    ∧ (∀ j sig x, p.body = .proof j sig → getF ND.NDSELF_COORD s = 1 → s.nd.joiners.find? (fun x => decide (x.who.node = j)) = some x →
      (signedBy x.who.key p = true → p.sender = j → Config.ed25519Verify x.who.key (Config.nonceMessage x.ours (ownNode s) j) sig = true →
        memberAt j s.nd.members = none → exec (.proof p) s = .next (showJoiner (setNd (fun n => { n with
          joiners := updateWhere (fun y => decide (y.who.node = j)) (fun y => { y with proven := true }) n.joiners }) s)))
      ∧ (signedBy x.who.key p = false ∨ p.sender ≠ j ∨ Config.ed25519Verify x.who.key (Config.nonceMessage x.ours (ownNode s) j) sig = false
          ∨ (memberAt j s.nd.members).isSome = true → exec (.proof p) s = .next (refuse j s)))
    ∧ (∀ epoch c ms, p.body = .prepare epoch c ms → getF ND.NDSELF_STATE s ≠ 0 → p.sender = c → c ≠ ownNode s → fromMember p s = true →
      (s.nd.members = [] ∨ epoch = nextEpoch s →
        u = endColls (setNdState 3 (setNd (fun n => { n with change := some ⟨epoch, c, ms,
          if (memberAt (ownNode s) ms).isSome then [] else [ownMember s], []⟩ }) s)) →
        exec (.prepare p) s = .next (sendMember c (.ready (ownMember u) epoch) u))
      ∧ (s.nd.members ≠ [] → epoch ≠ nextEpoch s → exec (.prepare p) s = .next s))
    ∧ (∀ m epoch c x, p.body = .ready m epoch → s.nd.change = some c → (c.members ++ c.old).find? (fun x => decide (x.node = p.sender)) = some x →
      c.coordinator = ownNode s → epoch = c.epoch → m.node = p.sender → m.key = x.key → signedBy x.key p = true →
      exec (.ready p) s = .next (proceed (finishChange (setNd (fun n => { n with
        change := some { c with
          members := if (memberAt m.node c.members).isSome then putMember m c.members else c.members
          ready := m.node :: c.ready } }) s))))
    ∧ (∀ epoch c ms ch, p.body = .commit epoch c ms → s.nd.change = some ch → getF ND.NDSELF_STATE s = 3 → ch.epoch = epoch →
      ch.coordinator = c → p.sender = c → c ≠ ownNode s → fromMember p s = true → exec (.commit p) s = .next (proceed (adoptEpoch epoch ms s)))
    ∧ (∀ j, p.body = .refused j → getF ND.NDSELF_STATE s = 1 → j = ownNode s →
      (∀ h, s.nd.host = some h → p.sender = h.1 ∧ signedBy h.2 p = true) → exec (.refused p) s = .next (joinRefused s))
    ∧ (∀ n epoch, p.body = .handover n epoch → p.sender = n → epoch = epochOf s → n ≠ ownNode s → fromMember p s = true →
      (getF ND.NDSELF_COORD s = 1 →
        exec (.handover p) s = .next (proceed (setNd (fun a => { a with requests := a.requests ++ [⟨n, none, true⟩] }) s)))
      ∧ (getF ND.NDSELF_COORD s = 0 → n = getF ND.NDCOORD_NODE s →
        ((dropMember n s.nd.members).map (fun m => m.node)).headD 65536 = ownNode s → getF ND.NDSELF_STATE s = 2 →
        exec (.handover p) s = .next (proceed (setNd (fun a => { a with requests := [⟨n, none, true⟩] })
          (setF ND.NDSELF_COORD 1 (setF ND.NDCOORD_NODE (ownNode s) s))))))

/-- COLL_BLOCK_REDUCE, COLL_DONE and COLL_COMMIT (R495, R496, R498): a block is reduced once every child's value has come, and not before;
rank 0 notes each member's DONE once; a member that has sent DONE commits its COLL when COMMIT comes, rank 0 once it has decided on COMMIT,
and a SEND or RECV once it is complete; each waits before that. -/
def Obligations.CollsCommit : Prop :=
  ∀ (tag : Nat) (j : CollJob) (s : State), collOf tag s = some j → alive s = true →
    (∀ v, hasReduce j = true → v < collSpan j → blockIn j.sums v = none → (regionOf (ceRegion (reduceEngine j v s)) s).inReset = false →
      ((∀ r ∈ childRanks j v, (fromChild j v r).isSome = true) → exec (.collBlockReduce tag v) s = .next (reduceNow j v s))
      ∧ ((∃ r ∈ childRanks j v, fromChild j v r = none) → exec (.collBlockReduce tag v) s = .next s))
    ∧ (∀ node, j.rank = 0 → j.op ≠ 4 → j.op ≠ 5 → node ≠ nodeOf j 0 → node ∈ j.group →
      (node ∉ j.dones → exec (.collDone tag node) s = .next (gatherDone { j with dones := node :: j.dones }
        (setColl j.id (fun j => { j with dones := node :: j.dones }) s)))
      ∧ (node ∈ j.dones → exec (.collDone tag node) s = .next s))
    ∧ (∀ may, may = (if j.op = 4 ∨ j.op = 5 then collComplete j s else if j.rank = 0 then j.commit else j.doneSent) →
      (may = true → exec (.collCommit tag) s = .next (commitColl j s))
      ∧ (may = false → exec (.collCommit tag) s = .next s))

/-! The image loader, the HDM window and the host interface (chapters 13 and 15). -/

/-- The loading of an image (R541, R542, R544, R545, R548, R568): LOAD checks ADDR and LEN and asks for the bytes; bytes that fail a check
end in STATE 8 with its code, and bytes that pass quiesce; nothing goes on while a descriptor is in flight; an UNLOAD then leaves no image;
a second reading with another digest ends in STATE 8 with code 24, and one with the same digest puts the image in force; ABORT gives code 23
up to STATE 4. PROGRAM_ENTRY_TAKE (R538, R539): the entry that comes next of a ready round enters flight on its port with its round and
index as sequence numbers, its descriptor patched, and the program stands after it; before the round is ready nothing is taken. -/
def Obligations.ImagesAndPrograms : Prop :=
  (∀ s : State,
    (Served .late s → loading s = false →
      ∃ t, exec .imgLoad s = .next t ∧ t.inflight = s.inflight ∧ t.image = s.image ∧ t.panes = s.panes ∧ t.mem = s.mem
        ∧ (getF IMG.ADDR_ADDR s % 64 ≠ 0 → getF IMG.STAT_STATE t = 8 ∧ getF IMG.ERR_CODE t = 1 ∧ t.out = s.out)
        ∧ (getF IMG.ADDR_ADDR s % 64 = 0 → lenAllowed (getF IMG.LEN_LEN s) = false →
            getF IMG.STAT_STATE t = 8 ∧ getF IMG.ERR_CODE t = 2 ∧ t.out = s.out)
        ∧ (getF IMG.ADDR_ADDR s % 64 = 0 → lenAllowed (getF IMG.LEN_LEN s) = true → busOk s = true →
            getF IMG.STAT_STATE t = 1 ∧ getF IMG.CTRL_LOAD t = 1
            ∧ t.out = ((imageRequests s).map (fun r => Out.hostRead r.1 r.2)).reverse ++ s.out
            ∧ ((imageRequests s).map (fun r => r.2)).sum = getF IMG.LEN_LEN s
            ∧ ∀ r ∈ imageRequests s, 0 < r.2 ∧ r.2 ≤ 512 ∧ r.1 % 4096 + r.2 ≤ 4096))
    ∧ (Served .late s → loading s = true → exec .imgLoad s = .next s ∧ exec .imgUnload s = .next s)
    ∧ (imgState s = 1 → loaderUp s = true →
        (∃ t, exec (.imgFetchDone none) s = .next t ∧ getF IMG.STAT_STATE t = 8 ∧ getF IMG.ERR_CODE t = 1 ∧ t.image = s.image)
        ∧ (∀ raw c r n, outerFault (getF IMG.LEN_LEN s) (byteSlice raw 0 (getF IMG.LEN_LEN s)) s = some (c, r, n) →
            exec (.imgFetchDone (some raw)) s = .next (loadFails c r n s))
        ∧ ∀ raw, outerFault (getF IMG.LEN_LEN s) (byteSlice raw 0 (getF IMG.LEN_LEN s)) s = none →
            innerFault (byteSlice raw 0 (getF IMG.LEN_LEN s)) = none →
            ∃ t, exec (.imgFetchDone (some raw)) s = .next t ∧ getF IMG.STAT_STATE t = 4 ∧ getF TIER.STAT_BUSY t = 1 ∧ t.image = s.image
              ∧ t.load = some ⟨some (parseImage (byteSlice raw 0 (getF IMG.LEN_LEN s))), none⟩)
    ∧ (s.inflight ≠ [] → exec .imgQuiesced s = .next s)
    ∧ (imgState s = 4 → loaderUp s = true → s.inflight = [] → getF TIER.CTRL_REPLACE s ≠ 1 →
        (s.load = some ⟨none, none⟩ → exec .imgQuiesced s = .next (unloadImage (setImgState 6 s)))
        ∧ ∀ im, s.load = some ⟨some im, none⟩ → ∀ p perr, planImage im (setImgState 5 s) = (p, perr) →
            (perr ≠ 0 → exec .imgQuiesced s = .next (loadFails (placeCode perr) 0 0 (setF TIER.STAT_PERR perr (setImgState 5 s))))
            ∧ (perr = 0 → exec .imgQuiesced s = .next (readImage (setImgState 6
                { setF TIER.STAT_PERR perr (setImgState 5 s) with load := some ⟨some im, some p⟩ }))))
    ∧ (∀ im p raw, imgState s = 6 → loaderUp s = true → s.load = some ⟨some im, some p⟩ →
        (sha512 ((byteSlice raw 0 (getF IMG.LEN_LEN s)).take ((byteSlice raw 0 (getF IMG.LEN_LEN s)).length - if im.signed then 128 else 0)) = im.digest →
          exec (.imgRefetchDone (some raw)) s = .next (installImage im p s) ∧ getF IMG.STAT_STATE (installImage im p s) = 7)
        ∧ (sha512 ((byteSlice raw 0 (getF IMG.LEN_LEN s)).take ((byteSlice raw 0 (getF IMG.LEN_LEN s)).length - if im.signed then 128 else 0)) ≠ im.digest →
          exec (.imgRefetchDone (some raw)) s = .next (loadFails 24 0 0 s))
        ∧ exec (.imgRefetchDone none) s = .next (loadFails 1 0 0 s))
    ∧ (∀ c r n, (loadFails c r n s).image = s.image ∧ (loadFails c r n s).inflight = s.inflight ∧ (loadFails c r n s).panes = s.panes
        ∧ getF IMG.STAT_STATE (loadFails c r n s) = 8 ∧ getF IMG.ERR_CODE (loadFails c r n s) = c % 256 ∧ (loadFails c r n s).load = none)
    ∧ (Served .late s → loading s = false →
        ∃ t, exec .imgUnload s = .next t ∧ getF IMG.STAT_STATE t = 4 ∧ getF IMG.CTRL_UNLOAD t = 1 ∧ getF TIER.STAT_BUSY t = 1
          ∧ t.inflight = s.inflight ∧ t.image = s.image)
    ∧ (Served .late s →
        (1 ≤ imgState s → imgState s ≤ 4 → exec .imgAbort s = .next (loadFails 23 0 0 s))
        ∧ (4 < imgState s ∨ imgState s = 0 → exec .imgAbort s = .next s)))
  ∧ (∀ (owner q i : Nat) (p : Program) (e : PEntry) (s : State), programOf owner s = some p → queueOf owner s = some q →
    (roundReady p (progOf owner s) s = true → nextEntry p (progOf owner s) s = some i → p.entries[i]? = some e →
      programMayTake q (dOpcode (patched e (progOf owner s).round s)) s = true →
      exec (.programEntryTake owner) s = .next (enterFlight e.target q ((progOf owner s).round % 2 ^ 32) i true
        (patched e (progOf owner s).round s) beginAny (setProg owner (afterEntry p (progOf owner s) i) s)))
    ∧ (roundReady p (progOf owner s) s = false → (progOf owner s).next = 0 → (progOf owner s).passed = [] →
      exec (.programEntryTake owner) s = .next s)
    ∧ ∀ d, qState q s ≠ qEnabled → programMayTake q d s = false)

/-- CXL_MEM_WRITE and CXL_MEM_READ (R615, R621): a line written through the window reads back as written, without poison unless the write
carried it, and every byte of memory outside the line's codeword bytes is as before; a line beyond the decoder changes nothing; a line on a
channel that is not open reads as poisoned and a write of it stores nothing. -/
def Obligations.WindowLinesReadBack : Prop :=
  ∀ (line : Nat) (data : List Byte) (poison : Bool) (s : State), data.length = 64 →
    (cxlMapped line s = true → unitOpen (winSlot s.winRuns (64 * line / 65536)).1 s = true →
      ∃ t u, exec (.cxlMemWrite line data poison) s = .next t ∧ exec (.cxlMemRead line) t = .next u
        ∧ u.out = .readReply data poison :: s.out ∧ t.inflight = s.inflight
        ∧ ∀ a, a < winAddr (64 * line) s ∨ winAddr (64 * line) s + 64 ≤ a → memByte a t = memByte a s)
    ∧ (cxlMapped line s = true → unitOpen (winSlot s.winRuns (64 * line / 65536)).1 s = false →
      ∃ t u, exec (.cxlMemWrite line data poison) s = .next t ∧ t.mem = s.mem ∧ t.poison = s.poison
        ∧ exec (.cxlMemRead line) s = .next u ∧ u.out = .readReply (winBytes (64 * line) 64 s) true :: s.out ∧ u.mem = s.mem)
    ∧ (cxlMapped line s = false → exec (.cxlMemWrite line data poison) s = .next s ∧ exec (.cxlMemRead line) s = .next s)

/-- The CXL link and the states of the window (R605, R606, R611, R612, R614, R619, R620, R624): a link that trains is up with its rate and
width; BAR4 answers Unsupported Request where memory space is not enabled, and else reads the window's bytes; a snoop finds nothing cached;
the window's size changes only while OFF; zeroing leaves every byte of the window's slots zero and the window READY; a release leaves it OFF
without slots; a decoder commits only the READY window's capacity, and EN cannot be cleared under a committed decoder. -/
def Obligations.WindowStates : Prop :=
  ∀ s : State,
    (inHold s = false → getF HOSTIF.LNKSTAT_UP s = 0 →
      (∀ wide rate, 1 ≤ rate → rate ≤ 3 → ∃ t, exec (.cxlLinkTrainingDone (.up wide rate)) s = .next t ∧ getF HOSTIF.LNKSTAT_UP t = 1
        ∧ getF HOSTIF.LNKSTAT_RATE t = rate ∧ getF HOSTIF.LNKSTAT_WIDE t = (if wide then 1 else 0)
        ∧ t = { s with flds := t.flds })
      ∧ exec (.cxlLinkTrainingDone .down) s = .next (errRecord clsHost 1 96 0 noUnit [] s))
    ∧ (getF HOSTIF.LNKSTAT_UP s = 1 → ∃ t, exec .cxlLinkDown s = .next t ∧ getF HOSTIF.LNKSTAT_UP t = 0
        ∧ t.inflight = s.inflight ∧ t.mem = s.mem ∧ t.image = s.image)
    ∧ (∀ off len w, ¬ Reached s → exec (.bar4Access off w len) s = .next (emit .unsupportedRequest s))
    ∧ (∀ off len, Reached s → alive s = true → off + len ≤ winLen s → winPoisonLines off len s = 0 →
        ∃ t, exec (.bar4Access off none len) s = .next t ∧ t.out.head? = some (.readReply (winBytes off len s) false) ∧ t.mem = s.mem)
    ∧ (∀ off len, Reached s → alive s = false →
        ∃ t, exec (.bar4Access off none len) s = .next t ∧ t.out.head? = some (.readReply (List.replicate len 0#8) false) ∧ t.mem = s.mem)
    ∧ (∀ off bs len, Reached s → alive s = true →
        exec (.bar4Access off (some bs) len) s = .next (winWrite off (bs.take (winLen s - off)) (peep 10 0 4 1 s)))
    ∧ (∀ a, exec (.hostSnoop a) s = .next (emit (.snoopMiss a) s))
    ∧ (Served .early s →
        (s.cfg.decoderCommitted = true → exec (.hdmctlEn false) s = .next (regAccessError HOSTIF.HDMCTL_EN.addr s))
        ∧ (winState s = winReady → s.cfg.decoderCommitted = false →
            exec (.hdmctlEn false) s = .next (setF HOSTIF.HDMSTAT_STATE winReleasing (setF HOSTIF.HDMCTL_EN 0 s)))
        ∧ (winState s = winOff → exec (.hdmctlEn true) s = .next (startWindow (setF HOSTIF.HDMCTL_EN 1 s)))
        ∧ (∀ n, winState s = winOff → n ≤ 16384 → exec (.hdmsizeWrite n) s = .next (setF HOSTIF.HDMSIZE_UNITS n s))
        ∧ (∀ n, winState s ≠ winOff ∨ 16384 < n → exec (.hdmsizeWrite n) s = .next (regAccessError HOSTIF.HDMSIZE_UNITS.addr s))
        ∧ (∀ n, winState s = winReady → n = winLen s → exec (.hdmDecoderCommit n) s = .next
            { s with cfg := { s.cfg with decoderCommitted := true, decoderSize := n, decoderError := false } })
        ∧ ∀ n, winState s ≠ winReady ∨ n ≠ winLen s → exec (.hdmDecoderCommit n) s = .next
            { s with cfg := { s.cfg with decoderCommitted := false, decoderSize := 0, decoderError := true } })
    ∧ (winState s = winZeroing → alive s = true → getF HOSTIF.HDMCTL_EN s = 1 →
        ∃ t, exec .hdmZeroingDone s = .next t ∧ winState t = winReady ∧ t.cdatSeq = s.cdatSeq + 1 ∧ t.winRuns = s.winRuns
          ∧ ∀ r ∈ s.winRuns, ∀ a, memAddr r.1 r.2.1 0 ≤ a → a < memAddr r.1 (r.2.1 + r.2.2) 0 → memByte a t = 0#8)
    ∧ (winState s = winReleasing → alive s = true → getF HOSTIF.HDMCTL_EN s = 0 → (∀ e ∈ s.inflight, namesWindow e = false) →
        ∃ t, exec .hdmReleaseDrained s = .next t ∧ winState t = winOff ∧ t.cdatSeq = s.cdatSeq + 1 ∧ t.winRuns = []
          ∧ t.inflight = s.inflight)

/-- MSI-X, DOE, SPDM and the function-level reset (R622 to R627, R686): a message held for a vector is sent when it is unmasked; a data
object is answered unless configuration space is not served or the error bit stands, and one longer than 64 KiB sets the error bit, which
ABORT clears; slot 0 alone holds a certificate chain; measurements are given one by one or all, signed where that is asked for; a request
that is not supported is answered with ERROR; a function-level reset drops what is in flight with its transfers, resets regions 0 to 71, and
returns each queue to DISABLED once nothing is in flight, and is counted. -/
def Obligations.HostProtocols : Prop :=
  ∀ s : State,
    (∀ v, Served .early s → v < 2048 → s.cfg.msixEnable = true → s.cfg.funcMask = false → busOk s = true → s.cfg.pendingVec = [v] →
      ∃ t, exec (.msixUnmask v) s = .next t ∧ t.cfg.pendingVec = [] ∧ v ∈ t.cfg.unmasked
        ∧ t.out = .msix v (msixAddr v s) (msixData v s) :: s.out)
    ∧ (∀ v, Served .early s → v < 2048 → s.cfg.msixEnable = false →
      exec (.msixUnmask v) s = .next { s with cfg := { s.cfg with unmasked := v :: s.cfg.unmasked.filter (fun w => decide (w ≠ v)) } })
    ∧ (configHeld s = false → exec .doeAbort s = .next { s with doeError := false })
    ∧ (configHeld s = false → ∀ index bytes, 65536 < bytes → exec (.doeDiscovery index bytes) s = .next { s with doeError := true }
        ∧ exec (.cdatTableAccess bytes) s = .next { s with doeError := true })
    ∧ (configHeld s = false → s.doeError = false →
        (∀ index bytes, bytes ≤ 65536 →
          exec (.doeDiscovery index bytes) s = .next (emit (.doe 0 (Config.otherStandard 0 (leBytes 1 index))) s)
          ∧ exec (.cdatTableAccess bytes) s = .next (emit (.doe 1 (Config.otherStandard 1 (cdatContent s))) s))
        ∧ exec .getVersion s = .next (emit (.doe 2 (Config.otherStandard 16 [0x12#8])) s)
        ∧ exec .getCapabilities s = .next (emit (.doe 2 (Config.otherStandard 17 [])) s)
        ∧ exec .negotiateAlgorithms s = .next (emit (.doe 2 (Config.otherStandard 18 [])) s)
        ∧ exec .getDigests s = .next (emit (.doe 2 (Config.otherStandard 19 (sha512 Config.certChain))) s)
        ∧ (∀ offset len, exec (.getCertificate 0 offset len) s
            = .next (emit (.doe 2 (Config.otherStandard 20 ((Config.certChain.drop offset).take len))) s))
        ∧ (∀ slot offset len nonce, slot ≠ 0 → exec (.getCertificate slot offset len) s = exec (.challengeSpdm slot nonce) s
            ∧ exec (.getCertificate slot offset len) s = .next (emit (.doe 2 (Config.otherStandard 127 [1#8, 0#8])) s))
        ∧ (∀ nonce own u, drawRandom 32 s = (own, u) → exec (.challengeSpdm 0 nonce) s = .next (emit (.doe 2 (Config.otherStandard 21
            (sha512 Config.certChain ++ own ++ Config.ed25519Sign identitySeed
              (Config.otherStandard 149 (nonce ++ (sha512 Config.certChain ++ own)))))) u))
        ∧ (∀ i nonce content, (i = 0 ∧ content = [6#8]) ∨ (1 ≤ i ∧ i ≤ 6 ∧ content = leBytes 1 i ++ measBlock i s)
              ∨ (i = 255 ∧ content = [1, 2, 3, 4, 5, 6].flatMap (fun k => leBytes 1 k ++ measBlock k s)) →
            exec (.getMeasurements i false nonce) s = .next (emit (.doe 2 (Config.otherStandard 22 content)) s)
            ∧ ∀ own u, drawRandom 32 s = (own, u) → exec (.getMeasurements i true nonce) s = .next (emit (.doe 2 (Config.otherStandard 22
                (content ++ own ++ Config.ed25519Sign identitySeed
                  (Config.otherStandard 150 ((leBytes 1 i ++ nonce) ++ (content ++ own)))))) u))
        ∧ (∀ i sg nonce, 6 < i → i ≠ 255 → exec (.getMeasurements i sg nonce) s = .next (emit (.doe 2 (Config.otherStandard 127 [1#8, 0#8])) s))
        ∧ ∀ code, exec (.spdmUnsupportedRequest code) s = .next (emit (.doe 2 (Config.otherStandard 127 (7#8 :: leBytes 1 code))) s))
    ∧ (configHeld s = true ∨ s.doeError = true → exec .getVersion s = .next s ∧ exec .getCapabilities s = .next s
        ∧ exec .negotiateAlgorithms s = .next s ∧ exec .getDigests s = .next s
        ∧ ∀ slot offset len i sg nonce code, exec (.getCertificate slot offset len) s = .next s ∧ exec (.challengeSpdm slot nonce) s = .next s
          ∧ exec (.getMeasurements i sg nonce) s = .next s ∧ exec (.spdmUnsupportedRequest code) s = .next s)
    ∧ (configHeld s = false →
        (alive s = true → exec .flr s = .next (forEach (List.range 72) resetRegion (forEach (List.range 72)
          (fun n u => dropTransfers n (s.inflight.map (fun e => e.id)) u) (flrDiscard { s with flrActive := true, doeError := false }))))
        ∧ (alive s = false → exec .flr s = .next { s with flrActive := true, doeError := false }))
    ∧ (s.flrActive = true → s.inflight = [] →
        ∃ t, exec .flrQuiesced s = .next t ∧ t.flrActive = false ∧ t.cfg = configReset s.cfg ∧ t.qaux = [] ∧ t.mem = s.mem
          ∧ (∀ q < 256, getF (CMDQ.QSTAT_STATE q) t = 0) ∧ getF HOSTIF.FLRCOUNT_COUNT t = satAdd HOSTIF.FLRCOUNT_COUNT.width (getF HOSTIF.FLRCOUNT_COUNT s) 1)
    ∧ (s.flrActive = false ∨ s.inflight ≠ [] → exec .flrQuiesced s = .next s)

/-! Arbiters, resets, shutters, the keyhole and the peephole (chapters 16 to 19). -/

/-- The arbiters (R635 to R638, R640, R644): the winner of a decision is a participant with the highest input number; a decision gives a
free resource to the winner; a parked owner that asks alone takes it without a decision; a memory queue that is granted is served; an owned
one stays with its owner while others ask; a release frees it and parks it when nobody else asks, but the owner of a full transom queue
keeps it; INPUTMAP takes a map without repeats and refuses any other with a record; a hold beyond HOLD counts is recorded, counted and ends
in a reset of the region. -/
def Obligations.ArbitersGrant : Prop :=
  (∀ (i : Nat) (ps : List Nat) (s : State), (ps ≠ [] → (winnerOf i s ps).isSome = true)
    ∧ ∀ w, winnerOf i s ps = some w → w ∈ ps ∧ ∀ r ∈ ps, inputOf i r s ≤ inputOf i w s)
  ∧ ∀ (i asking : Nat) (s u : State), (arbKind i).isSome = true → u = raise i asking s →
    (getF (ARB.STAT_OWNED i) u = 1 → exec (.arbDecision i asking) s = .next u)
    ∧ (getF (ARB.STAT_OWNED i) u ≠ 1 → getF (ARB.STAT_ASKING i) u ≠ 0 → (regionOf (arbRegion i) u).inReset = false → fatal u = false →
        (getF (ARB.STAT_PARKED i) u = 1 → getF (ARB.STAT_ASKING i) u = 2 ^ getF (ARB.STAT_OWNER i) u →
          exec (.arbDecision i asking) s = .next (serveGrant i (grant i (getF (ARB.STAT_OWNER i) u) u)))
        ∧ (getF (ARB.STAT_PARKED i) u ≠ 1 ∨ getF (ARB.STAT_ASKING i) u ≠ 2 ^ getF (ARB.STAT_OWNER i) u → ∀ w, winnerOf i u (participants i (getF (ARB.STAT_ASKING i) u) u).2 = some w →
          ∃ t, exec (.arbDecision i asking) s = .next (serveGrant i t) ∧ getF (ARB.STAT_OWNED i) t = 1 ∧ getF (ARB.STAT_OWNER i) t = w % 16
            ∧ getF (ARB.STAT_PARKED i) t = 0 ∧ t.inflight = s.inflight ∧ t.mem = s.mem))
    ∧ (arbQueue i = none → serveGrant i u = u)
    ∧ (∀ m c, arbQueue i = some (m, c) → serveGrant i u = serveNext m c u)
    ∧ (724 ≤ i → getF (CORE.MXSTAT_TRWAIT (i - 724)) u = 1 → exec (.arbRelease i asking) s = .next u)
    ∧ (getF (ARB.STAT_OWNED i) u = 1 → i < 724 ∨ getF (CORE.MXSTAT_TRWAIT (i - 724)) u = 0 → ∃ t, exec (.arbRelease i asking) s = .next t ∧ getF (ARB.STAT_OWNED i) t = 0
        ∧ (putBits (getF (ARB.STAT_ASKING i) u) (getF (ARB.STAT_OWNER i) u) 1 0 = 0 → getF (ARB.STAT_PARKED i) t = 1)
        ∧ (putBits (getF (ARB.STAT_ASKING i) u) (getF (ARB.STAT_OWNER i) u) 1 0 ≠ 0 → getF (ARB.STAT_PARKED i) t = 0)
        ∧ t.inflight = s.inflight ∧ t.mem = s.mem)
    ∧ (getF (ARB.STAT_OWNED i) u ≠ 1 → exec (.arbRelease i asking) s = .next u)
    ∧ (∀ v, Served .early s →
        (mapValid i v = true → exec (.inputmapWrite i v) s
          = .next (setF (ARB.INPUTMAP_MAP i) (v % 2 ^ (4 * arbReqs i)) (dropHeld (0x03400000 + i * 0x1000 + 8) s)))
        ∧ (mapValid i v = false → exec (.inputmapWrite i v) s
          = .next (regAccessError (0x03400000 + i * 0x1000 + 8) (dropHeld (0x03400000 + i * 0x1000 + 8) s))))
    ∧ (getF (ARB.STAT_OWNED i) s = 1 → fatal s = false → (regionOf (arbRegion i) s).inReset = false →
        ∀ hold, hold = licSince (arbRegion i) (assocGet 0 s.arbStamp i) s →
        (hold ≤ getF (ARB.HOLD_LIMIT i) s * 1024 → exec (.holdWatchdogBite i) s = .next s)
        ∧ (getF (ARB.HOLD_LIMIT i) s * 1024 < hold →
            exec (.holdWatchdogBite i) s = .next (resetRegion (arbRegion i) (satF (ARB.BITES_COUNT i) 1
              (trace 10 1 (arbRegion i) (i + getF (ARB.STAT_OWNER i) s * 2 ^ 16) hold
                (errRecord clsArbiter 1 (arbRegion i) 0 noUnit [i, getF (ARB.STAT_OWNER i) s, inputOf i (getF (ARB.STAT_OWNER i) s) s, hold] s))))))

/-- The resets that reach every region (R649, R650, R653, R654, R656, R667, R691, R722): POR_N, PERST_N, a warm reset and a life-cycle
change each leave every region in reset with its cause shown, nothing in flight, no image and every fuse as it was, and power-on an empty
error log; a reset asked for in the fatal state of a too hot device waits and starts once it has cooled; boot then starts where a pin holds
no longer, with the first manifest slot that is accepted, or stops with FAIL 1 or 2; and BOOT_READY ends it once every memory unit has
settled. Where boot starts (R654, R656, R681): a first slot that is accepted is the boot slot, whatever the second holds; a second one is,
with a record, where the first is not; with no slot accepted boot stops with FAIL 2 where a manifest is present and 1 where none is.
Power-on first replaces every spill key. -/
def Obligations.ResetsAndBoot : Prop :=
  ((∀ (cause : Nat) (s : State), cause ≤ 3 →
    (fullReset cause s).inflight = [] ∧ (fullReset cause s).image = none ∧ (fullReset cause s).pending = s.pending
    ∧ (fullReset cause s).otp = s.otp ∧ (∀ n : RegionNo, (regionOf n (fullReset cause s)).inReset = true)
    ∧ (cause = causePower → (fullReset cause s).errlog = [] ∧ getF GLB.STAT_CAUSE (fullReset cause s) = 0))
  ∧ ∀ (env : BootEnv) (s : State),
    exec .porNAssert s = .next (fullReset causePower { s with porAsserted := true })
    ∧ (s.porAsserted = true → s.perstAsserted = true → exec (.porNDeassert env) s = .next { s with porAsserted := false })
    ∧ (s.porAsserted = true → s.perstAsserted = false → exec (.porNDeassert env) s = .next (startBoot env { s with porAsserted := false }))
    ∧ (s.porAsserted = false → s.perstAsserted = false → tooHot s = false →
        exec .perstNAssert s = .next (fullReset causePerst { s with perstAsserted := true }))
    ∧ (s.porAsserted = false → s.perstAsserted = false → tooHot s = true →
        exec .perstNAssert s = .next { s with perstAsserted := true, awaited := 1 })
    ∧ (s.porAsserted = false → s.perstAsserted = true → s.awaited ≠ 1 →
        exec (.perstNDeassert env) s = .next (startBoot env { s with perstAsserted := false }))
    ∧ (Served .glb s →
        (tooHot s = false → exec (.warmReset env) s = .next (startBoot env (setF GLB.RESET_WARM 1 (fullReset causeWarm s))))
        ∧ (tooHot s = true → s.awaited ≠ 1 → exec (.warmReset env) s = .next (setF GLB.RESET_WARM 1 { s with awaited := 2 })))
    ∧ (fatal s = true → cooled s = true →
        (s.awaited = 2 → exec (.fatalThermalResetStart env) s = .next (warmReset env s))
        ∧ (s.awaited = 1 → (fullReset causePerst s).perstAsserted = true →
            exec (.fatalThermalResetStart env) s = .next (fullReset causePerst s))
        ∧ (s.awaited = 1 → (fullReset causePerst s).perstAsserted = false →
            exec (.fatalThermalResetStart env) s = .next (startBoot env (fullReset causePerst s))))
    ∧ (s.awaited = 0 ∨ cooled s = false → exec (.fatalThermalResetStart env) s = .next s)
    ∧ (s.lcPending = true →
        (exec (.lifeCycleRowProgrammed false env) s = .next (rowFailed s))
        ∧ (fatal s = true → exec (.lifeCycleRowProgrammed true env) s = .next (setF KEY.CMD_GO 0 (rowValid s)))
        ∧ (fatal s = false → exec (.lifeCycleRowProgrammed true env) s = .next (startBoot env (fullReset causeLife (rowValid s)))))
    ∧ (s.lcPending = false → ∀ b, exec (.lifeCycleRowProgrammed b env) s = .next s)
    ∧ (∀ j, s.boot = some j → 5 ≤ getF GLB.BOOT_STAGE s →
        ((∀ u < 32, muSettled u s = true) → exec .bootReady s = .next (driveShutters (setF GLB.BOOT_STAGE 8 { s with boot := none })))
        ∧ ((∃ u < 32, muSettled u s = false) → exec .bootReady s = .next s)))
  ∧ (∀ (env : BootEnv) (s : State),
    (∀ v u, v = (if getF GLB.STAT_CAUSE s = causePower then forEach (List.range 4) (fun p s => eraseSpill p 0 s) s else s) →
      u = setF GLB.BOOT_STAGE 2 { v with boot := some ⟨env, decide (getF GLB.STAT_CAUSE s = causePerst)⟩ } →
      (slotAccepted env.slotA env.compsA u = true → startBoot env s = bootVerified 0 env.slotA env.compsA u)
      ∧ (slotAccepted env.slotA env.compsA u = false → slotAccepted env.slotB env.compsB u = true →
        startBoot env s = bootVerified 1 env.slotB env.compsB (keyRecord 0 [0] u))
      ∧ (slotAccepted env.slotA env.compsA u = false → slotAccepted env.slotB env.compsB u = false →
        startBoot env s = bootFails (if mfMagic env.slotA || mfMagic env.slotB then 2 else 1) u))
    ∧ ∀ (k : Nat) (m : List Byte) (cs : List (List Byte)), k ≤ 1 →
      getF KEY.STAT_BOOTSLOT (bootVerified k m cs s) = k ∧ getF GLB.BOOT_STAGE (bootVerified k m cs s) = 3
      ∧ ∀ c, c ≤ 6 → getF GLB.BOOT_FAIL (bootFails c s) = c ∧ (bootFails c s).boot = none)

/-- Shutters, RUNMODE, ERRHEAD and ALERT_N (R659, R660, R662, R664, R734): a request is noted and each function follows its effective
request; an OPENING or CLOSING function whose work has ended is OPEN or CLOSED, and one whose work has not waits; RUNMODE takes a mode of 0
to 2, of which RETIRED takes only 0; ERRHEAD moves only up to ERRTAIL; the pulse on ALERT_N ends. -/
def Obligations.ShuttersFollowRequests : Prop :=
  ∀ s : State,
    (∀ (i : ShutterNo) (b : Bool), Served .glb s →
      (alive s = true → exec (.shutterReqWrite i b) s
        = .next (forEach shutOrder drive (setF (GLB.SHUT_REQ i) (if b then 1 else 0) s)))
      ∧ (alive s = false → exec (.shutterReqWrite i b) s = .next (setF (GLB.SHUT_REQ i) (if b then 1 else 0) s)))
    ∧ (∀ i : ShutterNo, alive s = true →
      (shutState i s = 1 → openingDone i s = true → exec (.shutterTransitionEnd i) s = .next (drive i (endOpening i (setShut i 2 s))))
      ∧ (shutState i s = 3 → closingDone i s = true → exec (.shutterTransitionEnd i) s = .next (drive i (endClosing i (setShut i 0 s))))
      ∧ (shutState i s = 1 → openingDone i s = false → exec (.shutterTransitionEnd i) s = .next s)
      ∧ (shutState i s = 3 → closingDone i s = false → exec (.shutterTransitionEnd i) s = .next s))
    ∧ (∀ (i : ShutterNo) (st : Nat) (u : State), (∀ b : Bool, shutState i u = (if b then 0 else 2) → effective i u = !b → drive i u = u)
        ∧ (st < 4 → getF (GLB.SHUT_STATE i) (setShut i st u) = st ∧ getF (GLB.SHUT_PEND i) (setShut i st u) = 0))
    ∧ (∀ m, Served .glb s →
      (m % 4 ≠ 3 → (lcState s = 3 → m % 4 = 0) → exec (.runmodeWrite m) s = .next (setF GLB.RUNMODE_MODE (m % 4) s))
      ∧ (m % 4 = 3 ∨ (lcState s = 3 ∧ m % 4 ≠ 0) → exec (.runmodeWrite m) s = .next (regAccessError GLB.RUNMODE_MODE.addr s)))
    ∧ (∀ slot, Served .glb s → slot < 1024 → getF GLB.ERRHEAD_SLOT s < 1024 →
      ((slot + 1024 - getF GLB.ERRHEAD_SLOT s) % 1024 ≤ (getF GLB.ERRTAIL_SLOT s + 1024 - getF GLB.ERRHEAD_SLOT s) % 1024 →
        exec (.errheadWrite slot) s = .next (setF GLB.ERRHEAD_SLOT slot s))
      ∧ ((getF GLB.ERRTAIL_SLOT s + 1024 - getF GLB.ERRHEAD_SLOT s) % 1024 < (slot + 1024 - getF GLB.ERRHEAD_SLOT s) % 1024 →
        exec (.errheadWrite slot) s = .next s))
    ∧ exec .alertNPulseEnd s = .next { s with alertPulse := false }

/-- The keyhole's commands (R666, R667, R682, R689, R691, R692, R698): a NONCE is 32 bytes and valid; a TRANSITION without one gives ERR 1,
and one whose checks fail their code, each with a record and no row programmed; a TRANSITION whose checks pass programs one row, not yet
valid; COMMITSVN raises the minimum to the version that booted, or gives ERR 2; REVOKE revokes a key that did not verify this boot, or gives
ERR 2; every command is discarded with ERR 6 while GO reads 1; and a failure of the keyhole's integrity is fatal with cause 2. -/
def Obligations.KeyholeCommands : Prop :=
  ∀ s : State, Served .late s →
    (getF KEY.CMD_GO s = 1 → exec .nonce s = .next (setF KEY.CMD_ERR 6 s) ∧ exec .transition s = .next (setF KEY.CMD_ERR 6 s)
      ∧ exec .commitsvn s = .next (setF KEY.CMD_ERR 6 s) ∧ exec .revoke s = .next (setF KEY.CMD_ERR 6 s))
    ∧ (getF KEY.CMD_GO s ≠ 1 →
      (∃ t, exec .nonce s = .next t ∧ getF KEY.STAT_NONCEV t = 1 ∧ getF KEY.CMD_ERR t = 0 ∧ t.otp = s.otp ∧ t.mem = s.mem
        ∧ arrayBytes KEY.NONCE_NONCE 8 t = (drawRandom 32 (setF KEY.CMD_CMD 1 s)).1)
      ∧ (getF KEY.STAT_NONCEV s ≠ 1 → ∃ t, exec .transition s = .next t ∧ getF KEY.CMD_ERR t = 1 ∧ t.otp = s.otp ∧ t.lcPending = s.lcPending)
      ∧ (∀ c, getF KEY.STAT_NONCEV s = 1 → lcErr (setF KEY.CMD_CMD 2 s) = c → c ≠ 0 →
        ∃ t, exec .transition s = .next t ∧ getF KEY.CMD_ERR t = c ∧ getF KEY.STAT_NONCEV t = 0 ∧ t.otp = s.otp ∧ t.lcPending = s.lcPending)
      ∧ (getF KEY.STAT_NONCEV s = 1 → lcErr (setF KEY.CMD_CMD 2 s) = 0 →
        ∃ t row, exec .transition s = .next t ∧ t.otp = { s.otp with rows := s.otp.rows ++ [row] } ∧ row.valid = false
          ∧ row.code = getF KEY.LCTARGET_TARGET s ∧ t.lcPending = true ∧ getF KEY.CMD_GO t = 1 ∧ getF KEY.STAT_NONCEV t = 0 ∧ lcState t = lcState s)
      ∧ (lcState s ≠ 3 → s.otp.svn < getF KEY.FWSTAT_SVN s →
        ∃ t, exec .commitsvn s = .next t ∧ t.otp = { s.otp with svn := getF KEY.FWSTAT_SVN s } ∧ getF KEY.CMD_ERR t = 0)
      ∧ (lcState s = 3 ∨ getF KEY.FWSTAT_SVN s ≤ s.otp.svn → exec .commitsvn s = .next (setF KEY.CMD_ERR 2 (setF KEY.CMD_CMD 3 s)))
      ∧ (lcState s ≠ 3 → getF KEY.LCTARGET_KEYIDX s ≠ getF KEY.FWSTAT_KEYIDX s → bitOf s.otp.revoked (getF KEY.LCTARGET_KEYIDX s) = false →
        ∃ t, exec .revoke s = .next t ∧ bitOf t.otp.revoked (getF KEY.LCTARGET_KEYIDX s) = true ∧ t.otp.rows = s.otp.rows
          ∧ t.otp.svn = s.otp.svn ∧ getF KEY.CMD_ERR t = 0)
      ∧ (lcState s = 3 ∨ getF KEY.LCTARGET_KEYIDX s = getF KEY.FWSTAT_KEYIDX s ∨ bitOf s.otp.revoked (getF KEY.LCTARGET_KEYIDX s) = true →
        exec .revoke s = .next (setF KEY.CMD_ERR 2 (setF KEY.CMD_CMD 4 s))))
    ∧ (inHold s = false → ∃ t, exec .keyholeIntegrityFailure s = .next t ∧ getF GLB.STAT_FATAL t = 1 ∧ getF GLB.STAT_FCAUSE t = 2
        ∧ t.mem = s.mem ∧ t.otp = s.otp)

/-- Counters and tracing (R706, R709 to R712, R714 to R716): a valid selection is stored in CNTSEL, and a KIND that does not exist leaves
KIND, with a record; CLR clears one counter and CNTCLR all; TREN starts a trace with empty pointers, and without a record waiting its end is
IDLE at once; the FIFO's records are written from TRTAIL on while there is room, up to 16 in one request, and without room the oldest is
dropped and counted; TRHEAD moves only up to TRTAIL; the ring's base and size change only while tracing is off and idle. -/
def Obligations.CountersAndTracing : Prop :=
  ∀ s : State, Served .late s →
    (∀ (c : CounterNo) (v : Nat), bitsOf v 24 4 < 14 → unitListed (bitsOf v 24 4) (bitsOf v 14 10) = true →
      1 ≤ bitsOf v 0 8 → bitsOf v 0 8 ≤ eventsOf (bitsOf v 24 4) →
      ∃ t, exec (.cntselWrite c v) s = .next t ∧ getF (PEEP.CNTSEL_EN c) t = bitsOf v 31 1 ∧ getF (PEEP.CNTSEL_KIND c) t = bitsOf v 24 4
        ∧ getF (PEEP.CNTSEL_UNIT c) t = bitsOf v 14 10 ∧ getF (PEEP.CNTSEL_EVENT c) t = bitsOf v 0 8 ∧ t.errlog = s.errlog)
    ∧ (∀ (c : CounterNo) (v : Nat), 14 ≤ bitsOf v 24 4 → getF (PEEP.CNTSEL_KIND c) s < 16 →
      ∃ t, exec (.cntselWrite c v) s = .next t ∧ getF (PEEP.CNTSEL_KIND c) t = getF (PEEP.CNTSEL_KIND c) s ∧ t.errSeq ≠ s.errSeq)
    ∧ (∀ c : CounterNo, exec (.cntselClr c) s = .next (setF (PEEP.CNT_COUNT c) 0 s))
    ∧ (∃ t, exec .peepCntclr s = .next t ∧ (∀ c < 0x1000, getF (PEEP.CNT_COUNT c) t = 0) ∧ t = { s with flds := t.flds }
        ∧ ∀ f : Fld, isCounterKey f.key = false → getF f t = getF f s)
    ∧ (getF PEEP.CTRL_TREN s ≠ 1 → ∃ t, exec .traceEnable s = .next t ∧ getF PEEP.CTRL_TREN t = 1 ∧ getF PEEP.TRSTAT_IDLE t = 0
        ∧ getF PEEP.TRHEAD_SLOT t = 0 ∧ getF PEEP.TRTAIL_SLOT t = 0 ∧ getF PEEP.TRLOST_COUNT t = 0 ∧ t.traceSeq = 0 ∧ t.tracePhase = true)
    ∧ (getF PEEP.CTRL_TREN s = 1 → exec .traceEnable s = .next s)
    ∧ (∃ t, exec .traceDisable s = .next t ∧ getF PEEP.CTRL_TREN t = 0 ∧ (s.fifo = [] → getF PEEP.TRSTAT_IDLE t = 1) ∧ t.fifo = s.fifo)
    ∧ (∀ r rest, s.fifo = r :: rest → busOk s = true → 0 < traceRoom s → lostRecord s = none → getF PEEP.TRTAIL_SLOT s < traceSize s →
      ∃ t n, exec .traceRingWrite s = .next t ∧ 1 ≤ n ∧ n ≤ 16 ∧ n ≤ traceRoom s ∧ t.fifo = s.fifo.drop n
        ∧ .hostWrite (getF PEEP.TRBASE_ADDR s * 2 ^ 12 + 32 * getF PEEP.TRTAIL_SLOT s)
            ((s.fifo.take n).flatMap (fun x => traceBytes x s.tracePhase)) ∈ t.out)
    ∧ (∀ r rest, s.fifo = r :: rest → busOk s = false ∨ traceRoom s = 0 →
      exec .traceRingWrite s = .next (traceIdle (setF PEEP.TRSTAT_FILL rest.length (traceDropHead r { s with fifo := rest })))
      ∧ (r.cls ≠ 15 → getF PEEP.TRLOST_COUNT (traceDropHead r s) = satAdd PEEP.TRLOST_COUNT.width (getF PEEP.TRLOST_COUNT s) 1))
    ∧ (∀ slot, slot < traceSize s → (slot + traceSize s - getF PEEP.TRHEAD_SLOT s) % traceSize s
          ≤ (getF PEEP.TRTAIL_SLOT s + traceSize s - getF PEEP.TRHEAD_SLOT s) % traceSize s →
        exec (.trheadWrite slot) s = .next (setF PEEP.TRHEAD_SLOT slot s))
    ∧ (∀ slot, traceSize s ≤ slot → exec (.trheadWrite slot) s = .next s)
    ∧ (getF PEEP.CTRL_TREN s ≠ 1 → getF PEEP.TRSTAT_IDLE s = 1 →
        (∀ v, exec (.traceConfigWrite .trbase v) s = .next (setF PEEP.TRBASE_ADDR (bitsOf v 12 52) (dropHeld 0x02000010 s)))
        ∧ ∀ v, (7 ≤ bitsOf v 0 5 → bitsOf v 0 5 ≤ 20 →
            exec (.traceConfigWrite .trring v) s = .next (setF PEEP.TRRING_LOG2 (bitsOf v 0 5) (dropHeld 0x02000018 s)))
          ∧ (bitsOf v 0 5 < 7 ∨ 20 < bitsOf v 0 5 →
            exec (.traceConfigWrite .trring v) s = .next (regAccessError 0x02000018 (dropHeld 0x02000018 s))))
    ∧ (getF PEEP.CTRL_TREN s = 1 → ∀ v, exec (.traceConfigWrite .trbase v) s = .next (regAccessError 0x02000010 (dropHeld 0x02000010 s))
        ∧ exec (.traceConfigWrite .trring v) s = .next (regAccessError 0x02000018 (dropHeld 0x02000018 s)))

end
end

