-- ==== Sys2Proof/Laws/Assoc.lean ====
section
/-! SUPPORT. The laws of sparse maps: reading after a write, elsewhere, and the canonical form. -/

namespace Sys2Proof.Machine

set_option Elab.async false

theorem assocGet_append_left {α : Type} (d : α) (a b : List (Nat × α)) (n : Nat) (h : ∀ p ∈ a, p.1 ≠ n) :
    assocGet d (a ++ b) n = assocGet d b n := by
  induction a with
  | nil => rfl
  | cons p t ih =>
    have hp : p.1 ≠ n := h p (by simp)
    simp only [List.cons_append, assocGet, hp, if_false]
    exact ih (fun q hq => h q (by simp [hq]))

theorem assocGet_none {α : Type} (d : α) (a : List (Nat × α)) (n : Nat) (h : ∀ p ∈ a, p.1 ≠ n) : assocGet d a n = d := by
  have := assocGet_append_left d a [] n h
  simpa [assocGet] using this

theorem assocGet_append_right {α : Type} (d : α) (a b : List (Nat × α)) (n : Nat) (h : ∀ p ∈ b, p.1 ≠ n) :
    assocGet d (a ++ b) n = assocGet d a n := by
  induction a with
  | nil => simpa [assocGet] using assocGet_none d b n h
  | cons p t ih =>
    simp only [List.cons_append, assocGet]
    split <;> simp_all

theorem assocGet_filter {α : Type} (d : α) (p : Nat × α → Bool) (t : List (Nat × α)) (n : Nat)
    (h : ∀ v, p (n, v) = true) : assocGet d (t.filter p) n = assocGet d t n := by
  induction t with
  | nil => rfl
  | cons q t ih =>
    by_cases hq : p q = true
    · simp only [List.filter_cons, hq, if_true, assocGet, ih]
    · have hne : q.1 ≠ n := fun e => hq (by have := h q.2; rwa [← e] at this)
      simp [hq, assocGet, hne, ih]

/-- Reading a key outside a replaced range. -/
theorem assocGet_splice_out {α : Type} (d : α) (t mid : List (Nat × α)) (lo hi n : Nat) (hn : n < lo ∨ hi ≤ n) (hlh : lo ≤ hi)
    (hm : ∀ p ∈ mid, lo ≤ p.1 ∧ p.1 < hi) : assocGet d (assocSplice t lo hi mid) n = assocGet d t n := by
  unfold assocSplice
  rcases hn with h | h
  · rw [assocGet_append_right, assocGet_append_right, assocGet_filter]
    · intro v; simpa using h
    · intro p hp; have := hm p hp; omega
    · intro p hp; simp at hp; omega
  · rw [assocGet_append_left, assocGet_filter]
    · intro v; simpa using h
    · intro p hp
      simp only [List.mem_append, List.mem_filter, decide_eq_true_eq] at hp
      rcases hp with hp | hp
      · omega
      · have := hm p hp; omega

/-- Reading a key inside a replaced range reads the entries put there. -/
theorem assocGet_splice_in {α : Type} (d : α) (t mid : List (Nat × α)) (lo hi n : Nat) (h1 : lo ≤ n) (h2 : n < hi) :
    assocGet d (assocSplice t lo hi mid) n = assocGet d mid n := by
  unfold assocSplice
  rw [assocGet_append_right, assocGet_append_left]
  · intro p hp; simp at hp; omega
  · intro p hp; simp at hp; omega

theorem assocGet_set_self {α : Type} [DecidableEq α] (d : α) (t : List (Nat × α)) (n : Nat) (v : α) :
    assocGet d (assocSet d t n v) n = v := by
  unfold assocSet
  rw [assocGet_splice_in _ _ _ _ _ _ (Nat.le_refl n) (Nat.lt_succ_self n)]
  split <;> simp_all [assocGet]

theorem assocGet_set_ne {α : Type} [DecidableEq α] (d e : α) (t : List (Nat × α)) (n m : Nat) (v : α) (h : m ≠ n) :
    assocGet d (assocSet e t n v) m = assocGet d t m := by
  unfold assocSet
  apply assocGet_splice_out
  · omega
  · omega
  · intro p hp
    split at hp <;> simp_all

theorem assocGet_modify_self {α : Type} [DecidableEq α] (d : α) (t : List (Nat × α)) (n : Nat) (f : α → α) :
    assocGet d (assocModify d t n f) n = f (assocGet d t n) := assocGet_set_self d t n _

theorem assocGet_modify_ne {α : Type} [DecidableEq α] (d e : α) (t : List (Nat × α)) (n m : Nat) (f : α → α) (h : m ≠ n) :
    assocGet d (assocModify e t n f) m = assocGet d t m := assocGet_set_ne d e t n m _ h

/-! The canonical form. -/

/-- Keys of the list lie from `lo` to `hi - 1`, rise strictly, and no entry is the default. -/
def assocIn {α : Type} [DecidableEq α] (d : α) (lo hi : Nat) (t : List (Nat × α)) : Prop :=
  (∀ p ∈ t, p.2 ≠ d ∧ lo ≤ p.1 ∧ p.1 < hi) ∧ t.Pairwise (fun p q => p.1 < q.1)

theorem assocWf_cons {α : Type} [DecidableEq α] (d : α) (p : Nat × α) (t : List (Nat × α)) :
    assocWf d (p :: t) = true ↔ p.2 ≠ d ∧ (∀ q ∈ t, p.1 < q.1) ∧ assocWf d t = true := by
  induction t generalizing p with
  | nil => simp [assocWf]
  | cons q t ih =>
    simp only [assocWf, Bool.and_eq_true, decide_eq_true_eq, List.mem_cons, forall_eq_or_imp]
    constructor
    · rintro ⟨⟨h1, h2⟩, h3⟩
      have h4 := (ih q).1 h3
      exact ⟨h1, ⟨h2, fun r hr => Nat.lt_trans h2 (h4.2.1 r hr)⟩, h3⟩
    · rintro ⟨h1, ⟨h2, _⟩, h3⟩
      exact ⟨⟨h1, h2⟩, h3⟩

/-- The canonical form as a property of the entries. -/
theorem assocWf_iff {α : Type} [DecidableEq α] (d : α) (t : List (Nat × α)) :
    assocWf d t = true ↔ (∀ p ∈ t, p.2 ≠ d) ∧ t.Pairwise (fun p q => p.1 < q.1) := by
  induction t with
  | nil => simp [assocWf]
  | cons p t ih =>
    rw [assocWf_cons, ih, List.pairwise_cons]
    constructor
    · rintro ⟨h1, h2, h3, h4⟩
      exact ⟨by simpa using ⟨h1, fun a b hab => h3 (a, b) hab⟩, h2, h4⟩
    · rintro ⟨h1, h2, h3⟩
      exact ⟨h1 p (by simp), h2, fun q hq => h1 q (by simp [hq]), h3⟩

/-- Replacing a range by rising entries inside it keeps the canonical form. -/
theorem assocWf_splice {α : Type} [DecidableEq α] (d : α) (t mid : List (Nat × α)) (lo hi : Nat) (hlh : lo ≤ hi)
    (ht : assocWf d t = true) (hm : assocIn d lo hi mid) : assocWf d (assocSplice t lo hi mid) = true := by
  rw [assocWf_iff] at *
  unfold assocSplice
  refine ⟨?_, ?_⟩
  · intro p hp
    simp only [List.mem_append, List.mem_filter] at hp
    rcases hp with (hp | hp) | hp
    · exact ht.1 p hp.1
    · exact (hm.1 p hp).1
    · exact ht.1 p hp.1
  · rw [List.pairwise_append, List.pairwise_append]
    refine ⟨⟨ht.2.filter _, hm.2, ?_⟩, ht.2.filter _, ?_⟩
    · intro p hp q hq
      simp at hp
      have := (hm.1 q hq).2
      omega
    · intro p hp q hq
      simp only [List.mem_append, List.mem_filter, decide_eq_true_eq] at hp hq
      rcases hp with hp | hp
      · omega
      · have := (hm.1 p hp).2
        omega

/-- Removing a range keeps the canonical form. -/
theorem assocWf_erase {α : Type} [DecidableEq α] (d : α) (t : List (Nat × α)) (lo hi : Nat) (ht : assocWf d t = true) :
    assocWf d (t.filter (fun p => decide (p.1 < lo)) ++ t.filter (fun p => decide (max lo hi ≤ p.1))) = true := by
  have := assocWf_splice d t [] lo (max lo hi) (Nat.le_max_left _ _) ht ⟨by simp, List.Pairwise.nil⟩
  simpa [assocSplice] using this

theorem assocWf_set {α : Type} [DecidableEq α] (d : α) (t : List (Nat × α)) (n : Nat) (v : α) (ht : assocWf d t = true) :
    assocWf d (assocSet d t n v) = true := by
  unfold assocSet
  apply assocWf_splice _ _ _ _ _ (by omega) ht
  split
  · exact ⟨by simp, List.Pairwise.nil⟩
  · refine ⟨?_, by simp⟩
    intro p hp; simp at hp; subst hp; simp_all

end Sys2Proof.Machine
end

