-- ==== Sys2Proof/Laws/Fuses.lean ====
section
/-! SUPPORT. Fuses that are kept: the order on the one-time programmable memory and the ways in which it grows. -/

namespace Sys2Proof.Machine

set_option Elab.async false

theorem FusesKept.refl (a : Otp) : FusesKept a a :=
  ⟨Nat.le_refl _, fun _ h => h, fun _ r h => ⟨r, h, rfl, rfl, rfl, fun h => h⟩⟩

theorem FusesKept.trans {a b c : Otp} (h : FusesKept a b) (k : FusesKept b c) : FusesKept a c :=
  ⟨Nat.le_trans h.1 k.1, fun i hi => k.2.1 i (h.2.1 i hi), fun i r hr => by
    obtain ⟨r1, h1, h2, h3, h4, h5⟩ := h.2.2 i r hr
    obtain ⟨r2, k1, k2, k3, k4, k5⟩ := k.2.2 i r1 h1
    exact ⟨r2, k1, k2.trans h2, k3.trans h3, k4.trans h4, fun hv => k5 (h5 hv)⟩⟩

theorem indexFrom_get {α : Type} (l : List α) (n i : Nat) : (indexFrom n l)[i]? = l[i]?.map (fun x => (n + i, x)) := by
  induction l generalizing n i with
  | nil => simp [indexFrom]
  | cons a t ih =>
    cases i with
    | zero => simp [indexFrom]
    | succ j => simp [indexFrom, ih]; cases t[j]? <;> simp; omega

theorem fuses_append (a : Otp) (r : LcRow) : FusesKept a { a with rows := a.rows ++ [r] } :=
  ⟨Nat.le_refl _, fun _ h => h, fun i x h => by
    obtain ⟨hi, -⟩ := List.getElem?_eq_some_iff.1 h
    exact ⟨x, by simp [List.getElem?_append_left hi, h], rfl, rfl, rfl, fun h => h⟩⟩

theorem fuses_valid (a : Otp) (n : Nat) :
    FusesKept a { a with rows := (indexFrom 0 a.rows).map (fun r => if r.1 = n then { r.2 with valid := true } else r.2) } :=
  ⟨Nat.le_refl _, fun _ h => h, fun i x h => by
    refine ⟨if i = n then { x with valid := true } else x, ?_, ?_⟩
    · simp [indexFrom_get, h]
    · split <;> simp⟩

theorem fuses_svn (a : Otp) (v : Nat) (h : a.svn ≤ v) : FusesKept a { a with svn := v } :=
  ⟨h, fun _ h => h, fun _ r h => ⟨r, h, rfl, rfl, rfl, fun h => h⟩⟩

theorem bitOf_testBit (v i : Nat) : bitOf v i = v.testBit i := by
  rw [Nat.testBit_eq_decide_div_mod_eq]; rfl

theorem fuses_revoked (a : Otp) (k : Nat) : FusesKept a { a with revoked := a.revoked ||| 2 ^ k } :=
  ⟨Nat.le_refl _, fun i h => by simp only [bitOf_testBit, Nat.testBit_or] at h ⊢; simp [h],
    fun _ r h => ⟨r, h, rfl, rfl, rfl, fun h => h⟩⟩
end Sys2Proof.Machine
end

