-- ==== Sys2Proof/Laws/MemBase.lean ====
section
/-! SUPPORT. The memory of a state that keeps every byte is canonical when the old one is. -/

namespace Sys2Proof.Machine

set_option Elab.async false

theorem MemOk.of_eq {s t : State} (h : t.mem = s.mem) (hs : MemOk s) : MemOk t := by unfold MemOk; rw [h]; exact hs

/-- A state written out field by field. -/
theorem mem_mk {x0 : List (Nat × Nat)} {x1 : List (Nat × Nat)} {x2 : List (Nat × Nat)} {m : List Host.Cell} {x4 : List
    Nat} {x5 : List (Nat × PaneLoc)} {x6 : List (Nat × Nat)} {x7 : List (Nat × Nat)} {x8 : Option Image} {x9 : List
    (Nat × Region)} {x10 : List (Nat × Hinge)} {x11 : List (Nat × ErrRec)} {x12 : Nat} {x13 : Cfg} {x14 : List
    InFlight} {x15 : List (Nat × QAux)} {x16 : List (Nat × ProgState)} {x17 : List TraceRec} {x18 : Nat} {x19 : Option
    (Nat × Nat)} {x20 : Bool} {x21 : Nat} {x22 : Bool} {x23 : List (Nat × Nat)} {x24 : List Nat} {x25 : List (Nat ×
    Nat)} {x26 : List WorkCopy} {x27 : List (Nat × MxRun)} {x28 : List (Nat × VxRun)} {x29 : List (Nat × List
    TrEntry)} {x30 : List EncBlk} {x31 : Placed} {x32 : List Cover} {x33 : List (Nat × Nat × Nat)} {x34 : List (Nat ×
    MuAux)} {x35 : List (Nat × RowAddr × Bool)} {x36 : List (Nat × Nat)} {x37 : List (Nat × CartAux)} {x38 : Otp} {x39
    : Bool} {x40 : List MeasEntry} {x41 : Nat} {x42 : Bool} {x43 : NdAux} {x44 : List (Nat × CompCtx)} {x45 : List
    CompJob} {x46 : List Nat} {x47 : List (Nat × Nat)} {x48 : List (Nat × Nat)} {x49 : List (Nat × DwAux)} {x50 : List
    Conn} {x51 : List CollJob} {x52 : List Nat} {x53 : List (Nat × Nat)} {x54 : List (Nat × LayerStat)} {x55 : List
    (Nat × SweepRec)} {x56 : List JournalGroup} {x57 : List SweepJob} {x58 : List Nat} {x59 : Nat} {x60 : Option
    LoadJob} {x61 : Bool} {x62 : Bool} {x63 : Bool} {x64 : Bool} {x65 : Nat} {x66 : Option BootJob} {x67 : Nat} {x68 :
    List Out} {x69 : Nat} {x70 : Nat} {x71 : List Instr} (h : assocWf memDefault m = true) : MemOk (State.mk x0 x1 x2
    m x4 x5 x6 x7 x8 x9 x10 x11 x12 x13 x14 x15 x16 x17 x18 x19 x20 x21 x22 x23 x24 x25 x26 x27 x28 x29 x30 x31 x32
    x33 x34 x35 x36 x37 x38 x39 x40 x41 x42 x43 x44 x45 x46 x47 x48 x49 x50 x51 x52 x53 x54 x55 x56 x57 x58 x59 x60
    x61 x62 x63 x64 x65 x66 x67 x68 x69 x70 x71) := h

/-- What holds of both arms of an `if` holds of it. -/
theorem ite_keep {α : Type} {P : α → Prop} {p : Prop} [Decidable p] {x y : α} (hx : P x) (hy : P y) : P (if p then x else y) := by
  split <;> assumption

/-- A fold whose every step keeps a view of the state keeps it. -/
theorem foldl_fst_eq {α β γ : Type} (g : State → γ) (l : List α) (f : State × β → α → State × β) (a : State × β)
    (hf : ∀ b x, g (f b x).1 = g b.1) : g (l.foldl f a).1 = g a.1 := by
  induction l generalizing a with
  | nil => rfl
  | cons x t ih => exact (ih _).trans (hf a x)

theorem foldl_snd_eq {α β γ : Type} (g : State → γ) (l : List α) (f : β × State → α → β × State) (a : β × State)
    (hf : ∀ b x, g (f b x).2 = g b.2) : g (l.foldl f a).2 = g a.2 := by
  induction l generalizing a with
  | nil => rfl
  | cons x t ih => exact (ih _).trans (hf a x)

theorem forEach_eq {α γ : Type} (g : State → γ) (l : List α) (f : α → State → State) (s : State)
    (hf : ∀ x s, g (f x s) = g s) : g (forEach l f s) = g s := by
  unfold forEach
  induction l generalizing s with
  | nil => rfl
  | cons x t ih => exact (ih _).trans (hf x s)

/-- A fold that carries a state beside a result. -/
theorem mem_foldl {α β : Type} (l : List α) (f : State × β → α → State × β) (a : State × β)
    (hf : ∀ b x, MemOk b.1 → MemOk (f b x).1) (h : MemOk a.1) : MemOk (l.foldl f a).1 := by
  induction l generalizing a with
  | nil => exact h
  | cons x t ih => exact ih _ (hf a x h)

theorem mem_foldl' {α β : Type} (l : List α) (f : β × State → α → β × State) (a : β × State)
    (hf : ∀ b x, MemOk b.2 → MemOk (f b x).2) (h : MemOk a.2) : MemOk (l.foldl f a).2 := by
  induction l generalizing a with
  | nil => exact h
  | cons x t ih => exact ih _ (hf a x h)

end Sys2Proof.Machine
end

