-- ==== Sys2Proof/Laws/MemOps.lean ====
section
/-! SUPPORT. No operation of Machine/Ops.lean breaks the canonical form of the memory. -/

namespace Sys2Proof.Machine

set_option Elab.async false

theorem mem_setF (f : Fld) (v : Nat) {s : State} (h_ok : MemOk s) :
    MemOk (setF f v s) := by
  unfold setF; grind [MemOk]

theorem mem_addF (f : Fld) (n : Nat) {s : State} (h_ok : MemOk s) :
    MemOk (addF f n s) := by
  unfold addF; grind [MemOk, mem_setF]

theorem mem_satF (f : Fld) (n : Nat) {s : State} (h_ok : MemOk s) :
    MemOk (satF f n s) := by
  unfold satF; grind [MemOk, mem_setF]

theorem mem_orF (f : Fld) (n : Nat) {s : State} (h_ok : MemOk s) :
    MemOk (orF f n s) := by
  unfold orF; grind [MemOk, mem_setF]

theorem mem_resetFields (p : Nat → Bool) {s : State} (h_ok : MemOk s) :
    MemOk (resetFields p s) := by
  unfold resetFields; grind [MemOk]

theorem mem_resetF (f : Fld) {s : State} (h_ok : MemOk s) :
    MemOk (resetF f s) := by
  unfold resetF; grind [MemOk, mem_setF]

theorem mem_dropHeld (a : Nat) {s : State} (h_ok : MemOk s) :
    MemOk (dropHeld a s) := by
  unfold dropHeld; grind [MemOk]

theorem mem_forEach {α : Type} (l : List α) (f : α → State → State) {s : State} (h_f : ∀ x0 x1, MemOk x1 → MemOk (f x0 x1))
    (h : MemOk s) : MemOk (forEach l f s) := by
  unfold forEach
  induction l generalizing s with
  | nil => exact h
  | cons a t ih => exact ih (h_f a s h)

theorem mem_emit (o : Out) {s : State} (h_ok : MemOk s) :
    MemOk (emit o s) := by
  unfold emit; grind [MemOk]

theorem mem_setRegion (n : Nat) (f : Region → Region) {s : State} (h_ok : MemOk s) :
    MemOk (setRegion n f s) := by
  unfold setRegion; grind [MemOk]

theorem mem_setHinge (a : Nat) (b : Nat) (f : Hinge → Hinge) {s : State} (h_ok : MemOk s) :
    MemOk (setHinge a b f s) := by
  unfold setHinge; grind [MemOk]

theorem mem_drawFree {s : State} (h_ok : MemOk s) :
    MemOk (drawFree s).2 := by
  unfold drawFree; grind [MemOk]

theorem mem_drawRandom (n : Nat) {s : State} (h_ok : MemOk s) :
    MemOk (drawRandom n s).2 := by
  unfold drawRandom; grind [MemOk]

theorem mem_sendMsix (v : Nat) {s : State} (h_ok : MemOk s) :
    MemOk (sendMsix v s) := by
  unfold sendMsix; grind [MemOk, mem_emit]

theorem mem_peep (kind : Nat) (unit : Nat) (event : Nat) (inc : Nat) {s : State} (h_ok : MemOk s) :
    MemOk (peep kind unit event inc s) := by
  unfold peep; grind [MemOk, mem_addF, mem_forEach]

theorem mem_traceDrop (seq : Nat) {s : State} (h_ok : MemOk s) :
    MemOk (traceDrop seq s) := by
  unfold traceDrop; grind [MemOk, mem_satF]

theorem mem_tracePush (r : TraceRec) {s : State} (h_ok : MemOk s) :
    MemOk (tracePush r s) := by
  unfold tracePush; grind [MemOk, mem_setF]

theorem mem_lostRecord {s : State} (h : MemOk s) : ∀ r t, lostRecord s = some (r, t) → MemOk t := by
  intro r t ht; unfold lostRecord at ht; grind [MemOk]

theorem mem_trace (cls : Nat) (event : Nat) (region : Nat) (arg0 : Nat) (arg1 : Nat) {s : State} (h_ok : MemOk s) :
    MemOk (trace cls event region arg0 arg1 s) := by
  unfold trace; grind [MemOk, mem_traceDrop, mem_tracePush, mem_lostRecord]

theorem mem_errRecord (cls : Nat) (sev : Nat) (region : Nat) (code : Nat) (unit : Nat) (detail : List Nat) {s : State} (h_ok : MemOk s) :
    MemOk (errRecord cls sev region code unit detail s) := by
  unfold errRecord; grind [MemOk, mem_setF, mem_satF, mem_emit, mem_sendMsix, mem_trace]

theorem mem_regAccessError (addr : Nat) {s : State} (h_ok : MemOk s) :
    MemOk (regAccessError addr s) := by
  unfold regAccessError; grind [MemOk, mem_errRecord]

theorem mem_enterFatal (cause : Nat) (region : Nat) {s : State} (h_ok : MemOk s) :
    MemOk (enterFatal cause region s) := by
  unfold enterFatal; grind [MemOk, mem_setF, mem_errRecord]

theorem mem_hostWrite (k : BlkReach) (f : State → State) {s : State} (h_f : ∀ x0, MemOk x0 → MemOk (f x0)) (h_ok : MemOk s) :
    MemOk (hostWrite k f s) := by
  unfold hostWrite; grind [MemOk, mem_emit]

theorem mem_setFlight (id : Nat) (f : InFlight → InFlight) {s : State} (h_ok : MemOk s) :
    MemOk (setFlight id f s) := by
  unfold setFlight; grind [MemOk]

theorem mem_setPart (id : Nat) (p : Nat) (f : Part → Part) {s : State} (h_ok : MemOk s) :
    MemOk (setPart id p f s) := by
  unfold setPart; grind [MemOk, mem_setFlight]

end Sys2Proof.Machine
end

