-- ==== Sys2Proof/Laws/MemQueue.lean ====
section
/-! SUPPORT. No operation of Machine/Queue.lean breaks the canonical form of the memory. -/

namespace Sys2Proof.Machine

set_option Elab.async false

theorem mem_setQaux (q : Nat) (f : QAux → QAux) {s : State} (h_ok : MemOk s) :
    MemOk (setQaux q f s) := by
  unfold setQaux; grind [MemOk]

theorem mem_recountQueue (q : Nat) {s : State} (h_ok : MemOk s) :
    MemOk (recountQueue q s) := by
  unfold recountQueue; grind [MemOk, mem_setF]

theorem mem_recount (q : Option Nat) {s : State} (h_ok : MemOk s) :
    MemOk (recount q s) := by
  unfold recount; grind [MemOk, mem_setF, mem_recountQueue]

theorem mem_queueError (q : Nat) (err : Nat) (lost : Option (Nat × Nat)) {s : State} (h_ok : MemOk s) :
    MemOk (queueError q err lost s) := by
  unfold queueError; grind [MemOk, mem_setF, mem_satF, mem_errRecord]

theorem mem_queueIrq (q : Nat) {s : State} (h_ok : MemOk s) :
    MemOk (queueIrq q s) := by
  unfold queueIrq; grind [MemOk, mem_sendMsix, mem_setQaux]

theorem mem_recordIrq (q : Nat) (irq : Bool) (status : Nat) {s : State} (h_ok : MemOk s) :
    MemOk (recordIrq q irq status s) := by
  unfold recordIrq; grind [MemOk, mem_setQaux, mem_queueIrq]

theorem mem_putRecord (q : Nat) (r : DoneRec) {s : State} (h_ok : MemOk s) :
    MemOk (putRecord q r s) := by
  unfold putRecord; grind [MemOk, mem_setF, mem_addF, mem_emit, mem_peep, mem_setQaux, mem_recordIrq]

theorem mem_holdRecord (q : Nat) (r : DoneRec) {s : State} (h_ok : MemOk s) :
    MemOk (holdRecord q r s) := by
  unfold holdRecord; grind [MemOk, mem_setQaux]

theorem mem_offerRecord (q : Nat) (r : DoneRec) {s : State} (h_ok : MemOk s) :
    MemOk (offerRecord q r s) := by
  unfold offerRecord; grind [MemOk, mem_errRecord, mem_satF, mem_holdRecord, mem_queueError, mem_putRecord]

theorem mem_writeRecord (q : Nat) (e : InFlight) (status : Nat) (flags : Nat) (replay : Nat) (check : Nat) (tier : Nat) {s : State} (h_ok : MemOk s) :
    MemOk (writeRecord q e status flags replay check tier s) := by
  unfold writeRecord; grind [MemOk, mem_offerRecord]

theorem mem_snapPhases {s : State} (h_ok : MemOk s) :
    MemOk (snapPhases s) := by
  unfold snapPhases; grind [MemOk, mem_setF, mem_forEach]

theorem mem_releaseChecks (id : Nat) {s : State} (h_ok : MemOk s) :
    MemOk (releaseChecks id s) := by
  unfold releaseChecks; grind [MemOk, mem_setF, mem_forEach]

theorem mem_finish (e : InFlight) (status : Nat) (flags : Nat) (replay : Nat) (check : Nat) {s : State} (h_ok : MemOk s) :
    MemOk (finish e status flags replay check s) := by
  unfold finish; grind [MemOk, mem_trace, mem_recount, mem_writeRecord, mem_snapPhases, mem_releaseChecks]

theorem mem_completeWaits {s : State} (h_ok : MemOk s) :
    MemOk (completeWaits s) := by
  unfold completeWaits; grind [MemOk, mem_forEach, mem_finish]

theorem mem_setFence (f : Nat) (v : Nat) (event : Nat) {s : State} (h_ok : MemOk s) :
    MemOk (setFence f v event s) := by
  unfold setFence; grind [MemOk, mem_setF, mem_trace, mem_completeWaits]

theorem mem_breakPair (port : Nat) {s : State} (h_ok : MemOk s) :
    MemOk (breakPair port s) := by
  unfold breakPair; grind [MemOk, mem_finish]

theorem mem_enterFlight (port : Nat) (q : Nat) (seq : Nat) (entry : Nat) (fromProgram : Bool) (d : Desc) (k : InFlight → State → State) {s : State} (h_k : ∀ x0 x1, MemOk x1 → MemOk (k x0 x1)) (h_ok : MemOk s) :
    MemOk (enterFlight port q seq entry fromProgram d k s) := by
  unfold enterFlight; grind [MemOk, mem_peep, mem_trace, mem_recount, mem_finish, mem_breakPair]

theorem mem_failCheck (e : InFlight) (status : Nat) (check : Nat) {s : State} (h_ok : MemOk s) :
    MemOk (failCheck e status check s) := by
  unfold failCheck; grind [MemOk, mem_peep, mem_finish]

theorem mem_takeRing (q : QueueNo) (d : Desc) (k : InFlight → State → State) {s : State} (h_k : ∀ x0 x1, MemOk x1 → MemOk (k x0 x1)) (h_ok : MemOk s) :
    MemOk (takeRing q d k s) := by
  unfold takeRing; grind [MemOk, mem_setF, mem_emit, mem_peep, mem_queueError, mem_enterFlight]

theorem mem_validated (e : InFlight) (cs : List (Nat × Nat × Bool)) (k : State → State) {s : State} (h_k : ∀ x0, MemOk x0 → MemOk (k x0)) (h_ok : MemOk s) :
    MemOk (validated e cs k s) := by
  unfold validated; grind [MemOk, mem_failCheck]

theorem mem_promote (n fuel : Nat) {s : State} (h : MemOk s) : MemOk (promote n fuel s) := by
  induction fuel generalizing s with
  | zero => exact h
  | succ k ih => unfold promote; grind [MemOk]

theorem mem_fillSequencer (n : Nat) {s : State} (h_ok : MemOk s) :
    MemOk (fillSequencer n s) := by
  unfold fillSequencer; grind [MemOk, mem_setF, mem_promote]

theorem mem_launch (e : InFlight) (parts : List Part) {s : State} (h_ok : MemOk s) :
    MemOk (launch e parts s) := by
  unfold launch; grind [MemOk, mem_forEach, mem_setFlight, mem_fillSequencer]

theorem mem_endPart (id : Nat) (p : Nat) (status : Nat) (flags : Nat) (replay : Nat) {s : State} (h_ok : MemOk s) :
    MemOk (endPart id p status flags replay s) := by
  unfold endPart; grind [MemOk, mem_setPart]

end Sys2Proof.Machine
end

