-- ==== Sys2Proof/Laws/MemPanes.lean ====
section
/-! SUPPORT. No operation of Machine/Panes.lean breaks the canonical form of the memory. -/

namespace Sys2Proof.Machine

set_option Elab.async false

theorem cellsOf_in (a : Nat) (bs : List Byte) : assocIn memDefault a (a + bs.length) (cellsOf a bs) := by
  induction bs generalizing a with
  | nil => exact ⟨by simp [cellsOf], by simp [cellsOf]⟩
  | cons b t ih =>
    have h1 := (ih (a + 1)).1
    have h2 := (ih (a + 1)).2
    simp only [cellsOf, List.length_cons]
    split
    · exact ⟨fun p hp => by have := h1 p hp; exact ⟨this.1, by omega, by omega⟩, h2⟩
    · refine ⟨fun p hp => ?_, List.pairwise_cons.2 ⟨fun p hp => by have := (h1 p hp).2.1; simp only; omega, h2⟩⟩
      rcases List.mem_cons.1 hp with e | e
      · subst e; simp_all
      · have := h1 p e; exact ⟨this.1, by omega, by omega⟩

theorem mem_memWrite (a : Nat) (bs : List Byte) {s : State} (h : MemOk s) : MemOk (memWrite a bs s) :=
  assocWf_splice _ _ _ _ _ (by omega) h (cellsOf_in a bs)

theorem canonCells_wf (cs : List Host.Cell) : assocWf memDefault (canonCells cs) = true := by
  unfold canonCells
  split
  · assumption
  · have : ∀ m : List Host.Cell, assocWf memDefault m = true →
        assocWf memDefault (cs.foldl (fun m c => assocSet memDefault m c.1 c.2) m) = true := by
      induction cs with
      | nil => exact fun m hm => hm
      | cons c t ih =>
        intro m hm
        by_cases ht : assocWf memDefault t = true
        · clear ih
          rename_i hc
          clear hc ht
          induction t generalizing m c with
          | nil => exact assocWf_set _ _ _ _ hm
          | cons c' t ih => exact ih c' _ (assocWf_set _ _ _ _ hm)
        · exact ih ht _ (assocWf_set _ _ _ _ hm)
    exact this [] rfl

theorem mem_memPutCells (a n : Nat) (cs : List Host.Cell) {s : State} (h : MemOk s) : MemOk (memPutCells a n cs s) := by
  refine assocWf_splice _ _ _ _ _ (by omega) h ?_
  have hc := (assocWf_iff _ _).1 (canonCells_wf cs)
  refine ⟨fun p hp => ?_, ?_⟩
  · simp only [List.mem_map, List.mem_filter, decide_eq_true_eq] at hp
    obtain ⟨c, ⟨h1, h2⟩, rfl⟩ := hp
    exact ⟨hc.1 c h1, by simp only; omega⟩
  · exact List.Pairwise.map _ (fun x y hxy => by simp only; omega) (hc.2.filter _)

theorem mem_poisonLine (l : Nat) {s : State} (h_ok : MemOk s) :
    MemOk (poisonLine l s) := by
  unfold poisonLine; grind [MemOk]

theorem mem_healRange (a : Nat) (n : Nat) {s : State} (h_ok : MemOk s) :
    MemOk (healRange a n s) := by
  unfold healRange; grind [MemOk]

theorem mem_setCart (p : Nat) (f : CartAux → CartAux) {s : State} (h_ok : MemOk s) :
    MemOk (setCart p f s) := by
  unfold setCart; grind [MemOk]

theorem mem_charge (owner : Nat) (tier : Nat) (n : Nat) {s : State} (h_ok : MemOk s) :
    MemOk (charge owner tier n s) := by
  unfold charge; grind [MemOk, mem_forEach]

theorem mem_uncharge (owner : Nat) (tier : Nat) (n : Nat) {s : State} (h_ok : MemOk s) :
    MemOk (uncharge owner tier n s) := by
  unfold uncharge; grind [MemOk, mem_forEach]

theorem mem_recordQlast (full : Bool) (tier : Nat) (c : Nat) {s : State} (h_ok : MemOk s) :
    MemOk (recordQlast full tier c s) := by
  unfold recordQlast; grind [MemOk, mem_setF]

theorem mem_setLoc (h : Nat) (i : Nat) (l : PaneLoc) {s : State} (h_ok : MemOk s) :
    MemOk (setLoc h i l s) := by
  unfold setLoc; grind [MemOk]

theorem mem_freeSlotBytes (l : PaneLoc) {s : State} (h_ok : MemOk s) :
    MemOk (freeSlotBytes l s) := by
  unfold freeSlotBytes; grind [MemOk, mem_memWrite]

theorem mem_releasePane (t : Tensor) (i : Nat) {s : State} (h_ok : MemOk s) :
    MemOk (releasePane t i s) := by
  unfold releasePane; grind [MemOk, mem_uncharge, mem_freeSlotBytes]

theorem mem_allocPane (tier : Nat) (t : Tensor) (i : Nat) {s : State} (h_ok : MemOk s) :
    MemOk (allocPane tier t i s) := by
  unfold allocPane; grind [MemOk, mem_charge, mem_setLoc, mem_freeSlotBytes]

theorem mem_allocAll (tier : Nat) (t : Tensor) (is : List Nat) {s : State} (h : MemOk s) :
    (∀ u, (allocAll tier t is s).1 = some u → MemOk u) ∧ MemOk (allocAll tier t is s).2.1 := by
  have hf : MemOk (forEach is (fun i s => allocPane tier t i s) s) := mem_forEach _ _ (fun i x hx => mem_allocPane tier t i hx) h
  unfold allocAll
  grind [mem_recordQlast]

theorem mem_allocForWrite (t : Tensor) {s : State} (h_ok : MemOk s) :
    MemOk (allocForWrite t s).1 := by
  unfold allocForWrite; grind [MemOk, mem_recordQlast, mem_allocAll]

theorem mem_chargeAll (l : List Tensor) {s : State} (h_ok : MemOk s) :
    MemOk (chargeAll l s).1 := by
  unfold chargeAll; dsimp only
  repeat' (first | with_reducible assumption | with_reducible apply mem_allocForWrite | with_reducible apply mem_setF | (with_reducible refine mem_foldl _ _ _ (fun _ _ _ => ?_) ?_) | (with_reducible refine mem_foldl' _ _ _ (fun _ _ _ => ?_) ?_) | (with_reducible refine mem_forEach _ _ (fun _ _ _ => ?_) ?_) | (with_reducible apply mem_mk; change MemOk _) | split | intro _)

theorem mem_writePane (root : Tensor) (i : Nat) (l : PaneLoc) (data : List Host.Cell) (poison : Bool) (tadj : List (Nat × Nat)) (step : Nat) {s : State} (h_ok : MemOk s) :
    MemOk (writePane root i l data poison tadj step s) := by
  unfold writePane; grind [MemOk, mem_memPutCells, mem_healRange]

theorem mem_portRecord (sev : Nat) (p : Nat) (detail : List Nat) {s : State} (h_ok : MemOk s) :
    MemOk (portRecord sev p detail s) := by
  unfold portRecord; grind [MemOk, mem_errRecord]

theorem mem_setCommitted (p : Nat) (v : Nat) {s : State} (h_ok : MemOk s) :
    MemOk (setCommitted p v s) := by
  unfold setCommitted; grind [MemOk, mem_setF, mem_setCart, mem_portRecord]

theorem mem_writeCounter (p : Nat) (v : Nat) {s : State} (h_ok : MemOk s) :
    MemOk (writeCounter p v s) := by
  unfold writeCounter; grind [MemOk, mem_emit]

theorem mem_programBytes (p : Nat) (n : Nat) {s : State} (h_ok : MemOk s) :
    MemOk (programBytes p n s) := by
  unfold programBytes; grind [MemOk, mem_peep, mem_setCart]

theorem mem_programWhole (p : Nat) (n : Nat) {s : State} (h_ok : MemOk s) : MemOk (programWhole p n s) := by
  have h1 : ∀ v, MemOk (setCommitted p v (writeCounter p v s)) := fun v => mem_setCommitted _ _ (mem_writeCounter _ _ h_ok)
  unfold programWhole
  exact ite_keep (ite_keep (h1 _) h_ok) (mem_programBytes _ _ (ite_keep (h1 _) h_ok))

theorem mem_programSlot (l : PaneLoc) (n : Nat) {s : State} (h_ok : MemOk s) :
    MemOk (programSlot l n s).1 := by
  unfold programSlot; grind [MemOk, mem_programWhole]

theorem mem_copyGroup (g : JournalGroup) {s : State} (h_ok : MemOk s) :
    MemOk (copyGroup g s) := by
  unfold copyGroup; grind [MemOk, mem_forEach, mem_memPutCells, mem_healRange]

theorem mem_replayGroups (c : Nat) {s : State} (h_ok : MemOk s) :
    MemOk (replayGroups c s) := by
  unfold replayGroups; grind [MemOk, mem_forEach, mem_copyGroup]

theorem mem_markPoison (root : Tensor) (i : Nat) (l : PaneLoc) {s : State} (h_ok : MemOk s) :
    MemOk (markPoison root i l s) := by
  unfold markPoison; grind [MemOk, mem_memPutCells, mem_programSlot]

theorem mem_crcRecord (root : Tensor) (i : Nat) (l : PaneLoc) {s : State} (h_ok : MemOk s) :
    MemOk (crcRecord root i l s) := by
  unfold crcRecord; grind [MemOk, mem_errRecord]

theorem mem_checkedRead (root : Tensor) (i : Nat) (l : PaneLoc) {s : State} (h_ok : MemOk s) :
    MemOk (checkedRead root i l s).2 := by
  unfold checkedRead; grind [MemOk, mem_markPoison, mem_crcRecord]

theorem mem_moverRead (root : Tensor) (i : Nat) {s : State} (h_ok : MemOk s) :
    MemOk (moverRead root i s).2 := by
  unfold moverRead; grind [MemOk, mem_checkedRead]

theorem mem_healSpans (a : Nat) (spans : List (Nat × Nat)) {s : State} (h_ok : MemOk s) :
    MemOk (healSpans a spans s) := by
  unfold healSpans; grind [MemOk]

end Sys2Proof.Machine
end

