-- ==== Sys2Proof/Laws/MemTiming.lean ====
section
/-! SUPPORT. No operation of Machine/Timing.lean breaks the canonical form of the memory. -/

namespace Sys2Proof.Machine

set_option Elab.async false

theorem mem_peepLic (n : Nat) (d : Nat) {s : State} (h_ok : MemOk s) :
    MemOk (peepLic n d s) := by
  unfold peepLic; grind [MemOk, mem_forEach, mem_peep]

theorem mem_ticks (n : Nat) (cycles : Nat) {s : State} (h_ok : MemOk s) :
    MemOk (ticks n cycles s) := by
  unfold ticks; grind [MemOk, mem_setF, mem_setRegion, mem_peepLic]

theorem mem_showBootZero {s : State} (h_ok : MemOk s) :
    MemOk (showBootZero s) := by
  unfold showBootZero; grind [MemOk, mem_setF]

theorem mem_zeroingGoesOn (n : Nat) {s : State} (h_ok : MemOk s) :
    MemOk (zeroingGoesOn n s) := by
  unfold zeroingGoesOn; grind [MemOk, mem_setF, mem_forEach, mem_drawFree, mem_showBootZero]

theorem mem_execLicTick (n : RegionNo) (cycles : Nat) {s : State} (h_ok : MemOk s) :
    ∀ st, execLicTick n cycles s = .next st → MemOk st := by
  intro st ht; unfold execLicTick at ht; grind [MemOk, mem_ticks, mem_zeroingGoesOn]

theorem mem_startCal (n : Nat) {s : State} (h_ok : MemOk s) :
    MemOk (startCal n s) := by
  unfold startCal; grind [MemOk, mem_setF, mem_setRegion]

theorem mem_execLicctlCal (n : RegionNo) {s : State} (h_ok : MemOk s) :
    ∀ st, execLicctlCal n s = .next st → MemOk st := by
  intro st ht; unfold execLicctlCal at ht; grind [MemOk, mem_setF, mem_hostWrite, mem_startCal]

theorem mem_endCal (n : Nat) (result : Option (Nat × Nat)) {s : State} (h_ok : MemOk s) :
    MemOk (endCal n result s) := by
  unfold endCal; grind [MemOk, mem_setF, mem_setRegion]

theorem mem_releaseRegion (n : Nat) {s : State} (h_ok : MemOk s) :
    MemOk (releaseRegion n s) := by
  unfold releaseRegion; grind [MemOk, mem_setF, mem_setRegion]

theorem mem_setVset (n : Nat) (vcode : Nat) {s : State} (h_ok : MemOk s) :
    MemOk (setVset n vcode s) := by
  unfold setVset; grind [MemOk, mem_setF, mem_setRegion]

theorem mem_execVsetWrite (n : RegionNo) (vcode : Nat) {s : State} (h_ok : MemOk s) :
    ∀ st, execVsetWrite n vcode s = .next st → MemOk st := by
  intro st ht; unfold execVsetWrite at ht; grind [MemOk, mem_regAccessError, mem_hostWrite, mem_setVset]

theorem mem_execRegulatorStep (n : RegionNo) {s : State} (h_ok : MemOk s) :
    ∀ st, execRegulatorStep n s = .next st → MemOk st := by
  intro st ht; unfold execRegulatorStep at ht; grind [MemOk, mem_setRegion]

theorem mem_pairRecord (a : Nat) (b : Nat) (event : Nat) (reset : Nat) {s : State} (h_ok : MemOk s) :
    MemOk (pairRecord a b event reset s) := by
  unfold pairRecord; grind [MemOk, mem_errRecord]

theorem mem_recomputeLouvre (n : Nat) (nbr : Nat) {s : State} (h_ok : MemOk s) :
    MemOk (recomputeLouvre n nbr s) := by
  unfold recomputeLouvre; grind [MemOk, mem_setF, mem_trace]

theorem mem_recomputeStall (a : Nat) (b : Nat) {s : State} (h_ok : MemOk s) :
    MemOk (recomputeStall a b s) := by
  unfold recomputeStall; grind [MemOk, mem_setF]

theorem mem_endStall (a : Nat) (b : Nat) {s : State} (h_ok : MemOk s) :
    MemOk (endStall a b s) := by
  unfold endStall; grind [MemOk, mem_setHinge, mem_trace, mem_recomputeStall]

theorem mem_monBits (a : Nat) (b : Nat) (soft : Nat) {s : State} (h_ok : MemOk s) :
    MemOk (monBits a b soft s) := by
  unfold monBits; grind [MemOk, mem_setF]

theorem mem_softActions (a : Nat) (b : Nat) (new : Nat) {s : State} (h_ok : MemOk s) :
    MemOk (softActions a b new s) := by
  unfold softActions; grind [MemOk, mem_forEach, mem_pairRecord, mem_monBits]

theorem mem_hardActions (a : Nat) (b : Nat) (hard : Nat) {s : State} (h_ok : MemOk s) :
    MemOk (hardActions a b hard s) := by
  unfold hardActions; grind [MemOk, mem_setF, mem_forEach, mem_setHinge, mem_trace, mem_pairRecord, mem_recomputeStall]

theorem mem_checkPair (a : Nat) (b : Nat) {s : State} (h_ok : MemOk s) :
    MemOk (checkPair a b s) := by
  unfold checkPair; grind [MemOk, mem_setHinge, mem_recomputeLouvre, mem_endStall, mem_softActions, mem_hardActions]

theorem mem_execMonitorMeasure (n : RegionNo) (mv : Nat) (tq : Int) (rate : Nat) (speed : Nat) {s : State} (h_ok : MemOk s) :
    ∀ st, execMonitorMeasure n mv tq rate speed s = .next st → MemOk st := by
  intro st ht; unfold execMonitorMeasure at ht; grind [MemOk, mem_setF, mem_forEach, mem_setRegion, mem_enterFatal, mem_checkPair]

theorem mem_execLouvreRelease (n : RegionNo) {s : State} (h_ok : MemOk s) :
    ∀ st, execLouvreRelease n s = .next st → MemOk st := by
  intro st ht; unfold execLouvreRelease at ht; grind [MemOk, mem_forEach, mem_setHinge, mem_recomputeLouvre]

theorem mem_peepTransfer (a : Nat) (b : Nat) {s : State} (h_ok : MemOk s) :
    MemOk (peepTransfer a b s) := by
  unfold peepTransfer; grind [MemOk, mem_peep]

theorem mem_setHeld (a : Nat) (b : Nat) (l : List Transfer) {s : State} (h_ok : MemOk s) :
    MemOk (setHeld a b l s) := by
  unfold setHeld; grind [MemOk, mem_setHinge]

theorem mem_holdTransfer (a : Nat) (b : Nat) (t : Transfer) {s : State} (h_ok : MemOk s) :
    MemOk (holdTransfer a b t s) := by
  unfold holdTransfer; grind [MemOk, mem_setHeld]

theorem mem_transferArrives (a : Nat) (b : Nat) (t : Transfer) {s : State} (h_ok : MemOk s) :
    MemOk (transferArrives a b t s) := by
  unfold transferArrives; grind [MemOk, mem_setHinge, mem_holdTransfer]

theorem mem_acceptOffer (a : Nat) (b : Nat) (owner : Option Nat) (offered : Option Offer) {s : State} (h_ok : MemOk s) :
    MemOk (acceptOffer a b owner offered s) := by
  unfold acceptOffer; grind [MemOk, mem_holdTransfer]

theorem mem_execHingeTransfer (a : HingeEnd) (b : HingeEnd) (owner : Option Nat) (offered : Option Offer) (receiverReady : Bool) {s : State} (h_ok : MemOk s) :
    ∀ st, execHingeTransfer a b owner offered receiverReady s = .next st → MemOk st := by
  intro st ht; unfold execHingeTransfer at ht; grind [MemOk, mem_peepTransfer, mem_setHeld, mem_transferArrives, mem_acceptOffer]

end Sys2Proof.Machine
end

