-- ==== Sys2Proof/Laws/MemMemUnits.lean ====
section
/-! SUPPORT. No operation of Machine/MemUnits.lean breaks the canonical form of the memory. -/

namespace Sys2Proof.Machine

set_option Elab.async false

theorem mem_setMuAux (u : Nat) (f : MuAux → MuAux) {s : State} (h_ok : MemOk s) :
    MemOk (setMuAux u f s) := by
  unfold setMuAux; grind [MemOk]

theorem mem_showUsed (u : Nat) {s : State} (h_ok : MemOk s) :
    MemOk (showUsed u s) := by
  unfold showUsed; grind [MemOk, mem_setF]

theorem mem_startRemap (u : Nat) (r : RowAddr) (cause : Nat) {s : State} (h_ok : MemOk s) :
    MemOk (startRemap u r cause s) := by
  unfold startRemap; grind [MemOk, mem_setF, mem_errRecord, mem_setMuAux]

theorem mem_countRow (u : Nat) (r : RowAddr) {s : State} (h_ok : MemOk s) :
    MemOk (countRow u r s).2 := by
  unfold countRow; grind [MemOk, mem_setMuAux]

theorem mem_correctable (u : Nat) (r : RowAddr) {s : State} (h_ok : MemOk s) :
    MemOk (correctable u r s) := by
  unfold correctable; grind [MemOk, mem_satF, mem_peep, mem_startRemap, mem_countRow]

theorem mem_uncorrectable (u : Nat) (slot : Nat) (off : Nat) (r : RowAddr) {s : State} (h_ok : MemOk s) :
    MemOk (uncorrectable u slot off r s) := by
  unfold uncorrectable; grind [MemOk, mem_setF, mem_satF, mem_trace, mem_errRecord, mem_poisonLine, mem_markPoison, mem_startRemap]

theorem mem_codewordRead (u : Nat) (slot : Nat) (off : Nat) (ecc : Ecc) (r : RowAddr) {s : State} (h_ok : MemOk s) :
    MemOk (codewordRead u slot off ecc r s) := by
  unfold codewordRead; grind [MemOk, mem_memWrite, mem_correctable, mem_uncorrectable]

theorem mem_serveReq (u : Nat) (q : MemReq) {s : State} (h_ok : MemOk s) :
    MemOk (serveReq u q s) := by
  unfold serveReq; grind [MemOk, mem_peep, mem_memWrite, mem_healRange, mem_codewordRead]

theorem mem_serveNext (u : Nat) (c : Nat) {s : State} (h_ok : MemOk s) :
    MemOk (serveNext u c s) := by
  unfold serveNext; grind [MemOk, mem_setMuAux, mem_serveReq]

theorem mem_serveAll (u : Nat) {s : State} (h_ok : MemOk s) :
    MemOk (serveAll u s) := by
  unfold serveAll; grind [MemOk, mem_forEach, mem_setMuAux, mem_serveReq]

theorem mem_serveGrant (i : Nat) {s : State} (h_ok : MemOk s) :
    MemOk (serveGrant i s) := by
  unfold serveGrant; grind [MemOk, mem_serveNext]

theorem mem_execMemoryAccess (u : MemUnit) (slot : Nat) (off : Nat) (write : Option (List Byte)) (ecc : Ecc) (row : RowAddr) {s : State} (h_ok : MemOk s) :
    ∀ st, execMemoryAccess u slot off write ecc row s = .next st → MemOk st := by
  intro st ht; unfold execMemoryAccess at ht; grind [MemOk, mem_setMuAux, mem_serveNext]

theorem mem_execScrubRead (u : MemUnit) (slot : Nat) (off : Nat) (ecc : Ecc) (row : RowAddr) {s : State} (h_ok : MemOk s) :
    ∀ st, execScrubRead u slot off ecc row s = .next st → MemOk st := by
  intro st ht; unfold execScrubRead at ht; grind [MemOk, mem_codewordRead]

theorem mem_enterRemap (u : Nat) (r : RowAddr) (cause : Nat) (pprfail : Bool) {s : State} (h_ok : MemOk s) :
    MemOk (enterRemap u r cause pprfail s) := by
  unfold enterRemap; grind [MemOk, mem_setMuAux]

theorem mem_execRepairLogCommitted (u : MemUnit) (row : RowAddr) (r : RepairCommit) {s : State} (h_ok : MemOk s) :
    ∀ st, execRepairLogCommitted u row r s = .next st → MemOk st := by
  intro st ht; unfold execRepairLogCommitted at ht; grind [MemOk, mem_setF, mem_forEach, mem_trace, mem_errRecord, mem_setMuAux, mem_showUsed, mem_codewordRead, mem_serveNext, mem_enterRemap]

theorem mem_execMuTempReading (u : MemUnit) (t : Int) {s : State} (h_ok : MemOk s) :
    ∀ st, execMuTempReading u t s = .next st → MemOk st := by
  intro st ht; unfold execMuTempReading at ht; grind [MemOk, mem_setF, mem_errRecord]

theorem mem_muStart (u : Nat) (zeroing : Bool) {s : State} (h_ok : MemOk s) :
    MemOk (muStart u zeroing s) := by
  unfold muStart; grind [MemOk, mem_setF, mem_setMuAux, mem_showUsed]

theorem mem_loadRemaps (u : Nat) {s : State} (h_ok : MemOk s) :
    MemOk (loadRemaps u s) := by
  unfold loadRemaps; grind [MemOk, mem_forEach, mem_showUsed, mem_enterRemap]

theorem mem_repairRows (u : Nat) (repairs : List MuRepair) {s : State} (h_ok : MemOk s) :
    MemOk (repairRows u repairs s) := by
  unfold repairRows; grind [MemOk, mem_setF]

theorem mem_muAbsent (u : Nat) (tstate : Nat) (cause : Nat) {s : State} (h_ok : MemOk s) :
    MemOk (muAbsent u tstate cause s) := by
  unfold muAbsent; grind [MemOk, mem_setF, mem_setMuAux]

theorem mem_muFail (u : Nat) (cause : Nat) {s : State} (h_ok : MemOk s) :
    MemOk (muFail u cause s) := by
  unfold muFail; grind [MemOk, mem_errRecord, mem_muAbsent]

theorem mem_takeIdentity (u : Nat) (id : Nat) {s : State} (h_ok : MemOk s) :
    MemOk (takeIdentity u id s) := by
  unfold takeIdentity; grind [MemOk]

theorem mem_muTrainedAt (u : Nat) (rate : Nat) (lanes : Nat) (gib : Nat) (id : Nat) {s : State} (h_ok : MemOk s) :
    MemOk (muTrainedAt u rate lanes gib id s) := by
  unfold muTrainedAt; grind [MemOk, mem_setF, mem_setMuAux, mem_loadRemaps, mem_takeIdentity]

theorem mem_muRepaired (u : Nat) (repairs : List MuRepair) {s : State} (h_ok : MemOk s) :
    MemOk (muRepaired u repairs s) := by
  unfold muRepaired; grind [MemOk, mem_setF, mem_showBootZero, mem_loadRemaps, mem_repairRows]

theorem mem_muTrained (u : Nat) (r : MuTraining) (repairs : List MuRepair) {s : State} (h_ok : MemOk s) :
    MemOk (muTrained u r repairs s) := by
  unfold muTrained; grind [MemOk, mem_setMuAux, mem_muAbsent, mem_muFail, mem_muTrainedAt, mem_muRepaired]

theorem mem_muZeroed (u : Nat) {s : State} (h : MemOk s) : MemOk (muZeroed u s) := by
  have hw : ∀ lo, assocWf memDefault (assocSplice s.mem lo (lo + 2 ^ 41) []) = true := fun lo =>
    assocWf_splice _ _ _ _ _ (by omega) h ⟨by simp, List.Pairwise.nil⟩
  unfold muZeroed; grind [MemOk, Memory.wf, mem_setF, mem_setMuAux, mem_showBootZero]

end Sys2Proof.Machine
end

