-- ==== Sys2Proof/Laws/MemArbiters.lean ====
section
/-! SUPPORT. No operation of Machine/Arbiters.lean breaks the canonical form of the memory. -/

namespace Sys2Proof.Machine

set_option Elab.async false

theorem mem_setCnt (i : Nat) (r : Nat) (v : Nat) {s : State} (h_ok : MemOk s) :
    MemOk (setCnt i r v s) := by
  unfold setCnt; grind [MemOk, mem_setF]

theorem mem_raise (i : Nat) (asking : Nat) {s : State} (h_ok : MemOk s) :
    MemOk (raise i asking s) := by
  unfold raise; grind [MemOk, mem_setF]

theorem mem_grant (i : Nat) (w : Nat) {s : State} (h_ok : MemOk s) :
    MemOk (grant i w s) := by
  unfold grant; grind [MemOk, mem_setF]

theorem mem_decideArb (i : Nat) {s : State} (h_ok : MemOk s) :
    MemOk (decideArb i s) := by
  unfold decideArb; grind [MemOk, mem_addF, mem_forEach, mem_peep, mem_trace, mem_setCnt, mem_grant]

theorem mem_execArbDecision (inst : Nat) (asking : Nat) {s : State} (h_ok : MemOk s) :
    ∀ st, execArbDecision inst asking s = .next st → MemOk st := by
  intro st ht; unfold execArbDecision at ht; grind [MemOk, mem_serveGrant, mem_raise, mem_grant, mem_decideArb]

theorem mem_execArbRelease (inst : Nat) (asking : Nat) {s : State} (h_ok : MemOk s) :
    ∀ st, execArbRelease inst asking s = .next st → MemOk st := by
  intro st ht; unfold execArbRelease at ht; grind [MemOk, mem_setF, mem_raise]

theorem mem_mapWrite (inst : Nat) (value : Nat) {s : State} (h_ok : MemOk s) :
    MemOk (mapWrite inst value s) := by
  unfold mapWrite; grind [MemOk, mem_setF, mem_dropHeld, mem_regAccessError]

theorem mem_execInputmapWrite (inst : Nat) (value : Nat) {s : State} (h_ok : MemOk s) :
    ∀ st, execInputmapWrite inst value s = .next st → MemOk st := by
  intro st ht; unfold execInputmapWrite at ht; grind [MemOk, mem_hostWrite, mem_mapWrite]

end Sys2Proof.Machine
end

