-- ==== Sys2Proof/Laws/MemCart.lean ====
section
/-! SUPPORT. No operation of Machine/Cart.lean breaks the canonical form of the memory. -/

namespace Sys2Proof.Machine

set_option Elab.async false

theorem mem_wipeRange (lo hi : Nat) {s : State} (h : MemOk s) : MemOk (wipeRange lo hi s) :=
  assocWf_splice _ _ _ _ _ (by omega) h ⟨by simp, List.Pairwise.nil⟩

theorem mem_drawXts {s : State} (h_ok : MemOk s) :
    MemOk (drawXts s).2 := by
  unfold drawXts; grind [MemOk, mem_drawRandom]

theorem mem_eraseSpill (p : Nat) (n : Nat) {s : State} (h_ok : MemOk s) :
    MemOk (eraseSpill p n s) := by
  unfold eraseSpill; grind [MemOk, mem_setF, mem_setCart, mem_portRecord, mem_wipeRange, mem_drawXts]

theorem mem_replaceSpill (p : Nat) {s : State} (h_ok : MemOk s) :
    MemOk (replaceSpill p s) := by
  unfold replaceSpill; grind [MemOk, mem_eraseSpill]

theorem mem_startCommit (p : Nat) (n : Nat) {s : State} (h_ok : MemOk s) :
    MemOk (startCommit p n s) := by
  unfold startCommit; grind [MemOk, mem_setCart, mem_writeCounter]

theorem mem_programOrHold (p : Nat) (n : Nat) {s : State} (h_ok : MemOk s) :
    MemOk (programOrHold p n s) := by
  unfold programOrHold; grind [MemOk, mem_setCart, mem_programBytes, mem_startCommit]

theorem mem_execWearCounterCommit (p : PortNo) (bytes : Nat) {s : State} (h_ok : MemOk s) :
    ∀ st, execWearCounterCommit p bytes s = .next st → MemOk st := by
  intro st ht; unfold execWearCounterCommit at ht; grind [MemOk, mem_programOrHold]

theorem mem_flashUncorrectable (p : Nat) (bad : Nat) {s : State} (h_ok : MemOk s) :
    MemOk (flashUncorrectable p bad s) := by
  unfold flashUncorrectable; grind [MemOk, mem_satF, mem_portRecord]

theorem mem_flashUnitBad (p : Nat) (f : FlashUnit) {s : State} (h_ok : MemOk s) :
    MemOk (flashUnitBad p f s) := by
  unfold flashUnitBad; grind [MemOk, mem_forEach, mem_poisonLine, mem_markPoison, mem_flashUncorrectable]

theorem mem_execFlashRelocation (p : PortNo) (r : Relocation) {s : State} (h_ok : MemOk s) :
    ∀ st, execFlashRelocation p r s = .next st → MemOk st := by
  intro st ht; unfold execFlashRelocation at ht; grind [MemOk, mem_forEach, mem_programOrHold, mem_flashUnitBad, mem_peep]

theorem mem_execWearCounterAck (p : PortNo) {s : State} (h_ok : MemOk s) :
    ∀ st, execWearCounterAck p s = .next st → MemOk st := by
  intro st ht; unfold execWearCounterAck at ht; grind [MemOk, mem_setCart, mem_setCommitted, mem_programOrHold]

theorem mem_emptyPort (p : Nat) {s : State} (h_ok : MemOk s) :
    MemOk (emptyPort p s) := by
  unfold emptyPort; grind [MemOk, mem_setF, mem_forEach, mem_setCart]

theorem mem_startInsertion (p : Nat) {s : State} (h_ok : MemOk s) :
    MemOk (startInsertion p s) := by
  unfold startInsertion; grind [MemOk, mem_setF, mem_setCart, mem_emptyPort]

theorem mem_rejectCart (p : Nat) (reason : Nat) {s : State} (h_ok : MemOk s) :
    MemOk (rejectCart p reason s) := by
  unfold rejectCart; grind [MemOk, mem_setF, mem_portRecord, mem_emptyPort]

theorem mem_surpriseRemoval (p : Nat) {s : State} (h_ok : MemOk s) :
    MemOk (surpriseRemoval p s) := by
  unfold surpriseRemoval; grind [MemOk, mem_portRecord]

theorem mem_execCartPresenceChange (p : PortNo) (present : Bool) {s : State} (h_ok : MemOk s) :
    ∀ st, execCartPresenceChange p present s = .next st → MemOk st := by
  intro st ht; unfold execCartPresenceChange at ht; grind [MemOk, mem_setCart]

theorem mem_execCartPresenceDebounced (p : PortNo) {s : State} (h_ok : MemOk s) :
    ∀ st, execCartPresenceDebounced p s = .next st → MemOk st := by
  intro st ht; unfold execCartPresenceDebounced at ht; grind [MemOk, mem_setCart, mem_replaceSpill, mem_emptyPort, mem_startInsertion, mem_surpriseRemoval]

theorem mem_readElement (p : Nat) {s : State} (h_ok : MemOk s) :
    MemOk (readElement p s) := by
  unfold readElement; grind [MemOk, mem_emit]

theorem mem_execCartPgood (p : PortNo) (i : CartIdentity) {s : State} (h_ok : MemOk s) :
    ∀ st, execCartPgood p i s = .next st → MemOk st := by
  intro st ht; unfold execCartPgood at ht; grind [MemOk, mem_setF, mem_setCart, mem_setCommitted, mem_rejectCart, mem_readElement]

theorem mem_execCartPgoodTimeout (p : PortNo) {s : State} (h_ok : MemOk s) :
    ∀ st, execCartPgoodTimeout p s = .next st → MemOk st := by
  intro st ht; unfold execCartPgoodTimeout at ht; grind [MemOk, mem_rejectCart]

theorem mem_initialisePort (p : Nat) (i : CartInit) {s : State} (h_ok : MemOk s) :
    MemOk (initialisePort p i s) := by
  unfold initialisePort; grind [MemOk, mem_setF, mem_forEach, mem_setCart, mem_rejectCart]

theorem mem_readyPort (p : Nat) {s : State} (h_ok : MemOk s) :
    MemOk (readyPort p s) := by
  unfold readyPort; grind [MemOk, mem_setF]

theorem mem_execCartInitialised (p : PortNo) (i : CartInit) {s : State} (h_ok : MemOk s) :
    ∀ st, execCartInitialised p i s = .next st → MemOk st := by
  intro st ht; unfold execCartInitialised at ht; grind [MemOk, mem_initialisePort, mem_readyPort]

theorem mem_labelWrite (p : Nat) {s : State} (h_ok : MemOk s) :
    MemOk (labelWrite p s) := by
  unfold labelWrite; grind [MemOk, mem_drawFree, mem_programWhole]

theorem mem_closePort (p : Nat) {s : State} (h_ok : MemOk s) :
    MemOk (closePort p s) := by
  unfold closePort; grind [MemOk, mem_setF, mem_setCommitted, mem_writeCounter, mem_emptyPort, mem_labelWrite]

theorem mem_newPersistKey (p : Nat) (psize : Nat) {s : State} (h_ok : MemOk s) :
    MemOk (newPersistKey p psize s) := by
  unfold newPersistKey; grind [MemOk, mem_setF, mem_setCart, mem_wipeRange, mem_drawXts]

theorem mem_rewriteLabel (p psize : Nat) (f : State → State) {s : State} (h_f : ∀ x0, MemOk x0 → MemOk (f x0)) (h_ok : MemOk s) :
    MemOk (rewriteLabel p psize f s) := by
  have h1 := mem_labelWrite p h_ok
  unfold rewriteLabel
  exact ite_keep (mem_setF _ _ h1) (h_f _ (mem_newPersistKey _ _ (mem_setF _ _ h1)))

theorem mem_execFormat (p : PortNo) {s : State} (h_ok : MemOk s) :
    ∀ st, execFormat p s = .next st → MemOk st := by
  intro st ht; unfold execFormat at ht; grind [MemOk, mem_setF, mem_hostWrite, mem_replaceSpill, mem_rewriteLabel]

theorem mem_execErasep (p : PortNo) {s : State} (h_ok : MemOk s) :
    ∀ st, execErasep p s = .next st → MemOk st := by
  intro st ht; unfold execErasep at ht; grind [MemOk, mem_setF, mem_hostWrite, mem_rewriteLabel]

end Sys2Proof.Machine
end

