-- ==== Sys2Proof/Laws/MemKeyhole.lean ====
section
/-! SUPPORT. No operation of Machine/Keyhole.lean breaks the canonical form of the memory. -/

namespace Sys2Proof.Machine

set_option Elab.async false

theorem mem_setArray (f : Nat → Fld) (n : Nat) (bs : List Byte) {s : State} (h_ok : MemOk s) :
    MemOk (setArray f n bs s) := by
  unfold setArray; grind [MemOk, mem_setF, mem_forEach]

theorem mem_showLifeCycle {s : State} (h_ok : MemOk s) :
    MemOk (showLifeCycle s) := by
  unfold showLifeCycle; grind [MemOk, mem_setF, mem_setArray]

theorem mem_showFuses {s : State} (h_ok : MemOk s) :
    MemOk (showFuses s) := by
  unfold showFuses; grind [MemOk, mem_setF]

theorem mem_keyRecord (sev : Nat) (detail : List Nat) {s : State} (h_ok : MemOk s) :
    MemOk (keyRecord sev detail s) := by
  unfold keyRecord; grind [MemOk, mem_errRecord]

theorem mem_extend (r : Nat) (kind : Nat) (d : List Byte) {s : State} (h_ok : MemOk s) :
    MemOk (extend r kind d s) := by
  unfold extend; grind [MemOk, mem_setF, mem_satF, mem_setArray]

theorem mem_clearMeasurement {s : State} (h_ok : MemOk s) :
    MemOk (clearMeasurement s) := by
  unfold clearMeasurement; grind [MemOk, mem_setF, mem_setArray]

theorem mem_keyCommand (cmd : Nat) (f : State → State) {s : State} (h_f : ∀ x0, MemOk x0 → MemOk (f x0)) (h_ok : MemOk s) :
    MemOk (keyCommand cmd f s) := by
  unfold keyCommand; grind [MemOk, mem_setF, mem_hostWrite]

theorem mem_execNonce {s : State} (h_ok : MemOk s) :
    ∀ st, execNonce s = .next st → MemOk st := by
  intro st ht; unfold execNonce at ht; grind [MemOk, mem_setF, mem_drawRandom, mem_setArray, mem_keyCommand]

theorem mem_execTransition {s : State} (h_ok : MemOk s) :
    ∀ st, execTransition s = .next st → MemOk st := by
  intro st ht; unfold execTransition at ht; grind [MemOk, mem_setF, mem_showLifeCycle, mem_keyRecord, mem_keyCommand]

theorem mem_execCommitsvn {s : State} (h_ok : MemOk s) :
    ∀ st, execCommitsvn s = .next st → MemOk st := by
  intro st ht; unfold execCommitsvn at ht; grind [MemOk, mem_setF, mem_showFuses, mem_keyCommand]

theorem mem_execRevoke {s : State} (h_ok : MemOk s) :
    ∀ st, execRevoke s = .next st → MemOk st := by
  intro st ht; unfold execRevoke at ht; grind [MemOk, mem_setF, mem_showFuses, mem_keyCommand]

theorem mem_rowValid {s : State} (h_ok : MemOk s) :
    MemOk (rowValid s) := by
  unfold rowValid; grind [MemOk, mem_showLifeCycle, mem_keyRecord]

theorem mem_rowFailed {s : State} (h_ok : MemOk s) :
    MemOk (rowFailed s) := by
  unfold rowFailed; grind [MemOk, mem_setF]

theorem mem_execKeyholeIntegrityFailure {s : State} (h_ok : MemOk s) :
    ∀ st, execKeyholeIntegrityFailure s = .next st → MemOk st := by
  intro st ht; unfold execKeyholeIntegrityFailure at ht; grind [MemOk, mem_enterFatal]

end Sys2Proof.Machine
end

