-- ==== Sys2Proof/Laws/MemFlags.lean ====
section
/-! SUPPORT. No operation of Machine/Flags.lean breaks the canonical form of the memory. -/

namespace Sys2Proof.Machine

set_option Elab.async false

theorem mem_orPart (id : Nat) (p : Nat) (status : Nat) (flags : Nat) (replay : Nat) {s : State} (h_ok : MemOk s) :
    MemOk (orPart id p status flags replay s) := by
  unfold orPart; grind [MemOk, mem_setPart]

theorem mem_setSticky (fs : List (Nat × Fld)) (v : Nat) {s : State} (h_ok : MemOk s) :
    MemOk (setSticky fs v s) := by
  unfold setSticky; grind [MemOk, mem_setF, mem_forEach]

end Sys2Proof.Machine
end

