-- ==== Sys2Proof/Laws/MemOperands.lean ====
section
/-! SUPPORT. No operation of Machine/Operands.lean breaks the canonical form of the memory. -/

namespace Sys2Proof.Machine

set_option Elab.async false

theorem mem_upsertCopy (core : Nat) (owner : Nat) (h : Nat) (pane : Nat) (f : WorkCopy → WorkCopy) {s : State} (h_ok : MemOk s) :
    MemOk (upsertCopy core owner h pane f s) := by
  unfold upsertCopy; grind [MemOk]

theorem mem_putSpan (core : Nat) (owner : Nat) (h : Nat) (pane : Nat) (off : Nat) (bs : List Byte) {s : State} (h_ok : MemOk s) :
    MemOk (putSpan core owner h pane off bs s) := by
  unfold putSpan; grind [MemOk, mem_upsertCopy]

theorem mem_putTadj (core : Nat) (owner : Nat) (root : Tensor) (pane : Nat) (y : List Nat) (adj : Int) {s : State} (h_ok : MemOk s) :
    MemOk (putTadj core owner root pane y adj s) := by
  unfold putTadj; grind [MemOk, mem_upsertCopy]

theorem mem_putPoison (core : Nat) (owner : Nat) (h : Nat) (pane : Nat) {s : State} (h_ok : MemOk s) :
    MemOk (putPoison core owner h pane s) := by
  unfold putPoison; grind [MemOk, mem_upsertCopy]

theorem mem_putElem (core : Nat) (owner : Nat) (t : Tensor) (root : Tensor) (x : List Nat) (bits : Nat) (adj : Int) (poison : Bool) {s : State} (h_ok : MemOk s) :
    MemOk (putElem core owner t root x bits adj poison s) := by
  unfold putElem; grind [MemOk, mem_putSpan, mem_putTadj, mem_putPoison]

theorem mem_putBlock (core : Nat) (owner : Nat) (root : Tensor) (first : List Nat) (scale : Nat) (elems : List (Nat × Int)) (poison : Bool) {s : State} (h_ok : MemOk s) :
    MemOk (putBlock core owner root first scale elems poison s) := by
  unfold putBlock; grind [MemOk, mem_forEach, mem_putSpan, mem_putTadj, mem_putPoison]

theorem mem_offerEnc (core : Nat) (dest : Nat) (id : Nat) (part : Nat) (root : Tensor) (x : List Nat) (v : Num) (poison : Bool) (adj : Int) {s : State} (h_ok : MemOk s) :
    MemOk (offerEnc core dest id part root x v poison adj s) := by
  unfold offerEnc; grind [MemOk]

theorem mem_putResult (core : Nat) (dest : Nat) (id : Nat) (part : Nat) (t : Tensor) (root : Tensor) (x : List Nat) (v : Num) (bits : Nat) (adj : Int) (poison : Bool) {s : State} (h_ok : MemOk s) :
    MemOk (putResult core dest id part t root x v bits adj poison s) := by
  unfold putResult; grind [MemOk, mem_putElem, mem_offerEnc]

theorem mem_encDrop (b : EncBlk) {s : State} (h_ok : MemOk s) :
    MemOk (encDrop b s) := by
  unfold encDrop; grind [MemOk]

end Sys2Proof.Machine
end

