-- ==== Sys2Proof/Laws/MemMatrix.lean ====
section
/-! SUPPORT. No operation of Machine/Matrix.lean breaks the canonical form of the memory. -/

namespace Sys2Proof.Machine

set_option Elab.async false

theorem mem_chargeThen (e : InFlight) (check : Nat) (o : Tensor) (k : State → State) {s : State} (h_k : ∀ x0, MemOk x0 → MemOk (k x0)) (h_ok : MemOk s) :
    MemOk (chargeThen e check o k s) := by
  unfold chargeThen; grind [MemOk, mem_failCheck, mem_allocForWrite]

theorem mem_beginMma (e : InFlight) {s : State} (h_ok : MemOk s) :
    MemOk (beginMma e s) := by
  unfold beginMma; grind [MemOk, mem_setFlight, mem_finish, mem_validated, mem_launch, mem_chargeThen]

theorem mem_execMma (q : QueueNo) (d : Desc) {s : State} (h_ok : MemOk s) :
    ∀ st, execMma q d s = .next st → MemOk st := by
  intro st ht; unfold execMma at ht; grind [MemOk, mem_takeRing, mem_beginMma]

theorem mem_mxCount (n : Nat) (f : Fld) (k : Nat) {s : State} (h_ok : MemOk s) :
    MemOk (mxCount n f k s) := by
  unfold mxCount; grind [MemOk, mem_addF]

theorem mem_recordLast (n : Nat) (e : InFlight) (r : MxRun) (mm : Meas) {s : State} (h_ok : MemOk s) :
    MemOk (recordLast n e r mm s) := by
  unfold recordLast; grind [MemOk, mem_setF]

theorem mem_setMx (n : Nat) (r : Option MxRun) {s : State} (h_ok : MemOk s) :
    MemOk (setMx n r s) := by
  unfold setMx; grind [MemOk]

theorem mem_replay (n : Nat) (e : InFlight) (r : MxRun) (mm : Meas) {s : State} (h_ok : MemOk s) :
    MemOk (replay n e r mm s) := by
  unfold replay; grind [MemOk, mem_setF, mem_peep, mem_trace, mem_mxCount, mem_setMx]

theorem mem_execMmaKGroup (n : CoreNo) {s : State} (h_ok : MemOk s) :
    ∀ st, execMmaKGroup n s = .next st → MemOk st := by
  intro st ht; unfold execMmaKGroup at ht; grind [MemOk, mem_peep, mem_mxCount, mem_recordLast, mem_setMx, mem_replay]

theorem mem_nextTile (n : Nat) (e : InFlight) (r : MxRun) {s : State} (h_ok : MemOk s) :
    MemOk (nextTile n e r s) := by
  unfold nextTile; grind [MemOk, mem_setF, mem_setMx]

theorem mem_checkEnd (id : Nat) (p : Nat) {s : State} (h_ok : MemOk s) :
    MemOk (checkEnd id p s) := by
  unfold checkEnd; grind [MemOk, mem_setPart, mem_setSticky]

theorem mem_transomStall (n : Nat) {s : State} (h_ok : MemOk s) :
    MemOk (transomStall n s) := by
  unfold transomStall; grind [MemOk, mem_setF]

theorem mem_transomFree (n : Nat) {s : State} (h_ok : MemOk s) :
    MemOk (transomFree n s) := by
  unfold transomFree; grind [MemOk, mem_setF]

theorem mem_finishTile (n : Nat) (e : InFlight) (r : MxRun) (zs : List ((Nat × Nat) × Num × Nat)) (mm : Meas) {s : State} (h_ok : MemOk s) :
    MemOk (finishTile n e r zs mm s) := by
  unfold finishTile; dsimp only
  repeat' (first | with_reducible assumption | with_reducible apply mem_transomStall | with_reducible apply mem_checkEnd | with_reducible apply mem_nextTile | with_reducible apply mem_setMx | with_reducible apply mem_recordLast | with_reducible apply mem_mxCount | with_reducible apply mem_putResult | with_reducible apply mem_setSticky | with_reducible apply mem_orPart | with_reducible apply mem_peep | with_reducible apply mem_forEach | with_reducible apply mem_satF | (with_reducible refine mem_foldl _ _ _ (fun _ _ _ => ?_) ?_) | (with_reducible refine mem_foldl' _ _ _ (fun _ _ _ => ?_) ?_) | (with_reducible refine mem_forEach _ _ (fun _ _ _ => ?_) ?_) | (with_reducible apply mem_mk; change MemOk _) | split | intro _)

theorem mem_execMmaPassEnd (n : CoreNo) {s : State} (h_ok : MemOk s) :
    ∀ st, execMmaPassEnd n s = .next st → MemOk st := by
  intro st ht; unfold execMmaPassEnd at ht; grind [MemOk, mem_recordLast, mem_replay, mem_finishTile]

theorem mem_showTransom (n : Nat) (next : Nat) {s : State} (h_ok : MemOk s) :
    MemOk (showTransom n next s) := by
  unfold showTransom; grind [MemOk, mem_setF]

theorem mem_execTransomWrite (n : CoreNo) {s : State} (h_ok : MemOk s) :
    ∀ st, execTransomWrite n s = .next st → MemOk st := by
  intro st ht; unfold execTransomWrite at ht; grind [MemOk, mem_setF, mem_nextTile, mem_checkEnd, mem_transomStall, mem_showTransom]

theorem mem_execMxctlCntclr (n : CoreNo) {s : State} (h_ok : MemOk s) :
    ∀ st, execMxctlCntclr n s = .next st → MemOk st := by
  intro st ht; unfold execMxctlCntclr at ht; grind [MemOk, mem_setF, mem_hostWrite]

end Sys2Proof.Machine
end

