-- ==== Sys2Proof/Laws/MemVector.lean ====
section
/-! SUPPORT. No operation of Machine/Vector.lean breaks the canonical form of the memory. -/

namespace Sys2Proof.Machine

set_option Elab.async false

theorem mem_pairVop (e : InFlight) {s s' : State} (h_ok : MemOk s) (h_ok' : MemOk s') :
    MemOk (pairVop e s s') := by
  unfold pairVop; grind [MemOk, mem_finish, mem_launch, mem_setFlight, mem_failCheck, mem_breakPair]

theorem mem_beginVop (e : InFlight) {s : State} (h_ok : MemOk s) :
    MemOk (beginVop e s) := by
  unfold beginVop; grind [MemOk, mem_breakPair, mem_failCheck, mem_launch, mem_allocForWrite, mem_chargeThen, mem_pairVop]

theorem mem_setVx (n : Nat) (r : Option VxRun) {s : State} (h_ok : MemOk s) :
    MemOk (setVx n r s) := by
  unfold setVx; grind [MemOk]

theorem mem_vxCount (n : Nat) (f : Fld) (event : Nat) (k : Nat) {s : State} (h_ok : MemOk s) :
    MemOk (vxCount n f event k s) := by
  unfold vxCount; grind [MemOk, mem_addF, mem_peep]

theorem mem_writeD (e : InFlight) (p : Nat) (x : List Nat) (v : Num) (bits : Nat) (poison : Bool) (adj : Int) {s : State} (h_ok : MemOk s) :
    MemOk (writeD e p x v bits poison adj s) := by
  unfold writeD; grind [MemOk, mem_putResult, mem_vxCount]

theorem mem_keepD (e : InFlight) (p : Nat) (x : List Nat) (adj : Int) {s : State} (h_ok : MemOk s) :
    MemOk (keepD e p x adj s) := by
  unfold keepD; grind [MemOk, mem_putTadj]

theorem mem_writeFill (e : InFlight) (p : Nat) (x : List Nat) (adj : Int) {s : State} (h_ok : MemOk s) :
    MemOk (writeFill e p x adj s) := by
  unfold writeFill; grind [MemOk, mem_vxCount, mem_writeD, mem_keepD]

theorem mem_stepElem (e : InFlight) (p : Nat) (x : List Nat) (xv : Num × Nat × Bool) (xbits : Nat) (adj : Int) {s : State} (h_ok : MemOk s) :
    MemOk (stepElem e p x xv xbits adj s) := by
  unfold stepElem; grind [MemOk, mem_orPart, mem_vxCount, mem_writeD, mem_writeFill]

theorem mem_countTrans (e : InFlight) (p : Nat) (nt : Nat) (present : List Nat) (partOf : Nat → Nat) {s : State} (h_ok : MemOk s) :
    MemOk (countTrans e p nt present partOf s) := by
  unfold countTrans; grind [MemOk, mem_forEach, mem_vxCount]

theorem mem_stepLine (e : InFlight) (p : Nat) (base : List Nat) (len : Nat) (partOf : Nat → Nat) (xAt : Nat → List Nat → Num × Nat × Bool) (adj : Int) {s : State} (h_ok : MemOk s) :
    MemOk (stepLine e p base len partOf xAt adj s) := by
  unfold stepLine; dsimp only
  repeat' (first | with_reducible assumption | with_reducible apply mem_countTrans | with_reducible apply mem_writeFill | with_reducible apply mem_writeD | with_reducible apply mem_orPart | with_reducible apply mem_forEach | (with_reducible refine mem_foldl _ _ _ (fun _ _ _ => ?_) ?_) | (with_reducible refine mem_foldl' _ _ _ (fun _ _ _ => ?_) ?_) | (with_reducible refine mem_forEach _ _ (fun _ _ _ => ?_) ?_) | (with_reducible apply mem_mk; change MemOk _) | split | intro _)

theorem mem_fillLost (e : InFlight) {s : State} (h_ok : MemOk s) :
    MemOk (fillLost e s) := by
  unfold fillLost; grind [MemOk]

theorem mem_leaveVx (n : Nat) (r : VxRun) {s : State} (h_ok : MemOk s) :
    MemOk (leaveVx n r s) := by
  unfold leaveVx; grind [MemOk, mem_setF, mem_checkEnd, mem_setVx, mem_fillLost]

theorem mem_completeSpread (e : InFlight) (p : Nat) {s : State} (h_ok : MemOk s) :
    MemOk (completeSpread e p s) := by
  unfold completeSpread; grind [MemOk, mem_forEach, mem_stepLine, mem_leaveVx]

theorem mem_execVectorStep (n : CoreNo) {s : State} (h_ok : MemOk s) :
    ∀ st, execVectorStep n s = .next st → MemOk st := by
  intro st ht; unfold execVectorStep at ht; grind [MemOk, mem_setF, mem_forEach, mem_peep, mem_setVx, mem_stepElem, mem_stepLine, mem_leaveVx, mem_completeSpread]

theorem mem_execTransomConsume (n : CoreNo) {s : State} (h_ok : MemOk s) :
    ∀ st, execTransomConsume n s = .next st → MemOk st := by
  intro st ht; unfold execTransomConsume at ht; (repeat' split at ht) <;> grind [MemOk, mem_setF, mem_forEach, mem_transomFree, mem_showTransom, mem_setVx, mem_vxCount, mem_stepElem, mem_stepLine, mem_leaveVx]

theorem mem_execOperandStaged (n : CoreNo) {s : State} (h_ok : MemOk s) :
    ∀ st, execOperandStaged n s = .next st → MemOk st := by
  intro st ht; unfold execOperandStaged at ht; grind [MemOk, mem_setF]

theorem mem_execBlockEncode (n : CoreNo) {s : State} (h_ok : MemOk s) :
    ∀ st, execBlockEncode n s = .next st → MemOk st := by
  intro st ht; unfold execBlockEncode at ht; grind [MemOk, mem_orPart, mem_setSticky, mem_putBlock, mem_encDrop, mem_checkEnd]

theorem mem_execSeamContribution (n : CoreNo) {s : State} (h_ok : MemOk s) :
    ∀ st, execSeamContribution n s = .next st → MemOk st := by
  intro st ht; unfold execSeamContribution at ht; grind [MemOk, mem_encDrop, mem_checkEnd, mem_vxCount, mem_leaveVx]

theorem mem_execVxctlCntclr (n : CoreNo) {s : State} (h_ok : MemOk s) :
    ∀ st, execVxctlCntclr n s = .next st → MemOk st := by
  intro st ht; unfold execVxctlCntclr at ht; grind [MemOk, mem_setF, mem_hostWrite]

theorem mem_execVopCopy (q : QueueNo) (d : Desc) {s : State} (h_ok : MemOk s) :
    ∀ st, execVopCopy q d s = .next st → MemOk st := by
  intro st ht; unfold execVopCopy at ht; grind [MemOk, mem_takeRing, mem_beginVop]

theorem mem_execVopNeg (q : QueueNo) (d : Desc) {s : State} (h_ok : MemOk s) :
    ∀ st, execVopNeg q d s = .next st → MemOk st := by
  intro st ht; unfold execVopNeg at ht; grind [MemOk, mem_takeRing, mem_beginVop]

theorem mem_execVopAbs (q : QueueNo) (d : Desc) {s : State} (h_ok : MemOk s) :
    ∀ st, execVopAbs q d s = .next st → MemOk st := by
  intro st ht; unfold execVopAbs at ht; grind [MemOk, mem_takeRing, mem_beginVop]

theorem mem_execVopCopysign (q : QueueNo) (d : Desc) {s : State} (h_ok : MemOk s) :
    ∀ st, execVopCopysign q d s = .next st → MemOk st := by
  intro st ht; unfold execVopCopysign at ht; grind [MemOk, mem_takeRing, mem_beginVop]

theorem mem_execVopCvt (q : QueueNo) (d : Desc) {s : State} (h_ok : MemOk s) :
    ∀ st, execVopCvt q d s = .next st → MemOk st := by
  intro st ht; unfold execVopCvt at ht; grind [MemOk, mem_takeRing, mem_beginVop]

theorem mem_execVopAdd (q : QueueNo) (d : Desc) {s : State} (h_ok : MemOk s) :
    ∀ st, execVopAdd q d s = .next st → MemOk st := by
  intro st ht; unfold execVopAdd at ht; grind [MemOk, mem_takeRing, mem_beginVop]

theorem mem_execVopSub (q : QueueNo) (d : Desc) {s : State} (h_ok : MemOk s) :
    ∀ st, execVopSub q d s = .next st → MemOk st := by
  intro st ht; unfold execVopSub at ht; grind [MemOk, mem_takeRing, mem_beginVop]

theorem mem_execVopMul (q : QueueNo) (d : Desc) {s : State} (h_ok : MemOk s) :
    ∀ st, execVopMul q d s = .next st → MemOk st := by
  intro st ht; unfold execVopMul at ht; grind [MemOk, mem_takeRing, mem_beginVop]

theorem mem_execVopFma (q : QueueNo) (d : Desc) {s : State} (h_ok : MemOk s) :
    ∀ st, execVopFma q d s = .next st → MemOk st := by
  intro st ht; unfold execVopFma at ht; grind [MemOk, mem_takeRing, mem_beginVop]

theorem mem_execVopDiv (q : QueueNo) (d : Desc) {s : State} (h_ok : MemOk s) :
    ∀ st, execVopDiv q d s = .next st → MemOk st := by
  intro st ht; unfold execVopDiv at ht; grind [MemOk, mem_takeRing, mem_beginVop]

theorem mem_execVopSqrt (q : QueueNo) (d : Desc) {s : State} (h_ok : MemOk s) :
    ∀ st, execVopSqrt q d s = .next st → MemOk st := by
  intro st ht; unfold execVopSqrt at ht; grind [MemOk, mem_takeRing, mem_beginVop]

theorem mem_execVopMin (q : QueueNo) (d : Desc) {s : State} (h_ok : MemOk s) :
    ∀ st, execVopMin q d s = .next st → MemOk st := by
  intro st ht; unfold execVopMin at ht; grind [MemOk, mem_takeRing, mem_beginVop]

theorem mem_execVopMax (q : QueueNo) (d : Desc) {s : State} (h_ok : MemOk s) :
    ∀ st, execVopMax q d s = .next st → MemOk st := by
  intro st ht; unfold execVopMax at ht; grind [MemOk, mem_takeRing, mem_beginVop]

theorem mem_execVopAffine (q : QueueNo) (d : Desc) {s : State} (h_ok : MemOk s) :
    ∀ st, execVopAffine q d s = .next st → MemOk st := by
  intro st ht; unfold execVopAffine at ht; grind [MemOk, mem_takeRing, mem_beginVop]

theorem mem_execVopRelu (q : QueueNo) (d : Desc) {s : State} (h_ok : MemOk s) :
    ∀ st, execVopRelu q d s = .next st → MemOk st := by
  intro st ht; unfold execVopRelu at ht; grind [MemOk, mem_takeRing, mem_beginVop]

theorem mem_execVopExp (q : QueueNo) (d : Desc) {s : State} (h_ok : MemOk s) :
    ∀ st, execVopExp q d s = .next st → MemOk st := by
  intro st ht; unfold execVopExp at ht; grind [MemOk, mem_takeRing, mem_beginVop]

theorem mem_execVopExp2 (q : QueueNo) (d : Desc) {s : State} (h_ok : MemOk s) :
    ∀ st, execVopExp2 q d s = .next st → MemOk st := by
  intro st ht; unfold execVopExp2 at ht; grind [MemOk, mem_takeRing, mem_beginVop]

theorem mem_execVopLog (q : QueueNo) (d : Desc) {s : State} (h_ok : MemOk s) :
    ∀ st, execVopLog q d s = .next st → MemOk st := by
  intro st ht; unfold execVopLog at ht; grind [MemOk, mem_takeRing, mem_beginVop]

theorem mem_execVopLog2 (q : QueueNo) (d : Desc) {s : State} (h_ok : MemOk s) :
    ∀ st, execVopLog2 q d s = .next st → MemOk st := by
  intro st ht; unfold execVopLog2 at ht; grind [MemOk, mem_takeRing, mem_beginVop]

theorem mem_execVopRcp (q : QueueNo) (d : Desc) {s : State} (h_ok : MemOk s) :
    ∀ st, execVopRcp q d s = .next st → MemOk st := by
  intro st ht; unfold execVopRcp at ht; grind [MemOk, mem_takeRing, mem_beginVop]

theorem mem_execVopRsqrt (q : QueueNo) (d : Desc) {s : State} (h_ok : MemOk s) :
    ∀ st, execVopRsqrt q d s = .next st → MemOk st := by
  intro st ht; unfold execVopRsqrt at ht; grind [MemOk, mem_takeRing, mem_beginVop]

theorem mem_execVopSin (q : QueueNo) (d : Desc) {s : State} (h_ok : MemOk s) :
    ∀ st, execVopSin q d s = .next st → MemOk st := by
  intro st ht; unfold execVopSin at ht; grind [MemOk, mem_takeRing, mem_beginVop]

theorem mem_execVopCos (q : QueueNo) (d : Desc) {s : State} (h_ok : MemOk s) :
    ∀ st, execVopCos q d s = .next st → MemOk st := by
  intro st ht; unfold execVopCos at ht; grind [MemOk, mem_takeRing, mem_beginVop]

theorem mem_execVopTanh (q : QueueNo) (d : Desc) {s : State} (h_ok : MemOk s) :
    ∀ st, execVopTanh q d s = .next st → MemOk st := by
  intro st ht; unfold execVopTanh at ht; grind [MemOk, mem_takeRing, mem_beginVop]

theorem mem_execVopSigmoid (q : QueueNo) (d : Desc) {s : State} (h_ok : MemOk s) :
    ∀ st, execVopSigmoid q d s = .next st → MemOk st := by
  intro st ht; unfold execVopSigmoid at ht; grind [MemOk, mem_takeRing, mem_beginVop]

theorem mem_execVopErf (q : QueueNo) (d : Desc) {s : State} (h_ok : MemOk s) :
    ∀ st, execVopErf q d s = .next st → MemOk st := by
  intro st ht; unfold execVopErf at ht; grind [MemOk, mem_takeRing, mem_beginVop]

theorem mem_execVopGelu (q : QueueNo) (d : Desc) {s : State} (h_ok : MemOk s) :
    ∀ st, execVopGelu q d s = .next st → MemOk st := by
  intro st ht; unfold execVopGelu at ht; grind [MemOk, mem_takeRing, mem_beginVop]

theorem mem_execVopSilu (q : QueueNo) (d : Desc) {s : State} (h_ok : MemOk s) :
    ∀ st, execVopSilu q d s = .next st → MemOk st := by
  intro st ht; unfold execVopSilu at ht; grind [MemOk, mem_takeRing, mem_beginVop]

theorem mem_execVopRsum (q : QueueNo) (d : Desc) {s : State} (h_ok : MemOk s) :
    ∀ st, execVopRsum q d s = .next st → MemOk st := by
  intro st ht; unfold execVopRsum at ht; grind [MemOk, mem_takeRing, mem_beginVop]

theorem mem_execVopRsumsq (q : QueueNo) (d : Desc) {s : State} (h_ok : MemOk s) :
    ∀ st, execVopRsumsq q d s = .next st → MemOk st := by
  intro st ht; unfold execVopRsumsq at ht; grind [MemOk, mem_takeRing, mem_beginVop]

theorem mem_execVopRmax (q : QueueNo) (d : Desc) {s : State} (h_ok : MemOk s) :
    ∀ st, execVopRmax q d s = .next st → MemOk st := by
  intro st ht; unfold execVopRmax at ht; grind [MemOk, mem_takeRing, mem_beginVop]

theorem mem_execVopRmin (q : QueueNo) (d : Desc) {s : State} (h_ok : MemOk s) :
    ∀ st, execVopRmin q d s = .next st → MemOk st := by
  intro st ht; unfold execVopRmin at ht; grind [MemOk, mem_takeRing, mem_beginVop]

theorem mem_execVopRamax (q : QueueNo) (d : Desc) {s : State} (h_ok : MemOk s) :
    ∀ st, execVopRamax q d s = .next st → MemOk st := by
  intro st ht; unfold execVopRamax at ht; grind [MemOk, mem_takeRing, mem_beginVop]

theorem mem_execVopSoftmax (q : QueueNo) (d : Desc) {s : State} (h_ok : MemOk s) :
    ∀ st, execVopSoftmax q d s = .next st → MemOk st := by
  intro st ht; unfold execVopSoftmax at ht; grind [MemOk, mem_takeRing, mem_beginVop]

theorem mem_execVopLayernorm (q : QueueNo) (d : Desc) {s : State} (h_ok : MemOk s) :
    ∀ st, execVopLayernorm q d s = .next st → MemOk st := by
  intro st ht; unfold execVopLayernorm at ht; grind [MemOk, mem_takeRing, mem_beginVop]

theorem mem_execVopRmsnorm (q : QueueNo) (d : Desc) {s : State} (h_ok : MemOk s) :
    ∀ st, execVopRmsnorm q d s = .next st → MemOk st := by
  intro st ht; unfold execVopRmsnorm at ht; grind [MemOk, mem_takeRing, mem_beginVop]

theorem mem_execVopXent (q : QueueNo) (d : Desc) {s : State} (h_ok : MemOk s) :
    ∀ st, execVopXent q d s = .next st → MemOk st := by
  intro st ht; unfold execVopXent at ht; grind [MemOk, mem_takeRing, mem_beginVop]

theorem mem_execVopXentgrad (q : QueueNo) (d : Desc) {s : State} (h_ok : MemOk s) :
    ∀ st, execVopXentgrad q d s = .next st → MemOk st := by
  intro st ht; unfold execVopXentgrad at ht; grind [MemOk, mem_takeRing, mem_beginVop]

end Sys2Proof.Machine
end

