-- ==== Sys2Proof/Laws/MemWindow.lean ====
section
/-! SUPPORT. No operation of Machine/Window.lean breaks the canonical form of the memory. -/

namespace Sys2Proof.Machine

set_option Elab.async false

theorem mem_chargeWindow {s : State} (h_ok : MemOk s) :
    MemOk (chargeWindow s) := by
  unfold chargeWindow; grind [MemOk, mem_charge]

theorem mem_unchargeWindow {s : State} (h_ok : MemOk s) :
    MemOk (unchargeWindow s) := by
  unfold unchargeWindow; grind [MemOk, mem_uncharge]

theorem mem_startWindow {s : State} (h_ok : MemOk s) :
    MemOk (startWindow s) := by
  unfold startWindow; grind [MemOk, mem_setF, mem_errRecord, mem_chargeWindow]

theorem mem_wipeWindow {s : State} (h_ok : MemOk s) :
    MemOk (wipeWindow s) := by
  unfold wipeWindow; grind [MemOk, mem_forEach, mem_wipeRange]

theorem mem_freeWindow {s : State} (h_ok : MemOk s) :
    MemOk (freeWindow s) := by
  unfold freeWindow; grind [MemOk, mem_setF, mem_unchargeWindow, mem_wipeWindow]

theorem mem_followWindow {s : State} (h_ok : MemOk s) :
    MemOk (followWindow s) := by
  unfold followWindow; grind [MemOk, mem_setF, mem_startWindow]

theorem mem_execHdmctlEn (on : Bool) {s : State} (h_ok : MemOk s) :
    ∀ st, execHdmctlEn on s = .next st → MemOk st := by
  intro st ht; unfold execHdmctlEn at ht; grind [MemOk, mem_setF, mem_regAccessError, mem_hostWrite, mem_followWindow]

theorem mem_execHdmsizeWrite (units : Nat) {s : State} (h_ok : MemOk s) :
    ∀ st, execHdmsizeWrite units s = .next st → MemOk st := by
  intro st ht; unfold execHdmsizeWrite at ht; grind [MemOk, mem_setF, mem_regAccessError, mem_hostWrite]

theorem mem_execHdmZeroingDone {s : State} (h_ok : MemOk s) :
    ∀ st, execHdmZeroingDone s = .next st → MemOk st := by
  intro st ht; unfold execHdmZeroingDone at ht; grind [MemOk, mem_setF, mem_wipeWindow, mem_followWindow]

theorem mem_execHdmReleaseDrained {s : State} (h_ok : MemOk s) :
    ∀ st, execHdmReleaseDrained s = .next st → MemOk st := by
  intro st ht; unfold execHdmReleaseDrained at ht; grind [MemOk, mem_freeWindow, mem_followWindow]

theorem mem_execHdmDecoderCommit (size : Nat) {s : State} (h_ok : MemOk s) :
    ∀ st, execHdmDecoderCommit size s = .next st → MemOk st := by
  intro st ht; unfold execHdmDecoderCommit at ht; grind [MemOk, mem_hostWrite]

theorem mem_snoopRange (o : Nat) (n : Nat) (inv : Bool) {s : State} (h_ok : MemOk s) :
    MemOk (snoopRange o n inv s) := by
  unfold snoopRange; grind [MemOk, mem_forEach, mem_emit]

theorem mem_winRead (o : Nat) (n : Nat) {s : State} (h_ok : MemOk s) :
    MemOk (winRead o n s).2 := by
  unfold winRead; grind [MemOk, mem_satF, mem_snoopRange]

theorem mem_winPutLine (o : Nat) (bs : List Byte) {s : State} (h_ok : MemOk s) :
    MemOk (winPutLine o bs s) := by
  unfold winPutLine; grind [MemOk, mem_memWrite, mem_healRange]

theorem mem_winPut (fuel o : Nat) (bs : List Byte) {s : State} (h_ok : MemOk s) : MemOk (winPut fuel o bs s) := by
  induction fuel generalizing o bs s with
  | zero => exact h_ok
  | succ k ih =>
    unfold winPut; dsimp only; split
    · exact h_ok
    · exact ih _ _ (mem_winPutLine _ _ h_ok)

theorem mem_winWrite (o : Nat) (bs : List Byte) {s : State} (h_ok : MemOk s) : MemOk (winWrite o bs s) :=
  mem_winPut _ _ _ (mem_snoopRange _ _ _ h_ok)

theorem mem_execBar4Access (off : Nat) (write : Option (List Byte)) (len : Nat) {s : State} (h_ok : MemOk s) :
    ∀ st, execBar4Access off write len s = .next st → MemOk st := by
  intro st ht; unfold execBar4Access at ht; grind [MemOk, mem_forEach, mem_emit, mem_peep, mem_winRead, mem_winWrite]

theorem mem_execCxlMemRead (line : Nat) {s : State} (h_ok : MemOk s) :
    ∀ st, execCxlMemRead line s = .next st → MemOk st := by
  intro st ht; unfold execCxlMemRead at ht; grind [MemOk, mem_satF, mem_emit, mem_peep]

theorem mem_execCxlMemWrite (line : Nat) (data : List Byte) (poison : Bool) {s : State} (h_ok : MemOk s) :
    ∀ st, execCxlMemWrite line data poison s = .next st → MemOk st := by
  intro st ht; unfold execCxlMemWrite at ht; grind [MemOk, mem_peep, mem_poisonLine, mem_winPutLine]

theorem mem_execHostSnoop (addr : Nat) {s : State} (h_ok : MemOk s) :
    ∀ st, execHostSnoop addr s = .next st → MemOk st := by
  intro st ht; unfold execHostSnoop at ht; grind [MemOk, mem_emit]

end Sys2Proof.Machine
end

