-- ==== Sys2Proof/Laws/MemMovers.lean ====
section
/-! SUPPORT. No operation of Machine/Movers.lean breaks the canonical form of the memory. -/

namespace Sys2Proof.Machine

set_option Elab.async false

theorem mem_setCover (owner : Nat) (h : Nat) (pane : Nat) (spans : List (Nat × Nat)) {s : State} (h_ok : MemOk s) :
    MemOk (setCover owner h pane spans s) := by
  unfold setCover; grind [MemOk]

theorem mem_placeForWrite (root : Tensor) (i : Nat) {s : State} (h : MemOk s) : MemOk (placeForWrite root i s).2.1 := by
  unfold placeForWrite
  have h1 := fun tier => mem_allocAll tier root [i] h
  grind [mem_recordQlast]

theorem mem_mergeCopy (root : Tensor) (w : WorkCopy) (l : PaneLoc) {s : State} (h_ok : MemOk s) :
    MemOk (mergeCopy root w l s).1 := by
  unfold mergeCopy; grind [MemOk, mem_checkedRead, mem_setCover]

theorem mem_writeMerged (root : Tensor) (i : Nat) (l : PaneLoc) (p : PaneData) (spans : List (Nat × Nat)) (anew : Bool) {s : State} (h_ok : MemOk s) :
    MemOk (writeMerged root i l p spans anew s) := by
  unfold writeMerged; grind [MemOk, mem_memPutCells, mem_writePane, mem_healSpans]

theorem mem_slotForWrite (w : WorkCopy) {s : State} (h_ok : MemOk s) : MemOk (slotForWrite w s).2.1 := by
  have h1 := mem_placeForWrite (tensorAt w.handle s) w.pane h_ok
  unfold slotForWrite; dsimp only
  split
  · exact h_ok
  · split
    · rename_i heq; rw [heq] at h1; exact h1
    · rename_i l u st heq
      rw [heq] at h1
      split
      · exact h1
      · split <;> (rename_i h2; have h3 := mem_programSlot l 66560 h1; rw [h2] at h3; exact h3)

theorem mem_storeCopy (w : WorkCopy) {s : State} (h_ok : MemOk s) : MemOk (storeCopy w s).1 := by
  have h1 := mem_slotForWrite w h_ok
  unfold storeCopy; dsimp only
  split
  · rename_i heq; rw [heq] at h1; exact h1
  · rename_i heq; rw [heq] at h1; exact mem_writeMerged _ _ _ _ _ _ (mem_mergeCopy _ _ _ h1)

theorem mem_cleanCopy (w : WorkCopy) {s : State} (h_ok : MemOk s) :
    MemOk (cleanCopy w s) := by
  unfold cleanCopy; grind [MemOk]

theorem mem_execMoverWriteBack (n : CoreNo) (handle : Nat) (pane : Nat) {s : State} (h_ok : MemOk s) :
    ∀ st, execMoverWriteBack n handle pane s = .next st → MemOk st := by
  intro st ht; unfold execMoverWriteBack at ht; grind [MemOk, mem_startCommit, mem_orPart, mem_checkEnd, mem_storeCopy, mem_cleanCopy]

theorem mem_flashBad (root : Tensor) (i : Nat) (bad : Nat) {s : State} (h_ok : MemOk s) :
    MemOk (flashBad root i bad s) := by
  unfold flashBad; grind [MemOk, mem_markPoison, mem_flashUncorrectable]

theorem mem_peepPort (h : Nat) (i : Nat) (n : Nat) {s : State} (h_ok : MemOk s) :
    MemOk (peepPort h i n s) := by
  unfold peepPort; grind [MemOk, mem_peep]

theorem mem_trimCopies (n : Nat) {s : State} (h_ok : MemOk s) :
    MemOk (trimCopies n s) := by
  unfold trimCopies; grind [MemOk]

theorem mem_stagePane (n : Nat) (owner : Nat) (handle : Nat) (pane : Nat) (p : PaneData) (sill : List (Nat × Nat)) {s : State} (h_ok : MemOk s) :
    MemOk (stagePane n owner handle pane p sill s) := by
  unfold stagePane; grind [MemOk, mem_upsertCopy, mem_trimCopies]

theorem mem_execPaneRead (n : MoverEnd) (handle : Nat) (pane : Nat) (bad : ReadFault) {s : State} (h_ok : MemOk s) :
    ∀ st, execPaneRead n handle pane bad s = .next st → MemOk st := by
  intro st ht; unfold execPaneRead at ht; grind [MemOk, mem_forEach, mem_moverRead, mem_flashBad, mem_peepPort, mem_stagePane]

theorem mem_stageTensor (owner : Nat) (t : Tensor) {s : State} (h_ok : MemOk s) :
    MemOk (stageTensor owner t s) := by
  unfold stageTensor; grind [MemOk, mem_forEach, mem_moverRead, mem_upsertCopy, mem_peepPort]

theorem mem_flushCopies (owner : Nat) {s : State} (h_ok : MemOk s) : MemOk (flushCopies owner s).1 := by
  unfold flushCopies
  exact mem_foldl _ _ _ (fun b x hb => mem_cleanCopy _ (mem_storeCopy _ hb)) h_ok

theorem mem_endWhole (e : InFlight) (status : Nat) (flags : Nat) {s : State} (h_ok : MemOk s) :
    MemOk (endWhole e status flags s) := by
  unfold endWhole; grind [MemOk, mem_setFlight]

theorem mem_writeScalar (owner : Nat) (t : Tensor) (root : Tensor) (x : List Nat) (bits : Nat) (poison : Bool) {s : State} (h_ok : MemOk s) :
    MemOk (writeScalar owner t root x bits poison s) := by
  unfold writeScalar; grind [MemOk, mem_putElem]

theorem mem_writeBlock (owner : Nat) (t : Tensor) (root : Tensor) (x : List Nat) (len : Nat) (scale : Nat) (elems : List Nat) (poison : Bool) {s : State} (h_ok : MemOk s) :
    MemOk (writeBlock owner t root x len scale elems poison s) := by
  unfold writeBlock; grind [MemOk, mem_putBlock]

theorem mem_convertInto (owner : Nat) (t : Tensor) (flush : Bool) (f : List Nat → Num × Nat × Bool) {s : State} (h_ok : MemOk s) :
    MemOk (convertInto owner t flush f s).1 := by
  unfold convertInto; dsimp only; split
  · exact mem_foldl _ _ _ (fun b x hb => mem_writeBlock _ _ _ _ _ _ _ _ hb) h_ok
  · exact mem_foldl _ _ _ (fun b x hb => mem_writeScalar _ _ _ _ _ _ hb) h_ok

theorem mem_copyBits (owner : Nat) (a b : Tensor) {s : State} (h_ok : MemOk s) : MemOk (copyBits owner a b s).1 := by
  unfold copyBits; dsimp only; split
  · exact mem_foldl _ _ _ (fun b x hb => mem_writeBlock _ _ _ _ _ _ _ _ hb) h_ok
  · exact mem_foldl _ _ _ (fun b x hb => mem_writeScalar _ _ _ _ _ _ hb) h_ok

theorem mem_moveCopyWork (e : InFlight) {s : State} (h_ok : MemOk s) :
    MemOk (moveCopyWork e s) := by
  unfold moveCopyWork; grind [MemOk, mem_stageTensor, mem_flushCopies, mem_endWhole, mem_convertInto, mem_copyBits]

theorem mem_moveFillWork (e : InFlight) {s : State} (h_ok : MemOk s) :
    MemOk (moveFillWork e s) := by
  unfold moveFillWork; grind [MemOk, mem_flushCopies, mem_endWhole, mem_convertInto]

theorem mem_moveImportWork (e : InFlight) {s : State} (h_ok : MemOk s) : MemOk (moveImportWork e s) := by
  unfold moveImportWork; dsimp only
  refine mem_endWhole _ _ _ (mem_flushCopies _ ?_)
  have hr : ∀ o n, MemOk (winRead o n s).2 := fun o n => mem_winRead o n h_ok
  split
  · exact mem_foldl _ _ _ (fun b x hb => mem_writeBlock _ _ _ _ _ _ _ _ hb) (hr _ _)
  · exact mem_foldl _ _ _ (fun b x hb => mem_writeScalar _ _ _ _ _ _ hb) (hr _ _)

theorem mem_moveExportWork (e : InFlight) {s : State} (h_ok : MemOk s) :
    MemOk (moveExportWork e s) := by
  unfold moveExportWork; grind [MemOk, mem_winWrite, mem_stageTensor, mem_endWhole]

theorem mem_movePane (t : Tensor) (i : Nat) (old : PaneLoc) (l : PaneLoc) {s : State} (h_ok : MemOk s) :
    MemOk (movePane t i old l s).1 := by
  unfold movePane; grind [MemOk, mem_charge, mem_uncharge, mem_setLoc, mem_freeSlotBytes, mem_writePane, mem_programSlot, mem_checkedRead]

theorem mem_migrateAll (tier : Nat) (t : Tensor) (is : List Nat) (a : State × Bool × Nat) (h : MemOk a.1) :
    ∀ r, migrateAll tier t is a = some r → MemOk r.1 := by
  induction is generalizing a with
  | nil => intro r hr; unfold migrateAll at hr; grind
  | cons i t ih => intro r hr; unfold migrateAll at hr; grind [mem_movePane]

theorem mem_moveMigrateWork (e : InFlight) {s : State} (h_ok : MemOk s) : MemOk (moveMigrateWork e s) := by
  have hm : ∀ tier t is r, migrateAll tier t is (s, false, 0) = some r → MemOk r.1 := fun tier t is r => mem_migrateAll tier t is _ h_ok r
  unfold moveMigrateWork; dsimp only
  split
  · exact mem_failCheck _ _ _ (mem_recordQlast _ _ _ h_ok)
  · split
    · exact mem_failCheck _ _ _ (mem_recordQlast _ _ _ h_ok)
    · rename_i heq; exact mem_endWhole _ _ _ (hm _ _ _ _ heq)

theorem mem_moveReleaseWork (e : InFlight) {s : State} (h_ok : MemOk s) :
    MemOk (moveReleaseWork e s) := by
  unfold moveReleaseWork; grind [MemOk, mem_forEach, mem_releasePane, mem_endWhole]

theorem mem_beginMove (e : InFlight) {s : State} (h_ok : MemOk s) :
    MemOk (beginMove e s) := by
  unfold beginMove; grind [MemOk, mem_validated, mem_chargeThen, mem_moveCopyWork, mem_moveFillWork, mem_moveImportWork, mem_moveExportWork, mem_moveMigrateWork, mem_moveReleaseWork]

theorem mem_takeMove (op : Nat) (q : QueueNo) (d : Desc) {s : State} (h_ok : MemOk s) :
    MemOk (takeMove op q d s) := by
  unfold takeMove; grind [MemOk, mem_takeRing, mem_beginMove]

theorem mem_execMoveCopy (q : QueueNo) (d : Desc) {s : State} (h_ok : MemOk s) :
    ∀ st, execMoveCopy q d s = .next st → MemOk st := by
  intro st ht; unfold execMoveCopy at ht; grind [MemOk, mem_takeMove]

theorem mem_execMoveFill (q : QueueNo) (d : Desc) {s : State} (h_ok : MemOk s) :
    ∀ st, execMoveFill q d s = .next st → MemOk st := by
  intro st ht; unfold execMoveFill at ht; grind [MemOk, mem_takeMove]

theorem mem_execMoveMigrate (q : QueueNo) (d : Desc) {s : State} (h_ok : MemOk s) :
    ∀ st, execMoveMigrate q d s = .next st → MemOk st := by
  intro st ht; unfold execMoveMigrate at ht; grind [MemOk, mem_takeMove]

theorem mem_execMoveImport (q : QueueNo) (d : Desc) {s : State} (h_ok : MemOk s) :
    ∀ st, execMoveImport q d s = .next st → MemOk st := by
  intro st ht; unfold execMoveImport at ht; grind [MemOk, mem_takeMove]

theorem mem_execMoveExport (q : QueueNo) (d : Desc) {s : State} (h_ok : MemOk s) :
    ∀ st, execMoveExport q d s = .next st → MemOk st := by
  intro st ht; unfold execMoveExport at ht; grind [MemOk, mem_takeMove]

theorem mem_execMoveRelease (q : QueueNo) (d : Desc) {s : State} (h_ok : MemOk s) :
    ∀ st, execMoveRelease q d s = .next st → MemOk st := by
  intro st ht; unfold execMoveRelease at ht; grind [MemOk, mem_takeMove]

end Sys2Proof.Machine
end

