-- ==== Sys2Proof/Laws/MemPlacement.lean ====
section
/-! SUPPORT. No operation of Machine/Placement.lean breaks the canonical form of the memory. -/

namespace Sys2Proof.Machine

set_option Elab.async false

theorem mem_showCores (l : List (Nat × Nat × Nat)) {s : State} (h_ok : MemOk s) :
    MemOk (showCores l s) := by
  unfold showCores; grind [MemOk, mem_setF, mem_forEach]

theorem mem_showNode (im : Image) (r : Nat × Nat × Nat) (st : List (Nat × Nat)) {s : State} (h_ok : MemOk s) :
    MemOk (showNode im r st s) := by
  unfold showNode; grind [MemOk, mem_setF]

theorem mem_placeTensor (held : Tensor → List Nat) (t : Tensor) {s : State} (h_ok : MemOk s) :
    MemOk (placeTensor held t s) := by
  unfold placeTensor; grind [MemOk, mem_setF, mem_forEach, mem_allocPane]

theorem mem_takeTopology {s : State} (h_ok : MemOk s) :
    MemOk (takeTopology s) := by
  unfold takeTopology; grind [MemOk, mem_forEach, mem_setCart]

theorem mem_placeImage (held : Tensor → List Nat) {s : State} (h_ok : MemOk s) :
    MemOk (placeImage held s).1 := by
  unfold placeImage; grind [MemOk, mem_setF, mem_forEach, mem_showCores, mem_showNode, mem_placeTensor, mem_takeTopology]

theorem mem_placed (perr : Nat) {s : State} (h_ok : MemOk s) :
    MemOk (placed perr s) := by
  unfold placed; grind [MemOk, mem_setF, mem_addF]

theorem mem_execTierReplace {s : State} (h_ok : MemOk s) :
    ∀ st, execTierReplace s = .next st → MemOk st := by
  intro st ht; unfold execTierReplace at ht; grind [MemOk, mem_setF, mem_hostWrite]

theorem mem_collectPanes {s : State} (h_ok : MemOk s) : MemOk (collectPanes s).2 := by
  unfold collectPanes
  refine mem_foldl' _ _ _ (fun b x hb => ?_) h_ok
  dsimp only
  split
  · exact hb
  · split
    · exact hb
    · exact mem_moverRead _ _ hb

theorem mem_putWindowUnit (runs : List (Nat × Nat × Nat)) (u : Nat) (x : Option (List Host.Cell × List Nat)) {s : State} (h_ok : MemOk s) :
    MemOk (putWindowUnit runs u x s) := by
  unfold putWindowUnit; grind [MemOk, mem_forEach, mem_memPutCells, mem_poisonLine, mem_healRange]

theorem mem_moveWindow (new : List (Nat × Nat × Nat)) (before : State) {s : State} (h_ok : MemOk s) :
    MemOk (moveWindow new before s) := by
  unfold moveWindow; grind [MemOk, mem_setF, mem_forEach, mem_putWindowUnit]

theorem mem_putPane (m : MovedPane) {s : State} (h_ok : MemOk s) :
    MemOk (putPane m s) := by
  unfold putPane; grind [MemOk, mem_writePane, mem_programWhole]

theorem mem_replaceFails (perr : Nat) {s : State} (h_ok : MemOk s) :
    MemOk (replaceFails perr s) := by
  unfold replaceFails; grind [MemOk, mem_setF, mem_placed]

theorem mem_replaceNow {s : State} (h_ok : MemOk s) :
    MemOk (replaceNow s) := by
  unfold replaceNow; grind [MemOk, mem_setF, mem_forEach, mem_healRange, mem_freeSlotBytes, mem_chargeWindow, mem_placeImage, mem_placed, mem_collectPanes, mem_moveWindow, mem_putPane, mem_replaceFails]

theorem mem_execReplaceQuiesced {s : State} (h_ok : MemOk s) :
    ∀ st, execReplaceQuiesced s = .next st → MemOk st := by
  intro st ht; unfold execReplaceQuiesced at ht; grind [MemOk, mem_setF, mem_replaceNow]

theorem mem_setMqdata (ws : List Nat) {s : State} (h_ok : MemOk s) :
    MemOk (setMqdata ws s) := by
  unfold setMqdata; grind [MemOk, mem_setF, mem_forEach]

theorem mem_execMqReadMetadata {s : State} (h_ok : MemOk s) :
    ∀ st, execMqReadMetadata s = .next st → MemOk st := by
  intro st ht; unfold execMqReadMetadata at ht; grind [MemOk, mem_setF, mem_hostWrite, mem_setMqdata]

theorem mem_execMqReadPlacement {s : State} (h_ok : MemOk s) :
    ∀ st, execMqReadPlacement s = .next st → MemOk st := by
  intro st ht; unfold execMqReadPlacement at ht; grind [MemOk, mem_setF, mem_hostWrite, mem_setMqdata]

end Sys2Proof.Machine
end

