-- ==== Sys2Proof/Laws/MemLinks.lean ====
section
/-! SUPPORT. No operation of Machine/Links.lean breaks the canonical form of the memory. -/

namespace Sys2Proof.Machine

set_option Elab.async false

theorem mem_setDw (w : Nat) (f : DwAux → DwAux) {s : State} (h_ok : MemOk s) :
    MemOk (setDw w f s) := by
  unfold setDw; grind [MemOk]

theorem mem_linkRecord (sev : Nat) (w : Nat) (detail : List Nat) {s : State} (h_ok : MemOk s) :
    MemOk (linkRecord sev w detail s) := by
  unfold linkRecord; grind [MemOk, mem_errRecord]

theorem mem_writeDwctl (w : Nat) (value : Nat) {s : State} (h_ok : MemOk s) :
    MemOk (writeDwctl w value s) := by
  unfold writeDwctl; grind [MemOk, mem_setF, mem_regAccessError]

theorem mem_execDwctlWrite (w : DoorwayNo) (value : Nat) {s : State} (h_ok : MemOk s) :
    ∀ st, execDwctlWrite w value s = .next st → MemOk st := by
  intro st ht; unfold execDwctlWrite at ht; grind [MemOk, mem_hostWrite, mem_writeDwctl]

theorem mem_startTraining (w : Nat) {s : State} (h_ok : MemOk s) :
    MemOk (startTraining w s) := by
  unfold startTraining; grind [MemOk, mem_setF, mem_emit]

theorem mem_trainingFails (w : Nat) {s : State} (h_ok : MemOk s) :
    MemOk (trainingFails w s) := by
  unfold trainingFails; grind [MemOk, mem_setF, mem_setDw, mem_linkRecord]

theorem mem_execLinkTrainingDone (w : DoorwayNo) (r : LinkTraining) {s : State} (h_ok : MemOk s) :
    ∀ st, execLinkTrainingDone w r s = .next st → MemOk st := by
  intro st ht; unfold execLinkTrainingDone at ht; grind [MemOk, mem_setF, mem_setDw, mem_trainingFails]

theorem mem_execLinkLockLoss (w : DoorwayNo) {s : State} (h_ok : MemOk s) :
    ∀ st, execLinkLockLoss w s = .next st → MemOk st := by
  intro st ht; unfold execLinkLockLoss at ht; grind [MemOk, mem_setDw, mem_startTraining]

theorem mem_sendFrame (w : Nat) (p : List Byte) {s : State} (h_ok : MemOk s) :
    MemOk (sendFrame w p s) := by
  unfold sendFrame; grind [MemOk, mem_addF, mem_emit, mem_peep]

theorem mem_drainFrames (w : Nat) {s : State} (h_ok : MemOk s) :
    MemOk (drainFrames w s) := by
  unfold drainFrames; grind [MemOk, mem_forEach, mem_setDw, mem_sendFrame]

theorem mem_sendPacket (w : Nat) (tc : Nat) (p : List Byte) {s : State} (h_ok : MemOk s) :
    MemOk (sendPacket w tc p s) := by
  unfold sendPacket; grind [MemOk, mem_setDw, mem_drainFrames]

theorem mem_arrive (w : Nat) (p : List Byte) (ce : Bool) {s : State} (h_ok : MemOk s) :
    MemOk (arrive w p ce s) := by
  unfold arrive; grind [MemOk, mem_addF, mem_satF, mem_setDw]

theorem mem_takeArrived (w : Nat) (kind : Nat) (p : List Byte) (ce : Bool) {s : State} (h_ok : MemOk s) :
    ∀ st, takeArrived w kind p ce s = some st → MemOk st := by
  intro st ht; unfold takeArrived at ht; grind [MemOk, mem_setDw]

theorem mem_execFlitSend (w : DoorwayNo) {s : State} (h_ok : MemOk s) :
    ∀ st, execFlitSend w s = .next st → MemOk st := by
  intro st ht; unfold execFlitSend at ht; grind [MemOk, mem_addF, mem_emit, mem_peep, mem_setDw]

theorem mem_retireGap (w : Nat) (tc : Nat) (fseq : Nat) {s : State} (h_ok : MemOk s) :
    MemOk (retireGap w tc fseq s) := by
  unfold retireGap; grind [MemOk, mem_setDw]

theorem mem_takeCredits (w : Nat) (cred : Nat) {s : State} (h_ok : MemOk s) :
    MemOk (takeCredits w cred s) := by
  unfold takeCredits; grind [MemOk, mem_setDw]

theorem mem_countFec (w t : Nat) (errors : List Nat) {s : State} (h_ok : MemOk s) :
    MemOk (countFec w t errors s) := by
  unfold countFec; grind [MemOk, mem_addF]

theorem mem_takeFlit (w : Nat) (flit : List Byte) {s : State} (h_ok : MemOk s) :
    MemOk (takeFlit w flit s) := by
  unfold takeFlit; grind [MemOk, mem_satF, mem_forEach, mem_peep, mem_setDw, mem_arrive, mem_retireGap, mem_takeCredits]

theorem mem_execFlitReceive (w : DoorwayNo) (flit : LineIn) {s : State} (h_ok : MemOk s) :
    ∀ st, execFlitReceive w flit s = .next st → MemOk st := by
  intro st ht; unfold execFlitReceive at ht; grind [MemOk, mem_takeFlit, mem_countFec]

theorem mem_takePfc (w : Nat) (f : List Byte) {s : State} (h_ok : MemOk s) :
    MemOk (takePfc w f s) := by
  unfold takePfc; grind [MemOk, mem_setDw, mem_drainFrames]

theorem mem_takeFrame (w : Nat) (frame : List Byte) {s : State} (h_ok : MemOk s) :
    MemOk (takeFrame w frame s) := by
  unfold takeFrame; grind [MemOk, mem_satF, mem_peep, mem_arrive, mem_takePfc]

theorem mem_execFrameReceive (w : DoorwayNo) (frame : LineIn) {s : State} (h_ok : MemOk s) :
    ∀ st, execFrameReceive w frame s = .next st → MemOk st := by
  intro st ht; unfold execFrameReceive at ht; grind [MemOk, mem_takeFrame, mem_countFec]

theorem mem_execPriorityFlowControlPauseEnd (w : DoorwayNo) (prio : Fin 8) {s : State} (h_ok : MemOk s) :
    ∀ st, execPriorityFlowControlPauseEnd w prio s = .next st → MemOk st := by
  intro st ht; unfold execPriorityFlowControlPauseEnd at ht; grind [MemOk, mem_setDw, mem_drainFrames]

end Sys2Proof.Machine
end

