-- ==== Sys2Proof/Laws/MemColl.lean ====
section
/-! SUPPORT. No operation of Machine/Coll.lean breaks the canonical form of the memory. -/

namespace Sys2Proof.Machine

set_option Elab.async false

theorem mem_setCtx (x : Nat) (f : CompCtx → CompCtx) {s : State} (h_ok : MemOk s) :
    MemOk (setCtx x f s) := by
  unfold setCtx; grind [MemOk]

theorem mem_installTable (x : Nat) (t : CompTable) {s : State} (h_ok : MemOk s) :
    MemOk (installTable x t s) := by
  unfold installTable; grind [MemOk, mem_setCtx]

theorem mem_retireIfDone (x : Nat) {s : State} (h_ok : MemOk s) :
    MemOk (retireIfDone x s) := by
  unfold retireIfDone; grind [MemOk, mem_setF, mem_trace, mem_setCtx]

theorem mem_setColl (id : Nat) (f : CollJob → CollJob) {s : State} (h_ok : MemOk s) :
    MemOk (setColl id f s) := by
  unfold setColl; grind [MemOk]

theorem mem_gatherDone (j : CollJob) {s : State} (h_ok : MemOk s) :
    MemOk (gatherDone j s) := by
  unfold gatherDone; grind [MemOk, mem_forEach, mem_emit, mem_setColl]

theorem mem_collProgress (tag : Nat) {s : State} (h_ok : MemOk s) :
    MemOk (collProgress tag s) := by
  unfold collProgress; grind [MemOk, mem_emit, mem_setColl, mem_gatherDone]

theorem mem_allocShadow (tier : Nat) (t : Tensor) (id : Nat) (i : Nat) {s : State} (h_ok : MemOk s) :
    MemOk (allocShadow tier t id i s) := by
  unfold allocShadow; grind [MemOk, mem_charge, mem_freeSlotBytes]

theorem mem_shadowAll (id : Nat) (t : Tensor) {s : State} (h : MemOk s) :
    (∀ u, (shadowAll id t s).1 = some u → MemOk u) ∧ MemOk (shadowAll id t s).2.1 := by
  have hf : ∀ is root tier, MemOk (forEach is (fun i s => allocShadow tier root id i s) s) :=
    fun is root tier => mem_forEach _ _ (fun i x hx => mem_allocShadow tier root id i hx) h
  unfold shadowAll
  grind [mem_recordQlast]

theorem mem_shadowEach (id : Nat) (hs : List Nat) {s : State} (h : MemOk s) :
    (∀ u, (shadowEach id hs s).1 = some u → MemOk u) ∧ MemOk (shadowEach id hs s).2.1 := by
  induction hs generalizing s with
  | nil => unfold shadowEach; grind
  | cons a t ih =>
    have h1 := mem_shadowAll id (tensorAt a s) h
    unfold shadowEach
    rcases hA : shadowAll id (tensorAt a s) s with ⟨_ | u, q, st⟩
    · rw [hA] at h1; exact ⟨by simp, h1.2⟩
    · rw [hA] at h1
      have h2 := ih (h1.1 u rfl)
      rcases hB : shadowEach id t u with ⟨_ | v, q', st'⟩ <;> simp only [hB]
      · exact ⟨by simp, mem_setF _ _ (mem_setF _ _ (mem_setF _ _ (mem_setF _ _ h)))⟩
      · rw [hB] at h2; exact ⟨fun w hw => by cases hw; exact h2.1 _ rfl, h⟩

theorem mem_dropShadows (id : Nat) {s : State} (h_ok : MemOk s) :
    MemOk (dropShadows id s) := by
  unfold dropShadows; grind [MemOk, mem_forEach, mem_uncharge, mem_freeSlotBytes]

theorem mem_commitShadow (w : WorkCopy) {s : State} (h_ok : MemOk s) :
    MemOk (commitShadow w s).1 := by
  unfold commitShadow; grind [MemOk, mem_setLoc, mem_releasePane, mem_writePane, mem_programSlot, mem_moverRead]

theorem mem_commitShadows (id : Nat) {s : State} (h_ok : MemOk s) :
    MemOk (commitShadows id s).1 := by
  unfold commitShadows; dsimp only
  repeat' (first | with_reducible assumption | with_reducible apply mem_commitShadow | with_reducible apply mem_dropShadows | (with_reducible refine mem_foldl _ _ _ (fun _ _ _ => ?_) ?_) | (with_reducible refine mem_foldl' _ _ _ (fun _ _ _ => ?_) ?_) | (with_reducible refine mem_forEach _ _ (fun _ _ _ => ?_) ?_) | (with_reducible apply mem_mk; change MemOk _) | split | intro _)

theorem mem_putLinearByte (owner : Nat) (t : Tensor) (root : Tensor) (o : Nat) (b : Byte) {s : State} (h_ok : MemOk s) :
    MemOk (putLinearByte owner t root o b s) := by
  unfold putLinearByte; grind [MemOk, mem_putSpan, mem_putTadj]

theorem mem_putLinear (owner : Nat) (t : Tensor) (o : Nat) (bs : List Byte) {s : State} (h_ok : MemOk s) :
    MemOk (putLinear owner t o bs s) := by
  unfold putLinear; grind [MemOk, mem_forEach, mem_writeScalar, mem_putLinearByte]

theorem mem_poisonLinear (owner : Nat) (t : Tensor) (o : Nat) {s : State} (h_ok : MemOk s) :
    MemOk (poisonLinear owner t o s) := by
  unfold poisonLinear; grind [MemOk, mem_putPoison]

theorem mem_dropColl (j : CollJob) {s : State} (h_ok : MemOk s) :
    MemOk (dropColl j s) := by
  unfold dropColl; grind [MemOk, mem_forEach, mem_setCtx]

theorem mem_failColl (status : Nat) (j : CollJob) {s : State} (h_ok : MemOk s) :
    MemOk (failColl status j s) := by
  unfold failColl; grind [MemOk, mem_finish, mem_dropShadows, mem_dropColl]

theorem mem_reportDigests (j : CollJob) {s : State} (h_ok : MemOk s) :
    MemOk (reportDigests j s) := by
  unfold reportDigests; grind [MemOk, mem_setF, mem_forEach, mem_errRecord]

theorem mem_commitColl (j : CollJob) {s : State} (h_ok : MemOk s) :
    MemOk (commitColl j s) := by
  unfold commitColl; grind [MemOk, mem_forEach, mem_finish, mem_commitShadows, mem_putLinear, mem_poisonLinear, mem_dropColl, mem_reportDigests]

theorem mem_setConn (w : Nat) (peer : Nat) (f : Conn → Conn) {s : State} (h_ok : MemOk s) :
    MemOk (setConn w peer f s) := by
  unfold setConn; grind [MemOk]

theorem mem_endCarriage (status : Nat) (peer : Option Nat) {s : State} (h_ok : MemOk s) :
    MemOk (endCarriage status peer s) := by
  unfold endCarriage; grind [MemOk]

theorem mem_failConn (w : Nat) (peer : Nat) {s : State} (h_ok : MemOk s) :
    MemOk (failConn w peer s) := by
  unfold failConn; grind [MemOk, mem_setF, mem_satF, mem_forEach, mem_trace, mem_linkRecord, mem_failColl, mem_setConn, mem_endCarriage]

end Sys2Proof.Machine
end

