-- ==== Sys2Proof/Laws/MemTransport.lean ====
section
/-! SUPPORT. No operation of Machine/Transport.lean breaks the canonical form of the memory. -/

namespace Sys2Proof.Machine

set_option Elab.async false

theorem mem_sendAck (w : Nat) (peer : Nat) {s : State} (h_ok : MemOk s) :
    MemOk (sendAck w peer s) := by
  unfold sendAck; grind [MemOk, mem_sendPacket, mem_setConn]

theorem mem_sendNack (w : Nat) (peer : Nat) (psn : Nat) (tag : Nat) (reason : Nat) (gen : Nat) {s : State} (h_ok : MemOk s) :
    MemOk (sendNack w peer psn tag reason gen s) := by
  unfold sendNack; grind [MemOk, mem_sendPacket]

theorem mem_resend (w : Nat) (peer : Nat) (psn : Nat) {s : State} (h_ok : MemOk s) :
    MemOk (resend w peer psn s) := by
  unfold resend; grind [MemOk, mem_peep, mem_trace, mem_sendPacket, mem_setConn, mem_failConn]

theorem mem_queueRec (t : CollStream) (r : SendRec) {s : State} (h_ok : MemOk s) :
    MemOk (queueRec t r s) := by
  unfold queueRec; grind [MemOk, mem_setConn]

theorem mem_advanceStream (j : CollJob) (t : CollStream) {s : State} (h_ok : MemOk s) :
    MemOk (advanceStream j t s) := by
  unfold advanceStream; grind [MemOk, mem_setColl]

theorem mem_countBlock (ce : Nat) (event : Nat) (record : Nat) (bytes : Nat) {s : State} (h_ok : MemOk s) :
    MemOk (countBlock ce event record bytes s) := by
  unfold countBlock; grind [MemOk, mem_addF, mem_peep]

theorem mem_countTable (ce : Nat) (n : Nat) {s : State} (h_ok : MemOk s) :
    MemOk (countTable ce n s) := by
  unfold countTable; grind [MemOk, mem_addF, mem_peep]

theorem mem_queueRaw (w : Nat) (peer : Nat) {s : State} (h_ok : MemOk s) :
    MemOk (queueRaw w peer s) := by
  unfold queueRaw; grind [MemOk, mem_queueRec, mem_advanceStream, mem_countBlock]

theorem mem_execDataSend (w : DoorwayNo) (peer : Nat) {s : State} (h_ok : MemOk s) :
    ∀ st, execDataSend w peer s = .next st → MemOk st := by
  intro st ht; unfold execDataSend at ht; grind [MemOk, mem_sendPacket, mem_setConn, mem_queueRaw]

theorem mem_deliver (j : CollJob) (peer : Nat) (v : Nat) (down : Bool) (bs : List Byte) (flags : Nat) {s : State} (h_ok : MemOk s) :
    MemOk (deliver j peer v down bs flags s) := by
  unfold deliver; grind [MemOk, mem_setColl, mem_collProgress]

theorem mem_acceptNext (w : Nat) (peer : Nat) {s : State} (h_ok : MemOk s) :
    MemOk (acceptNext w peer s) := by
  unfold acceptNext; grind [MemOk, mem_setConn, mem_sendAck]

theorem mem_rejectNext (w : Nat) (peer : Nat) (psn : Nat) (tag : Nat) (reason : Nat) (gen : Nat) {s : State} (h_ok : MemOk s) :
    MemOk (rejectNext w peer psn tag reason gen s) := by
  unfold rejectNext; grind [MemOk, mem_setConn, mem_sendNack]

theorem mem_drainWindow (w peer fuel : Nat) {s : State} (h_ok : MemOk s) : MemOk (drainWindow w peer fuel s) := by
  induction fuel generalizing s with
  | zero => exact h_ok
  | succ k ih =>
    unfold drainWindow; dsimp only
    repeat' (first | with_reducible assumption | with_reducible apply ih | with_reducible apply mem_acceptNext | with_reducible apply mem_rejectNext | with_reducible apply mem_deliver | with_reducible apply mem_countBlock | with_reducible apply mem_countTable | with_reducible apply mem_setSticky | with_reducible apply mem_satF | with_reducible apply mem_installTable | with_reducible apply mem_failColl | with_reducible apply mem_sendNack | with_reducible apply mem_setConn | split)

theorem mem_drainAll {s : State} (h_ok : MemOk s) :
    MemOk (drainAll s) := by
  unfold drainAll; grind [MemOk, mem_forEach, mem_drainWindow]

theorem mem_execPacketData (w : DoorwayNo) (pkt : List Byte) (ce : Bool) {s : State} (h_ok : MemOk s) :
    ∀ st, execPacketData w pkt ce s = .next st → MemOk st := by
  intro st ht; unfold execPacketData at ht
  simp only [Host.Outcome.next.injEq] at ht; subst ht
  split
  · exact h_ok
  · rename_i t heq
    have h2 := mem_takeArrived _ _ _ _ h_ok _ heq
    have h3 : ∀ peer g, MemOk (if ce then setConn w peer g t else t) := fun peer g => by
      split
      · exact mem_setConn _ _ _ h2
      · exact h2
    repeat' (first | with_reducible assumption | with_reducible apply h3 | with_reducible apply mem_sendAck | with_reducible apply mem_setConn | with_reducible apply mem_drainWindow | split)

theorem mem_ackPackets (l : List TxPkt) {s : State} (h_ok : MemOk s) :
    MemOk (ackPackets l s) := by
  unfold ackPackets; grind [MemOk, mem_forEach, mem_setCtx, mem_retireIfDone]

theorem mem_packetAck (w : Nat) (pkt : List Byte) (ce : Bool) {s : State} (h_ok : MemOk s) :
    MemOk (packetAck w pkt ce s) := by
  unfold packetAck; grind [MemOk, mem_forEach, mem_takeArrived, mem_setConn, mem_resend, mem_ackPackets]

theorem mem_packetNack (w : Nat) (pkt : List Byte) (ce : Bool) {s : State} (h_ok : MemOk s) :
    MemOk (packetNack w pkt ce s) := by
  unfold packetNack
  split
  · exact h_ok
  · rename_i t heq
    have h2 := mem_takeArrived _ _ _ _ h_ok _ heq
    dsimp only
    repeat' (first | with_reducible assumption | with_reducible apply mem_resend | with_reducible apply mem_sendPacket | with_reducible apply mem_failColl | with_reducible apply mem_linkRecord | with_reducible apply mem_setConn | with_reducible apply mem_peep | split)

theorem mem_execPacketTable (w : DoorwayNo) (pkt : List Byte) (ce : Bool) {s : State} (h_ok : MemOk s) :
    ∀ st, execPacketTable w pkt ce s = .next st → MemOk st := by
  intro st ht; unfold execPacketTable at ht; grind [MemOk, mem_takeArrived, mem_installTable, mem_countTable]

theorem mem_execAckTimer (w : DoorwayNo) (peer : Nat) {s : State} (h_ok : MemOk s) :
    ∀ st, execAckTimer w peer s = .next st → MemOk st := by
  intro st ht; unfold execAckTimer at ht; grind [MemOk, mem_sendAck]

theorem mem_rtoExpiry (w : Nat) (peer : Nat) {s : State} (h_ok : MemOk s) :
    MemOk (rtoExpiry w peer s) := by
  unfold rtoExpiry; grind [MemOk, mem_resend]

theorem mem_execNotreadyTimer (w : DoorwayNo) (peer : Nat) {s : State} (h_ok : MemOk s) :
    ∀ st, execNotreadyTimer w peer s = .next st → MemOk st := by
  intro st ht; unfold execNotreadyTimer at ht; grind [MemOk, mem_setConn, mem_drainWindow]

end Sys2Proof.Machine
end

