-- ==== Sys2Proof/Laws/MemStreams.lean ====
section
/-! SUPPORT. No operation of Machine/Streams.lean breaks the canonical form of the memory. -/

namespace Sys2Proof.Machine

set_option Elab.async false

theorem mem_beginComp (e : InFlight) {s : State} (h_ok : MemOk s) :
    MemOk (beginComp e s) := by
  unfold beginComp; grind [MemOk, mem_validated, mem_launch, mem_chargeThen]

theorem mem_takeComp (op : Nat) (q : QueueNo) (d : Desc) {s : State} (h_ok : MemOk s) :
    MemOk (takeComp op q d s) := by
  unfold takeComp; grind [MemOk, mem_takeRing, mem_beginComp]

theorem mem_execCompEncode (q : QueueNo) (d : Desc) {s : State} (h_ok : MemOk s) :
    ∀ st, execCompEncode q d s = .next st → MemOk st := by
  intro st ht; unfold execCompEncode at ht; grind [MemOk, mem_takeComp]

theorem mem_execCompDecode (q : QueueNo) (d : Desc) {s : State} (h_ok : MemOk s) :
    ∀ st, execCompDecode q d s = .next st → MemOk st := by
  intro st ht; unfold execCompDecode at ht; grind [MemOk, mem_takeComp]

theorem mem_execCompConfig (q : QueueNo) (d : Desc) {s : State} (h_ok : MemOk s) :
    ∀ st, execCompConfig q d s = .next st → MemOk st := by
  intro st ht; unfold execCompConfig at ht; grind [MemOk, mem_takeComp]

theorem mem_execCompReset (q : QueueNo) (d : Desc) {s : State} (h_ok : MemOk s) :
    ∀ st, execCompReset q d s = .next st → MemOk st := by
  intro st ht; unfold execCompReset at ht; grind [MemOk, mem_takeComp]

theorem mem_setCjob (x : Nat) (f : CompJob → CompJob) {s : State} (h_ok : MemOk s) :
    MemOk (setCjob x f s) := by
  unfold setCjob; grind [MemOk]

theorem mem_endComp (id : Nat) (ce : Nat) (status : Nat) (flags : Nat) {s : State} (h_ok : MemOk s) :
    MemOk (endComp id ce status flags s) := by
  unfold endComp; grind [MemOk, mem_endPart, mem_setSticky]

theorem mem_putFeedback (c : Coding) (off : Nat) (es : Option (List Nat)) {s : State} (h_ok : MemOk s) :
    MemOk (putFeedback c off es s) := by
  unfold putFeedback; grind [MemOk, mem_forEach, mem_writeScalar]

theorem mem_newGeneration (x : Nat) (c : Coding) (body : List Byte) {s : State} (h_ok : MemOk s) :
    MemOk (newGeneration x c body s).2 := by
  unfold newGeneration; grind [MemOk, mem_trace, mem_setCtx]

theorem mem_blockCoded (x : Nat) (r : Coded) (record : Nat) {s : State} (h_ok : MemOk s) :
    MemOk (blockCoded x r record s) := by
  unfold blockCoded; grind [MemOk, mem_satF, mem_peep, mem_setCtx, mem_countBlock]

theorem mem_endEncode (e : InFlight) (j : CompJob) {s : State} (h_ok : MemOk s) :
    MemOk (endEncode e j s) := by
  unfold endEncode; grind [MemOk, mem_winWrite, mem_flushCopies, mem_endComp]

theorem mem_encodeNext (e : InFlight) (j : CompJob) {s : State} (h_ok : MemOk s) :
    MemOk (encodeNext e j s) := by
  unfold encodeNext; grind [MemOk, mem_winWrite, mem_countTable, mem_setCjob, mem_putFeedback, mem_blockCoded, mem_endEncode]

theorem mem_buildMemory (e : InFlight) (j : CompJob) {s : State} (h_ok : MemOk s) :
    MemOk (buildMemory e j s) := by
  unfold buildMemory; grind [MemOk, mem_retireIfDone, mem_setCjob, mem_newGeneration]

theorem mem_linkNext (x : Nat) (j : CollJob) (t : CollStream) {s : State} (h_ok : MemOk s) :
    MemOk (linkNext x j t s) := by
  unfold linkNext; grind [MemOk, mem_setSticky, mem_setCtx, mem_setColl, mem_queueRec, mem_advanceStream, mem_putFeedback, mem_blockCoded]

theorem mem_buildLink (x : Nat) (j : CollJob) (t : CollStream) {s : State} (h_ok : MemOk s) :
    MemOk (buildLink x j t s) := by
  unfold buildLink; grind [MemOk, mem_setCtx, mem_retireIfDone, mem_queueRec, mem_countTable, mem_newGeneration]

theorem mem_execTableBuild (x : ContextNo) {s : State} (h_ok : MemOk s) :
    ∀ st, execTableBuild x s = .next st → MemOk st := by
  intro st ht; unfold execTableBuild at ht; grind [MemOk, mem_buildMemory, mem_buildLink]

theorem mem_execCompBlockEncode (x : ContextNo) {s : State} (h_ok : MemOk s) :
    ∀ st, execCompBlockEncode x s = .next st → MemOk st := by
  intro st ht; unfold execCompBlockEncode at ht; grind [MemOk, mem_encodeNext, mem_linkNext]

theorem mem_poisonBlocks (e : InFlight) (bad : List Nat) {s : State} (h_ok : MemOk s) :
    MemOk (poisonBlocks e bad s) := by
  unfold poisonBlocks; grind [MemOk, mem_forEach, mem_writeBlock]

theorem mem_endDecode (e : InFlight) (j : CompJob) {s : State} (h_ok : MemOk s) :
    MemOk (endDecode e j s) := by
  unfold endDecode; grind [MemOk, mem_flushCopies, mem_endComp, mem_poisonBlocks]

theorem mem_decodeStep (e : InFlight) (j : CompJob) {s : State} (h_ok : MemOk s) :
    MemOk (decodeStep e j s) := by
  unfold decodeStep; grind [MemOk, mem_setCjob, mem_endDecode]

theorem mem_decodeBad (e : InFlight) (j : CompJob) (missing : Bool) (status : Nat) (next : Nat) {s : State} (h_ok : MemOk s) :
    MemOk (decodeBad e j missing status next s) := by
  unfold decodeBad; grind [MemOk, mem_satF, mem_forEach, mem_writeScalar, mem_decodeStep]

theorem mem_decodeNext (e : InFlight) (j : CompJob) {s : State} (h_ok : MemOk s) :
    MemOk (decodeNext e j s) := by
  unfold decodeNext; grind [MemOk, mem_putLinear, mem_countBlock, mem_decodeStep, mem_decodeBad]

theorem mem_execCompBlockDecode (x : ContextNo) {s : State} (h_ok : MemOk s) :
    ∀ st, execCompBlockDecode x s = .next st → MemOk st := by
  intro st ht; unfold execCompBlockDecode at ht; grind [MemOk, mem_decodeNext]

theorem mem_execTableInstall (x : ContextNo) {s : State} (h_ok : MemOk s) :
    ∀ st, execTableInstall x s = .next st → MemOk st := by
  intro st ht; unfold execTableInstall at ht; grind [MemOk, mem_installTable, mem_countTable, mem_setCjob]

theorem mem_startComp (e : InFlight) {s : State} (h_ok : MemOk s) :
    MemOk (startComp e s) := by
  unfold startComp; grind [MemOk, mem_winRead, mem_stageTensor, mem_setCtx, mem_endComp]

end Sys2Proof.Machine
end

