-- ==== Sys2Proof/Laws/MemCollCmds.lean ====
section
/-! SUPPORT. No operation of Machine/CollCmds.lean breaks the canonical form of the memory. -/

namespace Sys2Proof.Machine

set_option Elab.async false

theorem mem_startJob (e : InFlight) {s : State} (h_ok : MemOk s) :
    MemOk (startJob e s) := by
  unfold startJob; grind [MemOk, mem_forEach, mem_setFlight, mem_stageTensor, mem_collProgress, mem_drainAll]

theorem mem_chargeColl (e : InFlight) {s : State} (h_ok : MemOk s) :
    MemOk (chargeColl e s) := by
  unfold chargeColl; grind [MemOk, mem_failCheck, mem_shadowEach, mem_startJob]

theorem mem_enterEpoch (e : InFlight) {s : State} (h_ok : MemOk s) :
    MemOk (enterEpoch e s) := by
  unfold enterEpoch; grind [MemOk, mem_validated, mem_chargeColl]

theorem mem_beginColl (e : InFlight) {s : State} (h_ok : MemOk s) :
    MemOk (beginColl e s) := by
  unfold beginColl; grind [MemOk, mem_validated, mem_enterEpoch]

theorem mem_releaseHeld {s : State} (h_ok : MemOk s) :
    MemOk (releaseHeld s) := by
  unfold releaseHeld; grind [MemOk, mem_forEach, mem_enterEpoch]

theorem mem_takeColl (op : Nat) (q : QueueNo) (d : Desc) {s : State} (h_ok : MemOk s) :
    MemOk (takeColl op q d s) := by
  unfold takeColl; grind [MemOk, mem_takeRing, mem_beginColl]

theorem mem_execCollAllreduce (q : QueueNo) (d : Desc) {s : State} (h_ok : MemOk s) :
    ∀ st, execCollAllreduce q d s = .next st → MemOk st := by
  intro st ht; unfold execCollAllreduce at ht; grind [MemOk, mem_takeColl]

theorem mem_execCollReducescatter (q : QueueNo) (d : Desc) {s : State} (h_ok : MemOk s) :
    ∀ st, execCollReducescatter q d s = .next st → MemOk st := by
  intro st ht; unfold execCollReducescatter at ht; grind [MemOk, mem_takeColl]

theorem mem_execCollAllgather (q : QueueNo) (d : Desc) {s : State} (h_ok : MemOk s) :
    ∀ st, execCollAllgather q d s = .next st → MemOk st := by
  intro st ht; unfold execCollAllgather at ht; grind [MemOk, mem_takeColl]

theorem mem_execCollBroadcast (q : QueueNo) (d : Desc) {s : State} (h_ok : MemOk s) :
    ∀ st, execCollBroadcast q d s = .next st → MemOk st := by
  intro st ht; unfold execCollBroadcast at ht; grind [MemOk, mem_takeColl]

theorem mem_execCollSend (q : QueueNo) (d : Desc) {s : State} (h_ok : MemOk s) :
    ∀ st, execCollSend q d s = .next st → MemOk st := by
  intro st ht; unfold execCollSend at ht; grind [MemOk, mem_takeColl]

theorem mem_execCollRecv (q : QueueNo) (d : Desc) {s : State} (h_ok : MemOk s) :
    ∀ st, execCollRecv q d s = .next st → MemOk st := by
  intro st ht; unfold execCollRecv at ht; grind [MemOk, mem_takeColl]

theorem mem_execCollDigcmp (q : QueueNo) (d : Desc) {s : State} (h_ok : MemOk s) :
    ∀ st, execCollDigcmp q d s = .next st → MemOk st := by
  intro st ht; unfold execCollDigcmp at ht; grind [MemOk, mem_takeColl]

theorem mem_reduceNow (j : CollJob) (v : Nat) {s : State} (h_ok : MemOk s) :
    MemOk (reduceNow j v s) := by
  unfold reduceNow; grind [MemOk, mem_setSticky, mem_setColl, mem_collProgress]

theorem mem_execCollBlockReduce (tag : Nat) (block : Nat) {s : State} (h_ok : MemOk s) :
    ∀ st, execCollBlockReduce tag block s = .next st → MemOk st := by
  intro st ht; unfold execCollBlockReduce at ht; grind [MemOk, mem_reduceNow]

theorem mem_execCollDone (tag : Nat) (node : Nat) {s : State} (h_ok : MemOk s) :
    ∀ st, execCollDone tag node s = .next st → MemOk st := by
  intro st ht; unfold execCollDone at ht; grind [MemOk, mem_setColl, mem_gatherDone]

theorem mem_execCollCommit (tag : Nat) {s : State} (h_ok : MemOk s) :
    ∀ st, execCollCommit tag s = .next st → MemOk st := by
  intro st ht; unfold execCollCommit at ht; grind [MemOk, mem_commitColl]

end Sys2Proof.Machine
end

