-- ==== Sys2Proof/Laws/MemMembership.lean ====
section
/-! SUPPORT. No operation of Machine/Membership.lean breaks the canonical form of the memory. -/

namespace Sys2Proof.Machine

set_option Elab.async false

theorem mem_setNdState (v : Nat) {s : State} (h_ok : MemOk s) :
    MemOk (setNdState v s) := by
  unfold setNdState; grind [MemOk, mem_setF]

theorem mem_setNd (f : NdAux → NdAux) {s : State} (h_ok : MemOk s) :
    MemOk (setNd f s) := by
  unfold setNd; grind [MemOk]

theorem mem_cmdErr {s : State} (h_ok : MemOk s) :
    MemOk (cmdErr s) := by
  unfold cmdErr; grind [MemOk, mem_setF]

theorem mem_postMember (tgt : Nat) (p : MemberPacket) {s : State} (h_ok : MemOk s) :
    MemOk (postMember tgt p s) := by
  unfold postMember; grind [MemOk, mem_emit]

theorem mem_sendMember (tgt : Nat) (b : MemberBody) {s : State} (h_ok : MemOk s) :
    MemOk (sendMember tgt b s) := by
  unfold sendMember; grind [MemOk, mem_postMember]

theorem mem_refuse (node : Nat) {s : State} (h_ok : MemOk s) :
    MemOk (refuse node s) := by
  unfold refuse; grind [MemOk, mem_setNd, mem_sendMember]

theorem mem_refuseAll {s : State} (h_ok : MemOk s) :
    MemOk (refuseAll s) := by
  unfold refuseAll; grind [MemOk, mem_setF, mem_forEach, mem_refuse]

theorem mem_showEpoch (epoch : Nat) (ms : List Member) {s : State} (h_ok : MemOk s) :
    MemOk (showEpoch epoch ms s) := by
  unfold showEpoch; grind [MemOk, mem_setF, mem_setNdState]

theorem mem_dropStale (w : Nat) {s : State} (h_ok : MemOk s) :
    MemOk (dropStale w s) := by
  unfold dropStale; grind [MemOk, mem_satF, mem_setDw]

theorem mem_openConns (ms : List Member) {s : State} (h_ok : MemOk s) :
    MemOk (openConns ms s) := by
  unfold openConns; grind [MemOk, mem_forEach, mem_dropStale]

theorem mem_adoptEpoch (epoch : Nat) (ms : List Member) {s : State} (h_ok : MemOk s) :
    MemOk (adoptEpoch epoch ms s) := by
  unfold adoptEpoch; grind [MemOk, mem_setF, mem_trace, mem_releaseHeld, mem_setNd, mem_refuseAll, mem_showEpoch, mem_openConns]

theorem mem_endColls {s : State} (h_ok : MemOk s) :
    MemOk (endColls s) := by
  unfold endColls; grind [MemOk, mem_forEach, mem_failColl, mem_commitColl, mem_endCarriage]

theorem mem_finishChange {s : State} (h_ok : MemOk s) :
    MemOk (finishChange s) := by
  unfold finishChange; grind [MemOk, mem_forEach, mem_sendMember, mem_adoptEpoch]

theorem mem_runChange (ms : List Member) (leavers : List Member) {s : State} (h_ok : MemOk s) :
    MemOk (runChange ms leavers s) := by
  unfold runChange; grind [MemOk, mem_forEach, mem_setNdState, mem_setNd, mem_sendMember, mem_endColls, mem_finishChange]

theorem mem_nextChange (fuel : Nat) {s : State} (h : MemOk s) : MemOk (nextChange fuel s) := by
  induction fuel generalizing s with
  | zero => exact h
  | succ k ih => unfold nextChange; grind [mem_setNd, mem_runChange]

theorem mem_showJoiner {s : State} (h_ok : MemOk s) :
    MemOk (showJoiner s) := by
  unfold showJoiner; grind [MemOk, mem_setF, mem_forEach]

theorem mem_proceed {s : State} (h_ok : MemOk s) :
    MemOk (proceed s) := by
  unfold proceed; grind [MemOk, mem_nextChange, mem_showJoiner]

theorem mem_memberFailed (node : Nat) {s : State} (h_ok : MemOk s) :
    MemOk (memberFailed node s) := by
  unfold memberFailed; grind [MemOk, mem_setF, mem_runChange]

theorem mem_withFailures (f : State → State) {s : State} (h_f : ∀ x0, MemOk x0 → MemOk (f x0)) (h_ok : MemOk s) :
    MemOk (withFailures f s) := by
  unfold withFailures; grind [MemOk, mem_forEach, mem_memberFailed]

theorem mem_execPacketAck (w : DoorwayNo) (pkt : List Byte) (ce : Bool) {s : State} (h_ok : MemOk s) :
    ∀ st, execPacketAck w pkt ce s = .next st → MemOk st := by
  intro st ht; unfold execPacketAck at ht; grind [MemOk, mem_packetAck, mem_withFailures]

theorem mem_execPacketNack (w : DoorwayNo) (pkt : List Byte) (ce : Bool) {s : State} (h_ok : MemOk s) :
    ∀ st, execPacketNack w pkt ce s = .next st → MemOk st := by
  intro st ht; unfold execPacketNack at ht; grind [MemOk, mem_packetNack, mem_withFailures]

theorem mem_execRtoExpiry (w : DoorwayNo) (peer : Nat) {s : State} (h_ok : MemOk s) :
    ∀ st, execRtoExpiry w peer s = .next st → MemOk st := by
  intro st ht; unfold execRtoExpiry at ht; grind [MemOk, mem_rtoExpiry, mem_withFailures]

theorem mem_execNdctlForm {s : State} (h_ok : MemOk s) :
    ∀ st, execNdctlForm s = .next st → MemOk st := by
  intro st ht; unfold execNdctlForm at ht; grind [MemOk, mem_hostWrite, mem_setNd, mem_cmdErr, mem_showEpoch, mem_openConns]

theorem mem_execNdctlJoin {s : State} (h_ok : MemOk s) :
    ∀ st, execNdctlJoin s = .next st → MemOk st := by
  intro st ht; unfold execNdctlJoin at ht; grind [MemOk, mem_drawRandom, mem_hostWrite, mem_setNdState, mem_setNd, mem_cmdErr, mem_sendMember]

theorem mem_execNdctlLeave {s : State} (h_ok : MemOk s) :
    ∀ st, execNdctlLeave s = .next st → MemOk st := by
  intro st ht; unfold execNdctlLeave at ht; grind [MemOk, mem_hostWrite, mem_setNdState, mem_setNd, mem_cmdErr, mem_sendMember, mem_refuseAll, mem_adoptEpoch, mem_endColls]

theorem mem_takeJoiner {s : State} (h_ok : MemOk s) :
    MemOk (takeJoiner s).2 := by
  unfold takeJoiner; grind [MemOk, mem_setF]

theorem mem_execNdctlApprove {s : State} (h_ok : MemOk s) :
    ∀ st, execNdctlApprove s = .next st → MemOk st := by
  intro st ht; unfold execNdctlApprove at ht; grind [MemOk, mem_hostWrite, mem_setNd, mem_cmdErr, mem_proceed, mem_takeJoiner]

theorem mem_execNdctlDeny {s : State} (h_ok : MemOk s) :
    ∀ st, execNdctlDeny s = .next st → MemOk st := by
  intro st ht; unfold execNdctlDeny at ht; grind [MemOk, mem_hostWrite, mem_cmdErr, mem_refuse, mem_proceed, mem_takeJoiner]

theorem mem_execNdctlEvict {s : State} (h_ok : MemOk s) :
    ∀ st, execNdctlEvict s = .next st → MemOk st := by
  intro st ht; unfold execNdctlEvict at ht; grind [MemOk, mem_hostWrite, mem_setNd, mem_cmdErr, mem_proceed]

theorem mem_execNdselfWrite (node : Nat) {s : State} (h_ok : MemOk s) :
    ∀ st, execNdselfWrite node s = .next st → MemOk st := by
  intro st ht; unfold execNdselfWrite at ht; grind [MemOk, mem_setF, mem_regAccessError, mem_hostWrite]

theorem mem_helloHere (p : MemberPacket) (j : Member) (cert : List Byte) (nonce : List Byte) {s : State} (h_ok : MemOk s) :
    MemOk (helloHere p j cert nonce s) := by
  unfold helloHere; grind [MemOk, mem_drawRandom, mem_setNd, mem_sendMember, mem_refuse]

theorem mem_execHello (p : MemberPacket) {s : State} (h_ok : MemOk s) :
    ∀ st, execHello p s = .next st → MemOk st := by
  intro st ht; unfold execHello at ht; grind [MemOk, mem_helloHere, mem_postMember]

theorem mem_joinRefused {s : State} (h_ok : MemOk s) :
    MemOk (joinRefused s) := by
  unfold joinRefused; grind [MemOk, mem_setF, mem_setNdState, mem_setNd]

theorem mem_execChallenge (p : MemberPacket) {s : State} (h_ok : MemOk s) :
    ∀ st, execChallenge p s = .next st → MemOk st := by
  intro st ht; unfold execChallenge at ht; grind [MemOk, mem_setNd, mem_sendMember, mem_joinRefused]

theorem mem_execProof (p : MemberPacket) {s : State} (h_ok : MemOk s) :
    ∀ st, execProof p s = .next st → MemOk st := by
  intro st ht; unfold execProof at ht; grind [MemOk, mem_setNd, mem_refuse, mem_showJoiner]

theorem mem_execPrepare (p : MemberPacket) {s : State} (h_ok : MemOk s) :
    ∀ st, execPrepare p s = .next st → MemOk st := by
  intro st ht; unfold execPrepare at ht; grind [MemOk, mem_setNdState, mem_setNd, mem_sendMember, mem_endColls]

theorem mem_execReady (p : MemberPacket) {s : State} (h_ok : MemOk s) :
    ∀ st, execReady p s = .next st → MemOk st := by
  intro st ht; unfold execReady at ht; grind [MemOk, mem_setNd, mem_finishChange, mem_proceed]

theorem mem_execCommit (p : MemberPacket) {s : State} (h_ok : MemOk s) :
    ∀ st, execCommit p s = .next st → MemOk st := by
  intro st ht; unfold execCommit at ht; grind [MemOk, mem_adoptEpoch, mem_proceed]

theorem mem_execRefused (p : MemberPacket) {s : State} (h_ok : MemOk s) :
    ∀ st, execRefused p s = .next st → MemOk st := by
  intro st ht; unfold execRefused at ht; grind [MemOk, mem_joinRefused]

theorem mem_execHandover (p : MemberPacket) {s : State} (h_ok : MemOk s) :
    ∀ st, execHandover p s = .next st → MemOk st := by
  intro st ht; unfold execHandover at ht; grind [MemOk, mem_setF, mem_setNd, mem_proceed]

end Sys2Proof.Machine
end

