-- ==== Sys2Proof/Laws/MemCheck.lean ====
section
/-! SUPPORT. No operation of Machine/Check.lean breaks the canonical form of the memory. -/

namespace Sys2Proof.Machine

set_option Elab.async false

theorem mem_setRun (u : Nat) (run : Nat) {s : State} (h_ok : MemOk s) :
    MemOk (setRun u run s) := by
  unfold setRun; grind [MemOk, mem_setF]

theorem mem_ckLimit (u : Nat) {s : State} (h_ok : MemOk s) :
    MemOk (ckLimit u s) := by
  unfold ckLimit; grind [MemOk, mem_setF, mem_errRecord]

theorem mem_execCheckByte (u : CheckNo) (tap : Nat) (key : Nat) (b : Byte) {s : State} (h_ok : MemOk s) :
    ∀ st, execCheckByte u tap key b s = .next st → MemOk st := by
  intro st ht; unfold execCheckByte at ht; grind [MemOk, mem_addF, mem_peep, mem_setRun, mem_ckLimit]

theorem mem_armCheck (id : Nat) (k : Nat) {s : State} (h_ok : MemOk s) :
    MemOk (armCheck id k s) := by
  unfold armCheck; grind [MemOk, mem_setF]

theorem mem_feedCheck (id : Nat) (k : Nat) (h : Nat) (bs : List Byte) {s : State} (h_ok : MemOk s) :
    MemOk (feedCheck id k h bs s) := by
  unfold feedCheck; grind [MemOk, mem_setF, mem_forEach, mem_peep, mem_setRun]

theorem mem_ckWrite (u : Nat) (f : State → State) {s : State} (h_f : ∀ x0, MemOk x0 → MemOk (f x0)) (h_ok : MemOk s) :
    MemOk (ckWrite u f s) := by
  unfold ckWrite; grind [MemOk, mem_hostWrite]

theorem mem_execCkctlInit (u : CheckNo) {s : State} (h_ok : MemOk s) :
    ∀ st, execCkctlInit u s = .next st → MemOk st := by
  intro st ht; unfold execCkctlInit at ht; grind [MemOk, mem_setF, mem_setRun, mem_ckWrite]

theorem mem_execCkctlArm (u : CheckNo) (on : Bool) {s : State} (h_ok : MemOk s) :
    ∀ st, execCkctlArm u on s = .next st → MemOk st := by
  intro st ht; unfold execCkctlArm at ht; grind [MemOk, mem_setF, mem_ckWrite]

theorem mem_checkWrite (u : Nat) (r : CheckReg) (value : Nat) {s : State} (h_ok : MemOk s) :
    MemOk (checkWrite u r value s) := by
  unfold checkWrite; grind [MemOk, mem_setF, mem_dropHeld, mem_regAccessError, mem_setRun]

theorem mem_execCheckStateWrite (u : CheckNo) (r : CheckReg) (value : Nat) {s : State} (h_ok : MemOk s) :
    ∀ st, execCheckStateWrite u r value s = .next st → MemOk st := by
  intro st ht; unfold execCheckStateWrite at ht; grind [MemOk, mem_ckWrite, mem_checkWrite]

end Sys2Proof.Machine
end

