-- ==== Sys2Proof/Laws/MemSweep.lean ====
section
/-! SUPPORT. No operation of Machine/Sweep.lean breaks the canonical form of the memory. -/

namespace Sys2Proof.Machine

set_option Elab.async false

theorem mem_putStepTag (t : Tensor) (pane : Nat) (v : Nat) {s : State} (h_ok : MemOk s) :
    MemOk (putStepTag t pane v s) := by
  unfold putStepTag; grind [MemOk, mem_memPutCells]

theorem mem_putShardTag (t : Tensor) (i : Nat) (v : Nat) {s : State} (h_ok : MemOk s) :
    MemOk (putShardTag t i v s) := by
  unfold putShardTag; grind [MemOk, mem_putStepTag]

theorem mem_startSweep (e : InFlight) {s : State} (h_ok : MemOk s) :
    MemOk (startSweep e s) := by
  unfold startSweep; grind [MemOk, mem_setF, mem_forEach, mem_setFlight, mem_finish, mem_replayGroups, mem_armCheck]

theorem mem_beginSweep (e : InFlight) {s : State} (h_ok : MemOk s) :
    MemOk (beginSweep e s) := by
  unfold beginSweep; grind [MemOk, mem_failCheck, mem_validated, mem_chargeAll, mem_startSweep]

theorem mem_execSweep (q : QueueNo) (d : Desc) {s : State} (h_ok : MemOk s) :
    ∀ st, execSweep q d s = .next st → MemOk st := by
  intro st ht; unfold execSweep at ht; grind [MemOk, mem_takeRing, mem_beginSweep]

theorem mem_swStage (c : Nat) (owner : Nat) (t : Tensor) (panes : List Nat) {s : State} (h_ok : MemOk s) :
    MemOk (swStage c owner t panes s) := by
  unfold swStage; grind [MemOk, mem_forEach, mem_peep, mem_moverRead, mem_upsertCopy, mem_peepPort]

theorem mem_swUnstage (c : Nat) (owner : Nat) {s : State} (h_ok : MemOk s) :
    MemOk (swUnstage c owner s) := by
  unfold swUnstage; grind [MemOk]

theorem mem_swFlush (c : Nat) (owner : Nat) (hs : List Nat) {s : State} (h_ok : MemOk s) :
    MemOk (swFlush c owner hs s).1 := by
  unfold swFlush; dsimp only
  repeat' (first | with_reducible assumption | with_reducible apply mem_cleanCopy | with_reducible apply mem_storeCopy | (with_reducible refine mem_foldl _ _ _ (fun _ _ _ => ?_) ?_) | (with_reducible refine mem_foldl' _ _ _ (fun _ _ _ => ?_) ?_) | (with_reducible refine mem_forEach _ _ (fun _ _ _ => ?_) ?_) | (with_reducible apply mem_mk; change MemOk _) | split | intro _)

theorem mem_journalPane (c : Nat) (k : Nat) (tag : Tensor → Nat → Nat) (w : WorkCopy) {s : State} (h_ok : MemOk s) :
    MemOk (journalPane c k tag w s).1 := by
  unfold journalPane; grind [MemOk, mem_mergeCopy, mem_slotForWrite]

theorem mem_commitGroup (c owner : Nat) (hs : List Nat) (tag : Tensor → Nat → Nat) (record : Option (Nat × SweepRec)) {s : State}
    (h_ok : MemOk s) : MemOk (commitGroup c owner hs tag record s).1 := by
  unfold commitGroup; dsimp only
  have h : ∀ l : List WorkCopy, MemOk (l.foldl (fun (a : State × List JournalPane × Nat) w =>
      if a.2.2 ≠ 0 then a
      else ((journalPane c a.2.1.length tag w a.1).1, a.2.1 ++ (journalPane c a.2.1.length tag w a.1).2.1,
        (journalPane c a.2.1.length tag w a.1).2.2)) (replayGroups c s, [], 0)).1 := fun l =>
    mem_foldl l _ _ (fun b x hb => by split <;> first | exact hb | exact mem_journalPane _ _ _ _ hb) (mem_replayGroups c h_ok)
  exact ite_keep (P := fun x : State × Nat => MemOk x.1) (h _) (h _)

theorem mem_setJob (id : Nat) (f : SweepJob → SweepJob) {s : State} (h_ok : MemOk s) :
    MemOk (setJob id f s) := by
  unfold setJob; grind [MemOk]

theorem mem_sweepTrace (c : Nat) (event : Nat) (handle : Nat) (shard : Nat) {s : State} (h_ok : MemOk s) :
    MemOk (sweepTrace c event handle shard s) := by
  unfold sweepTrace; grind [MemOk, mem_trace]

theorem mem_factorPane (c : Nat) (e : InFlight) (k : SwConst) (b : List Byte) (row : Bool) (i : Nat) {s : State} (h_ok : MemOk s) :
    MemOk (factorPane c e k b row i s).1 := by
  unfold factorPane; dsimp only
  repeat' (first | with_reducible assumption | with_reducible apply mem_commitGroup | with_reducible apply mem_putElem | with_reducible apply mem_replayGroups | with_reducible apply mem_peep | (with_reducible refine mem_foldl _ _ _ (fun _ _ _ => ?_) ?_) | (with_reducible refine mem_foldl' _ _ _ (fun _ _ _ => ?_) ?_) | (with_reducible refine mem_forEach _ _ (fun _ _ _ => ?_) ?_) | (with_reducible apply mem_mk; change MemOk _) | split | intro _)

theorem mem_tagBad {s : State} (h_ok : MemOk s) :
    MemOk (tagBad s) := by
  unfold tagBad; grind [MemOk, mem_satF]

theorem mem_factorUnit (c : Nat) (e : InFlight) (k : SwConst) (n : Nat) (b : List Byte) (row : Bool) (i : Nat) {s : State} (h_ok : MemOk s) :
    MemOk (factorUnit c e k n b row i s).1 := by
  unfold factorUnit; grind [MemOk, mem_swStage, mem_setJob, mem_factorPane, mem_tagBad]

theorem mem_stageShard (c : Nat) (owner : Nat) (b : List Byte) (i : Nat) {s : State} (h_ok : MemOk s) :
    MemOk (stageShard c owner b i s) := by
  unfold stageShard; grind [MemOk, mem_swStage]

theorem mem_shardMoments (c : Nat) (e : InFlight) (k : SwConst) (b : List Byte) (i : Nat) (rec1 : Nat) {s : State} (h_ok : MemOk s) :
    MemOk (shardMoments c e k b i rec1 s).1 := by
  unfold shardMoments; dsimp only
  repeat' (first | with_reducible assumption | with_reducible apply mem_stageShard | with_reducible apply mem_sweepTrace | with_reducible apply mem_commitGroup | with_reducible apply mem_swUnstage | with_reducible apply mem_putElem | with_reducible apply mem_peep | (with_reducible refine mem_foldl _ _ _ (fun _ _ _ => ?_) ?_) | (with_reducible refine mem_foldl' _ _ _ (fun _ _ _ => ?_) ?_) | (with_reducible refine mem_forEach _ _ (fun _ _ _ => ?_) ?_) | (with_reducible apply mem_mk; change MemOk _) | split | intro _)

theorem mem_putWorking (c : Nat) (owner : Nat) (flush : Bool) (t : Tensor) (i : Nat) (val : List Nat → Num × Bool) {s : State} (h_ok : MemOk s) :
    MemOk (putWorking c owner flush t i val s).1 := by
  unfold putWorking; dsimp only
  repeat' (first | with_reducible assumption | with_reducible apply mem_putBlock | with_reducible apply mem_putElem | (with_reducible refine mem_foldl _ _ _ (fun _ _ _ => ?_) ?_) | (with_reducible refine mem_foldl' _ _ _ (fun _ _ _ => ?_) ?_) | (with_reducible refine mem_forEach _ _ (fun _ _ _ => ?_) ?_) | (with_reducible apply mem_mk; change MemOk _) | split | intro _)

theorem mem_layerOpen (layer : Nat) {s : State} (h_ok : MemOk s) :
    MemOk (layerOpen layer s) := by
  unfold layerOpen; grind [MemOk]

theorem mem_shardWeights (c : Nat) (e : InFlight) (k : SwConst) (b : List Byte) (i : Nat) (rec1 : Nat) (prior : Nat) {s : State} (h_ok : MemOk s) :
    MemOk (shardWeights c e k b i rec1 prior s).1 := by
  unfold shardWeights; grind [MemOk, mem_forEach, mem_peep, mem_replayGroups, mem_putElem, mem_feedCheck, mem_swUnstage, mem_swFlush, mem_commitGroup, mem_sweepTrace, mem_stageShard, mem_putWorking, mem_layerOpen]

theorem mem_zeroShard (c : Nat) (e : InFlight) (b : List Byte) (i : Nat) {s : State} (h_ok : MemOk s) :
    MemOk (zeroShard c e b i s).1 := by
  unfold zeroShard; grind [MemOk, mem_forEach, mem_putElem, mem_swUnstage, mem_swFlush]

theorem mem_loseStats (c : Nat) (b : List Byte) (i : Nat) {s : State} (h_ok : MemOk s) : MemOk (loseStats c b i s) :=
  mem_errRecord _ _ _ _ _ _ (mem_setF _ _ h_ok)

theorem mem_finishShard (c : Nat) (e : InFlight) (k : SwConst) (b : List Byte) (mid : Bool) (i : Nat) (rec1 : Nat) {s : State} (h_ok : MemOk s) :
    MemOk (finishShard c e k b mid i rec1 s).1 := by
  unfold finishShard; grind [MemOk, mem_setF, mem_loseStats, mem_satF, mem_setJob, mem_sweepTrace, mem_tagBad, mem_shardWeights, mem_zeroShard]

theorem mem_sweepGather (id : Nat) (n : Nat) (status : Nat) (flags : Nat) {s : State} (h_ok : MemOk s) :
    MemOk (sweepGather id n status flags s) := by
  unfold sweepGather; grind [MemOk, mem_endPart, mem_orPart, mem_setSticky]

theorem mem_setSwPart (id : Nat) (n : Nat) (f : SweepPart → SweepPart) {s : State} (h_ok : MemOk s) :
    MemOk (setSwPart id n f s) := by
  unfold setSwPart; grind [MemOk, mem_setJob]

theorem mem_unitDone (c : Nat) (id : Nat) (n : Nat) (factor : Bool) (u : Nat) (status : Nat) (flags : Nat) {s : State} (h_ok : MemOk s) :
    MemOk (unitDone c id n factor u status flags s) := by
  unfold unitDone; grind [MemOk, mem_peep, mem_setJob, mem_sweepGather, mem_setSwPart]

theorem mem_runUnit (c : Nat) (e : InFlight) (j : SweepJob) (n : Nat) (p : SweepPart) (factor : Bool) (u : Nat) {s : State} (h_ok : MemOk s) :
    MemOk (runUnit c e j n p factor u s) := by
  unfold runUnit; dsimp only
  repeat' (first | with_reducible assumption | with_reducible apply mem_unitDone | with_reducible apply mem_setSwPart | with_reducible apply mem_finishShard | with_reducible apply mem_zeroShard | with_reducible apply mem_shardMoments | with_reducible apply mem_factorUnit | with_reducible apply mem_setJob | with_reducible apply mem_swUnstage | with_reducible apply mem_orPart | with_reducible apply mem_replayGroups | with_reducible apply mem_peep | with_reducible apply mem_forEach | (with_reducible refine mem_foldl _ _ _ (fun _ _ _ => ?_) ?_) | (with_reducible refine mem_foldl' _ _ _ (fun _ _ _ => ?_) ?_) | (with_reducible refine mem_forEach _ _ (fun _ _ _ => ?_) ?_) | (with_reducible apply mem_mk; change MemOk _) | split | intro _)

theorem mem_execSweepUnit (c : ClusterNo) {s : State} (h_ok : MemOk s) :
    ∀ st, execSweepUnit c s = .next st → MemOk st := by
  intro st ht; unfold execSweepUnit at ht; grind [MemOk, mem_runUnit]

theorem mem_execSweepPrefetch (c : ClusterNo) {s : State} (h_ok : MemOk s) :
    ∀ st, execSweepPrefetch c s = .next st → MemOk st := by
  intro st ht; unfold execSweepPrefetch at ht; (repeat' split at ht) <;> grind [MemOk, mem_forEach, mem_swStage, mem_swUnstage, mem_setJob]

theorem mem_execSweepFactorPhaseEnd {s : State} (h_ok : MemOk s) :
    ∀ st, execSweepFactorPhaseEnd s = .next st → MemOk st := by
  intro st ht; unfold execSweepFactorPhaseEnd at ht; grind [MemOk, mem_forEach, mem_setJob, mem_sweepGather]

theorem mem_countZero (layer : Nat) (zero : Bool) {s : State} (h_ok : MemOk s) :
    MemOk (countZero layer zero s) := by
  unfold countZero; grind [MemOk, mem_setF, mem_errRecord]

theorem mem_commitLayer (j : SweepJob) (e : InFlight) (layer : Nat) {s : State} (h_ok : MemOk s) :
    MemOk (commitLayer j e layer s) := by
  unfold commitLayer; grind [MemOk, mem_setJob, mem_countZero]

theorem mem_execSweepLayerComplete (layer : Nat) {s : State} (h_ok : MemOk s) :
    ∀ st, execSweepLayerComplete layer s = .next st → MemOk st := by
  intro st ht; unfold execSweepLayerComplete at ht; grind [MemOk, mem_commitLayer]

end Sys2Proof.Machine
end

