-- ==== Sys2Proof/Laws/MemChkp.lean ====
section
/-! SUPPORT. No operation of Machine/Chkp.lean breaks the canonical form of the memory. -/

namespace Sys2Proof.Machine

set_option Elab.async false

theorem mem_digestPart (c : Nat) (e : InFlight) (lo : Nat) (hi : Nat) {s : State} (h_ok : MemOk s) :
    MemOk (digestPart c e lo hi s).1 := by
  unfold digestPart; dsimp only
  repeat' (first | with_reducible assumption | with_reducible apply mem_feedCheck | with_reducible apply mem_armCheck | with_reducible apply mem_writeScalar | with_reducible apply mem_flushCopies | with_reducible apply mem_peepPort | with_reducible apply mem_upsertCopy | with_reducible apply mem_moverRead | with_reducible apply mem_forEach | (with_reducible refine mem_foldl _ _ _ (fun _ _ _ => ?_) ?_) | (with_reducible refine mem_foldl' _ _ _ (fun _ _ _ => ?_) ?_) | (with_reducible refine mem_forEach _ _ (fun _ _ _ => ?_) ?_) | (with_reducible apply mem_mk; change MemOk _) | split | intro _)

theorem mem_beginDigest (e : InFlight) {s : State} (h_ok : MemOk s) :
    MemOk (beginDigest e s) := by
  unfold beginDigest; dsimp only
  repeat' (first | with_reducible assumption | with_reducible apply mem_digestPart | with_reducible apply mem_chargeThen | with_reducible apply mem_validated | with_reducible apply mem_setFlight | (with_reducible refine mem_foldl _ _ _ (fun _ _ _ => ?_) ?_) | (with_reducible refine mem_foldl' _ _ _ (fun _ _ _ => ?_) ?_) | (with_reducible refine mem_forEach _ _ (fun _ _ _ => ?_) ?_) | (with_reducible apply mem_mk; change MemOk _) | split | intro _)

theorem mem_execDigest (q : QueueNo) (d : Desc) {s : State} (h_ok : MemOk s) :
    ∀ st, execDigest q d s = .next st → MemOk st := by
  intro st ht; unfold execDigest at ht; grind [MemOk, mem_takeRing, mem_beginDigest]

theorem mem_putPersist (p : Nat) (unit : Nat) (bs : List Byte) {s : State} (h_ok : MemOk s) :
    MemOk (putPersist p unit bs s).1 := by
  unfold putPersist; grind [MemOk, mem_memWrite, mem_healRange, mem_programWhole]

theorem mem_exportWork (e : InFlight) {s : State} (h_ok : MemOk s) :
    MemOk (exportWork e s) := by
  unfold exportWork; grind [MemOk, mem_forEach, mem_emit, mem_drawFree, mem_winWrite, mem_stageTensor, mem_endWhole, mem_putPersist]

theorem mem_ckSource (e : InFlight) {s : State} (h_ok : MemOk s) :
    MemOk (ckSource e s).2 := by
  unfold ckSource; grind [MemOk, mem_peep, mem_winRead]

theorem mem_importRecord (e : InFlight) (c : CkSource) (k : CkTensor) (i : Nat) {s : State} (h_ok : MemOk s) :
    MemOk (importRecord e c k i s).1 := by
  unfold importRecord; dsimp only
  repeat' (first | with_reducible assumption | with_reducible apply mem_writeBlock | with_reducible apply mem_writeScalar | (with_reducible refine mem_foldl _ _ _ (fun _ _ _ => ?_) ?_) | (with_reducible refine mem_foldl' _ _ _ (fun _ _ _ => ?_) ?_) | (with_reducible refine mem_forEach _ _ (fun _ _ _ => ?_) ?_) | (with_reducible apply mem_mk; change MemOk _) | split | intro _)

theorem mem_importTag (t : Tensor) (i : Nat) (v : Nat) {s : State} (h_ok : MemOk s) :
    MemOk (importTag t i v s) := by
  unfold importTag; grind [MemOk, mem_putStepTag, mem_putShardTag]

theorem mem_importTensor (e : InFlight) (c : CkSource) (k : CkTensor) {s : State} (h_ok : MemOk s) :
    MemOk (importTensor e c k s).1 := by
  unfold importTensor; dsimp only
  repeat' (first | with_reducible assumption | with_reducible apply mem_importTag | with_reducible apply mem_importRecord | with_reducible apply mem_flushCopies | with_reducible apply mem_forEach | (with_reducible refine mem_foldl _ _ _ (fun _ _ _ => ?_) ?_) | (with_reducible refine mem_foldl' _ _ _ (fun _ _ _ => ?_) ?_) | (with_reducible refine mem_forEach _ _ (fun _ _ _ => ?_) ?_) | (with_reducible apply mem_mk; change MemOk _) | split | intro _)

theorem mem_loseHist (e : InFlight) (c : CkSource) (status : Nat) {s : State} (h_ok : MemOk s) :
    MemOk (loseHist e c status s) := by
  unfold loseHist; grind [MemOk, mem_setF, mem_errRecord]

theorem mem_restoreHist (e : InFlight) (c : CkSource) (status : Nat) (sec : Option (Nat × Nat)) {s : State} (h_ok : MemOk s) :
    MemOk (restoreHist e c status sec s) := by
  unfold restoreHist; grind [MemOk, mem_loseHist]

theorem mem_restoreSteer (c : CkSource) (status : Nat) (sec : Option (Nat × Nat)) {s : State} (h_ok : MemOk s) :
    MemOk (restoreSteer c status sec s) := by
  unfold restoreSteer; grind [MemOk, mem_setF, mem_forEach, mem_errRecord]

theorem mem_importWork (e : InFlight) {s : State} (h_ok : MemOk s) :
    MemOk (importWork e s) := by
  unfold importWork; dsimp only
  repeat' (first | with_reducible assumption | with_reducible apply mem_restoreSteer | with_reducible apply mem_restoreHist | with_reducible apply mem_importTensor | with_reducible apply mem_ckSource | with_reducible apply mem_endWhole | (with_reducible refine mem_foldl _ _ _ (fun _ _ _ => ?_) ?_) | (with_reducible refine mem_foldl' _ _ _ (fun _ _ _ => ?_) ?_) | (with_reducible refine mem_forEach _ _ (fun _ _ _ => ?_) ?_) | (with_reducible apply mem_mk; change MemOk _) | split | intro _)

theorem mem_beginChkp (e : InFlight) {s : State} (h_ok : MemOk s) :
    MemOk (beginChkp e s) := by
  unfold beginChkp; grind [MemOk, mem_failCheck, mem_validated, mem_exportWork, mem_importWork, mem_chargeAll]

theorem mem_takeChkp (op : Nat) (q : QueueNo) (d : Desc) {s : State} (h_ok : MemOk s) :
    MemOk (takeChkp op q d s) := by
  unfold takeChkp; grind [MemOk, mem_takeRing, mem_beginChkp]

theorem mem_execChkpExport (q : QueueNo) (d : Desc) {s : State} (h_ok : MemOk s) :
    ∀ st, execChkpExport q d s = .next st → MemOk st := by
  intro st ht; unfold execChkpExport at ht; grind [MemOk, mem_takeChkp]

theorem mem_execChkpImport (q : QueueNo) (d : Desc) {s : State} (h_ok : MemOk s) :
    ∀ st, execChkpImport q d s = .next st → MemOk st := by
  intro st ht; unfold execChkpImport at ht; grind [MemOk, mem_takeChkp]

theorem mem_execChkpCarriageReceive (src : Nat) (image : List Byte) {s : State} (h_ok : MemOk s) :
    ∀ st, execChkpCarriageReceive src image s = .next st → MemOk st := by
  intro st ht; unfold execChkpCarriageReceive at ht; grind [MemOk, mem_setF, mem_putPersist]

theorem mem_execPhaseCounterTick {s : State} (h_ok : MemOk s) :
    ∀ st, execPhaseCounterTick s = .next st → MemOk st := by
  intro st ht; unfold execPhaseCounterTick at ht; (repeat' split at ht) <;> grind [MemOk]

theorem mem_execPhctlSnap {s : State} (h_ok : MemOk s) :
    ∀ st, execPhctlSnap s = .next st → MemOk st := by
  intro st ht; unfold execPhctlSnap at ht; grind [MemOk, mem_hostWrite, mem_snapPhases]

end Sys2Proof.Machine
end

