-- ==== Sys2Proof/Laws/MemQueueCmds.lean ====
section
/-! SUPPORT. No operation of Machine/QueueCmds.lean breaks the canonical form of the memory. -/

namespace Sys2Proof.Machine

set_option Elab.async false

theorem mem_doorbellError (q : Nat) {s : State} (h_ok : MemOk s) :
    MemOk (doorbellError q s) := by
  unfold doorbellError; grind [MemOk, mem_setF, mem_regAccessError]

theorem mem_execSqtail (q : QueueNo) (value : Nat) {s : State} (h_ok : MemOk s) :
    ∀ st, execSqtail q value s = .next st → MemOk st := by
  intro st ht; unfold execSqtail at ht; grind [MemOk, mem_setF, mem_hostWrite, mem_doorbellError]

theorem mem_execCqhead (q : QueueNo) (value : Nat) {s : State} (h_ok : MemOk s) :
    ∀ st, execCqhead q value s = .next st → MemOk st := by
  intro st ht; unfold execCqhead at ht; grind [MemOk, mem_setF, mem_hostWrite, mem_doorbellError]

theorem mem_beginWait (e : InFlight) {s : State} (h_ok : MemOk s) :
    MemOk (beginWait e s) := by
  unfold beginWait; grind [MemOk, mem_setFlight, mem_recount, mem_finish, mem_validated]

theorem mem_beginSignal (e : InFlight) {s : State} (h_ok : MemOk s) :
    MemOk (beginSignal e s) := by
  unfold beginSignal; grind [MemOk, mem_setFlight, mem_validated]

theorem mem_execSignalApply (port : Nat) {s : State} (h_ok : MemOk s) :
    ∀ st, execSignalApply port s = .next st → MemOk st := by
  intro st ht; unfold execSignalApply at ht; grind [MemOk, mem_setF, mem_trace, mem_finish, mem_completeWaits]

theorem mem_fenceWrite (f : Nat) (value : Nat) {s : State} (h_ok : MemOk s) :
    MemOk (fenceWrite f value s) := by
  unfold fenceWrite; grind [MemOk, mem_dropHeld, mem_setFence]

theorem mem_execFenceWrite (f : FenceNo) (value : Nat) {s : State} (h_ok : MemOk s) :
    ∀ st, execFenceWrite f value s = .next st → MemOk st := by
  intro st ht; unfold execFenceWrite at ht; grind [MemOk, mem_hostWrite, mem_fenceWrite]

theorem mem_execQirqTimer (q : QueueNo) {s : State} (h_ok : MemOk s) :
    ∀ st, execQirqTimer q s = .next st → MemOk st := by
  intro st ht; unfold execQirqTimer at ht; grind [MemOk, mem_queueIrq]

theorem mem_enableQueue (q : Nat) (latched : Bool) {s : State} (h_ok : MemOk s) :
    MemOk (enableQueue q latched s) := by
  unfold enableQueue; grind [MemOk, mem_setF, mem_setQaux, mem_queueError]

theorem mem_stopQueue (q : Nat) {s : State} (h_ok : MemOk s) :
    MemOk (stopQueue q s) := by
  unfold stopQueue; grind [MemOk, mem_setF, mem_forEach, mem_finish]

theorem mem_execQctlEnable (q : QueueNo) (on : Bool) {s : State} (h_ok : MemOk s) :
    ∀ st, execQctlEnable q on s = .next st → MemOk st := by
  intro st ht; unfold execQctlEnable at ht; grind [MemOk, mem_setF, mem_hostWrite, mem_enableQueue, mem_stopQueue]

theorem mem_execQueueDrained (q : QueueNo) {s : State} (h_ok : MemOk s) :
    ∀ st, execQueueDrained q s = .next st → MemOk st := by
  intro st ht; unfold execQueueDrained at ht; grind [MemOk, mem_setF, mem_enableQueue]

theorem mem_execQbindWrite (q : QueueNo) (valid : Bool) (casement : Nat) {s : State} (h_ok : MemOk s) :
    ∀ st, execQbindWrite q valid casement s = .next st → MemOk st := by
  intro st ht; unfold execQbindWrite at ht; grind [MemOk, mem_setF, mem_regAccessError, mem_hostWrite]

theorem mem_setLog2 (f : Fld) (lo : Nat) (hi : Nat) (v : Nat) {s : State} (h_ok : MemOk s) :
    MemOk (setLog2 f lo hi v s) := by
  unfold setLog2; grind [MemOk, mem_setF, mem_regAccessError]

theorem mem_ringWrite (q : Nat) (r : RingReg) (value : Nat) {s : State} (h_ok : MemOk s) :
    MemOk (ringWrite q r value s) := by
  unfold ringWrite; grind [MemOk, mem_setF, mem_dropHeld, mem_regAccessError, mem_setLog2]

theorem mem_execQueueRingWrite (q : QueueNo) (r : RingReg) (value : Nat) {s : State} (h_ok : MemOk s) :
    ∀ st, execQueueRingWrite q r value s = .next st → MemOk st := by
  intro st ht; unfold execQueueRingWrite at ht; grind [MemOk, mem_hostWrite, mem_ringWrite]

theorem mem_execHostRequestFailure (q : QueueNo) (f : HostFailure) {s : State} (h_ok : MemOk s) :
    ∀ st, execHostRequestFailure q f s = .next st → MemOk st := by
  intro st ht; unfold execHostRequestFailure at ht; grind [MemOk, mem_queueError]

end Sys2Proof.Machine
end

