-- ==== Sys2Proof/Laws/MemLoader.lean ====
section
/-! SUPPORT. No operation of Machine/Loader.lean breaks the canonical form of the memory. -/

namespace Sys2Proof.Machine

set_option Elab.async false

theorem mem_setImgState (v : Nat) {s : State} (h_ok : MemOk s) :
    MemOk (setImgState v s) := by
  unfold setImgState; grind [MemOk, mem_setF, mem_trace]

theorem mem_loadFails (code : Nat) (sec : Nat) (rec : Nat) {s : State} (h_ok : MemOk s) :
    MemOk (loadFails code sec rec s) := by
  unfold loadFails; grind [MemOk, mem_setF, mem_setImgState]

theorem mem_readImage {s : State} (h_ok : MemOk s) :
    MemOk (readImage s) := by
  unfold readImage; grind [MemOk, mem_emit, mem_loadFails, mem_forEach]

theorem mem_execImgLoad {s : State} (h_ok : MemOk s) :
    ∀ st, execImgLoad s = .next st → MemOk st := by
  intro st ht; unfold execImgLoad at ht; grind [MemOk, mem_setF, mem_hostWrite, mem_setImgState, mem_loadFails, mem_readImage]

theorem mem_startQuiesce {s : State} (h_ok : MemOk s) :
    MemOk (startQuiesce s) := by
  unfold startQuiesce; grind [MemOk, mem_setF, mem_setImgState]

theorem mem_execImgFetchDone (bytes : Option (List Byte)) {s : State} (h_ok : MemOk s) :
    ∀ st, execImgFetchDone bytes s = .next st → MemOk st := by
  intro st ht; unfold execImgFetchDone at ht; grind [MemOk, mem_setImgState, mem_loadFails, mem_startQuiesce]

theorem mem_execImgUnload {s : State} (h_ok : MemOk s) :
    ∀ st, execImgUnload s = .next st → MemOk st := by
  intro st ht; unfold execImgUnload at ht; grind [MemOk, mem_setF, mem_hostWrite, mem_startQuiesce]

theorem mem_execImgAbort {s : State} (h_ok : MemOk s) :
    ∀ st, execImgAbort s = .next st → MemOk st := by
  intro st ht; unfold execImgAbort at ht; grind [MemOk, mem_hostWrite, mem_loadFails]

theorem mem_freshPlacement (im : Option Image) {s : State} (h_ok : MemOk s) :
    MemOk (freshPlacement im s) := by
  unfold freshPlacement; grind [MemOk, mem_chargeWindow]

theorem mem_freeAllPanes {s : State} (h_ok : MemOk s) :
    MemOk (freeAllPanes s) := by
  unfold freeAllPanes; grind [MemOk, mem_forEach, mem_freeSlotBytes]

theorem mem_unbindQueue (q : Nat) {s : State} (h_ok : MemOk s) :
    MemOk (unbindQueue q s) := by
  unfold unbindQueue; grind [MemOk, mem_setF]

theorem mem_writeBindings (l : List (Nat × Nat)) {s : State} (h_ok : MemOk s) :
    MemOk (writeBindings l s) := by
  unfold writeBindings; grind [MemOk, mem_setF, mem_forEach, mem_unbindQueue]

theorem mem_writeArbiters (l : List (Nat × Nat × Nat × Nat)) {s : State} (h_ok : MemOk s) :
    MemOk (writeArbiters l s) := by
  unfold writeArbiters; grind [MemOk, mem_setF, mem_resetFields, mem_forEach]

theorem mem_writeDoorways (l : List (Nat × Nat)) {s : State} (h_ok : MemOk s) :
    MemOk (writeDoorways l s) := by
  unfold writeDoorways; grind [MemOk, mem_setF, mem_orF, mem_forEach]

theorem mem_showImage (im : Option Image) {s : State} (h_ok : MemOk s) :
    MemOk (showImage im s) := by
  unfold showImage; grind [MemOk, mem_setF, mem_setArray]

theorem mem_installImage (im : Image) (p : LoadPlan) {s : State} (h_ok : MemOk s) :
    MemOk (installImage im p s) := by
  unfold installImage; grind [MemOk, mem_setF, mem_addF, mem_resetFields, mem_forEach, mem_setCart, mem_freeSlotBytes, mem_extend, mem_showCores, mem_showNode, mem_placed, mem_setVset, mem_setImgState, mem_freeAllPanes, mem_writeBindings, mem_writeArbiters, mem_writeDoorways, mem_showImage]

theorem mem_unloadImage {s : State} (h_ok : MemOk s) :
    MemOk (unloadImage s) := by
  unfold unloadImage; grind [MemOk, mem_setF, mem_resetFields, mem_resetF, mem_placeImage, mem_setImgState, mem_freshPlacement, mem_freeAllPanes, mem_writeBindings, mem_showImage]

theorem mem_execImgQuiesced {s : State} (h_ok : MemOk s) :
    ∀ st, execImgQuiesced s = .next st → MemOk st := by
  intro st ht; unfold execImgQuiesced at ht; grind [MemOk, mem_setF, mem_setImgState, mem_loadFails, mem_readImage, mem_unloadImage]

theorem mem_execImgRefetchDone (bytes : Option (List Byte)) {s : State} (h_ok : MemOk s) :
    ∀ st, execImgRefetchDone bytes s = .next st → MemOk st := by
  intro st ht; unfold execImgRefetchDone at ht; grind [MemOk, mem_loadFails, mem_installImage]

theorem mem_setProg (owner : Nat) (p : ProgState) {s : State} (h_ok : MemOk s) :
    MemOk (setProg owner p s) := by
  unfold setProg; grind [MemOk]

theorem mem_beginAny (e : InFlight) {s : State} (h_ok : MemOk s) :
    MemOk (beginAny e s) := by
  unfold beginAny; grind [MemOk, mem_beginMma, mem_beginVop, mem_beginMove, mem_beginComp, mem_beginColl, mem_beginSweep, mem_beginDigest, mem_beginChkp, mem_beginWait, mem_beginSignal]

theorem mem_execProgramEntryTake (owner : Nat) {s : State} (h_ok : MemOk s) :
    ∀ st, execProgramEntryTake owner s = .next st → MemOk st := by
  intro st ht; unfold execProgramEntryTake at ht; grind [MemOk, mem_enterFlight, mem_setProg, mem_beginAny]

end Sys2Proof.Machine
end

