-- ==== Sys2Proof/Laws/MemParts.lean ====
section
/-! SUPPORT. No operation of Machine/Parts.lean breaks the canonical form of the memory. -/

namespace Sys2Proof.Machine

set_option Elab.async false

theorem mem_execInvalidOpcode (q : QueueNo) (d : Desc) {s : State} (h_ok : MemOk s) :
    ∀ st, execInvalidOpcode q d s = .next st → MemOk st := by
  intro st ht; unfold execInvalidOpcode at ht; grind [MemOk, mem_takeRing, mem_beginAny]

theorem mem_execWait (q : QueueNo) (d : Desc) {s : State} (h_ok : MemOk s) :
    ∀ st, execWait q d s = .next st → MemOk st := by
  intro st ht; unfold execWait at ht; grind [MemOk, mem_takeRing, mem_beginWait]

theorem mem_execSignalAdd (q : QueueNo) (d : Desc) {s : State} (h_ok : MemOk s) :
    ∀ st, execSignalAdd q d s = .next st → MemOk st := by
  intro st ht; unfold execSignalAdd at ht; grind [MemOk, mem_takeRing, mem_beginSignal]

theorem mem_execSignalMax (q : QueueNo) (d : Desc) {s : State} (h_ok : MemOk s) :
    ∀ st, execSignalMax q d s = .next st → MemOk st := by
  intro st ht; unfold execSignalMax at ht; grind [MemOk, mem_takeRing, mem_beginSignal]

theorem mem_startMx (n : Nat) (e : InFlight) (p : Nat) (lo : Nat) {s : State} (h_ok : MemOk s) :
    MemOk (startMx n e p lo s) := by
  unfold startMx; grind [MemOk, mem_setF, mem_setMx]

theorem mem_startVx (n : Nat) (e : InFlight) (p : Nat) {s : State} (h_ok : MemOk s) :
    MemOk (startVx n e p s) := by
  unfold startVx; grind [MemOk, mem_setF, mem_setVx]

theorem mem_execPartIssue (n : CoreNo) {s : State} (h_ok : MemOk s) :
    ∀ st, execPartIssue n s = .next st → MemOk st := by
  intro st ht; unfold execPartIssue at ht; grind [MemOk, mem_peep, mem_trace, mem_setPart, mem_startComp, mem_startMx, mem_startVx]

theorem mem_poisonPane (root : Tensor) (i : Nat) {s : State} (h_ok : MemOk s) :
    MemOk (poisonPane root i s) := by
  unfold poisonPane; grind [MemOk, mem_writePane]

theorem mem_poisonBox (h : Nat) (lo : List Nat) (hi : List Nat) {s : State} (h_ok : MemOk s) :
    MemOk (poisonBox h lo hi s) := by
  unfold poisonBox; grind [MemOk, mem_forEach, mem_poisonPane]

theorem mem_poisonOutput (e : InFlight) (p : Part) {s : State} (h_ok : MemOk s) :
    MemOk (poisonOutput e p s) := by
  unfold poisonOutput; grind [MemOk, mem_forEach, mem_poisonBox]

theorem mem_finishParts (e : InFlight) {s : State} (h_ok : MemOk s) :
    MemOk (finishParts e s) := by
  unfold finishParts; grind [MemOk, mem_finish, mem_snapPhases]

theorem mem_completePart (e : InFlight) (i : Nat) (p : Part) {s : State} (h_ok : MemOk s) :
    MemOk (completePart e i p s) := by
  unfold completePart; grind [MemOk, mem_addF, mem_peep, mem_trace, mem_setPart, mem_fillSequencer, mem_poisonOutput, mem_finishParts]

theorem mem_execPartComplete (id : Nat) (part : Nat) {s : State} (h_ok : MemOk s) :
    ∀ st, execPartComplete id part s = .next st → MemOk st := by
  intro st ht; unfold execPartComplete at ht; grind [MemOk, mem_completePart]

end Sys2Proof.Machine
end

