-- ==== Sys2Proof/Laws/MemPeephole.lean ====
section
/-! SUPPORT. No operation of Machine/Peephole.lean breaks the canonical form of the memory. -/

namespace Sys2Proof.Machine

set_option Elab.async false

theorem mem_execCntselWrite (c : CounterNo) (value : Nat) {s : State} (h_ok : MemOk s) :
    ∀ st, execCntselWrite c value s = .next st → MemOk st := by
  intro st ht; unfold execCntselWrite at ht; grind [MemOk, mem_setF, mem_regAccessError, mem_hostWrite]

theorem mem_execCntselClr (c : CounterNo) {s : State} (h_ok : MemOk s) :
    ∀ st, execCntselClr c s = .next st → MemOk st := by
  intro st ht; unfold execCntselClr at ht; grind [MemOk, mem_setF, mem_hostWrite]

theorem mem_execPeepCntclr {s : State} (h_ok : MemOk s) :
    ∀ st, execPeepCntclr s = .next st → MemOk st := by
  intro st ht; unfold execPeepCntclr at ht; grind [MemOk, mem_hostWrite]

theorem mem_execTraceEnable {s : State} (h_ok : MemOk s) :
    ∀ st, execTraceEnable s = .next st → MemOk st := by
  intro st ht; unfold execTraceEnable at ht; grind [MemOk, mem_setF, mem_hostWrite]

theorem mem_traceIdle {s : State} (h_ok : MemOk s) :
    MemOk (traceIdle s) := by
  unfold traceIdle; grind [MemOk, mem_setF]

theorem mem_execTraceDisable {s : State} (h_ok : MemOk s) :
    ∀ st, execTraceDisable s = .next st → MemOk st := by
  intro st ht; unfold execTraceDisable at ht; grind [MemOk, mem_setF, mem_hostWrite, mem_traceIdle]

theorem mem_traceStore (rs : List TraceRec) {s : State} (h_ok : MemOk s) :
    MemOk (traceStore rs s) := by
  unfold traceStore; grind [MemOk, mem_setF, mem_emit, mem_hostWrite]

theorem mem_traceMessage (n : Nat) (lost : Bool) {s : State} (h_ok : MemOk s) :
    MemOk (traceMessage n lost s) := by
  unfold traceMessage; grind [MemOk, mem_sendMsix]

theorem mem_traceDropHead (r : TraceRec) {s : State} (h_ok : MemOk s) :
    MemOk (traceDropHead r s) := by
  unfold traceDropHead; grind [MemOk, mem_traceDrop]

theorem mem_execTraceRingWrite {s : State} (h_ok : MemOk s) :
    ∀ st, execTraceRingWrite s = .next st → MemOk st := by
  intro st ht; unfold execTraceRingWrite at ht; grind [MemOk, mem_setF, mem_lostRecord, mem_traceIdle, mem_traceStore, mem_traceMessage, mem_traceDropHead]

theorem mem_execTrheadWrite (slot : Nat) {s : State} (h_ok : MemOk s) :
    ∀ st, execTrheadWrite slot s = .next st → MemOk st := by
  intro st ht; unfold execTrheadWrite at ht; grind [MemOk, mem_setF, mem_hostWrite]

theorem mem_traceConfigWrite (r : TraceReg) (value : Nat) {s : State} (h_ok : MemOk s) :
    MemOk (traceConfigWrite r value s) := by
  unfold traceConfigWrite; grind [MemOk, mem_setF, mem_dropHeld, mem_regAccessError]

theorem mem_execTraceConfigWrite (r : TraceReg) (value : Nat) {s : State} (h_ok : MemOk s) :
    ∀ st, execTraceConfigWrite r value s = .next st → MemOk st := by
  intro st ht; unfold execTraceConfigWrite at ht; grind [MemOk, mem_hostWrite, mem_traceConfigWrite]

end Sys2Proof.Machine
end

