-- ==== Sys2Proof/Laws/MemShutters.lean ====
section
/-! SUPPORT. No operation of Machine/Shutters.lean breaks the canonical form of the memory. -/

namespace Sys2Proof.Machine

set_option Elab.async false

theorem mem_setShut (i : Nat) (st : Nat) {s : State} (h_ok : MemOk s) :
    MemOk (setShut i st s) := by
  unfold setShut; grind [MemOk, mem_setF, mem_trace]

theorem mem_powerUp (n : Nat) {s : State} (h_ok : MemOk s) :
    MemOk (powerUp n s) := by
  unfold powerUp; grind [MemOk, mem_setRegion, mem_startCal]

theorem mem_powerDown (n : Nat) {s : State} (h_ok : MemOk s) :
    MemOk (powerDown n s) := by
  unfold powerDown; grind [MemOk, mem_setRegion]

theorem mem_refuseHeld (n : Nat) {s : State} (h_ok : MemOk s) :
    MemOk (refuseHeld n s) := by
  unfold refuseHeld; grind [MemOk]

theorem mem_closeDoorway (w : Nat) {s : State} (h_ok : MemOk s) :
    MemOk (closeDoorway w s) := by
  unfold closeDoorway; grind [MemOk, mem_setF, mem_forEach, mem_setDw, mem_failConn, mem_withFailures]

theorem mem_beginClosing (i : Nat) {s : State} (h_ok : MemOk s) :
    MemOk (beginClosing i s) := by
  unfold beginClosing; grind [MemOk, mem_refuseHeld, mem_closeDoorway]

theorem mem_dropCore (i : Nat) {s : State} (h_ok : MemOk s) :
    MemOk (dropCore i s) := by
  unfold dropCore; grind [MemOk]

theorem mem_bringUp (i : Nat) {s : State} (h_ok : MemOk s) :
    MemOk (bringUp i s) := by
  unfold bringUp; grind [MemOk, mem_forEach, mem_muStart, mem_startInsertion, mem_startTraining, mem_powerUp, mem_dropCore]

theorem mem_drive (i : Nat) {s : State} (h_ok : MemOk s) :
    MemOk (drive i s) := by
  unfold drive; grind [MemOk, mem_setF, mem_setShut, mem_beginClosing, mem_bringUp]

theorem mem_driveShutters {s : State} (h_ok : MemOk s) :
    MemOk (driveShutters s) := by
  unfold driveShutters; grind [MemOk, mem_forEach, mem_drive]

theorem mem_execShutterReqWrite (i : ShutterNo) (req : Bool) {s : State} (h_ok : MemOk s) :
    ∀ st, execShutterReqWrite i req s = .next st → MemOk st := by
  intro st ht; unfold execShutterReqWrite at ht; grind [MemOk, mem_setF, mem_hostWrite, mem_driveShutters]

theorem mem_emptyCtxs (p : Nat → Bool) {s : State} (h_ok : MemOk s) :
    MemOk (emptyCtxs p s) := by
  unfold emptyCtxs; grind [MemOk]

theorem mem_endWaits (i : Nat) {s : State} (h_ok : MemOk s) :
    MemOk (endWaits i s) := by
  unfold endWaits; grind [MemOk]

theorem mem_endClosing (i : Nat) {s : State} (h_ok : MemOk s) :
    MemOk (endClosing i s) := by
  unfold endClosing; grind [MemOk, mem_forEach, mem_setMuAux, mem_serveAll, mem_closePort, mem_powerDown, mem_emptyCtxs, mem_endWaits]

theorem mem_endOpening (i : Nat) {s : State} (h_ok : MemOk s) :
    MemOk (endOpening i s) := by
  unfold endOpening; grind [MemOk, mem_forEach, mem_bringUp]

theorem mem_execShutterTransitionEnd (i : ShutterNo) {s : State} (h_ok : MemOk s) :
    ∀ st, execShutterTransitionEnd i s = .next st → MemOk st := by
  intro st ht; unfold execShutterTransitionEnd at ht; grind [MemOk, mem_setShut, mem_drive, mem_endClosing, mem_endOpening]

end Sys2Proof.Machine
end

