-- ==== Sys2Proof/Laws/MemReset.lean ====
section
/-! SUPPORT. No operation of Machine/Reset.lean breaks the canonical form of the memory. -/

namespace Sys2Proof.Machine

set_option Elab.async false

theorem mem_cutParts (n : Nat) {s : State} (h_ok : MemOk s) :
    MemOk (cutParts n s) := by
  unfold cutParts; grind [MemOk]

theorem mem_settleLost (ids : List Nat) {s : State} (h_ok : MemOk s) :
    MemOk (settleLost ids s) := by
  unfold settleLost; grind [MemOk, mem_forEach, mem_checkEnd, mem_leaveVx, mem_completeSpread]

theorem mem_idleCore (n : Nat) {s : State} (h_ok : MemOk s) :
    MemOk (idleCore n s) := by
  unfold idleCore; grind [MemOk, mem_setF, mem_forEach, mem_transomFree]

theorem mem_clearCore (n : Nat) {s : State} (h_ok : MemOk s) :
    MemOk (clearCore n s) := by
  unfold clearCore; grind [MemOk, mem_fillSequencer, mem_idleCore]

theorem mem_dropCopies (core : Nat) {s : State} (h_ok : MemOk s) :
    MemOk (dropCopies core s) := by
  unfold dropCopies; grind [MemOk]

theorem mem_dropSweeps (ids : List Nat) {s : State} (h_ok : MemOk s) :
    MemOk (dropSweeps ids s) := by
  unfold dropSweeps; grind [MemOk]

theorem mem_clearEngines (n : Nat) {s : State} (h_ok : MemOk s) :
    MemOk (clearEngines n s) := by
  unfold clearEngines; grind [MemOk, mem_emptyCtxs]

theorem mem_dropTransfers (n : Nat) (ids : List Nat) {s : State} (h_ok : MemOk s) :
    MemOk (dropTransfers n ids s) := by
  unfold dropTransfers; grind [MemOk, mem_forEach, mem_setHinge]

theorem mem_clearArbiters (n : Nat) {s : State} (h_ok : MemOk s) :
    MemOk (clearArbiters n s) := by
  unfold clearArbiters; grind [MemOk, mem_setF, mem_forEach]

theorem mem_discardFlights {s : State} (h_ok : MemOk s) :
    MemOk (discardFlights s) := by
  unfold discardFlights; grind [MemOk, mem_forEach, mem_recountQueue, mem_recount, mem_releaseChecks, mem_dropShadows, mem_dropColl, mem_clearCore]

theorem mem_clearRoot {s : State} (h_ok : MemOk s) :
    MemOk (clearRoot s) := by
  unfold clearRoot; grind [MemOk, mem_resetFields, mem_forEach, mem_unloadImage, mem_discardFlights]

theorem mem_restartPort (p : Nat) {s : State} (h_ok : MemOk s) :
    MemOk (restartPort p s) := by
  unfold restartPort; grind [MemOk, mem_setCart, mem_eraseSpill, mem_emptyPort, mem_startInsertion]

theorem mem_clearController {s : State} (h_ok : MemOk s) :
    MemOk (clearController s) := by
  unfold clearController; grind [MemOk, mem_setF, mem_resetFields, mem_resetF, mem_forEach, mem_setArray]

theorem mem_cxlDown {s : State} (h_ok : MemOk s) :
    MemOk (cxlDown s) := by
  unfold cxlDown; grind [MemOk, mem_setF, mem_satF, mem_loadFails]

theorem mem_resetUnits (n : Nat) {s : State} (h_ok : MemOk s) :
    MemOk (resetUnits n s) := by
  unfold resetUnits; grind [MemOk, mem_forEach, mem_muStart, mem_setDw, mem_startTraining, mem_restartPort, mem_cxlDown]

theorem mem_clearUnits (n : Nat) {s : State} (h_ok : MemOk s) :
    MemOk (clearUnits n s) := by
  unfold clearUnits; grind [MemOk, mem_clearCore, mem_dropCopies, mem_clearEngines, mem_clearRoot, mem_clearController]

theorem mem_restampHinges (n : Nat) {s : State} (h_ok : MemOk s) :
    MemOk (restampHinges n s) := by
  unfold restampHinges; grind [MemOk, mem_forEach, mem_setHinge]

theorem mem_dropHalves (n : Nat) {s : State} (h_ok : MemOk s) :
    MemOk (dropHalves n s) := by
  unfold dropHalves; grind [MemOk]

theorem mem_holdRegion (n : Nat) {s : State} (h_ok : MemOk s) :
    MemOk (holdRegion n s) := by
  unfold holdRegion; grind [MemOk, mem_setF, mem_setRegion, mem_startCal, mem_restampHinges, mem_dropHalves]

theorem mem_resetRegion (n : Nat) {s : State} (h_ok : MemOk s) :
    MemOk (resetRegion n s) := by
  unfold resetRegion; grind [MemOk, mem_resetFields, mem_fillSequencer, mem_driveShutters, mem_cutParts, mem_settleLost, mem_dropSweeps, mem_dropTransfers, mem_clearArbiters, mem_resetUnits, mem_clearUnits, mem_holdRegion]

theorem mem_regionRuns (n : Nat) {s : State} (h_ok : MemOk s) :
    MemOk (regionRuns n s) := by
  unfold regionRuns; grind [MemOk, mem_replayGroups, mem_releaseRegion]

theorem mem_execRstctlReset (n : RegionNo) {s : State} (h_ok : MemOk s) :
    ∀ st, execRstctlReset n s = .next st → MemOk st := by
  intro st ht; unfold execRstctlReset at ht; grind [MemOk, mem_hostWrite, mem_resetRegion]

theorem mem_execHingeStallTimeout (a : RegionNo) (b : RegionNo) {s : State} (h_ok : MemOk s) :
    ∀ st, execHingeStallTimeout a b s = .next st → MemOk st := by
  intro st ht; unfold execHingeStallTimeout at ht; (repeat' split at ht) <;> grind [MemOk, mem_pairRecord, mem_endStall, mem_resetRegion]

theorem mem_execHoldWatchdogBite (inst : Nat) {s : State} (h_ok : MemOk s) :
    ∀ st, execHoldWatchdogBite inst s = .next st → MemOk st := by
  intro st ht; unfold execHoldWatchdogBite at ht; simp only [Host.Outcome.next.injEq] at ht; subst ht
  repeat' (first | with_reducible assumption | with_reducible apply mem_resetRegion | with_reducible apply mem_errRecord | with_reducible apply mem_trace | with_reducible apply mem_satF | (with_reducible refine mem_foldl _ _ _ (fun _ _ _ => ?_) ?_) | (with_reducible refine mem_foldl' _ _ _ (fun _ _ _ => ?_) ?_) | (with_reducible refine mem_forEach _ _ (fun _ _ _ => ?_) ?_) | (with_reducible apply mem_mk; change MemOk _) | split | (dsimp only) | intro _)

end Sys2Proof.Machine
end

