-- ==== Sys2Proof/Laws/MemBoot.lean ====
section
/-! SUPPORT. No operation of Machine/Boot.lean breaks the canonical form of the memory. -/

namespace Sys2Proof.Machine

set_option Elab.async false

theorem mem_fullReset (cause : Nat) {s : State} (h_ok : MemOk s) :
    MemOk (fullReset cause s) := by
  unfold fullReset; grind [MemOk, mem_setF, mem_forEach, mem_eraseSpill, mem_showLifeCycle, mem_showFuses, mem_wipeWindow]

theorem mem_measureBoot (m : List Byte) {s : State} (h_ok : MemOk s) :
    MemOk (measureBoot m s) := by
  unfold measureBoot; grind [MemOk, mem_forEach, mem_extend]

theorem mem_bootFails (code : Nat) {s : State} (h_ok : MemOk s) :
    MemOk (bootFails code s) := by
  unfold bootFails; grind [MemOk, mem_setF, mem_errRecord]

theorem mem_bootVerified (slot : Nat) (m : List Byte) (comps : List (List Byte)) {s : State} (h_ok : MemOk s) :
    MemOk (bootVerified slot m comps s) := by
  unfold bootVerified; grind [MemOk, mem_setF, mem_forEach, mem_startCal, mem_measureBoot]

theorem mem_startBoot (env : BootEnv) {s : State} (h_ok : MemOk s) :
    MemOk (startBoot env s) := by
  unfold startBoot; grind [MemOk, mem_setF, mem_forEach, mem_eraseSpill, mem_keyRecord, mem_bootFails, mem_bootVerified]

theorem mem_fenceUnits (env : BootEnv) {s : State} (h_ok : MemOk s) :
    MemOk (fenceUnits env s) := by
  unfold fenceUnits; grind [MemOk, mem_setF, mem_forEach, mem_errRecord]

theorem mem_bootMemory (j : BootJob) {s : State} (h_ok : MemOk s) :
    MemOk (bootMemory j s) := by
  unfold bootMemory; grind [MemOk, mem_setF, mem_forEach, mem_errRecord, mem_muStart]

theorem mem_bootSelfTest (j : BootJob) {s : State} (h_ok : MemOk s) :
    MemOk (bootSelfTest j s) := by
  unfold bootSelfTest; grind [MemOk, mem_setF, mem_bootFails, mem_fenceUnits, mem_bootMemory]

theorem mem_bootCalibrated {s : State} (h_ok : MemOk s) :
    MemOk (bootCalibrated s) := by
  unfold bootCalibrated; grind [MemOk, mem_bootFails, mem_bootSelfTest]

theorem mem_windowEnd (n : Nat) {s : State} (h_ok : MemOk s) :
    MemOk (windowEnd n s) := by
  unfold windowEnd; grind [MemOk, mem_setRegion, mem_endCal, mem_regionRuns]

theorem mem_execCalibrationWindowEnd {s : State} (h_ok : MemOk s) :
    ∀ st, execCalibrationWindowEnd s = .next st → MemOk st := by
  intro st ht; unfold execCalibrationWindowEnd at ht; grind [MemOk, mem_forEach, mem_bootCalibrated, mem_windowEnd]

theorem mem_execCalibrationTimeout (n : RegionNo) {s : State} (h_ok : MemOk s) :
    ∀ st, execCalibrationTimeout n s = .next st → MemOk st := by
  intro st ht; unfold execCalibrationTimeout at ht; grind [MemOk, mem_endCal, mem_regionRuns, mem_bootCalibrated]

theorem mem_bootZeroing {s : State} (h_ok : MemOk s) :
    MemOk (bootZeroing s) := by
  unfold bootZeroing; grind [MemOk, mem_setF]

theorem mem_execMuTrainingDone (u : MemUnit) (r : MuTraining) (repairs : List MuRepair) {s : State} (h_ok : MemOk s) :
    ∀ st, execMuTrainingDone u r repairs s = .next st → MemOk st := by
  intro st ht; unfold execMuTrainingDone at ht; grind [MemOk, mem_muTrained, mem_bootZeroing]

theorem mem_execMuZeroingDone (u : MemUnit) {s : State} (h_ok : MemOk s) :
    ∀ st, execMuZeroingDone u s = .next st → MemOk st := by
  intro st ht; unfold execMuZeroingDone at ht; grind [MemOk, mem_muZeroed]

theorem mem_execBootReady {s : State} (h_ok : MemOk s) :
    ∀ st, execBootReady s = .next st → MemOk st := by
  intro st ht; unfold execBootReady at ht; grind [MemOk, mem_setF, mem_driveShutters]

theorem mem_execPorNAssert {s : State} (h_ok : MemOk s) :
    ∀ st, execPorNAssert s = .next st → MemOk st := by
  intro st ht; unfold execPorNAssert at ht; grind [MemOk, mem_fullReset]

theorem mem_execPorNDeassert (env : BootEnv) {s : State} (h_ok : MemOk s) :
    ∀ st, execPorNDeassert env s = .next st → MemOk st := by
  intro st ht; unfold execPorNDeassert at ht; grind [MemOk, mem_startBoot]

theorem mem_execPerstNAssert {s : State} (h_ok : MemOk s) :
    ∀ st, execPerstNAssert s = .next st → MemOk st := by
  intro st ht; unfold execPerstNAssert at ht; grind [MemOk, mem_fullReset]

theorem mem_execPerstNDeassert (env : BootEnv) {s : State} (h_ok : MemOk s) :
    ∀ st, execPerstNDeassert env s = .next st → MemOk st := by
  intro st ht; unfold execPerstNDeassert at ht; grind [MemOk, mem_startBoot]

theorem mem_warmReset (env : BootEnv) {s : State} (h_ok : MemOk s) :
    MemOk (warmReset env s) := by
  unfold warmReset; grind [MemOk, mem_setF, mem_fullReset, mem_startBoot]

theorem mem_execWarmReset (env : BootEnv) {s : State} (h_ok : MemOk s) :
    ∀ st, execWarmReset env s = .next st → MemOk st := by
  intro st ht; unfold execWarmReset at ht; grind [MemOk, mem_setF, mem_hostWrite, mem_warmReset]

theorem mem_execFatalThermalResetStart (env : BootEnv) {s : State} (h_ok : MemOk s) :
    ∀ st, execFatalThermalResetStart env s = .next st → MemOk st := by
  intro st ht; unfold execFatalThermalResetStart at ht; grind [MemOk, mem_fullReset, mem_startBoot, mem_warmReset]

theorem mem_execLifeCycleRowProgrammed (programmed : Bool) (env : BootEnv) {s : State} (h_ok : MemOk s) :
    ∀ st, execLifeCycleRowProgrammed programmed env s = .next st → MemOk st := by
  intro st ht; unfold execLifeCycleRowProgrammed at ht; grind [MemOk, mem_setF, mem_rowValid, mem_rowFailed, mem_fullReset, mem_startBoot]

theorem mem_execRunmodeWrite (mode : Nat) {s : State} (h_ok : MemOk s) :
    ∀ st, execRunmodeWrite mode s = .next st → MemOk st := by
  intro st ht; unfold execRunmodeWrite at ht; grind [MemOk, mem_setF, mem_regAccessError, mem_hostWrite]

theorem mem_execErrheadWrite (slot : Nat) {s : State} (h_ok : MemOk s) :
    ∀ st, execErrheadWrite slot s = .next st → MemOk st := by
  intro st ht; unfold execErrheadWrite at ht; grind [MemOk, mem_setF, mem_hostWrite]

theorem mem_execAlertNPulseEnd {s : State} (h_ok : MemOk s) :
    ∀ st, execAlertNPulseEnd s = .next st → MemOk st := by
  intro st ht; unfold execAlertNPulseEnd at ht; grind [MemOk]

end Sys2Proof.Machine
end

