-- ==== Sys2Proof/Laws/MemHostIf.lean ====
section
/-! SUPPORT. No operation of Machine/HostIf.lean breaks the canonical form of the memory. -/

namespace Sys2Proof.Machine

set_option Elab.async false

theorem mem_cxlUp (wide : Bool) (rate : Nat) {s : State} (h_ok : MemOk s) :
    MemOk (cxlUp wide rate s) := by
  unfold cxlUp; grind [MemOk, mem_setF]

theorem mem_execCxlLinkTrainingDone (r : CxlTraining) {s : State} (h_ok : MemOk s) :
    ∀ st, execCxlLinkTrainingDone r s = .next st → MemOk st := by
  intro st ht; unfold execCxlLinkTrainingDone at ht; grind [MemOk, mem_errRecord, mem_cxlUp]

theorem mem_execCxlLinkDown {s : State} (h_ok : MemOk s) :
    ∀ st, execCxlLinkDown s = .next st → MemOk st := by
  intro st ht; unfold execCxlLinkDown at ht; grind [MemOk, mem_cxlDown]

theorem mem_sendHeld {s : State} (h_ok : MemOk s) :
    MemOk (sendHeld s) := by
  unfold sendHeld; grind [MemOk, mem_forEach, mem_emit]

theorem mem_writeLate (q : Nat) {s : State} (h_ok : MemOk s) :
    MemOk (writeLate q s) := by
  unfold writeLate; grind [MemOk, mem_forEach, mem_setQaux, mem_offerRecord, mem_recount]

theorem mem_setPower (d3hot : Bool) {s : State} (h_ok : MemOk s) :
    MemOk (setPower d3hot s) := by
  unfold setPower; grind [MemOk, mem_forEach, mem_writeLate, mem_sendHeld]

theorem mem_maskVector (v : Nat) (mask : Bool) {s : State} (h_ok : MemOk s) :
    MemOk (maskVector v mask s) := by
  unfold maskVector; grind [MemOk]

theorem mem_execMsixUnmask (v : Nat) {s : State} (h_ok : MemOk s) :
    ∀ st, execMsixUnmask v s = .next st → MemOk st := by
  intro st ht; unfold execMsixUnmask at ht; grind [MemOk, mem_hostWrite, mem_sendHeld, mem_maskVector]

theorem mem_configServe (r : ConfigReq) {s : State} (h_ok : MemOk s) :
    MemOk (configServe r s) := by
  unfold configServe; grind [MemOk, mem_emit, mem_sendHeld, mem_maskVector, mem_setPower]

theorem mem_execConfigRequest (r : ConfigReq) {s : State} (h_ok : MemOk s) :
    ∀ st, execConfigRequest r s = .next st → MemOk st := by
  intro st ht; unfold execConfigRequest at ht; grind [MemOk, mem_emit, mem_configServe]

theorem mem_doeServe (kind : Nat) (f : State → List Byte × State) {s : State} (h_f : ∀ x0, MemOk x0 → MemOk (f x0).2) (h_ok : MemOk s) :
    MemOk (doeServe kind f s) := by
  unfold doeServe; grind [MemOk, mem_emit]

theorem mem_doeObject (kind : Nat) (bytes : Nat) (f : State → List Byte × State) {s : State} (h_f : ∀ x0, MemOk x0 → MemOk (f x0).2) (h_ok : MemOk s) :
    MemOk (doeObject kind bytes f s) := by
  unfold doeObject; grind [MemOk, mem_doeServe]

theorem mem_execDoeDiscovery (index : Nat) (bytes : Nat) {s : State} (h_ok : MemOk s) :
    ∀ st, execDoeDiscovery index bytes s = .next st → MemOk st := by
  intro st ht; unfold execDoeDiscovery at ht; grind [MemOk, mem_doeObject]

theorem mem_execCdatTableAccess (bytes : Nat) {s : State} (h_ok : MemOk s) :
    ∀ st, execCdatTableAccess bytes s = .next st → MemOk st := by
  intro st ht; unfold execCdatTableAccess at ht; grind [MemOk, mem_doeObject]

theorem mem_execDoeAbort {s : State} (h_ok : MemOk s) :
    ∀ st, execDoeAbort s = .next st → MemOk st := by
  intro st ht; unfold execDoeAbort at ht; grind [MemOk]

theorem mem_spdm (tag : Nat) (content : State → List Byte × State) {s : State} (h_content : ∀ x0, MemOk x0 → MemOk (content x0).2) (h_ok : MemOk s) :
    ∀ st, spdm tag content s = .next st → MemOk st := by
  intro st ht; unfold spdm at ht; grind [MemOk, mem_doeServe]

theorem mem_execGetVersion {s : State} (h_ok : MemOk s) :
    ∀ st, execGetVersion s = .next st → MemOk st := by
  intro st ht; unfold execGetVersion at ht; grind [MemOk, mem_spdm]

theorem mem_execGetCapabilities {s : State} (h_ok : MemOk s) :
    ∀ st, execGetCapabilities s = .next st → MemOk st := by
  intro st ht; unfold execGetCapabilities at ht; grind [MemOk, mem_spdm]

theorem mem_execNegotiateAlgorithms {s : State} (h_ok : MemOk s) :
    ∀ st, execNegotiateAlgorithms s = .next st → MemOk st := by
  intro st ht; unfold execNegotiateAlgorithms at ht; grind [MemOk, mem_spdm]

theorem mem_execGetDigests {s : State} (h_ok : MemOk s) :
    ∀ st, execGetDigests s = .next st → MemOk st := by
  intro st ht; unfold execGetDigests at ht; grind [MemOk, mem_spdm]

theorem mem_spdmError (code : Nat) (datum : Nat) {s : State} (h_ok : MemOk s) :
    ∀ st, spdmError code datum s = .next st → MemOk st := by
  intro st ht; unfold spdmError at ht; grind [MemOk, mem_spdm]

theorem mem_execGetCertificate (slot : Nat) (offset : Nat) (len : Nat) {s : State} (h_ok : MemOk s) :
    ∀ st, execGetCertificate slot offset len s = .next st → MemOk st := by
  intro st ht; unfold execGetCertificate at ht; grind [MemOk, mem_spdm, mem_spdmError]

theorem mem_signedResponse (tag : Nat) (request : List Byte) (content : List Byte) {s : State} (h_ok : MemOk s) :
    MemOk (signedResponse tag request content s).2 := by
  unfold signedResponse; grind [MemOk, mem_drawRandom]

theorem mem_execChallengeSpdm (slot : Nat) (nonce : List Byte) {s : State} (h_ok : MemOk s) :
    ∀ st, execChallengeSpdm slot nonce s = .next st → MemOk st := by
  intro st ht; unfold execChallengeSpdm at ht; grind [MemOk, mem_spdm, mem_spdmError, mem_signedResponse]

theorem mem_execGetMeasurements (index : Nat) (signed : Bool) (nonce : List Byte) {s : State} (h_ok : MemOk s) :
    ∀ st, execGetMeasurements index signed nonce s = .next st → MemOk st := by
  intro st ht; unfold execGetMeasurements at ht; grind [MemOk, mem_spdm, mem_spdmError, mem_signedResponse]

theorem mem_execSpdmUnsupportedRequest (code : Nat) {s : State} (h_ok : MemOk s) :
    ∀ st, execSpdmUnsupportedRequest code s = .next st → MemOk st := by
  intro st ht; unfold execSpdmUnsupportedRequest at ht; grind [MemOk, mem_spdmError]

theorem mem_endColl (j : CollJob) {s : State} (h_ok : MemOk s) :
    MemOk (endColl j s) := by
  unfold endColl; grind [MemOk, mem_dropShadows, mem_dropColl, mem_commitColl]

theorem mem_flrDiscard {s : State} (h_ok : MemOk s) :
    MemOk (flrDiscard s) := by
  unfold flrDiscard; grind [MemOk, mem_forEach, mem_discardFlights, mem_endColl]

theorem mem_execFlr {s : State} (h_ok : MemOk s) :
    ∀ st, execFlr s = .next st → MemOk st := by
  intro st ht; unfold execFlr at ht; grind [MemOk, mem_forEach, mem_dropTransfers, mem_resetRegion, mem_flrDiscard]

theorem mem_disableQueue (q : Nat) {s : State} (h_ok : MemOk s) :
    MemOk (disableQueue q s) := by
  unfold disableQueue; grind [MemOk, mem_setF, mem_resetFields]

theorem mem_execFlrQuiesced {s : State} (h_ok : MemOk s) :
    ∀ st, execFlrQuiesced s = .next st → MemOk st := by
  intro st ht; unfold execFlrQuiesced at ht; grind [MemOk, mem_satF, mem_forEach, mem_disableQueue]

end Sys2Proof.Machine
end

