-- ==== Sys2Proof/Laws/MemRegisters.lean ====
section
/-! SUPPORT. No operation of Machine/Registers.lean breaks the canonical form of the memory. -/

namespace Sys2Proof.Machine

set_option Elab.async false

theorem mem_readWord (a : Nat) {s : State} (h_ok : MemOk s) :
    MemOk (readWord a s).2 := by
  unfold readWord; grind [MemOk, mem_drawFree]

theorem mem_hostRead (a : Nat) (f : State → Nat × State) {s : State} (h_f : ∀ x0, MemOk x0 → MemOk (f x0).2) (h_ok : MemOk s) :
    MemOk (hostRead a f s) := by
  unfold hostRead; grind [MemOk, mem_emit]

theorem mem_readDouble (a : Nat) {s : State} (h_ok : MemOk s) :
    MemOk (readDouble a s).2 := by
  unfold readDouble; grind [MemOk, mem_readWord]

theorem mem_doorbellRead (a size : Nat) {s : State} (h_ok : MemOk s) :
    MemOk (doorbellRead a size s) := by
  unfold doorbellRead; grind [MemOk, mem_emit]

theorem mem_execRegisterReadLowerHalf (r : RegRead) {s : State} (h_ok : MemOk s) :
    ∀ st, execRegisterReadLowerHalf r s = .next st → MemOk st := by
  intro st ht; unfold execRegisterReadLowerHalf at ht; grind [MemOk, mem_readWord, mem_hostRead, mem_readDouble, mem_doorbellRead]

theorem mem_writeField (r : RegAt) (v : Nat) (f : FieldRow) {s : State} (h_ok : MemOk s) :
    MemOk (writeField r v f s) := by
  unfold writeField; grind [MemOk, mem_setF, mem_orF]

theorem mem_writeFields (r : RegAt) (v : Nat) {s : State} (h_ok : MemOk s) :
    MemOk (writeFields r v s) := by
  unfold writeFields; grind [MemOk, mem_forEach, mem_regAccessError, mem_writeField]

theorem mem_writeOwnDouble (r : RegAt) (v : Nat) {s : State} (h_ok : MemOk s) :
    MemOk (writeOwnDouble r v s) := by
  unfold writeOwnDouble; grind [MemOk, mem_peep, mem_mapWrite, mem_checkWrite, mem_fenceWrite, mem_ringWrite, mem_traceConfigWrite]

theorem mem_writeReg (r : RegAt) (v : Nat) {s : State} (h_ok : MemOk s) :
    MemOk (writeReg r v s) := by
  unfold writeReg; grind [MemOk, mem_setF, mem_regAccessError, mem_writeFields, mem_writeOwnDouble]

theorem mem_writeMsixCell (d : Nat) (v : Nat) {s : State} (h_ok : MemOk s) :
    MemOk (writeMsixCell d v s) := by
  unfold writeMsixCell; grind [MemOk, mem_sendHeld, mem_maskVector]

theorem mem_writeMsix (a : Nat) (v : Nat) {s : State} (h_ok : MemOk s) :
    MemOk (writeMsix a v s) := by
  unfold writeMsix; grind [MemOk, mem_writeMsixCell]

theorem mem_writeWord (a : Nat) (v : Nat) {s : State} (h_ok : MemOk s) :
    MemOk (writeWord a v s) := by
  unfold writeWord; grind [MemOk, mem_writeReg, mem_writeMsix]

theorem mem_writeDouble (a : Nat) (v : Nat) {s : State} (h_ok : MemOk s) :
    MemOk (writeDouble a v s) := by
  unfold writeDouble; grind [MemOk, mem_writeReg, mem_writeWord]

theorem mem_execRegisterAccessInvalid (isWrite : Bool) (off : Nat) (size : Nat) (value : Nat) {s : State} (h_ok : MemOk s) :
    ∀ st, execRegisterAccessInvalid isWrite off size value s = .next st → MemOk st := by
  intro st ht; unfold execRegisterAccessInvalid at ht; grind [MemOk, mem_regAccessError, mem_hostWrite, mem_hostRead]

theorem mem_execRegisterWrite (off : Nat) (size : Nat) (value : Nat) {s : State} (h_ok : MemOk s) :
    ∀ st, execRegisterWrite off size value s = .next st → MemOk st := by
  intro st ht; unfold execRegisterWrite at ht; grind [MemOk, mem_regAccessError, mem_hostWrite, mem_writeWord, mem_writeDouble]

end Sys2Proof.Machine
end

