-- ==== Sys2Proof/Laws/State.lean ====
section
/-! SUPPORT. The laws of the state's named updates: which field each changes, and that it changes no other. -/

namespace Sys2Proof.Machine

set_option Elab.async false

/-! Each named update changes one field of the state. -/

@[simp] theorem setF_held (f : Fld) (v : Nat) (s : State) : (setF f v s).held = s.held := rfl
@[simp] theorem setF_latch (f : Fld) (v : Nat) (s : State) : (setF f v s).latch = s.latch := rfl
@[simp] theorem setF_mem (f : Fld) (v : Nat) (s : State) : (setF f v s).mem = s.mem := rfl
@[simp] theorem setF_poison (f : Fld) (v : Nat) (s : State) : (setF f v s).poison = s.poison := rfl
@[simp] theorem setF_panes (f : Fld) (v : Nat) (s : State) : (setF f v s).panes = s.panes := rfl
@[simp] theorem setF_homes (f : Fld) (v : Nat) (s : State) : (setF f v s).homes = s.homes := rfl
@[simp] theorem setF_used (f : Fld) (v : Nat) (s : State) : (setF f v s).used = s.used := rfl
@[simp] theorem setF_image (f : Fld) (v : Nat) (s : State) : (setF f v s).image = s.image := rfl
@[simp] theorem setF_regions (f : Fld) (v : Nat) (s : State) : (setF f v s).regions = s.regions := rfl
@[simp] theorem setF_hinges (f : Fld) (v : Nat) (s : State) : (setF f v s).hinges = s.hinges := rfl
@[simp] theorem setF_errlog (f : Fld) (v : Nat) (s : State) : (setF f v s).errlog = s.errlog := rfl
@[simp] theorem setF_errSeq (f : Fld) (v : Nat) (s : State) : (setF f v s).errSeq = s.errSeq := rfl
@[simp] theorem setF_cfg (f : Fld) (v : Nat) (s : State) : (setF f v s).cfg = s.cfg := rfl
@[simp] theorem setF_inflight (f : Fld) (v : Nat) (s : State) : (setF f v s).inflight = s.inflight := rfl
@[simp] theorem setF_qaux (f : Fld) (v : Nat) (s : State) : (setF f v s).qaux = s.qaux := rfl
@[simp] theorem setF_progs (f : Fld) (v : Nat) (s : State) : (setF f v s).progs = s.progs := rfl
@[simp] theorem setF_fifo (f : Fld) (v : Nat) (s : State) : (setF f v s).fifo = s.fifo := rfl
@[simp] theorem setF_traceSeq (f : Fld) (v : Nat) (s : State) : (setF f v s).traceSeq = s.traceSeq := rfl
@[simp] theorem setF_traceLost (f : Fld) (v : Nat) (s : State) : (setF f v s).traceLost = s.traceLost := rfl
@[simp] theorem setF_tracePhase (f : Fld) (v : Nat) (s : State) : (setF f v s).tracePhase = s.tracePhase := rfl
@[simp] theorem setF_traceSince (f : Fld) (v : Nat) (s : State) : (setF f v s).traceSince = s.traceSince := rfl
@[simp] theorem setF_flrActive (f : Fld) (v : Nat) (s : State) : (setF f v s).flrActive = s.flrActive := rfl
@[simp] theorem setF_arbStamp (f : Fld) (v : Nat) (s : State) : (setF f v s).arbStamp = s.arbStamp := rfl
@[simp] theorem setF_shutWait (f : Fld) (v : Nat) (s : State) : (setF f v s).shutWait = s.shutWait := rfl
@[simp] theorem setF_stages (f : Fld) (v : Nat) (s : State) : (setF f v s).stages = s.stages := rfl
@[simp] theorem setF_copies (f : Fld) (v : Nat) (s : State) : (setF f v s).copies = s.copies := rfl
@[simp] theorem setF_mx (f : Fld) (v : Nat) (s : State) : (setF f v s).mx = s.mx := rfl
@[simp] theorem setF_vx (f : Fld) (v : Nat) (s : State) : (setF f v s).vx = s.vx := rfl
@[simp] theorem setF_transom (f : Fld) (v : Nat) (s : State) : (setF f v s).transom = s.transom := rfl
@[simp] theorem setF_encs (f : Fld) (v : Nat) (s : State) : (setF f v s).encs = s.encs := rfl
@[simp] theorem setF_placed (f : Fld) (v : Nat) (s : State) : (setF f v s).placed = s.placed := rfl
@[simp] theorem setF_covers (f : Fld) (v : Nat) (s : State) : (setF f v s).covers = s.covers := rfl
@[simp] theorem setF_winRuns (f : Fld) (v : Nat) (s : State) : (setF f v s).winRuns = s.winRuns := rfl
@[simp] theorem setF_mu (f : Fld) (v : Nat) (s : State) : (setF f v s).mu = s.mu := rfl
@[simp] theorem setF_repairLog (f : Fld) (v : Nat) (s : State) : (setF f v s).repairLog = s.repairLog := rfl
@[simp] theorem setF_repairIds (f : Fld) (v : Nat) (s : State) : (setF f v s).repairIds = s.repairIds := rfl
@[simp] theorem setF_carts (f : Fld) (v : Nat) (s : State) : (setF f v s).carts = s.carts := rfl
@[simp] theorem setF_lcPending (f : Fld) (v : Nat) (s : State) : (setF f v s).lcPending = s.lcPending := rfl
@[simp] theorem setF_measLog (f : Fld) (v : Nat) (s : State) : (setF f v s).measLog = s.measLog := rfl
@[simp] theorem setF_cdatSeq (f : Fld) (v : Nat) (s : State) : (setF f v s).cdatSeq = s.cdatSeq := rfl
@[simp] theorem setF_doeError (f : Fld) (v : Nat) (s : State) : (setF f v s).doeError = s.doeError := rfl
@[simp] theorem setF_nd (f : Fld) (v : Nat) (s : State) : (setF f v s).nd = s.nd := rfl
@[simp] theorem setF_ctxs (f : Fld) (v : Nat) (s : State) : (setF f v s).ctxs = s.ctxs := rfl
@[simp] theorem setF_cjobs (f : Fld) (v : Nat) (s : State) : (setF f v s).cjobs = s.cjobs := rfl
@[simp] theorem setF_ckFenced (f : Fld) (v : Nat) (s : State) : (setF f v s).ckFenced = s.ckFenced := rfl
@[simp] theorem setF_ckStamp (f : Fld) (v : Nat) (s : State) : (setF f v s).ckStamp = s.ckStamp := rfl
@[simp] theorem setF_ckOwner (f : Fld) (v : Nat) (s : State) : (setF f v s).ckOwner = s.ckOwner := rfl
@[simp] theorem setF_dws (f : Fld) (v : Nat) (s : State) : (setF f v s).dws = s.dws := rfl
@[simp] theorem setF_conns (f : Fld) (v : Nat) (s : State) : (setF f v s).conns = s.conns := rfl
@[simp] theorem setF_colls (f : Fld) (v : Nat) (s : State) : (setF f v s).colls = s.colls := rfl
@[simp] theorem setF_collHeld (f : Fld) (v : Nat) (s : State) : (setF f v s).collHeld = s.collHeld := rfl
@[simp] theorem setF_hist (f : Fld) (v : Nat) (s : State) : (setF f v s).hist = s.hist := rfl
@[simp] theorem setF_layerStats (f : Fld) (v : Nat) (s : State) : (setF f v s).layerStats = s.layerStats := rfl
@[simp] theorem setF_sweepRecs (f : Fld) (v : Nat) (s : State) : (setF f v s).sweepRecs = s.sweepRecs := rfl
@[simp] theorem setF_journal (f : Fld) (v : Nat) (s : State) : (setF f v s).journal = s.journal := rfl
@[simp] theorem setF_sweeps (f : Fld) (v : Nat) (s : State) : (setF f v s).sweeps = s.sweeps := rfl
@[simp] theorem setF_phLive (f : Fld) (v : Nat) (s : State) : (setF f v s).phLive = s.phLive := rfl
@[simp] theorem setF_phStamp (f : Fld) (v : Nat) (s : State) : (setF f v s).phStamp = s.phStamp := rfl
@[simp] theorem setF_load (f : Fld) (v : Nat) (s : State) : (setF f v s).load = s.load := rfl
@[simp] theorem setF_porAsserted (f : Fld) (v : Nat) (s : State) : (setF f v s).porAsserted = s.porAsserted := rfl
@[simp] theorem setF_perstAsserted (f : Fld) (v : Nat) (s : State) : (setF f v s).perstAsserted = s.perstAsserted := rfl
@[simp] theorem setF_alertPulse (f : Fld) (v : Nat) (s : State) : (setF f v s).alertPulse = s.alertPulse := rfl
@[simp] theorem setF_thermtrip (f : Fld) (v : Nat) (s : State) : (setF f v s).thermtrip = s.thermtrip := rfl
@[simp] theorem setF_awaited (f : Fld) (v : Nat) (s : State) : (setF f v s).awaited = s.awaited := rfl
@[simp] theorem setF_boot (f : Fld) (v : Nat) (s : State) : (setF f v s).boot = s.boot := rfl
@[simp] theorem setF_subsystem (f : Fld) (v : Nat) (s : State) : (setF f v s).subsystem = s.subsystem := rfl
@[simp] theorem setF_out (f : Fld) (v : Nat) (s : State) : (setF f v s).out = s.out := rfl
@[simp] theorem setF_nextId (f : Fld) (v : Nat) (s : State) : (setF f v s).nextId = s.nextId := rfl
@[simp] theorem setF_freeIdx (f : Fld) (v : Nat) (s : State) : (setF f v s).freeIdx = s.freeIdx := rfl

@[simp] theorem emit_flds (o : Out) (s : State) : (emit o s).flds = s.flds := rfl
@[simp] theorem emit_held (o : Out) (s : State) : (emit o s).held = s.held := rfl
@[simp] theorem emit_latch (o : Out) (s : State) : (emit o s).latch = s.latch := rfl
@[simp] theorem emit_mem (o : Out) (s : State) : (emit o s).mem = s.mem := rfl
@[simp] theorem emit_poison (o : Out) (s : State) : (emit o s).poison = s.poison := rfl
@[simp] theorem emit_panes (o : Out) (s : State) : (emit o s).panes = s.panes := rfl
@[simp] theorem emit_homes (o : Out) (s : State) : (emit o s).homes = s.homes := rfl
@[simp] theorem emit_used (o : Out) (s : State) : (emit o s).used = s.used := rfl
@[simp] theorem emit_image (o : Out) (s : State) : (emit o s).image = s.image := rfl
@[simp] theorem emit_regions (o : Out) (s : State) : (emit o s).regions = s.regions := rfl
@[simp] theorem emit_hinges (o : Out) (s : State) : (emit o s).hinges = s.hinges := rfl
@[simp] theorem emit_errlog (o : Out) (s : State) : (emit o s).errlog = s.errlog := rfl
@[simp] theorem emit_errSeq (o : Out) (s : State) : (emit o s).errSeq = s.errSeq := rfl
@[simp] theorem emit_cfg (o : Out) (s : State) : (emit o s).cfg = s.cfg := rfl
@[simp] theorem emit_inflight (o : Out) (s : State) : (emit o s).inflight = s.inflight := rfl
@[simp] theorem emit_qaux (o : Out) (s : State) : (emit o s).qaux = s.qaux := rfl
@[simp] theorem emit_progs (o : Out) (s : State) : (emit o s).progs = s.progs := rfl
@[simp] theorem emit_fifo (o : Out) (s : State) : (emit o s).fifo = s.fifo := rfl
@[simp] theorem emit_traceSeq (o : Out) (s : State) : (emit o s).traceSeq = s.traceSeq := rfl
@[simp] theorem emit_traceLost (o : Out) (s : State) : (emit o s).traceLost = s.traceLost := rfl
@[simp] theorem emit_tracePhase (o : Out) (s : State) : (emit o s).tracePhase = s.tracePhase := rfl
@[simp] theorem emit_traceSince (o : Out) (s : State) : (emit o s).traceSince = s.traceSince := rfl
@[simp] theorem emit_flrActive (o : Out) (s : State) : (emit o s).flrActive = s.flrActive := rfl
@[simp] theorem emit_arbStamp (o : Out) (s : State) : (emit o s).arbStamp = s.arbStamp := rfl
@[simp] theorem emit_shutWait (o : Out) (s : State) : (emit o s).shutWait = s.shutWait := rfl
@[simp] theorem emit_stages (o : Out) (s : State) : (emit o s).stages = s.stages := rfl
@[simp] theorem emit_copies (o : Out) (s : State) : (emit o s).copies = s.copies := rfl
@[simp] theorem emit_mx (o : Out) (s : State) : (emit o s).mx = s.mx := rfl
@[simp] theorem emit_vx (o : Out) (s : State) : (emit o s).vx = s.vx := rfl
@[simp] theorem emit_transom (o : Out) (s : State) : (emit o s).transom = s.transom := rfl
@[simp] theorem emit_encs (o : Out) (s : State) : (emit o s).encs = s.encs := rfl
@[simp] theorem emit_placed (o : Out) (s : State) : (emit o s).placed = s.placed := rfl
@[simp] theorem emit_covers (o : Out) (s : State) : (emit o s).covers = s.covers := rfl
@[simp] theorem emit_winRuns (o : Out) (s : State) : (emit o s).winRuns = s.winRuns := rfl
@[simp] theorem emit_mu (o : Out) (s : State) : (emit o s).mu = s.mu := rfl
@[simp] theorem emit_repairLog (o : Out) (s : State) : (emit o s).repairLog = s.repairLog := rfl
@[simp] theorem emit_repairIds (o : Out) (s : State) : (emit o s).repairIds = s.repairIds := rfl
@[simp] theorem emit_carts (o : Out) (s : State) : (emit o s).carts = s.carts := rfl
@[simp] theorem emit_lcPending (o : Out) (s : State) : (emit o s).lcPending = s.lcPending := rfl
@[simp] theorem emit_measLog (o : Out) (s : State) : (emit o s).measLog = s.measLog := rfl
@[simp] theorem emit_cdatSeq (o : Out) (s : State) : (emit o s).cdatSeq = s.cdatSeq := rfl
@[simp] theorem emit_doeError (o : Out) (s : State) : (emit o s).doeError = s.doeError := rfl
@[simp] theorem emit_nd (o : Out) (s : State) : (emit o s).nd = s.nd := rfl
@[simp] theorem emit_ctxs (o : Out) (s : State) : (emit o s).ctxs = s.ctxs := rfl
@[simp] theorem emit_cjobs (o : Out) (s : State) : (emit o s).cjobs = s.cjobs := rfl
@[simp] theorem emit_ckFenced (o : Out) (s : State) : (emit o s).ckFenced = s.ckFenced := rfl
@[simp] theorem emit_ckStamp (o : Out) (s : State) : (emit o s).ckStamp = s.ckStamp := rfl
@[simp] theorem emit_ckOwner (o : Out) (s : State) : (emit o s).ckOwner = s.ckOwner := rfl
@[simp] theorem emit_dws (o : Out) (s : State) : (emit o s).dws = s.dws := rfl
@[simp] theorem emit_conns (o : Out) (s : State) : (emit o s).conns = s.conns := rfl
@[simp] theorem emit_colls (o : Out) (s : State) : (emit o s).colls = s.colls := rfl
@[simp] theorem emit_collHeld (o : Out) (s : State) : (emit o s).collHeld = s.collHeld := rfl
@[simp] theorem emit_hist (o : Out) (s : State) : (emit o s).hist = s.hist := rfl
@[simp] theorem emit_layerStats (o : Out) (s : State) : (emit o s).layerStats = s.layerStats := rfl
@[simp] theorem emit_sweepRecs (o : Out) (s : State) : (emit o s).sweepRecs = s.sweepRecs := rfl
@[simp] theorem emit_journal (o : Out) (s : State) : (emit o s).journal = s.journal := rfl
@[simp] theorem emit_sweeps (o : Out) (s : State) : (emit o s).sweeps = s.sweeps := rfl
@[simp] theorem emit_phLive (o : Out) (s : State) : (emit o s).phLive = s.phLive := rfl
@[simp] theorem emit_phStamp (o : Out) (s : State) : (emit o s).phStamp = s.phStamp := rfl
@[simp] theorem emit_load (o : Out) (s : State) : (emit o s).load = s.load := rfl
@[simp] theorem emit_porAsserted (o : Out) (s : State) : (emit o s).porAsserted = s.porAsserted := rfl
@[simp] theorem emit_perstAsserted (o : Out) (s : State) : (emit o s).perstAsserted = s.perstAsserted := rfl
@[simp] theorem emit_alertPulse (o : Out) (s : State) : (emit o s).alertPulse = s.alertPulse := rfl
@[simp] theorem emit_thermtrip (o : Out) (s : State) : (emit o s).thermtrip = s.thermtrip := rfl
@[simp] theorem emit_awaited (o : Out) (s : State) : (emit o s).awaited = s.awaited := rfl
@[simp] theorem emit_boot (o : Out) (s : State) : (emit o s).boot = s.boot := rfl
@[simp] theorem emit_subsystem (o : Out) (s : State) : (emit o s).subsystem = s.subsystem := rfl
@[simp] theorem emit_nextId (o : Out) (s : State) : (emit o s).nextId = s.nextId := rfl
@[simp] theorem emit_freeIdx (o : Out) (s : State) : (emit o s).freeIdx = s.freeIdx := rfl

@[simp] theorem setRegion_flds (n : Nat) (f : Region → Region) (s : State) : (setRegion n f s).flds = s.flds := rfl
@[simp] theorem setRegion_held (n : Nat) (f : Region → Region) (s : State) : (setRegion n f s).held = s.held := rfl
@[simp] theorem setRegion_latch (n : Nat) (f : Region → Region) (s : State) : (setRegion n f s).latch = s.latch := rfl
@[simp] theorem setRegion_mem (n : Nat) (f : Region → Region) (s : State) : (setRegion n f s).mem = s.mem := rfl
@[simp] theorem setRegion_poison (n : Nat) (f : Region → Region) (s : State) : (setRegion n f s).poison = s.poison := rfl
@[simp] theorem setRegion_panes (n : Nat) (f : Region → Region) (s : State) : (setRegion n f s).panes = s.panes := rfl
@[simp] theorem setRegion_homes (n : Nat) (f : Region → Region) (s : State) : (setRegion n f s).homes = s.homes := rfl
@[simp] theorem setRegion_used (n : Nat) (f : Region → Region) (s : State) : (setRegion n f s).used = s.used := rfl
@[simp] theorem setRegion_image (n : Nat) (f : Region → Region) (s : State) : (setRegion n f s).image = s.image := rfl
@[simp] theorem setRegion_hinges (n : Nat) (f : Region → Region) (s : State) : (setRegion n f s).hinges = s.hinges := rfl
@[simp] theorem setRegion_errlog (n : Nat) (f : Region → Region) (s : State) : (setRegion n f s).errlog = s.errlog := rfl
@[simp] theorem setRegion_errSeq (n : Nat) (f : Region → Region) (s : State) : (setRegion n f s).errSeq = s.errSeq := rfl
@[simp] theorem setRegion_cfg (n : Nat) (f : Region → Region) (s : State) : (setRegion n f s).cfg = s.cfg := rfl
@[simp] theorem setRegion_inflight (n : Nat) (f : Region → Region) (s : State) : (setRegion n f s).inflight = s.inflight := rfl
@[simp] theorem setRegion_qaux (n : Nat) (f : Region → Region) (s : State) : (setRegion n f s).qaux = s.qaux := rfl
@[simp] theorem setRegion_progs (n : Nat) (f : Region → Region) (s : State) : (setRegion n f s).progs = s.progs := rfl
@[simp] theorem setRegion_fifo (n : Nat) (f : Region → Region) (s : State) : (setRegion n f s).fifo = s.fifo := rfl
@[simp] theorem setRegion_traceSeq (n : Nat) (f : Region → Region) (s : State) : (setRegion n f s).traceSeq = s.traceSeq := rfl
@[simp] theorem setRegion_traceLost (n : Nat) (f : Region → Region) (s : State) : (setRegion n f s).traceLost = s.traceLost := rfl
@[simp] theorem setRegion_tracePhase (n : Nat) (f : Region → Region) (s : State) : (setRegion n f s).tracePhase = s.tracePhase := rfl
@[simp] theorem setRegion_traceSince (n : Nat) (f : Region → Region) (s : State) : (setRegion n f s).traceSince = s.traceSince := rfl
@[simp] theorem setRegion_flrActive (n : Nat) (f : Region → Region) (s : State) : (setRegion n f s).flrActive = s.flrActive := rfl
@[simp] theorem setRegion_arbStamp (n : Nat) (f : Region → Region) (s : State) : (setRegion n f s).arbStamp = s.arbStamp := rfl
@[simp] theorem setRegion_shutWait (n : Nat) (f : Region → Region) (s : State) : (setRegion n f s).shutWait = s.shutWait := rfl
@[simp] theorem setRegion_stages (n : Nat) (f : Region → Region) (s : State) : (setRegion n f s).stages = s.stages := rfl
@[simp] theorem setRegion_copies (n : Nat) (f : Region → Region) (s : State) : (setRegion n f s).copies = s.copies := rfl
@[simp] theorem setRegion_mx (n : Nat) (f : Region → Region) (s : State) : (setRegion n f s).mx = s.mx := rfl
@[simp] theorem setRegion_vx (n : Nat) (f : Region → Region) (s : State) : (setRegion n f s).vx = s.vx := rfl
@[simp] theorem setRegion_transom (n : Nat) (f : Region → Region) (s : State) : (setRegion n f s).transom = s.transom := rfl
@[simp] theorem setRegion_encs (n : Nat) (f : Region → Region) (s : State) : (setRegion n f s).encs = s.encs := rfl
@[simp] theorem setRegion_placed (n : Nat) (f : Region → Region) (s : State) : (setRegion n f s).placed = s.placed := rfl
@[simp] theorem setRegion_covers (n : Nat) (f : Region → Region) (s : State) : (setRegion n f s).covers = s.covers := rfl
@[simp] theorem setRegion_winRuns (n : Nat) (f : Region → Region) (s : State) : (setRegion n f s).winRuns = s.winRuns := rfl
@[simp] theorem setRegion_mu (n : Nat) (f : Region → Region) (s : State) : (setRegion n f s).mu = s.mu := rfl
@[simp] theorem setRegion_repairLog (n : Nat) (f : Region → Region) (s : State) : (setRegion n f s).repairLog = s.repairLog := rfl
@[simp] theorem setRegion_repairIds (n : Nat) (f : Region → Region) (s : State) : (setRegion n f s).repairIds = s.repairIds := rfl
@[simp] theorem setRegion_carts (n : Nat) (f : Region → Region) (s : State) : (setRegion n f s).carts = s.carts := rfl
@[simp] theorem setRegion_lcPending (n : Nat) (f : Region → Region) (s : State) : (setRegion n f s).lcPending = s.lcPending := rfl
@[simp] theorem setRegion_measLog (n : Nat) (f : Region → Region) (s : State) : (setRegion n f s).measLog = s.measLog := rfl
@[simp] theorem setRegion_cdatSeq (n : Nat) (f : Region → Region) (s : State) : (setRegion n f s).cdatSeq = s.cdatSeq := rfl
@[simp] theorem setRegion_doeError (n : Nat) (f : Region → Region) (s : State) : (setRegion n f s).doeError = s.doeError := rfl
@[simp] theorem setRegion_nd (n : Nat) (f : Region → Region) (s : State) : (setRegion n f s).nd = s.nd := rfl
@[simp] theorem setRegion_ctxs (n : Nat) (f : Region → Region) (s : State) : (setRegion n f s).ctxs = s.ctxs := rfl
@[simp] theorem setRegion_cjobs (n : Nat) (f : Region → Region) (s : State) : (setRegion n f s).cjobs = s.cjobs := rfl
@[simp] theorem setRegion_ckFenced (n : Nat) (f : Region → Region) (s : State) : (setRegion n f s).ckFenced = s.ckFenced := rfl
@[simp] theorem setRegion_ckStamp (n : Nat) (f : Region → Region) (s : State) : (setRegion n f s).ckStamp = s.ckStamp := rfl
@[simp] theorem setRegion_ckOwner (n : Nat) (f : Region → Region) (s : State) : (setRegion n f s).ckOwner = s.ckOwner := rfl
@[simp] theorem setRegion_dws (n : Nat) (f : Region → Region) (s : State) : (setRegion n f s).dws = s.dws := rfl
@[simp] theorem setRegion_conns (n : Nat) (f : Region → Region) (s : State) : (setRegion n f s).conns = s.conns := rfl
@[simp] theorem setRegion_colls (n : Nat) (f : Region → Region) (s : State) : (setRegion n f s).colls = s.colls := rfl
@[simp] theorem setRegion_collHeld (n : Nat) (f : Region → Region) (s : State) : (setRegion n f s).collHeld = s.collHeld := rfl
@[simp] theorem setRegion_hist (n : Nat) (f : Region → Region) (s : State) : (setRegion n f s).hist = s.hist := rfl
@[simp] theorem setRegion_layerStats (n : Nat) (f : Region → Region) (s : State) : (setRegion n f s).layerStats = s.layerStats := rfl
@[simp] theorem setRegion_sweepRecs (n : Nat) (f : Region → Region) (s : State) : (setRegion n f s).sweepRecs = s.sweepRecs := rfl
@[simp] theorem setRegion_journal (n : Nat) (f : Region → Region) (s : State) : (setRegion n f s).journal = s.journal := rfl
@[simp] theorem setRegion_sweeps (n : Nat) (f : Region → Region) (s : State) : (setRegion n f s).sweeps = s.sweeps := rfl
@[simp] theorem setRegion_phLive (n : Nat) (f : Region → Region) (s : State) : (setRegion n f s).phLive = s.phLive := rfl
@[simp] theorem setRegion_phStamp (n : Nat) (f : Region → Region) (s : State) : (setRegion n f s).phStamp = s.phStamp := rfl
@[simp] theorem setRegion_load (n : Nat) (f : Region → Region) (s : State) : (setRegion n f s).load = s.load := rfl
@[simp] theorem setRegion_porAsserted (n : Nat) (f : Region → Region) (s : State) : (setRegion n f s).porAsserted = s.porAsserted := rfl
@[simp] theorem setRegion_perstAsserted (n : Nat) (f : Region → Region) (s : State) : (setRegion n f s).perstAsserted = s.perstAsserted := rfl
@[simp] theorem setRegion_alertPulse (n : Nat) (f : Region → Region) (s : State) : (setRegion n f s).alertPulse = s.alertPulse := rfl
@[simp] theorem setRegion_thermtrip (n : Nat) (f : Region → Region) (s : State) : (setRegion n f s).thermtrip = s.thermtrip := rfl
@[simp] theorem setRegion_awaited (n : Nat) (f : Region → Region) (s : State) : (setRegion n f s).awaited = s.awaited := rfl
@[simp] theorem setRegion_boot (n : Nat) (f : Region → Region) (s : State) : (setRegion n f s).boot = s.boot := rfl
@[simp] theorem setRegion_subsystem (n : Nat) (f : Region → Region) (s : State) : (setRegion n f s).subsystem = s.subsystem := rfl
@[simp] theorem setRegion_out (n : Nat) (f : Region → Region) (s : State) : (setRegion n f s).out = s.out := rfl
@[simp] theorem setRegion_nextId (n : Nat) (f : Region → Region) (s : State) : (setRegion n f s).nextId = s.nextId := rfl
@[simp] theorem setRegion_freeIdx (n : Nat) (f : Region → Region) (s : State) : (setRegion n f s).freeIdx = s.freeIdx := rfl

@[simp] theorem setHinge_flds (a b : Nat) (f : Hinge → Hinge) (s : State) : (setHinge a b f s).flds = s.flds := rfl
@[simp] theorem setHinge_held (a b : Nat) (f : Hinge → Hinge) (s : State) : (setHinge a b f s).held = s.held := rfl
@[simp] theorem setHinge_latch (a b : Nat) (f : Hinge → Hinge) (s : State) : (setHinge a b f s).latch = s.latch := rfl
@[simp] theorem setHinge_mem (a b : Nat) (f : Hinge → Hinge) (s : State) : (setHinge a b f s).mem = s.mem := rfl
@[simp] theorem setHinge_poison (a b : Nat) (f : Hinge → Hinge) (s : State) : (setHinge a b f s).poison = s.poison := rfl
@[simp] theorem setHinge_panes (a b : Nat) (f : Hinge → Hinge) (s : State) : (setHinge a b f s).panes = s.panes := rfl
@[simp] theorem setHinge_homes (a b : Nat) (f : Hinge → Hinge) (s : State) : (setHinge a b f s).homes = s.homes := rfl
@[simp] theorem setHinge_used (a b : Nat) (f : Hinge → Hinge) (s : State) : (setHinge a b f s).used = s.used := rfl
@[simp] theorem setHinge_image (a b : Nat) (f : Hinge → Hinge) (s : State) : (setHinge a b f s).image = s.image := rfl
@[simp] theorem setHinge_regions (a b : Nat) (f : Hinge → Hinge) (s : State) : (setHinge a b f s).regions = s.regions := rfl
@[simp] theorem setHinge_errlog (a b : Nat) (f : Hinge → Hinge) (s : State) : (setHinge a b f s).errlog = s.errlog := rfl
@[simp] theorem setHinge_errSeq (a b : Nat) (f : Hinge → Hinge) (s : State) : (setHinge a b f s).errSeq = s.errSeq := rfl
@[simp] theorem setHinge_cfg (a b : Nat) (f : Hinge → Hinge) (s : State) : (setHinge a b f s).cfg = s.cfg := rfl
@[simp] theorem setHinge_inflight (a b : Nat) (f : Hinge → Hinge) (s : State) : (setHinge a b f s).inflight = s.inflight := rfl
@[simp] theorem setHinge_qaux (a b : Nat) (f : Hinge → Hinge) (s : State) : (setHinge a b f s).qaux = s.qaux := rfl
@[simp] theorem setHinge_progs (a b : Nat) (f : Hinge → Hinge) (s : State) : (setHinge a b f s).progs = s.progs := rfl
@[simp] theorem setHinge_fifo (a b : Nat) (f : Hinge → Hinge) (s : State) : (setHinge a b f s).fifo = s.fifo := rfl
@[simp] theorem setHinge_traceSeq (a b : Nat) (f : Hinge → Hinge) (s : State) : (setHinge a b f s).traceSeq = s.traceSeq := rfl
@[simp] theorem setHinge_traceLost (a b : Nat) (f : Hinge → Hinge) (s : State) : (setHinge a b f s).traceLost = s.traceLost := rfl
@[simp] theorem setHinge_tracePhase (a b : Nat) (f : Hinge → Hinge) (s : State) : (setHinge a b f s).tracePhase = s.tracePhase := rfl
@[simp] theorem setHinge_traceSince (a b : Nat) (f : Hinge → Hinge) (s : State) : (setHinge a b f s).traceSince = s.traceSince := rfl
@[simp] theorem setHinge_flrActive (a b : Nat) (f : Hinge → Hinge) (s : State) : (setHinge a b f s).flrActive = s.flrActive := rfl
@[simp] theorem setHinge_arbStamp (a b : Nat) (f : Hinge → Hinge) (s : State) : (setHinge a b f s).arbStamp = s.arbStamp := rfl
@[simp] theorem setHinge_shutWait (a b : Nat) (f : Hinge → Hinge) (s : State) : (setHinge a b f s).shutWait = s.shutWait := rfl
@[simp] theorem setHinge_stages (a b : Nat) (f : Hinge → Hinge) (s : State) : (setHinge a b f s).stages = s.stages := rfl
@[simp] theorem setHinge_copies (a b : Nat) (f : Hinge → Hinge) (s : State) : (setHinge a b f s).copies = s.copies := rfl
@[simp] theorem setHinge_mx (a b : Nat) (f : Hinge → Hinge) (s : State) : (setHinge a b f s).mx = s.mx := rfl
@[simp] theorem setHinge_vx (a b : Nat) (f : Hinge → Hinge) (s : State) : (setHinge a b f s).vx = s.vx := rfl
@[simp] theorem setHinge_transom (a b : Nat) (f : Hinge → Hinge) (s : State) : (setHinge a b f s).transom = s.transom := rfl
@[simp] theorem setHinge_encs (a b : Nat) (f : Hinge → Hinge) (s : State) : (setHinge a b f s).encs = s.encs := rfl
@[simp] theorem setHinge_placed (a b : Nat) (f : Hinge → Hinge) (s : State) : (setHinge a b f s).placed = s.placed := rfl
@[simp] theorem setHinge_covers (a b : Nat) (f : Hinge → Hinge) (s : State) : (setHinge a b f s).covers = s.covers := rfl
@[simp] theorem setHinge_winRuns (a b : Nat) (f : Hinge → Hinge) (s : State) : (setHinge a b f s).winRuns = s.winRuns := rfl
@[simp] theorem setHinge_mu (a b : Nat) (f : Hinge → Hinge) (s : State) : (setHinge a b f s).mu = s.mu := rfl
@[simp] theorem setHinge_repairLog (a b : Nat) (f : Hinge → Hinge) (s : State) : (setHinge a b f s).repairLog = s.repairLog := rfl
@[simp] theorem setHinge_repairIds (a b : Nat) (f : Hinge → Hinge) (s : State) : (setHinge a b f s).repairIds = s.repairIds := rfl
@[simp] theorem setHinge_carts (a b : Nat) (f : Hinge → Hinge) (s : State) : (setHinge a b f s).carts = s.carts := rfl
@[simp] theorem setHinge_lcPending (a b : Nat) (f : Hinge → Hinge) (s : State) : (setHinge a b f s).lcPending = s.lcPending := rfl
@[simp] theorem setHinge_measLog (a b : Nat) (f : Hinge → Hinge) (s : State) : (setHinge a b f s).measLog = s.measLog := rfl
@[simp] theorem setHinge_cdatSeq (a b : Nat) (f : Hinge → Hinge) (s : State) : (setHinge a b f s).cdatSeq = s.cdatSeq := rfl
@[simp] theorem setHinge_doeError (a b : Nat) (f : Hinge → Hinge) (s : State) : (setHinge a b f s).doeError = s.doeError := rfl
@[simp] theorem setHinge_nd (a b : Nat) (f : Hinge → Hinge) (s : State) : (setHinge a b f s).nd = s.nd := rfl
@[simp] theorem setHinge_ctxs (a b : Nat) (f : Hinge → Hinge) (s : State) : (setHinge a b f s).ctxs = s.ctxs := rfl
@[simp] theorem setHinge_cjobs (a b : Nat) (f : Hinge → Hinge) (s : State) : (setHinge a b f s).cjobs = s.cjobs := rfl
@[simp] theorem setHinge_ckFenced (a b : Nat) (f : Hinge → Hinge) (s : State) : (setHinge a b f s).ckFenced = s.ckFenced := rfl
@[simp] theorem setHinge_ckStamp (a b : Nat) (f : Hinge → Hinge) (s : State) : (setHinge a b f s).ckStamp = s.ckStamp := rfl
@[simp] theorem setHinge_ckOwner (a b : Nat) (f : Hinge → Hinge) (s : State) : (setHinge a b f s).ckOwner = s.ckOwner := rfl
@[simp] theorem setHinge_dws (a b : Nat) (f : Hinge → Hinge) (s : State) : (setHinge a b f s).dws = s.dws := rfl
@[simp] theorem setHinge_conns (a b : Nat) (f : Hinge → Hinge) (s : State) : (setHinge a b f s).conns = s.conns := rfl
@[simp] theorem setHinge_colls (a b : Nat) (f : Hinge → Hinge) (s : State) : (setHinge a b f s).colls = s.colls := rfl
@[simp] theorem setHinge_collHeld (a b : Nat) (f : Hinge → Hinge) (s : State) : (setHinge a b f s).collHeld = s.collHeld := rfl
@[simp] theorem setHinge_hist (a b : Nat) (f : Hinge → Hinge) (s : State) : (setHinge a b f s).hist = s.hist := rfl
@[simp] theorem setHinge_layerStats (a b : Nat) (f : Hinge → Hinge) (s : State) : (setHinge a b f s).layerStats = s.layerStats := rfl
@[simp] theorem setHinge_sweepRecs (a b : Nat) (f : Hinge → Hinge) (s : State) : (setHinge a b f s).sweepRecs = s.sweepRecs := rfl
@[simp] theorem setHinge_journal (a b : Nat) (f : Hinge → Hinge) (s : State) : (setHinge a b f s).journal = s.journal := rfl
@[simp] theorem setHinge_sweeps (a b : Nat) (f : Hinge → Hinge) (s : State) : (setHinge a b f s).sweeps = s.sweeps := rfl
@[simp] theorem setHinge_phLive (a b : Nat) (f : Hinge → Hinge) (s : State) : (setHinge a b f s).phLive = s.phLive := rfl
@[simp] theorem setHinge_phStamp (a b : Nat) (f : Hinge → Hinge) (s : State) : (setHinge a b f s).phStamp = s.phStamp := rfl
@[simp] theorem setHinge_load (a b : Nat) (f : Hinge → Hinge) (s : State) : (setHinge a b f s).load = s.load := rfl
@[simp] theorem setHinge_porAsserted (a b : Nat) (f : Hinge → Hinge) (s : State) : (setHinge a b f s).porAsserted = s.porAsserted := rfl
@[simp] theorem setHinge_perstAsserted (a b : Nat) (f : Hinge → Hinge) (s : State) : (setHinge a b f s).perstAsserted = s.perstAsserted := rfl
@[simp] theorem setHinge_alertPulse (a b : Nat) (f : Hinge → Hinge) (s : State) : (setHinge a b f s).alertPulse = s.alertPulse := rfl
@[simp] theorem setHinge_thermtrip (a b : Nat) (f : Hinge → Hinge) (s : State) : (setHinge a b f s).thermtrip = s.thermtrip := rfl
@[simp] theorem setHinge_awaited (a b : Nat) (f : Hinge → Hinge) (s : State) : (setHinge a b f s).awaited = s.awaited := rfl
@[simp] theorem setHinge_boot (a b : Nat) (f : Hinge → Hinge) (s : State) : (setHinge a b f s).boot = s.boot := rfl
@[simp] theorem setHinge_subsystem (a b : Nat) (f : Hinge → Hinge) (s : State) : (setHinge a b f s).subsystem = s.subsystem := rfl
@[simp] theorem setHinge_out (a b : Nat) (f : Hinge → Hinge) (s : State) : (setHinge a b f s).out = s.out := rfl
@[simp] theorem setHinge_nextId (a b : Nat) (f : Hinge → Hinge) (s : State) : (setHinge a b f s).nextId = s.nextId := rfl
@[simp] theorem setHinge_freeIdx (a b : Nat) (f : Hinge → Hinge) (s : State) : (setHinge a b f s).freeIdx = s.freeIdx := rfl

@[simp] theorem setQaux_flds (q : Nat) (f : QAux → QAux) (s : State) : (setQaux q f s).flds = s.flds := rfl
@[simp] theorem setQaux_held (q : Nat) (f : QAux → QAux) (s : State) : (setQaux q f s).held = s.held := rfl
@[simp] theorem setQaux_latch (q : Nat) (f : QAux → QAux) (s : State) : (setQaux q f s).latch = s.latch := rfl
@[simp] theorem setQaux_mem (q : Nat) (f : QAux → QAux) (s : State) : (setQaux q f s).mem = s.mem := rfl
@[simp] theorem setQaux_poison (q : Nat) (f : QAux → QAux) (s : State) : (setQaux q f s).poison = s.poison := rfl
@[simp] theorem setQaux_panes (q : Nat) (f : QAux → QAux) (s : State) : (setQaux q f s).panes = s.panes := rfl
@[simp] theorem setQaux_homes (q : Nat) (f : QAux → QAux) (s : State) : (setQaux q f s).homes = s.homes := rfl
@[simp] theorem setQaux_used (q : Nat) (f : QAux → QAux) (s : State) : (setQaux q f s).used = s.used := rfl
@[simp] theorem setQaux_image (q : Nat) (f : QAux → QAux) (s : State) : (setQaux q f s).image = s.image := rfl
@[simp] theorem setQaux_regions (q : Nat) (f : QAux → QAux) (s : State) : (setQaux q f s).regions = s.regions := rfl
@[simp] theorem setQaux_hinges (q : Nat) (f : QAux → QAux) (s : State) : (setQaux q f s).hinges = s.hinges := rfl
@[simp] theorem setQaux_errlog (q : Nat) (f : QAux → QAux) (s : State) : (setQaux q f s).errlog = s.errlog := rfl
@[simp] theorem setQaux_errSeq (q : Nat) (f : QAux → QAux) (s : State) : (setQaux q f s).errSeq = s.errSeq := rfl
@[simp] theorem setQaux_cfg (q : Nat) (f : QAux → QAux) (s : State) : (setQaux q f s).cfg = s.cfg := rfl
@[simp] theorem setQaux_inflight (q : Nat) (f : QAux → QAux) (s : State) : (setQaux q f s).inflight = s.inflight := rfl
@[simp] theorem setQaux_progs (q : Nat) (f : QAux → QAux) (s : State) : (setQaux q f s).progs = s.progs := rfl
@[simp] theorem setQaux_fifo (q : Nat) (f : QAux → QAux) (s : State) : (setQaux q f s).fifo = s.fifo := rfl
@[simp] theorem setQaux_traceSeq (q : Nat) (f : QAux → QAux) (s : State) : (setQaux q f s).traceSeq = s.traceSeq := rfl
@[simp] theorem setQaux_traceLost (q : Nat) (f : QAux → QAux) (s : State) : (setQaux q f s).traceLost = s.traceLost := rfl
@[simp] theorem setQaux_tracePhase (q : Nat) (f : QAux → QAux) (s : State) : (setQaux q f s).tracePhase = s.tracePhase := rfl
@[simp] theorem setQaux_traceSince (q : Nat) (f : QAux → QAux) (s : State) : (setQaux q f s).traceSince = s.traceSince := rfl
@[simp] theorem setQaux_flrActive (q : Nat) (f : QAux → QAux) (s : State) : (setQaux q f s).flrActive = s.flrActive := rfl
@[simp] theorem setQaux_arbStamp (q : Nat) (f : QAux → QAux) (s : State) : (setQaux q f s).arbStamp = s.arbStamp := rfl
@[simp] theorem setQaux_shutWait (q : Nat) (f : QAux → QAux) (s : State) : (setQaux q f s).shutWait = s.shutWait := rfl
@[simp] theorem setQaux_stages (q : Nat) (f : QAux → QAux) (s : State) : (setQaux q f s).stages = s.stages := rfl
@[simp] theorem setQaux_copies (q : Nat) (f : QAux → QAux) (s : State) : (setQaux q f s).copies = s.copies := rfl
@[simp] theorem setQaux_mx (q : Nat) (f : QAux → QAux) (s : State) : (setQaux q f s).mx = s.mx := rfl
@[simp] theorem setQaux_vx (q : Nat) (f : QAux → QAux) (s : State) : (setQaux q f s).vx = s.vx := rfl
@[simp] theorem setQaux_transom (q : Nat) (f : QAux → QAux) (s : State) : (setQaux q f s).transom = s.transom := rfl
@[simp] theorem setQaux_encs (q : Nat) (f : QAux → QAux) (s : State) : (setQaux q f s).encs = s.encs := rfl
@[simp] theorem setQaux_placed (q : Nat) (f : QAux → QAux) (s : State) : (setQaux q f s).placed = s.placed := rfl
@[simp] theorem setQaux_covers (q : Nat) (f : QAux → QAux) (s : State) : (setQaux q f s).covers = s.covers := rfl
@[simp] theorem setQaux_winRuns (q : Nat) (f : QAux → QAux) (s : State) : (setQaux q f s).winRuns = s.winRuns := rfl
@[simp] theorem setQaux_mu (q : Nat) (f : QAux → QAux) (s : State) : (setQaux q f s).mu = s.mu := rfl
@[simp] theorem setQaux_repairLog (q : Nat) (f : QAux → QAux) (s : State) : (setQaux q f s).repairLog = s.repairLog := rfl
@[simp] theorem setQaux_repairIds (q : Nat) (f : QAux → QAux) (s : State) : (setQaux q f s).repairIds = s.repairIds := rfl
@[simp] theorem setQaux_carts (q : Nat) (f : QAux → QAux) (s : State) : (setQaux q f s).carts = s.carts := rfl
@[simp] theorem setQaux_lcPending (q : Nat) (f : QAux → QAux) (s : State) : (setQaux q f s).lcPending = s.lcPending := rfl
@[simp] theorem setQaux_measLog (q : Nat) (f : QAux → QAux) (s : State) : (setQaux q f s).measLog = s.measLog := rfl
@[simp] theorem setQaux_cdatSeq (q : Nat) (f : QAux → QAux) (s : State) : (setQaux q f s).cdatSeq = s.cdatSeq := rfl
@[simp] theorem setQaux_doeError (q : Nat) (f : QAux → QAux) (s : State) : (setQaux q f s).doeError = s.doeError := rfl
@[simp] theorem setQaux_nd (q : Nat) (f : QAux → QAux) (s : State) : (setQaux q f s).nd = s.nd := rfl
@[simp] theorem setQaux_ctxs (q : Nat) (f : QAux → QAux) (s : State) : (setQaux q f s).ctxs = s.ctxs := rfl
@[simp] theorem setQaux_cjobs (q : Nat) (f : QAux → QAux) (s : State) : (setQaux q f s).cjobs = s.cjobs := rfl
@[simp] theorem setQaux_ckFenced (q : Nat) (f : QAux → QAux) (s : State) : (setQaux q f s).ckFenced = s.ckFenced := rfl
@[simp] theorem setQaux_ckStamp (q : Nat) (f : QAux → QAux) (s : State) : (setQaux q f s).ckStamp = s.ckStamp := rfl
@[simp] theorem setQaux_ckOwner (q : Nat) (f : QAux → QAux) (s : State) : (setQaux q f s).ckOwner = s.ckOwner := rfl
@[simp] theorem setQaux_dws (q : Nat) (f : QAux → QAux) (s : State) : (setQaux q f s).dws = s.dws := rfl
@[simp] theorem setQaux_conns (q : Nat) (f : QAux → QAux) (s : State) : (setQaux q f s).conns = s.conns := rfl
@[simp] theorem setQaux_colls (q : Nat) (f : QAux → QAux) (s : State) : (setQaux q f s).colls = s.colls := rfl
@[simp] theorem setQaux_collHeld (q : Nat) (f : QAux → QAux) (s : State) : (setQaux q f s).collHeld = s.collHeld := rfl
@[simp] theorem setQaux_hist (q : Nat) (f : QAux → QAux) (s : State) : (setQaux q f s).hist = s.hist := rfl
@[simp] theorem setQaux_layerStats (q : Nat) (f : QAux → QAux) (s : State) : (setQaux q f s).layerStats = s.layerStats := rfl
@[simp] theorem setQaux_sweepRecs (q : Nat) (f : QAux → QAux) (s : State) : (setQaux q f s).sweepRecs = s.sweepRecs := rfl
@[simp] theorem setQaux_journal (q : Nat) (f : QAux → QAux) (s : State) : (setQaux q f s).journal = s.journal := rfl
@[simp] theorem setQaux_sweeps (q : Nat) (f : QAux → QAux) (s : State) : (setQaux q f s).sweeps = s.sweeps := rfl
@[simp] theorem setQaux_phLive (q : Nat) (f : QAux → QAux) (s : State) : (setQaux q f s).phLive = s.phLive := rfl
@[simp] theorem setQaux_phStamp (q : Nat) (f : QAux → QAux) (s : State) : (setQaux q f s).phStamp = s.phStamp := rfl
@[simp] theorem setQaux_load (q : Nat) (f : QAux → QAux) (s : State) : (setQaux q f s).load = s.load := rfl
@[simp] theorem setQaux_porAsserted (q : Nat) (f : QAux → QAux) (s : State) : (setQaux q f s).porAsserted = s.porAsserted := rfl
@[simp] theorem setQaux_perstAsserted (q : Nat) (f : QAux → QAux) (s : State) : (setQaux q f s).perstAsserted = s.perstAsserted := rfl
@[simp] theorem setQaux_alertPulse (q : Nat) (f : QAux → QAux) (s : State) : (setQaux q f s).alertPulse = s.alertPulse := rfl
@[simp] theorem setQaux_thermtrip (q : Nat) (f : QAux → QAux) (s : State) : (setQaux q f s).thermtrip = s.thermtrip := rfl
@[simp] theorem setQaux_awaited (q : Nat) (f : QAux → QAux) (s : State) : (setQaux q f s).awaited = s.awaited := rfl
@[simp] theorem setQaux_boot (q : Nat) (f : QAux → QAux) (s : State) : (setQaux q f s).boot = s.boot := rfl
@[simp] theorem setQaux_subsystem (q : Nat) (f : QAux → QAux) (s : State) : (setQaux q f s).subsystem = s.subsystem := rfl
@[simp] theorem setQaux_out (q : Nat) (f : QAux → QAux) (s : State) : (setQaux q f s).out = s.out := rfl
@[simp] theorem setQaux_nextId (q : Nat) (f : QAux → QAux) (s : State) : (setQaux q f s).nextId = s.nextId := rfl
@[simp] theorem setQaux_freeIdx (q : Nat) (f : QAux → QAux) (s : State) : (setQaux q f s).freeIdx = s.freeIdx := rfl

@[simp] theorem setFlight_flds (i : Nat) (f : InFlight → InFlight) (s : State) : (setFlight i f s).flds = s.flds := rfl
@[simp] theorem setFlight_held (i : Nat) (f : InFlight → InFlight) (s : State) : (setFlight i f s).held = s.held := rfl
@[simp] theorem setFlight_latch (i : Nat) (f : InFlight → InFlight) (s : State) : (setFlight i f s).latch = s.latch := rfl
@[simp] theorem setFlight_mem (i : Nat) (f : InFlight → InFlight) (s : State) : (setFlight i f s).mem = s.mem := rfl
@[simp] theorem setFlight_poison (i : Nat) (f : InFlight → InFlight) (s : State) : (setFlight i f s).poison = s.poison := rfl
@[simp] theorem setFlight_panes (i : Nat) (f : InFlight → InFlight) (s : State) : (setFlight i f s).panes = s.panes := rfl
@[simp] theorem setFlight_homes (i : Nat) (f : InFlight → InFlight) (s : State) : (setFlight i f s).homes = s.homes := rfl
@[simp] theorem setFlight_used (i : Nat) (f : InFlight → InFlight) (s : State) : (setFlight i f s).used = s.used := rfl
@[simp] theorem setFlight_image (i : Nat) (f : InFlight → InFlight) (s : State) : (setFlight i f s).image = s.image := rfl
@[simp] theorem setFlight_regions (i : Nat) (f : InFlight → InFlight) (s : State) : (setFlight i f s).regions = s.regions := rfl
@[simp] theorem setFlight_hinges (i : Nat) (f : InFlight → InFlight) (s : State) : (setFlight i f s).hinges = s.hinges := rfl
@[simp] theorem setFlight_errlog (i : Nat) (f : InFlight → InFlight) (s : State) : (setFlight i f s).errlog = s.errlog := rfl
@[simp] theorem setFlight_errSeq (i : Nat) (f : InFlight → InFlight) (s : State) : (setFlight i f s).errSeq = s.errSeq := rfl
@[simp] theorem setFlight_cfg (i : Nat) (f : InFlight → InFlight) (s : State) : (setFlight i f s).cfg = s.cfg := rfl
@[simp] theorem setFlight_qaux (i : Nat) (f : InFlight → InFlight) (s : State) : (setFlight i f s).qaux = s.qaux := rfl
@[simp] theorem setFlight_progs (i : Nat) (f : InFlight → InFlight) (s : State) : (setFlight i f s).progs = s.progs := rfl
@[simp] theorem setFlight_fifo (i : Nat) (f : InFlight → InFlight) (s : State) : (setFlight i f s).fifo = s.fifo := rfl
@[simp] theorem setFlight_traceSeq (i : Nat) (f : InFlight → InFlight) (s : State) : (setFlight i f s).traceSeq = s.traceSeq := rfl
@[simp] theorem setFlight_traceLost (i : Nat) (f : InFlight → InFlight) (s : State) : (setFlight i f s).traceLost = s.traceLost := rfl
@[simp] theorem setFlight_tracePhase (i : Nat) (f : InFlight → InFlight) (s : State) : (setFlight i f s).tracePhase = s.tracePhase := rfl
@[simp] theorem setFlight_traceSince (i : Nat) (f : InFlight → InFlight) (s : State) : (setFlight i f s).traceSince = s.traceSince := rfl
@[simp] theorem setFlight_flrActive (i : Nat) (f : InFlight → InFlight) (s : State) : (setFlight i f s).flrActive = s.flrActive := rfl
@[simp] theorem setFlight_arbStamp (i : Nat) (f : InFlight → InFlight) (s : State) : (setFlight i f s).arbStamp = s.arbStamp := rfl
@[simp] theorem setFlight_shutWait (i : Nat) (f : InFlight → InFlight) (s : State) : (setFlight i f s).shutWait = s.shutWait := rfl
@[simp] theorem setFlight_stages (i : Nat) (f : InFlight → InFlight) (s : State) : (setFlight i f s).stages = s.stages := rfl
@[simp] theorem setFlight_copies (i : Nat) (f : InFlight → InFlight) (s : State) : (setFlight i f s).copies = s.copies := rfl
@[simp] theorem setFlight_mx (i : Nat) (f : InFlight → InFlight) (s : State) : (setFlight i f s).mx = s.mx := rfl
@[simp] theorem setFlight_vx (i : Nat) (f : InFlight → InFlight) (s : State) : (setFlight i f s).vx = s.vx := rfl
@[simp] theorem setFlight_transom (i : Nat) (f : InFlight → InFlight) (s : State) : (setFlight i f s).transom = s.transom := rfl
@[simp] theorem setFlight_encs (i : Nat) (f : InFlight → InFlight) (s : State) : (setFlight i f s).encs = s.encs := rfl
@[simp] theorem setFlight_placed (i : Nat) (f : InFlight → InFlight) (s : State) : (setFlight i f s).placed = s.placed := rfl
@[simp] theorem setFlight_covers (i : Nat) (f : InFlight → InFlight) (s : State) : (setFlight i f s).covers = s.covers := rfl
@[simp] theorem setFlight_winRuns (i : Nat) (f : InFlight → InFlight) (s : State) : (setFlight i f s).winRuns = s.winRuns := rfl
@[simp] theorem setFlight_mu (i : Nat) (f : InFlight → InFlight) (s : State) : (setFlight i f s).mu = s.mu := rfl
@[simp] theorem setFlight_repairLog (i : Nat) (f : InFlight → InFlight) (s : State) : (setFlight i f s).repairLog = s.repairLog := rfl
@[simp] theorem setFlight_repairIds (i : Nat) (f : InFlight → InFlight) (s : State) : (setFlight i f s).repairIds = s.repairIds := rfl
@[simp] theorem setFlight_carts (i : Nat) (f : InFlight → InFlight) (s : State) : (setFlight i f s).carts = s.carts := rfl
@[simp] theorem setFlight_lcPending (i : Nat) (f : InFlight → InFlight) (s : State) : (setFlight i f s).lcPending = s.lcPending := rfl
@[simp] theorem setFlight_measLog (i : Nat) (f : InFlight → InFlight) (s : State) : (setFlight i f s).measLog = s.measLog := rfl
@[simp] theorem setFlight_cdatSeq (i : Nat) (f : InFlight → InFlight) (s : State) : (setFlight i f s).cdatSeq = s.cdatSeq := rfl
@[simp] theorem setFlight_doeError (i : Nat) (f : InFlight → InFlight) (s : State) : (setFlight i f s).doeError = s.doeError := rfl
@[simp] theorem setFlight_nd (i : Nat) (f : InFlight → InFlight) (s : State) : (setFlight i f s).nd = s.nd := rfl
@[simp] theorem setFlight_ctxs (i : Nat) (f : InFlight → InFlight) (s : State) : (setFlight i f s).ctxs = s.ctxs := rfl
@[simp] theorem setFlight_cjobs (i : Nat) (f : InFlight → InFlight) (s : State) : (setFlight i f s).cjobs = s.cjobs := rfl
@[simp] theorem setFlight_ckFenced (i : Nat) (f : InFlight → InFlight) (s : State) : (setFlight i f s).ckFenced = s.ckFenced := rfl
@[simp] theorem setFlight_ckStamp (i : Nat) (f : InFlight → InFlight) (s : State) : (setFlight i f s).ckStamp = s.ckStamp := rfl
@[simp] theorem setFlight_ckOwner (i : Nat) (f : InFlight → InFlight) (s : State) : (setFlight i f s).ckOwner = s.ckOwner := rfl
@[simp] theorem setFlight_dws (i : Nat) (f : InFlight → InFlight) (s : State) : (setFlight i f s).dws = s.dws := rfl
@[simp] theorem setFlight_conns (i : Nat) (f : InFlight → InFlight) (s : State) : (setFlight i f s).conns = s.conns := rfl
@[simp] theorem setFlight_colls (i : Nat) (f : InFlight → InFlight) (s : State) : (setFlight i f s).colls = s.colls := rfl
@[simp] theorem setFlight_collHeld (i : Nat) (f : InFlight → InFlight) (s : State) : (setFlight i f s).collHeld = s.collHeld := rfl
@[simp] theorem setFlight_hist (i : Nat) (f : InFlight → InFlight) (s : State) : (setFlight i f s).hist = s.hist := rfl
@[simp] theorem setFlight_layerStats (i : Nat) (f : InFlight → InFlight) (s : State) : (setFlight i f s).layerStats = s.layerStats := rfl
@[simp] theorem setFlight_sweepRecs (i : Nat) (f : InFlight → InFlight) (s : State) : (setFlight i f s).sweepRecs = s.sweepRecs := rfl
@[simp] theorem setFlight_journal (i : Nat) (f : InFlight → InFlight) (s : State) : (setFlight i f s).journal = s.journal := rfl
@[simp] theorem setFlight_sweeps (i : Nat) (f : InFlight → InFlight) (s : State) : (setFlight i f s).sweeps = s.sweeps := rfl
@[simp] theorem setFlight_phLive (i : Nat) (f : InFlight → InFlight) (s : State) : (setFlight i f s).phLive = s.phLive := rfl
@[simp] theorem setFlight_phStamp (i : Nat) (f : InFlight → InFlight) (s : State) : (setFlight i f s).phStamp = s.phStamp := rfl
@[simp] theorem setFlight_load (i : Nat) (f : InFlight → InFlight) (s : State) : (setFlight i f s).load = s.load := rfl
@[simp] theorem setFlight_porAsserted (i : Nat) (f : InFlight → InFlight) (s : State) : (setFlight i f s).porAsserted = s.porAsserted := rfl
@[simp] theorem setFlight_perstAsserted (i : Nat) (f : InFlight → InFlight) (s : State) : (setFlight i f s).perstAsserted = s.perstAsserted := rfl
@[simp] theorem setFlight_alertPulse (i : Nat) (f : InFlight → InFlight) (s : State) : (setFlight i f s).alertPulse = s.alertPulse := rfl
@[simp] theorem setFlight_thermtrip (i : Nat) (f : InFlight → InFlight) (s : State) : (setFlight i f s).thermtrip = s.thermtrip := rfl
@[simp] theorem setFlight_awaited (i : Nat) (f : InFlight → InFlight) (s : State) : (setFlight i f s).awaited = s.awaited := rfl
@[simp] theorem setFlight_boot (i : Nat) (f : InFlight → InFlight) (s : State) : (setFlight i f s).boot = s.boot := rfl
@[simp] theorem setFlight_subsystem (i : Nat) (f : InFlight → InFlight) (s : State) : (setFlight i f s).subsystem = s.subsystem := rfl
@[simp] theorem setFlight_out (i : Nat) (f : InFlight → InFlight) (s : State) : (setFlight i f s).out = s.out := rfl
@[simp] theorem setFlight_nextId (i : Nat) (f : InFlight → InFlight) (s : State) : (setFlight i f s).nextId = s.nextId := rfl
@[simp] theorem setFlight_freeIdx (i : Nat) (f : InFlight → InFlight) (s : State) : (setFlight i f s).freeIdx = s.freeIdx := rfl

@[simp] theorem setPart_flds (i p : Nat) (f : Part → Part) (s : State) : (setPart i p f s).flds = s.flds := rfl
@[simp] theorem setPart_held (i p : Nat) (f : Part → Part) (s : State) : (setPart i p f s).held = s.held := rfl
@[simp] theorem setPart_latch (i p : Nat) (f : Part → Part) (s : State) : (setPart i p f s).latch = s.latch := rfl
@[simp] theorem setPart_mem (i p : Nat) (f : Part → Part) (s : State) : (setPart i p f s).mem = s.mem := rfl
@[simp] theorem setPart_poison (i p : Nat) (f : Part → Part) (s : State) : (setPart i p f s).poison = s.poison := rfl
@[simp] theorem setPart_panes (i p : Nat) (f : Part → Part) (s : State) : (setPart i p f s).panes = s.panes := rfl
@[simp] theorem setPart_homes (i p : Nat) (f : Part → Part) (s : State) : (setPart i p f s).homes = s.homes := rfl
@[simp] theorem setPart_used (i p : Nat) (f : Part → Part) (s : State) : (setPart i p f s).used = s.used := rfl
@[simp] theorem setPart_image (i p : Nat) (f : Part → Part) (s : State) : (setPart i p f s).image = s.image := rfl
@[simp] theorem setPart_regions (i p : Nat) (f : Part → Part) (s : State) : (setPart i p f s).regions = s.regions := rfl
@[simp] theorem setPart_hinges (i p : Nat) (f : Part → Part) (s : State) : (setPart i p f s).hinges = s.hinges := rfl
@[simp] theorem setPart_errlog (i p : Nat) (f : Part → Part) (s : State) : (setPart i p f s).errlog = s.errlog := rfl
@[simp] theorem setPart_errSeq (i p : Nat) (f : Part → Part) (s : State) : (setPart i p f s).errSeq = s.errSeq := rfl
@[simp] theorem setPart_cfg (i p : Nat) (f : Part → Part) (s : State) : (setPart i p f s).cfg = s.cfg := rfl
@[simp] theorem setPart_qaux (i p : Nat) (f : Part → Part) (s : State) : (setPart i p f s).qaux = s.qaux := rfl
@[simp] theorem setPart_progs (i p : Nat) (f : Part → Part) (s : State) : (setPart i p f s).progs = s.progs := rfl
@[simp] theorem setPart_fifo (i p : Nat) (f : Part → Part) (s : State) : (setPart i p f s).fifo = s.fifo := rfl
@[simp] theorem setPart_traceSeq (i p : Nat) (f : Part → Part) (s : State) : (setPart i p f s).traceSeq = s.traceSeq := rfl
@[simp] theorem setPart_traceLost (i p : Nat) (f : Part → Part) (s : State) : (setPart i p f s).traceLost = s.traceLost := rfl
@[simp] theorem setPart_tracePhase (i p : Nat) (f : Part → Part) (s : State) : (setPart i p f s).tracePhase = s.tracePhase := rfl
@[simp] theorem setPart_traceSince (i p : Nat) (f : Part → Part) (s : State) : (setPart i p f s).traceSince = s.traceSince := rfl
@[simp] theorem setPart_flrActive (i p : Nat) (f : Part → Part) (s : State) : (setPart i p f s).flrActive = s.flrActive := rfl
@[simp] theorem setPart_arbStamp (i p : Nat) (f : Part → Part) (s : State) : (setPart i p f s).arbStamp = s.arbStamp := rfl
@[simp] theorem setPart_shutWait (i p : Nat) (f : Part → Part) (s : State) : (setPart i p f s).shutWait = s.shutWait := rfl
@[simp] theorem setPart_stages (i p : Nat) (f : Part → Part) (s : State) : (setPart i p f s).stages = s.stages := rfl
@[simp] theorem setPart_copies (i p : Nat) (f : Part → Part) (s : State) : (setPart i p f s).copies = s.copies := rfl
@[simp] theorem setPart_mx (i p : Nat) (f : Part → Part) (s : State) : (setPart i p f s).mx = s.mx := rfl
@[simp] theorem setPart_vx (i p : Nat) (f : Part → Part) (s : State) : (setPart i p f s).vx = s.vx := rfl
@[simp] theorem setPart_transom (i p : Nat) (f : Part → Part) (s : State) : (setPart i p f s).transom = s.transom := rfl
@[simp] theorem setPart_encs (i p : Nat) (f : Part → Part) (s : State) : (setPart i p f s).encs = s.encs := rfl
@[simp] theorem setPart_placed (i p : Nat) (f : Part → Part) (s : State) : (setPart i p f s).placed = s.placed := rfl
@[simp] theorem setPart_covers (i p : Nat) (f : Part → Part) (s : State) : (setPart i p f s).covers = s.covers := rfl
@[simp] theorem setPart_winRuns (i p : Nat) (f : Part → Part) (s : State) : (setPart i p f s).winRuns = s.winRuns := rfl
@[simp] theorem setPart_mu (i p : Nat) (f : Part → Part) (s : State) : (setPart i p f s).mu = s.mu := rfl
@[simp] theorem setPart_repairLog (i p : Nat) (f : Part → Part) (s : State) : (setPart i p f s).repairLog = s.repairLog := rfl
@[simp] theorem setPart_repairIds (i p : Nat) (f : Part → Part) (s : State) : (setPart i p f s).repairIds = s.repairIds := rfl
@[simp] theorem setPart_carts (i p : Nat) (f : Part → Part) (s : State) : (setPart i p f s).carts = s.carts := rfl
@[simp] theorem setPart_lcPending (i p : Nat) (f : Part → Part) (s : State) : (setPart i p f s).lcPending = s.lcPending := rfl
@[simp] theorem setPart_measLog (i p : Nat) (f : Part → Part) (s : State) : (setPart i p f s).measLog = s.measLog := rfl
@[simp] theorem setPart_cdatSeq (i p : Nat) (f : Part → Part) (s : State) : (setPart i p f s).cdatSeq = s.cdatSeq := rfl
@[simp] theorem setPart_doeError (i p : Nat) (f : Part → Part) (s : State) : (setPart i p f s).doeError = s.doeError := rfl
@[simp] theorem setPart_nd (i p : Nat) (f : Part → Part) (s : State) : (setPart i p f s).nd = s.nd := rfl
@[simp] theorem setPart_ctxs (i p : Nat) (f : Part → Part) (s : State) : (setPart i p f s).ctxs = s.ctxs := rfl
@[simp] theorem setPart_cjobs (i p : Nat) (f : Part → Part) (s : State) : (setPart i p f s).cjobs = s.cjobs := rfl
@[simp] theorem setPart_ckFenced (i p : Nat) (f : Part → Part) (s : State) : (setPart i p f s).ckFenced = s.ckFenced := rfl
@[simp] theorem setPart_ckStamp (i p : Nat) (f : Part → Part) (s : State) : (setPart i p f s).ckStamp = s.ckStamp := rfl
@[simp] theorem setPart_ckOwner (i p : Nat) (f : Part → Part) (s : State) : (setPart i p f s).ckOwner = s.ckOwner := rfl
@[simp] theorem setPart_dws (i p : Nat) (f : Part → Part) (s : State) : (setPart i p f s).dws = s.dws := rfl
@[simp] theorem setPart_conns (i p : Nat) (f : Part → Part) (s : State) : (setPart i p f s).conns = s.conns := rfl
@[simp] theorem setPart_colls (i p : Nat) (f : Part → Part) (s : State) : (setPart i p f s).colls = s.colls := rfl
@[simp] theorem setPart_collHeld (i p : Nat) (f : Part → Part) (s : State) : (setPart i p f s).collHeld = s.collHeld := rfl
@[simp] theorem setPart_hist (i p : Nat) (f : Part → Part) (s : State) : (setPart i p f s).hist = s.hist := rfl
@[simp] theorem setPart_layerStats (i p : Nat) (f : Part → Part) (s : State) : (setPart i p f s).layerStats = s.layerStats := rfl
@[simp] theorem setPart_sweepRecs (i p : Nat) (f : Part → Part) (s : State) : (setPart i p f s).sweepRecs = s.sweepRecs := rfl
@[simp] theorem setPart_journal (i p : Nat) (f : Part → Part) (s : State) : (setPart i p f s).journal = s.journal := rfl
@[simp] theorem setPart_sweeps (i p : Nat) (f : Part → Part) (s : State) : (setPart i p f s).sweeps = s.sweeps := rfl
@[simp] theorem setPart_phLive (i p : Nat) (f : Part → Part) (s : State) : (setPart i p f s).phLive = s.phLive := rfl
@[simp] theorem setPart_phStamp (i p : Nat) (f : Part → Part) (s : State) : (setPart i p f s).phStamp = s.phStamp := rfl
@[simp] theorem setPart_load (i p : Nat) (f : Part → Part) (s : State) : (setPart i p f s).load = s.load := rfl
@[simp] theorem setPart_porAsserted (i p : Nat) (f : Part → Part) (s : State) : (setPart i p f s).porAsserted = s.porAsserted := rfl
@[simp] theorem setPart_perstAsserted (i p : Nat) (f : Part → Part) (s : State) : (setPart i p f s).perstAsserted = s.perstAsserted := rfl
@[simp] theorem setPart_alertPulse (i p : Nat) (f : Part → Part) (s : State) : (setPart i p f s).alertPulse = s.alertPulse := rfl
@[simp] theorem setPart_thermtrip (i p : Nat) (f : Part → Part) (s : State) : (setPart i p f s).thermtrip = s.thermtrip := rfl
@[simp] theorem setPart_awaited (i p : Nat) (f : Part → Part) (s : State) : (setPart i p f s).awaited = s.awaited := rfl
@[simp] theorem setPart_boot (i p : Nat) (f : Part → Part) (s : State) : (setPart i p f s).boot = s.boot := rfl
@[simp] theorem setPart_subsystem (i p : Nat) (f : Part → Part) (s : State) : (setPart i p f s).subsystem = s.subsystem := rfl
@[simp] theorem setPart_out (i p : Nat) (f : Part → Part) (s : State) : (setPart i p f s).out = s.out := rfl
@[simp] theorem setPart_nextId (i p : Nat) (f : Part → Part) (s : State) : (setPart i p f s).nextId = s.nextId := rfl
@[simp] theorem setPart_freeIdx (i p : Nat) (f : Part → Part) (s : State) : (setPart i p f s).freeIdx = s.freeIdx := rfl

@[simp] theorem setMx_flds (n : Nat) (r : Option MxRun) (s : State) : (setMx n r s).flds = s.flds := rfl
@[simp] theorem setMx_held (n : Nat) (r : Option MxRun) (s : State) : (setMx n r s).held = s.held := rfl
@[simp] theorem setMx_latch (n : Nat) (r : Option MxRun) (s : State) : (setMx n r s).latch = s.latch := rfl
@[simp] theorem setMx_mem (n : Nat) (r : Option MxRun) (s : State) : (setMx n r s).mem = s.mem := rfl
@[simp] theorem setMx_poison (n : Nat) (r : Option MxRun) (s : State) : (setMx n r s).poison = s.poison := rfl
@[simp] theorem setMx_panes (n : Nat) (r : Option MxRun) (s : State) : (setMx n r s).panes = s.panes := rfl
@[simp] theorem setMx_homes (n : Nat) (r : Option MxRun) (s : State) : (setMx n r s).homes = s.homes := rfl
@[simp] theorem setMx_used (n : Nat) (r : Option MxRun) (s : State) : (setMx n r s).used = s.used := rfl
@[simp] theorem setMx_image (n : Nat) (r : Option MxRun) (s : State) : (setMx n r s).image = s.image := rfl
@[simp] theorem setMx_regions (n : Nat) (r : Option MxRun) (s : State) : (setMx n r s).regions = s.regions := rfl
@[simp] theorem setMx_hinges (n : Nat) (r : Option MxRun) (s : State) : (setMx n r s).hinges = s.hinges := rfl
@[simp] theorem setMx_errlog (n : Nat) (r : Option MxRun) (s : State) : (setMx n r s).errlog = s.errlog := rfl
@[simp] theorem setMx_errSeq (n : Nat) (r : Option MxRun) (s : State) : (setMx n r s).errSeq = s.errSeq := rfl
@[simp] theorem setMx_cfg (n : Nat) (r : Option MxRun) (s : State) : (setMx n r s).cfg = s.cfg := rfl
@[simp] theorem setMx_inflight (n : Nat) (r : Option MxRun) (s : State) : (setMx n r s).inflight = s.inflight := rfl
@[simp] theorem setMx_qaux (n : Nat) (r : Option MxRun) (s : State) : (setMx n r s).qaux = s.qaux := rfl
@[simp] theorem setMx_progs (n : Nat) (r : Option MxRun) (s : State) : (setMx n r s).progs = s.progs := rfl
@[simp] theorem setMx_fifo (n : Nat) (r : Option MxRun) (s : State) : (setMx n r s).fifo = s.fifo := rfl
@[simp] theorem setMx_traceSeq (n : Nat) (r : Option MxRun) (s : State) : (setMx n r s).traceSeq = s.traceSeq := rfl
@[simp] theorem setMx_traceLost (n : Nat) (r : Option MxRun) (s : State) : (setMx n r s).traceLost = s.traceLost := rfl
@[simp] theorem setMx_tracePhase (n : Nat) (r : Option MxRun) (s : State) : (setMx n r s).tracePhase = s.tracePhase := rfl
@[simp] theorem setMx_traceSince (n : Nat) (r : Option MxRun) (s : State) : (setMx n r s).traceSince = s.traceSince := rfl
@[simp] theorem setMx_flrActive (n : Nat) (r : Option MxRun) (s : State) : (setMx n r s).flrActive = s.flrActive := rfl
@[simp] theorem setMx_arbStamp (n : Nat) (r : Option MxRun) (s : State) : (setMx n r s).arbStamp = s.arbStamp := rfl
@[simp] theorem setMx_shutWait (n : Nat) (r : Option MxRun) (s : State) : (setMx n r s).shutWait = s.shutWait := rfl
@[simp] theorem setMx_stages (n : Nat) (r : Option MxRun) (s : State) : (setMx n r s).stages = s.stages := rfl
@[simp] theorem setMx_copies (n : Nat) (r : Option MxRun) (s : State) : (setMx n r s).copies = s.copies := rfl
@[simp] theorem setMx_vx (n : Nat) (r : Option MxRun) (s : State) : (setMx n r s).vx = s.vx := rfl
@[simp] theorem setMx_transom (n : Nat) (r : Option MxRun) (s : State) : (setMx n r s).transom = s.transom := rfl
@[simp] theorem setMx_encs (n : Nat) (r : Option MxRun) (s : State) : (setMx n r s).encs = s.encs := rfl
@[simp] theorem setMx_placed (n : Nat) (r : Option MxRun) (s : State) : (setMx n r s).placed = s.placed := rfl
@[simp] theorem setMx_covers (n : Nat) (r : Option MxRun) (s : State) : (setMx n r s).covers = s.covers := rfl
@[simp] theorem setMx_winRuns (n : Nat) (r : Option MxRun) (s : State) : (setMx n r s).winRuns = s.winRuns := rfl
@[simp] theorem setMx_mu (n : Nat) (r : Option MxRun) (s : State) : (setMx n r s).mu = s.mu := rfl
@[simp] theorem setMx_repairLog (n : Nat) (r : Option MxRun) (s : State) : (setMx n r s).repairLog = s.repairLog := rfl
@[simp] theorem setMx_repairIds (n : Nat) (r : Option MxRun) (s : State) : (setMx n r s).repairIds = s.repairIds := rfl
@[simp] theorem setMx_carts (n : Nat) (r : Option MxRun) (s : State) : (setMx n r s).carts = s.carts := rfl
@[simp] theorem setMx_lcPending (n : Nat) (r : Option MxRun) (s : State) : (setMx n r s).lcPending = s.lcPending := rfl
@[simp] theorem setMx_measLog (n : Nat) (r : Option MxRun) (s : State) : (setMx n r s).measLog = s.measLog := rfl
@[simp] theorem setMx_cdatSeq (n : Nat) (r : Option MxRun) (s : State) : (setMx n r s).cdatSeq = s.cdatSeq := rfl
@[simp] theorem setMx_doeError (n : Nat) (r : Option MxRun) (s : State) : (setMx n r s).doeError = s.doeError := rfl
@[simp] theorem setMx_nd (n : Nat) (r : Option MxRun) (s : State) : (setMx n r s).nd = s.nd := rfl
@[simp] theorem setMx_ctxs (n : Nat) (r : Option MxRun) (s : State) : (setMx n r s).ctxs = s.ctxs := rfl
@[simp] theorem setMx_cjobs (n : Nat) (r : Option MxRun) (s : State) : (setMx n r s).cjobs = s.cjobs := rfl
@[simp] theorem setMx_ckFenced (n : Nat) (r : Option MxRun) (s : State) : (setMx n r s).ckFenced = s.ckFenced := rfl
@[simp] theorem setMx_ckStamp (n : Nat) (r : Option MxRun) (s : State) : (setMx n r s).ckStamp = s.ckStamp := rfl
@[simp] theorem setMx_ckOwner (n : Nat) (r : Option MxRun) (s : State) : (setMx n r s).ckOwner = s.ckOwner := rfl
@[simp] theorem setMx_dws (n : Nat) (r : Option MxRun) (s : State) : (setMx n r s).dws = s.dws := rfl
@[simp] theorem setMx_conns (n : Nat) (r : Option MxRun) (s : State) : (setMx n r s).conns = s.conns := rfl
@[simp] theorem setMx_colls (n : Nat) (r : Option MxRun) (s : State) : (setMx n r s).colls = s.colls := rfl
@[simp] theorem setMx_collHeld (n : Nat) (r : Option MxRun) (s : State) : (setMx n r s).collHeld = s.collHeld := rfl
@[simp] theorem setMx_hist (n : Nat) (r : Option MxRun) (s : State) : (setMx n r s).hist = s.hist := rfl
@[simp] theorem setMx_layerStats (n : Nat) (r : Option MxRun) (s : State) : (setMx n r s).layerStats = s.layerStats := rfl
@[simp] theorem setMx_sweepRecs (n : Nat) (r : Option MxRun) (s : State) : (setMx n r s).sweepRecs = s.sweepRecs := rfl
@[simp] theorem setMx_journal (n : Nat) (r : Option MxRun) (s : State) : (setMx n r s).journal = s.journal := rfl
@[simp] theorem setMx_sweeps (n : Nat) (r : Option MxRun) (s : State) : (setMx n r s).sweeps = s.sweeps := rfl
@[simp] theorem setMx_phLive (n : Nat) (r : Option MxRun) (s : State) : (setMx n r s).phLive = s.phLive := rfl
@[simp] theorem setMx_phStamp (n : Nat) (r : Option MxRun) (s : State) : (setMx n r s).phStamp = s.phStamp := rfl
@[simp] theorem setMx_load (n : Nat) (r : Option MxRun) (s : State) : (setMx n r s).load = s.load := rfl
@[simp] theorem setMx_porAsserted (n : Nat) (r : Option MxRun) (s : State) : (setMx n r s).porAsserted = s.porAsserted := rfl
@[simp] theorem setMx_perstAsserted (n : Nat) (r : Option MxRun) (s : State) : (setMx n r s).perstAsserted = s.perstAsserted := rfl
@[simp] theorem setMx_alertPulse (n : Nat) (r : Option MxRun) (s : State) : (setMx n r s).alertPulse = s.alertPulse := rfl
@[simp] theorem setMx_thermtrip (n : Nat) (r : Option MxRun) (s : State) : (setMx n r s).thermtrip = s.thermtrip := rfl
@[simp] theorem setMx_awaited (n : Nat) (r : Option MxRun) (s : State) : (setMx n r s).awaited = s.awaited := rfl
@[simp] theorem setMx_boot (n : Nat) (r : Option MxRun) (s : State) : (setMx n r s).boot = s.boot := rfl
@[simp] theorem setMx_subsystem (n : Nat) (r : Option MxRun) (s : State) : (setMx n r s).subsystem = s.subsystem := rfl
@[simp] theorem setMx_out (n : Nat) (r : Option MxRun) (s : State) : (setMx n r s).out = s.out := rfl
@[simp] theorem setMx_nextId (n : Nat) (r : Option MxRun) (s : State) : (setMx n r s).nextId = s.nextId := rfl
@[simp] theorem setMx_freeIdx (n : Nat) (r : Option MxRun) (s : State) : (setMx n r s).freeIdx = s.freeIdx := rfl

@[simp] theorem setVx_flds (n : Nat) (r : Option VxRun) (s : State) : (setVx n r s).flds = s.flds := rfl
@[simp] theorem setVx_held (n : Nat) (r : Option VxRun) (s : State) : (setVx n r s).held = s.held := rfl
@[simp] theorem setVx_latch (n : Nat) (r : Option VxRun) (s : State) : (setVx n r s).latch = s.latch := rfl
@[simp] theorem setVx_mem (n : Nat) (r : Option VxRun) (s : State) : (setVx n r s).mem = s.mem := rfl
@[simp] theorem setVx_poison (n : Nat) (r : Option VxRun) (s : State) : (setVx n r s).poison = s.poison := rfl
@[simp] theorem setVx_panes (n : Nat) (r : Option VxRun) (s : State) : (setVx n r s).panes = s.panes := rfl
@[simp] theorem setVx_homes (n : Nat) (r : Option VxRun) (s : State) : (setVx n r s).homes = s.homes := rfl
@[simp] theorem setVx_used (n : Nat) (r : Option VxRun) (s : State) : (setVx n r s).used = s.used := rfl
@[simp] theorem setVx_image (n : Nat) (r : Option VxRun) (s : State) : (setVx n r s).image = s.image := rfl
@[simp] theorem setVx_regions (n : Nat) (r : Option VxRun) (s : State) : (setVx n r s).regions = s.regions := rfl
@[simp] theorem setVx_hinges (n : Nat) (r : Option VxRun) (s : State) : (setVx n r s).hinges = s.hinges := rfl
@[simp] theorem setVx_errlog (n : Nat) (r : Option VxRun) (s : State) : (setVx n r s).errlog = s.errlog := rfl
@[simp] theorem setVx_errSeq (n : Nat) (r : Option VxRun) (s : State) : (setVx n r s).errSeq = s.errSeq := rfl
@[simp] theorem setVx_cfg (n : Nat) (r : Option VxRun) (s : State) : (setVx n r s).cfg = s.cfg := rfl
@[simp] theorem setVx_inflight (n : Nat) (r : Option VxRun) (s : State) : (setVx n r s).inflight = s.inflight := rfl
@[simp] theorem setVx_qaux (n : Nat) (r : Option VxRun) (s : State) : (setVx n r s).qaux = s.qaux := rfl
@[simp] theorem setVx_progs (n : Nat) (r : Option VxRun) (s : State) : (setVx n r s).progs = s.progs := rfl
@[simp] theorem setVx_fifo (n : Nat) (r : Option VxRun) (s : State) : (setVx n r s).fifo = s.fifo := rfl
@[simp] theorem setVx_traceSeq (n : Nat) (r : Option VxRun) (s : State) : (setVx n r s).traceSeq = s.traceSeq := rfl
@[simp] theorem setVx_traceLost (n : Nat) (r : Option VxRun) (s : State) : (setVx n r s).traceLost = s.traceLost := rfl
@[simp] theorem setVx_tracePhase (n : Nat) (r : Option VxRun) (s : State) : (setVx n r s).tracePhase = s.tracePhase := rfl
@[simp] theorem setVx_traceSince (n : Nat) (r : Option VxRun) (s : State) : (setVx n r s).traceSince = s.traceSince := rfl
@[simp] theorem setVx_flrActive (n : Nat) (r : Option VxRun) (s : State) : (setVx n r s).flrActive = s.flrActive := rfl
@[simp] theorem setVx_arbStamp (n : Nat) (r : Option VxRun) (s : State) : (setVx n r s).arbStamp = s.arbStamp := rfl
@[simp] theorem setVx_shutWait (n : Nat) (r : Option VxRun) (s : State) : (setVx n r s).shutWait = s.shutWait := rfl
@[simp] theorem setVx_stages (n : Nat) (r : Option VxRun) (s : State) : (setVx n r s).stages = s.stages := rfl
@[simp] theorem setVx_copies (n : Nat) (r : Option VxRun) (s : State) : (setVx n r s).copies = s.copies := rfl
@[simp] theorem setVx_mx (n : Nat) (r : Option VxRun) (s : State) : (setVx n r s).mx = s.mx := rfl
@[simp] theorem setVx_transom (n : Nat) (r : Option VxRun) (s : State) : (setVx n r s).transom = s.transom := rfl
@[simp] theorem setVx_encs (n : Nat) (r : Option VxRun) (s : State) : (setVx n r s).encs = s.encs := rfl
@[simp] theorem setVx_placed (n : Nat) (r : Option VxRun) (s : State) : (setVx n r s).placed = s.placed := rfl
@[simp] theorem setVx_covers (n : Nat) (r : Option VxRun) (s : State) : (setVx n r s).covers = s.covers := rfl
@[simp] theorem setVx_winRuns (n : Nat) (r : Option VxRun) (s : State) : (setVx n r s).winRuns = s.winRuns := rfl
@[simp] theorem setVx_mu (n : Nat) (r : Option VxRun) (s : State) : (setVx n r s).mu = s.mu := rfl
@[simp] theorem setVx_repairLog (n : Nat) (r : Option VxRun) (s : State) : (setVx n r s).repairLog = s.repairLog := rfl
@[simp] theorem setVx_repairIds (n : Nat) (r : Option VxRun) (s : State) : (setVx n r s).repairIds = s.repairIds := rfl
@[simp] theorem setVx_carts (n : Nat) (r : Option VxRun) (s : State) : (setVx n r s).carts = s.carts := rfl
@[simp] theorem setVx_lcPending (n : Nat) (r : Option VxRun) (s : State) : (setVx n r s).lcPending = s.lcPending := rfl
@[simp] theorem setVx_measLog (n : Nat) (r : Option VxRun) (s : State) : (setVx n r s).measLog = s.measLog := rfl
@[simp] theorem setVx_cdatSeq (n : Nat) (r : Option VxRun) (s : State) : (setVx n r s).cdatSeq = s.cdatSeq := rfl
@[simp] theorem setVx_doeError (n : Nat) (r : Option VxRun) (s : State) : (setVx n r s).doeError = s.doeError := rfl
@[simp] theorem setVx_nd (n : Nat) (r : Option VxRun) (s : State) : (setVx n r s).nd = s.nd := rfl
@[simp] theorem setVx_ctxs (n : Nat) (r : Option VxRun) (s : State) : (setVx n r s).ctxs = s.ctxs := rfl
@[simp] theorem setVx_cjobs (n : Nat) (r : Option VxRun) (s : State) : (setVx n r s).cjobs = s.cjobs := rfl
@[simp] theorem setVx_ckFenced (n : Nat) (r : Option VxRun) (s : State) : (setVx n r s).ckFenced = s.ckFenced := rfl
@[simp] theorem setVx_ckStamp (n : Nat) (r : Option VxRun) (s : State) : (setVx n r s).ckStamp = s.ckStamp := rfl
@[simp] theorem setVx_ckOwner (n : Nat) (r : Option VxRun) (s : State) : (setVx n r s).ckOwner = s.ckOwner := rfl
@[simp] theorem setVx_dws (n : Nat) (r : Option VxRun) (s : State) : (setVx n r s).dws = s.dws := rfl
@[simp] theorem setVx_conns (n : Nat) (r : Option VxRun) (s : State) : (setVx n r s).conns = s.conns := rfl
@[simp] theorem setVx_colls (n : Nat) (r : Option VxRun) (s : State) : (setVx n r s).colls = s.colls := rfl
@[simp] theorem setVx_collHeld (n : Nat) (r : Option VxRun) (s : State) : (setVx n r s).collHeld = s.collHeld := rfl
@[simp] theorem setVx_hist (n : Nat) (r : Option VxRun) (s : State) : (setVx n r s).hist = s.hist := rfl
@[simp] theorem setVx_layerStats (n : Nat) (r : Option VxRun) (s : State) : (setVx n r s).layerStats = s.layerStats := rfl
@[simp] theorem setVx_sweepRecs (n : Nat) (r : Option VxRun) (s : State) : (setVx n r s).sweepRecs = s.sweepRecs := rfl
@[simp] theorem setVx_journal (n : Nat) (r : Option VxRun) (s : State) : (setVx n r s).journal = s.journal := rfl
@[simp] theorem setVx_sweeps (n : Nat) (r : Option VxRun) (s : State) : (setVx n r s).sweeps = s.sweeps := rfl
@[simp] theorem setVx_phLive (n : Nat) (r : Option VxRun) (s : State) : (setVx n r s).phLive = s.phLive := rfl
@[simp] theorem setVx_phStamp (n : Nat) (r : Option VxRun) (s : State) : (setVx n r s).phStamp = s.phStamp := rfl
@[simp] theorem setVx_load (n : Nat) (r : Option VxRun) (s : State) : (setVx n r s).load = s.load := rfl
@[simp] theorem setVx_porAsserted (n : Nat) (r : Option VxRun) (s : State) : (setVx n r s).porAsserted = s.porAsserted := rfl
@[simp] theorem setVx_perstAsserted (n : Nat) (r : Option VxRun) (s : State) : (setVx n r s).perstAsserted = s.perstAsserted := rfl
@[simp] theorem setVx_alertPulse (n : Nat) (r : Option VxRun) (s : State) : (setVx n r s).alertPulse = s.alertPulse := rfl
@[simp] theorem setVx_thermtrip (n : Nat) (r : Option VxRun) (s : State) : (setVx n r s).thermtrip = s.thermtrip := rfl
@[simp] theorem setVx_awaited (n : Nat) (r : Option VxRun) (s : State) : (setVx n r s).awaited = s.awaited := rfl
@[simp] theorem setVx_boot (n : Nat) (r : Option VxRun) (s : State) : (setVx n r s).boot = s.boot := rfl
@[simp] theorem setVx_subsystem (n : Nat) (r : Option VxRun) (s : State) : (setVx n r s).subsystem = s.subsystem := rfl
@[simp] theorem setVx_out (n : Nat) (r : Option VxRun) (s : State) : (setVx n r s).out = s.out := rfl
@[simp] theorem setVx_nextId (n : Nat) (r : Option VxRun) (s : State) : (setVx n r s).nextId = s.nextId := rfl
@[simp] theorem setVx_freeIdx (n : Nat) (r : Option VxRun) (s : State) : (setVx n r s).freeIdx = s.freeIdx := rfl

@[simp] theorem setCart_flds (p : Nat) (f : CartAux → CartAux) (s : State) : (setCart p f s).flds = s.flds := rfl
@[simp] theorem setCart_held (p : Nat) (f : CartAux → CartAux) (s : State) : (setCart p f s).held = s.held := rfl
@[simp] theorem setCart_latch (p : Nat) (f : CartAux → CartAux) (s : State) : (setCart p f s).latch = s.latch := rfl
@[simp] theorem setCart_mem (p : Nat) (f : CartAux → CartAux) (s : State) : (setCart p f s).mem = s.mem := rfl
@[simp] theorem setCart_poison (p : Nat) (f : CartAux → CartAux) (s : State) : (setCart p f s).poison = s.poison := rfl
@[simp] theorem setCart_panes (p : Nat) (f : CartAux → CartAux) (s : State) : (setCart p f s).panes = s.panes := rfl
@[simp] theorem setCart_homes (p : Nat) (f : CartAux → CartAux) (s : State) : (setCart p f s).homes = s.homes := rfl
@[simp] theorem setCart_used (p : Nat) (f : CartAux → CartAux) (s : State) : (setCart p f s).used = s.used := rfl
@[simp] theorem setCart_image (p : Nat) (f : CartAux → CartAux) (s : State) : (setCart p f s).image = s.image := rfl
@[simp] theorem setCart_regions (p : Nat) (f : CartAux → CartAux) (s : State) : (setCart p f s).regions = s.regions := rfl
@[simp] theorem setCart_hinges (p : Nat) (f : CartAux → CartAux) (s : State) : (setCart p f s).hinges = s.hinges := rfl
@[simp] theorem setCart_errlog (p : Nat) (f : CartAux → CartAux) (s : State) : (setCart p f s).errlog = s.errlog := rfl
@[simp] theorem setCart_errSeq (p : Nat) (f : CartAux → CartAux) (s : State) : (setCart p f s).errSeq = s.errSeq := rfl
@[simp] theorem setCart_cfg (p : Nat) (f : CartAux → CartAux) (s : State) : (setCart p f s).cfg = s.cfg := rfl
@[simp] theorem setCart_inflight (p : Nat) (f : CartAux → CartAux) (s : State) : (setCart p f s).inflight = s.inflight := rfl
@[simp] theorem setCart_qaux (p : Nat) (f : CartAux → CartAux) (s : State) : (setCart p f s).qaux = s.qaux := rfl
@[simp] theorem setCart_progs (p : Nat) (f : CartAux → CartAux) (s : State) : (setCart p f s).progs = s.progs := rfl
@[simp] theorem setCart_fifo (p : Nat) (f : CartAux → CartAux) (s : State) : (setCart p f s).fifo = s.fifo := rfl
@[simp] theorem setCart_traceSeq (p : Nat) (f : CartAux → CartAux) (s : State) : (setCart p f s).traceSeq = s.traceSeq := rfl
@[simp] theorem setCart_traceLost (p : Nat) (f : CartAux → CartAux) (s : State) : (setCart p f s).traceLost = s.traceLost := rfl
@[simp] theorem setCart_tracePhase (p : Nat) (f : CartAux → CartAux) (s : State) : (setCart p f s).tracePhase = s.tracePhase := rfl
@[simp] theorem setCart_traceSince (p : Nat) (f : CartAux → CartAux) (s : State) : (setCart p f s).traceSince = s.traceSince := rfl
@[simp] theorem setCart_flrActive (p : Nat) (f : CartAux → CartAux) (s : State) : (setCart p f s).flrActive = s.flrActive := rfl
@[simp] theorem setCart_arbStamp (p : Nat) (f : CartAux → CartAux) (s : State) : (setCart p f s).arbStamp = s.arbStamp := rfl
@[simp] theorem setCart_shutWait (p : Nat) (f : CartAux → CartAux) (s : State) : (setCart p f s).shutWait = s.shutWait := rfl
@[simp] theorem setCart_stages (p : Nat) (f : CartAux → CartAux) (s : State) : (setCart p f s).stages = s.stages := rfl
@[simp] theorem setCart_copies (p : Nat) (f : CartAux → CartAux) (s : State) : (setCart p f s).copies = s.copies := rfl
@[simp] theorem setCart_mx (p : Nat) (f : CartAux → CartAux) (s : State) : (setCart p f s).mx = s.mx := rfl
@[simp] theorem setCart_vx (p : Nat) (f : CartAux → CartAux) (s : State) : (setCart p f s).vx = s.vx := rfl
@[simp] theorem setCart_transom (p : Nat) (f : CartAux → CartAux) (s : State) : (setCart p f s).transom = s.transom := rfl
@[simp] theorem setCart_encs (p : Nat) (f : CartAux → CartAux) (s : State) : (setCart p f s).encs = s.encs := rfl
@[simp] theorem setCart_placed (p : Nat) (f : CartAux → CartAux) (s : State) : (setCart p f s).placed = s.placed := rfl
@[simp] theorem setCart_covers (p : Nat) (f : CartAux → CartAux) (s : State) : (setCart p f s).covers = s.covers := rfl
@[simp] theorem setCart_winRuns (p : Nat) (f : CartAux → CartAux) (s : State) : (setCart p f s).winRuns = s.winRuns := rfl
@[simp] theorem setCart_mu (p : Nat) (f : CartAux → CartAux) (s : State) : (setCart p f s).mu = s.mu := rfl
@[simp] theorem setCart_repairLog (p : Nat) (f : CartAux → CartAux) (s : State) : (setCart p f s).repairLog = s.repairLog := rfl
@[simp] theorem setCart_repairIds (p : Nat) (f : CartAux → CartAux) (s : State) : (setCart p f s).repairIds = s.repairIds := rfl
@[simp] theorem setCart_lcPending (p : Nat) (f : CartAux → CartAux) (s : State) : (setCart p f s).lcPending = s.lcPending := rfl
@[simp] theorem setCart_measLog (p : Nat) (f : CartAux → CartAux) (s : State) : (setCart p f s).measLog = s.measLog := rfl
@[simp] theorem setCart_cdatSeq (p : Nat) (f : CartAux → CartAux) (s : State) : (setCart p f s).cdatSeq = s.cdatSeq := rfl
@[simp] theorem setCart_doeError (p : Nat) (f : CartAux → CartAux) (s : State) : (setCart p f s).doeError = s.doeError := rfl
@[simp] theorem setCart_nd (p : Nat) (f : CartAux → CartAux) (s : State) : (setCart p f s).nd = s.nd := rfl
@[simp] theorem setCart_ctxs (p : Nat) (f : CartAux → CartAux) (s : State) : (setCart p f s).ctxs = s.ctxs := rfl
@[simp] theorem setCart_cjobs (p : Nat) (f : CartAux → CartAux) (s : State) : (setCart p f s).cjobs = s.cjobs := rfl
@[simp] theorem setCart_ckFenced (p : Nat) (f : CartAux → CartAux) (s : State) : (setCart p f s).ckFenced = s.ckFenced := rfl
@[simp] theorem setCart_ckStamp (p : Nat) (f : CartAux → CartAux) (s : State) : (setCart p f s).ckStamp = s.ckStamp := rfl
@[simp] theorem setCart_ckOwner (p : Nat) (f : CartAux → CartAux) (s : State) : (setCart p f s).ckOwner = s.ckOwner := rfl
@[simp] theorem setCart_dws (p : Nat) (f : CartAux → CartAux) (s : State) : (setCart p f s).dws = s.dws := rfl
@[simp] theorem setCart_conns (p : Nat) (f : CartAux → CartAux) (s : State) : (setCart p f s).conns = s.conns := rfl
@[simp] theorem setCart_colls (p : Nat) (f : CartAux → CartAux) (s : State) : (setCart p f s).colls = s.colls := rfl
@[simp] theorem setCart_collHeld (p : Nat) (f : CartAux → CartAux) (s : State) : (setCart p f s).collHeld = s.collHeld := rfl
@[simp] theorem setCart_hist (p : Nat) (f : CartAux → CartAux) (s : State) : (setCart p f s).hist = s.hist := rfl
@[simp] theorem setCart_layerStats (p : Nat) (f : CartAux → CartAux) (s : State) : (setCart p f s).layerStats = s.layerStats := rfl
@[simp] theorem setCart_sweepRecs (p : Nat) (f : CartAux → CartAux) (s : State) : (setCart p f s).sweepRecs = s.sweepRecs := rfl
@[simp] theorem setCart_journal (p : Nat) (f : CartAux → CartAux) (s : State) : (setCart p f s).journal = s.journal := rfl
@[simp] theorem setCart_sweeps (p : Nat) (f : CartAux → CartAux) (s : State) : (setCart p f s).sweeps = s.sweeps := rfl
@[simp] theorem setCart_phLive (p : Nat) (f : CartAux → CartAux) (s : State) : (setCart p f s).phLive = s.phLive := rfl
@[simp] theorem setCart_phStamp (p : Nat) (f : CartAux → CartAux) (s : State) : (setCart p f s).phStamp = s.phStamp := rfl
@[simp] theorem setCart_load (p : Nat) (f : CartAux → CartAux) (s : State) : (setCart p f s).load = s.load := rfl
@[simp] theorem setCart_porAsserted (p : Nat) (f : CartAux → CartAux) (s : State) : (setCart p f s).porAsserted = s.porAsserted := rfl
@[simp] theorem setCart_perstAsserted (p : Nat) (f : CartAux → CartAux) (s : State) : (setCart p f s).perstAsserted = s.perstAsserted := rfl
@[simp] theorem setCart_alertPulse (p : Nat) (f : CartAux → CartAux) (s : State) : (setCart p f s).alertPulse = s.alertPulse := rfl
@[simp] theorem setCart_thermtrip (p : Nat) (f : CartAux → CartAux) (s : State) : (setCart p f s).thermtrip = s.thermtrip := rfl
@[simp] theorem setCart_awaited (p : Nat) (f : CartAux → CartAux) (s : State) : (setCart p f s).awaited = s.awaited := rfl
@[simp] theorem setCart_boot (p : Nat) (f : CartAux → CartAux) (s : State) : (setCart p f s).boot = s.boot := rfl
@[simp] theorem setCart_subsystem (p : Nat) (f : CartAux → CartAux) (s : State) : (setCart p f s).subsystem = s.subsystem := rfl
@[simp] theorem setCart_out (p : Nat) (f : CartAux → CartAux) (s : State) : (setCart p f s).out = s.out := rfl
@[simp] theorem setCart_nextId (p : Nat) (f : CartAux → CartAux) (s : State) : (setCart p f s).nextId = s.nextId := rfl
@[simp] theorem setCart_freeIdx (p : Nat) (f : CartAux → CartAux) (s : State) : (setCart p f s).freeIdx = s.freeIdx := rfl

@[simp] theorem setMuAux_flds (u : Nat) (f : MuAux → MuAux) (s : State) : (setMuAux u f s).flds = s.flds := rfl
@[simp] theorem setMuAux_held (u : Nat) (f : MuAux → MuAux) (s : State) : (setMuAux u f s).held = s.held := rfl
@[simp] theorem setMuAux_latch (u : Nat) (f : MuAux → MuAux) (s : State) : (setMuAux u f s).latch = s.latch := rfl
@[simp] theorem setMuAux_mem (u : Nat) (f : MuAux → MuAux) (s : State) : (setMuAux u f s).mem = s.mem := rfl
@[simp] theorem setMuAux_poison (u : Nat) (f : MuAux → MuAux) (s : State) : (setMuAux u f s).poison = s.poison := rfl
@[simp] theorem setMuAux_panes (u : Nat) (f : MuAux → MuAux) (s : State) : (setMuAux u f s).panes = s.panes := rfl
@[simp] theorem setMuAux_homes (u : Nat) (f : MuAux → MuAux) (s : State) : (setMuAux u f s).homes = s.homes := rfl
@[simp] theorem setMuAux_used (u : Nat) (f : MuAux → MuAux) (s : State) : (setMuAux u f s).used = s.used := rfl
@[simp] theorem setMuAux_image (u : Nat) (f : MuAux → MuAux) (s : State) : (setMuAux u f s).image = s.image := rfl
@[simp] theorem setMuAux_regions (u : Nat) (f : MuAux → MuAux) (s : State) : (setMuAux u f s).regions = s.regions := rfl
@[simp] theorem setMuAux_hinges (u : Nat) (f : MuAux → MuAux) (s : State) : (setMuAux u f s).hinges = s.hinges := rfl
@[simp] theorem setMuAux_errlog (u : Nat) (f : MuAux → MuAux) (s : State) : (setMuAux u f s).errlog = s.errlog := rfl
@[simp] theorem setMuAux_errSeq (u : Nat) (f : MuAux → MuAux) (s : State) : (setMuAux u f s).errSeq = s.errSeq := rfl
@[simp] theorem setMuAux_cfg (u : Nat) (f : MuAux → MuAux) (s : State) : (setMuAux u f s).cfg = s.cfg := rfl
@[simp] theorem setMuAux_inflight (u : Nat) (f : MuAux → MuAux) (s : State) : (setMuAux u f s).inflight = s.inflight := rfl
@[simp] theorem setMuAux_qaux (u : Nat) (f : MuAux → MuAux) (s : State) : (setMuAux u f s).qaux = s.qaux := rfl
@[simp] theorem setMuAux_progs (u : Nat) (f : MuAux → MuAux) (s : State) : (setMuAux u f s).progs = s.progs := rfl
@[simp] theorem setMuAux_fifo (u : Nat) (f : MuAux → MuAux) (s : State) : (setMuAux u f s).fifo = s.fifo := rfl
@[simp] theorem setMuAux_traceSeq (u : Nat) (f : MuAux → MuAux) (s : State) : (setMuAux u f s).traceSeq = s.traceSeq := rfl
@[simp] theorem setMuAux_traceLost (u : Nat) (f : MuAux → MuAux) (s : State) : (setMuAux u f s).traceLost = s.traceLost := rfl
@[simp] theorem setMuAux_tracePhase (u : Nat) (f : MuAux → MuAux) (s : State) : (setMuAux u f s).tracePhase = s.tracePhase := rfl
@[simp] theorem setMuAux_traceSince (u : Nat) (f : MuAux → MuAux) (s : State) : (setMuAux u f s).traceSince = s.traceSince := rfl
@[simp] theorem setMuAux_flrActive (u : Nat) (f : MuAux → MuAux) (s : State) : (setMuAux u f s).flrActive = s.flrActive := rfl
@[simp] theorem setMuAux_arbStamp (u : Nat) (f : MuAux → MuAux) (s : State) : (setMuAux u f s).arbStamp = s.arbStamp := rfl
@[simp] theorem setMuAux_shutWait (u : Nat) (f : MuAux → MuAux) (s : State) : (setMuAux u f s).shutWait = s.shutWait := rfl
@[simp] theorem setMuAux_stages (u : Nat) (f : MuAux → MuAux) (s : State) : (setMuAux u f s).stages = s.stages := rfl
@[simp] theorem setMuAux_copies (u : Nat) (f : MuAux → MuAux) (s : State) : (setMuAux u f s).copies = s.copies := rfl
@[simp] theorem setMuAux_mx (u : Nat) (f : MuAux → MuAux) (s : State) : (setMuAux u f s).mx = s.mx := rfl
@[simp] theorem setMuAux_vx (u : Nat) (f : MuAux → MuAux) (s : State) : (setMuAux u f s).vx = s.vx := rfl
@[simp] theorem setMuAux_transom (u : Nat) (f : MuAux → MuAux) (s : State) : (setMuAux u f s).transom = s.transom := rfl
@[simp] theorem setMuAux_encs (u : Nat) (f : MuAux → MuAux) (s : State) : (setMuAux u f s).encs = s.encs := rfl
@[simp] theorem setMuAux_placed (u : Nat) (f : MuAux → MuAux) (s : State) : (setMuAux u f s).placed = s.placed := rfl
@[simp] theorem setMuAux_covers (u : Nat) (f : MuAux → MuAux) (s : State) : (setMuAux u f s).covers = s.covers := rfl
@[simp] theorem setMuAux_winRuns (u : Nat) (f : MuAux → MuAux) (s : State) : (setMuAux u f s).winRuns = s.winRuns := rfl
@[simp] theorem setMuAux_repairLog (u : Nat) (f : MuAux → MuAux) (s : State) : (setMuAux u f s).repairLog = s.repairLog := rfl
@[simp] theorem setMuAux_repairIds (u : Nat) (f : MuAux → MuAux) (s : State) : (setMuAux u f s).repairIds = s.repairIds := rfl
@[simp] theorem setMuAux_carts (u : Nat) (f : MuAux → MuAux) (s : State) : (setMuAux u f s).carts = s.carts := rfl
@[simp] theorem setMuAux_lcPending (u : Nat) (f : MuAux → MuAux) (s : State) : (setMuAux u f s).lcPending = s.lcPending := rfl
@[simp] theorem setMuAux_measLog (u : Nat) (f : MuAux → MuAux) (s : State) : (setMuAux u f s).measLog = s.measLog := rfl
@[simp] theorem setMuAux_cdatSeq (u : Nat) (f : MuAux → MuAux) (s : State) : (setMuAux u f s).cdatSeq = s.cdatSeq := rfl
@[simp] theorem setMuAux_doeError (u : Nat) (f : MuAux → MuAux) (s : State) : (setMuAux u f s).doeError = s.doeError := rfl
@[simp] theorem setMuAux_nd (u : Nat) (f : MuAux → MuAux) (s : State) : (setMuAux u f s).nd = s.nd := rfl
@[simp] theorem setMuAux_ctxs (u : Nat) (f : MuAux → MuAux) (s : State) : (setMuAux u f s).ctxs = s.ctxs := rfl
@[simp] theorem setMuAux_cjobs (u : Nat) (f : MuAux → MuAux) (s : State) : (setMuAux u f s).cjobs = s.cjobs := rfl
@[simp] theorem setMuAux_ckFenced (u : Nat) (f : MuAux → MuAux) (s : State) : (setMuAux u f s).ckFenced = s.ckFenced := rfl
@[simp] theorem setMuAux_ckStamp (u : Nat) (f : MuAux → MuAux) (s : State) : (setMuAux u f s).ckStamp = s.ckStamp := rfl
@[simp] theorem setMuAux_ckOwner (u : Nat) (f : MuAux → MuAux) (s : State) : (setMuAux u f s).ckOwner = s.ckOwner := rfl
@[simp] theorem setMuAux_dws (u : Nat) (f : MuAux → MuAux) (s : State) : (setMuAux u f s).dws = s.dws := rfl
@[simp] theorem setMuAux_conns (u : Nat) (f : MuAux → MuAux) (s : State) : (setMuAux u f s).conns = s.conns := rfl
@[simp] theorem setMuAux_colls (u : Nat) (f : MuAux → MuAux) (s : State) : (setMuAux u f s).colls = s.colls := rfl
@[simp] theorem setMuAux_collHeld (u : Nat) (f : MuAux → MuAux) (s : State) : (setMuAux u f s).collHeld = s.collHeld := rfl
@[simp] theorem setMuAux_hist (u : Nat) (f : MuAux → MuAux) (s : State) : (setMuAux u f s).hist = s.hist := rfl
@[simp] theorem setMuAux_layerStats (u : Nat) (f : MuAux → MuAux) (s : State) : (setMuAux u f s).layerStats = s.layerStats := rfl
@[simp] theorem setMuAux_sweepRecs (u : Nat) (f : MuAux → MuAux) (s : State) : (setMuAux u f s).sweepRecs = s.sweepRecs := rfl
@[simp] theorem setMuAux_journal (u : Nat) (f : MuAux → MuAux) (s : State) : (setMuAux u f s).journal = s.journal := rfl
@[simp] theorem setMuAux_sweeps (u : Nat) (f : MuAux → MuAux) (s : State) : (setMuAux u f s).sweeps = s.sweeps := rfl
@[simp] theorem setMuAux_phLive (u : Nat) (f : MuAux → MuAux) (s : State) : (setMuAux u f s).phLive = s.phLive := rfl
@[simp] theorem setMuAux_phStamp (u : Nat) (f : MuAux → MuAux) (s : State) : (setMuAux u f s).phStamp = s.phStamp := rfl
@[simp] theorem setMuAux_load (u : Nat) (f : MuAux → MuAux) (s : State) : (setMuAux u f s).load = s.load := rfl
@[simp] theorem setMuAux_porAsserted (u : Nat) (f : MuAux → MuAux) (s : State) : (setMuAux u f s).porAsserted = s.porAsserted := rfl
@[simp] theorem setMuAux_perstAsserted (u : Nat) (f : MuAux → MuAux) (s : State) : (setMuAux u f s).perstAsserted = s.perstAsserted := rfl
@[simp] theorem setMuAux_alertPulse (u : Nat) (f : MuAux → MuAux) (s : State) : (setMuAux u f s).alertPulse = s.alertPulse := rfl
@[simp] theorem setMuAux_thermtrip (u : Nat) (f : MuAux → MuAux) (s : State) : (setMuAux u f s).thermtrip = s.thermtrip := rfl
@[simp] theorem setMuAux_awaited (u : Nat) (f : MuAux → MuAux) (s : State) : (setMuAux u f s).awaited = s.awaited := rfl
@[simp] theorem setMuAux_boot (u : Nat) (f : MuAux → MuAux) (s : State) : (setMuAux u f s).boot = s.boot := rfl
@[simp] theorem setMuAux_subsystem (u : Nat) (f : MuAux → MuAux) (s : State) : (setMuAux u f s).subsystem = s.subsystem := rfl
@[simp] theorem setMuAux_out (u : Nat) (f : MuAux → MuAux) (s : State) : (setMuAux u f s).out = s.out := rfl
@[simp] theorem setMuAux_nextId (u : Nat) (f : MuAux → MuAux) (s : State) : (setMuAux u f s).nextId = s.nextId := rfl
@[simp] theorem setMuAux_freeIdx (u : Nat) (f : MuAux → MuAux) (s : State) : (setMuAux u f s).freeIdx = s.freeIdx := rfl

@[simp] theorem setDw_flds (w : Nat) (f : DwAux → DwAux) (s : State) : (setDw w f s).flds = s.flds := rfl
@[simp] theorem setDw_held (w : Nat) (f : DwAux → DwAux) (s : State) : (setDw w f s).held = s.held := rfl
@[simp] theorem setDw_latch (w : Nat) (f : DwAux → DwAux) (s : State) : (setDw w f s).latch = s.latch := rfl
@[simp] theorem setDw_mem (w : Nat) (f : DwAux → DwAux) (s : State) : (setDw w f s).mem = s.mem := rfl
@[simp] theorem setDw_poison (w : Nat) (f : DwAux → DwAux) (s : State) : (setDw w f s).poison = s.poison := rfl
@[simp] theorem setDw_panes (w : Nat) (f : DwAux → DwAux) (s : State) : (setDw w f s).panes = s.panes := rfl
@[simp] theorem setDw_homes (w : Nat) (f : DwAux → DwAux) (s : State) : (setDw w f s).homes = s.homes := rfl
@[simp] theorem setDw_used (w : Nat) (f : DwAux → DwAux) (s : State) : (setDw w f s).used = s.used := rfl
@[simp] theorem setDw_image (w : Nat) (f : DwAux → DwAux) (s : State) : (setDw w f s).image = s.image := rfl
@[simp] theorem setDw_regions (w : Nat) (f : DwAux → DwAux) (s : State) : (setDw w f s).regions = s.regions := rfl
@[simp] theorem setDw_hinges (w : Nat) (f : DwAux → DwAux) (s : State) : (setDw w f s).hinges = s.hinges := rfl
@[simp] theorem setDw_errlog (w : Nat) (f : DwAux → DwAux) (s : State) : (setDw w f s).errlog = s.errlog := rfl
@[simp] theorem setDw_errSeq (w : Nat) (f : DwAux → DwAux) (s : State) : (setDw w f s).errSeq = s.errSeq := rfl
@[simp] theorem setDw_cfg (w : Nat) (f : DwAux → DwAux) (s : State) : (setDw w f s).cfg = s.cfg := rfl
@[simp] theorem setDw_inflight (w : Nat) (f : DwAux → DwAux) (s : State) : (setDw w f s).inflight = s.inflight := rfl
@[simp] theorem setDw_qaux (w : Nat) (f : DwAux → DwAux) (s : State) : (setDw w f s).qaux = s.qaux := rfl
@[simp] theorem setDw_progs (w : Nat) (f : DwAux → DwAux) (s : State) : (setDw w f s).progs = s.progs := rfl
@[simp] theorem setDw_fifo (w : Nat) (f : DwAux → DwAux) (s : State) : (setDw w f s).fifo = s.fifo := rfl
@[simp] theorem setDw_traceSeq (w : Nat) (f : DwAux → DwAux) (s : State) : (setDw w f s).traceSeq = s.traceSeq := rfl
@[simp] theorem setDw_traceLost (w : Nat) (f : DwAux → DwAux) (s : State) : (setDw w f s).traceLost = s.traceLost := rfl
@[simp] theorem setDw_tracePhase (w : Nat) (f : DwAux → DwAux) (s : State) : (setDw w f s).tracePhase = s.tracePhase := rfl
@[simp] theorem setDw_traceSince (w : Nat) (f : DwAux → DwAux) (s : State) : (setDw w f s).traceSince = s.traceSince := rfl
@[simp] theorem setDw_flrActive (w : Nat) (f : DwAux → DwAux) (s : State) : (setDw w f s).flrActive = s.flrActive := rfl
@[simp] theorem setDw_arbStamp (w : Nat) (f : DwAux → DwAux) (s : State) : (setDw w f s).arbStamp = s.arbStamp := rfl
@[simp] theorem setDw_shutWait (w : Nat) (f : DwAux → DwAux) (s : State) : (setDw w f s).shutWait = s.shutWait := rfl
@[simp] theorem setDw_stages (w : Nat) (f : DwAux → DwAux) (s : State) : (setDw w f s).stages = s.stages := rfl
@[simp] theorem setDw_copies (w : Nat) (f : DwAux → DwAux) (s : State) : (setDw w f s).copies = s.copies := rfl
@[simp] theorem setDw_mx (w : Nat) (f : DwAux → DwAux) (s : State) : (setDw w f s).mx = s.mx := rfl
@[simp] theorem setDw_vx (w : Nat) (f : DwAux → DwAux) (s : State) : (setDw w f s).vx = s.vx := rfl
@[simp] theorem setDw_transom (w : Nat) (f : DwAux → DwAux) (s : State) : (setDw w f s).transom = s.transom := rfl
@[simp] theorem setDw_encs (w : Nat) (f : DwAux → DwAux) (s : State) : (setDw w f s).encs = s.encs := rfl
@[simp] theorem setDw_placed (w : Nat) (f : DwAux → DwAux) (s : State) : (setDw w f s).placed = s.placed := rfl
@[simp] theorem setDw_covers (w : Nat) (f : DwAux → DwAux) (s : State) : (setDw w f s).covers = s.covers := rfl
@[simp] theorem setDw_winRuns (w : Nat) (f : DwAux → DwAux) (s : State) : (setDw w f s).winRuns = s.winRuns := rfl
@[simp] theorem setDw_mu (w : Nat) (f : DwAux → DwAux) (s : State) : (setDw w f s).mu = s.mu := rfl
@[simp] theorem setDw_repairLog (w : Nat) (f : DwAux → DwAux) (s : State) : (setDw w f s).repairLog = s.repairLog := rfl
@[simp] theorem setDw_repairIds (w : Nat) (f : DwAux → DwAux) (s : State) : (setDw w f s).repairIds = s.repairIds := rfl
@[simp] theorem setDw_carts (w : Nat) (f : DwAux → DwAux) (s : State) : (setDw w f s).carts = s.carts := rfl
@[simp] theorem setDw_lcPending (w : Nat) (f : DwAux → DwAux) (s : State) : (setDw w f s).lcPending = s.lcPending := rfl
@[simp] theorem setDw_measLog (w : Nat) (f : DwAux → DwAux) (s : State) : (setDw w f s).measLog = s.measLog := rfl
@[simp] theorem setDw_cdatSeq (w : Nat) (f : DwAux → DwAux) (s : State) : (setDw w f s).cdatSeq = s.cdatSeq := rfl
@[simp] theorem setDw_doeError (w : Nat) (f : DwAux → DwAux) (s : State) : (setDw w f s).doeError = s.doeError := rfl
@[simp] theorem setDw_nd (w : Nat) (f : DwAux → DwAux) (s : State) : (setDw w f s).nd = s.nd := rfl
@[simp] theorem setDw_ctxs (w : Nat) (f : DwAux → DwAux) (s : State) : (setDw w f s).ctxs = s.ctxs := rfl
@[simp] theorem setDw_cjobs (w : Nat) (f : DwAux → DwAux) (s : State) : (setDw w f s).cjobs = s.cjobs := rfl
@[simp] theorem setDw_ckFenced (w : Nat) (f : DwAux → DwAux) (s : State) : (setDw w f s).ckFenced = s.ckFenced := rfl
@[simp] theorem setDw_ckStamp (w : Nat) (f : DwAux → DwAux) (s : State) : (setDw w f s).ckStamp = s.ckStamp := rfl
@[simp] theorem setDw_ckOwner (w : Nat) (f : DwAux → DwAux) (s : State) : (setDw w f s).ckOwner = s.ckOwner := rfl
@[simp] theorem setDw_conns (w : Nat) (f : DwAux → DwAux) (s : State) : (setDw w f s).conns = s.conns := rfl
@[simp] theorem setDw_colls (w : Nat) (f : DwAux → DwAux) (s : State) : (setDw w f s).colls = s.colls := rfl
@[simp] theorem setDw_collHeld (w : Nat) (f : DwAux → DwAux) (s : State) : (setDw w f s).collHeld = s.collHeld := rfl
@[simp] theorem setDw_hist (w : Nat) (f : DwAux → DwAux) (s : State) : (setDw w f s).hist = s.hist := rfl
@[simp] theorem setDw_layerStats (w : Nat) (f : DwAux → DwAux) (s : State) : (setDw w f s).layerStats = s.layerStats := rfl
@[simp] theorem setDw_sweepRecs (w : Nat) (f : DwAux → DwAux) (s : State) : (setDw w f s).sweepRecs = s.sweepRecs := rfl
@[simp] theorem setDw_journal (w : Nat) (f : DwAux → DwAux) (s : State) : (setDw w f s).journal = s.journal := rfl
@[simp] theorem setDw_sweeps (w : Nat) (f : DwAux → DwAux) (s : State) : (setDw w f s).sweeps = s.sweeps := rfl
@[simp] theorem setDw_phLive (w : Nat) (f : DwAux → DwAux) (s : State) : (setDw w f s).phLive = s.phLive := rfl
@[simp] theorem setDw_phStamp (w : Nat) (f : DwAux → DwAux) (s : State) : (setDw w f s).phStamp = s.phStamp := rfl
@[simp] theorem setDw_load (w : Nat) (f : DwAux → DwAux) (s : State) : (setDw w f s).load = s.load := rfl
@[simp] theorem setDw_porAsserted (w : Nat) (f : DwAux → DwAux) (s : State) : (setDw w f s).porAsserted = s.porAsserted := rfl
@[simp] theorem setDw_perstAsserted (w : Nat) (f : DwAux → DwAux) (s : State) : (setDw w f s).perstAsserted = s.perstAsserted := rfl
@[simp] theorem setDw_alertPulse (w : Nat) (f : DwAux → DwAux) (s : State) : (setDw w f s).alertPulse = s.alertPulse := rfl
@[simp] theorem setDw_thermtrip (w : Nat) (f : DwAux → DwAux) (s : State) : (setDw w f s).thermtrip = s.thermtrip := rfl
@[simp] theorem setDw_awaited (w : Nat) (f : DwAux → DwAux) (s : State) : (setDw w f s).awaited = s.awaited := rfl
@[simp] theorem setDw_boot (w : Nat) (f : DwAux → DwAux) (s : State) : (setDw w f s).boot = s.boot := rfl
@[simp] theorem setDw_subsystem (w : Nat) (f : DwAux → DwAux) (s : State) : (setDw w f s).subsystem = s.subsystem := rfl
@[simp] theorem setDw_out (w : Nat) (f : DwAux → DwAux) (s : State) : (setDw w f s).out = s.out := rfl
@[simp] theorem setDw_nextId (w : Nat) (f : DwAux → DwAux) (s : State) : (setDw w f s).nextId = s.nextId := rfl
@[simp] theorem setDw_freeIdx (w : Nat) (f : DwAux → DwAux) (s : State) : (setDw w f s).freeIdx = s.freeIdx := rfl

@[simp] theorem setNd_flds (f : NdAux → NdAux) (s : State) : (setNd f s).flds = s.flds := rfl
@[simp] theorem setNd_held (f : NdAux → NdAux) (s : State) : (setNd f s).held = s.held := rfl
@[simp] theorem setNd_latch (f : NdAux → NdAux) (s : State) : (setNd f s).latch = s.latch := rfl
@[simp] theorem setNd_mem (f : NdAux → NdAux) (s : State) : (setNd f s).mem = s.mem := rfl
@[simp] theorem setNd_poison (f : NdAux → NdAux) (s : State) : (setNd f s).poison = s.poison := rfl
@[simp] theorem setNd_panes (f : NdAux → NdAux) (s : State) : (setNd f s).panes = s.panes := rfl
@[simp] theorem setNd_homes (f : NdAux → NdAux) (s : State) : (setNd f s).homes = s.homes := rfl
@[simp] theorem setNd_used (f : NdAux → NdAux) (s : State) : (setNd f s).used = s.used := rfl
@[simp] theorem setNd_image (f : NdAux → NdAux) (s : State) : (setNd f s).image = s.image := rfl
@[simp] theorem setNd_regions (f : NdAux → NdAux) (s : State) : (setNd f s).regions = s.regions := rfl
@[simp] theorem setNd_hinges (f : NdAux → NdAux) (s : State) : (setNd f s).hinges = s.hinges := rfl
@[simp] theorem setNd_errlog (f : NdAux → NdAux) (s : State) : (setNd f s).errlog = s.errlog := rfl
@[simp] theorem setNd_errSeq (f : NdAux → NdAux) (s : State) : (setNd f s).errSeq = s.errSeq := rfl
@[simp] theorem setNd_cfg (f : NdAux → NdAux) (s : State) : (setNd f s).cfg = s.cfg := rfl
@[simp] theorem setNd_inflight (f : NdAux → NdAux) (s : State) : (setNd f s).inflight = s.inflight := rfl
@[simp] theorem setNd_qaux (f : NdAux → NdAux) (s : State) : (setNd f s).qaux = s.qaux := rfl
@[simp] theorem setNd_progs (f : NdAux → NdAux) (s : State) : (setNd f s).progs = s.progs := rfl
@[simp] theorem setNd_fifo (f : NdAux → NdAux) (s : State) : (setNd f s).fifo = s.fifo := rfl
@[simp] theorem setNd_traceSeq (f : NdAux → NdAux) (s : State) : (setNd f s).traceSeq = s.traceSeq := rfl
@[simp] theorem setNd_traceLost (f : NdAux → NdAux) (s : State) : (setNd f s).traceLost = s.traceLost := rfl
@[simp] theorem setNd_tracePhase (f : NdAux → NdAux) (s : State) : (setNd f s).tracePhase = s.tracePhase := rfl
@[simp] theorem setNd_traceSince (f : NdAux → NdAux) (s : State) : (setNd f s).traceSince = s.traceSince := rfl
@[simp] theorem setNd_flrActive (f : NdAux → NdAux) (s : State) : (setNd f s).flrActive = s.flrActive := rfl
@[simp] theorem setNd_arbStamp (f : NdAux → NdAux) (s : State) : (setNd f s).arbStamp = s.arbStamp := rfl
@[simp] theorem setNd_shutWait (f : NdAux → NdAux) (s : State) : (setNd f s).shutWait = s.shutWait := rfl
@[simp] theorem setNd_stages (f : NdAux → NdAux) (s : State) : (setNd f s).stages = s.stages := rfl
@[simp] theorem setNd_copies (f : NdAux → NdAux) (s : State) : (setNd f s).copies = s.copies := rfl
@[simp] theorem setNd_mx (f : NdAux → NdAux) (s : State) : (setNd f s).mx = s.mx := rfl
@[simp] theorem setNd_vx (f : NdAux → NdAux) (s : State) : (setNd f s).vx = s.vx := rfl
@[simp] theorem setNd_transom (f : NdAux → NdAux) (s : State) : (setNd f s).transom = s.transom := rfl
@[simp] theorem setNd_encs (f : NdAux → NdAux) (s : State) : (setNd f s).encs = s.encs := rfl
@[simp] theorem setNd_placed (f : NdAux → NdAux) (s : State) : (setNd f s).placed = s.placed := rfl
@[simp] theorem setNd_covers (f : NdAux → NdAux) (s : State) : (setNd f s).covers = s.covers := rfl
@[simp] theorem setNd_winRuns (f : NdAux → NdAux) (s : State) : (setNd f s).winRuns = s.winRuns := rfl
@[simp] theorem setNd_mu (f : NdAux → NdAux) (s : State) : (setNd f s).mu = s.mu := rfl
@[simp] theorem setNd_repairLog (f : NdAux → NdAux) (s : State) : (setNd f s).repairLog = s.repairLog := rfl
@[simp] theorem setNd_repairIds (f : NdAux → NdAux) (s : State) : (setNd f s).repairIds = s.repairIds := rfl
@[simp] theorem setNd_carts (f : NdAux → NdAux) (s : State) : (setNd f s).carts = s.carts := rfl
@[simp] theorem setNd_lcPending (f : NdAux → NdAux) (s : State) : (setNd f s).lcPending = s.lcPending := rfl
@[simp] theorem setNd_measLog (f : NdAux → NdAux) (s : State) : (setNd f s).measLog = s.measLog := rfl
@[simp] theorem setNd_cdatSeq (f : NdAux → NdAux) (s : State) : (setNd f s).cdatSeq = s.cdatSeq := rfl
@[simp] theorem setNd_doeError (f : NdAux → NdAux) (s : State) : (setNd f s).doeError = s.doeError := rfl
@[simp] theorem setNd_ctxs (f : NdAux → NdAux) (s : State) : (setNd f s).ctxs = s.ctxs := rfl
@[simp] theorem setNd_cjobs (f : NdAux → NdAux) (s : State) : (setNd f s).cjobs = s.cjobs := rfl
@[simp] theorem setNd_ckFenced (f : NdAux → NdAux) (s : State) : (setNd f s).ckFenced = s.ckFenced := rfl
@[simp] theorem setNd_ckStamp (f : NdAux → NdAux) (s : State) : (setNd f s).ckStamp = s.ckStamp := rfl
@[simp] theorem setNd_ckOwner (f : NdAux → NdAux) (s : State) : (setNd f s).ckOwner = s.ckOwner := rfl
@[simp] theorem setNd_dws (f : NdAux → NdAux) (s : State) : (setNd f s).dws = s.dws := rfl
@[simp] theorem setNd_conns (f : NdAux → NdAux) (s : State) : (setNd f s).conns = s.conns := rfl
@[simp] theorem setNd_colls (f : NdAux → NdAux) (s : State) : (setNd f s).colls = s.colls := rfl
@[simp] theorem setNd_collHeld (f : NdAux → NdAux) (s : State) : (setNd f s).collHeld = s.collHeld := rfl
@[simp] theorem setNd_hist (f : NdAux → NdAux) (s : State) : (setNd f s).hist = s.hist := rfl
@[simp] theorem setNd_layerStats (f : NdAux → NdAux) (s : State) : (setNd f s).layerStats = s.layerStats := rfl
@[simp] theorem setNd_sweepRecs (f : NdAux → NdAux) (s : State) : (setNd f s).sweepRecs = s.sweepRecs := rfl
@[simp] theorem setNd_journal (f : NdAux → NdAux) (s : State) : (setNd f s).journal = s.journal := rfl
@[simp] theorem setNd_sweeps (f : NdAux → NdAux) (s : State) : (setNd f s).sweeps = s.sweeps := rfl
@[simp] theorem setNd_phLive (f : NdAux → NdAux) (s : State) : (setNd f s).phLive = s.phLive := rfl
@[simp] theorem setNd_phStamp (f : NdAux → NdAux) (s : State) : (setNd f s).phStamp = s.phStamp := rfl
@[simp] theorem setNd_load (f : NdAux → NdAux) (s : State) : (setNd f s).load = s.load := rfl
@[simp] theorem setNd_porAsserted (f : NdAux → NdAux) (s : State) : (setNd f s).porAsserted = s.porAsserted := rfl
@[simp] theorem setNd_perstAsserted (f : NdAux → NdAux) (s : State) : (setNd f s).perstAsserted = s.perstAsserted := rfl
@[simp] theorem setNd_alertPulse (f : NdAux → NdAux) (s : State) : (setNd f s).alertPulse = s.alertPulse := rfl
@[simp] theorem setNd_thermtrip (f : NdAux → NdAux) (s : State) : (setNd f s).thermtrip = s.thermtrip := rfl
@[simp] theorem setNd_awaited (f : NdAux → NdAux) (s : State) : (setNd f s).awaited = s.awaited := rfl
@[simp] theorem setNd_boot (f : NdAux → NdAux) (s : State) : (setNd f s).boot = s.boot := rfl
@[simp] theorem setNd_subsystem (f : NdAux → NdAux) (s : State) : (setNd f s).subsystem = s.subsystem := rfl
@[simp] theorem setNd_out (f : NdAux → NdAux) (s : State) : (setNd f s).out = s.out := rfl
@[simp] theorem setNd_nextId (f : NdAux → NdAux) (s : State) : (setNd f s).nextId = s.nextId := rfl
@[simp] theorem setNd_freeIdx (f : NdAux → NdAux) (s : State) : (setNd f s).freeIdx = s.freeIdx := rfl

@[simp] theorem setCtx_flds (x : Nat) (f : CompCtx → CompCtx) (s : State) : (setCtx x f s).flds = s.flds := rfl
@[simp] theorem setCtx_held (x : Nat) (f : CompCtx → CompCtx) (s : State) : (setCtx x f s).held = s.held := rfl
@[simp] theorem setCtx_latch (x : Nat) (f : CompCtx → CompCtx) (s : State) : (setCtx x f s).latch = s.latch := rfl
@[simp] theorem setCtx_mem (x : Nat) (f : CompCtx → CompCtx) (s : State) : (setCtx x f s).mem = s.mem := rfl
@[simp] theorem setCtx_poison (x : Nat) (f : CompCtx → CompCtx) (s : State) : (setCtx x f s).poison = s.poison := rfl
@[simp] theorem setCtx_panes (x : Nat) (f : CompCtx → CompCtx) (s : State) : (setCtx x f s).panes = s.panes := rfl
@[simp] theorem setCtx_homes (x : Nat) (f : CompCtx → CompCtx) (s : State) : (setCtx x f s).homes = s.homes := rfl
@[simp] theorem setCtx_used (x : Nat) (f : CompCtx → CompCtx) (s : State) : (setCtx x f s).used = s.used := rfl
@[simp] theorem setCtx_image (x : Nat) (f : CompCtx → CompCtx) (s : State) : (setCtx x f s).image = s.image := rfl
@[simp] theorem setCtx_regions (x : Nat) (f : CompCtx → CompCtx) (s : State) : (setCtx x f s).regions = s.regions := rfl
@[simp] theorem setCtx_hinges (x : Nat) (f : CompCtx → CompCtx) (s : State) : (setCtx x f s).hinges = s.hinges := rfl
@[simp] theorem setCtx_errlog (x : Nat) (f : CompCtx → CompCtx) (s : State) : (setCtx x f s).errlog = s.errlog := rfl
@[simp] theorem setCtx_errSeq (x : Nat) (f : CompCtx → CompCtx) (s : State) : (setCtx x f s).errSeq = s.errSeq := rfl
@[simp] theorem setCtx_cfg (x : Nat) (f : CompCtx → CompCtx) (s : State) : (setCtx x f s).cfg = s.cfg := rfl
@[simp] theorem setCtx_inflight (x : Nat) (f : CompCtx → CompCtx) (s : State) : (setCtx x f s).inflight = s.inflight := rfl
@[simp] theorem setCtx_qaux (x : Nat) (f : CompCtx → CompCtx) (s : State) : (setCtx x f s).qaux = s.qaux := rfl
@[simp] theorem setCtx_progs (x : Nat) (f : CompCtx → CompCtx) (s : State) : (setCtx x f s).progs = s.progs := rfl
@[simp] theorem setCtx_fifo (x : Nat) (f : CompCtx → CompCtx) (s : State) : (setCtx x f s).fifo = s.fifo := rfl
@[simp] theorem setCtx_traceSeq (x : Nat) (f : CompCtx → CompCtx) (s : State) : (setCtx x f s).traceSeq = s.traceSeq := rfl
@[simp] theorem setCtx_traceLost (x : Nat) (f : CompCtx → CompCtx) (s : State) : (setCtx x f s).traceLost = s.traceLost := rfl
@[simp] theorem setCtx_tracePhase (x : Nat) (f : CompCtx → CompCtx) (s : State) : (setCtx x f s).tracePhase = s.tracePhase := rfl
@[simp] theorem setCtx_traceSince (x : Nat) (f : CompCtx → CompCtx) (s : State) : (setCtx x f s).traceSince = s.traceSince := rfl
@[simp] theorem setCtx_flrActive (x : Nat) (f : CompCtx → CompCtx) (s : State) : (setCtx x f s).flrActive = s.flrActive := rfl
@[simp] theorem setCtx_arbStamp (x : Nat) (f : CompCtx → CompCtx) (s : State) : (setCtx x f s).arbStamp = s.arbStamp := rfl
@[simp] theorem setCtx_shutWait (x : Nat) (f : CompCtx → CompCtx) (s : State) : (setCtx x f s).shutWait = s.shutWait := rfl
@[simp] theorem setCtx_stages (x : Nat) (f : CompCtx → CompCtx) (s : State) : (setCtx x f s).stages = s.stages := rfl
@[simp] theorem setCtx_copies (x : Nat) (f : CompCtx → CompCtx) (s : State) : (setCtx x f s).copies = s.copies := rfl
@[simp] theorem setCtx_mx (x : Nat) (f : CompCtx → CompCtx) (s : State) : (setCtx x f s).mx = s.mx := rfl
@[simp] theorem setCtx_vx (x : Nat) (f : CompCtx → CompCtx) (s : State) : (setCtx x f s).vx = s.vx := rfl
@[simp] theorem setCtx_transom (x : Nat) (f : CompCtx → CompCtx) (s : State) : (setCtx x f s).transom = s.transom := rfl
@[simp] theorem setCtx_encs (x : Nat) (f : CompCtx → CompCtx) (s : State) : (setCtx x f s).encs = s.encs := rfl
@[simp] theorem setCtx_placed (x : Nat) (f : CompCtx → CompCtx) (s : State) : (setCtx x f s).placed = s.placed := rfl
@[simp] theorem setCtx_covers (x : Nat) (f : CompCtx → CompCtx) (s : State) : (setCtx x f s).covers = s.covers := rfl
@[simp] theorem setCtx_winRuns (x : Nat) (f : CompCtx → CompCtx) (s : State) : (setCtx x f s).winRuns = s.winRuns := rfl
@[simp] theorem setCtx_mu (x : Nat) (f : CompCtx → CompCtx) (s : State) : (setCtx x f s).mu = s.mu := rfl
@[simp] theorem setCtx_repairLog (x : Nat) (f : CompCtx → CompCtx) (s : State) : (setCtx x f s).repairLog = s.repairLog := rfl
@[simp] theorem setCtx_repairIds (x : Nat) (f : CompCtx → CompCtx) (s : State) : (setCtx x f s).repairIds = s.repairIds := rfl
@[simp] theorem setCtx_carts (x : Nat) (f : CompCtx → CompCtx) (s : State) : (setCtx x f s).carts = s.carts := rfl
@[simp] theorem setCtx_lcPending (x : Nat) (f : CompCtx → CompCtx) (s : State) : (setCtx x f s).lcPending = s.lcPending := rfl
@[simp] theorem setCtx_measLog (x : Nat) (f : CompCtx → CompCtx) (s : State) : (setCtx x f s).measLog = s.measLog := rfl
@[simp] theorem setCtx_cdatSeq (x : Nat) (f : CompCtx → CompCtx) (s : State) : (setCtx x f s).cdatSeq = s.cdatSeq := rfl
@[simp] theorem setCtx_doeError (x : Nat) (f : CompCtx → CompCtx) (s : State) : (setCtx x f s).doeError = s.doeError := rfl
@[simp] theorem setCtx_nd (x : Nat) (f : CompCtx → CompCtx) (s : State) : (setCtx x f s).nd = s.nd := rfl
@[simp] theorem setCtx_cjobs (x : Nat) (f : CompCtx → CompCtx) (s : State) : (setCtx x f s).cjobs = s.cjobs := rfl
@[simp] theorem setCtx_ckFenced (x : Nat) (f : CompCtx → CompCtx) (s : State) : (setCtx x f s).ckFenced = s.ckFenced := rfl
@[simp] theorem setCtx_ckStamp (x : Nat) (f : CompCtx → CompCtx) (s : State) : (setCtx x f s).ckStamp = s.ckStamp := rfl
@[simp] theorem setCtx_ckOwner (x : Nat) (f : CompCtx → CompCtx) (s : State) : (setCtx x f s).ckOwner = s.ckOwner := rfl
@[simp] theorem setCtx_dws (x : Nat) (f : CompCtx → CompCtx) (s : State) : (setCtx x f s).dws = s.dws := rfl
@[simp] theorem setCtx_conns (x : Nat) (f : CompCtx → CompCtx) (s : State) : (setCtx x f s).conns = s.conns := rfl
@[simp] theorem setCtx_colls (x : Nat) (f : CompCtx → CompCtx) (s : State) : (setCtx x f s).colls = s.colls := rfl
@[simp] theorem setCtx_collHeld (x : Nat) (f : CompCtx → CompCtx) (s : State) : (setCtx x f s).collHeld = s.collHeld := rfl
@[simp] theorem setCtx_hist (x : Nat) (f : CompCtx → CompCtx) (s : State) : (setCtx x f s).hist = s.hist := rfl
@[simp] theorem setCtx_layerStats (x : Nat) (f : CompCtx → CompCtx) (s : State) : (setCtx x f s).layerStats = s.layerStats := rfl
@[simp] theorem setCtx_sweepRecs (x : Nat) (f : CompCtx → CompCtx) (s : State) : (setCtx x f s).sweepRecs = s.sweepRecs := rfl
@[simp] theorem setCtx_journal (x : Nat) (f : CompCtx → CompCtx) (s : State) : (setCtx x f s).journal = s.journal := rfl
@[simp] theorem setCtx_sweeps (x : Nat) (f : CompCtx → CompCtx) (s : State) : (setCtx x f s).sweeps = s.sweeps := rfl
@[simp] theorem setCtx_phLive (x : Nat) (f : CompCtx → CompCtx) (s : State) : (setCtx x f s).phLive = s.phLive := rfl
@[simp] theorem setCtx_phStamp (x : Nat) (f : CompCtx → CompCtx) (s : State) : (setCtx x f s).phStamp = s.phStamp := rfl
@[simp] theorem setCtx_load (x : Nat) (f : CompCtx → CompCtx) (s : State) : (setCtx x f s).load = s.load := rfl
@[simp] theorem setCtx_porAsserted (x : Nat) (f : CompCtx → CompCtx) (s : State) : (setCtx x f s).porAsserted = s.porAsserted := rfl
@[simp] theorem setCtx_perstAsserted (x : Nat) (f : CompCtx → CompCtx) (s : State) : (setCtx x f s).perstAsserted = s.perstAsserted := rfl
@[simp] theorem setCtx_alertPulse (x : Nat) (f : CompCtx → CompCtx) (s : State) : (setCtx x f s).alertPulse = s.alertPulse := rfl
@[simp] theorem setCtx_thermtrip (x : Nat) (f : CompCtx → CompCtx) (s : State) : (setCtx x f s).thermtrip = s.thermtrip := rfl
@[simp] theorem setCtx_awaited (x : Nat) (f : CompCtx → CompCtx) (s : State) : (setCtx x f s).awaited = s.awaited := rfl
@[simp] theorem setCtx_boot (x : Nat) (f : CompCtx → CompCtx) (s : State) : (setCtx x f s).boot = s.boot := rfl
@[simp] theorem setCtx_subsystem (x : Nat) (f : CompCtx → CompCtx) (s : State) : (setCtx x f s).subsystem = s.subsystem := rfl
@[simp] theorem setCtx_out (x : Nat) (f : CompCtx → CompCtx) (s : State) : (setCtx x f s).out = s.out := rfl
@[simp] theorem setCtx_nextId (x : Nat) (f : CompCtx → CompCtx) (s : State) : (setCtx x f s).nextId = s.nextId := rfl
@[simp] theorem setCtx_freeIdx (x : Nat) (f : CompCtx → CompCtx) (s : State) : (setCtx x f s).freeIdx = s.freeIdx := rfl

/-! Register fields. -/

@[simp] theorem getF_emit (g : Fld) (o : Out) (s : State) : getF g (emit o s) = getF g s := rfl
@[simp] theorem getF_setRegion (g : Fld) (n : Nat) (f : Region → Region) (s : State) : getF g (setRegion n f s) = getF g s := rfl
@[simp] theorem getF_setHinge (g : Fld) (a b : Nat) (f : Hinge → Hinge) (s : State) : getF g (setHinge a b f s) = getF g s := rfl
@[simp] theorem getF_setQaux (g : Fld) (q : Nat) (f : QAux → QAux) (s : State) : getF g (setQaux q f s) = getF g s := rfl
@[simp] theorem getF_setFlight (g : Fld) (i : Nat) (f : InFlight → InFlight) (s : State) : getF g (setFlight i f s) = getF g s := rfl
@[simp] theorem getF_setPart (g : Fld) (i p : Nat) (f : Part → Part) (s : State) : getF g (setPart i p f s) = getF g s := rfl
@[simp] theorem getF_setMx (g : Fld) (n : Nat) (r : Option MxRun) (s : State) : getF g (setMx n r s) = getF g s := rfl
@[simp] theorem getF_setVx (g : Fld) (n : Nat) (r : Option VxRun) (s : State) : getF g (setVx n r s) = getF g s := rfl
@[simp] theorem getF_setCart (g : Fld) (p : Nat) (f : CartAux → CartAux) (s : State) : getF g (setCart p f s) = getF g s := rfl
@[simp] theorem getF_setMuAux (g : Fld) (u : Nat) (f : MuAux → MuAux) (s : State) : getF g (setMuAux u f s) = getF g s := rfl
@[simp] theorem getF_setDw (g : Fld) (w : Nat) (f : DwAux → DwAux) (s : State) : getF g (setDw w f s) = getF g s := rfl
@[simp] theorem getF_setNd (g : Fld) (f : NdAux → NdAux) (s : State) : getF g (setNd f s) = getF g s := rfl
@[simp] theorem getF_setCtx (g : Fld) (x : Nat) (f : CompCtx → CompCtx) (s : State) : getF g (setCtx x f s) = getF g s := rfl

/-- A field that has been set reads the value, truncated to its width. -/
@[simp] theorem getF_setF_self (f : Fld) (v : Nat) (s : State) : getF f (setF f v s) = v % 2 ^ f.width := assocGet_set_self _ _ _ _

/-- Setting a field leaves every other field. -/
theorem getF_setF_ne (f g : Fld) (v : Nat) (s : State) (h : g.key ≠ f.key) : getF g (setF f v s) = getF g s :=
  assocGet_set_ne _ _ _ _ _ _ h

/-- Two fields of different registers are different fields. -/
theorem key_ne_of_addr (f g : Fld) (hf : f.lo < 64) (hg : g.lo < 64) (h : g.addr ≠ f.addr) : g.key ≠ f.key := by
  unfold Fld.key; omega

/-- Two fields of one register with different lowest bits are different fields. -/
theorem key_ne_of_lo (f g : Fld) (h : g.addr = f.addr) (h' : g.lo ≠ f.lo) : g.key ≠ f.key := by
  unfold Fld.key; omega

/-! The tables of units. -/

@[simp] theorem regionOf_setRegion_self (n : Nat) (f : Region → Region) (s : State) : regionOf n (setRegion n f s) = f (regionOf n s) := assocGet_modify_self _ _ _ _
theorem regionOf_setRegion_ne (n m : Nat) (f : Region → Region) (s : State) (h : m ≠ n) : regionOf m (setRegion n f s) = regionOf m s := assocGet_modify_ne _ _ _ _ _ _ h
@[simp] theorem regionOf_setF (n : Nat) (f : Fld) (v : Nat) (s : State) : regionOf n (setF f v s) = regionOf n s := rfl
@[simp] theorem regionOf_emit (n : Nat) (o : Out) (s : State) : regionOf n (emit o s) = regionOf n s := rfl
@[simp] theorem qauxOf_setQaux_self (n : Nat) (f : QAux → QAux) (s : State) : qauxOf n (setQaux n f s) = f (qauxOf n s) := assocGet_modify_self _ _ _ _
theorem qauxOf_setQaux_ne (n m : Nat) (f : QAux → QAux) (s : State) (h : m ≠ n) : qauxOf m (setQaux n f s) = qauxOf m s := assocGet_modify_ne _ _ _ _ _ _ h
@[simp] theorem qauxOf_setF (n : Nat) (f : Fld) (v : Nat) (s : State) : qauxOf n (setF f v s) = qauxOf n s := rfl
@[simp] theorem qauxOf_emit (n : Nat) (o : Out) (s : State) : qauxOf n (emit o s) = qauxOf n s := rfl
@[simp] theorem cartAuxOf_setCart_self (n : Nat) (f : CartAux → CartAux) (s : State) : cartAuxOf n (setCart n f s) = f (cartAuxOf n s) := assocGet_modify_self _ _ _ _
theorem cartAuxOf_setCart_ne (n m : Nat) (f : CartAux → CartAux) (s : State) (h : m ≠ n) : cartAuxOf m (setCart n f s) = cartAuxOf m s := assocGet_modify_ne _ _ _ _ _ _ h
@[simp] theorem cartAuxOf_setF (n : Nat) (f : Fld) (v : Nat) (s : State) : cartAuxOf n (setF f v s) = cartAuxOf n s := rfl
@[simp] theorem cartAuxOf_emit (n : Nat) (o : Out) (s : State) : cartAuxOf n (emit o s) = cartAuxOf n s := rfl
@[simp] theorem muAuxOf_setMuAux_self (n : Nat) (f : MuAux → MuAux) (s : State) : muAuxOf n (setMuAux n f s) = f (muAuxOf n s) := assocGet_modify_self _ _ _ _
theorem muAuxOf_setMuAux_ne (n m : Nat) (f : MuAux → MuAux) (s : State) (h : m ≠ n) : muAuxOf m (setMuAux n f s) = muAuxOf m s := assocGet_modify_ne _ _ _ _ _ _ h
@[simp] theorem muAuxOf_setF (n : Nat) (f : Fld) (v : Nat) (s : State) : muAuxOf n (setF f v s) = muAuxOf n s := rfl
@[simp] theorem muAuxOf_emit (n : Nat) (o : Out) (s : State) : muAuxOf n (emit o s) = muAuxOf n s := rfl
@[simp] theorem dwAuxOf_setDw_self (n : Nat) (f : DwAux → DwAux) (s : State) : dwAuxOf n (setDw n f s) = f (dwAuxOf n s) := assocGet_modify_self _ _ _ _
theorem dwAuxOf_setDw_ne (n m : Nat) (f : DwAux → DwAux) (s : State) (h : m ≠ n) : dwAuxOf m (setDw n f s) = dwAuxOf m s := assocGet_modify_ne _ _ _ _ _ _ h
@[simp] theorem dwAuxOf_setF (n : Nat) (f : Fld) (v : Nat) (s : State) : dwAuxOf n (setF f v s) = dwAuxOf n s := rfl
@[simp] theorem dwAuxOf_emit (n : Nat) (o : Out) (s : State) : dwAuxOf n (emit o s) = dwAuxOf n s := rfl
@[simp] theorem ctxOf_setCtx_self (n : Nat) (f : CompCtx → CompCtx) (s : State) : ctxOf n (setCtx n f s) = f (ctxOf n s) := assocGet_modify_self _ _ _ _
theorem ctxOf_setCtx_ne (n m : Nat) (f : CompCtx → CompCtx) (s : State) (h : m ≠ n) : ctxOf m (setCtx n f s) = ctxOf m s := assocGet_modify_ne _ _ _ _ _ _ h
@[simp] theorem ctxOf_setF (n : Nat) (f : Fld) (v : Nat) (s : State) : ctxOf n (setF f v s) = ctxOf n s := rfl
@[simp] theorem ctxOf_emit (n : Nat) (o : Out) (s : State) : ctxOf n (emit o s) = ctxOf n s := rfl
@[simp] theorem hingeOf_setHinge_self (a b : Nat) (f : Hinge → Hinge) (s : State) : hingeOf a b (setHinge a b f s) = f (hingeOf a b s) :=
  assocGet_modify_self _ _ _ _
@[simp] theorem hingeOf_setF (a b : Nat) (f : Fld) (v : Nat) (s : State) : hingeOf a b (setF f v s) = hingeOf a b s := rfl

end Sys2Proof.Machine
end

