-- ==== Sys2Proof/Laws/Ops.lean ====
section
/-! SUPPORT. The shared operations of every family, each once: which fields of the state it can change, and which register fields it
leaves. -/

namespace Sys2Proof.Machine

set_option Elab.async false

@[simp] theorem forEach_nil {α : Type} (f : α → State → State) (s : State) : forEach [] f s = s := rfl
@[simp] theorem forEach_cons {α : Type} (x : α) (t : List α) (f : α → State → State) (s : State) :
    forEach (x :: t) f s = forEach t f (f x s) := rfl

/-- A fold keeps what each of its steps keeps. -/
theorem forEach_keep {α β : Type} (g : State → β) (l : List α) (f : α → State → State) (s : State)
    (h : ∀ x ∈ l, ∀ s, g (f x s) = g s) : g (forEach l f s) = g s := by
  induction l generalizing s with
  | nil => rfl
  | cons x t ih =>
    rw [forEach_cons, ih (f x s) (fun y hy => h y (List.mem_cons_of_mem _ hy))]
    exact h x List.mem_cons_self s

/-! Which fields of the state an operation can change. -/

/-- Setting a field changes register fields alone. -/
theorem setF_eq (f : Fld) (v : Nat) (s : State) : setF f v s = { s with flds := (setF f v s).flds } := rfl

/-- A fold of operations that change register fields alone changes register fields alone. -/
theorem forEach_eq_flds {α : Type} (l : List α) (f : α → State → State) (s : State)
    (h : ∀ x s, f x s = { s with flds := (f x s).flds }) : forEach l f s = { s with flds := (forEach l f s).flds } := by
  induction l generalizing s with
  | nil => rfl
  | cons x t ih =>
    rw [forEach_cons]
    have hu := ih (f x s)
    generalize forEach t f (f x s) = u at *
    rw [h x s] at hu
    exact hu

/-- Counting an event changes register fields alone. -/
theorem peep_eq (k u e i : Nat) (s : State) : peep k u e i s = { s with flds := (peep k u e i s).flds } := by
  unfold peep
  split
  · exact forEach_eq_flds _ _ _ (fun _ _ => rfl)
  · rfl

/-- Tracing changes register fields, the FIFO and the trace's own counts. -/
theorem trace_eq (c e r a b : Nat) (s : State) : trace c e r a b s = { s with
    flds := (trace c e r a b s).flds, fifo := (trace c e r a b s).fifo, traceSeq := (trace c e r a b s).traceSeq
    traceLost := (trace c e r a b s).traceLost } := by
  unfold trace lostRecord
  dsimp only
  split
  · split
    · cases s.traceLost <;> dsimp only <;> split <;> rfl
    · split <;> rfl
  · rfl

/-- Sending a message changes the boundary or the pending bits. -/
theorem sendMsix_eq (v : Nat) (s : State) : sendMsix v s = { s with out := (sendMsix v s).out, cfg := (sendMsix v s).cfg } := by
  unfold sendMsix
  split
  · rfl
  · split <;> rfl

/-- An error record changes register fields, the error log, the trace, the boundary, pending messages and ALERT_N. -/
theorem errRecord_eq (c v r k u : Nat) (d : List Nat) (s : State) : errRecord c v r k u d s = { s with
    flds := (errRecord c v r k u d s).flds, errlog := (errRecord c v r k u d s).errlog, errSeq := (errRecord c v r k u d s).errSeq
    fifo := (errRecord c v r k u d s).fifo, traceSeq := (errRecord c v r k u d s).traceSeq
    traceLost := (errRecord c v r k u d s).traceLost, out := (errRecord c v r k u d s).out, cfg := (errRecord c v r k u d s).cfg
    alertPulse := (errRecord c v r k u d s).alertPulse } := by
  unfold errRecord
  dsimp only
  generalize hs0 : @ite State _ (_) (satF GLB.ERRLOST_COUNT 1 (setF GLB.ERRHEAD_SLOT _ _)) _ = s0
  have h0 : s0 = { s with flds := s0.flds, errlog := s0.errlog, errSeq := s0.errSeq } := by
    rw [← hs0]; split <;> rfl
  generalize hs1 : trace 11 c r _ v s0 = s1
  have h1 : s1 = { s with flds := s1.flds, errlog := s1.errlog, errSeq := s1.errSeq, fifo := s1.fifo, traceSeq := s1.traceSeq
                          traceLost := s1.traceLost } := by
    rw [← hs1, trace_eq, h0]
  split
  · split
    · rw [sendMsix_eq, h1]; rfl
    · rw [h1]; rfl
  · split
    · rw [sendMsix_eq, h1]
    · rw [h1]

/-! Which register fields an operation leaves. -/

/-- The field is none of the peephole's and none of the error ring's pointers and counts. -/
def plain (f : Fld) : Prop := (f.key < 0x80000000 ∨ 0x84000000 ≤ f.key) ∧ (f.key < 0x1000 ∨ 0x1240 ≤ f.key)

theorem enabledCounters_lt (s : State) (c : Nat) (h : c ∈ enabledCounters s) : c < 0x1000 := by
  unfold enabledCounters at h
  simp only [List.mem_map, List.mem_filter, Bool.and_eq_true, decide_eq_true_eq] at h
  obtain ⟨p, ⟨-, ⟨⟨⟨h1, h2⟩, h3⟩, -⟩⟩, rfl⟩ := h
  omega

theorem getF_peep (g : Fld) (k u e i : Nat) (s : State) (h : plain g) : getF g (peep k u e i s) = getF g s := by
  unfold peep
  split
  · apply forEach_keep
    intro c hc t
    have := enabledCounters_lt s c ((List.mem_filter.mp hc).1)
    apply getF_setF_ne
    simp only [plain, Fld.key, PEEP.CNT_COUNT] at h ⊢
    omega
  · rfl

theorem getF_trace (g : Fld) (c e r a b : Nat) (s : State) (h : plain g) : getF g (trace c e r a b s) = getF g s := by
  have h1 : ∀ v (t : State), getF g (setF PEEP.TRSTAT_FILL v t) = getF g t := fun v t =>
    getF_setF_ne _ _ _ _ (by simp only [plain, Fld.key, PEEP.TRSTAT_FILL] at h ⊢; omega)
  have h2 : ∀ v (t : State), getF g (setF PEEP.TRLOST_COUNT v t) = getF g t := fun v t =>
    getF_setF_ne _ _ _ _ (by simp only [plain, Fld.key, PEEP.TRLOST_COUNT] at h ⊢; omega)
  unfold trace lostRecord tracePush traceDrop satF
  dsimp only
  split
  · split
    · cases s.traceLost <;> dsimp only <;> split <;> (try rw [h1]) <;> (try rw [h2]) <;> (try exact h1 _ _) <;> rfl
    · split <;> (try rw [h1]) <;> (try rw [h2]) <;> rfl
  · rfl

@[simp] theorem getF_sendMsix (g : Fld) (v : Nat) (s : State) : getF g (sendMsix v s) = getF g s := by
  unfold getF; rw [sendMsix_eq]

theorem getF_errRecord (g : Fld) (c v r k u : Nat) (d : List Nat) (s : State) (h : plain g) :
    getF g (errRecord c v r k u d s) = getF g s := by
  have h1 : ∀ v (t : State), getF g (setF GLB.ERRTAIL_SLOT v t) = getF g t := fun v t =>
    getF_setF_ne _ _ _ _ (by simp only [plain, Fld.key, GLB.ERRTAIL_SLOT] at h ⊢; omega)
  have h2 : ∀ v (t : State), getF g (setF GLB.ERRHEAD_SLOT v t) = getF g t := fun v t =>
    getF_setF_ne _ _ _ _ (by simp only [plain, Fld.key, GLB.ERRHEAD_SLOT] at h ⊢; omega)
  have h3 : ∀ v (t : State), getF g (setF GLB.ERRLOST_COUNT v t) = getF g t := fun v t =>
    getF_setF_ne _ _ _ _ (by simp only [plain, Fld.key, GLB.ERRLOST_COUNT] at h ⊢; omega)
  unfold errRecord satF
  dsimp only
  generalize hs0 : @ite State _ (_) (setF GLB.ERRLOST_COUNT _ (setF GLB.ERRHEAD_SLOT _ _)) _ = s0
  have h0 : getF g s0 = getF g s := by
    rw [← hs0]
    split
    · rw [h3, h2, h1]; rfl
    · rw [h1]; rfl
  have h4 : ∀ t : State, getF g t = getF g s → getF g (if v = 2 then emit (.aer true) { t with alertPulse := true } else t) = getF g s := by
    intro t ht; split <;> exact ht
  apply h4
  split
  · rw [getF_sendMsix, getF_trace _ _ _ _ _ _ _ h, h0]
  · rw [getF_trace _ _ _ _ _ _ _ h, h0]

/-- The field is plain and belongs neither to a queue nor to the counts of what is in flight. -/
def calm (f : Fld) : Prop := plain f ∧ (f.key < 0x10000000 ∨ 0x14000040 ≤ f.key)

/-- Counting what is in flight changes register fields alone. -/
theorem recount_eq (q : Option Nat) (s : State) : recount q s = { s with flds := (recount q s).flds } := by
  unfold recount; split <;> rfl

theorem getF_recount (g : Fld) (q : Option Nat) (s : State) (h : calm g) (hq : ∀ n ∈ q, n < 256) : getF g (recount q s) = getF g s := by
  obtain ⟨-, h⟩ := h
  have h1 : ∀ v (t : State), getF g (setF CMDG.GSTAT_INFLIGHT v t) = getF g t := fun v t =>
    getF_setF_ne _ _ _ _ (by simp only [Fld.key, CMDG.GSTAT_INFLIGHT] at h ⊢; omega)
  have h2 : ∀ v (t : State), getF g (setF CMDG.GSTAT_COLLS v t) = getF g t := fun v t =>
    getF_setF_ne _ _ _ _ (by simp only [Fld.key, CMDG.GSTAT_COLLS] at h ⊢; omega)
  unfold recount recountQueue
  cases q with
  | none => dsimp only; rw [h2, h1]
  | some n =>
    have hn : n < 256 := hq n rfl
    have h3 : ∀ v (t : State), getF g (setF (CMDQ.QSTAT_INFLIGHT n) v t) = getF g t := fun v t =>
      getF_setF_ne _ _ _ _ (by simp only [Fld.key, CMDQ.QSTAT_INFLIGHT] at h ⊢; omega)
    have h4 : ∀ v (t : State), getF g (setF (CMDQ.QSTAT_WAITING n) v t) = getF g t := fun v t =>
      getF_setF_ne _ _ _ _ (by simp only [Fld.key, CMDQ.QSTAT_WAITING] at h ⊢; omega)
    dsimp only; rw [h4, h3, h2, h1]

/-- A queue's error leaves every calm field. -/
theorem getF_queueError (g : Fld) (q e : Nat) (n : Option (Nat × Nat)) (s : State) (h : calm g) (hq : q < 256) :
    getF g (queueError q e n s) = getF g s := by
  obtain ⟨hp, h⟩ := h
  have h1 : ∀ v (t : State), getF g (setF (CMDQ.QSTAT_STATE q) v t) = getF g t := fun v t =>
    getF_setF_ne _ _ _ _ (by simp only [Fld.key, CMDQ.QSTAT_STATE] at h ⊢; omega)
  have h2 : ∀ v (t : State), getF g (setF (CMDQ.QSTAT_ERR q) v t) = getF g t := fun v t =>
    getF_setF_ne _ _ _ _ (by simp only [Fld.key, CMDQ.QSTAT_ERR] at h ⊢; omega)
  have h3 : ∀ v (t : State), getF g (setF (CMDQ.QSTAT_LOST q) v t) = getF g t := fun v t =>
    getF_setF_ne _ _ _ _ (by simp only [Fld.key, CMDQ.QSTAT_LOST] at h ⊢; omega)
  unfold queueError satF
  dsimp only
  rw [getF_errRecord _ _ _ _ _ _ _ _ hp]
  split
  · rw [h3, h1, h2]
  · rw [h1, h2]

@[simp] theorem getF_queueIrq (g : Fld) (q : Nat) (s : State) : getF g (queueIrq q s) = getF g s := by
  unfold queueIrq; rw [getF_setQaux, getF_sendMsix]

@[simp] theorem getF_recordIrq (g : Fld) (q : Nat) (i : Bool) (st : Nat) (s : State) : getF g (recordIrq q i st s) = getF g s := by
  unfold recordIrq
  dsimp only
  split
  · exact getF_queueIrq g q s
  · rfl

/-- A completion record leaves every calm field. -/
theorem getF_putRecord (g : Fld) (q : Nat) (r : DoneRec) (s : State) (h : calm g) (hq : q < 256) : getF g (putRecord q r s) = getF g s := by
  have hk := h.2
  have h1 : ∀ v (t : State), getF g (setF (CMDQ.QPTR_CQTAIL q) v t) = getF g t := fun v t =>
    getF_setF_ne _ _ _ _ (by simp only [Fld.key, CMDQ.QPTR_CQTAIL] at hk ⊢; omega)
  have h2 : ∀ v (t : State), getF g (setF (CMDQ.QDONE_COUNT q) v t) = getF g t := fun v t =>
    getF_setF_ne _ _ _ _ (by simp only [Fld.key, CMDQ.QDONE_COUNT] at hk ⊢; omega)
  unfold putRecord
  dsimp only
  rw [getF_recordIrq, getF_peep _ _ _ _ _ _ h.1]
  unfold addF
  rw [h2]
  split
  · rw [getF_setQaux, h1]; rfl
  · rw [h1]; rfl

theorem getF_offerRecord (g : Fld) (q : Nat) (r : DoneRec) (s : State) (h : calm g) (hq : q < 256) :
    getF g (offerRecord q r s) = getF g s := by
  have hk := h.2
  have h3 : ∀ v (t : State), getF g (setF (CMDQ.QSTAT_LOST q) v t) = getF g t := fun v t =>
    getF_setF_ne _ _ _ _ (by simp only [Fld.key, CMDQ.QSTAT_LOST] at hk ⊢; omega)
  unfold offerRecord
  split
  · rw [getF_errRecord _ _ _ _ _ _ _ _ h.1]; exact h3 _ _
  · split
    · rw [holdRecord, getF_setQaux]
    · split
      · exact getF_queueError _ _ _ _ _ h hq
      · exact getF_putRecord _ _ _ _ h hq

theorem getF_writeRecord (g : Fld) (q : Nat) (e : InFlight) (st f r c t : Nat) (s : State) (h : calm g) (hq : q < 256) :
    getF g (writeRecord q e st f r c t s) = getF g s := getF_offerRecord _ _ _ _ h hq

/-- What a completion does first: a snapshot of the phase counters after a SWEEP, the release of the check units. -/
def closing (e : InFlight) (s : State) : State := releaseChecks e.id (if e.opcode = 5 && flag TRN.PHCTL_AUTOSNAP s then snapPhases s else s)

theorem snapPhases_eq (s : State) : snapPhases s = { s with flds := (snapPhases s).flds, phLive := (snapPhases s).phLive } := by
  unfold snapPhases
  rw [forEach_eq_flds _ _ _ (fun _ _ => rfl)]

theorem releaseChecks_eq (id : Nat) (s : State) :
    releaseChecks id s = { s with flds := (releaseChecks id s).flds, ckOwner := (releaseChecks id s).ckOwner } := by
  unfold releaseChecks
  rw [forEach_eq_flds _ _ _ (fun _ _ => rfl)]

/-- The first part of a completion changes register fields, the live phase counters and the owners of check units alone. -/
theorem closing_eq (e : InFlight) (s : State) : closing e s =
    { s with flds := (closing e s).flds, phLive := (closing e s).phLive, ckOwner := (closing e s).ckOwner } := by
  unfold closing
  rw [releaseChecks_eq]
  split
  · rw [snapPhases_eq]
  · rfl

/-- The field is none of the reports of the phase counters. -/
def noReport (f : Fld) : Prop := f.key < 0x30010000 ∨ 0x30011400 ≤ f.key

theorem getF_closing (g : Fld) (e : InFlight) (s : State) (h : noReport g) (hc : ∀ p ∈ s.ckOwner, p.2 ≠ e.id) :
    getF g (closing e s) = getF g s := by
  have h1 : ∀ t : State, (∀ p ∈ t.ckOwner, p.2 ≠ e.id) → getF g (releaseChecks e.id t) = getF g t := by
    intro t ht
    unfold releaseChecks
    rw [List.filter_eq_nil_iff.2 (fun p hp => by simpa using ht p hp)]
    rfl
  have h2 : getF g (snapPhases s) = getF g s := by
    have h0 : ∀ (x : State) l, getF g { x with phLive := l } = getF g x := fun _ _ => rfl
    unfold snapPhases
    rw [h0]
    apply forEach_keep
    intro i hi t
    have := List.mem_range.1 hi
    apply getF_setF_ne
    simp only [noReport, Fld.key, TRN.PHREP_COUNT] at h ⊢
    omega
  unfold closing
  split
  · rw [h1 _ (by rw [snapPhases_eq]; exact hc), h2]
  · exact h1 s hc

/-- A completion leaves every calm field. -/
theorem getF_finish (g : Fld) (e : InFlight) (st f r c : Nat) (s : State) (h : calm g) (hp : noReport g)
    (hc : ∀ p ∈ s.ckOwner, p.2 ≠ e.id) (hq : ∀ n ∈ e.queue, n < 256) : getF g (finish e st f r c s) = getF g s := by
  unfold finish
  dsimp only
  rw [getF_recount _ _ _ h hq, getF_trace _ _ _ _ _ _ _ h.1]
  cases hh : e.queue with
  | none => exact getF_closing g e s hp hc
  | some q =>
    dsimp only
    rw [getF_writeRecord _ _ _ _ _ _ _ _ _ h (hq q hh)]; exact getF_closing g e s hp hc

/-! What the shared operations leave of the state. -/

@[simp] theorem peep_inflight (k u e i : Nat) (s : State) : (peep k u e i s).inflight = s.inflight := by rw [peep_eq]
@[simp] theorem trace_inflight (c e r a b : Nat) (s : State) : (trace c e r a b s).inflight = s.inflight := by rw [trace_eq]
@[simp] theorem sendMsix_inflight (v : Nat) (s : State) : (sendMsix v s).inflight = s.inflight := by rw [sendMsix_eq]
@[simp] theorem errRecord_inflight (c v r k u : Nat) (d : List Nat) (s : State) : (errRecord c v r k u d s).inflight = s.inflight := by rw [errRecord_eq]
@[simp] theorem recount_inflight (q : Option Nat) (s : State) : (recount q s).inflight = s.inflight := by rw [recount_eq]
@[simp] theorem queueError_inflight (q e : Nat) (n : Option (Nat × Nat)) (s : State) : (queueError q e n s).inflight = s.inflight := by
  unfold queueError satF; dsimp only; rw [errRecord_inflight]; split <;> rfl
@[simp] theorem queueIrq_inflight (q : Nat) (s : State) : (queueIrq q s).inflight = s.inflight := by unfold queueIrq; rw [setQaux_inflight, sendMsix_inflight]
@[simp] theorem recordIrq_inflight (q : Nat) (i : Bool) (st : Nat) (s : State) : (recordIrq q i st s).inflight = s.inflight := by
  unfold recordIrq; dsimp only; split
  · exact queueIrq_inflight q s
  · rfl
@[simp] theorem putRecord_inflight (q : Nat) (r : DoneRec) (s : State) : (putRecord q r s).inflight = s.inflight := by
  unfold putRecord addF; dsimp only; rw [recordIrq_inflight, peep_inflight, setF_inflight]; split <;> rfl
@[simp] theorem offerRecord_inflight (q : Nat) (r : DoneRec) (s : State) : (offerRecord q r s).inflight = s.inflight := by
  unfold offerRecord satF
  split
  · rw [errRecord_inflight]; rfl
  · split
    · rfl
    · split
      · exact queueError_inflight _ _ _ _
      · exact putRecord_inflight _ _ _
@[simp] theorem writeRecord_inflight (q : Nat) (e : InFlight) (st f r c t : Nat) (s : State) : (writeRecord q e st f r c t s).inflight = s.inflight :=
  offerRecord_inflight _ _ _

@[simp] theorem peep_mem (k u e i : Nat) (s : State) : (peep k u e i s).mem = s.mem := by rw [peep_eq]
@[simp] theorem trace_mem (c e r a b : Nat) (s : State) : (trace c e r a b s).mem = s.mem := by rw [trace_eq]
@[simp] theorem sendMsix_mem (v : Nat) (s : State) : (sendMsix v s).mem = s.mem := by rw [sendMsix_eq]
@[simp] theorem errRecord_mem (c v r k u : Nat) (d : List Nat) (s : State) : (errRecord c v r k u d s).mem = s.mem := by rw [errRecord_eq]
@[simp] theorem recount_mem (q : Option Nat) (s : State) : (recount q s).mem = s.mem := by rw [recount_eq]
@[simp] theorem queueError_mem (q e : Nat) (n : Option (Nat × Nat)) (s : State) : (queueError q e n s).mem = s.mem := by
  unfold queueError satF; dsimp only; rw [errRecord_mem]; split <;> rfl
@[simp] theorem queueIrq_mem (q : Nat) (s : State) : (queueIrq q s).mem = s.mem := by unfold queueIrq; rw [setQaux_mem, sendMsix_mem]
@[simp] theorem recordIrq_mem (q : Nat) (i : Bool) (st : Nat) (s : State) : (recordIrq q i st s).mem = s.mem := by
  unfold recordIrq; dsimp only; split
  · exact queueIrq_mem q s
  · rfl
@[simp] theorem putRecord_mem (q : Nat) (r : DoneRec) (s : State) : (putRecord q r s).mem = s.mem := by
  unfold putRecord addF; dsimp only; rw [recordIrq_mem, peep_mem, setF_mem]; split <;> rfl
@[simp] theorem offerRecord_mem (q : Nat) (r : DoneRec) (s : State) : (offerRecord q r s).mem = s.mem := by
  unfold offerRecord satF
  split
  · rw [errRecord_mem]; rfl
  · split
    · rfl
    · split
      · exact queueError_mem _ _ _ _
      · exact putRecord_mem _ _ _
@[simp] theorem writeRecord_mem (q : Nat) (e : InFlight) (st f r c t : Nat) (s : State) : (writeRecord q e st f r c t s).mem = s.mem :=
  offerRecord_mem _ _ _

@[simp] theorem peep_image (k u e i : Nat) (s : State) : (peep k u e i s).image = s.image := by rw [peep_eq]
@[simp] theorem trace_image (c e r a b : Nat) (s : State) : (trace c e r a b s).image = s.image := by rw [trace_eq]
@[simp] theorem sendMsix_image (v : Nat) (s : State) : (sendMsix v s).image = s.image := by rw [sendMsix_eq]
@[simp] theorem errRecord_image (c v r k u : Nat) (d : List Nat) (s : State) : (errRecord c v r k u d s).image = s.image := by rw [errRecord_eq]
@[simp] theorem recount_image (q : Option Nat) (s : State) : (recount q s).image = s.image := by rw [recount_eq]
@[simp] theorem queueError_image (q e : Nat) (n : Option (Nat × Nat)) (s : State) : (queueError q e n s).image = s.image := by
  unfold queueError satF; dsimp only; rw [errRecord_image]; split <;> rfl
@[simp] theorem queueIrq_image (q : Nat) (s : State) : (queueIrq q s).image = s.image := by unfold queueIrq; rw [setQaux_image, sendMsix_image]
@[simp] theorem recordIrq_image (q : Nat) (i : Bool) (st : Nat) (s : State) : (recordIrq q i st s).image = s.image := by
  unfold recordIrq; dsimp only; split
  · exact queueIrq_image q s
  · rfl
@[simp] theorem putRecord_image (q : Nat) (r : DoneRec) (s : State) : (putRecord q r s).image = s.image := by
  unfold putRecord addF; dsimp only; rw [recordIrq_image, peep_image, setF_image]; split <;> rfl
@[simp] theorem offerRecord_image (q : Nat) (r : DoneRec) (s : State) : (offerRecord q r s).image = s.image := by
  unfold offerRecord satF
  split
  · rw [errRecord_image]; rfl
  · split
    · rfl
    · split
      · exact queueError_image _ _ _ _
      · exact putRecord_image _ _ _
@[simp] theorem writeRecord_image (q : Nat) (e : InFlight) (st f r c t : Nat) (s : State) : (writeRecord q e st f r c t s).image = s.image :=
  offerRecord_image _ _ _

@[simp] theorem peep_nextId (k u e i : Nat) (s : State) : (peep k u e i s).nextId = s.nextId := by rw [peep_eq]
@[simp] theorem trace_nextId (c e r a b : Nat) (s : State) : (trace c e r a b s).nextId = s.nextId := by rw [trace_eq]
@[simp] theorem sendMsix_nextId (v : Nat) (s : State) : (sendMsix v s).nextId = s.nextId := by rw [sendMsix_eq]
@[simp] theorem errRecord_nextId (c v r k u : Nat) (d : List Nat) (s : State) : (errRecord c v r k u d s).nextId = s.nextId := by rw [errRecord_eq]
@[simp] theorem recount_nextId (q : Option Nat) (s : State) : (recount q s).nextId = s.nextId := by rw [recount_eq]
@[simp] theorem queueError_nextId (q e : Nat) (n : Option (Nat × Nat)) (s : State) : (queueError q e n s).nextId = s.nextId := by
  unfold queueError satF; dsimp only; rw [errRecord_nextId]; split <;> rfl
@[simp] theorem queueIrq_nextId (q : Nat) (s : State) : (queueIrq q s).nextId = s.nextId := by unfold queueIrq; rw [setQaux_nextId, sendMsix_nextId]
@[simp] theorem recordIrq_nextId (q : Nat) (i : Bool) (st : Nat) (s : State) : (recordIrq q i st s).nextId = s.nextId := by
  unfold recordIrq; dsimp only; split
  · exact queueIrq_nextId q s
  · rfl
@[simp] theorem putRecord_nextId (q : Nat) (r : DoneRec) (s : State) : (putRecord q r s).nextId = s.nextId := by
  unfold putRecord addF; dsimp only; rw [recordIrq_nextId, peep_nextId, setF_nextId]; split <;> rfl
@[simp] theorem offerRecord_nextId (q : Nat) (r : DoneRec) (s : State) : (offerRecord q r s).nextId = s.nextId := by
  unfold offerRecord satF
  split
  · rw [errRecord_nextId]; rfl
  · split
    · rfl
    · split
      · exact queueError_nextId _ _ _ _
      · exact putRecord_nextId _ _ _
@[simp] theorem writeRecord_nextId (q : Nat) (e : InFlight) (st f r c t : Nat) (s : State) : (writeRecord q e st f r c t s).nextId = s.nextId :=
  offerRecord_nextId _ _ _

@[simp] theorem peep_progs (k u e i : Nat) (s : State) : (peep k u e i s).progs = s.progs := by rw [peep_eq]
@[simp] theorem trace_progs (c e r a b : Nat) (s : State) : (trace c e r a b s).progs = s.progs := by rw [trace_eq]
@[simp] theorem sendMsix_progs (v : Nat) (s : State) : (sendMsix v s).progs = s.progs := by rw [sendMsix_eq]
@[simp] theorem errRecord_progs (c v r k u : Nat) (d : List Nat) (s : State) : (errRecord c v r k u d s).progs = s.progs := by rw [errRecord_eq]
@[simp] theorem recount_progs (q : Option Nat) (s : State) : (recount q s).progs = s.progs := by rw [recount_eq]
@[simp] theorem queueError_progs (q e : Nat) (n : Option (Nat × Nat)) (s : State) : (queueError q e n s).progs = s.progs := by
  unfold queueError satF; dsimp only; rw [errRecord_progs]; split <;> rfl
@[simp] theorem queueIrq_progs (q : Nat) (s : State) : (queueIrq q s).progs = s.progs := by unfold queueIrq; rw [setQaux_progs, sendMsix_progs]
@[simp] theorem recordIrq_progs (q : Nat) (i : Bool) (st : Nat) (s : State) : (recordIrq q i st s).progs = s.progs := by
  unfold recordIrq; dsimp only; split
  · exact queueIrq_progs q s
  · rfl
@[simp] theorem putRecord_progs (q : Nat) (r : DoneRec) (s : State) : (putRecord q r s).progs = s.progs := by
  unfold putRecord addF; dsimp only; rw [recordIrq_progs, peep_progs, setF_progs]; split <;> rfl
@[simp] theorem offerRecord_progs (q : Nat) (r : DoneRec) (s : State) : (offerRecord q r s).progs = s.progs := by
  unfold offerRecord satF
  split
  · rw [errRecord_progs]; rfl
  · split
    · rfl
    · split
      · exact queueError_progs _ _ _ _
      · exact putRecord_progs _ _ _
@[simp] theorem writeRecord_progs (q : Nat) (e : InFlight) (st f r c t : Nat) (s : State) : (writeRecord q e st f r c t s).progs = s.progs :=
  offerRecord_progs _ _ _

/-- What is in flight after a completion: everything but the descriptor. -/
@[simp] theorem finish_inflight (e : InFlight) (st f r c : Nat) (s : State) :
    (finish e st f r c s).inflight = s.inflight.filter (fun x => decide (x.id ≠ e.id)) := by
  unfold finish
  dsimp only
  rw [recount_inflight, trace_inflight]
  rw [← closing, closing_eq]
  cases e.queue with
  | none => rfl
  | some q => rw [writeRecord_inflight]

@[simp] theorem finish_mem (e : InFlight) (st f r c : Nat) (s : State) : (finish e st f r c s).mem = s.mem := by
  unfold finish; dsimp only; rw [recount_mem, trace_mem]
  rw [← closing, closing_eq]
  cases e.queue with
  | none => rfl
  | some q => rw [writeRecord_mem]
@[simp] theorem finish_image (e : InFlight) (st f r c : Nat) (s : State) : (finish e st f r c s).image = s.image := by
  unfold finish; dsimp only; rw [recount_image, trace_image]
  rw [← closing, closing_eq]
  cases e.queue with
  | none => rfl
  | some q => rw [writeRecord_image]
@[simp] theorem finish_nextId (e : InFlight) (st f r c : Nat) (s : State) : (finish e st f r c s).nextId = s.nextId := by
  unfold finish; dsimp only; rw [recount_nextId, trace_nextId]
  rw [← closing, closing_eq]
  cases e.queue with
  | none => rfl
  | some q => rw [writeRecord_nextId]
@[simp] theorem finish_progs (e : InFlight) (st f r c : Nat) (s : State) : (finish e st f r c s).progs = s.progs := by
  unfold finish; dsimp only; rw [recount_progs, trace_progs]
  rw [← closing, closing_eq]
  cases e.queue with
  | none => rfl
  | some q => rw [writeRecord_progs]

/-! The decoding of descriptors. -/

/-- A descriptor given an opcode has that opcode (R569). -/
theorem dOpcode_withOpcode (op : Nat) (d : Desc) : dOpcode (withOpcode op d) = op % 256 := by
  have h : (2 : Nat) ^ 8 ∣ 2 ^ 512 := ⟨2 ^ 504, by rw [← Nat.pow_add]⟩
  simp only [dOpcode, withOpcode, dput, dfield, bitsOf, BitVec.toNat_ofNat, Nat.mul_zero, Nat.zero_add, Nat.pow_zero, Nat.div_one,
    Nat.mul_one, Nat.mod_one, Nat.add_zero]
  rw [Nat.mod_mod_of_dvd _ h, Nat.mul_comm, Nat.mul_add_mod, Nat.mod_mod]
  all_goals rfl

/-- A field of a descriptor above its first byte leaves the opcode. -/
theorem dOpcode_dput (d : Desc) (o b n v : Nat) (h : 8 ≤ 8 * o + b) : dOpcode (dput d o b n v) = dOpcode d := by
  obtain ⟨k, hk⟩ : ∃ k, 8 * o + b = 8 + k := ⟨8 * o + b - 8, by omega⟩
  have h0 : (2 : Nat) ^ 8 ∣ 2 ^ 512 := ⟨2 ^ 504, by rw [← Nat.pow_add]⟩
  have h1 : (2 : Nat) ^ 8 ∣ 2 ^ (8 * o + b) := ⟨2 ^ k, by rw [hk, Nat.pow_add]⟩
  have h2 : (2 : Nat) ^ 8 ∣ 2 ^ (8 * o + b + n) := Nat.dvd_trans h1 ⟨2 ^ n, by rw [Nat.pow_add]⟩
  simp only [dOpcode, dput, dfield, bitsOf, BitVec.toNat_ofNat, Nat.mul_zero, Nat.zero_add, Nat.pow_zero, Nat.div_one]
  rw [Nat.mod_mod_of_dvd _ h0, Nat.add_mod, Nat.mod_mod_of_dvd _ h1, Nat.add_mod (_ * _) (_ * _)]
  have e1 : d.toNat / 2 ^ (8 * o + b + n) * 2 ^ (8 * o + b + n) % 2 ^ 8 = 0 := Nat.mod_eq_zero_of_dvd (Nat.dvd_mul_left_of_dvd h2 _)
  have e2 : v % 2 ^ n * 2 ^ (8 * o + b) % 2 ^ 8 = 0 := Nat.mod_eq_zero_of_dvd (Nat.dvd_mul_left_of_dvd h1 _)
  rw [e1, e2]
  omega

end Sys2Proof.Machine
end

