-- ==== Sys2Proof/Laws/OtpOps.lean ====
section
/-! SUPPORT. No operation of Machine/Ops.lean touches the one-time programmable memory. -/

namespace Sys2Proof.Machine

set_option Elab.async false

@[simp] theorem otp_setF (f : Fld) (v : Nat) (s : State) :
    (setF f v s).otp = s.otp := by
  unfold setF; grind []

@[simp] theorem otp_addF (f : Fld) (n : Nat) (s : State) :
    (addF f n s).otp = s.otp := by
  unfold addF; grind [otp_setF]

@[simp] theorem otp_satF (f : Fld) (n : Nat) (s : State) :
    (satF f n s).otp = s.otp := by
  unfold satF; grind [otp_setF]

@[simp] theorem otp_orF (f : Fld) (n : Nat) (s : State) :
    (orF f n s).otp = s.otp := by
  unfold orF; grind [otp_setF]

@[simp] theorem otp_resetFields (p : Nat → Bool) (s : State) :
    (resetFields p s).otp = s.otp := by
  unfold resetFields; grind []

@[simp] theorem otp_resetF (f : Fld) (s : State) :
    (resetF f s).otp = s.otp := by
  unfold resetF; grind [otp_setF]

@[simp] theorem otp_dropHeld (a : Nat) (s : State) :
    (dropHeld a s).otp = s.otp := by
  unfold dropHeld; grind []

@[simp] theorem otp_forEach {α : Type} (l : List α) (f : α → State → State) (s : State) (h_f : ∀ x0 x1, (f x0 x1).otp = x1.otp) :
    (forEach l f s).otp = s.otp := forEach_eq (fun s => s.otp) l f s h_f

@[simp] theorem otp_foldl {α β : Type} (l : List α) (f : State × β → α → State × β) (a : State × β)
    (h_f : ∀ b x, (f b x).1.otp = b.1.otp) : (l.foldl f a).1.otp = a.1.otp := foldl_fst_eq (fun s => s.otp) l f a h_f

@[simp] theorem otp_emit (o : Out) (s : State) :
    (emit o s).otp = s.otp := by
  unfold emit; grind []

@[simp] theorem otp_setRegion (n : Nat) (f : Region → Region) (s : State) :
    (setRegion n f s).otp = s.otp := by
  unfold setRegion; grind []

@[simp] theorem otp_setHinge (a : Nat) (b : Nat) (f : Hinge → Hinge) (s : State) :
    (setHinge a b f s).otp = s.otp := by
  unfold setHinge; grind []

@[simp] theorem otp_drawFree (s : State) :
    (drawFree s).2.otp = s.otp := by
  unfold drawFree; grind []

@[simp] theorem otp_drawRandom (n : Nat) (s : State) :
    (drawRandom n s).2.otp = s.otp := by
  unfold drawRandom; grind []

@[simp] theorem otp_sendMsix (v : Nat) (s : State) :
    (sendMsix v s).otp = s.otp := by
  unfold sendMsix; grind [otp_emit]

@[simp] theorem otp_peep (kind : Nat) (unit : Nat) (event : Nat) (inc : Nat) (s : State) :
    (peep kind unit event inc s).otp = s.otp := by
  unfold peep; grind [otp_addF, otp_forEach]

@[simp] theorem otp_traceDrop (seq : Nat) (s : State) :
    (traceDrop seq s).otp = s.otp := by
  unfold traceDrop; grind [otp_satF]

@[simp] theorem otp_tracePush (r : TraceRec) (s : State) :
    (tracePush r s).otp = s.otp := by
  unfold tracePush; grind [otp_setF]

theorem otp_lostRecord (s : State) : ∀ r t, lostRecord s = some (r, t) → t.otp = s.otp := by
  intro r t ht; unfold lostRecord at ht; grind

@[simp] theorem otp_trace (cls : Nat) (event : Nat) (region : Nat) (arg0 : Nat) (arg1 : Nat) (s : State) :
    (trace cls event region arg0 arg1 s).otp = s.otp := by
  unfold trace; grind [otp_traceDrop, otp_tracePush, otp_lostRecord]

@[simp] theorem otp_errRecord (cls : Nat) (sev : Nat) (region : Nat) (code : Nat) (unit : Nat) (detail : List Nat) (s : State) :
    (errRecord cls sev region code unit detail s).otp = s.otp := by
  unfold errRecord; grind [otp_setF, otp_satF, otp_emit, otp_sendMsix, otp_trace]

@[simp] theorem otp_regAccessError (addr : Nat) (s : State) :
    (regAccessError addr s).otp = s.otp := by
  unfold regAccessError; grind [otp_errRecord]

@[simp] theorem otp_enterFatal (cause : Nat) (region : Nat) (s : State) :
    (enterFatal cause region s).otp = s.otp := by
  unfold enterFatal; grind [otp_setF, otp_errRecord]

@[simp] theorem otp_hostWrite (k : BlkReach) (f : State → State) (s : State) (h_f : ∀ x0, (f x0).otp = x0.otp) :
    (hostWrite k f s).otp = s.otp := by
  unfold hostWrite; grind [otp_emit]

@[simp] theorem otp_setFlight (id : Nat) (f : InFlight → InFlight) (s : State) :
    (setFlight id f s).otp = s.otp := by
  unfold setFlight; grind []

@[simp] theorem otp_setPart (id : Nat) (p : Nat) (f : Part → Part) (s : State) :
    (setPart id p f s).otp = s.otp := by
  unfold setPart; grind [otp_setFlight]

end Sys2Proof.Machine
end

