-- ==== Sys2Proof/Laws/OtpQueue.lean ====
section
/-! SUPPORT. No operation of Machine/Queue.lean touches the one-time programmable memory. -/

namespace Sys2Proof.Machine

set_option Elab.async false

@[simp] theorem otp_setQaux (q : Nat) (f : QAux → QAux) (s : State) :
    (setQaux q f s).otp = s.otp := by
  unfold setQaux; grind []

@[simp] theorem otp_recountQueue (q : Nat) (s : State) :
    (recountQueue q s).otp = s.otp := by
  unfold recountQueue; grind [otp_setF]

@[simp] theorem otp_recount (q : Option Nat) (s : State) :
    (recount q s).otp = s.otp := by
  unfold recount; grind [otp_setF, otp_recountQueue]

@[simp] theorem otp_queueError (q : Nat) (err : Nat) (lost : Option (Nat × Nat)) (s : State) :
    (queueError q err lost s).otp = s.otp := by
  unfold queueError; grind [otp_setF, otp_satF, otp_errRecord]

@[simp] theorem otp_queueIrq (q : Nat) (s : State) :
    (queueIrq q s).otp = s.otp := by
  unfold queueIrq; grind [otp_sendMsix, otp_setQaux]

@[simp] theorem otp_recordIrq (q : Nat) (irq : Bool) (status : Nat) (s : State) :
    (recordIrq q irq status s).otp = s.otp := by
  unfold recordIrq; grind [otp_setQaux, otp_queueIrq]

@[simp] theorem otp_putRecord (q : Nat) (r : DoneRec) (s : State) :
    (putRecord q r s).otp = s.otp := by
  unfold putRecord; grind [otp_setF, otp_addF, otp_emit, otp_peep, otp_setQaux, otp_recordIrq]

@[simp] theorem otp_holdRecord (q : Nat) (r : DoneRec) (s : State) :
    (holdRecord q r s).otp = s.otp := by
  unfold holdRecord; grind [otp_setQaux]

@[simp] theorem otp_offerRecord (q : Nat) (r : DoneRec) (s : State) :
    (offerRecord q r s).otp = s.otp := by
  unfold offerRecord; grind [otp_errRecord, otp_satF, otp_holdRecord, otp_queueError, otp_putRecord]

@[simp] theorem otp_writeRecord (q : Nat) (e : InFlight) (status : Nat) (flags : Nat) (replay : Nat) (check : Nat) (tier : Nat) (s : State) :
    (writeRecord q e status flags replay check tier s).otp = s.otp := by
  unfold writeRecord; grind [otp_offerRecord]

@[simp] theorem otp_snapPhases (s : State) :
    (snapPhases s).otp = s.otp := by
  unfold snapPhases; grind [otp_setF, otp_forEach]

@[simp] theorem otp_releaseChecks (id : Nat) (s : State) :
    (releaseChecks id s).otp = s.otp := by
  unfold releaseChecks; grind [otp_setF, otp_forEach]

@[simp] theorem otp_finish (e : InFlight) (status : Nat) (flags : Nat) (replay : Nat) (check : Nat) (s : State) :
    (finish e status flags replay check s).otp = s.otp := by
  unfold finish; grind [otp_trace, otp_recount, otp_writeRecord, otp_snapPhases, otp_releaseChecks]

@[simp] theorem otp_completeWaits (s : State) :
    (completeWaits s).otp = s.otp := by
  unfold completeWaits; grind [otp_forEach, otp_finish]

@[simp] theorem otp_setFence (f : Nat) (v : Nat) (event : Nat) (s : State) :
    (setFence f v event s).otp = s.otp := by
  unfold setFence; grind [otp_setF, otp_trace, otp_completeWaits]

@[simp] theorem otp_breakPair (port : Nat) (s : State) :
    (breakPair port s).otp = s.otp := by
  unfold breakPair; grind [otp_finish]

@[simp] theorem otp_enterFlight (port : Nat) (q : Nat) (seq : Nat) (entry : Nat) (fromProgram : Bool) (d : Desc) (k : InFlight → State → State) (s : State) (h_k : ∀ x0 x1, (k x0 x1).otp = x1.otp) :
    (enterFlight port q seq entry fromProgram d k s).otp = s.otp := by
  unfold enterFlight; grind [otp_peep, otp_trace, otp_recount, otp_finish, otp_breakPair]

@[simp] theorem otp_failCheck (e : InFlight) (status : Nat) (check : Nat) (s : State) :
    (failCheck e status check s).otp = s.otp := by
  unfold failCheck; grind [otp_peep, otp_finish]

@[simp] theorem otp_takeRing (q : QueueNo) (d : Desc) (k : InFlight → State → State) (s : State) (h_k : ∀ x0 x1, (k x0 x1).otp = x1.otp) :
    (takeRing q d k s).otp = s.otp := by
  unfold takeRing; grind [otp_setF, otp_emit, otp_peep, otp_queueError, otp_enterFlight]

@[simp] theorem otp_validated (e : InFlight) (cs : List (Nat × Nat × Bool)) (k : State → State) (s : State) (h_k : ∀ x0, (k x0).otp = x0.otp) :
    (validated e cs k s).otp = s.otp := by
  unfold validated; grind [otp_failCheck]

@[simp] theorem otp_promote (n fuel : Nat) (s : State) : (promote n fuel s).otp = s.otp := by
  induction fuel generalizing s with
  | zero => rfl
  | succ k ih => unfold promote; grind

@[simp] theorem otp_fillSequencer (n : Nat) (s : State) :
    (fillSequencer n s).otp = s.otp := by
  unfold fillSequencer; grind [otp_setF, otp_promote]

@[simp] theorem otp_launch (e : InFlight) (parts : List Part) (s : State) :
    (launch e parts s).otp = s.otp := by
  unfold launch; grind [otp_forEach, otp_setFlight, otp_fillSequencer]

@[simp] theorem otp_endPart (id : Nat) (p : Nat) (status : Nat) (flags : Nat) (replay : Nat) (s : State) :
    (endPart id p status flags replay s).otp = s.otp := by
  unfold endPart; grind [otp_setPart]

end Sys2Proof.Machine
end

