-- ==== Sys2Proof/Laws/OtpPanes.lean ====
section
/-! SUPPORT. No operation of Machine/Panes.lean touches the one-time programmable memory. -/

namespace Sys2Proof.Machine

set_option Elab.async false

@[simp] theorem otp_memWrite (a : Nat) (bs : List Byte) (s : State) :
    (memWrite a bs s).otp = s.otp := by
  unfold memWrite; grind []

@[simp] theorem otp_memPutCells (a : Nat) (n : Nat) (cs : List Host.Cell) (s : State) :
    (memPutCells a n cs s).otp = s.otp := by
  unfold memPutCells; grind []

@[simp] theorem otp_poisonLine (l : Nat) (s : State) :
    (poisonLine l s).otp = s.otp := by
  unfold poisonLine; grind []

@[simp] theorem otp_healRange (a : Nat) (n : Nat) (s : State) :
    (healRange a n s).otp = s.otp := by
  unfold healRange; grind []

@[simp] theorem otp_setCart (p : Nat) (f : CartAux → CartAux) (s : State) :
    (setCart p f s).otp = s.otp := by
  unfold setCart; grind []

@[simp] theorem otp_charge (owner : Nat) (tier : Nat) (n : Nat) (s : State) :
    (charge owner tier n s).otp = s.otp := by
  unfold charge; grind [otp_forEach]

@[simp] theorem otp_uncharge (owner : Nat) (tier : Nat) (n : Nat) (s : State) :
    (uncharge owner tier n s).otp = s.otp := by
  unfold uncharge; grind [otp_forEach]

@[simp] theorem otp_recordQlast (full : Bool) (tier : Nat) (c : Nat) (s : State) :
    (recordQlast full tier c s).otp = s.otp := by
  unfold recordQlast; grind [otp_setF]

@[simp] theorem otp_setLoc (h : Nat) (i : Nat) (l : PaneLoc) (s : State) :
    (setLoc h i l s).otp = s.otp := by
  unfold setLoc; grind []

@[simp] theorem otp_freeSlotBytes (l : PaneLoc) (s : State) :
    (freeSlotBytes l s).otp = s.otp := by
  unfold freeSlotBytes; grind [otp_memWrite]

@[simp] theorem otp_releasePane (t : Tensor) (i : Nat) (s : State) :
    (releasePane t i s).otp = s.otp := by
  unfold releasePane; grind [otp_uncharge, otp_freeSlotBytes]

@[simp] theorem otp_allocPane (tier : Nat) (t : Tensor) (i : Nat) (s : State) :
    (allocPane tier t i s).otp = s.otp := by
  unfold allocPane; grind [otp_charge, otp_setLoc, otp_freeSlotBytes]

theorem otp_allocAll (tier : Nat) (t : Tensor) (is : List Nat) (s : State) :
    (∀ u, (allocAll tier t is s).1 = some u → u.otp = s.otp) ∧ (allocAll tier t is s).2.1.otp = s.otp := by
  have hf : (forEach is (fun i s => allocPane tier t i s) s).otp = s.otp := otp_forEach _ _ _ (fun i x => otp_allocPane tier t i x)
  unfold allocAll
  grind [otp_recordQlast]

@[simp] theorem otp_allocForWrite (t : Tensor) (s : State) :
    (allocForWrite t s).1.otp = s.otp := by
  unfold allocForWrite; grind [otp_recordQlast, otp_allocAll]

@[simp] theorem otp_chargeAll (l : List Tensor) (s : State) : (chargeAll l s).1.otp = s.otp := by
  unfold chargeAll; dsimp only; split
  · exact otp_foldl _ _ _ (fun b x => by split <;> simp)
  · simp

@[simp] theorem otp_writePane (root : Tensor) (i : Nat) (l : PaneLoc) (data : List Host.Cell) (poison : Bool) (tadj : List (Nat × Nat)) (step : Nat) (s : State) :
    (writePane root i l data poison tadj step s).otp = s.otp := by
  unfold writePane; grind [otp_memPutCells, otp_healRange]

@[simp] theorem otp_portRecord (sev : Nat) (p : Nat) (detail : List Nat) (s : State) :
    (portRecord sev p detail s).otp = s.otp := by
  unfold portRecord; grind [otp_errRecord]

@[simp] theorem otp_setCommitted (p : Nat) (v : Nat) (s : State) :
    (setCommitted p v s).otp = s.otp := by
  unfold setCommitted; grind [otp_setF, otp_setCart, otp_portRecord]

@[simp] theorem otp_writeCounter (p : Nat) (v : Nat) (s : State) :
    (writeCounter p v s).otp = s.otp := by
  unfold writeCounter; grind [otp_emit]

@[simp] theorem otp_programBytes (p : Nat) (n : Nat) (s : State) :
    (programBytes p n s).otp = s.otp := by
  unfold programBytes; grind [otp_peep, otp_setCart]

@[simp] theorem otp_programWhole (p n : Nat) (s : State) : (programWhole p n s).otp = s.otp := by
  have h1 : ∀ v, (setCommitted p v (writeCounter p v s)).otp = s.otp := fun v => (otp_setCommitted _ _ _).trans (otp_writeCounter _ _ _)
  unfold programWhole
  exact ite_keep (P := fun x : State => x.otp = s.otp) (ite_keep (P := fun x : State => x.otp = s.otp) (h1 _) rfl)
    ((otp_programBytes _ _ _).trans (ite_keep (P := fun x : State => x.otp = s.otp) (h1 _) rfl))

@[simp] theorem otp_programSlot (l : PaneLoc) (n : Nat) (s : State) :
    (programSlot l n s).1.otp = s.otp := by
  unfold programSlot; grind [otp_programWhole]

@[simp] theorem otp_copyGroup (g : JournalGroup) (s : State) :
    (copyGroup g s).otp = s.otp := by
  unfold copyGroup; grind [otp_forEach, otp_memPutCells, otp_healRange]

@[simp] theorem otp_replayGroups (c : Nat) (s : State) :
    (replayGroups c s).otp = s.otp := by
  unfold replayGroups; grind [otp_forEach, otp_copyGroup]

@[simp] theorem otp_markPoison (root : Tensor) (i : Nat) (l : PaneLoc) (s : State) :
    (markPoison root i l s).otp = s.otp := by
  unfold markPoison; grind [otp_memPutCells, otp_programSlot]

@[simp] theorem otp_crcRecord (root : Tensor) (i : Nat) (l : PaneLoc) (s : State) :
    (crcRecord root i l s).otp = s.otp := by
  unfold crcRecord; grind [otp_errRecord]

@[simp] theorem otp_checkedRead (root : Tensor) (i : Nat) (l : PaneLoc) (s : State) :
    (checkedRead root i l s).2.otp = s.otp := by
  unfold checkedRead; grind [otp_markPoison, otp_crcRecord]

@[simp] theorem otp_moverRead (root : Tensor) (i : Nat) (s : State) :
    (moverRead root i s).2.otp = s.otp := by
  unfold moverRead; grind [otp_checkedRead]

@[simp] theorem otp_healSpans (a : Nat) (spans : List (Nat × Nat)) (s : State) :
    (healSpans a spans s).otp = s.otp := by
  unfold healSpans; grind []

end Sys2Proof.Machine
end

