-- ==== Sys2Proof/Laws/OtpTiming.lean ====
section
/-! SUPPORT. No operation of Machine/Timing.lean touches the one-time programmable memory. -/

namespace Sys2Proof.Machine

set_option Elab.async false

@[simp] theorem otp_peepLic (n : Nat) (d : Nat) (s : State) :
    (peepLic n d s).otp = s.otp := by
  unfold peepLic; grind [otp_forEach, otp_peep]

@[simp] theorem otp_ticks (n : Nat) (cycles : Nat) (s : State) :
    (ticks n cycles s).otp = s.otp := by
  unfold ticks; grind [otp_setF, otp_setRegion, otp_peepLic]

@[simp] theorem otp_showBootZero (s : State) :
    (showBootZero s).otp = s.otp := by
  unfold showBootZero; grind [otp_setF]

@[simp] theorem otp_zeroingGoesOn (n : Nat) (s : State) :
    (zeroingGoesOn n s).otp = s.otp := by
  unfold zeroingGoesOn; grind [otp_setF, otp_forEach, otp_drawFree, otp_showBootZero]

theorem otp_execLicTick (n : RegionNo) (cycles : Nat) (s : State) :
    ∀ st, execLicTick n cycles s = .next st → st.otp = s.otp := by
  intro st ht; unfold execLicTick at ht; grind [otp_ticks, otp_zeroingGoesOn]

@[simp] theorem otp_startCal (n : Nat) (s : State) :
    (startCal n s).otp = s.otp := by
  unfold startCal; grind [otp_setF, otp_setRegion]

theorem otp_execLicctlCal (n : RegionNo) (s : State) :
    ∀ st, execLicctlCal n s = .next st → st.otp = s.otp := by
  intro st ht; unfold execLicctlCal at ht; grind [otp_setF, otp_hostWrite, otp_startCal]

@[simp] theorem otp_endCal (n : Nat) (result : Option (Nat × Nat)) (s : State) :
    (endCal n result s).otp = s.otp := by
  unfold endCal; grind [otp_setF, otp_setRegion]

@[simp] theorem otp_releaseRegion (n : Nat) (s : State) :
    (releaseRegion n s).otp = s.otp := by
  unfold releaseRegion; grind [otp_setF, otp_setRegion]

@[simp] theorem otp_setVset (n : Nat) (vcode : Nat) (s : State) :
    (setVset n vcode s).otp = s.otp := by
  unfold setVset; grind [otp_setF, otp_setRegion]

theorem otp_execVsetWrite (n : RegionNo) (vcode : Nat) (s : State) :
    ∀ st, execVsetWrite n vcode s = .next st → st.otp = s.otp := by
  intro st ht; unfold execVsetWrite at ht; grind [otp_regAccessError, otp_hostWrite, otp_setVset]

theorem otp_execRegulatorStep (n : RegionNo) (s : State) :
    ∀ st, execRegulatorStep n s = .next st → st.otp = s.otp := by
  intro st ht; unfold execRegulatorStep at ht; grind [otp_setRegion]

@[simp] theorem otp_pairRecord (a : Nat) (b : Nat) (event : Nat) (reset : Nat) (s : State) :
    (pairRecord a b event reset s).otp = s.otp := by
  unfold pairRecord; grind [otp_errRecord]

@[simp] theorem otp_recomputeLouvre (n : Nat) (nbr : Nat) (s : State) :
    (recomputeLouvre n nbr s).otp = s.otp := by
  unfold recomputeLouvre; grind [otp_setF, otp_trace]

@[simp] theorem otp_recomputeStall (a : Nat) (b : Nat) (s : State) :
    (recomputeStall a b s).otp = s.otp := by
  unfold recomputeStall; grind [otp_setF]

@[simp] theorem otp_endStall (a : Nat) (b : Nat) (s : State) :
    (endStall a b s).otp = s.otp := by
  unfold endStall; grind [otp_setHinge, otp_trace, otp_recomputeStall]

@[simp] theorem otp_monBits (a : Nat) (b : Nat) (soft : Nat) (s : State) :
    (monBits a b soft s).otp = s.otp := by
  unfold monBits; grind [otp_setF]

@[simp] theorem otp_softActions (a : Nat) (b : Nat) (new : Nat) (s : State) :
    (softActions a b new s).otp = s.otp := by
  unfold softActions; grind [otp_forEach, otp_pairRecord, otp_monBits]

@[simp] theorem otp_hardActions (a : Nat) (b : Nat) (hard : Nat) (s : State) :
    (hardActions a b hard s).otp = s.otp := by
  unfold hardActions; grind [otp_setF, otp_forEach, otp_setHinge, otp_trace, otp_pairRecord, otp_recomputeStall]

@[simp] theorem otp_checkPair (a : Nat) (b : Nat) (s : State) :
    (checkPair a b s).otp = s.otp := by
  unfold checkPair; grind [otp_setHinge, otp_recomputeLouvre, otp_endStall, otp_softActions, otp_hardActions]

theorem otp_execMonitorMeasure (n : RegionNo) (mv : Nat) (tq : Int) (rate : Nat) (speed : Nat) (s : State) :
    ∀ st, execMonitorMeasure n mv tq rate speed s = .next st → st.otp = s.otp := by
  intro st ht; unfold execMonitorMeasure at ht; grind [otp_setF, otp_forEach, otp_setRegion, otp_enterFatal, otp_checkPair]

theorem otp_execLouvreRelease (n : RegionNo) (s : State) :
    ∀ st, execLouvreRelease n s = .next st → st.otp = s.otp := by
  intro st ht; unfold execLouvreRelease at ht; grind [otp_forEach, otp_setHinge, otp_recomputeLouvre]

@[simp] theorem otp_peepTransfer (a : Nat) (b : Nat) (s : State) :
    (peepTransfer a b s).otp = s.otp := by
  unfold peepTransfer; grind [otp_peep]

@[simp] theorem otp_setHeld (a : Nat) (b : Nat) (l : List Transfer) (s : State) :
    (setHeld a b l s).otp = s.otp := by
  unfold setHeld; grind [otp_setHinge]

@[simp] theorem otp_holdTransfer (a : Nat) (b : Nat) (t : Transfer) (s : State) :
    (holdTransfer a b t s).otp = s.otp := by
  unfold holdTransfer; grind [otp_setHeld]

@[simp] theorem otp_transferArrives (a : Nat) (b : Nat) (t : Transfer) (s : State) :
    (transferArrives a b t s).otp = s.otp := by
  unfold transferArrives; grind [otp_setHinge, otp_holdTransfer]

@[simp] theorem otp_acceptOffer (a : Nat) (b : Nat) (owner : Option Nat) (offered : Option Offer) (s : State) :
    (acceptOffer a b owner offered s).otp = s.otp := by
  unfold acceptOffer; grind [otp_holdTransfer]

theorem otp_execHingeTransfer (a : HingeEnd) (b : HingeEnd) (owner : Option Nat) (offered : Option Offer) (receiverReady : Bool) (s : State) :
    ∀ st, execHingeTransfer a b owner offered receiverReady s = .next st → st.otp = s.otp := by
  intro st ht; unfold execHingeTransfer at ht; grind [otp_peepTransfer, otp_setHeld, otp_transferArrives, otp_acceptOffer]

end Sys2Proof.Machine
end

