-- ==== Sys2Proof/Laws/OtpMemUnits.lean ====
section
/-! SUPPORT. No operation of Machine/MemUnits.lean touches the one-time programmable memory. -/

namespace Sys2Proof.Machine

set_option Elab.async false

@[simp] theorem otp_setMuAux (u : Nat) (f : MuAux → MuAux) (s : State) :
    (setMuAux u f s).otp = s.otp := by
  unfold setMuAux; grind []

@[simp] theorem otp_showUsed (u : Nat) (s : State) :
    (showUsed u s).otp = s.otp := by
  unfold showUsed; grind [otp_setF]

@[simp] theorem otp_startRemap (u : Nat) (r : RowAddr) (cause : Nat) (s : State) :
    (startRemap u r cause s).otp = s.otp := by
  unfold startRemap; grind [otp_setF, otp_errRecord, otp_setMuAux]

@[simp] theorem otp_countRow (u : Nat) (r : RowAddr) (s : State) :
    (countRow u r s).2.otp = s.otp := by
  unfold countRow; grind [otp_setMuAux]

@[simp] theorem otp_correctable (u : Nat) (r : RowAddr) (s : State) :
    (correctable u r s).otp = s.otp := by
  unfold correctable; grind [otp_satF, otp_peep, otp_startRemap, otp_countRow]

@[simp] theorem otp_uncorrectable (u : Nat) (slot : Nat) (off : Nat) (r : RowAddr) (s : State) :
    (uncorrectable u slot off r s).otp = s.otp := by
  unfold uncorrectable; grind [otp_setF, otp_satF, otp_trace, otp_errRecord, otp_poisonLine, otp_markPoison, otp_startRemap]

@[simp] theorem otp_codewordRead (u : Nat) (slot : Nat) (off : Nat) (ecc : Ecc) (r : RowAddr) (s : State) :
    (codewordRead u slot off ecc r s).otp = s.otp := by
  unfold codewordRead; grind [otp_memWrite, otp_correctable, otp_uncorrectable]

@[simp] theorem otp_serveReq (u : Nat) (q : MemReq) (s : State) :
    (serveReq u q s).otp = s.otp := by
  unfold serveReq; grind [otp_peep, otp_memWrite, otp_healRange, otp_codewordRead]

@[simp] theorem otp_serveNext (u : Nat) (c : Nat) (s : State) :
    (serveNext u c s).otp = s.otp := by
  unfold serveNext; grind [otp_setMuAux, otp_serveReq]

@[simp] theorem otp_serveAll (u : Nat) (s : State) :
    (serveAll u s).otp = s.otp := by
  unfold serveAll; grind [otp_forEach, otp_setMuAux, otp_serveReq]

@[simp] theorem otp_serveGrant (i : Nat) (s : State) :
    (serveGrant i s).otp = s.otp := by
  unfold serveGrant; grind [otp_serveNext]

theorem otp_execMemoryAccess (u : MemUnit) (slot : Nat) (off : Nat) (write : Option (List Byte)) (ecc : Ecc) (row : RowAddr) (s : State) :
    ∀ st, execMemoryAccess u slot off write ecc row s = .next st → st.otp = s.otp := by
  intro st ht; unfold execMemoryAccess at ht; grind [otp_setMuAux, otp_serveNext]

theorem otp_execScrubRead (u : MemUnit) (slot : Nat) (off : Nat) (ecc : Ecc) (row : RowAddr) (s : State) :
    ∀ st, execScrubRead u slot off ecc row s = .next st → st.otp = s.otp := by
  intro st ht; unfold execScrubRead at ht; grind [otp_codewordRead]

@[simp] theorem otp_enterRemap (u : Nat) (r : RowAddr) (cause : Nat) (pprfail : Bool) (s : State) :
    (enterRemap u r cause pprfail s).otp = s.otp := by
  unfold enterRemap; grind [otp_setMuAux]

theorem otp_execRepairLogCommitted (u : MemUnit) (row : RowAddr) (r : RepairCommit) (s : State) :
    ∀ st, execRepairLogCommitted u row r s = .next st → st.otp = s.otp := by
  intro st ht; unfold execRepairLogCommitted at ht; grind [otp_setF, otp_forEach, otp_trace, otp_errRecord, otp_setMuAux, otp_showUsed, otp_codewordRead, otp_serveNext, otp_enterRemap]

theorem otp_execMuTempReading (u : MemUnit) (t : Int) (s : State) :
    ∀ st, execMuTempReading u t s = .next st → st.otp = s.otp := by
  intro st ht; unfold execMuTempReading at ht; grind [otp_setF, otp_errRecord]

@[simp] theorem otp_muStart (u : Nat) (zeroing : Bool) (s : State) :
    (muStart u zeroing s).otp = s.otp := by
  unfold muStart; grind [otp_setF, otp_setMuAux, otp_showUsed]

@[simp] theorem otp_loadRemaps (u : Nat) (s : State) :
    (loadRemaps u s).otp = s.otp := by
  unfold loadRemaps; grind [otp_forEach, otp_showUsed, otp_enterRemap]

@[simp] theorem otp_repairRows (u : Nat) (repairs : List MuRepair) (s : State) :
    (repairRows u repairs s).otp = s.otp := by
  unfold repairRows; grind [otp_setF]

@[simp] theorem otp_muAbsent (u : Nat) (tstate : Nat) (cause : Nat) (s : State) :
    (muAbsent u tstate cause s).otp = s.otp := by
  unfold muAbsent; grind [otp_setF, otp_setMuAux]

@[simp] theorem otp_muFail (u : Nat) (cause : Nat) (s : State) :
    (muFail u cause s).otp = s.otp := by
  unfold muFail; grind [otp_errRecord, otp_muAbsent]

@[simp] theorem otp_takeIdentity (u : Nat) (id : Nat) (s : State) :
    (takeIdentity u id s).otp = s.otp := by
  unfold takeIdentity; grind []

@[simp] theorem otp_muTrainedAt (u : Nat) (rate : Nat) (lanes : Nat) (gib : Nat) (id : Nat) (s : State) :
    (muTrainedAt u rate lanes gib id s).otp = s.otp := by
  unfold muTrainedAt; grind [otp_setF, otp_setMuAux, otp_loadRemaps, otp_takeIdentity]

@[simp] theorem otp_muRepaired (u : Nat) (repairs : List MuRepair) (s : State) :
    (muRepaired u repairs s).otp = s.otp := by
  unfold muRepaired; grind [otp_setF, otp_showBootZero, otp_loadRemaps, otp_repairRows]

@[simp] theorem otp_muTrained (u : Nat) (r : MuTraining) (repairs : List MuRepair) (s : State) :
    (muTrained u r repairs s).otp = s.otp := by
  unfold muTrained; grind [otp_setMuAux, otp_muAbsent, otp_muFail, otp_muTrainedAt, otp_muRepaired]

@[simp] theorem otp_muZeroed (u : Nat) (s : State) :
    (muZeroed u s).otp = s.otp := by
  unfold muZeroed; grind [otp_setF, otp_setMuAux, otp_showBootZero]

end Sys2Proof.Machine
end

