-- ==== Sys2Proof/Laws/OtpArbiters.lean ====
section
/-! SUPPORT. No operation of Machine/Arbiters.lean touches the one-time programmable memory. -/

namespace Sys2Proof.Machine

set_option Elab.async false

@[simp] theorem otp_setCnt (i : Nat) (r : Nat) (v : Nat) (s : State) :
    (setCnt i r v s).otp = s.otp := by
  unfold setCnt; grind [otp_setF]

@[simp] theorem otp_raise (i : Nat) (asking : Nat) (s : State) :
    (raise i asking s).otp = s.otp := by
  unfold raise; grind [otp_setF]

@[simp] theorem otp_grant (i : Nat) (w : Nat) (s : State) :
    (grant i w s).otp = s.otp := by
  unfold grant; grind [otp_setF]

@[simp] theorem otp_decideArb (i : Nat) (s : State) :
    (decideArb i s).otp = s.otp := by
  unfold decideArb; grind [otp_addF, otp_forEach, otp_peep, otp_trace, otp_setCnt, otp_grant]

theorem otp_execArbDecision (inst : Nat) (asking : Nat) (s : State) :
    ∀ st, execArbDecision inst asking s = .next st → st.otp = s.otp := by
  intro st ht; unfold execArbDecision at ht; grind [otp_serveGrant, otp_raise, otp_grant, otp_decideArb]

theorem otp_execArbRelease (inst : Nat) (asking : Nat) (s : State) :
    ∀ st, execArbRelease inst asking s = .next st → st.otp = s.otp := by
  intro st ht; unfold execArbRelease at ht; grind [otp_setF, otp_raise]

@[simp] theorem otp_mapWrite (inst : Nat) (value : Nat) (s : State) :
    (mapWrite inst value s).otp = s.otp := by
  unfold mapWrite; grind [otp_setF, otp_dropHeld, otp_regAccessError]

theorem otp_execInputmapWrite (inst : Nat) (value : Nat) (s : State) :
    ∀ st, execInputmapWrite inst value s = .next st → st.otp = s.otp := by
  intro st ht; unfold execInputmapWrite at ht; grind [otp_hostWrite, otp_mapWrite]

end Sys2Proof.Machine
end

