-- ==== Sys2Proof/Laws/OtpCart.lean ====
section
/-! SUPPORT. No operation of Machine/Cart.lean touches the one-time programmable memory. -/

namespace Sys2Proof.Machine

set_option Elab.async false

@[simp] theorem otp_wipeRange (lo : Nat) (hi : Nat) (s : State) :
    (wipeRange lo hi s).otp = s.otp := by
  unfold wipeRange; grind []

@[simp] theorem otp_drawXts (s : State) :
    (drawXts s).2.otp = s.otp := by
  unfold drawXts; grind [otp_drawRandom]

@[simp] theorem otp_eraseSpill (p : Nat) (n : Nat) (s : State) :
    (eraseSpill p n s).otp = s.otp := by
  unfold eraseSpill; grind [otp_setF, otp_setCart, otp_portRecord, otp_wipeRange, otp_drawXts]

@[simp] theorem otp_replaceSpill (p : Nat) (s : State) :
    (replaceSpill p s).otp = s.otp := by
  unfold replaceSpill; grind [otp_eraseSpill]

@[simp] theorem otp_startCommit (p : Nat) (n : Nat) (s : State) :
    (startCommit p n s).otp = s.otp := by
  unfold startCommit; grind [otp_setCart, otp_writeCounter]

@[simp] theorem otp_programOrHold (p : Nat) (n : Nat) (s : State) :
    (programOrHold p n s).otp = s.otp := by
  unfold programOrHold; grind [otp_setCart, otp_programBytes, otp_startCommit]

theorem otp_execWearCounterCommit (p : PortNo) (bytes : Nat) (s : State) :
    ∀ st, execWearCounterCommit p bytes s = .next st → st.otp = s.otp := by
  intro st ht; unfold execWearCounterCommit at ht; grind [otp_programOrHold]

@[simp] theorem otp_flashUncorrectable (p : Nat) (bad : Nat) (s : State) :
    (flashUncorrectable p bad s).otp = s.otp := by
  unfold flashUncorrectable; grind [otp_satF, otp_portRecord]

@[simp] theorem otp_flashUnitBad (p : Nat) (f : FlashUnit) (s : State) :
    (flashUnitBad p f s).otp = s.otp := by
  unfold flashUnitBad; grind [otp_forEach, otp_poisonLine, otp_markPoison, otp_flashUncorrectable]

theorem otp_execFlashRelocation (p : PortNo) (r : Relocation) (s : State) :
    ∀ st, execFlashRelocation p r s = .next st → st.otp = s.otp := by
  intro st ht; unfold execFlashRelocation at ht; grind [otp_forEach, otp_programOrHold, otp_flashUnitBad, otp_peep]

theorem otp_execWearCounterAck (p : PortNo) (s : State) :
    ∀ st, execWearCounterAck p s = .next st → st.otp = s.otp := by
  intro st ht; unfold execWearCounterAck at ht; grind [otp_setCart, otp_setCommitted, otp_programOrHold]

@[simp] theorem otp_emptyPort (p : Nat) (s : State) :
    (emptyPort p s).otp = s.otp := by
  unfold emptyPort; grind [otp_setF, otp_forEach, otp_setCart]

@[simp] theorem otp_startInsertion (p : Nat) (s : State) :
    (startInsertion p s).otp = s.otp := by
  unfold startInsertion; grind [otp_setF, otp_setCart, otp_emptyPort]

@[simp] theorem otp_rejectCart (p : Nat) (reason : Nat) (s : State) :
    (rejectCart p reason s).otp = s.otp := by
  unfold rejectCart; grind [otp_setF, otp_portRecord, otp_emptyPort]

@[simp] theorem otp_surpriseRemoval (p : Nat) (s : State) :
    (surpriseRemoval p s).otp = s.otp := by
  unfold surpriseRemoval; grind [otp_portRecord]

theorem otp_execCartPresenceChange (p : PortNo) (present : Bool) (s : State) :
    ∀ st, execCartPresenceChange p present s = .next st → st.otp = s.otp := by
  intro st ht; unfold execCartPresenceChange at ht; grind [otp_setCart]

theorem otp_execCartPresenceDebounced (p : PortNo) (s : State) :
    ∀ st, execCartPresenceDebounced p s = .next st → st.otp = s.otp := by
  intro st ht; unfold execCartPresenceDebounced at ht; grind [otp_setCart, otp_replaceSpill, otp_emptyPort, otp_startInsertion, otp_surpriseRemoval]

@[simp] theorem otp_readElement (p : Nat) (s : State) :
    (readElement p s).otp = s.otp := by
  unfold readElement; grind [otp_emit]

theorem otp_execCartPgood (p : PortNo) (i : CartIdentity) (s : State) :
    ∀ st, execCartPgood p i s = .next st → st.otp = s.otp := by
  intro st ht; unfold execCartPgood at ht; grind [otp_setF, otp_setCart, otp_setCommitted, otp_rejectCart, otp_readElement]

theorem otp_execCartPgoodTimeout (p : PortNo) (s : State) :
    ∀ st, execCartPgoodTimeout p s = .next st → st.otp = s.otp := by
  intro st ht; unfold execCartPgoodTimeout at ht; grind [otp_rejectCart]

@[simp] theorem otp_initialisePort (p : Nat) (i : CartInit) (s : State) :
    (initialisePort p i s).otp = s.otp := by
  unfold initialisePort; grind [otp_setF, otp_forEach, otp_setCart, otp_rejectCart]

@[simp] theorem otp_readyPort (p : Nat) (s : State) :
    (readyPort p s).otp = s.otp := by
  unfold readyPort; grind [otp_setF]

theorem otp_execCartInitialised (p : PortNo) (i : CartInit) (s : State) :
    ∀ st, execCartInitialised p i s = .next st → st.otp = s.otp := by
  intro st ht; unfold execCartInitialised at ht; grind [otp_initialisePort, otp_readyPort]

@[simp] theorem otp_labelWrite (p : Nat) (s : State) :
    (labelWrite p s).otp = s.otp := by
  unfold labelWrite; grind [otp_drawFree, otp_programWhole]

@[simp] theorem otp_closePort (p : Nat) (s : State) :
    (closePort p s).otp = s.otp := by
  unfold closePort; grind [otp_setF, otp_setCommitted, otp_writeCounter, otp_emptyPort, otp_labelWrite]

@[simp] theorem otp_newPersistKey (p : Nat) (psize : Nat) (s : State) :
    (newPersistKey p psize s).otp = s.otp := by
  unfold newPersistKey; grind [otp_setF, otp_setCart, otp_wipeRange, otp_drawXts]

@[simp] theorem otp_rewriteLabel (p psize : Nat) (f : State → State) (s : State) (h_f : ∀ x0, (f x0).otp = x0.otp) :
    (rewriteLabel p psize f s).otp = s.otp := by
  have h1 := otp_labelWrite p s
  unfold rewriteLabel
  exact ite_keep (P := fun x : State => x.otp = s.otp) ((otp_setF _ _ _).trans h1)
    ((h_f _).trans ((otp_newPersistKey _ _ _).trans ((otp_setF _ _ _).trans h1)))

theorem otp_execFormat (p : PortNo) (s : State) :
    ∀ st, execFormat p s = .next st → st.otp = s.otp := by
  intro st ht; unfold execFormat at ht; grind [otp_setF, otp_hostWrite, otp_replaceSpill, otp_rewriteLabel]

theorem otp_execErasep (p : PortNo) (s : State) :
    ∀ st, execErasep p s = .next st → st.otp = s.otp := by
  intro st ht; unfold execErasep at ht; grind [otp_setF, otp_hostWrite, otp_rewriteLabel]

end Sys2Proof.Machine
end

