-- ==== Sys2Proof/Laws/OtpKeyhole.lean ====
section
/-! SUPPORT. No operation of Machine/Keyhole.lean touches the one-time programmable memory. -/

namespace Sys2Proof.Machine

set_option Elab.async false

@[simp] theorem otp_setArray (f : Nat → Fld) (n : Nat) (bs : List Byte) (s : State) :
    (setArray f n bs s).otp = s.otp := by
  unfold setArray; grind [otp_setF, otp_forEach]

@[simp] theorem otp_showLifeCycle (s : State) :
    (showLifeCycle s).otp = s.otp := by
  unfold showLifeCycle; grind [otp_setF, otp_setArray]

@[simp] theorem otp_showFuses (s : State) :
    (showFuses s).otp = s.otp := by
  unfold showFuses; grind [otp_setF]

@[simp] theorem otp_keyRecord (sev : Nat) (detail : List Nat) (s : State) :
    (keyRecord sev detail s).otp = s.otp := by
  unfold keyRecord; grind [otp_errRecord]

@[simp] theorem otp_extend (r : Nat) (kind : Nat) (d : List Byte) (s : State) :
    (extend r kind d s).otp = s.otp := by
  unfold extend; grind [otp_setF, otp_satF, otp_setArray]

@[simp] theorem otp_clearMeasurement (s : State) :
    (clearMeasurement s).otp = s.otp := by
  unfold clearMeasurement; grind [otp_setF, otp_setArray]

@[simp] theorem otp_keyCommand (cmd : Nat) (f : State → State) (s : State) (h_f : ∀ x0, (f x0).otp = x0.otp) :
    (keyCommand cmd f s).otp = s.otp := by
  unfold keyCommand; grind [otp_setF, otp_hostWrite]

theorem fuses_keyCommand (cmd : Nat) (f : State → State) (s : State) (h_f : ∀ x, FusesKept x.otp (f x).otp) :
    FusesKept s.otp (keyCommand cmd f s).otp := by
  unfold keyCommand hostWrite
  split
  · rw [otp_emit]; exact FusesKept.refl _
  · split
    · dsimp only; split
      · rw [otp_setF]; exact FusesKept.refl _
      · have h := h_f (setF KEY.CMD_CMD cmd s)
        rw [otp_setF] at h; exact h
    · exact FusesKept.refl _

theorem otp_execNonce (s : State) :
    ∀ st, execNonce s = .next st → st.otp = s.otp := by
  intro st ht; unfold execNonce at ht; grind [otp_setF, otp_drawRandom, otp_setArray, otp_keyCommand]

theorem fuses_execTransition (s : State) : ∀ st, execTransition s = .next st → FusesKept s.otp st.otp := by
  intro st ht; unfold execTransition at ht
  simp only [Host.Outcome.next.injEq] at ht; subst ht
  refine fuses_keyCommand _ _ _ (fun x => ?_)
  repeat' split
  all_goals (try dsimp only)
  all_goals simp only [otp_keyRecord, otp_showLifeCycle, otp_setF]
  all_goals first | exact FusesKept.refl _ | exact fuses_append _ _

theorem fuses_execCommitsvn (s : State) : ∀ st, execCommitsvn s = .next st → FusesKept s.otp st.otp := by
  intro st ht; unfold execCommitsvn at ht
  simp only [Host.Outcome.next.injEq] at ht; subst ht
  refine fuses_keyCommand _ _ _ (fun x => ?_)
  split
  · rw [otp_setF]; exact FusesKept.refl _
  · rw [otp_showFuses, otp_setF]; exact fuses_svn _ _ (by omega)

theorem fuses_execRevoke (s : State) : ∀ st, execRevoke s = .next st → FusesKept s.otp st.otp := by
  intro st ht; unfold execRevoke at ht
  simp only [Host.Outcome.next.injEq] at ht; subst ht
  refine fuses_keyCommand _ _ _ (fun x => ?_)
  split
  · rw [otp_setF]; exact FusesKept.refl _
  · rw [otp_showFuses, otp_setF]; exact fuses_revoked _ _

theorem fuses_rowValid (s : State) : FusesKept s.otp (rowValid s).otp := by
  unfold rowValid; dsimp only
  rw [otp_keyRecord, otp_showLifeCycle]; exact fuses_valid _ _

@[simp] theorem otp_rowFailed (s : State) :
    (rowFailed s).otp = s.otp := by
  unfold rowFailed; grind [otp_setF]

theorem otp_execKeyholeIntegrityFailure (s : State) :
    ∀ st, execKeyholeIntegrityFailure s = .next st → st.otp = s.otp := by
  intro st ht; unfold execKeyholeIntegrityFailure at ht; grind [otp_enterFatal]

end Sys2Proof.Machine
end

