-- ==== Sys2Proof/Laws/OtpFlags.lean ====
section
/-! SUPPORT. No operation of Machine/Flags.lean touches the one-time programmable memory. -/

namespace Sys2Proof.Machine

set_option Elab.async false

@[simp] theorem otp_orPart (id : Nat) (p : Nat) (status : Nat) (flags : Nat) (replay : Nat) (s : State) :
    (orPart id p status flags replay s).otp = s.otp := by
  unfold orPart; grind [otp_setPart]

@[simp] theorem otp_setSticky (fs : List (Nat × Fld)) (v : Nat) (s : State) :
    (setSticky fs v s).otp = s.otp := by
  unfold setSticky; grind [otp_setF, otp_forEach]

end Sys2Proof.Machine
end

