-- ==== Sys2Proof/Laws/OtpOperands.lean ====
section
/-! SUPPORT. No operation of Machine/Operands.lean touches the one-time programmable memory. -/

namespace Sys2Proof.Machine

set_option Elab.async false

@[simp] theorem otp_upsertCopy (core : Nat) (owner : Nat) (h : Nat) (pane : Nat) (f : WorkCopy → WorkCopy) (s : State) :
    (upsertCopy core owner h pane f s).otp = s.otp := by
  unfold upsertCopy; grind []

@[simp] theorem otp_putSpan (core : Nat) (owner : Nat) (h : Nat) (pane : Nat) (off : Nat) (bs : List Byte) (s : State) :
    (putSpan core owner h pane off bs s).otp = s.otp := by
  unfold putSpan; grind [otp_upsertCopy]

@[simp] theorem otp_putTadj (core : Nat) (owner : Nat) (root : Tensor) (pane : Nat) (y : List Nat) (adj : Int) (s : State) :
    (putTadj core owner root pane y adj s).otp = s.otp := by
  unfold putTadj; grind [otp_upsertCopy]

@[simp] theorem otp_putPoison (core : Nat) (owner : Nat) (h : Nat) (pane : Nat) (s : State) :
    (putPoison core owner h pane s).otp = s.otp := by
  unfold putPoison; grind [otp_upsertCopy]

@[simp] theorem otp_putElem (core : Nat) (owner : Nat) (t : Tensor) (root : Tensor) (x : List Nat) (bits : Nat) (adj : Int) (poison : Bool) (s : State) :
    (putElem core owner t root x bits adj poison s).otp = s.otp := by
  unfold putElem; grind [otp_putSpan, otp_putTadj, otp_putPoison]

@[simp] theorem otp_putBlock (core : Nat) (owner : Nat) (root : Tensor) (first : List Nat) (scale : Nat) (elems : List (Nat × Int)) (poison : Bool) (s : State) :
    (putBlock core owner root first scale elems poison s).otp = s.otp := by
  unfold putBlock; grind [otp_forEach, otp_putSpan, otp_putTadj, otp_putPoison]

@[simp] theorem otp_offerEnc (core : Nat) (dest : Nat) (id : Nat) (part : Nat) (root : Tensor) (x : List Nat) (v : Num) (poison : Bool) (adj : Int) (s : State) :
    (offerEnc core dest id part root x v poison adj s).otp = s.otp := by
  unfold offerEnc; grind []

@[simp] theorem otp_putResult (core : Nat) (dest : Nat) (id : Nat) (part : Nat) (t : Tensor) (root : Tensor) (x : List Nat) (v : Num) (bits : Nat) (adj : Int) (poison : Bool) (s : State) :
    (putResult core dest id part t root x v bits adj poison s).otp = s.otp := by
  unfold putResult; grind [otp_putElem, otp_offerEnc]

@[simp] theorem otp_encDrop (b : EncBlk) (s : State) :
    (encDrop b s).otp = s.otp := by
  unfold encDrop; grind []

end Sys2Proof.Machine
end

