-- ==== Sys2Proof/Laws/OtpMatrix.lean ====
section
/-! SUPPORT. No operation of Machine/Matrix.lean touches the one-time programmable memory. -/

namespace Sys2Proof.Machine

set_option Elab.async false

@[simp] theorem otp_chargeThen (e : InFlight) (check : Nat) (o : Tensor) (k : State → State) (s : State) (h_k : ∀ x0, (k x0).otp = x0.otp) :
    (chargeThen e check o k s).otp = s.otp := by
  unfold chargeThen; grind [otp_failCheck, otp_allocForWrite]

@[simp] theorem otp_beginMma (e : InFlight) (s : State) :
    (beginMma e s).otp = s.otp := by
  unfold beginMma; grind [otp_setFlight, otp_finish, otp_validated, otp_launch, otp_chargeThen]

theorem otp_execMma (q : QueueNo) (d : Desc) (s : State) :
    ∀ st, execMma q d s = .next st → st.otp = s.otp := by
  intro st ht; unfold execMma at ht; grind [otp_takeRing, otp_beginMma]

@[simp] theorem otp_mxCount (n : Nat) (f : Fld) (k : Nat) (s : State) :
    (mxCount n f k s).otp = s.otp := by
  unfold mxCount; grind [otp_addF]

@[simp] theorem otp_recordLast (n : Nat) (e : InFlight) (r : MxRun) (mm : Meas) (s : State) :
    (recordLast n e r mm s).otp = s.otp := by
  unfold recordLast; grind [otp_setF]

@[simp] theorem otp_setMx (n : Nat) (r : Option MxRun) (s : State) :
    (setMx n r s).otp = s.otp := by
  unfold setMx; grind []

@[simp] theorem otp_replay (n : Nat) (e : InFlight) (r : MxRun) (mm : Meas) (s : State) :
    (replay n e r mm s).otp = s.otp := by
  unfold replay; grind [otp_setF, otp_peep, otp_trace, otp_mxCount, otp_setMx]

theorem otp_execMmaKGroup (n : CoreNo) (s : State) :
    ∀ st, execMmaKGroup n s = .next st → st.otp = s.otp := by
  intro st ht; unfold execMmaKGroup at ht; grind [otp_peep, otp_mxCount, otp_recordLast, otp_setMx, otp_replay]

@[simp] theorem otp_nextTile (n : Nat) (e : InFlight) (r : MxRun) (s : State) :
    (nextTile n e r s).otp = s.otp := by
  unfold nextTile; grind [otp_setF, otp_setMx]

@[simp] theorem otp_checkEnd (id : Nat) (p : Nat) (s : State) :
    (checkEnd id p s).otp = s.otp := by
  unfold checkEnd; grind [otp_setPart, otp_setSticky]

@[simp] theorem otp_transomStall (n : Nat) (s : State) :
    (transomStall n s).otp = s.otp := by
  unfold transomStall; grind [otp_setF]

@[simp] theorem otp_transomFree (n : Nat) (s : State) :
    (transomFree n s).otp = s.otp := by
  unfold transomFree; grind [otp_setF]

@[simp] theorem otp_finishTile (n : Nat) (e : InFlight) (r : MxRun) (zs : List ((Nat × Nat) × Num × Nat)) (mm : Meas) (s : State) :
    (finishTile n e r zs mm s).otp = s.otp := by
  unfold finishTile; dsimp only; (repeat' split) <;> simp [otp_setF, otp_satF, otp_forEach, otp_peep, otp_orPart, otp_setSticky, otp_putResult, otp_mxCount, otp_recordLast, otp_setMx, otp_nextTile, otp_checkEnd]

theorem otp_execMmaPassEnd (n : CoreNo) (s : State) :
    ∀ st, execMmaPassEnd n s = .next st → st.otp = s.otp := by
  intro st ht; unfold execMmaPassEnd at ht; grind [otp_recordLast, otp_replay, otp_finishTile]

@[simp] theorem otp_showTransom (n : Nat) (next : Nat) (s : State) :
    (showTransom n next s).otp = s.otp := by
  unfold showTransom; grind [otp_setF]

theorem otp_execTransomWrite (n : CoreNo) (s : State) :
    ∀ st, execTransomWrite n s = .next st → st.otp = s.otp := by
  intro st ht; unfold execTransomWrite at ht; grind [otp_setF, otp_nextTile, otp_checkEnd, otp_transomStall, otp_showTransom]

theorem otp_execMxctlCntclr (n : CoreNo) (s : State) :
    ∀ st, execMxctlCntclr n s = .next st → st.otp = s.otp := by
  intro st ht; unfold execMxctlCntclr at ht; grind [otp_setF, otp_hostWrite]

end Sys2Proof.Machine
end

