-- ==== Sys2Proof/Laws/OtpVector.lean ====
section
/-! SUPPORT. No operation of Machine/Vector.lean touches the one-time programmable memory. -/

namespace Sys2Proof.Machine

set_option Elab.async false

@[simp] theorem otp_pairVop (e : InFlight) (s s' : State) (h : s'.otp = s.otp) : (pairVop e s s').otp = s.otp := by
  unfold pairVop; grind [otp_finish, otp_launch, otp_setFlight, otp_failCheck, otp_breakPair]

@[simp] theorem otp_beginVop (e : InFlight) (s : State) :
    (beginVop e s).otp = s.otp := by
  unfold beginVop; grind [otp_breakPair, otp_failCheck, otp_launch, otp_allocForWrite, otp_chargeThen, otp_pairVop]

@[simp] theorem otp_setVx (n : Nat) (r : Option VxRun) (s : State) :
    (setVx n r s).otp = s.otp := by
  unfold setVx; grind []

@[simp] theorem otp_vxCount (n : Nat) (f : Fld) (event : Nat) (k : Nat) (s : State) :
    (vxCount n f event k s).otp = s.otp := by
  unfold vxCount; grind [otp_addF, otp_peep]

@[simp] theorem otp_writeD (e : InFlight) (p : Nat) (x : List Nat) (v : Num) (bits : Nat) (poison : Bool) (adj : Int) (s : State) :
    (writeD e p x v bits poison adj s).otp = s.otp := by
  unfold writeD; grind [otp_putResult, otp_vxCount]

@[simp] theorem otp_keepD (e : InFlight) (p : Nat) (x : List Nat) (adj : Int) (s : State) :
    (keepD e p x adj s).otp = s.otp := by
  unfold keepD; grind [otp_putTadj]

@[simp] theorem otp_writeFill (e : InFlight) (p : Nat) (x : List Nat) (adj : Int) (s : State) :
    (writeFill e p x adj s).otp = s.otp := by
  unfold writeFill; grind [otp_vxCount, otp_writeD, otp_keepD]

@[simp] theorem otp_stepElem (e : InFlight) (p : Nat) (x : List Nat) (xv : Num × Nat × Bool) (xbits : Nat) (adj : Int) (s : State) :
    (stepElem e p x xv xbits adj s).otp = s.otp := by
  unfold stepElem; grind [otp_orPart, otp_vxCount, otp_writeD, otp_writeFill]

@[simp] theorem otp_countTrans (e : InFlight) (p : Nat) (nt : Nat) (present : List Nat) (partOf : Nat → Nat) (s : State) :
    (countTrans e p nt present partOf s).otp = s.otp := by
  unfold countTrans; grind [otp_forEach, otp_vxCount]

@[simp] theorem otp_stepLine (e : InFlight) (p : Nat) (base : List Nat) (len : Nat) (partOf : Nat → Nat)
    (xAt : Nat → List Nat → Num × Nat × Bool) (adj : Int) (s : State) : (stepLine e p base len partOf xAt adj s).otp = s.otp := by
  have h1 : ∀ {α β : Type} (l : List α) (l' : List β) (f : α → Nat) (v : α → Nat) (g : β → Nat) (q : Prop) [Decidable q] (n : Nat) (pr : List Nat)
      (po : Nat → Nat), (countTrans e p n pr po (if q then orPart e.id p stPoisonRead 0 0
        (forEach l' (fun q s => orPart e.id (g q) stPoisonRead 0 0 s) (forEach l (fun x s => orPart e.id (f x) 0 (v x) 0 s) s))
        else (forEach l' (fun q s => orPart e.id (g q) stPoisonRead 0 0 s) (forEach l (fun x s => orPart e.id (f x) 0 (v x) 0 s) s)))).otp = s.otp := by
    intro α β l l' f v g q _ n pr po
    rw [otp_countTrans]
    have h2 := (otp_forEach l' (fun q s => orPart e.id (g q) stPoisonRead 0 0 s) (forEach l (fun x s => orPart e.id (f x) 0 (v x) 0 s) s)
      (fun _ _ => otp_orPart _ _ _ _ _ _)).trans (otp_forEach l (fun x s => orPart e.id (f x) 0 (v x) 0 s) s (fun _ _ => otp_orPart _ _ _ _ _ _))
    split
    · rw [otp_orPart]; exact h2
    · exact h2
  unfold stepLine; dsimp only
  refine ite_keep (P := fun x : State => x.otp = s.otp) ?_ ?_
  · rw [otp_orPart, otp_writeD]; exact h1 _ _ _ _ _ _ _ _ _
  · refine (otp_forEach _ _ _ (fun r s => ?_)).trans (h1 _ _ _ _ _ _ _ _ _)
    split
    · exact otp_writeFill _ _ _ _ _
    · rw [otp_orPart, otp_writeD]

@[simp] theorem otp_fillLost (e : InFlight) (s : State) :
    (fillLost e s).otp = s.otp := by
  unfold fillLost; grind []

@[simp] theorem otp_leaveVx (n : Nat) (r : VxRun) (s : State) :
    (leaveVx n r s).otp = s.otp := by
  unfold leaveVx; grind [otp_setF, otp_checkEnd, otp_setVx, otp_fillLost]

@[simp] theorem otp_completeSpread (e : InFlight) (p : Nat) (s : State) :
    (completeSpread e p s).otp = s.otp := by
  unfold completeSpread; grind [otp_forEach, otp_stepLine, otp_leaveVx]

theorem otp_execVectorStep (n : CoreNo) (s : State) :
    ∀ st, execVectorStep n s = .next st → st.otp = s.otp := by
  intro st ht; unfold execVectorStep at ht; grind [otp_setF, otp_forEach, otp_peep, otp_setVx, otp_stepElem, otp_stepLine, otp_leaveVx, otp_completeSpread]

theorem otp_execTransomConsume (n : CoreNo) (s : State) :
    ∀ st, execTransomConsume n s = .next st → st.otp = s.otp := by
  intro st ht; unfold execTransomConsume at ht; simp only [Host.Outcome.next.injEq] at ht; subst ht; (repeat' split) <;> simp [otp_setF, otp_forEach, otp_showTransom, otp_setVx, otp_vxCount, otp_stepElem, otp_stepLine, otp_leaveVx]

theorem otp_execOperandStaged (n : CoreNo) (s : State) :
    ∀ st, execOperandStaged n s = .next st → st.otp = s.otp := by
  intro st ht; unfold execOperandStaged at ht; grind [otp_setF]

theorem otp_execBlockEncode (n : CoreNo) (s : State) :
    ∀ st, execBlockEncode n s = .next st → st.otp = s.otp := by
  intro st ht; unfold execBlockEncode at ht; grind [otp_orPart, otp_setSticky, otp_putBlock, otp_encDrop, otp_checkEnd]

theorem otp_execSeamContribution (n : CoreNo) (s : State) :
    ∀ st, execSeamContribution n s = .next st → st.otp = s.otp := by
  intro st ht; unfold execSeamContribution at ht; grind [otp_encDrop, otp_checkEnd, otp_vxCount, otp_leaveVx]

theorem otp_execVxctlCntclr (n : CoreNo) (s : State) :
    ∀ st, execVxctlCntclr n s = .next st → st.otp = s.otp := by
  intro st ht; unfold execVxctlCntclr at ht; grind [otp_setF, otp_hostWrite]

theorem otp_execVopCopy (q : QueueNo) (d : Desc) (s : State) :
    ∀ st, execVopCopy q d s = .next st → st.otp = s.otp := by
  intro st ht; unfold execVopCopy at ht; grind [otp_takeRing, otp_beginVop]

theorem otp_execVopNeg (q : QueueNo) (d : Desc) (s : State) :
    ∀ st, execVopNeg q d s = .next st → st.otp = s.otp := by
  intro st ht; unfold execVopNeg at ht; grind [otp_takeRing, otp_beginVop]

theorem otp_execVopAbs (q : QueueNo) (d : Desc) (s : State) :
    ∀ st, execVopAbs q d s = .next st → st.otp = s.otp := by
  intro st ht; unfold execVopAbs at ht; grind [otp_takeRing, otp_beginVop]

theorem otp_execVopCopysign (q : QueueNo) (d : Desc) (s : State) :
    ∀ st, execVopCopysign q d s = .next st → st.otp = s.otp := by
  intro st ht; unfold execVopCopysign at ht; grind [otp_takeRing, otp_beginVop]

theorem otp_execVopCvt (q : QueueNo) (d : Desc) (s : State) :
    ∀ st, execVopCvt q d s = .next st → st.otp = s.otp := by
  intro st ht; unfold execVopCvt at ht; grind [otp_takeRing, otp_beginVop]

theorem otp_execVopAdd (q : QueueNo) (d : Desc) (s : State) :
    ∀ st, execVopAdd q d s = .next st → st.otp = s.otp := by
  intro st ht; unfold execVopAdd at ht; grind [otp_takeRing, otp_beginVop]

theorem otp_execVopSub (q : QueueNo) (d : Desc) (s : State) :
    ∀ st, execVopSub q d s = .next st → st.otp = s.otp := by
  intro st ht; unfold execVopSub at ht; grind [otp_takeRing, otp_beginVop]

theorem otp_execVopMul (q : QueueNo) (d : Desc) (s : State) :
    ∀ st, execVopMul q d s = .next st → st.otp = s.otp := by
  intro st ht; unfold execVopMul at ht; grind [otp_takeRing, otp_beginVop]

theorem otp_execVopFma (q : QueueNo) (d : Desc) (s : State) :
    ∀ st, execVopFma q d s = .next st → st.otp = s.otp := by
  intro st ht; unfold execVopFma at ht; grind [otp_takeRing, otp_beginVop]

theorem otp_execVopDiv (q : QueueNo) (d : Desc) (s : State) :
    ∀ st, execVopDiv q d s = .next st → st.otp = s.otp := by
  intro st ht; unfold execVopDiv at ht; grind [otp_takeRing, otp_beginVop]

theorem otp_execVopSqrt (q : QueueNo) (d : Desc) (s : State) :
    ∀ st, execVopSqrt q d s = .next st → st.otp = s.otp := by
  intro st ht; unfold execVopSqrt at ht; grind [otp_takeRing, otp_beginVop]

theorem otp_execVopMin (q : QueueNo) (d : Desc) (s : State) :
    ∀ st, execVopMin q d s = .next st → st.otp = s.otp := by
  intro st ht; unfold execVopMin at ht; grind [otp_takeRing, otp_beginVop]

theorem otp_execVopMax (q : QueueNo) (d : Desc) (s : State) :
    ∀ st, execVopMax q d s = .next st → st.otp = s.otp := by
  intro st ht; unfold execVopMax at ht; grind [otp_takeRing, otp_beginVop]

theorem otp_execVopAffine (q : QueueNo) (d : Desc) (s : State) :
    ∀ st, execVopAffine q d s = .next st → st.otp = s.otp := by
  intro st ht; unfold execVopAffine at ht; grind [otp_takeRing, otp_beginVop]

theorem otp_execVopRelu (q : QueueNo) (d : Desc) (s : State) :
    ∀ st, execVopRelu q d s = .next st → st.otp = s.otp := by
  intro st ht; unfold execVopRelu at ht; grind [otp_takeRing, otp_beginVop]

theorem otp_execVopExp (q : QueueNo) (d : Desc) (s : State) :
    ∀ st, execVopExp q d s = .next st → st.otp = s.otp := by
  intro st ht; unfold execVopExp at ht; grind [otp_takeRing, otp_beginVop]

theorem otp_execVopExp2 (q : QueueNo) (d : Desc) (s : State) :
    ∀ st, execVopExp2 q d s = .next st → st.otp = s.otp := by
  intro st ht; unfold execVopExp2 at ht; grind [otp_takeRing, otp_beginVop]

theorem otp_execVopLog (q : QueueNo) (d : Desc) (s : State) :
    ∀ st, execVopLog q d s = .next st → st.otp = s.otp := by
  intro st ht; unfold execVopLog at ht; grind [otp_takeRing, otp_beginVop]

theorem otp_execVopLog2 (q : QueueNo) (d : Desc) (s : State) :
    ∀ st, execVopLog2 q d s = .next st → st.otp = s.otp := by
  intro st ht; unfold execVopLog2 at ht; grind [otp_takeRing, otp_beginVop]

theorem otp_execVopRcp (q : QueueNo) (d : Desc) (s : State) :
    ∀ st, execVopRcp q d s = .next st → st.otp = s.otp := by
  intro st ht; unfold execVopRcp at ht; grind [otp_takeRing, otp_beginVop]

theorem otp_execVopRsqrt (q : QueueNo) (d : Desc) (s : State) :
    ∀ st, execVopRsqrt q d s = .next st → st.otp = s.otp := by
  intro st ht; unfold execVopRsqrt at ht; grind [otp_takeRing, otp_beginVop]

theorem otp_execVopSin (q : QueueNo) (d : Desc) (s : State) :
    ∀ st, execVopSin q d s = .next st → st.otp = s.otp := by
  intro st ht; unfold execVopSin at ht; grind [otp_takeRing, otp_beginVop]

theorem otp_execVopCos (q : QueueNo) (d : Desc) (s : State) :
    ∀ st, execVopCos q d s = .next st → st.otp = s.otp := by
  intro st ht; unfold execVopCos at ht; grind [otp_takeRing, otp_beginVop]

theorem otp_execVopTanh (q : QueueNo) (d : Desc) (s : State) :
    ∀ st, execVopTanh q d s = .next st → st.otp = s.otp := by
  intro st ht; unfold execVopTanh at ht; grind [otp_takeRing, otp_beginVop]

theorem otp_execVopSigmoid (q : QueueNo) (d : Desc) (s : State) :
    ∀ st, execVopSigmoid q d s = .next st → st.otp = s.otp := by
  intro st ht; unfold execVopSigmoid at ht; grind [otp_takeRing, otp_beginVop]

theorem otp_execVopErf (q : QueueNo) (d : Desc) (s : State) :
    ∀ st, execVopErf q d s = .next st → st.otp = s.otp := by
  intro st ht; unfold execVopErf at ht; grind [otp_takeRing, otp_beginVop]

theorem otp_execVopGelu (q : QueueNo) (d : Desc) (s : State) :
    ∀ st, execVopGelu q d s = .next st → st.otp = s.otp := by
  intro st ht; unfold execVopGelu at ht; grind [otp_takeRing, otp_beginVop]

theorem otp_execVopSilu (q : QueueNo) (d : Desc) (s : State) :
    ∀ st, execVopSilu q d s = .next st → st.otp = s.otp := by
  intro st ht; unfold execVopSilu at ht; grind [otp_takeRing, otp_beginVop]

theorem otp_execVopRsum (q : QueueNo) (d : Desc) (s : State) :
    ∀ st, execVopRsum q d s = .next st → st.otp = s.otp := by
  intro st ht; unfold execVopRsum at ht; grind [otp_takeRing, otp_beginVop]

theorem otp_execVopRsumsq (q : QueueNo) (d : Desc) (s : State) :
    ∀ st, execVopRsumsq q d s = .next st → st.otp = s.otp := by
  intro st ht; unfold execVopRsumsq at ht; grind [otp_takeRing, otp_beginVop]

theorem otp_execVopRmax (q : QueueNo) (d : Desc) (s : State) :
    ∀ st, execVopRmax q d s = .next st → st.otp = s.otp := by
  intro st ht; unfold execVopRmax at ht; grind [otp_takeRing, otp_beginVop]

theorem otp_execVopRmin (q : QueueNo) (d : Desc) (s : State) :
    ∀ st, execVopRmin q d s = .next st → st.otp = s.otp := by
  intro st ht; unfold execVopRmin at ht; grind [otp_takeRing, otp_beginVop]

theorem otp_execVopRamax (q : QueueNo) (d : Desc) (s : State) :
    ∀ st, execVopRamax q d s = .next st → st.otp = s.otp := by
  intro st ht; unfold execVopRamax at ht; grind [otp_takeRing, otp_beginVop]

theorem otp_execVopSoftmax (q : QueueNo) (d : Desc) (s : State) :
    ∀ st, execVopSoftmax q d s = .next st → st.otp = s.otp := by
  intro st ht; unfold execVopSoftmax at ht; grind [otp_takeRing, otp_beginVop]

theorem otp_execVopLayernorm (q : QueueNo) (d : Desc) (s : State) :
    ∀ st, execVopLayernorm q d s = .next st → st.otp = s.otp := by
  intro st ht; unfold execVopLayernorm at ht; grind [otp_takeRing, otp_beginVop]

theorem otp_execVopRmsnorm (q : QueueNo) (d : Desc) (s : State) :
    ∀ st, execVopRmsnorm q d s = .next st → st.otp = s.otp := by
  intro st ht; unfold execVopRmsnorm at ht; grind [otp_takeRing, otp_beginVop]

theorem otp_execVopXent (q : QueueNo) (d : Desc) (s : State) :
    ∀ st, execVopXent q d s = .next st → st.otp = s.otp := by
  intro st ht; unfold execVopXent at ht; grind [otp_takeRing, otp_beginVop]

theorem otp_execVopXentgrad (q : QueueNo) (d : Desc) (s : State) :
    ∀ st, execVopXentgrad q d s = .next st → st.otp = s.otp := by
  intro st ht; unfold execVopXentgrad at ht; grind [otp_takeRing, otp_beginVop]

end Sys2Proof.Machine
end

