-- ==== Sys2Proof/Laws/OtpWindow.lean ====
section
/-! SUPPORT. No operation of Machine/Window.lean touches the one-time programmable memory. -/

namespace Sys2Proof.Machine

set_option Elab.async false

@[simp] theorem otp_chargeWindow (s : State) :
    (chargeWindow s).otp = s.otp := by
  unfold chargeWindow; grind [otp_charge]

@[simp] theorem otp_unchargeWindow (s : State) :
    (unchargeWindow s).otp = s.otp := by
  unfold unchargeWindow; grind [otp_uncharge]

@[simp] theorem otp_startWindow (s : State) :
    (startWindow s).otp = s.otp := by
  unfold startWindow; grind [otp_setF, otp_errRecord, otp_chargeWindow]

@[simp] theorem otp_wipeWindow (s : State) :
    (wipeWindow s).otp = s.otp := by
  unfold wipeWindow; grind [otp_forEach, otp_wipeRange]

@[simp] theorem otp_freeWindow (s : State) :
    (freeWindow s).otp = s.otp := by
  unfold freeWindow; grind [otp_setF, otp_unchargeWindow, otp_wipeWindow]

@[simp] theorem otp_followWindow (s : State) :
    (followWindow s).otp = s.otp := by
  unfold followWindow; grind [otp_setF, otp_startWindow]

theorem otp_execHdmctlEn (on : Bool) (s : State) :
    ∀ st, execHdmctlEn on s = .next st → st.otp = s.otp := by
  intro st ht; unfold execHdmctlEn at ht; grind [otp_setF, otp_regAccessError, otp_hostWrite, otp_followWindow]

theorem otp_execHdmsizeWrite (units : Nat) (s : State) :
    ∀ st, execHdmsizeWrite units s = .next st → st.otp = s.otp := by
  intro st ht; unfold execHdmsizeWrite at ht; grind [otp_setF, otp_regAccessError, otp_hostWrite]

theorem otp_execHdmZeroingDone (s : State) :
    ∀ st, execHdmZeroingDone s = .next st → st.otp = s.otp := by
  intro st ht; unfold execHdmZeroingDone at ht; grind [otp_setF, otp_wipeWindow, otp_followWindow]

theorem otp_execHdmReleaseDrained (s : State) :
    ∀ st, execHdmReleaseDrained s = .next st → st.otp = s.otp := by
  intro st ht; unfold execHdmReleaseDrained at ht; grind [otp_freeWindow, otp_followWindow]

theorem otp_execHdmDecoderCommit (size : Nat) (s : State) :
    ∀ st, execHdmDecoderCommit size s = .next st → st.otp = s.otp := by
  intro st ht; unfold execHdmDecoderCommit at ht; grind [otp_hostWrite]

@[simp] theorem otp_snoopRange (o : Nat) (n : Nat) (inv : Bool) (s : State) :
    (snoopRange o n inv s).otp = s.otp := by
  unfold snoopRange; grind [otp_forEach, otp_emit]

@[simp] theorem otp_winRead (o : Nat) (n : Nat) (s : State) :
    (winRead o n s).2.otp = s.otp := by
  unfold winRead; grind [otp_satF, otp_snoopRange]

@[simp] theorem otp_winPutLine (o : Nat) (bs : List Byte) (s : State) :
    (winPutLine o bs s).otp = s.otp := by
  unfold winPutLine; grind [otp_memWrite, otp_healRange]

@[simp] theorem otp_winPut (fuel o : Nat) (bs : List Byte) (s : State) : (winPut fuel o bs s).otp = s.otp := by
  induction fuel generalizing o bs s with
  | zero => rfl
  | succ k ih => unfold winPut; grind [otp_winPutLine]

@[simp] theorem otp_winWrite (o : Nat) (bs : List Byte) (s : State) :
    (winWrite o bs s).otp = s.otp := by
  unfold winWrite; grind [otp_snoopRange, otp_winPut]

theorem otp_execBar4Access (off : Nat) (write : Option (List Byte)) (len : Nat) (s : State) :
    ∀ st, execBar4Access off write len s = .next st → st.otp = s.otp := by
  intro st ht; unfold execBar4Access at ht; grind [otp_forEach, otp_emit, otp_peep, otp_winRead, otp_winWrite]

theorem otp_execCxlMemRead (line : Nat) (s : State) :
    ∀ st, execCxlMemRead line s = .next st → st.otp = s.otp := by
  intro st ht; unfold execCxlMemRead at ht; grind [otp_satF, otp_emit, otp_peep]

theorem otp_execCxlMemWrite (line : Nat) (data : List Byte) (poison : Bool) (s : State) :
    ∀ st, execCxlMemWrite line data poison s = .next st → st.otp = s.otp := by
  intro st ht; unfold execCxlMemWrite at ht; grind [otp_peep, otp_poisonLine, otp_winPutLine]

theorem otp_execHostSnoop (addr : Nat) (s : State) :
    ∀ st, execHostSnoop addr s = .next st → st.otp = s.otp := by
  intro st ht; unfold execHostSnoop at ht; grind [otp_emit]

end Sys2Proof.Machine
end

