-- ==== Sys2Proof/Laws/OtpMovers.lean ====
section
/-! SUPPORT. No operation of Machine/Movers.lean touches the one-time programmable memory. -/

namespace Sys2Proof.Machine

set_option Elab.async false

@[simp] theorem otp_setCover (owner : Nat) (h : Nat) (pane : Nat) (spans : List (Nat × Nat)) (s : State) :
    (setCover owner h pane spans s).otp = s.otp := by
  unfold setCover; grind []

@[simp] theorem otp_placeForWrite (root : Tensor) (i : Nat) (s : State) : (placeForWrite root i s).2.1.otp = s.otp := by
  have h1 := fun tier => otp_allocAll tier root [i] s
  unfold placeForWrite; grind [otp_recordQlast]

@[simp] theorem otp_mergeCopy (root : Tensor) (w : WorkCopy) (l : PaneLoc) (s : State) :
    (mergeCopy root w l s).1.otp = s.otp := by
  unfold mergeCopy; grind [otp_checkedRead, otp_setCover]

@[simp] theorem otp_writeMerged (root : Tensor) (i : Nat) (l : PaneLoc) (p : PaneData) (spans : List (Nat × Nat)) (anew : Bool) (s : State) :
    (writeMerged root i l p spans anew s).otp = s.otp := by
  unfold writeMerged; grind [otp_memPutCells, otp_writePane, otp_healSpans]

@[simp] theorem otp_slotForWrite (w : WorkCopy) (s : State) : (slotForWrite w s).2.1.otp = s.otp := by
  have h1 := otp_placeForWrite (tensorAt w.handle s) w.pane s
  unfold slotForWrite; dsimp only
  split
  · rfl
  · split
    · rename_i heq; rw [heq] at h1; exact h1
    · rename_i l u st heq
      rw [heq] at h1
      split
      · exact h1
      · split <;> (rename_i h2; have h3 := otp_programSlot l 66560 u; rw [h2] at h3; exact h3.trans h1)

@[simp] theorem otp_storeCopy (w : WorkCopy) (s : State) : (storeCopy w s).1.otp = s.otp := by
  have h1 := otp_slotForWrite w s
  unfold storeCopy; dsimp only
  split
  · rename_i heq; rw [heq] at h1; exact h1
  · rename_i heq; rw [heq] at h1
    exact (otp_writeMerged _ _ _ _ _ _ _).trans ((otp_mergeCopy _ _ _ _).trans h1)

@[simp] theorem otp_cleanCopy (w : WorkCopy) (s : State) :
    (cleanCopy w s).otp = s.otp := by
  unfold cleanCopy; grind []

theorem otp_execMoverWriteBack (n : CoreNo) (handle : Nat) (pane : Nat) (s : State) :
    ∀ st, execMoverWriteBack n handle pane s = .next st → st.otp = s.otp := by
  intro st ht; unfold execMoverWriteBack at ht; grind [otp_startCommit, otp_orPart, otp_checkEnd, otp_storeCopy, otp_cleanCopy]

@[simp] theorem otp_flashBad (root : Tensor) (i : Nat) (bad : Nat) (s : State) :
    (flashBad root i bad s).otp = s.otp := by
  unfold flashBad; grind [otp_markPoison, otp_flashUncorrectable]

@[simp] theorem otp_peepPort (h : Nat) (i : Nat) (n : Nat) (s : State) :
    (peepPort h i n s).otp = s.otp := by
  unfold peepPort; grind [otp_peep]

@[simp] theorem otp_trimCopies (n : Nat) (s : State) :
    (trimCopies n s).otp = s.otp := by
  unfold trimCopies; grind []

@[simp] theorem otp_stagePane (n : Nat) (owner : Nat) (handle : Nat) (pane : Nat) (p : PaneData) (sill : List (Nat × Nat)) (s : State) :
    (stagePane n owner handle pane p sill s).otp = s.otp := by
  unfold stagePane; grind [otp_upsertCopy, otp_trimCopies]

theorem otp_execPaneRead (n : MoverEnd) (handle : Nat) (pane : Nat) (bad : ReadFault) (s : State) :
    ∀ st, execPaneRead n handle pane bad s = .next st → st.otp = s.otp := by
  intro st ht; unfold execPaneRead at ht; grind [otp_forEach, otp_moverRead, otp_flashBad, otp_peepPort, otp_stagePane]

@[simp] theorem otp_stageTensor (owner : Nat) (t : Tensor) (s : State) :
    (stageTensor owner t s).otp = s.otp := by
  unfold stageTensor; grind [otp_forEach, otp_moverRead, otp_upsertCopy, otp_peepPort]

@[simp] theorem otp_flushCopies (owner : Nat) (s : State) : (flushCopies owner s).1.otp = s.otp := by
  unfold flushCopies; exact foldl_fst_eq (fun s => s.otp) _ _ _ (fun b x => by simp [otp_cleanCopy, otp_storeCopy])

@[simp] theorem otp_endWhole (e : InFlight) (status : Nat) (flags : Nat) (s : State) :
    (endWhole e status flags s).otp = s.otp := by
  unfold endWhole; grind [otp_setFlight]

@[simp] theorem otp_writeScalar (owner : Nat) (t : Tensor) (root : Tensor) (x : List Nat) (bits : Nat) (poison : Bool) (s : State) :
    (writeScalar owner t root x bits poison s).otp = s.otp := by
  unfold writeScalar; grind [otp_putElem]

@[simp] theorem otp_writeBlock (owner : Nat) (t : Tensor) (root : Tensor) (x : List Nat) (len : Nat) (scale : Nat) (elems : List Nat) (poison : Bool) (s : State) :
    (writeBlock owner t root x len scale elems poison s).otp = s.otp := by
  unfold writeBlock; grind [otp_putBlock]

@[simp] theorem otp_convertInto (owner : Nat) (t : Tensor) (flush : Bool) (f : List Nat → Num × Nat × Bool) (s : State) :
    (convertInto owner t flush f s).1.otp = s.otp := by
  unfold convertInto; dsimp only; split <;> exact foldl_fst_eq (fun s => s.otp) _ _ _ (fun b x => by simp)

@[simp] theorem otp_copyBits (owner : Nat) (a b : Tensor) (s : State) : (copyBits owner a b s).1.otp = s.otp := by
  unfold copyBits; dsimp only; split <;> exact foldl_fst_eq (fun s => s.otp) _ _ _ (fun b x => by simp)

@[simp] theorem otp_moveCopyWork (e : InFlight) (s : State) :
    (moveCopyWork e s).otp = s.otp := by
  unfold moveCopyWork; grind [otp_stageTensor, otp_flushCopies, otp_endWhole, otp_convertInto, otp_copyBits]

@[simp] theorem otp_moveFillWork (e : InFlight) (s : State) :
    (moveFillWork e s).otp = s.otp := by
  unfold moveFillWork; grind [otp_flushCopies, otp_endWhole, otp_convertInto]

@[simp] theorem otp_moveImportWork (e : InFlight) (s : State) : (moveImportWork e s).otp = s.otp := by
  unfold moveImportWork; dsimp only; rw [otp_endWhole, otp_flushCopies]
  split <;> exact (foldl_fst_eq (fun s => s.otp) _ _ _ (fun b x => by simp)).trans (by simp)

@[simp] theorem otp_moveExportWork (e : InFlight) (s : State) :
    (moveExportWork e s).otp = s.otp := by
  unfold moveExportWork; grind [otp_winWrite, otp_stageTensor, otp_endWhole]

@[simp] theorem otp_movePane (t : Tensor) (i : Nat) (old : PaneLoc) (l : PaneLoc) (s : State) :
    (movePane t i old l s).1.otp = s.otp := by
  unfold movePane; grind [otp_charge, otp_uncharge, otp_setLoc, otp_freeSlotBytes, otp_writePane, otp_programSlot, otp_checkedRead]

theorem otp_migrateAll (tier : Nat) (t : Tensor) (is : List Nat) (a : State × Bool × Nat) :
    ∀ r, migrateAll tier t is a = some r → r.1.otp = a.1.otp := by
  induction is generalizing a with
  | nil => intro r hr; unfold migrateAll at hr; grind
  | cons i t ih => intro r hr; unfold migrateAll at hr; grind [otp_movePane]

@[simp] theorem otp_moveMigrateWork (e : InFlight) (s : State) : (moveMigrateWork e s).otp = s.otp := by
  have hm : ∀ tier t is r, migrateAll tier t is (s, false, 0) = some r → r.1.otp = s.otp := fun tier t is r => otp_migrateAll tier t is _ r
  unfold moveMigrateWork; dsimp only
  split
  · simp
  · split
    · simp
    · rename_i heq; exact (otp_endWhole _ _ _ _).trans (hm _ _ _ _ heq)

@[simp] theorem otp_moveReleaseWork (e : InFlight) (s : State) :
    (moveReleaseWork e s).otp = s.otp := by
  unfold moveReleaseWork; grind [otp_forEach, otp_releasePane, otp_endWhole]

@[simp] theorem otp_beginMove (e : InFlight) (s : State) :
    (beginMove e s).otp = s.otp := by
  unfold beginMove; grind [otp_validated, otp_chargeThen, otp_moveCopyWork, otp_moveFillWork, otp_moveImportWork, otp_moveExportWork, otp_moveMigrateWork, otp_moveReleaseWork]

@[simp] theorem otp_takeMove (op : Nat) (q : QueueNo) (d : Desc) (s : State) :
    (takeMove op q d s).otp = s.otp := by
  unfold takeMove; grind [otp_takeRing, otp_beginMove]

theorem otp_execMoveCopy (q : QueueNo) (d : Desc) (s : State) :
    ∀ st, execMoveCopy q d s = .next st → st.otp = s.otp := by
  intro st ht; unfold execMoveCopy at ht; grind [otp_takeMove]

theorem otp_execMoveFill (q : QueueNo) (d : Desc) (s : State) :
    ∀ st, execMoveFill q d s = .next st → st.otp = s.otp := by
  intro st ht; unfold execMoveFill at ht; grind [otp_takeMove]

theorem otp_execMoveMigrate (q : QueueNo) (d : Desc) (s : State) :
    ∀ st, execMoveMigrate q d s = .next st → st.otp = s.otp := by
  intro st ht; unfold execMoveMigrate at ht; grind [otp_takeMove]

theorem otp_execMoveImport (q : QueueNo) (d : Desc) (s : State) :
    ∀ st, execMoveImport q d s = .next st → st.otp = s.otp := by
  intro st ht; unfold execMoveImport at ht; grind [otp_takeMove]

theorem otp_execMoveExport (q : QueueNo) (d : Desc) (s : State) :
    ∀ st, execMoveExport q d s = .next st → st.otp = s.otp := by
  intro st ht; unfold execMoveExport at ht; grind [otp_takeMove]

theorem otp_execMoveRelease (q : QueueNo) (d : Desc) (s : State) :
    ∀ st, execMoveRelease q d s = .next st → st.otp = s.otp := by
  intro st ht; unfold execMoveRelease at ht; grind [otp_takeMove]

end Sys2Proof.Machine
end

