-- ==== Sys2Proof/Laws/OtpPlacement.lean ====
section
/-! SUPPORT. No operation of Machine/Placement.lean touches the one-time programmable memory. -/

namespace Sys2Proof.Machine

set_option Elab.async false

@[simp] theorem otp_showCores (l : List (Nat × Nat × Nat)) (s : State) :
    (showCores l s).otp = s.otp := by
  unfold showCores; grind [otp_setF, otp_forEach]

@[simp] theorem otp_showNode (im : Image) (r : Nat × Nat × Nat) (st : List (Nat × Nat)) (s : State) :
    (showNode im r st s).otp = s.otp := by
  unfold showNode; grind [otp_setF]

@[simp] theorem otp_placeTensor (held : Tensor → List Nat) (t : Tensor) (s : State) :
    (placeTensor held t s).otp = s.otp := by
  unfold placeTensor; grind [otp_setF, otp_forEach, otp_allocPane]

@[simp] theorem otp_takeTopology (s : State) :
    (takeTopology s).otp = s.otp := by
  unfold takeTopology; grind [otp_forEach, otp_setCart]

@[simp] theorem otp_placeImage (held : Tensor → List Nat) (s : State) :
    (placeImage held s).1.otp = s.otp := by
  unfold placeImage; grind [otp_setF, otp_forEach, otp_showCores, otp_showNode, otp_placeTensor, otp_takeTopology]

@[simp] theorem otp_placed (perr : Nat) (s : State) :
    (placed perr s).otp = s.otp := by
  unfold placed; grind [otp_setF, otp_addF]

theorem otp_execTierReplace (s : State) :
    ∀ st, execTierReplace s = .next st → st.otp = s.otp := by
  intro st ht; unfold execTierReplace at ht; grind [otp_setF, otp_hostWrite]

@[simp] theorem otp_collectPanes (s : State) : (collectPanes s).2.otp = s.otp := by
  unfold collectPanes
  exact foldl_snd_eq (fun s => s.otp) _ _ _ (fun b x => by dsimp only; (repeat' split) <;> simp)

@[simp] theorem otp_putWindowUnit (runs : List (Nat × Nat × Nat)) (u : Nat) (x : Option (List Host.Cell × List Nat)) (s : State) :
    (putWindowUnit runs u x s).otp = s.otp := by
  unfold putWindowUnit; grind [otp_forEach, otp_memPutCells, otp_poisonLine, otp_healRange]

@[simp] theorem otp_moveWindow (new : List (Nat × Nat × Nat)) (before : State) (s : State) :
    (moveWindow new before s).otp = s.otp := by
  unfold moveWindow; grind [otp_setF, otp_forEach, otp_putWindowUnit]

@[simp] theorem otp_putPane (m : MovedPane) (s : State) :
    (putPane m s).otp = s.otp := by
  unfold putPane; grind [otp_writePane, otp_programWhole]

@[simp] theorem otp_replaceFails (perr : Nat) (s : State) :
    (replaceFails perr s).otp = s.otp := by
  unfold replaceFails; grind [otp_setF, otp_placed]

@[simp] theorem otp_replaceNow (s : State) :
    (replaceNow s).otp = s.otp := by
  unfold replaceNow; grind [otp_setF, otp_forEach, otp_healRange, otp_freeSlotBytes, otp_chargeWindow, otp_placeImage, otp_placed, otp_collectPanes, otp_moveWindow, otp_putPane, otp_replaceFails]

theorem otp_execReplaceQuiesced (s : State) :
    ∀ st, execReplaceQuiesced s = .next st → st.otp = s.otp := by
  intro st ht; unfold execReplaceQuiesced at ht; grind [otp_setF, otp_replaceNow]

@[simp] theorem otp_setMqdata (ws : List Nat) (s : State) :
    (setMqdata ws s).otp = s.otp := by
  unfold setMqdata; grind [otp_setF, otp_forEach]

theorem otp_execMqReadMetadata (s : State) :
    ∀ st, execMqReadMetadata s = .next st → st.otp = s.otp := by
  intro st ht; unfold execMqReadMetadata at ht; grind [otp_setF, otp_hostWrite, otp_setMqdata]

theorem otp_execMqReadPlacement (s : State) :
    ∀ st, execMqReadPlacement s = .next st → st.otp = s.otp := by
  intro st ht; unfold execMqReadPlacement at ht; grind [otp_setF, otp_hostWrite, otp_setMqdata]

end Sys2Proof.Machine
end

