-- ==== Sys2Proof/Laws/OtpLinks.lean ====
section
/-! SUPPORT. No operation of Machine/Links.lean touches the one-time programmable memory. -/

namespace Sys2Proof.Machine

set_option Elab.async false

@[simp] theorem otp_setDw (w : Nat) (f : DwAux → DwAux) (s : State) :
    (setDw w f s).otp = s.otp := by
  unfold setDw; grind []

@[simp] theorem otp_linkRecord (sev : Nat) (w : Nat) (detail : List Nat) (s : State) :
    (linkRecord sev w detail s).otp = s.otp := by
  unfold linkRecord; grind [otp_errRecord]

@[simp] theorem otp_writeDwctl (w : Nat) (value : Nat) (s : State) :
    (writeDwctl w value s).otp = s.otp := by
  unfold writeDwctl; grind [otp_setF, otp_regAccessError]

theorem otp_execDwctlWrite (w : DoorwayNo) (value : Nat) (s : State) :
    ∀ st, execDwctlWrite w value s = .next st → st.otp = s.otp := by
  intro st ht; unfold execDwctlWrite at ht; grind [otp_hostWrite, otp_writeDwctl]

@[simp] theorem otp_startTraining (w : Nat) (s : State) :
    (startTraining w s).otp = s.otp := by
  unfold startTraining; grind [otp_setF, otp_emit]

@[simp] theorem otp_trainingFails (w : Nat) (s : State) :
    (trainingFails w s).otp = s.otp := by
  unfold trainingFails; grind [otp_setF, otp_setDw, otp_linkRecord]

theorem otp_execLinkTrainingDone (w : DoorwayNo) (r : LinkTraining) (s : State) :
    ∀ st, execLinkTrainingDone w r s = .next st → st.otp = s.otp := by
  intro st ht; unfold execLinkTrainingDone at ht; grind [otp_setF, otp_setDw, otp_trainingFails]

theorem otp_execLinkLockLoss (w : DoorwayNo) (s : State) :
    ∀ st, execLinkLockLoss w s = .next st → st.otp = s.otp := by
  intro st ht; unfold execLinkLockLoss at ht; grind [otp_setDw, otp_startTraining]

@[simp] theorem otp_sendFrame (w : Nat) (p : List Byte) (s : State) :
    (sendFrame w p s).otp = s.otp := by
  unfold sendFrame; grind [otp_addF, otp_emit, otp_peep]

@[simp] theorem otp_drainFrames (w : Nat) (s : State) :
    (drainFrames w s).otp = s.otp := by
  unfold drainFrames; grind [otp_forEach, otp_setDw, otp_sendFrame]

@[simp] theorem otp_sendPacket (w : Nat) (tc : Nat) (p : List Byte) (s : State) :
    (sendPacket w tc p s).otp = s.otp := by
  unfold sendPacket; grind [otp_setDw, otp_drainFrames]

@[simp] theorem otp_arrive (w : Nat) (p : List Byte) (ce : Bool) (s : State) :
    (arrive w p ce s).otp = s.otp := by
  unfold arrive; grind [otp_addF, otp_satF, otp_setDw]

theorem otp_takeArrived (w : Nat) (kind : Nat) (p : List Byte) (ce : Bool) (s : State) :
    ∀ st, takeArrived w kind p ce s = some st → st.otp = s.otp := by
  intro st ht; unfold takeArrived at ht; grind [otp_setDw]

theorem otp_execFlitSend (w : DoorwayNo) (s : State) :
    ∀ st, execFlitSend w s = .next st → st.otp = s.otp := by
  intro st ht; unfold execFlitSend at ht; grind [otp_addF, otp_emit, otp_peep, otp_setDw]

@[simp] theorem otp_retireGap (w : Nat) (tc : Nat) (fseq : Nat) (s : State) :
    (retireGap w tc fseq s).otp = s.otp := by
  unfold retireGap; grind [otp_setDw]

@[simp] theorem otp_takeCredits (w : Nat) (cred : Nat) (s : State) :
    (takeCredits w cred s).otp = s.otp := by
  unfold takeCredits; grind [otp_setDw]

@[simp] theorem otp_countFec (w t : Nat) (errors : List Nat) (s : State) :
    (countFec w t errors s).otp = s.otp := by
  unfold countFec; grind [otp_addF]

@[simp] theorem otp_takeFlit (w : Nat) (flit : List Byte) (s : State) :
    (takeFlit w flit s).otp = s.otp := by
  unfold takeFlit; grind [otp_satF, otp_forEach, otp_peep, otp_setDw, otp_arrive, otp_retireGap, otp_takeCredits]

theorem otp_execFlitReceive (w : DoorwayNo) (flit : LineIn) (s : State) :
    ∀ st, execFlitReceive w flit s = .next st → st.otp = s.otp := by
  intro st ht; unfold execFlitReceive at ht; grind [otp_takeFlit, otp_countFec]

@[simp] theorem otp_takePfc (w : Nat) (f : List Byte) (s : State) :
    (takePfc w f s).otp = s.otp := by
  unfold takePfc; grind [otp_setDw, otp_drainFrames]

@[simp] theorem otp_takeFrame (w : Nat) (frame : List Byte) (s : State) :
    (takeFrame w frame s).otp = s.otp := by
  unfold takeFrame; grind [otp_satF, otp_peep, otp_arrive, otp_takePfc]

theorem otp_execFrameReceive (w : DoorwayNo) (frame : LineIn) (s : State) :
    ∀ st, execFrameReceive w frame s = .next st → st.otp = s.otp := by
  intro st ht; unfold execFrameReceive at ht; grind [otp_takeFrame, otp_countFec]

theorem otp_execPriorityFlowControlPauseEnd (w : DoorwayNo) (prio : Fin 8) (s : State) :
    ∀ st, execPriorityFlowControlPauseEnd w prio s = .next st → st.otp = s.otp := by
  intro st ht; unfold execPriorityFlowControlPauseEnd at ht; grind [otp_setDw, otp_drainFrames]

end Sys2Proof.Machine
end

