-- ==== Sys2Proof/Laws/OtpColl.lean ====
section
/-! SUPPORT. No operation of Machine/Coll.lean touches the one-time programmable memory. -/

namespace Sys2Proof.Machine

set_option Elab.async false

@[simp] theorem otp_setCtx (x : Nat) (f : CompCtx → CompCtx) (s : State) :
    (setCtx x f s).otp = s.otp := by
  unfold setCtx; grind []

@[simp] theorem otp_installTable (x : Nat) (t : CompTable) (s : State) :
    (installTable x t s).otp = s.otp := by
  unfold installTable; grind [otp_setCtx]

@[simp] theorem otp_retireIfDone (x : Nat) (s : State) :
    (retireIfDone x s).otp = s.otp := by
  unfold retireIfDone; grind [otp_setF, otp_trace, otp_setCtx]

@[simp] theorem otp_setColl (id : Nat) (f : CollJob → CollJob) (s : State) :
    (setColl id f s).otp = s.otp := by
  unfold setColl; grind []

@[simp] theorem otp_gatherDone (j : CollJob) (s : State) :
    (gatherDone j s).otp = s.otp := by
  unfold gatherDone; grind [otp_forEach, otp_emit, otp_setColl]

@[simp] theorem otp_collProgress (tag : Nat) (s : State) :
    (collProgress tag s).otp = s.otp := by
  unfold collProgress; grind [otp_emit, otp_setColl, otp_gatherDone]

@[simp] theorem otp_allocShadow (tier : Nat) (t : Tensor) (id : Nat) (i : Nat) (s : State) :
    (allocShadow tier t id i s).otp = s.otp := by
  unfold allocShadow; grind [otp_charge, otp_freeSlotBytes]

theorem otp_shadowAll (id : Nat) (t : Tensor) (s : State) :
    (∀ u, (shadowAll id t s).1 = some u → u.otp = s.otp) ∧ (shadowAll id t s).2.1.otp = s.otp := by
  have hf : ∀ is root tier, (forEach is (fun i s => allocShadow tier root id i s) s).otp = s.otp :=
    fun is root tier => otp_forEach _ _ _ (fun i x => otp_allocShadow tier root id i x)
  unfold shadowAll
  grind [otp_recordQlast]

theorem otp_shadowEach (id : Nat) (hs : List Nat) (s : State) :
    (∀ u, (shadowEach id hs s).1 = some u → u.otp = s.otp) ∧ (shadowEach id hs s).2.1.otp = s.otp := by
  induction hs generalizing s with
  | nil => unfold shadowEach; grind
  | cons a t ih =>
    have h1 := otp_shadowAll id (tensorAt a s) s
    unfold shadowEach
    rcases hA : shadowAll id (tensorAt a s) s with ⟨_ | u, q, st⟩
    · rw [hA] at h1; exact ⟨by simp, h1.2⟩
    · rw [hA] at h1
      have hu := h1.1 u rfl
      have h2 := ih u
      rcases hB : shadowEach id t u with ⟨_ | v, q', st'⟩ <;> simp only [hB]
      · exact ⟨by simp, by simp⟩
      · rw [hB] at h2; exact ⟨fun w hw => by cases hw; exact (h2.1 _ rfl).trans hu, trivial⟩

@[simp] theorem otp_dropShadows (id : Nat) (s : State) :
    (dropShadows id s).otp = s.otp := by
  unfold dropShadows; grind [otp_forEach, otp_uncharge, otp_freeSlotBytes]

@[simp] theorem otp_commitShadow (w : WorkCopy) (s : State) :
    (commitShadow w s).1.otp = s.otp := by
  unfold commitShadow; grind [otp_setLoc, otp_releasePane, otp_writePane, otp_programSlot, otp_moverRead]

@[simp] theorem otp_commitShadows (id : Nat) (s : State) :
    (commitShadows id s).1.otp = s.otp := by
  unfold commitShadows; (repeat' split) <;> simp [otp_dropShadows, otp_commitShadow]

@[simp] theorem otp_putLinearByte (owner : Nat) (t : Tensor) (root : Tensor) (o : Nat) (b : Byte) (s : State) :
    (putLinearByte owner t root o b s).otp = s.otp := by
  unfold putLinearByte; grind [otp_putSpan, otp_putTadj]

@[simp] theorem otp_putLinear (owner : Nat) (t : Tensor) (o : Nat) (bs : List Byte) (s : State) :
    (putLinear owner t o bs s).otp = s.otp := by
  unfold putLinear; grind [otp_forEach, otp_writeScalar, otp_putLinearByte]

@[simp] theorem otp_poisonLinear (owner : Nat) (t : Tensor) (o : Nat) (s : State) :
    (poisonLinear owner t o s).otp = s.otp := by
  unfold poisonLinear; grind [otp_putPoison]

@[simp] theorem otp_dropColl (j : CollJob) (s : State) :
    (dropColl j s).otp = s.otp := by
  unfold dropColl; grind [otp_forEach, otp_setCtx]

@[simp] theorem otp_failColl (status : Nat) (j : CollJob) (s : State) :
    (failColl status j s).otp = s.otp := by
  unfold failColl; grind [otp_finish, otp_dropShadows, otp_dropColl]

@[simp] theorem otp_reportDigests (j : CollJob) (s : State) :
    (reportDigests j s).otp = s.otp := by
  unfold reportDigests; grind [otp_setF, otp_forEach, otp_errRecord]

@[simp] theorem otp_commitColl (j : CollJob) (s : State) :
    (commitColl j s).otp = s.otp := by
  unfold commitColl; grind [otp_forEach, otp_finish, otp_commitShadows, otp_putLinear, otp_poisonLinear, otp_dropColl, otp_reportDigests]

@[simp] theorem otp_setConn (w : Nat) (peer : Nat) (f : Conn → Conn) (s : State) :
    (setConn w peer f s).otp = s.otp := by
  unfold setConn; grind []

@[simp] theorem otp_endCarriage (status : Nat) (peer : Option Nat) (s : State) :
    (endCarriage status peer s).otp = s.otp := by
  unfold endCarriage; grind []

@[simp] theorem otp_failConn (w : Nat) (peer : Nat) (s : State) :
    (failConn w peer s).otp = s.otp := by
  unfold failConn; grind [otp_setF, otp_satF, otp_forEach, otp_trace, otp_linkRecord, otp_failColl, otp_setConn, otp_endCarriage]

end Sys2Proof.Machine
end

