-- ==== Sys2Proof/Laws/OtpTransport.lean ====
section
/-! SUPPORT. No operation of Machine/Transport.lean touches the one-time programmable memory. -/

namespace Sys2Proof.Machine

set_option Elab.async false

@[simp] theorem otp_sendAck (w : Nat) (peer : Nat) (s : State) :
    (sendAck w peer s).otp = s.otp := by
  unfold sendAck; grind [otp_sendPacket, otp_setConn]

@[simp] theorem otp_sendNack (w : Nat) (peer : Nat) (psn : Nat) (tag : Nat) (reason : Nat) (gen : Nat) (s : State) :
    (sendNack w peer psn tag reason gen s).otp = s.otp := by
  unfold sendNack; grind [otp_sendPacket]

@[simp] theorem otp_resend (w : Nat) (peer : Nat) (psn : Nat) (s : State) :
    (resend w peer psn s).otp = s.otp := by
  unfold resend; grind [otp_peep, otp_trace, otp_sendPacket, otp_setConn, otp_failConn]

@[simp] theorem otp_queueRec (t : CollStream) (r : SendRec) (s : State) :
    (queueRec t r s).otp = s.otp := by
  unfold queueRec; grind [otp_setConn]

@[simp] theorem otp_advanceStream (j : CollJob) (t : CollStream) (s : State) :
    (advanceStream j t s).otp = s.otp := by
  unfold advanceStream; grind [otp_setColl]

@[simp] theorem otp_countBlock (ce : Nat) (event : Nat) (record : Nat) (bytes : Nat) (s : State) :
    (countBlock ce event record bytes s).otp = s.otp := by
  unfold countBlock; grind [otp_addF, otp_peep]

@[simp] theorem otp_countTable (ce : Nat) (n : Nat) (s : State) :
    (countTable ce n s).otp = s.otp := by
  unfold countTable; grind [otp_addF, otp_peep]

@[simp] theorem otp_queueRaw (w : Nat) (peer : Nat) (s : State) :
    (queueRaw w peer s).otp = s.otp := by
  unfold queueRaw; grind [otp_queueRec, otp_advanceStream, otp_countBlock]

theorem otp_execDataSend (w : DoorwayNo) (peer : Nat) (s : State) :
    ∀ st, execDataSend w peer s = .next st → st.otp = s.otp := by
  intro st ht; unfold execDataSend at ht; grind [otp_sendPacket, otp_setConn, otp_queueRaw]

@[simp] theorem otp_deliver (j : CollJob) (peer : Nat) (v : Nat) (down : Bool) (bs : List Byte) (flags : Nat) (s : State) :
    (deliver j peer v down bs flags s).otp = s.otp := by
  unfold deliver; grind [otp_setColl, otp_collProgress]

@[simp] theorem otp_acceptNext (w : Nat) (peer : Nat) (s : State) :
    (acceptNext w peer s).otp = s.otp := by
  unfold acceptNext; grind [otp_setConn, otp_sendAck]

@[simp] theorem otp_rejectNext (w : Nat) (peer : Nat) (psn : Nat) (tag : Nat) (reason : Nat) (gen : Nat) (s : State) :
    (rejectNext w peer psn tag reason gen s).otp = s.otp := by
  unfold rejectNext; grind [otp_setConn, otp_sendNack]

@[simp] theorem otp_drainWindow (w peer fuel : Nat) (s : State) : (drainWindow w peer fuel s).otp = s.otp := by
  induction fuel generalizing s with
  | zero => rfl
  | succ k ih => unfold drainWindow; dsimp only; (repeat' split) <;> simp [ih]

@[simp] theorem otp_drainAll (s : State) :
    (drainAll s).otp = s.otp := by
  unfold drainAll; grind [otp_forEach, otp_drainWindow]

theorem otp_execPacketData (w : DoorwayNo) (pkt : List Byte) (ce : Bool) (s : State) :
    ∀ st, execPacketData w pkt ce s = .next st → st.otp = s.otp := by
  intro st ht; unfold execPacketData at ht
  simp only [Host.Outcome.next.injEq] at ht; subst ht
  split
  · rfl
  · rename_i t heq
    have h2 := otp_takeArrived _ _ _ _ _ _ heq
    have h3 : ∀ peer g, (if ce then setConn w peer g t else t).otp = s.otp := fun peer g => by
      split
      · exact (otp_setConn _ _ _ _).trans h2
      · exact h2
    (repeat' split) <;> first | exact h2 | exact h3 _ _ | simp only [otp_sendAck, otp_setConn, otp_drainWindow, h3, h2]

@[simp] theorem otp_ackPackets (l : List TxPkt) (s : State) :
    (ackPackets l s).otp = s.otp := by
  unfold ackPackets; grind [otp_forEach, otp_setCtx, otp_retireIfDone]

@[simp] theorem otp_packetAck (w : Nat) (pkt : List Byte) (ce : Bool) (s : State) :
    (packetAck w pkt ce s).otp = s.otp := by
  unfold packetAck; grind [otp_forEach, otp_takeArrived, otp_setConn, otp_resend, otp_ackPackets]

@[simp] theorem otp_packetNack (w : Nat) (pkt : List Byte) (ce : Bool) (s : State) : (packetNack w pkt ce s).otp = s.otp := by
  unfold packetNack
  split
  · rfl
  · rename_i t heq
    have h2 := otp_takeArrived _ _ _ _ _ _ heq
    dsimp only
    (repeat' split) <;> simp [h2]

theorem otp_execPacketTable (w : DoorwayNo) (pkt : List Byte) (ce : Bool) (s : State) :
    ∀ st, execPacketTable w pkt ce s = .next st → st.otp = s.otp := by
  intro st ht; unfold execPacketTable at ht; grind [otp_takeArrived, otp_installTable, otp_countTable]

theorem otp_execAckTimer (w : DoorwayNo) (peer : Nat) (s : State) :
    ∀ st, execAckTimer w peer s = .next st → st.otp = s.otp := by
  intro st ht; unfold execAckTimer at ht; grind [otp_sendAck]

@[simp] theorem otp_rtoExpiry (w : Nat) (peer : Nat) (s : State) :
    (rtoExpiry w peer s).otp = s.otp := by
  unfold rtoExpiry; grind [otp_resend]

theorem otp_execNotreadyTimer (w : DoorwayNo) (peer : Nat) (s : State) :
    ∀ st, execNotreadyTimer w peer s = .next st → st.otp = s.otp := by
  intro st ht; unfold execNotreadyTimer at ht; grind [otp_setConn, otp_drainWindow]

end Sys2Proof.Machine
end

