-- ==== Sys2Proof/Laws/OtpStreams.lean ====
section
/-! SUPPORT. No operation of Machine/Streams.lean touches the one-time programmable memory. -/

namespace Sys2Proof.Machine

set_option Elab.async false

@[simp] theorem otp_beginComp (e : InFlight) (s : State) :
    (beginComp e s).otp = s.otp := by
  unfold beginComp; grind [otp_validated, otp_launch, otp_chargeThen]

@[simp] theorem otp_takeComp (op : Nat) (q : QueueNo) (d : Desc) (s : State) :
    (takeComp op q d s).otp = s.otp := by
  unfold takeComp; grind [otp_takeRing, otp_beginComp]

theorem otp_execCompEncode (q : QueueNo) (d : Desc) (s : State) :
    ∀ st, execCompEncode q d s = .next st → st.otp = s.otp := by
  intro st ht; unfold execCompEncode at ht; grind [otp_takeComp]

theorem otp_execCompDecode (q : QueueNo) (d : Desc) (s : State) :
    ∀ st, execCompDecode q d s = .next st → st.otp = s.otp := by
  intro st ht; unfold execCompDecode at ht; grind [otp_takeComp]

theorem otp_execCompConfig (q : QueueNo) (d : Desc) (s : State) :
    ∀ st, execCompConfig q d s = .next st → st.otp = s.otp := by
  intro st ht; unfold execCompConfig at ht; grind [otp_takeComp]

theorem otp_execCompReset (q : QueueNo) (d : Desc) (s : State) :
    ∀ st, execCompReset q d s = .next st → st.otp = s.otp := by
  intro st ht; unfold execCompReset at ht; grind [otp_takeComp]

@[simp] theorem otp_setCjob (x : Nat) (f : CompJob → CompJob) (s : State) :
    (setCjob x f s).otp = s.otp := by
  unfold setCjob; grind []

@[simp] theorem otp_endComp (id : Nat) (ce : Nat) (status : Nat) (flags : Nat) (s : State) :
    (endComp id ce status flags s).otp = s.otp := by
  unfold endComp; grind [otp_endPart, otp_setSticky]

@[simp] theorem otp_putFeedback (c : Coding) (off : Nat) (es : Option (List Nat)) (s : State) :
    (putFeedback c off es s).otp = s.otp := by
  unfold putFeedback; grind [otp_forEach, otp_writeScalar]

@[simp] theorem otp_newGeneration (x : Nat) (c : Coding) (body : List Byte) (s : State) :
    (newGeneration x c body s).2.otp = s.otp := by
  unfold newGeneration; grind [otp_trace, otp_setCtx]

@[simp] theorem otp_blockCoded (x : Nat) (r : Coded) (record : Nat) (s : State) :
    (blockCoded x r record s).otp = s.otp := by
  unfold blockCoded; grind [otp_satF, otp_peep, otp_setCtx, otp_countBlock]

@[simp] theorem otp_endEncode (e : InFlight) (j : CompJob) (s : State) :
    (endEncode e j s).otp = s.otp := by
  unfold endEncode; grind [otp_winWrite, otp_flushCopies, otp_endComp]

@[simp] theorem otp_encodeNext (e : InFlight) (j : CompJob) (s : State) :
    (encodeNext e j s).otp = s.otp := by
  unfold encodeNext; grind [otp_winWrite, otp_countTable, otp_setCjob, otp_putFeedback, otp_blockCoded, otp_endEncode]

@[simp] theorem otp_buildMemory (e : InFlight) (j : CompJob) (s : State) :
    (buildMemory e j s).otp = s.otp := by
  unfold buildMemory; grind [otp_retireIfDone, otp_setCjob, otp_newGeneration]

@[simp] theorem otp_linkNext (x : Nat) (j : CollJob) (t : CollStream) (s : State) :
    (linkNext x j t s).otp = s.otp := by
  unfold linkNext; grind [otp_setSticky, otp_setCtx, otp_setColl, otp_queueRec, otp_advanceStream, otp_putFeedback, otp_blockCoded]

@[simp] theorem otp_buildLink (x : Nat) (j : CollJob) (t : CollStream) (s : State) :
    (buildLink x j t s).otp = s.otp := by
  unfold buildLink; grind [otp_setCtx, otp_retireIfDone, otp_queueRec, otp_countTable, otp_newGeneration]

theorem otp_execTableBuild (x : ContextNo) (s : State) :
    ∀ st, execTableBuild x s = .next st → st.otp = s.otp := by
  intro st ht; unfold execTableBuild at ht; grind [otp_buildMemory, otp_buildLink]

theorem otp_execCompBlockEncode (x : ContextNo) (s : State) :
    ∀ st, execCompBlockEncode x s = .next st → st.otp = s.otp := by
  intro st ht; unfold execCompBlockEncode at ht; grind [otp_encodeNext, otp_linkNext]

@[simp] theorem otp_poisonBlocks (e : InFlight) (bad : List Nat) (s : State) :
    (poisonBlocks e bad s).otp = s.otp := by
  unfold poisonBlocks; grind [otp_forEach, otp_writeBlock]

@[simp] theorem otp_endDecode (e : InFlight) (j : CompJob) (s : State) :
    (endDecode e j s).otp = s.otp := by
  unfold endDecode; grind [otp_flushCopies, otp_endComp, otp_poisonBlocks]

@[simp] theorem otp_decodeStep (e : InFlight) (j : CompJob) (s : State) :
    (decodeStep e j s).otp = s.otp := by
  unfold decodeStep; grind [otp_setCjob, otp_endDecode]

@[simp] theorem otp_decodeBad (e : InFlight) (j : CompJob) (missing : Bool) (status : Nat) (next : Nat) (s : State) :
    (decodeBad e j missing status next s).otp = s.otp := by
  unfold decodeBad; grind [otp_satF, otp_forEach, otp_writeScalar, otp_decodeStep]

@[simp] theorem otp_decodeNext (e : InFlight) (j : CompJob) (s : State) :
    (decodeNext e j s).otp = s.otp := by
  unfold decodeNext; grind [otp_putLinear, otp_countBlock, otp_decodeStep, otp_decodeBad]

theorem otp_execCompBlockDecode (x : ContextNo) (s : State) :
    ∀ st, execCompBlockDecode x s = .next st → st.otp = s.otp := by
  intro st ht; unfold execCompBlockDecode at ht; grind [otp_decodeNext]

theorem otp_execTableInstall (x : ContextNo) (s : State) :
    ∀ st, execTableInstall x s = .next st → st.otp = s.otp := by
  intro st ht; unfold execTableInstall at ht; grind [otp_installTable, otp_countTable, otp_setCjob]

@[simp] theorem otp_startComp (e : InFlight) (s : State) :
    (startComp e s).otp = s.otp := by
  unfold startComp; grind [otp_winRead, otp_stageTensor, otp_setCtx, otp_endComp]

end Sys2Proof.Machine
end

