-- ==== Sys2Proof/Laws/OtpCollCmds.lean ====
section
/-! SUPPORT. No operation of Machine/CollCmds.lean touches the one-time programmable memory. -/

namespace Sys2Proof.Machine

set_option Elab.async false

@[simp] theorem otp_startJob (e : InFlight) (s : State) :
    (startJob e s).otp = s.otp := by
  unfold startJob; grind [otp_forEach, otp_setFlight, otp_stageTensor, otp_collProgress, otp_drainAll]

@[simp] theorem otp_chargeColl (e : InFlight) (s : State) :
    (chargeColl e s).otp = s.otp := by
  unfold chargeColl; grind [otp_failCheck, otp_shadowEach, otp_startJob]

@[simp] theorem otp_enterEpoch (e : InFlight) (s : State) :
    (enterEpoch e s).otp = s.otp := by
  unfold enterEpoch; grind [otp_validated, otp_chargeColl]

@[simp] theorem otp_beginColl (e : InFlight) (s : State) :
    (beginColl e s).otp = s.otp := by
  unfold beginColl; grind [otp_validated, otp_enterEpoch]

@[simp] theorem otp_releaseHeld (s : State) :
    (releaseHeld s).otp = s.otp := by
  unfold releaseHeld; grind [otp_forEach, otp_enterEpoch]

@[simp] theorem otp_takeColl (op : Nat) (q : QueueNo) (d : Desc) (s : State) :
    (takeColl op q d s).otp = s.otp := by
  unfold takeColl; grind [otp_takeRing, otp_beginColl]

theorem otp_execCollAllreduce (q : QueueNo) (d : Desc) (s : State) :
    ∀ st, execCollAllreduce q d s = .next st → st.otp = s.otp := by
  intro st ht; unfold execCollAllreduce at ht; grind [otp_takeColl]

theorem otp_execCollReducescatter (q : QueueNo) (d : Desc) (s : State) :
    ∀ st, execCollReducescatter q d s = .next st → st.otp = s.otp := by
  intro st ht; unfold execCollReducescatter at ht; grind [otp_takeColl]

theorem otp_execCollAllgather (q : QueueNo) (d : Desc) (s : State) :
    ∀ st, execCollAllgather q d s = .next st → st.otp = s.otp := by
  intro st ht; unfold execCollAllgather at ht; grind [otp_takeColl]

theorem otp_execCollBroadcast (q : QueueNo) (d : Desc) (s : State) :
    ∀ st, execCollBroadcast q d s = .next st → st.otp = s.otp := by
  intro st ht; unfold execCollBroadcast at ht; grind [otp_takeColl]

theorem otp_execCollSend (q : QueueNo) (d : Desc) (s : State) :
    ∀ st, execCollSend q d s = .next st → st.otp = s.otp := by
  intro st ht; unfold execCollSend at ht; grind [otp_takeColl]

theorem otp_execCollRecv (q : QueueNo) (d : Desc) (s : State) :
    ∀ st, execCollRecv q d s = .next st → st.otp = s.otp := by
  intro st ht; unfold execCollRecv at ht; grind [otp_takeColl]

theorem otp_execCollDigcmp (q : QueueNo) (d : Desc) (s : State) :
    ∀ st, execCollDigcmp q d s = .next st → st.otp = s.otp := by
  intro st ht; unfold execCollDigcmp at ht; grind [otp_takeColl]

@[simp] theorem otp_reduceNow (j : CollJob) (v : Nat) (s : State) :
    (reduceNow j v s).otp = s.otp := by
  unfold reduceNow; grind [otp_setSticky, otp_setColl, otp_collProgress]

theorem otp_execCollBlockReduce (tag : Nat) (block : Nat) (s : State) :
    ∀ st, execCollBlockReduce tag block s = .next st → st.otp = s.otp := by
  intro st ht; unfold execCollBlockReduce at ht; grind [otp_reduceNow]

theorem otp_execCollDone (tag : Nat) (node : Nat) (s : State) :
    ∀ st, execCollDone tag node s = .next st → st.otp = s.otp := by
  intro st ht; unfold execCollDone at ht; grind [otp_setColl, otp_gatherDone]

theorem otp_execCollCommit (tag : Nat) (s : State) :
    ∀ st, execCollCommit tag s = .next st → st.otp = s.otp := by
  intro st ht; unfold execCollCommit at ht; grind [otp_commitColl]

end Sys2Proof.Machine
end

