-- ==== Sys2Proof/Laws/OtpMembership.lean ====
section
/-! SUPPORT. No operation of Machine/Membership.lean touches the one-time programmable memory. -/

namespace Sys2Proof.Machine

set_option Elab.async false

@[simp] theorem otp_setNdState (v : Nat) (s : State) :
    (setNdState v s).otp = s.otp := by
  unfold setNdState; grind [otp_setF]

@[simp] theorem otp_setNd (f : NdAux → NdAux) (s : State) :
    (setNd f s).otp = s.otp := by
  unfold setNd; grind []

@[simp] theorem otp_cmdErr (s : State) :
    (cmdErr s).otp = s.otp := by
  unfold cmdErr; grind [otp_setF]

@[simp] theorem otp_postMember (tgt : Nat) (p : MemberPacket) (s : State) :
    (postMember tgt p s).otp = s.otp := by
  unfold postMember; grind [otp_emit]

@[simp] theorem otp_sendMember (tgt : Nat) (b : MemberBody) (s : State) :
    (sendMember tgt b s).otp = s.otp := by
  unfold sendMember; grind [otp_postMember]

@[simp] theorem otp_refuse (node : Nat) (s : State) :
    (refuse node s).otp = s.otp := by
  unfold refuse; grind [otp_setNd, otp_sendMember]

@[simp] theorem otp_refuseAll (s : State) :
    (refuseAll s).otp = s.otp := by
  unfold refuseAll; grind [otp_setF, otp_forEach, otp_refuse]

@[simp] theorem otp_showEpoch (epoch : Nat) (ms : List Member) (s : State) :
    (showEpoch epoch ms s).otp = s.otp := by
  unfold showEpoch; grind [otp_setF, otp_setNdState]

@[simp] theorem otp_dropStale (w : Nat) (s : State) :
    (dropStale w s).otp = s.otp := by
  unfold dropStale; grind [otp_satF, otp_setDw]

@[simp] theorem otp_openConns (ms : List Member) (s : State) :
    (openConns ms s).otp = s.otp := by
  unfold openConns; grind [otp_forEach, otp_dropStale]

@[simp] theorem otp_adoptEpoch (epoch : Nat) (ms : List Member) (s : State) :
    (adoptEpoch epoch ms s).otp = s.otp := by
  unfold adoptEpoch; grind [otp_setF, otp_trace, otp_releaseHeld, otp_setNd, otp_refuseAll, otp_showEpoch, otp_openConns]

@[simp] theorem otp_endColls (s : State) :
    (endColls s).otp = s.otp := by
  unfold endColls; grind [otp_forEach, otp_failColl, otp_commitColl, otp_endCarriage]

@[simp] theorem otp_finishChange (s : State) :
    (finishChange s).otp = s.otp := by
  unfold finishChange; grind [otp_forEach, otp_sendMember, otp_adoptEpoch]

@[simp] theorem otp_runChange (ms : List Member) (leavers : List Member) (s : State) :
    (runChange ms leavers s).otp = s.otp := by
  unfold runChange; grind [otp_forEach, otp_setNdState, otp_setNd, otp_sendMember, otp_endColls, otp_finishChange]

@[simp] theorem otp_nextChange (fuel : Nat) (s : State) : (nextChange fuel s).otp = s.otp := by
  induction fuel generalizing s with
  | zero => rfl
  | succ k ih => unfold nextChange; grind [otp_setNd, otp_runChange]

@[simp] theorem otp_showJoiner (s : State) :
    (showJoiner s).otp = s.otp := by
  unfold showJoiner; grind [otp_setF, otp_forEach]

@[simp] theorem otp_proceed (s : State) :
    (proceed s).otp = s.otp := by
  unfold proceed; grind [otp_nextChange, otp_showJoiner]

@[simp] theorem otp_memberFailed (node : Nat) (s : State) :
    (memberFailed node s).otp = s.otp := by
  unfold memberFailed; grind [otp_setF, otp_runChange]

@[simp] theorem otp_withFailures (f : State → State) (s : State) (h_f : ∀ x0, (f x0).otp = x0.otp) :
    (withFailures f s).otp = s.otp := by
  unfold withFailures; grind [otp_forEach, otp_memberFailed]

theorem otp_execPacketAck (w : DoorwayNo) (pkt : List Byte) (ce : Bool) (s : State) :
    ∀ st, execPacketAck w pkt ce s = .next st → st.otp = s.otp := by
  intro st ht; unfold execPacketAck at ht; grind [otp_packetAck, otp_withFailures]

theorem otp_execPacketNack (w : DoorwayNo) (pkt : List Byte) (ce : Bool) (s : State) :
    ∀ st, execPacketNack w pkt ce s = .next st → st.otp = s.otp := by
  intro st ht; unfold execPacketNack at ht; grind [otp_packetNack, otp_withFailures]

theorem otp_execRtoExpiry (w : DoorwayNo) (peer : Nat) (s : State) :
    ∀ st, execRtoExpiry w peer s = .next st → st.otp = s.otp := by
  intro st ht; unfold execRtoExpiry at ht; grind [otp_rtoExpiry, otp_withFailures]

theorem otp_execNdctlForm (s : State) :
    ∀ st, execNdctlForm s = .next st → st.otp = s.otp := by
  intro st ht; unfold execNdctlForm at ht; grind [otp_hostWrite, otp_setNd, otp_cmdErr, otp_showEpoch, otp_openConns]

theorem otp_execNdctlJoin (s : State) :
    ∀ st, execNdctlJoin s = .next st → st.otp = s.otp := by
  intro st ht; unfold execNdctlJoin at ht; grind [otp_drawRandom, otp_hostWrite, otp_setNdState, otp_setNd, otp_cmdErr, otp_sendMember]

theorem otp_execNdctlLeave (s : State) :
    ∀ st, execNdctlLeave s = .next st → st.otp = s.otp := by
  intro st ht; unfold execNdctlLeave at ht; grind [otp_hostWrite, otp_setNdState, otp_setNd, otp_cmdErr, otp_sendMember, otp_refuseAll, otp_adoptEpoch, otp_endColls]

theorem otp_takeJoiner (s : State) :
    (takeJoiner s).2.otp = s.otp := by
  unfold takeJoiner; grind [otp_setF]

theorem otp_execNdctlApprove (s : State) :
    ∀ st, execNdctlApprove s = .next st → st.otp = s.otp := by
  intro st ht; unfold execNdctlApprove at ht; grind [otp_hostWrite, otp_setNd, otp_cmdErr, otp_proceed, otp_takeJoiner]

theorem otp_execNdctlDeny (s : State) :
    ∀ st, execNdctlDeny s = .next st → st.otp = s.otp := by
  intro st ht; unfold execNdctlDeny at ht; grind [otp_hostWrite, otp_cmdErr, otp_refuse, otp_proceed, otp_takeJoiner]

theorem otp_execNdctlEvict (s : State) :
    ∀ st, execNdctlEvict s = .next st → st.otp = s.otp := by
  intro st ht; unfold execNdctlEvict at ht; grind [otp_hostWrite, otp_setNd, otp_cmdErr, otp_proceed]

theorem otp_execNdselfWrite (node : Nat) (s : State) :
    ∀ st, execNdselfWrite node s = .next st → st.otp = s.otp := by
  intro st ht; unfold execNdselfWrite at ht; grind [otp_setF, otp_regAccessError, otp_hostWrite]

@[simp] theorem otp_helloHere (p : MemberPacket) (j : Member) (cert : List Byte) (nonce : List Byte) (s : State) :
    (helloHere p j cert nonce s).otp = s.otp := by
  unfold helloHere; grind [otp_drawRandom, otp_setNd, otp_sendMember, otp_refuse]

theorem otp_execHello (p : MemberPacket) (s : State) :
    ∀ st, execHello p s = .next st → st.otp = s.otp := by
  intro st ht; unfold execHello at ht; grind [otp_helloHere, otp_postMember]

@[simp] theorem otp_joinRefused (s : State) :
    (joinRefused s).otp = s.otp := by
  unfold joinRefused; grind [otp_setF, otp_setNdState, otp_setNd]

theorem otp_execChallenge (p : MemberPacket) (s : State) :
    ∀ st, execChallenge p s = .next st → st.otp = s.otp := by
  intro st ht; unfold execChallenge at ht; grind [otp_setNd, otp_sendMember, otp_joinRefused]

theorem otp_execProof (p : MemberPacket) (s : State) :
    ∀ st, execProof p s = .next st → st.otp = s.otp := by
  intro st ht; unfold execProof at ht; grind [otp_setNd, otp_refuse, otp_showJoiner]

theorem otp_execPrepare (p : MemberPacket) (s : State) :
    ∀ st, execPrepare p s = .next st → st.otp = s.otp := by
  intro st ht; unfold execPrepare at ht; grind [otp_setNdState, otp_setNd, otp_sendMember, otp_endColls]

theorem otp_execReady (p : MemberPacket) (s : State) :
    ∀ st, execReady p s = .next st → st.otp = s.otp := by
  intro st ht; unfold execReady at ht; grind [otp_setNd, otp_finishChange, otp_proceed]

theorem otp_execCommit (p : MemberPacket) (s : State) :
    ∀ st, execCommit p s = .next st → st.otp = s.otp := by
  intro st ht; unfold execCommit at ht; grind [otp_adoptEpoch, otp_proceed]

theorem otp_execRefused (p : MemberPacket) (s : State) :
    ∀ st, execRefused p s = .next st → st.otp = s.otp := by
  intro st ht; unfold execRefused at ht; grind [otp_joinRefused]

theorem otp_execHandover (p : MemberPacket) (s : State) :
    ∀ st, execHandover p s = .next st → st.otp = s.otp := by
  intro st ht; unfold execHandover at ht; grind [otp_setF, otp_setNd, otp_proceed]

end Sys2Proof.Machine
end

