-- ==== Sys2Proof/Laws/OtpCheck.lean ====
section
/-! SUPPORT. No operation of Machine/Check.lean touches the one-time programmable memory. -/

namespace Sys2Proof.Machine

set_option Elab.async false

@[simp] theorem otp_setRun (u : Nat) (run : Nat) (s : State) :
    (setRun u run s).otp = s.otp := by
  unfold setRun; grind [otp_setF]

@[simp] theorem otp_ckLimit (u : Nat) (s : State) :
    (ckLimit u s).otp = s.otp := by
  unfold ckLimit; grind [otp_setF, otp_errRecord]

theorem otp_execCheckByte (u : CheckNo) (tap : Nat) (key : Nat) (b : Byte) (s : State) :
    ∀ st, execCheckByte u tap key b s = .next st → st.otp = s.otp := by
  intro st ht; unfold execCheckByte at ht; grind [otp_addF, otp_peep, otp_setRun, otp_ckLimit]

@[simp] theorem otp_armCheck (id : Nat) (k : Nat) (s : State) :
    (armCheck id k s).otp = s.otp := by
  unfold armCheck; grind [otp_setF]

@[simp] theorem otp_feedCheck (id : Nat) (k : Nat) (h : Nat) (bs : List Byte) (s : State) :
    (feedCheck id k h bs s).otp = s.otp := by
  unfold feedCheck; grind [otp_setF, otp_forEach, otp_peep, otp_setRun]

@[simp] theorem otp_ckWrite (u : Nat) (f : State → State) (s : State) (h_f : ∀ x0, (f x0).otp = x0.otp) :
    (ckWrite u f s).otp = s.otp := by
  unfold ckWrite; grind [otp_hostWrite]

theorem otp_execCkctlInit (u : CheckNo) (s : State) :
    ∀ st, execCkctlInit u s = .next st → st.otp = s.otp := by
  intro st ht; unfold execCkctlInit at ht; grind [otp_setF, otp_setRun, otp_ckWrite]

theorem otp_execCkctlArm (u : CheckNo) (on : Bool) (s : State) :
    ∀ st, execCkctlArm u on s = .next st → st.otp = s.otp := by
  intro st ht; unfold execCkctlArm at ht; grind [otp_setF, otp_ckWrite]

@[simp] theorem otp_checkWrite (u : Nat) (r : CheckReg) (value : Nat) (s : State) :
    (checkWrite u r value s).otp = s.otp := by
  unfold checkWrite; grind [otp_setF, otp_dropHeld, otp_regAccessError, otp_setRun]

theorem otp_execCheckStateWrite (u : CheckNo) (r : CheckReg) (value : Nat) (s : State) :
    ∀ st, execCheckStateWrite u r value s = .next st → st.otp = s.otp := by
  intro st ht; unfold execCheckStateWrite at ht; grind [otp_ckWrite, otp_checkWrite]

end Sys2Proof.Machine
end

