-- ==== Sys2Proof/Laws/OtpSweep.lean ====
section
/-! SUPPORT. No operation of Machine/Sweep.lean touches the one-time programmable memory. -/

namespace Sys2Proof.Machine

set_option Elab.async false

@[simp] theorem otp_putStepTag (t : Tensor) (pane : Nat) (v : Nat) (s : State) :
    (putStepTag t pane v s).otp = s.otp := by
  unfold putStepTag; grind [otp_memPutCells]

@[simp] theorem otp_putShardTag (t : Tensor) (i : Nat) (v : Nat) (s : State) :
    (putShardTag t i v s).otp = s.otp := by
  unfold putShardTag; grind [otp_putStepTag]

@[simp] theorem otp_startSweep (e : InFlight) (s : State) :
    (startSweep e s).otp = s.otp := by
  unfold startSweep; grind [otp_setF, otp_forEach, otp_setFlight, otp_finish, otp_replayGroups, otp_armCheck]

@[simp] theorem otp_beginSweep (e : InFlight) (s : State) :
    (beginSweep e s).otp = s.otp := by
  unfold beginSweep; grind [otp_failCheck, otp_validated, otp_chargeAll, otp_startSweep]

theorem otp_execSweep (q : QueueNo) (d : Desc) (s : State) :
    ∀ st, execSweep q d s = .next st → st.otp = s.otp := by
  intro st ht; unfold execSweep at ht; grind [otp_takeRing, otp_beginSweep]

@[simp] theorem otp_swStage (c : Nat) (owner : Nat) (t : Tensor) (panes : List Nat) (s : State) :
    (swStage c owner t panes s).otp = s.otp := by
  unfold swStage; grind [otp_forEach, otp_peep, otp_moverRead, otp_upsertCopy, otp_peepPort]

@[simp] theorem otp_swUnstage (c : Nat) (owner : Nat) (s : State) :
    (swUnstage c owner s).otp = s.otp := by
  unfold swUnstage; grind []

@[simp] theorem otp_swFlush (c owner : Nat) (hs : List Nat) (s : State) : (swFlush c owner hs s).1.otp = s.otp := by
  unfold swFlush; exact otp_foldl _ _ _ (fun b x => by simp)

@[simp] theorem otp_journalPane (c : Nat) (k : Nat) (tag : Tensor → Nat → Nat) (w : WorkCopy) (s : State) :
    (journalPane c k tag w s).1.otp = s.otp := by
  unfold journalPane; grind [otp_mergeCopy, otp_slotForWrite]

@[simp] theorem otp_commitGroup (c owner : Nat) (hs : List Nat) (tag : Tensor → Nat → Nat) (record : Option (Nat × SweepRec)) (s : State) :
    (commitGroup c owner hs tag record s).1.otp = s.otp := by
  unfold commitGroup; dsimp only
  have h : ∀ l : List WorkCopy, (l.foldl (fun (a : State × List JournalPane × Nat) w =>
      if a.2.2 ≠ 0 then a
      else ((journalPane c a.2.1.length tag w a.1).1, a.2.1 ++ (journalPane c a.2.1.length tag w a.1).2.1,
        (journalPane c a.2.1.length tag w a.1).2.2)) (replayGroups c s, [], 0)).1.otp = s.otp := fun l =>
    (otp_foldl l _ _ (fun b x => by split <;> simp)).trans (otp_replayGroups c s)
  exact ite_keep (P := fun x : State × Nat => x.1.otp = s.otp) (h _) (h _)

@[simp] theorem otp_setJob (id : Nat) (f : SweepJob → SweepJob) (s : State) :
    (setJob id f s).otp = s.otp := by
  unfold setJob; grind []

@[simp] theorem otp_sweepTrace (c : Nat) (event : Nat) (handle : Nat) (shard : Nat) (s : State) :
    (sweepTrace c event handle shard s).otp = s.otp := by
  unfold sweepTrace; grind [otp_trace]

@[simp] theorem otp_factorPane (c : Nat) (e : InFlight) (k : SwConst) (b : List Byte) (row : Bool) (i : Nat) (s : State) :
    (factorPane c e k b row i s).1.otp = s.otp := by
  have hf : ∀ (l : List Nat) (g : State × Nat × Bool → Nat → State × Nat × Bool), (∀ b x, (g b x).1.otp = b.1.otp) →
      (l.foldl g (s, 0, false)).1.otp = s.otp := fun l g hg => otp_foldl l g _ hg
  unfold factorPane; dsimp only
  refine ite_keep (P := fun x : State => x.otp = s.otp) ?_ ?_
  · rw [otp_peep, otp_replayGroups, otp_commitGroup]; exact hf _ _ (fun b x => by simp)
  · rw [otp_commitGroup]; exact hf _ _ (fun b x => by simp)

@[simp] theorem otp_tagBad (s : State) :
    (tagBad s).otp = s.otp := by
  unfold tagBad; grind [otp_satF]

@[simp] theorem otp_factorUnit (c : Nat) (e : InFlight) (k : SwConst) (n : Nat) (b : List Byte) (row : Bool) (i : Nat) (s : State) :
    (factorUnit c e k n b row i s).1.otp = s.otp := by
  unfold factorUnit; grind [otp_swStage, otp_setJob, otp_factorPane, otp_tagBad]

@[simp] theorem otp_stageShard (c : Nat) (owner : Nat) (b : List Byte) (i : Nat) (s : State) :
    (stageShard c owner b i s).otp = s.otp := by
  unfold stageShard; grind [otp_swStage]

@[simp] theorem otp_shardMoments (c : Nat) (e : InFlight) (k : SwConst) (b : List Byte) (i rec1 : Nat) (s : State) :
    (shardMoments c e k b i rec1 s).1.otp = s.otp := by
  have hf : ∀ (l : List (List Nat)) (g : State × Nat × Bool → List Nat → State × Nat × Bool), (∀ b x, (g b x).1.otp = b.1.otp) →
      (l.foldl g (stageShard c e.id b i s, 0, false)).1.otp = s.otp := fun l g hg => (otp_foldl l g _ hg).trans (otp_stageShard _ _ _ _ _)
  unfold shardMoments; dsimp only
  refine ite_keep (P := fun x : State × Bool × Nat => x.1.otp = s.otp) ?_ ?_
  · dsimp only; rw [otp_swUnstage, otp_commitGroup]; exact hf _ _ (fun b x => by split <;> simp)
  · dsimp only; rw [otp_swUnstage, otp_sweepTrace, otp_peep, otp_commitGroup]; exact hf _ _ (fun b x => by split <;> simp)

@[simp] theorem otp_putWorking (c owner : Nat) (flush : Bool) (t : Tensor) (i : Nat) (val : List Nat → Num × Bool) (s : State) :
    (putWorking c owner flush t i val s).1.otp = s.otp := by
  unfold putWorking; dsimp only; split <;> exact otp_foldl _ _ _ (fun b x => by simp)

@[simp] theorem otp_layerOpen (layer : Nat) (s : State) :
    (layerOpen layer s).otp = s.otp := by
  unfold layerOpen; grind []

@[simp] theorem otp_shardWeights (c : Nat) (e : InFlight) (k : SwConst) (b : List Byte) (i : Nat) (rec1 : Nat) (prior : Nat) (s : State) :
    (shardWeights c e k b i rec1 prior s).1.otp = s.otp := by
  unfold shardWeights; grind [otp_forEach, otp_peep, otp_replayGroups, otp_putElem, otp_feedCheck, otp_swUnstage, otp_swFlush, otp_commitGroup, otp_sweepTrace, otp_stageShard, otp_putWorking, otp_layerOpen]

@[simp] theorem otp_zeroShard (c : Nat) (e : InFlight) (b : List Byte) (i : Nat) (s : State) :
    (zeroShard c e b i s).1.otp = s.otp := by
  unfold zeroShard; grind [otp_forEach, otp_putElem, otp_swUnstage, otp_swFlush]

@[simp] theorem otp_loseStats (c : Nat) (b : List Byte) (i : Nat) (s : State) : (loseStats c b i s).otp = s.otp := by
  simp [loseStats]

@[simp] theorem otp_finishShard (c : Nat) (e : InFlight) (k : SwConst) (b : List Byte) (mid : Bool) (i : Nat) (rec1 : Nat) (s : State) :
    (finishShard c e k b mid i rec1 s).1.otp = s.otp := by
  unfold finishShard; grind [otp_setF, otp_loseStats, otp_satF, otp_setJob, otp_sweepTrace, otp_tagBad, otp_shardWeights, otp_zeroShard]

@[simp] theorem otp_sweepGather (id : Nat) (n : Nat) (status : Nat) (flags : Nat) (s : State) :
    (sweepGather id n status flags s).otp = s.otp := by
  unfold sweepGather; grind [otp_endPart, otp_orPart, otp_setSticky]

@[simp] theorem otp_setSwPart (id : Nat) (n : Nat) (f : SweepPart → SweepPart) (s : State) :
    (setSwPart id n f s).otp = s.otp := by
  unfold setSwPart; grind [otp_setJob]

@[simp] theorem otp_unitDone (c : Nat) (id : Nat) (n : Nat) (factor : Bool) (u : Nat) (status : Nat) (flags : Nat) (s : State) :
    (unitDone c id n factor u status flags s).otp = s.otp := by
  unfold unitDone; grind [otp_peep, otp_setJob, otp_sweepGather, otp_setSwPart]

@[simp] theorem otp_runUnit (c : Nat) (e : InFlight) (j : SweepJob) (n : Nat) (p : SweepPart) (factor : Bool) (u : Nat) (s : State) :
    (runUnit c e j n p factor u s).otp = s.otp := by
  unfold runUnit; dsimp only; (repeat' split) <;> simp [otp_forEach, otp_peep, otp_orPart, otp_swUnstage, otp_setJob, otp_factorUnit, otp_shardMoments, otp_zeroShard, otp_finishShard, otp_setSwPart, otp_unitDone]

theorem otp_execSweepUnit (c : ClusterNo) (s : State) :
    ∀ st, execSweepUnit c s = .next st → st.otp = s.otp := by
  intro st ht; unfold execSweepUnit at ht; grind [otp_runUnit]

theorem otp_execSweepPrefetch (c : ClusterNo) (s : State) :
    ∀ st, execSweepPrefetch c s = .next st → st.otp = s.otp := by
  intro st ht; unfold execSweepPrefetch at ht; simp only [Host.Outcome.next.injEq] at ht; subst ht; (repeat' split) <;> simp [otp_forEach, otp_swStage, otp_swUnstage, otp_setJob]

theorem otp_execSweepFactorPhaseEnd (s : State) :
    ∀ st, execSweepFactorPhaseEnd s = .next st → st.otp = s.otp := by
  intro st ht; unfold execSweepFactorPhaseEnd at ht; grind [otp_forEach, otp_setJob, otp_sweepGather]

@[simp] theorem otp_countZero (layer : Nat) (zero : Bool) (s : State) :
    (countZero layer zero s).otp = s.otp := by
  unfold countZero; grind [otp_setF, otp_errRecord]

@[simp] theorem otp_commitLayer (j : SweepJob) (e : InFlight) (layer : Nat) (s : State) :
    (commitLayer j e layer s).otp = s.otp := by
  unfold commitLayer; grind [otp_setJob, otp_countZero]

theorem otp_execSweepLayerComplete (layer : Nat) (s : State) :
    ∀ st, execSweepLayerComplete layer s = .next st → st.otp = s.otp := by
  intro st ht; unfold execSweepLayerComplete at ht; grind [otp_commitLayer]

end Sys2Proof.Machine
end

