-- ==== Sys2Proof/Laws/OtpChkp.lean ====
section
/-! SUPPORT. No operation of Machine/Chkp.lean touches the one-time programmable memory. -/

namespace Sys2Proof.Machine

set_option Elab.async false

@[simp] theorem otp_digestPart (c : Nat) (e : InFlight) (lo hi : Nat) (s : State) : (digestPart c e lo hi s).1.otp = s.otp := by
  unfold digestPart; dsimp only; rw [otp_flushCopies]
  refine (otp_foldl _ _ _ (fun b x => ?_)).trans (otp_armCheck _ _ _)
  dsimp only
  rw [otp_writeScalar, otp_feedCheck]
  refine otp_forEach _ _ _ (fun p s => ?_)
  split <;> simp

@[simp] theorem otp_beginDigest (e : InFlight) (s : State) : (beginDigest e s).otp = s.otp := by
  unfold beginDigest
  refine otp_validated _ _ _ _ (fun s => otp_chargeThen _ _ _ _ _ (fun s => ?_))
  dsimp only; rw [otp_setFlight]
  exact otp_foldl _ _ _ (fun b x => by split <;> simp)

theorem otp_execDigest (q : QueueNo) (d : Desc) (s : State) :
    ∀ st, execDigest q d s = .next st → st.otp = s.otp := by
  intro st ht; unfold execDigest at ht; grind [otp_takeRing, otp_beginDigest]

@[simp] theorem otp_putPersist (p : Nat) (unit : Nat) (bs : List Byte) (s : State) :
    (putPersist p unit bs s).1.otp = s.otp := by
  unfold putPersist; grind [otp_memWrite, otp_healRange, otp_programWhole]

@[simp] theorem otp_exportWork (e : InFlight) (s : State) :
    (exportWork e s).otp = s.otp := by
  unfold exportWork; grind [otp_forEach, otp_emit, otp_drawFree, otp_winWrite, otp_stageTensor, otp_endWhole, otp_putPersist]

@[simp] theorem otp_ckSource (e : InFlight) (s : State) :
    (ckSource e s).2.otp = s.otp := by
  unfold ckSource; grind [otp_peep, otp_winRead]

@[simp] theorem otp_importRecord (e : InFlight) (c : CkSource) (k : CkTensor) (i : Nat) (s : State) :
    (importRecord e c k i s).1.otp = s.otp := by
  unfold importRecord; dsimp only; (repeat' split) <;> simp [otp_writeScalar, otp_writeBlock]

@[simp] theorem otp_importTag (t : Tensor) (i : Nat) (v : Nat) (s : State) :
    (importTag t i v s).otp = s.otp := by
  unfold importTag; grind [otp_putStepTag, otp_putShardTag]

@[simp] theorem otp_importTensor (e : InFlight) (c : CkSource) (k : CkTensor) (s : State) :
    (importTensor e c k s).1.otp = s.otp := by
  unfold importTensor; (repeat' split) <;> simp [otp_forEach, otp_flushCopies, otp_importRecord, otp_importTag]

@[simp] theorem otp_loseHist (e : InFlight) (c : CkSource) (status : Nat) (s : State) :
    (loseHist e c status s).otp = s.otp := by
  unfold loseHist; grind [otp_setF, otp_errRecord]

@[simp] theorem otp_restoreHist (e : InFlight) (c : CkSource) (status : Nat) (sec : Option (Nat × Nat)) (s : State) :
    (restoreHist e c status sec s).otp = s.otp := by
  unfold restoreHist; grind [otp_loseHist]

@[simp] theorem otp_restoreSteer (c : CkSource) (status : Nat) (sec : Option (Nat × Nat)) (s : State) :
    (restoreSteer c status sec s).otp = s.otp := by
  unfold restoreSteer; grind [otp_setF, otp_forEach, otp_errRecord]

@[simp] theorem otp_importWork (e : InFlight) (s : State) :
    (importWork e s).otp = s.otp := by
  unfold importWork; dsimp only; (repeat' split) <;> simp [otp_endWhole, otp_ckSource, otp_importTensor, otp_restoreHist, otp_restoreSteer]

@[simp] theorem otp_beginChkp (e : InFlight) (s : State) :
    (beginChkp e s).otp = s.otp := by
  unfold beginChkp; grind [otp_failCheck, otp_validated, otp_exportWork, otp_importWork, otp_chargeAll]

@[simp] theorem otp_takeChkp (op : Nat) (q : QueueNo) (d : Desc) (s : State) :
    (takeChkp op q d s).otp = s.otp := by
  unfold takeChkp; grind [otp_takeRing, otp_beginChkp]

theorem otp_execChkpExport (q : QueueNo) (d : Desc) (s : State) :
    ∀ st, execChkpExport q d s = .next st → st.otp = s.otp := by
  intro st ht; unfold execChkpExport at ht; grind [otp_takeChkp]

theorem otp_execChkpImport (q : QueueNo) (d : Desc) (s : State) :
    ∀ st, execChkpImport q d s = .next st → st.otp = s.otp := by
  intro st ht; unfold execChkpImport at ht; grind [otp_takeChkp]

theorem otp_execChkpCarriageReceive (src : Nat) (image : List Byte) (s : State) :
    ∀ st, execChkpCarriageReceive src image s = .next st → st.otp = s.otp := by
  intro st ht; unfold execChkpCarriageReceive at ht; grind [otp_setF, otp_putPersist]

theorem otp_execPhaseCounterTick (s : State) :
    ∀ st, execPhaseCounterTick s = .next st → st.otp = s.otp := by
  intro st ht; unfold execPhaseCounterTick at ht; simp only [Host.Outcome.next.injEq] at ht; subst ht; (repeat' split) <;> simp []

theorem otp_execPhctlSnap (s : State) :
    ∀ st, execPhctlSnap s = .next st → st.otp = s.otp := by
  intro st ht; unfold execPhctlSnap at ht; grind [otp_hostWrite, otp_snapPhases]

end Sys2Proof.Machine
end

