-- ==== Sys2Proof/Laws/OtpQueueCmds.lean ====
section
/-! SUPPORT. No operation of Machine/QueueCmds.lean touches the one-time programmable memory. -/

namespace Sys2Proof.Machine

set_option Elab.async false

@[simp] theorem otp_doorbellError (q : Nat) (s : State) :
    (doorbellError q s).otp = s.otp := by
  unfold doorbellError; grind [otp_setF, otp_regAccessError]

theorem otp_execSqtail (q : QueueNo) (value : Nat) (s : State) :
    ∀ st, execSqtail q value s = .next st → st.otp = s.otp := by
  intro st ht; unfold execSqtail at ht; grind [otp_setF, otp_hostWrite, otp_doorbellError]

theorem otp_execCqhead (q : QueueNo) (value : Nat) (s : State) :
    ∀ st, execCqhead q value s = .next st → st.otp = s.otp := by
  intro st ht; unfold execCqhead at ht; grind [otp_setF, otp_hostWrite, otp_doorbellError]

@[simp] theorem otp_beginWait (e : InFlight) (s : State) :
    (beginWait e s).otp = s.otp := by
  unfold beginWait; grind [otp_setFlight, otp_recount, otp_finish, otp_validated]

@[simp] theorem otp_beginSignal (e : InFlight) (s : State) :
    (beginSignal e s).otp = s.otp := by
  unfold beginSignal; grind [otp_setFlight, otp_validated]

theorem otp_execSignalApply (port : Nat) (s : State) :
    ∀ st, execSignalApply port s = .next st → st.otp = s.otp := by
  intro st ht; unfold execSignalApply at ht; grind [otp_setF, otp_trace, otp_finish, otp_completeWaits]

@[simp] theorem otp_fenceWrite (f : Nat) (value : Nat) (s : State) :
    (fenceWrite f value s).otp = s.otp := by
  unfold fenceWrite; grind [otp_dropHeld, otp_setFence]

theorem otp_execFenceWrite (f : FenceNo) (value : Nat) (s : State) :
    ∀ st, execFenceWrite f value s = .next st → st.otp = s.otp := by
  intro st ht; unfold execFenceWrite at ht; grind [otp_hostWrite, otp_fenceWrite]

theorem otp_execQirqTimer (q : QueueNo) (s : State) :
    ∀ st, execQirqTimer q s = .next st → st.otp = s.otp := by
  intro st ht; unfold execQirqTimer at ht; grind [otp_queueIrq]

@[simp] theorem otp_enableQueue (q : Nat) (latched : Bool) (s : State) :
    (enableQueue q latched s).otp = s.otp := by
  unfold enableQueue; grind [otp_setF, otp_setQaux, otp_queueError]

@[simp] theorem otp_stopQueue (q : Nat) (s : State) :
    (stopQueue q s).otp = s.otp := by
  unfold stopQueue; grind [otp_setF, otp_forEach, otp_finish]

theorem otp_execQctlEnable (q : QueueNo) (on : Bool) (s : State) :
    ∀ st, execQctlEnable q on s = .next st → st.otp = s.otp := by
  intro st ht; unfold execQctlEnable at ht; grind [otp_setF, otp_hostWrite, otp_enableQueue, otp_stopQueue]

theorem otp_execQueueDrained (q : QueueNo) (s : State) :
    ∀ st, execQueueDrained q s = .next st → st.otp = s.otp := by
  intro st ht; unfold execQueueDrained at ht; grind [otp_setF, otp_enableQueue]

theorem otp_execQbindWrite (q : QueueNo) (valid : Bool) (casement : Nat) (s : State) :
    ∀ st, execQbindWrite q valid casement s = .next st → st.otp = s.otp := by
  intro st ht; unfold execQbindWrite at ht; grind [otp_setF, otp_regAccessError, otp_hostWrite]

@[simp] theorem otp_setLog2 (f : Fld) (lo : Nat) (hi : Nat) (v : Nat) (s : State) :
    (setLog2 f lo hi v s).otp = s.otp := by
  unfold setLog2; grind [otp_setF, otp_regAccessError]

@[simp] theorem otp_ringWrite (q : Nat) (r : RingReg) (value : Nat) (s : State) :
    (ringWrite q r value s).otp = s.otp := by
  unfold ringWrite; grind [otp_setF, otp_dropHeld, otp_regAccessError, otp_setLog2]

theorem otp_execQueueRingWrite (q : QueueNo) (r : RingReg) (value : Nat) (s : State) :
    ∀ st, execQueueRingWrite q r value s = .next st → st.otp = s.otp := by
  intro st ht; unfold execQueueRingWrite at ht; grind [otp_hostWrite, otp_ringWrite]

theorem otp_execHostRequestFailure (q : QueueNo) (f : HostFailure) (s : State) :
    ∀ st, execHostRequestFailure q f s = .next st → st.otp = s.otp := by
  intro st ht; unfold execHostRequestFailure at ht; grind [otp_queueError]

end Sys2Proof.Machine
end

