-- ==== Sys2Proof/Laws/OtpLoader.lean ====
section
/-! SUPPORT. No operation of Machine/Loader.lean touches the one-time programmable memory. -/

namespace Sys2Proof.Machine

set_option Elab.async false

@[simp] theorem otp_setImgState (v : Nat) (s : State) :
    (setImgState v s).otp = s.otp := by
  unfold setImgState; grind [otp_setF, otp_trace]

@[simp] theorem otp_loadFails (code : Nat) (sec : Nat) (rec : Nat) (s : State) :
    (loadFails code sec rec s).otp = s.otp := by
  unfold loadFails; grind [otp_setF, otp_setImgState]

@[simp] theorem otp_readImage (s : State) :
    (readImage s).otp = s.otp := by
  unfold readImage; grind [otp_emit, otp_loadFails, otp_forEach]

theorem otp_execImgLoad (s : State) :
    ∀ st, execImgLoad s = .next st → st.otp = s.otp := by
  intro st ht; unfold execImgLoad at ht; grind [otp_setF, otp_hostWrite, otp_setImgState, otp_loadFails, otp_readImage]

@[simp] theorem otp_startQuiesce (s : State) :
    (startQuiesce s).otp = s.otp := by
  unfold startQuiesce; grind [otp_setF, otp_setImgState]

theorem otp_execImgFetchDone (bytes : Option (List Byte)) (s : State) :
    ∀ st, execImgFetchDone bytes s = .next st → st.otp = s.otp := by
  intro st ht; unfold execImgFetchDone at ht; grind [otp_setImgState, otp_loadFails, otp_startQuiesce]

theorem otp_execImgUnload (s : State) :
    ∀ st, execImgUnload s = .next st → st.otp = s.otp := by
  intro st ht; unfold execImgUnload at ht; grind [otp_setF, otp_hostWrite, otp_startQuiesce]

theorem otp_execImgAbort (s : State) :
    ∀ st, execImgAbort s = .next st → st.otp = s.otp := by
  intro st ht; unfold execImgAbort at ht; grind [otp_hostWrite, otp_loadFails]

@[simp] theorem otp_freshPlacement (im : Option Image) (s : State) :
    (freshPlacement im s).otp = s.otp := by
  unfold freshPlacement; grind [otp_chargeWindow]

@[simp] theorem otp_freeAllPanes (s : State) :
    (freeAllPanes s).otp = s.otp := by
  unfold freeAllPanes; grind [otp_forEach, otp_freeSlotBytes]

@[simp] theorem otp_unbindQueue (q : Nat) (s : State) :
    (unbindQueue q s).otp = s.otp := by
  unfold unbindQueue; grind [otp_setF]

@[simp] theorem otp_writeBindings (l : List (Nat × Nat)) (s : State) :
    (writeBindings l s).otp = s.otp := by
  unfold writeBindings; grind [otp_setF, otp_forEach, otp_unbindQueue]

@[simp] theorem otp_writeArbiters (l : List (Nat × Nat × Nat × Nat)) (s : State) :
    (writeArbiters l s).otp = s.otp := by
  unfold writeArbiters; grind [otp_setF, otp_resetFields, otp_forEach]

@[simp] theorem otp_writeDoorways (l : List (Nat × Nat)) (s : State) :
    (writeDoorways l s).otp = s.otp := by
  unfold writeDoorways; grind [otp_setF, otp_orF, otp_forEach]

@[simp] theorem otp_showImage (im : Option Image) (s : State) :
    (showImage im s).otp = s.otp := by
  unfold showImage; grind [otp_setF, otp_setArray]

@[simp] theorem otp_installImage (im : Image) (p : LoadPlan) (s : State) :
    (installImage im p s).otp = s.otp := by
  unfold installImage; grind [otp_setF, otp_addF, otp_resetFields, otp_forEach, otp_setCart, otp_freeSlotBytes, otp_extend, otp_showCores, otp_showNode, otp_placed, otp_setVset, otp_setImgState, otp_freeAllPanes, otp_writeBindings, otp_writeArbiters, otp_writeDoorways, otp_showImage]

@[simp] theorem otp_unloadImage (s : State) : (unloadImage s).otp = s.otp := by
  have h1 : (freshPlacement none { freeAllPanes s with progs := [], hist := [], load := none }).otp = s.otp := by
    rw [otp_freshPlacement]; exact otp_freeAllPanes s
  have h2 : ∀ f x, State.otp x = s.otp → (resetFields fenceRegister (writeBindings [] (showImage none (placeImage f x).1))).otp = s.otp := by
    intro f x hx; rw [otp_resetFields, otp_writeBindings, otp_showImage, otp_placeImage, hx]
  have h3 : ∀ (a b c d : Fld) x, State.otp x = s.otp → (setF a 0 (setF b 0 (setF c 0 (setF d 0 x)))).otp = s.otp := by
    intro a b c d x hx; rw [otp_setF, otp_setF, otp_setF, otp_setF, hx]
  have h4 : ∀ (a b c : Fld) x, State.otp x = s.otp → (resetF a (resetF b (resetF c x))).otp = s.otp := by
    intro a b c x hx; rw [otp_resetF, otp_resetF, otp_resetF, hx]
  have h5 : ∀ (a b : Fld) x, State.otp x = s.otp → (setImgState 0 (setF a 0 (setF b 0 x))).otp = s.otp := by
    intro a b x hx; rw [otp_setImgState, otp_setF, otp_setF, hx]
  unfold unloadImage
  exact h5 _ _ _ (h4 _ _ _ _ (h3 _ _ _ _ _ (h2 _ _ h1)))

theorem otp_execImgQuiesced (s : State) :
    ∀ st, execImgQuiesced s = .next st → st.otp = s.otp := by
  intro st ht; unfold execImgQuiesced at ht; grind [otp_setF, otp_setImgState, otp_loadFails, otp_readImage, otp_unloadImage]

theorem otp_execImgRefetchDone (bytes : Option (List Byte)) (s : State) :
    ∀ st, execImgRefetchDone bytes s = .next st → st.otp = s.otp := by
  intro st ht; unfold execImgRefetchDone at ht; grind [otp_loadFails, otp_installImage]

@[simp] theorem otp_setProg (owner : Nat) (p : ProgState) (s : State) :
    (setProg owner p s).otp = s.otp := by
  unfold setProg; grind []

@[simp] theorem otp_beginAny (e : InFlight) (s : State) :
    (beginAny e s).otp = s.otp := by
  unfold beginAny; grind [otp_beginMma, otp_beginVop, otp_beginMove, otp_beginComp, otp_beginColl, otp_beginSweep, otp_beginDigest, otp_beginChkp, otp_beginWait, otp_beginSignal]

theorem otp_execProgramEntryTake (owner : Nat) (s : State) :
    ∀ st, execProgramEntryTake owner s = .next st → st.otp = s.otp := by
  intro st ht; unfold execProgramEntryTake at ht; grind [otp_enterFlight, otp_setProg, otp_beginAny]

end Sys2Proof.Machine
end

