-- ==== Sys2Proof/Laws/OtpParts.lean ====
section
/-! SUPPORT. No operation of Machine/Parts.lean touches the one-time programmable memory. -/

namespace Sys2Proof.Machine

set_option Elab.async false

theorem otp_execInvalidOpcode (q : QueueNo) (d : Desc) (s : State) :
    ∀ st, execInvalidOpcode q d s = .next st → st.otp = s.otp := by
  intro st ht; unfold execInvalidOpcode at ht; grind [otp_takeRing, otp_beginAny]

theorem otp_execWait (q : QueueNo) (d : Desc) (s : State) :
    ∀ st, execWait q d s = .next st → st.otp = s.otp := by
  intro st ht; unfold execWait at ht; grind [otp_takeRing, otp_beginWait]

theorem otp_execSignalAdd (q : QueueNo) (d : Desc) (s : State) :
    ∀ st, execSignalAdd q d s = .next st → st.otp = s.otp := by
  intro st ht; unfold execSignalAdd at ht; grind [otp_takeRing, otp_beginSignal]

theorem otp_execSignalMax (q : QueueNo) (d : Desc) (s : State) :
    ∀ st, execSignalMax q d s = .next st → st.otp = s.otp := by
  intro st ht; unfold execSignalMax at ht; grind [otp_takeRing, otp_beginSignal]

@[simp] theorem otp_startMx (n : Nat) (e : InFlight) (p : Nat) (lo : Nat) (s : State) :
    (startMx n e p lo s).otp = s.otp := by
  unfold startMx; grind [otp_setF, otp_setMx]

@[simp] theorem otp_startVx (n : Nat) (e : InFlight) (p : Nat) (s : State) :
    (startVx n e p s).otp = s.otp := by
  unfold startVx; grind [otp_setF, otp_setVx]

theorem otp_execPartIssue (n : CoreNo) (s : State) :
    ∀ st, execPartIssue n s = .next st → st.otp = s.otp := by
  intro st ht; unfold execPartIssue at ht; grind [otp_peep, otp_trace, otp_setPart, otp_startComp, otp_startMx, otp_startVx]

@[simp] theorem otp_poisonPane (root : Tensor) (i : Nat) (s : State) :
    (poisonPane root i s).otp = s.otp := by
  unfold poisonPane; grind [otp_writePane]

@[simp] theorem otp_poisonBox (h : Nat) (lo : List Nat) (hi : List Nat) (s : State) :
    (poisonBox h lo hi s).otp = s.otp := by
  unfold poisonBox; grind [otp_forEach, otp_poisonPane]

@[simp] theorem otp_poisonOutput (e : InFlight) (p : Part) (s : State) :
    (poisonOutput e p s).otp = s.otp := by
  unfold poisonOutput; grind [otp_forEach, otp_poisonBox]

@[simp] theorem otp_finishParts (e : InFlight) (s : State) :
    (finishParts e s).otp = s.otp := by
  unfold finishParts; grind [otp_finish, otp_snapPhases]

@[simp] theorem otp_completePart (e : InFlight) (i : Nat) (p : Part) (s : State) :
    (completePart e i p s).otp = s.otp := by
  unfold completePart; grind [otp_addF, otp_peep, otp_trace, otp_setPart, otp_fillSequencer, otp_poisonOutput, otp_finishParts]

theorem otp_execPartComplete (id : Nat) (part : Nat) (s : State) :
    ∀ st, execPartComplete id part s = .next st → st.otp = s.otp := by
  intro st ht; unfold execPartComplete at ht; grind [otp_completePart]

end Sys2Proof.Machine
end

