-- ==== Sys2Proof/Laws/OtpPeephole.lean ====
section
/-! SUPPORT. No operation of Machine/Peephole.lean touches the one-time programmable memory. -/

namespace Sys2Proof.Machine

set_option Elab.async false

theorem otp_execCntselWrite (c : CounterNo) (value : Nat) (s : State) :
    ∀ st, execCntselWrite c value s = .next st → st.otp = s.otp := by
  intro st ht; unfold execCntselWrite at ht; grind [otp_setF, otp_regAccessError, otp_hostWrite]

theorem otp_execCntselClr (c : CounterNo) (s : State) :
    ∀ st, execCntselClr c s = .next st → st.otp = s.otp := by
  intro st ht; unfold execCntselClr at ht; grind [otp_setF, otp_hostWrite]

theorem otp_execPeepCntclr (s : State) :
    ∀ st, execPeepCntclr s = .next st → st.otp = s.otp := by
  intro st ht; unfold execPeepCntclr at ht; grind [otp_hostWrite]

theorem otp_execTraceEnable (s : State) :
    ∀ st, execTraceEnable s = .next st → st.otp = s.otp := by
  intro st ht; unfold execTraceEnable at ht; grind [otp_setF, otp_hostWrite]

@[simp] theorem otp_traceIdle (s : State) :
    (traceIdle s).otp = s.otp := by
  unfold traceIdle; grind [otp_setF]

theorem otp_execTraceDisable (s : State) :
    ∀ st, execTraceDisable s = .next st → st.otp = s.otp := by
  intro st ht; unfold execTraceDisable at ht; grind [otp_setF, otp_hostWrite, otp_traceIdle]

@[simp] theorem otp_traceStore (rs : List TraceRec) (s : State) :
    (traceStore rs s).otp = s.otp := by
  unfold traceStore; grind [otp_setF, otp_emit, otp_hostWrite]

@[simp] theorem otp_traceMessage (n : Nat) (lost : Bool) (s : State) :
    (traceMessage n lost s).otp = s.otp := by
  unfold traceMessage; grind [otp_sendMsix]

@[simp] theorem otp_traceDropHead (r : TraceRec) (s : State) :
    (traceDropHead r s).otp = s.otp := by
  unfold traceDropHead; grind [otp_traceDrop]

theorem otp_execTraceRingWrite (s : State) :
    ∀ st, execTraceRingWrite s = .next st → st.otp = s.otp := by
  intro st ht; unfold execTraceRingWrite at ht; grind [otp_setF, otp_lostRecord, otp_traceIdle, otp_traceStore, otp_traceMessage, otp_traceDropHead]

theorem otp_execTrheadWrite (slot : Nat) (s : State) :
    ∀ st, execTrheadWrite slot s = .next st → st.otp = s.otp := by
  intro st ht; unfold execTrheadWrite at ht; grind [otp_setF, otp_hostWrite]

@[simp] theorem otp_traceConfigWrite (r : TraceReg) (value : Nat) (s : State) :
    (traceConfigWrite r value s).otp = s.otp := by
  unfold traceConfigWrite; grind [otp_setF, otp_dropHeld, otp_regAccessError]

theorem otp_execTraceConfigWrite (r : TraceReg) (value : Nat) (s : State) :
    ∀ st, execTraceConfigWrite r value s = .next st → st.otp = s.otp := by
  intro st ht; unfold execTraceConfigWrite at ht; grind [otp_hostWrite, otp_traceConfigWrite]

end Sys2Proof.Machine
end

