-- ==== Sys2Proof/Laws/OtpShutters.lean ====
section
/-! SUPPORT. No operation of Machine/Shutters.lean touches the one-time programmable memory. -/

namespace Sys2Proof.Machine

set_option Elab.async false

@[simp] theorem otp_setShut (i : Nat) (st : Nat) (s : State) :
    (setShut i st s).otp = s.otp := by
  unfold setShut; grind [otp_setF, otp_trace]

@[simp] theorem otp_powerUp (n : Nat) (s : State) :
    (powerUp n s).otp = s.otp := by
  unfold powerUp; grind [otp_setRegion, otp_startCal]

@[simp] theorem otp_powerDown (n : Nat) (s : State) :
    (powerDown n s).otp = s.otp := by
  unfold powerDown; grind [otp_setRegion]

@[simp] theorem otp_refuseHeld (n : Nat) (s : State) :
    (refuseHeld n s).otp = s.otp := by
  unfold refuseHeld; grind []

@[simp] theorem otp_closeDoorway (w : Nat) (s : State) :
    (closeDoorway w s).otp = s.otp := by
  unfold closeDoorway; grind [otp_setF, otp_forEach, otp_setDw, otp_failConn, otp_withFailures]

@[simp] theorem otp_beginClosing (i : Nat) (s : State) :
    (beginClosing i s).otp = s.otp := by
  unfold beginClosing; grind [otp_refuseHeld, otp_closeDoorway]

@[simp] theorem otp_dropCore (i : Nat) (s : State) :
    (dropCore i s).otp = s.otp := by
  unfold dropCore; grind []

@[simp] theorem otp_bringUp (i : Nat) (s : State) :
    (bringUp i s).otp = s.otp := by
  unfold bringUp; grind [otp_forEach, otp_muStart, otp_startInsertion, otp_startTraining, otp_powerUp, otp_dropCore]

@[simp] theorem otp_drive (i : Nat) (s : State) :
    (drive i s).otp = s.otp := by
  unfold drive; grind [otp_setF, otp_setShut, otp_beginClosing, otp_bringUp]

@[simp] theorem otp_driveShutters (s : State) :
    (driveShutters s).otp = s.otp := by
  unfold driveShutters; grind [otp_forEach, otp_drive]

theorem otp_execShutterReqWrite (i : ShutterNo) (req : Bool) (s : State) :
    ∀ st, execShutterReqWrite i req s = .next st → st.otp = s.otp := by
  intro st ht; unfold execShutterReqWrite at ht; grind [otp_setF, otp_hostWrite, otp_driveShutters]

@[simp] theorem otp_emptyCtxs (p : Nat → Bool) (s : State) :
    (emptyCtxs p s).otp = s.otp := by
  unfold emptyCtxs; grind []

@[simp] theorem otp_endWaits (i : Nat) (s : State) :
    (endWaits i s).otp = s.otp := by
  unfold endWaits; grind []

@[simp] theorem otp_endClosing (i : Nat) (s : State) :
    (endClosing i s).otp = s.otp := by
  unfold endClosing; grind [otp_forEach, otp_setMuAux, otp_serveAll, otp_closePort, otp_powerDown, otp_emptyCtxs, otp_endWaits]

@[simp] theorem otp_endOpening (i : Nat) (s : State) :
    (endOpening i s).otp = s.otp := by
  unfold endOpening; grind [otp_forEach, otp_bringUp]

theorem otp_execShutterTransitionEnd (i : ShutterNo) (s : State) :
    ∀ st, execShutterTransitionEnd i s = .next st → st.otp = s.otp := by
  intro st ht; unfold execShutterTransitionEnd at ht; grind [otp_setShut, otp_drive, otp_endClosing, otp_endOpening]

end Sys2Proof.Machine
end

