-- ==== Sys2Proof/Laws/OtpReset.lean ====
section
/-! SUPPORT. No operation of Machine/Reset.lean touches the one-time programmable memory. -/

namespace Sys2Proof.Machine

set_option Elab.async false

@[simp] theorem otp_cutParts (n : Nat) (s : State) :
    (cutParts n s).otp = s.otp := by
  unfold cutParts; grind []

@[simp] theorem otp_settleLost (ids : List Nat) (s : State) :
    (settleLost ids s).otp = s.otp := by
  unfold settleLost; grind [otp_forEach, otp_checkEnd, otp_leaveVx, otp_completeSpread]

@[simp] theorem otp_idleCore (n : Nat) (s : State) :
    (idleCore n s).otp = s.otp := by
  unfold idleCore; grind [otp_setF, otp_forEach, otp_transomFree]

@[simp] theorem otp_clearCore (n : Nat) (s : State) :
    (clearCore n s).otp = s.otp := by
  unfold clearCore; grind [otp_fillSequencer, otp_idleCore]

@[simp] theorem otp_dropCopies (core : Nat) (s : State) :
    (dropCopies core s).otp = s.otp := by
  unfold dropCopies; grind []

@[simp] theorem otp_dropSweeps (ids : List Nat) (s : State) :
    (dropSweeps ids s).otp = s.otp := by
  unfold dropSweeps; grind []

@[simp] theorem otp_clearEngines (n : Nat) (s : State) :
    (clearEngines n s).otp = s.otp := by
  unfold clearEngines; grind [otp_emptyCtxs]

@[simp] theorem otp_dropTransfers (n : Nat) (ids : List Nat) (s : State) :
    (dropTransfers n ids s).otp = s.otp := by
  unfold dropTransfers; grind [otp_forEach, otp_setHinge]

@[simp] theorem otp_clearArbiters (n : Nat) (s : State) :
    (clearArbiters n s).otp = s.otp := by
  unfold clearArbiters; grind [otp_setF, otp_forEach]

@[simp] theorem otp_discardFlights (s : State) :
    (discardFlights s).otp = s.otp := by
  unfold discardFlights; grind [otp_forEach, otp_recountQueue, otp_recount, otp_releaseChecks, otp_dropShadows, otp_dropColl, otp_clearCore]

@[simp] theorem otp_clearRoot (s : State) :
    (clearRoot s).otp = s.otp := by
  unfold clearRoot; grind [otp_resetFields, otp_forEach, otp_unloadImage, otp_discardFlights]

@[simp] theorem otp_restartPort (p : Nat) (s : State) :
    (restartPort p s).otp = s.otp := by
  unfold restartPort; grind [otp_setCart, otp_eraseSpill, otp_emptyPort, otp_startInsertion]

@[simp] theorem otp_clearController (s : State) :
    (clearController s).otp = s.otp := by
  unfold clearController; grind [otp_setF, otp_resetFields, otp_resetF, otp_forEach, otp_setArray]

@[simp] theorem otp_cxlDown (s : State) :
    (cxlDown s).otp = s.otp := by
  unfold cxlDown; grind [otp_setF, otp_satF, otp_loadFails]

@[simp] theorem otp_resetUnits (n : Nat) (s : State) :
    (resetUnits n s).otp = s.otp := by
  unfold resetUnits; grind [otp_forEach, otp_muStart, otp_setDw, otp_startTraining, otp_restartPort, otp_cxlDown]

@[simp] theorem otp_clearUnits (n : Nat) (s : State) :
    (clearUnits n s).otp = s.otp := by
  unfold clearUnits; grind [otp_clearCore, otp_dropCopies, otp_clearEngines, otp_clearRoot, otp_clearController]

@[simp] theorem otp_restampHinges (n : Nat) (s : State) :
    (restampHinges n s).otp = s.otp := by
  unfold restampHinges; grind [otp_forEach, otp_setHinge]

@[simp] theorem otp_dropHalves (n : Nat) (s : State) :
    (dropHalves n s).otp = s.otp := by
  unfold dropHalves; grind []

@[simp] theorem otp_holdRegion (n : Nat) (s : State) :
    (holdRegion n s).otp = s.otp := by
  unfold holdRegion; grind [otp_setF, otp_setRegion, otp_startCal, otp_restampHinges, otp_dropHalves]

@[simp] theorem otp_resetRegion (n : Nat) (s : State) :
    (resetRegion n s).otp = s.otp := by
  unfold resetRegion; grind [otp_resetFields, otp_fillSequencer, otp_driveShutters, otp_cutParts, otp_settleLost, otp_dropSweeps, otp_dropTransfers, otp_clearArbiters, otp_resetUnits, otp_clearUnits, otp_holdRegion]

@[simp] theorem otp_regionRuns (n : Nat) (s : State) :
    (regionRuns n s).otp = s.otp := by
  unfold regionRuns; grind [otp_replayGroups, otp_releaseRegion]

theorem otp_execRstctlReset (n : RegionNo) (s : State) :
    ∀ st, execRstctlReset n s = .next st → st.otp = s.otp := by
  intro st ht; unfold execRstctlReset at ht; grind [otp_hostWrite, otp_resetRegion]

theorem otp_execHingeStallTimeout (a : RegionNo) (b : RegionNo) (s : State) :
    ∀ st, execHingeStallTimeout a b s = .next st → st.otp = s.otp := by
  intro st ht; unfold execHingeStallTimeout at ht; simp only [Host.Outcome.next.injEq] at ht; subst ht; (repeat' split) <;> simp [otp_pairRecord, otp_endStall, otp_resetRegion]

theorem otp_execHoldWatchdogBite (inst : Nat) (s : State) :
    ∀ st, execHoldWatchdogBite inst s = .next st → st.otp = s.otp := by
  intro st ht; unfold execHoldWatchdogBite at ht; simp only [Host.Outcome.next.injEq] at ht; subst ht; (repeat' split) <;> simp [otp_satF, otp_trace, otp_errRecord, otp_resetRegion]

end Sys2Proof.Machine
end

