-- ==== Sys2Proof/Laws/OtpBoot.lean ====
section
/-! SUPPORT. No operation of Machine/Boot.lean touches the one-time programmable memory. -/

namespace Sys2Proof.Machine

set_option Elab.async false

@[simp] theorem otp_fullReset (cause : Nat) (s : State) :
    (fullReset cause s).otp = s.otp := by
  unfold fullReset; grind [otp_setF, otp_forEach, otp_eraseSpill, otp_showLifeCycle, otp_showFuses, otp_wipeWindow]

@[simp] theorem otp_measureBoot (m : List Byte) (s : State) :
    (measureBoot m s).otp = s.otp := by
  unfold measureBoot; grind [otp_forEach, otp_extend]

@[simp] theorem otp_bootFails (code : Nat) (s : State) :
    (bootFails code s).otp = s.otp := by
  unfold bootFails; grind [otp_setF, otp_errRecord]

@[simp] theorem otp_bootVerified (slot : Nat) (m : List Byte) (comps : List (List Byte)) (s : State) :
    (bootVerified slot m comps s).otp = s.otp := by
  unfold bootVerified; grind [otp_setF, otp_forEach, otp_startCal, otp_measureBoot]

@[simp] theorem otp_startBoot (env : BootEnv) (s : State) :
    (startBoot env s).otp = s.otp := by
  unfold startBoot; grind [otp_setF, otp_forEach, otp_eraseSpill, otp_keyRecord, otp_bootFails, otp_bootVerified]

@[simp] theorem otp_fenceUnits (env : BootEnv) (s : State) :
    (fenceUnits env s).otp = s.otp := by
  unfold fenceUnits; grind [otp_setF, otp_forEach, otp_errRecord]

@[simp] theorem otp_bootMemory (j : BootJob) (s : State) :
    (bootMemory j s).otp = s.otp := by
  unfold bootMemory; grind [otp_setF, otp_forEach, otp_errRecord, otp_muStart]

@[simp] theorem otp_bootSelfTest (j : BootJob) (s : State) :
    (bootSelfTest j s).otp = s.otp := by
  unfold bootSelfTest; grind [otp_setF, otp_bootFails, otp_fenceUnits, otp_bootMemory]

@[simp] theorem otp_bootCalibrated (s : State) :
    (bootCalibrated s).otp = s.otp := by
  unfold bootCalibrated; grind [otp_bootFails, otp_bootSelfTest]

@[simp] theorem otp_windowEnd (n : Nat) (s : State) :
    (windowEnd n s).otp = s.otp := by
  unfold windowEnd; grind [otp_setRegion, otp_endCal, otp_regionRuns]

theorem otp_execCalibrationWindowEnd (s : State) :
    ∀ st, execCalibrationWindowEnd s = .next st → st.otp = s.otp := by
  intro st ht; unfold execCalibrationWindowEnd at ht; grind [otp_forEach, otp_bootCalibrated, otp_windowEnd]

theorem otp_execCalibrationTimeout (n : RegionNo) (s : State) :
    ∀ st, execCalibrationTimeout n s = .next st → st.otp = s.otp := by
  intro st ht; unfold execCalibrationTimeout at ht; grind [otp_endCal, otp_regionRuns, otp_bootCalibrated]

@[simp] theorem otp_bootZeroing (s : State) :
    (bootZeroing s).otp = s.otp := by
  unfold bootZeroing; grind [otp_setF]

theorem otp_execMuTrainingDone (u : MemUnit) (r : MuTraining) (repairs : List MuRepair) (s : State) :
    ∀ st, execMuTrainingDone u r repairs s = .next st → st.otp = s.otp := by
  intro st ht; unfold execMuTrainingDone at ht; grind [otp_muTrained, otp_bootZeroing]

theorem otp_execMuZeroingDone (u : MemUnit) (s : State) :
    ∀ st, execMuZeroingDone u s = .next st → st.otp = s.otp := by
  intro st ht; unfold execMuZeroingDone at ht; grind [otp_muZeroed]

theorem otp_execBootReady (s : State) :
    ∀ st, execBootReady s = .next st → st.otp = s.otp := by
  intro st ht; unfold execBootReady at ht; grind [otp_setF, otp_driveShutters]

theorem otp_execPorNAssert (s : State) :
    ∀ st, execPorNAssert s = .next st → st.otp = s.otp := by
  intro st ht; unfold execPorNAssert at ht; grind [otp_fullReset]

theorem otp_execPorNDeassert (env : BootEnv) (s : State) :
    ∀ st, execPorNDeassert env s = .next st → st.otp = s.otp := by
  intro st ht; unfold execPorNDeassert at ht; grind [otp_startBoot]

theorem otp_execPerstNAssert (s : State) :
    ∀ st, execPerstNAssert s = .next st → st.otp = s.otp := by
  intro st ht; unfold execPerstNAssert at ht; grind [otp_fullReset]

theorem otp_execPerstNDeassert (env : BootEnv) (s : State) :
    ∀ st, execPerstNDeassert env s = .next st → st.otp = s.otp := by
  intro st ht; unfold execPerstNDeassert at ht; grind [otp_startBoot]

@[simp] theorem otp_warmReset (env : BootEnv) (s : State) :
    (warmReset env s).otp = s.otp := by
  unfold warmReset; grind [otp_setF, otp_fullReset, otp_startBoot]

theorem otp_execWarmReset (env : BootEnv) (s : State) :
    ∀ st, execWarmReset env s = .next st → st.otp = s.otp := by
  intro st ht; unfold execWarmReset at ht; grind [otp_setF, otp_hostWrite, otp_warmReset]

theorem otp_execFatalThermalResetStart (env : BootEnv) (s : State) :
    ∀ st, execFatalThermalResetStart env s = .next st → st.otp = s.otp := by
  intro st ht; unfold execFatalThermalResetStart at ht; grind [otp_fullReset, otp_startBoot, otp_warmReset]

theorem fuses_execLifeCycleRowProgrammed (programmed : Bool) (env : BootEnv) (s : State) :
    ∀ st, execLifeCycleRowProgrammed programmed env s = .next st → FusesKept s.otp st.otp := by
  intro st ht; unfold execLifeCycleRowProgrammed at ht
  simp only [Host.Outcome.next.injEq] at ht; subst ht
  split
  · exact FusesKept.refl _
  · split
    · rw [otp_rowFailed]; exact FusesKept.refl _
    · split
      · rw [otp_setF]; exact fuses_rowValid s
      · rw [otp_startBoot, otp_fullReset]; exact fuses_rowValid s

theorem otp_execRunmodeWrite (mode : Nat) (s : State) :
    ∀ st, execRunmodeWrite mode s = .next st → st.otp = s.otp := by
  intro st ht; unfold execRunmodeWrite at ht; grind [otp_setF, otp_regAccessError, otp_hostWrite]

theorem otp_execErrheadWrite (slot : Nat) (s : State) :
    ∀ st, execErrheadWrite slot s = .next st → st.otp = s.otp := by
  intro st ht; unfold execErrheadWrite at ht; grind [otp_setF, otp_hostWrite]

theorem otp_execAlertNPulseEnd (s : State) :
    ∀ st, execAlertNPulseEnd s = .next st → st.otp = s.otp := by
  intro st ht; unfold execAlertNPulseEnd at ht; grind []

end Sys2Proof.Machine
end

