-- ==== Sys2Proof/Laws/OtpHostIf.lean ====
section
/-! SUPPORT. No operation of Machine/HostIf.lean touches the one-time programmable memory. -/

namespace Sys2Proof.Machine

set_option Elab.async false

@[simp] theorem otp_cxlUp (wide : Bool) (rate : Nat) (s : State) :
    (cxlUp wide rate s).otp = s.otp := by
  unfold cxlUp; grind [otp_setF]

theorem otp_execCxlLinkTrainingDone (r : CxlTraining) (s : State) :
    ∀ st, execCxlLinkTrainingDone r s = .next st → st.otp = s.otp := by
  intro st ht; unfold execCxlLinkTrainingDone at ht; grind [otp_errRecord, otp_cxlUp]

theorem otp_execCxlLinkDown (s : State) :
    ∀ st, execCxlLinkDown s = .next st → st.otp = s.otp := by
  intro st ht; unfold execCxlLinkDown at ht; grind [otp_cxlDown]

@[simp] theorem otp_sendHeld (s : State) :
    (sendHeld s).otp = s.otp := by
  unfold sendHeld; grind [otp_forEach, otp_emit]

@[simp] theorem otp_writeLate (q : Nat) (s : State) :
    (writeLate q s).otp = s.otp := by
  unfold writeLate; grind [otp_forEach, otp_setQaux, otp_offerRecord, otp_recount]

@[simp] theorem otp_setPower (d3hot : Bool) (s : State) :
    (setPower d3hot s).otp = s.otp := by
  unfold setPower; grind [otp_forEach, otp_writeLate, otp_sendHeld]

@[simp] theorem otp_maskVector (v : Nat) (mask : Bool) (s : State) :
    (maskVector v mask s).otp = s.otp := by
  unfold maskVector; grind []

theorem otp_execMsixUnmask (v : Nat) (s : State) :
    ∀ st, execMsixUnmask v s = .next st → st.otp = s.otp := by
  intro st ht; unfold execMsixUnmask at ht; grind [otp_hostWrite, otp_sendHeld, otp_maskVector]

@[simp] theorem otp_configServe (r : ConfigReq) (s : State) :
    (configServe r s).otp = s.otp := by
  unfold configServe; grind [otp_emit, otp_sendHeld, otp_maskVector, otp_setPower]

theorem otp_execConfigRequest (r : ConfigReq) (s : State) :
    ∀ st, execConfigRequest r s = .next st → st.otp = s.otp := by
  intro st ht; unfold execConfigRequest at ht; grind [otp_emit, otp_configServe]

@[simp] theorem otp_doeServe (kind : Nat) (f : State → List Byte × State) (s : State) (h_f : ∀ x0, (f x0).2.otp = x0.otp) :
    (doeServe kind f s).otp = s.otp := by
  unfold doeServe; grind [otp_emit]

@[simp] theorem otp_doeObject (kind : Nat) (bytes : Nat) (f : State → List Byte × State) (s : State) (h_f : ∀ x0, (f x0).2.otp = x0.otp) :
    (doeObject kind bytes f s).otp = s.otp := by
  unfold doeObject; grind [otp_doeServe]

theorem otp_execDoeDiscovery (index : Nat) (bytes : Nat) (s : State) :
    ∀ st, execDoeDiscovery index bytes s = .next st → st.otp = s.otp := by
  intro st ht; unfold execDoeDiscovery at ht; grind [otp_doeObject]

theorem otp_execCdatTableAccess (bytes : Nat) (s : State) :
    ∀ st, execCdatTableAccess bytes s = .next st → st.otp = s.otp := by
  intro st ht; unfold execCdatTableAccess at ht; grind [otp_doeObject]

theorem otp_execDoeAbort (s : State) :
    ∀ st, execDoeAbort s = .next st → st.otp = s.otp := by
  intro st ht; unfold execDoeAbort at ht; grind []

theorem otp_spdm (tag : Nat) (content : State → List Byte × State) (s : State) (h_content : ∀ x0, (content x0).2.otp = x0.otp) :
    ∀ st, spdm tag content s = .next st → st.otp = s.otp := by
  intro st ht; unfold spdm at ht; grind [otp_doeServe]

theorem otp_execGetVersion (s : State) :
    ∀ st, execGetVersion s = .next st → st.otp = s.otp := by
  intro st ht; unfold execGetVersion at ht; grind [otp_spdm]

theorem otp_execGetCapabilities (s : State) :
    ∀ st, execGetCapabilities s = .next st → st.otp = s.otp := by
  intro st ht; unfold execGetCapabilities at ht; grind [otp_spdm]

theorem otp_execNegotiateAlgorithms (s : State) :
    ∀ st, execNegotiateAlgorithms s = .next st → st.otp = s.otp := by
  intro st ht; unfold execNegotiateAlgorithms at ht; grind [otp_spdm]

theorem otp_execGetDigests (s : State) :
    ∀ st, execGetDigests s = .next st → st.otp = s.otp := by
  intro st ht; unfold execGetDigests at ht; grind [otp_spdm]

theorem otp_spdmError (code : Nat) (datum : Nat) (s : State) :
    ∀ st, spdmError code datum s = .next st → st.otp = s.otp := by
  intro st ht; unfold spdmError at ht; grind [otp_spdm]

theorem otp_execGetCertificate (slot : Nat) (offset : Nat) (len : Nat) (s : State) :
    ∀ st, execGetCertificate slot offset len s = .next st → st.otp = s.otp := by
  intro st ht; unfold execGetCertificate at ht; grind [otp_spdm, otp_spdmError]

@[simp] theorem otp_signedResponse (tag : Nat) (request : List Byte) (content : List Byte) (s : State) :
    (signedResponse tag request content s).2.otp = s.otp := by
  unfold signedResponse; grind [otp_drawRandom]

theorem otp_execChallengeSpdm (slot : Nat) (nonce : List Byte) (s : State) :
    ∀ st, execChallengeSpdm slot nonce s = .next st → st.otp = s.otp := by
  intro st ht; unfold execChallengeSpdm at ht; grind [otp_spdm, otp_spdmError, otp_signedResponse]

theorem otp_execGetMeasurements (index : Nat) (signed : Bool) (nonce : List Byte) (s : State) :
    ∀ st, execGetMeasurements index signed nonce s = .next st → st.otp = s.otp := by
  intro st ht; unfold execGetMeasurements at ht; grind [otp_spdm, otp_spdmError, otp_signedResponse]

theorem otp_execSpdmUnsupportedRequest (code : Nat) (s : State) :
    ∀ st, execSpdmUnsupportedRequest code s = .next st → st.otp = s.otp := by
  intro st ht; unfold execSpdmUnsupportedRequest at ht; grind [otp_spdmError]

@[simp] theorem otp_endColl (j : CollJob) (s : State) :
    (endColl j s).otp = s.otp := by
  unfold endColl; grind [otp_dropShadows, otp_dropColl, otp_commitColl]

@[simp] theorem otp_flrDiscard (s : State) :
    (flrDiscard s).otp = s.otp := by
  unfold flrDiscard; grind [otp_forEach, otp_discardFlights, otp_endColl]

theorem otp_execFlr (s : State) :
    ∀ st, execFlr s = .next st → st.otp = s.otp := by
  intro st ht; unfold execFlr at ht; grind [otp_forEach, otp_dropTransfers, otp_resetRegion, otp_flrDiscard]

@[simp] theorem otp_disableQueue (q : Nat) (s : State) :
    (disableQueue q s).otp = s.otp := by
  unfold disableQueue; grind [otp_setF, otp_resetFields]

theorem otp_execFlrQuiesced (s : State) :
    ∀ st, execFlrQuiesced s = .next st → st.otp = s.otp := by
  intro st ht; unfold execFlrQuiesced at ht; grind [otp_satF, otp_forEach, otp_disableQueue]

end Sys2Proof.Machine
end

