-- ==== Sys2Proof/Laws/OtpRegisters.lean ====
section
/-! SUPPORT. No operation of Machine/Registers.lean touches the one-time programmable memory. -/

namespace Sys2Proof.Machine

set_option Elab.async false

@[simp] theorem otp_readWord (a : Nat) (s : State) :
    (readWord a s).2.otp = s.otp := by
  unfold readWord; grind [otp_drawFree]

@[simp] theorem otp_hostRead (a : Nat) (f : State → Nat × State) (s : State) (h_f : ∀ x0, (f x0).2.otp = x0.otp) :
    (hostRead a f s).otp = s.otp := by
  unfold hostRead; grind [otp_emit]

@[simp] theorem otp_readDouble (a : Nat) (s : State) :
    (readDouble a s).2.otp = s.otp := by
  unfold readDouble; grind [otp_readWord]

@[simp] theorem otp_doorbellRead (a size : Nat) (s : State) :
    (doorbellRead a size s).otp = s.otp := by
  unfold doorbellRead; grind [otp_emit]

theorem otp_execRegisterReadLowerHalf (r : RegRead) (s : State) :
    ∀ st, execRegisterReadLowerHalf r s = .next st → st.otp = s.otp := by
  intro st ht; unfold execRegisterReadLowerHalf at ht; grind [otp_readWord, otp_hostRead, otp_readDouble, otp_doorbellRead]

@[simp] theorem otp_writeField (r : RegAt) (v : Nat) (f : FieldRow) (s : State) :
    (writeField r v f s).otp = s.otp := by
  unfold writeField; grind [otp_setF, otp_orF]

@[simp] theorem otp_writeFields (r : RegAt) (v : Nat) (s : State) :
    (writeFields r v s).otp = s.otp := by
  unfold writeFields; grind [otp_forEach, otp_regAccessError, otp_writeField]

@[simp] theorem otp_writeOwnDouble (r : RegAt) (v : Nat) (s : State) :
    (writeOwnDouble r v s).otp = s.otp := by
  unfold writeOwnDouble; grind [otp_peep, otp_mapWrite, otp_checkWrite, otp_fenceWrite, otp_ringWrite, otp_traceConfigWrite]

@[simp] theorem otp_writeReg (r : RegAt) (v : Nat) (s : State) :
    (writeReg r v s).otp = s.otp := by
  unfold writeReg; grind [otp_setF, otp_regAccessError, otp_writeFields, otp_writeOwnDouble]

@[simp] theorem otp_writeMsixCell (d : Nat) (v : Nat) (s : State) :
    (writeMsixCell d v s).otp = s.otp := by
  unfold writeMsixCell; grind [otp_sendHeld, otp_maskVector]

@[simp] theorem otp_writeMsix (a : Nat) (v : Nat) (s : State) :
    (writeMsix a v s).otp = s.otp := by
  unfold writeMsix; grind [otp_writeMsixCell]

@[simp] theorem otp_writeWord (a : Nat) (v : Nat) (s : State) :
    (writeWord a v s).otp = s.otp := by
  unfold writeWord; grind [otp_writeReg, otp_writeMsix]

@[simp] theorem otp_writeDouble (a : Nat) (v : Nat) (s : State) :
    (writeDouble a v s).otp = s.otp := by
  unfold writeDouble; grind [otp_writeReg, otp_writeWord]

theorem otp_execRegisterAccessInvalid (isWrite : Bool) (off : Nat) (size : Nat) (value : Nat) (s : State) :
    ∀ st, execRegisterAccessInvalid isWrite off size value s = .next st → st.otp = s.otp := by
  intro st ht; unfold execRegisterAccessInvalid at ht; grind [otp_regAccessError, otp_hostWrite, otp_hostRead]

theorem otp_execRegisterWrite (off : Nat) (size : Nat) (value : Nat) (s : State) :
    ∀ st, execRegisterWrite off size value s = .next st → st.otp = s.otp := by
  intro st ht; unfold execRegisterWrite at ht; grind [otp_regAccessError, otp_hostWrite, otp_writeWord, otp_writeDouble]

end Sys2Proof.Machine
end

