-- ==== Sys2Proof/Laws/PendOps.lean ====
section
/-! SUPPORT. No operation of Machine/Ops.lean touches the queue of waiting commands. -/

namespace Sys2Proof.Machine

set_option Elab.async false

@[simp] theorem pend_setF (f : Fld) (v : Nat) (s : State) :
    (setF f v s).pending = s.pending := by
  unfold setF; (repeat' split) <;> rfl

@[simp] theorem pend_addF (f : Fld) (n : Nat) (s : State) :
    (addF f n s).pending = s.pending := by
  unfold addF; simp only [pend_setF]

@[simp] theorem pend_satF (f : Fld) (n : Nat) (s : State) :
    (satF f n s).pending = s.pending := by
  unfold satF; simp only [pend_setF]

@[simp] theorem pend_orF (f : Fld) (n : Nat) (s : State) :
    (orF f n s).pending = s.pending := by
  unfold orF; simp only [pend_setF]

@[simp] theorem pend_resetFields (p : Nat → Bool) (s : State) :
    (resetFields p s).pending = s.pending := rfl

@[simp] theorem pend_resetF (f : Fld) (s : State) :
    (resetF f s).pending = s.pending := by
  unfold resetF; simp only [pend_setF]

@[simp] theorem pend_dropHeld (a : Nat) (s : State) :
    (dropHeld a s).pending = s.pending := by
  unfold dropHeld; grind []

@[simp] theorem pend_forEach {α : Type} (l : List α) (f : α → State → State) (s : State) (h_f : ∀ x0 x1, (f x0 x1).pending = x1.pending) :
    (forEach l f s).pending = s.pending := forEach_eq (fun s => s.pending) l f s h_f

@[simp] theorem pend_foldl {α β : Type} (l : List α) (f : State × β → α → State × β) (a : State × β)
    (h_f : ∀ b x, (f b x).1.pending = b.1.pending) : (l.foldl f a).1.pending = a.1.pending := foldl_fst_eq (fun s => s.pending) l f a h_f

@[simp] theorem pend_emit (o : Out) (s : State) :
    (emit o s).pending = s.pending := rfl

@[simp] theorem pend_setRegion (n : Nat) (f : Region → Region) (s : State) :
    (setRegion n f s).pending = s.pending := by
  unfold setRegion; (repeat' split) <;> rfl

@[simp] theorem pend_setHinge (a : Nat) (b : Nat) (f : Hinge → Hinge) (s : State) :
    (setHinge a b f s).pending = s.pending := by
  unfold setHinge; (repeat' split) <;> rfl

@[simp] theorem pend_drawFree (s : State) :
    (drawFree s).2.pending = s.pending := by
  unfold drawFree; (repeat' split) <;> rfl

@[simp] theorem pend_drawRandom (n : Nat) (s : State) :
    (drawRandom n s).2.pending = s.pending := by
  unfold drawRandom; (repeat' split) <;> rfl

@[simp] theorem pend_sendMsix (v : Nat) (s : State) :
    (sendMsix v s).pending = s.pending := by
  unfold sendMsix; grind [pend_emit]

@[simp] theorem pend_peep (kind : Nat) (unit : Nat) (event : Nat) (inc : Nat) (s : State) :
    (peep kind unit event inc s).pending = s.pending := by
  unfold peep; grind [pend_addF, pend_forEach]

@[simp] theorem pend_traceDrop (seq : Nat) (s : State) :
    (traceDrop seq s).pending = s.pending := rfl

@[simp] theorem pend_tracePush (r : TraceRec) (s : State) :
    (tracePush r s).pending = s.pending := rfl

theorem pend_lostRecord (s : State) : ∀ r t, lostRecord s = some (r, t) → t.pending = s.pending := by
  intro r t ht; unfold lostRecord at ht; grind

@[simp] theorem pend_trace (cls : Nat) (event : Nat) (region : Nat) (arg0 : Nat) (arg1 : Nat) (s : State) :
    (trace cls event region arg0 arg1 s).pending = s.pending := by
  unfold trace; grind [pend_traceDrop, pend_tracePush, pend_lostRecord]

@[simp] theorem pend_errRecord (cls : Nat) (sev : Nat) (region : Nat) (code : Nat) (unit : Nat) (detail : List Nat) (s : State) :
    (errRecord cls sev region code unit detail s).pending = s.pending := by
  unfold errRecord; grind [pend_setF, pend_satF, pend_emit, pend_sendMsix, pend_trace]

@[simp] theorem pend_regAccessError (addr : Nat) (s : State) :
    (regAccessError addr s).pending = s.pending := by
  unfold regAccessError; simp only [pend_errRecord]

@[simp] theorem pend_enterFatal (cause : Nat) (region : Nat) (s : State) :
    (enterFatal cause region s).pending = s.pending := by
  unfold enterFatal; (repeat' split) <;> simp only [pend_setF, pend_errRecord]

@[simp] theorem pend_hostWrite (k : BlkReach) (f : State → State) (s : State) (h_f : ∀ x0, (f x0).pending = x0.pending) :
    (hostWrite k f s).pending = s.pending := by
  unfold hostWrite; grind [pend_emit]

@[simp] theorem pend_setFlight (id : Nat) (f : InFlight → InFlight) (s : State) :
    (setFlight id f s).pending = s.pending := rfl

@[simp] theorem pend_setPart (id : Nat) (p : Nat) (f : Part → Part) (s : State) :
    (setPart id p f s).pending = s.pending := rfl

end Sys2Proof.Machine
end

