-- ==== Sys2Proof/Laws/PendQueue.lean ====
section
/-! SUPPORT. No operation of Machine/Queue.lean touches the queue of waiting commands. -/

namespace Sys2Proof.Machine

set_option Elab.async false

@[simp] theorem pend_setQaux (q : Nat) (f : QAux → QAux) (s : State) :
    (setQaux q f s).pending = s.pending := by
  unfold setQaux; grind []

@[simp] theorem pend_recountQueue (q : Nat) (s : State) :
    (recountQueue q s).pending = s.pending := by
  unfold recountQueue; grind [pend_setF]

@[simp] theorem pend_recount (q : Option Nat) (s : State) :
    (recount q s).pending = s.pending := by
  unfold recount; grind [pend_setF, pend_recountQueue]

@[simp] theorem pend_queueError (q : Nat) (err : Nat) (lost : Option (Nat × Nat)) (s : State) :
    (queueError q err lost s).pending = s.pending := by
  unfold queueError; grind [pend_setF, pend_satF, pend_errRecord]

@[simp] theorem pend_queueIrq (q : Nat) (s : State) :
    (queueIrq q s).pending = s.pending := by
  unfold queueIrq; grind [pend_sendMsix, pend_setQaux]

@[simp] theorem pend_recordIrq (q : Nat) (irq : Bool) (status : Nat) (s : State) :
    (recordIrq q irq status s).pending = s.pending := by
  unfold recordIrq; grind [pend_setQaux, pend_queueIrq]

@[simp] theorem pend_putRecord (q : Nat) (r : DoneRec) (s : State) :
    (putRecord q r s).pending = s.pending := by
  unfold putRecord; grind [pend_setF, pend_addF, pend_emit, pend_peep, pend_setQaux, pend_recordIrq]

@[simp] theorem pend_holdRecord (q : Nat) (r : DoneRec) (s : State) :
    (holdRecord q r s).pending = s.pending := by
  unfold holdRecord; grind [pend_setQaux]

@[simp] theorem pend_offerRecord (q : Nat) (r : DoneRec) (s : State) :
    (offerRecord q r s).pending = s.pending := by
  unfold offerRecord; grind [pend_errRecord, pend_satF, pend_holdRecord, pend_queueError, pend_putRecord]

@[simp] theorem pend_writeRecord (q : Nat) (e : InFlight) (status : Nat) (flags : Nat) (replay : Nat) (check : Nat) (tier : Nat) (s : State) :
    (writeRecord q e status flags replay check tier s).pending = s.pending := by
  unfold writeRecord; grind [pend_offerRecord]

@[simp] theorem pend_snapPhases (s : State) :
    (snapPhases s).pending = s.pending := by
  unfold snapPhases; grind [pend_setF, pend_forEach]

@[simp] theorem pend_releaseChecks (id : Nat) (s : State) :
    (releaseChecks id s).pending = s.pending := by
  unfold releaseChecks; grind [pend_setF, pend_forEach]

@[simp] theorem pend_finish (e : InFlight) (status : Nat) (flags : Nat) (replay : Nat) (check : Nat) (s : State) :
    (finish e status flags replay check s).pending = s.pending := by
  unfold finish; grind [pend_trace, pend_recount, pend_writeRecord, pend_snapPhases, pend_releaseChecks]

@[simp] theorem pend_completeWaits (s : State) :
    (completeWaits s).pending = s.pending := by
  unfold completeWaits; grind [pend_forEach, pend_finish]

@[simp] theorem pend_setFence (f : Nat) (v : Nat) (event : Nat) (s : State) :
    (setFence f v event s).pending = s.pending := by
  unfold setFence; grind [pend_setF, pend_trace, pend_completeWaits]

@[simp] theorem pend_breakPair (port : Nat) (s : State) :
    (breakPair port s).pending = s.pending := by
  unfold breakPair; grind [pend_finish]

@[simp] theorem pend_enterFlight (port : Nat) (q : Nat) (seq : Nat) (entry : Nat) (fromProgram : Bool) (d : Desc) (k : InFlight → State → State) (s : State) (h_k : ∀ x0 x1, (k x0 x1).pending = x1.pending) :
    (enterFlight port q seq entry fromProgram d k s).pending = s.pending := by
  unfold enterFlight; grind [pend_peep, pend_trace, pend_recount, pend_finish, pend_breakPair]

@[simp] theorem pend_failCheck (e : InFlight) (status : Nat) (check : Nat) (s : State) :
    (failCheck e status check s).pending = s.pending := by
  unfold failCheck; grind [pend_peep, pend_finish]

@[simp] theorem pend_takeRing (q : QueueNo) (d : Desc) (k : InFlight → State → State) (s : State) (h_k : ∀ x0 x1, (k x0 x1).pending = x1.pending) :
    (takeRing q d k s).pending = s.pending := by
  unfold takeRing; grind [pend_setF, pend_emit, pend_peep, pend_queueError, pend_enterFlight]

@[simp] theorem pend_validated (e : InFlight) (cs : List (Nat × Nat × Bool)) (k : State → State) (s : State) (h_k : ∀ x0, (k x0).pending = x0.pending) :
    (validated e cs k s).pending = s.pending := by
  unfold validated; grind [pend_failCheck]

@[simp] theorem pend_promote (n fuel : Nat) (s : State) : (promote n fuel s).pending = s.pending := by
  induction fuel generalizing s with
  | zero => rfl
  | succ k ih => unfold promote; grind

@[simp] theorem pend_fillSequencer (n : Nat) (s : State) :
    (fillSequencer n s).pending = s.pending := by
  unfold fillSequencer; grind [pend_setF, pend_promote]

@[simp] theorem pend_launch (e : InFlight) (parts : List Part) (s : State) :
    (launch e parts s).pending = s.pending := by
  unfold launch; grind [pend_forEach, pend_setFlight, pend_fillSequencer]

@[simp] theorem pend_endPart (id : Nat) (p : Nat) (status : Nat) (flags : Nat) (replay : Nat) (s : State) :
    (endPart id p status flags replay s).pending = s.pending := by
  unfold endPart; grind [pend_setPart]

end Sys2Proof.Machine
end

