-- ==== Sys2Proof/Laws/PendPanes.lean ====
section
/-! SUPPORT. No operation of Machine/Panes.lean touches the queue of waiting commands. -/

namespace Sys2Proof.Machine

set_option Elab.async false

@[simp] theorem pend_memWrite (a : Nat) (bs : List Byte) (s : State) :
    (memWrite a bs s).pending = s.pending := by
  unfold memWrite; grind []

@[simp] theorem pend_memPutCells (a : Nat) (n : Nat) (cs : List Host.Cell) (s : State) :
    (memPutCells a n cs s).pending = s.pending := by
  unfold memPutCells; grind []

@[simp] theorem pend_poisonLine (l : Nat) (s : State) :
    (poisonLine l s).pending = s.pending := by
  unfold poisonLine; grind []

@[simp] theorem pend_healRange (a : Nat) (n : Nat) (s : State) :
    (healRange a n s).pending = s.pending := by
  unfold healRange; grind []

@[simp] theorem pend_setCart (p : Nat) (f : CartAux → CartAux) (s : State) :
    (setCart p f s).pending = s.pending := by
  unfold setCart; grind []

@[simp] theorem pend_charge (owner : Nat) (tier : Nat) (n : Nat) (s : State) :
    (charge owner tier n s).pending = s.pending := by
  unfold charge; grind [pend_forEach]

@[simp] theorem pend_uncharge (owner : Nat) (tier : Nat) (n : Nat) (s : State) :
    (uncharge owner tier n s).pending = s.pending := by
  unfold uncharge; grind [pend_forEach]

@[simp] theorem pend_recordQlast (full : Bool) (tier : Nat) (c : Nat) (s : State) :
    (recordQlast full tier c s).pending = s.pending := by
  unfold recordQlast; grind [pend_setF]

@[simp] theorem pend_setLoc (h : Nat) (i : Nat) (l : PaneLoc) (s : State) :
    (setLoc h i l s).pending = s.pending := by
  unfold setLoc; grind []

@[simp] theorem pend_freeSlotBytes (l : PaneLoc) (s : State) :
    (freeSlotBytes l s).pending = s.pending := by
  unfold freeSlotBytes; grind [pend_memWrite]

@[simp] theorem pend_releasePane (t : Tensor) (i : Nat) (s : State) :
    (releasePane t i s).pending = s.pending := by
  unfold releasePane; grind [pend_uncharge, pend_freeSlotBytes]

@[simp] theorem pend_allocPane (tier : Nat) (t : Tensor) (i : Nat) (s : State) :
    (allocPane tier t i s).pending = s.pending := by
  unfold allocPane; grind [pend_charge, pend_setLoc, pend_freeSlotBytes]

theorem pend_allocAll (tier : Nat) (t : Tensor) (is : List Nat) (s : State) :
    (∀ u, (allocAll tier t is s).1 = some u → u.pending = s.pending) ∧ (allocAll tier t is s).2.1.pending = s.pending := by
  have hf : (forEach is (fun i s => allocPane tier t i s) s).pending = s.pending := pend_forEach _ _ _ (fun i x => pend_allocPane tier t i x)
  unfold allocAll
  grind [pend_recordQlast]

@[simp] theorem pend_allocForWrite (t : Tensor) (s : State) :
    (allocForWrite t s).1.pending = s.pending := by
  unfold allocForWrite; grind [pend_recordQlast, pend_allocAll]

@[simp] theorem pend_chargeAll (l : List Tensor) (s : State) : (chargeAll l s).1.pending = s.pending := by
  unfold chargeAll; dsimp only; split
  · exact pend_foldl _ _ _ (fun b x => by split <;> simp)
  · simp

@[simp] theorem pend_writePane (root : Tensor) (i : Nat) (l : PaneLoc) (data : List Host.Cell) (poison : Bool) (tadj : List (Nat × Nat)) (step : Nat) (s : State) :
    (writePane root i l data poison tadj step s).pending = s.pending := by
  unfold writePane; grind [pend_memPutCells, pend_healRange]

@[simp] theorem pend_portRecord (sev : Nat) (p : Nat) (detail : List Nat) (s : State) :
    (portRecord sev p detail s).pending = s.pending := by
  unfold portRecord; grind [pend_errRecord]

@[simp] theorem pend_setCommitted (p : Nat) (v : Nat) (s : State) :
    (setCommitted p v s).pending = s.pending := by
  unfold setCommitted; grind [pend_setF, pend_setCart, pend_portRecord]

@[simp] theorem pend_writeCounter (p : Nat) (v : Nat) (s : State) :
    (writeCounter p v s).pending = s.pending := by
  unfold writeCounter; grind [pend_emit]

@[simp] theorem pend_programBytes (p : Nat) (n : Nat) (s : State) :
    (programBytes p n s).pending = s.pending := by
  unfold programBytes; grind [pend_peep, pend_setCart]

@[simp] theorem pend_programWhole (p n : Nat) (s : State) : (programWhole p n s).pending = s.pending := by
  have h1 : ∀ v, (setCommitted p v (writeCounter p v s)).pending = s.pending := fun v => (pend_setCommitted _ _ _).trans (pend_writeCounter _ _ _)
  unfold programWhole
  exact ite_keep (P := fun x : State => x.pending = s.pending) (ite_keep (P := fun x : State => x.pending = s.pending) (h1 _) rfl)
    ((pend_programBytes _ _ _).trans (ite_keep (P := fun x : State => x.pending = s.pending) (h1 _) rfl))

@[simp] theorem pend_programSlot (l : PaneLoc) (n : Nat) (s : State) :
    (programSlot l n s).1.pending = s.pending := by
  unfold programSlot; grind [pend_programWhole]

@[simp] theorem pend_copyGroup (g : JournalGroup) (s : State) :
    (copyGroup g s).pending = s.pending := by
  unfold copyGroup; grind [pend_forEach, pend_memPutCells, pend_healRange]

@[simp] theorem pend_replayGroups (c : Nat) (s : State) :
    (replayGroups c s).pending = s.pending := by
  unfold replayGroups; grind [pend_forEach, pend_copyGroup]

@[simp] theorem pend_markPoison (root : Tensor) (i : Nat) (l : PaneLoc) (s : State) :
    (markPoison root i l s).pending = s.pending := by
  unfold markPoison; grind [pend_memPutCells, pend_programSlot]

@[simp] theorem pend_crcRecord (root : Tensor) (i : Nat) (l : PaneLoc) (s : State) :
    (crcRecord root i l s).pending = s.pending := by
  unfold crcRecord; grind [pend_errRecord]

@[simp] theorem pend_checkedRead (root : Tensor) (i : Nat) (l : PaneLoc) (s : State) :
    (checkedRead root i l s).2.pending = s.pending := by
  unfold checkedRead; grind [pend_markPoison, pend_crcRecord]

@[simp] theorem pend_moverRead (root : Tensor) (i : Nat) (s : State) :
    (moverRead root i s).2.pending = s.pending := by
  unfold moverRead; grind [pend_checkedRead]

@[simp] theorem pend_healSpans (a : Nat) (spans : List (Nat × Nat)) (s : State) :
    (healSpans a spans s).pending = s.pending := by
  unfold healSpans; grind []

end Sys2Proof.Machine
end

