-- ==== Sys2Proof/Laws/PendTiming.lean ====
section
/-! SUPPORT. No operation of Machine/Timing.lean touches the queue of waiting commands. -/

namespace Sys2Proof.Machine

set_option Elab.async false

@[simp] theorem pend_peepLic (n : Nat) (d : Nat) (s : State) :
    (peepLic n d s).pending = s.pending := by
  unfold peepLic; grind [pend_forEach, pend_peep]

@[simp] theorem pend_ticks (n : Nat) (cycles : Nat) (s : State) :
    (ticks n cycles s).pending = s.pending := by
  unfold ticks; grind [pend_setF, pend_setRegion, pend_peepLic]

@[simp] theorem pend_showBootZero (s : State) :
    (showBootZero s).pending = s.pending := by
  unfold showBootZero; grind [pend_setF]

@[simp] theorem pend_zeroingGoesOn (n : Nat) (s : State) :
    (zeroingGoesOn n s).pending = s.pending := by
  unfold zeroingGoesOn; grind [pend_setF, pend_forEach, pend_drawFree, pend_showBootZero]

theorem pend_execLicTick (n : RegionNo) (cycles : Nat) (s : State) :
    ∀ st, execLicTick n cycles s = .next st → st.pending = s.pending := by
  intro st ht; unfold execLicTick at ht; grind [pend_ticks, pend_zeroingGoesOn]

@[simp] theorem pend_startCal (n : Nat) (s : State) :
    (startCal n s).pending = s.pending := by
  unfold startCal; grind [pend_setF, pend_setRegion]

theorem pend_execLicctlCal (n : RegionNo) (s : State) :
    ∀ st, execLicctlCal n s = .next st → st.pending = s.pending := by
  intro st ht; unfold execLicctlCal at ht; grind [pend_setF, pend_hostWrite, pend_startCal]

@[simp] theorem pend_endCal (n : Nat) (result : Option (Nat × Nat)) (s : State) :
    (endCal n result s).pending = s.pending := by
  unfold endCal; grind [pend_setF, pend_setRegion]

@[simp] theorem pend_releaseRegion (n : Nat) (s : State) :
    (releaseRegion n s).pending = s.pending := by
  unfold releaseRegion; grind [pend_setF, pend_setRegion]

@[simp] theorem pend_setVset (n : Nat) (vcode : Nat) (s : State) :
    (setVset n vcode s).pending = s.pending := by
  unfold setVset; grind [pend_setF, pend_setRegion]

theorem pend_execVsetWrite (n : RegionNo) (vcode : Nat) (s : State) :
    ∀ st, execVsetWrite n vcode s = .next st → st.pending = s.pending := by
  intro st ht; unfold execVsetWrite at ht; grind [pend_regAccessError, pend_hostWrite, pend_setVset]

theorem pend_execRegulatorStep (n : RegionNo) (s : State) :
    ∀ st, execRegulatorStep n s = .next st → st.pending = s.pending := by
  intro st ht; unfold execRegulatorStep at ht; grind [pend_setRegion]

@[simp] theorem pend_pairRecord (a : Nat) (b : Nat) (event : Nat) (reset : Nat) (s : State) :
    (pairRecord a b event reset s).pending = s.pending := by
  unfold pairRecord; grind [pend_errRecord]

@[simp] theorem pend_recomputeLouvre (n : Nat) (nbr : Nat) (s : State) :
    (recomputeLouvre n nbr s).pending = s.pending := by
  unfold recomputeLouvre; grind [pend_setF, pend_trace]

@[simp] theorem pend_recomputeStall (a : Nat) (b : Nat) (s : State) :
    (recomputeStall a b s).pending = s.pending := by
  unfold recomputeStall; grind [pend_setF]

@[simp] theorem pend_endStall (a : Nat) (b : Nat) (s : State) :
    (endStall a b s).pending = s.pending := by
  unfold endStall; grind [pend_setHinge, pend_trace, pend_recomputeStall]

@[simp] theorem pend_monBits (a : Nat) (b : Nat) (soft : Nat) (s : State) :
    (monBits a b soft s).pending = s.pending := by
  unfold monBits; grind [pend_setF]

@[simp] theorem pend_softActions (a : Nat) (b : Nat) (new : Nat) (s : State) :
    (softActions a b new s).pending = s.pending := by
  unfold softActions; grind [pend_forEach, pend_pairRecord, pend_monBits]

@[simp] theorem pend_hardActions (a : Nat) (b : Nat) (hard : Nat) (s : State) :
    (hardActions a b hard s).pending = s.pending := by
  unfold hardActions; grind [pend_setF, pend_forEach, pend_setHinge, pend_trace, pend_pairRecord, pend_recomputeStall]

@[simp] theorem pend_checkPair (a : Nat) (b : Nat) (s : State) :
    (checkPair a b s).pending = s.pending := by
  unfold checkPair; grind [pend_setHinge, pend_recomputeLouvre, pend_endStall, pend_softActions, pend_hardActions]

theorem pend_execMonitorMeasure (n : RegionNo) (mv : Nat) (tq : Int) (rate : Nat) (speed : Nat) (s : State) :
    ∀ st, execMonitorMeasure n mv tq rate speed s = .next st → st.pending = s.pending := by
  intro st ht; unfold execMonitorMeasure at ht; grind [pend_setF, pend_forEach, pend_setRegion, pend_enterFatal, pend_checkPair]

theorem pend_execLouvreRelease (n : RegionNo) (s : State) :
    ∀ st, execLouvreRelease n s = .next st → st.pending = s.pending := by
  intro st ht; unfold execLouvreRelease at ht; grind [pend_forEach, pend_setHinge, pend_recomputeLouvre]

@[simp] theorem pend_peepTransfer (a : Nat) (b : Nat) (s : State) :
    (peepTransfer a b s).pending = s.pending := by
  unfold peepTransfer; grind [pend_peep]

@[simp] theorem pend_setHeld (a : Nat) (b : Nat) (l : List Transfer) (s : State) :
    (setHeld a b l s).pending = s.pending := by
  unfold setHeld; grind [pend_setHinge]

@[simp] theorem pend_holdTransfer (a : Nat) (b : Nat) (t : Transfer) (s : State) :
    (holdTransfer a b t s).pending = s.pending := by
  unfold holdTransfer; grind [pend_setHeld]

@[simp] theorem pend_transferArrives (a : Nat) (b : Nat) (t : Transfer) (s : State) :
    (transferArrives a b t s).pending = s.pending := by
  unfold transferArrives; grind [pend_setHinge, pend_holdTransfer]

@[simp] theorem pend_acceptOffer (a : Nat) (b : Nat) (owner : Option Nat) (offered : Option Offer) (s : State) :
    (acceptOffer a b owner offered s).pending = s.pending := by
  unfold acceptOffer; grind [pend_holdTransfer]

theorem pend_execHingeTransfer (a : HingeEnd) (b : HingeEnd) (owner : Option Nat) (offered : Option Offer) (receiverReady : Bool) (s : State) :
    ∀ st, execHingeTransfer a b owner offered receiverReady s = .next st → st.pending = s.pending := by
  intro st ht; unfold execHingeTransfer at ht; grind [pend_peepTransfer, pend_setHeld, pend_transferArrives, pend_acceptOffer]

end Sys2Proof.Machine
end

