-- ==== Sys2Proof/Laws/PendMemUnits.lean ====
section
/-! SUPPORT. No operation of Machine/MemUnits.lean touches the queue of waiting commands. -/

namespace Sys2Proof.Machine

set_option Elab.async false

@[simp] theorem pend_setMuAux (u : Nat) (f : MuAux → MuAux) (s : State) :
    (setMuAux u f s).pending = s.pending := by
  unfold setMuAux; grind []

@[simp] theorem pend_showUsed (u : Nat) (s : State) :
    (showUsed u s).pending = s.pending := by
  unfold showUsed; grind [pend_setF]

@[simp] theorem pend_startRemap (u : Nat) (r : RowAddr) (cause : Nat) (s : State) :
    (startRemap u r cause s).pending = s.pending := by
  unfold startRemap; grind [pend_setF, pend_errRecord, pend_setMuAux]

@[simp] theorem pend_countRow (u : Nat) (r : RowAddr) (s : State) :
    (countRow u r s).2.pending = s.pending := by
  unfold countRow; grind [pend_setMuAux]

@[simp] theorem pend_correctable (u : Nat) (r : RowAddr) (s : State) :
    (correctable u r s).pending = s.pending := by
  unfold correctable; grind [pend_satF, pend_peep, pend_startRemap, pend_countRow]

@[simp] theorem pend_uncorrectable (u : Nat) (slot : Nat) (off : Nat) (r : RowAddr) (s : State) :
    (uncorrectable u slot off r s).pending = s.pending := by
  unfold uncorrectable; grind [pend_setF, pend_satF, pend_trace, pend_errRecord, pend_poisonLine, pend_markPoison, pend_startRemap]

@[simp] theorem pend_codewordRead (u : Nat) (slot : Nat) (off : Nat) (ecc : Ecc) (r : RowAddr) (s : State) :
    (codewordRead u slot off ecc r s).pending = s.pending := by
  unfold codewordRead; grind [pend_memWrite, pend_correctable, pend_uncorrectable]

@[simp] theorem pend_serveReq (u : Nat) (q : MemReq) (s : State) :
    (serveReq u q s).pending = s.pending := by
  unfold serveReq; grind [pend_peep, pend_memWrite, pend_healRange, pend_codewordRead]

@[simp] theorem pend_serveNext (u : Nat) (c : Nat) (s : State) :
    (serveNext u c s).pending = s.pending := by
  unfold serveNext; grind [pend_setMuAux, pend_serveReq]

@[simp] theorem pend_serveAll (u : Nat) (s : State) :
    (serveAll u s).pending = s.pending := by
  unfold serveAll; grind [pend_forEach, pend_setMuAux, pend_serveReq]

@[simp] theorem pend_serveGrant (i : Nat) (s : State) :
    (serveGrant i s).pending = s.pending := by
  unfold serveGrant; grind [pend_serveNext]

theorem pend_execMemoryAccess (u : MemUnit) (slot : Nat) (off : Nat) (write : Option (List Byte)) (ecc : Ecc) (row : RowAddr) (s : State) :
    ∀ st, execMemoryAccess u slot off write ecc row s = .next st → st.pending = s.pending := by
  intro st ht; unfold execMemoryAccess at ht; grind [pend_setMuAux, pend_serveNext]

theorem pend_execScrubRead (u : MemUnit) (slot : Nat) (off : Nat) (ecc : Ecc) (row : RowAddr) (s : State) :
    ∀ st, execScrubRead u slot off ecc row s = .next st → st.pending = s.pending := by
  intro st ht; unfold execScrubRead at ht; grind [pend_codewordRead]

@[simp] theorem pend_enterRemap (u : Nat) (r : RowAddr) (cause : Nat) (pprfail : Bool) (s : State) :
    (enterRemap u r cause pprfail s).pending = s.pending := by
  unfold enterRemap; grind [pend_setMuAux]

theorem pend_execRepairLogCommitted (u : MemUnit) (row : RowAddr) (r : RepairCommit) (s : State) :
    ∀ st, execRepairLogCommitted u row r s = .next st → st.pending = s.pending := by
  intro st ht; unfold execRepairLogCommitted at ht; grind [pend_setF, pend_forEach, pend_trace, pend_errRecord, pend_setMuAux, pend_showUsed, pend_codewordRead, pend_serveNext, pend_enterRemap]

theorem pend_execMuTempReading (u : MemUnit) (t : Int) (s : State) :
    ∀ st, execMuTempReading u t s = .next st → st.pending = s.pending := by
  intro st ht; unfold execMuTempReading at ht; grind [pend_setF, pend_errRecord]

@[simp] theorem pend_muStart (u : Nat) (zeroing : Bool) (s : State) :
    (muStart u zeroing s).pending = s.pending := by
  unfold muStart; grind [pend_setF, pend_setMuAux, pend_showUsed]

@[simp] theorem pend_loadRemaps (u : Nat) (s : State) :
    (loadRemaps u s).pending = s.pending := by
  unfold loadRemaps; grind [pend_forEach, pend_showUsed, pend_enterRemap]

@[simp] theorem pend_repairRows (u : Nat) (repairs : List MuRepair) (s : State) :
    (repairRows u repairs s).pending = s.pending := by
  unfold repairRows; grind [pend_setF]

@[simp] theorem pend_muAbsent (u : Nat) (tstate : Nat) (cause : Nat) (s : State) :
    (muAbsent u tstate cause s).pending = s.pending := by
  unfold muAbsent; grind [pend_setF, pend_setMuAux]

@[simp] theorem pend_muFail (u : Nat) (cause : Nat) (s : State) :
    (muFail u cause s).pending = s.pending := by
  unfold muFail; grind [pend_errRecord, pend_muAbsent]

@[simp] theorem pend_takeIdentity (u : Nat) (id : Nat) (s : State) :
    (takeIdentity u id s).pending = s.pending := by
  unfold takeIdentity; grind []

@[simp] theorem pend_muTrainedAt (u : Nat) (rate : Nat) (lanes : Nat) (gib : Nat) (id : Nat) (s : State) :
    (muTrainedAt u rate lanes gib id s).pending = s.pending := by
  unfold muTrainedAt; grind [pend_setF, pend_setMuAux, pend_loadRemaps, pend_takeIdentity]

@[simp] theorem pend_muRepaired (u : Nat) (repairs : List MuRepair) (s : State) :
    (muRepaired u repairs s).pending = s.pending := by
  unfold muRepaired; grind [pend_setF, pend_showBootZero, pend_loadRemaps, pend_repairRows]

@[simp] theorem pend_muTrained (u : Nat) (r : MuTraining) (repairs : List MuRepair) (s : State) :
    (muTrained u r repairs s).pending = s.pending := by
  unfold muTrained; grind [pend_setMuAux, pend_muAbsent, pend_muFail, pend_muTrainedAt, pend_muRepaired]

@[simp] theorem pend_muZeroed (u : Nat) (s : State) :
    (muZeroed u s).pending = s.pending := by
  unfold muZeroed; grind [pend_setF, pend_setMuAux, pend_showBootZero]

end Sys2Proof.Machine
end

