-- ==== Sys2Proof/Laws/PendArbiters.lean ====
section
/-! SUPPORT. No operation of Machine/Arbiters.lean touches the queue of waiting commands. -/

namespace Sys2Proof.Machine

set_option Elab.async false

@[simp] theorem pend_setCnt (i : Nat) (r : Nat) (v : Nat) (s : State) :
    (setCnt i r v s).pending = s.pending := by
  unfold setCnt; grind [pend_setF]

@[simp] theorem pend_raise (i : Nat) (asking : Nat) (s : State) :
    (raise i asking s).pending = s.pending := by
  unfold raise; grind [pend_setF]

@[simp] theorem pend_grant (i : Nat) (w : Nat) (s : State) :
    (grant i w s).pending = s.pending := by
  unfold grant; grind [pend_setF]

@[simp] theorem pend_decideArb (i : Nat) (s : State) :
    (decideArb i s).pending = s.pending := by
  unfold decideArb; grind [pend_addF, pend_forEach, pend_peep, pend_trace, pend_setCnt, pend_grant]

theorem pend_execArbDecision (inst : Nat) (asking : Nat) (s : State) :
    ∀ st, execArbDecision inst asking s = .next st → st.pending = s.pending := by
  intro st ht; unfold execArbDecision at ht; grind [pend_serveGrant, pend_raise, pend_grant, pend_decideArb]

theorem pend_execArbRelease (inst : Nat) (asking : Nat) (s : State) :
    ∀ st, execArbRelease inst asking s = .next st → st.pending = s.pending := by
  intro st ht; unfold execArbRelease at ht; grind [pend_setF, pend_raise]

@[simp] theorem pend_mapWrite (inst : Nat) (value : Nat) (s : State) :
    (mapWrite inst value s).pending = s.pending := by
  unfold mapWrite; grind [pend_setF, pend_dropHeld, pend_regAccessError]

theorem pend_execInputmapWrite (inst : Nat) (value : Nat) (s : State) :
    ∀ st, execInputmapWrite inst value s = .next st → st.pending = s.pending := by
  intro st ht; unfold execInputmapWrite at ht; grind [pend_hostWrite, pend_mapWrite]

end Sys2Proof.Machine
end

