-- ==== Sys2Proof/Laws/PendCart.lean ====
section
/-! SUPPORT. No operation of Machine/Cart.lean touches the queue of waiting commands. -/

namespace Sys2Proof.Machine

set_option Elab.async false

@[simp] theorem pend_wipeRange (lo : Nat) (hi : Nat) (s : State) :
    (wipeRange lo hi s).pending = s.pending := by
  unfold wipeRange; grind []

@[simp] theorem pend_drawXts (s : State) :
    (drawXts s).2.pending = s.pending := by
  unfold drawXts; grind [pend_drawRandom]

@[simp] theorem pend_eraseSpill (p : Nat) (n : Nat) (s : State) :
    (eraseSpill p n s).pending = s.pending := by
  unfold eraseSpill; grind [pend_setF, pend_setCart, pend_portRecord, pend_wipeRange, pend_drawXts]

@[simp] theorem pend_replaceSpill (p : Nat) (s : State) :
    (replaceSpill p s).pending = s.pending := by
  unfold replaceSpill; grind [pend_eraseSpill]

@[simp] theorem pend_startCommit (p : Nat) (n : Nat) (s : State) :
    (startCommit p n s).pending = s.pending := by
  unfold startCommit; grind [pend_setCart, pend_writeCounter]

@[simp] theorem pend_programOrHold (p : Nat) (n : Nat) (s : State) :
    (programOrHold p n s).pending = s.pending := by
  unfold programOrHold; grind [pend_setCart, pend_programBytes, pend_startCommit]

theorem pend_execWearCounterCommit (p : PortNo) (bytes : Nat) (s : State) :
    ∀ st, execWearCounterCommit p bytes s = .next st → st.pending = s.pending := by
  intro st ht; unfold execWearCounterCommit at ht; grind [pend_programOrHold]

@[simp] theorem pend_flashUncorrectable (p : Nat) (bad : Nat) (s : State) :
    (flashUncorrectable p bad s).pending = s.pending := by
  unfold flashUncorrectable; grind [pend_satF, pend_portRecord]

@[simp] theorem pend_flashUnitBad (p : Nat) (f : FlashUnit) (s : State) :
    (flashUnitBad p f s).pending = s.pending := by
  unfold flashUnitBad; grind [pend_forEach, pend_poisonLine, pend_markPoison, pend_flashUncorrectable]

theorem pend_execFlashRelocation (p : PortNo) (r : Relocation) (s : State) :
    ∀ st, execFlashRelocation p r s = .next st → st.pending = s.pending := by
  intro st ht; unfold execFlashRelocation at ht; grind [pend_forEach, pend_programOrHold, pend_flashUnitBad, pend_peep]

theorem pend_execWearCounterAck (p : PortNo) (s : State) :
    ∀ st, execWearCounterAck p s = .next st → st.pending = s.pending := by
  intro st ht; unfold execWearCounterAck at ht; grind [pend_setCart, pend_setCommitted, pend_programOrHold]

@[simp] theorem pend_emptyPort (p : Nat) (s : State) :
    (emptyPort p s).pending = s.pending := by
  unfold emptyPort; grind [pend_setF, pend_forEach, pend_setCart]

@[simp] theorem pend_startInsertion (p : Nat) (s : State) :
    (startInsertion p s).pending = s.pending := by
  unfold startInsertion; grind [pend_setF, pend_setCart, pend_emptyPort]

@[simp] theorem pend_rejectCart (p : Nat) (reason : Nat) (s : State) :
    (rejectCart p reason s).pending = s.pending := by
  unfold rejectCart; grind [pend_setF, pend_portRecord, pend_emptyPort]

@[simp] theorem pend_surpriseRemoval (p : Nat) (s : State) :
    (surpriseRemoval p s).pending = s.pending := by
  unfold surpriseRemoval; grind [pend_portRecord]

theorem pend_execCartPresenceChange (p : PortNo) (present : Bool) (s : State) :
    ∀ st, execCartPresenceChange p present s = .next st → st.pending = s.pending := by
  intro st ht; unfold execCartPresenceChange at ht; grind [pend_setCart]

theorem pend_execCartPresenceDebounced (p : PortNo) (s : State) :
    ∀ st, execCartPresenceDebounced p s = .next st → st.pending = s.pending := by
  intro st ht; unfold execCartPresenceDebounced at ht; grind [pend_setCart, pend_replaceSpill, pend_emptyPort, pend_startInsertion, pend_surpriseRemoval]

@[simp] theorem pend_readElement (p : Nat) (s : State) :
    (readElement p s).pending = s.pending := by
  unfold readElement; grind [pend_emit]

theorem pend_execCartPgood (p : PortNo) (i : CartIdentity) (s : State) :
    ∀ st, execCartPgood p i s = .next st → st.pending = s.pending := by
  intro st ht; unfold execCartPgood at ht; grind [pend_setF, pend_setCart, pend_setCommitted, pend_rejectCart, pend_readElement]

theorem pend_execCartPgoodTimeout (p : PortNo) (s : State) :
    ∀ st, execCartPgoodTimeout p s = .next st → st.pending = s.pending := by
  intro st ht; unfold execCartPgoodTimeout at ht; grind [pend_rejectCart]

@[simp] theorem pend_initialisePort (p : Nat) (i : CartInit) (s : State) :
    (initialisePort p i s).pending = s.pending := by
  unfold initialisePort; grind [pend_setF, pend_forEach, pend_setCart, pend_rejectCart]

@[simp] theorem pend_readyPort (p : Nat) (s : State) :
    (readyPort p s).pending = s.pending := by
  unfold readyPort; grind [pend_setF]

theorem pend_execCartInitialised (p : PortNo) (i : CartInit) (s : State) :
    ∀ st, execCartInitialised p i s = .next st → st.pending = s.pending := by
  intro st ht; unfold execCartInitialised at ht; grind [pend_initialisePort, pend_readyPort]

@[simp] theorem pend_labelWrite (p : Nat) (s : State) :
    (labelWrite p s).pending = s.pending := by
  unfold labelWrite; grind [pend_drawFree, pend_programWhole]

@[simp] theorem pend_closePort (p : Nat) (s : State) :
    (closePort p s).pending = s.pending := by
  unfold closePort; grind [pend_setF, pend_setCommitted, pend_writeCounter, pend_emptyPort, pend_labelWrite]

@[simp] theorem pend_newPersistKey (p : Nat) (psize : Nat) (s : State) :
    (newPersistKey p psize s).pending = s.pending := by
  unfold newPersistKey; grind [pend_setF, pend_setCart, pend_wipeRange, pend_drawXts]

@[simp] theorem pend_rewriteLabel (p psize : Nat) (f : State → State) (s : State) (h_f : ∀ x0, (f x0).pending = x0.pending) :
    (rewriteLabel p psize f s).pending = s.pending := by
  have h1 := pend_labelWrite p s
  unfold rewriteLabel
  exact ite_keep (P := fun x : State => x.pending = s.pending) ((pend_setF _ _ _).trans h1)
    ((h_f _).trans ((pend_newPersistKey _ _ _).trans ((pend_setF _ _ _).trans h1)))

theorem pend_execFormat (p : PortNo) (s : State) :
    ∀ st, execFormat p s = .next st → st.pending = s.pending := by
  intro st ht; unfold execFormat at ht; grind [pend_setF, pend_hostWrite, pend_replaceSpill, pend_rewriteLabel]

theorem pend_execErasep (p : PortNo) (s : State) :
    ∀ st, execErasep p s = .next st → st.pending = s.pending := by
  intro st ht; unfold execErasep at ht; grind [pend_setF, pend_hostWrite, pend_rewriteLabel]

end Sys2Proof.Machine
end

