-- ==== Sys2Proof/Laws/PendKeyhole.lean ====
section
/-! SUPPORT. No operation of Machine/Keyhole.lean touches the queue of waiting commands. -/

namespace Sys2Proof.Machine

set_option Elab.async false

@[simp] theorem pend_setArray (f : Nat → Fld) (n : Nat) (bs : List Byte) (s : State) :
    (setArray f n bs s).pending = s.pending := by
  unfold setArray; grind [pend_setF, pend_forEach]

@[simp] theorem pend_showLifeCycle (s : State) :
    (showLifeCycle s).pending = s.pending := by
  unfold showLifeCycle; grind [pend_setF, pend_setArray]

@[simp] theorem pend_showFuses (s : State) :
    (showFuses s).pending = s.pending := by
  unfold showFuses; grind [pend_setF]

@[simp] theorem pend_keyRecord (sev : Nat) (detail : List Nat) (s : State) :
    (keyRecord sev detail s).pending = s.pending := by
  unfold keyRecord; grind [pend_errRecord]

@[simp] theorem pend_extend (r : Nat) (kind : Nat) (d : List Byte) (s : State) :
    (extend r kind d s).pending = s.pending := by
  unfold extend; grind [pend_setF, pend_satF, pend_setArray]

@[simp] theorem pend_clearMeasurement (s : State) :
    (clearMeasurement s).pending = s.pending := by
  unfold clearMeasurement; grind [pend_setF, pend_setArray]

@[simp] theorem pend_keyCommand (cmd : Nat) (f : State → State) (s : State) (h_f : ∀ x0, (f x0).pending = x0.pending) :
    (keyCommand cmd f s).pending = s.pending := by
  unfold keyCommand; grind [pend_setF, pend_hostWrite]

theorem pend_execNonce (s : State) :
    ∀ st, execNonce s = .next st → st.pending = s.pending := by
  intro st ht; unfold execNonce at ht; grind [pend_setF, pend_drawRandom, pend_setArray, pend_keyCommand]

theorem pend_execTransition (s : State) :
    ∀ st, execTransition s = .next st → st.pending = s.pending := by
  intro st ht; unfold execTransition at ht; grind [pend_setF, pend_showLifeCycle, pend_keyRecord, pend_keyCommand]

theorem pend_execCommitsvn (s : State) :
    ∀ st, execCommitsvn s = .next st → st.pending = s.pending := by
  intro st ht; unfold execCommitsvn at ht; grind [pend_setF, pend_showFuses, pend_keyCommand]

theorem pend_execRevoke (s : State) :
    ∀ st, execRevoke s = .next st → st.pending = s.pending := by
  intro st ht; unfold execRevoke at ht; grind [pend_setF, pend_showFuses, pend_keyCommand]

@[simp] theorem pend_rowValid (s : State) :
    (rowValid s).pending = s.pending := by
  unfold rowValid; grind [pend_showLifeCycle, pend_keyRecord]

@[simp] theorem pend_rowFailed (s : State) :
    (rowFailed s).pending = s.pending := by
  unfold rowFailed; grind [pend_setF]

theorem pend_execKeyholeIntegrityFailure (s : State) :
    ∀ st, execKeyholeIntegrityFailure s = .next st → st.pending = s.pending := by
  intro st ht; unfold execKeyholeIntegrityFailure at ht; grind [pend_enterFatal]

end Sys2Proof.Machine
end

