-- ==== Sys2Proof/Laws/PendFlags.lean ====
section
/-! SUPPORT. No operation of Machine/Flags.lean touches the queue of waiting commands. -/

namespace Sys2Proof.Machine

set_option Elab.async false

@[simp] theorem pend_orPart (id : Nat) (p : Nat) (status : Nat) (flags : Nat) (replay : Nat) (s : State) :
    (orPart id p status flags replay s).pending = s.pending := by
  unfold orPart; grind [pend_setPart]

@[simp] theorem pend_setSticky (fs : List (Nat × Fld)) (v : Nat) (s : State) :
    (setSticky fs v s).pending = s.pending := by
  unfold setSticky; grind [pend_setF, pend_forEach]

end Sys2Proof.Machine
end

