-- ==== Sys2Proof/Laws/PendOperands.lean ====
section
/-! SUPPORT. No operation of Machine/Operands.lean touches the queue of waiting commands. -/

namespace Sys2Proof.Machine

set_option Elab.async false

@[simp] theorem pend_upsertCopy (core : Nat) (owner : Nat) (h : Nat) (pane : Nat) (f : WorkCopy → WorkCopy) (s : State) :
    (upsertCopy core owner h pane f s).pending = s.pending := by
  unfold upsertCopy; grind []

@[simp] theorem pend_putSpan (core : Nat) (owner : Nat) (h : Nat) (pane : Nat) (off : Nat) (bs : List Byte) (s : State) :
    (putSpan core owner h pane off bs s).pending = s.pending := by
  unfold putSpan; grind [pend_upsertCopy]

@[simp] theorem pend_putTadj (core : Nat) (owner : Nat) (root : Tensor) (pane : Nat) (y : List Nat) (adj : Int) (s : State) :
    (putTadj core owner root pane y adj s).pending = s.pending := by
  unfold putTadj; grind [pend_upsertCopy]

@[simp] theorem pend_putPoison (core : Nat) (owner : Nat) (h : Nat) (pane : Nat) (s : State) :
    (putPoison core owner h pane s).pending = s.pending := by
  unfold putPoison; grind [pend_upsertCopy]

@[simp] theorem pend_putElem (core : Nat) (owner : Nat) (t : Tensor) (root : Tensor) (x : List Nat) (bits : Nat) (adj : Int) (poison : Bool) (s : State) :
    (putElem core owner t root x bits adj poison s).pending = s.pending := by
  unfold putElem; grind [pend_putSpan, pend_putTadj, pend_putPoison]

@[simp] theorem pend_putBlock (core : Nat) (owner : Nat) (root : Tensor) (first : List Nat) (scale : Nat) (elems : List (Nat × Int)) (poison : Bool) (s : State) :
    (putBlock core owner root first scale elems poison s).pending = s.pending := by
  unfold putBlock; grind [pend_forEach, pend_putSpan, pend_putTadj, pend_putPoison]

@[simp] theorem pend_offerEnc (core : Nat) (dest : Nat) (id : Nat) (part : Nat) (root : Tensor) (x : List Nat) (v : Num) (poison : Bool) (adj : Int) (s : State) :
    (offerEnc core dest id part root x v poison adj s).pending = s.pending := by
  unfold offerEnc; grind []

@[simp] theorem pend_putResult (core : Nat) (dest : Nat) (id : Nat) (part : Nat) (t : Tensor) (root : Tensor) (x : List Nat) (v : Num) (bits : Nat) (adj : Int) (poison : Bool) (s : State) :
    (putResult core dest id part t root x v bits adj poison s).pending = s.pending := by
  unfold putResult; grind [pend_putElem, pend_offerEnc]

@[simp] theorem pend_encDrop (b : EncBlk) (s : State) :
    (encDrop b s).pending = s.pending := by
  unfold encDrop; grind []

end Sys2Proof.Machine
end

