-- ==== Sys2Proof/Laws/PendMatrix.lean ====
section
/-! SUPPORT. No operation of Machine/Matrix.lean touches the queue of waiting commands. -/

namespace Sys2Proof.Machine

set_option Elab.async false

@[simp] theorem pend_chargeThen (e : InFlight) (check : Nat) (o : Tensor) (k : State → State) (s : State) (h_k : ∀ x0, (k x0).pending = x0.pending) :
    (chargeThen e check o k s).pending = s.pending := by
  unfold chargeThen; grind [pend_failCheck, pend_allocForWrite]

@[simp] theorem pend_beginMma (e : InFlight) (s : State) :
    (beginMma e s).pending = s.pending := by
  unfold beginMma; grind [pend_setFlight, pend_finish, pend_validated, pend_launch, pend_chargeThen]

theorem pend_execMma (q : QueueNo) (d : Desc) (s : State) :
    ∀ st, execMma q d s = .next st → st.pending = s.pending := by
  intro st ht; unfold execMma at ht; grind [pend_takeRing, pend_beginMma]

@[simp] theorem pend_mxCount (n : Nat) (f : Fld) (k : Nat) (s : State) :
    (mxCount n f k s).pending = s.pending := by
  unfold mxCount; grind [pend_addF]

@[simp] theorem pend_recordLast (n : Nat) (e : InFlight) (r : MxRun) (mm : Meas) (s : State) :
    (recordLast n e r mm s).pending = s.pending := by
  unfold recordLast; grind [pend_setF]

@[simp] theorem pend_setMx (n : Nat) (r : Option MxRun) (s : State) :
    (setMx n r s).pending = s.pending := by
  unfold setMx; grind []

@[simp] theorem pend_replay (n : Nat) (e : InFlight) (r : MxRun) (mm : Meas) (s : State) :
    (replay n e r mm s).pending = s.pending := by
  unfold replay; grind [pend_setF, pend_peep, pend_trace, pend_mxCount, pend_setMx]

theorem pend_execMmaKGroup (n : CoreNo) (s : State) :
    ∀ st, execMmaKGroup n s = .next st → st.pending = s.pending := by
  intro st ht; unfold execMmaKGroup at ht; grind [pend_peep, pend_mxCount, pend_recordLast, pend_setMx, pend_replay]

@[simp] theorem pend_nextTile (n : Nat) (e : InFlight) (r : MxRun) (s : State) :
    (nextTile n e r s).pending = s.pending := by
  unfold nextTile; grind [pend_setF, pend_setMx]

@[simp] theorem pend_checkEnd (id : Nat) (p : Nat) (s : State) :
    (checkEnd id p s).pending = s.pending := by
  unfold checkEnd; grind [pend_setPart, pend_setSticky]

@[simp] theorem pend_transomStall (n : Nat) (s : State) :
    (transomStall n s).pending = s.pending := by
  unfold transomStall; grind [pend_setF]

@[simp] theorem pend_transomFree (n : Nat) (s : State) :
    (transomFree n s).pending = s.pending := by
  unfold transomFree; grind [pend_setF]

@[simp] theorem pend_finishTile (n : Nat) (e : InFlight) (r : MxRun) (zs : List ((Nat × Nat) × Num × Nat)) (mm : Meas) (s : State) :
    (finishTile n e r zs mm s).pending = s.pending := by
  unfold finishTile; dsimp only; (repeat' split) <;> simp [pend_setF, pend_satF, pend_forEach, pend_peep, pend_orPart, pend_setSticky, pend_putResult, pend_mxCount, pend_recordLast, pend_setMx, pend_nextTile, pend_checkEnd]

theorem pend_execMmaPassEnd (n : CoreNo) (s : State) :
    ∀ st, execMmaPassEnd n s = .next st → st.pending = s.pending := by
  intro st ht; unfold execMmaPassEnd at ht; grind [pend_recordLast, pend_replay, pend_finishTile]

@[simp] theorem pend_showTransom (n : Nat) (next : Nat) (s : State) :
    (showTransom n next s).pending = s.pending := by
  unfold showTransom; grind [pend_setF]

theorem pend_execTransomWrite (n : CoreNo) (s : State) :
    ∀ st, execTransomWrite n s = .next st → st.pending = s.pending := by
  intro st ht; unfold execTransomWrite at ht; grind [pend_setF, pend_nextTile, pend_checkEnd, pend_transomStall, pend_showTransom]

theorem pend_execMxctlCntclr (n : CoreNo) (s : State) :
    ∀ st, execMxctlCntclr n s = .next st → st.pending = s.pending := by
  intro st ht; unfold execMxctlCntclr at ht; grind [pend_setF, pend_hostWrite]

end Sys2Proof.Machine
end

