-- ==== Sys2Proof/Laws/PendVector.lean ====
section
/-! SUPPORT. No operation of Machine/Vector.lean touches the queue of waiting commands. -/

namespace Sys2Proof.Machine

set_option Elab.async false

@[simp] theorem pend_pairVop (e : InFlight) (s s' : State) (h : s'.pending = s.pending) : (pairVop e s s').pending = s.pending := by
  unfold pairVop; grind [pend_finish, pend_launch, pend_setFlight, pend_failCheck, pend_breakPair]

@[simp] theorem pend_beginVop (e : InFlight) (s : State) :
    (beginVop e s).pending = s.pending := by
  unfold beginVop; grind [pend_breakPair, pend_failCheck, pend_launch, pend_allocForWrite, pend_chargeThen, pend_pairVop]

@[simp] theorem pend_setVx (n : Nat) (r : Option VxRun) (s : State) :
    (setVx n r s).pending = s.pending := by
  unfold setVx; grind []

@[simp] theorem pend_vxCount (n : Nat) (f : Fld) (event : Nat) (k : Nat) (s : State) :
    (vxCount n f event k s).pending = s.pending := by
  unfold vxCount; grind [pend_addF, pend_peep]

@[simp] theorem pend_writeD (e : InFlight) (p : Nat) (x : List Nat) (v : Num) (bits : Nat) (poison : Bool) (adj : Int) (s : State) :
    (writeD e p x v bits poison adj s).pending = s.pending := by
  unfold writeD; grind [pend_putResult, pend_vxCount]

@[simp] theorem pend_keepD (e : InFlight) (p : Nat) (x : List Nat) (adj : Int) (s : State) :
    (keepD e p x adj s).pending = s.pending := by
  unfold keepD; grind [pend_putTadj]

@[simp] theorem pend_writeFill (e : InFlight) (p : Nat) (x : List Nat) (adj : Int) (s : State) :
    (writeFill e p x adj s).pending = s.pending := by
  unfold writeFill; grind [pend_vxCount, pend_writeD, pend_keepD]

@[simp] theorem pend_stepElem (e : InFlight) (p : Nat) (x : List Nat) (xv : Num × Nat × Bool) (xbits : Nat) (adj : Int) (s : State) :
    (stepElem e p x xv xbits adj s).pending = s.pending := by
  unfold stepElem; grind [pend_orPart, pend_vxCount, pend_writeD, pend_writeFill]

@[simp] theorem pend_countTrans (e : InFlight) (p : Nat) (nt : Nat) (present : List Nat) (partOf : Nat → Nat) (s : State) :
    (countTrans e p nt present partOf s).pending = s.pending := by
  unfold countTrans; grind [pend_forEach, pend_vxCount]

@[simp] theorem pend_stepLine (e : InFlight) (p : Nat) (base : List Nat) (len : Nat) (partOf : Nat → Nat)
    (xAt : Nat → List Nat → Num × Nat × Bool) (adj : Int) (s : State) : (stepLine e p base len partOf xAt adj s).pending = s.pending := by
  have h1 : ∀ {α β : Type} (l : List α) (l' : List β) (f : α → Nat) (v : α → Nat) (g : β → Nat) (q : Prop) [Decidable q] (n : Nat) (pr : List Nat)
      (po : Nat → Nat), (countTrans e p n pr po (if q then orPart e.id p stPoisonRead 0 0
        (forEach l' (fun q s => orPart e.id (g q) stPoisonRead 0 0 s) (forEach l (fun x s => orPart e.id (f x) 0 (v x) 0 s) s))
        else (forEach l' (fun q s => orPart e.id (g q) stPoisonRead 0 0 s) (forEach l (fun x s => orPart e.id (f x) 0 (v x) 0 s) s)))).pending = s.pending := by
    intro α β l l' f v g q _ n pr po
    rw [pend_countTrans]
    have h2 := (pend_forEach l' (fun q s => orPart e.id (g q) stPoisonRead 0 0 s) (forEach l (fun x s => orPart e.id (f x) 0 (v x) 0 s) s)
      (fun _ _ => pend_orPart _ _ _ _ _ _)).trans (pend_forEach l (fun x s => orPart e.id (f x) 0 (v x) 0 s) s (fun _ _ => pend_orPart _ _ _ _ _ _))
    split
    · rw [pend_orPart]; exact h2
    · exact h2
  unfold stepLine; dsimp only
  refine ite_keep (P := fun x : State => x.pending = s.pending) ?_ ?_
  · rw [pend_orPart, pend_writeD]; exact h1 _ _ _ _ _ _ _ _ _
  · refine (pend_forEach _ _ _ (fun r s => ?_)).trans (h1 _ _ _ _ _ _ _ _ _)
    split
    · exact pend_writeFill _ _ _ _ _
    · rw [pend_orPart, pend_writeD]

@[simp] theorem pend_fillLost (e : InFlight) (s : State) :
    (fillLost e s).pending = s.pending := by
  unfold fillLost; grind []

@[simp] theorem pend_leaveVx (n : Nat) (r : VxRun) (s : State) :
    (leaveVx n r s).pending = s.pending := by
  unfold leaveVx; grind [pend_setF, pend_checkEnd, pend_setVx, pend_fillLost]

@[simp] theorem pend_completeSpread (e : InFlight) (p : Nat) (s : State) :
    (completeSpread e p s).pending = s.pending := by
  unfold completeSpread; grind [pend_forEach, pend_stepLine, pend_leaveVx]

theorem pend_execVectorStep (n : CoreNo) (s : State) :
    ∀ st, execVectorStep n s = .next st → st.pending = s.pending := by
  intro st ht; unfold execVectorStep at ht; grind [pend_setF, pend_forEach, pend_peep, pend_setVx, pend_stepElem, pend_stepLine, pend_leaveVx, pend_completeSpread]

theorem pend_execTransomConsume (n : CoreNo) (s : State) :
    ∀ st, execTransomConsume n s = .next st → st.pending = s.pending := by
  intro st ht; unfold execTransomConsume at ht; simp only [Host.Outcome.next.injEq] at ht; subst ht; (repeat' split) <;> simp [pend_setF, pend_forEach, pend_transomFree, pend_showTransom, pend_setVx, pend_vxCount, pend_stepElem, pend_stepLine, pend_leaveVx]

theorem pend_execOperandStaged (n : CoreNo) (s : State) :
    ∀ st, execOperandStaged n s = .next st → st.pending = s.pending := by
  intro st ht; unfold execOperandStaged at ht; grind [pend_setF]

theorem pend_execBlockEncode (n : CoreNo) (s : State) :
    ∀ st, execBlockEncode n s = .next st → st.pending = s.pending := by
  intro st ht; unfold execBlockEncode at ht; grind [pend_orPart, pend_setSticky, pend_putBlock, pend_encDrop, pend_checkEnd]

theorem pend_execSeamContribution (n : CoreNo) (s : State) :
    ∀ st, execSeamContribution n s = .next st → st.pending = s.pending := by
  intro st ht; unfold execSeamContribution at ht; grind [pend_encDrop, pend_checkEnd, pend_vxCount, pend_leaveVx]

theorem pend_execVxctlCntclr (n : CoreNo) (s : State) :
    ∀ st, execVxctlCntclr n s = .next st → st.pending = s.pending := by
  intro st ht; unfold execVxctlCntclr at ht; grind [pend_setF, pend_hostWrite]

theorem pend_execVopCopy (q : QueueNo) (d : Desc) (s : State) :
    ∀ st, execVopCopy q d s = .next st → st.pending = s.pending := by
  intro st ht; unfold execVopCopy at ht; grind [pend_takeRing, pend_beginVop]

theorem pend_execVopNeg (q : QueueNo) (d : Desc) (s : State) :
    ∀ st, execVopNeg q d s = .next st → st.pending = s.pending := by
  intro st ht; unfold execVopNeg at ht; grind [pend_takeRing, pend_beginVop]

theorem pend_execVopAbs (q : QueueNo) (d : Desc) (s : State) :
    ∀ st, execVopAbs q d s = .next st → st.pending = s.pending := by
  intro st ht; unfold execVopAbs at ht; grind [pend_takeRing, pend_beginVop]

theorem pend_execVopCopysign (q : QueueNo) (d : Desc) (s : State) :
    ∀ st, execVopCopysign q d s = .next st → st.pending = s.pending := by
  intro st ht; unfold execVopCopysign at ht; grind [pend_takeRing, pend_beginVop]

theorem pend_execVopCvt (q : QueueNo) (d : Desc) (s : State) :
    ∀ st, execVopCvt q d s = .next st → st.pending = s.pending := by
  intro st ht; unfold execVopCvt at ht; grind [pend_takeRing, pend_beginVop]

theorem pend_execVopAdd (q : QueueNo) (d : Desc) (s : State) :
    ∀ st, execVopAdd q d s = .next st → st.pending = s.pending := by
  intro st ht; unfold execVopAdd at ht; grind [pend_takeRing, pend_beginVop]

theorem pend_execVopSub (q : QueueNo) (d : Desc) (s : State) :
    ∀ st, execVopSub q d s = .next st → st.pending = s.pending := by
  intro st ht; unfold execVopSub at ht; grind [pend_takeRing, pend_beginVop]

theorem pend_execVopMul (q : QueueNo) (d : Desc) (s : State) :
    ∀ st, execVopMul q d s = .next st → st.pending = s.pending := by
  intro st ht; unfold execVopMul at ht; grind [pend_takeRing, pend_beginVop]

theorem pend_execVopFma (q : QueueNo) (d : Desc) (s : State) :
    ∀ st, execVopFma q d s = .next st → st.pending = s.pending := by
  intro st ht; unfold execVopFma at ht; grind [pend_takeRing, pend_beginVop]

theorem pend_execVopDiv (q : QueueNo) (d : Desc) (s : State) :
    ∀ st, execVopDiv q d s = .next st → st.pending = s.pending := by
  intro st ht; unfold execVopDiv at ht; grind [pend_takeRing, pend_beginVop]

theorem pend_execVopSqrt (q : QueueNo) (d : Desc) (s : State) :
    ∀ st, execVopSqrt q d s = .next st → st.pending = s.pending := by
  intro st ht; unfold execVopSqrt at ht; grind [pend_takeRing, pend_beginVop]

theorem pend_execVopMin (q : QueueNo) (d : Desc) (s : State) :
    ∀ st, execVopMin q d s = .next st → st.pending = s.pending := by
  intro st ht; unfold execVopMin at ht; grind [pend_takeRing, pend_beginVop]

theorem pend_execVopMax (q : QueueNo) (d : Desc) (s : State) :
    ∀ st, execVopMax q d s = .next st → st.pending = s.pending := by
  intro st ht; unfold execVopMax at ht; grind [pend_takeRing, pend_beginVop]

theorem pend_execVopAffine (q : QueueNo) (d : Desc) (s : State) :
    ∀ st, execVopAffine q d s = .next st → st.pending = s.pending := by
  intro st ht; unfold execVopAffine at ht; grind [pend_takeRing, pend_beginVop]

theorem pend_execVopRelu (q : QueueNo) (d : Desc) (s : State) :
    ∀ st, execVopRelu q d s = .next st → st.pending = s.pending := by
  intro st ht; unfold execVopRelu at ht; grind [pend_takeRing, pend_beginVop]

theorem pend_execVopExp (q : QueueNo) (d : Desc) (s : State) :
    ∀ st, execVopExp q d s = .next st → st.pending = s.pending := by
  intro st ht; unfold execVopExp at ht; grind [pend_takeRing, pend_beginVop]

theorem pend_execVopExp2 (q : QueueNo) (d : Desc) (s : State) :
    ∀ st, execVopExp2 q d s = .next st → st.pending = s.pending := by
  intro st ht; unfold execVopExp2 at ht; grind [pend_takeRing, pend_beginVop]

theorem pend_execVopLog (q : QueueNo) (d : Desc) (s : State) :
    ∀ st, execVopLog q d s = .next st → st.pending = s.pending := by
  intro st ht; unfold execVopLog at ht; grind [pend_takeRing, pend_beginVop]

theorem pend_execVopLog2 (q : QueueNo) (d : Desc) (s : State) :
    ∀ st, execVopLog2 q d s = .next st → st.pending = s.pending := by
  intro st ht; unfold execVopLog2 at ht; grind [pend_takeRing, pend_beginVop]

theorem pend_execVopRcp (q : QueueNo) (d : Desc) (s : State) :
    ∀ st, execVopRcp q d s = .next st → st.pending = s.pending := by
  intro st ht; unfold execVopRcp at ht; grind [pend_takeRing, pend_beginVop]

theorem pend_execVopRsqrt (q : QueueNo) (d : Desc) (s : State) :
    ∀ st, execVopRsqrt q d s = .next st → st.pending = s.pending := by
  intro st ht; unfold execVopRsqrt at ht; grind [pend_takeRing, pend_beginVop]

theorem pend_execVopSin (q : QueueNo) (d : Desc) (s : State) :
    ∀ st, execVopSin q d s = .next st → st.pending = s.pending := by
  intro st ht; unfold execVopSin at ht; grind [pend_takeRing, pend_beginVop]

theorem pend_execVopCos (q : QueueNo) (d : Desc) (s : State) :
    ∀ st, execVopCos q d s = .next st → st.pending = s.pending := by
  intro st ht; unfold execVopCos at ht; grind [pend_takeRing, pend_beginVop]

theorem pend_execVopTanh (q : QueueNo) (d : Desc) (s : State) :
    ∀ st, execVopTanh q d s = .next st → st.pending = s.pending := by
  intro st ht; unfold execVopTanh at ht; grind [pend_takeRing, pend_beginVop]

theorem pend_execVopSigmoid (q : QueueNo) (d : Desc) (s : State) :
    ∀ st, execVopSigmoid q d s = .next st → st.pending = s.pending := by
  intro st ht; unfold execVopSigmoid at ht; grind [pend_takeRing, pend_beginVop]

theorem pend_execVopErf (q : QueueNo) (d : Desc) (s : State) :
    ∀ st, execVopErf q d s = .next st → st.pending = s.pending := by
  intro st ht; unfold execVopErf at ht; grind [pend_takeRing, pend_beginVop]

theorem pend_execVopGelu (q : QueueNo) (d : Desc) (s : State) :
    ∀ st, execVopGelu q d s = .next st → st.pending = s.pending := by
  intro st ht; unfold execVopGelu at ht; grind [pend_takeRing, pend_beginVop]

theorem pend_execVopSilu (q : QueueNo) (d : Desc) (s : State) :
    ∀ st, execVopSilu q d s = .next st → st.pending = s.pending := by
  intro st ht; unfold execVopSilu at ht; grind [pend_takeRing, pend_beginVop]

theorem pend_execVopRsum (q : QueueNo) (d : Desc) (s : State) :
    ∀ st, execVopRsum q d s = .next st → st.pending = s.pending := by
  intro st ht; unfold execVopRsum at ht; grind [pend_takeRing, pend_beginVop]

theorem pend_execVopRsumsq (q : QueueNo) (d : Desc) (s : State) :
    ∀ st, execVopRsumsq q d s = .next st → st.pending = s.pending := by
  intro st ht; unfold execVopRsumsq at ht; grind [pend_takeRing, pend_beginVop]

theorem pend_execVopRmax (q : QueueNo) (d : Desc) (s : State) :
    ∀ st, execVopRmax q d s = .next st → st.pending = s.pending := by
  intro st ht; unfold execVopRmax at ht; grind [pend_takeRing, pend_beginVop]

theorem pend_execVopRmin (q : QueueNo) (d : Desc) (s : State) :
    ∀ st, execVopRmin q d s = .next st → st.pending = s.pending := by
  intro st ht; unfold execVopRmin at ht; grind [pend_takeRing, pend_beginVop]

theorem pend_execVopRamax (q : QueueNo) (d : Desc) (s : State) :
    ∀ st, execVopRamax q d s = .next st → st.pending = s.pending := by
  intro st ht; unfold execVopRamax at ht; grind [pend_takeRing, pend_beginVop]

theorem pend_execVopSoftmax (q : QueueNo) (d : Desc) (s : State) :
    ∀ st, execVopSoftmax q d s = .next st → st.pending = s.pending := by
  intro st ht; unfold execVopSoftmax at ht; grind [pend_takeRing, pend_beginVop]

theorem pend_execVopLayernorm (q : QueueNo) (d : Desc) (s : State) :
    ∀ st, execVopLayernorm q d s = .next st → st.pending = s.pending := by
  intro st ht; unfold execVopLayernorm at ht; grind [pend_takeRing, pend_beginVop]

theorem pend_execVopRmsnorm (q : QueueNo) (d : Desc) (s : State) :
    ∀ st, execVopRmsnorm q d s = .next st → st.pending = s.pending := by
  intro st ht; unfold execVopRmsnorm at ht; grind [pend_takeRing, pend_beginVop]

theorem pend_execVopXent (q : QueueNo) (d : Desc) (s : State) :
    ∀ st, execVopXent q d s = .next st → st.pending = s.pending := by
  intro st ht; unfold execVopXent at ht; grind [pend_takeRing, pend_beginVop]

theorem pend_execVopXentgrad (q : QueueNo) (d : Desc) (s : State) :
    ∀ st, execVopXentgrad q d s = .next st → st.pending = s.pending := by
  intro st ht; unfold execVopXentgrad at ht; grind [pend_takeRing, pend_beginVop]

end Sys2Proof.Machine
end

