-- ==== Sys2Proof/Laws/PendWindow.lean ====
section
/-! SUPPORT. No operation of Machine/Window.lean touches the queue of waiting commands. -/

namespace Sys2Proof.Machine

set_option Elab.async false

@[simp] theorem pend_chargeWindow (s : State) :
    (chargeWindow s).pending = s.pending := by
  unfold chargeWindow; grind [pend_charge]

@[simp] theorem pend_unchargeWindow (s : State) :
    (unchargeWindow s).pending = s.pending := by
  unfold unchargeWindow; grind [pend_uncharge]

@[simp] theorem pend_startWindow (s : State) :
    (startWindow s).pending = s.pending := by
  unfold startWindow; grind [pend_setF, pend_errRecord, pend_chargeWindow]

@[simp] theorem pend_wipeWindow (s : State) :
    (wipeWindow s).pending = s.pending := by
  unfold wipeWindow; grind [pend_forEach, pend_wipeRange]

@[simp] theorem pend_freeWindow (s : State) :
    (freeWindow s).pending = s.pending := by
  unfold freeWindow; grind [pend_setF, pend_unchargeWindow, pend_wipeWindow]

@[simp] theorem pend_followWindow (s : State) :
    (followWindow s).pending = s.pending := by
  unfold followWindow; grind [pend_setF, pend_startWindow]

theorem pend_execHdmctlEn (on : Bool) (s : State) :
    ∀ st, execHdmctlEn on s = .next st → st.pending = s.pending := by
  intro st ht; unfold execHdmctlEn at ht; grind [pend_setF, pend_regAccessError, pend_hostWrite, pend_followWindow]

theorem pend_execHdmsizeWrite (units : Nat) (s : State) :
    ∀ st, execHdmsizeWrite units s = .next st → st.pending = s.pending := by
  intro st ht; unfold execHdmsizeWrite at ht; grind [pend_setF, pend_regAccessError, pend_hostWrite]

theorem pend_execHdmZeroingDone (s : State) :
    ∀ st, execHdmZeroingDone s = .next st → st.pending = s.pending := by
  intro st ht; unfold execHdmZeroingDone at ht; grind [pend_setF, pend_wipeWindow, pend_followWindow]

theorem pend_execHdmReleaseDrained (s : State) :
    ∀ st, execHdmReleaseDrained s = .next st → st.pending = s.pending := by
  intro st ht; unfold execHdmReleaseDrained at ht; grind [pend_freeWindow, pend_followWindow]

theorem pend_execHdmDecoderCommit (size : Nat) (s : State) :
    ∀ st, execHdmDecoderCommit size s = .next st → st.pending = s.pending := by
  intro st ht; unfold execHdmDecoderCommit at ht; grind [pend_hostWrite]

@[simp] theorem pend_snoopRange (o : Nat) (n : Nat) (inv : Bool) (s : State) :
    (snoopRange o n inv s).pending = s.pending := by
  unfold snoopRange; grind [pend_forEach, pend_emit]

@[simp] theorem pend_winRead (o : Nat) (n : Nat) (s : State) :
    (winRead o n s).2.pending = s.pending := by
  unfold winRead; grind [pend_satF, pend_snoopRange]

@[simp] theorem pend_winPutLine (o : Nat) (bs : List Byte) (s : State) :
    (winPutLine o bs s).pending = s.pending := by
  unfold winPutLine; grind [pend_memWrite, pend_healRange]

@[simp] theorem pend_winPut (fuel o : Nat) (bs : List Byte) (s : State) : (winPut fuel o bs s).pending = s.pending := by
  induction fuel generalizing o bs s with
  | zero => rfl
  | succ k ih => unfold winPut; grind [pend_winPutLine]

@[simp] theorem pend_winWrite (o : Nat) (bs : List Byte) (s : State) :
    (winWrite o bs s).pending = s.pending := by
  unfold winWrite; grind [pend_snoopRange, pend_winPut]

theorem pend_execBar4Access (off : Nat) (write : Option (List Byte)) (len : Nat) (s : State) :
    ∀ st, execBar4Access off write len s = .next st → st.pending = s.pending := by
  intro st ht; unfold execBar4Access at ht; grind [pend_forEach, pend_emit, pend_peep, pend_winRead, pend_winWrite]

theorem pend_execCxlMemRead (line : Nat) (s : State) :
    ∀ st, execCxlMemRead line s = .next st → st.pending = s.pending := by
  intro st ht; unfold execCxlMemRead at ht; grind [pend_satF, pend_emit, pend_peep]

theorem pend_execCxlMemWrite (line : Nat) (data : List Byte) (poison : Bool) (s : State) :
    ∀ st, execCxlMemWrite line data poison s = .next st → st.pending = s.pending := by
  intro st ht; unfold execCxlMemWrite at ht; grind [pend_peep, pend_poisonLine, pend_winPutLine]

theorem pend_execHostSnoop (addr : Nat) (s : State) :
    ∀ st, execHostSnoop addr s = .next st → st.pending = s.pending := by
  intro st ht; unfold execHostSnoop at ht; grind [pend_emit]

end Sys2Proof.Machine
end

