-- ==== Sys2Proof/Laws/PendMovers.lean ====
section
/-! SUPPORT. No operation of Machine/Movers.lean touches the queue of waiting commands. -/

namespace Sys2Proof.Machine

set_option Elab.async false

@[simp] theorem pend_setCover (owner : Nat) (h : Nat) (pane : Nat) (spans : List (Nat × Nat)) (s : State) :
    (setCover owner h pane spans s).pending = s.pending := by
  unfold setCover; grind []

@[simp] theorem pend_placeForWrite (root : Tensor) (i : Nat) (s : State) : (placeForWrite root i s).2.1.pending = s.pending := by
  have h1 := fun tier => pend_allocAll tier root [i] s
  unfold placeForWrite; grind [pend_recordQlast]

@[simp] theorem pend_mergeCopy (root : Tensor) (w : WorkCopy) (l : PaneLoc) (s : State) :
    (mergeCopy root w l s).1.pending = s.pending := by
  unfold mergeCopy; grind [pend_checkedRead, pend_setCover]

@[simp] theorem pend_writeMerged (root : Tensor) (i : Nat) (l : PaneLoc) (p : PaneData) (spans : List (Nat × Nat)) (anew : Bool) (s : State) :
    (writeMerged root i l p spans anew s).pending = s.pending := by
  unfold writeMerged; grind [pend_memPutCells, pend_writePane, pend_healSpans]

@[simp] theorem pend_slotForWrite (w : WorkCopy) (s : State) : (slotForWrite w s).2.1.pending = s.pending := by
  have h1 := pend_placeForWrite (tensorAt w.handle s) w.pane s
  unfold slotForWrite; dsimp only
  split
  · rfl
  · split
    · rename_i heq; rw [heq] at h1; exact h1
    · rename_i l u st heq
      rw [heq] at h1
      split
      · exact h1
      · split <;> (rename_i h2; have h3 := pend_programSlot l 66560 u; rw [h2] at h3; exact h3.trans h1)

@[simp] theorem pend_storeCopy (w : WorkCopy) (s : State) : (storeCopy w s).1.pending = s.pending := by
  have h1 := pend_slotForWrite w s
  unfold storeCopy; dsimp only
  split
  · rename_i heq; rw [heq] at h1; exact h1
  · rename_i heq; rw [heq] at h1
    exact (pend_writeMerged _ _ _ _ _ _ _).trans ((pend_mergeCopy _ _ _ _).trans h1)

@[simp] theorem pend_cleanCopy (w : WorkCopy) (s : State) :
    (cleanCopy w s).pending = s.pending := by
  unfold cleanCopy; grind []

theorem pend_execMoverWriteBack (n : CoreNo) (handle : Nat) (pane : Nat) (s : State) :
    ∀ st, execMoverWriteBack n handle pane s = .next st → st.pending = s.pending := by
  intro st ht; unfold execMoverWriteBack at ht; grind [pend_startCommit, pend_orPart, pend_checkEnd, pend_storeCopy, pend_cleanCopy]

@[simp] theorem pend_flashBad (root : Tensor) (i : Nat) (bad : Nat) (s : State) :
    (flashBad root i bad s).pending = s.pending := by
  unfold flashBad; grind [pend_markPoison, pend_flashUncorrectable]

@[simp] theorem pend_peepPort (h : Nat) (i : Nat) (n : Nat) (s : State) :
    (peepPort h i n s).pending = s.pending := by
  unfold peepPort; grind [pend_peep]

@[simp] theorem pend_trimCopies (n : Nat) (s : State) :
    (trimCopies n s).pending = s.pending := by
  unfold trimCopies; grind []

@[simp] theorem pend_stagePane (n : Nat) (owner : Nat) (handle : Nat) (pane : Nat) (p : PaneData) (sill : List (Nat × Nat)) (s : State) :
    (stagePane n owner handle pane p sill s).pending = s.pending := by
  unfold stagePane; grind [pend_upsertCopy, pend_trimCopies]

theorem pend_execPaneRead (n : MoverEnd) (handle : Nat) (pane : Nat) (bad : ReadFault) (s : State) :
    ∀ st, execPaneRead n handle pane bad s = .next st → st.pending = s.pending := by
  intro st ht; unfold execPaneRead at ht; grind [pend_forEach, pend_moverRead, pend_flashBad, pend_peepPort, pend_stagePane]

@[simp] theorem pend_stageTensor (owner : Nat) (t : Tensor) (s : State) :
    (stageTensor owner t s).pending = s.pending := by
  unfold stageTensor; grind [pend_forEach, pend_moverRead, pend_upsertCopy, pend_peepPort]

@[simp] theorem pend_flushCopies (owner : Nat) (s : State) : (flushCopies owner s).1.pending = s.pending := by
  unfold flushCopies; exact foldl_fst_eq (fun s => s.pending) _ _ _ (fun b x => by simp [pend_cleanCopy, pend_storeCopy])

@[simp] theorem pend_endWhole (e : InFlight) (status : Nat) (flags : Nat) (s : State) :
    (endWhole e status flags s).pending = s.pending := by
  unfold endWhole; grind [pend_setFlight]

@[simp] theorem pend_writeScalar (owner : Nat) (t : Tensor) (root : Tensor) (x : List Nat) (bits : Nat) (poison : Bool) (s : State) :
    (writeScalar owner t root x bits poison s).pending = s.pending := by
  unfold writeScalar; grind [pend_putElem]

@[simp] theorem pend_writeBlock (owner : Nat) (t : Tensor) (root : Tensor) (x : List Nat) (len : Nat) (scale : Nat) (elems : List Nat) (poison : Bool) (s : State) :
    (writeBlock owner t root x len scale elems poison s).pending = s.pending := by
  unfold writeBlock; grind [pend_putBlock]

@[simp] theorem pend_convertInto (owner : Nat) (t : Tensor) (flush : Bool) (f : List Nat → Num × Nat × Bool) (s : State) :
    (convertInto owner t flush f s).1.pending = s.pending := by
  unfold convertInto; dsimp only; split <;> exact foldl_fst_eq (fun s => s.pending) _ _ _ (fun b x => by simp)

@[simp] theorem pend_copyBits (owner : Nat) (a b : Tensor) (s : State) : (copyBits owner a b s).1.pending = s.pending := by
  unfold copyBits; dsimp only; split <;> exact foldl_fst_eq (fun s => s.pending) _ _ _ (fun b x => by simp)

@[simp] theorem pend_moveCopyWork (e : InFlight) (s : State) :
    (moveCopyWork e s).pending = s.pending := by
  unfold moveCopyWork; grind [pend_stageTensor, pend_flushCopies, pend_endWhole, pend_convertInto, pend_copyBits]

@[simp] theorem pend_moveFillWork (e : InFlight) (s : State) :
    (moveFillWork e s).pending = s.pending := by
  unfold moveFillWork; grind [pend_flushCopies, pend_endWhole, pend_convertInto]

@[simp] theorem pend_moveImportWork (e : InFlight) (s : State) : (moveImportWork e s).pending = s.pending := by
  unfold moveImportWork; dsimp only; rw [pend_endWhole, pend_flushCopies]
  split <;> exact (foldl_fst_eq (fun s => s.pending) _ _ _ (fun b x => by simp)).trans (by simp)

@[simp] theorem pend_moveExportWork (e : InFlight) (s : State) :
    (moveExportWork e s).pending = s.pending := by
  unfold moveExportWork; grind [pend_winWrite, pend_stageTensor, pend_endWhole]

@[simp] theorem pend_movePane (t : Tensor) (i : Nat) (old : PaneLoc) (l : PaneLoc) (s : State) :
    (movePane t i old l s).1.pending = s.pending := by
  unfold movePane; grind [pend_charge, pend_uncharge, pend_setLoc, pend_freeSlotBytes, pend_writePane, pend_programSlot, pend_checkedRead]

theorem pend_migrateAll (tier : Nat) (t : Tensor) (is : List Nat) (a : State × Bool × Nat) :
    ∀ r, migrateAll tier t is a = some r → r.1.pending = a.1.pending := by
  induction is generalizing a with
  | nil => intro r hr; unfold migrateAll at hr; grind
  | cons i t ih => intro r hr; unfold migrateAll at hr; grind [pend_movePane]

@[simp] theorem pend_moveMigrateWork (e : InFlight) (s : State) : (moveMigrateWork e s).pending = s.pending := by
  have hm : ∀ tier t is r, migrateAll tier t is (s, false, 0) = some r → r.1.pending = s.pending := fun tier t is r => pend_migrateAll tier t is _ r
  unfold moveMigrateWork; dsimp only
  split
  · simp
  · split
    · simp
    · rename_i heq; exact (pend_endWhole _ _ _ _).trans (hm _ _ _ _ heq)

@[simp] theorem pend_moveReleaseWork (e : InFlight) (s : State) :
    (moveReleaseWork e s).pending = s.pending := by
  unfold moveReleaseWork; grind [pend_forEach, pend_releasePane, pend_endWhole]

@[simp] theorem pend_beginMove (e : InFlight) (s : State) :
    (beginMove e s).pending = s.pending := by
  unfold beginMove; grind [pend_validated, pend_chargeThen, pend_moveCopyWork, pend_moveFillWork, pend_moveImportWork, pend_moveExportWork, pend_moveMigrateWork, pend_moveReleaseWork]

@[simp] theorem pend_takeMove (op : Nat) (q : QueueNo) (d : Desc) (s : State) :
    (takeMove op q d s).pending = s.pending := by
  unfold takeMove; grind [pend_takeRing, pend_beginMove]

theorem pend_execMoveCopy (q : QueueNo) (d : Desc) (s : State) :
    ∀ st, execMoveCopy q d s = .next st → st.pending = s.pending := by
  intro st ht; unfold execMoveCopy at ht; grind [pend_takeMove]

theorem pend_execMoveFill (q : QueueNo) (d : Desc) (s : State) :
    ∀ st, execMoveFill q d s = .next st → st.pending = s.pending := by
  intro st ht; unfold execMoveFill at ht; grind [pend_takeMove]

theorem pend_execMoveMigrate (q : QueueNo) (d : Desc) (s : State) :
    ∀ st, execMoveMigrate q d s = .next st → st.pending = s.pending := by
  intro st ht; unfold execMoveMigrate at ht; grind [pend_takeMove]

theorem pend_execMoveImport (q : QueueNo) (d : Desc) (s : State) :
    ∀ st, execMoveImport q d s = .next st → st.pending = s.pending := by
  intro st ht; unfold execMoveImport at ht; grind [pend_takeMove]

theorem pend_execMoveExport (q : QueueNo) (d : Desc) (s : State) :
    ∀ st, execMoveExport q d s = .next st → st.pending = s.pending := by
  intro st ht; unfold execMoveExport at ht; grind [pend_takeMove]

theorem pend_execMoveRelease (q : QueueNo) (d : Desc) (s : State) :
    ∀ st, execMoveRelease q d s = .next st → st.pending = s.pending := by
  intro st ht; unfold execMoveRelease at ht; grind [pend_takeMove]

end Sys2Proof.Machine
end

