-- ==== Sys2Proof/Laws/PendPlacement.lean ====
section
/-! SUPPORT. No operation of Machine/Placement.lean touches the queue of waiting commands. -/

namespace Sys2Proof.Machine

set_option Elab.async false

@[simp] theorem pend_showCores (l : List (Nat × Nat × Nat)) (s : State) :
    (showCores l s).pending = s.pending := by
  unfold showCores; grind [pend_setF, pend_forEach]

@[simp] theorem pend_showNode (im : Image) (r : Nat × Nat × Nat) (st : List (Nat × Nat)) (s : State) :
    (showNode im r st s).pending = s.pending := by
  unfold showNode; grind [pend_setF]

@[simp] theorem pend_placeTensor (held : Tensor → List Nat) (t : Tensor) (s : State) :
    (placeTensor held t s).pending = s.pending := by
  unfold placeTensor; grind [pend_setF, pend_forEach, pend_allocPane]

@[simp] theorem pend_takeTopology (s : State) :
    (takeTopology s).pending = s.pending := by
  unfold takeTopology; grind [pend_forEach, pend_setCart]

@[simp] theorem pend_placeImage (held : Tensor → List Nat) (s : State) :
    (placeImage held s).1.pending = s.pending := by
  unfold placeImage; grind [pend_setF, pend_forEach, pend_showCores, pend_showNode, pend_placeTensor, pend_takeTopology]

@[simp] theorem pend_placed (perr : Nat) (s : State) :
    (placed perr s).pending = s.pending := by
  unfold placed; grind [pend_setF, pend_addF]

theorem pend_execTierReplace (s : State) :
    ∀ st, execTierReplace s = .next st → st.pending = s.pending := by
  intro st ht; unfold execTierReplace at ht; grind [pend_setF, pend_hostWrite]

@[simp] theorem pend_collectPanes (s : State) : (collectPanes s).2.pending = s.pending := by
  unfold collectPanes
  exact foldl_snd_eq (fun s => s.pending) _ _ _ (fun b x => by dsimp only; (repeat' split) <;> simp)

@[simp] theorem pend_putWindowUnit (runs : List (Nat × Nat × Nat)) (u : Nat) (x : Option (List Host.Cell × List Nat)) (s : State) :
    (putWindowUnit runs u x s).pending = s.pending := by
  unfold putWindowUnit; grind [pend_forEach, pend_memPutCells, pend_poisonLine, pend_healRange]

@[simp] theorem pend_moveWindow (new : List (Nat × Nat × Nat)) (before : State) (s : State) :
    (moveWindow new before s).pending = s.pending := by
  unfold moveWindow; grind [pend_setF, pend_forEach, pend_putWindowUnit]

@[simp] theorem pend_putPane (m : MovedPane) (s : State) :
    (putPane m s).pending = s.pending := by
  unfold putPane; grind [pend_writePane, pend_programWhole]

@[simp] theorem pend_replaceFails (perr : Nat) (s : State) :
    (replaceFails perr s).pending = s.pending := by
  unfold replaceFails; grind [pend_setF, pend_placed]

@[simp] theorem pend_replaceNow (s : State) :
    (replaceNow s).pending = s.pending := by
  unfold replaceNow; grind [pend_setF, pend_forEach, pend_healRange, pend_freeSlotBytes, pend_chargeWindow, pend_placeImage, pend_placed, pend_collectPanes, pend_moveWindow, pend_putPane, pend_replaceFails]

theorem pend_execReplaceQuiesced (s : State) :
    ∀ st, execReplaceQuiesced s = .next st → st.pending = s.pending := by
  intro st ht; unfold execReplaceQuiesced at ht; grind [pend_setF, pend_replaceNow]

@[simp] theorem pend_setMqdata (ws : List Nat) (s : State) :
    (setMqdata ws s).pending = s.pending := by
  unfold setMqdata; grind [pend_setF, pend_forEach]

theorem pend_execMqReadMetadata (s : State) :
    ∀ st, execMqReadMetadata s = .next st → st.pending = s.pending := by
  intro st ht; unfold execMqReadMetadata at ht; grind [pend_setF, pend_hostWrite, pend_setMqdata]

theorem pend_execMqReadPlacement (s : State) :
    ∀ st, execMqReadPlacement s = .next st → st.pending = s.pending := by
  intro st ht; unfold execMqReadPlacement at ht; grind [pend_setF, pend_hostWrite, pend_setMqdata]

end Sys2Proof.Machine
end

