-- ==== Sys2Proof/Laws/PendLinks.lean ====
section
/-! SUPPORT. No operation of Machine/Links.lean touches the queue of waiting commands. -/

namespace Sys2Proof.Machine

set_option Elab.async false

@[simp] theorem pend_setDw (w : Nat) (f : DwAux → DwAux) (s : State) :
    (setDw w f s).pending = s.pending := by
  unfold setDw; grind []

@[simp] theorem pend_linkRecord (sev : Nat) (w : Nat) (detail : List Nat) (s : State) :
    (linkRecord sev w detail s).pending = s.pending := by
  unfold linkRecord; grind [pend_errRecord]

@[simp] theorem pend_writeDwctl (w : Nat) (value : Nat) (s : State) :
    (writeDwctl w value s).pending = s.pending := by
  unfold writeDwctl; grind [pend_setF, pend_regAccessError]

theorem pend_execDwctlWrite (w : DoorwayNo) (value : Nat) (s : State) :
    ∀ st, execDwctlWrite w value s = .next st → st.pending = s.pending := by
  intro st ht; unfold execDwctlWrite at ht; grind [pend_hostWrite, pend_writeDwctl]

@[simp] theorem pend_startTraining (w : Nat) (s : State) :
    (startTraining w s).pending = s.pending := by
  unfold startTraining; grind [pend_setF, pend_emit]

@[simp] theorem pend_trainingFails (w : Nat) (s : State) :
    (trainingFails w s).pending = s.pending := by
  unfold trainingFails; grind [pend_setF, pend_setDw, pend_linkRecord]

theorem pend_execLinkTrainingDone (w : DoorwayNo) (r : LinkTraining) (s : State) :
    ∀ st, execLinkTrainingDone w r s = .next st → st.pending = s.pending := by
  intro st ht; unfold execLinkTrainingDone at ht; grind [pend_setF, pend_setDw, pend_trainingFails]

theorem pend_execLinkLockLoss (w : DoorwayNo) (s : State) :
    ∀ st, execLinkLockLoss w s = .next st → st.pending = s.pending := by
  intro st ht; unfold execLinkLockLoss at ht; grind [pend_setDw, pend_startTraining]

@[simp] theorem pend_sendFrame (w : Nat) (p : List Byte) (s : State) :
    (sendFrame w p s).pending = s.pending := by
  unfold sendFrame; grind [pend_addF, pend_emit, pend_peep]

@[simp] theorem pend_drainFrames (w : Nat) (s : State) :
    (drainFrames w s).pending = s.pending := by
  unfold drainFrames; grind [pend_forEach, pend_setDw, pend_sendFrame]

@[simp] theorem pend_sendPacket (w : Nat) (tc : Nat) (p : List Byte) (s : State) :
    (sendPacket w tc p s).pending = s.pending := by
  unfold sendPacket; grind [pend_setDw, pend_drainFrames]

@[simp] theorem pend_arrive (w : Nat) (p : List Byte) (ce : Bool) (s : State) :
    (arrive w p ce s).pending = s.pending := by
  unfold arrive; grind [pend_addF, pend_satF, pend_setDw]

theorem pend_takeArrived (w : Nat) (kind : Nat) (p : List Byte) (ce : Bool) (s : State) :
    ∀ st, takeArrived w kind p ce s = some st → st.pending = s.pending := by
  intro st ht; unfold takeArrived at ht; grind [pend_setDw]

theorem pend_execFlitSend (w : DoorwayNo) (s : State) :
    ∀ st, execFlitSend w s = .next st → st.pending = s.pending := by
  intro st ht; unfold execFlitSend at ht; grind [pend_addF, pend_emit, pend_peep, pend_setDw]

@[simp] theorem pend_retireGap (w : Nat) (tc : Nat) (fseq : Nat) (s : State) :
    (retireGap w tc fseq s).pending = s.pending := by
  unfold retireGap; grind [pend_setDw]

@[simp] theorem pend_takeCredits (w : Nat) (cred : Nat) (s : State) :
    (takeCredits w cred s).pending = s.pending := by
  unfold takeCredits; grind [pend_setDw]

@[simp] theorem pend_countFec (w t : Nat) (errors : List Nat) (s : State) :
    (countFec w t errors s).pending = s.pending := by
  unfold countFec; grind [pend_addF]

@[simp] theorem pend_takeFlit (w : Nat) (flit : List Byte) (s : State) :
    (takeFlit w flit s).pending = s.pending := by
  unfold takeFlit; grind [pend_satF, pend_forEach, pend_peep, pend_setDw, pend_arrive, pend_retireGap, pend_takeCredits]

theorem pend_execFlitReceive (w : DoorwayNo) (flit : LineIn) (s : State) :
    ∀ st, execFlitReceive w flit s = .next st → st.pending = s.pending := by
  intro st ht; unfold execFlitReceive at ht; grind [pend_takeFlit, pend_countFec]

@[simp] theorem pend_takePfc (w : Nat) (f : List Byte) (s : State) :
    (takePfc w f s).pending = s.pending := by
  unfold takePfc; grind [pend_setDw, pend_drainFrames]

@[simp] theorem pend_takeFrame (w : Nat) (frame : List Byte) (s : State) :
    (takeFrame w frame s).pending = s.pending := by
  unfold takeFrame; grind [pend_satF, pend_peep, pend_arrive, pend_takePfc]

theorem pend_execFrameReceive (w : DoorwayNo) (frame : LineIn) (s : State) :
    ∀ st, execFrameReceive w frame s = .next st → st.pending = s.pending := by
  intro st ht; unfold execFrameReceive at ht; grind [pend_takeFrame, pend_countFec]

theorem pend_execPriorityFlowControlPauseEnd (w : DoorwayNo) (prio : Fin 8) (s : State) :
    ∀ st, execPriorityFlowControlPauseEnd w prio s = .next st → st.pending = s.pending := by
  intro st ht; unfold execPriorityFlowControlPauseEnd at ht; grind [pend_setDw, pend_drainFrames]

end Sys2Proof.Machine
end

