-- ==== Sys2Proof/Laws/PendColl.lean ====
section
/-! SUPPORT. No operation of Machine/Coll.lean touches the queue of waiting commands. -/

namespace Sys2Proof.Machine

set_option Elab.async false

@[simp] theorem pend_setCtx (x : Nat) (f : CompCtx → CompCtx) (s : State) :
    (setCtx x f s).pending = s.pending := by
  unfold setCtx; grind []

@[simp] theorem pend_installTable (x : Nat) (t : CompTable) (s : State) :
    (installTable x t s).pending = s.pending := by
  unfold installTable; grind [pend_setCtx]

@[simp] theorem pend_retireIfDone (x : Nat) (s : State) :
    (retireIfDone x s).pending = s.pending := by
  unfold retireIfDone; grind [pend_setF, pend_trace, pend_setCtx]

@[simp] theorem pend_setColl (id : Nat) (f : CollJob → CollJob) (s : State) :
    (setColl id f s).pending = s.pending := by
  unfold setColl; grind []

@[simp] theorem pend_gatherDone (j : CollJob) (s : State) :
    (gatherDone j s).pending = s.pending := by
  unfold gatherDone; grind [pend_forEach, pend_emit, pend_setColl]

@[simp] theorem pend_collProgress (tag : Nat) (s : State) :
    (collProgress tag s).pending = s.pending := by
  unfold collProgress; grind [pend_emit, pend_setColl, pend_gatherDone]

@[simp] theorem pend_allocShadow (tier : Nat) (t : Tensor) (id : Nat) (i : Nat) (s : State) :
    (allocShadow tier t id i s).pending = s.pending := by
  unfold allocShadow; grind [pend_charge, pend_freeSlotBytes]

theorem pend_shadowAll (id : Nat) (t : Tensor) (s : State) :
    (∀ u, (shadowAll id t s).1 = some u → u.pending = s.pending) ∧ (shadowAll id t s).2.1.pending = s.pending := by
  have hf : ∀ is root tier, (forEach is (fun i s => allocShadow tier root id i s) s).pending = s.pending :=
    fun is root tier => pend_forEach _ _ _ (fun i x => pend_allocShadow tier root id i x)
  unfold shadowAll
  grind [pend_recordQlast]

theorem pend_shadowEach (id : Nat) (hs : List Nat) (s : State) :
    (∀ u, (shadowEach id hs s).1 = some u → u.pending = s.pending) ∧ (shadowEach id hs s).2.1.pending = s.pending := by
  induction hs generalizing s with
  | nil => unfold shadowEach; grind
  | cons a t ih =>
    have h1 := pend_shadowAll id (tensorAt a s) s
    unfold shadowEach
    rcases hA : shadowAll id (tensorAt a s) s with ⟨_ | u, q, st⟩
    · rw [hA] at h1; exact ⟨by simp, h1.2⟩
    · rw [hA] at h1
      have hu := h1.1 u rfl
      have h2 := ih u
      rcases hB : shadowEach id t u with ⟨_ | v, q', st'⟩ <;> simp only [hB]
      · exact ⟨by simp, by simp⟩
      · rw [hB] at h2; exact ⟨fun w hw => by cases hw; exact (h2.1 _ rfl).trans hu, trivial⟩

@[simp] theorem pend_dropShadows (id : Nat) (s : State) :
    (dropShadows id s).pending = s.pending := by
  unfold dropShadows; grind [pend_forEach, pend_uncharge, pend_freeSlotBytes]

@[simp] theorem pend_commitShadow (w : WorkCopy) (s : State) :
    (commitShadow w s).1.pending = s.pending := by
  unfold commitShadow; grind [pend_setLoc, pend_releasePane, pend_writePane, pend_programSlot, pend_moverRead]

@[simp] theorem pend_commitShadows (id : Nat) (s : State) :
    (commitShadows id s).1.pending = s.pending := by
  unfold commitShadows; (repeat' split) <;> simp [pend_dropShadows, pend_commitShadow]

@[simp] theorem pend_putLinearByte (owner : Nat) (t : Tensor) (root : Tensor) (o : Nat) (b : Byte) (s : State) :
    (putLinearByte owner t root o b s).pending = s.pending := by
  unfold putLinearByte; grind [pend_putSpan, pend_putTadj]

@[simp] theorem pend_putLinear (owner : Nat) (t : Tensor) (o : Nat) (bs : List Byte) (s : State) :
    (putLinear owner t o bs s).pending = s.pending := by
  unfold putLinear; grind [pend_forEach, pend_writeScalar, pend_putLinearByte]

@[simp] theorem pend_poisonLinear (owner : Nat) (t : Tensor) (o : Nat) (s : State) :
    (poisonLinear owner t o s).pending = s.pending := by
  unfold poisonLinear; grind [pend_putPoison]

@[simp] theorem pend_dropColl (j : CollJob) (s : State) :
    (dropColl j s).pending = s.pending := by
  unfold dropColl; grind [pend_forEach, pend_setCtx]

@[simp] theorem pend_failColl (status : Nat) (j : CollJob) (s : State) :
    (failColl status j s).pending = s.pending := by
  unfold failColl; grind [pend_finish, pend_dropShadows, pend_dropColl]

@[simp] theorem pend_reportDigests (j : CollJob) (s : State) :
    (reportDigests j s).pending = s.pending := by
  unfold reportDigests; grind [pend_setF, pend_forEach, pend_errRecord]

@[simp] theorem pend_commitColl (j : CollJob) (s : State) :
    (commitColl j s).pending = s.pending := by
  unfold commitColl; grind [pend_forEach, pend_finish, pend_commitShadows, pend_putLinear, pend_poisonLinear, pend_dropColl, pend_reportDigests]

@[simp] theorem pend_setConn (w : Nat) (peer : Nat) (f : Conn → Conn) (s : State) :
    (setConn w peer f s).pending = s.pending := by
  unfold setConn; grind []

@[simp] theorem pend_endCarriage (status : Nat) (peer : Option Nat) (s : State) :
    (endCarriage status peer s).pending = s.pending := by
  unfold endCarriage; grind []

@[simp] theorem pend_failConn (w : Nat) (peer : Nat) (s : State) :
    (failConn w peer s).pending = s.pending := by
  unfold failConn; grind [pend_setF, pend_satF, pend_forEach, pend_trace, pend_linkRecord, pend_failColl, pend_setConn, pend_endCarriage]

end Sys2Proof.Machine
end

