-- ==== Sys2Proof/Laws/PendTransport.lean ====
section
/-! SUPPORT. No operation of Machine/Transport.lean touches the queue of waiting commands. -/

namespace Sys2Proof.Machine

set_option Elab.async false

@[simp] theorem pend_sendAck (w : Nat) (peer : Nat) (s : State) :
    (sendAck w peer s).pending = s.pending := by
  unfold sendAck; grind [pend_sendPacket, pend_setConn]

@[simp] theorem pend_sendNack (w : Nat) (peer : Nat) (psn : Nat) (tag : Nat) (reason : Nat) (gen : Nat) (s : State) :
    (sendNack w peer psn tag reason gen s).pending = s.pending := by
  unfold sendNack; grind [pend_sendPacket]

@[simp] theorem pend_resend (w : Nat) (peer : Nat) (psn : Nat) (s : State) :
    (resend w peer psn s).pending = s.pending := by
  unfold resend; grind [pend_peep, pend_trace, pend_sendPacket, pend_setConn, pend_failConn]

@[simp] theorem pend_queueRec (t : CollStream) (r : SendRec) (s : State) :
    (queueRec t r s).pending = s.pending := by
  unfold queueRec; grind [pend_setConn]

@[simp] theorem pend_advanceStream (j : CollJob) (t : CollStream) (s : State) :
    (advanceStream j t s).pending = s.pending := by
  unfold advanceStream; grind [pend_setColl]

@[simp] theorem pend_countBlock (ce : Nat) (event : Nat) (record : Nat) (bytes : Nat) (s : State) :
    (countBlock ce event record bytes s).pending = s.pending := by
  unfold countBlock; grind [pend_addF, pend_peep]

@[simp] theorem pend_countTable (ce : Nat) (n : Nat) (s : State) :
    (countTable ce n s).pending = s.pending := by
  unfold countTable; grind [pend_addF, pend_peep]

@[simp] theorem pend_queueRaw (w : Nat) (peer : Nat) (s : State) :
    (queueRaw w peer s).pending = s.pending := by
  unfold queueRaw; grind [pend_queueRec, pend_advanceStream, pend_countBlock]

theorem pend_execDataSend (w : DoorwayNo) (peer : Nat) (s : State) :
    ∀ st, execDataSend w peer s = .next st → st.pending = s.pending := by
  intro st ht; unfold execDataSend at ht; grind [pend_sendPacket, pend_setConn, pend_queueRaw]

@[simp] theorem pend_deliver (j : CollJob) (peer : Nat) (v : Nat) (down : Bool) (bs : List Byte) (flags : Nat) (s : State) :
    (deliver j peer v down bs flags s).pending = s.pending := by
  unfold deliver; grind [pend_setColl, pend_collProgress]

@[simp] theorem pend_acceptNext (w : Nat) (peer : Nat) (s : State) :
    (acceptNext w peer s).pending = s.pending := by
  unfold acceptNext; grind [pend_setConn, pend_sendAck]

@[simp] theorem pend_rejectNext (w : Nat) (peer : Nat) (psn : Nat) (tag : Nat) (reason : Nat) (gen : Nat) (s : State) :
    (rejectNext w peer psn tag reason gen s).pending = s.pending := by
  unfold rejectNext; grind [pend_setConn, pend_sendNack]

@[simp] theorem pend_drainWindow (w peer fuel : Nat) (s : State) : (drainWindow w peer fuel s).pending = s.pending := by
  induction fuel generalizing s with
  | zero => rfl
  | succ k ih => unfold drainWindow; dsimp only; (repeat' split) <;> simp [ih]

@[simp] theorem pend_drainAll (s : State) :
    (drainAll s).pending = s.pending := by
  unfold drainAll; grind [pend_forEach, pend_drainWindow]

theorem pend_execPacketData (w : DoorwayNo) (pkt : List Byte) (ce : Bool) (s : State) :
    ∀ st, execPacketData w pkt ce s = .next st → st.pending = s.pending := by
  intro st ht; unfold execPacketData at ht
  simp only [Host.Outcome.next.injEq] at ht; subst ht
  split
  · rfl
  · rename_i t heq
    have h2 := pend_takeArrived _ _ _ _ _ _ heq
    have h3 : ∀ peer g, (if ce then setConn w peer g t else t).pending = s.pending := fun peer g => by
      split
      · exact (pend_setConn _ _ _ _).trans h2
      · exact h2
    (repeat' split) <;> first | exact h2 | exact h3 _ _ | simp only [pend_sendAck, pend_setConn, pend_drainWindow, h3, h2]

@[simp] theorem pend_ackPackets (l : List TxPkt) (s : State) :
    (ackPackets l s).pending = s.pending := by
  unfold ackPackets; grind [pend_forEach, pend_setCtx, pend_retireIfDone]

@[simp] theorem pend_packetAck (w : Nat) (pkt : List Byte) (ce : Bool) (s : State) :
    (packetAck w pkt ce s).pending = s.pending := by
  unfold packetAck; grind [pend_forEach, pend_takeArrived, pend_setConn, pend_resend, pend_ackPackets]

@[simp] theorem pend_packetNack (w : Nat) (pkt : List Byte) (ce : Bool) (s : State) : (packetNack w pkt ce s).pending = s.pending := by
  unfold packetNack
  split
  · rfl
  · rename_i t heq
    have h2 := pend_takeArrived _ _ _ _ _ _ heq
    dsimp only
    (repeat' split) <;> simp [h2]

theorem pend_execPacketTable (w : DoorwayNo) (pkt : List Byte) (ce : Bool) (s : State) :
    ∀ st, execPacketTable w pkt ce s = .next st → st.pending = s.pending := by
  intro st ht; unfold execPacketTable at ht; grind [pend_takeArrived, pend_installTable, pend_countTable]

theorem pend_execAckTimer (w : DoorwayNo) (peer : Nat) (s : State) :
    ∀ st, execAckTimer w peer s = .next st → st.pending = s.pending := by
  intro st ht; unfold execAckTimer at ht; grind [pend_sendAck]

@[simp] theorem pend_rtoExpiry (w : Nat) (peer : Nat) (s : State) :
    (rtoExpiry w peer s).pending = s.pending := by
  unfold rtoExpiry; grind [pend_resend]

theorem pend_execNotreadyTimer (w : DoorwayNo) (peer : Nat) (s : State) :
    ∀ st, execNotreadyTimer w peer s = .next st → st.pending = s.pending := by
  intro st ht; unfold execNotreadyTimer at ht; grind [pend_setConn, pend_drainWindow]

end Sys2Proof.Machine
end

