-- ==== Sys2Proof/Laws/PendStreams.lean ====
section
/-! SUPPORT. No operation of Machine/Streams.lean touches the queue of waiting commands. -/

namespace Sys2Proof.Machine

set_option Elab.async false

@[simp] theorem pend_beginComp (e : InFlight) (s : State) :
    (beginComp e s).pending = s.pending := by
  unfold beginComp; grind [pend_validated, pend_launch, pend_chargeThen]

@[simp] theorem pend_takeComp (op : Nat) (q : QueueNo) (d : Desc) (s : State) :
    (takeComp op q d s).pending = s.pending := by
  unfold takeComp; grind [pend_takeRing, pend_beginComp]

theorem pend_execCompEncode (q : QueueNo) (d : Desc) (s : State) :
    ∀ st, execCompEncode q d s = .next st → st.pending = s.pending := by
  intro st ht; unfold execCompEncode at ht; grind [pend_takeComp]

theorem pend_execCompDecode (q : QueueNo) (d : Desc) (s : State) :
    ∀ st, execCompDecode q d s = .next st → st.pending = s.pending := by
  intro st ht; unfold execCompDecode at ht; grind [pend_takeComp]

theorem pend_execCompConfig (q : QueueNo) (d : Desc) (s : State) :
    ∀ st, execCompConfig q d s = .next st → st.pending = s.pending := by
  intro st ht; unfold execCompConfig at ht; grind [pend_takeComp]

theorem pend_execCompReset (q : QueueNo) (d : Desc) (s : State) :
    ∀ st, execCompReset q d s = .next st → st.pending = s.pending := by
  intro st ht; unfold execCompReset at ht; grind [pend_takeComp]

@[simp] theorem pend_setCjob (x : Nat) (f : CompJob → CompJob) (s : State) :
    (setCjob x f s).pending = s.pending := by
  unfold setCjob; grind []

@[simp] theorem pend_endComp (id : Nat) (ce : Nat) (status : Nat) (flags : Nat) (s : State) :
    (endComp id ce status flags s).pending = s.pending := by
  unfold endComp; grind [pend_endPart, pend_setSticky]

@[simp] theorem pend_putFeedback (c : Coding) (off : Nat) (es : Option (List Nat)) (s : State) :
    (putFeedback c off es s).pending = s.pending := by
  unfold putFeedback; grind [pend_forEach, pend_writeScalar]

@[simp] theorem pend_newGeneration (x : Nat) (c : Coding) (body : List Byte) (s : State) :
    (newGeneration x c body s).2.pending = s.pending := by
  unfold newGeneration; grind [pend_trace, pend_setCtx]

@[simp] theorem pend_blockCoded (x : Nat) (r : Coded) (record : Nat) (s : State) :
    (blockCoded x r record s).pending = s.pending := by
  unfold blockCoded; grind [pend_satF, pend_peep, pend_setCtx, pend_countBlock]

@[simp] theorem pend_endEncode (e : InFlight) (j : CompJob) (s : State) :
    (endEncode e j s).pending = s.pending := by
  unfold endEncode; grind [pend_winWrite, pend_flushCopies, pend_endComp]

@[simp] theorem pend_encodeNext (e : InFlight) (j : CompJob) (s : State) :
    (encodeNext e j s).pending = s.pending := by
  unfold encodeNext; grind [pend_winWrite, pend_countTable, pend_setCjob, pend_putFeedback, pend_blockCoded, pend_endEncode]

@[simp] theorem pend_buildMemory (e : InFlight) (j : CompJob) (s : State) :
    (buildMemory e j s).pending = s.pending := by
  unfold buildMemory; grind [pend_retireIfDone, pend_setCjob, pend_newGeneration]

@[simp] theorem pend_linkNext (x : Nat) (j : CollJob) (t : CollStream) (s : State) :
    (linkNext x j t s).pending = s.pending := by
  unfold linkNext; grind [pend_setSticky, pend_setCtx, pend_setColl, pend_queueRec, pend_advanceStream, pend_putFeedback, pend_blockCoded]

@[simp] theorem pend_buildLink (x : Nat) (j : CollJob) (t : CollStream) (s : State) :
    (buildLink x j t s).pending = s.pending := by
  unfold buildLink; grind [pend_setCtx, pend_retireIfDone, pend_queueRec, pend_countTable, pend_newGeneration]

theorem pend_execTableBuild (x : ContextNo) (s : State) :
    ∀ st, execTableBuild x s = .next st → st.pending = s.pending := by
  intro st ht; unfold execTableBuild at ht; grind [pend_buildMemory, pend_buildLink]

theorem pend_execCompBlockEncode (x : ContextNo) (s : State) :
    ∀ st, execCompBlockEncode x s = .next st → st.pending = s.pending := by
  intro st ht; unfold execCompBlockEncode at ht; grind [pend_encodeNext, pend_linkNext]

@[simp] theorem pend_poisonBlocks (e : InFlight) (bad : List Nat) (s : State) :
    (poisonBlocks e bad s).pending = s.pending := by
  unfold poisonBlocks; grind [pend_forEach, pend_writeBlock]

@[simp] theorem pend_endDecode (e : InFlight) (j : CompJob) (s : State) :
    (endDecode e j s).pending = s.pending := by
  unfold endDecode; grind [pend_flushCopies, pend_endComp, pend_poisonBlocks]

@[simp] theorem pend_decodeStep (e : InFlight) (j : CompJob) (s : State) :
    (decodeStep e j s).pending = s.pending := by
  unfold decodeStep; grind [pend_setCjob, pend_endDecode]

@[simp] theorem pend_decodeBad (e : InFlight) (j : CompJob) (missing : Bool) (status : Nat) (next : Nat) (s : State) :
    (decodeBad e j missing status next s).pending = s.pending := by
  unfold decodeBad; grind [pend_satF, pend_forEach, pend_writeScalar, pend_decodeStep]

@[simp] theorem pend_decodeNext (e : InFlight) (j : CompJob) (s : State) :
    (decodeNext e j s).pending = s.pending := by
  unfold decodeNext; grind [pend_putLinear, pend_countBlock, pend_decodeStep, pend_decodeBad]

theorem pend_execCompBlockDecode (x : ContextNo) (s : State) :
    ∀ st, execCompBlockDecode x s = .next st → st.pending = s.pending := by
  intro st ht; unfold execCompBlockDecode at ht; grind [pend_decodeNext]

theorem pend_execTableInstall (x : ContextNo) (s : State) :
    ∀ st, execTableInstall x s = .next st → st.pending = s.pending := by
  intro st ht; unfold execTableInstall at ht; grind [pend_installTable, pend_countTable, pend_setCjob]

@[simp] theorem pend_startComp (e : InFlight) (s : State) :
    (startComp e s).pending = s.pending := by
  unfold startComp; grind [pend_winRead, pend_stageTensor, pend_setCtx, pend_endComp]

end Sys2Proof.Machine
end

