-- ==== Sys2Proof/Laws/PendCollCmds.lean ====
section
/-! SUPPORT. No operation of Machine/CollCmds.lean touches the queue of waiting commands. -/

namespace Sys2Proof.Machine

set_option Elab.async false

@[simp] theorem pend_startJob (e : InFlight) (s : State) :
    (startJob e s).pending = s.pending := by
  unfold startJob; grind [pend_forEach, pend_setFlight, pend_stageTensor, pend_collProgress, pend_drainAll]

@[simp] theorem pend_chargeColl (e : InFlight) (s : State) :
    (chargeColl e s).pending = s.pending := by
  unfold chargeColl; grind [pend_failCheck, pend_shadowEach, pend_startJob]

@[simp] theorem pend_enterEpoch (e : InFlight) (s : State) :
    (enterEpoch e s).pending = s.pending := by
  unfold enterEpoch; grind [pend_validated, pend_chargeColl]

@[simp] theorem pend_beginColl (e : InFlight) (s : State) :
    (beginColl e s).pending = s.pending := by
  unfold beginColl; grind [pend_validated, pend_enterEpoch]

@[simp] theorem pend_releaseHeld (s : State) :
    (releaseHeld s).pending = s.pending := by
  unfold releaseHeld; grind [pend_forEach, pend_enterEpoch]

@[simp] theorem pend_takeColl (op : Nat) (q : QueueNo) (d : Desc) (s : State) :
    (takeColl op q d s).pending = s.pending := by
  unfold takeColl; grind [pend_takeRing, pend_beginColl]

theorem pend_execCollAllreduce (q : QueueNo) (d : Desc) (s : State) :
    ∀ st, execCollAllreduce q d s = .next st → st.pending = s.pending := by
  intro st ht; unfold execCollAllreduce at ht; grind [pend_takeColl]

theorem pend_execCollReducescatter (q : QueueNo) (d : Desc) (s : State) :
    ∀ st, execCollReducescatter q d s = .next st → st.pending = s.pending := by
  intro st ht; unfold execCollReducescatter at ht; grind [pend_takeColl]

theorem pend_execCollAllgather (q : QueueNo) (d : Desc) (s : State) :
    ∀ st, execCollAllgather q d s = .next st → st.pending = s.pending := by
  intro st ht; unfold execCollAllgather at ht; grind [pend_takeColl]

theorem pend_execCollBroadcast (q : QueueNo) (d : Desc) (s : State) :
    ∀ st, execCollBroadcast q d s = .next st → st.pending = s.pending := by
  intro st ht; unfold execCollBroadcast at ht; grind [pend_takeColl]

theorem pend_execCollSend (q : QueueNo) (d : Desc) (s : State) :
    ∀ st, execCollSend q d s = .next st → st.pending = s.pending := by
  intro st ht; unfold execCollSend at ht; grind [pend_takeColl]

theorem pend_execCollRecv (q : QueueNo) (d : Desc) (s : State) :
    ∀ st, execCollRecv q d s = .next st → st.pending = s.pending := by
  intro st ht; unfold execCollRecv at ht; grind [pend_takeColl]

theorem pend_execCollDigcmp (q : QueueNo) (d : Desc) (s : State) :
    ∀ st, execCollDigcmp q d s = .next st → st.pending = s.pending := by
  intro st ht; unfold execCollDigcmp at ht; grind [pend_takeColl]

@[simp] theorem pend_reduceNow (j : CollJob) (v : Nat) (s : State) :
    (reduceNow j v s).pending = s.pending := by
  unfold reduceNow; grind [pend_setSticky, pend_setColl, pend_collProgress]

theorem pend_execCollBlockReduce (tag : Nat) (block : Nat) (s : State) :
    ∀ st, execCollBlockReduce tag block s = .next st → st.pending = s.pending := by
  intro st ht; unfold execCollBlockReduce at ht; grind [pend_reduceNow]

theorem pend_execCollDone (tag : Nat) (node : Nat) (s : State) :
    ∀ st, execCollDone tag node s = .next st → st.pending = s.pending := by
  intro st ht; unfold execCollDone at ht; grind [pend_setColl, pend_gatherDone]

theorem pend_execCollCommit (tag : Nat) (s : State) :
    ∀ st, execCollCommit tag s = .next st → st.pending = s.pending := by
  intro st ht; unfold execCollCommit at ht; grind [pend_commitColl]

end Sys2Proof.Machine
end

