-- ==== Sys2Proof/Laws/PendMembership.lean ====
section
/-! SUPPORT. No operation of Machine/Membership.lean touches the queue of waiting commands. -/

namespace Sys2Proof.Machine

set_option Elab.async false

@[simp] theorem pend_setNdState (v : Nat) (s : State) :
    (setNdState v s).pending = s.pending := by
  unfold setNdState; grind [pend_setF]

@[simp] theorem pend_setNd (f : NdAux → NdAux) (s : State) :
    (setNd f s).pending = s.pending := by
  unfold setNd; grind []

@[simp] theorem pend_cmdErr (s : State) :
    (cmdErr s).pending = s.pending := by
  unfold cmdErr; grind [pend_setF]

@[simp] theorem pend_postMember (tgt : Nat) (p : MemberPacket) (s : State) :
    (postMember tgt p s).pending = s.pending := by
  unfold postMember; grind [pend_emit]

@[simp] theorem pend_sendMember (tgt : Nat) (b : MemberBody) (s : State) :
    (sendMember tgt b s).pending = s.pending := by
  unfold sendMember; grind [pend_postMember]

@[simp] theorem pend_refuse (node : Nat) (s : State) :
    (refuse node s).pending = s.pending := by
  unfold refuse; grind [pend_setNd, pend_sendMember]

@[simp] theorem pend_refuseAll (s : State) :
    (refuseAll s).pending = s.pending := by
  unfold refuseAll; grind [pend_setF, pend_forEach, pend_refuse]

@[simp] theorem pend_showEpoch (epoch : Nat) (ms : List Member) (s : State) :
    (showEpoch epoch ms s).pending = s.pending := by
  unfold showEpoch; grind [pend_setF, pend_setNdState]

@[simp] theorem pend_dropStale (w : Nat) (s : State) :
    (dropStale w s).pending = s.pending := by
  unfold dropStale; grind [pend_satF, pend_setDw]

@[simp] theorem pend_openConns (ms : List Member) (s : State) :
    (openConns ms s).pending = s.pending := by
  unfold openConns; grind [pend_forEach, pend_dropStale]

@[simp] theorem pend_adoptEpoch (epoch : Nat) (ms : List Member) (s : State) :
    (adoptEpoch epoch ms s).pending = s.pending := by
  unfold adoptEpoch; grind [pend_setF, pend_trace, pend_releaseHeld, pend_setNd, pend_refuseAll, pend_showEpoch, pend_openConns]

@[simp] theorem pend_endColls (s : State) :
    (endColls s).pending = s.pending := by
  unfold endColls; grind [pend_forEach, pend_failColl, pend_commitColl, pend_endCarriage]

@[simp] theorem pend_finishChange (s : State) :
    (finishChange s).pending = s.pending := by
  unfold finishChange; grind [pend_forEach, pend_sendMember, pend_adoptEpoch]

@[simp] theorem pend_runChange (ms : List Member) (leavers : List Member) (s : State) :
    (runChange ms leavers s).pending = s.pending := by
  unfold runChange; grind [pend_forEach, pend_setNdState, pend_setNd, pend_sendMember, pend_endColls, pend_finishChange]

@[simp] theorem pend_nextChange (fuel : Nat) (s : State) : (nextChange fuel s).pending = s.pending := by
  induction fuel generalizing s with
  | zero => rfl
  | succ k ih => unfold nextChange; grind [pend_setNd, pend_runChange]

@[simp] theorem pend_showJoiner (s : State) :
    (showJoiner s).pending = s.pending := by
  unfold showJoiner; grind [pend_setF, pend_forEach]

@[simp] theorem pend_proceed (s : State) :
    (proceed s).pending = s.pending := by
  unfold proceed; grind [pend_nextChange, pend_showJoiner]

@[simp] theorem pend_memberFailed (node : Nat) (s : State) :
    (memberFailed node s).pending = s.pending := by
  unfold memberFailed; grind [pend_setF, pend_runChange]

@[simp] theorem pend_withFailures (f : State → State) (s : State) (h_f : ∀ x0, (f x0).pending = x0.pending) :
    (withFailures f s).pending = s.pending := by
  unfold withFailures; grind [pend_forEach, pend_memberFailed]

theorem pend_execPacketAck (w : DoorwayNo) (pkt : List Byte) (ce : Bool) (s : State) :
    ∀ st, execPacketAck w pkt ce s = .next st → st.pending = s.pending := by
  intro st ht; unfold execPacketAck at ht; grind [pend_packetAck, pend_withFailures]

theorem pend_execPacketNack (w : DoorwayNo) (pkt : List Byte) (ce : Bool) (s : State) :
    ∀ st, execPacketNack w pkt ce s = .next st → st.pending = s.pending := by
  intro st ht; unfold execPacketNack at ht; grind [pend_packetNack, pend_withFailures]

theorem pend_execRtoExpiry (w : DoorwayNo) (peer : Nat) (s : State) :
    ∀ st, execRtoExpiry w peer s = .next st → st.pending = s.pending := by
  intro st ht; unfold execRtoExpiry at ht; grind [pend_rtoExpiry, pend_withFailures]

theorem pend_execNdctlForm (s : State) :
    ∀ st, execNdctlForm s = .next st → st.pending = s.pending := by
  intro st ht; unfold execNdctlForm at ht; grind [pend_hostWrite, pend_setNd, pend_cmdErr, pend_showEpoch, pend_openConns]

theorem pend_execNdctlJoin (s : State) :
    ∀ st, execNdctlJoin s = .next st → st.pending = s.pending := by
  intro st ht; unfold execNdctlJoin at ht; grind [pend_drawRandom, pend_hostWrite, pend_setNdState, pend_setNd, pend_cmdErr, pend_sendMember]

theorem pend_execNdctlLeave (s : State) :
    ∀ st, execNdctlLeave s = .next st → st.pending = s.pending := by
  intro st ht; unfold execNdctlLeave at ht; grind [pend_hostWrite, pend_setNdState, pend_setNd, pend_cmdErr, pend_sendMember, pend_refuseAll, pend_adoptEpoch, pend_endColls]

theorem pend_takeJoiner (s : State) :
    (takeJoiner s).2.pending = s.pending := by
  unfold takeJoiner; grind [pend_setF]

theorem pend_execNdctlApprove (s : State) :
    ∀ st, execNdctlApprove s = .next st → st.pending = s.pending := by
  intro st ht; unfold execNdctlApprove at ht; grind [pend_hostWrite, pend_setNd, pend_cmdErr, pend_proceed, pend_takeJoiner]

theorem pend_execNdctlDeny (s : State) :
    ∀ st, execNdctlDeny s = .next st → st.pending = s.pending := by
  intro st ht; unfold execNdctlDeny at ht; grind [pend_hostWrite, pend_cmdErr, pend_refuse, pend_proceed, pend_takeJoiner]

theorem pend_execNdctlEvict (s : State) :
    ∀ st, execNdctlEvict s = .next st → st.pending = s.pending := by
  intro st ht; unfold execNdctlEvict at ht; grind [pend_hostWrite, pend_setNd, pend_cmdErr, pend_proceed]

theorem pend_execNdselfWrite (node : Nat) (s : State) :
    ∀ st, execNdselfWrite node s = .next st → st.pending = s.pending := by
  intro st ht; unfold execNdselfWrite at ht; grind [pend_setF, pend_regAccessError, pend_hostWrite]

@[simp] theorem pend_helloHere (p : MemberPacket) (j : Member) (cert : List Byte) (nonce : List Byte) (s : State) :
    (helloHere p j cert nonce s).pending = s.pending := by
  unfold helloHere; grind [pend_drawRandom, pend_setNd, pend_sendMember, pend_refuse]

theorem pend_execHello (p : MemberPacket) (s : State) :
    ∀ st, execHello p s = .next st → st.pending = s.pending := by
  intro st ht; unfold execHello at ht; grind [pend_helloHere, pend_postMember]

@[simp] theorem pend_joinRefused (s : State) :
    (joinRefused s).pending = s.pending := by
  unfold joinRefused; grind [pend_setF, pend_setNdState, pend_setNd]

theorem pend_execChallenge (p : MemberPacket) (s : State) :
    ∀ st, execChallenge p s = .next st → st.pending = s.pending := by
  intro st ht; unfold execChallenge at ht; grind [pend_setNd, pend_sendMember, pend_joinRefused]

theorem pend_execProof (p : MemberPacket) (s : State) :
    ∀ st, execProof p s = .next st → st.pending = s.pending := by
  intro st ht; unfold execProof at ht; grind [pend_setNd, pend_refuse, pend_showJoiner]

theorem pend_execPrepare (p : MemberPacket) (s : State) :
    ∀ st, execPrepare p s = .next st → st.pending = s.pending := by
  intro st ht; unfold execPrepare at ht; grind [pend_setNdState, pend_setNd, pend_sendMember, pend_endColls]

theorem pend_execReady (p : MemberPacket) (s : State) :
    ∀ st, execReady p s = .next st → st.pending = s.pending := by
  intro st ht; unfold execReady at ht; grind [pend_setNd, pend_finishChange, pend_proceed]

theorem pend_execCommit (p : MemberPacket) (s : State) :
    ∀ st, execCommit p s = .next st → st.pending = s.pending := by
  intro st ht; unfold execCommit at ht; grind [pend_adoptEpoch, pend_proceed]

theorem pend_execRefused (p : MemberPacket) (s : State) :
    ∀ st, execRefused p s = .next st → st.pending = s.pending := by
  intro st ht; unfold execRefused at ht; grind [pend_joinRefused]

theorem pend_execHandover (p : MemberPacket) (s : State) :
    ∀ st, execHandover p s = .next st → st.pending = s.pending := by
  intro st ht; unfold execHandover at ht; grind [pend_setF, pend_setNd, pend_proceed]

end Sys2Proof.Machine
end

