-- ==== Sys2Proof/Laws/PendCheck.lean ====
section
/-! SUPPORT. No operation of Machine/Check.lean touches the queue of waiting commands. -/

namespace Sys2Proof.Machine

set_option Elab.async false

@[simp] theorem pend_setRun (u : Nat) (run : Nat) (s : State) :
    (setRun u run s).pending = s.pending := by
  unfold setRun; grind [pend_setF]

@[simp] theorem pend_ckLimit (u : Nat) (s : State) :
    (ckLimit u s).pending = s.pending := by
  unfold ckLimit; grind [pend_setF, pend_errRecord]

theorem pend_execCheckByte (u : CheckNo) (tap : Nat) (key : Nat) (b : Byte) (s : State) :
    ∀ st, execCheckByte u tap key b s = .next st → st.pending = s.pending := by
  intro st ht; unfold execCheckByte at ht; grind [pend_addF, pend_peep, pend_setRun, pend_ckLimit]

@[simp] theorem pend_armCheck (id : Nat) (k : Nat) (s : State) :
    (armCheck id k s).pending = s.pending := by
  unfold armCheck; grind [pend_setF]

@[simp] theorem pend_feedCheck (id : Nat) (k : Nat) (h : Nat) (bs : List Byte) (s : State) :
    (feedCheck id k h bs s).pending = s.pending := by
  unfold feedCheck; grind [pend_setF, pend_forEach, pend_peep, pend_setRun]

@[simp] theorem pend_ckWrite (u : Nat) (f : State → State) (s : State) (h_f : ∀ x0, (f x0).pending = x0.pending) :
    (ckWrite u f s).pending = s.pending := by
  unfold ckWrite; grind [pend_hostWrite]

theorem pend_execCkctlInit (u : CheckNo) (s : State) :
    ∀ st, execCkctlInit u s = .next st → st.pending = s.pending := by
  intro st ht; unfold execCkctlInit at ht; grind [pend_setF, pend_setRun, pend_ckWrite]

theorem pend_execCkctlArm (u : CheckNo) (on : Bool) (s : State) :
    ∀ st, execCkctlArm u on s = .next st → st.pending = s.pending := by
  intro st ht; unfold execCkctlArm at ht; grind [pend_setF, pend_ckWrite]

@[simp] theorem pend_checkWrite (u : Nat) (r : CheckReg) (value : Nat) (s : State) :
    (checkWrite u r value s).pending = s.pending := by
  unfold checkWrite; grind [pend_setF, pend_dropHeld, pend_regAccessError, pend_setRun]

theorem pend_execCheckStateWrite (u : CheckNo) (r : CheckReg) (value : Nat) (s : State) :
    ∀ st, execCheckStateWrite u r value s = .next st → st.pending = s.pending := by
  intro st ht; unfold execCheckStateWrite at ht; grind [pend_ckWrite, pend_checkWrite]

end Sys2Proof.Machine
end

