-- ==== Sys2Proof/Laws/PendSweep.lean ====
section
/-! SUPPORT. No operation of Machine/Sweep.lean touches the queue of waiting commands. -/

namespace Sys2Proof.Machine

set_option Elab.async false

@[simp] theorem pend_putStepTag (t : Tensor) (pane : Nat) (v : Nat) (s : State) :
    (putStepTag t pane v s).pending = s.pending := by
  unfold putStepTag; grind [pend_memPutCells]

@[simp] theorem pend_putShardTag (t : Tensor) (i : Nat) (v : Nat) (s : State) :
    (putShardTag t i v s).pending = s.pending := by
  unfold putShardTag; grind [pend_putStepTag]

@[simp] theorem pend_startSweep (e : InFlight) (s : State) :
    (startSweep e s).pending = s.pending := by
  unfold startSweep; grind [pend_setF, pend_forEach, pend_setFlight, pend_finish, pend_replayGroups, pend_armCheck]

@[simp] theorem pend_beginSweep (e : InFlight) (s : State) :
    (beginSweep e s).pending = s.pending := by
  unfold beginSweep; grind [pend_failCheck, pend_validated, pend_chargeAll, pend_startSweep]

theorem pend_execSweep (q : QueueNo) (d : Desc) (s : State) :
    ∀ st, execSweep q d s = .next st → st.pending = s.pending := by
  intro st ht; unfold execSweep at ht; grind [pend_takeRing, pend_beginSweep]

@[simp] theorem pend_swStage (c : Nat) (owner : Nat) (t : Tensor) (panes : List Nat) (s : State) :
    (swStage c owner t panes s).pending = s.pending := by
  unfold swStage; grind [pend_forEach, pend_peep, pend_moverRead, pend_upsertCopy, pend_peepPort]

@[simp] theorem pend_swUnstage (c : Nat) (owner : Nat) (s : State) :
    (swUnstage c owner s).pending = s.pending := by
  unfold swUnstage; grind []

@[simp] theorem pend_swFlush (c owner : Nat) (hs : List Nat) (s : State) : (swFlush c owner hs s).1.pending = s.pending := by
  unfold swFlush; exact pend_foldl _ _ _ (fun b x => by simp)

@[simp] theorem pend_journalPane (c : Nat) (k : Nat) (tag : Tensor → Nat → Nat) (w : WorkCopy) (s : State) :
    (journalPane c k tag w s).1.pending = s.pending := by
  unfold journalPane; grind [pend_mergeCopy, pend_slotForWrite]

@[simp] theorem pend_commitGroup (c owner : Nat) (hs : List Nat) (tag : Tensor → Nat → Nat) (record : Option (Nat × SweepRec)) (s : State) :
    (commitGroup c owner hs tag record s).1.pending = s.pending := by
  unfold commitGroup; dsimp only
  have h : ∀ l : List WorkCopy, (l.foldl (fun (a : State × List JournalPane × Nat) w =>
      if a.2.2 ≠ 0 then a
      else ((journalPane c a.2.1.length tag w a.1).1, a.2.1 ++ (journalPane c a.2.1.length tag w a.1).2.1,
        (journalPane c a.2.1.length tag w a.1).2.2)) (replayGroups c s, [], 0)).1.pending = s.pending := fun l =>
    (pend_foldl l _ _ (fun b x => by split <;> simp)).trans (pend_replayGroups c s)
  exact ite_keep (P := fun x : State × Nat => x.1.pending = s.pending) (h _) (h _)

@[simp] theorem pend_setJob (id : Nat) (f : SweepJob → SweepJob) (s : State) :
    (setJob id f s).pending = s.pending := by
  unfold setJob; grind []

@[simp] theorem pend_sweepTrace (c : Nat) (event : Nat) (handle : Nat) (shard : Nat) (s : State) :
    (sweepTrace c event handle shard s).pending = s.pending := by
  unfold sweepTrace; grind [pend_trace]

@[simp] theorem pend_factorPane (c : Nat) (e : InFlight) (k : SwConst) (b : List Byte) (row : Bool) (i : Nat) (s : State) :
    (factorPane c e k b row i s).1.pending = s.pending := by
  have hf : ∀ (l : List Nat) (g : State × Nat × Bool → Nat → State × Nat × Bool), (∀ b x, (g b x).1.pending = b.1.pending) →
      (l.foldl g (s, 0, false)).1.pending = s.pending := fun l g hg => pend_foldl l g _ hg
  unfold factorPane; dsimp only
  refine ite_keep (P := fun x : State => x.pending = s.pending) ?_ ?_
  · rw [pend_peep, pend_replayGroups, pend_commitGroup]; exact hf _ _ (fun b x => by simp)
  · rw [pend_commitGroup]; exact hf _ _ (fun b x => by simp)

@[simp] theorem pend_tagBad (s : State) :
    (tagBad s).pending = s.pending := by
  unfold tagBad; grind [pend_satF]

@[simp] theorem pend_factorUnit (c : Nat) (e : InFlight) (k : SwConst) (n : Nat) (b : List Byte) (row : Bool) (i : Nat) (s : State) :
    (factorUnit c e k n b row i s).1.pending = s.pending := by
  unfold factorUnit; grind [pend_swStage, pend_setJob, pend_factorPane, pend_tagBad]

@[simp] theorem pend_stageShard (c : Nat) (owner : Nat) (b : List Byte) (i : Nat) (s : State) :
    (stageShard c owner b i s).pending = s.pending := by
  unfold stageShard; grind [pend_swStage]

@[simp] theorem pend_shardMoments (c : Nat) (e : InFlight) (k : SwConst) (b : List Byte) (i rec1 : Nat) (s : State) :
    (shardMoments c e k b i rec1 s).1.pending = s.pending := by
  have hf : ∀ (l : List (List Nat)) (g : State × Nat × Bool → List Nat → State × Nat × Bool), (∀ b x, (g b x).1.pending = b.1.pending) →
      (l.foldl g (stageShard c e.id b i s, 0, false)).1.pending = s.pending := fun l g hg => (pend_foldl l g _ hg).trans (pend_stageShard _ _ _ _ _)
  unfold shardMoments; dsimp only
  refine ite_keep (P := fun x : State × Bool × Nat => x.1.pending = s.pending) ?_ ?_
  · dsimp only; rw [pend_swUnstage, pend_commitGroup]; exact hf _ _ (fun b x => by split <;> simp)
  · dsimp only; rw [pend_swUnstage, pend_sweepTrace, pend_peep, pend_commitGroup]; exact hf _ _ (fun b x => by split <;> simp)

@[simp] theorem pend_putWorking (c owner : Nat) (flush : Bool) (t : Tensor) (i : Nat) (val : List Nat → Num × Bool) (s : State) :
    (putWorking c owner flush t i val s).1.pending = s.pending := by
  unfold putWorking; dsimp only; split <;> exact pend_foldl _ _ _ (fun b x => by simp)

@[simp] theorem pend_layerOpen (layer : Nat) (s : State) :
    (layerOpen layer s).pending = s.pending := by
  unfold layerOpen; grind []

@[simp] theorem pend_shardWeights (c : Nat) (e : InFlight) (k : SwConst) (b : List Byte) (i : Nat) (rec1 : Nat) (prior : Nat) (s : State) :
    (shardWeights c e k b i rec1 prior s).1.pending = s.pending := by
  unfold shardWeights; grind [pend_forEach, pend_peep, pend_replayGroups, pend_putElem, pend_feedCheck, pend_swUnstage, pend_swFlush, pend_commitGroup, pend_sweepTrace, pend_stageShard, pend_putWorking, pend_layerOpen]

@[simp] theorem pend_zeroShard (c : Nat) (e : InFlight) (b : List Byte) (i : Nat) (s : State) :
    (zeroShard c e b i s).1.pending = s.pending := by
  unfold zeroShard; grind [pend_forEach, pend_putElem, pend_swUnstage, pend_swFlush]

@[simp] theorem pend_loseStats (c : Nat) (b : List Byte) (i : Nat) (s : State) : (loseStats c b i s).pending = s.pending := by
  simp [loseStats]

@[simp] theorem pend_finishShard (c : Nat) (e : InFlight) (k : SwConst) (b : List Byte) (mid : Bool) (i : Nat) (rec1 : Nat) (s : State) :
    (finishShard c e k b mid i rec1 s).1.pending = s.pending := by
  unfold finishShard; grind [pend_setF, pend_loseStats, pend_satF, pend_setJob, pend_sweepTrace, pend_tagBad, pend_shardWeights, pend_zeroShard]

@[simp] theorem pend_sweepGather (id : Nat) (n : Nat) (status : Nat) (flags : Nat) (s : State) :
    (sweepGather id n status flags s).pending = s.pending := by
  unfold sweepGather; grind [pend_endPart, pend_orPart, pend_setSticky]

@[simp] theorem pend_setSwPart (id : Nat) (n : Nat) (f : SweepPart → SweepPart) (s : State) :
    (setSwPart id n f s).pending = s.pending := by
  unfold setSwPart; grind [pend_setJob]

@[simp] theorem pend_unitDone (c : Nat) (id : Nat) (n : Nat) (factor : Bool) (u : Nat) (status : Nat) (flags : Nat) (s : State) :
    (unitDone c id n factor u status flags s).pending = s.pending := by
  unfold unitDone; grind [pend_peep, pend_setJob, pend_sweepGather, pend_setSwPart]

@[simp] theorem pend_runUnit (c : Nat) (e : InFlight) (j : SweepJob) (n : Nat) (p : SweepPart) (factor : Bool) (u : Nat) (s : State) :
    (runUnit c e j n p factor u s).pending = s.pending := by
  unfold runUnit; dsimp only; (repeat' split) <;> simp [pend_forEach, pend_peep, pend_orPart, pend_swUnstage, pend_setJob, pend_factorUnit, pend_shardMoments, pend_zeroShard, pend_finishShard, pend_setSwPart, pend_unitDone]

theorem pend_execSweepUnit (c : ClusterNo) (s : State) :
    ∀ st, execSweepUnit c s = .next st → st.pending = s.pending := by
  intro st ht; unfold execSweepUnit at ht; grind [pend_runUnit]

theorem pend_execSweepPrefetch (c : ClusterNo) (s : State) :
    ∀ st, execSweepPrefetch c s = .next st → st.pending = s.pending := by
  intro st ht; unfold execSweepPrefetch at ht; simp only [Host.Outcome.next.injEq] at ht; subst ht; (repeat' split) <;> simp [pend_forEach, pend_swStage, pend_swUnstage, pend_setJob]

theorem pend_execSweepFactorPhaseEnd (s : State) :
    ∀ st, execSweepFactorPhaseEnd s = .next st → st.pending = s.pending := by
  intro st ht; unfold execSweepFactorPhaseEnd at ht; grind [pend_forEach, pend_setJob, pend_sweepGather]

@[simp] theorem pend_countZero (layer : Nat) (zero : Bool) (s : State) :
    (countZero layer zero s).pending = s.pending := by
  unfold countZero; grind [pend_setF, pend_errRecord]

@[simp] theorem pend_commitLayer (j : SweepJob) (e : InFlight) (layer : Nat) (s : State) :
    (commitLayer j e layer s).pending = s.pending := by
  unfold commitLayer; grind [pend_setJob, pend_countZero]

theorem pend_execSweepLayerComplete (layer : Nat) (s : State) :
    ∀ st, execSweepLayerComplete layer s = .next st → st.pending = s.pending := by
  intro st ht; unfold execSweepLayerComplete at ht; grind [pend_commitLayer]

end Sys2Proof.Machine
end

