-- ==== Sys2Proof/Laws/PendChkp.lean ====
section
/-! SUPPORT. No operation of Machine/Chkp.lean touches the queue of waiting commands. -/

namespace Sys2Proof.Machine

set_option Elab.async false

@[simp] theorem pend_digestPart (c : Nat) (e : InFlight) (lo hi : Nat) (s : State) : (digestPart c e lo hi s).1.pending = s.pending := by
  unfold digestPart; dsimp only; rw [pend_flushCopies]
  refine (pend_foldl _ _ _ (fun b x => ?_)).trans (pend_armCheck _ _ _)
  dsimp only
  rw [pend_writeScalar, pend_feedCheck]
  refine pend_forEach _ _ _ (fun p s => ?_)
  split <;> simp

@[simp] theorem pend_beginDigest (e : InFlight) (s : State) : (beginDigest e s).pending = s.pending := by
  unfold beginDigest
  refine pend_validated _ _ _ _ (fun s => pend_chargeThen _ _ _ _ _ (fun s => ?_))
  dsimp only; rw [pend_setFlight]
  exact pend_foldl _ _ _ (fun b x => by split <;> simp)

theorem pend_execDigest (q : QueueNo) (d : Desc) (s : State) :
    ∀ st, execDigest q d s = .next st → st.pending = s.pending := by
  intro st ht; unfold execDigest at ht; grind [pend_takeRing, pend_beginDigest]

@[simp] theorem pend_putPersist (p : Nat) (unit : Nat) (bs : List Byte) (s : State) :
    (putPersist p unit bs s).1.pending = s.pending := by
  unfold putPersist; grind [pend_memWrite, pend_healRange, pend_programWhole]

@[simp] theorem pend_exportWork (e : InFlight) (s : State) :
    (exportWork e s).pending = s.pending := by
  unfold exportWork; grind [pend_forEach, pend_emit, pend_drawFree, pend_winWrite, pend_stageTensor, pend_endWhole, pend_putPersist]

@[simp] theorem pend_ckSource (e : InFlight) (s : State) :
    (ckSource e s).2.pending = s.pending := by
  unfold ckSource; grind [pend_peep, pend_winRead]

@[simp] theorem pend_importRecord (e : InFlight) (c : CkSource) (k : CkTensor) (i : Nat) (s : State) :
    (importRecord e c k i s).1.pending = s.pending := by
  unfold importRecord; dsimp only; (repeat' split) <;> simp [pend_writeScalar, pend_writeBlock]

@[simp] theorem pend_importTag (t : Tensor) (i : Nat) (v : Nat) (s : State) :
    (importTag t i v s).pending = s.pending := by
  unfold importTag; grind [pend_putStepTag, pend_putShardTag]

@[simp] theorem pend_importTensor (e : InFlight) (c : CkSource) (k : CkTensor) (s : State) :
    (importTensor e c k s).1.pending = s.pending := by
  unfold importTensor; (repeat' split) <;> simp [pend_forEach, pend_flushCopies, pend_importRecord, pend_importTag]

@[simp] theorem pend_loseHist (e : InFlight) (c : CkSource) (status : Nat) (s : State) :
    (loseHist e c status s).pending = s.pending := by
  unfold loseHist; grind [pend_setF, pend_errRecord]

@[simp] theorem pend_restoreHist (e : InFlight) (c : CkSource) (status : Nat) (sec : Option (Nat × Nat)) (s : State) :
    (restoreHist e c status sec s).pending = s.pending := by
  unfold restoreHist; grind [pend_loseHist]

@[simp] theorem pend_restoreSteer (c : CkSource) (status : Nat) (sec : Option (Nat × Nat)) (s : State) :
    (restoreSteer c status sec s).pending = s.pending := by
  unfold restoreSteer; grind [pend_setF, pend_forEach, pend_errRecord]

@[simp] theorem pend_importWork (e : InFlight) (s : State) :
    (importWork e s).pending = s.pending := by
  unfold importWork; dsimp only; (repeat' split) <;> simp [pend_endWhole, pend_ckSource, pend_importTensor, pend_restoreHist, pend_restoreSteer]

@[simp] theorem pend_beginChkp (e : InFlight) (s : State) :
    (beginChkp e s).pending = s.pending := by
  unfold beginChkp; grind [pend_failCheck, pend_validated, pend_exportWork, pend_importWork, pend_chargeAll]

@[simp] theorem pend_takeChkp (op : Nat) (q : QueueNo) (d : Desc) (s : State) :
    (takeChkp op q d s).pending = s.pending := by
  unfold takeChkp; grind [pend_takeRing, pend_beginChkp]

theorem pend_execChkpExport (q : QueueNo) (d : Desc) (s : State) :
    ∀ st, execChkpExport q d s = .next st → st.pending = s.pending := by
  intro st ht; unfold execChkpExport at ht; grind [pend_takeChkp]

theorem pend_execChkpImport (q : QueueNo) (d : Desc) (s : State) :
    ∀ st, execChkpImport q d s = .next st → st.pending = s.pending := by
  intro st ht; unfold execChkpImport at ht; grind [pend_takeChkp]

theorem pend_execChkpCarriageReceive (src : Nat) (image : List Byte) (s : State) :
    ∀ st, execChkpCarriageReceive src image s = .next st → st.pending = s.pending := by
  intro st ht; unfold execChkpCarriageReceive at ht; grind [pend_setF, pend_putPersist]

theorem pend_execPhaseCounterTick (s : State) :
    ∀ st, execPhaseCounterTick s = .next st → st.pending = s.pending := by
  intro st ht; unfold execPhaseCounterTick at ht; simp only [Host.Outcome.next.injEq] at ht; subst ht; (repeat' split) <;> simp []

theorem pend_execPhctlSnap (s : State) :
    ∀ st, execPhctlSnap s = .next st → st.pending = s.pending := by
  intro st ht; unfold execPhctlSnap at ht; grind [pend_hostWrite, pend_snapPhases]

end Sys2Proof.Machine
end

