-- ==== Sys2Proof/Laws/PendQueueCmds.lean ====
section
/-! SUPPORT. No operation of Machine/QueueCmds.lean touches the queue of waiting commands. -/

namespace Sys2Proof.Machine

set_option Elab.async false

@[simp] theorem pend_doorbellError (q : Nat) (s : State) :
    (doorbellError q s).pending = s.pending := by
  unfold doorbellError; grind [pend_setF, pend_regAccessError]

theorem pend_execSqtail (q : QueueNo) (value : Nat) (s : State) :
    ∀ st, execSqtail q value s = .next st → st.pending = s.pending := by
  intro st ht; unfold execSqtail at ht; grind [pend_setF, pend_hostWrite, pend_doorbellError]

theorem pend_execCqhead (q : QueueNo) (value : Nat) (s : State) :
    ∀ st, execCqhead q value s = .next st → st.pending = s.pending := by
  intro st ht; unfold execCqhead at ht; grind [pend_setF, pend_hostWrite, pend_doorbellError]

@[simp] theorem pend_beginWait (e : InFlight) (s : State) :
    (beginWait e s).pending = s.pending := by
  unfold beginWait; grind [pend_setFlight, pend_recount, pend_finish, pend_validated]

@[simp] theorem pend_beginSignal (e : InFlight) (s : State) :
    (beginSignal e s).pending = s.pending := by
  unfold beginSignal; grind [pend_setFlight, pend_validated]

theorem pend_execSignalApply (port : Nat) (s : State) :
    ∀ st, execSignalApply port s = .next st → st.pending = s.pending := by
  intro st ht; unfold execSignalApply at ht; grind [pend_setF, pend_trace, pend_finish, pend_completeWaits]

@[simp] theorem pend_fenceWrite (f : Nat) (value : Nat) (s : State) :
    (fenceWrite f value s).pending = s.pending := by
  unfold fenceWrite; grind [pend_dropHeld, pend_setFence]

theorem pend_execFenceWrite (f : FenceNo) (value : Nat) (s : State) :
    ∀ st, execFenceWrite f value s = .next st → st.pending = s.pending := by
  intro st ht; unfold execFenceWrite at ht; grind [pend_hostWrite, pend_fenceWrite]

theorem pend_execQirqTimer (q : QueueNo) (s : State) :
    ∀ st, execQirqTimer q s = .next st → st.pending = s.pending := by
  intro st ht; unfold execQirqTimer at ht; grind [pend_queueIrq]

@[simp] theorem pend_enableQueue (q : Nat) (latched : Bool) (s : State) :
    (enableQueue q latched s).pending = s.pending := by
  unfold enableQueue; grind [pend_setF, pend_setQaux, pend_queueError]

@[simp] theorem pend_stopQueue (q : Nat) (s : State) :
    (stopQueue q s).pending = s.pending := by
  unfold stopQueue; grind [pend_setF, pend_forEach, pend_finish]

theorem pend_execQctlEnable (q : QueueNo) (on : Bool) (s : State) :
    ∀ st, execQctlEnable q on s = .next st → st.pending = s.pending := by
  intro st ht; unfold execQctlEnable at ht; grind [pend_setF, pend_hostWrite, pend_enableQueue, pend_stopQueue]

theorem pend_execQueueDrained (q : QueueNo) (s : State) :
    ∀ st, execQueueDrained q s = .next st → st.pending = s.pending := by
  intro st ht; unfold execQueueDrained at ht; grind [pend_setF, pend_enableQueue]

theorem pend_execQbindWrite (q : QueueNo) (valid : Bool) (casement : Nat) (s : State) :
    ∀ st, execQbindWrite q valid casement s = .next st → st.pending = s.pending := by
  intro st ht; unfold execQbindWrite at ht; grind [pend_setF, pend_regAccessError, pend_hostWrite]

@[simp] theorem pend_setLog2 (f : Fld) (lo : Nat) (hi : Nat) (v : Nat) (s : State) :
    (setLog2 f lo hi v s).pending = s.pending := by
  unfold setLog2; grind [pend_setF, pend_regAccessError]

@[simp] theorem pend_ringWrite (q : Nat) (r : RingReg) (value : Nat) (s : State) :
    (ringWrite q r value s).pending = s.pending := by
  unfold ringWrite; grind [pend_setF, pend_dropHeld, pend_regAccessError, pend_setLog2]

theorem pend_execQueueRingWrite (q : QueueNo) (r : RingReg) (value : Nat) (s : State) :
    ∀ st, execQueueRingWrite q r value s = .next st → st.pending = s.pending := by
  intro st ht; unfold execQueueRingWrite at ht; grind [pend_hostWrite, pend_ringWrite]

theorem pend_execHostRequestFailure (q : QueueNo) (f : HostFailure) (s : State) :
    ∀ st, execHostRequestFailure q f s = .next st → st.pending = s.pending := by
  intro st ht; unfold execHostRequestFailure at ht; grind [pend_queueError]

end Sys2Proof.Machine
end

