-- ==== Sys2Proof/Laws/PendLoader.lean ====
section
/-! SUPPORT. No operation of Machine/Loader.lean touches the queue of waiting commands. -/

namespace Sys2Proof.Machine

set_option Elab.async false

@[simp] theorem pend_setImgState (v : Nat) (s : State) :
    (setImgState v s).pending = s.pending := by
  unfold setImgState; grind [pend_setF, pend_trace]

@[simp] theorem pend_loadFails (code : Nat) (sec : Nat) (rec : Nat) (s : State) :
    (loadFails code sec rec s).pending = s.pending := by
  unfold loadFails; grind [pend_setF, pend_setImgState]

@[simp] theorem pend_readImage (s : State) :
    (readImage s).pending = s.pending := by
  unfold readImage; grind [pend_emit, pend_loadFails, pend_forEach]

theorem pend_execImgLoad (s : State) :
    ∀ st, execImgLoad s = .next st → st.pending = s.pending := by
  intro st ht; unfold execImgLoad at ht; grind [pend_setF, pend_hostWrite, pend_setImgState, pend_loadFails, pend_readImage]

@[simp] theorem pend_startQuiesce (s : State) :
    (startQuiesce s).pending = s.pending := by
  unfold startQuiesce; grind [pend_setF, pend_setImgState]

theorem pend_execImgFetchDone (bytes : Option (List Byte)) (s : State) :
    ∀ st, execImgFetchDone bytes s = .next st → st.pending = s.pending := by
  intro st ht; unfold execImgFetchDone at ht; grind [pend_setImgState, pend_loadFails, pend_startQuiesce]

theorem pend_execImgUnload (s : State) :
    ∀ st, execImgUnload s = .next st → st.pending = s.pending := by
  intro st ht; unfold execImgUnload at ht; grind [pend_setF, pend_hostWrite, pend_startQuiesce]

theorem pend_execImgAbort (s : State) :
    ∀ st, execImgAbort s = .next st → st.pending = s.pending := by
  intro st ht; unfold execImgAbort at ht; grind [pend_hostWrite, pend_loadFails]

@[simp] theorem pend_freshPlacement (im : Option Image) (s : State) :
    (freshPlacement im s).pending = s.pending := by
  unfold freshPlacement; grind [pend_chargeWindow]

@[simp] theorem pend_freeAllPanes (s : State) :
    (freeAllPanes s).pending = s.pending := by
  unfold freeAllPanes; grind [pend_forEach, pend_freeSlotBytes]

@[simp] theorem pend_unbindQueue (q : Nat) (s : State) :
    (unbindQueue q s).pending = s.pending := by
  unfold unbindQueue; grind [pend_setF]

@[simp] theorem pend_writeBindings (l : List (Nat × Nat)) (s : State) :
    (writeBindings l s).pending = s.pending := by
  unfold writeBindings; grind [pend_setF, pend_forEach, pend_unbindQueue]

@[simp] theorem pend_writeArbiters (l : List (Nat × Nat × Nat × Nat)) (s : State) :
    (writeArbiters l s).pending = s.pending := by
  unfold writeArbiters; grind [pend_setF, pend_resetFields, pend_forEach]

@[simp] theorem pend_writeDoorways (l : List (Nat × Nat)) (s : State) :
    (writeDoorways l s).pending = s.pending := by
  unfold writeDoorways; grind [pend_setF, pend_orF, pend_forEach]

@[simp] theorem pend_showImage (im : Option Image) (s : State) :
    (showImage im s).pending = s.pending := by
  unfold showImage; grind [pend_setF, pend_setArray]

@[simp] theorem pend_installImage (im : Image) (p : LoadPlan) (s : State) :
    (installImage im p s).pending = s.pending := by
  unfold installImage; grind [pend_setF, pend_addF, pend_resetFields, pend_forEach, pend_setCart, pend_freeSlotBytes, pend_extend, pend_showCores, pend_showNode, pend_placed, pend_setVset, pend_setImgState, pend_freeAllPanes, pend_writeBindings, pend_writeArbiters, pend_writeDoorways, pend_showImage]

@[simp] theorem pend_unloadImage (s : State) : (unloadImage s).pending = s.pending := by
  have h1 : (freshPlacement none { freeAllPanes s with progs := [], hist := [], load := none }).pending = s.pending := by
    rw [pend_freshPlacement]; exact pend_freeAllPanes s
  have h2 : ∀ f x, State.pending x = s.pending → (resetFields fenceRegister (writeBindings [] (showImage none (placeImage f x).1))).pending = s.pending := by
    intro f x hx; rw [pend_resetFields, pend_writeBindings, pend_showImage, pend_placeImage, hx]
  have h3 : ∀ (a b c d : Fld) x, State.pending x = s.pending → (setF a 0 (setF b 0 (setF c 0 (setF d 0 x)))).pending = s.pending := by
    intro a b c d x hx; rw [pend_setF, pend_setF, pend_setF, pend_setF, hx]
  have h4 : ∀ (a b c : Fld) x, State.pending x = s.pending → (resetF a (resetF b (resetF c x))).pending = s.pending := by
    intro a b c x hx; rw [pend_resetF, pend_resetF, pend_resetF, hx]
  have h5 : ∀ (a b : Fld) x, State.pending x = s.pending → (setImgState 0 (setF a 0 (setF b 0 x))).pending = s.pending := by
    intro a b x hx; rw [pend_setImgState, pend_setF, pend_setF, hx]
  unfold unloadImage
  exact h5 _ _ _ (h4 _ _ _ _ (h3 _ _ _ _ _ (h2 _ _ h1)))

theorem pend_execImgQuiesced (s : State) :
    ∀ st, execImgQuiesced s = .next st → st.pending = s.pending := by
  intro st ht; unfold execImgQuiesced at ht; grind [pend_setF, pend_setImgState, pend_loadFails, pend_readImage, pend_unloadImage]

theorem pend_execImgRefetchDone (bytes : Option (List Byte)) (s : State) :
    ∀ st, execImgRefetchDone bytes s = .next st → st.pending = s.pending := by
  intro st ht; unfold execImgRefetchDone at ht; grind [pend_loadFails, pend_installImage]

@[simp] theorem pend_setProg (owner : Nat) (p : ProgState) (s : State) :
    (setProg owner p s).pending = s.pending := by
  unfold setProg; grind []

@[simp] theorem pend_beginAny (e : InFlight) (s : State) :
    (beginAny e s).pending = s.pending := by
  unfold beginAny; grind [pend_beginMma, pend_beginVop, pend_beginMove, pend_beginComp, pend_beginColl, pend_beginSweep, pend_beginDigest, pend_beginChkp, pend_beginWait, pend_beginSignal]

theorem pend_execProgramEntryTake (owner : Nat) (s : State) :
    ∀ st, execProgramEntryTake owner s = .next st → st.pending = s.pending := by
  intro st ht; unfold execProgramEntryTake at ht; grind [pend_enterFlight, pend_setProg, pend_beginAny]

end Sys2Proof.Machine
end

