-- ==== Sys2Proof/Laws/PendParts.lean ====
section
/-! SUPPORT. No operation of Machine/Parts.lean touches the queue of waiting commands. -/

namespace Sys2Proof.Machine

set_option Elab.async false

theorem pend_execInvalidOpcode (q : QueueNo) (d : Desc) (s : State) :
    ∀ st, execInvalidOpcode q d s = .next st → st.pending = s.pending := by
  intro st ht; unfold execInvalidOpcode at ht; grind [pend_takeRing, pend_beginAny]

theorem pend_execWait (q : QueueNo) (d : Desc) (s : State) :
    ∀ st, execWait q d s = .next st → st.pending = s.pending := by
  intro st ht; unfold execWait at ht; grind [pend_takeRing, pend_beginWait]

theorem pend_execSignalAdd (q : QueueNo) (d : Desc) (s : State) :
    ∀ st, execSignalAdd q d s = .next st → st.pending = s.pending := by
  intro st ht; unfold execSignalAdd at ht; grind [pend_takeRing, pend_beginSignal]

theorem pend_execSignalMax (q : QueueNo) (d : Desc) (s : State) :
    ∀ st, execSignalMax q d s = .next st → st.pending = s.pending := by
  intro st ht; unfold execSignalMax at ht; grind [pend_takeRing, pend_beginSignal]

@[simp] theorem pend_startMx (n : Nat) (e : InFlight) (p : Nat) (lo : Nat) (s : State) :
    (startMx n e p lo s).pending = s.pending := by
  unfold startMx; grind [pend_setF, pend_setMx]

@[simp] theorem pend_startVx (n : Nat) (e : InFlight) (p : Nat) (s : State) :
    (startVx n e p s).pending = s.pending := by
  unfold startVx; grind [pend_setF, pend_setVx]

theorem pend_execPartIssue (n : CoreNo) (s : State) :
    ∀ st, execPartIssue n s = .next st → st.pending = s.pending := by
  intro st ht; unfold execPartIssue at ht; grind [pend_peep, pend_trace, pend_setPart, pend_startComp, pend_startMx, pend_startVx]

@[simp] theorem pend_poisonPane (root : Tensor) (i : Nat) (s : State) :
    (poisonPane root i s).pending = s.pending := by
  unfold poisonPane; grind [pend_writePane]

@[simp] theorem pend_poisonBox (h : Nat) (lo : List Nat) (hi : List Nat) (s : State) :
    (poisonBox h lo hi s).pending = s.pending := by
  unfold poisonBox; grind [pend_forEach, pend_poisonPane]

@[simp] theorem pend_poisonOutput (e : InFlight) (p : Part) (s : State) :
    (poisonOutput e p s).pending = s.pending := by
  unfold poisonOutput; grind [pend_forEach, pend_poisonBox]

@[simp] theorem pend_finishParts (e : InFlight) (s : State) :
    (finishParts e s).pending = s.pending := by
  unfold finishParts; grind [pend_finish, pend_snapPhases]

@[simp] theorem pend_completePart (e : InFlight) (i : Nat) (p : Part) (s : State) :
    (completePart e i p s).pending = s.pending := by
  unfold completePart; grind [pend_addF, pend_peep, pend_trace, pend_setPart, pend_fillSequencer, pend_poisonOutput, pend_finishParts]

theorem pend_execPartComplete (id : Nat) (part : Nat) (s : State) :
    ∀ st, execPartComplete id part s = .next st → st.pending = s.pending := by
  intro st ht; unfold execPartComplete at ht; grind [pend_completePart]

end Sys2Proof.Machine
end

