-- ==== Sys2Proof/Laws/PendPeephole.lean ====
section
/-! SUPPORT. No operation of Machine/Peephole.lean touches the queue of waiting commands. -/

namespace Sys2Proof.Machine

set_option Elab.async false

theorem pend_execCntselWrite (c : CounterNo) (value : Nat) (s : State) :
    ∀ st, execCntselWrite c value s = .next st → st.pending = s.pending := by
  intro st ht; unfold execCntselWrite at ht; grind [pend_setF, pend_regAccessError, pend_hostWrite]

theorem pend_execCntselClr (c : CounterNo) (s : State) :
    ∀ st, execCntselClr c s = .next st → st.pending = s.pending := by
  intro st ht; unfold execCntselClr at ht; grind [pend_setF, pend_hostWrite]

theorem pend_execPeepCntclr (s : State) :
    ∀ st, execPeepCntclr s = .next st → st.pending = s.pending := by
  intro st ht; unfold execPeepCntclr at ht; grind [pend_hostWrite]

theorem pend_execTraceEnable (s : State) :
    ∀ st, execTraceEnable s = .next st → st.pending = s.pending := by
  intro st ht; unfold execTraceEnable at ht; grind [pend_setF, pend_hostWrite]

@[simp] theorem pend_traceIdle (s : State) :
    (traceIdle s).pending = s.pending := by
  unfold traceIdle; grind [pend_setF]

theorem pend_execTraceDisable (s : State) :
    ∀ st, execTraceDisable s = .next st → st.pending = s.pending := by
  intro st ht; unfold execTraceDisable at ht; grind [pend_setF, pend_hostWrite, pend_traceIdle]

@[simp] theorem pend_traceStore (rs : List TraceRec) (s : State) :
    (traceStore rs s).pending = s.pending := by
  unfold traceStore; grind [pend_setF, pend_emit, pend_hostWrite]

@[simp] theorem pend_traceMessage (n : Nat) (lost : Bool) (s : State) :
    (traceMessage n lost s).pending = s.pending := by
  unfold traceMessage; grind [pend_sendMsix]

@[simp] theorem pend_traceDropHead (r : TraceRec) (s : State) :
    (traceDropHead r s).pending = s.pending := by
  unfold traceDropHead; grind [pend_traceDrop]

theorem pend_execTraceRingWrite (s : State) :
    ∀ st, execTraceRingWrite s = .next st → st.pending = s.pending := by
  intro st ht; unfold execTraceRingWrite at ht; grind [pend_setF, pend_lostRecord, pend_traceIdle, pend_traceStore, pend_traceMessage, pend_traceDropHead]

theorem pend_execTrheadWrite (slot : Nat) (s : State) :
    ∀ st, execTrheadWrite slot s = .next st → st.pending = s.pending := by
  intro st ht; unfold execTrheadWrite at ht; grind [pend_setF, pend_hostWrite]

@[simp] theorem pend_traceConfigWrite (r : TraceReg) (value : Nat) (s : State) :
    (traceConfigWrite r value s).pending = s.pending := by
  unfold traceConfigWrite; grind [pend_setF, pend_dropHeld, pend_regAccessError]

theorem pend_execTraceConfigWrite (r : TraceReg) (value : Nat) (s : State) :
    ∀ st, execTraceConfigWrite r value s = .next st → st.pending = s.pending := by
  intro st ht; unfold execTraceConfigWrite at ht; grind [pend_hostWrite, pend_traceConfigWrite]

end Sys2Proof.Machine
end

