-- ==== Sys2Proof/Laws/PendShutters.lean ====
section
/-! SUPPORT. No operation of Machine/Shutters.lean touches the queue of waiting commands. -/

namespace Sys2Proof.Machine

set_option Elab.async false

@[simp] theorem pend_setShut (i : Nat) (st : Nat) (s : State) :
    (setShut i st s).pending = s.pending := by
  unfold setShut; grind [pend_setF, pend_trace]

@[simp] theorem pend_powerUp (n : Nat) (s : State) :
    (powerUp n s).pending = s.pending := by
  unfold powerUp; grind [pend_setRegion, pend_startCal]

@[simp] theorem pend_powerDown (n : Nat) (s : State) :
    (powerDown n s).pending = s.pending := by
  unfold powerDown; grind [pend_setRegion]

@[simp] theorem pend_refuseHeld (n : Nat) (s : State) :
    (refuseHeld n s).pending = s.pending := by
  unfold refuseHeld; grind []

@[simp] theorem pend_closeDoorway (w : Nat) (s : State) :
    (closeDoorway w s).pending = s.pending := by
  unfold closeDoorway; grind [pend_setF, pend_forEach, pend_setDw, pend_failConn, pend_withFailures]

@[simp] theorem pend_beginClosing (i : Nat) (s : State) :
    (beginClosing i s).pending = s.pending := by
  unfold beginClosing; grind [pend_refuseHeld, pend_closeDoorway]

@[simp] theorem pend_dropCore (i : Nat) (s : State) :
    (dropCore i s).pending = s.pending := by
  unfold dropCore; grind []

@[simp] theorem pend_bringUp (i : Nat) (s : State) :
    (bringUp i s).pending = s.pending := by
  unfold bringUp; grind [pend_forEach, pend_muStart, pend_startInsertion, pend_startTraining, pend_powerUp, pend_dropCore]

@[simp] theorem pend_drive (i : Nat) (s : State) :
    (drive i s).pending = s.pending := by
  unfold drive; grind [pend_setF, pend_setShut, pend_beginClosing, pend_bringUp]

@[simp] theorem pend_driveShutters (s : State) :
    (driveShutters s).pending = s.pending := by
  unfold driveShutters; grind [pend_forEach, pend_drive]

theorem pend_execShutterReqWrite (i : ShutterNo) (req : Bool) (s : State) :
    ∀ st, execShutterReqWrite i req s = .next st → st.pending = s.pending := by
  intro st ht; unfold execShutterReqWrite at ht; grind [pend_setF, pend_hostWrite, pend_driveShutters]

@[simp] theorem pend_emptyCtxs (p : Nat → Bool) (s : State) :
    (emptyCtxs p s).pending = s.pending := by
  unfold emptyCtxs; grind []

@[simp] theorem pend_endWaits (i : Nat) (s : State) :
    (endWaits i s).pending = s.pending := by
  unfold endWaits; grind []

@[simp] theorem pend_endClosing (i : Nat) (s : State) :
    (endClosing i s).pending = s.pending := by
  unfold endClosing; grind [pend_forEach, pend_setMuAux, pend_serveAll, pend_closePort, pend_powerDown, pend_emptyCtxs, pend_endWaits]

@[simp] theorem pend_endOpening (i : Nat) (s : State) :
    (endOpening i s).pending = s.pending := by
  unfold endOpening; grind [pend_forEach, pend_bringUp]

theorem pend_execShutterTransitionEnd (i : ShutterNo) (s : State) :
    ∀ st, execShutterTransitionEnd i s = .next st → st.pending = s.pending := by
  intro st ht; unfold execShutterTransitionEnd at ht; grind [pend_setShut, pend_drive, pend_endClosing, pend_endOpening]

end Sys2Proof.Machine
end

