-- ==== Sys2Proof/Laws/PendReset.lean ====
section
/-! SUPPORT. No operation of Machine/Reset.lean touches the queue of waiting commands. -/

namespace Sys2Proof.Machine

set_option Elab.async false

@[simp] theorem pend_cutParts (n : Nat) (s : State) :
    (cutParts n s).pending = s.pending := by
  unfold cutParts; grind []

@[simp] theorem pend_settleLost (ids : List Nat) (s : State) :
    (settleLost ids s).pending = s.pending := by
  unfold settleLost; grind [pend_forEach, pend_checkEnd, pend_leaveVx, pend_completeSpread]

@[simp] theorem pend_idleCore (n : Nat) (s : State) :
    (idleCore n s).pending = s.pending := by
  unfold idleCore; grind [pend_setF, pend_forEach, pend_transomFree]

@[simp] theorem pend_clearCore (n : Nat) (s : State) :
    (clearCore n s).pending = s.pending := by
  unfold clearCore; grind [pend_fillSequencer, pend_idleCore]

@[simp] theorem pend_dropCopies (core : Nat) (s : State) :
    (dropCopies core s).pending = s.pending := by
  unfold dropCopies; grind []

@[simp] theorem pend_dropSweeps (ids : List Nat) (s : State) :
    (dropSweeps ids s).pending = s.pending := by
  unfold dropSweeps; grind []

@[simp] theorem pend_clearEngines (n : Nat) (s : State) :
    (clearEngines n s).pending = s.pending := by
  unfold clearEngines; grind [pend_emptyCtxs]

@[simp] theorem pend_dropTransfers (n : Nat) (ids : List Nat) (s : State) :
    (dropTransfers n ids s).pending = s.pending := by
  unfold dropTransfers; grind [pend_forEach, pend_setHinge]

@[simp] theorem pend_clearArbiters (n : Nat) (s : State) :
    (clearArbiters n s).pending = s.pending := by
  unfold clearArbiters; grind [pend_setF, pend_forEach]

@[simp] theorem pend_discardFlights (s : State) :
    (discardFlights s).pending = s.pending := by
  unfold discardFlights; grind [pend_forEach, pend_recountQueue, pend_recount, pend_releaseChecks, pend_dropShadows, pend_dropColl, pend_clearCore]

@[simp] theorem pend_clearRoot (s : State) :
    (clearRoot s).pending = s.pending := by
  unfold clearRoot; grind [pend_resetFields, pend_forEach, pend_unloadImage, pend_discardFlights]

@[simp] theorem pend_restartPort (p : Nat) (s : State) :
    (restartPort p s).pending = s.pending := by
  unfold restartPort; grind [pend_setCart, pend_eraseSpill, pend_emptyPort, pend_startInsertion]

@[simp] theorem pend_clearController (s : State) :
    (clearController s).pending = s.pending := by
  unfold clearController; grind [pend_setF, pend_resetFields, pend_resetF, pend_forEach, pend_setArray]

@[simp] theorem pend_cxlDown (s : State) :
    (cxlDown s).pending = s.pending := by
  unfold cxlDown; grind [pend_setF, pend_satF, pend_loadFails]

@[simp] theorem pend_resetUnits (n : Nat) (s : State) :
    (resetUnits n s).pending = s.pending := by
  unfold resetUnits; grind [pend_forEach, pend_muStart, pend_setDw, pend_startTraining, pend_restartPort, pend_cxlDown]

@[simp] theorem pend_clearUnits (n : Nat) (s : State) :
    (clearUnits n s).pending = s.pending := by
  unfold clearUnits; grind [pend_clearCore, pend_dropCopies, pend_clearEngines, pend_clearRoot, pend_clearController]

@[simp] theorem pend_restampHinges (n : Nat) (s : State) :
    (restampHinges n s).pending = s.pending := by
  unfold restampHinges; grind [pend_forEach, pend_setHinge]

@[simp] theorem pend_dropHalves (n : Nat) (s : State) :
    (dropHalves n s).pending = s.pending := by
  unfold dropHalves; grind []

@[simp] theorem pend_holdRegion (n : Nat) (s : State) :
    (holdRegion n s).pending = s.pending := by
  unfold holdRegion; grind [pend_setF, pend_setRegion, pend_startCal, pend_restampHinges, pend_dropHalves]

@[simp] theorem pend_resetRegion (n : Nat) (s : State) :
    (resetRegion n s).pending = s.pending := by
  unfold resetRegion; grind [pend_resetFields, pend_fillSequencer, pend_driveShutters, pend_cutParts, pend_settleLost, pend_dropSweeps, pend_dropTransfers, pend_clearArbiters, pend_resetUnits, pend_clearUnits, pend_holdRegion]

@[simp] theorem pend_regionRuns (n : Nat) (s : State) :
    (regionRuns n s).pending = s.pending := by
  unfold regionRuns; grind [pend_replayGroups, pend_releaseRegion]

theorem pend_execRstctlReset (n : RegionNo) (s : State) :
    ∀ st, execRstctlReset n s = .next st → st.pending = s.pending := by
  intro st ht; unfold execRstctlReset at ht; grind [pend_hostWrite, pend_resetRegion]

theorem pend_execHingeStallTimeout (a : RegionNo) (b : RegionNo) (s : State) :
    ∀ st, execHingeStallTimeout a b s = .next st → st.pending = s.pending := by
  intro st ht; unfold execHingeStallTimeout at ht; simp only [Host.Outcome.next.injEq] at ht; subst ht; (repeat' split) <;> simp [pend_pairRecord, pend_endStall, pend_resetRegion]

theorem pend_execHoldWatchdogBite (inst : Nat) (s : State) :
    ∀ st, execHoldWatchdogBite inst s = .next st → st.pending = s.pending := by
  intro st ht; unfold execHoldWatchdogBite at ht; simp only [Host.Outcome.next.injEq] at ht; subst ht; (repeat' split) <;> simp [pend_satF, pend_trace, pend_errRecord, pend_resetRegion]

end Sys2Proof.Machine
end

