-- ==== Sys2Proof/Laws/PendBoot.lean ====
section
/-! SUPPORT. No operation of Machine/Boot.lean touches the queue of waiting commands. -/

namespace Sys2Proof.Machine

set_option Elab.async false

@[simp] theorem pend_fullReset (cause : Nat) (s : State) :
    (fullReset cause s).pending = s.pending := by
  unfold fullReset; grind [pend_setF, pend_forEach, pend_eraseSpill, pend_showLifeCycle, pend_showFuses, pend_wipeWindow]

@[simp] theorem pend_measureBoot (m : List Byte) (s : State) :
    (measureBoot m s).pending = s.pending := by
  unfold measureBoot; grind [pend_forEach, pend_extend]

@[simp] theorem pend_bootFails (code : Nat) (s : State) :
    (bootFails code s).pending = s.pending := by
  unfold bootFails; grind [pend_setF, pend_errRecord]

@[simp] theorem pend_bootVerified (slot : Nat) (m : List Byte) (comps : List (List Byte)) (s : State) :
    (bootVerified slot m comps s).pending = s.pending := by
  unfold bootVerified; grind [pend_setF, pend_forEach, pend_startCal, pend_measureBoot]

@[simp] theorem pend_startBoot (env : BootEnv) (s : State) :
    (startBoot env s).pending = s.pending := by
  unfold startBoot; grind [pend_setF, pend_forEach, pend_eraseSpill, pend_keyRecord, pend_bootFails, pend_bootVerified]

@[simp] theorem pend_fenceUnits (env : BootEnv) (s : State) :
    (fenceUnits env s).pending = s.pending := by
  unfold fenceUnits; grind [pend_setF, pend_forEach, pend_errRecord]

@[simp] theorem pend_bootMemory (j : BootJob) (s : State) :
    (bootMemory j s).pending = s.pending := by
  unfold bootMemory; grind [pend_setF, pend_forEach, pend_errRecord, pend_muStart]

@[simp] theorem pend_bootSelfTest (j : BootJob) (s : State) :
    (bootSelfTest j s).pending = s.pending := by
  unfold bootSelfTest; grind [pend_setF, pend_bootFails, pend_fenceUnits, pend_bootMemory]

@[simp] theorem pend_bootCalibrated (s : State) :
    (bootCalibrated s).pending = s.pending := by
  unfold bootCalibrated; grind [pend_bootFails, pend_bootSelfTest]

@[simp] theorem pend_windowEnd (n : Nat) (s : State) :
    (windowEnd n s).pending = s.pending := by
  unfold windowEnd; grind [pend_setRegion, pend_endCal, pend_regionRuns]

theorem pend_execCalibrationWindowEnd (s : State) :
    ∀ st, execCalibrationWindowEnd s = .next st → st.pending = s.pending := by
  intro st ht; unfold execCalibrationWindowEnd at ht; grind [pend_forEach, pend_bootCalibrated, pend_windowEnd]

theorem pend_execCalibrationTimeout (n : RegionNo) (s : State) :
    ∀ st, execCalibrationTimeout n s = .next st → st.pending = s.pending := by
  intro st ht; unfold execCalibrationTimeout at ht; grind [pend_endCal, pend_regionRuns, pend_bootCalibrated]

@[simp] theorem pend_bootZeroing (s : State) :
    (bootZeroing s).pending = s.pending := by
  unfold bootZeroing; grind [pend_setF]

theorem pend_execMuTrainingDone (u : MemUnit) (r : MuTraining) (repairs : List MuRepair) (s : State) :
    ∀ st, execMuTrainingDone u r repairs s = .next st → st.pending = s.pending := by
  intro st ht; unfold execMuTrainingDone at ht; grind [pend_muTrained, pend_bootZeroing]

theorem pend_execMuZeroingDone (u : MemUnit) (s : State) :
    ∀ st, execMuZeroingDone u s = .next st → st.pending = s.pending := by
  intro st ht; unfold execMuZeroingDone at ht; grind [pend_muZeroed]

theorem pend_execBootReady (s : State) :
    ∀ st, execBootReady s = .next st → st.pending = s.pending := by
  intro st ht; unfold execBootReady at ht; grind [pend_setF, pend_driveShutters]

theorem pend_execPorNAssert (s : State) :
    ∀ st, execPorNAssert s = .next st → st.pending = s.pending := by
  intro st ht; unfold execPorNAssert at ht; grind [pend_fullReset]

theorem pend_execPorNDeassert (env : BootEnv) (s : State) :
    ∀ st, execPorNDeassert env s = .next st → st.pending = s.pending := by
  intro st ht; unfold execPorNDeassert at ht; grind [pend_startBoot]

theorem pend_execPerstNAssert (s : State) :
    ∀ st, execPerstNAssert s = .next st → st.pending = s.pending := by
  intro st ht; unfold execPerstNAssert at ht; grind [pend_fullReset]

theorem pend_execPerstNDeassert (env : BootEnv) (s : State) :
    ∀ st, execPerstNDeassert env s = .next st → st.pending = s.pending := by
  intro st ht; unfold execPerstNDeassert at ht; grind [pend_startBoot]

@[simp] theorem pend_warmReset (env : BootEnv) (s : State) :
    (warmReset env s).pending = s.pending := by
  unfold warmReset; grind [pend_setF, pend_fullReset, pend_startBoot]

theorem pend_execWarmReset (env : BootEnv) (s : State) :
    ∀ st, execWarmReset env s = .next st → st.pending = s.pending := by
  intro st ht; unfold execWarmReset at ht; grind [pend_setF, pend_hostWrite, pend_warmReset]

theorem pend_execFatalThermalResetStart (env : BootEnv) (s : State) :
    ∀ st, execFatalThermalResetStart env s = .next st → st.pending = s.pending := by
  intro st ht; unfold execFatalThermalResetStart at ht; grind [pend_fullReset, pend_startBoot, pend_warmReset]

theorem pend_execLifeCycleRowProgrammed (programmed : Bool) (env : BootEnv) (s : State) :
    ∀ st, execLifeCycleRowProgrammed programmed env s = .next st → st.pending = s.pending := by
  intro st ht; unfold execLifeCycleRowProgrammed at ht; grind [pend_setF, pend_rowValid, pend_rowFailed, pend_fullReset, pend_startBoot]

theorem pend_execRunmodeWrite (mode : Nat) (s : State) :
    ∀ st, execRunmodeWrite mode s = .next st → st.pending = s.pending := by
  intro st ht; unfold execRunmodeWrite at ht; grind [pend_setF, pend_regAccessError, pend_hostWrite]

theorem pend_execErrheadWrite (slot : Nat) (s : State) :
    ∀ st, execErrheadWrite slot s = .next st → st.pending = s.pending := by
  intro st ht; unfold execErrheadWrite at ht; grind [pend_setF, pend_hostWrite]

theorem pend_execAlertNPulseEnd (s : State) :
    ∀ st, execAlertNPulseEnd s = .next st → st.pending = s.pending := by
  intro st ht; unfold execAlertNPulseEnd at ht; grind []

end Sys2Proof.Machine
end

