-- ==== Sys2Proof/Laws/PendHostIf.lean ====
section
/-! SUPPORT. No operation of Machine/HostIf.lean touches the queue of waiting commands. -/

namespace Sys2Proof.Machine

set_option Elab.async false

@[simp] theorem pend_cxlUp (wide : Bool) (rate : Nat) (s : State) :
    (cxlUp wide rate s).pending = s.pending := by
  unfold cxlUp; grind [pend_setF]

theorem pend_execCxlLinkTrainingDone (r : CxlTraining) (s : State) :
    ∀ st, execCxlLinkTrainingDone r s = .next st → st.pending = s.pending := by
  intro st ht; unfold execCxlLinkTrainingDone at ht; grind [pend_errRecord, pend_cxlUp]

theorem pend_execCxlLinkDown (s : State) :
    ∀ st, execCxlLinkDown s = .next st → st.pending = s.pending := by
  intro st ht; unfold execCxlLinkDown at ht; grind [pend_cxlDown]

@[simp] theorem pend_sendHeld (s : State) :
    (sendHeld s).pending = s.pending := by
  unfold sendHeld; grind [pend_forEach, pend_emit]

@[simp] theorem pend_writeLate (q : Nat) (s : State) :
    (writeLate q s).pending = s.pending := by
  unfold writeLate; grind [pend_forEach, pend_setQaux, pend_offerRecord, pend_recount]

@[simp] theorem pend_setPower (d3hot : Bool) (s : State) :
    (setPower d3hot s).pending = s.pending := by
  unfold setPower; grind [pend_forEach, pend_writeLate, pend_sendHeld]

@[simp] theorem pend_maskVector (v : Nat) (mask : Bool) (s : State) :
    (maskVector v mask s).pending = s.pending := by
  unfold maskVector; grind []

theorem pend_execMsixUnmask (v : Nat) (s : State) :
    ∀ st, execMsixUnmask v s = .next st → st.pending = s.pending := by
  intro st ht; unfold execMsixUnmask at ht; grind [pend_hostWrite, pend_sendHeld, pend_maskVector]

@[simp] theorem pend_configServe (r : ConfigReq) (s : State) :
    (configServe r s).pending = s.pending := by
  unfold configServe; grind [pend_emit, pend_sendHeld, pend_maskVector, pend_setPower]

theorem pend_execConfigRequest (r : ConfigReq) (s : State) :
    ∀ st, execConfigRequest r s = .next st → st.pending = s.pending := by
  intro st ht; unfold execConfigRequest at ht; grind [pend_emit, pend_configServe]

@[simp] theorem pend_doeServe (kind : Nat) (f : State → List Byte × State) (s : State) (h_f : ∀ x0, (f x0).2.pending = x0.pending) :
    (doeServe kind f s).pending = s.pending := by
  unfold doeServe; grind [pend_emit]

@[simp] theorem pend_doeObject (kind : Nat) (bytes : Nat) (f : State → List Byte × State) (s : State) (h_f : ∀ x0, (f x0).2.pending = x0.pending) :
    (doeObject kind bytes f s).pending = s.pending := by
  unfold doeObject; grind [pend_doeServe]

theorem pend_execDoeDiscovery (index : Nat) (bytes : Nat) (s : State) :
    ∀ st, execDoeDiscovery index bytes s = .next st → st.pending = s.pending := by
  intro st ht; unfold execDoeDiscovery at ht; grind [pend_doeObject]

theorem pend_execCdatTableAccess (bytes : Nat) (s : State) :
    ∀ st, execCdatTableAccess bytes s = .next st → st.pending = s.pending := by
  intro st ht; unfold execCdatTableAccess at ht; grind [pend_doeObject]

theorem pend_execDoeAbort (s : State) :
    ∀ st, execDoeAbort s = .next st → st.pending = s.pending := by
  intro st ht; unfold execDoeAbort at ht; grind []

theorem pend_spdm (tag : Nat) (content : State → List Byte × State) (s : State) (h_content : ∀ x0, (content x0).2.pending = x0.pending) :
    ∀ st, spdm tag content s = .next st → st.pending = s.pending := by
  intro st ht; unfold spdm at ht; grind [pend_doeServe]

theorem pend_execGetVersion (s : State) :
    ∀ st, execGetVersion s = .next st → st.pending = s.pending := by
  intro st ht; unfold execGetVersion at ht; grind [pend_spdm]

theorem pend_execGetCapabilities (s : State) :
    ∀ st, execGetCapabilities s = .next st → st.pending = s.pending := by
  intro st ht; unfold execGetCapabilities at ht; grind [pend_spdm]

theorem pend_execNegotiateAlgorithms (s : State) :
    ∀ st, execNegotiateAlgorithms s = .next st → st.pending = s.pending := by
  intro st ht; unfold execNegotiateAlgorithms at ht; grind [pend_spdm]

theorem pend_execGetDigests (s : State) :
    ∀ st, execGetDigests s = .next st → st.pending = s.pending := by
  intro st ht; unfold execGetDigests at ht; grind [pend_spdm]

theorem pend_spdmError (code : Nat) (datum : Nat) (s : State) :
    ∀ st, spdmError code datum s = .next st → st.pending = s.pending := by
  intro st ht; unfold spdmError at ht; grind [pend_spdm]

theorem pend_execGetCertificate (slot : Nat) (offset : Nat) (len : Nat) (s : State) :
    ∀ st, execGetCertificate slot offset len s = .next st → st.pending = s.pending := by
  intro st ht; unfold execGetCertificate at ht; grind [pend_spdm, pend_spdmError]

@[simp] theorem pend_signedResponse (tag : Nat) (request : List Byte) (content : List Byte) (s : State) :
    (signedResponse tag request content s).2.pending = s.pending := by
  unfold signedResponse; grind [pend_drawRandom]

theorem pend_execChallengeSpdm (slot : Nat) (nonce : List Byte) (s : State) :
    ∀ st, execChallengeSpdm slot nonce s = .next st → st.pending = s.pending := by
  intro st ht; unfold execChallengeSpdm at ht; grind [pend_spdm, pend_spdmError, pend_signedResponse]

theorem pend_execGetMeasurements (index : Nat) (signed : Bool) (nonce : List Byte) (s : State) :
    ∀ st, execGetMeasurements index signed nonce s = .next st → st.pending = s.pending := by
  intro st ht; unfold execGetMeasurements at ht; grind [pend_spdm, pend_spdmError, pend_signedResponse]

theorem pend_execSpdmUnsupportedRequest (code : Nat) (s : State) :
    ∀ st, execSpdmUnsupportedRequest code s = .next st → st.pending = s.pending := by
  intro st ht; unfold execSpdmUnsupportedRequest at ht; grind [pend_spdmError]

@[simp] theorem pend_endColl (j : CollJob) (s : State) :
    (endColl j s).pending = s.pending := by
  unfold endColl; grind [pend_dropShadows, pend_dropColl, pend_commitColl]

@[simp] theorem pend_flrDiscard (s : State) :
    (flrDiscard s).pending = s.pending := by
  unfold flrDiscard; grind [pend_forEach, pend_discardFlights, pend_endColl]

theorem pend_execFlr (s : State) :
    ∀ st, execFlr s = .next st → st.pending = s.pending := by
  intro st ht; unfold execFlr at ht; grind [pend_forEach, pend_dropTransfers, pend_resetRegion, pend_flrDiscard]

@[simp] theorem pend_disableQueue (q : Nat) (s : State) :
    (disableQueue q s).pending = s.pending := by
  unfold disableQueue; grind [pend_setF, pend_resetFields]

theorem pend_execFlrQuiesced (s : State) :
    ∀ st, execFlrQuiesced s = .next st → st.pending = s.pending := by
  intro st ht; unfold execFlrQuiesced at ht; grind [pend_satF, pend_forEach, pend_disableQueue]

end Sys2Proof.Machine
end

