-- ==== Sys2Proof/Laws/PendRegisters.lean ====
section
/-! SUPPORT. No operation of Machine/Registers.lean touches the queue of waiting commands. -/

namespace Sys2Proof.Machine

set_option Elab.async false

@[simp] theorem pend_readWord (a : Nat) (s : State) :
    (readWord a s).2.pending = s.pending := by
  unfold readWord; grind [pend_drawFree]

@[simp] theorem pend_hostRead (a : Nat) (f : State → Nat × State) (s : State) (h_f : ∀ x0, (f x0).2.pending = x0.pending) :
    (hostRead a f s).pending = s.pending := by
  unfold hostRead; grind [pend_emit]

@[simp] theorem pend_readDouble (a : Nat) (s : State) :
    (readDouble a s).2.pending = s.pending := by
  unfold readDouble; grind [pend_readWord]

@[simp] theorem pend_doorbellRead (a size : Nat) (s : State) :
    (doorbellRead a size s).pending = s.pending := by
  unfold doorbellRead; grind [pend_emit]

theorem pend_execRegisterReadLowerHalf (r : RegRead) (s : State) :
    ∀ st, execRegisterReadLowerHalf r s = .next st → st.pending = s.pending := by
  intro st ht; unfold execRegisterReadLowerHalf at ht; grind [pend_readWord, pend_hostRead, pend_readDouble, pend_doorbellRead]

@[simp] theorem pend_writeField (r : RegAt) (v : Nat) (f : FieldRow) (s : State) :
    (writeField r v f s).pending = s.pending := by
  unfold writeField; grind [pend_setF, pend_orF]

@[simp] theorem pend_writeFields (r : RegAt) (v : Nat) (s : State) :
    (writeFields r v s).pending = s.pending := by
  unfold writeFields; grind [pend_forEach, pend_regAccessError, pend_writeField]

@[simp] theorem pend_writeOwnDouble (r : RegAt) (v : Nat) (s : State) :
    (writeOwnDouble r v s).pending = s.pending := by
  unfold writeOwnDouble; grind [pend_peep, pend_mapWrite, pend_checkWrite, pend_fenceWrite, pend_ringWrite, pend_traceConfigWrite]

@[simp] theorem pend_writeReg (r : RegAt) (v : Nat) (s : State) :
    (writeReg r v s).pending = s.pending := by
  unfold writeReg; grind [pend_setF, pend_regAccessError, pend_writeFields, pend_writeOwnDouble]

@[simp] theorem pend_writeMsixCell (d : Nat) (v : Nat) (s : State) :
    (writeMsixCell d v s).pending = s.pending := by
  unfold writeMsixCell; grind [pend_sendHeld, pend_maskVector]

@[simp] theorem pend_writeMsix (a : Nat) (v : Nat) (s : State) :
    (writeMsix a v s).pending = s.pending := by
  unfold writeMsix; grind [pend_writeMsixCell]

@[simp] theorem pend_writeWord (a : Nat) (v : Nat) (s : State) :
    (writeWord a v s).pending = s.pending := by
  unfold writeWord; grind [pend_writeReg, pend_writeMsix]

@[simp] theorem pend_writeDouble (a : Nat) (v : Nat) (s : State) :
    (writeDouble a v s).pending = s.pending := by
  unfold writeDouble; grind [pend_writeReg, pend_writeWord]

theorem pend_execRegisterAccessInvalid (isWrite : Bool) (off : Nat) (size : Nat) (value : Nat) (s : State) :
    ∀ st, execRegisterAccessInvalid isWrite off size value s = .next st → st.pending = s.pending := by
  intro st ht; unfold execRegisterAccessInvalid at ht; grind [pend_regAccessError, pend_hostWrite, pend_hostRead]

theorem pend_execRegisterWrite (off : Nat) (size : Nat) (value : Nat) (s : State) :
    ∀ st, execRegisterWrite off size value s = .next st → st.pending = s.pending := by
  intro st ht; unfold execRegisterWrite at ht; grind [pend_regAccessError, pend_hostWrite, pend_writeWord, pend_writeDouble]

end Sys2Proof.Machine
end

