-- ==== Sys2Proof/Laws/Taking.lean ====
section
/-! SUPPORT. The taking of a descriptor: what `takeRing` does when it may take and when it may not. -/

namespace Sys2Proof.Machine

set_option Elab.async false

/-- Reading the slot leaves the queue's binding. -/
@[simp] theorem getF_bind_fetched (q : QueueNo) (s : State) :
    getF (CMDQ.QBIND_CASEMENT q) (fetched q s) = getF (CMDQ.QBIND_CASEMENT q) s := by
  have := q.isLt
  unfold fetched
  rw [getF_setF_ne _ _ _ _ (by simp only [Fld.key, CMDQ.QPTR_SQHEAD, CMDQ.QBIND_CASEMENT]; omega), getF_peep _ _ _ _ _ _
    (by simp only [plain, Fld.key, CMDQ.QBIND_CASEMENT]; omega)]
  rfl

/-- A queue that may take the next descriptor takes it. -/
theorem takeRing_of_takes {q : QueueNo} {op : Nat} {d : Desc} {k : InFlight → State → State} {s : State} (h : Takes q op s)
    (hd : dOpcode d = op) : takeRing q d k s = taken q d k s := by
  have h1 : takeable q (dOpcode d) s = true := by rw [hd]; exact h.1
  unfold takeRing taken
  have hq := q.isLt
  have h2 : ∀ o, getF (CMDQ.QRING_SQLOG2 q) (peep 10 0 1 1 (emit o s)) = getF (CMDQ.QRING_SQLOG2 q) s := fun o => by
    rw [getF_peep _ _ _ _ _ _ (by simp only [plain, Fld.key, CMDQ.QRING_SQLOG2]; omega)]; rfl
  rw [← getF_bind_fetched q s]
  simp only [h1, h.2, if_true, fetched, h2]

/-- A queue that may not take the next descriptor changes nothing. -/
theorem takeRing_of_not {q : QueueNo} {d : Desc} {k : InFlight → State → State} {s : State} (h : takeable q (dOpcode d) s = false) :
    takeRing q d k s = s := by
  unfold takeRing; rw [h]; rfl

end Sys2Proof.Machine
end

