-- ==== Sys2Proof/Tests/Slice0.lean ====
section
/-! SUPPORT. Tests: an ill-formed term for each check of WellFormed, values from the spec's tables and examples, and a state that meets the
hypotheses of each statement. -/

namespace Sys2Proof.Tests

open Sys2Proof Sys2Proof.Machine

set_option maxRecDepth 20000
set_option Elab.async false

/-! Small states. -/

/-- The state `s` with register fields set. -/
def withF (l : List (Fld × Nat)) (s : State) : State := l.foldl (fun s p => setF p.1 p.2 s) s

/-- A device that has booted: every region runs, memory space and bus mastering are on, and a host may send any command. -/
def up : State :=
  { State.reset with
    flds := [(GLB.BOOT_STAGE.key, 8)]
    regions := (List.range 100).map (fun n => (n, ⟨0, true, none, 800, 0, true, false, false⟩))
    porAsserted := false
    perstAsserted := false
    cfg := { State.reset.cfg with memSpace := true, busMaster := true, msixEnable := true } }

/-- A part on a core. -/
def part (core lo hi : Nat) (st : PartSt) : Machine.Part := ⟨core, lo, hi, st, 0, 0, 0⟩

/-- A descriptor in flight, from queue 1 on port 0. -/
def fly (id op : Nat) (d : Desc) (ps : List Machine.Part) : InFlight := ⟨id, 0, some 1, 0, false, 0, op, d, 0, 0, .running, ps, none, [], 0, 0⟩

theorem up_early : Served .early up := ⟨⟨rfl, rfl⟩, by decide⟩
theorem up_late : Served .late up := ⟨⟨rfl, rfl⟩, by decide⟩
theorem up_glb : Served .glb up := ⟨⟨rfl, rfl⟩, rfl⟩
theorem served_withF_early (l : List (Fld × Nat)) (s : State) (h : s.cfg = up.cfg) (h2 : blkServed .early (withF l s) = true) :
    Served .early (withF l s) := by
  have e : (withF l s).cfg = s.cfg := by
    clear h2
    induction l generalizing s with
    | nil => rfl
    | cons p t ih => exact ih (setF p.1 p.2 s) h
  exact ⟨⟨by rw [e, h]; rfl, by rw [e, h]; rfl⟩, h2⟩

/-! The queue of commands and the register file. -/

theorem wit_StepRunsTheFrontCommand : ({ up with pending := [.doeAbort] } : State).pending = .doeAbort :: [] ∧ up.pending = [] := by decide
theorem wit_NoCommandTouchesTheQueue : exec (.hostSnoop 64) up = .next (emit (.snoopMiss 64) up) := rfl
theorem wit_StepKeepsTheMemoryCanonical : MemOk { up with mem := [(3, 7#8)] } ∧ step { up with mem := [(3, 7#8)] } = .next { up with mem := [(3, 7#8)] } :=
  ⟨by unfold MemOk; decide, rfl⟩
theorem wit_StepKeepsBlownFuses : step up = .next up := rfl

theorem wit_RegisterAccesses_invalid : accessValid 2 4 = false ∧ accessValid 4 8 = false ∧ Served (addrReach 2) up ∧ Reached up
    ∧ readServed 2 up = true ∧ ¬ Reached State.reset :=
  ⟨rfl, rfl, ⟨⟨rfl, rfl⟩, by decide⟩, ⟨rfl, rfl⟩, by decide, by intro h; exact absurd h.1 (by decide)⟩
theorem wit_RegisterAccesses_read : (regAt 0x00510000).map (fun r => (r.row.width, r.addr)) = some (64, 0x00510000)
    ∧ (regAt 0x00510004).map (fun r => (r.row.width, r.addr)) = some (64, 0x00510000) ∧ readServed 0x00510004 up = true
    ∧ optGet ({ up with latch := [(0x00510000, 5)] } : State).latch 0x00510000 = some 5 := by decide
theorem wit_RegisterAccesses_write : (regAt 0x00510000).map (fun r => r.row.width) = some 64 ∧ (regAt 0x03000038).map (fun r => r.row.width) = some 32
    ∧ regAt 0x03FFFFFC = none ∧ blkServed (addrReach 0x00510000) up = true ∧ blkServed (addrReach 0x03FFFFFC) up = true := by decide
theorem wit_HstallWrite : Served .early up ∧ 0x10000 ≤ 0x10000 % 2 ^ 32 ∧ 0xFFFF % 2 ^ 32 < 0x10000
    ∧ (hingeOf 0 1 (setHinge 0 1 (fun h => { h with stalled := some (0, 0) }) (withF [(REG.LIC_COUNT 0, 0x01000001)] up))).stalled = some (0, 0)
    ∧ neighbours 0 1 = true ∧ getF (REG.HSTALL_LIMIT 0) up < licSince 0 0 (withF [(REG.LIC_COUNT 0, 0x01000001)] up)
    ∧ licSince 0 0 up ≤ getF (REG.HSTALL_LIMIT 0) up := ⟨up_early, by decide⟩
theorem wit_ConfigRequests : configHeld State.reset = true ∧ configHeld up = false := by decide
theorem wit_ConfigRequests_doorbell : Served .early up ∧ (65528 % 4 = 0 ∧ 8 ≤ 65528 ∧ 65528 < 0x10000) := ⟨up_early, by decide⟩
/-- A queue holds one record that came in D3hot. -/
def sleepy : State := { up with
  cfg := { up.cfg with d3hot := true }
  qaux := [(1, ⟨true, 0, none, [⟨fly 7 1 0 [], 0, 0, 0, 0, 0, 3⟩]⟩)] }
theorem wit_ConfigRequests_power : sleepy.cfg.d3hot = true ∧ configHeld sleepy = false ∧ sleepy.cfg.busMaster = true ∧ qState 1 sleepy ≠ 3
    ∧ sleepy.qaux = [(1, { qauxInit with late := [⟨fly 7 1 0 [], 0, 0, 0, 0, 0, 3⟩] })] := by decide
/-- R613: an image that starts 192 bytes below a 4 KiB boundary is read by requests that end there and then by whole ones. -/
theorem test_imageRequests : readRequests 20 0x1F40 1024 = [(0x1F40, 192), (0x2000, 512), (0x2200, 320)] := by decide
/-- R472, R474, R509: 16 symbols in error are corrected in native mode and 17 are not; in Ethernet mode 15 are. -/
theorem test_countFec : getF (DW.DWFECCOR_COUNT 3) (countFec 3 16 [16, 17] up) = 1 ∧ getF (DW.DWFECUNC_COUNT 3) (countFec 3 16 [16, 17] up) = 1
    ∧ getF (DW.DWFECUNC_COUNT 3) (countFec 3 15 [16, 15] up) = 1 := by decide

/-! Timing regions. -/

theorem wit_LicsCountAndCalibrate : (regionOf 5 up).running = true ∧ (regionOf 5 State.reset).running = false ∧ Served .early up
    ∧ getF (REG.LICCTL_CALBUSY 5) up ≠ 1 ∧ getF (REG.LICCTL_CALBUSY 5) (withF [(REG.LICCTL_CALBUSY 5, 1)] up) = 1
    ∧ (regionOf 5 (setRegion 5 (fun r => { r with cal := some ⟨2 ^ 25, none⟩ }) up)).cal = some ⟨2 ^ 25, none⟩
    ∧ (2 * (10485760 * 65536) + 10485760) / (2 * 10485760) = 0x10000 := ⟨by decide, by decide, up_early, by decide⟩
theorem wit_LicsCountAndCalibrate_window :
    (regionOf 5 (setRegion 5 (fun r => { r with cal := some ⟨9, some 10485760⟩ }) up)).cal = some ⟨9, some 10485760⟩
    ∧ calStep 10485760 = some 0x10000 ∧ calStep 0 = none ∧ (regionOf 5 up).cal = none ∧ (9 : Nat) < 2 ^ 25
    ∧ (regionOf 5 State.reset).inReset = true ∧ (regionOf 65 State.reset).inReset = true ∧ (regionOf 5 up).inReset = false ∧ up.boot = none := by
  decide
theorem wit_SupplySlew : Served .early up ∧ (regionOf 7 up).vout = 600 + 5 * getF (REG.VSET_VCODE 7) up
    ∧ (regionOf 7 (withF [(REG.VSET_VCODE 7, 60)] up)).vout < 600 + 5 * getF (REG.VSET_VCODE 7) (withF [(REG.VSET_VCODE 7, 60)] up)
    ∧ 600 + 5 * getF (REG.VSET_VCODE 7) (withF [(REG.VSET_VCODE 7, 10)] up) < (regionOf 7 (withF [(REG.VSET_VCODE 7, 10)] up)).vout
    ∧ 512 ≤ licSince 7 (regionOf 7 up).vstamp (withF [(REG.LIC_COUNT 7, 512)] up) := ⟨up_early, by decide⟩
theorem wit_RegulatorNeverOvershoots : (regionOf 7 up).vout % 5 = 0 ∧ ∃ t, exec (.regulatorStep 7) up = .next t := ⟨by decide, _, rfl⟩
theorem wit_MonitorAndResets : inHold up = false ∧ Served .early up ∧ neighbours 0 1 = true ∧ fatal up = false
    ∧ (regionOf 0 up).inReset = false ∧ (regionOf 0 State.reset).inReset = true := ⟨by decide, up_early, by decide⟩
theorem wit_MonitorAndResets_stall :
    (let s := setHinge 0 1 (fun h => { h with stalled := some (0, 0) }) (withF [(REG.LIC_COUNT 0, 0x01000001)] up)
     (hingeOf 0 1 s).stalled = some (0, 0) ∧ getF (REG.HSTALL_LIMIT 0) s < licSince 0 0 s ∧ neighbours 0 1 = true ∧ fatal s = false) := by decide
theorem wit_HingeDeliversInOrder : hingeHere 0 1 = true ∧ hingeOpen 0 1 up = true
    ∧ hingeOpen 0 1 (setHinge 0 1 (fun h => { h with stalled := some (0, 0) }) up) = false
    ∧ (offerPath 0 1 ⟨1, 7⟩) = some [] ∧ ((offerPath 0 1 ⟨64, 7⟩).map (fun p => p.headD 999)) = some 64 ∧ heldAt 0 1 up = [] := by decide +kernel

/-! Queues. -/

/-- Queue 1 enabled and bound to casement 0. -/
def qup : State := withF [(CMDQ.QSTAT_STATE 1, 1), (CMDQ.QCTL_ENABLE 1, 1), (CMDQ.QBIND_VALID 1, 1), (CMDQ.QRING_SQLOG2 1, 4),
  (CMDQ.QRING_CQLOG2 1, 4), (CMDQ.SQBASE_ADDR 1, 1), (CMDQ.CQBASE_ADDR 1, 2), (CMDQ.QPTR_SQTAIL 1, 3), (CMDQ.QPTR_CQTAIL 1, 2)]
  { up with image := some ⟨0, false, [], 1, 1, 1, 1, [⟨none, true, 1, true⟩], [(1, 0)], [], [], [], [], [], [], [], [], []⟩ }

theorem qup_late : Served .late qup := ⟨⟨rfl, rfl⟩, by decide⟩
theorem qup_early : Served .early qup := ⟨⟨rfl, rfl⟩, by decide⟩
theorem wit_QueuePointers : Served .early qup ∧ getF (CMDQ.QSTAT_STATE 1) qup = 1 ∧ 15 < 2 ^ getF (CMDQ.QRING_SQLOG2 1) qup
    ∧ 2 ^ getF (CMDQ.QRING_SQLOG2 1) qup ≤ 16 ∧ getF (CMDQ.QSTAT_STATE 1) up ≠ 1
    ∧ (2 + 2 ^ getF (CMDQ.QRING_CQLOG2 1) qup - getF (CMDQ.QPTR_CQHEAD 1) qup) % 2 ^ getF (CMDQ.QRING_CQLOG2 1) qup ≤ cqUsed 1 qup
    ∧ cqUsed 1 qup < (3 + 2 ^ getF (CMDQ.QRING_CQLOG2 1) qup - getF (CMDQ.QPTR_CQHEAD 1) qup) % 2 ^ getF (CMDQ.QRING_CQLOG2 1) qup
    ∧ getF (CMDQ.QRING_CQLOG2 1) qup ≤ 16 ∧ getF (CMDQ.QPTR_CQHEAD 1) qup < 2 ^ getF (CMDQ.QRING_CQLOG2 1) qup
    ∧ getF (CMDQ.QPTR_CQTAIL 1) qup < 2 ^ getF (CMDQ.QRING_CQLOG2 1) qup ∧ 2 ≤ cqUsed 1 qup := ⟨qup_early, by decide⟩
theorem wit_QueueStatesAndInterrupts_valid : getF (CMDQ.QSTAT_STATE 1) (withF [(CMDQ.QSTAT_STATE 1, 0)] qup) = 0
    ∧ settingsValid 1 (setF (CMDQ.QCTL_ENABLE 1) 1 (withF [(CMDQ.QSTAT_STATE 1, 0)] qup)) = true
    ∧ settingsValid 1 (setF (CMDQ.QCTL_ENABLE 1) 1 up) = false ∧ (∀ e ∈ qup.inflight, e.queue ≠ some 1) := by decide
theorem wit_QueueStatesAndInterrupts : getF (CMDQ.QSTAT_STATE 1) (withF [(CMDQ.QSTAT_STATE 1, 2)] qup) = 2
    ∧ getF (CMDQ.QSTAT_PEND 1) (withF [(CMDQ.QSTAT_STATE 1, 2)] qup) = 0 ∧ getF (CMDQ.QSTAT_STATE 1) (withF [(CMDQ.QSTAT_STATE 1, 3)] qup) = 3
    ∧ getF (CMDQ.QCTL_ENABLE 1) up = 0
    ∧ (qauxOf 1 (setQaux 1 (fun a => { a with oldest := some 0 }) up)).oldest = some 0
    ∧ (let s := withF [(CMDQ.QIRQ_EN 1, 1), (CMDQ.QIRQ_TIMER 1, 1), (REG.LIC_COUNT 99, 1024)] up
       getF (CMDQ.QIRQ_EN 1) s = 1 ∧ getF (CMDQ.QIRQ_TIMER 1) s ≠ 0 ∧ getF (CMDQ.QIRQ_TIMER 1) s * 1024 ≤ licSince 99 0 s)
    ∧ licSince 99 0 (withF [(CMDQ.QIRQ_TIMER 1, 1), (REG.LIC_COUNT 99, 1023)] up) < 1024 := by decide
theorem wit_QueueSettings : Served .late qup ∧ getF (CMDQ.QSTAT_STATE 2) qup = 0 ∧ (casementOf 0 qup).isSome = true ∧ isTarget 0 qup = false
    ∧ (∀ r : Nat, r < 256 → r ≠ 1 → getF (CMDQ.QBIND_VALID r) qup = 1 → getF (CMDQ.QBIND_CASEMENT r) qup ≠ 0)
    ∧ casementOf 5 qup = none ∧ getF (CMDQ.QSTAT_STATE 1) qup ≠ 0 := ⟨qup_late, by decide⟩
theorem wit_DescriptorsAreTaken : ∀ op ∈ [1, 2, 3, 4, 5, 6, 7, 8, 9, 10], takeable 1 op qup = true ∧ busOk qup = true := by decide
theorem wit_TakingMovesTheHead : takeable 1 2 up = false ∧ takeable 1 1 up = false ∧ takeable 1 3 up = false := by decide
theorem wit_RingReadsAndSnoops : Takes 1 (dOpcode 9#512) qup := by unfold Takes; decide
theorem wit_HeaderChecks : headerCheck 0#512 = some (1, 0x81) ∧ headerCheck 11#512 = some (1, 0x81) ∧ Takes 1 (dOpcode 0#512) qup
    ∧ pairingOn (getF (CMDQ.QBIND_CASEMENT 1) qup) qup = none ∧ (∀ e ∈ qup.inflight, e.id < qup.nextId)
    ∧ headerFaulty (dput 1#512 3 0 8 1) = true ∧ headerFaulty 10#512 = false := by
  refine ⟨by decide, by decide, ?_, by decide⟩; unfold Takes; decide

/-- A WAIT of fence 0 for the value 1, and a SIGNAL ADD of 1 to fence 0. -/
def waitDesc : Desc := dput (9#512) 0x18 0 64 1
def sigDesc : Desc := dput (10#512) 0x18 0 64 1

theorem wit_WaitsAndFences : dfield waitDesc 0x10 12 4 = 0 ∧ dfield waitDesc 0x12 0 48 = 0 ∧ dfield waitDesc 0x20 0 256 = 0
    ∧ dfield waitDesc 0x10 0 12 / 64 = tenantNo 0 qup ∧ getF (CMDG.FENCE_VALUE 0) qup < dfield waitDesc 0x18 0 64
    ∧ dfield waitDesc 0x18 0 64 ≤ getF (CMDG.FENCE_VALUE 0) (withF [(CMDG.FENCE_VALUE 0, 1)] qup) := by decide
theorem wit_WaitsAndFences_signal : fatal up = false ∧ Served .late up
    ∧ (let e := { fly 5 10 sigDesc [] with st := FlightSt.signal }
       ([e].find? (fun x => decide (x.st = .signal) && decide (x.port = 0)) = some e) ∧ (∀ x ∈ [e], x.port = 0 → x.id < e.id → x.st = .signal))
    ∧ getF (CMDG.FENCE_VALUE 0) up + dfield sigDesc 0x18 0 64 < 2 ^ 64
    ∧ 2 ^ 64 ≤ getF (CMDG.FENCE_VALUE 0) (withF [(CMDG.FENCE_VALUE 0, 2 ^ 64 - 1)] up) + dfield sigDesc 0x18 0 64
    ∧ (∃ x ∈ [fly 4 1 0 []], x.port = 0 ∧ x.id < 5 ∧ x.st ≠ .signal) := ⟨by decide, up_late, by decide⟩
theorem wit_DividedDescriptors : (0 : Nat) < 3 ∧ (fly 1 1 0 [part 0 0 1 .ended, { part 1 1 2 .ended with status := 0x1A }]).status = 0
    ∧ (fly 1 1 0 [part 0 0 1 .ended, { part 1 1 2 .ended with status := 0x1A }]).parts = [part 0 0 1 .ended] ++ { part 1 1 2 .ended with status := 0x1A } :: []
    ∧ combinedStatus (fly 1 1 0 [part 0 0 1 .ended, { part 1 1 2 .ended with status := 0x1A }]) = 0x1A
    ∧ memberRun 10 3 0 = (0, 4) ∧ memberRun 10 3 1 = (4, 3) ∧ memberRun 10 3 2 = (7, 3) := by decide
theorem wit_PartsIssueAndComplete : vectorUp 3 up = true ∧ issuable 3 up = none
    ∧ (issuable 3 { up with inflight := [fly 1 1 1#512 [part 3 0 1 .held]] }).map (fun x => x.1.opcode) = some 1
    ∧ (issuable 3 { up with inflight := [fly 1 2 2#512 [part 3 0 1 .held]] }).map (fun x => x.1.opcode) = some 2
    ∧ (issuable 3 { up with inflight := [fly 1 8 8#512 [part 3 0 1 .held]] }).map (fun x => x.1.opcode) = some 8
    ∧ heldByLayers (fly 1 1 1#512 [part 3 0 1 .ended]) 0 up = false ∧ alive up = true
    ∧ flight 1 { up with inflight := [fly 1 1 1#512 [part 3 0 1 .ended]] } = some (fly 1 1 1#512 [part 3 0 1 .ended])
    ∧ (part 3 0 1 .running).st ≠ .ended := by decide

/-! Arithmetic and the engines. -/

theorem wit_FormatsRoundTrip : ∀ x ∈ [(0, 0x7F7FFFFF), (0, 1), (1, 0x7FEFFFFFFFFFFFFF), (2, 0x7DFF), (5, 0x7E), (6, 0x7B), (0, 0x80000000)],
    x.2 < 2 ^ (8 * fmtBytes x.1) ∧ (decodeBits x.1 127 x.2).num.isNan = false ∧ encode x.1 false (decodeBits x.1 127 x.2).num = (x.2, 0) := by decide
theorem wit_SpecialResults : (3 : Nat) ≠ 0 ∧ elemOp 0x14 0 .rne false (.zero false) (.zero false) false (.fin true 3 0) (.fin false 0 7) (.zero false) = (.inf true, 2) := by
  decide

/-- An MMA of one element of depth 1, no operands, result in binary32, on core 3. -/
def mmaTiny : Desc := dput (dput (dput 1#512 0x28 0 32 1) 0x2C 0 32 1) 0x30 0 32 1
def mxAt (r : MxRun) (d : Desc) : State := { up with mx := [(3, r)], inflight := [fly 1 1 d [part 3 0 1 .running]] }
def mxRun : MxRun := ⟨1, 0, 0, 0, 0, 0, [], measInit, false, none⟩

theorem wit_MatrixPasses_staged : optGet (mxAt mxRun mmaTiny).mx 3 = some mxRun ∧ optGet (mxAt mxRun mmaTiny).vx 3 = none
    ∧ flight 1 (mxAt mxRun mmaTiny) = some (fly 1 1 mmaTiny [part 3 0 1 .running])
    ∧ allStaged 3 1 (tilePanes (fly 1 1 mmaTiny [part 3 0 1 .running]) 0 (mxAt mxRun mmaTiny)) (mxAt mxRun mmaTiny) = true
    ∧ allStaged 3 1 [(7, 0)] (mxAt mxRun mmaTiny) = false := by decide
theorem wit_MatrixPasses_group : matrixUp 3 (mxAt mxRun mmaTiny) = true ∧ getF (CORE.MXSTAT_OPWAIT 3) (mxAt mxRun mmaTiny) = 0 ∧ mxRun.held = none
    ∧ 32 * mxRun.group < mmaK mmaTiny
    ∧ (let e := fly 1 1 mmaTiny [part 3 0 1 .running]
       let mm := (groupStep 3 e mxRun (passStart 3 e mxRun (mxAt mxRun mmaTiny)) (mxAt mxRun mmaTiny)).2
       mm.ov = 0 ∧ mm.un = 0) := by decide
theorem wit_MatrixPasses_range :
    (let d := dput (dput mmaTiny 0x30 0 32 33) 0x3C 18 2 1
     let r := { mxRun with group := 1, accs := [⟨true, .zero false, 0, 0⟩], mm := ⟨1, 0, none, 0⟩ }
     let e := fly 1 1 d [part 3 0 1 .running]
     0 < (groupStep 3 e r (r.accs, r.mm) (mxAt r d)).2.ov ∧ r.pass < passLimit d ∧ passLimit d ≤ ({ r with pass := 1 } : MxRun).pass
       ∧ 32 * r.group < mmaK d) := by decide
theorem wit_MatrixPasses_end :
    (let r := { mxRun with group := 1, accs := [⟨false, .fin false 1 200, 0, 0⟩] }
     let d := dput mmaTiny 0x3C 18 2 1
     let e := fly 1 1 d [part 3 0 1 .running]
     let small := (convertTile 3 e { r with accs := [⟨false, .fin false 1 0, 0, 0⟩] } (mxAt r d)).1
     mmaK d ≤ 32 * r.group ∧ isBlockTag (mmaDFMT d) = false ∧ r.pass < passLimit d
       ∧ (∃ z ∈ (convertTile 3 e r (mxAt r d)).1, zOverflows (tagFmt (mmaDFMT d)) z.2.1 = true)
       ∧ ∀ z ∈ small, zOverflows (tagFmt (mmaDFMT d)) z.2.1 = false) := by decide
theorem wit_TransomQueue :
    (let r := { mxRun with held := some ([0], 0) }
     optGet (mxAt r mmaTiny).mx 3 = some r ∧ r.held = some ([0], 0) ∧ matrixUp 3 (mxAt r mmaTiny) = true ∧ vectorUp 3 (mxAt r mmaTiny) = true
       ∧ (hingeOf (2 * 3) (2 * 3 + 1) (mxAt r mmaTiny)).stalled = none ∧ (assocGet [] (mxAt r mmaTiny).transom 3).length < 16
       ∧ flight 1 (mxAt r mmaTiny) = some (fly 1 1 mmaTiny [part 3 0 1 .running])
       ∧ (let s := { mxAt r mmaTiny with transom := [(3, List.replicate 16 ⟨[], 0, 0⟩)] }
          16 ≤ (assocGet [] s.transom 3).length ∧ getF (CORE.MXSTAT_TRWAIT 3) s = 0 ∧ getF (CORE.MXSTAT_TRWAIT 3) (withF [(CORE.MXSTAT_TRWAIT 3, 1)] s) = 1)) := by
  decide

/-- A VOP MUL at work on core 3, of no operands. -/
def vxAt (d : Desc) (pos : Nat) : State := { up with vx := [(3, ⟨1, 0, pos, false⟩)], inflight := [fly 1 2 d [part 3 0 1 .running]] }
def vopTiny : Desc := dput 2#512 0x2C 0 8 0x12

theorem wit_TransomQueue_consume :
    (let d := dput vopTiny 0x3C 4 1 1
     let s := { vxAt d 0 with transom := [(3, [⟨[0], 0, 0⟩])] }
     optGet s.vx 3 = some ⟨1, 0, 0, false⟩ ∧ flight 1 s = some (fly 1 2 d [part 3 0 1 .running]) ∧ vectorUp 3 s = true
       ∧ getF (CORE.VXSTAT_OPWAIT 3) s = 0 ∧ vopXSRC d = true ∧ vopLine (vopOP d) = false ∧ assocGet [] s.transom 3 = [⟨[0], 0, 0⟩]
       ∧ assocGet [] (vxAt d 0).transom 3 = []) := by decide
theorem wit_TransomQueue_line :
    (let d := dput (dput 2#512 0x2C 0 8 0x30) 0x3C 4 1 1
     let s := withF [(CORE.MXSTAT_TRWAIT 3, 1)] { vxAt d 0 with transom := [(3, [⟨[0], 0, 0⟩])] }
     flight 1 s = some (fly 1 2 d [part 3 0 1 .running]) ∧ vectorUp 3 s = true ∧ getF (CORE.VXSTAT_OPWAIT 3) s = 0 ∧ vopXSRC d = true
       ∧ vopLine (vopOP d) = true ∧ assocGet [] s.transom 3 = [⟨[0], 0, 0⟩] ∧ getF (CORE.MXSTAT_TRWAIT 3) s = 1
       ∧ (part 3 0 1 .running).hi ≤ 0 + (0 + 1) ∧ 0 + (0 + 1) < (part 3 0 2 .running).hi) := by decide
theorem wit_VectorEngine :
    (let s := vxAt vopTiny 0
     optGet s.vx 3 = some ⟨1, 0, 0, false⟩ ∧ vectorUp 3 s = true ∧ vopXSRC vopTiny = false ∧ vopLine (vopOP vopTiny) = false
       ∧ getF (CORE.VXSTAT_OPWAIT 3) s = 0 ∧ getF (CORE.VXSTAT_OPWAIT 3) (withF [(CORE.VXSTAT_OPWAIT 3, 1)] s) = 1
       ∧ vopSpread (fly 1 2 vopTiny [part 3 0 1 .running]) = false ∧ encReady 3 s = none ∧ Served .late up) :=
  ⟨by decide, by decide, by decide, by decide, by decide, by decide, by decide, by decide, up_late⟩
theorem wit_VectorEngine_line :
    (let d := dput 2#512 0x2C 0 8 0x30
     let e := fly 1 2 d [part 3 0 1 .running]
     vopLine (vopOP d) = true ∧ vopXSRC d = false ∧ vopSpread e = false ∧ vecTotal e (part 3 0 1 .running) up ≤ 0 + 1)
    ∧ (let d := dput (dput 2#512 0x2C 0 8 0x30) 0x3C 6 2 3
       let e := fly 1 2 d [part 3 0 1 .running, part 4 1 2 .running]
       let f := fly 1 2 d [part 3 0 1 .running, part 4 1 2 .ended]
       let v (x : InFlight) : State := setVx 3 (some ⟨1, 0, 1, true⟩) { vxAt d 0 with inflight := [x] }
       vopAXIS d = 3 ∧ vopSpread e = true ∧ partWalked e 1 (v e) = false
         ∧ vopSpread f = true ∧ partWalked f 0 (v f) = true ∧ partWalked f 1 (v f) = true) := by decide
theorem wit_VectorEngine_encode :
    (let b : EncBlk := ⟨3, 3, 1, 0, 1, [0, 0, 0, 0], 0, 1, [(0, .fin false 1 0, false, 0)]⟩
     encReady 3 { vxAt vopTiny 0 with encs := [b] } = some b
       ∧ (let c : EncBlk := { b with dest := 4 }
          let s := { vxAt vopTiny 0 with encs := [c], inflight := [fly 1 2 vopTiny [part 4 0 1 .running]] }
          s.encs.find? (fun b => decide (b.core = 3) && decide (b.dest ≠ 3)) = some c ∧ vectorUp 4 s = true ∧ optGet s.vx 4 = none
            ∧ (∀ x ∈ (encDrop c s).encs, ¬ (x.core = c.dest ∧ x.dest = c.dest ∧ x.id = c.id ∧ x.handle = c.handle ∧ x.first = c.first))
            ∧ ∀ q ∈ (fly 1 2 vopTiny [part 4 0 1 .running]).parts, q.core ≠ 3 ∨ q.st ≠ .running)) := by decide

/-! Data movement, memory units and cartridges. -/

/-- A tensor of one GF16 pane in tier D, in memory unit 16, slot 0, owned by casement 0. -/
def tens : Tensor := ⟨4, 0, [16, 1, 1, 1], [0, 0, 0, 0], 2, 0, 0, 0, 0, 0⟩
/-- A device whose memory unit 16 is ready and holds the tensor's pane. -/
def dram : State :=
  { withF [(GLB.SHUT_STATE 52, 2), (MU.MUSTAT_TSTATE 16, 4), (MU.MUSLOTS_SLOTS 16, 16384), (TIER.MQHANDLE_HANDLE, 4)] up with
    image := some ⟨0, false, [], 1, 1, 1, 1, [⟨none, true, 1, true⟩], [(1, 0)], [], [], [], [], [], [tens], [], [], []⟩ }

theorem dram_late : Served .late dram := ⟨⟨rfl, rfl⟩, by decide⟩
theorem wit_PanesMoveAndReplaceWaits : alive up = true ∧ neededPanes 3 up = []
    ∧ (let d := dput mmaTiny 0x10 0 32 4
       let s := { dram with mx := [(3, mxRun)], inflight := [fly 1 1 d [part 3 0 1 .running]] }
       alive s = true ∧ (neededPanes 3 s).filter (fun x => decide (x.2.1 = 4) && decide (x.2.2 = 0) && (stagedPane 3 x.1 4 0 s).isNone) = [(1, 4, 0)]) := by
  decide
theorem wit_PanesMoveAndReplaceWaits_way :
    (let d := dput mmaTiny 0x10 0 32 4
     let s := { dram with mx := [(3, mxRun)], inflight := [fly 1 1 d [part 3 0 1 .running]] }
     let t := { s with copies := [⟨32, 1, 4, 0, some ⟨[], false, [], 0, false⟩, [], [], [], false, []⟩] }
     (wantedAt 3 s).filter (fun x => (decide (x.2.1 = 4) && decide (x.2.2 = 0) && (stagedPane 3 x.1 4 0 s).isNone)
         && (lintelCopy 3 x.1 4 0 s).isNone) = [(1, 4, 0)] ∧ wayOpen 3 4 0 s = true
       ∧ (wantedAt 3 t).filter (fun x => (decide (x.2.1 = 4) && decide (x.2.2 = 0) && (stagedPane 3 x.1 4 0 t).isNone)
         && (lintelCopy 3 x.1 4 0 t).isSome) = [(1, 4, 0)] ∧ pathOpen [32 + (32 + 3 / 8), endOf 3] t = true
       ∧ pathOpen [32 + (32 + 3 / 8), endOf 3] (setHinge 7 64 (fun h => { h with stalled := some (7, 0) }) t) = false) := by decide
theorem wit_PanesMoveAndReplaceWaits_back :
    (let w : WorkCopy := ⟨3, 1, 4, 0, none, [(0, 1#8)], [(0, 1)], [], false, []⟩
     let s := { dram with copies := [w], inflight := [fly 1 1 mmaTiny [part 3 0 1 .running]] }
     alive s = true ∧ s.copies.find? (fun c => decide (c.core = 3) && decide (c.handle = 4) && decide (c.pane = 0) && unsaved c) = some w
       ∧ writeBackWaits w s = none ∧ flight w.owner (cleanCopy w s) = some (fly 1 1 mmaTiny [part 3 0 1 .running])
       ∧ s.copies.find? (fun c => decide (c.core = 3) && decide (c.handle = 5) && decide (c.pane = 0) && unsaved c) = none) := by decide
theorem wit_PanesMoveAndReplaceWaits_replace : Served .late up ∧ takingStopped up = false ∧ takingStopped (withF [(TIER.STAT_BUSY, 1)] up) = true
    ∧ getF TIER.CTRL_REPLACE (withF [(TIER.CTRL_REPLACE, 1)] up) = 1 ∧ up.inflight = [] ∧ (regionOf 99 up).inReset = false
    ∧ (mxAt mxRun mmaTiny).inflight ≠ [] := ⟨up_late, by decide⟩
theorem wit_PanesMoveAndReplaceWaits_placed : getF IMG.STAT_STATE (replaceNow (withF [(TIER.CTRL_REPLACE, 1)] up)) ≠ 4 := by decide
theorem wit_MetadataReads : Served .late dram ∧ mqRoot (setF TIER.MQCMD_OP 0 up) = none ∧ mqRoot (setF TIER.MQCMD_OP 0 dram) = some tens
    ∧ getF TIER.MQPANE_PANE dram < paneCount tens ∧ localPane tens 0 (setF TIER.MQCMD_OP 0 dram) = true
    ∧ paneCount tens ≤ getF TIER.MQPANE_PANE (withF [(TIER.MQPANE_PANE, 1)] dram) ∧ unitOpen 17 dram = false ∧ unitOpen 16 dram = true
    ∧ mqRoot (setF TIER.MQCMD_OP 1 dram) = some tens := ⟨dram_late, by decide⟩
theorem wit_MetadataReads_held : ∃ s : State, s = { dram with panes := [(paneKey 4 0, ⟨1, 16, 0⟩)] }
    ∧ paneLoc 4 0 s = some ⟨1, 16, 0⟩ ∧ paneLoc 4 0 { dram with panes := [(paneKey 4 0, ⟨1, 17, 0⟩)] } = some ⟨1, 17, 0⟩ := ⟨_, rfl, by decide⟩

def row0 : RowAddr := ⟨0, 0, 0, 0, 0, 7⟩
/-- `dram` with the queue of unit 16's subchannel 0 granted to a requester. -/
def granted : State := withF [(ARB.STAT_OWNED 640, 1)] dram
theorem wit_MemoryWriteStores : AccessServed 16 16383 66496 row0 granted ∧ 66496 % 256 + (List.replicate 64 (1#8 : Byte)).length ≤ 256
    ∧ muServes 16 dram = true ∧ muHas 16 16383 66496 dram = true ∧ rowServes 16 16383 66496 row0 dram = true
    ∧ getF (ARB.STAT_OWNED (queueArb 16 (queueOfByte 16 16383 66496))) dram = 0
    ∧ rowHeld 16 row0 (setMuAux 16 (fun a => { a with pend := [(0, row0, 1)] }) granted) = true
    ∧ (∀ q ∈ (muAuxOf 16 dram).queue, queueOfByte 16 q.slot q.off = queueOfByte 16 16383 66496 → rowHeld 16 q.row dram = true) := by
  unfold AccessServed; decide
theorem wit_CodewordsAndRepair : AccessServed 16 3 256 row0 granted ∧ muServes 16 dram = true ∧ rowHeld 16 row0 dram = false
    ∧ muHas 16 3 256 dram = true ∧ rowServes 16 3 256 row0 dram = true ∧ lineOf (memAddr 16 3 256) ∉ dram.poison
    ∧ lineOf (memAddr 16 3 256) ∈ ({ dram with poison := [lineOf (memAddr 16 3 256)] } : State).poison
    ∧ getF (MU.MUCTL_SCRUBEN 16) (withF [(MU.MUCTL_SCRUBEN 16, 1)] dram) = 1 ∧ getF (MU.MUCTL_SCRUBEN 16) (withF [(MU.MUCTL_SCRUBEN 16, 0)] dram) = 0
    ∧ (muAuxOf 16 (setMuAux 16 (fun a => { a with pend := [(0, row0, 1)] }) dram)).pend.find? (fun p => decide (p.2.1 = row0)) = some (0, row0, 1) := by
  unfold AccessServed; decide
theorem wit_MemoryUnits : fatal dram = false ∧ (regionOf (muRegion 16) dram).inReset = false ∧ (regionOf (muRegion 16) dram).down = false
    ∧ getF (MU.MUSTAT_TSTATE 16) dram ≠ 0 ∧ (110 : Int) ≤ (110 : Nat) ∧ ((getF (MU.MUTHR_T2 16) dram : Nat) : Int) < 111
    ∧ getF (MU.MUSTAT_TSTATE 16) (withF [(MU.MUSTAT_TSTATE 16, 1)] dram) = 1 ∧ (muAuxOf 16 dram).fell = 0
    ∧ (ratesOf 16 9000).length = 2 ∧ supportedGib 16 64 = true ∧ (ratesOf 16 9000)[0]? = some 128 ∧ (ratesOf 3 0).length = 3 ∧ supportedGib 3 64 = true
    ∧ getF (MU.MUSTAT_TSTATE 16) (withF [(MU.MUSTAT_TSTATE 16, 2)] dram) = 2
    ∧ getF (MU.MUSTAT_TSTATE 16) (withF [(MU.MUSTAT_TSTATE 16, 3)] dram) = 3 := by decide
theorem wit_MemoryUnits_louvre : (85 : Nat) < 95 ∧ muLouvre 85 95 85 = 16 ∧ muLouvre 85 95 86 = 14 ∧ muLouvre 85 95 95 = 1 ∧ muLouvre 85 95 96 = 1 := by decide

/-- A READY cartridge in port 1. -/
def cart : State :=
  setCart 1 (fun a => { a with present := true, seated := true, powered := true, label := some ⟨[], 4, 1, 0, []⟩ })
    (withF [(GLB.SHUT_STATE 101, 2), (CART.CPSTAT_CSTATE 1, 4), (CART.CPCAP_CAPGIB 1, 8192), (CART.CPRATED_RATED 1, 10 ^ 6), (CART.CPCAP_PSIZE 1, 4)] up)

theorem wit_Cartridges : (cartAuxOf 1 up).present ≠ true ∧ fatal up = false
    ∧ (let s := withF [(GLB.SHUT_STATE 101, 2), (REG.LIC_COUNT 98, 2 ^ 24)] (setCart 1 (fun a => { a with present := true }) up)
       2 ^ 24 ≤ licSince 98 (cartAuxOf 1 s).since s ∧ (cartAuxOf 1 s).present = true ∧ (cartAuxOf 1 s).seated = false ∧ getF (GLB.SHUT_STATE 101) s = 2)
    ∧ (let s := withF [(REG.LIC_COUNT 98, 2 ^ 24)] (setCart 1 (fun a => { a with present := false }) cart)
       2 ^ 24 ≤ licSince 98 (cartAuxOf 1 s).since s ∧ (cartAuxOf 1 s).present = false ∧ (cartAuxOf 1 s).seated = true ∧ getF (GLB.SHUT_STATE 101) s = 2)
    ∧ licSince 98 (cartAuxOf 1 up).since (withF [(REG.LIC_COUNT 98, 2 ^ 24 - 1)] up) < 2 ^ 24
    ∧ getF (CART.CPSTAT_CSTATE 1) (withF [(CART.CPSTAT_CSTATE 1, 1), (REG.LIC_COUNT 98, 2 ^ 27)] up) = 1
    ∧ 2 ^ 27 ≤ licSince 98 0 (withF [(CART.CPSTAT_CSTATE 1, 1), (REG.LIC_COUNT 98, 2 ^ 27)] up) := by decide
def ready1 : CartInit := ⟨List.replicate 8 2400, [some ⟨[], 4, 1, 0, []⟩]⟩
theorem wit_Cartridges_identity : identityReason 1 ⟨false, [], 0, true⟩ up = 1 ∧ getF (CART.CPSTAT_CSTATE 1) (withF [(CART.CPSTAT_CSTATE 1, 1)] up) = 1
    ∧ getF (CART.CPSTAT_CSTATE 1) (withF [(CART.CPSTAT_CSTATE 1, 2)] up) = 2 ∧ getF (CART.CPSTAT_CSTATE 1) (withF [(CART.CPSTAT_CSTATE 1, 3)] up) = 3
    ∧ storageKey up = false ∧ storageKey (withF [(KEY.STAT_STATE, 1)] up) = true ∧ ready1.rates.length = 8
    ∧ (∀ r ∈ ready1.rates, r = 3600 ∨ r = 2400 ∨ r = 1600) ∧ (labelOf 1 ready1 up).isSome = true ∧ (cartAuxOf 1 up).label = none
    ∧ (cartAuxOf 1 cart).label = some ⟨[], 4, 1, 0, []⟩ := by decide

/-- A record is accepted when its signature holds, which the model leaves to Ed25519 (log 31). -/
theorem wit_Cartridges_signed (i : CartIdentity) (h1 : i.readable = true)
    (h2 : Config.ed25519Verify Config.cartridgeKey (byteSlice i.record 0 0xC0) (byteSlice i.record 0xC0 64) = true) (h3 : recValid i.record = true)
    (h4 : i.geometryAgrees = true) (h5 : serialHeld 1 (recSerial i.record) up = false) : identityReason 1 i up = 0 := by
  unfold identityReason; simp [h1, h2, h3, h4, h5]
theorem wit_CartridgeCommands : portReady 1 up = false ∧ cartCmdErr 1 cart = 0 ∧ cartWorn 1 cart = false
    ∧ 32 * getF (CART.CPCMD_PSIZE 1) (withF [(CART.CPCMD_PSIZE 1, 256)] cart) ≤ getF (CART.CPCAP_CAPGIB 1) cart
    ∧ getF (CART.CPCAP_CAPGIB 1) cart < 32 * getF (CART.CPCMD_PSIZE 1) (withF [(CART.CPCMD_PSIZE 1, 257)] cart)
    ∧ (cartAuxOf 1 cart).label.isSome = true ∧ cartWorn 1 (withF [(CART.CPSTAT_WORN 1, 1)] cart) = true
    ∧ cartCmdErr 1 (withF [(CART.CPSTAT_WORN 1, 1)] cart) = 0 ∧ (cartAuxOf 1 cart).commit = none
    ∧ wearRoom 1 0 cart = true ∧ wearRoom 1 (2 ^ 40) cart = false
    ∧ (cartAuxOf 1 (setCart 1 (fun a => { a with commit := some 5 }) cart)).commit = some 5 := by decide
/-- What writing a label programs is a free value (log 253): with none the cartridge stays in service, with enough it is worn. -/
theorem wit_CartridgeCommands_label : cartWorn 1 (programWhole 1 0 cart) = false ∧ cartWorn 1 (programWhole 1 (10 ^ 18) cart) = true
    ∧ portReady 1 cart = true ∧ (cartAuxOf 1 (setCart 1 (fun a => { a with label := none }) cart)).label = none
    ∧ cartCmdErr 1 (setCart 1 (fun a => { a with label := none }) cart) = 0 ∧ portPanes 1 cart = 0
    ∧ (∃ e ∈ ({ cart with inflight := [fly 1 6 (dput (dput 6#512 0x11 0 8 1) 0x12 0 8 1) []] } : State).inflight, chkpUses 1 e = true) := by decide
/-- FIPS 197: the product of section 4.2, a value of the S-box and its inverse, and the last round key of example C.3. -/
theorem test_aes_field : gfMul 0x57 0x83 = 0xC1 ∧ aesSub 0x53 = 0xED ∧ aesUnsub 0xED = 0x53 := by decide +kernel
theorem test_aes_keys : (aesKeys (List.range 32)).getD 14 []
    = [0x24, 0xFC, 0x79, 0xCC, 0xBF, 0x09, 0x79, 0xE9, 0x37, 0x1A, 0xC2, 0x3C, 0x6D, 0x68, 0xDE, 0x36] := by decide +kernel
theorem test_aes_rows : aesShift id (List.range 16) = [0, 5, 10, 15, 4, 9, 14, 3, 8, 13, 2, 7, 12, 1, 6, 11]
    ∧ aesShift (fun r => 4 - r) (aesShift id (List.range 16)) = List.range 16 := by decide +kernel
theorem test_aes_columns : (aesMix [2, 3, 1, 1] ([0xDB, 0x13, 0x53, 0x45] ++ List.replicate 12 0)).take 4 = [0x8E, 0x4D, 0xA1, 0xBC]
    ∧ (aesMix [14, 11, 13, 9] ([0x8E, 0x4D, 0xA1, 0xBC] ++ List.replicate 12 0)).take 4 = [0xDB, 0x13, 0x53, 0x45] := by decide +kernel

/-! Compression, check units and the sweep. -/

def job : CompJob := ⟨1, 5, false, 0, 0, none, [], [], 0, 0, false⟩
theorem wit_StreamsAdvance : ceAlive 5 up = true ∧ cjobOf 5 up = none ∧ linkStream 5 up = none
    ∧ cjobOf 5 { up with cjobs := [job] } = some job ∧ cjobOf 5 { up with cjobs := [{ job with decode := true }] } = some { job with decode := true }
    ∧ flight 1 { up with inflight := [fly 1 8 8#512 [part 0 0 1 .running]] } = some (fly 1 8 8#512 [part 0 0 1 .running]) := by decide
theorem wit_StreamsAdvance_rebuild :
    (let d := dput (dput 8#512 0x2D 0 8 2) 0x2E 0 8 1
     let e := fly 1 8 d [part 0 0 1 .running]
     let s := { up with cjobs := [job], inflight := [e] }
     flight 1 s = some e ∧ rebuildDue (encodeCoding e) (cmBUILD e.desc) (decide (job.block = 0)) (ctxOf job.ctx s) = true
       ∧ rebuildDue (encodeCoding e) (cmBUILD e.desc) (decide (job.block = 0)) (ctxOf job.ctx (setCtx 5 (fun k => { k with built := true }) s)) = false
       ∧ recMode (imageBytes e 0 12 s) ≠ 3) := by decide
theorem wit_CrcDetectsAnyByte : (3 : Nat) < 4 ∧ (0xFFFF : Nat) < 2 ^ ckWidth 3 := by decide
theorem wit_CheckUnits :
    (let s := withF [(CK.CKCTL_ARM 9, 1), (CK.CKCTL_TAP 9, 2), (CK.CKMATCH_MATCH 9, 4), (CK.CKLIMIT_LIMIT 9, 1)] up
     getF (CK.CKCTL_ARM 9) s = 1 ∧ getF (CK.CKCTL_TAP 9) s = 2 ∧ getF (CK.CKMATCH_MATCH 9) s = 4 ∧ (9 : CheckNo).val ∉ s.ckFenced ∧ fatal s = false
       ∧ (regionOf (ckRegion 9) s).inReset = false ∧ getF (CK.CKLIMIT_LIMIT 9) s ≠ 0
       ∧ getF (CK.CKLIMIT_LIMIT 9) s = (getF (CK.CKCOUNT_COUNT 9) s + 1) % 2 ^ 64 ∧ getF (CK.CKCTL_OWNER 9) s ≠ 1)
    ∧ getF (CK.CKCTL_ARM 9) up ≠ 1 := by decide
theorem wit_CheckUnits_writes :
    (let s := withF [(CK.CKCTL_OWNER 9, 1)] up
     Served .late s ∧ (9 : CheckNo).val ∉ s.ckFenced ∧ getF (CK.CKCTL_OWNER 9) s = 1) ∧ Served .late up ∧ (9 : CheckNo).val ∉ up.ckFenced
    ∧ getF (CK.CKCTL_OWNER 9) up = 0 ∧ getF (CK.CKCTL_ARM 9) up = 0 ∧ 0x10 % 32 ≤ 16 ∧ 16 < 0x11 % 32
    ∧ getF (CK.CKCTL_ARM 9) (withF [(CK.CKCTL_ARM 9, 1)] up) = 1 := ⟨⟨⟨⟨rfl, rfl⟩, by decide⟩, by decide⟩, up_late, by decide⟩
/-- A SWEEP at work on engine 0: one factor unit, then one shard. -/
def swJob : SweepJob := ⟨1, [], [], [⟨0, 0, 1, 0, 1, none⟩], false, [], [], [], []⟩
theorem wit_SweepAdvancesAndLambda :
    (let s := { up with sweeps := [swJob], inflight := [fly 1 5 5#512 [part 32 0 1 .running]] }
     sweepAlive 0 s = true ∧ nextPart 0 s = some (fly 1 5 5#512 [part 32 0 1 .running], swJob, 0, ⟨0, 0, 1, 0, 1, none⟩, true, 0)
       ∧ s.sweeps.find? (fun j => !j.shards) = some swJob ∧ alive s = true ∧ (∃ p ∈ swJob.parts, p.fpos < p.fend)
       ∧ ∀ p ∈ ({ swJob with parts := [⟨0, 1, 1, 0, 1, none⟩] } : SweepJob).parts, p.fend ≤ p.fpos) := by decide
theorem wit_SweepAdvancesAndLambda_lambda : nextLam 126 0x337FFFFF = 127 ∧ nextLam 127 0 = 127 ∧ nextLam (-127) 0x4B800000 = -128
    ∧ nextLam (-128) 0x4B800000 = -128 ∧ nextLam 5 0x33800000 = 5 ∧ nextLam 5 0x4B7FFFFF = 5 := by decide
/-- An EXP table of generation 1 for GF16 whose 128 symbols all have codes of 7 bits (R382, R391). -/
def table : CompTable := ⟨1, 1, 2, 0, 0, List.replicate 64 0x77#8⟩
/-- A DECODE whose image, of 200 bytes at the window's offset 0, has the table's message after its header. -/
def decJob : CompJob := { job with decode := true, off := 32 }
def imageDev : State :=
  let s := { withF [(HOSTIF.HDMSTAT_STATE, 2)] dram with
    winRuns := [(16, 0, 4096)], cjobs := [decJob], inflight := [fly 1 8 8#512 [part 0 0 1 .running]] }
  memPutCells (winAddr 0 s) 4096 ((8, 200#8) :: (indexFrom 32 (tableMessage table))) s
theorem wit_StreamsAdvance_table :
    (let e := fly 1 8 8#512 [part 0 0 1 .running]
     ceAlive 5 imageDev = true ∧ cjobOf 5 imageDev = some decJob ∧ decJob.decode = true ∧ flight decJob.id imageDev = some e
       ∧ recMode (imageBytes e decJob.off 16 imageDev) = 3 ∧ (imageBytes e decJob.off 16 imageDev).length = 16
       ∧ tableLen (imageBytes e decJob.off 16 imageDev) ≤ 4116
       ∧ winRangePoisoned (cmHOFF e.desc + decJob.off) (tableLen (imageBytes e decJob.off 16 imageDev)) imageDev = false
       ∧ readTable (imageBytes e decJob.off (tableLen (imageBytes e decJob.off 16 imageDev)) imageDev) = some table) := by decide +kernel
theorem wit_StreamsAdvance_poison :
    (let e := fly 1 8 8#512 [part 0 0 1 .running]
     let s := { imageDev with poison := [lineOf (winAddr 32 imageDev)] }
     winRangePoisoned (cmHOFF e.desc + decJob.off) (tableLen (imageBytes e decJob.off 16 s)) s = true
       ∧ recMode (imageBytes e decJob.off 16 s) = 3 ∧ tableLen (imageBytes e decJob.off 16 s) ≤ 4116) := by decide +kernel
/-- A SWEEP in its shard phase over one weight of one shard, which has completed. -/
def shardJob : SweepJob := { swJob with shards := true, results := [(0, none)], parts := [⟨0, 1, 1, 0, 1, none⟩] }
def sweepDev : State :=
  let t (h r : Nat) : Tensor := ⟨h, 0, [16, 1, 1, 1], [0, 0, 0, 0], 3, 0, 0, 0, r, 0⟩
  { up with
    image := some ⟨0, false, [], 1, 1, 1, 1, [⟨none, true, 1, false⟩], [], [], [], [], [], [], [t 2 0, t 3 1, t 4 2],
      [(0, [2#8, 0#8, 0#8, 0#8] ++ List.replicate 4 0#8 ++ [3#8, 0#8, 0#8, 0#8] ++ List.replicate 20 0#8)], [], []⟩
    sweeps := [shardJob], inflight := [fly 1 5 5#512 [part 32 0 1 .running]] }
theorem wit_SweepAdvancesAndLambda_prefetch :
    (let e := fly 1 5 5#512 [part 32 0 1 .running]
     let x : SwUnit := ⟨0, 2, [(0, 0)]⟩
     let p : SweepPart := ⟨0, 1, 1, 0, 1, none⟩
     sweepAlive 0 sweepDev = true ∧ nextPart 0 sweepDev = some (e, shardJob, 0, p, false, 0)
       ∧ ((List.range ((if false then p.fend else p.send) - 0)).map (fun i => 0 + i)).find? (fun v => !shardJob.ahead.contains v) = some 0
       ∧ (if false then swFactorUnits e.desc sweepDev else (swShardUnits e.desc sweepDev).1)[0]? = some x
       ∧ 0 - 0 < min (getF TRN.SWPRE_DEPTH sweepDev)
           (64 / max 1 ((unitPanes x ((swEntries sweepDev).getD x.ent []) sweepDev).map (fun q => q.2.length)).sum)) := by decide
theorem wit_SweepAdvancesAndLambda_shard :
    (let e (v : Nat) := fly 1 5 (dput 5#512 0x10 0 32 v) [part 32 0 1 .running]
     let at' (v : Nat) (s : State) := peep 3 0 1 66560 (replayGroups 0 { s with inflight := [e v] })
     let x : SwUnit := ⟨0, 2, [(0, 0)]⟩
     (swShardUnits (e 1).desc (replayGroups 0 { sweepDev with inflight := [e 1] })).1[0]? = some x ∧ x.ent ∉ shardJob.bad ∧ x.kind ≠ 3
       ∧ shardAct (spSTEP (e 1).desc) ((swEntries (replayGroups 0 sweepDev)).getD x.ent []) 0 (at' 1 sweepDev) = .full
       ∧ shardAct (spSTEP (e 2).desc) ((swEntries (replayGroups 0 sweepDev)).getD x.ent []) 0 (at' 2 sweepDev) ≠ .full
       ∧ 0 ∈ ({ shardJob with bad := [0] } : SweepJob).bad ∧ (({ eng := 0, fpos := 1, fend := 1, spos := 0, send := 1, mid := some [] } : SweepPart).mid ≠ none)) := by
  decide
/-- A SWEEP in its shard phase over one entry with factors, of which one row pane is a unit of the factor phase. -/
def factorDev : State :=
  let t (h r : Nat) : Tensor := ⟨h, 0, [16, 1, 1, 1], [0, 0, 0, 0], 3, 0, 0, 0, r, 0⟩
  { sweepDev with
    image := some ⟨0, false, [], 1, 1, 1, 1, [⟨none, true, 1, false⟩], [], [], [], [], [], [], [t 2 0, t 3 1, t 4 2, t 5 3, t 6 4],
      [(0, [2#8, 0#8, 0#8, 0#8] ++ List.replicate 4 0#8 ++ [3#8, 0#8, 0#8, 0#8, 4#8, 0#8, 0#8, 0#8, 5#8, 0#8, 0#8, 0#8, 6#8, 0#8, 0#8, 0#8]
        ++ List.replicate 5 0#8 ++ [3#8, 0#8, 0#8])], [], []⟩
    sweeps := [{ swJob with parts := [⟨0, 0, 2, 0, 1, none⟩] }] }
theorem wit_SweepAdvancesAndLambda_factor :
    (let e := fly 1 5 5#512 [part 32 0 1 .running]
     let j : SweepJob := { swJob with parts := [⟨0, 0, 2, 0, 1, none⟩] }
     sweepAlive 0 factorDev = true ∧ nextPart 0 factorDev = some (e, j, 0, ⟨0, 0, 2, 0, 1, none⟩, true, 0)
       ∧ (swFactorUnits e.desc (replayGroups 0 factorDev))[0]? = some ⟨0, 0, [(0, 0)]⟩) := by decide
theorem wit_SweepAdvancesAndLambda_zero :
    (let e := fly 1 5 (dput 5#512 0x3C 1 1 1) [part 32 0 1 .running]
     let s := withF [(TIER.RPDEG_REPLICA, 2), (TIER.RPNODE_REPLICA, 1)] { sweepDev with
       image := sweepDev.image.map (fun im => { im with tensors := im.tensors.map (fun t => { t with role := 3 }) }), inflight := [e] }
     nextPart 0 s = some (e, shardJob, 0, ⟨0, 1, 1, 0, 1, none⟩, false, 0)
       ∧ (swShardUnits e.desc (replayGroups 0 s)).1[0]? = some ⟨0, 3, [(0, 0)]⟩) := by decide
theorem wit_SweepAdvancesAndLambda_layer :
    alive sweepDev = true ∧ sweepDev.sweeps.findSome? (fun j => (flight j.id sweepDev).bind
      (fun e => if layerDue e j 0 sweepDev then some (j, e) else none)) = some (shardJob, fly 1 5 5#512 [part 32 0 1 .running]) := by decide
theorem wit_SweepAdvancesAndLambda_commit :
    (let e := fly 1 5 5#512 [part 32 0 1 .running]
     (layerStat 0 sweepDev).step = spSTEP e.desc ∧ (layerStat 0 { sweepDev with layerStats := [(0, { statInit with step := 7 })] }).step ≠ spSTEP e.desc) := by
  decide
/-- A queue that a load leaves unbound is DISABLED, whatever it was (R591). -/
theorem test_unbound_queue : getF (CMDQ.QSTAT_STATE 3) (unbindQueue 3 (withF [(CMDQ.QSTAT_STATE 3, 3), (CMDQ.QBIND_VALID 3, 1)] up)) = 0
    ∧ getF (CMDQ.QBIND_VALID 3) (unbindQueue 3 (withF [(CMDQ.QBIND_VALID 3, 1)] up)) = 0 := by decide
theorem wit_PhasesAndCarriages : 1024 ≤ licSince 99 up.phStamp (withF [(REG.LIC_COUNT 99, 1024)] up) ∧ fatal up = false ∧ (regionOf 99 up).inReset = false
    ∧ licSince 99 up.phStamp (withF [(REG.LIC_COUNT 99, 1023)] up) < 1024 ∧ Served .late up ∧ getF TRN.CKRECV_ARMED up ≠ 1 :=
  ⟨by decide, by decide, by decide, by decide, up_late, by decide⟩
theorem wit_PhasesAndCarriages_receive :
    (let m : Member := ⟨2, [], [], ⟨0, 0⟩, []⟩
     let s := { withF [(ND.NDSELF_MEMBER, 1), (ND.NDSELF_NODE, 1), (TRN.CKRECV_ARMED, 1), (TRN.CKRCOUNT_COUNT, 1), (TRN.CKRECV_PORT, 1)] cart with
       nd := { NdAux.init with members := [m] } }
     ndAlive s = true ∧ getF ND.NDSELF_MEMBER s = 1 ∧ 2 ≠ ownNode s ∧ (memberAt 2 s.nd.members).isSome = true ∧ getF TRN.CKRECV_ARMED s = 1
       ∧ ceilDiv (List.replicate 1024 (0#8 : Byte)).length 65536 ≤ getF TRN.CKRCOUNT_COUNT s ∧ cartOpen (getF TRN.CKRECV_PORT s) s = true
       ∧ getF (CART.CPSTAT_FOREIGN (getF TRN.CKRECV_PORT s)) s ≠ 1 ∧ cartWorn (getF TRN.CKRECV_PORT s) s = false
       ∧ getF TRN.CKRFIRST_UNIT s + ceilDiv (List.replicate 1024 (0#8 : Byte)).length 65536 ≤ persistUnits (getF TRN.CKRECV_PORT s) s) := by decide

theorem wit_PhasesAndCarriages_worn :
    (let img := List.replicate 8 (0#8 : Byte)
     (∃ v, putPersist 1 0 img cart = (v, true)) ∧ ∃ v, putPersist 1 0 img (withF [(CART.CPRATED_RATED 1, 0)] cart) = (v, false)) :=
  ⟨⟨_, rfl⟩, ⟨_, rfl⟩⟩
/-! Links, transport, membership and collectives. -/

/-- A device whose doorway 5 is open and trained. -/
def door : State := withF [(GLB.SHUT_STATE 73, 2), (DW.DWSTAT_LSTATE 5, 2), (DW.DWSTAT_WIDTH 5, 4), (DW.DWSTAT_RATE 5, 40)] up

theorem wit_LinksFlitsAndFrames : Served .late up ∧ 0x12 / 16 % 4 ≠ 3 ∧ 0x32 / 16 % 4 = 3 ∧ 0x12 % 2 = getF (DW.DWCTL_MODE 5) up ∧ getF (GLB.SHUT_STATE 73) up = 0
    ∧ 1 % 2 ≠ getF (DW.DWCTL_MODE 5) door ∧ getF (GLB.SHUT_STATE 73) door ≠ 0
    ∧ getF (DW.DWSTAT_LSTATE 5) (withF [(DW.DWSTAT_LSTATE 5, 1)] door) = 1 ∧ dwAlive 5 door = true
    ∧ trainingAllowed 5 4 40 door = true ∧ trainingAllowed 5 3 40 door = false ∧ getF (DW.DWSTAT_LSTATE 5) door = 2 :=
  ⟨up_late, by decide⟩
theorem wit_LinksFlitsAndFrames_send : isEth 5 door = false ∧ dwOpen 5 door = true ∧ egressClass 5 (peep 6 5 1 1 door) = none
    ∧ (let s := setDw 5 (fun a => { a with egress := [(1, [1#8], 0)] }) door
       egressClass 5 (peep 6 5 1 1 s) = some 1 ∧ (dwAuxOf 5 s).egress.find? (fun e => decide (e.1 = 1)) = some (1, [1#8], 0))
    ∧ isEth 5 (withF [(DW.DWCTL_MODE 5, 1)] door) = true
    ∧ (3 : Fin 8).val ∈ (dwAuxOf 5 (setDw 5 (fun a => { a with paused := [3] }) door)).paused := by decide
set_option maxRecDepth 200000 in
theorem wit_LinksFlitsAndFrames_flit :
    (let f := flitBytes 1 2 0 0 (List.replicate 628 0#8)
     f.length = 640 ∧ crc32c (f.take 636) = leAt f 636 4 ∧ leAt f 0 1 = 1 ∧ leAt f 1 1 ≤ 2)
    ∧ (let f := flitBytes 2 2 0 0 (List.replicate 628 0#8)
       crc32c (f.take 636) = leAt f 636 4 ∧ leAt f 0 1 = 2 ∧ leAt f 1 1 ≤ 2) := by decide
theorem wit_LinksFlitsAndFrames_pause :
    (let b := List.replicate 12 (0#8 : Byte) ++ [0x88, 0x08, 0x01, 0x01] ++ List.replicate 44 0
     let f := b ++ Machine.leBytes 4 (crc32eth b)
     64 ≤ f.length ∧ f.length ≤ 9216 ∧ crc32eth (f.take (f.length - 4)) = leAt f (f.length - 4) 4
       ∧ beNat (byteSlice (f.take (f.length - 4)) 12 2) = 0x8808 ∧ beNat (byteSlice (f.take (f.length - 4)) 14 2) = 0x0101) := by decide
/-- A frame for `door` in Ethernet mode with port 5: an IPv6 packet between addresses 0 with a UDP datagram of eight bytes. -/
def etherDoor : State := withF [(DW.DWCTL_MODE 5, 1), (DW.DWETH_PORT 5, 5)] door
def udp8 (payload : List Byte) : List Byte :=
  let bare : List Byte := [0, 9, 0, 5, 0, 16, 0, 0] ++ payload
  bare.take 6 ++ beBytes 2 (udpChecksum (List.replicate 16 0) (List.replicate 16 0) bare) ++ payload
def frame8 (port : Byte) : List Byte :=
  let g := List.replicate 12 (0 : Byte) ++ [0x86, 0xDD, 0x60, 0, 0, 0, 0, 16, 17, 64] ++ List.replicate 32 (0 : Byte)
    ++ (udp8 [1, 2, 3, 4, 5, 6, 7, 8]).set 3 port
  g ++ Machine.leBytes 4 (crc32eth g)
theorem wit_LinksFlitsAndFrames_frame :
    (let f := frame8 5
     let g := f.take (f.length - 4)
     let u := peep 6 5 2 1 etherDoor
     let udp := byteSlice g 54 (beNat (byteSlice g 58 2))
     isEth 5 etherDoor = true ∧ dwOpen 5 etherDoor = true ∧ dwAlive 5 etherDoor = true ∧ 64 ≤ f.length ∧ f.length ≤ 9216
       ∧ crc32eth g = leAt f (f.length - 4) 4 ∧ beNat (byteSlice g 12 2) ≠ 0x8808 ∧ getF (DW.DWVLAN_VLANEN 5) u ≠ 1
       ∧ byteSlice g 0 6 = macBytes (getF (DW.DWMAC_MAC 5) u) ∧ beNat (byteSlice g 12 2) ≠ 0x8100 ∧ beNat (byteSlice g 12 2) = 0x86DD
       ∧ byteSlice g 38 16 = ipBytes 5 u ∧ beNat (byteSlice g 20 1) = 17 ∧ beNat (byteSlice udp 2 2) = getF (DW.DWETH_PORT 5) u ∧ 8 ≤ udp.length
       ∧ beNat (byteSlice udp 6 2) ≠ 0
       ∧ beNat (byteSlice udp 6 2) = udpChecksum (byteSlice g 22 16) (ipBytes 5 u) (udp.take 6 ++ [0#8, 0#8] ++ udp.drop 8)
       ∧ beNat (byteSlice (byteSlice ((frame8 4).take ((frame8 4).length - 4)) 54 16) 2 2) ≠ getF (DW.DWETH_PORT 5) u) := by decide +kernel
/-- A pause frame of an operation code that is not PFC's. -/
theorem wit_LinksFlitsAndFrames_control :
    (let b := List.replicate 12 (0#8 : Byte) ++ [0x88, 0x08, 0x00, 0x01] ++ List.replicate 44 0
     let f := b ++ Machine.leBytes 4 (crc32eth b)
     64 ≤ f.length ∧ crc32eth (f.take (f.length - 4)) = leAt f (f.length - 4) 4
       ∧ beNat (byteSlice (f.take (f.length - 4)) 12 2) = 0x8808 ∧ beNat (byteSlice (f.take (f.length - 4)) 14 2) ≠ 0x0101) := by decide
theorem wit_FlitsAndPacketsRoundTrip : (List.replicate 628 (0#8 : Byte)).length = 628 ∧ (15 : Nat) < 16 ∧ 2 ^ 32 - 1 < 2 ^ 32
    ∧ ([1, 2, 3, 4, 5, 6, 7, 8] : List Byte).length < 65536 := ⟨by simp, by simp, by simp, by simp⟩

def rec1 : SendRec := ⟨1, 0, 0, 1, 0, false, true, 4, [1, 2, 3, 4], none⟩
/-- A connection to node 2 over doorway 5 that has sent one packet and expects packet 0. -/
def conn : Conn := ⟨2, 5, false, 1, [rec1], [⟨0, rec1, 1, 0⟩], 16, 0, 0, 0, [], 0, some 0, false, some 0⟩
def net : State := { door with conns := [conn] }
/-- A packet of a kind from node 2 with a PSN, an AUX and a reason. -/
def pkt (kind psn aux reason : Nat) : List Byte := packetBytes kind 1 2 1 1 psn 1 0 aux 0 0 reason 0 [0, 0, 0, 0, 0, 0, 0, 0]
def come (p : List Byte) (s : State) : State := setDw 5 (fun a => { a with arrived := [(p, false)] }) s

theorem wit_TransportDelivers : dwAlive 5 net = true ∧ conn.failed = false ∧ connOf 5 2 net = some conn ∧ dwOpen 5 net = true
    ∧ conn.unacked.length < windowLimit conn net ∧ conn.queue = rec1 :: [] ∧ conn.rxStamp = some 0
    ∧ rtoOf 5 (withF [(REG.LIC_COUNT 81, 2 ^ 30)] net) ≤ 4 * licSince (dwRegion 5) 0 (withF [(REG.LIC_COUNT 81, 2 ^ 30)] net)
    ∧ 4 * licSince (dwRegion 5) 0 net < rtoOf 5 net ∧ conn.unacked = ⟨0, rec1, 1, 0⟩ :: [] ∧ conn.notready = some 0
    ∧ rtoOf 5 (withF [(REG.LIC_COUNT 81, 2 ^ 30)] net) ≤ licSince (dwRegion 5) 0 (withF [(REG.LIC_COUNT 81, 2 ^ 30)] net) := by decide
theorem wit_TransportDelivers_full :
    (let full := { conn with unacked := (List.range 256).map (fun i => ⟨i, rec1, 1, 0⟩) }
     windowLimit full net ≤ full.unacked.length ∧ rtoOf 5 (withF [(REG.LIC_COUNT 81, 2 ^ 30)] net) ≤ licSince (dwRegion 5) 0 (withF [(REG.LIC_COUNT 81, 2 ^ 30)] net)
       ∧ licSince (dwRegion 5) 0 net < rtoOf 5 net) := by decide
theorem wit_TransportDelivers_data :
    ((takeArrived 5 0 (pkt 0 0 0 0) false (come (pkt 0 0 0 0) net)).bind (connOf 5 2) = some conn) ∧ pkPsn (pkt 0 0 0 0) = conn.expect
    ∧ pkPsn (pkt 0 0 0 0) < 2 ^ 32 ∧ (∀ p ∈ conn.window, p.1 ≠ pkPsn (pkt 0 0 0 0)) ∧ pkSrc (pkt 0 0 0 0) = 2
    ∧ 255 < (pkPsn (pkt 0 256 0 0) + 2 ^ 32 - conn.expect) % 2 ^ 32 ∧ (pkPsn (pkt 0 256 0 0) + 2 ^ 32 - conn.expect) % 2 ^ 32 < 2 ^ 31
    ∧ (∃ p ∈ ({ conn with window := [(7, [])] } : Conn).window, p.1 = pkPsn (pkt 0 7 0 0)) := by decide
theorem wit_TransportDelivers_gap :
    (0 < (pkPsn (pkt 0 9 0 0) + 2 ^ 32 - conn.expect) % 2 ^ 32 ∧ (pkPsn (pkt 0 9 0 0) + 2 ^ 32 - conn.expect) % 2 ^ 32 ≤ 255)
    ∧ 2 ^ 31 ≤ (pkPsn (pkt 0 (2 ^ 32 - 1) 0 0) + 2 ^ 32 - conn.expect) % 2 ^ 32
    ∧ ((takeArrived 5 0 (pkt 0 9 0 0) true (setDw 5 (fun a => { a with arrived := [(pkt 0 9 0 0, true)] }) net)).bind (connOf 5 2) = some conn) := by
  decide
theorem wit_TransportDelivers_reply :
    ((takeArrived 5 1 (pkt 1 0 1 0) false (come (pkt 1 0 1 0) net)).bind (connOf 5 2) = some conn) ∧ leNat (pkPayload (pkt 1 0 1 0)) = 0
    ∧ ((takeArrived 5 2 (pkt 2 0 0 2) false (come (pkt 2 0 0 2) net)).bind (connOf 5 2) = some conn)
    ∧ conn.unacked.find? (fun p => decide (p.psn = pkAux (pkt 2 0 0 2))) = some ⟨0, rec1, 1, 0⟩ ∧ pkReason (pkt 2 0 0 2) = 2
    ∧ (takeArrived 5 3 (pkt 3 0 0 0) false (come (pkt 3 0 0 0) net)).isSome = true := by decide

def mem1 : Member := ⟨1, [], [], ⟨0, 0⟩, []⟩
def mem2 : Member := ⟨2, [], [], ⟨0, 0⟩, []⟩
/-- Node 1 coordinates a membership of itself and node 2, and node 3 has joined as far as the host's answer. -/
def node1 : State := { withF [(ND.NDSELF_NODE, 1), (ND.NDSELF_STATE, 2), (ND.NDSELF_MEMBER, 1), (ND.NDSELF_COORD, 1), (ND.NDCOORD_NODE, 1), (ND.NDARG_NODE, 2),
    (ND.NDREQ_NODE, 3), (ND.NDREQ_VALID, 1), (ND.NDEVENT_JOINREQ, 1)] up with
  nd := { NdAux.init with members := [mem1, mem2], joiners := [⟨⟨3, [], [], ⟨0, 0⟩, []⟩, [], [], [], true⟩] } }

theorem wit_MembershipCommands : Served .late up ∧ getF ND.NDSELF_STATE up = 0 ∧ getF ND.NDSELF_STATE node1 ≠ 0
    ∧ getF ND.NDSELF_STATE (withF [(ND.NDSELF_COORD, 0)] node1) = 2 ∧ getF ND.NDSELF_COORD (withF [(ND.NDSELF_COORD, 0)] node1) ≠ 1
    ∧ joinPending up = false ∧ joinPending node1 = true ∧ (takeJoiner node1).1.isSome = true
    ∧ getF ND.NDARG_NODE node1 ≠ ownNode node1 ∧ memberAt 2 node1.nd.members = some mem2
    ∧ lcState up ≠ 3 ∧ lcState { up with otp := { up.otp with rows := [⟨3, false, [], true⟩] } } = 3 := ⟨up_late, by decide⟩
theorem wit_MembershipCommands_leave : getF ND.NDSELF_STATE node1 = 2 ∧ getF ND.NDSELF_COORD node1 = 1
    ∧ dropMember (ownNode node1) node1.nd.members = [mem2] ∧ getF ND.NDSELF_COORD (withF [(ND.NDSELF_COORD, 0)] node1) = 0
    ∧ dropMember (ownNode node1) (setNd (fun n => { n with members := [mem1] }) node1).nd.members = []
    ∧ getF ND.NDSELF_STATE (withF [(ND.NDSELF_STATE, 4)] node1) ≠ 2 ∧ memberAt 9 node1.nd.members = none
    ∧ getF ND.NDARG_NODE (withF [(ND.NDARG_NODE, 1)] node1) = ownNode node1 := by decide

/-- The hypotheses of the clauses on signed packets hold once the signature does, which the model leaves to Ed25519 (log 31). -/
theorem wit_MemberPackets (k m s : List Byte) (h : Config.ed25519Verify k m s = true) :
    ∃ key nonce sig, Config.ed25519Verify key nonce sig = true ∧ ndAlive node1 = true ∧ getF ND.NDSELF_MEMBER node1 = 1 ∧ getF ND.NDSELF_COORD node1 = 1
      ∧ (node1.nd.joiners.find? (fun x => decide (x.who.node = 3))).isSome = true ∧ memberAt 3 node1.nd.members = none := ⟨k, m, s, h, by decide⟩
theorem wit_MemberPackets_hello : (⟨4, .hello ⟨3, [], [], ⟨0, 0⟩, []⟩ [] [], []⟩ : MemberPacket).sender ≠ 3 := by decide
theorem wit_MemberPackets_change :
    (let s := setNd (fun n => { n with change := some ⟨7, 1, [mem1, mem2], [], []⟩ }) node1
     s.nd.change = some ⟨7, 1, [mem1, mem2], [], []⟩ ∧ ([mem1, mem2] ++ []).find? (fun x => decide (x.node = 2)) = some mem2 ∧ 1 = ownNode s
       ∧ (memberAt 2 [mem1, mem2]).isSome = true ∧ getF ND.NDSELF_STATE (withF [(ND.NDSELF_STATE, 3)] s) = 3)
    ∧ (let j := withF [(ND.NDSELF_STATE, 1), (ND.NDSELF_NODE, 3)] up
       ndAlive j = true ∧ j.nd.host = none ∧ getF ND.NDSELF_STATE j = 1 ∧ 3 = ownNode j ∧ (2 : Nat) ≠ ownNode j) := by decide
/-- The clauses on packets of a member hold once the signature does. -/
theorem wit_MemberPackets_member (h : ∀ b, signedBy mem2.key b = true) :
    (let p : MemberPacket := ⟨2, .handover 2 (epochOf node1), []⟩
     fromMember p node1 = true ∧ p.sender = 2 ∧ 2 ≠ ownNode node1 ∧ getF ND.NDSELF_COORD node1 = 1)
    ∧ (let s := withF [(ND.NDSELF_COORD, 0), (ND.NDCOORD_NODE, 2)] node1
       let p : MemberPacket := ⟨2, .prepare (nextEpoch s) 2 [], []⟩
       fromMember p s = true ∧ getF ND.NDSELF_COORD s = 0 ∧ 2 = getF ND.NDCOORD_NODE s
         ∧ ((dropMember 2 s.nd.members).map (fun m => m.node)).headD 65536 = ownNode s ∧ getF ND.NDSELF_STATE s = 2 ∧ getF ND.NDSELF_STATE s ≠ 0
         ∧ s.nd.members ≠ [] ∧ nextEpoch s + 1 ≠ nextEpoch s)
    ∧ (let j := withF [(ND.NDSELF_STATE, 1), (ND.NDSELF_NODE, 3)] up
       getF ND.NDSELF_STATE j = 1 ∧ 3 = ownNode j ∧ j.nd.host = none) := by
  have e (p : MemberPacket) (s : State) (hs : senderKey p.sender s = some mem2.key) : fromMember p s = true := by
    unfold fromMember; rw [hs]; exact h p
  refine ⟨⟨e _ _ (by decide), by decide⟩, ⟨e _ _ (by decide), by decide⟩, by decide⟩

/-- An ALLREDUCE of one block between nodes 1 and 2, of rank 0 here. -/
def coll : CollJob := ⟨1, 9, 0, 0, 0, false, false, [1, 2], 0, 0, 0, 0, 0, 0, [0, 0, 0, 0], 4, [(0, 1, [0, 0, 0, 0])], [], [], [], [], true, [], false, 0, false, []⟩
theorem wit_CollsCommit :
    (let s := { node1 with colls := [coll] }
     collOf 9 s = some coll ∧ alive s = true ∧ hasReduce coll = true ∧ 0 < collSpan coll ∧ blockIn coll.sums 0 = none
       ∧ (regionOf (ceRegion (reduceEngine coll 0 s)) s).inReset = false ∧ (∀ r ∈ childRanks coll 0, (fromChild coll 0 r).isSome = true)
       ∧ (∃ r ∈ childRanks coll 0, fromChild { coll with got := [] } 0 r = none)
       ∧ coll.rank = 0 ∧ 2 ≠ nodeOf coll 0 ∧ 2 ∈ coll.group ∧ 2 ∉ coll.dones ∧ ({ coll with rank := 1 } : CollJob).rank ≠ 0
       ∧ 2 ∈ ({ coll with dones := [2] } : CollJob).dones) := by decide

theorem wit_CollsCommit_may : collComplete { coll with op := 4 } node1 = true ∧ collComplete { coll with op := 5, final := [] } node1 = false
    ∧ coll.commit = false ∧ ({ coll with commit := true } : CollJob).commit = true ∧ ({ coll with rank := 1 } : CollJob).doneSent = true := by decide
theorem wit_TransportDelivers_nacks :
    (let r : SendRec := { rec1 with coded := some (5, 1, 0) }
     let p : TxPkt := ⟨0, r, 1, 0⟩
     let s := { net with conns := [{ conn with unacked := [p] }], colls := [{ coll with tag := 1, recvs := [(2, 5, 5)] }] }
     let t := setCtx 5 (fun k => { k with ret := some table }) s
     pkReason (pkt 2 0 0 3) = 3 ∧ pkReason (pkt 2 0 0 1) = 1 ∧ r.coded = some (5, 1, 0) ∧ pkGen (pkt 2 0 0 1) = 0
       ∧ liveTable 5 0 (peep 6 5 4 1 s) = none ∧ liveTable 5 1 (peep 6 5 4 1 t) = some table
       ∧ (collOf r.tag (linkRecord 0 5 [5, 2, 0] s)).isSome = true ∧ coll.commit = false
       ∧ (takeArrived 5 2 (pkt 2 0 0 1) false (come (pkt 2 0 0 1) s)).isSome = true
       ∧ ((takeArrived 5 3 (pkt 3 0 0 0) false (come (pkt 3 0 0 0) s)).bind (collOf (pkTag (pkt 3 0 0 0)))).isSome = true
       ∧ recvCtx { coll with recvs := [(2, 5, 5)] } 5 (pkSrc (pkt 3 0 0 0)) = some 5
       ∧ readTable (tableMessage table) = some table ∧ readTable (pkPayload (pkt 3 0 0 0)) = none) := by decide +kernel
/-! The image loader, the window and the host interface. -/

theorem wit_ImagesAndPrograms_load : Served .late up ∧ loading up = false ∧ getF IMG.ADDR_ADDR up % 64 = 0
    ∧ getF IMG.ADDR_ADDR (withF [(IMG.ADDR_ADDR, 1)] up) % 64 ≠ 0 ∧ lenAllowed (getF IMG.LEN_LEN up) = false
    ∧ lenAllowed (getF IMG.LEN_LEN (withF [(IMG.LEN_LEN, 4096)] up)) = true ∧ busOk up = true ∧ loading (withF [(IMG.STAT_STATE, 6)] up) = true
    ∧ loaderUp (withF [(IMG.STAT_STATE, 1)] up) = true ∧ imgState (withF [(IMG.STAT_STATE, 1)] up) = 1
    ∧ (outerFault 0 [] up).isSome = true := ⟨up_late, by decide⟩
theorem wit_ImagesAndPrograms_unload :
    (let s := { withF [(IMG.STAT_STATE, 4)] up with load := some ⟨none, none⟩ }
     imgState s = 4 ∧ loaderUp s = true ∧ s.inflight = [] ∧ getF TIER.CTRL_REPLACE s ≠ 1 ∧ s.load = some ⟨none, none⟩) := by decide
theorem wit_ImagesAndPrograms_refetch (im : Image) (p : LoadPlan) :
    (let s := { withF [(IMG.STAT_STATE, 6)] up with load := some ⟨some im, some p⟩ }
     imgState s = 6 ∧ loaderUp s = true ∧ s.load = some ⟨some im, some p⟩) := ⟨by rfl, by rfl, rfl⟩
/-- A program of casement 0 with one DIGEST, whose rounds trigger on fence 0. -/
def prog : Program := ⟨0, [⟨0, 0, 0, 0, 7#512⟩], 0, 0, 0, 1⟩
def progDev : State := { qup with image := some ⟨0, false, [], 1, 1, 1, 1, [⟨none, true, 1, true⟩], [(1, 0)], [], [], [], [], [], [], [], [], [prog]⟩ }
theorem wit_ImagesAndPrograms_entry : programOf 0 progDev = some prog ∧ queueOf 0 progDev = some 1 ∧ roundReady prog (progOf 0 progDev) progDev = true
    ∧ nextEntry prog (progOf 0 progDev) progDev = some 0 ∧ prog.entries[0]? = some ⟨0, 0, 0, 0, 7#512⟩
    ∧ programMayTake 1 (dOpcode (patched ⟨0, 0, 0, 0, 7#512⟩ (progOf 0 progDev).round progDev)) progDev = true
    ∧ roundReady { prog with first := 1 } (progOf 0 progDev) progDev = false ∧ (progOf 0 progDev).next = 0 ∧ (progOf 0 progDev).passed = []
    ∧ qState 1 up ≠ qEnabled := by decide

/-- A READY window of 256 MiB in memory unit 16, with a committed decoder. -/
def window : State :=
  { withF [(HOSTIF.HDMSTAT_STATE, 2), (HOSTIF.HDMSIZE_UNITS, 1), (HOSTIF.HDMCTL_EN, 1)] dram with
    winRuns := [(16, 0, 4096)], cfg := { up.cfg with decoderCommitted := true, decoderSize := 2 ^ 28 } }
theorem wit_WindowLinesReadBack : cxlMapped 0 window = true ∧ cxlMapped (2 ^ 22 - 1) window = true ∧ cxlMapped (2 ^ 22) window = false
    ∧ unitOpen (winSlot window.winRuns (64 * 0 / 65536)).1 window = true
    ∧ unitOpen (winSlot window.winRuns (64 * 0 / 65536)).1 (withF [(GLB.SHUT_STATE 52, 3)] window) = false := by decide
theorem wit_WindowStates : inHold up = false ∧ getF HOSTIF.LNKSTAT_UP up = 0 ∧ getF HOSTIF.LNKSTAT_UP (withF [(HOSTIF.LNKSTAT_UP, 1)] up) = 1
    ∧ ¬ Reached State.reset ∧ Reached window ∧ alive window = true ∧ 2 ^ 28 - 64 + 64 ≤ winLen window ∧ winPoisonLines (2 ^ 28 - 64) 64 window = 0
    ∧ alive State.reset = false :=
  ⟨by decide, by decide, by decide, by intro h; exact absurd h.1 (by decide), ⟨rfl, rfl⟩, by decide⟩
theorem wit_WindowStates_commands : blkServed .early window = true ∧ window.cfg.decoderCommitted = true ∧ winState window = winReady
    ∧ up.cfg.decoderCommitted = false ∧ winState up = winOff ∧ 2 ^ 28 = winLen window ∧ winState window ≠ winOff
    ∧ winState (withF [(HOSTIF.HDMSTAT_STATE, 1)] window) = winZeroing ∧ getF HOSTIF.HDMCTL_EN window = 1
    ∧ winState (withF [(HOSTIF.HDMSTAT_STATE, 3), (HOSTIF.HDMCTL_EN, 0)] window) = winReleasing
    ∧ getF HOSTIF.HDMCTL_EN (withF [(HOSTIF.HDMSTAT_STATE, 3), (HOSTIF.HDMCTL_EN, 0)] window) = 0 ∧ (∀ e ∈ window.inflight, namesWindow e = false) := by
  decide
theorem wit_HostProtocols : up.cfg.msixEnable = true ∧ up.cfg.funcMask = false ∧ busOk up = true
    ∧ ({ up.cfg with pendingVec := [5] } : Cfg).pendingVec = [5] ∧ ({ up.cfg with msixEnable := false } : Cfg).msixEnable = false
    ∧ configHeld up = false ∧ up.doeError = false ∧ alive up = true ∧ configHeld State.reset = true
    ∧ ({ up with flrActive := true } : State).flrActive = true ∧ up.inflight = [] ∧ up.flrActive = false := by decide
theorem wit_HostProtocols_refused : configHeld up = false ∧ ({ up with doeError := true } : State).doeError = true ∧ 65536 < 65537
    ∧ (6 < 7 ∧ (7 : Nat) ≠ 255) ∧ Served .early up ∧ (2047 : Nat) < 2048 ∧ ({ up with flrActive := true } : State).inflight = []
    ∧ configHeld { up with flrActive := true } = true := ⟨by decide, rfl, by decide, by decide, up_early, by decide, rfl, by decide⟩

/-! Arbiters, resets, shutters, the keyhole and the peephole. -/

theorem wit_ArbitersGrant : (arbKind 755).isSome = true ∧ (arbKind 120).isNone = true
    ∧ (let u := raise 0 3 up
       getF (ARB.STAT_OWNED 0) u ≠ 1 ∧ getF (ARB.STAT_ASKING 0) u = 3 ∧ (regionOf (arbRegion 0) u).inReset = false ∧ fatal u = false
         ∧ getF (ARB.STAT_PARKED 0) u ≠ 1 ∧ winnerOf 0 u (participants 0 3 u).2 = some 1)
    ∧ (let u := raise 0 1 (withF [(ARB.STAT_PARKED 0, 1)] up)
       getF (ARB.STAT_PARKED 0) u = 1 ∧ getF (ARB.STAT_ASKING 0) u = 2 ^ getF (ARB.STAT_OWNER 0) u)
    ∧ getF (ARB.STAT_OWNED 0) (raise 0 1 (withF [(ARB.STAT_OWNED 0, 1)] up)) = 1
    ∧ putBits (getF (ARB.STAT_ASKING 0) (raise 0 2 (withF [(ARB.STAT_OWNED 0, 1)] up))) 0 1 0 ≠ 0
    ∧ putBits (getF (ARB.STAT_ASKING 0) (raise 0 0 (withF [(ARB.STAT_OWNED 0, 1)] up))) 0 1 0 = 0
    ∧ mapValid 0 0xBA9876543210 = true ∧ mapValid 0 0xBA9876543211 = false ∧ mapValid 672 0x01F = true ∧ mapValid 672 0x1F0 = false := by decide
theorem wit_ArbitersGrant_bite :
    (let s := withF [(ARB.STAT_OWNED 0, 1), (REG.LIC_COUNT 64, 2 ^ 40)] up
     getF (ARB.STAT_OWNED 0) s = 1 ∧ fatal s = false ∧ (regionOf (arbRegion 0) s).inReset = false
       ∧ getF (ARB.HOLD_LIMIT 0) s * 1024 < licSince (arbRegion 0) (assocGet 0 s.arbStamp 0) s)
    ∧ licSince (arbRegion 0) (assocGet 0 up.arbStamp 0) up ≤ getF (ARB.HOLD_LIMIT 0) up * 1024 := by decide
theorem wit_ArbitersGrant_queues : arbQueue 127 = none ∧ arbQueue 128 = some (0, 0) ∧ arbQueue 671 = some (31, 1) ∧ arbQueue 672 = none
    ∧ getF (CORE.MXSTAT_TRWAIT (755 - 724)) (raise 755 0 (withF [(CORE.MXSTAT_TRWAIT 31, 1), (ARB.STAT_OWNED 755, 1)] up)) = 1
    ∧ getF (CORE.MXSTAT_TRWAIT (755 - 724)) (raise 755 0 (withF [(ARB.STAT_OWNED 755, 1)] up)) = 0
    ∧ getF (ARB.STAT_OWNED 755) (raise 755 0 (withF [(ARB.STAT_OWNED 755, 1)] up)) = 1 := by decide

/-- An environment with no manifest. -/
def bare : BootEnv := ⟨[], [], [], [], true, true, [], [], [], [], true⟩
/-- A device that a temperature has stopped. -/
def hot : State := withF [(GLB.STAT_FATAL, 1), (GLB.STAT_FCAUSE, 3), (REG.TMEAS_TQ 5, 501)] up
theorem wit_ResetsAndBoot : State.reset.porAsserted = true ∧ State.reset.perstAsserted = true
    ∧ ({ State.reset with perstAsserted := false } : State).perstAsserted = false ∧ up.porAsserted = false ∧ up.perstAsserted = false
    ∧ tooHot up = false ∧ tooHot hot = true ∧ hot.awaited ≠ 1 ∧ Reached hot ∧ fatal hot = true ∧ cooled (withF [(REG.TMEAS_TQ 5, 420)] hot) = true
    ∧ cooled (withF [(REG.TMEAS_TQ 5, 421)] hot) = false ∧ ({ hot with awaited := 2 } : State).awaited = 2
    ∧ ({ up with lcPending := true } : State).lcPending = true ∧ up.lcPending = false :=
  ⟨by decide, by decide, by decide, by decide, by decide, by decide, by decide, by decide, ⟨rfl, rfl⟩, by decide⟩
theorem wit_ResetsAndBoot_ready :
    (let s := { withF ((GLB.BOOT_STAGE, 5) :: (List.range 32).map (fun u => (MU.MUSTAT_TSTATE u, 4))) up with boot := some ⟨bare, false⟩ }
     s.boot = some ⟨bare, false⟩ ∧ 5 ≤ getF GLB.BOOT_STAGE s ∧ (∀ u < 32, muSettled u s = true)
       ∧ ∃ u < 32, muSettled u (withF [(MU.MUSTAT_TSTATE 31, 3)] s) = false) := by decide
theorem wit_ResetsAndBoot_slot : getF GLB.STAT_CAUSE (withF [(GLB.STAT_CAUSE, 1)] up) ≠ causePower ∧ slotAccepted [] [] up = false
    ∧ getF GLB.STAT_CAUSE up = causePower := by decide
/-- A manifest of two components, one the master code and one the compiler's, which a slot holds with them. -/
def manifest (d0 d1 : List Byte) : List Byte :=
  let ent (ty : Byte) (d : List Byte) := [ty, 0, 0, 0, 0, 0, 0, 0, 1, 0, 0, 0, 0, 0, 0, 0] ++ d ++ List.replicate 16 (0 : Byte)
  [0x55, 0x47, 0x46, 0x57, 1, 0, 2, 0] ++ List.replicate 40 (0 : Byte) ++ ent 0 d0 ++ ent 1 d1 ++ List.replicate (6 * 96 + 64) (0 : Byte)
/-- A slot is accepted once the vendor's key and its signature hold, which the model leaves to Ed25519 and to the fuses (log 31). -/
theorem wit_ResetsAndBoot_accepted (m : List Byte) (cs : List (List Byte)) (h1 : mfMagic m = true) (h2 : mfWellFormed m = true)
    (h3 : sha512 (mfPubkey m) = Config.vendorKeyHash (mfKeyidx m)) (h4 : bitOf up.otp.revoked (mfKeyidx m) = false)
    (h5 : Config.ed25519Verify (mfPubkey m) (byteSlice m 0 0x330) (byteSlice m 0x330 64) = true) (h6 : up.otp.svn ≤ mfSvn m)
    (h7 : ∀ e ∈ indexFrom 0 (mfEntries m), sha512 (cs.getD e.1 []) = meDigest e.2) : slotAccepted m cs up = true := by
  unfold slotAccepted
  simp only [h1, h2, h3, h4, h5, h6, decide_true, Bool.and_true, Bool.not_false, Bool.true_and, List.all_eq_true, decide_eq_true_eq]
  exact h7
theorem wit_ResetsAndBoot_formed : mfMagic (manifest (List.replicate 64 7) (List.replicate 64 9)) = true
    ∧ mfWellFormed (manifest (List.replicate 64 7) (List.replicate 64 9)) = true ∧ mfMagic [] = false := by decide +kernel
/-- FIPS 180-4: the first word of the initial hash value, and the first constant. -/
theorem test_sha512 : rootFraction 2 2 = 0x6A09E667F3BCC908 ∧ rootFraction 3 2 = 0x428A2F98D728AE22 := by decide +kernel
theorem wit_ResetsAndBoot_pins : ({ State.reset with perstAsserted := false } : State).porAsserted = true
    ∧ (fullReset causePerst { hot with awaited := 1, perstAsserted := true }).perstAsserted = true
    ∧ (fullReset causePerst { hot with awaited := 1 }).perstAsserted = false ∧ fatal { hot with lcPending := true } = true
    ∧ fatal { up with lcPending := true } = false ∧ cooled (withF [(REG.TMEAS_TQ 5, 420)] hot) = true ∧ Served .glb up :=
  ⟨rfl, by decide, by decide, by decide, by decide, by decide, up_glb⟩
theorem wit_ShuttersFollowRequests : Served .glb up ∧ alive up = true ∧ alive (withF [(GLB.BOOT_STAGE, 5)] up) = false
    ∧ shutState 84 (withF [(GLB.SHUT_STATE 84, 1)] up) = 1 ∧ openingDone 84 (withF [(GLB.SHUT_STATE 84, 1)] up) = true
    ∧ shutState 0 (withF [(GLB.SHUT_STATE 0, 3)] up) = 3 ∧ closingDone 0 (withF [(GLB.SHUT_STATE 0, 3)] up) = true
    ∧ openingDone 0 { withF [(GLB.SHUT_STATE 0, 1)] up with shutWait := [0] } = false
    ∧ closingDone 0 { withF [(GLB.SHUT_STATE 0, 3)] up with inflight := [fly 1 1 mmaTiny [part 0 0 1 .running]] } = false
    ∧ shutState 0 up = 0 ∧ effective 0 (withF [(GLB.SHUT_REQ 0, 0)] up) = false ∧ lcState up ≠ 3 ∧ (2 : Nat) % 4 ≠ 3 ∧ (3 : Nat) % 4 = 3
    ∧ getF GLB.ERRHEAD_SLOT up < 1024 ∧ (0 + 1024 - getF GLB.ERRHEAD_SLOT up) % 1024 ≤ (getF GLB.ERRTAIL_SLOT up + 1024 - getF GLB.ERRHEAD_SLOT up) % 1024
    ∧ (getF GLB.ERRTAIL_SLOT up + 1024 - getF GLB.ERRHEAD_SLOT up) % 1024 < (1 + 1024 - getF GLB.ERRHEAD_SLOT up) % 1024 := ⟨up_glb, by decide⟩
theorem wit_KeyholeCommands : Served .late up ∧ getF KEY.CMD_GO (withF [(KEY.CMD_GO, 1)] up) = 1 ∧ getF KEY.CMD_GO up ≠ 1 ∧ getF KEY.STAT_NONCEV up ≠ 1
    ∧ getF KEY.STAT_NONCEV (withF [(KEY.STAT_NONCEV, 1)] up) = 1
    ∧ lcErr (setF KEY.CMD_CMD 2 (withF [(KEY.STAT_NONCEV, 1)] up)) = 2
    ∧ lcErr (setF KEY.CMD_CMD 2 (withF [(KEY.STAT_NONCEV, 1), (KEY.LCTARGET_TARGET, 1)] up)) = 0
    ∧ lcState up ≠ 3 ∧ up.otp.svn < getF KEY.FWSTAT_SVN (withF [(KEY.FWSTAT_SVN, 1)] up) ∧ getF KEY.FWSTAT_SVN up ≤ up.otp.svn
    ∧ getF KEY.LCTARGET_KEYIDX (withF [(KEY.LCTARGET_KEYIDX, 3)] up) ≠ getF KEY.FWSTAT_KEYIDX up ∧ bitOf up.otp.revoked 3 = false ∧ inHold up = false :=
  ⟨up_late, by decide⟩
theorem wit_KeyholeCommands_revoked :
    (let s : State := { up with otp := { up.otp with revoked := 1 } }
     bitOf s.otp.revoked (getF KEY.LCTARGET_KEYIDX s) = true) ∧ getF KEY.LCTARGET_KEYIDX up = getF KEY.FWSTAT_KEYIDX up
    ∧ lcErr (setF KEY.CMD_CMD 2 (withF [(KEY.STAT_NONCEV, 1)] up)) ≠ 0 := by decide
theorem wit_CountersAndTracing : Served .late up ∧ bitsOf 0x80000001 24 4 < 14 ∧ unitListed (bitsOf 0x80000001 24 4) (bitsOf 0x80000001 14 10) = true
    ∧ 1 ≤ bitsOf 0x80000001 0 8 ∧ bitsOf 0x80000001 0 8 ≤ eventsOf (bitsOf 0x80000001 24 4) ∧ 14 ≤ bitsOf 0x0E000001 24 4
    ∧ getF (PEEP.CNTSEL_KIND 0) up < 16 ∧ getF PEEP.CTRL_TREN up ≠ 1 ∧ getF PEEP.TRSTAT_IDLE up = 1
    ∧ getF PEEP.CTRL_TREN (withF [(PEEP.CTRL_TREN, 1)] up) = 1 ∧ busOk up = true ∧ lostRecord up = none
    ∧ 0 < traceRoom (withF [(PEEP.TRRING_LOG2, 7)] up) ∧ traceRoom (withF [(PEEP.TRRING_LOG2, 7), (PEEP.TRTAIL_SLOT, 127)] up) = 0
    ∧ getF PEEP.TRTAIL_SLOT up < traceSize (withF [(PEEP.TRRING_LOG2, 7)] up) ∧ 7 ≤ bitsOf 7 0 5 ∧ bitsOf 20 0 5 ≤ 20 := ⟨up_late, by decide⟩

theorem wit_CountersAndTracing_ring :
    (let r : TraceRec := ⟨10, 0, 97, 1, 0, 0, 0⟩
     r.cls ≠ 15 ∧ ({ up with fifo := [r] } : State).fifo = r :: [] ∧ busOk { up with fifo := [r] } = true)
    ∧ traceRoom (withF [(PEEP.TRRING_LOG2, 7), (PEEP.TRTAIL_SLOT, 127)] up) = 0
    ∧ (let s := withF [(PEEP.TRRING_LOG2, 7), (PEEP.TRTAIL_SLOT, 5)] up
       (5 : Nat) < traceSize s ∧ (5 + traceSize s - getF PEEP.TRHEAD_SLOT s) % traceSize s
         ≤ (getF PEEP.TRTAIL_SLOT s + traceSize s - getF PEEP.TRHEAD_SLOT s) % traceSize s ∧ traceSize s ≤ 128) := by decide
/-! Well-formedness: for each check a command that it refuses, and commands that every check lets through. -/

def env0 : BootEnv := ⟨[], [], [], [], true, true, [], [], [], [], true⟩
def hello3 : MemberPacket := ⟨3, .hello ⟨3, [], [], ⟨0, 0⟩, []⟩ [] [], []⟩

theorem wf_registers : (Instr.registerWrite 0x04000000 4 0).wf = false ∧ (Instr.registerWrite 0 65 0).wf = false ∧ (Instr.registerWrite 0 4 (2 ^ 32)).wf = false
    ∧ (Instr.registerAccessInvalid true 8 4 0).wf = false ∧ (Instr.registerAccessInvalid true 8 8 0).wf = false
    ∧ (Instr.registerAccessInvalid true 0x04000000 2 0).wf = false ∧ (Instr.registerAccessInvalid true 0 65 0).wf = false
    ∧ (Instr.registerAccessInvalid true 0 2 65536).wf = false ∧ (Instr.registerReadLowerHalf ⟨0x04000000, 4, false⟩).wf = false
    ∧ (Instr.registerReadLowerHalf ⟨2, 4, false⟩).wf = false ∧ (Instr.registerReadLowerHalf ⟨4, 8, false⟩).wf = false
    ∧ (Instr.registerReadLowerHalf ⟨8, 2, false⟩).wf = false ∧ (Instr.configRequest (.readDvsec 1)).wf = false ∧ (Instr.configRequest (.writeBar4Size 27)).wf = false
    ∧ (Instr.configRequest (.writeBar4Size 43)).wf = false ∧ (Instr.configRequest (.maskVector 2048)).wf = false
    ∧ (Instr.msixUnmask 2048).wf = false ∧ (Instr.licTick 0 (2 ^ 32)).wf = false := by decide
theorem wf_regions : (Instr.vsetWrite 0 64).wf = false ∧ (Instr.monitorMeasure 0 65536 0 0 0).wf = false ∧ (Instr.monitorMeasure 0 0 (-32769) 0 0).wf = false
    ∧ (Instr.monitorMeasure 0 0 32768 0 0).wf = false ∧ (Instr.monitorMeasure 0 0 0 (2 ^ 24) 0).wf = false ∧ (Instr.monitorMeasure 0 0 0 0 (2 ^ 24)).wf = false
    ∧ (Instr.hingeStallTimeout 3 3).wf = false ∧ (Instr.hingeTransfer 3 3 none none true).wf = false := by decide
theorem wf_memory : (Instr.paneRead 0 (2 ^ 32) 0 ⟨0, []⟩).wf = false ∧ (Instr.paneRead 0 0 (2 ^ 28) ⟨0, []⟩).wf = false
    ∧ (Instr.paneRead 0 0 0 ⟨65536, []⟩).wf = false ∧ (Instr.paneRead 0 0 0 ⟨0, [(66560, 1)]⟩).wf = false
    ∧ (Instr.moverWriteBack 0 (2 ^ 32) 0).wf = false ∧ (Instr.moverWriteBack 0 0 (2 ^ 28)).wf = false
    ∧ (Instr.memoryAccess 0 (2 ^ 22) 0 none .clean ⟨0, 0, 0, 0, 0, 0⟩).wf = false ∧ (Instr.memoryAccess 0 0 66560 none .clean ⟨0, 0, 0, 0, 0, 0⟩).wf = false
    ∧ (Instr.memoryAccess 0 0 66559 (some [0, 0]) .clean ⟨0, 0, 0, 0, 0, 0⟩).wf = false
    ∧ (Instr.scrubRead 0 (2 ^ 22) 0 .clean ⟨0, 0, 0, 0, 0, 0⟩).wf = false ∧ (Instr.scrubRead 0 0 66560 .clean ⟨0, 0, 0, 0, 0, 0⟩).wf = false
    ∧ (Instr.muTempReading 0 (-129)).wf = false ∧ (Instr.muTempReading 0 256).wf = false ∧ (Instr.muTrainingDone 0 (.trained 0 256 0 0) []).wf = false
    ∧ (Instr.muTrainingDone 0 (.trained 0 0 65536 0) []).wf = false := by decide
theorem wf_streams : (Instr.checkByte 0 17 0 0).wf = false ∧ (Instr.checkByte 0 0 (2 ^ 32) 0).wf = false ∧ (Instr.checkStateWrite 0 .run (2 ^ 64)).wf = false
    ∧ (Instr.sweepLayerComplete 8192).wf = false ∧ (Instr.chkpCarriageReceive 65536 []).wf = false := by decide
theorem wf_links : (Instr.dwctlWrite 0 (2 ^ 32)).wf = false ∧ (Instr.linkTrainingDone 0 (.up 256 0 none)).wf = false ∧ (Instr.linkTrainingDone 0 (.up 0 256 none)).wf = false
    ∧ (Instr.linkTrainingDone 0 (.up 0 0 (some 65536))).wf = false ∧ (Instr.flitReceive 0 ⟨[], []⟩).wf = false ∧ (Instr.dataSend 0 65536).wf = false
    ∧ (Instr.ackTimer 0 65536).wf = false ∧ (Instr.rtoExpiry 0 65536).wf = false ∧ (Instr.notreadyTimer 0 65536).wf = false
    ∧ (Instr.ndselfWrite 65536).wf = false ∧ (Instr.collBlockReduce (2 ^ 32) 0).wf = false ∧ (Instr.collDone (2 ^ 32) 0).wf = false
    ∧ (Instr.collDone 0 65536).wf = false ∧ (Instr.collCommit (2 ^ 32)).wf = false := by decide
theorem wf_members : (Instr.hello { hello3 with sender := 65536 }).wf = false ∧ (Instr.hello ⟨3, .refused 3, []⟩).wf = false ∧ (Instr.challenge hello3).wf = false
    ∧ (Instr.proof hello3).wf = false ∧ (Instr.prepare hello3).wf = false ∧ (Instr.ready hello3).wf = false ∧ (Instr.commit hello3).wf = false
    ∧ (Instr.refused hello3).wf = false ∧ (Instr.handover hello3).wf = false ∧ (Instr.hello hello3).wf = true := by decide
theorem wf_queues : (Instr.programEntryTake 1024).wf = false ∧ (Instr.sqtail 0 (2 ^ 32)).wf = false ∧ (Instr.cqhead 0 (2 ^ 32)).wf = false
    ∧ (Instr.signalApply 1024).wf = false ∧ (Instr.fenceWrite 0 (2 ^ 64)).wf = false ∧ (Instr.partComplete 0 4096).wf = false
    ∧ (Instr.qbindWrite 0 true 1024).wf = false ∧ (Instr.queueRingWrite 0 .qring (2 ^ 64)).wf = false := by decide
theorem wf_host : (Instr.bar4Access 0 none 4097).wf = false ∧ (Instr.cxlMemWrite 0 [] false).wf = false ∧ (Instr.hostSnoop (2 ^ 64)).wf = false
    ∧ (Instr.hdmsizeWrite (2 ^ 15)).wf = false ∧ (Instr.hdmDecoderCommit (2 ^ 64)).wf = false ∧ (Instr.doeDiscovery 256 0).wf = false
    ∧ (Instr.getCertificate 8 0 0).wf = false ∧ (Instr.getCertificate 0 65536 0).wf = false ∧ (Instr.getCertificate 0 0 65536).wf = false
    ∧ (Instr.challengeSpdm 8 (List.replicate 32 0)).wf = false ∧ (Instr.challengeSpdm 0 []).wf = false ∧ (Instr.getMeasurements 256 false []).wf = false
    ∧ (Instr.getMeasurements 0 true []).wf = false ∧ (Instr.spdmUnsupportedRequest 256).wf = false := by decide
theorem wf_arbiters : (Instr.arbDecision 756 0).wf = false ∧ (Instr.arbDecision 0 65536).wf = false ∧ (Instr.arbRelease 756 0).wf = false
    ∧ (Instr.arbRelease 0 65536).wf = false ∧ (Instr.inputmapWrite 756 0).wf = false ∧ (Instr.inputmapWrite 0 (2 ^ 64)).wf = false
    ∧ (Instr.holdWatchdogBite 756).wf = false := by decide
theorem wf_boot : env0.wf = true ∧ (Instr.porNDeassert { env0 with slotA := [0] }).wf = false ∧ (Instr.perstNDeassert { env0 with slotB := [0] }).wf = false
    ∧ (Instr.warmReset { env0 with compsA := List.replicate 9 [] }).wf = false ∧ (Instr.fatalThermalResetStart { env0 with compsB := List.replicate 9 [] }).wf = false
    ∧ (Instr.lifeCycleRowProgrammed true { env0 with slotA := [0] }).wf = false ∧ (Instr.runmodeWrite 4).wf = false ∧ (Instr.errheadWrite 1024).wf = false
    ∧ (Instr.cntselWrite 0 (2 ^ 32)).wf = false ∧ (Instr.trheadWrite (2 ^ 20)).wf = false ∧ (Instr.traceConfigWrite .trbase (2 ^ 64)).wf = false := by decide

/-! Values that the spec prints. -/

/-- ASCII 123456789. -/
def digits : List Byte := [0x31, 0x32, 0x33, 0x34, 0x35, 0x36, 0x37, 0x38, 0x39]
/-- The check values of R407. -/
theorem test_check_values : ckCrc 0 digits = 0xE3069283 ∧ ckCrc 1 digits = 0xCBF43926 ∧ ckCrc 2 digits = 0x6C40DF5F0B497347
    ∧ ckCrc 3 digits = 0x29B1 ∧ crc32c digits = 0xE3069283 ∧ crc32eth digits = 0xCBF43926 := by decide
/-- The log table's printed entries (R114). -/
theorem test_log_table : logTable.getD 0 0 = 0x800000 ∧ logTable.getD 8 0 = 0xB504F3 ∧ logTable.getD 15 0 = 0xF5257D ∧ logTable.length = 16 := by decide
/-- The GL8 elements that R114 decodes at scale 0x7F. -/
theorem test_gl8_decode : (decodeBits 4 0x7F 0x18).num = .fin false 0xB504F3 (1 - 23) ∧ (decodeBits 4 0x7F 0xF8).num = .fin true 0xB504F3 (-24)
    ∧ (decodeBits 4 0x7F 0x40).num = .zero false ∧ (decodeBits 4 0x7F 0xC0).num = .zero true := by decide
/-- A tag with a reserved code, a high bit, or BLK with a format that has no blocks is malformed (R105). -/
theorem test_malformed_tags : malformedTag 0x07 = true ∧ malformedTag 0x43 = true ∧ malformedTag 0x10 = true ∧ malformedTag 0x33 = false
    ∧ malformedTag 0x14 = false ∧ malformedTag 0x06 = false := by decide
/-- Ten tiles among four members (R54): runs of 3, 3, 2 and 2. -/
theorem test_member_runs : memberRun 10 4 0 = (0, 3) ∧ memberRun 10 4 1 = (3, 3) ∧ memberRun 10 4 2 = (6, 2) ∧ memberRun 10 4 3 = (8, 2)
    ∧ memberRun 2 4 3 = (2, 0) := by decide
/-- Beats of a K group (R137). -/
theorem test_beats : max (beatsOf 2) (beatsOf 3) = 4 ∧ max (beatsOf 0) (beatsOf 4) = 16 ∧ beatsOf 1 = 64 := by decide
/-- Binary32: 1.5, the least subnormal, an infinity and a signalling NaN, by IEEE 754. -/
theorem test_binary32 : (decodeBits 0 127 0x3FC00000).num = .fin false 0xC00000 (-23) ∧ (decodeBits 0 127 1).num = .fin false 1 (-149)
    ∧ (decodeBits 0 127 0xFF800000).num = .inf true ∧ (decodeBits 0 127 0x7F800001).snan = true
    ∧ (encode 0 false (.fin false 0x1000001 (-24))).1 = 0x3F800000 ∧ (encode 0 false (.fin false 0x1000003 (-24))).1 = 0x3F800002 := by decide
/-- A command on an empty queue idles, and the front command runs on the queue's rest (log 2). -/
theorem test_step_takes_the_front : step up = .next up
    ∧ step { up with pending := [.muTempReading 0 40, .nonce] } = exec (.muTempReading 0 40) { up with pending := [.nonce] } := by
  exact ⟨rfl, rfl⟩
theorem wit_FieldSetThenRead : GLB.BOOT_STAGE.key ≠ GLB.STAT_FATAL.key := by decide

end Sys2Proof.Tests
end

namespace Sys2Proof.Machine

/-! PROOFS. The state after reset, the field map, and the accesses of a host to registers. -/

/-! The reset state. -/

/-- A map that gives every key of an image one value. -/
theorem assocGet_map_const {α β : Type} (d v : α) (key : β → Nat) (l : List β) (x : β) (hx : x ∈ l) :
    assocGet d (l.map (fun y => (key y, v))) (key x) = v := by
  induction l with
  | nil => cases hx
  | cons y t ih =>
    simp only [List.map_cons, assocGet]
    split
    · rfl
    · next hne =>
      rcases List.mem_cons.mp hx with rfl | ht
      · exact absurd rfl hne
      · exact ih ht

/-- REG n.RSTCTL[RESET] reads 1 in the reset state (R651). -/
@[simp] theorem getF_rstctl_reset (n : RegionNo) : getF (REG.RSTCTL_RESET n) State.reset = 1 :=
  assocGet_map_const _ 1 (fun n => (REG.RSTCTL_RESET n).key) (List.range 100) n (List.mem_range.mpr n.isLt)

/-- Every field but the reset controls of the regions reads its reset value in the reset state (R15). -/
theorem getF_reset_of_ne (f : Fld) (h : ∀ n : RegionNo, f.key ≠ (REG.RSTCTL_RESET n).key) : getF f State.reset = f.reset := by
  apply assocGet_none
  intro p hp
  obtain ⟨n, hn, rfl⟩ := List.mem_map.mp hp
  exact (h ⟨n, List.mem_range.mp hn⟩).symm

/-- The registers below the region pages, GLB among them, read their reset values in the reset state. -/
theorem getF_reset_of_lt (f : Fld) (h : f.key < 0x03000050 * 64) : getF f State.reset = f.reset :=
  getF_reset_of_ne f (fun n => by simp only [Fld.key, REG.RSTCTL_RESET] at h ⊢; omega)

/-- Every region stands in its initial state in the reset state (R75, R654). -/
@[simp] theorem regionOf_reset (n : Nat) : regionOf n State.reset = regionInit := rfl

theorem memOk_reset : MemOk State.reset := rfl

/-- Settles O6: the reset state lists the 100 reset controls alone, so every other field falls back on its reset value. -/
theorem resetState : Obligations.ResetState := by
  refine ⟨rfl, rfl, memOk_reset, rfl, rfl, rfl, rfl, ?stage, ?fail, ?fatal, ?regions, getF_reset_of_ne⟩
  case stage => exact getF_reset_of_lt GLB.BOOT_STAGE (by decide)
  case fail => exact getF_reset_of_lt GLB.BOOT_FAIL (by decide)
  case fatal => exact getF_reset_of_lt GLB.STAT_FATAL (by decide)
  case regions => exact fun n => ⟨getF_rstctl_reset n, by simp [regionInit]⟩

/-! The field map. -/

/-- Settles O7 by the laws of sparse maps: a key that is set reads back, and the other keys keep their values. -/
theorem fieldSetThenRead : Obligations.FieldSetThenRead := fun f g v s =>
  ⟨getF_setF_self f v s, getF_setF_ne f g v s, setF_eq f v s⟩

/-! The commands by which a host accesses registers. -/

theorem exec_registerWrite (off size value : Nat) (s : State) :
    exec (.registerWrite off size value) s = execRegisterWrite off size value s := rfl

theorem exec_registerAccessInvalid (isWrite : Bool) (off size value : Nat) (s : State) :
    exec (.registerAccessInvalid isWrite off size value) s = execRegisterAccessInvalid isWrite off size value s := rfl

theorem exec_registerReadLowerHalf (r : RegRead) (s : State) :
    exec (.registerReadLowerHalf r) s = execRegisterReadLowerHalf r s := rfl

/-! Whether an access reaches BAR0 or BAR2 and is served (R612, R655). -/

theorem guard_of_reached {s : State} (h : Reached s) : (!s.cfg.memSpace || s.cfg.d3hot) = false := by
  obtain ⟨hmem, hd3⟩ := h
  simp [hmem, hd3]

theorem guard_of_not_reached {s : State} (h : ¬ Reached s) : (!s.cfg.memSpace || s.cfg.d3hot) = true := by
  by_contra hg
  exact h (by simpa [Reached] using hg)

theorem hostWrite_of_served {k : BlkReach} {s : State} (f : State → State) (h : Served k s) : hostWrite k f s = f s := by
  simp [hostWrite, guard_of_reached h.1, h.2]

theorem hostWrite_of_not_reached {s : State} (k : BlkReach) (f : State → State) (h : ¬ Reached s) :
    hostWrite k f s = emit .unsupportedRequest s :=
  if_pos (guard_of_not_reached h)

theorem hostRead_of_served {a : Nat} {s : State} (f : State → Nat × State) (hr : Reached s) (hs : readServed a s = true) :
    hostRead a f s = emit (.regReply (f s).1) (f s).2 := by
  simp [hostRead, guard_of_reached hr, hs]

theorem hostRead_of_not_reached {s : State} (a : Nat) (f : State → Nat × State) (h : ¬ Reached s) :
    hostRead a f s = emit .unsupportedRequest s :=
  if_pos (guard_of_not_reached h)

theorem doorbellRead_of_served {s : State} (a : Nat) (h : Served .early s) :
    doorbellRead a 4 s = emit (.regReply (doorbellWord a s)) s := by
  simp [doorbellRead, guard_of_reached h.1, h.2]

/-! Accesses of a size and alignment that R18 serves, and of any other. -/

theorem accessValid_word {off : Nat} (h : off % 4 = 0) : accessValid off 4 = true := by simp [accessValid, h]

theorem accessValid_double {off : Nat} (h : off % 8 = 0) : accessValid off 8 = true := by simp [accessValid, h]

/-- A write of a wrong size or alignment is discarded with a record (R18). -/
theorem exec_invalid_write {off size : Nat} {s : State} (value : Nat) (hv : accessValid off size = false)
    (h : Served (addrReach off) s) : exec (.registerAccessInvalid true off size value) s = .next (regAccessError off s) := by
  simp [exec_registerAccessInvalid, execRegisterAccessInvalid, hv, hostWrite_of_served _ h]

/-- A read of a wrong size or alignment returns zeros with a record (R18). -/
theorem exec_invalid_read {off size : Nat} {s : State} (value : Nat) (hv : accessValid off size = false) (hr : Reached s)
    (hs : readServed off s = true) (hb : blkServed (addrReach off) s = true) :
    exec (.registerAccessInvalid false off size value) s = .next (emit (.regReply 0) (regAccessError off s)) := by
  simp [exec_registerAccessInvalid, execRegisterAccessInvalid, hv, hostRead_of_served _ hr hs, hb]

/-- Without memory space such an access is answered with Unsupported Request (R612). -/
theorem exec_invalid_unreached {off size : Nat} {s : State} (value : Nat) (isWrite : Bool) (hv : accessValid off size = false)
    (h : ¬ Reached s) : exec (.registerAccessInvalid isWrite off size value) s = .next (emit .unsupportedRequest s) := by
  cases isWrite
  · simp [exec_registerAccessInvalid, execRegisterAccessInvalid, hv, hostRead_of_not_reached _ _ h]
  · simp [exec_registerAccessInvalid, execRegisterAccessInvalid, hv, hostWrite_of_not_reached _ _ h]

/-- A 32-bit read that is served returns the word at its address. -/
theorem exec_read_word {off : Nat} {s : State} (ha : off % 4 = 0) (hlt : off < 0x04000000) (hr : Reached s)
    (hs : readServed off s = true) :
    exec (.registerReadLowerHalf ⟨off, 4, false⟩) s = .next (emit (.regReply (readWord off s).1) (readWord off s).2) := by
  simp [exec_registerReadLowerHalf, execRegisterReadLowerHalf, accessValid_word ha, hlt, hostRead_of_served _ hr hs]

/-- A 64-bit read that is served returns the two words at its address. -/
theorem exec_read_double {off : Nat} {s : State} (ha : off % 8 = 0) (hlt : off < 0x04000000) (hr : Reached s)
    (hs : readServed off s = true) :
    exec (.registerReadLowerHalf ⟨off, 8, false⟩) s = .next (emit (.regReply (readDouble off s).1) (readDouble off s).2) := by
  simp [exec_registerReadLowerHalf, execRegisterReadLowerHalf, accessValid_double ha, hlt, hostRead_of_served _ hr hs]

/-- A 32-bit read of the doorbell pages that is served returns the word at its address (R562). -/
theorem exec_read_doorbell {off : Nat} {s : State} (ha : off % 4 = 0) (hlt : off < 0x01000000) (h : Served .early s) :
    exec (.registerReadLowerHalf ⟨off, 4, true⟩) s = .next (emit (.regReply (doorbellWord off s)) s) := by
  simp [exec_registerReadLowerHalf, execRegisterReadLowerHalf, accessValid_word ha, hlt, doorbellRead_of_served _ h]

/-- A 32-bit write that is served writes the word at its address. -/
theorem exec_write_word {off : Nat} {s : State} (value : Nat) (ha : off % 4 = 0) (h : Served (addrReach off) s) :
    exec (.registerWrite off 4 value) s = .next (writeWord off value s) := by
  simp [exec_registerWrite, execRegisterWrite, accessValid_word ha, hostWrite_of_served _ h]

/-! What the words of the register map read as and what a write of one does (R16, R19, R20). -/

section
variable {a : Nat} {r : RegAt}

theorem readWord_of_register32 (s : State) (h : regAt a = some r) (hw : r.row.width = 32) :
    readWord a s = (regValue r s, s) := by simp [readWord, h, hw]

theorem readWord_of_lowerHalf (s : State) (h : regAt a = some r) (hw : r.row.width = 64) (ha : a = r.addr) :
    readWord a s = (regValue r s % 2 ^ 32, { s with latch := optSet s.latch r.addr (some (regValue r s / 2 ^ 32)) }) := by
  simp [readWord, h, hw, ← ha]

theorem readWord_of_upperHalf_latched {s : State} {v : Nat} (h : regAt a = some r) (hw : r.row.width = 64) (ha : a ≠ r.addr)
    (hl : optGet s.latch r.addr = some v) : readWord a s = (v, s) := by simp [readWord, h, hw, ha, hl]

theorem readDouble_of_register64 (s : State) (h : regAt a = some r) (hw : r.row.width = 64) :
    readDouble a s = (regValue r s, s) := by simp [readDouble, h, hw]

theorem writeWord_of_register32 (v : Nat) (s : State) (h : regAt a = some r) (hw : r.row.width = 32) :
    writeWord a v s = writeReg r (v % 2 ^ 32) s := by simp [writeWord, h, hw]

theorem writeWord_of_lowerHalf (v : Nat) (s : State) (h : regAt a = some r) (hw : r.row.width = 64) (ha : a = r.addr) :
    writeWord a v s = { s with held := optSet s.held r.addr (some (v % 2 ^ 32)) } := by simp [writeWord, h, hw, ← ha]

/-- Outside the MSI-X table an address without a register discards the write (R20). -/
theorem writeWord_of_no_register (v : Nat) (s : State) (h : regAt a = none) (ha : a < 0x03820000 ∨ 0x03828000 ≤ a) :
    writeWord a v s = s := by
  have hm : ¬ (0x03820000 ≤ a ∧ a < 0x03828000) := by omega
  simp [writeWord, h, hm]

end

/-! The doorbell pages (R562). -/

theorem doorbellWord_sqtail (q : QueueNo) (s : State) : doorbellWord (q * 0x10000) s = getF (CMDQ.QPTR_SQTAIL q) s := by
  simp [doorbellWord]

theorem doorbellWord_cqhead (q : QueueNo) (s : State) : doorbellWord (q * 0x10000 + 4) s = getF (CMDQ.QPTR_CQHEAD q) s := by
  have hmod : (q.val * 0x10000 + 4) % 0x10000 = 4 := by omega
  have hdiv : (q.val * 0x10000 + 4) / 0x10000 = q := by omega
  simp only [doorbellWord, hmod, hdiv]
  rfl

theorem doorbellWord_elsewhere (q : QueueNo) {o : Nat} (s : State) (h8 : 8 ≤ o) (ho : o < 0x10000) :
    doorbellWord (q * 0x10000 + o) s = 0 := by
  have hmod : (q.val * 0x10000 + o) % 0x10000 = o := by omega
  have h0 : o ≠ 0 := by omega
  have h4 : o ≠ 4 := by omega
  simp [doorbellWord, hmod, h0, h4]

/-- Settles O8: each access that is served comes down to one word or double word of the register map or of a doorbell page. -/
theorem registerAccesses : Obligations.RegisterAccesses := by
  refine ⟨?invalid, ?read, ?doorbell, ?write⟩
  case invalid =>
    exact fun off size value s hv => ⟨exec_invalid_write value hv, exec_invalid_read value hv,
      fun h w => exec_invalid_unreached value w hv h⟩
  case read =>
    intro off r s ha hlt hr hs hreg
    have hword := exec_read_word ha hlt hr hs
    refine ⟨fun hw => ⟨fun hlo => ?_, fun v hhi hl => ?_, fun _ h8 => ?_⟩, fun hw => ?_⟩
    · rw [hword, readWord_of_lowerHalf s hreg hw hlo]
    · rw [hword, readWord_of_upperHalf_latched hreg hw hhi hl]
    · rw [exec_read_double h8 hlt hr hs, readDouble_of_register64 s hreg hw]
    · rw [hword, readWord_of_register32 s hreg hw]
  case doorbell =>
    intro q s h
    have hq := q.isLt
    refine ⟨?_, ?_, fun o h4 h8 ho => ?_⟩
    · rw [exec_read_doorbell (by omega) (by omega) h, doorbellWord_sqtail]
    · rw [exec_read_doorbell (by omega) (by omega) h, doorbellWord_cqhead]
    · rw [exec_read_doorbell (by omega) (by omega) h, doorbellWord_elsewhere q s h8 ho]
  case write =>
    intro off value s ha h
    have hword := exec_write_word value ha h
    refine ⟨fun r hreg hw => ?_, fun r hreg hw hlo => ?_, fun hreg hout => ?_⟩
    · rw [hword, writeWord_of_register32 value s hreg hw]
    · rw [hword, writeWord_of_lowerHalf value s hreg hw hlo]
    · rw [hword, writeWord_of_no_register value s hreg hout]

end Sys2Proof.Machine

namespace Sys2Proof.Machine

/-! PROOFS. The division of work, the issue and completion of parts, panes on their way to the sills, REPLACE, and the transfers
of a hinge with their paths. -/

/-! The division of work and the status of a descriptor (R54, R58). -/

theorem memberRun_zero (units members : Nat) : (memberRun units members 0).1 = 0 := by simp [memberRun]

/-- The run of a member begins where that of the member before it ends. -/
theorem memberRun_succ (units members i : Nat) :
    (memberRun units members (i + 1)).1 = (memberRun units members i).1 + (memberRun units members i).2 := by
  have hmul : (i + 1) * (units / members) = i * (units / members) + units / members := Nat.succ_mul _ _
  simp only [memberRun, hmul]
  split <;> omega

/-- The run that would follow that of the last member begins after the last unit. -/
theorem memberRun_members (units : Nat) {members : Nat} (h : 0 < members) : (memberRun units members members).1 = units := by
  have hmod : units % members < members := Nat.mod_lt _ h
  simp only [memberRun, Nat.min_eq_right hmod.le]
  exact Nat.div_add_mod units members

theorem memberRun_balanced (units members i j : Nat) : (memberRun units members i).2 ≤ (memberRun units members j).2 + 1 := by
  simp only [memberRun]
  split <;> omega

theorem combinedStatus_of_all_ok {e : InFlight} (he : e.status = 0) (h : ∀ p ∈ e.parts, p.status = 0) : combinedStatus e = 0 := by
  have hfind : e.parts.find? (fun p => decide (p.status ≠ 0)) = none := by simpa using h
  simp only [combinedStatus, he, hfind, ne_eq, not_true_eq_false, if_false]

theorem combinedStatus_of_first_failed {e : InFlight} {a b : List Part} {p : Part} (he : e.status = 0) (hparts : e.parts = a ++ p :: b)
    (ha : ∀ x ∈ a, x.status = 0) (hp : p.status ≠ 0) : combinedStatus e = p.status := by
  have hfind : e.parts.find? (fun p => decide (p.status ≠ 0)) = some p := by
    have hnone : a.find? (fun p => decide (p.status ≠ 0)) = none := by simpa using ha
    rw [hparts, List.find?_append, hnone]
    simp [hp]
  simp only [combinedStatus, he, hfind, ne_eq, not_true_eq_false, if_false]

/-- Settles O24: each run ends where the next begins, the run after the last begins at the number of units, and runs differ by the one
unit of the division's rest. -/
theorem dividedDescriptors : Obligations.DividedDescriptors := by
  refine ⟨fun units members h => ⟨?first, ?next, ?last, ?balance⟩, fun e he => ⟨?allOk, ?failed⟩⟩
  case first => exact memberRun_zero units members
  case next => exact fun i _ => memberRun_succ units members i
  case last => rw [← memberRun_succ, Nat.sub_add_cancel h, memberRun_members units h]
  case balance => exact fun i j _ _ => memberRun_balanced units members i j
  case allOk => exact combinedStatus_of_all_ok he
  case failed => exact fun a b p => combinedStatus_of_first_failed he

/-! The issue of parts to the engines and their completion (R52, R58, R62, R603). -/

/-- The state in which part `p` of `e`, issued by the sequencer of core `n`, begins its work in an engine: it runs, and the issue is
counted and traced (R52, R62). -/
def issued (n : CoreNo) (e : InFlight) (p : Nat) (s : State) : State :=
  trace 2 0 (2 * n + 1) (n + e.opcode * 2 ^ 8) (dUtag e.desc) (peep 2 n 1 1 (setPart e.id p (fun x => { x with st := .running }) s))

/-- The engine that a part of `e` starts in, by the opcode (R52, R401). -/
def startPart (n : CoreNo) (e : InFlight) (p : Nat) (s : State) : State :=
  match e.opcode with
  | 1 => startMx n e p (((e.parts[p]?).map (fun x => x.lo)).getD 0) s
  | 2 => startVx n e p s
  | _ => startComp e s

theorem exec_partIssue_none {n : CoreNo} {s : State} (hnone : issuable n s = none) : exec (.partIssue n) s = .next s := by
  change execPartIssue n s = _
  simp [execPartIssue, hnone]

theorem exec_partIssue_some {n : CoreNo} {s : State} {e : InFlight} {p : Nat} (hup : vectorUp n s = true)
    (hsome : issuable n s = some (e, p)) : exec (.partIssue n) s = .next (startPart n e p (issued n e p s)) := by
  change execPartIssue n s = _
  simp only [execPartIssue, hup, hsome]
  rfl

theorem exec_partComplete {id part : Nat} {s : State} {e : InFlight} {p : Part} (halive : alive s = true) (he : flight id s = some e)
    (hp : e.parts[part]? = some p) : exec (.partComplete id part) s
      = .next (if p.st = .ended ∧ heldByLayers e part s = false then completePart e part p s else s) := by
  change execPartComplete id part s = _
  simp [execPartComplete, halive, he, hp]

/-- Settles O25: an issue starts the part that `issuable` finds in the engine of its opcode, and a completion waits for the end of the
part's work and for the layers that hold it. -/
theorem partsIssueAndComplete : Obligations.PartsIssueAndComplete := by
  refine ⟨fun n s hup => ⟨exec_partIssue_none, fun e p hsome => ?issue⟩, fun id part e p s halive he hp => ?complete⟩
  case issue =>
    rw [exec_partIssue_some hup hsome]
    refine ⟨?matrix, ?vector, ?comp⟩ <;> intro hop <;> simp only [startPart, issued, hop]
  case complete =>
    rw [exec_partComplete halive he hp]
    refine ⟨fun hend hfree => by rw [if_pos ⟨hend, hfree⟩], ?waits⟩
    rintro (hst | hheld)
    · simp [hst]
    · simp [hheld]

/-! Panes on their way to a sill or a lintel (R33, R40, R252, R281). -/

/-- The needs for pane `i` of tensor `h` at mover end `n` that a PANE_READ serves: the pane is not staged there for them (R252). -/
def unstagedWants (n h i : Nat) (s : State) : List (Nat × Nat × Nat) :=
  (wantedAt n s).filter (fun x => decide (x.2.1 = h) && decide (x.2.2 = i) && (stagedPane n x.1 h i s).isNone)

/-- The needs that the cluster's lintel serves, and those that the pane's tier serves (R33). -/
def nearWants (n h i : Nat) (s : State) : List (Nat × Nat × Nat) :=
  (unstagedWants n h i s).filter (fun x => (lintelCopy n x.1 h i s).isSome)
def farWants (n h i : Nat) (s : State) : List (Nat × Nat × Nat) :=
  (unstagedWants n h i s).filter (fun x => (lintelCopy n x.1 h i s).isNone)

/-- The copies that stand in the lintel go to the sill, over the joins between them (R33, R40). -/
def stageNear (n h i : Nat) (sill : List (Nat × Nat)) (s : State) : State :=
  if pathOpen [32 + (32 + n / 8), endOf n] s then
    forEach (nearWants n h i s) (fun x s => match lintelCopy n x.1 h i s with
      | some p => stagePane n x.1 h i p sill s
      | none => s) s
  else s

/-- PANE_READ in a device that works: near needs first, then far ones when there are any and the way is open. -/
theorem exec_paneRead (n : MoverEnd) (h i : Nat) (bad : ReadFault) {s : State} (halive : alive s = true) :
    exec (.paneRead n h i bad) s = .next (
      let u := stageNear n h i bad.sill s
      if farWants n h i s = [] || !wayOpen n h i u then u
      else
        let r := moverRead (tensorAt h u) i (peepPort h i 66560 (flashBad (tensorAt h u) i bad.flash u))
        forEach (farWants n h i s) (fun x s => stagePane n x.1 h i r.1 bad.sill s) r.2) := by
  change execPaneRead n h i bad s = _
  simp only [execPaneRead, halive, Bool.not_true, Bool.false_eq_true, if_false]
  rfl

theorem nearWants_eq (n h i : Nat) (s : State) : nearWants n h i s = (wantedAt n s).filter (fun x =>
    (decide (x.2.1 = h) && decide (x.2.2 = i) && (stagedPane n x.1 h i s).isNone) && (lintelCopy n x.1 h i s).isSome) := by
  simp only [nearWants, unstagedWants, List.filter_filter, Bool.and_comm (Option.isSome _)]

theorem farWants_eq (n h i : Nat) (s : State) : farWants n h i s = (wantedAt n s).filter (fun x =>
    (decide (x.2.1 = h) && decide (x.2.2 = i) && (stagedPane n x.1 h i s).isNone) && (lintelCopy n x.1 h i s).isNone) := by
  simp only [farWants, unstagedWants, List.filter_filter, Bool.and_comm (Option.isNone (lintelCopy _ _ _ _ _))]

theorem stageNear_of_nothing {n h i : Nat} (sill : List (Nat × Nat)) {s : State}
    (hn : nearWants n h i s = [] ∨ pathOpen [32 + (32 + n / 8), endOf n] s = false) : stageNear n h i sill s = s := by
  rcases hn with hnear | hpath
  · simp [stageNear, hnear]
  · simp [stageNear, hpath]

theorem exec_paneRead_of_no_far {n : MoverEnd} {h i : Nat} {bad : ReadFault} {s : State} (halive : alive s = true)
    (hfar : farWants n h i s = [] ∨ wayOpen n h i (stageNear n h i bad.sill s) = false) :
    exec (.paneRead n h i bad) s = .next (stageNear n h i bad.sill s) := by
  rw [exec_paneRead n h i bad halive]
  rcases hfar with hnone | hway
  · simp [hnone]
  · simp [hway]

theorem exec_paneRead_of_far {n : MoverEnd} {h i : Nat} {bad : ReadFault} {s u v : State} {p : PaneData} (halive : alive s = true)
    (hu : stageNear n h i bad.sill s = u) (hfar : farWants n h i s ≠ []) (hway : wayOpen n h i u = true)
    (hread : moverRead (tensorAt h u) i (peepPort h i 66560 (flashBad (tensorAt h u) i bad.flash u)) = (p, v)) :
    exec (.paneRead n h i bad) s = .next (forEach (farWants n h i s) (fun x s => stagePane n x.1 h i p bad.sill s) v) := by
  rw [exec_paneRead n h i bad halive]
  simp [hu, hfar, hway, hread]

/-! Working copies on their way back (R252, R357). -/

/-- The written working copy of a pane on a core that goes back next. -/
def nextUnsaved (n h i : Nat) (s : State) : Option WorkCopy :=
  s.copies.find? (fun c => decide (c.core = n) && decide (c.handle = h) && decide (c.pane = i) && unsaved c)

theorem exec_moverWriteBack_none {n : CoreNo} {h i : Nat} {s : State} (hw : nextUnsaved n h i s = none) :
    exec (.moverWriteBack n h i) s = .next s := by
  change execMoverWriteBack n h i s = _
  unfold nextUnsaved at hw
  simp only [execMoverWriteBack, hw]

section
variable {n : CoreNo} {h i : Nat} {s : State} {w : WorkCopy}

theorem exec_moverWriteBack_waits {p : Nat} (halive : alive s = true) (hw : nextUnsaved n h i s = some w)
    (hp : writeBackWaits w s = some p) :
    exec (.moverWriteBack n h i) s = .next (if (cartAuxOf p s).commit.isSome then s else startCommit p 0 s) := by
  change execMoverWriteBack n h i s = _
  unfold nextUnsaved at hw
  simp [execMoverWriteBack, hw, halive, hp]

theorem exec_moverWriteBack_stores {u : State} {st : Nat} {e : InFlight} (halive : alive s = true) (hw : nextUnsaved n h i s = some w)
    (hp : writeBackWaits w s = none) (hstore : storeCopy w s = (u, st)) (he : flight w.owner (cleanCopy w u) = some e) :
    exec (.moverWriteBack n h i) s = .next (checkEnd w.owner (e.parts.findIdx (fun x => decide (x.core = n.val)))
      (if st = 0 then cleanCopy w u else orPart w.owner (e.parts.findIdx (fun x => decide (x.core = n.val))) st 0 0 (cleanCopy w u))) := by
  change execMoverWriteBack n h i s = _
  unfold nextUnsaved at hw
  simp [execMoverWriteBack, hw, halive, hp, hstore, he]

end

/-- Every copy that `cleanCopy` keeps for the same core, owner and pane holds nothing more to write. -/
theorem unsaved_of_mem_cleanCopy {w c : WorkCopy} {u : State} (hc : c ∈ (cleanCopy w u).copies) (hcore : c.core = w.core)
    (howner : c.owner = w.owner) (hhandle : c.handle = w.handle) (hpane : c.pane = w.pane) : unsaved c = false := by
  simp only [cleanCopy, updateWhere, List.mem_filter, List.mem_map] at hc
  obtain ⟨⟨c₀, -, hc₀⟩, -⟩ := hc
  split at hc₀
  · simp [← hc₀, unsaved]
  · next hne =>
    subst hc₀
    simp [hcore, howner, hhandle, hpane] at hne

/-! REPLACE (R273, R291, R568). -/

theorem exec_tierReplace {s : State} (h : Served .late s) :
    exec .tierReplace s = .next (if takingStopped s then s else setF TIER.CTRL_REPLACE 1 (setF TIER.STAT_BUSY 1 s)) :=
  congrArg Host.Outcome.next (hostWrite_of_served _ h)

theorem exec_replaceQuiesced_quiet {s : State} (hreplace : getF TIER.CTRL_REPLACE s = 1) (hempty : s.inflight = [])
    (halive : alive s = true) (hup : (regionOf 99 s).inReset = false) (hload : getF IMG.STAT_STATE (replaceNow s) ≠ 4) :
    exec .replaceQuiesced s = .next (replaceNow s) := by
  change execReplaceQuiesced s = _
  simp [execReplaceQuiesced, flag, hreplace, hempty, halive, hup, hload]

theorem exec_replaceQuiesced_busy {s : State} (hbusy : s.inflight ≠ []) : exec .replaceQuiesced s = .next s := by
  change execReplaceQuiesced s = _
  simp [execReplaceQuiesced, hbusy]

/-- Settles O32: panes reach sills from the lintel, then from the tier; a written copy goes back unless a cartridge's wear counter comes
first; a REPLACE waits for quiet. -/
theorem panesMoveAndReplaceWaits : Obligations.PanesMoveAndReplaceWaits := by
  refine ⟨⟨?paneRead, ?writeBack⟩, fun s => ⟨fun h hgo => ?_, fun h hstop => ?_, exec_replaceQuiesced_quiet, exec_replaceQuiesced_busy⟩⟩
  case paneRead =>
    intro n h i bad near far s u halive hnear hfar hshut hopen
    rw [← nearWants_eq] at hnear
    rw [← farWants_eq] at hfar
    subst hnear hfar
    have hu : stageNear n h i bad.sill s = u := by
      cases hpath : pathOpen [32 + (32 + n / 8), endOf n] s with
      | false => rw [hshut (.inr hpath), stageNear_of_nothing _ (.inr hpath)]
      | true => exact (if_pos hpath).trans (hopen hpath).symm
    refine ⟨fun hnone => ?_, fun p v hsome hway hread => exec_paneRead_of_far halive hu hsome hway hread⟩
    rw [← hu] at hnone ⊢
    exact exec_paneRead_of_no_far halive hnone
  case writeBack =>
    intro n h i s halive
    refine ⟨exec_moverWriteBack_none, fun w hw => ⟨fun p hp hidle => ?_, fun p hp hbusy => ?_, fun u st e hp hstore he => ⟨?_, ?_⟩⟩⟩
    · simp [exec_moverWriteBack_waits halive hw hp, hidle]
    · simp [exec_moverWriteBack_waits halive hw hp, Option.isSome_iff_ne_none.mpr hbusy]
    · exact exec_moverWriteBack_stores halive hw hp hstore he
    · exact fun c hc => unsaved_of_mem_cleanCopy hc
  · simp [exec_tierReplace h, hgo]
  · simp [exec_tierReplace h, hstop]

/-! The state of a hinge after a change of it and of another (R80, R81). -/

theorem pairKey_comm (a b : Nat) : pairKey a b = pairKey b a := by simp [pairKey, Nat.min_comm, Nat.max_comm]

/-- A key names one hinge: its two ends, in either order. -/
theorem pairKey_inj {a b c d : Nat} (ha : a < 256) (hb : b < 256) (hc : c < 256) (hd : d < 256) (h : pairKey c d = pairKey a b) :
    (c = a ∧ d = b) ∨ (c = b ∧ d = a) := by
  unfold pairKey at h
  omega

theorem hingeOf_setHinge_ne {a b c d : Nat} (f : Hinge → Hinge) (s : State) (h : pairKey c d ≠ pairKey a b) :
    hingeOf c d (setHinge a b f s) = hingeOf c d s := assocGet_modify_ne _ _ _ _ _ _ h

theorem hingeOf_setHinge_of_key_eq {a b c d : Nat} (f : Hinge → Hinge) (s : State) (h : pairKey c d = pairKey a b) :
    hingeOf c d (setHinge a b f s) = f (hingeOf c d s) := by
  have hswap (t : State) : hingeOf c d t = hingeOf a b t := by simp [hingeOf, h]
  rw [hswap, hswap, hingeOf_setHinge_self]

/-- What a change of a hinge keeps of it is kept of every hinge. -/
theorem hingeOf_setHinge_keeps {β : Type} (g : Hinge → β) (a b : Nat) {f : Hinge → Hinge} (hf : ∀ x, g (f x) = g x) (c d : Nat) (s : State) :
    g (hingeOf c d (setHinge a b f s)) = g (hingeOf c d s) := by
  by_cases h : pairKey c d = pairKey a b
  · rw [hingeOf_setHinge_of_key_eq f s h, hf]
  · rw [hingeOf_setHinge_ne f s h]

/-- Of the hinges at `b`, the one to `a` alone has its key. -/
theorem eq_of_pairKey_eq {a b c : Nat} (ha : a < 256) (hb : b < 256) (h : pairKey a b = pairKey b c) : c = a := by
  unfold pairKey at h
  omega

@[simp] theorem heldAt_setHeld_self (a b : Nat) (l : List Transfer) (s : State) : heldAt a b (setHeld a b l s) = l := by
  by_cases h : a < b <;> simp [heldAt, setHeld, h]

theorem heldAt_setHeld_of_key_ne {a b c d : Nat} (l : List Transfer) (s : State) (h : pairKey c d ≠ pairKey a b) :
    heldAt c d (setHeld a b l s) = heldAt c d s := by
  simp [heldAt, setHeld, hingeOf_setHinge_ne _ s h]

/-- The two directions of a hinge are apart. -/
theorem heldAt_setHeld_back {a b : Nat} (hne : a ≠ b) (l : List Transfer) (s : State) :
    heldAt b a (setHeld a b l s) = heldAt b a s := by
  have hdir : b < a ↔ ¬ a < b := by omega
  by_cases h : a < b <;> simp [heldAt, setHeld, hingeOf_setHinge_of_key_eq _ s (pairKey_comm b a), hdir, h]

theorem heldAt_setHeld_ne {a b c d : Nat} (l : List Transfer) (s : State) (ha : a < 256) (hb : b < 256) (hc : c < 256) (hd : d < 256)
    (hne : ¬ (c = a ∧ d = b)) : heldAt c d (setHeld a b l s) = heldAt c d s := by
  by_cases hkey : pairKey c d = pairKey a b
  · obtain ⟨rfl, rfl⟩ := (pairKey_inj ha hb hc hd hkey).resolve_left hne
    exact heldAt_setHeld_back (fun h => hne ⟨h.symm, h⟩) l s
  · exact heldAt_setHeld_of_key_ne l s hkey

/-- From `s` to `t` nothing has changed but the transfers held from `a` to `b`. -/
structure OnlyHeldChanges (a b : Nat) (s t : State) : Prop where
  held : ∀ c d, c < 256 → d < 256 → ¬ (c = a ∧ d = b) → heldAt c d t = heldAt c d s
  atA : ∀ c d, (hingeOf c d t).atA = (hingeOf c d s).atA
  atB : ∀ c d, (hingeOf c d t).atB = (hingeOf c d s).atB
  elsewhere : ∀ c d, pairKey c d ≠ pairKey a b → hingeOf c d t = hingeOf c d s
  isOpen : hingeOpen a b t = hingeOpen a b s
  mem : t.mem = s.mem
  inflight : t.inflight = s.inflight

theorem OnlyHeldChanges.refl (a b : Nat) (s : State) : OnlyHeldChanges a b s s :=
  ⟨fun _ _ _ _ _ => rfl, fun _ _ => rfl, fun _ _ => rfl, fun _ _ _ => rfl, rfl, rfl, rfl⟩

theorem OnlyHeldChanges.trans {a b : Nat} {s t u : State} (h : OnlyHeldChanges a b s t) (k : OnlyHeldChanges a b t u) :
    OnlyHeldChanges a b s u where
  held c d hc hd hne := (k.held c d hc hd hne).trans (h.held c d hc hd hne)
  atA c d := (k.atA c d).trans (h.atA c d)
  atB c d := (k.atB c d).trans (h.atB c d)
  elsewhere c d hne := (k.elsewhere c d hne).trans (h.elsewhere c d hne)
  isOpen := k.isOpen.trans h.isOpen
  mem := k.mem.trans h.mem
  inflight := k.inflight.trans h.inflight

theorem onlyHeldChanges_setHeld {a b : Nat} (ha : a < 256) (hb : b < 256) (l : List Transfer) (s : State) :
    OnlyHeldChanges a b s (setHeld a b l s) where
  held c d hc hd := heldAt_setHeld_ne l s ha hb hc hd
  atA := fun c d => hingeOf_setHinge_keeps Hinge.atA a b (fun x => by split <;> rfl) c d s
  atB := fun c d => hingeOf_setHinge_keeps Hinge.atB a b (fun x => by split <;> rfl) c d s
  elsewhere c d := hingeOf_setHinge_ne _ s
  isOpen := by
    have hst : (hingeOf a b (setHeld a b l s)).stalled = (hingeOf a b s).stalled :=
      hingeOf_setHinge_keeps Hinge.stalled a b (fun x => by split <;> rfl) a b s
    rw [hingeOpen, hst]
    rfl
  mem := rfl
  inflight := rfl

/-! What a HINGE_TRANSFER offers and delivers (R35, R37, R81). -/

/-- What an offer brings to a hinge: one transfer where the hinge lies on its path, else none. -/
def offeredTransfer (a b : Nat) (owner : Option Nat) (offered : Option Offer) : Option Transfer :=
  offered.bind (fun o => (offerPath a b o).map (fun p => (⟨owner, o.payload, p⟩ : Transfer)))

theorem acceptOffer_of_none {a b : Nat} {owner : Option Nat} {offered : Option Offer} (s : State)
    (h : offeredTransfer a b owner offered = none) : acceptOffer a b owner offered s = s := by
  cases offered with
  | none => rfl
  | some o =>
    have hpath : offerPath a b o = none := by simpa [offeredTransfer] using h
    simp [acceptOffer, hpath]

theorem acceptOffer_of_some {a b : Nat} {owner : Option Nat} {offered : Option Offer} {x : Transfer} (s : State)
    (h : offeredTransfer a b owner offered = some x) : acceptOffer a b owner offered s = holdTransfer a b x s := by
  cases offered with
  | none => cases h
  | some o =>
    obtain ⟨p, hpath, rfl⟩ : ∃ p, offerPath a b o = some p ∧ (⟨owner, o.payload, p⟩ : Transfer) = x := by simpa [offeredTransfer] using h
    simp [acceptOffer, hpath]

/-- What is offered joins the transfers held in its direction, at their end. -/
theorem heldAt_acceptOffer (a b : Nat) (owner : Option Nat) (offered : Option Offer) (s : State) :
    heldAt a b (acceptOffer a b owner offered s) = heldAt a b s ++ (offeredTransfer a b owner offered).toList := by
  cases h : offeredTransfer a b owner offered with
  | none => simp [acceptOffer_of_none s h]
  | some x => simp [acceptOffer_of_some s h, holdTransfer]

theorem onlyHeldChanges_acceptOffer {a b : Nat} (ha : a < 256) (hb : b < 256) (owner : Option Nat) (offered : Option Offer) (s : State) :
    OnlyHeldChanges a b s (acceptOffer a b owner offered s) := by
  cases h : offeredTransfer a b owner offered with
  | none =>
    rw [acceptOffer_of_none s h]
    exact .refl a b s
  | some x =>
    rw [acceptOffer_of_some s h]
    exact onlyHeldChanges_setHeld ha hb _ s

/-- Counting a delivery at the peephole changes register fields alone. -/
theorem peepTransfer_eq (a b : Nat) (s : State) : peepTransfer a b s = { s with flds := (peepTransfer a b s).flds } := by
  have h : peepTransfer a b s = s ∨ ∃ k u e i, peepTransfer a b s = peep k u e i s := by
    simp only [peepTransfer]
    split_ifs
    · exact .inr ⟨_, _, _, _, rfl⟩
    · exact .inr ⟨_, _, _, _, rfl⟩
    · exact .inr ⟨_, _, _, _, rfl⟩
    · exact .inl rfl
  rcases h with h | ⟨k, u, e, i, h⟩
  · rw [h]
  · rw [h]
    exact peep_eq k u e i s

@[simp] theorem hingeOf_peepTransfer (a b c d : Nat) (s : State) : hingeOf c d (peepTransfer a b s) = hingeOf c d s := by
  rw [peepTransfer_eq]; rfl

@[simp] theorem heldAt_peepTransfer (a b c d : Nat) (s : State) : heldAt c d (peepTransfer a b s) = heldAt c d s := by
  rw [peepTransfer_eq]; rfl

@[simp] theorem peepTransfer_mem (a b : Nat) (s : State) : (peepTransfer a b s).mem = s.mem := by rw [peepTransfer_eq]

@[simp] theorem peepTransfer_inflight (a b : Nat) (s : State) : (peepTransfer a b s).inflight = s.inflight := by rw [peepTransfer_eq]

theorem ne_of_hingeHere {a b : Nat} (h : hingeHere a b = true) : a ≠ b := by
  rintro rfl
  simp [hingeHere, neighbours, hingeJoins, islandOf] at h
  omega

section
variable {a b : HingeEnd} {ready : Bool} {s : State}

theorem exec_hingeTransfer_of_waits (owner : Option Nat) (offered : Option Offer) (hhere : hingeHere a b = true)
    (h : ready = false ∨ hingeOpen a b s = false ∨ heldAt a b (acceptOffer a b owner offered s) = []) :
    exec (.hingeTransfer a b owner offered ready) s = .next (acceptOffer a b owner offered s) := by
  change execHingeTransfer a b owner offered ready s = _
  have hopen := (onlyHeldChanges_acceptOffer (by omega) (by omega) owner offered s : OnlyHeldChanges a b _ _).isOpen
  unfold execHingeTransfer
  cases hl : heldAt a b (acceptOffer a b owner offered s) with
  | nil => simp [hhere, hl]
  | cons x rest =>
    have hshut : (ready && hingeOpen a b s) = false := by
      rw [Bool.and_eq_false_iff]
      simpa [hl] using h
    simp [hhere, hl, hopen, hshut]

theorem exec_hingeTransfer_of_delivers {owner : Option Nat} {offered : Option Offer} {x : Transfer} {rest : List Transfer}
    (hhere : hingeHere a b = true) (hready : ready = true) (hopen : hingeOpen a b s = true)
    (hl : heldAt a b (acceptOffer a b owner offered s) = x :: rest) :
    exec (.hingeTransfer a b owner offered ready) s
      = .next (peepTransfer a b (transferArrives a b x (setHeld a b rest (acceptOffer a b owner offered s)))) := by
  change execHingeTransfer a b owner offered ready s = _
  have hkeep := (onlyHeldChanges_acceptOffer (by omega) (by omega) owner offered s : OnlyHeldChanges a b _ _).isOpen
  simp [execHingeTransfer, hhere, hl, hkeep, hopen, hready]

end

/-! The arrival of a transfer where its path ends, and its passing on to the next hinge. -/

section
variable {a b : Nat} {x : Transfer} {s : State}

@[simp] theorem transferArrives_mem : (transferArrives a b x s).mem = s.mem := by
  unfold transferArrives
  split <;> rfl

@[simp] theorem transferArrives_inflight : (transferArrives a b x s).inflight = s.inflight := by
  unfold transferArrives
  split <;> rfl

theorem transferArrives_end (h : x.path = []) : transferArrives a b x s
    = setHinge a b (fun h => if a < b then { h with atB := h.atB ++ [x] } else { h with atA := h.atA ++ [x] }) s := by
  simp [transferArrives, h]

theorem transferArrives_passes {c : Nat} {more : List Nat} (h : x.path = c :: more) :
    transferArrives a b x s = holdTransfer b c { x with path := more } s := by simp [transferArrives, h]

/-- An arrival leaves what the hinges hold, in both directions. -/
theorem heldAt_transferArrives_end (h : x.path = []) (c d : Nat) : heldAt c d (transferArrives a b x s) = heldAt c d s := by
  rw [transferArrives_end h]
  unfold heldAt
  rw [hingeOf_setHinge_keeps Hinge.fwd a b (fun y => by split <;> rfl) c d s,
    hingeOf_setHinge_keeps Hinge.bwd a b (fun y => by split <;> rfl) c d s]

theorem hingeOf_transferArrives_up (h : x.path = []) (hab : a < b) :
    hingeOf a b (transferArrives a b x s) = { hingeOf a b s with atB := (hingeOf a b s).atB ++ [x] } := by
  rw [transferArrives_end h, hingeOf_setHinge_self, if_pos hab]

theorem hingeOf_transferArrives_down (h : x.path = []) (hba : b < a) :
    hingeOf a b (transferArrives a b x s) = { hingeOf a b s with atA := (hingeOf a b s).atA ++ [x] } := by
  rw [transferArrives_end h, hingeOf_setHinge_self, if_neg hba.asymm]

theorem hingeOf_transferArrives_ne (h : x.path = []) {c d : Nat} (hne : pairKey c d ≠ pairKey a b) :
    hingeOf c d (transferArrives a b x s) = hingeOf c d s := by
  rw [transferArrives_end h, hingeOf_setHinge_ne _ s hne]

end

/-! Delivery. -/

/-- What a HINGE_TRANSFER that does not deliver leaves: the offer has joined, and nothing else has changed. -/
theorem OnlyHeldChanges.waits {a b : Nat} {s t : State} (h : OnlyHeldChanges a b s t) (ha : a < 256) (hb : b < 256) (hne : a ≠ b) :
    heldAt b a t = heldAt b a s ∧ (hingeOf a b t).atA = (hingeOf a b s).atA ∧ (hingeOf a b t).atB = (hingeOf a b s).atB
      ∧ ∀ c d, pairKey c d ≠ pairKey a b → hingeOf c d t = hingeOf c d s :=
  ⟨h.held b a hb ha (fun hba => hne hba.2), h.atA a b, h.atB a b, h.elsewhere⟩

section
variable {a b : Nat} {x : Transfer} {s u : State}

/-- A transfer whose path ends here arrives, and nothing else has changed but what is held from `a` to `b`. -/
theorem transferArrives_end_frame (hu : OnlyHeldChanges a b s u) (ha : a < 256) (hb : b < 256) (hne : a ≠ b) (hx : x.path = []) :
    heldAt b a (transferArrives a b x u) = heldAt b a s
      ∧ (a < b → (hingeOf a b (transferArrives a b x u)).atB = (hingeOf a b s).atB ++ [x]
          ∧ (hingeOf a b (transferArrives a b x u)).atA = (hingeOf a b s).atA)
      ∧ (b < a → (hingeOf a b (transferArrives a b x u)).atA = (hingeOf a b s).atA ++ [x]
          ∧ (hingeOf a b (transferArrives a b x u)).atB = (hingeOf a b s).atB)
      ∧ ∀ c d, pairKey c d ≠ pairKey a b → hingeOf c d (transferArrives a b x u) = hingeOf c d s := by
  obtain ⟨hback, hatA, hatB, helse⟩ := hu.waits ha hb hne
  refine ⟨by rw [heldAt_transferArrives_end hx, hback], fun hab => ?_, fun hba => ?_, fun c d hcd => ?_⟩
  · simp [hingeOf_transferArrives_up hx hab, hatA, hatB]
  · simp [hingeOf_transferArrives_down hx hba, hatA, hatB]
  · rw [hingeOf_transferArrives_ne hx hcd, helse c d hcd]

/-- A transfer whose path goes on joins those held at the next hinge, and nothing else has changed but what is held from `a` to `b`. -/
theorem transferArrives_passes_frame (hu : OnlyHeldChanges a b s u) (hb : b < 256) (hne : a ≠ b) {c : Nat} {more : List Nat}
    (hx : x.path = c :: more) (hc : c < 256) :
    heldAt b c (transferArrives a b x u) = heldAt b c s ++ [{ x with path := more }]
      ∧ (hingeOf a b (transferArrives a b x u)).atA = (hingeOf a b s).atA
      ∧ (hingeOf a b (transferArrives a b x u)).atB = (hingeOf a b s).atB
      ∧ ∀ d e, pairKey d e ≠ pairKey a b → pairKey d e ≠ pairKey b c → hingeOf d e (transferArrives a b x u) = hingeOf d e s := by
  have hnext := onlyHeldChanges_setHeld hb hc (heldAt b c u ++ [{ x with path := more }]) u
  rw [transferArrives_passes hx, holdTransfer]
  refine ⟨?_, (hnext.atA a b).trans (hu.atA a b), (hnext.atB a b).trans (hu.atB a b),
    fun d e hab hbc => (hnext.elsewhere d e hbc).trans (hu.elsewhere d e hab)⟩
  rw [heldAt_setHeld_self, hu.held b c hb hc (fun h => hne h.1.symm)]

/-- The arrival of a transfer leaves the others held from `a` to `b` where they are. -/
theorem heldAt_transferArrives (ha : a < 256) (hb : b < 256) (hne : a ≠ b) : heldAt a b (transferArrives a b x u) = heldAt a b u := by
  cases hx : x.path with
  | nil => exact heldAt_transferArrives_end hx a b
  | cons c more =>
    rw [transferArrives_passes hx]
    by_cases hkey : pairKey a b = pairKey b c
    · obtain rfl := eq_of_pairKey_eq ha hb hkey
      exact heldAt_setHeld_back hne.symm _ u
    · exact heldAt_setHeld_of_key_ne _ u hkey

end

/-! The path of a transfer (R35, R37, R40). -/

theorem neighbours_comm (a b : Nat) : neighbours a b = neighbours b a := Bool.or_comm _ _

/-- Consecutive regions of a path are neighbours. -/
abbrev Joined (p : List Nat) : Prop := p.IsChain (fun a b => neighbours a b = true)

theorem joined_iff_hops (p : List Nat) : Joined p ↔ ∀ h ∈ hops p, neighbours h.1 h.2 = true := by
  induction p using hops.induct with
  | case1 a b t ih => simp [hops, List.isChain_cons_cons, ih]
  | case2 p hp =>
    match p with
    | [] => simp [hops]
    | [x] => simp [hops]
    | a :: b :: t => exact absurd rfl (hp a b t)

theorem joined_reverse {p : List Nat} (h : Joined p) : Joined p.reverse :=
  List.isChain_reverse.mpr (h.imp (fun a b hab => by rwa [neighbours_comm]))

/-- Two ways that end where a middle way begins and ends make one way with it. -/
theorem joined_over {ta tb m : List Nat} {g h : Nat} (ha : Joined (ta ++ [g])) (hb : Joined (tb ++ [h])) (hm : Joined m)
    (hg : m.head? = some g) (hh : m.getLast? = some h) : Joined (ta ++ m ++ tb.reverse) := by
  obtain ⟨hta, -, hag⟩ := List.isChain_append.mp ha
  obtain ⟨-, htb, hbh⟩ := List.isChain_append.mp (List.reverse_append ▸ joined_reverse hb)
  have hne : m ≠ [] := by
    rintro rfl
    cases hg
  refine List.isChain_append.mpr ⟨List.isChain_append.mpr ⟨hta, hm, ?_⟩, htb, ?_⟩
  · simpa [hg] using hag
  · simpa [List.getLast?_append, hh] using hbh

/-- A list of regions is a way from `a` to `b`: it begins and ends there, goes from hinge to hinge, and passes no region twice. -/
structure IsWay (a b : Nat) (p : List Nat) : Prop where
  first : p.head? = some a
  last : p.getLast? = some b
  nodup : p.Nodup
  joined : Joined p

/-! The part of a path outside the mullion. -/

theorem mem_towardMullion {n x : Nat} (h : x ∈ towardMullion n) :
    (x = n ∧ (n < 68 ∨ 72 ≤ n)) ∨ (n < 64 ∧ n % 2 = 0 ∧ x = n + 1) ∨ (72 ≤ n ∧ x = 77 + 6 * homeQuadrant n) := by
  unfold towardMullion at h
  split_ifs at h <;> simp at h <;> omega

/-- The regions on the way to the mullion are no quadrants. -/
theorem not_quadrant_of_mem_towardMullion {n x : Nat} (h : x ∈ towardMullion n) : x < 68 ∨ 72 ≤ x := by
  rcases mem_towardMullion h with h | h | h <;> omega

theorem nodup_towardMullion (n : Nat) : (towardMullion n).Nodup := by
  unfold towardMullion
  split_ifs <;> simp
  assumption

/-- Whether the mullion is entered from region `n` at quadrant `g`: from a lintel at any quadrant that is joined to it, else at the
region's own quadrant (R35, R40). -/
def entersAt (n g : Nat) : Bool := if 64 ≤ n ∧ n < 68 then neighbours n (68 + g) else decide (g = homeQuadrant n)

/-- The way from a region to the quadrant where it enters the mullion. -/
theorem towardMullion_isWay {n g : Nat} (hn : n < 100) (h : entersAt n g = true) :
    (towardMullion n ++ [68 + g]).head? = some n ∧ Joined (towardMullion n ++ [68 + g]) := by
  by_cases hl : 64 ≤ n ∧ n < 68
  · have hw : towardMullion n = [n] := by simp [towardMullion, hl, Nat.not_lt.mpr hl.1]
    simpa [hw, entersAt, hl] using h
  · obtain rfl : g = homeQuadrant n := by simpa [entersAt, hl] using h
    have hall : ∀ n : Fin 100, (towardMullion n ++ [68 + homeQuadrant n]).head? = some n.val ∧
        ((64 ≤ n.val ∧ n.val < 68) ∨ Joined (towardMullion n ++ [68 + homeQuadrant n])) := by decide
    obtain ⟨hfirst, hjoined⟩ := hall ⟨n, hn⟩
    exact ⟨hfirst, hjoined.resolve_left hl⟩

/-! The part of a path in the mullion. -/

/-- The lintel, or the quadrant, that stands for a region on the mullion: a path's quadrants depend on it alone. -/
def gate (n : Nat) : Nat := if 64 ≤ n ∧ n < 68 then n else 68 + homeQuadrant n

theorem homeQuadrant_lt {n : Nat} (hn : n < 100) : homeQuadrant n < 4 := by
  unfold homeQuadrant
  split_ifs <;> omega

theorem gate_lt {n : Nat} (hn : n < 100) : 64 ≤ gate n ∧ gate n < 72 := by
  have h := homeQuadrant_lt hn
  unfold gate
  split_ifs <;> omega

theorem gate_of_not_lintel {n : Nat} (h : ¬ (64 ≤ n ∧ n < 68)) : gate n = 68 + homeQuadrant n := if_neg h

theorem homeQuadrant_quadrant {q : Nat} (h : q < 4) : homeQuadrant (68 + q) = q := by
  unfold homeQuadrant
  split_ifs <;> omega

theorem homeQuadrant_gate {n : Nat} (hn : n < 100) : homeQuadrant (gate n) = homeQuadrant n := by
  by_cases h : 64 ≤ n ∧ n < 68
  · simp [gate, h]
  · rw [gate_of_not_lintel h, homeQuadrant_quadrant (homeQuadrant_lt hn)]

theorem cutForLintel_of_not_lintel {n : Nat} (h : ¬ (64 ≤ n ∧ n < 68)) (l : List Nat) : cutForLintel n l = l := by
  induction l with
  | nil => rfl
  | cons q t ih =>
    have hcut : (decide (64 ≤ n) && decide (n < 68)) = false := by simpa using h
    simp [cutForLintel, hcut, ih]

theorem cutForLintel_gate (n : Nat) (l : List Nat) : cutForLintel (gate n) l = cutForLintel n l := by
  by_cases h : 64 ≤ n ∧ n < 68
  · simp [gate, h]
  · rw [cutForLintel_of_not_lintel h, gate_of_not_lintel h, cutForLintel_of_not_lintel (by omega)]

theorem quadrantPath_gate {a b : Nat} (ha : a < 100) (hb : b < 100) : quadrantPath (gate a) (gate b) = quadrantPath a b := by
  simp only [quadrantPath, cutForLintel_gate, homeQuadrant_gate ha, homeQuadrant_gate hb]

theorem entersAt_gate {n : Nat} (hn : n < 100) (g : Nat) : entersAt (gate n) g = entersAt n g := by
  by_cases h : 64 ≤ n ∧ n < 68
  · simp [gate, h]
  · have hq : ¬ (64 ≤ gate n ∧ gate n < 68) := by rw [gate_of_not_lintel h]; omega
    simp only [entersAt, hq, h, if_false, homeQuadrant_gate hn]

/-- The quadrants that a path passes: it enters the mullion from both its ends, goes from quadrant to quadrant, and passes none twice. -/
structure IsMullionWay (a b : Nat) (m : List Nat) : Prop where
  enters : ∃ g, m.head? = some g ∧ entersAt a g = true
  leaves : ∃ g, m.getLast? = some g ∧ entersAt b g = true
  quadrants : ∀ q ∈ m, q < 4
  nodup : m.Nodup
  joined : Joined (m.map (fun q => 68 + q))

/-- The paths between the eight gates, one by one. -/
theorem gates_isMullionWay : ∀ p q : Fin 8,
    ((quadrantPath (64 + p) (64 + q)).head?.any (entersAt (64 + p)) = true
      ∧ (quadrantPath (64 + p) (64 + q)).getLast?.any (entersAt (64 + q)) = true)
    ∧ (∀ x ∈ quadrantPath (64 + p) (64 + q), x < 4) ∧ (quadrantPath (64 + p) (64 + q)).Nodup
    ∧ Joined ((quadrantPath (64 + p) (64 + q)).map (fun x => 68 + x)) := by decide

theorem quadrantPath_isMullionWay {a b : Nat} (ha : a < 100) (hb : b < 100) : IsMullionWay a b (quadrantPath a b) := by
  obtain ⟨ha64, ha72⟩ := gate_lt ha
  obtain ⟨hb64, hb72⟩ := gate_lt hb
  have h := gates_isMullionWay ⟨gate a - 64, by omega⟩ ⟨gate b - 64, by omega⟩
  simp only [Nat.add_sub_cancel' ha64, Nat.add_sub_cancel' hb64, quadrantPath_gate ha hb, Option.any_eq_true, entersAt_gate ha,
    entersAt_gate hb] at h
  obtain ⟨⟨henters, hleaves⟩, hquadrants, hnodup, hjoined⟩ := h
  exact ⟨henters, hleaves, hquadrants, hnodup, hjoined⟩

/-! The whole path. -/

theorem neighbours_core {n : Nat} (h : n < 64) (heven : n % 2 = 0) : neighbours n (n + 1) = true := by
  simp [neighbours, hingeJoins, h, heven]

/-- A core's mover region is joined to its cluster's lintel (R80). -/
theorem neighbours_lintel {m : Nat} (h : m < 64) (hodd : m % 2 = 1) {b : Nat} (hb : b = 64 + m / 2 / 8) : neighbours m b = true := by
  simp [neighbours, hingeJoins, h, hodd, hb]

/-- Every other region of a frame die is joined to the die's fabric (R36, R80). -/
theorem neighbours_fabric {n : Nat} (h72 : 72 ≤ n) (hn : n < 100) (hne : n ≠ 77 + 6 * homeQuadrant n) :
    neighbours n (77 + 6 * homeQuadrant n) = true := by
  have hall : ∀ n : Fin 100, 72 ≤ n.val → n.val ≠ 77 + 6 * homeQuadrant n → neighbours n (77 + 6 * homeQuadrant n) = true := by decide
  exact hall ⟨n, hn⟩ h72 hne

/-- The ways of two ends to the mullion do not meet, unless the ends are one region, neighbours, or on one frame die. -/
theorem towardMullion_disjoint {a b : Nat} (ha : a < 100) (hb : b < 100) (hne : a ≠ b) (hjoin : neighbours a b = false)
    (hdie : ¬ ((frameDie a).isSome ∧ frameDie a = frameDie b)) : (towardMullion a).Disjoint (towardMullion b) := by
  have hcore {m n : Nat} (hm : m < 64) (heven : m % 2 = 0) (hn : n = m + 1) : neighbours m n = true := hn ▸ neighbours_core hm heven
  have hqa := homeQuadrant_lt ha
  have hqb := homeQuadrant_lt hb
  have hdie' : 72 ≤ a → 72 ≤ b → homeQuadrant a ≠ homeQuadrant b := by
    intro h72 h72' hq
    simp [frameDie, Nat.not_lt.mpr h72, Nat.not_lt.mpr h72', hq] at hdie
  have hfabric {q : Nat} (hq : q < 4) : homeQuadrant (77 + 6 * q) = q := by
    unfold homeQuadrant
    split_ifs <;> omega
  intro x hxa hxb
  rcases mem_towardMullion hxa with ⟨rfl, -⟩ | ⟨ha64, heven, rfl⟩ | ⟨ha72, rfl⟩
  · rcases mem_towardMullion hxb with ⟨rfl, -⟩ | ⟨hb64, heven, h⟩ | ⟨hb72, rfl⟩
    · exact hne rfl
    · rw [neighbours_comm, hcore hb64 heven h] at hjoin
      cases hjoin
    · exact hdie' (by omega) hb72 (hfabric hqb)
  · rcases mem_towardMullion hxb with ⟨h, -⟩ | ⟨-, -, h⟩ | ⟨hb72, h⟩
    · rw [hcore ha64 heven h.symm] at hjoin
      cases hjoin
    · omega
    · omega
  · rcases mem_towardMullion hxb with ⟨rfl, -⟩ | ⟨hb64, -, h⟩ | ⟨hb72, h⟩
    · exact hdie' ha72 (by omega) (hfabric hqa).symm
    · omega
    · exact hdie' ha72 hb72 (by omega)

theorem isWay_over_mullion {a b : Nat} (ha : a < 100) (hb : b < 100)
    (hdisj : (towardMullion a).Disjoint (towardMullion b)) :
    IsWay a b (towardMullion a ++ (quadrantPath a b).map (fun q => 68 + q) ++ (towardMullion b).reverse) := by
  obtain ⟨⟨g, hg, hga⟩, ⟨k, hk, hkb⟩, hquad, hnodup, hjoined⟩ := quadrantPath_isMullionWay ha hb
  obtain ⟨hfirst, hja⟩ := towardMullion_isWay ha hga
  obtain ⟨hlast, hjb⟩ := towardMullion_isWay hb hkb
  have hout {n x : Nat} (hx : x ∈ towardMullion n) : x ∉ (quadrantPath a b).map (fun q => 68 + q) := by
    intro hm
    obtain ⟨q, hq, rfl⟩ := List.mem_map.mp hm
    have h4 := hquad q hq
    have := not_quadrant_of_mem_towardMullion hx
    omega
  refine ⟨?_, ?_, ?_, joined_over hja hjb hjoined (by simp [hg]) (by simp [hk])⟩
  · simpa [List.head?_append, hg] using hfirst
  · simpa [List.getLast?_append, List.head?_append, hk] using hlast
  · refine List.Nodup.append ?_ (List.nodup_reverse.mpr (nodup_towardMullion b)) ?_
    · exact (nodup_towardMullion a).append (hnodup.map (fun p q h => by simpa using h)) (fun x hx => hout hx)
    · intro x hx hxb
      have hxb := List.mem_reverse.mp hxb
      rcases List.mem_append.mp hx with hxa | hxm
      · exact hdisj hxa hxb
      · exact hout hxb hxm

theorem isWay_three {a m b : Nat} (hne : a ≠ b) (hjoin : neighbours a b = false) (ham : neighbours a m = true)
    (hmb : neighbours m b = true) : IsWay a b [a, m, b] := by
  have ha : a ≠ m := by
    rintro rfl
    simp [hjoin] at hmb
  have hb : m ≠ b := by
    rintro rfl
    simp [hjoin] at ham
  exact ⟨rfl, rfl, by simp [ha, hb, hne], by simp [ham, hmb]⟩

theorem frameDie_eq_some {n q : Nat} (h : frameDie n = some q) : 72 ≤ n ∧ q = homeQuadrant n := by
  unfold frameDie at h
  split at h
  · cases h
  · exact ⟨by omega, (Option.some.inj h).symm⟩

theorem isWay_on_frameDie {a b : Nat} (ha : a < 100) (hb : b < 100) (hne : a ≠ b) (hjoin : neighbours a b = false)
    (hsome : (frameDie a).isSome) (hdie : frameDie a = frameDie b) : IsWay a b [a, 77 + 6 * homeQuadrant a, b] := by
  obtain ⟨q, hq⟩ := Option.isSome_iff_exists.mp hsome
  obtain ⟨ha72, rfl⟩ := frameDie_eq_some hq
  obtain ⟨hb72, hqq⟩ := frameDie_eq_some (hdie ▸ hq)
  have hba : b ≠ 77 + 6 * homeQuadrant b → neighbours (77 + 6 * homeQuadrant b) b = true :=
    fun h => neighbours_comm b _ ▸ neighbours_fabric hb72 hb h
  have hab := neighbours_fabric ha72 ha
  rw [hqq] at hab ⊢
  refine isWay_three hne hjoin (hab ?_) (hba ?_)
  · intro h
    rw [h, hba (h ▸ hne.symm)] at hjoin
    cases hjoin
  · intro h
    rw [h, hab (h ▸ hne)] at hjoin
    cases hjoin

/-- A core whose mover is not the region itself reaches its own lintel over its mover (R33). -/
theorem isWay_to_lintel {a b : Nat} (ha : a < 64) (hb : b = 64 + a / 16) (hjoin : neighbours a b = false) : IsWay a b [a, a + 1, b] := by
  have heven : a % 2 = 0 := by
    by_contra hodd
    rw [neighbours_lintel ha (by omega) (by omega)] at hjoin
    cases hjoin
  exact isWay_three (by omega) hjoin (neighbours_core ha heven) (neighbours_lintel (by omega) (by omega) (by omega))

theorem IsWay.reverse {a b : Nat} {p : List Nat} (h : IsWay a b p) : IsWay b a p.reverse :=
  ⟨by rw [List.head?_reverse, h.last], by rw [List.getLast?_reverse, h.first], List.nodup_reverse.mpr h.nodup, joined_reverse h.joined⟩

/-- The path of R35 and R37 is a way between any two regions. -/
theorem regionPath_isWay {a b : Nat} (ha : a < 100) (hb : b < 100) : IsWay a b (regionPath a b) := by
  unfold regionPath
  split_ifs with hab hjoin hdie hcore hcore'
  · exact hab ▸ ⟨rfl, rfl, List.nodup_singleton a, List.isChain_singleton a⟩
  · exact ⟨rfl, rfl, by simp [hab], by simp [hjoin]⟩
  · simp only [Bool.and_eq_true, decide_eq_true_eq] at hdie
    obtain ⟨hsome, hsame⟩ := hdie
    exact isWay_on_frameDie ha hb hab (Bool.eq_false_iff.mpr hjoin) hsome hsame
  · simp only [Bool.and_eq_true, decide_eq_true_eq] at hcore
    obtain ⟨ha64, hlintel⟩ := hcore
    exact isWay_to_lintel ha64 hlintel (Bool.eq_false_iff.mpr hjoin)
  · simp only [Bool.and_eq_true, decide_eq_true_eq] at hcore'
    obtain ⟨hb64, hlintel⟩ := hcore'
    exact (isWay_to_lintel hb64 hlintel (by rwa [neighbours_comm, ← Bool.not_eq_true])).reverse
  · refine isWay_over_mullion ha hb (towardMullion_disjoint ha hb hab (Bool.eq_false_iff.mpr hjoin) ?_)
    simpa using hdie

/-- Settles O15: an offer changes what is held in its direction alone, a delivery takes the oldest of that and passes it on, and
`regionPath` is a way between any two regions. -/
theorem hingeDeliversInOrder : Obligations.HingeDeliversInOrder := by
  refine ⟨?deliver, fun a b => ?path⟩
  case path =>
    obtain ⟨hfirst, hlast, hnodup, hjoined⟩ := regionPath_isWay a.isLt b.isLt
    exact ⟨hfirst, hlast, hnodup, (joined_iff_hops _).mp hjoined⟩
  case deliver =>
    intro a b owner offered ready s held hhere hheld
    have hne := ne_of_hingeHere hhere
    have ha : a.val < 256 := by omega
    have hb : b.val < 256 := by omega
    obtain rfl := hheld.trans (heldAt_acceptOffer a b owner offered s).symm
    have hu := onlyHeldChanges_acceptOffer ha hb owner offered s
    by_cases hwait : ready = false ∨ hingeOpen a b s = false ∨ heldAt a b (acceptOffer a b owner offered s) = []
    · refine ⟨_, exec_hingeTransfer_of_waits owner offered hhere hwait, hu.mem, hu.inflight, fun _ => ⟨rfl, hu.waits ha hb hne⟩, ?_⟩
      intro x rest hready hopen hl
      simp [hready, hopen, hl] at hwait
    · obtain ⟨hready, hopen, hsome⟩ : ready = true ∧ hingeOpen a b s = true ∧ heldAt a b (acceptOffer a b owner offered s) ≠ [] := by
        simpa using hwait
      obtain ⟨y, others, hl⟩ := List.exists_cons_of_ne_nil hsome
      have hv := hu.trans (onlyHeldChanges_setHeld ha hb others _)
      refine ⟨_, exec_hingeTransfer_of_delivers hhere hready hopen hl, ?_, ?_, fun h => absurd h hwait, ?_⟩
      · simp [hv.mem]
      · simp [hv.inflight]
      · intro x rest _ _ hxl
        obtain ⟨rfl, rfl⟩ := List.cons.inj (hl.symm.trans hxl)
        simp only [heldAt_peepTransfer, hingeOf_peepTransfer]
        refine ⟨?_, fun hx => transferArrives_end_frame hv ha hb hne hx,
          fun c more hx hc => transferArrives_passes_frame hv hb hne hx hc⟩
        rw [heldAt_transferArrives ha hb hne, heldAt_setHeld_self]

end Sys2Proof.Machine

namespace Sys2Proof.Machine

/-! PROOFS. Timing regions: the stall limit, the supply, the LIC with its calibration, the region monitor, and the reset of a region. -/

/-! Folds and regions. -/

/-- What each step of a fold keeps holds after the fold. -/
theorem forEach_invariant {α : Type} {P : State → Prop} {l : List α} {f : α → State → State} {s : State} (h : P s)
    (hf : ∀ x ∈ l, ∀ t, P t → P (f x t)) : P (forEach l f s) := by
  induction l generalizing s with
  | nil => exact h
  | cons x t ih => exact ih (hf x List.mem_cons_self s h) (fun y hy => hf y (List.mem_cons_of_mem x hy))

/-- A change of a region depends on what it makes of that region alone. -/
theorem setRegion_congr {n : Nat} {f g : Region → Region} {s : State} (h : f (regionOf n s) = g (regionOf n s)) :
    setRegion n f s = setRegion n g s :=
  congrArg (fun r => { s with regions := assocSet regionInit s.regions n r }) h

/-! The registers of a region's page (R93 to R104). -/

/-- Outside the reset control, a register of a region's page reads its reset value in the reset state. -/
theorem getF_reset_of_page {f : Fld} {n o : Nat} (ha : f.addr = 0x03000000 + n * 0x1000 + o) (ho : o < 0x1000) (h : o ≠ 0x50)
    (hlo : f.lo < 64) : getF f State.reset = f.reset := by
  refine getF_reset_of_ne f (fun m => key_ne_of_addr _ _ (Nat.zero_lt_succ _) hlo ?_)
  simp only [REG.RSTCTL_RESET]
  omega

theorem addrReach_region (n o : Nat) : addrReach (0x03000000 + n * 0x1000 + o) = .early := by
  have hglb : ¬ 0x03000000 + n * 0x1000 + o < 0x00100000 := by omega
  have hearly : 0x03000000 ≤ 0x03000000 + n * 0x1000 + o := by omega
  simp only [addrReach, hglb, hearly, if_false, if_true]

theorem readServed_of_early {a : Nat} {s : State} (ha : addrReach a = .early) (h : blkServed .early s = true) : readServed a s = true := by
  simp [readServed, ha, h]

theorem blkAt_region (n : RegionNo) {o : Nat} (ho : o < 0x1000) : blkAt (0x03000000 + n * 0x1000 + o) = some (.reg, n.val, o) := by
  have hn := n.isLt
  have hdiv : (0x03000000 + n.val * 0x1000 + o - 0x03000000) / 0x1000 = n := by omega
  have hmod : (0x03000000 + n.val * 0x1000 + o) % 0x1000 = o := by omega
  unfold blkAt
  simp only [hdiv, hmod]
  repeat rw [if_neg (by omega)]
  rw [if_pos (by omega)]

/-- HSTALL is the register at offset 0x38 of a region's page (R102). -/
def hstallAt (n : RegionNo) : RegAt := ⟨.reg, n, 0x38, 0, 0x03000000 + n * 0x1000 + 0x38, rowsReg_HSTALL⟩

theorem regAt_hstall (n : RegionNo) : regAt (0x03000000 + n * 0x1000 + 0x38) = some (hstallAt n) := by
  have hn : ¬ (blkUnits .reg ≤ n.val ∨ (Blk.reg = .arb ∧ arbKind n = none)) := by
    simp [blkUnits]
  unfold regAt
  rw [blkAt_region n (by decide)]
  simp only [if_neg hn]
  rfl

theorem regValue_hstall (n : RegionNo) (s : State) : regValue (hstallAt n) s = getF (REG.HSTALL_LIMIT n) s % 2 ^ 32 := by
  simp [regValue, shownValue, storedValue, hstallAt, RegAt.fields, RegAt.fld, rowsReg_HSTALL, REG.HSTALL_LIMIT]

/-- A write of HSTALL takes a listed encoding and refuses a reserved one with a record (R21, R102). -/
theorem writeReg_hstall (n : RegionNo) {v : Nat} (hv : v < 2 ^ 32) (s : State) :
    writeReg (hstallAt n) v s
      = if 0x10000 ≤ v then setF (REG.HSTALL_LIMIT n) v s else regAccessError (0x03000000 + n * 0x1000 + 0x38) s := by
  have hbits : bitsOf v 0 32 = v := by simp only [bitsOf]; omega
  have hle : v ≤ 0xFFFFFFFF := by omega
  by_cases h : 0x10000 ≤ v <;>
    simp [writeReg, writeFields, writeField, fieldRefused, encodingListed, hstallAt, RegAt.fields, RegAt.fld, rowsReg_HSTALL,
      REG.HSTALL_LIMIT, hbits, h, hle]

theorem exec_write_hstall (n : RegionNo) (value : Nat) {s : State} (h : Served .early s) :
    exec (.registerWrite (0x03000000 + n * 0x1000 + 0x38) 4 value) s = .next (writeReg (hstallAt n) (value % 2 ^ 32) s) := by
  rw [exec_write_word value (by omega) (by rw [addrReach_region]; exact h),
    writeWord_of_register32 value s (regAt_hstall n) rfl]

theorem exec_read_hstall (n : RegionNo) {s : State} (h : Served .early s) :
    exec (.registerReadLowerHalf ⟨0x03000000 + n * 0x1000 + 0x38, 4, false⟩) s
      = .next (emit (.regReply (getF (REG.HSTALL_LIMIT n) s % 2 ^ 32)) s) := by
  have hn := n.isLt
  rw [exec_read_word (by omega) (by omega) h.1 (readServed_of_early (addrReach_region n _) h.2),
    readWord_of_register32 s (regAt_hstall n) rfl, regValue_hstall]

/-! A stall that lasts (R88). -/

section
variable {a b : RegionNo} {f t : Nat} {s : State}

/-- A stall that has lasted longer than HSTALL of the faster side resets one region of the pair. -/
theorem exec_hingeStallTimeout_late (h : (hingeOf a b s).stalled = some (f, t)) (hn : neighbours a b = true) (hf : fatal s = false)
    (hlate : getF (REG.HSTALL_LIMIT f) s < licSince f t s) :
    exec (.hingeStallTimeout a b) s
      = .next (resetRegion (stallVictim a b s) (endStall a b (pairRecord a b 6 (stallVictim a b s) s))) := by
  change execHingeStallTimeout a b s = _
  simp [execHingeStallTimeout, h, hn, hf, hlate]

theorem exec_hingeStallTimeout_early (h : (hingeOf a b s).stalled = some (f, t))
    (hearly : licSince f t s ≤ getF (REG.HSTALL_LIMIT f) s) : exec (.hingeStallTimeout a b) s = .next s := by
  change execHingeStallTimeout a b s = _
  simp [execHingeStallTimeout, h, Nat.not_lt.mpr hearly]

end

/-- Settles O9: HSTALL is a register of one field, whose reserved encodings are those below 0x1_0000. -/
theorem hstallWrite : Obligations.HstallWrite := by
  intro n value s
  have hv : value % 2 ^ 32 < 2 ^ 32 := Nat.mod_lt _ (by decide)
  refine ⟨getF_reset_of_page (f := REG.HSTALL_LIMIT n) rfl (by decide) (by decide) (Nat.zero_lt_succ _),
    fun h => ⟨fun hle => ?_, fun hlt => ?_, exec_read_hstall n h⟩, fun m t hst hn hf => ⟨exec_hingeStallTimeout_late hst hn hf, exec_hingeStallTimeout_early hst⟩⟩
  · rw [exec_write_hstall n value h, writeReg_hstall n hv, if_pos hle]
  · rw [exec_write_hstall n value h, writeReg_hstall n hv, if_neg (Nat.not_le.mpr hlt)]

/-! The supply of a region (R73, R98). -/

section
variable {n : RegionNo} {s : State}

theorem exec_vsetWrite (vcode : Nat) (h : Served .early s) :
    exec (.vsetWrite n vcode) s = .next (if 10 ≤ vcode ∧ vcode ≤ 60 then setVset n vcode s
      else regAccessError (0x03000000 + n * 0x1000 + 0x20) s) :=
  congrArg Host.Outcome.next (hostWrite_of_served _ h)

/-- A regulator on its way keeps the stamp of its last step. -/
theorem setVset_of_slewing (vcode : Nat) (h : (regionOf n s).vout ≠ 600 + 5 * getF (REG.VSET_VCODE n) s) :
    setVset n vcode s = setF (REG.VSET_VCODE n) vcode s := by simp [setVset, h]

/-- A regulator at rest counts to its first step from the write. -/
theorem setVset_of_idle (vcode : Nat) (h : (regionOf n s).vout = 600 + 5 * getF (REG.VSET_VCODE n) s) :
    setVset n vcode s = setRegion n (fun r => { r with vstamp := licOf n s }) (setF (REG.VSET_VCODE n) vcode s) := by
  have hlic : licOf n (setF (REG.VSET_VCODE n) vcode s) = licOf n s :=
    getF_setF_ne _ _ _ _ (key_ne_of_addr _ _ (Nat.zero_lt_succ _) (Nat.zero_lt_succ _)
      (by simp only [REG.LIC_COUNT, REG.VSET_VCODE]; omega))
  simp [setVset, h, hlic]

theorem exec_regulatorStep_at_target (h : (regionOf n s).vout = 600 + 5 * getF (REG.VSET_VCODE n) s) :
    exec (.regulatorStep n) s = .next s := by
  change execRegulatorStep n s = _
  simp [execRegulatorStep, h]

theorem exec_regulatorStep_due (h : (regionOf n s).vout ≠ 600 + 5 * getF (REG.VSET_VCODE n) s)
    (hdue : 512 ≤ licSince n (regionOf n s).vstamp s) :
    exec (.regulatorStep n) s = .next (setRegion n (fun r => { r with
      vout := if r.vout < 600 + 5 * getF (REG.VSET_VCODE n) s then r.vout + 5 else r.vout - 5, vstamp := licOf n s }) s) := by
  change execRegulatorStep n s = _
  simp [execRegulatorStep, h, Nat.not_lt.mpr hdue]

theorem exec_regulatorStep_up (h : (regionOf n s).vout < 600 + 5 * getF (REG.VSET_VCODE n) s)
    (hdue : 512 ≤ licSince n (regionOf n s).vstamp s) :
    exec (.regulatorStep n) s = .next (setRegion n (fun r => { r with vout := (regionOf n s).vout + 5, vstamp := licOf n s }) s) := by
  rw [exec_regulatorStep_due (Nat.ne_of_lt h) hdue, setRegion_congr]
  simp [h]

theorem exec_regulatorStep_down (h : 600 + 5 * getF (REG.VSET_VCODE n) s < (regionOf n s).vout)
    (hdue : 512 ≤ licSince n (regionOf n s).vstamp s) :
    exec (.regulatorStep n) s = .next (setRegion n (fun r => { r with vout := (regionOf n s).vout - 5, vstamp := licOf n s }) s) := by
  rw [exec_regulatorStep_due (Nat.ne_of_gt h) hdue, setRegion_congr]
  simp [Nat.not_lt.mpr (Nat.le_of_lt h)]

end

/-- Settles O12: a write of VSET by its code and by whether the regulator rests, a step by which side of the target the output is on. -/
theorem supplySlew : Obligations.SupplySlew := by
  intro n vcode s
  refine ⟨getF_reset_of_page (f := REG.VSET_VCODE n) rfl (by decide) (by decide) (Nat.zero_lt_succ _),
    by simp [regionInit], ?slewing, ?idle, ?refused, exec_regulatorStep_at_target, exec_regulatorStep_up, exec_regulatorStep_down⟩
  case slewing =>
    intro h hlo hhi hne
    rw [exec_vsetWrite vcode h, if_pos ⟨hlo, hhi⟩, setVset_of_slewing vcode hne]
  case idle =>
    intro h hlo hhi heq
    rw [exec_vsetWrite vcode h, if_pos ⟨hlo, hhi⟩, setVset_of_idle vcode heq]
  case refused =>
    intro h hout
    rw [exec_vsetWrite vcode h, if_neg (by omega)]

/-! The LIC of a region (R75). -/

/-- What the peephole's counting keeps, the counting of a region's LIC keeps. -/
theorem peepLic_invariant {P : State → Prop} (hP : ∀ k u e i t, P t → P (peep k u e i t)) (n d : Nat) {s : State} (h : P s) :
    P (peepLic n d s) := by
  have hif {c : Prop} [Decidable c] {k u e i : Nat} {t : State} (ht : P t) : P (if c then peep k u e i t else t) :=
    ite_keep (hP k u e i t ht) ht
  unfold peepLic
  dsimp only
  refine ite_keep h (forEach_invariant (forEach_invariant ?_ fun u _ t ht => hif ht) fun i _ t ht => hif ht)
  exact ite_keep (hif (hif (hif (hif h)))) (ite_keep (hif (hif (hif (hif h)))) (hif (hif h)))

theorem peepLic_eq (n d : Nat) (s : State) : peepLic n d s = { s with flds := (peepLic n d s).flds } :=
  peepLic_invariant (P := fun t => t = { s with flds := t.flds }) (fun k u e i t ht => by rw [peep_eq, ht]) n d rfl

theorem getF_peepLic {g : Fld} (hg : plain g) (n d : Nat) (s : State) : getF g (peepLic n d s) = getF g s :=
  peepLic_invariant (P := fun t => getF g t = getF g s) (fun k u e i t ht => (getF_peep g k u e i t hg).trans ht) n d rfl

/-- One unit's zeroing goes on (R310 step 5). -/
def zeroingStep (u : Nat) (s : State) : State :=
  showBootZero (setF (MU.MUZERO_REMAIN u) (min (drawFree s).1 (getF (MU.MUZERO_REMAIN u) (drawFree s).2)) (drawFree s).2)

theorem zeroingGoesOn_eq_forEach (n : Nat) (s : State) : zeroingGoesOn n s =
    forEach ((List.range 32).filter (fun u => decide (muRegion u = n) && decide (getF (MU.MUSTAT_TSTATE u) s = 3))) zeroingStep s := rfl

/-- What the zeroing of each unit keeps, zeroing keeps. -/
theorem zeroingGoesOn_invariant {P : State → Prop} (hP : ∀ u < 32, ∀ t, P t → P (zeroingStep u t)) (n : Nat) {s : State} (h : P s) :
    P (zeroingGoesOn n s) := by
  rw [zeroingGoesOn_eq_forEach]
  exact forEach_invariant h fun u hu => hP u (List.mem_range.mp (List.mem_of_mem_filter hu))

/-- Zeroing changes register fields and draws free values. -/
theorem zeroingGoesOn_eq (n : Nat) (s : State) : zeroingGoesOn n s =
    { s with flds := (zeroingGoesOn n s).flds, freeIdx := (zeroingGoesOn n s).freeIdx } :=
  zeroingGoesOn_invariant (P := fun t => t = { s with flds := t.flds, freeIdx := t.freeIdx })
    (fun u _ t ht => by conv => { lhs; rw [ht] }; rfl) n rfl

theorem muBase_bounds {u : Nat} (hu : u < 32) : 0x01800000 ≤ muBase u ∧ muBase u < 0x01C00000 ∧ muBase u % 0x1000 = 0 := by
  unfold muBase frmBase
  split <;> omega

theorem muBase_inj {u v : Nat} (hu : u < 32) (hv : v < 32) (h : muBase u = muBase v) : u = v := by
  unfold muBase frmBase at h
  split at h <;> split at h <;> omega

theorem getF_zeroingStep {g : Fld} (hg : 0x03000000 * 64 ≤ g.key) {u : Nat} (hu : u < 32) (s : State) :
    getF g (zeroingStep u s) = getF g s := by
  have hb := muBase_bounds hu
  unfold zeroingStep showBootZero
  rw [getF_setF_ne, getF_setF_ne]
  · rfl
  · simp only [Fld.key, MU.MUZERO_REMAIN] at hg ⊢
    omega
  · simp only [Fld.key, GLB.BOOTZERO_MIB] at hg ⊢
    omega

theorem getF_zeroingGoesOn {g : Fld} (hg : 0x03000000 * 64 ≤ g.key) (n : Nat) (s : State) : getF g (zeroingGoesOn n s) = getF g s :=
  zeroingGoesOn_invariant (P := fun t => getF g t = getF g s) (fun _ hu t ht => (getF_zeroingStep hg hu t).trans ht) n rfl

/-- What is left to zero never rises (R310 step 5). -/
theorem remain_zeroingStep_le {u v : Nat} (hu : u < 32) (hv : v < 32) (s : State) :
    getF (MU.MUZERO_REMAIN v) (zeroingStep u s) ≤ getF (MU.MUZERO_REMAIN v) s := by
  have hb := muBase_bounds hv
  unfold zeroingStep showBootZero
  rw [getF_setF_ne _ _ _ _ (by simp only [Fld.key, MU.MUZERO_REMAIN, GLB.BOOTZERO_MIB]; omega)]
  by_cases huv : u = v
  · subst huv
    rw [getF_setF_self]
    exact (Nat.mod_le _ _).trans (Nat.min_le_right _ _)
  · rw [getF_setF_ne _ _ _ _ (key_ne_of_addr _ _ (Nat.zero_lt_succ _) (Nat.zero_lt_succ _) fun h =>
      huv (muBase_inj hv hu (Nat.add_right_cancel h)).symm)]
    rfl

theorem remain_zeroingGoesOn_le {v : Nat} (hv : v < 32) (n : Nat) (s : State) :
    getF (MU.MUZERO_REMAIN v) (zeroingGoesOn n s) ≤ getF (MU.MUZERO_REMAIN v) s :=
  zeroingGoesOn_invariant (P := fun t => getF (MU.MUZERO_REMAIN v) t ≤ getF (MU.MUZERO_REMAIN v) s)
    (fun _ hu t ht => (remain_zeroingStep_le hu hv t).trans ht) n le_rfl

@[simp] theorem regionOf_zeroingGoesOn (m n : Nat) (s : State) : regionOf m (zeroingGoesOn n s) = regionOf m s := by
  rw [zeroingGoesOn_eq]; rfl

@[simp] theorem zeroingGoesOn_mem (n : Nat) (s : State) : (zeroingGoesOn n s).mem = s.mem := by rw [zeroingGoesOn_eq]

@[simp] theorem zeroingGoesOn_inflight (n : Nat) (s : State) : (zeroingGoesOn n s).inflight = s.inflight := by rw [zeroingGoesOn_eq]

@[simp] theorem regionOf_peepLic (m n d : Nat) (s : State) : regionOf m (peepLic n d s) = regionOf m s := by rw [peepLic_eq]; rfl

@[simp] theorem peepLic_mem (n d : Nat) (s : State) : (peepLic n d s).mem = s.mem := by rw [peepLic_eq]

@[simp] theorem peepLic_inflight (n d : Nat) (s : State) : (peepLic n d s).inflight = s.inflight := by rw [peepLic_eq]

/-- The accumulator of a LIC after `cycles` oscillator cycles, in 2^16 parts of a count (R75). -/
def licParts (n cycles : Nat) (s : State) : Nat := licOf n s * 2 ^ 16 + (regionOf n s).frac + cycles * getF (REG.LICSTEP_STEP n) s

/-- A calibration after `cycles` more oscillator cycles (R76). -/
def calAfter (cycles : Nat) (c : Calib) : Calib := ⟨c.since + cycles, c.window.map (fun w => w + cycles)⟩

section
variable {n : Nat} {s : State}

theorem ticks_of_running (cycles : Nat) (h : (regionOf n s).running = true) : ticks n cycles s =
    peepLic n (licParts n cycles s / 2 ^ 16 - licOf n s) (setF (REG.LIC_COUNT n) (licParts n cycles s / 2 ^ 16)
      (setRegion n (fun r => { r with cal := (regionOf n s).cal.map (calAfter cycles), frac := licParts n cycles s % 2 ^ 16 }) s)) :=
  if_pos h

theorem ticks_of_stopped (cycles : Nat) (h : (regionOf n s).running = false) : ticks n cycles s =
    setRegion n (fun r => { r with cal := (regionOf n s).cal.map (calAfter cycles) }) s :=
  if_neg (by simp [h])

theorem regionOf_ticks (cycles : Nat) : regionOf n (ticks n cycles s) = { regionOf n s with
    cal := (regionOf n s).cal.map (calAfter cycles)
    frac := if (regionOf n s).running then licParts n cycles s % 2 ^ 16 else (regionOf n s).frac } := by
  cases h : (regionOf n s).running
  · simp [ticks_of_stopped cycles h]
  · simp [ticks_of_running cycles h]

theorem licOf_ticks (cycles : Nat) : licOf n (ticks n cycles s) =
    if (regionOf n s).running then licParts n cycles s / 2 ^ 16 % 2 ^ 64 else licOf n s := by
  cases h : (regionOf n s).running
  · rw [ticks_of_stopped cycles h]
    rfl
  · rw [ticks_of_running cycles h]
    exact (getF_peepLic (by simp only [plain, Fld.key, REG.LIC_COUNT]; omega) _ _ _).trans (getF_setF_self _ _ _)

theorem regionOf_ticks_ne (cycles : Nat) {m : Nat} (hm : m ≠ n) : regionOf m (ticks n cycles s) = regionOf m s := by
  cases h : (regionOf n s).running
  · rw [ticks_of_stopped cycles h, regionOf_setRegion_ne _ _ _ _ hm]
  · rw [ticks_of_running cycles h, regionOf_peepLic, regionOf_setF, regionOf_setRegion_ne _ _ _ _ hm]

theorem licOf_ticks_ne (cycles : Nat) {m : Nat} (hm : m ≠ n) : licOf m (ticks n cycles s) = licOf m s := by
  cases h : (regionOf n s).running
  · rw [ticks_of_stopped cycles h]
    rfl
  · rw [ticks_of_running cycles h, licOf, getF_peepLic (by simp only [plain, Fld.key, REG.LIC_COUNT]; omega), getF_setF_ne]
    · rfl
    · exact key_ne_of_addr _ _ (Nat.zero_lt_succ _) (Nat.zero_lt_succ _) (by simp only [REG.LIC_COUNT]; omega)

/-- The counting of a LIC leaves every field below the region pages, the peephole's apart. -/
theorem getF_ticks {g : Fld} (hg : plain g) (hlt : g.key < 0x03000000 * 64) (cycles : Nat) : getF g (ticks n cycles s) = getF g s := by
  cases h : (regionOf n s).running
  · rw [ticks_of_stopped cycles h, getF_setRegion]
  · rw [ticks_of_running cycles h, getF_peepLic hg, getF_setF_ne, getF_setRegion]
    simp only [Fld.key, REG.LIC_COUNT] at hlt ⊢
    omega

@[simp] theorem ticks_mem (cycles : Nat) : (ticks n cycles s).mem = s.mem := by
  cases h : (regionOf n s).running
  · simp [ticks_of_stopped cycles h]
  · simp [ticks_of_running cycles h]

@[simp] theorem ticks_inflight (cycles : Nat) : (ticks n cycles s).inflight = s.inflight := by
  cases h : (regionOf n s).running
  · simp [ticks_of_stopped cycles h]
  · simp [ticks_of_running cycles h]

end

theorem exec_licTick (n : RegionNo) (cycles : Nat) (s : State) :
    exec (.licTick n cycles) s = .next (zeroingGoesOn n (ticks n cycles s)) := rfl

theorem licOf_zeroingGoesOn (m n : Nat) (s : State) : licOf m (zeroingGoesOn n s) = licOf m s :=
  getF_zeroingGoesOn (by simp only [Fld.key, REG.LIC_COUNT]; omega) n s

/-! Calibration (R76, R77, R96). -/

section
variable {n : RegionNo} {s : State}

theorem exec_licctlCal (h : Served .early s) : exec (.licctlCal n) s
    = .next (if flag (REG.LICCTL_CALBUSY n) s then s else setF (REG.LICCTL_CAL n) 1 (startCal n s)) :=
  congrArg Host.Outcome.next (hostWrite_of_served _ h)

theorem exec_calibrationTimeout_late {c : Calib} (hc : (regionOf n s).cal = some c) (h : 2 ^ 25 ≤ c.since) :
    exec (.calibrationTimeout n) s = .next (bootCalibrated (regionRuns n (endCal n none s))) := by
  change execCalibrationTimeout n s = _
  simp only [execCalibrationTimeout, hc, if_pos h]

theorem exec_calibrationTimeout_early {c : Calib} (hc : (regionOf n s).cal = some c) (h : c.since < 2 ^ 25) :
    exec (.calibrationTimeout n) s = .next s := by
  change execCalibrationTimeout n s = _
  simp only [execCalibrationTimeout, hc, if_neg (Nat.not_le.mpr h)]

end

/-- The step of a window of `c` cycles is the rounded quotient of R76, where that is in range. -/
theorem calStep_eq (c : Nat) : calStep c
    = if 0 < c ∧ 0x8000 ≤ (2 * (10485760 * 65536) + c) / (2 * c) ∧ (2 * (10485760 * 65536) + c) / (2 * c) ≤ 0x20000
      then some ((2 * (10485760 * 65536) + c) / (2 * c)) else none := by
  unfold calStep
  by_cases hc : c = 0
  · simp [hc]
  · simp only [hc, if_false, Nat.pos_of_ne_zero hc, true_and]
    by_cases hstep : 0x8000 ≤ (2 * (10485760 * 65536) + c) / (2 * c) ∧ (2 * (10485760 * 65536) + c) / (2 * c) ≤ 0x20000
    · rw [if_pos hstep, if_neg (by simpa using hstep)]
    · rw [if_neg hstep, if_pos (by simpa [Decidable.or_iff_not_not_and_not] using hstep)]

section
variable {n : Nat} {s : State}

theorem windowEnd_of_idle (h : (regionOf n s).cal = none) : windowEnd n s = s := by simp [windowEnd, h]

/-- The window that begins is the one that the calibration counts. -/
theorem windowEnd_of_waiting {c : Nat} (h : (regionOf n s).cal = some ⟨c, none⟩) :
    windowEnd n s = setRegion n (fun r => { r with cal := some ⟨c, some 0⟩ }) s := by simp [windowEnd, h]

theorem windowEnd_of_counting {c k : Nat} (h : (regionOf n s).cal = some ⟨c, some k⟩) :
    windowEnd n s = regionRuns n (endCal n ((calStep k).map (fun st => (st, k))) s) := by simp [windowEnd, h]

/-- The journal's groups are copied into memory and the sweep records; the regions stand as they are. -/
theorem copyGroup_regions (g : JournalGroup) (s : State) : (copyGroup g s).regions = s.regions := by
  have hpanes := forEach_keep State.regions g.panes
    (fun p s => healRange (locAddr p.loc) 66560 (memPutCells (locAddr p.loc) 66560 p.cells s)) s (fun _ _ _ => rfl)
  unfold copyGroup
  split <;> exact hpanes

theorem regionOf_replayGroups (m c : Nat) (s : State) : regionOf m (replayGroups c s) = regionOf m s :=
  forEach_keep (regionOf m) _ copyGroup _ (fun g _ t => congrArg (fun r => assocGet regionInit r m) (copyGroup_regions g t))

theorem regionRuns_of_running (h : (regionOf n s).inReset = false) : regionRuns n s = s := by simp [regionRuns, releaseRegion, h]

theorem regionRuns_of_inReset (h : (regionOf n s).inReset = true) : regionRuns n s =
    setF (REG.RSTCTL_RESET n) 0 (setF (REG.LIC_COUNT n) 0
      (setRegion n (fun r => { r with frac := 0, running := true, inReset := false, vstamp := 0 })
        (if 64 ≤ n ∧ n < 68 then replayGroups (n - 64) s else s))) := by
  have hkept : (regionOf n (if 64 ≤ n ∧ n < 68 then replayGroups (n - 64) s else s)).inReset = true := by
    split
    · rw [regionOf_replayGroups, h]
    · exact h
  simp only [regionRuns, h, and_true, releaseRegion, hkept, if_true]

end

/-- Settles O11: a tick is `ticks` and then zeroing, which keeps the regions; a window's end goes by what the calibration stands at. -/
theorem licsCountAndCalibrate : Obligations.LicsCountAndCalibrate := by
  refine ⟨fun n cycles s => ⟨fun h => ?counts, _, rfl, fun h => ?running, fun h => ?stopped, ?cal, fun m hm => ?others, fun u => ?remain,
    ?mem, ?inflight⟩, fun n s => ⟨fun hs hbusy => ?start, fun hs hbusy => ?busy, fun c hc h => exec_calibrationTimeout_late hc h,
    fun c hc h => exec_calibrationTimeout_early hc h, calStep_eq, rfl, windowEnd_of_idle, fun c => windowEnd_of_waiting,
    fun c k st hc hst => ?step, fun c k hc hst => ?fails, regionRuns_of_running, fun u h hu => ?runs, fun h => ?boot⟩⟩
  case counts => rw [exec_licTick, ticks_of_running cycles h]; rfl
  case running =>
    rw [licOf_zeroingGoesOn, regionOf_zeroingGoesOn, licOf_ticks, regionOf_ticks, if_pos h]
    exact ⟨rfl, if_pos h⟩
  case stopped =>
    rw [licOf_zeroingGoesOn, regionOf_zeroingGoesOn, licOf_ticks, regionOf_ticks]
    simp [h]
  case cal =>
    rw [regionOf_zeroingGoesOn, regionOf_ticks]
    rfl
  case others =>
    rw [regionOf_zeroingGoesOn, licOf_zeroingGoesOn]
    exact ⟨regionOf_ticks_ne cycles hm, fun _ => licOf_ticks_ne cycles hm⟩
  case remain =>
    have hb := muBase_bounds u.isLt
    refine (remain_zeroingGoesOn_le u.isLt n _).trans (Nat.le_of_eq (getF_ticks ?_ ?_ cycles))
    all_goals simp only [plain, Fld.key, MU.MUZERO_REMAIN]; omega
  case mem => simp
  case inflight => simp
  case start => rw [exec_licctlCal hs, if_neg (by simpa [flag] using hbusy)]; rfl
  case busy => rw [exec_licctlCal hs, if_pos (by simpa [flag] using hbusy)]
  case step => rw [windowEnd_of_counting hc, hst]; rfl
  case fails => rw [windowEnd_of_counting hc, hst]; rfl
  case runs => rw [regionRuns_of_inReset h, hu]
  case boot => simp [bootCalibrated, h]

/-! A region that is held in reset (R75, R77, R104, R651). -/

/-- The field map and the table of regions show region `n` in reset: RESET reads 1, the LIC stands at 0 with STEP 0x1_0000, and a
calibration is under way (R75, R77, R104, R651). -/
structure ShowsReset (n : Nat) (flds : List (Nat × Nat)) (regions : List (Nat × Region)) : Prop where
  reset : assocGet 0 flds (REG.RSTCTL_RESET n).key = 1
  lic : assocGet 0 flds (REG.LIC_COUNT n).key = 0
  step : assocGet 0x10000 flds (REG.LICSTEP_STEP n).key = 0x10000
  busy : assocGet 0 flds (REG.LICCTL_CALBUSY n).key = 1
  inReset : (assocGet regionInit regions n).inReset = true
  stopped : (assocGet regionInit regions n).running = false

/-- Region `n` is in reset and waits for its calibration. -/
def HeldInReset (n : Nat) (s : State) : Prop := ShowsReset n s.flds s.regions

/-- The field is none of those by which a region's reset shows. -/
def clearOf (n : Nat) (f : Fld) : Prop :=
  f.key ≠ (REG.RSTCTL_RESET n).key ∧ f.key ≠ (REG.LIC_COUNT n).key ∧ f.key ≠ (REG.LICSTEP_STEP n).key
    ∧ f.key ≠ (REG.LICCTL_CALBUSY n).key

/-- A place in a page of 0x1000 bytes, by offset and lowest bit, at which a region's page has no field that shows its reset. -/
def clearPlace (o lo : Nat) : Bool := decide (lo < 64) && !([(0x008, 0), (0x010, 1), (0x014, 0), (0x050, 0)].contains (o % 0x1000, lo))

/-- Units have pages of their own: a field at a clear place is apart from every region's reset, whatever the unit. -/
theorem clearOf_place (n : Nat) {base o lo w r : Nat} (hb : base % 0x1000 = 0) (h : clearPlace o lo = true) :
    clearOf n ⟨base + o, lo, w, r⟩ := by
  simp [clearPlace] at h
  simp only [clearOf, Fld.key, REG.RSTCTL_RESET, REG.LIC_COUNT, REG.LICSTEP_STEP, REG.LICCTL_CALBUSY]
  omega

/-- A field outside the pages of the regions is apart from every region's reset. -/
theorem clearOf_outside {n : Nat} (hn : n < 100) {f : Fld} (hlo : f.lo < 64) (h : f.addr < 0x03000000 ∨ 0x03064000 ≤ f.addr) :
    clearOf n f := by
  simp only [clearOf, Fld.key, REG.RSTCTL_RESET, REG.LIC_COUNT, REG.LICSTEP_STEP, REG.LICCTL_CALBUSY]
  omega

section
variable {n : Nat} {s : State}

theorem held_setF {f : Fld} (hf : clearOf n f) (v : Nat) (h : HeldInReset n s) : HeldInReset n (setF f v s) := by
  obtain ⟨hreset, hlic, hstep, hbusy⟩ := hf
  exact ⟨(assocGet_set_ne _ _ _ _ _ _ hreset.symm).trans h.reset, (assocGet_set_ne _ _ _ _ _ _ hlic.symm).trans h.lic,
    (assocGet_set_ne _ _ _ _ _ _ hstep.symm).trans h.step, (assocGet_set_ne _ _ _ _ _ _ hbusy.symm).trans h.busy, h.inReset, h.stopped⟩

theorem held_forEach {α : Type} {l : List α} {f : α → State → State} (hf : ∀ x ∈ l, ∀ t, HeldInReset n t → HeldInReset n (f x t))
    (h : HeldInReset n s) : HeldInReset n (forEach l f s) := forEach_invariant h hf

theorem held_emit (o : Out) (h : HeldInReset n s) : HeldInReset n (emit o s) := h

theorem held_setCart (p : Nat) (f : CartAux → CartAux) (h : HeldInReset n s) : HeldInReset n (setCart p f s) := h

theorem held_setMuAux (u : Nat) (f : MuAux → MuAux) (h : HeldInReset n s) : HeldInReset n (setMuAux u f s) := h

theorem held_setDw (w : Nat) (f : DwAux → DwAux) (h : HeldInReset n s) : HeldInReset n (setDw w f s) := h

theorem held_wipeRange (lo hi : Nat) (h : HeldInReset n s) : HeldInReset n (wipeRange lo hi s) := h

theorem held_drawXts (h : HeldInReset n s) : HeldInReset n (drawXts s).2 := h

/-- What leaves the plain fields and the table of regions leaves a region in reset. -/
theorem HeldInReset.of_plain {t : State} (hf : ∀ g, plain g → getF g t = getF g s) (hr : t.regions = s.regions) (h : HeldInReset n s) :
    HeldInReset n t where
  reset := (hf (REG.RSTCTL_RESET n) (by simp only [plain, Fld.key, REG.RSTCTL_RESET]; omega)).trans h.reset
  lic := (hf (REG.LIC_COUNT n) (by simp only [plain, Fld.key, REG.LIC_COUNT]; omega)).trans h.lic
  step := (hf (REG.LICSTEP_STEP n) (by simp only [plain, Fld.key, REG.LICSTEP_STEP]; omega)).trans h.step
  busy := (hf (REG.LICCTL_CALBUSY n) (by simp only [plain, Fld.key, REG.LICCTL_CALBUSY]; omega)).trans h.busy
  inReset := hr ▸ h.inReset
  stopped := hr ▸ h.stopped

theorem held_peep (k u e i : Nat) (h : HeldInReset n s) : HeldInReset n (peep k u e i s) :=
  h.of_plain (fun g hg => getF_peep g k u e i s hg) (by rw [peep_eq])

theorem held_trace (c e r a b : Nat) (h : HeldInReset n s) : HeldInReset n (trace c e r a b s) :=
  h.of_plain (fun g hg => getF_trace g c e r a b s hg) (by rw [trace_eq])

theorem held_errRecord (c v r k u : Nat) (d : List Nat) (h : HeldInReset n s) : HeldInReset n (errRecord c v r k u d s) :=
  h.of_plain (fun g hg => getF_errRecord g c v r k u d s hg) (by rw [errRecord_eq])

theorem held_sendMsix (v : Nat) (h : HeldInReset n s) : HeldInReset n (sendMsix v s) :=
  h.of_plain (fun g _ => getF_sendMsix g v s) (by rw [sendMsix_eq])

/-- A sticky field is set at a clear place. -/
theorem held_setSticky {fs : List (Nat × Fld)} (hf : ∀ p ∈ fs, clearOf n p.2) (v : Nat) (h : HeldInReset n s) :
    HeldInReset n (setSticky fs v s) :=
  held_forEach (fun p hp _ ht => held_setF (hf p (List.mem_of_mem_filter hp)) 1 ht) h

end

/-! The lines that a reset completes and the parts that end in it (R238, R239). -/

theorem corePage (c : Nat) : (0x01000000 + c * 0x10000) % 0x1000 = 0 := by omega

theorem clearOf_vxSticky (n c : Nat) : ∀ p ∈ vxSticky c, clearOf n p.2 := by
  simp only [vxSticky, List.forall_mem_cons]
  exact ⟨clearOf_place n (corePage c) rfl, clearOf_place n (corePage c) rfl, clearOf_place n (corePage c) rfl,
    clearOf_place n (corePage c) rfl, clearOf_place n (corePage c) rfl, clearOf_place n (corePage c) rfl,
    clearOf_place n (corePage c) rfl, clearOf_place n (corePage c) rfl, clearOf_place n (corePage c) rfl, fun _ h => nomatch h⟩

section
variable {n : Nat} {s : State}

theorem held_setPart (id p : Nat) (f : Part → Part) (h : HeldInReset n s) : HeldInReset n (setPart id p f s) := h

theorem held_setVx (c : Nat) (r : Option VxRun) (h : HeldInReset n s) : HeldInReset n (setVx c r s) := h

theorem held_checkEnd (id p : Nat) (h : HeldInReset n s) : HeldInReset n (checkEnd id p s) := by
  unfold checkEnd
  split
  · exact h
  · split
    · exact h
    · exact ite_keep (held_setPart _ _ _ (ite_keep (held_setSticky (clearOf_vxSticky n _) _ h) h)) h

theorem held_vxCount (c : Nat) {f : Fld} (hf : clearOf n f) (e k : Nat) (h : HeldInReset n s) : HeldInReset n (vxCount c f e k s) :=
  ite_keep h (held_peep _ _ _ _ (ite_keep (held_setF hf _ h) h))

theorem held_upsertCopy (c o hd p : Nat) (f : WorkCopy → WorkCopy) (h : HeldInReset n s) : HeldInReset n (upsertCopy c o hd p f s) :=
  ite_keep h h

theorem held_putTadj (c o : Nat) (root : Tensor) (p : Nat) (y : List Nat) (a : Int) (h : HeldInReset n s) :
    HeldInReset n (putTadj c o root p y a s) := ite_keep h (held_upsertCopy _ _ _ _ _ h)

theorem held_putElem (c o : Nat) (t root : Tensor) (x : List Nat) (b : Nat) (a : Int) (p : Bool) (h : HeldInReset n s) :
    HeldInReset n (putElem c o t root x b a p s) := by
  refine ite_keep (held_upsertCopy _ _ _ _ _ ?_) ?_ <;> exact held_putTadj _ _ _ _ _ _ (held_upsertCopy _ _ _ _ _ h)

theorem held_offerEnc (c d id p : Nat) (root : Tensor) (x : List Nat) (v : Num) (po : Bool) (a : Int) (h : HeldInReset n s) :
    HeldInReset n (offerEnc c d id p root x v po a s) := ite_keep h h

theorem held_putResult (c d id p : Nat) (t root : Tensor) (x : List Nat) (v : Num) (b : Nat) (a : Int) (po : Bool) (h : HeldInReset n s) :
    HeldInReset n (putResult c d id p t root x v b a po s) :=
  ite_keep (held_offerEnc _ _ _ _ _ _ _ _ _ h) (held_putElem _ _ _ _ _ _ _ _ h)

theorem held_writeD (e : InFlight) (p : Nat) (x : List Nat) (v : Num) (b : Nat) (po : Bool) (a : Int) (h : HeldInReset n s) :
    HeldInReset n (writeD e p x v b po a s) := by
  have hput := held_putResult (coreOfPart e p) (coreOfPart e (encPart e p x s)) e.id (encPart e p x s) (tensorAt (vopDH e.desc) s)
    (rootOf (tensorAt (vopDH e.desc) s) s) x v b a po h
  exact ite_keep (held_vxCount _ (clearOf_place n (corePage _) rfl) _ _ hput) hput

theorem held_writeFill (e : InFlight) (p : Nat) (x : List Nat) (a : Int) (h : HeldInReset n s) : HeldInReset n (writeFill e p x a s) := by
  unfold writeFill
  split
  · exact held_writeD _ _ _ _ _ _ _ h
  · exact held_vxCount _ (clearOf_place n (corePage _) rfl) _ _ (ite_keep (held_putTadj _ _ _ _ _ _ h) h)

theorem held_countTrans (e : InFlight) (p k : Nat) (l : List Nat) (q : Nat → Nat) (h : HeldInReset n s) :
    HeldInReset n (countTrans e p k l q s) := by
  have hadd (c k : Nat) {t : State} (ht : HeldInReset n t) : HeldInReset n (vxCount c (CORE.VXTRANS_COUNT c) 3 k t) :=
    held_vxCount _ (clearOf_place n (corePage c) rfl) _ _ ht
  exact ite_keep (hadd _ _ (held_forEach (fun _ _ _ ht => hadd _ _ ht) h)) (hadd _ _ h)

theorem held_stepLine (e : InFlight) (p : Nat) (base : List Nat) (len : Nat) (q : Nat → Nat) (x : Nat → List Nat → Num × Nat × Bool)
    (a : Int) (h : HeldInReset n s) : HeldInReset n (stepLine e p base len q x a s) := by
  unfold stepLine
  extract_lets
  split
  split
  extract_lets all s₁ s₂ s₃ s₄
  have h₂ : HeldInReset n s₂ := held_forEach (fun _ _ _ ht => ht) (held_forEach (fun _ _ _ ht => ht) h)
  have h₄ : HeldInReset n s₄ := held_countTrans _ _ _ _ _ (ite_keep h₂ h₂)
  split
  · exact held_writeD _ _ _ _ _ _ _ h₄
  · refine held_forEach (fun r _ t ht => ?_) h₄
    dsimp only
    split
    · exact held_writeFill _ _ _ _ ht
    · exact held_writeD _ _ _ _ _ _ _ ht

theorem held_fillLost (e : InFlight) (h : HeldInReset n s) : HeldInReset n (fillLost e s) := ite_keep h h

/-- An engine that leaves its part clears BUSY, which in the page of a region would be LIC[COUNT], at 0 in a reset. -/
theorem held_clear_vxBusy (c : Nat) (h : HeldInReset n s) : HeldInReset n (setF (CORE.VXSTAT_BUSY c) 0 s) := by
  have hkeys : (CORE.VXSTAT_BUSY c).key ≠ (REG.RSTCTL_RESET n).key ∧ (CORE.VXSTAT_BUSY c).key ≠ (REG.LICSTEP_STEP n).key
      ∧ (CORE.VXSTAT_BUSY c).key ≠ (REG.LICCTL_CALBUSY n).key := by
    simp only [Fld.key, CORE.VXSTAT_BUSY, REG.RSTCTL_RESET, REG.LICSTEP_STEP, REG.LICCTL_CALBUSY]
    omega
  obtain ⟨hreset, hstep, hbusy⟩ := hkeys
  refine ⟨(assocGet_set_ne _ _ _ _ _ _ hreset.symm).trans h.reset, ?_, (assocGet_set_ne _ _ _ _ _ _ hstep.symm).trans h.step,
    (assocGet_set_ne _ _ _ _ _ _ hbusy.symm).trans h.busy, h.inReset, h.stopped⟩
  by_cases hlic : (REG.LIC_COUNT n).key = (CORE.VXSTAT_BUSY c).key
  · rw [hlic]
    exact assocGet_set_self 0 _ _ _
  · exact (assocGet_set_ne _ _ _ _ _ _ hlic).trans h.lic

theorem held_leaveVx (c : Nat) (r : VxRun) (h : HeldInReset n s) : HeldInReset n (leaveVx c r s) := by
  unfold leaveVx
  extract_lets u
  have hu : HeldInReset n u := by
    unfold u
    split
    · exact held_fillLost _ h
    · exact h
  refine ite_keep (held_setF (clearOf_place n (corePage c) rfl) _ (held_setVx _ _ hu)) (held_checkEnd _ _ (held_clear_vxBusy c ?_))
  exact held_setF (clearOf_place n (corePage c) rfl) _ (held_setF (clearOf_place n (corePage c) rfl) _
    (held_setF (clearOf_place n (corePage c) rfl) _ (held_setVx _ _ hu)))

theorem held_completeSpread (e : InFlight) (p : Nat) (h : HeldInReset n s) : HeldInReset n (completeSpread e p s) :=
  held_forEach (fun _ _ _ ht => held_leaveVx _ _ ht)
    (held_forEach (fun _ _ _ h₂ => held_forEach (fun _ _ _ h₁ => held_forEach (fun _ _ _ h₀ => held_stepLine _ _ _ _ _ _ _ h₀) h₁) h₂) h)

theorem held_settleLost (ids : List Nat) (h : HeldInReset n s) : HeldInReset n (settleLost ids s) := by
  refine held_forEach (fun id _ t ht => ?_) h
  dsimp only
  split
  · exact ht
  · refine held_forEach (fun _ _ _ hu => held_checkEnd _ _ hu) ?_
    split
    · split
      · exact ite_keep (held_completeSpread _ _ ht) ht
      · exact ht
    · exact held_forEach (fun _ _ _ hu => held_leaveVx _ _ hu) ht

end

/-! The arbiters, the sequencer and the units of a region in reset (R651). -/

section
variable {n : Nat} {s : State}

/-- Fields are reset outside the pages of the regions. -/
theorem held_resetFields {p : Nat → Bool} (hp : ∀ a, 0x03000000 ≤ a → a < 0x03064000 → p a = false) (hn : n < 100)
    (h : HeldInReset n s) : HeldInReset n (resetFields p s) := by
  have hkeep (d : Nat) {f : Fld} (ha : 0x03000000 ≤ f.addr ∧ f.addr < 0x03064000) (hlo : f.lo < 64) :
      assocGet d (s.flds.filter (fun x => !p (x.1 / 64))) f.key = assocGet d s.flds f.key := by
    have haddr : f.key / 64 = f.addr := by simp only [Fld.key]; omega
    exact assocGet_filter _ _ _ _ fun v => by simp [haddr, hp f.addr ha.1 ha.2]
  have hpage {o : Nat} (ho : o < 0x1000) :
      0x03000000 ≤ 0x03000000 + n * 0x1000 + o ∧ 0x03000000 + n * 0x1000 + o < 0x03064000 := by omega
  exact ⟨(hkeep 0 (hpage (by decide)) (Nat.zero_lt_succ _)).trans h.reset, (hkeep 0 (hpage (by decide)) (Nat.zero_lt_succ _)).trans h.lic,
    (hkeep _ (hpage (by decide)) (Nat.zero_lt_succ _)).trans h.step, (hkeep 0 (hpage (by decide)) (Nat.lt_of_sub_eq_succ rfl)).trans h.busy,
    h.inReset, h.stopped⟩

/-- A reset of a region returns no register of a region's page to its Reset value (R93, R651). -/
theorem regionRegister_regionPage (n : Nat) {a : Nat} (h : 0x03000000 ≤ a) (h' : a < 0x03800000) : regionRegister n a = false := by
  have hnone : addrRegion a = none := by
    unfold addrRegion
    repeat rw [if_neg (by omega)]
  simp [regionRegister, hnone]

theorem held_clearArbiters (m : Nat) (hn : n < 100) (h : HeldInReset n s) : HeldInReset n (clearArbiters m s) := by
  have hset (i : Nat) {o lo w r : Nat} (hlo : lo < 64) (v : Nat) {t : State} (ht : HeldInReset n t) :
      HeldInReset n (setF ⟨0x03400000 + i * 0x1000 + o, lo, w, r⟩ v t) :=
    held_setF (clearOf_outside hn hlo (.inr (by dsimp only; omega))) v ht
  refine held_forEach (fun i _ t ht => ?_) h
  exact hset i (by decide) _ (hset i (by decide) _ (hset i (by decide) _ (hset i (by decide) _ (hset i (by decide) _ ht))))

theorem held_promote (c fuel : Nat) (h : HeldInReset n s) : HeldInReset n (promote c fuel s) := by
  induction fuel generalizing s with
  | zero => exact h
  | succ k ih =>
    unfold promote
    split
    · split
      · exact ih h
      · exact h
    · exact h

theorem held_fillSequencer (c : Nat) (h : HeldInReset n s) : HeldInReset n (fillSequencer c s) :=
  ite_keep (held_setF (clearOf_place n (corePage c) rfl) _ (held_promote c 128 h)) h

end

/-! What the units of the device do when they start again (R310, R360, R473, R606). -/

section
variable {n : Nat} {s : State}

/-- A field below the pages of the regions is set. -/
theorem held_setF_below (hn : n < 100) {f : Fld} (ha : f.addr < 0x03000000) (hlo : f.lo < 64) (v : Nat) (h : HeldInReset n s) :
    HeldInReset n (setF f v s) := held_setF (clearOf_outside hn hlo (.inl ha)) v h

theorem held_muStart (hn : n < 100) {u : Nat} (hu : u < 32) (z : Bool) (h : HeldInReset n s) : HeldInReset n (muStart u z s) := by
  have hb := muBase_bounds hu
  have hset {o lo w r : Nat} (ho : o < 0x1000) (hlo : lo < 64) (v : Nat) {t : State} (ht : HeldInReset n t) :
      HeldInReset n (setF ⟨muBase u + o, lo, w, r⟩ v t) := held_setF_below hn (by dsimp only; omega) hlo v ht
  exact hset (by decide) (by decide) _ (hset (by decide) (by decide) _ (hset (by decide) (by decide) _ (held_setMuAux _ _ h)))

theorem held_startTraining (hn : n < 100) {w : Nat} (hw : w < 16) (h : HeldInReset n s) : HeldInReset n (startTraining w s) := by
  have hb : dwBase w < 0x01C00000 := by unfold dwBase frmBase; omega
  have hset {o lo wd r : Nat} (ho : o < 0x1000) (hlo : lo < 64) (v : Nat) {t : State} (ht : HeldInReset n t) :
      HeldInReset n (setF ⟨dwBase w + o, lo, wd, r⟩ v t) := held_setF_below hn (by dsimp only; omega) hlo v ht
  unfold startTraining
  extract_lets u
  have hu : HeldInReset n u := hset (by decide) (by decide) _ (hset (by decide) (by decide) _ (hset (by decide) (by decide) _
    (hset (by decide) (by decide) _ (hset (by decide) (by decide) _ h))))
  exact ite_keep hu (held_emit _ hu)

theorem held_loadFails (hn : n < 100) (c sec rec : Nat) (h : HeldInReset n s) : HeldInReset n (loadFails c sec rec s) := by
  have hset {f : Fld} (hf : f.addr < 0x03000000 ∧ f.lo < 64) (v : Nat) {t : State} (ht : HeldInReset n t) : HeldInReset n (setF f v t) :=
    held_setF_below hn hf.1 hf.2 v ht
  unfold loadFails
  extract_lets s₁ s₂
  have h₂ : HeldInReset n s₂ := hset (by decide) _ (hset (by decide) _ (hset (by decide) _ (hset (by decide) _ (hset (by decide) _
    (hset (by decide) _ h)))))
  have hload {t : State} (ht : HeldInReset n t) : HeldInReset n { t with load := none } := ht
  have himg : HeldInReset n (setImgState 8 s₂) := held_trace _ _ _ _ _ (hset (by decide) _ h₂)
  exact hload himg

theorem held_cxlDown (hn : n < 100) (h : HeldInReset n s) : HeldInReset n (cxlDown s) := by
  have hset {f : Fld} (hf : 0x03064000 ≤ f.addr ∧ f.lo < 64) (v : Nat) {t : State} (ht : HeldInReset n t) : HeldInReset n (setF f v t) :=
    held_setF (clearOf_outside hn hf.2 (.inr hf.1)) v ht
  unfold cxlDown
  extract_lets s₁ s₂ st
  have h₂ : HeldInReset n s₂ := hset (by decide) _ (hset (by decide) _ (hset (by decide) _ (hset (by decide) _ (hset (by decide) _
    (hset (by decide) _ h)))))
  exact ite_keep (held_loadFails hn _ _ _ h₂) h₂

section
variable {p : Nat} (hn : n < 100) (hp : p < 4)
include hn hp

/-- A field of the page of a cartridge port is set. -/
theorem held_setPort {f : Fld} (ha : f.addr < 0x01C00000 + p * 0x1000 + 0x1000) (hlo : f.lo < 64) (v : Nat) (h : HeldInReset n s) :
    HeldInReset n (setF f v s) := held_setF_below hn (by omega) hlo v h

theorem held_emptyPort (h : HeldInReset n s) : HeldInReset n (emptyPort p s) := by
  have hset {o lo w r : Nat} (hf : o < 0x1000 ∧ lo < 64) (v : Nat) {t : State} (ht : HeldInReset n t) :
      HeldInReset n (setF ⟨0x01C00000 + p * 0x1000 + o, lo, w, r⟩ v t) := held_setPort hn hp (by dsimp only; omega) hf.2 v ht
  have hstat {lo w r : Nat} (hlo : lo < 64) (v : Nat) {t : State} (ht : HeldInReset n t) :
      HeldInReset n (setF ⟨0x01C00000 + p * 0x1000, lo, w, r⟩ v t) := held_setPort hn hp (by dsimp only; omega) hlo v ht
  unfold emptyPort
  extract_lets a s₁ s₂ s₃ s₄
  have h₁ : HeldInReset n s₁ := held_setCart _ _ h
  have h₂ : HeldInReset n s₂ := held_forEach (fun i hi t ht => held_setPort hn hp
    (by simp at hi; simp only [CART.CPSERIAL_SERIAL]; omega) (Nat.zero_lt_succ _) _ ht) h₁
  have h₃ : HeldInReset n s₃ := hset (by decide) _ (hset (by decide) _ (hset (by decide) _ h₂))
  have h₄ : HeldInReset n s₄ := hset (by decide) _ (hset (by decide) _ (hset (by decide) _ h₃))
  exact hstat (by decide) _ (hstat (by decide) _ (hstat (by decide) _ (hstat (by decide) _ (hstat (by decide) _ h₄))))

theorem held_startInsertion (h : HeldInReset n s) : HeldInReset n (startInsertion p s) :=
  held_setPort hn hp (by simp only [CART.CPSTAT_CSTATE]; omega) (Nat.zero_lt_succ _) _ (held_setCart _ _ (held_emptyPort hn hp h))

theorem held_eraseSpill (k : Nat) (h : HeldInReset n s) : HeldInReset n (eraseSpill p k s) := by
  have hwipe := held_setCart p (fun a => { a with spillKey := (drawXts s).1 })
    (held_wipeRange (portUnit p * 2 ^ 41) ((portUnit p + 8) * 2 ^ 41) (held_drawXts h))
  exact held_errRecord _ _ _ _ _ _
    (held_setPort hn hp (by simp only [CART.CPSTAT_SPILLGONE]; omega) (by simp [CART.CPSTAT_SPILLGONE]) _ hwipe)

theorem held_restartPort (h : HeldInReset n s) : HeldInReset n (restartPort p s) := by
  unfold restartPort
  extract_lets s₁ s₂ st
  have h₁ : HeldInReset n s₁ := held_eraseSpill hn hp _ (held_emptyPort hn hp h)
  have h₂ : HeldInReset n s₂ := held_setCart _ _ h₁
  exact ite_keep (held_startInsertion hn hp h₂) h₂

end

theorem held_resetUnits (hn : n < 100) (h : HeldInReset n s) : HeldInReset n (resetUnits n s) := by
  unfold resetUnits
  extract_lets s₁ s₂
  have h₁ : HeldInReset n s₁ := held_forEach (fun u hu _ ht => held_muStart hn (List.mem_range.mp (List.mem_of_mem_filter hu)) _ ht) h
  have h₂ : HeldInReset n s₂ := held_forEach (fun w hw _ ht => ite_keep
    (held_startTraining hn (List.mem_range.mp (List.mem_of_mem_filter hw)) (held_setDw _ _ ht)) (held_setDw _ _ ht)) h₁
  exact ite_keep (held_cxlDown hn h₂) (ite_keep
    (held_forEach (fun p hp _ ht => held_restartPort hn (by simp at hp; omega) ht) h₂) h₂)

end

/-! The reset of a region (R104, R651). -/

@[simp] theorem getF_restampHinges (g : Fld) (n : Nat) (s : State) : getF g (restampHinges n s) = getF g s :=
  forEach_keep (getF g) _ _ _ (fun _ _ _ => rfl)

@[simp] theorem regionOf_restampHinges (m n : Nat) (s : State) : regionOf m (restampHinges n s) = regionOf m s :=
  forEach_keep (regionOf m) _ _ _ (fun _ _ _ => rfl)

@[simp] theorem getF_dropHalves (g : Fld) (n : Nat) (s : State) : getF g (dropHalves n s) = getF g s := rfl

@[simp] theorem regionOf_dropHalves (m n : Nat) (s : State) : regionOf m (dropHalves n s) = regionOf m s := rfl

/-- A region that enters its calibration is held in reset. -/
theorem heldInReset_holdRegion (n : Nat) (s : State) : HeldInReset n (holdRegion n s) := by
  have hne {f g : Fld} (h : g.addr ≠ f.addr) (hlo : f.lo < 64 ∧ g.lo < 64) (v : Nat) (t : State) : getF g (setF f v t) = getF g t :=
    getF_setF_ne f g v t (key_ne_of_addr f g hlo.1 hlo.2 h)
  have hregion : regionOf n (holdRegion n s)
      = { regionOf n s with frac := 0, running := false, inReset := true, vstamp := 0, cal := some ⟨0, none⟩ } := by
    simp [holdRegion, startCal]
  have hreset : getF (REG.RSTCTL_RESET n) (holdRegion n s) = 1 := by
    simp [holdRegion, startCal, hne, REG.RSTCTL_RESET, REG.LICCTL_CALBUSY]
  have hlic : getF (REG.LIC_COUNT n) (holdRegion n s) = 0 := by
    simp [holdRegion, startCal, hne, REG.LIC_COUNT, REG.RSTCTL_RESET, REG.LICCTL_CALBUSY]
  have hstep : getF (REG.LICSTEP_STEP n) (holdRegion n s) = 0x10000 := by
    simp [holdRegion, startCal, hne, REG.LICSTEP_STEP, REG.LIC_COUNT, REG.RSTCTL_RESET, REG.LICCTL_CALBUSY, REG.LICCTL_CALFAIL,
      REG.LICCTL_CAL]
  have hbusy : getF (REG.LICCTL_CALBUSY n) (holdRegion n s) = 1 := by simp [holdRegion, startCal, REG.LICCTL_CALBUSY]
  exact ⟨hreset, hlic, hstep, hbusy, congrArg Region.inReset hregion, congrArg Region.running hregion⟩

/-! What a transition of a shutter keeps of a region that is held in reset: the records, the queues and the counts of what is in flight. -/

theorem clearOf_base (n : Nat) {base lo w r : Nat} (hb : base % 0x1000 = 0) (hlo : lo < 64) : clearOf n ⟨base, lo, w, r⟩ := by
  simp only [clearOf, Fld.key, REG.RSTCTL_RESET, REG.LIC_COUNT, REG.LICSTEP_STEP, REG.LICCTL_CALBUSY]
  omega

theorem queuePage (q : Nat) : (0x00400000 + q * 0x1000) % 0x1000 = 0 := by omega

theorem portPage (p : Nat) : (0x01C00000 + p * 0x1000) % 0x1000 = 0 := by omega

theorem ckPage (u : Nat) : ckBase u % 0x1000 = 0 := by unfold ckBase frmBase; omega

theorem dwPage (w : Nat) : dwBase w % 0x1000 = 0 := by unfold dwBase frmBase; omega

section
variable {s : State}

/-- A field below the pages of the regions is set, with TR97 in reset. -/
theorem held97_setF {f : Fld} (hf : f.addr < 0x03000000 ∧ f.lo < 64) (v : Nat) (h : HeldInReset 97 s) : HeldInReset 97 (setF f v s) :=
  held_setF_below (by decide) hf.1 hf.2 v h

theorem held_snapPhases (h : HeldInReset 97 s) : HeldInReset 97 (snapPhases s) := by
  have hreports : HeldInReset 97 (forEach (List.range 10) (fun i s => setF (TRN.PHREP_COUNT i) (s.phLive.getD i 0) s) s) :=
    held_forEach (fun i hi t ht => held97_setF (by have := List.mem_range.mp hi; simp only [TRN.PHREP_COUNT]; omega) _ ht) h
  have hlive {t : State} (l : List Nat) (ht : HeldInReset 97 t) : HeldInReset 97 { t with phLive := l } := ht
  exact hlive _ hreports

theorem held_releaseChecks (id : Nat) (h : HeldInReset 97 s) : HeldInReset 97 (releaseChecks id s) :=
  held_forEach (fun p _ t ht => held_setF (clearOf_base _ (ckPage p.1) (by decide)) _
    (held_setF (clearOf_base _ (ckPage p.1) (by decide)) _ ht)) h

theorem held_recountQueue (q : Nat) (h : HeldInReset 97 s) : HeldInReset 97 (recountQueue q s) :=
  held_setF (clearOf_place _ (queuePage q) rfl) _ (held_setF (clearOf_place _ (queuePage q) rfl) _ h)

theorem held_recount (q : Option Nat) (h : HeldInReset 97 s) : HeldInReset 97 (recount q s) := by
  unfold recount
  extract_lets s₁ s₂
  have h₂ : HeldInReset 97 s₂ := held97_setF (by decide) _ (held97_setF (by decide) _ h)
  split
  · exact held_recountQueue _ h₂
  · exact h₂

theorem held_queueError (q e : Nat) (l : Option (Nat × Nat)) (h : HeldInReset 97 s) : HeldInReset 97 (queueError q e l s) := by
  unfold queueError
  extract_lets s₁ s₂
  have h₁ : HeldInReset 97 s₁ := held_setF (clearOf_place _ (queuePage q) rfl) _ (held_setF (clearOf_place _ (queuePage q) rfl) _ h)
  exact held_errRecord _ _ _ _ _ _ (ite_keep (held_setF (clearOf_place _ (queuePage q) rfl) _ h₁) h₁)

theorem held_setQaux (q : Nat) (f : QAux → QAux) (h : HeldInReset 97 s) : HeldInReset 97 (setQaux q f s) := h

theorem held_recordIrq (q : Nat) (i : Bool) (st : Nat) (h : HeldInReset 97 s) : HeldInReset 97 (recordIrq q i st s) :=
  ite_keep (held_setQaux _ _ (held_sendMsix _ h)) (held_setQaux _ _ h)

theorem held_putRecord (q : Nat) (r : DoneRec) (h : HeldInReset 97 s) : HeldInReset 97 (putRecord q r s) := by
  unfold putRecord
  extract_lets tail next a s₁ s₂ s₃
  have h₂ : HeldInReset 97 s₂ := held_setF (clearOf_place _ (queuePage q) rfl) _ (held_emit _ h)
  have h₃ : HeldInReset 97 s₃ := ite_keep (held_setQaux _ _ h₂) h₂
  exact held_recordIrq _ _ _ (held_peep _ _ _ _ (held_setF (clearOf_place _ (queuePage q) rfl) _ h₃))

theorem held_offerRecord (q : Nat) (r : DoneRec) (h : HeldInReset 97 s) : HeldInReset 97 (offerRecord q r s) :=
  ite_keep (held_errRecord _ _ _ _ _ _ (held_setF (clearOf_place _ (queuePage q) rfl) _ h))
    (ite_keep (held_setQaux _ _ h) (ite_keep (held_queueError _ _ _ h) (held_putRecord _ _ h)))

theorem held_finish (e : InFlight) (st f r c : Nat) (h : HeldInReset 97 s) : HeldInReset 97 (finish e st f r c s) := by
  unfold finish
  extract_lets tier s₁ s₂ s₃
  have h₁ : HeldInReset 97 s₁ := held_releaseChecks _ (ite_keep (held_snapPhases h) h)
  have h₂ : HeldInReset 97 s₂ := h₁
  have h₃ : HeldInReset 97 s₃ := by
    unfold s₃
    split
    · exact held_offerRecord _ _ h₂
    · exact h₂
  exact held_recount _ (held_trace _ _ _ _ _ h₃)

theorem held_failCheck (e : InFlight) (st c : Nat) (h : HeldInReset 97 s) : HeldInReset 97 (failCheck e st c s) := by
  unfold failCheck
  cases e.queue with
  | none => exact held_finish _ _ _ _ _ h
  | some q => exact held_finish _ _ _ _ _ (held_peep _ _ _ _ h)

end

/-! Panes that are written, charged and staged (R252, R264, R357). -/

section
variable {s : State}

theorem held_memWrite (a : Nat) (bs : List Byte) (h : HeldInReset 97 s) : HeldInReset 97 (memWrite a bs s) := h

theorem held_uncharge (o t k : Nat) (h : HeldInReset 97 s) : HeldInReset 97 (uncharge o t k s) := held_forEach (fun _ _ _ ht => ht) h

theorem held_charge (o t k : Nat) (h : HeldInReset 97 s) : HeldInReset 97 (charge o t k s) := held_forEach (fun _ _ _ ht => ht) h

theorem held_setCommitted (p v : Nat) (h : HeldInReset 97 s) : HeldInReset 97 (setCommitted p v s) := by
  have hset {o lo w r : Nat} (ho : clearPlace o lo = true) (v : Nat) {t : State} (ht : HeldInReset 97 t) :
      HeldInReset 97 (setF ⟨0x01C00000 + p * 0x1000 + o, lo, w, r⟩ v t) := held_setF (clearOf_place _ (portPage p) ho) v ht
  have hstat {lo w r : Nat} (hlo : lo < 64) (v : Nat) {t : State} (ht : HeldInReset 97 t) :
      HeldInReset 97 (setF ⟨0x01C00000 + p * 0x1000, lo, w, r⟩ v t) := held_setF (clearOf_base _ (portPage p) hlo) v ht
  unfold setCommitted
  extract_lets rated life s₁ s₂
  have h₁ : HeldInReset 97 s₁ := hset rfl _ (hset rfl _ h)
  have h₂ : HeldInReset 97 s₂ := ite_keep (held_errRecord _ _ _ _ _ _ (hstat (by decide) _ (held_setCart _ _ h₁))) h₁
  exact ite_keep (hstat (by decide) _ (held_setCart _ _ h₂)) h₂

theorem held_programWhole (p k : Nat) (h : HeldInReset 97 s) : HeldInReset 97 (programWhole p k s) := by
  unfold programWhole
  extract_lets need c v u
  have hu : HeldInReset 97 u := ite_keep (held_setCommitted _ _ (held_emit _ h)) h
  exact ite_keep hu (held_setCart _ _ (held_peep _ _ _ _ hu))

theorem held_programSlot (l : PaneLoc) (k : Nat) (h : HeldInReset 97 s) : HeldInReset 97 (programSlot l k s).1 := by
  unfold programSlot
  split
  · exact h
  · exact ite_keep h (held_programWhole _ _ h)

theorem held_markPoison (root : Tensor) (i : Nat) (l : PaneLoc) (h : HeldInReset 97 s) : HeldInReset 97 (markPoison root i l s) := by
  have hslot := held_programSlot l 4096 h
  unfold markPoison
  extract_lets p
  split <;> next heq => rw [heq] at hslot; exact hslot

theorem held_checkedRead (root : Tensor) (i : Nat) (l : PaneLoc) (h : HeldInReset 97 s) : HeldInReset 97 (checkedRead root i l s).2 := by
  unfold checkedRead
  extract_lets p
  split_ifs
  · exact h
  · exact held_errRecord _ _ _ _ _ _ (held_markPoison _ _ _ h)
  · exact held_markPoison _ _ _ h
  · exact h

theorem held_moverRead (root : Tensor) (i : Nat) (h : HeldInReset 97 s) : HeldInReset 97 (moverRead root i s).2 := by
  unfold moverRead
  split
  · exact h
  · split
    · exact held_checkedRead _ _ _ h
    · exact h

theorem held_peepPort (hd i k : Nat) (h : HeldInReset 97 s) : HeldInReset 97 (peepPort hd i k s) := by
  unfold peepPort
  split
  · exact ite_keep (held_peep _ _ _ _ h) h
  · exact h

theorem held_stageTensor (o : Nat) (t : Tensor) (h : HeldInReset 97 s) : HeldInReset 97 (stageTensor o t s) :=
  held_forEach (fun _ _ _ ht => ite_keep ht (held_upsertCopy _ _ _ _ _ (held_moverRead _ _ (held_peepPort _ _ _ ht)))) h

theorem held_releasePane (t : Tensor) (i : Nat) (h : HeldInReset 97 s) : HeldInReset 97 (releasePane t i s) := by
  unfold releasePane
  split
  · exact h
  · exact held_uncharge _ _ _ (held_memWrite _ _ h)

theorem held_writePane (root : Tensor) (i : Nat) (l : PaneLoc) (c : List Host.Cell) (p : Bool) (a : List (Nat × Nat)) (k : Nat)
    (h : HeldInReset 97 s) : HeldInReset 97 (writePane root i l c p a k s) := h

end

/-! The COLLs of a failing connection (R393, R482, R498, R500). -/

section
variable {s : State}

theorem held_setColl (id : Nat) (f : CollJob → CollJob) (h : HeldInReset 97 s) : HeldInReset 97 (setColl id f s) := h

theorem held_setCtx (x : Nat) (f : CompCtx → CompCtx) (h : HeldInReset 97 s) : HeldInReset 97 (setCtx x f s) := h

theorem held_setFlight (id : Nat) (f : InFlight → InFlight) (h : HeldInReset 97 s) : HeldInReset 97 (setFlight id f s) := h

theorem held_recordQlast (full : Bool) (t c : Nat) (h : HeldInReset 97 s) : HeldInReset 97 (recordQlast full t c s) :=
  held97_setF (by decide) _ (held97_setF (by decide) _ (held97_setF (by decide) _ (held97_setF (by decide) _ h)))

theorem held_dropShadows (id : Nat) (h : HeldInReset 97 s) : HeldInReset 97 (dropShadows id s) :=
  held_forEach (fun _ _ _ ht => held_uncharge _ _ _ (held_memWrite _ _ ht)) h

theorem held_dropColl (j : CollJob) (h : HeldInReset 97 s) : HeldInReset 97 (dropColl j s) := by
  have hdrop {t : State} (l : List CollJob) (k : List Conn) (ht : HeldInReset 97 t) : HeldInReset 97 { t with colls := l, conns := k } := ht
  exact hdrop _ _ (held_forEach (fun _ _ _ ht => held_setCtx _ _ ht) h)

theorem held_failColl (st : Nat) (j : CollJob) (h : HeldInReset 97 s) : HeldInReset 97 (failColl st j s) := by
  unfold failColl
  split
  · exact held_dropColl _ h
  · exact held_finish _ _ _ _ _ (held_dropShadows _ (held_dropColl _ h))

theorem held_commitShadow (w : WorkCopy) (h : HeldInReset 97 s) : HeldInReset 97 (commitShadow w s).1 := by
  have hpanes {t : State} (l : List (Nat × PaneLoc)) (ht : HeldInReset 97 t) : HeldInReset 97 { t with panes := l } := ht
  have hloc {t : State} (k i : Nat) (l : PaneLoc) (ht : HeldInReset 97 t) : HeldInReset 97 (setLoc k i l t) := ht
  unfold commitShadow
  extract_lets root whole
  split
  · exact h
  next l _ =>
    have hslot := held_programSlot l 66560 h
    split
    · exact h
    · split
      next u hu =>
        rw [hu] at hslot
        exact hslot
      next u hu =>
        rw [hu] at hslot
        have hread : HeldInReset 97 (if whole then (paneNow root w.pane u, u) else moverRead root w.pane u).2 := by
          split
          · exact hslot
          · exact held_moverRead _ _ hslot
        split
        next p t ht =>
          rw [ht] at hread
          exact held_writePane _ _ _ _ _ _ _ (hloc _ _ _ (hpanes _ (held_releasePane _ _ hread)))

theorem held_commitShadows (id : Nat) (h : HeldInReset 97 s) : HeldInReset 97 (commitShadows id s).1 :=
  held_dropShadows _ (List.foldlRecOn (motive := fun r : State × Nat => HeldInReset 97 r.1) _ _ h (fun _ hr _ _ => held_commitShadow _ hr))

theorem held_putLinearByte (o : Nat) (t root : Tensor) (k : Nat) (b : Byte) (h : HeldInReset 97 s) :
    HeldInReset 97 (putLinearByte o t root k b s) := by
  unfold putLinearByte
  split_ifs
  · exact held_putTadj _ _ _ _ _ _ (held_upsertCopy _ _ _ _ _ h)
  · exact h
  · split
    · exact h
    · exact held_upsertCopy _ _ _ _ _ h

theorem held_putLinear (o : Nat) (t : Tensor) (k : Nat) (bs : List Byte) (h : HeldInReset 97 s) : HeldInReset 97 (putLinear o t k bs s) :=
  ite_keep (held_forEach (fun _ _ _ ht => held_putLinearByte _ _ _ _ _ ht) h)
    (held_forEach (fun _ _ _ ht => held_putElem _ _ _ _ _ _ _ _ ht) h)

theorem held_poisonLinear (o : Nat) (t : Tensor) (k : Nat) (h : HeldInReset 97 s) : HeldInReset 97 (poisonLinear o t k s) :=
  ite_keep (held_upsertCopy _ _ _ _ _ h) h

theorem held_reportDigests (j : CollJob) (h : HeldInReset 97 s) : HeldInReset 97 (reportDigests j s) := by
  unfold reportDigests
  split
  · exact h
  · exact held_forEach (fun _ _ _ ht => held_errRecord _ _ _ _ _ _ ht)
      (held97_setF (by decide) _ (held97_setF (by decide) _ (held97_setF (by decide) _ (held97_setF (by decide) _ h))))

theorem held_commitColl (j : CollJob) (h : HeldInReset 97 s) : HeldInReset 97 (commitColl j s) := by
  unfold commitColl
  split
  · exact held_dropColl _ h
  · extract_lets s₁ s₂ s₃
    have h₁ : HeldInReset 97 s₁ := ite_keep (held_reportDigests _ h) h
    have h₂ : HeldInReset 97 s₂ := ite_keep h₁ (held_forEach (fun _ _ _ ht => held_putLinear _ _ _ _ ht) h₁)
    have h₃ : HeldInReset 97 s₃ := ite_keep h₂ (held_forEach (fun _ _ _ ht => held_poisonLinear _ _ _ ht) h₂)
    exact held_finish _ _ _ _ _ (held_dropColl _ (held_commitShadows j.id h₃))

theorem held_gatherDone (j : CollJob) (h : HeldInReset 97 s) : HeldInReset 97 (gatherDone j s) :=
  ite_keep (held_forEach (fun _ _ _ ht => held_emit _ ht) (held_setColl _ _ h)) h

theorem held_collProgress (tag : Nat) (h : HeldInReset 97 s) : HeldInReset 97 (collProgress tag s) := by
  unfold collProgress
  split
  · exact h
  · exact ite_keep h (ite_keep (held_gatherDone _ (held_setColl _ _ (held_setColl _ _ h))) (held_emit _ (held_setColl _ _ h)))

end

/-! The packets that a connection sends and takes (R394, R474 to R484). -/

section
variable {s : State}

theorem held_setConn (w p : Nat) (f : Conn → Conn) (h : HeldInReset 97 s) : HeldInReset 97 (setConn w p f s) := h

theorem held_sendFrame (w : Nat) (p : List Byte) (h : HeldInReset 97 s) : HeldInReset 97 (sendFrame w p s) :=
  held_peep _ _ _ _ (held_setF (clearOf_place _ (dwPage w) rfl) _ (held_emit _ h))

theorem held_drainFrames (w : Nat) (h : HeldInReset 97 s) : HeldInReset 97 (drainFrames w s) :=
  ite_keep h (held_forEach (fun _ _ _ ht => held_sendFrame _ _ ht) (held_setDw _ _ h))

theorem held_sendPacket (w c : Nat) (p : List Byte) (h : HeldInReset 97 s) : HeldInReset 97 (sendPacket w c p s) :=
  held_drainFrames _ (held_setDw _ _ h)

theorem held_sendAck (w p : Nat) (h : HeldInReset 97 s) : HeldInReset 97 (sendAck w p s) := by
  unfold sendAck
  split
  · exact h
  · exact held_sendPacket _ _ _ (held_setConn _ _ _ h)

theorem held_sendNack (w p psn tag r g : Nat) (h : HeldInReset 97 s) : HeldInReset 97 (sendNack w p psn tag r g s) :=
  held_sendPacket _ _ _ h

theorem held_acceptNext (w p : Nat) (h : HeldInReset 97 s) : HeldInReset 97 (acceptNext w p s) := by
  unfold acceptNext
  extract_lets u
  have hu : HeldInReset 97 u := held_setConn _ _ _ h
  split
  · exact ite_keep (held_sendAck _ _ hu) hu
  · exact hu

theorem held_rejectNext (w p psn tag r g : Nat) (h : HeldInReset 97 s) : HeldInReset 97 (rejectNext w p psn tag r g s) :=
  held_sendNack _ _ _ _ _ _ (held_setConn _ _ _ h)

/-- A field of the page of a compression engine lies outside the page of TR97. -/
theorem held_setEngine (c : Nat) {o lo w r : Nat} (hf : o < 0x1000 ∧ lo < 64) (v : Nat) (h : HeldInReset 97 s) :
    HeldInReset 97 (setF ⟨ceBase c + o, lo, w, r⟩ v s) := by
  refine held_setF ?_ v h
  simp only [clearOf, Fld.key, ceBase, frmBase, REG.RSTCTL_RESET, REG.LIC_COUNT, REG.LICSTEP_STEP, REG.LICCTL_CALBUSY]
  omega

theorem held_countBlock (c e r b : Nat) (h : HeldInReset 97 s) : HeldInReset 97 (countBlock c e r b s) :=
  held_peep _ _ _ _ (held_peep _ _ _ _ (held_peep _ _ _ _ (held_setEngine c (by decide) _ (held_setEngine c (by decide) _ h))))

theorem held_countTable (c k : Nat) (h : HeldInReset 97 s) : HeldInReset 97 (countTable c k s) :=
  held_peep _ _ _ _ (held_setEngine c (by decide) _ h)

theorem held_setCeSticky (c f : Nat) (h : HeldInReset 97 s) : HeldInReset 97 (setSticky (ceSticky c) f s) := by
  refine held_forEach (fun p hp t ht => ?_) h
  have hp := List.mem_of_mem_filter hp
  simp only [ceSticky, List.mem_cons, List.not_mem_nil, or_false] at hp
  rcases hp with rfl | rfl | rfl | rfl | rfl | rfl <;> exact held_setEngine c (by decide) _ ht

theorem held_deliver (j : CollJob) (p v : Nat) (d : Bool) (bs : List Byte) (f : Nat) (h : HeldInReset 97 s) :
    HeldInReset 97 (deliver j p v d bs f s) := held_collProgress _ (held_setColl _ _ h)

theorem held_drainWindow (w p fuel : Nat) (h : HeldInReset 97 s) : HeldInReset 97 (drainWindow w p fuel s) := by
  induction fuel generalizing s with
  | zero => exact h
  | succ k ih =>
    unfold drainWindow
    split
    · exact h
    · split
      · exact h
      · split
        · exact ite_keep h (held_sendNack _ _ _ _ _ _ (held_setConn _ _ _ h))
        · extract_lets bs
          split_ifs
          · exact held_failColl _ _ h
          · split
            · exact ih (held_acceptNext _ _ (held_setCtx _ _ (held_countTable _ _ h)))
            · exact held_rejectNext _ _ _ _ _ _ h
          · split
            · exact ih (held_deliver _ _ _ _ _ _ (held_acceptNext _ _ (held_countBlock _ _ _ _ (held_setCeSticky _ _ h))))
            · exact held_rejectNext _ _ _ _ _ _ (held_setEngine _ (by decide) _ h)
            · exact held_rejectNext _ _ _ _ _ _ (held_setEngine _ (by decide) _ h)

theorem held_drainAll (h : HeldInReset 97 s) : HeldInReset 97 (drainAll s) := held_forEach (fun _ _ _ ht => held_drainWindow _ _ _ ht) h

end

/-! A change of membership and the COLLs that it lets in (R489 to R494). -/

section
variable {s : State}

theorem held_setNd (f : NdAux → NdAux) (h : HeldInReset 97 s) : HeldInReset 97 (setNd f s) := h

theorem held_refuse (k : Nat) (h : HeldInReset 97 s) : HeldInReset 97 (refuse k s) := held_setNd _ (held_emit _ h)

theorem held_refuseAll (h : HeldInReset 97 s) : HeldInReset 97 (refuseAll s) :=
  held97_setF (by decide) _ (held97_setF (by decide) _ (held_forEach (fun _ _ _ ht => held_refuse _ ht) h))

theorem held_setNdState (v : Nat) (h : HeldInReset 97 s) : HeldInReset 97 (setNdState v s) := held97_setF (by decide) _ h

theorem held_showEpoch (k : Nat) (ms : List Member) (h : HeldInReset 97 s) : HeldInReset 97 (showEpoch k ms s) :=
  held97_setF (by decide) _ (held97_setF (by decide) _ (held97_setF (by decide) _ (held97_setF (by decide) _
    (held97_setF (by decide) _ (held_setNdState _ h)))))

theorem held_dropStale (w : Nat) (h : HeldInReset 97 s) : HeldInReset 97 (dropStale w s) := by
  unfold dropStale
  extract_lets stale
  split
  · exact h
  · exact held_setF (clearOf_place _ (dwPage w) rfl) _ (held_setDw _ _ h)

theorem held_openConns (ms : List Member) (h : HeldInReset 97 s) : HeldInReset 97 (openConns ms s) := by
  have hconns {t : State} (k : NdAux) (l : List Conn) (ht : HeldInReset 97 t) : HeldInReset 97 { t with nd := k, conns := l } := ht
  exact hconns _ _ (held_forEach (fun _ _ _ ht => held_dropStale _ ht) h)

theorem held_allocShadow (tier : Nat) (t : Tensor) (id i : Nat) (h : HeldInReset 97 s) : HeldInReset 97 (allocShadow tier t id i s) := by
  unfold allocShadow
  split
  · exact h
  · exact held_charge _ _ _ (held_memWrite _ _ h)

/-- Either state that the allocation of shadow panes answers with keeps TR97 in reset. -/
def ShadowsHeld (r : Option State × State × Nat) : Prop := (∀ u, r.1 = some u → HeldInReset 97 u) ∧ HeldInReset 97 r.2.1

theorem shadowsHeld_none (st : Nat) (h : HeldInReset 97 s) : ShadowsHeld (none, s, st) := ⟨fun _ hu => (nomatch hu), h⟩

theorem held_shadowAll (id : Nat) (t : Tensor) (h : HeldInReset 97 s) : ShadowsHeld (shadowAll id t s) := by
  unfold shadowAll
  extract_lets root
  split
  · exact shadowsHeld_none _ (held_recordQlast _ _ _ h)
  · extract_lets s'
    have hs' : HeldInReset 97 s' := held_forEach (fun _ _ _ ht => held_allocShadow _ _ _ _ ht) h
    split
    · exact shadowsHeld_none _ (held_recordQlast _ _ _ h)
    · split
      · exact ⟨fun u hu => (Option.some.inj hu) ▸ hs', h⟩
      · exact shadowsHeld_none _ (held_recordQlast _ _ _ h)

theorem held_shadowEach (id : Nat) (hs : List Nat) (h : HeldInReset 97 s) : ShadowsHeld (shadowEach id hs s) := by
  induction hs generalizing s with
  | nil => exact ⟨fun u hu => (Option.some.inj hu) ▸ h, h⟩
  | cons k ks ih =>
    have hfirst := held_shadowAll id (tensorAt k s) h
    unfold shadowEach
    split
    next q st heq =>
      rw [heq] at hfirst
      exact hfirst
    next u q st heq =>
      rw [heq] at hfirst
      have hrest := ih (hfirst.1 u rfl)
      split
      next v q st heq =>
        rw [heq] at hrest
        exact ⟨fun x hx => hrest.1 x hx, h⟩
      next q st heq =>
        exact shadowsHeld_none _ (held97_setF (by decide) _ (held97_setF (by decide) _ (held97_setF (by decide) _
          (held97_setF (by decide) _ h))))

theorem held_startJob (e : InFlight) (h : HeldInReset 97 s) : HeldInReset 97 (startJob e s) := by
  have hcolls {t : State} (l : List CollJob) (ht : HeldInReset 97 t) : HeldInReset 97 { t with colls := l } := ht
  unfold startJob
  extract_lets d j s₁ t s₂ s₃
  have h₁ : HeldInReset 97 s₁ := held_forEach (fun _ _ _ ht => held_stageTensor _ _ ht) h
  have h₂ : HeldInReset 97 s₂ := ite_keep (held_stageTensor _ _ h₁) h₁
  split
  have h₃ : HeldInReset 97 s₃ := held_setFlight _ _ h₂
  exact held_collProgress _ (held_drainAll (hcolls _ h₃))

theorem held_enterEpoch (e : InFlight) (h : HeldInReset 97 s) : HeldInReset 97 (enterEpoch e s) := by
  unfold enterEpoch validated
  split
  · exact held_failCheck _ _ _ h
  · unfold chargeColl
    extract_lets j
    have hshadows := held_shadowEach e.id ((if clUsesD e.desc then [clDH e.desc] else []) ++ feedbackHandles j s) h
    split
    next u q st heq =>
      rw [heq] at hshadows
      exact held_startJob _ (hshadows.1 u rfl)
    next q st heq =>
      rw [heq] at hshadows
      exact held_failCheck _ _ _ hshadows.2

theorem held_releaseHeld (h : HeldInReset 97 s) : HeldInReset 97 (releaseHeld s) := by
  refine held_forEach (fun _ _ t ht => ?_) h
  split
  · exact held_enterEpoch _ ht
  · exact ht

theorem held_adoptEpoch (k : Nat) (ms : List Member) (h : HeldInReset 97 s) : HeldInReset 97 (adoptEpoch k ms s) := by
  unfold adoptEpoch
  extract_lets inside ms' s₁ s₂ s₃ s₄
  have h₂ : HeldInReset 97 s₂ := held_openConns _ (held_showEpoch _ _ (held_setNd _ h))
  have h₃ : HeldInReset 97 s₃ := ite_keep (held97_setF (by decide) _ (held_trace _ _ _ _ _ h₂)) h₂
  exact held_releaseHeld (ite_keep h₃ (held_setNd _ (held_refuseAll h₃)))

theorem held_endCarriage (st : Nat) (p : Option Nat) (h : HeldInReset 97 s) : HeldInReset 97 (endCarriage st p s) := h

theorem held_endColls (h : HeldInReset 97 s) : HeldInReset 97 (endColls s) :=
  held_endCarriage _ _ (held_forEach (fun _ _ _ ht => ite_keep (held_commitColl _ ht) (held_failColl _ _ ht)) h)

theorem held_finishChange (h : HeldInReset 97 s) : HeldInReset 97 (finishChange s) := by
  unfold finishChange
  split
  · exact h
  · exact ite_keep (held_adoptEpoch _ _ (held_forEach (fun _ _ _ ht => held_emit _ ht) h)) h

theorem held_runChange (ms ls : List Member) (h : HeldInReset 97 s) : HeldInReset 97 (runChange ms ls s) :=
  held_finishChange (held_forEach (fun _ _ _ ht => held_emit _ ht) (held_endColls (held_setNdState _ (held_setNd _ h))))

theorem held_memberFailed (k : Nat) (h : HeldInReset 97 s) : HeldInReset 97 (memberFailed k s) := by
  unfold memberFailed
  split
  · exact h
  · exact ite_keep h (ite_keep (held_runChange _ _ (held97_setF (by decide) _ (held97_setF (by decide) _ h))) h)

theorem held_failConn (w p : Nat) (h : HeldInReset 97 s) : HeldInReset 97 (failConn w p s) := by
  unfold failConn
  split
  · exact h
  · refine ite_keep h (held_endCarriage _ _ (held_forEach (fun _ _ _ ht => held_failColl _ _ ht)
      (held_trace _ _ _ _ _ (held_errRecord _ _ _ _ _ _ ?_))))
    exact held_setF (clearOf_place _ (dwPage w) rfl) _ (held97_setF (by decide) _ (held97_setF (by decide) _ (held_setConn _ _ _ h)))

theorem held_withFailures {f : State → State} (hf : HeldInReset 97 (f s)) : HeldInReset 97 (withFailures f s) :=
  held_forEach (fun _ _ _ ht => held_memberFailed _ ht) hf

end

/-! The shutters, which a reset of TR97 drives (R652, R659, R660). -/

section
variable {s : State}

theorem held_closeDoorway {w : Nat} (hw : w < 16) (h : HeldInReset 97 s) : HeldInReset 97 (closeDoorway w s) := by
  have hb : dwBase w < 0x01C00000 := by unfold dwBase frmBase; omega
  have hset {o lo wd r : Nat} (ho : o < 0x1000 ∧ lo < 64) (v : Nat) {t : State} (ht : HeldInReset 97 t) :
      HeldInReset 97 (setF ⟨dwBase w + o, lo, wd, r⟩ v t) := held97_setF ⟨by dsimp only; omega, ho.2⟩ v ht
  have hfail := held_withFailures (held_forEach (l := s.conns.filter (fun c => decide (c.w = w)))
    (fun c _ _ ht => held_failConn w c.peer ht) h)
  exact hset (by decide) _ (hset (by decide) _ (hset (by decide) _ (hset (by decide) _ (hset (by decide) _ (held_setDw _ _ hfail)))))

/-- A change of a region that leaves its reset and its LIC. -/
theorem held_setRegion (m : Nat) {f : Region → Region} (hf : ∀ r, (f r).inReset = r.inReset ∧ (f r).running = r.running)
    (h : HeldInReset 97 s) : HeldInReset 97 (setRegion m f s) := by
  have hregion : (regionOf 97 (setRegion m f s)).inReset = (regionOf 97 s).inReset
      ∧ (regionOf 97 (setRegion m f s)).running = (regionOf 97 s).running := by
    by_cases hm : 97 = m
    · subst hm
      rw [regionOf_setRegion_self]
      exact hf _
    · rw [regionOf_setRegion_ne _ _ _ _ hm]
      exact ⟨rfl, rfl⟩
  exact ⟨h.reset, h.lic, h.step, h.busy, hregion.1.trans h.inReset, hregion.2.trans h.stopped⟩

/-- A region that powers up keeps TR97 in reset: TR97 has its calibration under way. -/
theorem held_powerUp (m : Nat) (h : HeldInReset 97 s) : HeldInReset 97 (powerUp m s) := by
  unfold powerUp startCal
  extract_lets u
  have hu : HeldInReset 97 u := held_setRegion m (fun _ => ⟨rfl, rfl⟩) h
  by_cases hm : m = 97
  · subst hm
    have hbusy : flag (REG.LICCTL_CALBUSY 97) u = true := decide_eq_true hu.busy
    rw [if_pos hbusy]
    exact hu
  · refine ite_keep hu (held_setF ?_ _ (held_setRegion m (fun _ => ⟨rfl, rfl⟩) hu))
    simp only [clearOf, Fld.key, REG.RSTCTL_RESET, REG.LIC_COUNT, REG.LICSTEP_STEP, REG.LICCTL_CALBUSY]
    omega

theorem held_bringUp {i : Nat} (hi : i < 104) (h : HeldInReset 97 s) : HeldInReset 97 (bringUp i s) := by
  have hcopies {t : State} (l : List WorkCopy) (ht : HeldInReset 97 t) : HeldInReset 97 { t with copies := l } := ht
  unfold bringUp
  split_ifs
  · exact held_forEach (fun _ _ _ ht => held_powerUp _ ht) (hcopies _ h)
  · exact held_muStart (by decide) (by omega) _ h
  · exact h
  · exact held_startTraining (by decide) (by omega) h
  · exact h
  · exact held_startInsertion (by decide) (by omega) h
  · exact h

theorem held_setShut {i : Nat} (hi : i < 104) (st : Nat) (h : HeldInReset 97 s) : HeldInReset 97 (setShut i st s) :=
  held_trace _ _ _ _ _ (held97_setF (by simp only [GLB.SHUT_STATE]; omega) _ (held97_setF (by simp only [GLB.SHUT_PEND]; omega) _ h))

theorem held_beginClosing {i : Nat} (h : HeldInReset 97 s) : HeldInReset 97 (beginClosing i s) := by
  have hrefuse : HeldInReset 97 (refuseHeld i s) := h
  unfold beginClosing
  split_ifs
  · exact hrefuse
  · exact held_closeDoorway (by omega) h
  · exact h

theorem held_drive {i : Nat} (hi : i < 104) (h : HeldInReset 97 s) : HeldInReset 97 (drive i s) := by
  have hwait {t : State} (l : List Nat) (ht : HeldInReset 97 t) : HeldInReset 97 { t with shutWait := l } := ht
  have hpend (v : Nat) : HeldInReset 97 (setF (GLB.SHUT_PEND i) v s) := held97_setF (by simp only [GLB.SHUT_PEND]; omega) _ h
  unfold drive
  extract_lets eff
  split
  · exact ite_keep (hwait _ (held_setShut hi _ h)) (held_bringUp hi (held_setShut hi _ h))
  · exact held_beginClosing (held_setShut hi _ h)
  · exact hpend _
  · exact hpend _
  · exact h

theorem mem_shutOrder {i : Nat} (h : i ∈ shutOrder) : i < 104 := by
  simp only [shutOrder, List.mem_append, List.mem_map, List.mem_range] at h
  omega

theorem held_driveShutters (h : HeldInReset 97 s) : HeldInReset 97 (driveShutters s) :=
  ite_keep (held_forEach (fun _ hi _ ht => held_drive (mem_shutOrder hi) ht) h) h

end

/-! The reset of a region and the commands of the monitor (R83 to R88, R104, R651). -/

theorem resetRegion_of_inReset {n : Nat} {s : State} (h : (regionOf n s).inReset = true) : resetRegion n s = s := if_pos h

/-- A reset leaves the region held in reset: what follows the region's entry into calibration does not touch what shows it. -/
theorem heldInReset_resetRegion {n : Nat} (hn : n < 100) {s : State} (h : (regionOf n s).inReset = false) :
    HeldInReset n (resetRegion n s) := by
  have hsweeps {t : State} (ids : List Nat) (ht : HeldInReset n t) : HeldInReset n (dropSweeps ids t) := ht
  unfold resetRegion
  rw [if_neg (Bool.eq_false_iff.mp h)]
  extract_lets ids s₁ s₂ s₃ s₄ s₅
  have h₂ : HeldInReset n s₂ :=
    held_resetFields (fun a ha ha' => regionRegister_regionPage n ha (by omega)) hn (heldInReset_holdRegion n s₁)
  have h₃ : HeldInReset n s₃ := held_resetUnits hn (held_clearArbiters n hn h₂)
  have h₄ : HeldInReset n s₄ := ite_keep (held_fillSequencer _ h₃) h₃
  have h₅ : HeldInReset n s₅ := held_settleLost ids (hsweeps ids h₄)
  split
  next h97 =>
    subst h97
    exact held_driveShutters h₅
  next => exact h₅

theorem exec_rstctlReset (n : RegionNo) {s : State} (h : Served .early s) : exec (.rstctlReset n) s = .next (resetRegion n s) :=
  congrArg Host.Outcome.next (hostWrite_of_served _ h)

theorem exec_monitorMeasure (n : RegionNo) (mv : Nat) (tq : Int) (rate speed : Nat) {s u : State} (h : inHold s = false)
    (hu : u = forEach (neighbourList n) (fun m s => checkPair n m s) (setF (REG.VMEAS_MV n) mv (setF (REG.TMEAS_TQ n) (toTwos 16 tq)
      (setF (REG.RATE_EVENTS n) rate (setF (REG.SPEED_HANDSHAKES n) speed (setRegion n (fun r => { r with measured := true }) s)))))) :
    exec (.monitorMeasure n mv tq rate speed) s = .next (if 500 < tmeas n u then enterFatal 3 n u else u) := by
  subst hu
  exact if_neg (Bool.eq_false_iff.mp h)

/-- Settles O14: a measurement and a release are the monitor's own definitions, and a reset that begins leaves its region held in it. -/
theorem monitorAndResets : Obligations.MonitorAndResets := by
  refine ⟨fun n mv tq rate speed s u => exec_monitorMeasure n mv tq rate speed, fun n s => rfl,
    fun a b f t s hst hlate hn hf => exec_hingeStallTimeout_late hst hn hf hlate,
    fun n s hs => ⟨exec_rstctlReset n hs, resetRegion_of_inReset, fun h => ?_⟩⟩
  have hheld := heldInReset_resetRegion n.isLt h
  exact ⟨hheld.reset, hheld.lic, hheld.step, hheld.busy, hheld.inReset, hheld.stopped⟩

end Sys2Proof.Machine

namespace Sys2Proof.Machine

/-! PROOFS. Number formats: a decoded pattern lies on the grid of its format, and a value on the grid is encoded unchanged. -/

/-! Rounding a multiple of the quantum (R115, R117). -/

theorem shiftTo_of_le {m : Nat} {e q : Int} (h : q ≤ e) : shiftTo m e q = (m * 2 ^ (e - q).toNat, .lt, true) := if_pos h

theorem roundAt_of_le {rm : Rm} {neg : Bool} {m : Nat} {e q : Int} (h : q ≤ e) :
    roundAt rm neg m e q = (m * 2 ^ (e - q).toNat, true) := by
  simp [roundAt, shiftTo_of_le h]

/-- A magnitude of no more bits than the precision is shifted up to the full precision and loses nothing. -/
theorem roundPrec_of_log2_lt {rm : Rm} {neg : Bool} {prec m : Nat} {e : Int} (hm : m ≠ 0) (h : Nat.log2 m < prec) :
    roundPrec rm neg prec m e = (m * 2 ^ (prec - 1 - Nat.log2 m), e - (prec - 1 - Nat.log2 m : Nat), true) := by
  have hq : ilog m e - prec + 1 = e - (prec - 1 - Nat.log2 m : Nat) := by simp only [ilog]; omega
  have hd : (e - (e - (prec - 1 - Nat.log2 m : Nat))).toNat = prec - 1 - Nat.log2 m := by omega
  simp only [roundPrec, if_neg hm, hq, roundAt_of_le (show e - (prec - 1 - Nat.log2 m : Nat) ≤ e by omega), hd]

/-- A magnitude at most another one is no greater in the comparison, also after its significand is shifted up by `d` bits. -/
theorem cmpMag_shift_ne_gt {m m' d : Nat} {e e' : Int} (he : e ≤ e') (h : m ≤ m' * 2 ^ (e' - e).toNat) :
    cmpMag (m * 2 ^ d) (e - d) m' e' ≠ .gt := by
  have hmin : min (e - d) e' = e - d := min_eq_left (by omega)
  have hd : (e' - (e - d)).toNat = (e' - e).toNat + d := by omega
  simp only [cmpMag, hmin, sub_self, Int.toNat_zero, pow_zero, mul_one, hd, pow_add, ← mul_assoc]
  exact fun hgt => absurd (Nat.compare_eq_gt.mp hgt) (Nat.not_lt.mpr (Nat.mul_le_mul_right _ h))

/-! Values on a grid (R129). -/

/-- The magnitude m × 2^e stands on the grid with its own quantum 2^e, and within the grid's range. -/
structure Grid.Holds (g : Grid) (m : Nat) (e : Int) : Prop where
  ne_zero : m ≠ 0
  log2_lt : Nat.log2 m < g.prec
  quantum : max (ilog m e - g.prec + 1) g.qmin = e
  expo_le : e ≤ g.maxE
  mag_le : m ≤ g.maxM * 2 ^ (g.maxE - e).toNat

theorem Grid.Holds.overflows {g : Grid} {m : Nat} {e : Int} (h : g.Holds m e) (rm : Rm) (neg : Bool) :
    overflows g rm neg m e = false := by
  simp only [Machine.overflows, roundPrec_of_log2_lt h.ne_zero h.log2_lt]
  exact decide_eq_false (cmpMag_shift_ne_gt h.expo_le h.mag_le)

/-- A value on the grid is encoded as it stands, with no flag, in every rounding direction. -/
theorem encodeWith_of_holds {fmt m : Nat} {e : Int} (h : (gridOf fmt).Holds m e) (rm : Rm) (sat neg : Bool) :
    encodeWith fmt rm false sat (.fin neg m e) = (packBits (gridOf fmt) (fieldBits fmt).1 (fieldBits fmt).2 neg m e, 0) := by
  simp [encodeWith, h.ne_zero, h.overflows, h.quantum, roundAt_of_le]

/-! Packing sign, exponent and fraction. -/

theorem ilog_subnormal_lt {fb f : Nat} (q : Int) (hf : f < 2 ^ fb) (h0 : f ≠ 0) : ilog f q < q + fb := by
  have hlog : Nat.log2 f < fb := (Nat.log2_lt h0).mpr hf
  simp only [ilog]
  omega

theorem log2_two_pow_add {fb f : Nat} (hf : f < 2 ^ fb) : Nat.log2 (2 ^ fb + f) = fb :=
  (Nat.log2_eq_iff (by positivity)).mpr ⟨Nat.le_add_right _ _, by rw [pow_succ]; omega⟩

theorem ilog_normal {fb f : Nat} (q : Int) (hf : f < 2 ^ fb) : ilog (2 ^ fb + f) q = fb + q := by
  rw [ilog, log2_two_pow_add hf]

theorem packBits_subnormal {g : Grid} {eb fb f : Nat} {neg : Bool} (hemin : g.emin = g.qmin + fb) (hf : f < 2 ^ fb) (h0 : f ≠ 0) :
    packBits g eb fb neg f g.qmin = b2n neg * 2 ^ (eb + fb) + f := by
  have hE : ilog f g.qmin < g.emin := hemin ▸ ilog_subnormal_lt g.qmin hf h0
  simp [packBits, h0, hE]

theorem packBits_normal {g : Grid} {eb fb e f : Nat} {neg : Bool} (hemin : g.emin = g.qmin + fb) (hf : f < 2 ^ fb) (he : e ≠ 0) :
    packBits g eb fb neg (2 ^ fb + f) (g.qmin + e - 1) = b2n neg * 2 ^ (eb + fb) + e * 2 ^ fb + f := by
  have hE : ¬ (fb : Int) + (g.qmin + e - 1) < g.emin := by omega
  have hexp : ((fb : Int) + (g.qmin + e - 1) - g.emin).toNat + 1 = e := by omega
  simp [packBits, ilog_normal _ hf, hE, hexp, Nat.mod_eq_of_lt hf]

/-! The scalar formats: binary32, binary64, GF16, E4M3 and E5M2 (R105, R108, R115, R118). -/

/-- The tag of a scalar format. -/
def IsScalar (fmt : Nat) : Prop := fmt = 0 ∨ fmt = 1 ∨ fmt = 2 ∨ fmt = 5 ∨ fmt = 6

section
variable {fmt b : Nat}

theorem IsScalar.ne_block (h : IsScalar fmt) : fmt ≠ 3 ∧ fmt ≠ 4 := by
  rcases h with rfl | rfl | rfl | rfl | rfl <;> decide

theorem IsScalar.bits_eq (h : IsScalar fmt) : 8 * fmtBytes fmt = (fieldBits fmt).1 + (fieldBits fmt).2 + 1 := by
  rcases h with rfl | rfl | rfl | rfl | rfl <;> rfl

theorem IsScalar.prec_eq (h : IsScalar fmt) : (gridOf fmt).prec = (fieldBits fmt).2 + 1 := by
  rcases h with rfl | rfl | rfl | rfl | rfl <;> rfl

theorem IsScalar.emin_eq (h : IsScalar fmt) : (gridOf fmt).emin = (gridOf fmt).qmin + (fieldBits fmt).2 := by
  rcases h with rfl | rfl | rfl | rfl | rfl <;> rfl

theorem IsScalar.qmin_le_maxE (h : IsScalar fmt) : (gridOf fmt).qmin ≤ (gridOf fmt).maxE := by
  rcases h with rfl | rfl | rfl | rfl | rfl <;> decide

/-- A format with infinities keeps the last exponent field for them and NaN, so its largest finite has every fraction bit set. -/
theorem IsScalar.maxE_maxM_of_hasInf (h : IsScalar fmt) (hinf : (gridOf fmt).hasInf = true) :
    (gridOf fmt).maxE = (gridOf fmt).qmin + (2 ^ (fieldBits fmt).1 : Nat) - 3 ∧ (gridOf fmt).maxM = 2 ^ ((fieldBits fmt).2 + 1) - 1 := by
  rcases h with rfl | rfl | rfl | rfl | rfl <;> simp_all [gridOf, fieldBits]

theorem IsScalar.eq_of_noInf (h : IsScalar fmt) (hinf : (gridOf fmt).hasInf = false) : fmt = 5 := by
  rcases h with rfl | rfl | rfl | rfl | rfl <;> simp_all [gridOf]

theorem IsScalar.le_maxM (h : IsScalar fmt) {f : Nat} (hf : f < 2 ^ (fieldBits fmt).2) : f ≤ (gridOf fmt).maxM := by
  rcases h with rfl | rfl | rfl | rfl | rfl <;> simp_all [gridOf, fieldBits] <;> omega

/-! The fields of a pattern. -/

def signField (fmt b : Nat) : Bool := bitOf b ((fieldBits fmt).1 + (fieldBits fmt).2)
def expField (fmt b : Nat) : Nat := bitsOf b (fieldBits fmt).2 (fieldBits fmt).1
def fracField (fmt b : Nat) : Nat := b % 2 ^ (fieldBits fmt).2

theorem fracField_lt (fmt b : Nat) : fracField fmt b < 2 ^ (fieldBits fmt).2 := Nat.mod_lt _ (by positivity)

theorem expField_lt (fmt b : Nat) : expField fmt b < 2 ^ (fieldBits fmt).1 := Nat.mod_lt _ (by positivity)

/-- The exponent and fraction fields together are the pattern below its sign. -/
theorem expField_fracField (fmt b : Nat) :
    expField fmt b * 2 ^ (fieldBits fmt).2 + fracField fmt b = b % 2 ^ ((fieldBits fmt).1 + (fieldBits fmt).2) := by
  rw [Nat.add_comm (fieldBits fmt).1, pow_add, Nat.mod_mul, Nat.mul_comm, Nat.add_comm]
  rfl

theorem b2n_bitOf_top {w : Nat} (hb : b < 2 ^ (w + 1)) : b2n (bitOf b w) = b / 2 ^ w := by
  have hlt : b / 2 ^ w < 2 := Nat.div_lt_of_lt_mul (by rwa [← pow_succ])
  rcases Nat.le_one_iff_eq_zero_or_eq_one.mp (Nat.le_of_lt_succ hlt) with h | h <;> simp [b2n, bitOf, h]

/-- A pattern is made up of its three fields. -/
theorem pattern_eq_fields (h : IsScalar fmt) (hb : b < 2 ^ (8 * fmtBytes fmt)) :
    b2n (signField fmt b) * 2 ^ ((fieldBits fmt).1 + (fieldBits fmt).2) + expField fmt b * 2 ^ (fieldBits fmt).2 + fracField fmt b = b := by
  rw [h.bits_eq] at hb
  rw [Nat.add_assoc, expField_fracField, signField, b2n_bitOf_top hb, Nat.mul_comm]
  exact Nat.div_add_mod _ _

/-- What a pattern that is no NaN decodes to, by its fields (R127). -/
inductive DecodesTo (fmt b : Nat) : Num → Prop where
  | inf (hinf : (gridOf fmt).hasInf = true) (he : expField fmt b = 2 ^ (fieldBits fmt).1 - 1) (hf : fracField fmt b = 0) :
      DecodesTo fmt b (.inf (signField fmt b))
  | zero (he : expField fmt b = 0) (hf : fracField fmt b = 0) : DecodesTo fmt b (.zero (signField fmt b))
  | subnormal (he : expField fmt b = 0) (hf : fracField fmt b ≠ 0) :
      DecodesTo fmt b (.fin (signField fmt b) (fracField fmt b) (gridOf fmt).qmin)
  | normal (he : expField fmt b ≠ 0) (hinf : (gridOf fmt).hasInf = true → expField fmt b ≠ 2 ^ (fieldBits fmt).1 - 1)
      (hnan : fmt = 5 → b % 128 ≠ 127) :
      DecodesTo fmt b (.fin (signField fmt b) (2 ^ (fieldBits fmt).2 + fracField fmt b) ((gridOf fmt).qmin + expField fmt b - 1))

theorem decodesTo_decodeBits (h : IsScalar fmt) (hnan : (decodeBits fmt 127 b).num.isNan = false) :
    DecodesTo fmt b (decodeBits fmt 127 b).num := by
  obtain ⟨h3, h4⟩ := h.ne_block
  revert hnan
  simp only [decodeBits, h3, h4, if_false, decide_false, Bool.false_and, add_zero, Bool.false_eq_true]
  split
  next => exact fun hnan => nomatch hnan
  next hfive =>
    split
    next htop =>
      obtain ⟨he, hinf⟩ : expField fmt b = 2 ^ (fieldBits fmt).1 - 1 ∧ (gridOf fmt).hasInf = true := by simpa [expField] using htop
      split
      next hf => exact fun _ => .inf hinf he hf
      next => exact fun hnan => nomatch hnan
    next htop =>
      split
      next he =>
        split
        next hf => exact fun _ => .zero he hf
        next hf => exact fun _ => .subnormal he hf
      next he => exact fun _ => .normal he (fun hinf he' => htop (by simpa [hinf, expField] using he')) (by simpa using hfive)

/-! Decoded values stand on the grid. -/

theorem holds_subnormal (h : IsScalar fmt) {f : Nat} (hf : f < 2 ^ (fieldBits fmt).2) (h0 : f ≠ 0) :
    (gridOf fmt).Holds f (gridOf fmt).qmin where
  ne_zero := h0
  log2_lt := by rw [h.prec_eq]; exact Nat.lt_succ_of_lt ((Nat.log2_lt h0).mpr hf)
  quantum := by
    have hlog := ilog_subnormal_lt (gridOf fmt).qmin hf h0
    rw [h.prec_eq]
    omega
  expo_le := h.qmin_le_maxE
  mag_le := (h.le_maxM hf).trans (Nat.le_mul_of_pos_right _ (by positivity))

/-- A normal value whose exponent field is not kept for infinities, and that is not the NaN of E4M3, lies within the grid's range. -/
theorem normal_le_max (h : IsScalar fmt) {e f : Nat} (hlt : e < 2 ^ (fieldBits fmt).1) (hf : f < 2 ^ (fieldBits fmt).2)
    (hinf : (gridOf fmt).hasInf = true → e ≠ 2 ^ (fieldBits fmt).1 - 1) (hnan : fmt = 5 → e * 8 + f ≠ 127) :
    (gridOf fmt).qmin + e - 1 ≤ (gridOf fmt).maxE
      ∧ 2 ^ (fieldBits fmt).2 + f ≤ (gridOf fmt).maxM * 2 ^ ((gridOf fmt).maxE - ((gridOf fmt).qmin + e - 1)).toNat := by
  cases hi : (gridOf fmt).hasInf with
  | true =>
    obtain ⟨hE, hM⟩ := h.maxE_maxM_of_hasInf hi
    have hne := hinf hi
    refine ⟨by omega, le_trans ?_ (Nat.le_mul_of_pos_right _ (by positivity))⟩
    rw [hM, pow_succ]
    omega
  | false =>
    obtain rfl := h.eq_of_noInf hi
    have hne := hnan rfl
    change e < 16 at hlt
    change f < 8 at hf
    change (-9 : Int) + e - 1 ≤ 5 ∧ 8 + f ≤ 14 * 2 ^ ((5 : Int) - (-9 + e - 1)).toNat
    refine ⟨by omega, ?_⟩
    rcases Nat.lt_or_ge e 15 with he | he
    · have hpow : 2 ^ 1 ≤ 2 ^ ((5 : Int) - (-9 + e - 1)).toNat := Nat.pow_le_pow_right (by omega) (by omega)
      omega
    · exact le_trans (by omega) (Nat.le_mul_of_pos_right 14 (by positivity))

theorem holds_normal (h : IsScalar fmt) {e f : Nat} (he : e ≠ 0) (hlt : e < 2 ^ (fieldBits fmt).1) (hf : f < 2 ^ (fieldBits fmt).2)
    (hinf : (gridOf fmt).hasInf = true → e ≠ 2 ^ (fieldBits fmt).1 - 1) (hnan : fmt = 5 → e * 8 + f ≠ 127) :
    (gridOf fmt).Holds (2 ^ (fieldBits fmt).2 + f) ((gridOf fmt).qmin + e - 1) where
  ne_zero := by positivity
  log2_lt := by rw [log2_two_pow_add hf, h.prec_eq]; exact Nat.lt_succ_self _
  quantum := by rw [ilog_normal _ hf, h.prec_eq]; omega
  expo_le := (normal_le_max h hlt hf hinf hnan).1
  mag_le := (normal_le_max h hlt hf hinf hnan).2

/-! The round trip. -/

/-- What a pattern decodes to is encoded to that pattern, without a flag, in every rounding direction. -/
theorem encodeWith_of_decodesTo (h : IsScalar fmt) (hb : b < 2 ^ (8 * fmtBytes fmt)) {n : Num} (hn : DecodesTo fmt b n)
    (rm : Rm) (sat : Bool) : encodeWith fmt rm false sat n = (b, 0) := by
  have hfields := pattern_eq_fields h hb
  cases hn with
  | inf hinf he hf =>
    rw [he, hf, Nat.add_zero] at hfields
    simp only [encodeWith, hinf, if_true, infBits, hfields]
  | zero he hf =>
    rw [he, hf, Nat.zero_mul, Nat.add_zero] at hfields
    simp only [encodeWith, Num.zero, if_true, zeroBits, hfields]
  | subnormal he hf =>
    rw [he, Nat.zero_mul, Nat.add_zero] at hfields
    rw [encodeWith_of_holds (holds_subnormal h (fracField_lt fmt b) hf), packBits_subnormal h.emin_eq (fracField_lt fmt b) hf, hfields]
  | normal he hinf hnan =>
    have hnan' (h5 : fmt = 5) : expField fmt b * 8 + fracField fmt b ≠ 127 := by
      subst h5
      exact fun heq => hnan rfl ((expField_fracField 5 b).symm.trans heq)
    rw [encodeWith_of_holds (holds_normal h he (expField_lt fmt b) (fracField_lt fmt b) hinf hnan'),
      packBits_normal h.emin_eq (fracField_lt fmt b) he, hfields]

end

/-- Settles O26: a pattern is the sum of its fields, and the value they decode to stands on the grid of its format. -/
theorem formatsRoundTrip : Obligations.FormatsRoundTrip :=
  fun _ _ h hb hnan => encodeWith_of_decodesTo h hb (decodesTo_decodeBits h hnan) .rne false

end Sys2Proof.Machine

namespace Sys2Proof.Machine

/-! PROOFS. The matrix engine's passes over a tile, and the transom queue between the two engines of a core. -/

/-! OPERAND_STAGED: an engine that waits for its panes (R140, R177, R247). -/

/-- A run of an engine of core `n` whose descriptor is in flight has every pane that its next step needs. -/
def runStaged {α : Type} (n : Nat) (idOf : α → Nat) (panes : InFlight → α → List (Nat × Nat)) (s : State) : Option α → Bool
  | none => false
  | some r => match flight (idOf r) s with
    | none => false
    | some e => allStaged n e.id (panes e r) s

/-- The matrix engine's run has the panes of its tile, the vector engine's those of its vector. -/
def matrixStaged (n : Nat) (s : State) : Bool := runStaged n MxRun.id (fun e r => tilePanes e r.tile s) s (optGet s.mx n)
def vectorStaged (n : Nat) (s : State) : Bool := runStaged n VxRun.id (fun e r => vxPanes e r s) s (optGet s.vx n)

section
variable {α : Type} {n : Nat} {idOf : α → Nat} {panes : InFlight → α → List (Nat × Nat)} {s : State} {r : α}

@[simp] theorem runStaged_none : runStaged n idOf panes s none = false := rfl

theorem runStaged_of_ended (he : flight (idOf r) s = none) : runStaged n idOf panes s (some r) = false := by
  simp only [runStaged, he]

theorem runStaged_of_flight {e : InFlight} (he : flight (idOf r) s = some e) :
    runStaged n idOf panes s (some r) = allStaged n e.id (panes e r) s := by simp only [runStaged, he]

end

/-- The engine whose wait a field shows goes on, if it is ready to. -/
def goOn (f : Fld) (ready : Bool) (s : State) : State := if ready then setF f 0 s else s

/-- An engine that goes on changes register fields alone. -/
theorem goOn_eq (f : Fld) (ready : Bool) (s : State) : goOn f ready s = { s with flds := (goOn f ready s).flds } := by
  cases ready <;> rfl

@[simp] theorem getF_goOn_self (f : Fld) (ready : Bool) (s : State) : getF f (goOn f ready s) = if ready = true then 0 else getF f s := by
  cases ready
  · rfl
  · exact (getF_setF_self f 0 s).trans (Nat.zero_mod _)

theorem getF_goOn_ne {f g : Fld} (ready : Bool) (s : State) (h : g.key ≠ f.key) : getF g (goOn f ready s) = getF g s := by
  cases ready
  · rfl
  · exact getF_setF_ne f g 0 s h

@[simp] theorem vectorStaged_goOn (n : Nat) (f : Fld) (ready : Bool) (s : State) :
    vectorStaged n (goOn f ready s) = vectorStaged n s := by cases ready <;> rfl

/-- OPERAND_STAGED looks at either engine of the core: what the one does leaves the other's panes. -/
theorem exec_operandStaged (n : CoreNo) (s : State) : exec (.operandStaged n) s
    = .next (goOn (CORE.VXSTAT_OPWAIT n) (vectorStaged n s) (goOn (CORE.MXSTAT_OPWAIT n) (matrixStaged n s) s)) := by
  change execOperandStaged n s = _
  unfold execOperandStaged
  extract_lets u
  have hu : u = goOn (CORE.MXSTAT_OPWAIT n) (matrixStaged n s) s := by
    unfold u goOn
    split
    next hr => rw [matrixStaged, hr]; rfl
    next r hr =>
      split
      next he => rw [matrixStaged, hr, runStaged_of_ended he]; rfl
      next e he => rw [matrixStaged, hr, runStaged_of_flight he]
  rw [← hu, show vectorStaged n s = vectorStaged n u by rw [hu, vectorStaged_goOn]]
  unfold goOn
  split
  next hr => rw [vectorStaged, hr]; rfl
  next r hr =>
    split
    next he => rw [vectorStaged, hr, runStaged_of_ended he]; rfl
    next e he => rw [vectorStaged, hr, runStaged_of_flight he]

/-! What a pass leaves when it begins again (R159, R181, R190). -/

@[simp] theorem optGet_setMx_some (n : Nat) (r : MxRun) (s : State) : optGet (setMx n (some r) s).mx n = some r := by
  have hbefore : (s.mx.filter (fun p => decide (p.1 < n))).find? (fun p => decide (p.1 = n)) = none := by
    simp only [List.find?_eq_none, List.mem_filter, decide_eq_true_eq]
    exact fun p hp => Nat.ne_of_lt hp.2
  simp [setMx, optGet, optSet, assocSplice, hbefore]

/-- From `s` to `t` nothing of a tile is written: no memory, no working copy, no part of a descriptor and no transom queue. -/
structure NothingWritten (s t : State) : Prop where
  mem : t.mem = s.mem
  copies : t.copies = s.copies
  inflight : t.inflight = s.inflight
  transom : t.transom = s.transom

theorem NothingWritten.trans {s t u : State} (h : NothingWritten s t) (k : NothingWritten t u) : NothingWritten s u :=
  ⟨k.mem.trans h.mem, k.copies.trans h.copies, k.inflight.trans h.inflight, k.transom.trans h.transom⟩

theorem nothingWritten_setF (f : Fld) (v : Nat) (s : State) : NothingWritten s (setF f v s) := ⟨rfl, rfl, rfl, rfl⟩

theorem nothingWritten_setMx (n : Nat) (r : Option MxRun) (s : State) : NothingWritten s (setMx n r s) := ⟨rfl, rfl, rfl, rfl⟩

theorem nothingWritten_peep (k u e i : Nat) (s : State) : NothingWritten s (peep k u e i s) := by
  rw [peep_eq]
  exact ⟨rfl, rfl, rfl, rfl⟩

theorem nothingWritten_trace (c e r a b : Nat) (s : State) : NothingWritten s (trace c e r a b s) := by
  rw [trace_eq]
  exact ⟨rfl, rfl, rfl, rfl⟩

theorem nothingWritten_mxCount (n : Nat) (f : Fld) (k : Nat) (s : State) : NothingWritten s (mxCount n f k s) := by
  unfold mxCount
  split <;> exact ⟨rfl, rfl, rfl, rfl⟩

theorem nothingWritten_recordLast (n : Nat) (e : InFlight) (r : MxRun) (mm : Meas) (s : State) :
    NothingWritten s (recordLast n e r mm s) := ⟨rfl, rfl, rfl, rfl⟩

section
variable (n : Nat) (e : InFlight) (r : MxRun) (mm : Meas) (s : State)

theorem nothingWritten_replay : NothingWritten s (replay n e r mm s) :=
  (nothingWritten_mxCount n _ 1 s).trans <| (nothingWritten_peep 0 n 3 1 _).trans <| (nothingWritten_trace _ _ _ _ _ _).trans <|
    (nothingWritten_setMx _ _ _).trans (nothingWritten_setF _ _ _)

/-- The tile's pass begins again, one pass later, from the first group. -/
theorem optGet_replay : optGet (replay n e r mm s).mx n
    = some { r with pass := r.pass + 1, ps := nextPscale r.ps mm, group := 0, accs := [], mm := measInit, ranged := false } :=
  optGet_setMx_some n _ _

theorem getF_pass_replay : getF (CORE.MXSTAT_PASS n) (replay n e r mm s) = (r.pass + 1) % 4 := getF_setF_self _ _ _

end

theorem getF_mxCount_ne {g f : Fld} (n k : Nat) (s : State) (h : g.key ≠ f.key) : getF g (mxCount n f k s) = getF g s := by
  unfold mxCount
  split
  · exact getF_setF_ne _ _ _ _ h
  · rfl

theorem getF_lastPass_recordLast (n : Nat) (e : InFlight) (r : MxRun) (mm : Meas) (s : State) :
    getF (CORE.MXLAST_PASS n) (recordLast n e r mm s) = r.pass % 4 := by
  have hkeys : (CORE.MXLAST_PASS n).key ≠ (CORE.MXLAST_SRC n).key := by simp [Fld.key, CORE.MXLAST_PASS, CORE.MXLAST_SRC]
  unfold recordLast
  rw [getF_setF_ne _ _ _ _ hkeys, getF_setF_self]
  rfl

/-- The pass that begins leaves the record of the range event. -/
theorem getF_lastPass_replay (n : CoreNo) (e : InFlight) (r : MxRun) (mm : Meas) (s : State) :
    getF (CORE.MXLAST_PASS n) (replay n e r mm s) = getF (CORE.MXLAST_PASS n) s := by
  have hplain : plain (CORE.MXLAST_PASS n) := by simp only [plain, Fld.key, CORE.MXLAST_PASS]; omega
  unfold replay
  rw [getF_setF_ne, getF_setMx, getF_trace _ _ _ _ _ _ _ hplain, getF_peep _ _ _ _ _ _ hplain, getF_mxCount_ne]
  all_goals simp only [Fld.key, CORE.MXLAST_PASS, CORE.MXPASSES_COUNT, CORE.MXSTAT_PASS]; omega

/-! MMA_K_GROUP (R139, R151, R181, R186, R190). -/

/-- The beats of a K group: those of the slower of its two operands' formats (R137). -/
def groupBeats (d : Desc) : Nat := max (beatsOf (tagFmt (mmaAFMT d))) (beatsOf (tagFmt (mmaBFMT d)))

/-- The beats of a K group are counted (R179). -/
def beatsCounted (n : Nat) (e : InFlight) (s : State) : State :=
  peep 0 n 1 (groupBeats e.desc) (mxCount n (CORE.MXBEATS_COUNT n) (groupBeats e.desc) s)

theorem nothingWritten_beatsCounted (n : Nat) (e : InFlight) (s : State) : NothingWritten s (beatsCounted n e s) :=
  (nothingWritten_mxCount _ _ _ _).trans (nothingWritten_peep _ _ _ _ _)

section
variable {n : CoreNo} {r : MxRun} {e : InFlight} {s : State}

/-- The next group is added; the measurements say whether a range event came with it. -/
theorem exec_mmaKGroup {acc : List Acc} {mm : Meas} (hr : optGet s.mx n = some r) (he : flight r.id s = some e)
    (hup : matrixUp n s = true) (hstaged : getF (CORE.MXSTAT_OPWAIT n) s = 0) (hheld : r.held = none) (hmore : 32 * r.group < mmaK e.desc)
    (hgroup : groupStep n e r (if r.group = 0 then passStart n e r s else (r.accs, r.mm)) s = (acc, mm)) :
    exec (.mmaKGroup n) s = .next (
      if 0 < mm.ov ∨ 0 < mm.un then
        if r.pass < passLimit e.desc then replay n e r mm (recordLast n e r mm (beatsCounted n e s))
        else setMx n (some { r with group := r.group + 1, accs := acc, mm := mm, ranged := true })
          (recordLast n e r mm (beatsCounted n e s))
      else setMx n (some { r with group := r.group + 1, accs := acc, mm := mm, ranged := false }) (beatsCounted n e s)) := by
  change execMmaKGroup n s = _
  have hgo : (matrixUp n s && !flag (CORE.MXSTAT_OPWAIT n) s && r.held.isNone && decide (32 * r.group < mmaK e.desc)) = true := by
    simp [hup, flag, hstaged, hheld, hmore]
  simp only [execMmaKGroup, hr, he, hgo, hgroup, if_true, ← Bool.decide_or]
  by_cases hevent : 0 < mm.ov ∨ 0 < mm.un
  · by_cases hpass : r.pass < passLimit e.desc <;> simp [hevent, hpass, beatsCounted, groupBeats]
  · simp [hevent, beatsCounted, groupBeats]

end

/-! MMA_PASS_END (R139, R160, R161, R186, R190). -/

/-- An output range event: a result lies beyond the range of its format, which is none of the block formats (R186, R194). -/
def beyondRange (d : Desc) (zs : List ((Nat × Nat) × Num × Nat)) : Bool :=
  !isBlockTag (mmaDFMT d) && zs.any (fun z => zOverflows (tagFmt (mmaDFMT d)) z.2.1)

theorem beyondRange_eq_false {d : Desc} {zs : List ((Nat × Nat) × Num × Nat)}
    (h : ∀ z ∈ zs, zOverflows (tagFmt (mmaDFMT d)) z.2.1 = false) : beyondRange d zs = false := by
  have hany : zs.any (fun z => zOverflows (tagFmt (mmaDFMT d)) z.2.1) = false := by
    rw [List.any_eq_false]
    exact fun z hz => Bool.eq_false_iff.mp (h z hz)
  rw [beyondRange, hany, Bool.and_false]

theorem beyondRange_eq_true {d : Desc} {zs : List ((Nat × Nat) × Num × Nat)} (hblock : isBlockTag (mmaDFMT d) = false)
    (h : ∃ z ∈ zs, zOverflows (tagFmt (mmaDFMT d)) z.2.1 = true) : beyondRange d zs = true := by
  rw [beyondRange, hblock, List.any_eq_true.mpr h]
  rfl

section
variable {n : CoreNo} {r : MxRun} {e : InFlight} {s : State}

theorem exec_mmaPassEnd {zs : List ((Nat × Nat) × Num × Nat)} {mm : Meas} (hr : optGet s.mx n = some r) (he : flight r.id s = some e)
    (hup : matrixUp n s = true) (hz : convertTile n e r s = (zs, mm)) (hheld : r.held = none) (hlast : mmaK e.desc ≤ 32 * r.group) :
    exec (.mmaPassEnd n) s = .next (
      if beyondRange e.desc zs = true ∧ r.pass < passLimit e.desc then replay n e r mm (recordLast n e r mm s)
      else finishTile n e r zs mm s) := by
  change execMmaPassEnd n s = _
  have hgo : (matrixUp n s && r.held.isNone && decide (mmaK e.desc ≤ 32 * r.group)) = true := by simp [hup, hheld, hlast]
  simp only [execMmaPassEnd, hr, he, hgo, hz, if_true, Bool.and_eq_true, decide_eq_true_eq, beyondRange]

theorem exec_mmaPassEnd_waits (hr : optGet s.mx n = some r) (he : flight r.id s = some e)
    (h : 32 * r.group < mmaK e.desc ∨ r.held ≠ none) : exec (.mmaPassEnd n) s = .next s := by
  change execMmaPassEnd n s = _
  have hstay : ¬ (matrixUp n s && r.held.isNone && decide (mmaK e.desc ≤ 32 * r.group)) = true := by
    simp only [Bool.and_eq_true, Option.isNone_iff_eq_none, decide_eq_true_eq]
    rintro ⟨⟨-, hheld⟩, hlast⟩
    exact h.elim (Nat.not_lt.mpr hlast) (fun hne => hne hheld)
  simp only [execMmaPassEnd, hr, he, if_neg hstay]

end

/-- Settles O29: an engine goes on by its panes; a group is kept, replayed or saturated by its range event and the pass limit; a pass
end replays the tile when a result is beyond its format's range and a pass is left. -/
theorem matrixPasses : Obligations.MatrixPasses := by
  refine ⟨fun n s => ⟨_, exec_operandStaged n s, ?staged⟩, ?group, ?passEnd⟩
  case staged =>
    have hkeys : (CORE.MXSTAT_OPWAIT n).key ≠ (CORE.VXSTAT_OPWAIT n).key := by
      simp only [Fld.key, CORE.MXSTAT_OPWAIT, CORE.VXSTAT_OPWAIT]; omega
    have hmx := getF_goOn_ne (vectorStaged n s) (goOn (CORE.MXSTAT_OPWAIT n) (matrixStaged n s) s) hkeys
    rw [getF_goOn_self] at hmx
    have hvx := getF_goOn_self (CORE.VXSTAT_OPWAIT n) (vectorStaged n s) (goOn (CORE.MXSTAT_OPWAIT n) (matrixStaged n s) s)
    rw [getF_goOn_ne _ _ hkeys.symm] at hvx
    refine ⟨?_, ?_, ?_, ?_, ?_, fun r e hr he => ?_, fun r e hr he => ?_, fun hr => ?_, fun hr => ?_, fun f hf hf' => ?_⟩
    iterate 5 rw [goOn_eq, goOn_eq (CORE.MXSTAT_OPWAIT n)]
    · rw [hmx, matrixStaged, hr, runStaged_of_flight he]
    · rw [hvx, vectorStaged, hr, runStaged_of_flight he]
    · rw [hmx, matrixStaged, hr, runStaged_none, if_neg Bool.false_ne_true]
    · rw [hvx, vectorStaged, hr, runStaged_none, if_neg Bool.false_ne_true]
    · rw [getF_goOn_ne _ _ hf', getF_goOn_ne _ _ hf]
  case group =>
    intro n r e acc mm s u hr he hup hstaged hheld hmore hgroup hu
    have hexec := exec_mmaKGroup hr he hup hstaged hheld hmore hgroup
    rw [show beatsCounted n e s = u from hu.symm] at hexec
    refine ⟨fun hov hun => ?kept, fun hevent hlast => ?saturated, fun hevent hpass => ?replayed⟩
    case kept => rw [hexec, if_neg (by omega)]
    case saturated => rw [hexec, if_pos hevent, if_neg (Nat.not_lt.mpr hlast)]
    case replayed =>
      rw [hexec, if_pos hevent, if_pos hpass]
      have hbeats : NothingWritten s u := hu.symm ▸ nothingWritten_beatsCounted n e s
      have hkept : NothingWritten s (replay n e r mm (recordLast n e r mm u)) :=
        hbeats.trans ((nothingWritten_recordLast n e r mm u).trans (nothingWritten_replay n e r mm _))
      exact ⟨_, rfl, rfl, optGet_replay n e r mm _, getF_pass_replay n e r mm _,
        (getF_lastPass_replay n e r mm _).trans (getF_lastPass_recordLast n e r mm u),
        hkept.mem, hkept.copies, hkept.inflight, hkept.transom⟩
  case passEnd =>
    intro n r e zs mm s hr he hup hz
    refine ⟨fun hheld hlast hpass => ?limit, fun hheld hlast hfits => ?fits, fun hheld hlast hblock hpass hover => ?replayed,
      exec_mmaPassEnd_waits hr he⟩
    all_goals rw [exec_mmaPassEnd hr he hup hz hheld hlast]
    case limit => rw [if_neg (fun h => Nat.not_lt.mpr hpass h.2)]
    case fits => rw [if_neg (fun h => Bool.eq_false_iff.mp (beyondRange_eq_false hfits) h.1)]
    case replayed =>
      rw [if_pos ⟨beyondRange_eq_true hblock hover, hpass⟩]
      have hkept : NothingWritten s (replay n e r mm (recordLast n e r mm s)) :=
        (nothingWritten_recordLast n e r mm s).trans (nothingWritten_replay n e r mm _)
      exact ⟨_, rfl, rfl, optGet_replay n e r mm _, hkept.mem, hkept.copies, hkept.inflight, hkept.transom⟩

/-! The transom queue as it shows (R168, R233, R250, R639). -/

/-- The number that TRSTAT shows for a queue: that of its oldest tile, or the next one due on an empty queue (R250). -/
def headTile (l : List TrEntry) (next : Nat) : Nat :=
  match l with
  | [] => next
  | h :: _ => h.tile

@[simp] theorem vxCount_transom (n : Nat) (f : Fld) (e k : Nat) (s : State) : (vxCount n f e k s).transom = s.transom := by
  unfold vxCount
  split
  · rfl
  · rw [peep_eq]
    split <;> rfl

theorem getF_vxCount_ne {g f : Fld} (n e k : Nat) (s : State) (hg : plain g) (h : g.key ≠ f.key) :
    getF g (vxCount n f e k s) = getF g s := by
  unfold vxCount
  split
  · rfl
  · rw [getF_peep _ _ _ _ _ _ hg]
    split
    · exact getF_setF_ne _ _ _ _ h
    · rfl

@[simp] theorem transomFree_transom (n : Nat) (s : State) : (transomFree n s).transom = s.transom := by
  unfold transomFree
  split <;> rfl

/-- A stall of the matrix engine ends when an entry is free again (R168). -/
theorem getF_trwait_transomFree {n : Nat} {s : State} (h : getF (CORE.MXSTAT_TRWAIT n) s = 1) :
    getF (CORE.MXSTAT_TRWAIT n) (transomFree n s) = 0 := by
  rw [transomFree, if_pos (show flag (CORE.MXSTAT_TRWAIT n) s = true from decide_eq_true h)]
  exact getF_setF_self _ _ _

@[simp] theorem getF_trwait_showTransom (n k : Nat) (s : State) :
    getF (CORE.MXSTAT_TRWAIT n) (showTransom n k s) = getF (CORE.MXSTAT_TRWAIT n) s := by
  unfold showTransom
  dsimp only
  rw [getF_setF_ne, getF_setF_ne, getF_setF_ne]
  all_goals simp only [Fld.key, CORE.MXSTAT_TRWAIT, CORE.TRSTAT_PEAK, CORE.TRSTAT_FILL, CORE.TRSTAT_NEXT]; omega

/-! TRANSOM_WRITE (R165, R168, R233, R639). -/

section
variable {n : CoreNo} {r : MxRun} {e : InFlight} {bits : List Nat} {adj : Int} {s : State}

theorem exec_transomWrite (hr : optGet s.mx n = some r) (he : flight r.id s = some e) (hheld : r.held = some (bits, adj))
    (hmx : matrixUp n s = true) (hvx : vectorUp n s = true) (hhinge : (hingeOf (2 * n) (2 * n + 1) s).stalled = none)
    {p : Part} (hp : e.parts[r.part]? = some p) :
    exec (.transomWrite n) s = .next (
      if (assocGet [] s.transom n).length < 16 then
        checkEnd e.id r.part (nextTile n e { r with held := none } (setF (CORE.VXSTAT_TRWAIT n) 0
          (showTransom n (headTile (assocGet [] s.transom n) (r.tile - p.lo))
            { s with transom := assocSet [] s.transom n (assocGet [] s.transom n ++ [⟨bits, adj, r.tile - p.lo⟩]) })))
      else transomStall n s) := by
  change execTransomWrite n s = _
  have hgo : (matrixUp n s && vectorUp n s && (hingeOf (2 * n) (2 * n + 1) s).stalled.isNone) = true := by simp [hmx, hvx, hhinge]
  simp only [execTransomWrite, hr, he, hheld, hgo, hp, if_true, Option.map_some, Option.getD_some]
  rfl

end

theorem transomStall_of_stalled {n : Nat} {s : State} (h : getF (CORE.MXSTAT_TRWAIT n) s = 1) : transomStall n s = s :=
  if_pos (decide_eq_true h)

/-- A stall that begins shows in MXSTAT and owns the transom's arbiter from now on; no queue, run or descriptor changes (R168, R639). -/
theorem transomStall_of_running (n : CoreNo) {s : State} (h : getF (CORE.MXSTAT_TRWAIT n) s = 0) :
    getF (CORE.MXSTAT_TRWAIT n) (transomStall n s) = 1 ∧ getF (ARB.STAT_OWNED (724 + n)) (transomStall n s) = 1
      ∧ assocGet 0 (transomStall n s).arbStamp (724 + n) = licOf (2 * n + 1) s ∧ (transomStall n s).transom = s.transom
      ∧ (transomStall n s).mx = s.mx ∧ (transomStall n s).inflight = s.inflight := by
  unfold transomStall
  rw [if_neg (by simp [flag, h])]
  refine ⟨getF_setF_self _ _ _, ?owned, (assocGet_set_self _ _ _ _).trans ?since, rfl, rfl, rfl⟩
  case owned =>
    refine (getF_setF_ne _ _ _ _ ?_).trans (getF_setF_self _ _ _)
    simp only [Fld.key, ARB.STAT_OWNED, CORE.MXSTAT_TRWAIT]; omega
  case since =>
    unfold licOf
    rw [getF_setF_ne, getF_setF_ne, getF_setF_ne, getF_setF_ne]
    all_goals
      simp only [Fld.key, REG.LIC_COUNT, CORE.MXSTAT_TRWAIT, ARB.STAT_OWNED, ARB.STAT_PARKED, ARB.STAT_OWNER]; omega

/-! TRANSOM_CONSUME (R232, R233, R235, R236, R639). -/

/-- The results of transom tile `t` are formed: line by line along d0, or element by element (R235, R236). -/
def tileFormed (e : InFlight) (part lo : Nat) (t : TrEntry) (adj : Int) (s : State) : State :=
  if vopLine (vopOP e.desc) then
    forEach ((tilePositions e (lo + t.tile)).filter (fun x => decide (x.getD 0 0 = 0))) (fun b s =>
      stepLine e part b (e.xshape.getD 0 1) (fun _ => part)
        (fun _ x => xFromTile e t (x.getD 1 0 % 32 * 32 + x.getD 0 0 % 32)) adj s) s
  else
    forEach (tilePositions e (lo + t.tile)) (fun x s =>
      stepElem e part x (xFromTile e t (x.getD 1 0 % 32 * 32 + x.getD 0 0 % 32))
        (if vopUNADJ e.desc then canonNan 0 else t.bits.getD (x.getD 1 0 % 32 * 32 + x.getD 0 0 % 32) 0) adj s) s

/-- The entry of tile `t`, with `rest` behind it, is free again, and the tile is counted (R168, R233, R249, R639). -/
def entryFreed (n : Nat) (t : TrEntry) (rest : List TrEntry) (u : State) : State :=
  vxCount n (CORE.VXTRTILES_COUNT n) 4 1
    (showTransom n (headTile rest (t.tile + 1)) (transomFree n { u with transom := assocSet [] u.transom n rest }))

theorem assocGet_transom_entryFreed (n : Nat) (t : TrEntry) (rest : List TrEntry) (u : State) :
    assocGet [] (entryFreed n t rest u).transom n = rest := by
  have hshow : (entryFreed n t rest u).transom = (transomFree n { u with transom := assocSet [] u.transom n rest }).transom :=
    vxCount_transom _ _ _ _ _
  rw [hshow, transomFree_transom]
  exact assocGet_set_self _ _ _ _

theorem getF_trwait_entryFreed (n : CoreNo) (t : TrEntry) (rest : List TrEntry) {u : State} (h : getF (CORE.MXSTAT_TRWAIT n) u = 1) :
    getF (CORE.MXSTAT_TRWAIT n) (entryFreed n t rest u) = 0 := by
  have hplain : plain (CORE.MXSTAT_TRWAIT n) := by simp only [plain, Fld.key, CORE.MXSTAT_TRWAIT]; omega
  have hkeys : (CORE.MXSTAT_TRWAIT n).key ≠ (CORE.VXTRTILES_COUNT n).key := by
    simp only [Fld.key, CORE.MXSTAT_TRWAIT, CORE.VXTRTILES_COUNT]; omega
  rw [entryFreed, getF_vxCount_ne _ _ _ _ hplain hkeys, getF_trwait_showTransom]
  exact getF_trwait_transomFree h

section
variable {n : CoreNo} {r : VxRun} {e : InFlight} {p : Part} {s : State}

theorem transomConsume_guard (hup : vectorUp n s = true) (hstaged : getF (CORE.VXSTAT_OPWAIT n) s = 0) (hdone : r.done = false)
    (hsrc : vopXSRC e.desc = true) :
    (vectorUp n s && !flag (CORE.VXSTAT_OPWAIT n) s && !r.done && vopXSRC e.desc) = true := by simp [hup, flag, hstaged, hdone, hsrc]

theorem exec_transomConsume_empty (hr : optGet s.vx n = some r) (he : flight r.id s = some e) (hp : e.parts[r.part]? = some p)
    (hgo : (vectorUp n s && !flag (CORE.VXSTAT_OPWAIT n) s && !r.done && vopXSRC e.desc) = true) (hl : assocGet [] s.transom n = []) :
    exec (.transomConsume n) s = .next (setF (CORE.VXSTAT_TRWAIT n) 1 s) := by
  change execTransomConsume n s = _
  simp only [execTransomConsume, hr, he, hp, hgo, hl, if_true]

/-- The tile at the head is read and its entry freed; then the engine goes on to the next tile of its part, or leaves the part. -/
theorem exec_transomConsume_head {t : TrEntry} {rest : List TrEntry} {v : State} (hr : optGet s.vx n = some r)
    (he : flight r.id s = some e) (hp : e.parts[r.part]? = some p)
    (hgo : (vectorUp n s && !flag (CORE.VXSTAT_OPWAIT n) s && !r.done && vopXSRC e.desc) = true)
    (hl : assocGet [] s.transom n = t :: rest)
    (hv : v = entryFreed n t rest (tileFormed e r.part p.lo t (if vopUNADJ e.desc then 0 else t.adj) s)) :
    exec (.transomConsume n) s = .next (
      if p.lo + (r.pos + 1) < p.hi then
        setF (CORE.VXSTAT_TRWAIT n) (b2n rest.isEmpty)
          (setF (CORE.VXSTAT_OPWAIT n) (b2n (!allStaged n e.id (vxPanes e { r with pos := r.pos + 1 } v) v))
            (setVx n (some { r with pos := r.pos + 1 }) v))
      else leaveVx n { r with pos := r.pos + 1 } v) := by
  change execTransomConsume n s = _
  simp -zeta only [execTransomConsume, hr, he, hp, hgo, hl, if_true]
  extract_lets adj tile xs idx u freed shown counted
  have hcounted : counted = entryFreed n t rest u := rfl
  rw [hcounted, hv]
  rfl

end

/-- Settles O30: a tile joins the queue at its end or stalls the engine on a full one; the head is read, formed by element or by line,
and its entry freed. -/
theorem transomQueue : Obligations.TransomQueue := by
  refine ⟨?write, ?consume⟩
  case write =>
    intro n r e bits adj p s hr he hheld hmx hvx hhinge hp
    have hexec := exec_transomWrite hr he hheld hmx hvx hhinge hp
    refine ⟨fun hroom => ?enters, fun hfull hrun => ?stalls, fun hfull hstalled => ?stays⟩
    case enters =>
      rw [hexec, if_pos hroom]
      rfl
    all_goals rw [hexec, if_neg (Nat.not_lt.mpr hfull)]
    case stalls => exact ⟨_, rfl, transomStall_of_running n hrun⟩
    case stays => rw [transomStall_of_stalled hstalled]
  case consume =>
    intro n r e p s hr he hp hup hstaged hdone hsrc
    have hgo := transomConsume_guard hup hstaged hdone hsrc
    refine ⟨exec_transomConsume_empty hr he hp hgo, fun t rest u adj hl hadj helem hline => ?_⟩
    have hu : u = tileFormed e r.part p.lo t adj s := by
      cases hop : vopLine (vopOP e.desc) with
      | true => rw [tileFormed, if_pos hop, hline hop]
      | false => rw [tileFormed, if_neg (Bool.eq_false_iff.mp hop), helem hop]
    have hexec := exec_transomConsume_head (v := entryFreed n t rest u) hr he hp hgo hl (by rw [hu, hadj])
    refine ⟨entryFreed n t rest u, rfl, assocGet_transom_entryFreed n t rest u, getF_trwait_entryFreed n t rest,
      fun hmore => ?next, fun hlast => ?leaves⟩
    case next => rw [hexec, if_pos hmore]
    case leaves => rw [hexec, if_neg (Nat.not_lt.mpr hlast)]

end Sys2Proof.Machine

namespace Sys2Proof.Machine

/-! PROOFS. The arithmetic of the vector engine: addition and multiplication commute, and zero times an infinity in a given format. -/

/-! Addition and multiplication before their rounding (R219). -/

theorem addFin_comm (z : Bool) (a b : Num) : addFin z a b = addFin z b a := by
  unfold addFin
  cases ha : a.isZero <;> cases hb : b.isZero
  case true.true =>
    by_cases hsign : a.neg = b.neg
    · simp [hsign]
    · simp [hsign, Ne.symm hsign]
  case false.false =>
    simp only [min_comm a.expo, add_comm (a.toInt _)]
    rfl
  all_goals rfl

theorem mulFin_comm (a b : Num) : mulFin a b = mulFin b a := by
  cases a <;> cases b
  case fin.fin n m e n' m' e' => simp only [mulFin, bne_comm (a := n), Nat.mul_comm m, Int.add_comm e]
  all_goals rfl

theorem addX_comm (rm : Rm) (x y : Num) : addX rm x y = addX rm y x := by
  cases x <;> cases y
  case inf.inf n n' => cases n <;> cases n' <;> rfl
  case fin.fin n m e n' m' e' => exact congrArg (·, 0) (addFin_comm _ _ _)
  all_goals rfl

theorem mulX_comm (x y : Num) : mulX x y = mulX y x := by
  cases x <;> cases y
  case inf.inf n n' => cases n <;> cases n' <;> rfl
  case inf.fin n _ _ _ | fin.inf n _ _ _ => simp [mulX, Num.isNan, Num.isInf, Num.isZero, Num.neg, bne_comm (a := n)]
  case fin.fin n m e n' m' e' => simpa [mulX, Num.isNan, Num.isInf] using mulFin_comm (.fin n m e) (.fin n' m' e')
  all_goals rfl

/-- Settles O27: the exact sum and the exact product are symmetric, special values included, and each is rounded once. -/
theorem addAndMulCommute : Obligations.AddAndMulCommute :=
  fun wp rm flush x y =>
    ⟨congrArg (rounded wp rm flush) (addX_comm rm x y), congrArg (rounded wp rm flush) (mulX_comm x y)⟩

/-! Zero times an infinity: a NaN that is encoded in the format `wp` and decoded again (R215, R219). -/

theorem vMul_zero_inf (wp : Nat) (rm : Rm) (flush n n' : Bool) (e : Int) :
    (vMul wp rm flush (.fin n 0 e) (.inf n')).1 = (decodeBits wp 127 (canonNan wp)).num := rfl

/-- In the working precisions, binary32 and binary64, the canonical NaN is a NaN (R123, R214). -/
theorem vMul_zero_inf_eq_nan {wp : Nat} (h : wp = 0 ∨ wp = 1) (rm : Rm) (flush n n' : Bool) (e : Int) :
    (vMul wp rm flush (.fin n 0 e) (.inf n')).1 = .nan := by
  rw [vMul_zero_inf]
  rcases h with rfl | rfl <;> decide

/-- No pattern of a GB8 element is a NaN: a NaN is a whole poisoned block (R111, R123). -/
theorem decodeBits_canonNan_gb8 : (decodeBits fmtGB8 127 (canonNan fmtGB8)).num = .zero false := by decide

/-- Refutes O28: `wp` ranges over every number, and in GB8, which is no working precision of R214, zero times an infinity is encoded
as 0 and reads as +0. -/
theorem not_specialResults : ¬ Obligations.SpecialResults := by
  intro h
  obtain ⟨-, -, -, -, hmul, -⟩ := h fmtGB8 .rne false .nan .nan .nan false
  have hnan : (vMul fmtGB8 .rne false (.fin false 0 0) (.inf false)).1 = .nan := (hmul false false 0).1
  rw [vMul_zero_inf, decodeBits_canonNan_gb8] at hnan
  cases hnan

end Sys2Proof.Machine

namespace Sys2Proof.Machine

/-! PROOFS. The taking of the descriptors of the operation table, row by row. -/

section
variable {q : QueueNo} {op : Nat} {d : Desc} {k : InFlight → State → State} {s : State} {c : Instr}

/-- A row whose command takes the descriptor with opcode `op` written into it: its own opcode is that of the queue's taking (R565, R569). -/
theorem exec_taken_withOpcode (h : Takes q op s) (harm : exec c s = .next (takeRing q (withOpcode op d) k s))
    (hop : op < 256 := by decide) : exec c s = .next (taken q (withOpcode op d) k s) := by
  have hd : dOpcode (withOpcode op d) = op := (dOpcode_withOpcode op d).trans (Nat.mod_eq_of_lt hop)
  rw [harm, takeRing_of_takes h hd]

/-- A row of the vector engine: the operation in the descriptor leaves the opcode 2 of a VOP (R218, R570). -/
theorem exec_taken_vopDesc (h : Takes q 2 s) (harm : exec c s = .next (takeRing q (vopDesc op d) k s)) :
    exec c s = .next (taken q (vopDesc op d) k s) := by
  have hd : dOpcode (vopDesc op d) = 2 := (dOpcode_dput _ 0x2C 0 8 op (by decide)).trans (dOpcode_withOpcode 2 d)
  rw [harm, takeRing_of_takes h hd]

end

/-- Settles O19: every row's command takes its descriptor with the opcode of the row written into it, and a queue that may take that
opcode takes it. -/
theorem descriptorsAreTaken : Obligations.DescriptorsAreTaken := by
  refine ⟨?elements, ?transcendental, ?lines, ?others, ?coll⟩
  case elements | transcendental | lines =>
    intro q d s h
    and_intros
    all_goals exact exec_taken_vopDesc h rfl
  case others =>
    intro q d s
    refine ⟨fun h => ?mma, fun h => ?move, fun h => ?sweep, fun h => ?chkp, fun h => ?digest, fun h => ?comp, fun h => ?wait,
      fun h => ?signal⟩
    all_goals
      and_intros
      all_goals exact exec_taken_withOpcode h rfl
  case coll =>
    intro q d s h
    and_intros
    all_goals exact exec_taken_withOpcode h rfl

end Sys2Proof.Machine

namespace Sys2Proof.Machine

/-! PROOFS. The vector engine's steps, its encoder, and the engine counters. -/

/-! Forming results leaves the image, and with it the tensor table that the lines' lengths come from. -/

@[simp] theorem orPart_image (id p st f k : Nat) (s : State) : (orPart id p st f k s).image = s.image := rfl

/-- Counting in the vector engine changes register fields alone. -/
theorem vxCount_eq (n : Nat) (f : Fld) (e k : Nat) (s : State) : vxCount n f e k s = { s with flds := (vxCount n f e k s).flds } := by
  unfold vxCount addF
  split
  · rfl
  · rw [peep_eq]
    split <;> rfl

@[simp] theorem vxCount_image (n : Nat) (f : Fld) (e k : Nat) (s : State) : (vxCount n f e k s).image = s.image := by rw [vxCount_eq]
@[simp] theorem vxCount_inflight (n : Nat) (f : Fld) (e k : Nat) (s : State) : (vxCount n f e k s).inflight = s.inflight := by
  rw [vxCount_eq]

@[simp] theorem upsertCopy_image (core owner h pane : Nat) (f : WorkCopy → WorkCopy) (s : State) :
    (upsertCopy core owner h pane f s).image = s.image := by
  unfold upsertCopy
  dsimp only
  split <;> rfl

@[simp] theorem putTadj_image (core owner : Nat) (root : Tensor) (pane : Nat) (y : List Nat) (adj : Int) (s : State) :
    (putTadj core owner root pane y adj s).image = s.image := by
  unfold putTadj
  split
  · rfl
  · exact upsertCopy_image _ _ _ _ _ _

@[simp] theorem putElem_image (core owner : Nat) (t root : Tensor) (x : List Nat) (bits : Nat) (adj : Int) (poison : Bool) (s : State) :
    (putElem core owner t root x bits adj poison s).image = s.image := by
  unfold putElem putPoison putSpan
  dsimp only
  split <;> simp

@[simp] theorem offerEnc_image (core dest id part : Nat) (root : Tensor) (x : List Nat) (v : Num) (poison : Bool) (adj : Int) (s : State) :
    (offerEnc core dest id part root x v poison adj s).image = s.image := by
  unfold offerEnc
  dsimp only
  split <;> rfl

@[simp] theorem putResult_image (core dest id part : Nat) (t root : Tensor) (x : List Nat) (v : Num) (bits : Nat) (adj : Int)
    (poison : Bool) (s : State) : (putResult core dest id part t root x v bits adj poison s).image = s.image := by
  unfold putResult
  split <;> simp

@[simp] theorem writeD_image (e : InFlight) (p : Nat) (x : List Nat) (v : Num) (bits : Nat) (poison : Bool) (adj : Int) (s : State) :
    (writeD e p x v bits poison adj s).image = s.image := by
  unfold writeD
  dsimp only
  split <;> simp

@[simp] theorem writeFill_image (e : InFlight) (p : Nat) (x : List Nat) (adj : Int) (s : State) :
    (writeFill e p x adj s).image = s.image := by
  unfold writeFill keepD
  split
  · exact writeD_image _ _ _ _ _ _ _ _
  · rw [vxCount_image]
    split <;> simp

@[simp] theorem countTrans_image (e : InFlight) (p nt : Nat) (present : List Nat) (partOf : Nat → Nat) (s : State) :
    (countTrans e p nt present partOf s).image = s.image := by
  unfold countTrans
  dsimp only
  split
  · rw [vxCount_image]
    exact forEach_keep _ _ _ _ (fun _ _ _ => vxCount_image _ _ _ _ _)
  · exact vxCount_image _ _ _ _ _

@[simp] theorem forEach_orPart_image {α : Type} (l : List α) (id : Nat) (part st flags : α → Nat) (s : State) :
    (forEach l (fun x s => orPart id (part x) (st x) (flags x) 0 s) s).image = s.image :=
  forEach_keep State.image _ _ _ (fun _ _ _ => rfl)

theorem stepLine_image (e : InFlight) (p : Nat) (base : List Nat) (len : Nat) (partOf : Nat → Nat)
    (xAt : Nat → List Nat → Num × Nat × Bool) (adj : Int) (s : State) : (stepLine e p base len partOf xAt adj s).image = s.image := by
  unfold stepLine
  dsimp only
  split
  · simp [apply_ite State.image]
  · refine (forEach_keep State.image _ _ _ (fun r _ s => ?_)).trans ?_
    · split <;> simp
    · simp [apply_ite State.image]

/-- Two folds agree whose steps agree in every state that the fold can reach. -/
theorem forEach_congr_of_keep {α : Type} {f g : α → State → State} (P : State → Prop) (l : List α) {s : State} (hs : P s)
    (hkeep : ∀ x s, P s → P (f x s)) (hstep : ∀ x s, P s → f x s = g x s) : forEach l f s = forEach l g s := by
  induction l generalizing s with
  | nil => rfl
  | cons x t ih => rw [forEach_cons, forEach_cons, ← hstep x s hs, ih (hkeep x s hs)]

/-! VECTOR_STEP (R208, R212, R239). -/

/-- The length of an operation's lines (R222). -/
def lineLength (e : InFlight) (s : State) : Nat := (vopRef e s).getD (vopAXIS e.desc) 1

theorem lineLength_of_image {s t : State} (e : InFlight) (h : t.image = s.image) : lineLength e t = lineLength e s := by
  simp only [lineLength, vopRef, tensorAt, tensorOf, h]

/-- The first positions of the lines, `len` long, that have their last position in vector `pos` of a part. -/
def lineEnds (e : InFlight) (p : Part) (pos len : Nat) (s : State) : List (List Nat) :=
  ((vecPositions e p pos s).filter (fun x => decide (x.getD (vopAXIS e.desc) 0 + 1 = len))).map (fun x =>
    (indexFrom 0 x).map (fun c => if c.1 = vopAXIS e.desc then 0 else c.2))

/-- The line at `b` is carried out on X's elements as its handle holds them. -/
def lineFormed (n : Nat) (r : VxRun) (e : InFlight) (len : Nat) (b : List Nat) (s : State) : State :=
  stepLine e r.part b len (fun _ => r.part) (fun _ x => (xFromHandle n e x s).1) 0 s

/-- What the next vector of a part leaves: its results element by element, or line by line where a line has its last position in the vector;
a spread operation has only read it (R208, R212, R239). -/
def vectorFormed (n : Nat) (r : VxRun) (e : InFlight) (p : Part) (s : State) : State :=
  if !vopLine (vopOP e.desc) then
    forEach (vecPositions e p r.pos s) (fun x s => stepElem e r.part x (xFromHandle n e x s).1 (xFromHandle n e x s).2 0 s)
      (peep 1 n 1 1 s)
  else if vopSpread e then peep 1 n 1 1 s
  else
    forEach (lineEnds e p r.pos (lineLength e (peep 1 n 1 1 s)) s) (lineFormed n r e (lineLength e (peep 1 n 1 1 s))) (peep 1 n 1 1 s)

section
variable {n : Nat} {r : VxRun} {e : InFlight} {p : Part} {s : State}

theorem vectorFormed_of_elements (h : vopLine (vopOP e.desc) = false) :
    vectorFormed n r e p s = forEach (vecPositions e p r.pos s)
      (fun x s => stepElem e r.part x (xFromHandle n e x s).1 (xFromHandle n e x s).2 0 s) (peep 1 n 1 1 s) := by
  simp only [vectorFormed, h, Bool.not_false, if_true]

theorem vectorFormed_of_spread (h : vopLine (vopOP e.desc) = true) (hsp : vopSpread e = true) :
    vectorFormed n r e p s = peep 1 n 1 1 s := by
  simp only [vectorFormed, h, hsp, Bool.not_true, Bool.false_eq_true, if_false, if_true]

/-- The lines have one length, taken before the first of them or as each begins: none of them changes the image. -/
theorem vectorFormed_of_lines (h : vopLine (vopOP e.desc) = true) (hsp : vopSpread e = false) :
    vectorFormed n r e p s = forEach (lineEnds e p r.pos (lineLength e (peep 1 n 1 1 s)) s)
      (fun b t => lineFormed n r e (lineLength e (peep 1 n 1 1 t)) b t) (peep 1 n 1 1 s) := by
  simp only [vectorFormed, h, hsp, Bool.not_true, Bool.false_eq_true, if_false]
  refine forEach_congr_of_keep (fun t => t.image = s.image) _ (peep_image 1 n 1 1 s) (fun b t ht => ?keeps) (fun b t ht => ?same)
  case keeps => exact (stepLine_image ..).trans ht
  case same =>
    have hlen : lineLength e (peep 1 n 1 1 t) = lineLength e (peep 1 n 1 1 s) :=
      lineLength_of_image e (by rw [peep_image, peep_image, ht])
    rw [hlen]

end

/-- The engine has walked its part of a spread operation: the operation is carried out when every part has been walked (R239). -/
def spreadWalked (e : InFlight) (part : Nat) (v : State) : State :=
  if (List.range e.parts.length).all (fun q => partWalked e q v) then completeSpread e part v else v

theorem spreadWalked_of_all {e : InFlight} {v : State} (part : Nat) (h : ∀ q, q < e.parts.length → partWalked e q v = true) :
    spreadWalked e part v = completeSpread e part v :=
  if_pos (List.all_eq_true.mpr (fun q hq => h q (List.mem_range.mp hq)))

theorem spreadWalked_of_missing {e : InFlight} {v : State} (part : Nat) (h : ∃ q, q < e.parts.length ∧ partWalked e q v = false) :
    spreadWalked e part v = v := by
  obtain ⟨q, hq, hwalked⟩ := h
  refine if_neg (fun hall => ?_)
  rw [List.all_eq_true.mp hall q (List.mem_range.mpr hq)] at hwalked
  cases hwalked

section
variable {n : CoreNo} {r : VxRun} {e : InFlight} {p : Part} {s : State}

theorem exec_vectorStep (hr : optGet s.vx n = some r) (he : flight r.id s = some e) (hp : e.parts[r.part]? = some p)
    (hup : vectorUp n s = true) (hdone : r.done = false) (hstaged : getF (CORE.VXSTAT_OPWAIT n) s = 0) (hsrc : vopXSRC e.desc = false)
    {u : State} (hu : u = vectorFormed n r e p s) :
    exec (.vectorStep n) s = .next (
      if r.pos + 1 < vecTotal e p u then
        setF (CORE.VXSTAT_OPWAIT n) (b2n (!allStaged n e.id (vxPanes e { r with pos := r.pos + 1 } u) u))
          (setVx n (some { r with pos := r.pos + 1 }) u)
      else if vopSpread e then spreadWalked e r.part (setVx n (some { r with pos := r.pos + 1, done := true }) u)
      else leaveVx n { r with pos := r.pos + 1 } u) := by
  change execVectorStep n s = _
  have hgo : (vectorUp n s && !flag (CORE.VXSTAT_OPWAIT n) s && !r.done && !vopXSRC e.desc) = true := by
    simp [hup, flag, hstaged, hdone, hsrc]
  simp -zeta only [execVectorStep, hr, he, hp, hgo, if_true]
  rw [hu]
  rfl

theorem exec_vectorStep_waits (hr : optGet s.vx n = some r) (he : flight r.id s = some e) (hp : e.parts[r.part]? = some p)
    (h : getF (CORE.VXSTAT_OPWAIT n) s = 1 ∨ vopXSRC e.desc = true) : exec (.vectorStep n) s = .next s := by
  change execVectorStep n s = _
  have hstay : ¬ (vectorUp n s && !flag (CORE.VXSTAT_OPWAIT n) s && !r.done && !vopXSRC e.desc) = true := by
    rcases h with hwait | hsrc
    · simp [flag, hwait]
    · simp [hsrc]
  simp only [execVectorStep, hr, he, hp, if_neg hstay]

end

/-! BLOCK_ENCODE (R133, R183, R184). -/

section
variable {n : CoreNo} {b : EncBlk} {e : InFlight} {s : State}

/-- The block that has left the encoder has been written, and its part has the status and flags of its encoding (R183, R240). -/
def blockWritten (n : Nat) (e : InFlight) (b : EncBlk) (sc f : Nat) (es : List Nat) (s : State) : State :=
  orPart e.id b.part (if (encValues b).any (fun v => v.2.1) then stPoisonRead else 0) f 0
    (putBlock n e.id (tensorAt b.handle s) b.first sc (es.zip ((encValues b).map (fun v => v.2.2)))
      ((encValues b).any (fun v => v.2.1)) (encDrop b s))

theorem exec_blockEncode_vop {sc f : Nat} {es : List Nat} (hb : encReady n s = some b) (he : flight b.id s = some e)
    (hop : e.opcode ≠ 1) (hup : vectorUp n s = true)
    (henc : encodeBlock (tagFmt (tensorAt b.handle s).fmt) (vopVFLUSH e.desc) ((encValues b).map (fun v => v.1)) = (sc, es, f)) :
    exec (.blockEncode n) s = .next (checkEnd e.id b.part (blockWritten n e b sc f es s)) := by
  change execBlockEncode n s = _
  simp [execBlockEncode, hb, he, hop, hup, henc, blockWritten]

theorem exec_blockEncode_mma {sc f : Nat} {es : List Nat} (hb : encReady n s = some b) (he : flight b.id s = some e)
    (hop : e.opcode = 1) (hup : matrixUp n s = true)
    (henc : encodeBlock (tagFmt (tensorAt b.handle s).fmt) (mmaOFLUSH e.desc) ((encValues b).map (fun v => v.1)) = (sc, es, f)) :
    exec (.blockEncode n) s = .next (checkEnd e.id b.part (setSticky (mxSticky n) f (blockWritten n e b sc f es s))) := by
  change execBlockEncode n s = _
  simp [execBlockEncode, hb, he, hop, hup, henc, blockWritten]

theorem exec_blockEncode_none (h : encReady n s = none) : exec (.blockEncode n) s = .next s := by
  change execBlockEncode n s = _
  simp only [execBlockEncode, h]

end

/-! SEAM_CONTRIBUTION (R237). -/

/-- The encoder's entry of core `b.dest` for the block of `b`. -/
def seamEntry (b x : EncBlk) : Bool :=
  decide (x.core = b.dest) && decide (x.dest = b.dest) && decide (x.id = b.id) && decide (x.handle = b.handle) && decide (x.first = b.first)

theorem seamEntry_iff (b x : EncBlk) :
    seamEntry b x = true ↔ x.core = b.dest ∧ x.dest = b.dest ∧ x.id = b.id ∧ x.handle = b.handle ∧ x.first = b.first := by
  simp [seamEntry, and_assoc]

/-- The values of `b` have joined those of the same block at its own core, or stand there as a block of their own (R237). -/
def seamJoined (b : EncBlk) (s : State) : State :=
  if s.encs.any (seamEntry b) then { s with encs := updateWhere (seamEntry b) (fun x => { x with got := x.got ++ b.got }) s.encs }
  else { s with encs := s.encs ++ [{ b with core := b.dest }] }

/-- An engine that waited for these values alone leaves its part (R237). -/
def seamLeft (b : EncBlk) (w : State) : State :=
  match optGet w.vx b.dest with
  | some r => if r.done && decide (r.id = b.id) then leaveVx b.dest r w else w
  | none => w

theorem seamJoined_inflight (b : EncBlk) (s : State) : (seamJoined b s).inflight = s.inflight := by
  unfold seamJoined
  split <;> rfl

theorem exec_seamContribution {n : CoreNo} {b : EncBlk} {e : InFlight} {p : Part} {s v : State}
    (hb : s.encs.find? (fun b => decide (b.core = n.val) && decide (b.dest ≠ n.val)) = some b) (he : flight b.id s = some e)
    (hp : e.parts[b.part]? = some p) (hrun : p.st = .running) (hup : vectorUp n s = true) (hdest : vectorUp b.dest s = true)
    (hv : v = seamJoined b (vxCount b.dest (CORE.VXELEMS_COUNT b.dest) 2 b.got.length (encDrop b s))) :
    exec (.seamContribution n) s
      = .next (seamLeft b (checkEnd b.id (e.parts.findIdx (fun p => decide (p.core = n.val))) v)) := by
  change execSeamContribution n s = _
  have hflight : flight b.id v = some e := by
    rw [hv, flight, seamJoined_inflight, vxCount_inflight]
    exact he
  have hgo : (vectorUp n s && vectorUp b.dest s) = true := by simp [hup, hdest]
  simp -zeta only [execSeamContribution, hb, he, hp, Option.bind_some, hrun, hgo]
  extract_lets gone is counted joined left
  have hjoined : joined = v := hv.symm
  have hleft : left = checkEnd b.id (e.parts.findIdx (fun p => decide (p.core = n.val))) v := by
    simp only [left, hjoined, hflight]
  have hgone : ¬ gone = true := by simp [gone]
  rw [if_neg hgone, if_pos trivial, hleft]
  rfl

theorem eq_seamJoined {b : EncBlk} {u v : State} (same : EncBlk → Bool)
    (hsame : ∀ x, same x = true ↔ x.core = b.dest ∧ x.dest = b.dest ∧ x.id = b.id ∧ x.handle = b.handle ∧ x.first = b.first)
    (hjoins : (∃ x ∈ u.encs, same x = true) →
      v = { u with encs := u.encs.map (fun x => if same x = true then { x with got := x.got ++ b.got } else x) })
    (hstands : (∀ x ∈ u.encs, same x = false) → v = { u with encs := u.encs ++ [{ b with core := b.dest }] }) :
    v = seamJoined b u := by
  obtain rfl : same = seamEntry b := funext (fun x => Bool.eq_iff_iff.mpr ((hsame x).trans (seamEntry_iff b x).symm))
  cases hany : u.encs.any (seamEntry b) with
  | true => rw [seamJoined, if_pos hany, hjoins (List.any_eq_true.mp hany)]; rfl
  | false =>
    rw [seamJoined, if_neg (Bool.eq_false_iff.mp hany)]
    exact hstands (fun x hx => Bool.eq_false_iff.mpr (List.any_eq_false.mp hany x hx))

theorem seamLeft_of_idle {b : EncBlk} {w : State} (h : optGet w.vx b.dest = none) : seamLeft b w = w := by
  simp only [seamLeft, h]

theorem seamLeft_of_done {b : EncBlk} {w : State} {r : VxRun} (h : optGet w.vx b.dest = some r) (hdone : r.done = true)
    (hid : r.id = b.id) : seamLeft b w = leaveVx b.dest r w := by
  simp [seamLeft, h, hdone, hid]

theorem seamLeft_of_busy {b : EncBlk} {w : State} {r : VxRun} (h : optGet w.vx b.dest = some r)
    (hbusy : r.done = false ∨ r.id ≠ b.id) : seamLeft b w = w := by
  have hstay : ¬ (r.done && decide (r.id = b.id)) = true := by
    rcases hbusy with hdone | hid
    · simp [hdone]
    · simp [hid]
  simp only [seamLeft, h, if_neg hstay]

/-- Settles O31: a vector is formed by element, by line, or left to the last part of a spread operation; a whole block is encoded and
written; a core's values for another core's block join it there; and the counters that the host clears read zero. -/
theorem vectorEngine : Obligations.VectorEngine := by
  refine ⟨?step, ⟨?encode, fun n s => exec_blockEncode_none, ?seam⟩, ?clear⟩
  case step =>
    intro n r e p s u hr he hp hup hdone helem hspread hline
    have hu : u = vectorFormed n r e p s := by
      cases hop : vopLine (vopOP e.desc) with
      | false => exact (helem hop).trans (vectorFormed_of_elements hop).symm
      | true =>
        cases hsp : vopSpread e with
        | true => exact (hspread hop hsp).trans (vectorFormed_of_spread hop hsp).symm
        | false => exact (hline hop hsp).trans (vectorFormed_of_lines hop hsp).symm
    refine ⟨exec_vectorStep_waits hr he hp, fun hstaged hsrc hmore => ?next, fun hstaged hsrc hlast => ?last⟩
    all_goals have hexec := exec_vectorStep hr he hp hup hdone hstaged hsrc hu
    case next => rw [hexec, if_pos hmore]
    case last =>
      rw [if_neg (Nat.not_lt.mpr hlast)] at hexec
      refine ⟨fun hsp => ?leaves, fun hsp v hv => ⟨fun hall => ?completes, fun hmissing => ?walks⟩⟩
      case leaves => rw [hexec, if_neg (Bool.eq_false_iff.mp hsp)]
      all_goals rw [hexec, if_pos hsp, ← hv]
      case completes => rw [spreadWalked_of_all _ hall]
      case walks => rw [spreadWalked_of_missing _ hmissing]
  case encode =>
    intro n b e sc f st es s hb he hst
    subst hst
    exact ⟨exec_blockEncode_vop hb he, exec_blockEncode_mma hb he⟩
  case seam =>
    intro n b e p s u v w same hb he hp hrun hup hdest hsame hu hjoins hstands hw
    have hv : v = seamJoined b u := eq_seamJoined same hsame hjoins hstands
    have hexec := exec_seamContribution hb he hp hrun hup hdest (hu ▸ hv)
    rw [← hw] at hexec
    exact ⟨fun hidle => by rw [hexec, seamLeft_of_idle hidle], fun r hr =>
      ⟨fun hdone hid => by rw [hexec, seamLeft_of_done hr hdone hid], fun hbusy => by rw [hexec, seamLeft_of_busy hr hbusy]⟩⟩
  case clear =>
    exact fun n s h => ⟨congrArg _ (hostWrite_of_served _ h), congrArg _ (hostWrite_of_served _ h)⟩

end Sys2Proof.Machine

namespace Sys2Proof.Machine

/-! PROOFS. The tensor-metadata read (R298 to R300): what MQ_READ_METADATA and MQ_READ_PLACEMENT answer in each case. That MQDATA
reads zeros after an ERR other than 0 is the model's choice (log 267). -/

section
variable {s u : State} {t : Tensor}

theorem exec_mqReadMetadata_of_no_tensor (h : Served .late s) (hu : u = setF TIER.MQCMD_OP 0 s) (hroot : mqRoot u = none) :
    exec .mqReadMetadata s = .next (setMqdata [] (setF TIER.MQCMD_ERR 1 u)) := by
  change execMqReadMetadata s = _
  simp only [execMqReadMetadata, hostWrite_of_served _ h, ← hu, hroot]

theorem exec_mqReadMetadata_of_no_pane (h : Served .late s) (hu : u = setF TIER.MQCMD_OP 0 s) (hroot : mqRoot u = some t)
    (hpane : paneCount t ≤ getF TIER.MQPANE_PANE u ∨ localPane t (getF TIER.MQPANE_PANE u) u = false) :
    exec .mqReadMetadata s = .next (setMqdata [] (setF TIER.MQCMD_ERR 2 u)) := by
  change execMqReadMetadata s = _
  have hbad : (decide (paneCount t ≤ getF TIER.MQPANE_PANE u) || !localPane t (getF TIER.MQPANE_PANE u) u) = true := by
    simpa using hpane
  simp only [execMqReadMetadata, hostWrite_of_served _ h, ← hu, hroot, if_pos hbad]

/-- A pane of the tensor that this device holds in a slot is read where its unit is OPEN, and gives ERR 3 where it is not (R300). -/
theorem exec_mqReadMetadata_of_placed {l : PaneLoc} (h : Served .late s) (hu : u = setF TIER.MQCMD_OP 0 s) (hroot : mqRoot u = some t)
    (hpane : getF TIER.MQPANE_PANE u < paneCount t) (hlocal : localPane t (getF TIER.MQPANE_PANE u) u = true)
    (hloc : paneLoc t.handle (getF TIER.MQPANE_PANE u) u = some l) :
    exec .mqReadMetadata s = .next (if unitOpen l.unit u
      then setMqdata (wordsOf 256 (paneMeta t (getF TIER.MQPANE_PANE u) (some l) u)) (setF TIER.MQCMD_ERR 0 u)
      else setMqdata [] (setF TIER.MQCMD_ERR 3 u)) := by
  change execMqReadMetadata s = _
  have hgood : ¬ (decide (paneCount t ≤ getF TIER.MQPANE_PANE u) || !localPane t (getF TIER.MQPANE_PANE u) u) = true := by
    simp [hpane, hlocal]
  simp only [execMqReadMetadata, hostWrite_of_served _ h, ← hu, hroot, if_neg hgood, hloc]
  cases unitOpen l.unit u <;> rfl

theorem exec_mqReadPlacement_of_no_tensor (h : Served .late s) (hu : u = setF TIER.MQCMD_OP 1 s) (hroot : mqRoot u = none) :
    exec .mqReadPlacement s = .next (setMqdata [] (setF TIER.MQCMD_ERR 1 u)) := by
  change execMqReadPlacement s = _
  simp only [execMqReadPlacement, hostWrite_of_served _ h, ← hu, hroot]

theorem exec_mqReadPlacement_of_tensor (h : Served .late s) (hu : u = setF TIER.MQCMD_OP 1 s) (hroot : mqRoot u = some t) :
    exec .mqReadPlacement s = .next (setMqdata [(homeOf t u).getD 3, localCount t u, panesIn t 0 u, panesIn t 1 u, panesIn t 2 u,
      ((stripeSet 0 t.owner u).map (fun c => 2 ^ c)).sum, t.owner] (setF TIER.MQCMD_ERR 0 u)) := by
  change execMqReadPlacement s = _
  simp only [execMqReadPlacement, hostWrite_of_served _ h, ← hu, hroot]

end

/-- Settles O33: a served command answers by the tensor that MQHANDLE names, then by the pane, then by the state of the pane's unit. -/
theorem metadataReads : Obligations.MetadataReads := by
  intro s u v h hu hv
  refine ⟨exec_mqReadMetadata_of_no_tensor h hu, fun _ => exec_mqReadMetadata_of_no_pane h hu, fun t l hroot hpane hlocal hloc => ?placed,
    exec_mqReadPlacement_of_no_tensor h hv, fun _ => exec_mqReadPlacement_of_tensor h hv⟩
  case placed =>
    have hexec := exec_mqReadMetadata_of_placed h hu hroot hpane hlocal hloc
    exact ⟨fun hshut => by rw [hexec, if_neg (Bool.eq_false_iff.mp hshut)], fun hopen => by rw [hexec, if_pos hopen]⟩

end Sys2Proof.Machine

namespace Sys2Proof.Machine

/-! PROOFS. The memory stays in its canonical form. -/

/-- No command breaks the canonical form of the memory. -/
theorem mem_exec (c : Instr) {s t : State} (hs : MemOk s) (ht : exec c s = .next t) : MemOk t := by
  cases c with
  | registerWrite => exact mem_execRegisterWrite _ _ _ hs _ ht
  | registerAccessInvalid isWrite off size value => exact mem_execRegisterAccessInvalid isWrite off size value hs _ ht
  | registerReadLowerHalf => exact mem_execRegisterReadLowerHalf _ hs _ ht
  | configRequest => exact mem_execConfigRequest _ hs _ ht
  | licTick => exact mem_execLicTick _ _ hs _ ht
  | calibrationWindowEnd => exact mem_execCalibrationWindowEnd hs _ ht
  | licctlCal => exact mem_execLicctlCal _ hs _ ht
  | calibrationTimeout => exact mem_execCalibrationTimeout _ hs _ ht
  | vsetWrite => exact mem_execVsetWrite _ _ hs _ ht
  | regulatorStep => exact mem_execRegulatorStep _ hs _ ht
  | monitorMeasure => exact mem_execMonitorMeasure _ _ _ _ _ hs _ ht
  | louvreRelease => exact mem_execLouvreRelease _ hs _ ht
  | hingeStallTimeout => exact mem_execHingeStallTimeout _ _ hs _ ht
  | hingeTransfer => exact mem_execHingeTransfer _ _ _ _ _ hs _ ht
  | rstctlReset => exact mem_execRstctlReset _ hs _ ht
  | invalidOpcode => exact mem_execInvalidOpcode _ _ hs _ ht
  | mma => exact mem_execMma _ _ hs _ ht
  | operandStaged => exact mem_execOperandStaged _ hs _ ht
  | mmaKGroup => exact mem_execMmaKGroup _ hs _ ht
  | mmaPassEnd => exact mem_execMmaPassEnd _ hs _ ht
  | transomWrite => exact mem_execTransomWrite _ hs _ ht
  | transomConsume => exact mem_execTransomConsume _ hs _ ht
  | blockEncode => exact mem_execBlockEncode _ hs _ ht
  | seamContribution => exact mem_execSeamContribution _ hs _ ht
  | mxctlCntclr => exact mem_execMxctlCntclr _ hs _ ht
  | vectorStep => exact mem_execVectorStep _ hs _ ht
  | vopCopy => exact mem_execVopCopy _ _ hs _ ht
  | vopNeg => exact mem_execVopNeg _ _ hs _ ht
  | vopAbs => exact mem_execVopAbs _ _ hs _ ht
  | vopCopysign => exact mem_execVopCopysign _ _ hs _ ht
  | vopCvt => exact mem_execVopCvt _ _ hs _ ht
  | vopAdd => exact mem_execVopAdd _ _ hs _ ht
  | vopSub => exact mem_execVopSub _ _ hs _ ht
  | vopMul => exact mem_execVopMul _ _ hs _ ht
  | vopFma => exact mem_execVopFma _ _ hs _ ht
  | vopDiv => exact mem_execVopDiv _ _ hs _ ht
  | vopSqrt => exact mem_execVopSqrt _ _ hs _ ht
  | vopMin => exact mem_execVopMin _ _ hs _ ht
  | vopMax => exact mem_execVopMax _ _ hs _ ht
  | vopAffine => exact mem_execVopAffine _ _ hs _ ht
  | vopRelu => exact mem_execVopRelu _ _ hs _ ht
  | vopExp => exact mem_execVopExp _ _ hs _ ht
  | vopExp2 => exact mem_execVopExp2 _ _ hs _ ht
  | vopLog => exact mem_execVopLog _ _ hs _ ht
  | vopLog2 => exact mem_execVopLog2 _ _ hs _ ht
  | vopRcp => exact mem_execVopRcp _ _ hs _ ht
  | vopRsqrt => exact mem_execVopRsqrt _ _ hs _ ht
  | vopSin => exact mem_execVopSin _ _ hs _ ht
  | vopCos => exact mem_execVopCos _ _ hs _ ht
  | vopTanh => exact mem_execVopTanh _ _ hs _ ht
  | vopSigmoid => exact mem_execVopSigmoid _ _ hs _ ht
  | vopErf => exact mem_execVopErf _ _ hs _ ht
  | vopGelu => exact mem_execVopGelu _ _ hs _ ht
  | vopSilu => exact mem_execVopSilu _ _ hs _ ht
  | vopRsum => exact mem_execVopRsum _ _ hs _ ht
  | vopRsumsq => exact mem_execVopRsumsq _ _ hs _ ht
  | vopRmax => exact mem_execVopRmax _ _ hs _ ht
  | vopRmin => exact mem_execVopRmin _ _ hs _ ht
  | vopRamax => exact mem_execVopRamax _ _ hs _ ht
  | vopSoftmax => exact mem_execVopSoftmax _ _ hs _ ht
  | vopLayernorm => exact mem_execVopLayernorm _ _ hs _ ht
  | vopRmsnorm => exact mem_execVopRmsnorm _ _ hs _ ht
  | vopXent => exact mem_execVopXent _ _ hs _ ht
  | vopXentgrad => exact mem_execVopXentgrad _ _ hs _ ht
  | vxctlCntclr => exact mem_execVxctlCntclr _ hs _ ht
  | moveCopy => exact mem_execMoveCopy _ _ hs _ ht
  | moveFill => exact mem_execMoveFill _ _ hs _ ht
  | moveMigrate => exact mem_execMoveMigrate _ _ hs _ ht
  | moveImport => exact mem_execMoveImport _ _ hs _ ht
  | moveExport => exact mem_execMoveExport _ _ hs _ ht
  | moveRelease => exact mem_execMoveRelease _ _ hs _ ht
  | paneRead => exact mem_execPaneRead _ _ _ _ hs _ ht
  | moverWriteBack => exact mem_execMoverWriteBack _ _ _ hs _ ht
  | tierReplace => exact mem_execTierReplace hs _ ht
  | replaceQuiesced => exact mem_execReplaceQuiesced hs _ ht
  | mqReadMetadata => exact mem_execMqReadMetadata hs _ ht
  | mqReadPlacement => exact mem_execMqReadPlacement hs _ ht
  | memoryAccess => exact mem_execMemoryAccess _ _ _ _ _ _ hs _ ht
  | repairLogCommitted => exact mem_execRepairLogCommitted _ _ _ hs _ ht
  | scrubRead => exact mem_execScrubRead _ _ _ _ _ hs _ ht
  | muTempReading => exact mem_execMuTempReading _ _ hs _ ht
  | muTrainingDone => exact mem_execMuTrainingDone _ _ _ hs _ ht
  | muZeroingDone => exact mem_execMuZeroingDone _ hs _ ht
  | cartPresenceChange => exact mem_execCartPresenceChange _ _ hs _ ht
  | cartPresenceDebounced => exact mem_execCartPresenceDebounced _ hs _ ht
  | cartPgood => exact mem_execCartPgood _ _ hs _ ht
  | cartPgoodTimeout => exact mem_execCartPgoodTimeout _ hs _ ht
  | cartInitialised => exact mem_execCartInitialised _ _ hs _ ht
  | format => exact mem_execFormat _ hs _ ht
  | erasep => exact mem_execErasep _ hs _ ht
  | wearCounterCommit => exact mem_execWearCounterCommit _ _ hs _ ht
  | wearCounterAck => exact mem_execWearCounterAck _ hs _ ht
  | flashRelocation => exact mem_execFlashRelocation _ _ hs _ ht
  | compEncode => exact mem_execCompEncode _ _ hs _ ht
  | compDecode => exact mem_execCompDecode _ _ hs _ ht
  | compConfig => exact mem_execCompConfig _ _ hs _ ht
  | compReset => exact mem_execCompReset _ _ hs _ ht
  | compBlockEncode => exact mem_execCompBlockEncode _ hs _ ht
  | compBlockDecode => exact mem_execCompBlockDecode _ hs _ ht
  | tableBuild => exact mem_execTableBuild _ hs _ ht
  | tableInstall => exact mem_execTableInstall _ hs _ ht
  | checkByte => exact mem_execCheckByte _ _ _ _ hs _ ht
  | ckctlInit => exact mem_execCkctlInit _ hs _ ht
  | ckctlArm => exact mem_execCkctlArm _ _ hs _ ht
  | checkStateWrite => exact mem_execCheckStateWrite _ _ _ hs _ ht
  | sweep => exact mem_execSweep _ _ hs _ ht
  | sweepPrefetch => exact mem_execSweepPrefetch _ hs _ ht
  | sweepUnit => exact mem_execSweepUnit _ hs _ ht
  | sweepFactorPhaseEnd => exact mem_execSweepFactorPhaseEnd hs _ ht
  | sweepLayerComplete => exact mem_execSweepLayerComplete _ hs _ ht
  | phaseCounterTick => exact mem_execPhaseCounterTick hs _ ht
  | phctlSnap => exact mem_execPhctlSnap hs _ ht
  | digest => exact mem_execDigest _ _ hs _ ht
  | chkpExport => exact mem_execChkpExport _ _ hs _ ht
  | chkpImport => exact mem_execChkpImport _ _ hs _ ht
  | chkpCarriageReceive => exact mem_execChkpCarriageReceive _ _ hs _ ht
  | dwctlWrite => exact mem_execDwctlWrite _ _ hs _ ht
  | linkTrainingDone => exact mem_execLinkTrainingDone _ _ hs _ ht
  | linkLockLoss => exact mem_execLinkLockLoss _ hs _ ht
  | flitSend => exact mem_execFlitSend _ hs _ ht
  | flitReceive => exact mem_execFlitReceive _ _ hs _ ht
  | frameReceive => exact mem_execFrameReceive _ _ hs _ ht
  | dataSend => exact mem_execDataSend _ _ hs _ ht
  | packetData => exact mem_execPacketData _ _ _ hs _ ht
  | packetAck => exact mem_execPacketAck _ _ _ hs _ ht
  | packetNack => exact mem_execPacketNack _ _ _ hs _ ht
  | packetTable => exact mem_execPacketTable _ _ _ hs _ ht
  | ackTimer => exact mem_execAckTimer _ _ hs _ ht
  | rtoExpiry => exact mem_execRtoExpiry _ _ hs _ ht
  | notreadyTimer => exact mem_execNotreadyTimer _ _ hs _ ht
  | ndctlForm => exact mem_execNdctlForm hs _ ht
  | ndctlJoin => exact mem_execNdctlJoin hs _ ht
  | ndctlLeave => exact mem_execNdctlLeave hs _ ht
  | ndctlApprove => exact mem_execNdctlApprove hs _ ht
  | ndctlDeny => exact mem_execNdctlDeny hs _ ht
  | ndctlEvict => exact mem_execNdctlEvict hs _ ht
  | ndselfWrite => exact mem_execNdselfWrite _ hs _ ht
  | hello => exact mem_execHello _ hs _ ht
  | challenge => exact mem_execChallenge _ hs _ ht
  | proof => exact mem_execProof _ hs _ ht
  | prepare => exact mem_execPrepare _ hs _ ht
  | ready => exact mem_execReady _ hs _ ht
  | commit => exact mem_execCommit _ hs _ ht
  | refused => exact mem_execRefused _ hs _ ht
  | handover => exact mem_execHandover _ hs _ ht
  | collAllreduce => exact mem_execCollAllreduce _ _ hs _ ht
  | collReducescatter => exact mem_execCollReducescatter _ _ hs _ ht
  | collAllgather => exact mem_execCollAllgather _ _ hs _ ht
  | collBroadcast => exact mem_execCollBroadcast _ _ hs _ ht
  | collSend => exact mem_execCollSend _ _ hs _ ht
  | collRecv => exact mem_execCollRecv _ _ hs _ ht
  | collDigcmp => exact mem_execCollDigcmp _ _ hs _ ht
  | collBlockReduce => exact mem_execCollBlockReduce _ _ hs _ ht
  | collDone => exact mem_execCollDone _ _ hs _ ht
  | collCommit => exact mem_execCollCommit _ hs _ ht
  | imgLoad => exact mem_execImgLoad hs _ ht
  | imgUnload => exact mem_execImgUnload hs _ ht
  | imgAbort => exact mem_execImgAbort hs _ ht
  | imgFetchDone => exact mem_execImgFetchDone _ hs _ ht
  | imgQuiesced => exact mem_execImgQuiesced hs _ ht
  | imgRefetchDone => exact mem_execImgRefetchDone _ hs _ ht
  | programEntryTake => exact mem_execProgramEntryTake _ hs _ ht
  | sqtail => exact mem_execSqtail _ _ hs _ ht
  | cqhead => exact mem_execCqhead _ _ hs _ ht
  | wait => exact mem_execWait _ _ hs _ ht
  | signalAdd => exact mem_execSignalAdd _ _ hs _ ht
  | signalMax => exact mem_execSignalMax _ _ hs _ ht
  | signalApply => exact mem_execSignalApply _ hs _ ht
  | fenceWrite => exact mem_execFenceWrite _ _ hs _ ht
  | partIssue => exact mem_execPartIssue _ hs _ ht
  | partComplete => exact mem_execPartComplete _ _ hs _ ht
  | qirqTimer => exact mem_execQirqTimer _ hs _ ht
  | qctlEnable => exact mem_execQctlEnable _ _ hs _ ht
  | queueDrained => exact mem_execQueueDrained _ hs _ ht
  | qbindWrite => exact mem_execQbindWrite _ _ _ hs _ ht
  | queueRingWrite => exact mem_execQueueRingWrite _ _ _ hs _ ht
  | hostRequestFailure => exact mem_execHostRequestFailure _ _ hs _ ht
  | cxlLinkTrainingDone => exact mem_execCxlLinkTrainingDone _ hs _ ht
  | cxlLinkDown => exact mem_execCxlLinkDown hs _ ht
  | bar4Access => exact mem_execBar4Access _ _ _ hs _ ht
  | cxlMemRead => exact mem_execCxlMemRead _ hs _ ht
  | cxlMemWrite => exact mem_execCxlMemWrite _ _ _ hs _ ht
  | hostSnoop => exact mem_execHostSnoop _ hs _ ht
  | hdmctlEn => exact mem_execHdmctlEn _ hs _ ht
  | hdmsizeWrite => exact mem_execHdmsizeWrite _ hs _ ht
  | hdmZeroingDone => exact mem_execHdmZeroingDone hs _ ht
  | hdmReleaseDrained => exact mem_execHdmReleaseDrained hs _ ht
  | hdmDecoderCommit => exact mem_execHdmDecoderCommit _ hs _ ht
  | msixUnmask => exact mem_execMsixUnmask _ hs _ ht
  | doeDiscovery => exact mem_execDoeDiscovery _ _ hs _ ht
  | cdatTableAccess => exact mem_execCdatTableAccess _ hs _ ht
  | doeAbort => exact mem_execDoeAbort hs _ ht
  | getVersion => exact mem_execGetVersion hs _ ht
  | getCapabilities => exact mem_execGetCapabilities hs _ ht
  | negotiateAlgorithms => exact mem_execNegotiateAlgorithms hs _ ht
  | getDigests => exact mem_execGetDigests hs _ ht
  | getCertificate => exact mem_execGetCertificate _ _ _ hs _ ht
  | challengeSpdm => exact mem_execChallengeSpdm _ _ hs _ ht
  | getMeasurements => exact mem_execGetMeasurements _ _ _ hs _ ht
  | spdmUnsupportedRequest => exact mem_execSpdmUnsupportedRequest _ hs _ ht
  | flr => exact mem_execFlr hs _ ht
  | flrQuiesced => exact mem_execFlrQuiesced hs _ ht
  | arbDecision => exact mem_execArbDecision _ _ hs _ ht
  | arbRelease => exact mem_execArbRelease _ _ hs _ ht
  | inputmapWrite => exact mem_execInputmapWrite _ _ hs _ ht
  | holdWatchdogBite => exact mem_execHoldWatchdogBite _ hs _ ht
  | porNAssert => exact mem_execPorNAssert hs _ ht
  | porNDeassert => exact mem_execPorNDeassert _ hs _ ht
  | perstNAssert => exact mem_execPerstNAssert hs _ ht
  | perstNDeassert => exact mem_execPerstNDeassert _ hs _ ht
  | warmReset => exact mem_execWarmReset _ hs _ ht
  | bootReady => exact mem_execBootReady hs _ ht
  | shutterReqWrite => exact mem_execShutterReqWrite _ _ hs _ ht
  | shutterTransitionEnd => exact mem_execShutterTransitionEnd _ hs _ ht
  | runmodeWrite => exact mem_execRunmodeWrite _ hs _ ht
  | errheadWrite => exact mem_execErrheadWrite _ hs _ ht
  | fatalThermalResetStart => exact mem_execFatalThermalResetStart _ hs _ ht
  | alertNPulseEnd => exact mem_execAlertNPulseEnd hs _ ht
  | nonce => exact mem_execNonce hs _ ht
  | transition => exact mem_execTransition hs _ ht
  | lifeCycleRowProgrammed => exact mem_execLifeCycleRowProgrammed _ _ hs _ ht
  | commitsvn => exact mem_execCommitsvn hs _ ht
  | revoke => exact mem_execRevoke hs _ ht
  | cntselWrite => exact mem_execCntselWrite _ _ hs _ ht
  | cntselClr => exact mem_execCntselClr _ hs _ ht
  | peepCntclr => exact mem_execPeepCntclr hs _ ht
  | traceEnable => exact mem_execTraceEnable hs _ ht
  | traceDisable => exact mem_execTraceDisable hs _ ht
  | traceRingWrite => exact mem_execTraceRingWrite hs _ ht
  | trheadWrite => exact mem_execTrheadWrite _ hs _ ht
  | traceConfigWrite => exact mem_execTraceConfigWrite _ _ hs _ ht
  | keyholeIntegrityFailure => exact mem_execKeyholeIntegrityFailure hs _ ht
  | priorityFlowControlPauseEnd => exact mem_execPriorityFlowControlPauseEnd _ _ hs _ ht

/-- Settles O4: a step runs the front command on the queue's rest, which leaves the memory to the command, or idles. -/
theorem stepKeepsTheMemoryCanonical : Obligations.StepKeepsTheMemoryCanonical := by
  intro s t hs ht
  unfold step at ht
  cases hp : s.pending with
  | nil =>
    rw [hp] at ht
    cases ht
    exact hs
  | cons c rest =>
    rw [hp] at ht
    exact mem_exec c (s := { s with pending := rest }) hs ht

end Sys2Proof.Machine

namespace Sys2Proof.Machine

/-! PROOFS. The bytes of the memory, the queues of a memory unit, and MEMORY_ACCESS. -/

/-! The bytes of the memory. -/

/-- Listed bytes read back: a zero is left out, and an unlisted byte reads zero (R314). -/
theorem assocGet_cellsOf (bs : List Byte) (a k : Nat) (h : k < bs.length) : assocGet memDefault (cellsOf a bs) (a + k) = bs[k] := by
  induction bs generalizing a k with
  | nil => exact absurd h (Nat.not_lt_zero k)
  | cons b t ih =>
    have hrest : ∀ p ∈ cellsOf (a + 1) t, p.1 ≠ a := fun p hp => by
      have := (cellsOf_in (a + 1) t).1 p hp
      omega
    cases k with
    | zero =>
      by_cases hb : b = memDefault
      · simp [cellsOf, hb, assocGet_none _ _ _ hrest]
      · simp [cellsOf, hb, assocGet]
    | succ k =>
      have hk : k < t.length := Nat.lt_of_succ_lt_succ h
      have hshift : a + (k + 1) = a + 1 + k := by omega
      have hne : a ≠ a + 1 + k := by omega
      by_cases hb : b = memDefault
      · simp [cellsOf, hb, hshift, ih (a + 1) k hk]
      · simp [cellsOf, hb, hshift, assocGet, hne, ih (a + 1) k hk]

/-- A stored byte reads back. -/
theorem memByte_memWrite_in (a : Nat) (bs : List Byte) (s : State) {k : Nat} (h : k < bs.length) :
    memByte (a + k) (memWrite a bs s) = bs[k] := by
  unfold memByte memWrite
  rw [assocGet_splice_in _ _ _ _ _ _ (by omega) (by omega), assocGet_cellsOf bs a k h]

/-- A byte outside the stored range reads as before. -/
theorem memByte_memWrite_out {a b : Nat} (bs : List Byte) (s : State) (h : b < a ∨ a + bs.length ≤ b) :
    memByte b (memWrite a bs s) = memByte b s :=
  assocGet_splice_out _ _ _ _ _ _ h (by omega) (fun p hp => ((cellsOf_in a bs).1 p hp).2)

/-- What a memory operation's count of an event leaves (R704). -/
@[simp] theorem memByte_peep (b k u e i : Nat) (s : State) : memByte b (peep k u e i s) = memByte b s := by rw [peep_eq]; rfl
@[simp] theorem peep_poison (k u e i : Nat) (s : State) : (peep k u e i s).poison = s.poison := by rw [peep_eq]
@[simp] theorem peep_panes (k u e i : Nat) (s : State) : (peep k u e i s).panes = s.panes := by rw [peep_eq]
@[simp] theorem peep_mu (k u e i : Nat) (s : State) : (peep k u e i s).mu = s.mu := by rw [peep_eq]
@[simp] theorem peep_repairLog (k u e i : Nat) (s : State) : (peep k u e i s).repairLog = s.repairLog := by rw [peep_eq]

/-- The lines that stay poison where a range is written anew (R317). -/
theorem mem_poison_healRange (a n l : Nat) (s : State) :
    l ∈ (healRange a n s).poison ↔ l ∈ s.poison ∧ ¬ (a ≤ 64 * l ∧ 64 * l + 64 ≤ a + n) := by
  simp [healRange, List.mem_filter, -not_and, not_and_or]

/-! What a memory unit holds beside its page. -/

/-- Below and above the entry that is set, a map is as it was. -/
theorem filter_lt_assocSet {α : Type} [DecidableEq α] (d : α) (t : List (Nat × α)) (n : Nat) (v : α) :
    (assocSet d t n v).filter (fun p => decide (p.1 < n)) = t.filter (fun p => decide (p.1 < n)) := by
  have hmid : (if v = d then [] else [(n, v)]).filter (fun p => decide (p.1 < n)) = [] := by split <;> simp
  have habove : t.filter (fun p => decide (p.1 < n) && decide (n + 1 ≤ p.1)) = [] :=
    List.filter_eq_nil_iff.mpr (fun p _ => by simp; omega)
  rw [assocSet, assocSplice, List.filter_append, List.filter_append, hmid, List.filter_filter, List.filter_filter, habove]
  simp

theorem filter_gt_assocSet {α : Type} [DecidableEq α] (d : α) (t : List (Nat × α)) (n : Nat) (v : α) :
    (assocSet d t n v).filter (fun p => decide (n + 1 ≤ p.1)) = t.filter (fun p => decide (n + 1 ≤ p.1)) := by
  have hmid : (if v = d then [] else [(n, v)]).filter (fun p => decide (n + 1 ≤ p.1)) = [] := by split <;> simp
  have hbelow : t.filter (fun p => decide (n + 1 ≤ p.1) && decide (p.1 < n)) = [] :=
    List.filter_eq_nil_iff.mpr (fun p _ => by simp; omega)
  rw [assocSet, assocSplice, List.filter_append, List.filter_append, hmid, List.filter_filter, List.filter_filter, hbelow]
  simp

/-- Of two values set at one key the later stands. -/
theorem assocSet_assocSet {α : Type} [DecidableEq α] (d : α) (t : List (Nat × α)) (n : Nat) (v w : α) :
    assocSet d (assocSet d t n v) n w = assocSet d t n w := by
  conv_lhs => rw [assocSet, assocSplice, filter_lt_assocSet, filter_gt_assocSet]
  rfl

/-- Two changes of a unit are one. -/
theorem setMuAux_setMuAux (u : Nat) (f g : MuAux → MuAux) (s : State) :
    setMuAux u f (setMuAux u g s) = setMuAux u (fun a => f (g a)) s := by
  simp [setMuAux, assocModify, assocGet_set_self, assocSet_assocSet]

/-- A change of a unit depends on what it makes of that unit alone. -/
theorem setMuAux_congr {u : Nat} {f g : MuAux → MuAux} {s : State} (h : f (muAuxOf u s) = g (muAuxOf u s)) :
    setMuAux u f s = setMuAux u g s :=
  congrArg (fun a => { s with mu := assocSet muAuxInit s.mu u a }) h

@[simp] theorem muAuxOf_peep (u k v e i : Nat) (s : State) : muAuxOf u (peep k v e i s) = muAuxOf u s := by simp [muAuxOf]

/-! The queues of a unit (R305, R306, R320, R327). -/

/-- A request joins the queues of a unit. -/
def enqueued (u : Nat) (q : MemReq) (s : State) : State := setMuAux u (fun a => { a with queue := a.queue ++ [q] }) s

/-- One more request has come up to be served (R327). -/
def cameUp (u : Nat) (s : State) : State := setMuAux u (fun a => { a with beat := (a.beat + 1) % 16 }) s

section
variable {u c slot off : Nat} {q : MemReq} {row : RowAddr} {s : State}

/-- A change of a unit that keeps its remaps under way holds the same rows. -/
theorem rowHeld_setMuAux {f : MuAux → MuAux} (h : (f (muAuxOf u s)).pend = (muAuxOf u s).pend) :
    rowHeld u row (setMuAux u f s) = rowHeld u row s := by
  simp [rowHeld, h]

@[simp] theorem rowHeld_enqueued : rowHeld u row (enqueued u q s) = rowHeld u row s := rowHeld_setMuAux rfl

@[simp] theorem muServes_enqueued : muServes u (enqueued u q s) = muServes u s := by
  unfold muServes
  simp only [enqueued, muAuxOf_setMuAux_self]
  rfl

@[simp] theorem queue_enqueued : (muAuxOf u (enqueued u q s)).queue = (muAuxOf u s).queue ++ [q] := by simp [enqueued]

/-- A queue all of whose requests are of held rows has no turn (R320). -/
theorem serveNext_of_held (h : ∀ q ∈ (muAuxOf u s).queue, queueOfByte u q.slot q.off = c → rowHeld u q.row s = true) :
    serveNext u c s = s := by
  have hnone : (muAuxOf u s).queue.find? (fun q => decide (queueOfByte u q.slot q.off = c) && !rowHeld u q.row s) = none :=
    List.find?_eq_none.mpr (fun q hq => by simpa using h q hq)
  simp only [serveNext, hnone]

/-- A queue whose arbiter no requester owns has no turn (R305, log 250). -/
theorem serveNext_of_not_owned (h : getF (ARB.STAT_OWNED (queueArb u c)) s = 0) : serveNext u c s = s := by
  have hflag : flag (ARB.STAT_OWNED (queueArb u c)) s = false := by simp [flag, h]
  unfold serveNext
  split
  · rfl
  · simp [hflag]

/-- The oldest request of a queue that is of no held row is served where the unit serves and the louvre lets it (R320, R327). -/
theorem serveNext_of_first
    (hq : (muAuxOf u s).queue.find? (fun q => decide (queueOfByte u q.slot q.off = c) && !rowHeld u q.row s) = some q)
    (hserves : muServes u s = true) (hown : getF (ARB.STAT_OWNED (queueArb u c)) s = 1)
    (hbeat : (muAuxOf u s).beat < getF (MU.MUTEMP_LVAL u) s) :
    serveNext u c s = serveReq u q (setMuAux u (fun a => { a with queue := a.queue.erase q }) (cameUp u s)) := by
  have hflag : flag (ARB.STAT_OWNED (queueArb u c)) s = true := by simp [flag, hown]
  simp [serveNext, hq, hserves, hflag, hbeat, cameUp]

end

section
variable {u : MemUnit} {slot off : Nat} {w : Option (List Byte)} {ecc : Ecc} {row : RowAddr} {s : State}

/-- A request to a unit that serves requests and holds the byte joins its queue, which then has its turn. -/
theorem exec_memoryAccess (w : Option (List Byte)) (ecc : Ecc) (hserves : muServes u s = true) (hhas : muHas u slot off s = true)
    (hrow : rowServes u slot off row s = true) :
    exec (.memoryAccess u slot off w ecc row) s
      = .next (serveNext u (queueOfByte u slot off) (enqueued u ⟨slot, off, w, ecc, row⟩ s)) := by
  change execMemoryAccess u slot off w ecc row s = _
  simp [execMemoryAccess, hserves, hhas, hrow, enqueued]

/-- A request with nothing before it in its queue is served at once. -/
theorem exec_memoryAccess_of_served (w : Option (List Byte)) (ecc : Ecc) (h : AccessServed u slot off row s) :
    exec (.memoryAccess u slot off w ecc row) s = .next (serveReq u ⟨slot, off, w, ecc, row⟩ (cameUp u s)) := by
  obtain ⟨hserves, hhas, hrow, hheld, hown, hbeat, hempty⟩ := h
  have hnew : (⟨slot, off, w, ecc, row⟩ : MemReq) ∉ (muAuxOf u s).queue := fun hq => hempty _ hq rfl
  have hbefore : (muAuxOf u s).queue.find? (fun q => decide (queueOfByte u q.slot q.off = queueOfByte u slot off) && !rowHeld u q.row s)
      = none := List.find?_eq_none.mpr (fun q hq => by simp [hempty q hq])
  rw [exec_memoryAccess w ecc hserves hhas hrow, serveNext_of_first (q := ⟨slot, off, w, ecc, row⟩)
    (by simp [List.find?_append, hbefore, hheld]) (by simpa using hserves) (by simpa [enqueued] using hown)
    (by simpa [enqueued] using hbeat)]
  unfold cameUp enqueued
  rw [setMuAux_setMuAux, setMuAux_setMuAux]
  congr 2
  exact setMuAux_congr (by simp [List.erase_append_right _ hnew])

/-- A request whose turn has not come waits in the queue. -/
theorem exec_memoryAccess_of_waits (w : Option (List Byte)) (ecc : Ecc) (hserves : muServes u s = true)
    (hhas : muHas u slot off s = true) (hrow : rowServes u slot off row s = true)
    (hbefore : ∀ q ∈ (muAuxOf u s).queue, queueOfByte u q.slot q.off = queueOfByte u slot off → rowHeld u q.row s = true)
    (hwaits : rowHeld u row s = true ∨ getF (ARB.STAT_OWNED (queueArb u (queueOfByte u slot off))) s = 0) :
    exec (.memoryAccess u slot off w ecc row) s = .next (enqueued u ⟨slot, off, w, ecc, row⟩ s) := by
  rw [exec_memoryAccess w ecc hserves hhas hrow]
  rcases hwaits with hheld | hfree
  · rw [serveNext_of_held]
    intro q hq hc
    rw [rowHeld_enqueued]
    rw [queue_enqueued, List.mem_append, List.mem_singleton] at hq
    rcases hq with hq | rfl
    · exact hbefore q hq hc
    · exact hheld
  · rw [serveNext_of_not_owned (by simpa [enqueued] using hfree)]

end

/-! MEMORY_ACCESS, a write (R305, R306, R315, R317, R320). -/

/-- A write within a stripe stores its bytes, and the lines that it covers whole hold poison no more. -/
theorem serveReq_write {u : Nat} {q : MemReq} {bs : List Byte} (s : State) (hw : q.write = some bs) (h : q.off % 256 + bs.length ≤ 256) :
    serveReq u q s = healRange (memAddr u q.slot q.off) bs.length (memWrite (memAddr u q.slot q.off) bs (peep 5 u 2 bs.length s)) := by
  simp [serveReq, hw, List.take_of_length_le (show bs.length ≤ 256 - q.off % 256 by omega)]

/-- Settles O34: a write that comes up is the store of its bytes; one that does not leaves its queue as it joined it. That a request waits
while no requester owns the arbiter, and is else served at its arrival, is log 250. -/
theorem memoryWriteStores : Obligations.MemoryWriteStores := by
  intro u slot off bs ecc row s hstripe
  refine ⟨fun h => ?served, exec_memoryAccess_of_waits (some bs) ecc⟩
  case served =>
    rw [exec_memoryAccess_of_served (some bs) ecc h, serveReq_write (cameUp u s) rfl hstripe]
    refine ⟨_, rfl, fun k hk => memByte_memWrite_in _ bs _ hk, ?elsewhere, fun l => ?poison, ?inflight, ?panes, ?queue⟩
    case elsewhere =>
      intro a ha
      change memByte a (memWrite _ _ _) = _
      rw [memByte_memWrite_out bs _ ha, memByte_peep]
      rfl
    case poison =>
      rw [mem_poison_healRange]
      change l ∈ (peep _ _ _ _ _).poison ∧ _ ↔ _
      rw [peep_poison]
      rfl
    case inflight => exact peep_inflight _ _ _ _ _
    case panes => exact peep_panes _ _ _ _ _
    case queue =>
      change (muAuxOf u (peep _ _ _ _ _)).queue = _
      simp [cameUp]

end Sys2Proof.Machine

namespace Sys2Proof.Machine

/-! PROOFS. Codewords and the repair log of a memory unit (R315 to R323, R337). -/

/-! The registers of a memory unit's page (R330 to R340). -/

/-- The field is one of the page of unit `u`. -/
def InPage (u : Nat) (f : Fld) : Prop := muBase u * 64 ≤ f.key ∧ f.key < (muBase u + 0x1000) * 64

theorem InPage.plain {u : Nat} {f : Fld} (h : InPage u f) (hu : u < 32) : plain f := by
  have hb := muBase_bounds hu
  simp only [InPage, Machine.plain] at h ⊢
  omega

/-! What a change of a unit leaves of its repairs. -/

/-- The repair log and the remap table of unit `u` are as they were. -/
structure KeepsRepairs (u : Nat) (s t : State) : Prop where
  log : t.repairLog = s.repairLog
  remaps : (muAuxOf u t).remaps = (muAuxOf u s).remaps

theorem KeepsRepairs.refl (u : Nat) (s : State) : KeepsRepairs u s s := ⟨rfl, rfl⟩

section
variable {u : Nat} {s t : State}

theorem keepsRepairs_setF (f : Fld) (v : Nat) (h : KeepsRepairs u s t) : KeepsRepairs u s (setF f v t) := ⟨h.log, h.remaps⟩

theorem keepsRepairs_peep (k n e i : Nat) (h : KeepsRepairs u s t) : KeepsRepairs u s (peep k n e i t) :=
  ⟨(peep_repairLog k n e i t).trans h.log, (congrArg MuAux.remaps (muAuxOf_peep u k n e i t)).trans h.remaps⟩

theorem keepsRepairs_trace (c e r a b : Nat) (h : KeepsRepairs u s t) : KeepsRepairs u s (trace c e r a b t) := by
  rw [trace_eq]; exact ⟨h.log, h.remaps⟩

theorem keepsRepairs_errRecord (c v r k n : Nat) (d : List Nat) (h : KeepsRepairs u s t) :
    KeepsRepairs u s (errRecord c v r k n d t) := by
  rw [errRecord_eq]; exact ⟨h.log, h.remaps⟩

theorem keepsRepairs_setMuAux {f : MuAux → MuAux} (hf : ∀ a, (f a).remaps = a.remaps) (h : KeepsRepairs u s t) :
    KeepsRepairs u s (setMuAux u f t) :=
  ⟨h.log, by rw [muAuxOf_setMuAux_self, hf]; exact h.remaps⟩

end

/-! The remapping of a row (R319 to R322). -/

/-- What the changes that `startRemap` is made of keep, the start of a remap keeps. -/
theorem startRemap_invariant {P : State → Prop} {u : Nat} {r : RowAddr} {cause : Nat} {s : State}
    (hfull : ∀ t, P t → P (setF (MU.MUREMAP_FULL u) 1 t))
    (hrec : ∀ c v g k n d t, P t → P (errRecord c v g k n d t))
    (haux : ∀ f t, (∀ a : MuAux, (f a).remaps = a.remaps) → P t → P (setMuAux u f t)) (h : P s) : P (startRemap u r cause s) := by
  unfold startRemap
  extract_lets a c s'
  have hs' : P s' := hfull s h
  refine ite_keep h (ite_keep (ite_keep hs' ?_) (haux _ _ (fun _ => rfl) h))
  exact hrec _ _ _ _ _ _ _ (haux _ _ (fun _ => rfl) hs')

theorem keepsRepairs_startRemap {u : Nat} {s t : State} (r : RowAddr) (cause : Nat) (h : KeepsRepairs u s t) :
    KeepsRepairs u s (startRemap u r cause t) :=
  startRemap_invariant (fun _ => keepsRepairs_setF _ _) (fun _ _ _ _ _ _ _ => keepsRepairs_errRecord _ _ _ _ _ _)
    (fun _ _ hf => keepsRepairs_setMuAux hf) h

theorem trace_poison (c e r a b : Nat) (s : State) : (trace c e r a b s).poison = s.poison := by rw [trace_eq]

theorem errRecord_poison (c v r k n : Nat) (d : List Nat) (s : State) : (errRecord c v r k n d s).poison = s.poison := by
  rw [errRecord_eq]

theorem startRemap_poison (u : Nat) (r : RowAddr) (cause : Nat) (s : State) : (startRemap u r cause s).poison = s.poison :=
  startRemap_invariant (P := fun t => t.poison = s.poison) (fun _ ht => ht) (fun _ _ _ _ _ _ _ ht => (errRecord_poison _ _ _ _ _ _ _).trans ht)
    (fun _ _ _ ht => ht) rfl

theorem getF_startRemap {g : Fld} {u : Nat} (hg : plain g) (hne : g.key ≠ (MU.MUREMAP_FULL u).key) (r : RowAddr) (cause : Nat)
    (s : State) : getF g (startRemap u r cause s) = getF g s :=
  startRemap_invariant (P := fun t => getF g t = getF g s) (fun _ ht => (getF_setF_ne _ _ _ _ hne).trans ht)
    (fun _ _ _ _ _ _ _ ht => (getF_errRecord _ _ _ _ _ _ _ _ hg).trans ht) (fun _ _ _ ht => ht) rfl

/-! Codewords in error (R315 to R317). -/

theorem keepsRepairs_countRow {u : Nat} {s t : State} (r : RowAddr) (h : KeepsRepairs u s t) :
    KeepsRepairs u s (countRow u r t).2 := keepsRepairs_setMuAux (fun _ => rfl) h

/-- A correctable error is counted against its row, which is remapped at the threshold (R316, R319). -/
theorem correctable_of_count {u : Nat} {r : RowAddr} {s v : State} {c : Nat}
    (h : countRow u r (peep 5 u 3 1 (satF (MU.MUCECNT_COUNT u) 1 s)) = (c, v)) :
    correctable u r s = if getF (MU.MUCTL_CETHR u) v ≤ c then startRemap u r 0 v else v := by
  simp only [correctable, h]

theorem keepsRepairs_correctable {u : Nat} {s t : State} (r : RowAddr) (h : KeepsRepairs u s t) : KeepsRepairs u s (correctable u r t) := by
  have hv : KeepsRepairs u s (countRow u r (peep 5 u 3 1 (satF (MU.MUCECNT_COUNT u) 1 t))).2 :=
    keepsRepairs_countRow r (keepsRepairs_peep _ _ _ _ (keepsRepairs_setF _ _ h))
  rw [correctable_of_count rfl]
  exact ite_keep (keepsRepairs_startRemap r 0 hv) hv

/-- MUERRLAST shows where the latest error was (R339). -/
def showErrLast (u slot : Nat) (r : RowAddr) (s : State) : State :=
  setF (MU.MUERRLAST_VALID u) 1 (setF (MU.MUERRLAST_UNCORR u) 1 (setF (MU.MUERRLAST_SLOT u) slot
    (setF (MU.MUERRLAST_SID u) r.sid (setF (MU.MUERRLAST_PC u) r.pc (setF (MU.MUERRLAST_BG u) r.bg
      (setF (MU.MUERRLAST_BANK u) r.bank (setF (MU.MUERRLAST_ROW u) r.row s)))))))

/-- The pane whose slot holds an uncorrectable codeword is poisoned (R317). -/
def poisonPaneAt (u slot : Nat) (s : State) : State :=
  match paneAt u slot s with
  | none => s
  | some (h, i) =>
    match tensorOf h s with
    | none => s
    | some t => if unwritten ⟨unitTier u, u, slot⟩ s then s else markPoison t i ⟨unitTier u, u, slot⟩ s

/-- What an uncorrectable error comes to before its row is remapped (R317). -/
def poisonRecorded (u slot off : Nat) (r : RowAddr) (s : State) : State :=
  trace 6 1 (muRegion u) (muUnitNo u) (rowBits r) (errRecord clsMemory 1 (muRegion u) 0 (muUnitNo u) [u, slot, rowBits r]
    (poisonLine (lineOf (memAddr u slot off)) (poisonPaneAt u slot (showErrLast u slot r (satF (MU.MUUECNT_COUNT u) 1 s)))))

theorem uncorrectable_eq (u slot off : Nat) (r : RowAddr) (s : State) :
    uncorrectable u slot off r s = startRemap u r 1 (poisonRecorded u slot off r s) := rfl

/-- The poisoning of a pane in a memory unit changes its slot alone. -/
theorem poisonPaneAt_eq {u : Nat} (hu : u < 32) (slot : Nat) (s : State) :
    poisonPaneAt u slot s = { s with mem := (poisonPaneAt u slot s).mem } := by
  have hmark : ∀ t i, markPoison t i ⟨unitTier u, u, slot⟩ s = { s with mem := (markPoison t i ⟨unitTier u, u, slot⟩ s).mem } := by
    intro t i
    simp only [markPoison, programSlot, hu, if_true]
    rfl
  unfold poisonPaneAt
  split
  · rfl
  · split
    · rfl
    · split
      · rfl
      · exact hmark _ _

theorem mem_poisonLine_self (l : Nat) (s : State) : l ∈ (poisonLine l s).poison := by
  unfold poisonLine
  split
  · next h => simpa using h
  · exact List.mem_cons_self

theorem getF_poisonLine (g : Fld) (l : Nat) (s : State) : getF g (poisonLine l s) = getF g s := by
  unfold poisonLine
  split <;> rfl

theorem getF_poisonPaneAt {u : Nat} (hu : u < 32) (g : Fld) (slot : Nat) (s : State) : getF g (poisonPaneAt u slot s) = getF g s := by
  rw [poisonPaneAt_eq hu]
  rfl

theorem keepsRepairs_poisonLine {u : Nat} {s t : State} (l : Nat) (h : KeepsRepairs u s t) : KeepsRepairs u s (poisonLine l t) :=
  ite_keep h ⟨h.log, h.remaps⟩

theorem keepsRepairs_poisonPaneAt {u : Nat} {s t : State} (hu : u < 32) (slot : Nat) (h : KeepsRepairs u s t) :
    KeepsRepairs u s (poisonPaneAt u slot t) := by
  rw [poisonPaneAt_eq hu]
  exact ⟨h.log, h.remaps⟩

section
variable {u : Nat} {slot off : Nat} {r : RowAddr} {s : State}

theorem mem_poison_uncorrectable : lineOf (memAddr u slot off) ∈ (uncorrectable u slot off r s).poison := by
  rw [uncorrectable_eq, startRemap_poison, poisonRecorded, trace_poison, errRecord_poison]
  exact mem_poisonLine_self _ _

/-- An uncorrectable error leaves MUERRLAST as it shows the error. -/
theorem getF_uncorrectable {g : Fld} (hu : u < 32) (hg : InPage u g) (hne : g.key ≠ (MU.MUREMAP_FULL u).key) :
    getF g (uncorrectable u slot off r s) = getF g (showErrLast u slot r (satF (MU.MUUECNT_COUNT u) 1 s)) := by
  have hp := hg.plain hu
  rw [uncorrectable_eq, getF_startRemap hp hne, poisonRecorded, getF_trace _ _ _ _ _ _ _ hp, getF_errRecord _ _ _ _ _ _ _ _ hp,
    getF_poisonLine, getF_poisonPaneAt hu]

theorem keepsRepairs_uncorrectable {t : State} (hu : u < 32) (r : RowAddr) (h : KeepsRepairs u s t) :
    KeepsRepairs u s (uncorrectable u slot off r t) := by
  have hlast : KeepsRepairs u s (showErrLast u slot r (satF (MU.MUUECNT_COUNT u) 1 t)) := by
    unfold showErrLast satF
    repeat apply keepsRepairs_setF
    exact h
  rw [uncorrectable_eq]
  exact keepsRepairs_startRemap r 1 (keepsRepairs_trace _ _ _ _ _ (keepsRepairs_errRecord _ _ _ _ _ _
    (keepsRepairs_poisonLine _ (keepsRepairs_poisonPaneAt hu slot hlast))))

end

/-! The read of a codeword (R315 to R318). -/

section
variable {u slot off : Nat} {ecc : Ecc} {r : RowAddr} {s : State}

/-- A codeword that is a poison codeword already decodes as poisoned again (R317). -/
theorem codewordRead_of_poison (h : lineOf (memAddr u slot off) ∈ s.poison) : codewordRead u slot off ecc r s = s := by
  simp [codewordRead, h]

theorem codewordRead_clean : codewordRead u slot off .clean r s = s := by
  simp [codewordRead]

theorem codewordRead_symbols {k : Nat} (h : lineOf (memAddr u slot off) ∉ s.poison) (hk : 0 < k) :
    codewordRead u slot off (.symbols k) r s = if k ≤ correctsUpTo u then correctable u r s else uncorrectable u slot off r s := by
  simp [codewordRead, h, Nat.ne_of_gt hk]

theorem codewordRead_miscorrected (bs : List Byte) (h : lineOf (memAddr u slot off) ∉ s.poison) :
    codewordRead u slot off (.miscorrected bs) r s
      = correctable u r (memWrite (memAddr u slot (off / 64 * 64)) (byteSlice bs 0 64) s) := by
  simp [codewordRead, h]

theorem keepsRepairs_codewordRead {t : State} (hu : u < 32) (h : KeepsRepairs u s t) :
    KeepsRepairs u s (codewordRead u slot off ecc r t) := by
  by_cases hp : lineOf (memAddr u slot off) ∈ t.poison
  · rwa [codewordRead_of_poison hp]
  cases ecc with
  | clean => rwa [codewordRead_clean]
  | symbols k =>
    rcases Nat.eq_zero_or_pos k with rfl | hk
    · simpa [codewordRead] using h
    · rw [codewordRead_symbols hp hk]
      exact ite_keep (keepsRepairs_correctable r h) (keepsRepairs_uncorrectable hu r h)
  | miscorrected bs =>
    rw [codewordRead_miscorrected bs hp]
    exact keepsRepairs_correctable r ⟨h.log, h.remaps⟩

end

/-- SCRUB_READ reads the codeword, and does nothing while SCRUBEN is 0 (R318). -/
theorem exec_scrubRead {u : MemUnit} {slot off : Nat} {row : RowAddr} {s : State} (ecc : Ecc) (hserves : muServes u s = true)
    (hheld : rowHeld u row s = false) (hhas : muHas u slot off s = true) (hrow : rowServes u slot off row s = true) :
    exec (.scrubRead u slot off ecc row) s
      = .next (if getF (MU.MUCTL_SCRUBEN u) s = 1 then codewordRead u slot off ecc row s else s) := by
  change execScrubRead u slot off ecc row s = _
  by_cases hen : getF (MU.MUCTL_SCRUBEN u) s = 1 <;> simp [execScrubRead, flag, hserves, hheld, hhas, hrow, hen]

/-! REPAIR_LOG_COMMITTED (R320 to R323, R337). -/

/-- The remap of a row is under way no more. -/
def rowReleased (u : Nat) (row : RowAddr) (s : State) : State :=
  setMuAux u (fun a => { a with pend := a.pend.filter (fun p => decide (p.2.1 ≠ row)) }) s

/-- The log holds the row, whose codewords the copy has read (R320). -/
def rowCopied (u : Nat) (row : RowAddr) (found : List CopyError) (s : State) : State :=
  forEach found (fun e s => codewordRead u e.slot e.off e.ecc row s) { s with repairLog := s.repairLog ++ [(u, row, false)] }

/-- The record of a row whose remap has ended (R320, R322). -/
def remapRecord (u : Nat) (row : RowAddr) (s : State) : State :=
  errRecord clsMemory 0 (muRegion u) 0 (muUnitNo u) [u, rowBits row] s

/-- The remap of a row is carried out (R320, R321). -/
def rowRemapped (u : Nat) (row : RowAddr) (cause : Nat) (found : List CopyError) (s : State) : State :=
  trace 6 0 (muRegion u) (muUnitNo u) (rowBits row)
    (remapRecord u row (showUsed u (enterRemap u row cause false (rowCopied u row found s))))

/-- The remap of a row is abandoned (R322). -/
def remapAbandoned (u : Nat) (row : RowAddr) (s : State) : State := remapRecord u row (setF (MU.MUREMAP_LOGFAIL u) 1 s)

section
variable {u : MemUnit} {row : RowAddr} {c cause : Nat} {s : State} (found : List CopyError)
  (h : (muAuxOf u s).pend.find? (fun p => decide (p.2.1 = row)) = some (c, row, cause))
include h

theorem exec_repairLogCommitted_written : exec (.repairLogCommitted u row ⟨true, found⟩) s
    = .next (serveNext u (if u.val < 16 then c else row.pc) (rowReleased u row (rowRemapped u row cause found s))) := by
  change execRepairLogCommitted u row ⟨true, found⟩ s = _
  simp only [execRepairLogCommitted, h, if_true]
  rfl

theorem exec_repairLogCommitted_failed : exec (.repairLogCommitted u row ⟨false, found⟩) s
    = .next (serveNext u (if u.val < 16 then c else row.pc) (rowReleased u row (remapAbandoned u row s))) := by
  change execRepairLogCommitted u row ⟨false, found⟩ s = _
  simp only [execRepairLogCommitted, h, Bool.false_eq_true, if_false]
  rfl

end

section
variable {u : Nat} {row : RowAddr} {cause : Nat} {found : List CopyError} {s : State}

theorem rowHeld_rowReleased : rowHeld u row (rowReleased u row s) = false := by
  simp [rowHeld, rowReleased]

theorem rowReleased_mem : (rowReleased u row s).mem = s.mem := rfl

theorem getF_rowReleased (g : Fld) : getF g (rowReleased u row s) = getF g s := rfl

theorem keepsRepairs_rowReleased {t : State} (h : KeepsRepairs u s t) : KeepsRepairs u s (rowReleased u row t) :=
  keepsRepairs_setMuAux (fun _ => rfl) h

theorem keepsRepairs_remapRecord {t : State} (h : KeepsRepairs u s t) : KeepsRepairs u s (remapRecord u row t) :=
  keepsRepairs_errRecord _ _ _ _ _ _ h

/-- The copy of a row changes the repair log by the row's entry alone, and no remap. -/
theorem keepsRepairs_rowCopied (hu : u < 32) :
    KeepsRepairs u { s with repairLog := s.repairLog ++ [(u, row, false)] } (rowCopied u row found s) :=
  forEach_invariant (KeepsRepairs.refl u _) (fun _ _ _ ht => keepsRepairs_codewordRead hu ht)

theorem freeSpare_congr {t : State} (c : Nat) (h : (muAuxOf u t).remaps = (muAuxOf u s).remaps) : freeSpare u c t = freeSpare u c s := by
  unfold freeSpare
  rw [h]

/-- Every spare row below the lowest free one stands for a row (R320). -/
theorem exists_remap_of_lt_freeSpare {c i : Nat} (hi : i < freeSpare u c s) (h512 : i < 512) :
    ∃ e ∈ (muAuxOf u s).remaps, e.1 = c ∧ e.2.idx = i := by
  by_contra hfree
  have hi' : (!(muAuxOf u s).remaps.any (fun e => decide (e.1 = c) && decide (e.2.idx = i))) = true := by
    rw [Bool.not_eq_true', List.any_eq_false]
    exact fun e he hc => hfree ⟨e, he, by simpa using hc⟩
  cases hfind : (List.range 512).find? (fun i => !(muAuxOf u s).remaps.any (fun e => decide (e.1 = c) && decide (e.2.idx = i))) with
  | none => exact List.find?_eq_none.mp hfind i (List.mem_range.mpr h512) hi'
  | some j =>
    have hj : i < j := by simpa [freeSpare, hfind] using hi
    have hlow := (List.find?_range_eq_some.mp hfind).2.2 i hj
    simp [hi'] at hlow

/-- The remap table once a row's remap is entered with the lowest free spare row (R320, R321). -/
def remapsWith (u : Nat) (row : RowAddr) (cause : Nat) (s : State) : List (Nat × Remap) :=
  (muAuxOf u s).remaps.map (fun e => if e.1 = rowChan u row ∧ e.2.row = row then (e.1, { e.2 with retired := true }) else e)
    ++ [(rowChan u row, ⟨freeSpare u (rowChan u row) s, row, cause, false, false⟩)]

theorem remaps_enterRemap (t : State) : (muAuxOf u (enterRemap u row cause false t)).remaps = remapsWith u row cause t := by
  simp [enterRemap, remapsWith]

theorem remapsWith_congr {t : State} (h : (muAuxOf u t).remaps = (muAuxOf u s).remaps) :
    remapsWith u row cause t = remapsWith u row cause s := by
  rw [remapsWith, remapsWith, h, freeSpare_congr _ h]

/-- After the entry a remap leaves only its count, its record and its trace. -/
theorem keepsRepairs_rowRemapped :
    KeepsRepairs u (enterRemap u row cause false (rowCopied u row found s)) (rowRemapped u row cause found s) :=
  keepsRepairs_trace _ _ _ _ _ (keepsRepairs_remapRecord (keepsRepairs_setF _ _ (KeepsRepairs.refl u _)))

theorem repairLog_rowRemapped (hu : u < 32) :
    (rowRemapped u row cause found s).repairLog = s.repairLog ++ [(u, row, false)] :=
  keepsRepairs_rowRemapped.log.trans (keepsRepairs_rowCopied hu).log

theorem remaps_rowRemapped (hu : u < 32) : (muAuxOf u (rowRemapped u row cause found s)).remaps = remapsWith u row cause s := by
  rw [keepsRepairs_rowRemapped.remaps, remaps_enterRemap]
  exact remapsWith_congr (keepsRepairs_rowCopied hu).remaps

/-- MUREMAP[USED] counts the entries in use (R337). -/
theorem getF_used_rowRemapped (hu : u < 32) : getF (MU.MUREMAP_USED u) (rowRemapped u row cause found s)
    = ((muAuxOf u (rowRemapped u row cause found s)).remaps.filter (fun e => !e.2.retired)).length % 2 ^ 15 := by
  have hpage : InPage u (MU.MUREMAP_USED u) := by simp only [InPage, Fld.key, MU.MUREMAP_USED]; omega
  have hp := hpage.plain hu
  rw [keepsRepairs_rowRemapped.remaps, rowRemapped, getF_trace _ _ _ _ _ _ _ hp, remapRecord, getF_errRecord _ _ _ _ _ _ _ _ hp]
  exact getF_setF_self _ _ _

/-- A copy that meets no codeword in error leaves every byte. -/
theorem rowRemapped_mem_of_clean : (rowRemapped u row cause [] s).mem = s.mem := by
  rw [rowRemapped, trace_mem, remapRecord, errRecord_mem]
  rfl

theorem keepsRepairs_remapAbandoned : KeepsRepairs u s (remapAbandoned u row s) :=
  keepsRepairs_remapRecord (keepsRepairs_setF _ _ (KeepsRepairs.refl u s))

theorem getF_logfail_remapAbandoned (hu : u < 32) : getF (MU.MUREMAP_LOGFAIL u) (remapAbandoned u row s) = 1 := by
  have hpage : InPage u (MU.MUREMAP_LOGFAIL u) := by simp only [InPage, Fld.key, MU.MUREMAP_LOGFAIL]; omega
  rw [remapAbandoned, remapRecord, getF_errRecord _ _ _ _ _ _ _ _ (hpage.plain hu), getF_setF_self]
  rfl

theorem remapAbandoned_mem : (remapAbandoned u row s).mem = s.mem := errRecord_mem _ _ _ _ _ _ _

end

/-- MUERRLAST shows a valid error in the slot of the codeword (R339). -/
theorem getF_valid_showErrLast (u slot : Nat) (r : RowAddr) (s : State) : getF (MU.MUERRLAST_VALID u) (showErrLast u slot r s) = 1 :=
  getF_setF_self _ _ _

theorem getF_slot_showErrLast (u slot : Nat) (r : RowAddr) (s : State) :
    getF (MU.MUERRLAST_SLOT u) (showErrLast u slot r s) = slot % 2 ^ 22 := by
  have hvalid : (MU.MUERRLAST_SLOT u).key ≠ (MU.MUERRLAST_VALID u).key := key_ne_of_lo _ _ rfl (by simp [MU.MUERRLAST_SLOT, MU.MUERRLAST_VALID])
  have huncorr : (MU.MUERRLAST_SLOT u).key ≠ (MU.MUERRLAST_UNCORR u).key := key_ne_of_lo _ _ rfl (by simp [MU.MUERRLAST_SLOT, MU.MUERRLAST_UNCORR])
  rw [showErrLast, getF_setF_ne _ _ _ _ hvalid, getF_setF_ne _ _ _ _ huncorr]
  exact getF_setF_self _ _ _

/-- Settles O35: a read that comes up is the read of its codeword, which what the code makes of it decides; a remap ends carried out or
abandoned by whether its entry was written. That a miscorrected codeword counts as correctable is log 233, that the queue goes on log 250. -/
theorem codewordsAndRepair : Obligations.CodewordsAndRepair := by
  refine ⟨fun u slot off ecc row s => ⟨fun h => ?read, fun hserves hheld hhas hrow => ?scrub, codewordRead_of_poison, fun hp => ?codeword,
    fun c v h => correctable_of_count h⟩, fun u row c cause found s hpend => ⟨?committed, fun i => exists_remap_of_lt_freeSpare, ?abandoned⟩⟩
  case read =>
    exact ⟨cameUp u s, exec_memoryAccess_of_served none ecc h, rfl, muAuxOf_setMuAux_self _ _ _⟩
  case scrub =>
    have hexec := exec_scrubRead ecc hserves hheld hhas hrow
    exact ⟨fun hon => by rw [hexec, if_pos hon], fun hoff => by rw [hexec, if_neg (by simp [hoff])]⟩
  case codeword =>
    refine ⟨codewordRead_clean, fun k hk hle => ?_, fun bs => codewordRead_miscorrected bs hp,
      fun k hlt => ⟨?_, mem_poison_uncorrectable, ?_, ?_⟩⟩
    · rw [codewordRead_symbols hp hk, if_pos (show k ≤ correctsUpTo u from hle)]
    · rw [codewordRead_symbols hp (Nat.zero_lt_of_lt hlt), if_neg (show ¬ k ≤ correctsUpTo u from Nat.not_le.mpr hlt)]
    · rw [getF_uncorrectable u.isLt _ _, getF_valid_showErrLast]
      · simp only [InPage, Fld.key, MU.MUERRLAST_VALID]; omega
      · simp only [Fld.key, MU.MUERRLAST_VALID, MU.MUREMAP_FULL]; omega
    · rw [getF_uncorrectable u.isLt _ _, getF_slot_showErrLast]
      · simp only [InPage, Fld.key, MU.MUERRLAST_SLOT]; omega
      · simp only [Fld.key, MU.MUERRLAST_SLOT, MU.MUREMAP_FULL]; omega
  case committed =>
    have hkeeps : KeepsRepairs u (rowRemapped u row cause found s) (rowReleased u row (rowRemapped u row cause found s)) :=
      keepsRepairs_rowReleased (KeepsRepairs.refl _ _)
    refine ⟨_, exec_repairLogCommitted_written found hpend, rowHeld_rowReleased, hkeeps.log.trans (repairLog_rowRemapped u.isLt),
      hkeeps.remaps.trans (remaps_rowRemapped u.isLt), ?used, ?bytes⟩
    case used =>
      rw [hkeeps.remaps]
      exact (getF_rowReleased _).trans (getF_used_rowRemapped u.isLt)
    case bytes =>
      rintro rfl
      exact rowReleased_mem.trans rowRemapped_mem_of_clean
  case abandoned =>
    have hkeeps : KeepsRepairs u s (rowReleased u row (remapAbandoned u row s)) := keepsRepairs_rowReleased keepsRepairs_remapAbandoned
    exact ⟨_, exec_repairLogCommitted_failed found hpend, rowHeld_rowReleased, hkeeps.log, hkeeps.remaps,
      (getF_rowReleased _).trans (getF_logfail_remapAbandoned u.isLt), rowReleased_mem.trans remapAbandoned_mem⟩

end Sys2Proof.Machine

namespace Sys2Proof.Machine

/-! PROOFS. The temperature of a memory unit and its bring-up (R308 to R314, R324 to R328, R333). -/

/-! The louvre of a memory unit (R326 to R328, R333). -/

/-- The shutting share of the louvre between the thresholds never passes fifteen sixteenths (R327). -/
theorem ceilDiv_fifteenths {x d : Nat} (hd : 0 < d) (hx : x ≤ d) : ceilDiv (15 * x) d ≤ 15 := by
  unfold ceilDiv
  rw [Nat.div_le_iff_le_mul_add_pred hd]
  omega

theorem ceilDiv_fifteen {d : Nat} (hd : 0 < d) : ceilDiv (15 * d) d = 15 := by
  have hle := ceilDiv_fifteenths hd (Nat.le_refl d)
  have hge : 15 ≤ ceilDiv (15 * d) d := by
    unfold ceilDiv
    rw [Nat.le_div_iff_mul_le hd]
    omega
  omega

section
variable {t1 t2 : Nat} {t : Int}

theorem muLouvre_of_le (h : t ≤ t1) : muLouvre t1 t2 t = 16 := if_pos h

theorem muLouvre_of_gt (h12 : t1 < t2) (h : (t2 : Int) < t) : muLouvre t1 t2 t = 1 := by
  rw [muLouvre, if_neg (by omega), if_pos h]

theorem muLouvre_between (h1 : (t1 : Int) < t) (h2 : t ≤ t2) : muLouvre t1 t2 t = 16 - ceilDiv (15 * (t.toNat - t1)) (t2 - t1) := by
  rw [muLouvre, if_neg (by omega), if_neg (by omega)]

theorem muLouvre_at_t2 (h12 : t1 < t2) : muLouvre t1 t2 t2 = 1 := by
  rw [muLouvre_between (by omega) (Int.le_refl _), Int.toNat_natCast, ceilDiv_fifteen (by omega)]

theorem muLouvre_bounds (h12 : t1 < t2) (t : Int) : 1 ≤ muLouvre t1 t2 t ∧ muLouvre t1 t2 t ≤ 16 := by
  rcases Int.lt_or_le t1 t with h1 | h1
  · rcases Int.lt_or_le t2 t with h2 | h2
    · rw [muLouvre_of_gt h12 h2]; decide
    · have hshare := ceilDiv_fifteenths (x := t.toNat - t1) (d := t2 - t1) (by omega) (by omega)
      rw [muLouvre_between h1 h2]
      omega
  · rw [muLouvre_of_le h1]; decide

end

/-- What a reading of the temperature shows, but for OVERT2 (R327, R328, R333). -/
def tempShown (u : Nat) (t : Int) (s : State) : State :=
  setF (MU.MUTEMP_REFX2 u) (if u < 16 ∧ 85 < t then 1 else 0)
    (setF (MU.MUTEMP_TCUR u) (toTwos 8 t) (setF (MU.MUTEMP_ABOVET1 u) (if (getF (MU.MUTHR_T1 u) s : Int) < t then 1 else 0)
      (setF (MU.MUTEMP_LVAL u)
        (if getF (MU.MUTEMP_LVAL u) s < muLouvre (getF (MU.MUTHR_T1 u) s) (getF (MU.MUTHR_T2 u) s) t then getF (MU.MUTEMP_LVAL u) s + 1
          else muLouvre (getF (MU.MUTHR_T1 u) s) (getF (MU.MUTHR_T2 u) s) t) s)))

/-- A reading that goes beyond T2 is recorded when the temperature was not beyond it before (R328). -/
theorem exec_muTempReading {u : MemUnit} (t : Int) {s : State} (hf : fatal s = false) (hr : (regionOf (muRegion u) s).inReset = false)
    (hd : (regionOf (muRegion u) s).down = false) (hs : getF (MU.MUSTAT_TSTATE u) s ≠ 0) :
    exec (.muTempReading u t) s = .next (if (getF (MU.MUTHR_T2 u) s : Int) < t then
        (if (getF (MU.MUTHR_T2 u) s : Int) < ofTwos 8 (getF (MU.MUTEMP_TCUR u) s) then setF (MU.MUTEMP_OVERT2 u) 1 (tempShown u t s)
          else errRecord 3 0 (muRegion u) 0 (u.val % 16) [u.val, toTwos 64 t] (setF (MU.MUTEMP_OVERT2 u) 1 (tempShown u t s)))
      else tempShown u t s) := by
  change execMuTempReading u t s = _
  simp only [execMuTempReading, hf, hr, hd, decide_eq_false hs, Bool.or_self, Bool.false_eq_true, if_false, b2n, Bool.and_eq_true,
    decide_eq_true_eq]
  rfl

/-! The registers of a unit that its bring-up writes (R331, R332, R337, R340). -/

section
variable (u : Nat)

@[simp] theorem key_tstate : (MU.MUSTAT_TSTATE u).key = muBase u * 64 + 0x100 := by simp only [Fld.key, MU.MUSTAT_TSTATE]; omega
@[simp] theorem key_lanerep : (MU.MUSTAT_LANEREP u).key = muBase u * 64 + 0x108 := by simp only [Fld.key, MU.MUSTAT_LANEREP]; omega
@[simp] theorem key_rate : (MU.MUSTAT_RATE u).key = muBase u * 64 + 0x110 := by simp only [Fld.key, MU.MUSTAT_RATE]; omega
@[simp] theorem key_fail : (MU.MUSTAT_FAIL u).key = muBase u * 64 + 0x118 := by simp only [Fld.key, MU.MUSTAT_FAIL]; omega
@[simp] theorem key_gib : (MU.MUCAP_GIB u).key = muBase u * 64 + 0x200 := by simp only [Fld.key, MU.MUCAP_GIB]; omega
@[simp] theorem key_slots : (MU.MUSLOTS_SLOTS u).key = muBase u * 64 + 0x300 := by simp only [Fld.key, MU.MUSLOTS_SLOTS]; omega
@[simp] theorem key_used : (MU.MUREMAP_USED u).key = muBase u * 64 + 0x900 := by simp only [Fld.key, MU.MUREMAP_USED]; omega
@[simp] theorem key_zeroRemain : (MU.MUZERO_REMAIN u).key = muBase u * 64 + 0x1000 := by simp only [Fld.key, MU.MUZERO_REMAIN]; omega
@[simp] theorem key_zeroDone : (MU.MUZERO_DONE u).key = muBase u * 64 + 0x101F := by simp only [Fld.key, MU.MUZERO_DONE]; omega

end

section
variable {u k : Nat} {g : Fld} (hu : u < 32) (hkey : g.key = muBase u * 64 + k) (hk : k < 0x40000 := by decide) (s : State)
include hkey hk

/-- A field of the page of a unit, by its key. -/
theorem inPage_of_key : InPage u g := by
  unfold InPage
  omega

include hu

/-- What boot shows of zeroing lies outside the pages of the units (R654, R671). -/
theorem getF_bootZeroing : getF g (bootZeroing s) = getF g s := by
  have hb := muBase_bounds hu
  have hne : g.key ≠ GLB.BOOT_STAGE.key := by simp only [Fld.key, GLB.BOOT_STAGE] at hkey ⊢; omega
  unfold bootZeroing
  split
  · exact getF_setF_ne _ _ _ _ hne
  · rfl

theorem getF_showBootZero : getF g (showBootZero s) = getF g s := by
  have hb := muBase_bounds hu
  have hne : g.key ≠ GLB.BOOTZERO_MIB.key := by simp only [Fld.key, GLB.BOOTZERO_MIB] at hkey ⊢; omega
  exact getF_setF_ne _ _ _ _ hne

/-- The record of a unit that fails leaves the unit's page (R311). -/
theorem getF_muFail (c : Nat) : getF g (muFail u c s) = getF g (muAbsent u 5 c s) :=
  getF_errRecord _ _ _ _ _ _ _ _ ((inPage_of_key hkey hk).plain hu)

end

@[simp] theorem showBootZero_mem (s : State) : (showBootZero s).mem = s.mem := rfl
@[simp] theorem showBootZero_inflight (s : State) : (showBootZero s).inflight = s.inflight := rfl
@[simp] theorem showBootZero_panes (s : State) : (showBootZero s).panes = s.panes := rfl

theorem bootZeroing_mem (s : State) : (bootZeroing s).mem = s.mem := by
  unfold bootZeroing
  split <;> rfl

/-! A unit that its bring-up ends without, or that fails (R311). -/

section
variable {u tstate cause : Nat} {s : State}

theorem getF_tstate_muAbsent : getF (MU.MUSTAT_TSTATE u) (muAbsent u tstate cause s) = tstate % 2 ^ 3 := getF_setF_self _ _ _

theorem getF_fail_muAbsent : getF (MU.MUSTAT_FAIL u) (muAbsent u tstate cause s) = cause % 2 ^ 8 := by
  unfold muAbsent
  rw [getF_setF_ne _ _ _ _ (by simp)]
  exact getF_setF_self _ _ _

theorem getF_gib_muAbsent : getF (MU.MUCAP_GIB u) (muAbsent u tstate cause s) = 0 := by
  unfold muAbsent
  rw [getF_setF_ne _ _ _ _ (by simp), getF_setF_ne _ _ _ _ (by simp), getF_setF_self, Nat.zero_mod]

theorem getF_slots_muAbsent : getF (MU.MUSLOTS_SLOTS u) (muAbsent u tstate cause s) = 0 := by
  unfold muAbsent
  rw [getF_setF_ne _ _ _ _ (by simp), getF_setF_ne _ _ _ _ (by simp), getF_setF_ne _ _ _ _ (by simp), getF_setF_self, Nat.zero_mod]

end

/-! A unit that trains (R308 to R312, R323, R325). -/

/-- The load of the remap table shows the entries in use, and no other register changes (R325, R337). -/
theorem getF_loadRemaps {u : Nat} {g : Fld} (hne : g.key ≠ (MU.MUREMAP_USED u).key) (s : State) :
    getF g (loadRemaps u s) = getF g s := by
  rw [loadRemaps, showUsed, getF_setF_ne _ _ _ _ hne]
  exact forEach_keep _ _ _ _ (fun _ _ _ => rfl)

theorem loadRemaps_mem (u : Nat) (s : State) : (loadRemaps u s).mem = s.mem :=
  forEach_keep (fun t => t.mem) _ _ _ (fun _ _ _ => rfl)

theorem repairRows_mem (u : Nat) (repairs : List MuRepair) (s : State) : (repairRows u repairs s).mem = s.mem := by
  unfold repairRows
  split <;> rfl

@[simp] theorem getF_takeIdentity (g : Fld) (u id : Nat) (s : State) : getF g (takeIdentity u id s) = getF g s := rfl
@[simp] theorem muAuxOf_takeIdentity (n u id : Nat) (s : State) : muAuxOf n (takeIdentity u id s) = muAuxOf n s := rfl
@[simp] theorem takeIdentity_mem (u id : Nat) (s : State) : (takeIdentity u id s).mem = s.mem := rfl

/-- The registers that show what has trained (R331, R332). -/
def typeShown (u rate lanes gib slots : Nat) (s : State) : State :=
  setF (MU.MUSTAT_RATE u) rate (setF (MU.MUSTAT_LANEREP u) lanes (setF (MU.MUCAP_GIB u) gib
    (setF (MU.MUSLOTS_SLOTS u) slots s)))

/-- A unit that has trained: its registers show it, and the log is that of its identity (R308, R309, R323). -/
def trainedAs (u rate lanes gib slots id : Nat) (s : State) : State :=
  takeIdentity u id (setMuAux u (fun a => { a with rest := shutRest u (typeShown u rate lanes gib slots s) }) (typeShown u rate lanes gib slots s))

section
variable {u rate lanes gib slots id : Nat} {s : State}

theorem muAuxOf_typeShown : muAuxOf u (typeShown u rate lanes gib slots s) = muAuxOf u s := by simp [typeShown]

theorem getF_trainedAs (g : Fld) : getF g (trainedAs u rate lanes gib slots id s) = getF g (typeShown u rate lanes gib slots s) := by
  simp [trainedAs]

theorem zeroing_trainedAs : (muAuxOf u (trainedAs u rate lanes gib slots id s)).zeroing = (muAuxOf u s).zeroing := by
  simp [trainedAs, muAuxOf_typeShown]

theorem trainedAs_mem : (trainedAs u rate lanes gib slots id s).mem = s.mem := by simp [trainedAs, typeShown]

/-- Outside a zeroing reset the unit is then READY; in one its repair follows (R310, R312). -/
theorem muTrainedAt_eq : muTrainedAt u rate lanes gib id s = if (muAuxOf u s).zeroing then
      setF (MU.MUSTAT_TSTATE u) 2 (trainedAs u rate lanes gib (slotsOfGib u gib) id s)
    else setF (MU.MUZERO_DONE u) 1 (setF (MU.MUSTAT_TSTATE u) 4 (loadRemaps u (trainedAs u rate lanes gib (slotsOfGib u gib) id s))) := by
  rw [← zeroing_trainedAs (rate := rate) (lanes := lanes) (gib := gib) (slots := slotsOfGib u gib) (id := id)]
  rfl

theorem muTrainedAt_mem : (muTrainedAt u rate lanes gib id s).mem = s.mem := by
  rw [muTrainedAt_eq]
  split
  · rw [setF_mem, trainedAs_mem]
  · rw [setF_mem, setF_mem, loadRemaps_mem, trainedAs_mem]

theorem getF_tstate_muTrainedAt :
    getF (MU.MUSTAT_TSTATE u) (muTrainedAt u rate lanes gib id s) = if (muAuxOf u s).zeroing then 2 else 4 := by
  rw [muTrainedAt_eq]
  split
  · rw [getF_setF_self]; rfl
  · rw [getF_setF_ne _ _ _ _ (by simp), getF_setF_self]; rfl

/-- The registers that show what has trained stay as they are while the unit goes on. -/
theorem getF_muTrainedAt {g : Fld} (hstate : g.key ≠ (MU.MUSTAT_TSTATE u).key) (hdone : g.key ≠ (MU.MUZERO_DONE u).key)
    (hused : g.key ≠ (MU.MUREMAP_USED u).key) :
    getF g (muTrainedAt u rate lanes gib id s) = getF g (trainedAs u rate lanes gib (slotsOfGib u gib) id s) := by
  rw [muTrainedAt_eq]
  split
  · rw [getF_setF_ne _ _ _ _ hstate]
  · rw [getF_setF_ne _ _ _ _ hdone, getF_setF_ne _ _ _ _ hstate, getF_loadRemaps hused]

theorem getF_rate_trainedAs : getF (MU.MUSTAT_RATE u) (trainedAs u rate lanes gib slots id s) = rate % 2 ^ 8 := by
  rw [getF_trainedAs]
  exact getF_setF_self _ _ _

theorem getF_gib_trainedAs : getF (MU.MUCAP_GIB u) (trainedAs u rate lanes gib slots id s) = gib % 2 ^ 16 := by
  rw [getF_trainedAs, typeShown, getF_setF_ne _ _ _ _ (by simp), getF_setF_ne _ _ _ _ (by simp)]
  exact getF_setF_self _ _ _

theorem getF_slots_trainedAs : getF (MU.MUSLOTS_SLOTS u) (trainedAs u rate lanes gib slots id s) = slots % 2 ^ 32 := by
  rw [getF_trainedAs, typeShown, getF_setF_ne _ _ _ _ (by simp), getF_setF_ne _ _ _ _ (by simp), getF_setF_ne _ _ _ _ (by simp)]
  exact getF_setF_self _ _ _

/-- The capacities and rates that the device supports fit their registers (R308, R309). -/
theorem gib_le_of_supported (h : supportedGib u gib = true) : gib ≤ 256 := by
  unfold supportedGib at h
  split at h
  · simp at h; omega
  · simp at h; omega

theorem slotsOfGib_lt (h : gib ≤ 256) : slotsOfGib u gib < 2 ^ 32 := by
  unfold slotsOfGib
  omega

theorem rate_lt_of_ratesOf {rated n : Nat} (h : (ratesOf u rated)[n]? = some rate) : rate < 2 ^ 8 := by
  have hmem := List.mem_of_getElem? h
  unfold ratesOf at hmem
  split at hmem
  · simp at hmem; omega
  · split at hmem <;> simp at hmem <;> omega

/-- What a unit of a supported capacity shows once it has trained (R310, R331, R332). -/
theorem muTrainedAt_shows (hgib : supportedGib u gib = true) (hrate : rate < 2 ^ 8) :
    getF (MU.MUSTAT_TSTATE u) (muTrainedAt u rate lanes gib id s) = (if (muAuxOf u s).zeroing then 2 else 4)
    ∧ getF (MU.MUSTAT_RATE u) (muTrainedAt u rate lanes gib id s) = rate
    ∧ getF (MU.MUCAP_GIB u) (muTrainedAt u rate lanes gib id s) = gib
    ∧ getF (MU.MUSLOTS_SLOTS u) (muTrainedAt u rate lanes gib id s) = slotsOfGib u gib
    ∧ (muTrainedAt u rate lanes gib id s).mem = s.mem := by
  have hle := gib_le_of_supported hgib
  refine ⟨getF_tstate_muTrainedAt, ?_, ?_, ?_, muTrainedAt_mem⟩
  · rw [getF_muTrainedAt (by simp) (by simp) (by simp), getF_rate_trainedAs, Nat.mod_eq_of_lt hrate]
  · rw [getF_muTrainedAt (by simp) (by simp) (by simp), getF_gib_trainedAs, Nat.mod_eq_of_lt (by omega)]
  · rw [getF_muTrainedAt (by simp) (by simp) (by simp), getF_slots_trainedAs, Nat.mod_eq_of_lt (slotsOfGib_lt hle)]

end

/-! The repair of a zeroing reset, and zeroing (R310, R314, R324, R325). -/

section
variable {u : Nat} {repairs : List MuRepair} {s : State}

theorem getF_tstate_muRepaired (hu : u < 32) : getF (MU.MUSTAT_TSTATE u) (muRepaired u repairs s) = 3 := by
  rw [muRepaired, getF_showBootZero hu (key_tstate u), getF_setF_ne _ _ _ _ (by simp),
    getF_setF_ne _ _ _ _ (by simp), getF_setF_self]
  rfl

theorem getF_zeroDone_muRepaired (hu : u < 32) : getF (MU.MUZERO_DONE u) (muRepaired u repairs s) = 0 := by
  rw [muRepaired, getF_showBootZero hu (key_zeroDone u), getF_setF_self]
  rfl

theorem muRepaired_mem : (muRepaired u repairs s).mem = s.mem := by
  simp [muRepaired, loadRemaps_mem, repairRows_mem]

/-- Every byte of the unit is zero, and none of its lines holds poison (R314). -/
def zeroed (u : Nat) (s : State) : State :=
  { s with mem := assocSplice s.mem (u * 2 ^ 41) (u * 2 ^ 41 + 2 ^ 41) []
           poison := s.poison.filter (fun l => !(decide (u * 2 ^ 41 / 64 ≤ l) && decide (l < (u * 2 ^ 41 + 2 ^ 41) / 64))) }

theorem muZeroed_eq (h : getF (MU.MUSTAT_TSTATE u) s = 3) : muZeroed u s =
    showBootZero (setF (MU.MUZERO_DONE u) 1 (setF (MU.MUZERO_REMAIN u) 0 (setF (MU.MUSTAT_TSTATE u) 4
      (setMuAux u (fun a => { a with zeroing := false }) (zeroed u s))))) := if_neg (by simp [h])

theorem getF_tstate_muZeroed (hu : u < 32) (h : getF (MU.MUSTAT_TSTATE u) s = 3) : getF (MU.MUSTAT_TSTATE u) (muZeroed u s) = 4 := by
  rw [muZeroed_eq h, getF_showBootZero hu (key_tstate u), getF_setF_ne _ _ _ _ (by simp),
    getF_setF_ne _ _ _ _ (by simp), getF_setF_self]
  rfl

theorem getF_zeroDone_muZeroed (hu : u < 32) (h : getF (MU.MUSTAT_TSTATE u) s = 3) : getF (MU.MUZERO_DONE u) (muZeroed u s) = 1 := by
  rw [muZeroed_eq h, getF_showBootZero hu (key_zeroDone u), getF_setF_self]
  rfl

theorem getF_zeroRemain_muZeroed (hu : u < 32) (h : getF (MU.MUSTAT_TSTATE u) s = 3) : getF (MU.MUZERO_REMAIN u) (muZeroed u s) = 0 := by
  rw [muZeroed_eq h, getF_showBootZero hu (key_zeroRemain u), getF_setF_ne _ _ _ _ (by simp), getF_setF_self]
  rfl

/-- Zeroing changes the memory and poison, register fields and the unit's own state alone. -/
theorem muZeroed_mem (h : getF (MU.MUSTAT_TSTATE u) s = 3) : (muZeroed u s).mem = (zeroed u s).mem := by simp [muZeroed_eq h]
theorem muZeroed_inflight (h : getF (MU.MUSTAT_TSTATE u) s = 3) : (muZeroed u s).inflight = s.inflight := by simp [muZeroed_eq h, zeroed]
theorem muZeroed_panes (h : getF (MU.MUSTAT_TSTATE u) s = 3) : (muZeroed u s).panes = s.panes := by simp [muZeroed_eq h, zeroed]

theorem memByte_congr {s t : State} (h : t.mem = s.mem) (a : Nat) : memByte a t = memByte a s := congrArg (assocGet memDefault · a) h

/-- The bytes of a unit lie at 2^41 addresses from its number times 2^41. -/
theorem memByte_zeroed_in {a : Nat} (hlo : u * 2 ^ 41 ≤ a) (hhi : a < (u + 1) * 2 ^ 41) : memByte a (zeroed u s) = 0#8 :=
  assocGet_splice_in _ _ _ _ _ _ hlo (by omega)

theorem memByte_zeroed_out {a : Nat} (h : a < u * 2 ^ 41 ∨ (u + 1) * 2 ^ 41 ≤ a) : memByte a (zeroed u s) = memByte a s :=
  assocGet_splice_out _ _ _ _ _ _ (by omega) (Nat.le_add_right _ _) (by simp)

end

/-! MU_TRAINING_DONE (R310, R311). -/

section
variable {u : MemUnit} {s : State} (repairs : List MuRepair)

theorem exec_muTrainingDone (r : MuTraining) (hr : (regionOf (muRegion u) s).inReset = false) :
    exec (.muTrainingDone u r repairs) s = .next (bootZeroing (muTrained u r repairs s)) := by
  change execMuTrainingDone u r repairs s = _
  simp [execMuTrainingDone, hr]

theorem muTrained_of_repair (r : MuTraining) (h : getF (MU.MUSTAT_TSTATE u) s = 2) : muTrained u r repairs s = muRepaired u repairs s :=
  if_pos h

variable (h : getF (MU.MUSTAT_TSTATE u) s = 1)
include h

theorem muTrained_noModule (hu : 16 ≤ u.val) : muTrained u .noModule repairs s = muAbsent u 0 1 s := by
  simp [muTrained, h, Nat.not_lt.mpr hu]

theorem muTrained_badModule (hu : 16 ≤ u.val) : muTrained u .badModule repairs s = muFail u 2 s := by
  simp [muTrained, h, Nat.not_lt.mpr hu]

theorem muTrained_lanesFailed (hu : u.val < 16) : muTrained u .lanesFailed repairs s = muFail u 4 s := by
  simp [muTrained, h, hu]

/-- A unit that fails at one rate tries its next lower one, and fails after its last (R311). -/
theorem muTrained_failedAt (rated : Nat) : muTrained u (.failedAt rated) repairs s
    = if (muAuxOf u s).fell + 1 < (ratesOf u rated).length then setMuAux u (fun a => { a with fell := (muAuxOf u s).fell + 1 }) s
      else muFail u 3 s := by
  simp [muTrained, h]

theorem muTrained_trained {rated lanes gib id rate : Nat} (hgib : supportedGib u gib = true)
    (hrate : (ratesOf u rated)[(muAuxOf u s).fell]? = some rate) :
    muTrained u (.trained rated lanes gib id) repairs s = muTrainedAt u rate lanes gib id s := by
  simp [muTrained, h, hgib, hrate]

end

theorem getF_muFail_shows {u : MemUnit} (c : Nat) (s : State) : getF (MU.MUSTAT_TSTATE u) (muFail u c s) = 5
    ∧ getF (MU.MUSTAT_FAIL u) (muFail u c s) = c % 2 ^ 8 ∧ getF (MU.MUSLOTS_SLOTS u) (muFail u c s) = 0 := by
  refine ⟨?_, ?_, ?_⟩
  · rw [getF_muFail u.isLt (key_tstate u), getF_tstate_muAbsent]; rfl
  · rw [getF_muFail u.isLt (key_fail u), getF_fail_muAbsent]
  · rw [getF_muFail u.isLt (key_slots u), getF_slots_muAbsent]

/-- Settles O36: each reading and each end of a bring-up step by its own equation. That a unit ends both its training and its repair by
MU_TRAINING_DONE is log 251, that stacks alone refresh at twice the rate log 66. -/
theorem memoryUnits : Obligations.MemoryUnits := by
  refine ⟨fun u t s v hf hr hd hs hv => ?reading,
    fun t1 t2 t h12 => ⟨muLouvre_of_le, muLouvre_of_gt h12, muLouvre_at_t2 h12, muLouvre_bounds h12 t⟩,
    fun u repairs s hr h1 => ?training, fun u r repairs s hr h2 => ?repair, fun u s h3 => ?zeroing⟩
  case reading =>
    obtain rfl : v = tempShown u t s := hv
    have hexec := exec_muTempReading t hf hr hd hs
    exact ⟨fun hle => by rw [hexec, if_neg (by omega)], fun hlt hold => by rw [hexec, if_pos hlt, if_pos hold],
      fun hlt hnew => by rw [hexec, if_pos hlt, if_neg (by omega)]⟩
  case training =>
    refine ⟨fun hu => ?noModule, fun hu => ?badModule, fun hu => ?lanesFailed, fun rated hn => ?nextRate, fun rated hn => ?lastRate,
      fun c => getF_muFail_shows c s, fun rated lanes gib id rate hgib hrate => ?trained⟩
    case noModule =>
      refine ⟨_, exec_muTrainingDone repairs .noModule hr, ?_⟩
      rw [muTrained_noModule repairs h1 hu, getF_bootZeroing u.isLt (key_tstate u),
        getF_bootZeroing u.isLt (key_fail u), getF_bootZeroing u.isLt (key_gib u),
        getF_bootZeroing u.isLt (key_slots u), getF_tstate_muAbsent, getF_fail_muAbsent]
      exact ⟨rfl, rfl, getF_gib_muAbsent, getF_slots_muAbsent⟩
    case badModule => rw [exec_muTrainingDone repairs _ hr, muTrained_badModule repairs h1 hu]
    case lanesFailed => rw [exec_muTrainingDone repairs _ hr, muTrained_lanesFailed repairs h1 hu]
    case nextRate => rw [exec_muTrainingDone repairs _ hr, muTrained_failedAt repairs h1, if_pos hn]
    case lastRate => rw [exec_muTrainingDone repairs _ hr, muTrained_failedAt repairs h1, if_neg (Nat.not_lt.mpr hn)]
    case trained =>
      refine ⟨_, exec_muTrainingDone repairs _ hr, ?_⟩
      rw [muTrained_trained repairs h1 hgib hrate, getF_bootZeroing u.isLt (key_tstate u), getF_bootZeroing u.isLt (key_rate u),
        getF_bootZeroing u.isLt (key_gib u), getF_bootZeroing u.isLt (key_slots u), bootZeroing_mem]
      exact muTrainedAt_shows hgib (rate_lt_of_ratesOf hrate)
  case repair =>
    exact ⟨_, exec_muTrainingDone repairs r hr, muTrained_of_repair repairs r h2, by
      rw [muTrained_of_repair repairs r h2]
      exact ⟨getF_tstate_muRepaired u.isLt, getF_zeroDone_muRepaired u.isLt, muRepaired_mem⟩⟩
  case zeroing =>
    exact ⟨muZeroed u s, rfl, getF_tstate_muZeroed u.isLt h3, getF_zeroDone_muZeroed u.isLt h3, getF_zeroRemain_muZeroed u.isLt h3,
      fun a hlo hhi => (memByte_congr (muZeroed_mem h3) a).trans (memByte_zeroed_in hlo hhi),
      fun a ha => (memByte_congr (muZeroed_mem h3) a).trans (memByte_zeroed_out ha), muZeroed_inflight h3, muZeroed_panes h3⟩

end Sys2Proof.Machine

namespace Sys2Proof.Machine

/-! PROOFS. Cartridges: presence, identification, FORMAT and ERASEP, and the wear counter (chapter 09). -/

/-! The registers of a port (R368 to R373). -/

/-- The key of the first field of a port's page. -/
def portKey (p : Nat) : Nat := (0x01C00000 + p * 0x1000) * 64

section
variable (p : Nat)

@[simp] theorem key_cpstat_cstate : (CART.CPSTAT_CSTATE p).key = portKey p := rfl
@[simp] theorem key_cpstat_unfmt : (CART.CPSTAT_UNFMT p).key = portKey p + 8 := rfl
@[simp] theorem key_cpstat_foreign : (CART.CPSTAT_FOREIGN p).key = portKey p + 9 := rfl
@[simp] theorem key_cpstat_worn : (CART.CPSTAT_WORN p).key = portKey p + 10 := rfl
@[simp] theorem key_cpstat_lowlife : (CART.CPSTAT_LOWLIFE p).key = portKey p + 11 := rfl
@[simp] theorem key_cpstat_spillgone : (CART.CPSTAT_SPILLGONE p).key = portKey p + 12 := rfl
@[simp] theorem key_cpcmd_cmd : (CART.CPCMD_CMD p).key = portKey p + 0x201 := by simp only [Fld.key, CART.CPCMD_CMD, portKey]; omega
@[simp] theorem key_cpcmd_err : (CART.CPCMD_ERR p).key = portKey p + 0x21C := by simp only [Fld.key, CART.CPCMD_ERR, portKey]; omega
@[simp] theorem key_cpserial_serial (k : Nat) : (CART.CPSERIAL_SERIAL p k).key = portKey p + (0x400 + 256 * k) := by
  simp only [Fld.key, CART.CPSERIAL_SERIAL, portKey]; omega
@[simp] theorem key_cpcap_capgib : (CART.CPCAP_CAPGIB p).key = portKey p + 0x800 := by simp only [Fld.key, CART.CPCAP_CAPGIB, portKey]; omega
@[simp] theorem key_cpcap_psize : (CART.CPCAP_PSIZE p).key = portKey p + 0x810 := by simp only [Fld.key, CART.CPCAP_PSIZE, portKey]; omega
@[simp] theorem key_cpslots_slots : (CART.CPSLOTS_SLOTS p).key = portKey p + 0x900 := by
  simp only [Fld.key, CART.CPSLOTS_SLOTS, portKey]; omega
@[simp] theorem key_cpwear_committed : (CART.CPWEAR_COMMITTED p).key = portKey p + 0xA00 := by
  simp only [Fld.key, CART.CPWEAR_COMMITTED, portKey]; omega
@[simp] theorem key_cplife_permille : (CART.CPLIFE_PERMILLE p).key = portKey p + 0xC00 := by
  simp only [Fld.key, CART.CPLIFE_PERMILLE, portKey]; omega

end

/-- A field of a port's page is none of the peephole's or of the error ring's. -/
theorem plain_of_portKey (p : PortNo) {g : Fld} {k : Nat} (hkey : g.key = portKey p + k) (hk : k < 0x40000 := by decide) : plain g := by
  have hp := p.isLt
  simp only [portKey] at hkey
  unfold plain
  omega

/-- A record of a port changes nothing that a port holds beside its registers. -/
@[simp] theorem cartAuxOf_portRecord (q sev p : Nat) (d : List Nat) (s : State) : cartAuxOf q (portRecord sev p d s) = cartAuxOf q s := by
  rw [portRecord, errRecord_eq]; rfl

@[simp] theorem cartAuxOf_peep (q k u e i : Nat) (s : State) : cartAuxOf q (peep k u e i s) = cartAuxOf q s := by rw [peep_eq]; rfl

@[simp] theorem portRecord_freeIdx (sev p : Nat) (d : List Nat) (s : State) : (portRecord sev p d s).freeIdx = s.freeIdx := by
  rw [portRecord, errRecord_eq]

@[simp] theorem portRecord_mem (sev p : Nat) (d : List Nat) (s : State) : (portRecord sev p d s).mem = s.mem := errRecord_mem _ _ _ _ _ _ _

@[simp] theorem peep_freeIdx (k u e i : Nat) (s : State) : (peep k u e i s).freeIdx = s.freeIdx := by rw [peep_eq]

/-! The presence of a cartridge (R360, R361, R364). -/

/-- The presence that the debounce has found (R360). -/
def presenceTaken (p : Nat) (s : State) : State := setCart p (fun a => { a with seated := a.present }) s

section
variable {p : PortNo} {s : State}

theorem exec_cartPresenceChange {present : Bool} (h : (cartAuxOf p s).present ≠ present) :
    exec (.cartPresenceChange p present) s = .next (setCart p (fun a => { a with present := present, since := licOf 98 s }) s) :=
  congrArg Host.Outcome.next (if_neg h)

theorem exec_cartPresenceDebounced_early (h : licSince 98 (cartAuxOf p s).since s < 2 ^ 24) :
    exec (.cartPresenceDebounced p) s = .next s :=
  congrArg Host.Outcome.next (if_pos (by simp only [Bool.or_eq_true, decide_eq_true_eq]; exact .inl (.inr h)))

/-- A presence that has changed for 2^24 counts is taken; a removal erases the spill region whatever the shutter's state (R353). -/
theorem exec_cartPresenceDebounced_late (hlate : 2 ^ 24 ≤ licSince 98 (cartAuxOf p s).since s) (hf : fatal s = false)
    (hnew : (cartAuxOf p s).present ≠ (cartAuxOf p s).seated) :
    exec (.cartPresenceDebounced p) s = .next (if (cartAuxOf p s).present then
        (if getF (GLB.SHUT_STATE (100 + p)) s = 0 ∨ getF (GLB.SHUT_STATE (100 + p)) s = 3 then presenceTaken p s
          else startInsertion p (presenceTaken p s))
      else emptyPort p (replaceSpill p (if getF (GLB.SHUT_STATE (100 + p)) s = 0 then presenceTaken p s
        else surpriseRemoval p (presenceTaken p s)))) :=
  congrArg Host.Outcome.next (if_neg (by simpa [hf, hnew] using hlate))

theorem exec_cartPgoodTimeout (hstate : getF (CART.CPSTAT_CSTATE p) s = 1) (hlate : 2 ^ 27 ≤ licSince 98 (cartAuxOf p s).pwrSince s)
    (hf : fatal s = false) : exec (.cartPgoodTimeout p) s = .next (rejectCart p 8 s) :=
  congrArg Host.Outcome.next (if_pos (by simpa [hstate, hf] using hlate))

end

/-! Identification (R344, R346, R347, R361). -/

/-- The identity element has been read; the serial number of a record that is accepted is known, whatever else rejects the cartridge. -/
def identified (p : Nat) (i : CartIdentity) (s : State) : State :=
  if identityReason p i s = 0 ∨ 4 ≤ identityReason p i s then
    setCart p (fun a => { a with serial := byteSlice i.record 8 16 }) (readElement p s)
  else readElement p s

theorem exec_cartPgood {p : PortNo} {i : CartIdentity} {s : State} (hstate : getF (CART.CPSTAT_CSTATE p) s = 1) (hf : fatal s = false) :
    exec (.cartPgood p i) s = .next (if identityReason p i s ≠ 0 then rejectCart p (identityReason p i s) (identified p i s)
    else setCommitted p i.wear (setF (CART.CPSTAT_CSTATE p) 2 (setF (CART.CPCAP_CAPGIB p) (leAt i.record 0x18 4)
      (setF (CART.CPRATED_RATED p) (leAt i.record 0x1C 4)
        (setCart p (fun a => { a with written := i.wear * 10 ^ 9 }) (identified p i s)))))) := by
  change execCartPgood p i s = _
  simp only [execCartPgood, hstate, hf, identified, recSerial, recCap, recRated, Bool.or_eq_true, decide_eq_true_eq]
  rfl

theorem identityReason_of_unreadable (p : Nat) {i : CartIdentity} (s : State) (h : i.readable = false) : identityReason p i s = 1 := by
  simp [identityReason, h]

/-! Initialisation (R342, R350, R355, R356, R360). -/

/-- The serial number of a cartridge is shown (R371). -/
def serialShown (p : Nat) (s : State) : State :=
  forEach [0, 1, 2, 3] (fun k s => setF (CART.CPSERIAL_SERIAL p k) (leAt (cartAuxOf p s).serial (4 * k) 4) s) s

/-- What a port takes of an initialised cartridge beside its registers: its rates, its label, and its key where it unwraps. -/
def cartridgeTaken (p : Nat) (x : CartInit) (s : State) : State :=
  setCart p (fun a => { a with
    rates := x.rates, label := labelOf p x s, persistKey := ((labelOf p x s).bind (fun l => unwrapLabel l s)).getD [] }) s

section
variable {p : PortNo} {x : CartInit} {s : State}

@[simp] theorem cartAuxOf_serialShown : cartAuxOf p (serialShown p s) = cartAuxOf p s := rfl

theorem getF_serial_serialShown {k : Nat} (hk : k < 4) :
    getF (CART.CPSERIAL_SERIAL p k) (serialShown p s) = leAt (cartAuxOf p s).serial (4 * k) 4 % 2 ^ 32 := by
  have hwidth (j : Nat) : (CART.CPSERIAL_SERIAL p j).width = 32 := rfl
  interval_cases k <;> simp [serialShown, getF_setF_ne, hwidth]

theorem exec_cartInitialised_training (hf : fatal s = false) (hstate : getF (CART.CPSTAT_CSTATE p) s = 2) :
    exec (.cartInitialised p x) s = .next (initialisePort p x s) := by
  change execCartInitialised p x s = _
  simp [execCartInitialised, hf, hstate]

theorem exec_cartInitialised_reading (hf : fatal s = false) (hstate : getF (CART.CPSTAT_CSTATE p) s = 3) :
    exec (.cartInitialised p x) s = .next (readyPort p s) := by
  change execCartInitialised p x s = _
  simp [execCartInitialised, hf, hstate]

/-- The channels have not all trained at a rate of R342. -/
theorem untrained_iff (rates : List Nat) : (decide (rates.length ≠ 8) || !rates.all (fun r => onfiRates.contains r)) = true
    ↔ rates.length ≠ 8 ∨ ∃ r ∈ rates, r ≠ 3600 ∧ r ≠ 2400 ∧ r ≠ 1600 := by
  simp [onfiRates]

theorem initialisePort_of_untrained (h : x.rates.length ≠ 8 ∨ ∃ r ∈ x.rates, r ≠ 3600 ∧ r ≠ 2400 ∧ r ≠ 1600) :
    initialisePort p x s = rejectCart p 5 s :=
  if_pos ((untrained_iff x.rates).mpr h)

theorem initialisePort_of_trained (hlength : x.rates.length = 8) (hrates : ∀ r ∈ x.rates, r = 3600 ∨ r = 2400 ∨ r = 1600) :
    initialisePort p x s = if storageKey s = false then rejectCart p 6 s
      else setF (CART.CPSTAT_CSTATE p) 3 (serialShown p (cartridgeTaken p x s)) := by
  have htrained : ¬ (x.rates.length ≠ 8 ∨ ∃ r ∈ x.rates, r ≠ 3600 ∧ r ≠ 2400 ∧ r ≠ 1600) := by
    rintro (h | ⟨r, hr, h1, h2, h3⟩)
    · exact h hlength
    · rcases hrates r hr with h | h | h <;> contradiction
  rw [initialisePort, if_neg (mt (untrained_iff x.rates).mp htrained)]
  cases storageKey s <;> rfl

theorem readyPort_of_no_label (h : (cartAuxOf p s).label = none) :
    readyPort p s = setF (CART.CPSTAT_UNFMT p) 1 (setF (CART.CPSTAT_CSTATE p) 4 s) := by
  simp [readyPort, h]

/-- What READY shows of a label: its size, the slots that leaves, and whether its key unwraps (R350, R355, R356). -/
theorem readyPort_of_label {l : CartLabel} (h : (cartAuxOf p s).label = some l) : readyPort p s =
    setF (CART.CPSLOTS_SLOTS p) (spillSlots (getF (CART.CPCAP_CAPGIB p) s) l.psize)
      (setF (CART.CPSTAT_FOREIGN p) (b2n (unwrapLabel l s).isNone) (setF (CART.CPCAP_PSIZE p) l.psize (setF (CART.CPSTAT_CSTATE p) 4 s))) := by
  simp only [readyPort, cartAuxOf_setF, h]
  rw [getF_setF_ne _ _ _ _ (by simp), getF_setF_ne _ _ _ _ (by simp), getF_setF_ne _ _ _ _ (by simp)]
  rfl

theorem readyPort_shows {l : CartLabel} (h : (cartAuxOf p s).label = some l) : getF (CART.CPSTAT_CSTATE p) (readyPort p s) = 4
    ∧ getF (CART.CPCAP_PSIZE p) (readyPort p s) = l.psize % 2 ^ 16
    ∧ getF (CART.CPSLOTS_SLOTS p) (readyPort p s) = spillSlots (getF (CART.CPCAP_CAPGIB p) s) l.psize % 2 ^ 32
    ∧ getF (CART.CPSTAT_FOREIGN p) (readyPort p s) = (if unwrapLabel l s = none then 1 else 0) ∧ (readyPort p s).mem = s.mem := by
  rw [readyPort_of_label h]
  refine ⟨?state, ?size, getF_setF_self _ _ _, ?foreign, rfl⟩
  case state =>
    rw [getF_setF_ne _ _ _ _ (by simp), getF_setF_ne _ _ _ _ (by simp), getF_setF_ne _ _ _ _ (by simp), getF_setF_self]; rfl
  case size =>
    rw [getF_setF_ne _ _ _ _ (by simp), getF_setF_ne _ _ _ _ (by simp), getF_setF_self]; rfl
  case foreign =>
    rw [getF_setF_ne _ _ _ _ (by simp), getF_setF_self]
    cases unwrapLabel l s <;> rfl

end

/-- Settles O37: each command by its own equation. That insertion goes by an OPEN or OPENING shutter is log 160, that CART_INITIALISED ends
two steps log 252, and that a key is FOREIGN where it does not unwrap log 164. -/
theorem cartridges : Obligations.Cartridges := by
  refine ⟨fun p s => ⟨fun lv => exec_cartPresenceChange, ?inserted, ?removed, exec_cartPresenceDebounced_early, exec_cartPgoodTimeout⟩,
    fun p i x s w hf hknown hunknown => ?_⟩
  case inserted =>
    intro hlate hf hpresent hseated hopen
    rw [exec_cartPresenceDebounced_late hlate hf (by simp [hpresent, hseated]), if_pos hpresent, if_neg (by simp [hopen])]
    rfl
  case removed =>
    intro hlate hf hpresent hseated hopen
    rw [exec_cartPresenceDebounced_late hlate hf (by simp [hpresent, hseated]), if_neg (by simp [hpresent]), if_neg (by simp [hopen])]
    rfl
  have hw : identified p i s = w := by
    unfold identified
    split
    · next h => exact (hknown h).symm
    · next h => exact (hunknown (by omega) (by omega)).symm
  refine ⟨fun h1 hwhy => ?rejected, fun h1 hwhy => ?accepted, identityReason_of_unreadable p s, rfl,
    fun h2 => ⟨fun hbad => ?untrained, fun hlength hrates => ?trained⟩, fun h3 => ⟨fun hnone => ?unformatted, fun l hl => ?formatted⟩⟩
  case rejected => rw [exec_cartPgood h1 hf, if_pos hwhy, hw]
  case accepted => rw [exec_cartPgood h1 hf, if_neg (not_not_intro hwhy), hw]
  case untrained => rw [exec_cartInitialised_training hf h2, initialisePort_of_untrained hbad]
  case trained =>
    rw [exec_cartInitialised_training hf h2, initialisePort_of_trained hlength hrates]
    refine ⟨fun hkey => by rw [if_pos hkey], fun hkey => ⟨_, by rw [if_neg (by simp [hkey])], getF_setF_self _ _ _, fun k hk => ?_, ?_⟩⟩
    · rw [getF_setF_ne _ _ _ _ (by simp), getF_serial_serialShown hk, cartridgeTaken, cartAuxOf_setCart_self]
    · rw [cartAuxOf_setF, cartAuxOf_serialShown, cartridgeTaken, cartAuxOf_setCart_self]
  case unformatted => rw [exec_cartInitialised_reading hf h3, readyPort_of_no_label hnone]
  case formatted => exact ⟨_, exec_cartInitialised_reading hf h3, readyPort_shows hl⟩

/-! The wear counter (R344, R345, R357, R358). -/

/-- The field shows nothing of the wear of a port, and is none that a record or a count changes. -/
structure ShowsNoWear (p : Nat) (g : Fld) : Prop where
  plain : plain g
  life : g.key ≠ (CART.CPLIFE_PERMILLE p).key
  committed : g.key ≠ (CART.CPWEAR_COMMITTED p).key
  lowlife : g.key ≠ (CART.CPSTAT_LOWLIFE p).key
  worn : g.key ≠ (CART.CPSTAT_WORN p).key

/-- What a program of a cartridge leaves: every register that does not show its wear, its serial number, and the values drawn. -/
structure KeptByWear (p : Nat) (s t : State) : Prop where
  fields : ∀ g, ShowsNoWear p g → getF g t = getF g s
  serial : (cartAuxOf p t).serial = (cartAuxOf p s).serial
  drawn : t.freeIdx = s.freeIdx

section
variable {p : Nat} {s t : State}

theorem KeptByWear.refl (p : Nat) (s : State) : KeptByWear p s s := ⟨fun _ _ => rfl, rfl, rfl⟩

/-- A register that shows wear is set. -/
theorem KeptByWear.setF {f : Fld} (hf : ∀ g, ShowsNoWear p g → g.key ≠ f.key) (v : Nat) (h : KeptByWear p s t) :
    KeptByWear p s (setF f v t) :=
  ⟨fun g hg => (getF_setF_ne _ _ _ _ (hf g hg)).trans (h.fields g hg), h.serial, h.drawn⟩

theorem KeptByWear.setCart {f : CartAux → CartAux} (hf : ∀ a, (f a).serial = a.serial) (h : KeptByWear p s t) :
    KeptByWear p s (setCart p f t) :=
  ⟨h.fields, by rw [cartAuxOf_setCart_self, hf, h.serial], h.drawn⟩

theorem KeptByWear.portRecord (sev : Nat) (d : List Nat) (h : KeptByWear p s t) : KeptByWear p s (portRecord sev p d t) :=
  ⟨fun g hg => (getF_errRecord _ _ _ _ _ _ _ _ hg.plain).trans (h.fields g hg), by rw [cartAuxOf_portRecord, h.serial],
    by rw [portRecord_freeIdx, h.drawn]⟩

theorem KeptByWear.peep (k u e n : Nat) (h : KeptByWear p s t) : KeptByWear p s (peep k u e n t) :=
  ⟨fun g hg => (getF_peep _ _ _ _ _ _ hg.plain).trans (h.fields g hg), by rw [cartAuxOf_peep, h.serial], by rw [peep_freeIdx, h.drawn]⟩

theorem KeptByWear.setCommitted (v : Nat) (h : KeptByWear p s t) : KeptByWear p s (setCommitted p v t) := by
  unfold Machine.setCommitted
  extract_lets rated life u₁ u₂
  have h₁ : KeptByWear p s u₁ := (h.setF (fun _ hg => hg.committed) _).setF (fun _ hg => hg.life) _
  have h₂ : KeptByWear p s u₂ :=
    ite_keep (.portRecord _ _ (.setF (fun _ hg => hg.lowlife) _ (.setCart (fun _ => rfl) h₁))) h₁
  exact ite_keep (.setF (fun _ hg => hg.worn) _ (.setCart (fun _ => rfl) h₂)) h₂

theorem KeptByWear.programBytes (n : Nat) (h : KeptByWear p s t) : KeptByWear p s (programBytes p n t) :=
  (h.peep _ _ _ _).setCart (fun _ => rfl)

theorem KeptByWear.programWhole (n : Nat) (h : KeptByWear p s t) : KeptByWear p s (programWhole p n t) := by
  unfold Machine.programWhole
  extract_lets need c v u
  have hwritten : KeptByWear p s (writeCounter p v t) := ⟨h.fields, h.serial, h.drawn⟩
  have hu : KeptByWear p s u := ite_keep (hwritten.setCommitted v) h
  exact ite_keep hu (hu.programBytes n)

end

theorem fatal_setCommitted (p v : Nat) (s : State) : fatal (setCommitted p v s) = fatal s := by
  have hne (k : Nat) : GLB.STAT_FATAL.key ≠ portKey p + k := by simp only [Fld.key, GLB.STAT_FATAL, portKey]; omega
  have hfield : ShowsNoWear p GLB.STAT_FATAL := ⟨by unfold plain; decide, by simp [hne], by simp [hne], by simp [hne], by simp [hne]⟩
  rw [fatal, flag, ((KeptByWear.refl p s).setCommitted v).fields _ hfield]
  rfl

section
variable {p : PortNo} {n : Nat} {s : State}

/-- A program that has no room waits, and the counter is to be written 64 GB on (R357). -/
theorem startCommit_shows : cartAuxOf p (startCommit p n s)
      = { cartAuxOf p s with commit := some (getF (CART.CPWEAR_COMMITTED p) s + 64), heldBytes := n }
    ∧ (startCommit p n s).out = .i3cWrite p 0x0100 (leBytes 8 (getF (CART.CPWEAR_COMMITTED p) s + 64)) :: s.out
    ∧ (startCommit p n s).mem = s.mem :=
  ⟨by simp [startCommit, writeCounter], rfl, rfl⟩

/-- A cartridge that is not in service, or worn, is not programmed (R358). -/
theorem programOrHold_of_stopped (h : portReady p s = false ∨ cartWorn p s = true) : programOrHold p n s = s :=
  if_pos (by simpa using h)

section
variable (hready : portReady p s = true) (hworn : cartWorn p s = false)
include hready hworn

theorem programOrHold_in_service : programOrHold p n s = if (cartAuxOf p s).commit.isSome then
      setCart p (fun a => { a with heldBytes := a.heldBytes + n }) s
    else if wearRoom p n s then programBytes p n s else startCommit p n s :=
  if_neg (by simp [hready, hworn])

theorem programOrHold_of_room (hc : (cartAuxOf p s).commit = none) (hroom : wearRoom p n s = true) :
    programOrHold p n s = programBytes p n s := by
  simp [programOrHold_in_service hready hworn, hc, hroom]

theorem programOrHold_of_no_room (hc : (cartAuxOf p s).commit = none) (hroom : wearRoom p n s = false) :
    programOrHold p n s = startCommit p n s := by
  simp [programOrHold_in_service hready hworn, hc, hroom]

theorem programOrHold_of_commit (hc : (cartAuxOf p s).commit ≠ none) :
    programOrHold p n s = setCart p (fun a => { a with heldBytes := a.heldBytes + n }) s := by
  rw [programOrHold_in_service hready hworn, if_pos (Option.isSome_iff_ne_none.mpr hc)]

end

theorem exec_wearCounterCommit (hf : fatal s = false) : exec (.wearCounterCommit p n) s = .next (programOrHold p n s) :=
  congrArg Host.Outcome.next (if_neg (by simp [hf]))

theorem exec_flashRelocation_of_ready {r : Relocation} (hf : fatal s = false) (h : portReady p s = true) :
    exec (.flashRelocation p r) s
      = .next (programOrHold p r.bytes (forEach r.bad (fun f s => flashUnitBad p f s) (peep 9 p 3 r.erases s))) :=
  congrArg Host.Outcome.next (if_neg (by simp [hf, h]))

theorem exec_flashRelocation_of_not_ready {r : Relocation} (h : portReady p s = false) : exec (.flashRelocation p r) s = .next s :=
  congrArg Host.Outcome.next (if_pos (by simp [h]))

theorem exec_wearCounterAck_none (h : (cartAuxOf p s).commit = none) : exec (.wearCounterAck p) s = .next s := by
  change execWearCounterAck p s = _
  simp only [execWearCounterAck, h]

theorem exec_wearCounterAck_some {v : Nat} (hf : fatal s = false) (h : (cartAuxOf p s).commit = some v) :
    exec (.wearCounterAck p) s = .next (programOrHold p (cartAuxOf p s).heldBytes
      (setCommitted p v (setCart p (fun a => { a with commit := none, heldBytes := 0 }) s))) := by
  have hf' : fatal (setCommitted p v (setCart p (fun a => { a with commit := none, heldBytes := 0 }) s)) = false :=
    (fatal_setCommitted _ _ _).trans hf
  change execWearCounterAck p s = _
  simp only [execWearCounterAck, h, hf', Bool.false_eq_true, if_false]

end

/-! FORMAT and ERASEP (R353, R365, R366). -/

/-- Why FORMAT cannot run, before it writes (R365); 0 when it can. -/
def formatErr (p : Nat) (s : State) : Nat :=
  if cartCmdErr p s ≠ 0 then cartCmdErr p s
  else if getF (CART.CPCAP_CAPGIB p) s < 32 * getF (CART.CPCMD_PSIZE p) s then 3
  else if cartWorn p s then 4 else 0

/-- Why ERASEP cannot run, before it writes (R365); 0 when it can. -/
def erasepErr (p : Nat) (s : State) : Nat := if cartCmdErr p s ≠ 0 then cartCmdErr p s else if cartWorn p s then 4 else 0

/-- A cartridge with a new persistent key is formatted: a new spill key, its size and its slots (R365, R366). -/
def formatted (p psize : Nat) (s : State) : State :=
  setF (CART.CPSTAT_UNFMT p) 0 (setF (CART.CPCAP_PSIZE p) psize
    (setF (CART.CPSLOTS_SLOTS p) (spillSlots (getF (CART.CPCAP_CAPGIB p) s) psize) (replaceSpill p s)))

section
variable {p : PortNo} {s : State}

theorem cartCmdErr_of_not_ready (h : portReady p s = false) : cartCmdErr p s = 2 := if_pos (by simp [h])

theorem cartCmdErr_of_used (h : portReady p s = true) (hused : portPanes p s ≠ 0 ∨ ∃ e ∈ s.inflight, chkpUses p e = true) :
    cartCmdErr p s = 1 := by
  rw [cartCmdErr, if_neg (by simp [h]), if_pos (by simpa using hused)]

section
variable (h : Served .late s)
include h

theorem exec_format : exec (.format p) s = .next (if formatErr p s ≠ 0 then
      setF (CART.CPCMD_ERR p) (formatErr p s) (setF (CART.CPCMD_CMD p) 1 s)
    else rewriteLabel p (getF (CART.CPCMD_PSIZE p) s) (formatted p (getF (CART.CPCMD_PSIZE p) s)) (setF (CART.CPCMD_CMD p) 1 s)) :=
  congrArg Host.Outcome.next (hostWrite_of_served _ h)

/-- A cartridge that has no label is left as it is (log 274). -/
theorem exec_erasep : exec (.erasep p) s = .next (if erasepErr p s ≠ 0 || (cartAuxOf p s).label.isNone then
      setF (CART.CPCMD_ERR p) (erasepErr p s) (setF (CART.CPCMD_CMD p) 2 s)
    else rewriteLabel p (getF (CART.CPCAP_PSIZE p) (setF (CART.CPCMD_CMD p) 2 s)) (fun s => s) (setF (CART.CPCMD_CMD p) 2 s)) :=
  congrArg Host.Outcome.next (hostWrite_of_served _ h)

theorem exec_format_fails {err : Nat} (herr : formatErr p s = err) (hne : err ≠ 0) :
    exec (.format p) s = .next (setF (CART.CPCMD_ERR p) err (setF (CART.CPCMD_CMD p) 1 s)) := by
  rw [exec_format h, herr, if_pos hne]

theorem exec_format_runs (herr : formatErr p s = 0) : exec (.format p) s = .next
    (rewriteLabel p (getF (CART.CPCMD_PSIZE p) s) (formatted p (getF (CART.CPCMD_PSIZE p) s)) (setF (CART.CPCMD_CMD p) 1 s)) := by
  rw [exec_format h, if_neg (not_not_intro herr)]

theorem exec_erasep_fails {err : Nat} (herr : erasepErr p s = err) (hne : err ≠ 0) :
    exec (.erasep p) s = .next (setF (CART.CPCMD_ERR p) err (setF (CART.CPCMD_CMD p) 2 s)) := by
  rw [exec_erasep h, herr, if_pos (by simp [hne])]

theorem exec_erasep_unlabelled (herr : erasepErr p s = 0) (hlabel : (cartAuxOf p s).label = none) :
    exec (.erasep p) s = .next (setF (CART.CPCMD_ERR p) 0 (setF (CART.CPCMD_CMD p) 2 s)) := by
  rw [exec_erasep h, herr, if_pos (by simp [hlabel])]

theorem exec_erasep_runs (herr : erasepErr p s = 0) (hlabel : (cartAuxOf p s).label.isSome = true) : exec (.erasep p) s = .next
    (rewriteLabel p (getF (CART.CPCAP_PSIZE p) (setF (CART.CPCMD_CMD p) 2 s)) (fun s => s) (setF (CART.CPCMD_CMD p) 2 s)) := by
  rw [exec_erasep h, herr, if_neg (by simp [Option.isSome_iff_ne_none.mp hlabel])]

end

end

/-! The label, and the two keys of a cartridge (R350, R353). -/

/-- The state before the new persistent key is drawn: the label's bytes are programmed, and the command has no error. -/
def labelWritten (p : Nat) (s : State) : State := setF (CART.CPCMD_ERR p) 0 (labelWrite p s)

/-- The label that wraps a new persistent key (R350). -/
def newLabel (p psize : Nat) (s : State) : CartLabel :=
  ⟨(cartAuxOf p s).serial, psize, (((cartAuxOf p s).label.map (fun l => l.generation)).getD 0) + 1, deviceSerial,
    keyWrap (storageKeyOf ((currentRow s).getD 0)) (drawXts s).1⟩

@[simp] theorem newLabel_serial (p psize : Nat) (s : State) : (newLabel p psize s).serial = (cartAuxOf p s).serial := rfl
@[simp] theorem newLabel_psize (p psize : Nat) (s : State) : (newLabel p psize s).psize = psize := rfl

section
variable {p : PortNo} {psize : Nat} {f : State → State} {s : State}

theorem rewriteLabel_of_worn (h : cartWorn p (labelWrite p s) = true) :
    rewriteLabel p psize f s = setF (CART.CPCMD_ERR p) 4 (labelWrite p s) := if_pos h

theorem rewriteLabel_of_not_worn (h : cartWorn p (labelWrite p s) = false) :
    rewriteLabel p psize f s = f (newPersistKey p psize (labelWritten p s)) := if_neg (by simp [h])

theorem labelWrite_kept (p : Nat) (s : State) : KeptByWear p (drawFree s).2 (labelWrite p s) := (KeptByWear.refl _ _).programWhole _

theorem serial_labelWritten : (cartAuxOf p (labelWritten p s)).serial = (cartAuxOf p s).serial := by
  rw [labelWritten, cartAuxOf_setF, (labelWrite_kept p s).serial]; rfl

theorem freeIdx_labelWritten : (labelWritten p s).freeIdx = s.freeIdx + 1 := by
  rw [labelWritten, setF_freeIdx, (labelWrite_kept p s).drawn]; rfl

theorem getF_capgib_labelWritten : getF (CART.CPCAP_CAPGIB p) (labelWritten p s) = getF (CART.CPCAP_CAPGIB p) s := by
  have hfield : ShowsNoWear p (CART.CPCAP_CAPGIB p) := ⟨plain_of_portKey p (key_cpcap_capgib p), by simp, by simp, by simp, by simp⟩
  rw [labelWritten, getF_setF_ne _ _ _ _ (by simp), (labelWrite_kept p s).fields _ hfield]
  rfl

theorem newPersistKey_eq (p psize : Nat) (s : State) : newPersistKey p psize s = setF (CART.CPSTAT_FOREIGN p) 0
    (wipeRange (persistBase (cartAuxOf p s).serial) (persistBase (cartAuxOf p s).serial + 2 ^ 46)
      (setCart p (fun a => { a with label := some (newLabel p psize s), persistKey := (drawXts s).1 }) (drawXts s).2)) := rfl

theorem replaceSpill_eq (p : Nat) (s : State) : replaceSpill p s = portRecord 1 p [portPanes p s] (setF (CART.CPSTAT_SPILLGONE p) 1
    (setCart p (fun a => { a with spillKey := (drawXts s).1 })
      (wipeRange (portUnit p * 2 ^ 41) ((portUnit p + 8) * 2 ^ 41) (drawXts s).2))) := rfl

@[simp] theorem cartAuxOf_wipeRange (q lo hi : Nat) (s : State) : cartAuxOf q (wipeRange lo hi s) = cartAuxOf q s := rfl
@[simp] theorem cartAuxOf_drawXts (q : Nat) (s : State) : cartAuxOf q (drawXts s).2 = cartAuxOf q s := rfl

theorem getF_newPersistKey {g : Fld} (h : g.key ≠ (CART.CPSTAT_FOREIGN p).key) : getF g (newPersistKey p psize s) = getF g s := by
  rw [newPersistKey_eq, getF_setF_ne _ _ _ _ h]; rfl

theorem freeIdx_newPersistKey : (newPersistKey p psize s).freeIdx = s.freeIdx + 2 := rfl

theorem cartAuxOf_newPersistKey : cartAuxOf p (newPersistKey p psize s)
    = { cartAuxOf p s with label := some (newLabel p psize s), persistKey := (drawXts s).1 } := by
  simp [newPersistKey_eq]

/-- Under a new persistent key the persistent region reads as unwritten (R353). -/
theorem memByte_newPersistKey {a : Nat} (hlo : persistBase (cartAuxOf p s).serial ≤ a)
    (hhi : a < persistBase (cartAuxOf p s).serial + 2 ^ 46) : memByte a (newPersistKey p psize s) = 0#8 := by
  rw [newPersistKey_eq]
  exact assocGet_splice_in _ _ _ _ _ _ hlo (lt_of_lt_of_le hhi (Nat.le_max_right _ _))

theorem getF_replaceSpill {g : Fld} (hg : plain g) (h : g.key ≠ (CART.CPSTAT_SPILLGONE p).key) : getF g (replaceSpill p s) = getF g s := by
  rw [replaceSpill_eq, portRecord, getF_errRecord _ _ _ _ _ _ _ _ hg, getF_setF_ne _ _ _ _ h]; rfl

theorem cartAuxOf_replaceSpill : cartAuxOf p (replaceSpill p s) = { cartAuxOf p s with spillKey := (drawXts s).1 } := by
  simp [replaceSpill_eq]

/-- A replaced spill key leaves no byte other than it was or unwritten. -/
theorem memByte_replaceSpill {a : Nat} (h : memByte a s = 0#8) : memByte a (replaceSpill p s) = 0#8 := by
  have hmem : (replaceSpill p s).mem = (wipeRange (portUnit p * 2 ^ 41) ((portUnit p + 8) * 2 ^ 41) s).mem := by
    rw [replaceSpill_eq, portRecord_mem]; rfl
  rw [memByte_congr hmem]
  by_cases ha : portUnit p * 2 ^ 41 ≤ a ∧ a < (portUnit p + 8) * 2 ^ 41
  · exact assocGet_splice_in _ _ _ _ _ _ ha.1 (by omega)
  · exact (assocGet_splice_out _ _ _ _ _ _ (by omega) (Nat.le_max_left _ _) (by simp)).trans h

/-! A cartridge formatted under a new persistent key. -/

theorem cartAuxOf_formatted : cartAuxOf p (formatted p psize s) = { cartAuxOf p s with spillKey := (drawXts s).1 } := by
  simp only [formatted, cartAuxOf_setF, cartAuxOf_replaceSpill]

theorem getF_err_formatted : getF (CART.CPCMD_ERR p) (formatted p psize s) = getF (CART.CPCMD_ERR p) s := by
  rw [formatted, getF_setF_ne _ _ _ _ (by simp), getF_setF_ne _ _ _ _ (by simp), getF_setF_ne _ _ _ _ (by simp),
    getF_replaceSpill (plain_of_portKey p (key_cpcmd_err p)) (by simp)]

theorem getF_unfmt_formatted : getF (CART.CPSTAT_UNFMT p) (formatted p psize s) = 0 := getF_setF_self _ _ _

theorem getF_psize_formatted : getF (CART.CPCAP_PSIZE p) (formatted p psize s) = psize % 2 ^ 16 := by
  rw [formatted, getF_setF_ne _ _ _ _ (by simp)]
  exact getF_setF_self _ _ _

theorem getF_slots_formatted :
    getF (CART.CPSLOTS_SLOTS p) (formatted p psize s) = spillSlots (getF (CART.CPCAP_CAPGIB p) s) psize % 2 ^ 32 := by
  rw [formatted, getF_setF_ne _ _ _ _ (by simp), getF_setF_ne _ _ _ _ (by simp)]
  exact getF_setF_self _ _ _

theorem memByte_formatted (a : Nat) : memByte a (formatted p psize s) = memByte a (replaceSpill p s) := memByte_congr (by simp [formatted]) a

theorem getF_err_labelWritten : getF (CART.CPCMD_ERR p) (labelWritten p s) = 0 := getF_setF_self _ _ _

end

/-- Settles O38: each command by its own equation; a label that can be written is written before any key is drawn, and drawing goes forward.
That an ERASEP of an unlabelled cartridge changes no key, and that the persistent region goes by the serial number, are log 274; the bytes
of a label write are log 253. -/
theorem cartridgeCommands : Obligations.CartridgeCommands := by
  refine ⟨fun p s t v hs => ⟨fun hready => ?notReady, fun hready hused => ?used, fun hcmd hsmall => ?small, fun hcmd hworn => ?worn,
      fun hcmd hworn hlabel => ?unlabelled, fun hcmd hworn hfits ht => ?format, fun hcmd hworn hlabel hv => ?erasep⟩,
    fun p bytes erases bad s hf => ⟨exec_wearCounterCommit hf, fun hready hworn => ⟨programOrHold_of_room hready hworn,
        fun hc hroom => ⟨_, programOrHold_of_no_room hready hworn hc hroom, startCommit_shows⟩,
        programOrHold_of_commit hready hworn⟩,
      programOrHold_of_stopped, exec_flashRelocation_of_ready hf, exec_flashRelocation_of_not_ready, exec_wearCounterAck_none,
      fun v => exec_wearCounterAck_some hf⟩⟩
  case notReady =>
    have hcmd := cartCmdErr_of_not_ready hready
    exact ⟨exec_format_fails hs (by simp [formatErr, hcmd]) (by decide), exec_erasep_fails hs (by simp [erasepErr, hcmd]) (by decide)⟩
  case used =>
    have hcmd := cartCmdErr_of_used hready hused
    exact ⟨exec_format_fails hs (by simp [formatErr, hcmd]) (by decide), exec_erasep_fails hs (by simp [erasepErr, hcmd]) (by decide)⟩
  case small => exact exec_format_fails hs (by simp [formatErr, hcmd, hsmall]) (by decide)
  case worn => exact exec_erasep_fails hs (by simp [erasepErr, hcmd, hworn]) (by decide)
  case unlabelled => exact exec_erasep_unlabelled hs (by simp [erasepErr, hcmd, hworn]) hlabel
  case format =>
    rw [exec_format_runs hs (by simpa [formatErr, hcmd, hworn] using hfits)]
    subst ht
    refine ⟨fun hout => by rw [rewriteLabel_of_worn hout], fun hin => ?_⟩
    rw [rewriteLabel_of_not_worn hin]
    generalize getF (CART.CPCMD_PSIZE p) s = psize
    generalize hx : labelWritten p (setF (CART.CPCMD_CMD p) 1 s) = x
    have hserial : (cartAuxOf p x).serial = (cartAuxOf p s).serial := by rw [← hx]; exact serial_labelWritten
    have hcap : getF (CART.CPCAP_CAPGIB p) (newPersistKey p psize x) = getF (CART.CPCAP_CAPGIB p) s := by
      rw [getF_newPersistKey (by simp), ← hx, getF_capgib_labelWritten, getF_setF_ne _ _ _ _ (by simp)]
    refine ⟨_, x, newPersistKey p psize x, rfl, ?err, getF_unfmt_formatted, getF_psize_formatted, ?slots, ?label, ?persistKey, ?spillKey,
      ?drawn, ?drawnOn, fun a hlo hhi => ?unwritten⟩
    case err => rw [getF_err_formatted, getF_newPersistKey (by simp), ← hx, getF_err_labelWritten]
    case slots => rw [getF_slots_formatted, hcap]
    case label =>
      exact ⟨newLabel p psize x, by rw [cartAuxOf_formatted, cartAuxOf_newPersistKey], by rw [newLabel_serial, hserial], newLabel_psize _ _ _⟩
    case persistKey => rw [cartAuxOf_formatted, cartAuxOf_newPersistKey]
    case spillKey => rw [cartAuxOf_formatted]
    case drawn =>
      rw [← hx, freeIdx_labelWritten, setF_freeIdx]
      exact Nat.le_succ _
    case drawnOn =>
      rw [freeIdx_newPersistKey]
      omega
    case unwritten =>
      rw [← hserial] at hlo hhi
      rw [memByte_formatted]
      exact memByte_replaceSpill (memByte_newPersistKey hlo hhi)
  case erasep =>
    rw [exec_erasep_runs hs (by simp [erasepErr, hcmd, hworn]) hlabel]
    subst hv
    refine ⟨fun hout => by rw [rewriteLabel_of_worn hout], fun hin => ?_⟩
    rw [rewriteLabel_of_not_worn hin]
    generalize hx : labelWritten p (setF (CART.CPCMD_CMD p) 2 s) = x
    have hserial : (cartAuxOf p x).serial = (cartAuxOf p s).serial := by rw [← hx]; exact serial_labelWritten
    refine ⟨_, x, rfl, ?err, by rw [cartAuxOf_newPersistKey], ?drawn, fun a hlo hhi => ?unwritten⟩
    case err => rw [getF_newPersistKey (by simp), ← hx, getF_err_labelWritten]
    case drawn =>
      rw [← hx, freeIdx_labelWritten, setF_freeIdx]
      exact Nat.le_succ _
    case unwritten =>
      rw [← hserial] at hlo hhi
      exact memByte_newPersistKey hlo hhi

end Sys2Proof.Machine

/-! PROOFS. The CRCs of the check units (R407): no step of one loses a bit of the register or of the byte. -/

namespace Sys2Proof.Machine

/-! One shift of a CRC register (R407). -/

/-- A reflected register stays in its width under a shift. -/
theorem mapsTo_crcBit {w p : Nat} (hp : p < 2 ^ w) : Set.MapsTo (crcBit p) (Set.Iio (2 ^ w)) (Set.Iio (2 ^ w)) := by
  intro c hc
  have hhalf : c / 2 < 2 ^ w := (Nat.div_le_self c 2).trans_lt hc
  simp only [crcBit, Set.mem_Iio]
  split
  · exact Nat.xor_lt_two_pow hhalf hp
  · exact hhalf

/-- The top bit after a shift of a reflected register is the bit that has left it, as the polynomial's own top bit is 1. -/
theorem testBit_crcBit {w p c : Nat} (hp : p.testBit w = true) (hc : c < 2 ^ (w + 1)) : (crcBit p c).testBit w = decide (c % 2 = 1) := by
  have htop : (c / 2).testBit w = false := Nat.testBit_lt_two_pow (by omega)
  unfold crcBit
  split <;> simp [*]

/-- No two values of a reflected register come together under a shift. -/
theorem injOn_crcBit {w p : Nat} (hp : p.testBit w = true) : Set.InjOn (crcBit p) (Set.Iio (2 ^ (w + 1))) := by
  intro c hc d hd h
  have hlow : c % 2 = 1 ↔ d % 2 = 1 := by
    have htop := congrArg (Nat.testBit · w) h
    simpa [testBit_crcBit hp hc, testBit_crcBit hp hd] using htop
  have hhalf : c / 2 = d / 2 := by
    by_cases hodd : d % 2 = 1
    · simpa [crcBit, hlow.mpr hodd, hodd] using h
    · simpa [crcBit, mt hlow.mp hodd, hodd] using h
  omega

/-- An unreflected register stays in its width under a shift. -/
theorem mapsTo_crcMsbBit {w p : Nat} (hp : p < 2 ^ w) : Set.MapsTo (crcMsbBit w p) (Set.Iio (2 ^ w)) (Set.Iio (2 ^ w)) := by
  intro c _
  have hshift : c * 2 % 2 ^ w < 2 ^ w := Nat.mod_lt _ (Nat.two_pow_pos w)
  simp only [crcMsbBit, Set.mem_Iio]
  split
  · exact Nat.xor_lt_two_pow hshift hp
  · exact hshift

theorem crcMsbBit_eq (w p c : Nat) :
    crcMsbBit (w + 1) p c = if bitOf c w then (c % 2 ^ w * 2) ^^^ p else c % 2 ^ w * 2 := by
  rw [crcMsbBit, Nat.pow_succ, Nat.mul_mod_mul_right, Nat.add_sub_cancel]

/-- The low bit after a shift of an unreflected register is the bit that has left it, as the polynomial is odd. -/
theorem testBit_crcMsbBit {w p : Nat} (c : Nat) (hp : p % 2 = 1) : (crcMsbBit (w + 1) p c).testBit 0 = bitOf c w := by
  rw [crcMsbBit_eq]
  split <;> simp [*]

/-- No two values of an unreflected register come together under a shift. -/
theorem injOn_crcMsbBit {w p : Nat} (hp : p % 2 = 1) : Set.InjOn (crcMsbBit (w + 1) p) (Set.Iio (2 ^ (w + 1))) := by
  intro c hc d hd h
  have htop : bitOf c w = bitOf d w := by rw [← testBit_crcMsbBit c hp, h, testBit_crcMsbBit d hp]
  have hrest : c % 2 ^ w = d % 2 ^ w := by
    cases hbit : bitOf d w <;> simpa [crcMsbBit_eq, htop, hbit] using h
  have hquot : c / 2 ^ w = d / 2 ^ w := by
    have hc2 : c / 2 ^ w < 2 := Nat.div_lt_of_lt_mul (by simpa [Nat.pow_succ] using hc)
    have hd2 : d / 2 ^ w < 2 := Nat.div_lt_of_lt_mul (by simpa [Nat.pow_succ] using hd)
    have hone : c / 2 ^ w = 1 ↔ d / 2 ^ w = 1 := by simpa [bitOf, Nat.mod_eq_of_lt hc2, Nat.mod_eq_of_lt hd2] using htop
    generalize c / 2 ^ w = x, d / 2 ^ w = y at *
    omega
  rw [← Nat.div_add_mod c (2 ^ w), hquot, hrest, Nat.div_add_mod]

/-! A byte into RUN: it is added at one end of the register, then eight shifts follow (R407). -/

theorem crcBits_eq_iterate (p n : Nat) : crcBits p n = (crcBit p)^[n] := by
  induction n with
  | zero => rfl
  | succ n ih => funext c; rw [crcBits, ih, Function.iterate_succ_apply]

theorem crcMsbBits_eq_iterate (w p n : Nat) : crcMsbBits w p n = (crcMsbBit w p)^[n] := by
  induction n with
  | zero => rfl
  | succ n ih => funext c; rw [crcMsbBits, ih, Function.iterate_succ_apply]

/-- One shift of RUN, by the CRC that POLY selects. -/
def ckBit (poly : Nat) : Nat → Nat :=
  match poly with
  | 0 => crcBit poly32c
  | 1 => crcBit 0xEDB88320
  | 2 => crcMsbBit 64 0x42F0E1EBA9EA3693
  | _ => crcMsbBit 16 0x1021

/-- A byte where it enters RUN: at the low end of a reflected register, at the high end of an unreflected one. -/
def ckPlace (poly : Nat) (b : Byte) : Nat :=
  match poly with
  | 0 | 1 => b.toNat
  | 2 => b.toNat * 2 ^ 56
  | _ => b.toNat * 2 ^ 8

theorem ckStep_eq (poly run : Nat) (b : Byte) : ckStep poly run b = (ckBit poly)^[8] (run ^^^ ckPlace poly b) := by
  unfold ckStep ckBit ckPlace crcByte crcMsbByte
  split <;> simp only [crcBits_eq_iterate, crcMsbBits_eq_iterate]

section
variable {poly : Nat} (hpoly : poly < 4)
include hpoly

theorem mapsTo_ckBit : Set.MapsTo (ckBit poly) (Set.Iio (2 ^ ckWidth poly)) (Set.Iio (2 ^ ckWidth poly)) := by
  match poly with
  | 0 => exact mapsTo_crcBit (by decide)
  | 1 => exact mapsTo_crcBit (by decide)
  | 2 => exact mapsTo_crcMsbBit (by decide)
  | 3 => exact mapsTo_crcMsbBit (by decide)

theorem injOn_ckBit : Set.InjOn (ckBit poly) (Set.Iio (2 ^ ckWidth poly)) := by
  match poly with
  | 0 => exact injOn_crcBit (w := 31) (by decide)
  | 1 => exact injOn_crcBit (w := 31) (by decide)
  | 2 => exact injOn_crcMsbBit (w := 63) (by decide)
  | 3 => exact injOn_crcMsbBit (w := 15) (by decide)

theorem ckPlace_lt (b : Byte) : ckPlace poly b < 2 ^ ckWidth poly := by
  have hb := b.isLt
  match poly with
  | 0 | 1 | 2 | 3 => simp only [ckPlace, ckWidth]; omega

theorem ckPlace_injective : Function.Injective (ckPlace poly) := by
  intro a b h
  apply BitVec.eq_of_toNat_eq
  interval_cases poly
  · exact h
  · exact h
  · exact Nat.eq_of_mul_eq_mul_right (by decide : 0 < 2 ^ 56) h
  · exact Nat.eq_of_mul_eq_mul_right (by decide : 0 < 2 ^ 8) h

/-- The register with a byte added to it is in its width. -/
theorem xor_ckPlace_lt {run : Nat} (hrun : run < 2 ^ ckWidth poly) (b : Byte) : run ^^^ ckPlace poly b < 2 ^ ckWidth poly :=
  Nat.xor_lt_two_pow hrun (ckPlace_lt hpoly b)

theorem ckStep_lt {run : Nat} (hrun : run < 2 ^ ckWidth poly) (b : Byte) : ckStep poly run b < 2 ^ ckWidth poly := by
  rw [ckStep_eq]
  exact (mapsTo_ckBit hpoly).iterate 8 (xor_ckPlace_lt hpoly hrun b)

/-- Equal registers after a byte each were equal with their bytes added. -/
theorem xor_ckPlace_eq_of_ckStep_eq {run run' : Nat} {a b : Byte} (hrun : run < 2 ^ ckWidth poly) (hrun' : run' < 2 ^ ckWidth poly)
    (h : ckStep poly run a = ckStep poly run' b) : run ^^^ ckPlace poly a = run' ^^^ ckPlace poly b := by
  rw [ckStep_eq, ckStep_eq] at h
  exact (injOn_ckBit hpoly).iterate (mapsTo_ckBit hpoly) 8 (xor_ckPlace_lt hpoly hrun a) (xor_ckPlace_lt hpoly hrun' b) h

end

/-- Settles O41: a byte is added to the register without loss, and no shift brings two values of the register together. -/
theorem crcDetectsAnyByte : Obligations.CrcDetectsAnyByte := by
  intro poly run run' a b hpoly hrun hrun'
  refine ⟨ckStep_lt hpoly hrun a, fun h => ?runs, fun h => ?bytes⟩
  case runs => exact Nat.xor_left_injective (xor_ckPlace_eq_of_ckStep_eq hpoly hrun hrun' h)
  case bytes => exact ckPlace_injective hpoly (Nat.xor_right_injective (xor_ckPlace_eq_of_ckStep_eq hpoly hrun hrun h))

/-- Settles O40: the initial value, nine steps and the final value of each CRC, computed. -/
theorem crcCheckValues : Obligations.CrcCheckValues :=
  ⟨by decide +kernel, by decide +kernel, by decide +kernel, by decide +kernel⟩

end Sys2Proof.Machine

/-! PROOFS. The check units: the bytes that they take and the writes of their registers (R408 to R412, R421 to R423). -/

namespace Sys2Proof.Machine

/-! The registers of a check unit's page (R421 to R423). -/

/-- The key of the first field of a check unit's page. -/
def ckKey (u : Nat) : Nat := ckBase u * 64

section
variable (u : Nat)

@[simp] theorem key_ckctl_arm : (CK.CKCTL_ARM u).key = ckKey u := Nat.add_zero _
@[simp] theorem key_ckctl_poly : (CK.CKCTL_POLY u).key = ckKey u + 2 := rfl
@[simp] theorem key_ckstat_done : (CK.CKSTAT_DONE u).key = ckKey u + 0x100 := by simp only [Fld.key, CK.CKSTAT_DONE, ckKey]; omega
@[simp] theorem key_ckstat_mismatch : (CK.CKSTAT_MISMATCH u).key = ckKey u + 0x101 := by
  simp only [Fld.key, CK.CKSTAT_MISMATCH, ckKey]; omega
@[simp] theorem key_cklimit_limit : (CK.CKLIMIT_LIMIT u).key = ckKey u + 0x400 := by simp only [Fld.key, CK.CKLIMIT_LIMIT, ckKey]; omega
@[simp] theorem key_ckcount_count : (CK.CKCOUNT_COUNT u).key = ckKey u + 0x600 := by simp only [Fld.key, CK.CKCOUNT_COUNT, ckKey]; omega
@[simp] theorem key_ckrun_run : (CK.CKRUN_RUN u).key = ckKey u + 0x800 := by simp only [Fld.key, CK.CKRUN_RUN, ckKey]; omega
@[simp] theorem key_ckfinal_final : (CK.CKFINAL_FINAL u).key = ckKey u + 0xA00 := by simp only [Fld.key, CK.CKFINAL_FINAL, ckKey]; omega

end

/-- A field of a check unit's page is none of the peephole's or of the error ring's. -/
theorem plain_of_ckKey (u : CheckNo) {g : Fld} {k : Nat} (hkey : g.key = ckKey u + k) (hk : k < 0x40000 := by decide) : plain g := by
  have hu := u.isLt
  simp only [ckKey, ckBase, frmBase] at hkey
  unfold plain
  omega

theorem flag_eq_true {f : Fld} {s : State} (h : getF f s = 1) : flag f s = true := decide_eq_true h

theorem flag_eq_false {f : Fld} {s : State} (h : getF f s = 0) : flag f s = false := by simp [flag, h]

@[simp] theorem getF_dropHeld (g : Fld) (a : Nat) (s : State) : getF g (dropHeld a s) = getF g s := rfl

/-! A byte that an armed unit takes (R408, R410, R422). -/

section
variable {u : CheckNo} {s : State}

/-- A unit whose COUNT has come to LIMIT: disarmed, with DONE (R410). -/
def ckDone (u : Nat) (s : State) : State := setF (CK.CKCTL_ARM u) 0 (setF (CK.CKSTAT_DONE u) 1 s)

/-- At LIMIT a unit is done, and a comparison that fails leaves MISMATCH and a record with it. -/
theorem ckLimit_of_reached (hlim : getF (CK.CKLIMIT_LIMIT u) s ≠ 0) (hcount : getF (CK.CKCOUNT_COUNT u) s = getF (CK.CKLIMIT_LIMIT u) s) :
    ckLimit u s = ckDone u s
    ∨ ckLimit u s = errRecord clsCheck 1 (ckRegion u) 0 u [u.val] (setF (CK.CKSTAT_MISMATCH u) 1 (ckDone u s)) := by
  unfold ckLimit
  extract_lets lim t
  rw [if_neg (by simp [lim, hlim, hcount])]
  split
  · exact .inr rfl
  · exact .inl rfl

theorem ckLimit_of_not_reached
    (h : ¬(getF (CK.CKLIMIT_LIMIT u) s ≠ 0 ∧ getF (CK.CKCOUNT_COUNT u) s = getF (CK.CKLIMIT_LIMIT u) s)) : ckLimit u s = s :=
  if_pos (by tauto)

/-- What DONE, ARM, MISMATCH and a record of the unit leave, the comparison with LIMIT leaves. -/
theorem ckLimit_keep {α : Type} (f : State → α) (hdone : ∀ t, f (ckDone u t) = f t) (hmis : ∀ t, f (setF (CK.CKSTAT_MISMATCH u) 1 t) = f t)
    (hrec : ∀ t, f (errRecord clsCheck 1 (ckRegion u) 0 u [u.val] t) = f t) : f (ckLimit u s) = f s := by
  by_cases h : getF (CK.CKLIMIT_LIMIT u) s ≠ 0 ∧ getF (CK.CKCOUNT_COUNT u) s = getF (CK.CKLIMIT_LIMIT u) s
  · obtain heq | heq := ckLimit_of_reached h.1 h.2
    · rw [heq, hdone]
    · rw [heq, hrec, hmis, hdone]
  · rw [ckLimit_of_not_reached h]

/-- The comparison with LIMIT leaves the registers of a unit from CKMATCH on. -/
theorem getF_ckLimit {g : Fld} {k : Nat} (hkey : g.key = ckKey u + k) (hk : 0x200 ≤ k ∧ k < 0x40000 := by decide) :
    getF g (ckLimit u s) = getF g s :=
  ckLimit_keep (getF g)
    (fun t => by rw [ckDone, getF_setF_ne _ _ _ _ (by simp [hkey]; omega), getF_setF_ne _ _ _ _ (by simp [hkey]; omega)])
    (fun t => getF_setF_ne _ _ _ _ (by simp [hkey]; omega))
    (fun t => getF_errRecord _ _ _ _ _ _ _ _ (plain_of_ckKey u hkey hk.2))

theorem ckLimit_mem : (ckLimit u s).mem = s.mem :=
  ckLimit_keep State.mem (fun _ => rfl) (fun _ => rfl) (fun _ => errRecord_mem _ _ _ _ _ _ _)

theorem ckLimit_inflight : (ckLimit u s).inflight = s.inflight :=
  ckLimit_keep State.inflight (fun _ => rfl) (fun _ => rfl) (fun _ => errRecord_inflight _ _ _ _ _ _ _)

theorem ckLimit_disarms (hlim : getF (CK.CKLIMIT_LIMIT u) s ≠ 0) (hcount : getF (CK.CKCOUNT_COUNT u) s = getF (CK.CKLIMIT_LIMIT u) s) :
    getF (CK.CKCTL_ARM u) (ckLimit u s) = 0 ∧ getF (CK.CKSTAT_DONE u) (ckLimit u s) = 1 := by
  have harm : getF (CK.CKCTL_ARM u) (ckDone u s) = 0 := getF_setF_self _ _ _
  have hdone : getF (CK.CKSTAT_DONE u) (ckDone u s) = 1 := by
    rw [ckDone, getF_setF_ne _ _ _ _ (by simp)]; exact getF_setF_self _ _ _
  obtain heq | heq := ckLimit_of_reached hlim hcount
  · rw [heq]
    exact ⟨harm, hdone⟩
  · rw [heq, getF_errRecord _ _ _ _ _ _ _ _ (plain_of_ckKey u (k := 0) (by simp)),
      getF_errRecord _ _ _ _ _ _ _ _ (plain_of_ckKey u (key_ckstat_done u)), getF_setF_ne _ _ _ _ (by simp),
      getF_setF_ne _ _ _ _ (by simp)]
    exact ⟨harm, hdone⟩

/-- COUNT, RUN and FINAL after one byte (R408, R422). -/
def runTaken (u : CheckNo) (b : Byte) (s : State) : State :=
  setRun u (ckStep (getF (CK.CKCTL_POLY u) s) (getF (CK.CKRUN_RUN u) s) b) (addF (CK.CKCOUNT_COUNT u) 1 s)

/-- A unit after one byte, which is stamped and counted, before its COUNT is compared with LIMIT (R408). -/
def byteTaken (u : CheckNo) (b : Byte) (s : State) : State :=
  peep 8 u 1 1 { runTaken u b s with
    ckStamp := assocSet 0 (runTaken u b s).ckStamp u (licOf (ckRegion u) (runTaken u b s) + 1) }

theorem exec_checkByte (u : CheckNo) (tap key : Nat) (b : Byte) (s : State) :
    exec (.checkByte u tap key b) s = execCheckByte u tap key b s := rfl

theorem exec_checkByte_takes {tap key : Nat} {b : Byte} (harm : getF (CK.CKCTL_ARM u) s = 1) (htap : getF (CK.CKCTL_TAP u) s = tap)
    (hkey : getF (CK.CKMATCH_MATCH u) s = key) (hfence : u.val ∉ s.ckFenced) (howner : getF (CK.CKCTL_OWNER u) s = 0)
    (hfatal : fatal s = false) (hreset : (regionOf (ckRegion u) s).inReset = false) :
    exec (.checkByte u tap key b) s = .next (ckLimit u (byteTaken u b s)) := by
  have hbusy : ¬ (!flag (CK.CKCTL_ARM u) s || decide (getF (CK.CKCTL_TAP u) s ≠ tap) || decide (getF (CK.CKMATCH_MATCH u) s ≠ key)
      || flag (CK.CKCTL_OWNER u) s || s.ckFenced.contains u.val || fatal s || (regionOf (ckRegion u) s).inReset) = true := by
    simp [flag_eq_true harm, htap, hkey, flag_eq_false howner, hfence, hfatal, hreset]
  rw [exec_checkByte, execCheckByte, if_neg hbusy]
  rfl

theorem exec_checkByte_passes {tap key : Nat} {b : Byte} (h : getF (CK.CKCTL_ARM u) s ≠ 1 ∨ getF (CK.CKCTL_TAP u) s ≠ tap
    ∨ getF (CK.CKMATCH_MATCH u) s ≠ key ∨ getF (CK.CKCTL_OWNER u) s = 1) : exec (.checkByte u tap key b) s = .next s := by
  rw [exec_checkByte, execCheckByte, if_pos]
  obtain harm | htap | hkey | howner := h
  · simp [flag, harm]
  · simp [htap]
  · simp [hkey]
  · simp [flag, howner]

theorem getF_ckStamp (g : Fld) (l : List (Nat × Nat)) (s : State) : getF g { s with ckStamp := l } = getF g s := rfl

theorem getF_byteTaken {g : Fld} {k : Nat} (b : Byte) (hkey : g.key = ckKey u + k) (hk : k < 0x40000 := by decide) :
    getF g (byteTaken u b s) = getF g (runTaken u b s) := by
  rw [byteTaken, getF_peep _ _ _ _ _ _ (plain_of_ckKey u hkey hk), getF_ckStamp]

theorem getF_ckcount_byteTaken (b : Byte) :
    getF (CK.CKCOUNT_COUNT u) (byteTaken u b s) = (getF (CK.CKCOUNT_COUNT u) s + 1) % 2 ^ 64 := by
  rw [getF_byteTaken b (key_ckcount_count u), runTaken, setRun, getF_setF_ne _ _ _ _ (by simp), getF_setF_ne _ _ _ _ (by simp)]
  exact getF_setF_self _ _ _

theorem getF_ckrun_byteTaken (b : Byte) :
    getF (CK.CKRUN_RUN u) (byteTaken u b s) = ckStep (getF (CK.CKCTL_POLY u) s) (getF (CK.CKRUN_RUN u) s) b % 2 ^ 64 := by
  rw [getF_byteTaken b (key_ckrun_run u), runTaken, setRun, getF_setF_ne _ _ _ _ (by simp)]
  exact getF_setF_self _ _ _

theorem getF_ckfinal_byteTaken (b : Byte) : getF (CK.CKFINAL_FINAL u) (byteTaken u b s)
    = ckFinal (getF (CK.CKCTL_POLY u) s) (ckStep (getF (CK.CKCTL_POLY u) s) (getF (CK.CKRUN_RUN u) s) b) % 2 ^ 64 := by
  rw [getF_byteTaken b (key_ckfinal_final u), runTaken, setRun, addF, getF_setF_ne _ (CK.CKCTL_POLY u) _ _ (by simp)]
  exact getF_setF_self _ _ _

theorem getF_cklimit_byteTaken (b : Byte) : getF (CK.CKLIMIT_LIMIT u) (byteTaken u b s) = getF (CK.CKLIMIT_LIMIT u) s := by
  rw [getF_byteTaken b (key_cklimit_limit u), runTaken, setRun, addF, getF_setF_ne _ _ _ _ (by simp), getF_setF_ne _ _ _ _ (by simp),
    getF_setF_ne _ _ _ _ (by simp)]

theorem byteTaken_mem (b : Byte) : (byteTaken u b s).mem = s.mem := peep_mem _ _ _ _ _

theorem byteTaken_inflight (b : Byte) : (byteTaken u b s).inflight = s.inflight := peep_inflight _ _ _ _ _

end

/-! The registers of a check unit (R411, R412, R421, R423). -/

section
variable {u : CheckNo} {s : State}

theorem ckWrite_of_free (f : State → State) (hs : Served .late s) (hfence : u.val ∉ s.ckFenced) (howner : getF (CK.CKCTL_OWNER u) s = 0) :
    ckWrite u f s = f s := by
  rw [ckWrite, hostWrite_of_served _ hs, if_neg (by simp [hfence, flag_eq_false howner])]

theorem ckWrite_of_owned (f : State → State) (hs : Served .late s) (howner : getF (CK.CKCTL_OWNER u) s = 1) : ckWrite u f s = s := by
  rw [ckWrite, hostWrite_of_served _ hs, if_pos (by simp [flag_eq_true howner])]

theorem checkWrite_of_armed (r : CheckReg) (v : Nat) (harm : getF (CK.CKCTL_ARM u) s = 1) :
    checkWrite u r v s = regAccessError (ckRegAddr u r) (dropHeld (ckRegAddr u r) s) :=
  if_pos (flag_eq_true harm)

/-- A disarmed unit takes a write of a part of its state, after any half held for the register is gone. -/
theorem checkWrite_of_disarmed (v : Nat) (harm : getF (CK.CKCTL_ARM u) s = 0) :
    checkWrite u .run v s = setRun u (v % 2 ^ ckWidth (getF (CK.CKCTL_POLY u) s)) (dropHeld (ckRegAddr u .run) s)
    ∧ checkWrite u .count v s = setF (CK.CKCOUNT_COUNT u) v (dropHeld (ckRegAddr u .count) s)
    ∧ checkWrite u .limit v s = setF (CK.CKLIMIT_LIMIT u) v (dropHeld (ckRegAddr u .limit) s)
    ∧ checkWrite u .mtch v s = setF (CK.CKMATCH_MATCH u) v (dropHeld (ckRegAddr u .mtch) s)
    ∧ checkWrite u .tap v s = (if v % 32 ≤ 16 then setF (CK.CKCTL_TAP u) v (dropHeld (ckRegAddr u .tap) s)
        else regAccessError (ckRegAddr u .tap) (dropHeld (ckRegAddr u .tap) s))
    ∧ ∀ w, w = setF (CK.CKCTL_POLY u) v (dropHeld (ckRegAddr u .poly) s) →
        checkWrite u .poly v s = setRun u (getF (CK.CKRUN_RUN u) w % 2 ^ ckWidth (v % 4)) w := by
  have hopen (r : CheckReg) : ¬ flag (CK.CKCTL_ARM u) (dropHeld (ckRegAddr u r) s) = true :=
    Bool.eq_false_iff.mp (flag_eq_false harm)
  exact ⟨if_neg (hopen .run), if_neg (hopen .count), if_neg (hopen .limit), if_neg (hopen .mtch), if_neg (hopen .tap),
    fun w hw => hw ▸ if_neg (hopen .poly)⟩

theorem exec_ckctlInit (u : CheckNo) (s : State) : exec (.ckctlInit u) s
    = .next (ckWrite u (fun s => setF (CK.CKCOUNT_COUNT u) 0 (setRun u (ckInitial (getF (CK.CKCTL_POLY u) s)) s)) s) := rfl

theorem exec_ckctlArm (u : CheckNo) (on : Bool) (s : State) :
    exec (.ckctlArm u on) s = .next (ckWrite u (setF (CK.CKCTL_ARM u) (b2n on)) s) := rfl

theorem exec_checkStateWrite (u : CheckNo) (r : CheckReg) (v : Nat) (s : State) :
    exec (.checkStateWrite u r v) s = .next (ckWrite u (checkWrite u r v) s) := rfl

end

/-- Settles O42: an armed unit takes a byte whole and then compares COUNT with LIMIT; a write goes by fence and owner, then by ARM. That
CHECK_BYTE does nothing to a unit that the device has armed is log 277. -/
theorem checkUnits : Obligations.CheckUnits := by
  refine ⟨fun u tap key b s => ⟨fun harm htap hkey hfence howner hfatal hreset => ?takes, exec_checkByte_passes⟩,
    fun u v s hs => ⟨fun hfence howner => ?free, fun howner => ?owned⟩⟩
  case takes =>
    refine ⟨_, exec_checkByte_takes harm htap hkey hfence howner hfatal hreset, ?count, ?run, ?final, fun hlim hcount => ?limit,
      ckLimit_mem.trans (byteTaken_mem b), ckLimit_inflight.trans (byteTaken_inflight b)⟩
    case count => rw [getF_ckLimit (key_ckcount_count u), getF_ckcount_byteTaken]
    case run => rw [getF_ckLimit (key_ckrun_run u), getF_ckrun_byteTaken]
    case final => rw [getF_ckLimit (key_ckfinal_final u), getF_ckfinal_byteTaken]
    case limit =>
      rw [← getF_cklimit_byteTaken (u := u) b] at hlim
      exact ckLimit_disarms hlim (by rw [getF_ckcount_byteTaken, getF_cklimit_byteTaken, hcount])
  case free =>
    have hwrite (r : CheckReg) : exec (.checkStateWrite u r v) s = .next (checkWrite u r v s) := by
      rw [exec_checkStateWrite, ckWrite_of_free _ hs hfence howner]
    refine ⟨?init, ?arm, ?disarm, fun harm => ?disarmed, fun harm r => by rw [hwrite, checkWrite_of_armed r v harm]⟩
    case init => rw [exec_ckctlInit, ckWrite_of_free _ hs hfence howner, setRun]
    case arm => rw [exec_ckctlArm, ckWrite_of_free _ hs hfence howner]; rfl
    case disarm => rw [exec_ckctlArm, ckWrite_of_free _ hs hfence howner]; rfl
    case disarmed =>
      simp only [hwrite, Host.Outcome.next.injEq]
      obtain ⟨hrun, hcount, hlimit, hmatch, htap, hpoly⟩ := checkWrite_of_disarmed v harm
      exact ⟨hrun, hcount, hlimit, hmatch, fun h => htap.trans (if_pos h), fun h => htap.trans (if_neg (by omega)), hpoly⟩
  case owned =>
    exact ⟨by rw [exec_ckctlInit, ckWrite_of_owned _ hs howner], fun on => by rw [exec_ckctlArm, ckWrite_of_owned _ hs howner],
      fun r => by rw [exec_checkStateWrite, ckWrite_of_owned _ hs howner]⟩

end Sys2Proof.Machine

/-! PROOFS. The table message of a DECODE: a state in which counting its bytes changes whether it can be read. -/

namespace Sys2Proof.Machine

/-! TABLE_INSTALL counts a table message before it asks whether the window's range is poisoned (R393, R404, R417). -/

section
variable {x : ContextNo} {s : State} {j : CompJob} {e : InFlight}

/-- A table message that reads as poisoned once its bytes are counted is rejected. -/
theorem exec_tableInstall_rejects (halive : ceAlive x s = true) (hjob : cjobOf x s = some j) (hdecode : j.decode = true)
    (hflight : flight j.id s = some e) (hmode : recMode (imageBytes e j.off 16 s) = 3) (hhead : (imageBytes e j.off 16 s).length = 16)
    (hlen : tableLen (imageBytes e j.off 16 s) ≤ 4116)
    (hpoison : winRangePoisoned (cmHOFF e.desc + j.off) (tableLen (imageBytes e j.off 16 s))
      (countTable (ceOf x) (imageBytes e j.off (tableLen (imageBytes e j.off 16 s)) s).length s) = true) :
    exec (.tableInstall x) s = .next (setCjob x (fun k => { k with
      off := j.off + pad8 (tableLen (imageBytes e j.off 16 s)), rejected := recGen (imageBytes e j.off 16 s) :: k.rejected,
      status := if k.status = 0 then stCompCorrupt else k.status })
      (countTable (ceOf x) (imageBytes e j.off (tableLen (imageBytes e j.off 16 s)) s).length s)) := by
  have hexec : exec (.tableInstall x) s = execTableInstall x s := rfl
  simp [hexec, execTableInstall, halive, hjob, hdecode, hflight, hmode, hhead, hlen, hpoison]

end

@[simp] theorem ctxOf_setCjob (y x : Nat) (f : CompJob → CompJob) (s : State) : ctxOf y (setCjob x f s) = ctxOf y s := rfl

@[simp] theorem ctxOf_countTable (y ce n : Nat) (s : State) : ctxOf y (countTable ce n s) = ctxOf y s := by
  rw [countTable, peep_eq]; rfl

/-- A table of an odd generation stands in the second slot (R393). -/
theorem slot1_installTable {t : CompTable} (hodd : t.gen % 2 = 1) (x : Nat) (s : State) :
    (ctxOf x (installTable x t s)).slot1 = some t := by
  simp [installTable, hodd]

/-! A window whose units are not units of the device, and whose shutter shares its address with a counter of the peephole. -/

/-- An EXP table for GF16 in which every symbol has a code of 7 bits (R382, R391). -/
def sevenBitTable : CompTable := ⟨1, modeExp, 2, 0, 0, List.replicate 64 0x77#8⟩

/-- A DECODE on context 0 that stands at the table message after its image's header. -/
def tableJob : CompJob := ⟨1, 0, true, 0, 32, none, [], [], 0, 0, false⟩
def tableComp : InFlight := ⟨1, 0, some 1, 0, false, 0, 8, 0, 0, 0, .running, [], none, [], 0, 0⟩

/-- A cartridge port beyond the device's four: the address of its CPSTAT is that of the peephole's counter 0. -/
def aliasPort : Nat := 0x420

theorem key_cstate_aliasPort : (CART.CPSTAT_CSTATE aliasPort).key = (PEEP.CNT_COUNT 0).key := rfl

/-- The window lies on a unit of that port, which reads as open; counter 0 counts the bytes of compression engine 0. -/
def aliasDev : State :=
  forEach [(GLB.BOOT_STAGE, 8), (GLB.SHUT_STATE (100 + aliasPort), 2), (CART.CPSTAT_CSTATE aliasPort, 4), (PEEP.CTRL_CNTEN, 1),
      (PEEP.CNTSEL_EN 0, 1), (PEEP.CNTSEL_KIND 0, 7), (PEEP.CNTSEL_EVENT 0, 4)] (fun p s => setF p.1 p.2 s)
    (memPutCells (memAddr (32 + 8 * aliasPort) 0 0) 4096 ((8, 200#8) :: indexFrom 32 (tableMessage sevenBitTable))
      { State.reset with
        flds := []
        regions := [(76, { regionInit with inReset := false })]
        winRuns := [(32 + 8 * aliasPort, 0, 4096)]
        cjobs := [tableJob]
        inflight := [tableComp] })

/-- The head of the table message, and the whole message, where the DECODE stands. -/
def aliasHead : List Byte := imageBytes tableComp tableJob.off 16 aliasDev
def aliasMessage : List Byte := imageBytes tableComp tableJob.off (tableLen aliasHead) aliasDev

theorem aliasHead_of_table : recMode aliasHead = 3 ∧ aliasHead.length = 16 ∧ tableLen aliasHead ≤ 4116 := by decide +kernel

theorem readTable_aliasMessage : readTable aliasMessage = some sevenBitTable := by decide +kernel

/-- By `key_cstate_aliasPort` the bytes of the message are counted into CPSTAT of the port, which then no longer reads as open. -/
theorem aliasDev_poisoned_by_count : winRangePoisoned (cmHOFF tableComp.desc + tableJob.off) (tableLen aliasHead) aliasDev = false
    ∧ winRangePoisoned (cmHOFF tableComp.desc + tableJob.off) (tableLen aliasHead) (countTable 0 aliasMessage.length aliasDev) = true := by
  decide +kernel

/-- Refutes O39: nothing bounds the units of `winRuns` by those that the device has. In `aliasDev` the message can be read and no line of it is poisoned, but counting
its bytes closes the window's unit, so that TABLE_INSTALL rejects the table that the statement says it installs. -/
theorem not_streamsAdvance : ¬ Obligations.StreamsAdvance := by
  intro h
  obtain ⟨hmode, hhead, hlen⟩ := aliasHead_of_table
  obtain ⟨hclean, hpoison⟩ := aliasDev_poisoned_by_count
  have halive : ceAlive (0 : ContextNo).val aliasDev = true := by decide +kernel
  obtain ⟨-, -, hinstall, -⟩ := h 0 aliasDev halive
  have hinstalls := (hinstall tableJob tableComp aliasMessage rfl rfl rfl hmode hhead hlen rfl).1 sevenBitTable hclean readTable_aliasMessage
  have hrejects := exec_tableInstall_rejects (x := 0) halive rfl rfl rfl hmode hhead hlen hpoison
  have hslot := congrArg (fun t => (ctxOf 0 t).slot1) (Host.Outcome.next.inj (hinstalls.symm.trans hrejects))
  simp only [Fin.val_zero, slot1_installTable (rfl : sevenBitTable.gen % 2 = 1), ctxOf_setCjob, ctxOf_countTable] at hslot
  exact Option.some_ne_none _ hslot

end Sys2Proof.Machine

/-! PROOFS. The phase counters, and the carriage of a checkpoint image that a receiver stores. -/

namespace Sys2Proof.Machine

/-! PHASE_COUNTER_TICK and PHCTL_SNAP (R444, R468). -/

/-- The snapshot's reports of the first `n` phase counters are written. -/
def phasesReported (n : Nat) (s : State) : State :=
  forEach (List.range n) (fun i s => setF (TRN.PHREP_COUNT i) (s.phLive.getD i 0) s) s

/-- The live counters after a tick: each gains 1,024 where its condition holds. -/
def phasesCounted (s : State) : List Nat :=
  (List.range 10).map (fun i => (s.phLive.getD i 0 + if phaseHolds i s then 1024 else 0) % 2 ^ 64)

section
variable {i n : Nat} {s : State}

theorem snapPhases_eq_reported (s : State) : snapPhases s = { phasesReported 10 s with phLive := List.replicate 10 0 } := rfl

theorem phasesReported_succ : phasesReported (n + 1) s
    = setF (TRN.PHREP_COUNT n) ((phasesReported n s).phLive.getD n 0) (phasesReported n s) := by
  simp [phasesReported, forEach, List.range_succ]

/-- The reports change register fields alone. -/
theorem phasesReported_eq (n : Nat) (s : State) : phasesReported n s = { s with flds := (phasesReported n s).flds } :=
  forEach_eq_flds _ _ _ (fun _ _ => rfl)

@[simp] theorem phasesReported_phLive : (phasesReported n s).phLive = s.phLive := by rw [phasesReported_eq]

theorem key_phrep_ne (h : i ≠ n) : (TRN.PHREP_COUNT i).key ≠ (TRN.PHREP_COUNT n).key := by
  simp only [Fld.key, TRN.PHREP_COUNT]
  omega

/-- Each report shows its live counter: no later one is written over it. -/
theorem getF_phrep_phasesReported (h : i < n) : getF (TRN.PHREP_COUNT i) (phasesReported n s) = s.phLive.getD i 0 % 2 ^ 64 := by
  induction n with
  | zero => exact absurd h (Nat.not_lt_zero i)
  | succ n ih =>
    rw [phasesReported_succ, phasesReported_phLive]
    rcases Nat.lt_succ_iff_lt_or_eq.mp h with hlt | rfl
    · rw [getF_setF_ne _ _ _ _ (key_phrep_ne hlt.ne), ih hlt]
    · exact getF_setF_self _ _ _

theorem getF_phrep_snapPhases (h : i < 10) : getF (TRN.PHREP_COUNT i) (snapPhases s) = s.phLive.getD i 0 % 2 ^ 64 := by
  have hflds (f : Fld) (l : List Nat) (t : State) : getF f { t with phLive := l } = getF f t := rfl
  rw [snapPhases_eq_reported, hflds, getF_phrep_phasesReported h]

theorem phLive_snapPhases (h : i < 10) : (snapPhases s).phLive.getD i 0 = 0 := List.getD_replicate 0 h

theorem getD_phasesCounted (h : i < 10) :
    (phasesCounted s).getD i 0 = (s.phLive.getD i 0 + if phaseHolds i s then 1024 else 0) % 2 ^ 64 := by
  simp [phasesCounted, List.getD_eq_getElem?_getD, h]

theorem exec_phaseCounterTick_late (hlate : 1024 ≤ licSince 99 s.phStamp s) (hf : fatal s = false)
    (hreset : (regionOf 99 s).inReset = false) : exec .phaseCounterTick s
      = .next { s with phStamp := (s.phStamp + 1024) % 2 ^ 64, phLive := phasesCounted s } :=
  congrArg Host.Outcome.next (if_neg (by simp [hlate, hf, hreset]))

theorem exec_phaseCounterTick_early (h : licSince 99 s.phStamp s < 1024) : exec .phaseCounterTick s = .next s :=
  congrArg Host.Outcome.next (if_pos (by simp [h]))

theorem exec_phctlSnap (h : Served .late s) : exec .phctlSnap s = .next (snapPhases s) :=
  congrArg Host.Outcome.next (hostWrite_of_served _ h)

end

/-! Programs of a cartridge that are carried out whole (R357, R358). -/

theorem setCommitted_mem (p v : Nat) (s : State) : (setCommitted p v s).mem = s.mem := by
  unfold setCommitted
  extract_lets rated life u₁ u₂
  have h₂ : u₂.mem = s.mem := ite_keep (P := fun t : State => t.mem = s.mem) (portRecord_mem _ _ _ _) rfl
  exact ite_keep (P := fun t : State => t.mem = s.mem) h₂ h₂

theorem programBytes_mem (p n : Nat) (s : State) : (programBytes p n s).mem = s.mem := peep_mem _ _ _ _ _

theorem writeCounter_mem (p v : Nat) (s : State) : (writeCounter p v s).mem = s.mem := rfl

/-- A program that is carried out whole commits the counter, if need be, and then programs the bytes, unless the cartridge is worn. -/
theorem programWhole_invariant {P : State → Prop} {p n : Nat} {s : State} (h : P s)
    (hcommit : ∀ v, P (setCommitted p v (writeCounter p v s))) (hbytes : ∀ u, P u → P (programBytes p n u)) :
    P (programWhole p n s) := by
  unfold programWhole
  extract_lets need c v u
  have hu : P u := ite_keep (hcommit v) h
  exact ite_keep hu (hbytes u hu)

theorem programWhole_mem (p n : Nat) (s : State) : (programWhole p n s).mem = s.mem :=
  programWhole_invariant (P := fun t => t.mem = s.mem) rfl (fun v => by rw [setCommitted_mem, writeCounter_mem])
    (fun u hu => by rw [programBytes_mem, hu])

/-- The state in which a program of `n` bytes finds the cartridge worn, or has programmed them. -/
def programTried (p n : Nat) (s : State) : State := if cartWorn p s then s else programWhole p n s

theorem programTried_mem (p n : Nat) (s : State) : (programTried p n s).mem = s.mem :=
  ite_keep (P := fun t : State => t.mem = s.mem) rfl (programWhole_mem p n s)

theorem programTried_kept (p n : Nat) (s : State) : KeptByWear p s (programTried p n s) :=
  ite_keep (.refl p s) ((KeptByWear.refl p s).programWhole n)

theorem persistAddr_programTried (p n unit off : Nat) (s : State) :
    persistAddr p unit off (programTried p n s) = persistAddr p unit off s := by
  rw [persistAddr, (programTried_kept p n s).serial, persistAddr]

/-! Units of a persistent region that are written (R351). -/

/-- From the start on, as many bytes as there are, or more: the bytes, then zeros. -/
theorem byteSlice_zero_of_le {bs : List Byte} {n : Nat} (h : bs.length ≤ n) :
    byteSlice bs 0 n = bs ++ List.replicate (n - bs.length) 0#8 := by
  simp [byteSlice, List.take_of_length_le h]

theorem le_ceilDiv_mul (n : Nat) : n ≤ ceilDiv n 65536 * 65536 := by
  unfold ceilDiv
  omega

section
variable {p unit : Nat} {bs : List Byte} {s v : State}

theorem putPersist_eq (p unit : Nat) (bs : List Byte) (s : State) : putPersist p unit bs s =
    if cartWorn p (programTried p (ceilDiv bs.length 65536 * 65536) s) then (programTried p (ceilDiv bs.length 65536 * 65536) s, false)
    else (healRange (persistAddr p unit 0 s) (ceilDiv bs.length 65536 * 65536)
      (memWrite (persistAddr p unit 0 s) (byteSlice bs 0 (ceilDiv bs.length 65536 * 65536))
        (programTried p (ceilDiv bs.length 65536 * 65536) s)), true) := by
  rw [← persistAddr_programTried p (ceilDiv bs.length 65536 * 65536) unit 0 s]
  rfl

/-- The bytes that are written read back from the first unit on. -/
theorem memByte_putPersist {k : Nat} (hv : putPersist p unit bs s = (v, true)) (h : k < bs.length) :
    memByte (persistAddr p unit 0 s + k) v = bs[k] := by
  rw [putPersist_eq] at hv
  split at hv
  case isTrue => cases hv
  case isFalse =>
    cases hv
    have hslice := byteSlice_zero_of_le (le_ceilDiv_mul bs.length)
    have hk : k < (byteSlice bs 0 (ceilDiv bs.length 65536 * 65536)).length := by
      rw [hslice, List.length_append]
      omega
    calc memByte (persistAddr p unit 0 s + k) _
        = (byteSlice bs 0 (ceilDiv bs.length 65536 * 65536))[k] := memByte_memWrite_in _ _ _ hk
      _ = bs[k] := by simp only [hslice, List.getElem_append_left h]

/-- A cartridge that is worn is not written. -/
theorem putPersist_worn_mem (hv : putPersist p unit bs s = (v, false)) : v.mem = s.mem := by
  rw [putPersist_eq] at hv
  split at hv
  case isTrue =>
    cases hv
    exact programTried_mem _ _ _
  case isFalse => cases hv

end

/-! CHKP_CARRIAGE_RECEIVE (R351, R358, R456, R501). -/

/-- A carriage from `src` that the receiver takes: it is a member, as is the sender, is armed, and the image has room in the units offered
on an open, own, unworn cartridge. -/
structure TakesCarriage (src : Nat) (image : List Byte) (s : State) : Prop where
  alive : ndAlive s = true
  member : getF ND.NDSELF_MEMBER s = 1
  other : src ≠ ownNode s
  sender : (memberAt src s.nd.members).isSome = true
  armed : getF TRN.CKRECV_ARMED s = 1
  offered : ceilDiv image.length 65536 ≤ getF TRN.CKRCOUNT_COUNT s
  cartridge : cartOpen (getF TRN.CKRECV_PORT s) s = true
  own : getF (CART.CPSTAT_FOREIGN (getF TRN.CKRECV_PORT s)) s ≠ 1
  unworn : cartWorn (getF TRN.CKRECV_PORT s) s = false
  room : getF TRN.CKRFIRST_UNIT s + ceilDiv image.length 65536 ≤ persistUnits (getF TRN.CKRECV_PORT s) s

/-- The receiver has stored an image: it is disarmed and shows DONE (R456, R468). -/
def carriageDone (s : State) : State := setF TRN.STAT_CKRECVD 1 (setF TRN.CKRECV_DONE 1 (setF TRN.CKRECV_ARMED 0 s))

/-- What a receiver that takes a carriage makes of the attempt to store it. -/
def carriageEnd (r : State × Bool) : State := if r.2 then carriageDone r.1 else r.1

section
variable {src : Nat} {image : List Byte} {s : State}

theorem exec_chkpCarriageReceive_of_takes (h : TakesCarriage src image s) : exec (.chkpCarriageReceive src image) s
    = .next (carriageEnd (putPersist (getF TRN.CKRECV_PORT s) (getF TRN.CKRFIRST_UNIT s) image s)) := by
  obtain ⟨halive, hmember, hother, hsender, harmed, hoffered, hcart, hown, hunworn, hroom⟩ := h
  change execChkpCarriageReceive src image s = _
  unfold execChkpCarriageReceive
  extract_lets p first units may
  have hmay : may = true := by
    simp [may, p, first, units, flag, halive, hmember, hother, hsender, harmed, hoffered, hcart, hown, hunworn, hroom]
  rw [if_pos hmay]
  rcases putPersist p first image s with ⟨t, _ | _⟩ <;> rfl

/-- A receiver that is not armed, or offers too few units, refuses the carriage. -/
theorem exec_chkpCarriageReceive_of_refuses (h : getF TRN.CKRECV_ARMED s ≠ 1 ∨ getF TRN.CKRCOUNT_COUNT s < ceilDiv image.length 65536) :
    exec (.chkpCarriageReceive src image) s = .next s := by
  refine congrArg Host.Outcome.next (if_neg ?_)
  rcases h with harmed | hoffered
  · simp [flag, harmed]
  · simp [Nat.not_le.mpr hoffered]

end

/-- Settles O44: a tick replaces the live counters and the stamp alone, the ten reports of a snapshot have distinct addresses, and a
carriage either ends at a worn cartridge, before a byte is written, or its bytes read back. -/
theorem phasesAndCarriages : Obligations.PhasesAndCarriages := by
  unfold Obligations.PhasesAndCarriages
  refine ⟨fun s => ⟨?tick, exec_phaseCounterTick_early, ?snap⟩, fun src image s => ⟨?takes, exec_chkpCarriageReceive_of_refuses⟩⟩
  case tick =>
    intro hlate hf hreset
    exact ⟨_, exec_phaseCounterTick_late hlate hf hreset, fun i hi => getD_phasesCounted hi, rfl, rfl, rfl, rfl⟩
  case snap =>
    intro hs
    refine ⟨_, exec_phctlSnap hs, fun i hi => ⟨getF_phrep_snapPhases hi, phLive_snapPhases hi⟩, ?_⟩
    rw [snapPhases_eq]
    exact ⟨rfl, rfl, rfl⟩
  case takes =>
    intro halive hmember hother hsender harmed hoffered hcart hown hunworn hroom
    have hexec := exec_chkpCarriageReceive_of_takes
      ⟨halive, hmember, hother, hsender, harmed, hoffered, hcart, hown, hunworn, hroom⟩
    constructor
    · intro v hv
      exact ⟨by rw [hexec, hv]; rfl, fun k hk => memByte_putPersist hv hk⟩
    · intro v hv
      exact ⟨by rw [hexec, hv]; rfl, putPersist_worn_mem hv⟩

end Sys2Proof.Machine

namespace Sys2Proof.Machine

/-! PROOFS. What every step does with the queue of commands and with the fuses, and that every command is answered. -/

/-- What an outcome of a command at `s` keeps: the queue of commands that wait, and every blown fuse. -/
structure Keeps (s : State) (o : Host.Outcome State Fault Refusal) : Prop where
  pending : ∀ t, o = .next t → t.pending = s.pending
  fuses : ∀ t, o = .next t → FusesKept s.otp t.otp

/-- A command that leaves the one-time programmable memory alone keeps its fuses. -/
theorem keeps_of {s : State} {o : Host.Outcome State Fault Refusal} (hp : ∀ t, o = .next t → t.pending = s.pending)
    (ho : ∀ t, o = .next t → t.otp = s.otp) : Keeps s o :=
  ⟨hp, fun t ht => ho t ht ▸ FusesKept.refl _⟩

/-- Every command keeps the queue and the fuses: four commands of the keyhole program fuses, each of them one that is not yet blown
(R682, R688, R691), and no other reaches the one-time programmable memory. -/
theorem exec_keeps (c : Instr) (s : State) : Keeps s (exec c s) := by
  cases c with
  | registerWrite off size value => exact keeps_of (pend_execRegisterWrite off size value s) (otp_execRegisterWrite off size value s)
  | registerAccessInvalid isWrite off size value =>
      exact keeps_of (pend_execRegisterAccessInvalid isWrite off size value s) (otp_execRegisterAccessInvalid isWrite off size value s)
  | registerReadLowerHalf r => exact keeps_of (pend_execRegisterReadLowerHalf r s) (otp_execRegisterReadLowerHalf r s)
  | configRequest r => exact keeps_of (pend_execConfigRequest r s) (otp_execConfigRequest r s)
  | licTick n cycles => exact keeps_of (pend_execLicTick n cycles s) (otp_execLicTick n cycles s)
  | calibrationWindowEnd => exact keeps_of (pend_execCalibrationWindowEnd s) (otp_execCalibrationWindowEnd s)
  | licctlCal n => exact keeps_of (pend_execLicctlCal n s) (otp_execLicctlCal n s)
  | calibrationTimeout n => exact keeps_of (pend_execCalibrationTimeout n s) (otp_execCalibrationTimeout n s)
  | vsetWrite n vcode => exact keeps_of (pend_execVsetWrite n vcode s) (otp_execVsetWrite n vcode s)
  | regulatorStep n => exact keeps_of (pend_execRegulatorStep n s) (otp_execRegulatorStep n s)
  | monitorMeasure n mv tq rate speed => exact keeps_of (pend_execMonitorMeasure n mv tq rate speed s) (otp_execMonitorMeasure n mv tq rate speed s)
  | louvreRelease n => exact keeps_of (pend_execLouvreRelease n s) (otp_execLouvreRelease n s)
  | hingeStallTimeout a b => exact keeps_of (pend_execHingeStallTimeout a b s) (otp_execHingeStallTimeout a b s)
  | hingeTransfer a b owner offered receiverReady =>
      exact keeps_of (pend_execHingeTransfer a b owner offered receiverReady s) (otp_execHingeTransfer a b owner offered receiverReady s)
  | rstctlReset n => exact keeps_of (pend_execRstctlReset n s) (otp_execRstctlReset n s)
  | invalidOpcode q d => exact keeps_of (pend_execInvalidOpcode q d s) (otp_execInvalidOpcode q d s)
  | mma q d => exact keeps_of (pend_execMma q d s) (otp_execMma q d s)
  | operandStaged n => exact keeps_of (pend_execOperandStaged n s) (otp_execOperandStaged n s)
  | mmaKGroup n => exact keeps_of (pend_execMmaKGroup n s) (otp_execMmaKGroup n s)
  | mmaPassEnd n => exact keeps_of (pend_execMmaPassEnd n s) (otp_execMmaPassEnd n s)
  | transomWrite n => exact keeps_of (pend_execTransomWrite n s) (otp_execTransomWrite n s)
  | transomConsume n => exact keeps_of (pend_execTransomConsume n s) (otp_execTransomConsume n s)
  | blockEncode n => exact keeps_of (pend_execBlockEncode n s) (otp_execBlockEncode n s)
  | seamContribution n => exact keeps_of (pend_execSeamContribution n s) (otp_execSeamContribution n s)
  | mxctlCntclr n => exact keeps_of (pend_execMxctlCntclr n s) (otp_execMxctlCntclr n s)
  | vectorStep n => exact keeps_of (pend_execVectorStep n s) (otp_execVectorStep n s)
  | vopCopy q d => exact keeps_of (pend_execVopCopy q d s) (otp_execVopCopy q d s)
  | vopNeg q d => exact keeps_of (pend_execVopNeg q d s) (otp_execVopNeg q d s)
  | vopAbs q d => exact keeps_of (pend_execVopAbs q d s) (otp_execVopAbs q d s)
  | vopCopysign q d => exact keeps_of (pend_execVopCopysign q d s) (otp_execVopCopysign q d s)
  | vopCvt q d => exact keeps_of (pend_execVopCvt q d s) (otp_execVopCvt q d s)
  | vopAdd q d => exact keeps_of (pend_execVopAdd q d s) (otp_execVopAdd q d s)
  | vopSub q d => exact keeps_of (pend_execVopSub q d s) (otp_execVopSub q d s)
  | vopMul q d => exact keeps_of (pend_execVopMul q d s) (otp_execVopMul q d s)
  | vopFma q d => exact keeps_of (pend_execVopFma q d s) (otp_execVopFma q d s)
  | vopDiv q d => exact keeps_of (pend_execVopDiv q d s) (otp_execVopDiv q d s)
  | vopSqrt q d => exact keeps_of (pend_execVopSqrt q d s) (otp_execVopSqrt q d s)
  | vopMin q d => exact keeps_of (pend_execVopMin q d s) (otp_execVopMin q d s)
  | vopMax q d => exact keeps_of (pend_execVopMax q d s) (otp_execVopMax q d s)
  | vopAffine q d => exact keeps_of (pend_execVopAffine q d s) (otp_execVopAffine q d s)
  | vopRelu q d => exact keeps_of (pend_execVopRelu q d s) (otp_execVopRelu q d s)
  | vopExp q d => exact keeps_of (pend_execVopExp q d s) (otp_execVopExp q d s)
  | vopExp2 q d => exact keeps_of (pend_execVopExp2 q d s) (otp_execVopExp2 q d s)
  | vopLog q d => exact keeps_of (pend_execVopLog q d s) (otp_execVopLog q d s)
  | vopLog2 q d => exact keeps_of (pend_execVopLog2 q d s) (otp_execVopLog2 q d s)
  | vopRcp q d => exact keeps_of (pend_execVopRcp q d s) (otp_execVopRcp q d s)
  | vopRsqrt q d => exact keeps_of (pend_execVopRsqrt q d s) (otp_execVopRsqrt q d s)
  | vopSin q d => exact keeps_of (pend_execVopSin q d s) (otp_execVopSin q d s)
  | vopCos q d => exact keeps_of (pend_execVopCos q d s) (otp_execVopCos q d s)
  | vopTanh q d => exact keeps_of (pend_execVopTanh q d s) (otp_execVopTanh q d s)
  | vopSigmoid q d => exact keeps_of (pend_execVopSigmoid q d s) (otp_execVopSigmoid q d s)
  | vopErf q d => exact keeps_of (pend_execVopErf q d s) (otp_execVopErf q d s)
  | vopGelu q d => exact keeps_of (pend_execVopGelu q d s) (otp_execVopGelu q d s)
  | vopSilu q d => exact keeps_of (pend_execVopSilu q d s) (otp_execVopSilu q d s)
  | vopRsum q d => exact keeps_of (pend_execVopRsum q d s) (otp_execVopRsum q d s)
  | vopRsumsq q d => exact keeps_of (pend_execVopRsumsq q d s) (otp_execVopRsumsq q d s)
  | vopRmax q d => exact keeps_of (pend_execVopRmax q d s) (otp_execVopRmax q d s)
  | vopRmin q d => exact keeps_of (pend_execVopRmin q d s) (otp_execVopRmin q d s)
  | vopRamax q d => exact keeps_of (pend_execVopRamax q d s) (otp_execVopRamax q d s)
  | vopSoftmax q d => exact keeps_of (pend_execVopSoftmax q d s) (otp_execVopSoftmax q d s)
  | vopLayernorm q d => exact keeps_of (pend_execVopLayernorm q d s) (otp_execVopLayernorm q d s)
  | vopRmsnorm q d => exact keeps_of (pend_execVopRmsnorm q d s) (otp_execVopRmsnorm q d s)
  | vopXent q d => exact keeps_of (pend_execVopXent q d s) (otp_execVopXent q d s)
  | vopXentgrad q d => exact keeps_of (pend_execVopXentgrad q d s) (otp_execVopXentgrad q d s)
  | vxctlCntclr n => exact keeps_of (pend_execVxctlCntclr n s) (otp_execVxctlCntclr n s)
  | moveCopy q d => exact keeps_of (pend_execMoveCopy q d s) (otp_execMoveCopy q d s)
  | moveFill q d => exact keeps_of (pend_execMoveFill q d s) (otp_execMoveFill q d s)
  | moveMigrate q d => exact keeps_of (pend_execMoveMigrate q d s) (otp_execMoveMigrate q d s)
  | moveImport q d => exact keeps_of (pend_execMoveImport q d s) (otp_execMoveImport q d s)
  | moveExport q d => exact keeps_of (pend_execMoveExport q d s) (otp_execMoveExport q d s)
  | moveRelease q d => exact keeps_of (pend_execMoveRelease q d s) (otp_execMoveRelease q d s)
  | paneRead n handle pane bad => exact keeps_of (pend_execPaneRead n handle pane bad s) (otp_execPaneRead n handle pane bad s)
  | moverWriteBack n handle pane => exact keeps_of (pend_execMoverWriteBack n handle pane s) (otp_execMoverWriteBack n handle pane s)
  | tierReplace => exact keeps_of (pend_execTierReplace s) (otp_execTierReplace s)
  | replaceQuiesced => exact keeps_of (pend_execReplaceQuiesced s) (otp_execReplaceQuiesced s)
  | mqReadMetadata => exact keeps_of (pend_execMqReadMetadata s) (otp_execMqReadMetadata s)
  | mqReadPlacement => exact keeps_of (pend_execMqReadPlacement s) (otp_execMqReadPlacement s)
  | memoryAccess u slot off write ecc row =>
      exact keeps_of (pend_execMemoryAccess u slot off write ecc row s) (otp_execMemoryAccess u slot off write ecc row s)
  | repairLogCommitted u row committed =>
      exact keeps_of (pend_execRepairLogCommitted u row committed s) (otp_execRepairLogCommitted u row committed s)
  | scrubRead u slot off ecc row => exact keeps_of (pend_execScrubRead u slot off ecc row s) (otp_execScrubRead u slot off ecc row s)
  | muTempReading u t => exact keeps_of (pend_execMuTempReading u t s) (otp_execMuTempReading u t s)
  | muTrainingDone u r repairs => exact keeps_of (pend_execMuTrainingDone u r repairs s) (otp_execMuTrainingDone u r repairs s)
  | muZeroingDone u => exact keeps_of (pend_execMuZeroingDone u s) (otp_execMuZeroingDone u s)
  | cartPresenceChange p present => exact keeps_of (pend_execCartPresenceChange p present s) (otp_execCartPresenceChange p present s)
  | cartPresenceDebounced p => exact keeps_of (pend_execCartPresenceDebounced p s) (otp_execCartPresenceDebounced p s)
  | cartPgood p id => exact keeps_of (pend_execCartPgood p id s) (otp_execCartPgood p id s)
  | cartPgoodTimeout p => exact keeps_of (pend_execCartPgoodTimeout p s) (otp_execCartPgoodTimeout p s)
  | cartInitialised p ix => exact keeps_of (pend_execCartInitialised p ix s) (otp_execCartInitialised p ix s)
  | format p => exact keeps_of (pend_execFormat p s) (otp_execFormat p s)
  | erasep p => exact keeps_of (pend_execErasep p s) (otp_execErasep p s)
  | wearCounterCommit p bytes => exact keeps_of (pend_execWearCounterCommit p bytes s) (otp_execWearCounterCommit p bytes s)
  | wearCounterAck p => exact keeps_of (pend_execWearCounterAck p s) (otp_execWearCounterAck p s)
  | flashRelocation p bytes => exact keeps_of (pend_execFlashRelocation p bytes s) (otp_execFlashRelocation p bytes s)
  | compEncode q d => exact keeps_of (pend_execCompEncode q d s) (otp_execCompEncode q d s)
  | compDecode q d => exact keeps_of (pend_execCompDecode q d s) (otp_execCompDecode q d s)
  | compConfig q d => exact keeps_of (pend_execCompConfig q d s) (otp_execCompConfig q d s)
  | compReset q d => exact keeps_of (pend_execCompReset q d s) (otp_execCompReset q d s)
  | compBlockEncode x => exact keeps_of (pend_execCompBlockEncode x s) (otp_execCompBlockEncode x s)
  | compBlockDecode x => exact keeps_of (pend_execCompBlockDecode x s) (otp_execCompBlockDecode x s)
  | tableBuild x => exact keeps_of (pend_execTableBuild x s) (otp_execTableBuild x s)
  | tableInstall x => exact keeps_of (pend_execTableInstall x s) (otp_execTableInstall x s)
  | checkByte u tap key b => exact keeps_of (pend_execCheckByte u tap key b s) (otp_execCheckByte u tap key b s)
  | ckctlInit u => exact keeps_of (pend_execCkctlInit u s) (otp_execCkctlInit u s)
  | ckctlArm u on1 => exact keeps_of (pend_execCkctlArm u on1 s) (otp_execCkctlArm u on1 s)
  | checkStateWrite u r value => exact keeps_of (pend_execCheckStateWrite u r value s) (otp_execCheckStateWrite u r value s)
  | sweep q d => exact keeps_of (pend_execSweep q d s) (otp_execSweep q d s)
  | sweepPrefetch c => exact keeps_of (pend_execSweepPrefetch c s) (otp_execSweepPrefetch c s)
  | sweepUnit c => exact keeps_of (pend_execSweepUnit c s) (otp_execSweepUnit c s)
  | sweepFactorPhaseEnd => exact keeps_of (pend_execSweepFactorPhaseEnd s) (otp_execSweepFactorPhaseEnd s)
  | sweepLayerComplete layer => exact keeps_of (pend_execSweepLayerComplete layer s) (otp_execSweepLayerComplete layer s)
  | phaseCounterTick => exact keeps_of (pend_execPhaseCounterTick s) (otp_execPhaseCounterTick s)
  | phctlSnap => exact keeps_of (pend_execPhctlSnap s) (otp_execPhctlSnap s)
  | digest q d => exact keeps_of (pend_execDigest q d s) (otp_execDigest q d s)
  | chkpExport q d => exact keeps_of (pend_execChkpExport q d s) (otp_execChkpExport q d s)
  | chkpImport q d => exact keeps_of (pend_execChkpImport q d s) (otp_execChkpImport q d s)
  | chkpCarriageReceive src image => exact keeps_of (pend_execChkpCarriageReceive src image s) (otp_execChkpCarriageReceive src image s)
  | dwctlWrite w value => exact keeps_of (pend_execDwctlWrite w value s) (otp_execDwctlWrite w value s)
  | linkTrainingDone w r => exact keeps_of (pend_execLinkTrainingDone w r s) (otp_execLinkTrainingDone w r s)
  | linkLockLoss w => exact keeps_of (pend_execLinkLockLoss w s) (otp_execLinkLockLoss w s)
  | flitSend w => exact keeps_of (pend_execFlitSend w s) (otp_execFlitSend w s)
  | flitReceive w flit => exact keeps_of (pend_execFlitReceive w flit s) (otp_execFlitReceive w flit s)
  | frameReceive w frame => exact keeps_of (pend_execFrameReceive w frame s) (otp_execFrameReceive w frame s)
  | dataSend w peer => exact keeps_of (pend_execDataSend w peer s) (otp_execDataSend w peer s)
  | packetData w pkt ce => exact keeps_of (pend_execPacketData w pkt ce s) (otp_execPacketData w pkt ce s)
  | packetAck w pkt ce => exact keeps_of (pend_execPacketAck w pkt ce s) (otp_execPacketAck w pkt ce s)
  | packetNack w pkt ce => exact keeps_of (pend_execPacketNack w pkt ce s) (otp_execPacketNack w pkt ce s)
  | packetTable w pkt ce => exact keeps_of (pend_execPacketTable w pkt ce s) (otp_execPacketTable w pkt ce s)
  | ackTimer w peer => exact keeps_of (pend_execAckTimer w peer s) (otp_execAckTimer w peer s)
  | rtoExpiry w peer => exact keeps_of (pend_execRtoExpiry w peer s) (otp_execRtoExpiry w peer s)
  | notreadyTimer w peer => exact keeps_of (pend_execNotreadyTimer w peer s) (otp_execNotreadyTimer w peer s)
  | ndctlForm => exact keeps_of (pend_execNdctlForm s) (otp_execNdctlForm s)
  | ndctlJoin => exact keeps_of (pend_execNdctlJoin s) (otp_execNdctlJoin s)
  | ndctlLeave => exact keeps_of (pend_execNdctlLeave s) (otp_execNdctlLeave s)
  | ndctlApprove => exact keeps_of (pend_execNdctlApprove s) (otp_execNdctlApprove s)
  | ndctlDeny => exact keeps_of (pend_execNdctlDeny s) (otp_execNdctlDeny s)
  | ndctlEvict => exact keeps_of (pend_execNdctlEvict s) (otp_execNdctlEvict s)
  | ndselfWrite node => exact keeps_of (pend_execNdselfWrite node s) (otp_execNdselfWrite node s)
  | hello p => exact keeps_of (pend_execHello p s) (otp_execHello p s)
  | challenge p => exact keeps_of (pend_execChallenge p s) (otp_execChallenge p s)
  | proof p => exact keeps_of (pend_execProof p s) (otp_execProof p s)
  | prepare p => exact keeps_of (pend_execPrepare p s) (otp_execPrepare p s)
  | ready p => exact keeps_of (pend_execReady p s) (otp_execReady p s)
  | commit p => exact keeps_of (pend_execCommit p s) (otp_execCommit p s)
  | refused p => exact keeps_of (pend_execRefused p s) (otp_execRefused p s)
  | handover p => exact keeps_of (pend_execHandover p s) (otp_execHandover p s)
  | collAllreduce q d => exact keeps_of (pend_execCollAllreduce q d s) (otp_execCollAllreduce q d s)
  | collReducescatter q d => exact keeps_of (pend_execCollReducescatter q d s) (otp_execCollReducescatter q d s)
  | collAllgather q d => exact keeps_of (pend_execCollAllgather q d s) (otp_execCollAllgather q d s)
  | collBroadcast q d => exact keeps_of (pend_execCollBroadcast q d s) (otp_execCollBroadcast q d s)
  | collSend q d => exact keeps_of (pend_execCollSend q d s) (otp_execCollSend q d s)
  | collRecv q d => exact keeps_of (pend_execCollRecv q d s) (otp_execCollRecv q d s)
  | collDigcmp q d => exact keeps_of (pend_execCollDigcmp q d s) (otp_execCollDigcmp q d s)
  | collBlockReduce tag block => exact keeps_of (pend_execCollBlockReduce tag block s) (otp_execCollBlockReduce tag block s)
  | collDone tag node => exact keeps_of (pend_execCollDone tag node s) (otp_execCollDone tag node s)
  | collCommit tag => exact keeps_of (pend_execCollCommit tag s) (otp_execCollCommit tag s)
  | imgLoad => exact keeps_of (pend_execImgLoad s) (otp_execImgLoad s)
  | imgUnload => exact keeps_of (pend_execImgUnload s) (otp_execImgUnload s)
  | imgAbort => exact keeps_of (pend_execImgAbort s) (otp_execImgAbort s)
  | imgFetchDone bytes => exact keeps_of (pend_execImgFetchDone bytes s) (otp_execImgFetchDone bytes s)
  | imgQuiesced => exact keeps_of (pend_execImgQuiesced s) (otp_execImgQuiesced s)
  | imgRefetchDone bytes => exact keeps_of (pend_execImgRefetchDone bytes s) (otp_execImgRefetchDone bytes s)
  | programEntryTake owner => exact keeps_of (pend_execProgramEntryTake owner s) (otp_execProgramEntryTake owner s)
  | sqtail q value => exact keeps_of (pend_execSqtail q value s) (otp_execSqtail q value s)
  | cqhead q value => exact keeps_of (pend_execCqhead q value s) (otp_execCqhead q value s)
  | wait q d => exact keeps_of (pend_execWait q d s) (otp_execWait q d s)
  | signalAdd q d => exact keeps_of (pend_execSignalAdd q d s) (otp_execSignalAdd q d s)
  | signalMax q d => exact keeps_of (pend_execSignalMax q d s) (otp_execSignalMax q d s)
  | signalApply port => exact keeps_of (pend_execSignalApply port s) (otp_execSignalApply port s)
  | fenceWrite f value => exact keeps_of (pend_execFenceWrite f value s) (otp_execFenceWrite f value s)
  | partIssue n => exact keeps_of (pend_execPartIssue n s) (otp_execPartIssue n s)
  | partComplete id part => exact keeps_of (pend_execPartComplete id part s) (otp_execPartComplete id part s)
  | qirqTimer q => exact keeps_of (pend_execQirqTimer q s) (otp_execQirqTimer q s)
  | qctlEnable q on1 => exact keeps_of (pend_execQctlEnable q on1 s) (otp_execQctlEnable q on1 s)
  | queueDrained q => exact keeps_of (pend_execQueueDrained q s) (otp_execQueueDrained q s)
  | qbindWrite q valid casement => exact keeps_of (pend_execQbindWrite q valid casement s) (otp_execQbindWrite q valid casement s)
  | queueRingWrite q r value => exact keeps_of (pend_execQueueRingWrite q r value s) (otp_execQueueRingWrite q r value s)
  | hostRequestFailure q f => exact keeps_of (pend_execHostRequestFailure q f s) (otp_execHostRequestFailure q f s)
  | cxlLinkTrainingDone r => exact keeps_of (pend_execCxlLinkTrainingDone r s) (otp_execCxlLinkTrainingDone r s)
  | cxlLinkDown => exact keeps_of (pend_execCxlLinkDown s) (otp_execCxlLinkDown s)
  | bar4Access off write len => exact keeps_of (pend_execBar4Access off write len s) (otp_execBar4Access off write len s)
  | cxlMemRead line => exact keeps_of (pend_execCxlMemRead line s) (otp_execCxlMemRead line s)
  | cxlMemWrite line data poison => exact keeps_of (pend_execCxlMemWrite line data poison s) (otp_execCxlMemWrite line data poison s)
  | hostSnoop addr => exact keeps_of (pend_execHostSnoop addr s) (otp_execHostSnoop addr s)
  | hdmctlEn on1 => exact keeps_of (pend_execHdmctlEn on1 s) (otp_execHdmctlEn on1 s)
  | hdmsizeWrite units => exact keeps_of (pend_execHdmsizeWrite units s) (otp_execHdmsizeWrite units s)
  | hdmZeroingDone => exact keeps_of (pend_execHdmZeroingDone s) (otp_execHdmZeroingDone s)
  | hdmReleaseDrained => exact keeps_of (pend_execHdmReleaseDrained s) (otp_execHdmReleaseDrained s)
  | hdmDecoderCommit size => exact keeps_of (pend_execHdmDecoderCommit size s) (otp_execHdmDecoderCommit size s)
  | msixUnmask v => exact keeps_of (pend_execMsixUnmask v s) (otp_execMsixUnmask v s)
  | doeDiscovery index bytes => exact keeps_of (pend_execDoeDiscovery index bytes s) (otp_execDoeDiscovery index bytes s)
  | cdatTableAccess bytes => exact keeps_of (pend_execCdatTableAccess bytes s) (otp_execCdatTableAccess bytes s)
  | doeAbort => exact keeps_of (pend_execDoeAbort s) (otp_execDoeAbort s)
  | getVersion => exact keeps_of (pend_execGetVersion s) (otp_execGetVersion s)
  | getCapabilities => exact keeps_of (pend_execGetCapabilities s) (otp_execGetCapabilities s)
  | negotiateAlgorithms => exact keeps_of (pend_execNegotiateAlgorithms s) (otp_execNegotiateAlgorithms s)
  | getDigests => exact keeps_of (pend_execGetDigests s) (otp_execGetDigests s)
  | getCertificate slot offset len => exact keeps_of (pend_execGetCertificate slot offset len s) (otp_execGetCertificate slot offset len s)
  | challengeSpdm slot nonce => exact keeps_of (pend_execChallengeSpdm slot nonce s) (otp_execChallengeSpdm slot nonce s)
  | getMeasurements index signed nonce =>
      exact keeps_of (pend_execGetMeasurements index signed nonce s) (otp_execGetMeasurements index signed nonce s)
  | spdmUnsupportedRequest code => exact keeps_of (pend_execSpdmUnsupportedRequest code s) (otp_execSpdmUnsupportedRequest code s)
  | flr => exact keeps_of (pend_execFlr s) (otp_execFlr s)
  | flrQuiesced => exact keeps_of (pend_execFlrQuiesced s) (otp_execFlrQuiesced s)
  | arbDecision inst asking => exact keeps_of (pend_execArbDecision inst asking s) (otp_execArbDecision inst asking s)
  | arbRelease inst asking => exact keeps_of (pend_execArbRelease inst asking s) (otp_execArbRelease inst asking s)
  | inputmapWrite inst value => exact keeps_of (pend_execInputmapWrite inst value s) (otp_execInputmapWrite inst value s)
  | holdWatchdogBite inst => exact keeps_of (pend_execHoldWatchdogBite inst s) (otp_execHoldWatchdogBite inst s)
  | porNAssert => exact keeps_of (pend_execPorNAssert s) (otp_execPorNAssert s)
  | porNDeassert env => exact keeps_of (pend_execPorNDeassert env s) (otp_execPorNDeassert env s)
  | perstNAssert => exact keeps_of (pend_execPerstNAssert s) (otp_execPerstNAssert s)
  | perstNDeassert env => exact keeps_of (pend_execPerstNDeassert env s) (otp_execPerstNDeassert env s)
  | warmReset env => exact keeps_of (pend_execWarmReset env s) (otp_execWarmReset env s)
  | bootReady => exact keeps_of (pend_execBootReady s) (otp_execBootReady s)
  | shutterReqWrite ix req => exact keeps_of (pend_execShutterReqWrite ix req s) (otp_execShutterReqWrite ix req s)
  | shutterTransitionEnd ix => exact keeps_of (pend_execShutterTransitionEnd ix s) (otp_execShutterTransitionEnd ix s)
  | runmodeWrite mode => exact keeps_of (pend_execRunmodeWrite mode s) (otp_execRunmodeWrite mode s)
  | errheadWrite slot => exact keeps_of (pend_execErrheadWrite slot s) (otp_execErrheadWrite slot s)
  | fatalThermalResetStart env => exact keeps_of (pend_execFatalThermalResetStart env s) (otp_execFatalThermalResetStart env s)
  | alertNPulseEnd => exact keeps_of (pend_execAlertNPulseEnd s) (otp_execAlertNPulseEnd s)
  | nonce => exact keeps_of (pend_execNonce s) (otp_execNonce s)
  | transition => exact ⟨pend_execTransition s, fuses_execTransition s⟩
  | lifeCycleRowProgrammed programmed env => exact ⟨pend_execLifeCycleRowProgrammed programmed env s,
      fuses_execLifeCycleRowProgrammed programmed env s⟩
  | commitsvn => exact ⟨pend_execCommitsvn s, fuses_execCommitsvn s⟩
  | revoke => exact ⟨pend_execRevoke s, fuses_execRevoke s⟩
  | cntselWrite c value => exact keeps_of (pend_execCntselWrite c value s) (otp_execCntselWrite c value s)
  | cntselClr c => exact keeps_of (pend_execCntselClr c s) (otp_execCntselClr c s)
  | peepCntclr => exact keeps_of (pend_execPeepCntclr s) (otp_execPeepCntclr s)
  | traceEnable => exact keeps_of (pend_execTraceEnable s) (otp_execTraceEnable s)
  | traceDisable => exact keeps_of (pend_execTraceDisable s) (otp_execTraceDisable s)
  | traceRingWrite => exact keeps_of (pend_execTraceRingWrite s) (otp_execTraceRingWrite s)
  | trheadWrite slot => exact keeps_of (pend_execTrheadWrite slot s) (otp_execTrheadWrite slot s)
  | traceConfigWrite r value => exact keeps_of (pend_execTraceConfigWrite r value s) (otp_execTraceConfigWrite r value s)
  | keyholeIntegrityFailure => exact keeps_of (pend_execKeyholeIntegrityFailure s) (otp_execKeyholeIntegrityFailure s)
  | priorityFlowControlPauseEnd w prio =>
      exact keeps_of (pend_execPriorityFlowControlPauseEnd w prio s) (otp_execPriorityFlowControlPauseEnd w prio s)

/-- Settles O1. -/
theorem stepRunsTheFrontCommand : Obligations.StepRunsTheFrontCommand := by
  refine ⟨fun c rest s h => ?_, fun s h => ?_⟩ <;> rw [step, h]

/-- Settles O2: `exec_keeps`, command by command. -/
theorem noCommandTouchesTheQueue : Obligations.NoCommandTouchesTheQueue :=
  fun c s t ht => (exec_keeps c s).pending t ht

/-- Settles O5: a step runs the front command on the queue's rest, where the fuses are those of the state, or idles. -/
theorem stepKeepsBlownFuses : Obligations.StepKeepsBlownFuses := by
  obtain ⟨hfront, hidle⟩ := stepRunsTheFrontCommand
  intro s t ht
  cases hp : s.pending with
  | nil =>
    rw [hidle s hp] at ht
    cases ht
    exact FusesKept.refl _
  | cons c rest =>
    rw [hfront c rest s hp] at ht
    exact (exec_keeps c { s with pending := rest }).fuses t ht

/-- Every command is answered with a next state: most meanings are one answer outright, the others an answer on each of their branches. -/
theorem exec_answers (c : Instr) (s : State) : ∃ t, exec c s = .next t := by
  cases c with
  | monitorMeasure n mv tq rate speed =>
    change ∃ t, execMonitorMeasure n mv tq rate speed s = .next t
    fun_cases execMonitorMeasure <;> exact ⟨_, rfl⟩
  | hingeTransfer a b owner offered receiverReady =>
    change ∃ t, execHingeTransfer a b owner offered receiverReady s = .next t
    fun_cases execHingeTransfer <;> exact ⟨_, rfl⟩
  | signalApply port =>
    change ∃ t, execSignalApply port s = .next t
    fun_cases execSignalApply <;> exact ⟨_, rfl⟩
  | qirqTimer q =>
    change ∃ t, execQirqTimer q s = .next t
    fun_cases execQirqTimer <;> exact ⟨_, rfl⟩
  | queueDrained q =>
    change ∃ t, execQueueDrained q s = .next t
    fun_cases execQueueDrained <;> exact ⟨_, rfl⟩
  | hostRequestFailure q f =>
    change ∃ t, execHostRequestFailure q f s = .next t
    fun_cases execHostRequestFailure <;> exact ⟨_, rfl⟩
  | getCertificate slot offset len =>
    change ∃ t, execGetCertificate slot offset len s = .next t
    fun_cases execGetCertificate <;> exact ⟨_, rfl⟩
  | challengeSpdm slot nonce =>
    change ∃ t, execChallengeSpdm slot nonce s = .next t
    fun_cases execChallengeSpdm <;> exact ⟨_, rfl⟩
  | getMeasurements index signed nonce =>
    change ∃ t, execGetMeasurements index signed nonce s = .next t
    fun_cases execGetMeasurements <;> exact ⟨_, rfl⟩
  | arbDecision inst asking =>
    change ∃ t, execArbDecision inst asking s = .next t
    fun_cases execArbDecision <;> exact ⟨_, rfl⟩
  | arbRelease inst asking =>
    change ∃ t, execArbRelease inst asking s = .next t
    fun_cases execArbRelease <;> exact ⟨_, rfl⟩
  | inputmapWrite inst value =>
    change ∃ t, execInputmapWrite inst value s = .next t
    fun_cases execInputmapWrite <;> exact ⟨_, rfl⟩
  | traceRingWrite =>
    change ∃ t, execTraceRingWrite s = .next t
    fun_cases execTraceRingWrite <;> exact ⟨_, rfl⟩
  | _ => exact ⟨_, rfl⟩

/-- Settles O3. -/
theorem everyCommandIsAnswered : Obligations.EveryCommandIsAnswered := exec_answers

end Sys2Proof.Machine

namespace Sys2Proof.Machine

/-! PROOFS. The rings of a queue: the registers of its page, doorbells, the room in the completion ring (R558 to R564, R593 to R600). -/

/-! The keys of the fields of a queue's page. -/

/-- The key of the first field of a queue's page. -/
def queueKey (q : Nat) : Nat := (0x00400000 + q * 0x1000) * 64

section
variable (q : Nat)

@[simp] theorem key_qctl_enable : (CMDQ.QCTL_ENABLE q).key = queueKey q := rfl
@[simp] theorem key_qstat_inflight : (CMDQ.QSTAT_INFLIGHT q).key = queueKey q + 0x110 := by
  simp only [Fld.key, CMDQ.QSTAT_INFLIGHT, queueKey]; omega
@[simp] theorem key_qstat_pend : (CMDQ.QSTAT_PEND q).key = queueKey q + 0x10B := by simp only [Fld.key, CMDQ.QSTAT_PEND, queueKey]; omega
@[simp] theorem key_qstat_waiting : (CMDQ.QSTAT_WAITING q).key = queueKey q + 0x10A := by
  simp only [Fld.key, CMDQ.QSTAT_WAITING, queueKey]; omega
@[simp] theorem key_qstat_err : (CMDQ.QSTAT_ERR q).key = queueKey q + 0x104 := by simp only [Fld.key, CMDQ.QSTAT_ERR, queueKey]; omega
@[simp] theorem key_qstat_state : (CMDQ.QSTAT_STATE q).key = queueKey q + 0x100 := by simp only [Fld.key, CMDQ.QSTAT_STATE, queueKey]; omega
@[simp] theorem key_qring_cqlog2 : (CMDQ.QRING_CQLOG2 q).key = queueKey q + 0x310 := by
  simp only [Fld.key, CMDQ.QRING_CQLOG2, queueKey]; omega
@[simp] theorem key_qring_sqlog2 : (CMDQ.QRING_SQLOG2 q).key = queueKey q + 0x300 := by
  simp only [Fld.key, CMDQ.QRING_SQLOG2, queueKey]; omega
@[simp] theorem key_sqbase_addr : (CMDQ.SQBASE_ADDR q).key = queueKey q + 0x40C := by simp only [Fld.key, CMDQ.SQBASE_ADDR, queueKey]; omega
@[simp] theorem key_cqbase_addr : (CMDQ.CQBASE_ADDR q).key = queueKey q + 0x60C := by simp only [Fld.key, CMDQ.CQBASE_ADDR, queueKey]; omega
@[simp] theorem key_qptr_cqhead : (CMDQ.QPTR_CQHEAD q).key = queueKey q + 0x830 := by simp only [Fld.key, CMDQ.QPTR_CQHEAD, queueKey]; omega
@[simp] theorem key_qptr_cqtail : (CMDQ.QPTR_CQTAIL q).key = queueKey q + 0x820 := by simp only [Fld.key, CMDQ.QPTR_CQTAIL, queueKey]; omega
@[simp] theorem key_qptr_sqtail : (CMDQ.QPTR_SQTAIL q).key = queueKey q + 0x810 := by simp only [Fld.key, CMDQ.QPTR_SQTAIL, queueKey]; omega
@[simp] theorem key_qptr_sqhead : (CMDQ.QPTR_SQHEAD q).key = queueKey q + 0x800 := by simp only [Fld.key, CMDQ.QPTR_SQHEAD, queueKey]; omega
@[simp] theorem key_qdone_count : (CMDQ.QDONE_COUNT q).key = queueKey q + 0xC00 := by simp only [Fld.key, CMDQ.QDONE_COUNT, queueKey]; omega

end

/-- A field of a queue's page is none of the peephole's or of the error ring's. -/
theorem plain_of_queueKey (q : QueueNo) {g : Fld} {k : Nat} (hkey : g.key = queueKey q + k) (hk : k < 0x40000 := by decide) : plain g := by
  have hq := q.isLt
  unfold queueKey at hkey
  unfold plain
  omega

/-! The doorbells (R562, R563). -/

section
variable {q : QueueNo} {s : State}

theorem exec_sqtail (v : Nat) (h : Served .early s) : exec (.sqtail q v) s = .next
    (if qState q s ≠ qEnabled ∨ sqSize q s ≤ v then doorbellError q s else setF (CMDQ.QPTR_SQTAIL q) v s) :=
  congrArg Host.Outcome.next (hostWrite_of_served _ h)

theorem exec_cqhead (v : Nat) (h : Served .early s) : exec (.cqhead q v) s = .next
    (if qState q s ≠ qEnabled ∨ cqSize q s ≤ v ∨ cqUsed q s < (v + cqSize q s - getF (CMDQ.QPTR_CQHEAD q) s) % cqSize q s
      then doorbellError q s else setF (CMDQ.QPTR_CQHEAD q) v s) :=
  congrArg Host.Outcome.next (hostWrite_of_served _ h)

/-- A tail inside the ring of an ENABLED queue is taken. -/
theorem exec_sqtail_taken {v : Nat} (h : Served .early s) (hen : qState q s = qEnabled) (hv : v < sqSize q s) :
    exec (.sqtail q v) s = .next (setF (CMDQ.QPTR_SQTAIL q) v s) := by
  rw [exec_sqtail v h, if_neg (by simp [hen, hv])]

/-- A head from the present head to the tail of an ENABLED queue is taken. -/
theorem exec_cqhead_taken {v : Nat} (h : Served .early s) (hen : qState q s = qEnabled) (hv : v < cqSize q s)
    (hused : (v + cqSize q s - getF (CMDQ.QPTR_CQHEAD q) s) % cqSize q s ≤ cqUsed q s) :
    exec (.cqhead q v) s = .next (setF (CMDQ.QPTR_CQHEAD q) v s) := by
  rw [exec_cqhead v h, if_neg (by simp [hen, hv, hused])]

end

/-! Places of a ring. -/

/-- How far `t` lies after `h` in a ring of `n` places. -/
theorem ring_distance {h t n : Nat} (hh : h < n) (ht : t < n) : (t + n - h) % n = if h ≤ t then t - h else t + n - h := by
  split
  · next hle =>
    rw [show t + n - h = t - h + n by omega, Nat.add_mod_right, Nat.mod_eq_of_lt (by omega)]
  · exact Nat.mod_eq_of_lt (by omega)

/-- `k` places on from `h` in a ring of `n` places. -/
theorem ring_advance {h k n : Nat} (hh : h < n) (hk : k < n) : (h + k) % n = if h + k < n then h + k else h + k - n := by
  split
  · next hlt => exact Nat.mod_eq_of_lt hlt
  · rw [Nat.mod_eq_sub_mod (by omega), Nat.mod_eq_of_lt (by omega)]

/-- A head that has moved on by `k` lies `k` after the old head, and `k` nearer to a tail at least `k` away. -/
theorem ring_consume {h t k n : Nat} (hh : h < n) (ht : t < n) (hk : k ≤ (t + n - h) % n) :
    ((h + k) % n + n - h) % n = k ∧ (t + n - (h + k) % n) % n = (t + n - h) % n - k := by
  have hlt : (h + k) % n < n := Nat.mod_lt _ (by omega)
  have hdist := ring_distance hh ht
  have hadv := ring_advance (k := k) hh (lt_of_le_of_lt hk (Nat.mod_lt _ (by omega)))
  rw [ring_distance hh hlt, ring_distance hlt ht, hdist, hadv]
  rw [hdist] at hk
  split at hk <;> split <;> constructor <;> split <;> omega

/-- After CQHEAD is set to a place of the ring, the records that wait are those from it to the tail (R559). -/
theorem cqUsed_setF_cqhead (q v : Nat) (s : State) (hv : v < 2 ^ 16) : cqUsed q (setF (CMDQ.QPTR_CQHEAD q) v s)
    = (getF (CMDQ.QPTR_CQTAIL q) s + cqSize q s - v) % cqSize q s := by
  unfold cqUsed cqSize
  simp only [getF_setF_self]
  rw [getF_setF_ne _ _ _ _ (by simp), getF_setF_ne _ _ _ _ (by simp), Nat.mod_eq_of_lt (show v < 2 ^ (CMDQ.QPTR_CQHEAD q).width from hv)]

/-- Settles O16. -/
theorem queuePointers : Obligations.QueuePointers := by
  refine ⟨fun q v s h => ⟨exec_sqtail_taken h, fun hbad => ?tail, exec_cqhead_taken h, fun hbad => ?head⟩,
    fun q k s h hen hlog hhead htail hk => ?room⟩
  case tail => exact (exec_sqtail v h).trans (congrArg _ (if_pos hbad))
  case head => exact (exec_cqhead v h).trans (congrArg _ (if_pos hbad))
  case room =>
    obtain ⟨hmoved, hleft⟩ := ring_consume hhead htail hk
    have hv : (getF (CMDQ.QPTR_CQHEAD q) s + k) % cqSize q s < cqSize q s := Nat.mod_lt _ (Nat.two_pow_pos _)
    refine ⟨_, exec_cqhead_taken h hen hv (hmoved.le.trans hk), ?_, getF_setF_ne _ _ _ _ (by simp)⟩
    exact (cqUsed_setF_cqhead _ _ _ (hv.trans_le (Nat.pow_le_pow_right (by decide) hlog))).trans hleft

end Sys2Proof.Machine

namespace Sys2Proof.Machine

/-! PROOFS. The states of a queue (R589, R590, R612). -/

/-- A queue that is STOPPING in D3hot: nothing is in flight, but the record of a descriptor that has completed is held (R612). -/
def stoppingWithHeldRecord : State :=
  setF (CMDQ.QSTAT_STATE 0) qStopping { State.reset with
    cfg := { Cfg.init with d3hot := true }
    qaux := [(0, { qauxInit with
      late := [⟨⟨0, 0, some 0, 0, false, 0, 9, 0, 0, 0, .running, [], none, [], 0, 0⟩, stOk, 0, 0, 0, 0, 0⟩] })] }

/-- Refutes O17: a descriptor whose record D3hot holds is still in flight (R567, R612), so a STOPPING queue with such a record has not
drained, although no entry of the in-flight list is its own. -/
theorem not_queueStatesAndInterrupts : ¬ Obligations.QueueStatesAndInterrupts := by
  rintro ⟨⟨-, hdrained, -⟩, -⟩
  have hstopped := (hdrained 0 stoppingWithHeldRecord (by simp [stoppingWithHeldRecord, State.reset])).1 (by decide) (by decide)
  have hidle : execQueueDrained 0 stoppingWithHeldRecord = .next stoppingWithHeldRecord := if_pos (by decide)
  have hstate := congrArg (getF (CMDQ.QSTAT_STATE 0)) (Host.Outcome.next.inj (hidle.symm.trans hstopped))
  exact absurd hstate (by decide)

end Sys2Proof.Machine

namespace Sys2Proof.Machine

/-! PROOFS. The taking of a descriptor, and one whose header is faulty (R558, R565, R571, R581, R614). -/

/-! Counting and tracing leave what they do not count. -/

@[simp] theorem peep_out (k u e i : Nat) (s : State) : (peep k u e i s).out = s.out := by rw [peep_eq]
@[simp] theorem peep_cfg (k u e i : Nat) (s : State) : (peep k u e i s).cfg = s.cfg := by rw [peep_eq]
@[simp] theorem peep_flrActive (k u e i : Nat) (s : State) : (peep k u e i s).flrActive = s.flrActive := by rw [peep_eq]
@[simp] theorem peep_qaux (k u e i : Nat) (s : State) : (peep k u e i s).qaux = s.qaux := by rw [peep_eq]
@[simp] theorem trace_out (c e r a b : Nat) (s : State) : (trace c e r a b s).out = s.out := by rw [trace_eq]
@[simp] theorem trace_panes (c e r a b : Nat) (s : State) : (trace c e r a b s).panes = s.panes := by rw [trace_eq]
@[simp] theorem trace_cfg (c e r a b : Nat) (s : State) : (trace c e r a b s).cfg = s.cfg := by rw [trace_eq]
@[simp] theorem trace_flrActive (c e r a b : Nat) (s : State) : (trace c e r a b s).flrActive = s.flrActive := by rw [trace_eq]
@[simp] theorem trace_qaux (c e r a b : Nat) (s : State) : (trace c e r a b s).qaux = s.qaux := by rw [trace_eq]
@[simp] theorem recount_out (q : Option Nat) (s : State) : (recount q s).out = s.out := by rw [recount_eq]
@[simp] theorem recount_panes (q : Option Nat) (s : State) : (recount q s).panes = s.panes := by rw [recount_eq]
@[simp] theorem recount_cfg (q : Option Nat) (s : State) : (recount q s).cfg = s.cfg := by rw [recount_eq]
@[simp] theorem recount_flrActive (q : Option Nat) (s : State) : (recount q s).flrActive = s.flrActive := by rw [recount_eq]
@[simp] theorem recount_qaux (q : Option Nat) (s : State) : (recount q s).qaux = s.qaux := by rw [recount_eq]

/-! The read of the slot at SQHEAD (R558, R614). -/

section
variable (q : QueueNo) (d : Desc) (s : State)

@[simp] theorem fetched_mem : (fetched q s).mem = s.mem := by simp [fetched]
@[simp] theorem fetched_inflight : (fetched q s).inflight = s.inflight := by simp [fetched]
@[simp] theorem fetched_panes : (fetched q s).panes = s.panes := by simp [fetched]
@[simp] theorem fetched_nextId : (fetched q s).nextId = s.nextId := by simp [fetched]
@[simp] theorem fetched_cfg : (fetched q s).cfg = s.cfg := by simp [fetched]
@[simp] theorem fetched_flrActive : (fetched q s).flrActive = s.flrActive := by simp [fetched]
@[simp] theorem fetched_qaux : (fetched q s).qaux = s.qaux := by simp [fetched]
@[simp] theorem fetched_out : (fetched q s).out
    = .rdCurr (getF (CMDQ.SQBASE_ADDR q) s * 2 ^ 12 + 64 * getF (CMDQ.QPTR_SQHEAD q) s) :: s.out := by
  simp [fetched, emit]

/-- A plain field other than SQHEAD reads as before. -/
theorem getF_fetched {g : Fld} (hp : plain g) (hne : g.key ≠ queueKey q + 0x800) : getF g (fetched q s) = getF g s := by
  unfold fetched
  rw [getF_setF_ne _ _ _ _ (by simpa using hne), getF_peep _ _ _ _ _ _ hp]
  rfl

theorem getF_sqhead_fetched : getF (CMDQ.QPTR_SQHEAD q) (fetched q s)
    = (getF (CMDQ.QPTR_SQHEAD q) s + 1) % 2 ^ getF (CMDQ.QRING_SQLOG2 q) s % 2 ^ 16 := getF_setF_self _ _ _

/-- What cannot be taken changes nothing, whatever the row that writes its opcode. -/
theorem exec_not_taken {c : Instr} {k : InFlight → State → State} (harm : exec c s = .next (takeRing q d k s))
    (h : takeable q (dOpcode d) s = false) : exec c s = .next s := by
  rw [harm, takeRing_of_not h]

end

theorem dOpcode_vopDesc (op : Nat) (d : Desc) : dOpcode (vopDesc op d) = 2 :=
  (dOpcode_dput _ 0x2C 0 8 op (by decide)).trans (dOpcode_withOpcode 2 d)

/-- Settles O20. -/
theorem takingMovesTheHead : Obligations.TakingMovesTheHead := by
  intro q d s
  refine ⟨getF_sqhead_fetched q s, getF_fetched q s ?_ (by simp), getF_fetched q s ?_ (by simp), getF_fetched q s ?_ (by simp),
    fetched_mem q s, fetched_inflight q s, fun h => exec_not_taken q d s rfl h, fun h => exec_not_taken q _ s rfl ?_,
    fun h => exec_not_taken q _ s rfl ?_, fun h => exec_not_taken q _ s rfl ?_⟩
  · exact plain_of_queueKey q (key_qptr_sqtail q)
  · exact plain_of_queueKey q (key_qptr_cqhead q)
  · exact plain_of_queueKey q (key_qptr_cqtail q)
  · rw [dOpcode_vopDesc]
    exact h
  · rw [dOpcode_withOpcode]
    exact h
  · rw [dOpcode_withOpcode]
    exact h

theorem exec_invalidOpcode {q : QueueNo} {d : Desc} {s : State} (h : Takes q (dOpcode d) s) :
    exec (.invalidOpcode q d) s = .next (taken q d beginAny s) := by
  change Host.Outcome.next (takeRing q d beginAny s) = _
  rw [takeRing_of_takes h rfl]

/-- Settles O21. -/
theorem ringReadsAndSnoops : Obligations.RingReadsAndSnoops := fun q s =>
  ⟨fetched_out q s, fun _ _ h => takeRing_of_takes h rfl, fun _ h => exec_invalidOpcode h, fun _ => rfl⟩

/-! A descriptor whose header is faulty completes at once (R565, R571). -/

/-- The entry with which a descriptor enters flight (R567). -/
def entryOf (port q seq entry : Nat) (fromProgram : Bool) (d : Desc) (s : State) : InFlight :=
  ⟨s.nextId, port, some q, seq, fromProgram, entry, dOpcode d, d, getF GLB.RUNMODE_MODE s, licOf 99 s, .running, [], none, [], 0, 0⟩

/-- The state once a descriptor has entered flight, before its header is checked. -/
def entered (port q seq entry : Nat) (fromProgram : Bool) (d : Desc) (s : State) : State :=
  trace 0 0 99 (q + dOpcode d * 2 ^ 8 + b2n fromProgram * 2 ^ 16 + entry * 2 ^ 20) (dUtag d + seq * 2 ^ 32) (peep 11 q 1 1
    (recount (some q) { s with inflight := s.inflight ++ [entryOf port q seq entry fromProgram d s], nextId := s.nextId + 1 }))

theorem enterFlight_of_faulty {port q seq entry st ck : Nat} {fp : Bool} {d : Desc} {k : InFlight → State → State} {s : State}
    (h : headerCheck d = some (st, ck)) : enterFlight port q seq entry fp d k s
      = finish (entryOf port q seq entry fp d s) st 0 0 ck (peep 11 q 3 1 (breakPair port (entered port q seq entry fp d s))) := by
  unfold enterFlight
  simp only [h]
  rfl

section
variable {port q seq entry : Nat} {fp : Bool} {d : Desc} {s : State}

@[simp] theorem entered_inflight : (entered port q seq entry fp d s).inflight = s.inflight ++ [entryOf port q seq entry fp d s] := by
  simp [entered]
@[simp] theorem entered_nextId : (entered port q seq entry fp d s).nextId = s.nextId + 1 := by simp [entered]
@[simp] theorem entered_mem : (entered port q seq entry fp d s).mem = s.mem := by simp [entered]
@[simp] theorem entered_panes : (entered port q seq entry fp d s).panes = s.panes := by simp [entered]
@[simp] theorem entered_cfg : (entered port q seq entry fp d s).cfg = s.cfg := by simp [entered]
@[simp] theorem entered_flrActive : (entered port q seq entry fp d s).flrActive = s.flrActive := by simp [entered]
@[simp] theorem entered_qaux : (entered port q seq entry fp d s).qaux = s.qaux := by simp [entered]

/-- A descriptor that enters flight is not one that is held for pairing, so it breaks no pair of its own. -/
theorem breakPair_entered (h : pairingOn port s = none) :
    breakPair port (entered port q seq entry fp d s) = entered port q seq entry fp d s := by
  have hnone : pairingOn port (entered port q seq entry fp d s) = none := by
    simp only [pairingOn, entered_inflight, List.find?_append, Option.or_eq_none_iff] at h ⊢
    exact ⟨h, rfl⟩
  simp [breakPair, hnone]

end

/-! The fields that the counting of what is in flight and the close of a descriptor leave. -/

/-- A field that the counts of what is in flight do not show. -/
def offCounts (q : Nat) (g : Fld) : Prop :=
  g.key ≠ CMDG.GSTAT_INFLIGHT.key ∧ g.key ≠ CMDG.GSTAT_COLLS.key ∧ g.key ≠ queueKey q + 0x110 ∧ g.key ≠ queueKey q + 0x10A

theorem getF_recount_of_off {q : Nat} {g : Fld} (s : State) (h : offCounts q g) : getF g (recount (some q) s) = getF g s := by
  obtain ⟨hall, hcolls, hinflight, hwaiting⟩ := h
  unfold recount recountQueue
  dsimp only
  rw [getF_setF_ne _ _ _ _ (by simpa using hwaiting), getF_setF_ne _ _ _ _ (by simpa using hinflight), getF_setF_ne _ _ _ _ hcolls,
    getF_setF_ne _ _ _ _ hall]

/-- A field that is no ARM or OWNER of a check unit, by its place in its page. -/
def offChecks (g : Fld) : Prop := g.key % 0x40000 ≠ 0 ∧ g.key % 0x40000 ≠ 31

theorem getF_releaseChecks {g : Fld} (id : Nat) (s : State) (h : offChecks g) : getF g (releaseChecks id s) = getF g s := by
  obtain ⟨harm, howner⟩ := h
  unfold releaseChecks
  refine (forEach_keep (getF g) _ _ _ fun p _ t => ?_).trans rfl
  have hbase : ckBase p.1 % 0x1000 = 0 := by unfold ckBase frmBase; omega
  rw [getF_setF_ne _ _ _ _ (by simp only [Fld.key, CK.CKCTL_OWNER] at howner ⊢; omega),
    getF_setF_ne _ _ _ _ (by simp only [Fld.key, CK.CKCTL_ARM] at harm ⊢; omega)]

theorem getF_snapPhases {g : Fld} (s : State) (h : noReport g) : getF g (snapPhases s) = getF g s := by
  have hlive : ∀ (x : State) l, getF g { x with phLive := l } = getF g x := fun _ _ => rfl
  unfold snapPhases
  rw [hlive]
  refine forEach_keep (getF g) _ _ s fun i hi t => getF_setF_ne _ _ _ _ ?_
  have := List.mem_range.mp hi
  simp only [noReport, Fld.key, TRN.PHREP_COUNT] at h ⊢
  omega

theorem getF_closing_of_off {g : Fld} (e : InFlight) (s : State) (hreport : noReport g) (hchecks : offChecks g) :
    getF g (closing e s) = getF g s := by
  unfold closing
  rw [getF_releaseChecks _ _ hchecks]
  split
  · exact getF_snapPhases s hreport
  · rfl

/-- A field that entering flight and leaving it keep: none of the counters, of the reports or of the check units. -/
structure Steady (q : Nat) (g : Fld) : Prop where
  plain : plain g
  counts : offCounts q g
  report : noReport g
  checks : offChecks g

theorem getF_entered {port q seq entry : Nat} {fp : Bool} {d : Desc} {s : State} {g : Fld} (h : Steady q g) :
    getF g (entered port q seq entry fp d s) = getF g s := by
  unfold entered
  rw [getF_trace _ _ _ _ _ _ _ h.plain, getF_peep _ _ _ _ _ _ h.plain, getF_recount_of_off _ h.counts]
  rfl

/-- The field at `k` of a queue's page is steady unless it counts, or lies where a check unit's page has ARM or OWNER. -/
theorem steady_of_queueKey (q : QueueNo) {g : Fld} {k : Nat} (hkey : g.key = queueKey q + k)
    (hk : k < 0x40000 ∧ k ≠ 0x110 ∧ k ≠ 0x10A ∧ k ≠ 0 ∧ k ≠ 31 := by decide) : Steady q g := by
  have hq := q.isLt
  refine ⟨plain_of_queueKey q hkey hk.1, ?_, ?_, ?_⟩
  · unfold offCounts
    rw [hkey]
    simp only [queueKey, Fld.key, CMDG.GSTAT_INFLIGHT, CMDG.GSTAT_COLLS]
    omega
  · unfold noReport
    rw [hkey, queueKey]
    omega
  · unfold offChecks
    rw [hkey, queueKey]
    omega

theorem steady_lic99 (q : QueueNo) : Steady q (REG.LIC_COUNT 99) := by
  have hq := q.isLt
  constructor <;> simp only [plain, offCounts, noReport, offChecks, queueKey, Fld.key, CMDG.GSTAT_INFLIGHT, CMDG.GSTAT_COLLS, REG.LIC_COUNT]
    <;> omega

/-! A record that is written (R581). -/

section
variable (q : Nat) (r : DoneRec) (s : State)

/-- The boundary gains, and nothing is taken from it. -/
theorem sendMsix_out_suffix (v : Nat) : s.out <:+ (sendMsix v s).out := by
  unfold sendMsix
  split
  · exact List.suffix_refl _
  · split
    · exact List.suffix_refl _
    · exact List.suffix_cons _ _

theorem recordIrq_out_suffix (irq : Bool) (st : Nat) : s.out <:+ (recordIrq q irq st s).out := by
  unfold recordIrq
  dsimp only
  split
  · exact sendMsix_out_suffix s _
  · exact List.suffix_refl _

/-- The record stands on the boundary: at the tail of the ring, with the phase of the pass. -/
theorem record_mem_putRecord : Out.hostWrite (getF (CMDQ.CQBASE_ADDR q) s * 2 ^ 12 + 32 * getF (CMDQ.QPTR_CQTAIL q) s)
    (recordBytes r.flight r.status r.flags r.replay r.check r.tier r.dur (qauxOf q s).phase) ∈ (putRecord q r s).out := by
  refine (recordIrq_out_suffix _ _ _ _).subset ?_
  rw [peep_out, addF, setF_out]
  split <;> exact List.mem_cons_self

theorem getF_cqtail_putRecord (q : QueueNo) : getF (CMDQ.QPTR_CQTAIL q) (putRecord q r s)
    = (getF (CMDQ.QPTR_CQTAIL q) s + 1) % 2 ^ getF (CMDQ.QRING_CQLOG2 q) s % 2 ^ 16 := by
  unfold putRecord addF
  dsimp only
  rw [getF_recordIrq, getF_peep _ _ _ _ _ _ (plain_of_queueKey q (key_qptr_cqtail q)), getF_setF_ne _ _ _ _ (by simp)]
  split
  · exact getF_setF_self _ _ _
  · exact getF_setF_self _ _ _

end

/-- The state when the record of a descriptor that completes comes to be written. -/
def departed (e : InFlight) (s : State) : State := { closing e s with
  inflight := (closing e s).inflight.filter (fun x => decide (x.id ≠ e.id))
  copies := (closing e s).copies.filter (fun c => decide (c.owner ≠ e.id))
  covers := (closing e s).covers.filter (fun c => decide (c.owner ≠ e.id)) }

section
variable (e : InFlight) (s : State)

theorem departed_eq : departed e s = { s with flds := (departed e s).flds, phLive := (departed e s).phLive, ckOwner := (departed e s).ckOwner
                                              inflight := (departed e s).inflight, copies := (departed e s).copies
                                              covers := (departed e s).covers } := by
  unfold departed
  rw [closing_eq]

@[simp] theorem departed_cfg : (departed e s).cfg = s.cfg := by rw [departed_eq]
@[simp] theorem departed_flrActive : (departed e s).flrActive = s.flrActive := by rw [departed_eq]
@[simp] theorem departed_qaux : (departed e s).qaux = s.qaux := by rw [departed_eq]
@[simp] theorem departed_mem : (departed e s).mem = s.mem := by rw [departed_eq]
@[simp] theorem departed_nextId : (departed e s).nextId = s.nextId := by rw [departed_eq]
@[simp] theorem departed_inflight : (departed e s).inflight = s.inflight.filter (fun x => decide (x.id ≠ e.id)) := by
  unfold departed
  rw [closing_eq]

/-- A field that is neither a report nor of a check unit reads as before. -/
theorem getF_departed {g : Fld} (hreport : noReport g) (hchecks : offChecks g) : getF g (departed e s) = getF g s :=
  Eq.trans rfl (getF_closing_of_off e s hreport hchecks)

@[simp] theorem departed_panes : (departed e s).panes = s.panes := by rw [departed_eq]

end

/-- A descriptor of a queue that writes records leaves flight with its record. -/
theorem finish_of_writes {e : InFlight} {q st f r c : Nat} {s : State} (hq : e.queue = some q)
    (hst : st ≠ stQuotaExceeded ∧ st ≠ stTierFull) (hstate : qState q (departed e s) ≠ qError) (hd3 : s.cfg.d3hot = false)
    (hbus : busOk s = true) : ∃ a b, finish e st f r c s = recount (some q) (trace 1 0 99 a b
      (putRecord q ⟨e, st, f, r, c, 0, licSince 99 e.takenLic (departed e s)⟩ (departed e s))) := by
  have hwrites : ∀ rec, offerRecord q rec (departed e s) = putRecord q rec (departed e s) := by
    intro rec
    unfold offerRecord
    rw [if_neg hstate, departed_cfg, hd3, if_neg Bool.false_ne_true, if_neg (by simpa [busOk] using hbus)]
  rw [← hwrites]
  unfold finish
  dsimp only
  rw [hq, if_neg (by simp [hst.1, hst.2])]
  exact ⟨_, _, rfl⟩

@[simp] theorem recordIrq_panes (q : Nat) (irq : Bool) (st : Nat) (s : State) : (recordIrq q irq st s).panes = s.panes := by
  unfold recordIrq queueIrq
  dsimp only
  split
  · rw [setQaux_panes, sendMsix_eq]
  · rfl

@[simp] theorem putRecord_panes (q : Nat) (r : DoneRec) (s : State) : (putRecord q r s).panes = s.panes := by
  unfold putRecord addF
  dsimp only
  rw [recordIrq_panes, peep_panes, setF_panes]
  split <;> rfl

theorem headerCheck_status {d : Desc} {st ck : Nat} (h : headerCheck d = some (st, ck)) : st = stOpcodeInvalid ∨ st = stFieldInvalid := by
  unfold headerCheck at h
  split at h
  · cases h
    exact .inl rfl
  · split at h
    · cases h
      exact .inr rfl
    · cases h

section
variable {q : QueueNo} {d : Desc} {s : State}

/-- The state when the record of the next descriptor of queue `q`, whose header is faulty, comes to be written. -/
def rejected (q : QueueNo) (d : Desc) (s : State) : State :=
  departed (entryOf (getF (CMDQ.QBIND_CASEMENT q) s) q (getF (CMDQ.QPTR_SQHEAD q) s) 0 false d (fetched q s))
    (peep 11 q 3 1 (entered (getF (CMDQ.QBIND_CASEMENT q) s) q (getF (CMDQ.QPTR_SQHEAD q) s) 0 false d (fetched q s)))

/-- A steady field other than SQHEAD reads as before the descriptor was taken. -/
theorem getF_rejected {g : Fld} (hg : Steady q g) (hne : g.key ≠ queueKey q + 0x800) : getF g (rejected q d s) = getF g s := by
  unfold rejected
  rw [getF_departed _ _ hg.report hg.checks, getF_peep _ _ _ _ _ _ hg.plain, getF_entered hg, getF_fetched q s hg.plain hne]

theorem licOf_rejected : licOf 99 (rejected q d s) = licOf 99 s :=
  getF_rejected (steady_lic99 q) (by have := q.isLt; simp only [queueKey, Fld.key, REG.LIC_COUNT]; omega)

@[simp] theorem rejected_mem : (rejected q d s).mem = s.mem := by simp [rejected]
@[simp] theorem rejected_panes : (rejected q d s).panes = s.panes := by simp [rejected]
@[simp] theorem rejected_nextId : (rejected q d s).nextId = s.nextId + 1 := by simp [rejected]

/-- What has left flight is the descriptor alone: every other has an older number. -/
theorem rejected_inflight (h : ∀ e ∈ s.inflight, e.id < s.nextId) : (rejected q d s).inflight = s.inflight := by
  have hkept : s.inflight.filter (fun x => decide (x.id ≠ s.nextId)) = s.inflight :=
    List.filter_eq_self.mpr fun e he => decide_eq_true (h e he).ne
  simpa [rejected, entryOf, List.filter_append] using hkept

@[simp] theorem qauxOf_rejected : qauxOf q (rejected q d s) = qauxOf q s := by simp [rejected, qauxOf]

/-- No count of TR99 passes while a descriptor with a faulty header is taken and completes. -/
theorem licSince_rejected : licSince 99 (licOf 99 (fetched q s)) (rejected q d s) = 0 := by
  have hlic : licOf 99 (fetched q s) = licOf 99 s :=
    getF_fetched q s (steady_lic99 q).plain (by have := q.isLt; simp only [queueKey, Fld.key, REG.LIC_COUNT]; omega)
  rw [licSince, licOf_rejected, hlic, Nat.add_sub_cancel_left, Nat.mod_self]

/-- A descriptor with a faulty header is taken, and its record is written at once. -/
theorem taken_of_faulty {st ck : Nat} {k : InFlight → State → State} (hck : headerCheck d = some (st, ck)) (h : Takes q (dOpcode d) s)
    (hpair : pairingOn (getF (CMDQ.QBIND_CASEMENT q) s) s = none) :
    ∃ a b, taken q d k s = recount (some q.val) (trace 1 0 99 a b (putRecord q
      ⟨entryOf (getF (CMDQ.QBIND_CASEMENT q) s) q (getF (CMDQ.QPTR_SQHEAD q) s) 0 false d (fetched q s), st, 0, 0, ck, 0, 0⟩
      (rejected q d s))) := by
  obtain ⟨htake, hbus⟩ := h
  have hpair' : pairingOn (getF (CMDQ.QBIND_CASEMENT q) s) (fetched q s) = none := by rw [pairingOn, fetched_inflight]; exact hpair
  have hstate : qState q (rejected q d s) ≠ qError := by
    rw [qState, getF_rejected (steady_of_queueKey q (key_qstat_state q)) (by simp)]
    simp only [takeable, qState, Bool.and_eq_true, decide_eq_true_eq] at htake
    obtain ⟨⟨⟨⟨⟨⟨⟨⟨⟨-, hen⟩, -⟩, -⟩, -⟩, -⟩, -⟩, -⟩, -⟩, -⟩ := htake
    rw [of_decide_eq_true hen]
    decide
  obtain ⟨a, b, hfinish⟩ := finish_of_writes (st := st) (f := 0) (r := 0) (c := ck)
    (e := entryOf (getF (CMDQ.QBIND_CASEMENT q) s) q (getF (CMDQ.QPTR_SQHEAD q) s) 0 false d (fetched q s)) rfl
    (by rcases headerCheck_status hck with rfl | rfl <;> decide) hstate (by simp_all [busOk]) (by simpa [busOk] using hbus)
  refine ⟨a, b, ?_⟩
  rw [taken, enterFlight_of_faulty hck, breakPair_entered hpair', hfinish]
  congr 3
  exact congrArg _ licSince_rejected

end

/-- Settles O22: a faulty header takes the descriptor through flight in one step, and what counting and closing do on the way leaves the
ring, the time and the way that its record goes. -/
theorem headerChecks : Obligations.HeaderChecks := by
  intro q d s
  refine ⟨fun h => if_pos h, fun h1 h10 hf => ?field, fun h1 h10 hf => ?none, exec_invalidOpcode, fun st ck hck htakes hpair hids k => ?record⟩
  case field => rw [headerCheck, if_neg (by omega), if_pos hf]; rfl
  case none => rw [headerCheck, if_neg (by omega), if_neg (by simp [hf])]
  case record =>
    obtain ⟨a, b, htaken⟩ := taken_of_faulty (k := k) hck htakes hpair
    have hring : ∀ {g : Fld} {i : Nat}, g.key = queueKey q + i → (i < 0x40000 ∧ i ≠ 0x110 ∧ i ≠ 0x10A ∧ i ≠ 0 ∧ i ≠ 31) → i ≠ 0x800 →
        getF g (rejected q d s) = getF g s := fun hkey hi hne => getF_rejected (steady_of_queueKey q hkey hi) (by rw [hkey]; omega)
    have hbase := hring (key_cqbase_addr q) (by decide) (by decide)
    have htail := hring (key_qptr_cqtail q) (by decide) (by decide)
    have hlog := hring (key_qring_cqlog2 q) (by decide) (by decide)
    refine ⟨entryOf (getF (CMDQ.QBIND_CASEMENT q) s) q (getF (CMDQ.QPTR_SQHEAD q) s) 0 false d (fetched q s), _, htaken, rfl, rfl, rfl, ?out,
        ?tail, ?inflight, ?nextId, ?mem, ?panes⟩
    case out =>
      rw [recount_out, trace_out, ← hbase, ← htail, ← qauxOf_rejected (d := d)]
      exact record_mem_putRecord _ _ _
    case tail =>
      have hsteady := steady_of_queueKey q (key_qptr_cqtail q)
      rw [getF_recount_of_off _ hsteady.counts, getF_trace _ _ _ _ _ _ _ hsteady.plain, getF_cqtail_putRecord, htail, hlog]
    case inflight => simp [rejected_inflight hids]
    case nextId => simp
    case mem => simp
    case panes => simp

end Sys2Proof.Machine

namespace Sys2Proof.Machine

/-! PROOFS. WAIT, SIGNAL and the fence counters (R572 to R578, R601). -/

/-- No check fails when none of them does. -/
theorem validated_of_sound {e : InFlight} {cs : List (Nat × Nat × Bool)} {k : State → State} {s : State} (h : ∀ c ∈ cs, c.2.2 = false) :
    validated e cs k s = k s := by
  have hnone : cs.find? (fun c => c.2.2) = none := List.find?_eq_none.mpr fun c hc => by simp [h c hc]
  simp [validated, firstFailure, hnone]

section
variable {e : InFlight} {s : State}

/-- A WAIT that passes its checks completes if its condition holds, and else waits (R574, R576, R577). -/
theorem beginWait_of_valid (hres : waitReserved e.desc = false) (hown : fenceOwn e s = true) : beginWait e s
    = if waitHolds e.desc s then finish e stOk 0 0 0 s else recount e.queue (setFlight e.id (fun x => { x with st := .waiting }) s) :=
  validated_of_sound (by simp [hres, hown])

/-- An entry that comes to wait holds its port (R577). -/
theorem portHeld_of_waiting {port : Nat} (q : Option Nat) (h : ∃ x ∈ s.inflight, x.id = e.id ∧ x.port = port) :
    portHeld port (recount q (setFlight e.id (fun x => { x with st := .waiting }) s)) = true := by
  obtain ⟨x, hx, hid, hport⟩ := h
  rw [portHeld, recount_inflight, List.any_eq_true]
  exact ⟨{ x with st := .waiting }, List.mem_map.mpr ⟨x, hx, by simp [hid]⟩, by simp [hport]⟩

/-- The value that a SIGNAL gives its counter (R575, R578). -/
def signalled (e : InFlight) (s : State) : Nat :=
  if signalMode e.desc = 0 then getF (CMDG.FENCE_VALUE (fenceCounter e.desc)) s + fenceValue e.desc
  else max (getF (CMDG.FENCE_VALUE (fenceCounter e.desc)) s) (fenceValue e.desc)

section
variable {port : Nat} (hf : fatal s = false) (he : s.inflight.find? (fun x => decide (x.st = .signal) && decide (x.port = port)) = some e)
include hf he

/-- A SIGNAL that something earlier of its port precedes waits. -/
theorem exec_signalApply_waits (h : ∃ x ∈ s.inflight, x.port = port ∧ x.id < e.id ∧ x.st ≠ .signal) :
    exec (.signalApply port) s = .next s := by
  have hbefore : s.inflight.any (fun x => decide (x.port = port) && decide (x.id < e.id) && decide (x.st ≠ .signal)) = true := by
    simpa [and_assoc] using h
  change execSignalApply port s = _
  simp only [execSignalApply, hf, he, hbefore, if_true, Bool.false_eq_true, if_false]

/-- The oldest SIGNAL of a port, with nothing earlier of the port in flight, gives its counter its value if that fits (R578). -/
theorem exec_signalApply (h : ∀ x ∈ s.inflight, x.port = port → x.id < e.id → x.st = .signal) :
    exec (.signalApply port) s = .next (if 2 ^ 64 ≤ signalled e s then finish e stFenceRange 0 0 0 s
      else completeWaits (finish e stOk 0 0 0 (trace 12 0 99 (fenceCounter e.desc) (signalled e s)
        (setF (CMDG.FENCE_VALUE (fenceCounter e.desc)) (signalled e s) s)))) := by
  have hbefore : s.inflight.any (fun x => decide (x.port = port) && decide (x.id < e.id) && decide (x.st ≠ .signal)) = false := by
    simpa [and_assoc] using h
  change execSignalApply port s = _
  simp only [execSignalApply, hf, he, hbefore, Bool.false_eq_true, if_false]
  exact (apply_ite Host.Outcome.next _ _ _).symm

end

end

/-- Settles O23. -/
theorem waitsAndFences : Obligations.WaitsAndFences := by
  refine ⟨fun e s h1 h2 h3 hown => ?wait, fun port e s hf he => ⟨fun hfirst => ?applied, exec_signalApply_waits hf he⟩, fun f v s h => ?write⟩
  case wait =>
    have hbegin := beginWait_of_valid (e := e) (s := s) (by simp [waitReserved, h1, h2, h3]) (decide_eq_true hown)
    constructor
    · intro hreached
      exact hbegin.trans (if_pos (decide_eq_true hreached))
    · intro hbelow hin
      rw [hbegin, if_neg (by simpa [waitHolds] using hbelow)]
      exact portHeld_of_waiting _ hin
  case applied =>
    have hexec := exec_signalApply hf he hfirst
    refine ⟨fun hadd hbeyond => ?_, fun hadd hfits => ?_, fun hmax hold => ?_⟩
    · have hval : signalled e s = _ := if_pos hadd
      rw [hval] at hexec
      exact hexec.trans (congrArg _ (if_pos hbeyond))
    · have hval : signalled e s = _ := if_pos hadd
      rw [hval] at hexec
      exact hexec.trans (congrArg _ (if_neg (Nat.not_le.mpr hfits)))
    · have hval : signalled e s = _ := if_neg hmax
      have hfits : fenceValue e.desc < 2 ^ 64 := Nat.mod_lt _ (Nat.two_pow_pos 64)
      rw [hval] at hexec
      exact hexec.trans (congrArg _ (if_neg (Nat.not_le.mpr (max_lt hold hfits))))
  case write => exact congrArg Host.Outcome.next (hostWrite_of_served _ h)

end Sys2Proof.Machine

namespace Sys2Proof.Machine

/-! PROOFS. Fields of a byte string, and what flits and packets keep (R475, R480). -/

@[simp] theorem length_leBytes (n v : Nat) : (leBytes n v).length = n := by
  induction n generalizing v with
  | zero => rfl
  | succ n ih => simp [leBytes, ih]

/-- Little-endian bytes spell the number that they were made of, as far as it fits. -/
theorem leNat_leBytes (n v : Nat) : leNat (leBytes n v) = v % 256 ^ n := by
  induction n generalizing v with
  | zero => simp [leBytes, leNat, Nat.mod_one]
  | succ n ih =>
    rw [leBytes, leNat, ih, BitVec.toNat_ofNat, Nat.mod_mod_of_dvd _ (dvd_refl _), Nat.pow_succ', Nat.mod_mul]

/-! Reading at an offset: bytes before it are passed over, bytes after the end of the field are left. -/

theorem byteSlice_append_skip {a : List Byte} {o : Nat} (b : List Byte) (n : Nat) (h : a.length ≤ o) :
    byteSlice (a ++ b) o n = byteSlice b (o - a.length) n := by
  simp [byteSlice, List.drop_append, List.drop_eq_nil_of_le h]

theorem byteSlice_append_left {a : List Byte} {n : Nat} (b : List Byte) (h : a.length = n) : byteSlice (a ++ b) 0 n = a := by
  subst h
  simp [byteSlice]

theorem leAt_append_skip {a : List Byte} {o : Nat} (b : List Byte) (n : Nat) (h : a.length ≤ o) :
    leAt (a ++ b) o n = leAt b (o - a.length) n := by
  rw [leAt, leAt, byteSlice_append_skip b n h]

theorem leAt_leBytes_append (n v : Nat) (b : List Byte) : leAt (leBytes n v ++ b) 0 n = v % 256 ^ n := by
  rw [leAt, byteSlice_append_left b (length_leBytes n v), leNat_leBytes]

theorem leAt_leBytes (n v : Nat) : leAt (leBytes n v) 0 n = v % 256 ^ n := by
  simpa using leAt_leBytes_append n v []

/-! The CRC of R257 has 32 bits, and the four bytes behind a string keep it. -/

theorem crc32c_lt (bs : List Byte) : crc32c bs < 2 ^ 32 := by
  have hregister : crcList poly32c 0xFFFFFFFF bs < 2 ^ 32 := by
    refine List.foldlRecOn (motive := fun c => c < 2 ^ 32) bs (crcByte poly32c) (by decide) fun c hc b _ => ?_
    exact ckStep_lt (poly := 0) (by decide) hc b
  exact Nat.xor_lt_two_pow hregister (by decide)

/-- A string that is followed by its CRC: the string is what stands before it, and the CRC is read there. -/
theorem crc_trails {b : List Byte} {n : Nat} (h : b.length = n) :
    crc32c ((b ++ leBytes 4 (crc32c b)).take n) = leAt (b ++ leBytes 4 (crc32c b)) n 4 := by
  subst h
  rw [List.take_left', leAt_append_skip _ _ le_rfl, Nat.sub_self, leAt_leBytes, Nat.mod_eq_of_lt (by simpa using crc32c_lt b)]
  rfl

/-- The header and the data of a flit (R475). -/
def flitBody (kind tc fseq cred : Nat) (data : List Byte) : List Byte :=
  leBytes 1 kind ++ leBytes 1 tc ++ leBytes 2 fseq ++ leBytes 4 cred ++ byteSlice data 0 628

theorem flitBytes_eq (kind tc fseq cred : Nat) (data : List Byte) : flitBytes kind tc fseq cred data
    = flitBody kind tc fseq cred data ++ leBytes 4 (crc32c (flitBody kind tc fseq cred data)) := rfl

/-- The header and the payload of a packet (R480). -/
def packetBody (kind flags src dst epoch psn tag bidx aux op fmt reason gen : Nat) (payload : List Byte) : List Byte :=
  leBytes 1 (1 + 16 * kind) ++ leBytes 1 flags ++ leBytes 2 payload.length ++ leBytes 2 src ++ leBytes 2 dst
    ++ leBytes 4 epoch ++ leBytes 4 psn ++ leBytes 4 tag ++ leBytes 4 bidx ++ leBytes 4 aux ++ leBytes 1 op ++ leBytes 1 fmt
    ++ leBytes 1 reason ++ leBytes 1 gen ++ payload

theorem packetBytes_eq (kind flags src dst epoch psn tag bidx aux op fmt reason gen : Nat) (payload : List Byte) :
    packetBytes kind flags src dst epoch psn tag bidx aux op fmt reason gen payload
      = packetBody kind flags src dst epoch psn tag bidx aux op fmt reason gen payload
        ++ leBytes 4 (crc32c (packetBody kind flags src dst epoch psn tag bidx aux op fmt reason gen payload)) := rfl

theorem length_packetBody (kind flags src dst epoch psn tag bidx aux op fmt reason gen : Nat) (payload : List Byte) :
    (packetBody kind flags src dst epoch psn tag bidx aux op fmt reason gen payload).length = 32 + payload.length := by
  simp only [packetBody, List.length_append, length_leBytes]

/-- Settles O46: a field is read at the end of the fields before it, and each has as many bytes as its value needs. -/
theorem flitsAndPacketsRoundTrip : Obligations.FlitsAndPacketsRoundTrip := by
  refine ⟨fun kind tc fseq cred data hkind htc hfseq hcred hdata => ?flit, ?packet⟩
  case flit =>
    have hslice : byteSlice data 0 628 = data := by rw [byteSlice_zero_of_le hdata.le, hdata]; simp
    have hbody : (flitBody kind tc fseq cred data).length = 636 := by simp [flitBody, hslice, hdata]
    refine ⟨by simp [flitBytes_eq, hbody], crc_trails hbody, ?_⟩
    simp (disch := simp) only [flitBytes_eq, flitBody, hslice, List.append_assoc, leAt_append_skip, byteSlice_append_skip, length_leBytes,
      leAt_leBytes_append, Nat.sub_self, Nat.reduceSub, Nat.reducePow]
    refine ⟨by omega, by omega, by omega, by omega, byteSlice_append_left _ hdata⟩
  case packet =>
    intro kind flags src dst epoch psn tag bidx aux op fmt reason gen payload p hkind hflags hsrc hdst hepoch hpsn htag hbidx haux hop hfmt
      hreason hgen hlen hp
    have hbody := length_packetBody kind flags src dst epoch psn tag bidx aux op fmt reason gen payload
    rw [packetBytes_eq] at hp
    have hpkLen : pkLen p = payload.length := by
      simp (disch := simp) only [hp, pkLen, packetBody, List.append_assoc, leAt_append_skip, length_leBytes, leAt_leBytes_append, Nat.sub_self,
        Nat.reduceSub, Nat.reducePow]
      omega
    have hsound : pkSound p = true := by
      simp only [pkSound, hpkLen, Bool.and_eq_true, decide_eq_true_eq]
      exact ⟨by simp [hp, hbody], by rw [hp]; exact crc_trails hbody⟩
    have hpayload : pkPayload p = payload := by
      rw [pkPayload, hpkLen, hp, packetBody]
      simp (disch := simp) only [List.append_assoc, byteSlice_append_skip, length_leBytes, Nat.sub_self, Nat.reduceSub, byteSlice_append_left]
    rw [hpayload]
    refine ⟨hsound, ?_⟩
    simp (disch := simp) only [and_true, pkVer, pkType, pkSrc, pkDst, pkEpoch, pkPsn, pkTag, pkBidx, pkAux, pkOp,
      pkFmt, pkReason, pkGen, pkTc, hp, packetBody, List.append_assoc, leAt_append_skip, length_leBytes, leAt_leBytes_append, Nat.sub_self,
      Nat.reduceSub, Nat.reducePow]
    omega

end Sys2Proof.Machine
namespace Sys2Proof.Machine

/-! PROOFS. The links (R471, R473, R475, R476, R507, R508) and what arrives on them (R472, R474 to R479, R509). -/

@[simp] theorem dwAuxOf_peep (n k u e i : Nat) (s : State) : dwAuxOf n (peep k u e i s) = dwAuxOf n s := by rw [peep_eq]; rfl

@[simp] theorem dwAuxOf_addF (n : Nat) (f : Fld) (i : Nat) (s : State) : dwAuxOf n (addF f i s) = dwAuxOf n s := rfl

/-! The counters of the error correction (R509), which no reception after it moves. -/

/-- The corrected and the uncorrectable codewords of a doorway. -/
def fecCounts (w : Nat) (s : State) : Nat × Nat := (getF (DW.DWFECCOR_COUNT w) s, getF (DW.DWFECUNC_COUNT w) s)

section
variable {w : Nat} {s : State}

theorem fecCounts_setF {f : Fld} (v : Nat) (haddr : dwBase w + 0x20 ≤ f.addr) (hlo : f.lo < 64) : fecCounts w (setF f v s) = fecCounts w s := by
  have hne : ∀ {g : Fld}, g.lo < 64 → g.addr < dwBase w + 0x20 → getF g (setF f v s) = getF g s := fun hg hlt =>
    getF_setF_ne _ _ _ _ (key_ne_of_addr f _ hlo hg (by omega))
  exact Prod.ext (hne (by simp [DW.DWFECCOR_COUNT]) (by simp [DW.DWFECCOR_COUNT])) (hne (by simp [DW.DWFECUNC_COUNT]) (by simp [DW.DWFECUNC_COUNT]))

@[simp] theorem fecCounts_setDw (v : Nat) (f : DwAux → DwAux) : fecCounts w (setDw v f s) = fecCounts w s := rfl

theorem fecCounts_peep (hw : w < 16) (k u e i : Nat) : fecCounts w (peep k u e i s) = fecCounts w s := by
  have hplain : plain (DW.DWFECCOR_COUNT w) ∧ plain (DW.DWFECUNC_COUNT w) := by
    simp only [plain, Fld.key, DW.DWFECCOR_COUNT, DW.DWFECUNC_COUNT, dwBase, frmBase]
    omega
  exact Prod.ext (getF_peep _ _ _ _ _ _ hplain.1) (getF_peep _ _ _ _ _ _ hplain.2)

theorem fecCounts_drainFrames (hw : w < 16) : fecCounts w (drainFrames w s) = fecCounts w s := by
  unfold drainFrames
  split
  · rfl
  · refine forEach_keep _ _ _ _ fun e _ t => ?_
    exact (fecCounts_peep hw _ _ _ _).trans (fecCounts_setF _ (by simp [DW.DWTXBYTES_COUNT]) (by simp [DW.DWTXBYTES_COUNT]))

theorem fecCounts_drop : fecCounts w (satF (DW.DWDROP_COUNT w) 1 s) = fecCounts w s :=
  fecCounts_setF _ (by simp [DW.DWDROP_COUNT]) (by simp [DW.DWDROP_COUNT])

theorem fecCounts_arrive (p : List Byte) (ce : Bool) : fecCounts w (arrive w p ce s) = fecCounts w s := by
  have hbytes : fecCounts w (addF (DW.DWRXBYTES_COUNT w) p.length s) = fecCounts w s :=
    fecCounts_setF _ (by simp [DW.DWRXBYTES_COUNT]) (by simp [DW.DWRXBYTES_COUNT])
  unfold arrive
  dsimp only
  split
  · exact (fecCounts_setF _ (by simp [DW.DWICRC_COUNT]) (by simp [DW.DWICRC_COUNT])).trans hbytes
  · split
    · exact fecCounts_drop.trans hbytes
    · exact hbytes

theorem fecCounts_retireGap (tc fseq : Nat) : fecCounts w (retireGap w tc fseq s) = fecCounts w s := by
  unfold retireGap
  dsimp only
  split <;> rfl

theorem fecCounts_takeFlit (hw : w < 16) (f : List Byte) : fecCounts w (takeFlit w f s) = fecCounts w s := by
  have hcredits : fecCounts w (takeCredits w (leAt f 4 4) (peep 6 w 2 1 s)) = fecCounts w s := fecCounts_peep hw _ _ _ _
  unfold takeFlit
  extract_lets u kind tc v x a p y
  split
  · exact fecCounts_drop.trans (fecCounts_peep hw _ _ _ _)
  · split
    · exact (forEach_keep _ _ _ _ fun t _ u => fecCounts_retireGap t _).trans hcredits
    · have hdata : fecCounts w y = fecCounts w s := (fecCounts_setDw _ _).trans ((fecCounts_retireGap _ _).trans hcredits)
      split
      · exact (fecCounts_arrive _ _).trans hdata
      · exact hdata

theorem fecCounts_takeFrame (hw : w < 16) (f : List Byte) : fecCounts w (takeFrame w f s) = fecCounts w s := by
  have hpeep : fecCounts w (peep 6 w 2 1 s) = fecCounts w s := fecCounts_peep hw _ _ _ _
  have hce : ∀ ce : Bool, fecCounts w (if ce then satF (DW.DWCE_COUNT w) 1 (peep 6 w 2 1 s) else peep 6 w 2 1 s) = fecCounts w s := by
    intro ce
    split
    · exact (fecCounts_setF _ (by simp [DW.DWCE_COUNT]) (by simp [DW.DWCE_COUNT])).trans hpeep
    · exact hpeep
  unfold takeFrame
  extract_lets n g drop u et tagged o src dst udp ce
  split
  · rfl
  · split
    · split
      · exact (fecCounts_drainFrames hw).trans hpeep
      · exact fecCounts_drop.trans hpeep
    · split
      · exact fecCounts_drop.trans hpeep
      · exact (fecCounts_arrive _ _).trans (hce ce)

/-- What the error correction counts when codewords of a unit had symbols in error. -/
theorem fecCounts_countFec (t : Nat) {es : List Nat} (hes : es ≠ []) : fecCounts w (countFec w t es s)
    = ((getF (DW.DWFECCOR_COUNT w) s + (es.filter (fun n => decide (1 ≤ n ∧ n ≤ t))).length) % 2 ^ 64,
       (getF (DW.DWFECUNC_COUNT w) s + (es.filter (fun n => decide (t < n))).length) % 2 ^ 64) := by
  have hkeys : (DW.DWFECCOR_COUNT w).key ≠ (DW.DWFECUNC_COUNT w).key := 
    key_ne_of_addr _ _ (by simp [DW.DWFECUNC_COUNT]) (by simp [DW.DWFECCOR_COUNT]) (by simp [DW.DWFECCOR_COUNT, DW.DWFECUNC_COUNT])
  rw [countFec, if_neg hes]
  refine Prod.ext ?_ ?_
  · exact (getF_setF_ne _ _ _ _ hkeys).trans (getF_setF_self _ _ _)
  · exact (getF_setF_self _ _ _).trans (congrArg (fun n => (n + _) % 2 ^ 64) (getF_setF_ne _ _ _ _ hkeys.symm))

end

/-! The commands of the links. -/

section
variable {w : DoorwayNo} {s : State}

/-- DWCTL refuses a change of mode behind a shutter that is not CLOSED. -/
theorem writeDwctl_refused {v : Nat} (hmode : v % 2 ≠ getF (DW.DWCTL_MODE w) s) (hshut : getF (GLB.SHUT_STATE (68 + w)) s ≠ 0) :
    writeDwctl w v s = regAccessError (DW.DWCTL_MODE w).addr s :=
  if_pos ⟨hmode, hshut⟩

theorem writeDwctl_allowed {v : Nat} (h : v % 2 = getF (DW.DWCTL_MODE w) s ∨ getF (GLB.SHUT_STATE (68 + w)) s = 0) : writeDwctl w v s
    = if v / 16 % 4 = 3 then regAccessError (DW.DWCTL_MODE w).addr (setF (DW.DWCTL_MODE w) (v % 2) (setF (DW.DWCTL_NOFALL w) (v / 2 % 2) s))
      else setF (DW.DWCTL_MINW w) (v / 16 % 4) (setF (DW.DWCTL_MODE w) (v % 2) (setF (DW.DWCTL_NOFALL w) (v / 2 % 2) s)) :=
  if_neg fun hrefused => h.elim hrefused.1 hrefused.2

theorem exec_dwctlWrite (v : Nat) (h : Served .late s) : exec (.dwctlWrite w v) s = .next (writeDwctl w v s) :=
  congrArg Host.Outcome.next (hostWrite_of_served _ h)

/-- A training that ends within its floors brings the link up with fresh counters (R473, R476). -/
theorem exec_linkTrainingDone_up {wd rt : Nat} (partner : Option Nat) (hstate : getF (DW.DWSTAT_LSTATE w) s = 1) (halive : dwAlive w s = true)
    (hallowed : trainingAllowed w wd rt s = true) {t : State}
    (ht : t = setDw w (fun a => { dwAuxInit with egress := a.egress.map (fun e => (e.1, e.2.1, 0)), arrived := a.arrived })
      (setF (DW.DWSTAT_LSTATE w) 2 (setF (DW.DWSTAT_WIDTH w) wd (setF (DW.DWSTAT_RATE w) rt s)))) :
    exec (.linkTrainingDone w (.up wd rt partner)) s = .next (match partner with
      | some n => if isEth w s then t else setF (DW.DWSTAT_PVALID w) 1 (setF (DW.DWSTAT_PARTNER w) n t)
      | none => t) := by
  subst ht
  refine congrArg Host.Outcome.next ((if_neg (by simp [lState, hstate, halive])).trans ((if_neg (by simp [hallowed])).trans ?_))
  cases partner <;> rfl

theorem exec_linkTrainingDone_failed (hstate : getF (DW.DWSTAT_LSTATE w) s = 1) (halive : dwAlive w s = true) :
    exec (.linkTrainingDone w .failed) s = .next (trainingFails w s) :=
  congrArg Host.Outcome.next (if_neg (by simp [lState, hstate, halive]))

theorem exec_linkTrainingDone_below {wd rt : Nat} (partner : Option Nat) (hstate : getF (DW.DWSTAT_LSTATE w) s = 1) (halive : dwAlive w s = true)
    (hallowed : trainingAllowed w wd rt s = false) : exec (.linkTrainingDone w (.up wd rt partner)) s = .next (trainingFails w s) :=
  congrArg Host.Outcome.next ((if_neg (by simp [lState, hstate, halive])).trans (if_pos (by simp [hallowed])))

theorem exec_linkLockLoss (hstate : getF (DW.DWSTAT_LSTATE w) s = 2) (halive : dwAlive w s = true) :
    exec (.linkLockLoss w) s = .next (startTraining w (setDw w (fun a => { a with retrain := true }) s)) :=
  congrArg Host.Outcome.next (if_neg (by simp [lState, hstate, halive]))

/-! Flits that leave (R475, R476). -/

theorem exec_flitSend_idle (hlink : isEth w s = false) (hopen : dwOpen w s = true) (halive : dwAlive w s = true)
    (hclass : egressClass w (peep 6 w 1 1 s) = none) :
    exec (.flitSend w) s = .next (emit (.link w (flitBytes 0 0 ((dwAuxOf w s).sent.getD 0 0 % 65536) (credField (dwAuxOf w s))
      ((dwAuxOf w s).sent.flatMap (fun n => leBytes 2 n)))) (peep 6 w 1 1 s)) := by
  refine congrArg Host.Outcome.next ((if_neg (by simp [hlink, hopen, halive])).trans ?_)
  simp only [hclass]

theorem exec_flitSend_data {tc : Nat} {e : Nat × List Byte × Nat} (hlink : isEth w s = false) (hopen : dwOpen w s = true)
    (halive : dwAlive w s = true) (hclass : egressClass w (peep 6 w 1 1 s) = some tc)
    (he : (dwAuxOf w s).egress.find? (fun e => decide (e.1 = tc)) = some e) :
    ∃ t, exec (.flitSend w) s = .next t ∧ (dwAuxOf w t).egress = advanceEgress tc (dwAuxOf w s).egress
      ∧ (dwAuxOf w t).sent = (dwAuxOf w s).sent.set tc ((dwAuxOf w s).sent.getD tc 0 + 1) ∧ t.mem = s.mem := by
  refine ⟨_, congrArg Host.Outcome.next (if_neg (by simp [hlink, hopen, halive])), ?_⟩
  simp only [hclass, he]
  simp [addF]

/-! Flits that arrive (R472, R475 to R477). -/

theorem exec_flitReceive (r : LineIn) (hlink : isEth w s = false) (hopen : dwOpen w s = true) (halive : dwAlive w s = true) :
    exec (.flitReceive w r) s = .next (takeFlit w r.bytes (countFec w 16 r.errors s)) :=
  congrArg Host.Outcome.next (if_neg (by simp [hlink, hopen, halive]))

theorem takeFlit_unsound {f : List Byte} (h : f.length ≠ 640 ∨ crc32c (f.take 636) ≠ leAt f 636 4 ∨ 2 < leAt f 0 1 ∨ 2 < leAt f 1 1) :
    takeFlit w f s = satF (DW.DWDROP_COUNT w) 1 (peep 6 w 2 1 s) :=
  if_pos (by simpa [or_assoc] using h)

/-- A sound flit of a known kind and class passes the checks of R477. -/
theorem takeFlit_sound {f : List Byte} (hlen : f.length = 640) (hcrc : crc32c (f.take 636) = leAt f 636 4) (hkind : leAt f 0 1 ≤ 2)
    (hclass : leAt f 1 1 ≤ 2) : ¬ (decide (f.length ≠ 640) || decide (crc32c (f.take 636) ≠ leAt f 636 4) || decide (2 < leAt f 0 1)
      || decide (2 < leAt f 1 1)) = true := by
  simp [hlen, hcrc, hkind, hclass]

theorem takeFlit_idle {f : List Byte} (hlen : f.length = 640) (hcrc : crc32c (f.take 636) = leAt f 636 4) (hkind : leAt f 0 1 = 0)
    (hclass : leAt f 1 1 ≤ 2) : takeFlit w f s
      = forEach [0, 1, 2] (fun t s => retireGap w t (leAt f (8 + 2 * t) 2) s) (takeCredits w (leAt f 4 4) (peep 6 w 2 1 s)) :=
  (if_neg (takeFlit_sound hlen hcrc (by omega) hclass)).trans (if_pos hkind)

/-- What a sound data flit of kind 1 or 2 adds to its class: it is retired, and its bytes join the packet. -/
theorem takeFlit_data {f : List Byte} {u : State} {p : List Byte} (hlen : f.length = 640) (hcrc : crc32c (f.take 636) = leAt f 636 4)
    (hkind : leAt f 0 1 ≠ 0) (hkind2 : leAt f 0 1 ≤ 2) (hclass : leAt f 1 1 ≤ 2)
    (hu : u = retireGap w (leAt f 1 1) (leAt f 2 2) (takeCredits w (leAt f 4 4) (peep 6 w 2 1 s)))
    (hp : p = (dwAuxOf w u).making.getD (leAt f 1 1) [] ++ byteSlice f 8 628) {t : State}
    (ht : t = setDw w (fun a => { a with
      retired := a.retired.set (leAt f 1 1) (a.retired.getD (leAt f 1 1) 0 + 1)
      next := a.next.set (leAt f 1 1) (a.next.getD (leAt f 1 1) 0 + 1)
      making := a.making.set (leAt f 1 1) (if leAt f 0 1 = 2 then [] else p) }) u) :
    takeFlit w f s = if leAt f 0 1 = 2 then arrive w (p.take (36 + pkLen p)) false t else t := by
  subst ht hp hu
  exact (if_neg (takeFlit_sound hlen hcrc hkind2 hclass)).trans (if_neg hkind)

/-! Frames that arrive (R474, R479). -/

theorem exec_frameReceive (r : LineIn) (heth : isEth w s = true) (hopen : dwOpen w s = true) (halive : dwAlive w s = true) :
    exec (.frameReceive w r) s = .next (takeFrame w r.bytes (countFec w 15 r.errors s)) :=
  congrArg Host.Outcome.next (if_neg (by simp [heth, hopen, halive]))

section
variable {f g : List Byte} (hg : g = f.take (f.length - 4))

theorem takeFrame_unsound (h : f.length < 64 ∨ 9216 < f.length ∨ crc32eth (f.take (f.length - 4)) ≠ leAt f (f.length - 4) 4) :
    takeFrame w f s = s :=
  if_pos h

include hg

/-- A sound frame goes on by its EtherType. -/
theorem takeFrame_control (hmin : 64 ≤ f.length) (hmax : f.length ≤ 9216) (hfcs : crc32eth g = leAt f (f.length - 4) 4)
    (htype : beNat (byteSlice g 12 2) = 0x8808) : takeFrame w f s
      = if beNat (byteSlice g 14 2) = 0x0101 then takePfc w g (peep 6 w 2 1 s) else satF (DW.DWDROP_COUNT w) 1 (peep 6 w 2 1 s) := by
  subst hg
  exact (if_neg (by omega)).trans (if_pos htype)

end

/-- Everything that R479 asks of a frame with a transport packet: `o` is where its IPv6 header begins, `udp` its UDP datagram. -/
def FrameFits (w o : Nat) (g udp : List Byte) (s : State) : Prop :=
  byteSlice g 0 6 = macBytes (getF (DW.DWMAC_MAC w) s) ∧ (beNat (byteSlice g 12 2) = 0x8100 ↔ getF (DW.DWVLAN_VLANEN w) s = 1)
  ∧ beNat (byteSlice g (o - 2) 2) = 0x86DD ∧ byteSlice g (o + 24) 16 = ipBytes w s ∧ beNat (byteSlice g (o + 6) 1) = 17
  ∧ beNat (byteSlice udp 2 2) = getF (DW.DWETH_PORT w) s ∧ 8 ≤ udp.length ∧ beNat (byteSlice udp 6 2) ≠ 0
  ∧ beNat (byteSlice udp 6 2) = udpChecksum (byteSlice g (o + 8) 16) (ipBytes w s) (udp.take 6 ++ [0#8, 0#8] ++ udp.drop 8)

/-- The checks as the model runs them. -/
def frameRejected (w o : Nat) (g udp : List Byte) (s : State) : Bool :=
  decide (byteSlice g 0 6 ≠ macBytes (getF (DW.DWMAC_MAC w) s)) || decide (beNat (byteSlice g 12 2) = 0x8100) != flag (DW.DWVLAN_VLANEN w) s
    || decide (beNat (byteSlice g (o - 2) 2) ≠ 0x86DD) || decide (byteSlice g (o + 24) 16 ≠ ipBytes w s)
    || decide (beNat (byteSlice g (o + 6) 1) ≠ 17) || decide (beNat (byteSlice udp 2 2) ≠ getF (DW.DWETH_PORT w) s) || decide (udp.length < 8)
    || decide (beNat (byteSlice udp 6 2) = 0)
    || decide (beNat (byteSlice udp 6 2) ≠ udpChecksum (byteSlice g (o + 8) 16) (byteSlice g (o + 24) 16)
      (udp.take 6 ++ [0#8, 0#8] ++ udp.drop 8))

theorem frameRejected_eq_false_iff (o : Nat) (g udp : List Byte) : frameRejected w o g udp s = false ↔ FrameFits w o g udp s := by
  simp only [frameRejected, FrameFits, Bool.or_eq_false_iff, decide_eq_false_iff_not, not_not, not_lt, ne_eq, bne_eq_false_iff_eq, flag,
    decide_eq_decide, and_assoc]
  refine and_congr_right fun _ => and_congr_right fun _ => and_congr_right fun _ => and_congr_right fun hdst => ?_
  rw [hdst]

/-- Where the IPv6 header of a frame begins, and the UDP datagram in it (R478). -/
def ipOffset (g : List Byte) : Nat := if decide (beNat (byteSlice g 12 2) = 0x8100) then 18 else 14
def udpAt (o : Nat) (g : List Byte) : List Byte := byteSlice g (o + 40) (beNat (byteSlice g (o + 44) 2))

theorem takeFrame_eq (f : List Byte) : takeFrame w f s =
    if f.length < 64 ∨ 9216 < f.length ∨ crc32eth (f.take (f.length - 4)) ≠ leAt f (f.length - 4) 4 then s
    else if beNat (byteSlice (f.take (f.length - 4)) 12 2) = 0x8808 then
      (if beNat (byteSlice (f.take (f.length - 4)) 14 2) = 0x0101 then takePfc w (f.take (f.length - 4)) (peep 6 w 2 1 s)
       else satF (DW.DWDROP_COUNT w) 1 (peep 6 w 2 1 s))
    else if frameRejected w (ipOffset (f.take (f.length - 4))) (f.take (f.length - 4))
        (udpAt (ipOffset (f.take (f.length - 4))) (f.take (f.length - 4))) (peep 6 w 2 1 s) then satF (DW.DWDROP_COUNT w) 1 (peep 6 w 2 1 s)
    else arrive w ((udpAt (ipOffset (f.take (f.length - 4))) (f.take (f.length - 4))).drop 8)
      (decide (beNat (byteSlice (f.take (f.length - 4)) (ipOffset (f.take (f.length - 4))) 2) / 16 % 4 = 3))
      (if decide (beNat (byteSlice (f.take (f.length - 4)) (ipOffset (f.take (f.length - 4))) 2) / 16 % 4 = 3)
       then satF (DW.DWCE_COUNT w) 1 (peep 6 w 2 1 s) else peep 6 w 2 1 s) := rfl

/-- A sound frame with a transport packet arrives when it fits the doorway, and is dropped otherwise. -/
theorem takeFrame_data {f g udp : List Byte} {o : Nat} {ce : Bool} {u : State} (hu : u = peep 6 w 2 1 s) (hg : g = f.take (f.length - 4))
    (hmin : 64 ≤ f.length) (hmax : f.length ≤ 9216) (hfcs : crc32eth g = leAt f (f.length - 4) 4) (htype : beNat (byteSlice g 12 2) ≠ 0x8808)
    (ho : o = if getF (DW.DWVLAN_VLANEN w) u = 1 then 18 else 14) (hudp : udp = byteSlice g (o + 40) (beNat (byteSlice g (o + 44) 2)))
    (hce : ce = decide (beNat (byteSlice g o 2) / 16 % 4 = 3)) :
    (FrameFits w o g udp u → takeFrame w f s = arrive w (udp.drop 8) ce (if ce then satF (DW.DWCE_COUNT w) 1 u else u))
    ∧ (¬ FrameFits w o g udp u → takeFrame w f s = satF (DW.DWDROP_COUNT w) 1 u) := by
  rw [takeFrame_eq, ← hg, ← hu, if_neg (by omega), if_neg htype]
  by_cases htag : beNat (byteSlice g 12 2) = 0x8100 ↔ getF (DW.DWVLAN_VLANEN w) u = 1
  case pos =>
    have hoffset : ipOffset g = o := by simp only [ho, ipOffset, decide_eq_true_eq, htag]
    have hdatagram : udpAt (ipOffset g) g = udp := by rw [hoffset, hudp, udpAt]
    rw [hdatagram, hoffset, ← hce]
    exact ⟨fun hfits => if_neg (by simp [(frameRejected_eq_false_iff o g udp).2 hfits]),
      fun hfails => if_pos (by simpa [← frameRejected_eq_false_iff] using hfails)⟩
  case neg =>
    refine ⟨fun hfits => absurd hfits.2.1 htag, fun _ => if_pos ?_⟩
    exact Bool.eq_true_of_not_eq_false fun h => htag ((frameRejected_eq_false_iff _ _ _).1 h).2.1

theorem exec_priorityFlowControlPauseEnd (prio : Fin 8) (heth : isEth w s = true) (halive : dwAlive w s = true)
    (hpaused : prio.val ∈ (dwAuxOf w s).paused) : exec (.priorityFlowControlPauseEnd w prio) s = .next (drainFrames w
      (setDw w (fun a => { a with paused := a.paused.filter (fun p => decide (p ≠ prio.val)) }) s)) :=
  congrArg Host.Outcome.next (if_pos (by simp [heth, halive, hpaused]))

end

/-- Settles O45, command by command: each reaches the operation behind its checks. -/
theorem linksFlitsAndFrames : Obligations.LinksFlitsAndFrames := by
  refine ⟨fun w s => ⟨?minw, ?reserved, ?mode, ?training, exec_linkLockLoss, ?send⟩, fun w s hopen halive => ⟨?flit, ?frame⟩⟩
  case minw =>
    intro v hserved hminw hmode
    rw [exec_dwctlWrite v hserved, writeDwctl_allowed hmode, if_neg hminw]
  case reserved =>
    intro v hserved hminw hmode
    rw [exec_dwctlWrite v hserved, writeDwctl_allowed hmode, if_pos hminw]
  case mode =>
    intro v hserved hmode hshut
    rw [exec_dwctlWrite v hserved, writeDwctl_refused hmode hshut]
  case training =>
    intro hstate halive
    exact ⟨exec_linkTrainingDone_failed hstate halive, fun wd rt p => exec_linkTrainingDone_below p hstate halive,
      fun wd rt t hallowed ht => ⟨exec_linkTrainingDone_up none hstate halive hallowed ht,
        fun n => exec_linkTrainingDone_up (some n) hstate halive hallowed ht⟩⟩
  case send =>
    intro hlink hopen halive
    exact ⟨exec_flitSend_idle hlink hopen halive, fun tc e => exec_flitSend_data hlink hopen halive⟩
  case flit =>
    intro hlink
    have hreceive := fun r => exec_flitReceive (w := w) (s := s) r hlink hopen halive
    refine ⟨fun f es hes => ⟨_, hreceive ⟨f, es⟩, ?_⟩, ?_, ?_, ?_⟩
    · exact Prod.ext_iff.1 ((fecCounts_takeFlit w.isLt f).trans (fecCounts_countFec 16 hes))
    · exact fun f hbad => (hreceive ⟨f, []⟩).trans (congrArg _ (takeFlit_unsound hbad))
    · exact fun f hlen hcrc hkind hclass => (hreceive ⟨f, []⟩).trans (congrArg _ (takeFlit_idle hlen hcrc hkind hclass))
    · intro f u p hlen hcrc hclass hu hp
      refine ⟨fun hkind => (hreceive ⟨f, []⟩).trans (congrArg _ ?_), fun hkind => (hreceive ⟨f, []⟩).trans (congrArg _ ?_)⟩
      · exact (takeFlit_data hlen hcrc (by omega) (by omega) hclass hu hp rfl).trans (by simp [hkind])
      · exact (takeFlit_data hlen hcrc (by omega) (by omega) hclass hu hp rfl).trans (by simp [hkind])
  case frame =>
    intro heth
    have hreceive := fun r => exec_frameReceive (w := w) (s := s) r heth hopen halive
    refine ⟨fun f es hes => ⟨_, hreceive ⟨f, es⟩, ?_⟩, ?_, ?_, ?_, ?_, fun prio => exec_priorityFlowControlPauseEnd prio heth halive⟩
    · exact Prod.ext_iff.1 ((fecCounts_takeFrame w.isLt f).trans (fecCounts_countFec 15 hes))
    · exact fun f hbad => (hreceive ⟨f, []⟩).trans (congrArg _ (takeFrame_unsound hbad))
    · exact fun f hmin hmax hfcs htype hop => (hreceive ⟨f, []⟩).trans (congrArg _ ((takeFrame_control rfl hmin hmax hfcs htype).trans (if_pos hop)))
    · exact fun f hmin hmax hfcs htype hop => (hreceive ⟨f, []⟩).trans (congrArg _ ((takeFrame_control rfl hmin hmax hfcs htype).trans (if_neg hop)))
    · intro f g o udp ce u hu hg hmin hmax hfcs htype ho hudp hce
      obtain ⟨hfits, hfails⟩ := takeFrame_data hu hg hmin hmax hfcs htype ho hudp hce
      refine ⟨fun h1 h2 h3 h4 h5 h6 h7 h8 h9 => (hreceive ⟨f, []⟩).trans (congrArg _ (hfits ⟨h1, h2, h3, h4, h5, h6, h7, h8, h9⟩)), fun hbad => ?_⟩
      refine (hreceive ⟨f, []⟩).trans (congrArg _ (hfails ?_))
      simp only [FrameFits]
      grind

end Sys2Proof.Machine
namespace Sys2Proof.Machine

/-! PROOFS. The transport of packets (R480 to R484, R393, R396): what each command does once its packet or its time has come. -/

/-- What a step has failed is seen from the state that it leads to. -/
theorem withFailures_of_eq {f : State → State} {s t : State} (h : f s = t) : withFailures f s = withFailures (fun _ => t) s := by
  simp only [withFailures, h]

section
variable {w : DoorwayNo} {c : Conn} {s u v : State} {pkt : List Byte} {ce : Bool} {peer : Nat}

/-! Sending (R481, R484). -/

theorem exec_dataSend {r : SendRec} {rest : List SendRec} (halive : dwAlive w s = true) (hfailed : c.failed = false)
    (hconn : connOf w peer s = some c) (hopen : dwOpen w s = true) (hqueue : c.queue = r :: rest)
    (hv : v = setConn w peer (fun c => { c with
      queue := rest, nextPsn := (c.nextPsn + 1) % 2 ^ 32, unacked := c.unacked ++ [⟨c.nextPsn, r, 1, licOf (dwRegion w) s⟩] }) s)
    (hroom : c.unacked.length < windowLimit c s) :
    exec (.dataSend w peer) s = .next (sendPacket w r.tc (dataPacket c c.nextPsn false r v) v) := by
  subst hv
  show execDataSend w peer s = _
  simp [execDataSend, hconn, hfailed, hopen, halive, hqueue, hroom]

theorem exec_dataSend_full (hconn : connOf w peer s = some c) (hfull : windowLimit c s ≤ c.unacked.length) :
    exec (.dataSend w peer) s = .next s := by
  show execDataSend w peer s = _
  simp [execDataSend, hconn, hfull]

/-! DATA packets (R481): how far ahead a packet is decides. -/

/-- How far a packet is ahead of the next expected one. -/
def psnAhead (c : Conn) (pkt : List Byte) : Nat := (pkPsn pkt + 2 ^ 32 - c.expect) % 2 ^ 32

theorem psnAhead_eq_zero (hexpect : pkPsn pkt = c.expect) : psnAhead c pkt = 0 := by
  unfold psnAhead
  omega

/-- What PACKET_DATA does with a packet on a connection that stands. -/
theorem exec_packetData (hfailed : c.failed = false) (htaken : takeArrived w 0 pkt ce s = some u) (hconn : connOf w (pkSrc pkt) u = some c)
    (hv : v = if ce then setConn w (pkSrc pkt) (fun c => { c with ce := true }) u else u) : exec (.packetData w pkt ce) s = .next
      (if 2 ^ 31 ≤ psnAhead c pkt ∨ c.window.any (fun p => decide (p.1 = pkPsn pkt)) = true then sendAck w (pkSrc pkt) v
       else if 255 < psnAhead c pkt then v
       else if psnAhead c pkt = 0 then
        drainWindow w (pkSrc pkt) 257 (setConn w (pkSrc pkt) (fun c => { c with window := c.window ++ [(pkPsn pkt, pkt)] }) v)
       else sendAck w (pkSrc pkt) (setConn w (pkSrc pkt) (fun c => { c with window := c.window ++ [(pkPsn pkt, pkt)] }) v)) := by
  subst hv
  show execPacketData w pkt ce s = _
  simp only [execPacketData, htaken, hconn, hfailed, psnAhead, if_neg Bool.false_ne_true]
  congr

/-- A packet that the window does not hold yet. -/
theorem exec_packetData_new (hfailed : c.failed = false) (htaken : takeArrived w 0 pkt ce s = some u) (hconn : connOf w (pkSrc pkt) u = some c)
    (hv : v = if ce then setConn w (pkSrc pkt) (fun c => { c with ce := true }) u else u) (hnew : ∀ p ∈ c.window, p.1 ≠ pkPsn pkt) :
    exec (.packetData w pkt ce) s = .next
      (if 2 ^ 31 ≤ psnAhead c pkt then sendAck w (pkSrc pkt) v
       else if 255 < psnAhead c pkt then v
       else if psnAhead c pkt = 0 then
        drainWindow w (pkSrc pkt) 257 (setConn w (pkSrc pkt) (fun c => { c with window := c.window ++ [(pkPsn pkt, pkt)] }) v)
       else sendAck w (pkSrc pkt) (setConn w (pkSrc pkt) (fun c => { c with window := c.window ++ [(pkPsn pkt, pkt)] }) v)) := by
  have hany : ¬ c.window.any (fun p => decide (p.1 = pkPsn pkt)) = true := by
    simpa only [List.any_eq_true, decide_eq_true_eq, not_exists, not_and] using hnew
  rw [exec_packetData hfailed htaken hconn hv]
  simp only [hany, or_false, Bool.false_eq_true]

/-! ACK and NACK (R482, R484, R396). -/

/-- The packets of an ACK that its map shows as missing. -/
theorem exec_packetAck {gone left : List TxPkt} {dist : TxPkt → Nat} {missing : TxPkt → Bool} (hfailed : c.failed = false)
    (htaken : takeArrived w 1 pkt ce s = some u) (hconn : connOf w (pkSrc pkt) u = some c)
    (hgone : gone = c.unacked.filter (fun p => psnBefore p.psn (pkAux pkt)))
    (hleft : left = c.unacked.filter (fun p => !psnBefore p.psn (pkAux pkt)))
    (hdist : ∀ p, dist p = (p.psn + 2 ^ 32 - pkAux pkt) % 2 ^ 32)
    (hmissing : ∀ p, missing p = true ↔ dist p < 256 ∧ leNat (pkPayload pkt) / 2 ^ dist p ≠ 0
      ∧ (dist p = 0 ∨ bitOf (leNat (pkPayload pkt)) (dist p - 1) = false)) :
    exec (.packetAck w pkt ce) s = .next (withFailures (fun _ => forEach (left.filter missing) (fun p s => resend w (pkSrc pkt) p.psn s)
      (ackPackets gone (setConn w (pkSrc pkt) (fun d => adjustCwnd (pkEce pkt) gone.length { d with unacked := left }) u))) s) := by
  refine congrArg Host.Outcome.next (withFailures_of_eq ?_)
  simp only [packetAck, htaken, hconn, hfailed, if_neg Bool.false_ne_true]
  subst hgone hleft
  refine congrArg (fun l => forEach l (fun (p : TxPkt) s => resend w (pkSrc pkt) p.psn s) _) (List.filter_congr fun p _ => ?_)
  rw [Bool.eq_iff_iff, hmissing p, hdist p]
  simp only [Bool.and_eq_true, Bool.not_eq_true', Bool.and_eq_false_iff, decide_eq_true_eq, decide_eq_false_iff_not]
  grind

/-- What PACKET_NACK does for a packet that is still held. -/
theorem packetNack_eq {p : TxPkt} (hfailed : c.failed = false) (htaken : takeArrived w 2 pkt ce s = some u)
    (hconn : connOf w (pkSrc pkt) u = some c) (hv : v = peep 6 w 4 1 u) (hp : c.unacked.find? (fun p => decide (p.psn = pkAux pkt)) = some p) :
    packetNack w pkt ce s =
      if pkReason pkt = nackNotready then setConn w (pkSrc pkt) (fun c => { c with
        unacked := updateWhere (fun x => decide (x.psn = pkAux pkt))
          (fun x => { x with sent := x.sent - 1, stamp := licOf (dwRegion w) v }) c.unacked }) v
      else if pkReason pkt = nackGenmiss then
        match (p.body.coded.map (fun k => k.1)).bind (fun x => liveTable x (pkGen pkt) v) with
        | some t => resend w (pkSrc pkt) (pkAux pkt) (sendPacket w 0 (packetBytes 3 0 (ownNode v) (pkSrc pkt) (epochOf v) 0 p.body.tag
            p.body.bidx 0 p.body.op p.body.fmt 0 t.gen (tableMessage t)) v)
        | none =>
          match collOf p.body.tag (linkRecord 0 w [w.val, pkSrc pkt, pkGen pkt] v) with
          | some j => if j.commit then linkRecord 0 w [w.val, pkSrc pkt, pkGen pkt] v
              else failColl stCompGenMissing j (linkRecord 0 w [w.val, pkSrc pkt, pkGen pkt] v)
          | none => linkRecord 0 w [w.val, pkSrc pkt, pkGen pkt] v
      else if pkReason pkt = nackMissing ∨ pkReason pkt = nackCorrupt then resend w (pkSrc pkt) (pkAux pkt) v
      else v := by
  subst hv
  simp only [packetNack, htaken, hconn, hp, hfailed]
  cases p.body.coded <;> rfl

theorem exec_packetNack {t : State} (h : packetNack w pkt ce s = t) : exec (.packetNack w pkt ce) s = .next (withFailures (fun _ => t) s) :=
  congrArg Host.Outcome.next (withFailures_of_eq h)

/-! TABLE packets and the timers. -/

theorem exec_packetTable {j : CollJob} {t : Option CompTable} {x : Nat} (htaken : takeArrived w 3 pkt ce s = some u)
    (hcoll : collOf (pkTag pkt) u = some j) (hctx : recvCtx j w (pkSrc pkt) = some x) (hread : readTable (pkPayload pkt) = t) :
    exec (.packetTable w pkt ce) s = .next (match t with
      | some t => installTable x t (countTable w (pkPayload pkt).length u)
      | none => u) := by
  show execPacketTable w pkt ce s = _
  simp only [execPacketTable, htaken, hcoll, hctx, hread]
  cases t <;> rfl

theorem exec_ackTimer {t : Nat} (halive : dwAlive w s = true) (hfailed : c.failed = false) (hconn : connOf w peer s = some c)
    (hstamp : c.rxStamp = some t) :
    exec (.ackTimer w peer) s = .next (if rtoOf w s ≤ 4 * licSince (dwRegion w) t s then sendAck w peer s else s) := by
  show execAckTimer w peer s = _
  simp [execAckTimer, hconn, hstamp, hfailed, halive]

theorem rtoExpiry_eq {p : TxPkt} {l : List TxPkt} (halive : dwAlive w s = true) (hfailed : c.failed = false) (hconn : connOf w peer s = some c)
    (hunacked : c.unacked = p :: l) : rtoExpiry w peer s = if rtoOf w s ≤ licSince (dwRegion w) p.stamp s then resend w peer p.psn s else s := by
  simp [rtoExpiry, hconn, hunacked, hfailed, halive]

theorem exec_notreadyTimer {t : Nat} (halive : dwAlive w s = true) (hfailed : c.failed = false) (hconn : connOf w peer s = some c)
    (hnotready : c.notready = some t) : exec (.notreadyTimer w peer) s = .next (if licSince (dwRegion w) t s < rtoOf w s then s
      else drainWindow w peer 257 (setConn w peer (fun c => { c with notready := none }) s)) := by
  show execNotreadyTimer w peer s = _
  simp [execNotreadyTimer, hconn, hnotready, hfailed, halive]

end

/-- Settles O47, command by command. -/
theorem transportDelivers : Obligations.TransportDelivers := by
  intro w c s u halive hfailed
  refine ⟨?send, ?data, ?ack, ?nack, ?table, ?ackTimer, ?rto, ?notready⟩
  case send =>
    intro peer r rest v hconn hopen hqueue hv
    exact ⟨exec_dataSend halive hfailed hconn hopen hqueue hv, exec_dataSend_full hconn⟩
  case data =>
    intro pkt ce v htaken hconn hv
    have hexec := exec_packetData_new hfailed htaken hconn hv
    refine ⟨fun hexpect _ hnew => ?next, fun hlow hhigh hnew => ?ahead, fun hold => ?again, fun hlow hhigh hnew => ?far⟩
    case next =>
      have hzero := psnAhead_eq_zero hexpect
      rw [hexec hnew, if_neg (by omega), if_neg (by omega), if_pos hzero]
    case ahead =>
      rw [← psnAhead] at hlow hhigh
      rw [hexec hnew, if_neg (by omega), if_neg (by omega), if_neg (by omega)]
    case again =>
      rw [← psnAhead] at hold
      rw [exec_packetData hfailed htaken hconn hv,
        if_pos (hold.symm.imp id fun ⟨p, hp, hpsn⟩ => List.any_eq_true.2 ⟨p, hp, decide_eq_true hpsn⟩)]
    case far =>
      rw [← psnAhead] at hlow hhigh
      rw [hexec hnew, if_neg (by omega), if_pos hlow]
  case ack =>
    intro pkt ce gone left dist missing htaken hconn hgone hleft hdist hmissing
    exact exec_packetAck hfailed htaken hconn hgone hleft hdist hmissing
  case nack =>
    intro pkt ce p v htaken hconn hv hp
    have hnack := packetNack_eq hfailed htaken hconn hv hp
    refine ⟨fun hreason => exec_packetNack (hnack.trans ?_), fun hreason => exec_packetNack (hnack.trans (if_pos hreason)), ?_⟩
    · rw [if_neg (by rw [nackNotready]; omega), if_neg (by rw [nackGenmiss]; omega)]
      exact if_pos hreason
    · intro x g q hreason hcoded
      have hgenmiss : pkReason pkt = nackGenmiss := hreason
      rw [if_neg (by rw [nackNotready]; omega), if_pos hgenmiss, hcoded] at hnack
      refine ⟨fun t htable => exec_packetNack (hnack.trans ?_), fun j htable hcommit hcoll => exec_packetNack (hnack.trans ?_)⟩
      · simp only [Option.map_some, Option.bind_some, htable]
      · simp [htable, hcoll, hcommit]
  case table =>
    intro pkt ce j t x htaken hcoll hctx
    exact ⟨exec_packetTable htaken hcoll hctx, exec_packetTable htaken hcoll hctx⟩
  case ackTimer =>
    intro peer t hconn hstamp
    have hexec := exec_ackTimer halive hfailed hconn hstamp
    exact ⟨fun hpassed => by rw [hexec, if_pos hpassed], fun hbefore => by rw [hexec, if_neg (by omega)]⟩
  case rto =>
    intro peer p l hconn hunacked
    have hexpiry := rtoExpiry_eq halive hfailed hconn hunacked
    exact ⟨fun hpassed => congrArg Host.Outcome.next (withFailures_of_eq (hexpiry.trans (if_pos hpassed))),
      fun hbefore => congrArg Host.Outcome.next (withFailures_of_eq (hexpiry.trans (if_neg (by omega))))⟩
  case notready =>
    intro peer t hconn hnotready
    have hexec := exec_notreadyTimer halive hfailed hconn hnotready
    exact ⟨fun hpassed => by rw [hexec, if_neg (by omega)], fun hbefore => by rw [hexec, if_pos hbefore]⟩

end Sys2Proof.Machine
namespace Sys2Proof.Machine

/-! PROOFS. The host commands of membership (R489 to R491, R515, R687). -/

section
variable {s : State}

/-- A device outside a membership may enter one unless it is RETIRED (R687). -/
theorem mayEnter_eq_true (hstate : getF ND.NDSELF_STATE s = 0) (hlc : lcState s ≠ 3) : mayEnter s = true := by
  simp [mayEnter, ndState, ndNone, hstate, hlc]

theorem mayEnter_eq_false (h : getF ND.NDSELF_STATE s ≠ 0 ∨ lcState s = 3) : mayEnter s = false := by
  refine Bool.and_eq_false_iff.2 (h.imp decide_eq_false fun hlc => ?_)
  simp [hlc]

theorem isCoord_eq_true (h : getF ND.NDSELF_COORD s = 1) : isCoord s = true := flag_eq_true h

theorem isCoord_eq_false (h : getF ND.NDSELF_COORD s = 0) : isCoord s = false := flag_eq_false h

theorem exec_ndctlForm (h : Served .late s) : exec .ndctlForm s = .next (if !mayEnter s then cmdErr s
    else openConns [ownMember s] (showEpoch 1 [ownMember s] (setNd (fun n => { n with members := [ownMember s], change := none }) s))) :=
  congrArg Host.Outcome.next (hostWrite_of_served _ h)

theorem exec_ndctlJoin_refused (h : Served .late s) (hrefused : mayEnter s = false) : exec .ndctlJoin s = .next (cmdErr s) :=
  congrArg Host.Outcome.next ((hostWrite_of_served _ h).trans (if_pos (by simp [hrefused])))

theorem exec_ndctlJoin {nj : List Byte} {u v : State} (h : Served .late s) (hmay : mayEnter s = true) (hdraw : drawRandom 32 s = (nj, u))
    (hv : v = setNdState 1 (setNd (fun n => { n with nonce := nj, contact := getF ND.NDARG_NODE s, host := none }) u)) :
    exec .ndctlJoin s = .next (sendMember (getF ND.NDARG_NODE s) (.hello (ownMember v) Config.certChain nj) v) := by
  subst hv
  refine congrArg Host.Outcome.next ((hostWrite_of_served _ h).trans ((if_neg (by simp [hmay])).trans ?_))
  rw [hdraw]
  rfl

theorem exec_ndselfWrite (n : Nat) (h : Served .late s) : exec (.ndselfWrite n) s
    = .next (if getF ND.NDSELF_STATE s ≠ 0 then regAccessError ND.NDSELF_NODE.addr s else setF ND.NDSELF_NODE n s) :=
  congrArg Host.Outcome.next (hostWrite_of_served _ h)

theorem exec_ndctlLeave (h : Served .late s) : exec .ndctlLeave s = .next (if getF ND.NDSELF_STATE s ≠ 2 then cmdErr s
    else if !isCoord s then sendMember (getF ND.NDCOORD_NODE s) (.handover (ownNode s) (epochOf s)) (setNdState 4 s)
    else match dropMember (ownNode s) s.nd.members with
      | [] => adoptEpoch 0 [] (endColls s)
      | m :: _ => sendMember m.node (.handover (ownNode s) (epochOf s))
          (refuseAll (setNdState 4 (setNd (fun n => { n with requests := [] }) s)))) :=
  congrArg Host.Outcome.next ((hostWrite_of_served _ h).trans rfl)

/-- APPROVE and DENY answer the joiner that NDREQ shows. -/
theorem exec_ndctlApprove {j : Joiner} {u : State} (h : Served .late s) (hpending : joinPending s = true) (htake : takeJoiner s = (some j, u)) :
    exec .ndctlApprove s = .next (proceed (setNd (fun n => { n with
      joiners := n.joiners.filter (fun x => decide (x.who.node ≠ j.who.node))
      requests := n.requests ++ [⟨j.who.node, some j.who, false⟩] }) u)) := by
  refine congrArg Host.Outcome.next ((hostWrite_of_served _ h).trans ((if_neg (by simp [hpending])).trans ?_))
  rw [htake]

theorem exec_ndctlDeny {j : Joiner} {u : State} (h : Served .late s) (hpending : joinPending s = true) (htake : takeJoiner s = (some j, u)) :
    exec .ndctlDeny s = .next (proceed (refuse j.who.node u)) := by
  refine congrArg Host.Outcome.next ((hostWrite_of_served _ h).trans ((if_neg (by simp [hpending])).trans ?_))
  rw [htake]

theorem exec_ndctlApprove_none (h : Served .late s) (hpending : joinPending s = false) : exec .ndctlApprove s = .next (cmdErr s) :=
  congrArg Host.Outcome.next ((hostWrite_of_served _ h).trans (if_pos (by simp [hpending])))

theorem exec_ndctlDeny_none (h : Served .late s) (hpending : joinPending s = false) : exec .ndctlDeny s = .next (cmdErr s) :=
  congrArg Host.Outcome.next ((hostWrite_of_served _ h).trans (if_pos (by simp [hpending])))

theorem exec_ndctlEvict {n : Nat} (h : Served .late s) (hn : getF ND.NDARG_NODE s = n) : exec .ndctlEvict s = .next
    (if !isCoord s || decide (n = ownNode s) || (memberAt n s.nd.members).isNone then cmdErr s
     else proceed (setNd (fun a => { a with requests := a.requests ++ [⟨n, none, false⟩] }) s)) := by
  subst hn
  exact congrArg Host.Outcome.next (hostWrite_of_served _ h)

end

/-- Settles O48, command by command. -/
theorem membershipCommands : Obligations.MembershipCommands := by
  intro s h
  refine ⟨fun hstate hlc => ⟨?form, fun nj u hdraw => ?join⟩, fun hclosed => ⟨?formRefused, ?joinRefused⟩, fun n => ⟨fun hout => ?node,
      fun hin => ?kept⟩,
    fun hstate => ?leaveRefused, fun hstate => ⟨fun hcoord => ?ask, fun hcoord halone => ?last, fun hcoord m l hrest => ?handover⟩,
    fun hpending => ⟨exec_ndctlApprove_none h hpending, exec_ndctlDeny_none h hpending⟩,
    fun j u hpending htake => ⟨exec_ndctlApprove h hpending htake, exec_ndctlDeny h hpending htake⟩,
    fun n hn => ⟨fun m hcoord hother hmember => ?evict, fun hrefused => ?evictRefused⟩⟩
  case form => rw [exec_ndctlForm h, if_neg (by simp [mayEnter_eq_true hstate hlc])]
  case join => exact exec_ndctlJoin h (mayEnter_eq_true hstate hlc) hdraw rfl
  case formRefused =>
    rw [exec_ndctlForm h, if_pos (by simp [mayEnter_eq_false hclosed])]
    rfl
  case joinRefused => exact exec_ndctlJoin_refused h (mayEnter_eq_false hclosed)
  case node => rw [exec_ndselfWrite n h, if_neg (by simp [hout])]
  case kept => rw [exec_ndselfWrite n h, if_pos hin]
  case leaveRefused =>
    rw [exec_ndctlLeave h, if_pos hstate]
    rfl
  case ask => rw [exec_ndctlLeave h, if_neg (by simp [hstate]), if_pos (by simp [isCoord_eq_false hcoord])]
  case last => rw [exec_ndctlLeave h, if_neg (by simp [hstate]), if_neg (by simp [isCoord_eq_true hcoord]), halone]
  case handover => rw [exec_ndctlLeave h, if_neg (by simp [hstate]), if_neg (by simp [isCoord_eq_true hcoord]), hrest]
  case evict => rw [exec_ndctlEvict h hn, if_neg (by simp [isCoord_eq_true hcoord, hother, hmember])]
  case evictRefused =>
    rw [exec_ndctlEvict h hn, if_pos ?_]
    · rfl
    · obtain hcoord | hself | hnone := hrefused
      · simp [isCoord_eq_false hcoord]
      · simp [hself]
      · simp [hnone]

end Sys2Proof.Machine
namespace Sys2Proof.Machine

/-! PROOFS. The MEMBER packets (R490, R491): an equation per packet for the case that each clause names. -/

section
variable {p : MemberPacket} {s u : State}

/-! HELLO (R491 step 2). -/

section
variable {j : Member} {cert nonce : List Byte}

theorem exec_hello_forwarded (halive : ndAlive s = true) (hbody : p.body = .hello j cert nonce) (hmember : getF ND.NDSELF_MEMBER s = 1)
    (hcoord : getF ND.NDSELF_COORD s = 0) : exec (.hello p) s = .next (postMember (getF ND.NDCOORD_NODE s) p s) := by
  show execHello p s = _
  simp [execHello, hbody, halive, flag_eq_true hmember, isCoord_eq_false hcoord]

theorem exec_hello (halive : ndAlive s = true) (hbody : p.body = .hello j cert nonce) (hmember : getF ND.NDSELF_MEMBER s = 1)
    (hcoord : getF ND.NDSELF_COORD s = 1) : exec (.hello p) s = .next (helloHere p j cert nonce s) := by
  show execHello p s = _
  simp [execHello, hbody, halive, flag_eq_true hmember, isCoord_eq_true hcoord]

theorem helloHere_refused (h : signedBy j.key p = false ∨ p.sender ≠ j.node ∨ Config.certCheck cert j.key = false) :
    helloHere p j cert nonce s = refuse j.node s :=
  if_pos (by simpa [or_assoc] using h)

theorem helloHere_answered {nc : List Byte} (hsigned : signedBy j.key p = true) (hsender : p.sender = j.node)
    (hcert : Config.certCheck cert j.key = true) (hdraw : drawRandom 32 s = (nc, u)) :
    helloHere p j cert nonce s = sendMember j.node (.challenge j.node (ownNode u) ownKey Config.certChain nc
      (Config.ed25519Sign identitySeed (Config.nonceMessage nonce j.node (ownNode u)))) (setNd (fun n => { n with
        joiners := n.joiners.filter (fun x => decide (x.who.node ≠ j.node)) ++ [⟨j, cert, nonce, nc, false⟩] }) u) := by
  refine (if_neg (by simp [hsigned, hsender, hcert])).trans ?_
  rw [hdraw]

end

/-! CHALLENGE and PROOF (R491 steps 2 to 4). -/

section
variable {j c : Nat} {key cert nonce sig : List Byte}

theorem exec_challenge (halive : ndAlive s = true) (hbody : p.body = .challenge j c key cert nonce sig) (hstate : getF ND.NDSELF_STATE s = 1)
    (hj : j = ownNode s) : exec (.challenge p) s = .next
      (if !signedBy key p || decide (p.sender ≠ c) || !Config.certCheck cert key
         || !Config.ed25519Verify key (Config.nonceMessage s.nd.nonce j c) sig then joinRefused s
       else sendMember c (.proof j (Config.ed25519Sign identitySeed (Config.nonceMessage nonce c j)))
         (setNd (fun n => { n with host := some (c, key) }) s)) := by
  show execChallenge p s = _
  simp [execChallenge, hbody, halive, ndState, ndJoining, hstate, hj]

theorem exec_proof {x : Joiner} (halive : ndAlive s = true) (hbody : p.body = .proof j sig) (hcoord : getF ND.NDSELF_COORD s = 1)
    (hx : s.nd.joiners.find? (fun x => decide (x.who.node = j)) = some x) : exec (.proof p) s = .next
      (if !signedBy x.who.key p || decide (p.sender ≠ j) || !Config.ed25519Verify x.who.key (Config.nonceMessage x.ours (ownNode s) j) sig
         || (memberAt j s.nd.members).isSome then refuse j s
       else showJoiner (setNd (fun n => { n with
         joiners := updateWhere (fun y => decide (y.who.node = j)) (fun y => { y with proven := true }) n.joiners }) s)) := by
  show execProof p s = _
  simp [execProof, hbody, halive, isCoord_eq_true hcoord, hx]

end

/-! PREPARE, READY and COMMIT (R490, R491 steps 6 and 7). -/

section
variable {epoch c : Nat} {ms : List Member}

theorem exec_prepare (halive : ndAlive s = true) (hbody : p.body = .prepare epoch c ms) (hstate : getF ND.NDSELF_STATE s ≠ 0)
    (hsender : p.sender = c) (hother : c ≠ ownNode s) (hfrom : fromMember p s = true) : exec (.prepare p) s = .next
      (if s.nd.members ≠ [] ∧ epoch ≠ nextEpoch s then s
       else (fun u => sendMember c (.ready (ownMember u) epoch) u) (endColls (setNdState 3 (setNd (fun n => { n with change := some ⟨epoch, c, ms,
          if (memberAt (ownNode s) ms).isSome then [] else [ownMember s], []⟩ }) s)))) := by
  show execPrepare p s = _
  simp [execPrepare, hbody, halive, ndState, ndNone, ndChanging, hstate, hsender, hother, hfrom]

theorem exec_ready {m x : Member} {ch : Change} (halive : ndAlive s = true) (hbody : p.body = .ready m epoch) (hchange : s.nd.change = some ch)
    (hx : (ch.members ++ ch.old).find? (fun x => decide (x.node = p.sender)) = some x) (hcoord : ch.coordinator = ownNode s)
    (hepoch : epoch = ch.epoch) (hnode : m.node = p.sender) (hkey : m.key = x.key) (hsigned : signedBy x.key p = true) :
    exec (.ready p) s = .next (proceed (finishChange (setNd (fun n => { n with
      change := some { ch with
        members := if (memberAt m.node ch.members).isSome then putMember m ch.members else ch.members
        ready := m.node :: ch.ready } }) s))) := by
  show execReady p s = _
  simp [execReady, hbody, hchange, hx, halive, hcoord, hepoch, hnode, hkey, hsigned]

theorem exec_commit {ch : Change} (halive : ndAlive s = true) (hbody : p.body = .commit epoch c ms) (hchange : s.nd.change = some ch)
    (hstate : getF ND.NDSELF_STATE s = 3) (hepoch : ch.epoch = epoch) (hcoord : ch.coordinator = c) (hsender : p.sender = c)
    (hother : c ≠ ownNode s) (hfrom : fromMember p s = true) : exec (.commit p) s = .next (proceed (adoptEpoch epoch ms s)) := by
  show execCommit p s = _
  simp [execCommit, hbody, hchange, halive, ndState, ndChanging, hstate, hepoch, hcoord, hsender, hother, hfrom]

end

/-! REFUSED and HANDOVER. -/

theorem exec_refused {j : Nat} (halive : ndAlive s = true) (hbody : p.body = .refused j) (hstate : getF ND.NDSELF_STATE s = 1)
    (hj : j = ownNode s) (hhost : ∀ h, s.nd.host = some h → p.sender = h.1 ∧ signedBy h.2 p = true) :
    exec (.refused p) s = .next (joinRefused s) := by
  show execRefused p s = _
  cases hknown : s.nd.host with
  | none => simp [execRefused, hbody, halive, ndState, ndJoining, hstate, hj, hknown]
  | some h =>
    obtain ⟨hsender, hsigned⟩ := hhost h hknown
    simp [execRefused, hbody, halive, ndState, ndJoining, hstate, hj, hknown, hsender, hsigned]

theorem exec_handover {n epoch : Nat} (halive : ndAlive s = true) (hbody : p.body = .handover n epoch) (hsender : p.sender = n)
    (hepoch : epoch = epochOf s) (hother : n ≠ ownNode s) (hfrom : fromMember p s = true) : exec (.handover p) s = .next
      (if isCoord s then proceed (setNd (fun a => { a with requests := a.requests ++ [⟨n, none, true⟩] }) s)
       else if n = getF ND.NDCOORD_NODE s ∧ ((dropMember n s.nd.members).map (fun m => m.node)).headD 65536 = ownNode s
          ∧ ndState s = ndMember then
        proceed (setNd (fun a => { a with requests := [⟨n, none, true⟩] }) (setF ND.NDSELF_COORD 1 (setF ND.NDCOORD_NODE (ownNode s) s)))
       else s) := by
  show execHandover p s = _
  simp [execHandover, hbody, halive, hsender, hepoch, hother, hfrom, and_assoc]

end

/-- Settles O49, packet by packet. -/
theorem memberPackets : Obligations.MemberPackets := by
  intro p s u halive
  refine ⟨?hello, ?challenge, ?proof, ?prepare, ?ready, ?commit, ?refused, ?handover⟩
  case hello =>
    intro j cert nonce nc hbody hmember
    refine ⟨exec_hello_forwarded halive hbody hmember, fun hcoord hbad => ?_, fun hcoord hsigned hsender hcert hdraw => ?_⟩
    · rw [exec_hello halive hbody hmember hcoord, helloHere_refused hbad]
    · rw [exec_hello halive hbody hmember hcoord, helloHere_answered hsigned hsender hcert hdraw]
  case challenge =>
    intro j c key cert nonce sig hbody hstate hj
    rw [exec_challenge halive hbody hstate hj]
    exact ⟨fun hsigned hsender hcert hnonce => congrArg _ (if_neg (by simp [hsigned, hsender, hcert, hnonce])),
      fun hbad => congrArg _ (if_pos (by simpa [or_assoc] using hbad))⟩
  case proof =>
    intro j sig x hbody hcoord hx
    rw [exec_proof halive hbody hcoord hx]
    exact ⟨fun hsigned hsender hnonce hnew => congrArg _ (if_neg (by simp [hsigned, hsender, hnonce, hnew])),
      fun hbad => congrArg _ (if_pos (by simpa [or_assoc] using hbad))⟩
  case prepare =>
    intro epoch c ms hbody hstate hsender hother hfrom
    rw [exec_prepare halive hbody hstate hsender hother hfrom]
    exact ⟨fun hnext hu => hu ▸ congrArg _ (if_neg fun hlate => hnext.elim hlate.1 hlate.2), fun hknown hepoch => congrArg _ (if_pos ⟨hknown,
        hepoch⟩)⟩
  case ready => exact fun m epoch c x hbody => exec_ready halive hbody
  case commit => exact fun epoch c ms ch hbody => exec_commit halive hbody
  case refused => exact fun j hbody => exec_refused halive hbody
  case handover =>
    intro n epoch hbody hsender hepoch hother hfrom
    rw [exec_handover halive hbody hsender hepoch hother hfrom]
    refine ⟨fun hcoord => congrArg _ (if_pos (isCoord_eq_true hcoord)), fun hcoord hn hlowest hstate => congrArg _ ?_⟩
    exact (if_neg (by simp [isCoord_eq_false hcoord])).trans (if_pos ⟨hn, hlowest, hstate⟩)

end Sys2Proof.Machine
namespace Sys2Proof.Machine

/-! PROOFS. COLLs reduce, finish and commit (R495, R496, R498). -/

section
variable {tag : Nat} {j : CollJob} {s : State}

theorem exec_collBlockReduce {v : Nat} (hcoll : collOf tag s = some j) (halive : alive s = true) (hop : hasReduce j = true) (hv : v < collSpan j)
    (hsum : blockIn j.sums v = none) (hengine : (regionOf (ceRegion (reduceEngine j v s)) s).inReset = false) :
    exec (.collBlockReduce tag v) s
      = .next (if (childRanks j v).all (fun r => (fromChild j v r).isSome) then reduceNow j v s else s) := by
  show execCollBlockReduce tag v s = _
  simp [execCollBlockReduce, hcoll, halive, hop, hv, hsum, hengine]

theorem exec_collDone {node : Nat} (hcoll : collOf tag s = some j) (halive : alive s = true) (hrank : j.rank = 0) (hsend : j.op ≠ 4)
    (hrecv : j.op ≠ 5) (hnode : node ≠ nodeOf j 0) (hgroup : node ∈ j.group) : exec (.collDone tag node) s
      = .next (if node ∈ j.dones then s else gatherDone { j with dones := node :: j.dones }
          (setColl j.id (fun j => { j with dones := node :: j.dones }) s)) := by
  show execCollDone tag node s = _
  by_cases hdone : node ∈ j.dones <;> simp [execCollDone, hcoll, halive, hrank, hsend, hrecv, hnode, hgroup, hdone]

theorem exec_collCommit {may : Bool} (hcoll : collOf tag s = some j) (halive : alive s = true)
    (hmay : may = if j.op = 4 ∨ j.op = 5 then collComplete j s else if j.rank = 0 then j.commit else j.doneSent) :
    exec (.collCommit tag) s = .next (if may then commitColl j s else s) := by
  subst hmay
  show execCollCommit tag s = _
  simp only [execCollCommit, hcoll, halive, Bool.and_true]

end

/-- Settles O50. -/
theorem collsCommit : Obligations.CollsCommit := by
  intro tag j s hcoll halive
  refine ⟨fun v hop hv hsum hengine => ?reduce, fun node hrank hsend hrecv hnode hgroup => ?done, fun may hmay => ?commit⟩
  case reduce =>
    rw [exec_collBlockReduce hcoll halive hop hv hsum hengine]
    exact ⟨fun hall => congrArg _ (if_pos (List.all_eq_true.2 hall)), fun ⟨r, hr, hnone⟩ => congrArg _ (if_neg fun hall => by
      simpa [hnone] using List.all_eq_true.1 hall r hr)⟩
  case done =>
    rw [exec_collDone hcoll halive hrank hsend hrecv hnode hgroup]
    exact ⟨fun hnew => congrArg _ (if_neg hnew), fun hold => congrArg _ (if_pos hold)⟩
  case commit =>
    rw [exec_collCommit hcoll halive hmay]
    exact ⟨fun h => congrArg _ (if_pos h), fun h => congrArg _ (if_neg (by simp [h]))⟩

end Sys2Proof.Machine
namespace Sys2Proof.Machine

/-! PROOFS. Image loads (R541 to R548, R568) and casement programs (R538, R539). -/

/-! The requests of an image (R541, R613): short, within a page each, and as many bytes as asked for. -/

theorem readRequests_bounded (fuel a len : Nat) : ∀ r ∈ readRequests fuel a len, 0 < r.2 ∧ r.2 ≤ 512 ∧ r.1 % 4096 + r.2 ≤ 4096 := by
  induction fuel generalizing a len with
  | zero => simp [readRequests]
  | succ fuel ih =>
    intro r hr
    simp only [readRequests] at hr
    split at hr
    case isTrue => simp at hr
    case isFalse hsome =>
      obtain rfl | hrest := List.mem_cons.1 hr
      · dsimp only
        omega
      · exact ih _ _ r hrest

/-- Requests from a multiple of 64: each but the last ends at a multiple of 64, so every 64 bytes need one at most. -/
theorem sum_readRequests {fuel a len : Nat} (halign : a % 64 = 0) (hfuel : len < 64 * fuel) :
    ((readRequests fuel a len).map (fun r => r.2)).sum = len := by
  induction fuel generalizing a len with
  | zero => omega
  | succ fuel ih =>
    simp only [readRequests]
    generalize hk : min len (min 512 (4096 - a % 4096)) = k
    split
    case isTrue hnone =>
      simp only [List.map_nil, List.sum_nil]
      omega
    case isFalse hsome =>
      rw [List.map_cons, List.sum_cons]
      by_cases hlast : k = len
      · rw [hlast, Nat.sub_self]
        cases fuel <;> simp [readRequests]
      · rw [ih (by omega) (by omega)]
        omega

section
variable {s : State}

/-- The reads of an image leave as requests, and nothing else changes. -/
theorem forEach_emit {α : Type} (g : α → Out) (l : List α) (s : State) :
    forEach l (fun r s => emit (g r) s) s = { s with out := (l.map g).reverse ++ s.out } := by
  induction l generalizing s with
  | nil => rfl
  | cons a l ih =>
    rw [forEach_cons, ih]
    simp [emit]

theorem readImage_of_busOk (h : busOk s = true) :
    readImage s = { s with out := ((imageRequests s).map (fun r => Out.hostRead r.1 r.2)).reverse ++ s.out } := by
  rw [readImage, if_pos h, forEach_emit (fun r : Nat × Nat => Out.hostRead r.1 r.2)]

/-! What a change of STATE keeps. -/

theorem setImgState_eq (v : Nat) (s : State) : ∃ c e r a b, setImgState v s = trace c e r a b (setF IMG.STAT_STATE v s) := ⟨_, _, _, _, _, rfl⟩

theorem getF_setImgState {g : Fld} (v : Nat) (h : plain g) : getF g (setImgState v s) = getF g (setF IMG.STAT_STATE v s) := getF_trace _ _ _ _ _ _ _ h

@[simp] theorem setImgState_image (v : Nat) (s : State) : (setImgState v s).image = s.image := trace_image _ _ _ _ _ _
@[simp] theorem setImgState_inflight (v : Nat) (s : State) : (setImgState v s).inflight = s.inflight := trace_inflight _ _ _ _ _ _
@[simp] theorem setImgState_panes (v : Nat) (s : State) : (setImgState v s).panes = s.panes := trace_panes _ _ _ _ _ _
@[simp] theorem setImgState_mem (v : Nat) (s : State) : (setImgState v s).mem = s.mem := trace_mem _ _ _ _ _ _
@[simp] theorem setImgState_out (v : Nat) (s : State) : (setImgState v s).out = s.out := trace_out _ _ _ _ _ _
@[simp] theorem setImgState_load (v : Nat) (s : State) : (setImgState v s).load = s.load := by
  rw [setImgState, trace_eq]
  rfl
@[simp] theorem busOk_setImgState (v : Nat) (s : State) : busOk (setImgState v s) = busOk s := by
  simp only [setImgState, busOk, trace_cfg, trace_flrActive, setF_cfg, setF_flrActive]

/-! Fields that a trace record leaves. -/

theorem plain_img_state : plain IMG.STAT_STATE := by
  unfold plain
  decide
theorem plain_img_errCode : plain IMG.ERR_CODE := by
  unfold plain
  decide
theorem plain_img_load : plain IMG.CTRL_LOAD := by
  unfold plain
  decide
theorem plain_img_unload : plain IMG.CTRL_UNLOAD := by
  unfold plain
  decide
theorem plain_img_addr : plain IMG.ADDR_ADDR := by
  unfold plain
  decide
theorem plain_img_len : plain IMG.LEN_LEN := by
  unfold plain
  decide
theorem plain_tier_busy : plain TIER.STAT_BUSY := by
  unfold plain
  decide

theorem getF_setImgState_self {v : Nat} (s : State) (hv : v < 16) : getF IMG.STAT_STATE (setImgState v s) = v :=
  (getF_setImgState v plain_img_state).trans ((getF_setF_self _ _ _).trans (Nat.mod_eq_of_lt hv))

theorem getF_setImgState_ne {g : Fld} (v : Nat) (h : plain g) (hne : g.key ≠ IMG.STAT_STATE.key) : getF g (setImgState v s) = getF g s :=
  (getF_setImgState v h).trans (getF_setF_ne _ _ _ _ hne)

/-! A load or UNLOAD that fails (R545, R548): its code, and what it leaves. -/

theorem getF_loadFails_state (c r n : Nat) (s : State) : getF IMG.STAT_STATE (loadFails c r n s) = 8 := by
  have hload : ∀ t : State, getF IMG.STAT_STATE { t with load := none } = getF IMG.STAT_STATE t := fun _ => rfl
  rw [loadFails, hload, getF_setImgState_self _ (by decide)]

theorem getF_loadFails_errCode (c r n : Nat) (s : State) : getF IMG.ERR_CODE (loadFails c r n s) = c % 256 := by
  have hload : ∀ t : State, getF IMG.ERR_CODE { t with load := none } = getF IMG.ERR_CODE t := fun _ => rfl
  rw [loadFails, hload, getF_setImgState_ne _ plain_img_errCode (by decide), getF_setF_ne _ _ _ _ (by decide), getF_setF_ne _ _ _ _ (by decide),
    getF_setF_ne _ _ _ _ (by decide), getF_setF_self]
  rfl

@[simp] theorem loadFails_image (c r n : Nat) (s : State) : (loadFails c r n s).image = s.image := by simp [loadFails]
@[simp] theorem loadFails_inflight (c r n : Nat) (s : State) : (loadFails c r n s).inflight = s.inflight := by simp [loadFails]
@[simp] theorem loadFails_panes (c r n : Nat) (s : State) : (loadFails c r n s).panes = s.panes := by simp [loadFails]
@[simp] theorem loadFails_mem (c r n : Nat) (s : State) : (loadFails c r n s).mem = s.mem := by simp [loadFails]
@[simp] theorem loadFails_out (c r n : Nat) (s : State) : (loadFails c r n s).out = s.out := by simp [loadFails]

/-! LOAD (R541 step 1). -/

/-- A load that has just begun: STATE 1, no error. -/
def loadBegun (s : State) : State :=
  setImgState 1 (setF IMG.CTRL_LOAD 1 (setF IMG.ERR_CODE 0 (setF IMG.ERR_SECTION 0 (setF IMG.ERRREC_RECORD 0 { s with load := some ⟨none, none⟩ }))))

theorem getF_loadBegun {g : Fld} (h : plain g) (hload : g.key ≠ IMG.CTRL_LOAD.key) (hstate : g.key ≠ IMG.STAT_STATE.key)
    (herr : g.addr ≠ IMG.ERR_CODE.addr) (hrec : g.addr ≠ IMG.ERRREC_RECORD.addr) (hlo : g.lo < 64) : getF g (loadBegun s) = getF g s := by
  rw [loadBegun, getF_setImgState_ne 1 h hstate, getF_setF_ne _ _ _ _ hload,
      getF_setF_ne _ _ _ _ (key_ne_of_addr IMG.ERR_CODE _ (by decide) hlo herr),
    getF_setF_ne _ _ _ _ (key_ne_of_addr IMG.ERR_SECTION _ (by decide) hlo herr), getF_setF_ne _ _ _ _ (key_ne_of_addr _ _ (by decide) hlo hrec)]
  rfl

theorem getF_loadBegun_state : getF IMG.STAT_STATE (loadBegun s) = 1 := getF_setImgState_self _ (by decide)

theorem getF_loadBegun_load : getF IMG.CTRL_LOAD (loadBegun s) = 1 :=
  (getF_setImgState_ne 1 plain_img_load (by decide)).trans (getF_setF_self _ _ _)

theorem getF_loadBegun_addr : getF IMG.ADDR_ADDR (loadBegun s) = getF IMG.ADDR_ADDR s :=
  getF_loadBegun plain_img_addr (by decide) (by decide) (by decide) (by decide) (by decide)

theorem getF_loadBegun_len : getF IMG.LEN_LEN (loadBegun s) = getF IMG.LEN_LEN s :=
  getF_loadBegun plain_img_len (by decide) (by decide) (by decide) (by decide) (by decide)

/-- What a load changes outside the registers. -/
theorem loadBegun_kept : (loadBegun s).inflight = s.inflight ∧ (loadBegun s).image = s.image ∧ (loadBegun s).panes = s.panes
    ∧ (loadBegun s).mem = s.mem ∧ (loadBegun s).out = s.out := by
  simp [loadBegun]

theorem imageRequests_loadBegun : imageRequests (loadBegun s) = imageRequests s := by
  rw [imageRequests, imageRequests, getF_loadBegun_addr, getF_loadBegun_len]

theorem busOk_loadBegun : busOk (loadBegun s) = busOk s := by
  rw [loadBegun, busOk_setImgState]
  rfl

theorem exec_imgLoad (h : Served .late s) (hidle : loading s = false) : exec .imgLoad s = .next
    (if getF IMG.ADDR_ADDR s % 64 ≠ 0 then loadFails 1 0 0 (loadBegun s)
     else if !lenAllowed (getF IMG.LEN_LEN s) then loadFails 2 0 0 (loadBegun s) else readImage (loadBegun s)) := by
  rw [← getF_loadBegun_addr, ← getF_loadBegun_len]
  exact congrArg Host.Outcome.next ((hostWrite_of_served _ h).trans (if_neg (by simp [hidle])))

/-- The requests of a LEN that a load takes come to LEN bytes. -/
theorem sum_imageRequests (haddr : getF IMG.ADDR_ADDR s % 64 = 0) : ((imageRequests s).map (fun r => r.2)).sum = getF IMG.LEN_LEN s :=
  sum_readRequests haddr (by omega)

theorem imgLoad_outcome (h : Served .late s) (hidle : loading s = false) :
    ∃ t, exec .imgLoad s = .next t ∧ t.inflight = s.inflight ∧ t.image = s.image ∧ t.panes = s.panes ∧ t.mem = s.mem
      ∧ (getF IMG.ADDR_ADDR s % 64 ≠ 0 → getF IMG.STAT_STATE t = 8 ∧ getF IMG.ERR_CODE t = 1 ∧ t.out = s.out)
      ∧ (getF IMG.ADDR_ADDR s % 64 = 0 → lenAllowed (getF IMG.LEN_LEN s) = false →
          getF IMG.STAT_STATE t = 8 ∧ getF IMG.ERR_CODE t = 2 ∧ t.out = s.out)
      ∧ (getF IMG.ADDR_ADDR s % 64 = 0 → lenAllowed (getF IMG.LEN_LEN s) = true → busOk s = true →
          getF IMG.STAT_STATE t = 1 ∧ getF IMG.CTRL_LOAD t = 1
          ∧ t.out = ((imageRequests s).map (fun r => Out.hostRead r.1 r.2)).reverse ++ s.out
          ∧ ((imageRequests s).map (fun r => r.2)).sum = getF IMG.LEN_LEN s
          ∧ ∀ r ∈ imageRequests s, 0 < r.2 ∧ r.2 ≤ 512 ∧ r.1 % 4096 + r.2 ≤ 4096) := by
  obtain ⟨hflight, himage, hpanes, hmem, hout⟩ := loadBegun_kept (s := s)
  refine ⟨_, exec_imgLoad h hidle, ?_⟩
  by_cases haddr : getF IMG.ADDR_ADDR s % 64 = 0
  case neg =>
    rw [if_pos haddr]
    simp [haddr, hflight, himage, hpanes, hmem, hout, getF_loadFails_state, getF_loadFails_errCode]
  case pos =>
    rw [if_neg (by simp [haddr])]
    cases hlen : lenAllowed (getF IMG.LEN_LEN s) with
    | false => simp [haddr, hflight, himage, hpanes, hmem, hout, getF_loadFails_state, getF_loadFails_errCode]
    | true =>
      by_cases hbus : busOk s = true
      case neg => simp [readImage, busOk_loadBegun, hbus, haddr, hflight, himage, hpanes, hmem]
      case pos =>
        have hread := readImage_of_busOk (busOk_loadBegun.trans hbus)
        have hstate := getF_loadBegun_state (s := s)
        have hload := getF_loadBegun_load (s := s)
        rw [imageRequests_loadBegun, hout] at hread
        simp only [Bool.not_true, Bool.false_eq_true, if_false, hread]
        generalize loadBegun s = u at hflight himage hpanes hmem hstate hload
        exact ⟨hflight, himage, hpanes, hmem, fun hne => absurd haddr hne, by simp, fun _ _ _ => ⟨hstate, hload, trivial, sum_imageRequests haddr,
          readRequests_bounded _ _ _⟩⟩

theorem exec_imgLoad_busy (h : Served .late s) (hbusy : loading s = true) : exec .imgLoad s = .next s :=
  congrArg Host.Outcome.next ((hostWrite_of_served _ h).trans (if_pos hbusy))

theorem exec_imgUnload_busy (h : Served .late s) (hbusy : loading s = true) : exec .imgUnload s = .next s :=
  congrArg Host.Outcome.next ((hostWrite_of_served _ h).trans (if_pos hbusy))

/-! The first reading (R541 steps 1 and 2). -/

theorem exec_imgFetchDone_none (hstate : imgState s = 1) (hup : loaderUp s = true) : exec (.imgFetchDone none) s = .next (loadFails 1 0 0 s) :=
  congrArg Host.Outcome.next (if_neg (by simp [hstate, hup]))

theorem exec_imgFetchDone {raw bs : List Byte} (hstate : imgState s = 1) (hup : loaderUp s = true)
    (hbs : bs = byteSlice raw 0 (getF IMG.LEN_LEN s)) : exec (.imgFetchDone (some raw)) s = .next
      (match outerFault (getF IMG.LEN_LEN s) bs s with
      | some (c, r, n) => loadFails c r n s
      | none => match innerFault bs with
        | some (c, r, n) => loadFails c r n (setImgState 3 { s with load := some ⟨some (parseImage bs), none⟩ })
        | none => startQuiesce (setImgState 3 { s with load := some ⟨some (parseImage bs), none⟩ })) := by
  subst hbs
  exact congrArg Host.Outcome.next (if_neg (by simp [hstate, hup]))

/-- A load or UNLOAD quiesces: STATE 4, and the placement is busy. -/
theorem startQuiesce_spec (s : State) : getF IMG.STAT_STATE (startQuiesce s) = 4 ∧ getF TIER.STAT_BUSY (startQuiesce s) = 1
    ∧ (startQuiesce s).image = s.image ∧ (startQuiesce s).inflight = s.inflight ∧ (startQuiesce s).load = s.load := by
  refine ⟨getF_setImgState_self _ (by decide), ?_, by simp [startQuiesce], by simp [startQuiesce], by simp [startQuiesce]⟩
  rw [startQuiesce, getF_setImgState_ne _ plain_tier_busy (by decide), getF_setF_self]
  rfl

/-! Quiescence and placement (R541 steps 3 and 4, R544). -/

theorem exec_imgQuiesced_waits (h : s.inflight ≠ []) : exec .imgQuiesced s = .next s :=
  congrArg Host.Outcome.next (if_pos (by simp [h]))

theorem exec_imgQuiesced (hstate : imgState s = 4) (hup : loaderUp s = true) (hempty : s.inflight = []) (hreplace : getF TIER.CTRL_REPLACE s ≠ 1) :
    exec .imgQuiesced s = .next (match s.load with
      | none => s
      | some j =>
        match j.image with
        | none => unloadImage (setImgState 6 s)
        | some im =>
          if (planImage im (setImgState 5 s)).2 ≠ 0 then
            loadFails (placeCode (planImage im (setImgState 5 s)).2) 0 0 (setF TIER.STAT_PERR (planImage im (setImgState 5 s)).2 (setImgState 5 s))
          else readImage (setImgState 6 { setF TIER.STAT_PERR (planImage im (setImgState 5 s)).2 (setImgState 5 s) with
            load := some ⟨some im, some (planImage im (setImgState 5 s)).1⟩ })) :=
  congrArg Host.Outcome.next (if_neg (by simp [hstate, hup, hempty, flag, hreplace]))

/-! The second reading (R541 steps 5 and 6), UNLOAD and ABORT (R544, R545). -/

theorem exec_imgRefetchDone {im : Image} {p : LoadPlan} (bytes : Option (List Byte)) (hstate : imgState s = 6) (hup : loaderUp s = true)
    (hload : s.load = some ⟨some im, some p⟩) : exec (.imgRefetchDone bytes) s = .next (match bytes with
      | none => loadFails 1 0 0 s
      | some raw =>
        if sha512 ((byteSlice raw 0 (getF IMG.LEN_LEN s)).take ((byteSlice raw 0 (getF IMG.LEN_LEN s)).length - if im.signed then 128 else 0))
          = im.digest then installImage im p s else loadFails 24 0 0 s) := by
  refine congrArg Host.Outcome.next ((if_neg (by simp [hstate, hup])).trans ?_)
  cases bytes <;> simp only [hload]

theorem getF_installImage_state (im : Image) (p : LoadPlan) : getF IMG.STAT_STATE (installImage im p s) = 7 := by
  have hload : ∀ t : State, getF IMG.STAT_STATE { t with load := none } = getF IMG.STAT_STATE t := fun _ => rfl
  rw [installImage, hload, getF_setImgState_self _ (by decide)]

theorem exec_imgUnload (h : Served .late s) (hidle : loading s = false) :
    exec .imgUnload s = .next (startQuiesce (setF IMG.CTRL_UNLOAD 1 { s with load := some ⟨none, none⟩ })) :=
  congrArg Host.Outcome.next ((hostWrite_of_served _ h).trans (if_neg (by simp [hidle])))

theorem imgUnload_outcome (h : Served .late s) (hidle : loading s = false) :
    ∃ t, exec .imgUnload s = .next t ∧ getF IMG.STAT_STATE t = 4 ∧ getF IMG.CTRL_UNLOAD t = 1 ∧ getF TIER.STAT_BUSY t = 1
      ∧ t.inflight = s.inflight ∧ t.image = s.image := by
  obtain ⟨hstate, hbusy, himage, hflight, -⟩ := startQuiesce_spec (setF IMG.CTRL_UNLOAD 1 { s with load := some ⟨none, none⟩ })
  refine ⟨_, exec_imgUnload h hidle, hstate, ?_, hbusy, hflight, himage⟩
  rw [startQuiesce, getF_setImgState_ne _ plain_img_unload (by decide), getF_setF_ne _ _ _ _ (by decide), getF_setF_self]
  rfl

theorem exec_imgAbort (h : Served .late s) :
    exec .imgAbort s = .next (if 1 ≤ imgState s ∧ imgState s ≤ 4 then loadFails 23 0 0 s else s) :=
  congrArg Host.Outcome.next (hostWrite_of_served _ h)

/-! Casement programs (R538, R539). -/

section
variable {owner q : Nat} {p : Program}

theorem exec_programEntryTake {i : Nat} {e : PEntry} (hprogram : programOf owner s = some p) (hqueue : queueOf owner s = some q)
    (hready : roundReady p (progOf owner s) s = true) (hnext : nextEntry p (progOf owner s) s = some i) (he : p.entries[i]? = some e)
    (hmay : programMayTake q (dOpcode (patched e (progOf owner s).round s)) s = true) :
    exec (.programEntryTake owner) s = .next (enterFlight e.target q ((progOf owner s).round % 2 ^ 32) i true
      (patched e (progOf owner s).round s) beginAny (setProg owner (afterEntry p (progOf owner s) i) s)) := by
  show execProgramEntryTake owner s = _
  simp only [execProgramEntryTake, hprogram, hqueue, hready, hnext, he, hmay, Bool.not_true, Bool.false_and, Bool.false_eq_true, if_false, if_true]

theorem exec_programEntryTake_waits (hprogram : programOf owner s = some p) (hqueue : queueOf owner s = some q)
    (hready : roundReady p (progOf owner s) s = false) (hnext : (progOf owner s).next = 0) (hpassed : (progOf owner s).passed = []) :
    exec (.programEntryTake owner) s = .next s := by
  show execProgramEntryTake owner s = _
  simp [execProgramEntryTake, hprogram, hqueue, hready, hnext, hpassed]

theorem programMayTake_of_not_enabled (d : Nat) (h : qState q s ≠ qEnabled) : programMayTake q d s = false := by
  simp [programMayTake, h]

end

end

/-- Settles O51, command by command. -/
theorem imagesAndPrograms : Obligations.ImagesAndPrograms := by
  refine ⟨fun s => ⟨imgLoad_outcome, fun h hbusy => ⟨exec_imgLoad_busy h hbusy, exec_imgUnload_busy h hbusy⟩, ?fetch, exec_imgQuiesced_waits,
      ?quiesced,
    ?refetch, fun c r n => ?fails, imgUnload_outcome, ?abort⟩, fun owner q i p e s hprogram hqueue =>
    ⟨exec_programEntryTake hprogram hqueue, exec_programEntryTake_waits hprogram hqueue, programMayTake_of_not_enabled⟩⟩
  case fetch =>
    intro hstate hup
    refine ⟨⟨_, exec_imgFetchDone_none hstate hup, getF_loadFails_state _ _ _ _, getF_loadFails_errCode _ _ _ _, loadFails_image _ _ _ _⟩,
      fun raw c r n houter => ?_, fun raw houter hinner => ?_⟩
    · rw [exec_imgFetchDone hstate hup rfl, houter]
    · obtain ⟨hquiesces, hbusy, himage, -, hload⟩ := startQuiesce_spec
        (setImgState 3 { s with load := some ⟨some (parseImage (byteSlice raw 0 (getF IMG.LEN_LEN s))), none⟩ })
      refine ⟨_, ?_, hquiesces, hbusy, himage.trans (setImgState_image _ _), hload.trans (setImgState_load _ _)⟩
      rw [exec_imgFetchDone hstate hup rfl, houter, hinner]
  case quiesced =>
    intro hstate hup hempty hreplace
    have hexec := exec_imgQuiesced hstate hup hempty hreplace
    refine ⟨fun hload => ?_, fun im hload p perr hplan => ?_⟩
    · rw [hexec, hload]
    · rw [hexec, hload]
      simp only [hplan]
      exact ⟨fun hfails => congrArg _ (if_pos hfails), fun hfits => congrArg _ (if_neg (not_not.2 hfits))⟩
  case refetch =>
    intro im p raw hstate hup hload
    have hexec := fun bytes => exec_imgRefetchDone bytes hstate hup hload
    exact ⟨fun hsame => ⟨(hexec _).trans (congrArg _ (if_pos hsame)), getF_installImage_state im p⟩,
      fun hother => (hexec _).trans (congrArg _ (if_neg hother)), hexec none⟩
  case fails =>
    exact ⟨loadFails_image _ _ _ _, loadFails_inflight _ _ _ _, loadFails_panes _ _ _ _, getF_loadFails_state _ _ _ _,
        getF_loadFails_errCode _ _ _ _, rfl⟩
  case abort =>
    intro h
    rw [exec_imgAbort h]
    exact ⟨fun hlow hhigh => congrArg _ (if_pos ⟨hlow, hhigh⟩), fun hout => congrArg _ (if_neg (by omega))⟩

end Sys2Proof.Machine
namespace Sys2Proof.Machine

/-! PROOFS. Lines of the HDM window (R615, R621). -/

/-- A read of a mapped line: its bytes, and whether it reads as poisoned. -/
theorem exec_cxlMemRead_out {line : Nat} {s u : State} (hmapped : cxlMapped line s = true) (hread : exec (.cxlMemRead line) s = .next u) :
    u.out = .readReply (winBytes (64 * line) 64 (peep 10 0 2 1 s)) (winPoisoned (64 * line) s) :: s.out := by
  obtain rfl := Host.Outcome.next.inj ((congrArg Host.Outcome.next (if_pos hmapped)).symm.trans hread)
  exact congrArg (_ :: ·) (peep_out 10 0 2 1 s)

/-- A READY window of 256 MiB whose slots lie on memory unit 8480, channel 0 of a cartridge port 1056. No device has that port: the page that
its number names is the page of the peephole's counts, so that the port's CSTATE is counter 0, which counts the host's writes through the
window. -/
def windowOnCounter : State :=
  setF GLB.BOOT_STAGE 8 (setF HOSTIF.HDMSTAT_STATE winReady (setF HOSTIF.HDMSIZE_UNITS 1 (setF (GLB.SHUT_STATE 1156) 2
    (setF (CART.CPSTAT_CSTATE 1056) 4 (setF PEEP.CTRL_CNTEN 1 (setF (PEEP.CNTSEL_EN 0) 1 (setF (PEEP.CNTSEL_KIND 0) 10
      (setF (PEEP.CNTSEL_EVENT 0) 3 { State.reset with
        cfg := { Cfg.init with decoderCommitted := true, decoderSize := 2 ^ 28 }
        winRuns := [(8480, 0, 4096)] }))))))))

/-- Refutes O52: the statement asks nothing of the window's slots, and where the channel is no memory unit of the device, its page may be a
page of the peephole: then the write of a line counts, and the count closes the channel before the line is stored. -/
theorem not_windowLinesReadBack : ¬ Obligations.WindowLinesReadBack := by
  intro h
  obtain ⟨t, u, hwrite, hread, hout, -⟩ := (h 0 (List.replicate 64 0#8) false windowOnCounter (by decide)).1 (by decide) (by decide)
  have hlost : execCxlMemWrite 0 (List.replicate 64 0#8) false windowOnCounter = .next (peep 10 0 3 1 windowOnCounter) := by
    refine congrArg Host.Outcome.next ((if_pos (by decide)).trans ((if_neg (by decide)).trans (if_pos ?_)))
    decide
  obtain rfl : t = peep 10 0 3 1 windowOnCounter := (Host.Outcome.next.inj (hlost.symm.trans hwrite)).symm
  have hpoisoned : winPoisoned (64 * 0) (peep 10 0 3 1 windowOnCounter) = true := by decide
  have hpoison := exec_cxlMemRead_out (by decide) hread
  rw [hpoisoned] at hpoison
  simpa using hout.symm.trans hpoison

end Sys2Proof.Machine
namespace Sys2Proof.Machine

/-! PROOFS. The CXL link, BAR4 and the states of the HDM window (R605, R606, R611, R612, R614, R619, R620, R624). -/

section
variable {s : State}

/-! The link (R605, R606). -/

theorem exec_cxlLinkTrainingDone (r : CxlTraining) (hhold : inHold s = false) (hdown : getF HOSTIF.LNKSTAT_UP s = 0) :
    exec (.cxlLinkTrainingDone r) s = .next (match r with
      | .up wide rate => if 1 ≤ rate ∧ rate ≤ 3 then cxlUp wide rate s else s
      | .down => errRecord clsHost 1 96 0 noUnit [] s) :=
  congrArg Host.Outcome.next (if_neg (by simp [hhold, flag_eq_false hdown]))

theorem cxlUp_spec (wide : Bool) {rate : Nat} (hrate : rate ≤ 3) : getF HOSTIF.LNKSTAT_UP (cxlUp wide rate s) = 1
    ∧ getF HOSTIF.LNKSTAT_RATE (cxlUp wide rate s) = rate ∧ getF HOSTIF.LNKSTAT_WIDE (cxlUp wide rate s) = (if wide then 1 else 0) := by
  refine ⟨?_, ?_, ?_⟩
  · rw [cxlUp, getF_setF_ne _ _ _ _ (by decide), getF_setF_ne _ _ _ _ (by decide), getF_setF_self]
    rfl
  · rw [cxlUp, getF_setF_ne _ _ _ _ (by decide), getF_setF_ne _ _ _ _ (by decide), getF_setF_ne _ _ _ _ (by decide),
      getF_setF_ne _ _ _ _ (by decide), getF_setF_self]
    exact Nat.mod_eq_of_lt (Nat.lt_succ_of_le hrate)
  · rw [cxlUp, getF_setF_ne _ _ _ _ (by decide), getF_setF_ne _ _ _ _ (by decide), getF_setF_ne _ _ _ _ (by decide), getF_setF_self]
    cases wide <;> rfl

/-- A state that differs from `s` in register fields alone does so after a further field is set. -/
theorem setF_of_flds {t : State} (f : Fld) (v : Nat) (h : t = { s with flds := t.flds }) : setF f v t = { s with flds := (setF f v t).flds } := by
  obtain ⟨l, rfl⟩ : ∃ l, t = { s with flds := l } := ⟨_, h⟩
  rfl

theorem cxlUp_eq (wide : Bool) (rate : Nat) : cxlUp wide rate s = { s with flds := (cxlUp wide rate s).flds } :=
  setF_of_flds _ _ (setF_of_flds _ _ (setF_of_flds _ _ (setF_of_flds _ _ (setF_of_flds _ _ rfl))))

theorem exec_cxlLinkDown (hup : getF HOSTIF.LNKSTAT_UP s = 1) : exec .cxlLinkDown s = .next (cxlDown s) :=
  congrArg Host.Outcome.next (if_pos (flag_eq_true hup))

theorem getF_loadFails_linkUp (c r n : Nat) : getF HOSTIF.LNKSTAT_UP (loadFails c r n s) = getF HOSTIF.LNKSTAT_UP s := by
  have hload : ∀ t : State, getF HOSTIF.LNKSTAT_UP { t with load := none } = getF HOSTIF.LNKSTAT_UP t := fun _ => rfl
  have hplain : plain HOSTIF.LNKSTAT_UP := by
    unfold plain
    decide
  rw [loadFails, hload, getF_setImgState_ne _ hplain (by decide)]
  iterate 6 rw [getF_setF_ne _ _ _ _ (by decide)]

/-- A link that goes down, and what it keeps. -/
theorem cxlDown_spec (s : State) : getF HOSTIF.LNKSTAT_UP (cxlDown s) = 0 ∧ (cxlDown s).inflight = s.inflight ∧ (cxlDown s).mem = s.mem
    ∧ (cxlDown s).image = s.image := by
  unfold cxlDown
  extract_lets down retrained st
  have hup : getF HOSTIF.LNKSTAT_UP retrained = 0 := (getF_setF_ne _ _ _ _ (by decide)).trans (getF_setF_self _ _ _)
  have hflight : retrained.inflight = s.inflight := by simp only [retrained, down, satF, setF_inflight]
  have hmem : retrained.mem = s.mem := by simp only [retrained, down, satF, setF_mem]
  have himage : retrained.image = s.image := by simp only [retrained, down, satF, setF_image]
  clear_value retrained
  split
  · exact ⟨(getF_loadFails_linkUp 1 0 0).trans hup, (loadFails_inflight 1 0 0 retrained).trans hflight,
      (loadFails_mem 1 0 0 retrained).trans hmem, (loadFails_image 1 0 0 retrained).trans himage⟩
  · exact ⟨hup, hflight, hmem, himage⟩

/-! BAR4 (R611, R612). -/

theorem exec_bar4Access_unsupported (off len : Nat) (w : Option (List Byte)) (h : ¬ Reached s) :
    exec (.bar4Access off w len) s = .next (emit .unsupportedRequest s) :=
  congrArg Host.Outcome.next (if_pos (guard_of_not_reached h))

theorem alive_peep (k u e i : Nat) : alive (peep k u e i s) = alive s := by
  have hstage : plain GLB.BOOT_STAGE := by
    unfold plain
    decide
  have hfail : plain GLB.BOOT_FAIL := by
    unfold plain
    decide
  have hfatal : plain GLB.STAT_FATAL := by
    unfold plain
    decide
  rw [alive, alive, bootReadyNow, bootReadyNow, fatal, fatal, flag, flag, getF_peep _ _ _ _ _ _ hstage, getF_peep _ _ _ _ _ _ hfail,
    getF_peep _ _ _ _ _ _ hfatal]

theorem winLen_peep (k u e i : Nat) : winLen (peep k u e i s) = winLen s := by
  have hstate : plain HOSTIF.HDMSTAT_STATE := by
    unfold plain
    decide
  have hsize : plain HOSTIF.HDMSIZE_UNITS := by
    unfold plain
    decide
  rw [winLen, winLen, winState, winState, getF_peep _ _ _ _ _ _ hstate, getF_peep _ _ _ _ _ _ hsize]

theorem winBytes_peep (o n k u e i : Nat) : winBytes o n (peep k u e i s) = winBytes o n s := by
  have hruns : (peep k u e i s).winRuns = s.winRuns := by rw [peep_eq]
  simp only [winBytes, winAddr, hruns, memByte_peep]

/-- Records that leave after one another keep the memory. -/
theorem forEach_emit_mem {α : Type} (g : α → Out) (l : List α) : (forEach l (fun r s => emit (g r) s) s).mem = s.mem := by
  rw [forEach_emit]

theorem snoopRange_mem (o n : Nat) (inv : Bool) : (snoopRange o n inv s).mem = s.mem := by
  unfold snoopRange
  split
  · rfl
  · exact forEach_emit_mem _ _

/-- A read of the window by BAR4 (R611, R616). -/
theorem exec_bar4Access_read (off len : Nat) (hreached : Reached s) : ∃ t, exec (.bar4Access off none len) s = .next t ∧ t.mem = s.mem
    ∧ t.out.head? = some (.readReply (winBytes off (min len ((if alive s then winLen s else 0) - off)) s
      ++ List.replicate (len - min len ((if alive s then winLen s else 0) - off)) 0#8) false) := by
  have hcounted : ∃ v, v = (if alive s then peep 10 0 4 1 s else s) ∧ alive v = alive s ∧ winLen v = winLen s ∧ v.mem = s.mem
      ∧ ∀ n, winBytes off n v = winBytes off n s := by
    refine ⟨_, rfl, ?_⟩
    split
    · exact ⟨alive_peep _ _ _ _, winLen_peep _ _ _ _, peep_mem _ _ _ _ _, fun n => winBytes_peep off n _ _ _ _⟩
    · exact ⟨rfl, rfl, rfl, fun _ => rfl⟩
  obtain ⟨v, hv, halive, hlen, hmem, hbytes⟩ := hcounted
  refine ⟨_, congrArg Host.Outcome.next (if_neg (by simp [guard_of_reached hreached])), ?_⟩
  simp only [← hv, halive, hlen, winRead, hbytes]
  exact ⟨(forEach_emit_mem _ _).trans ((snoopRange_mem _ _ _).trans hmem), rfl⟩

theorem exec_bar4Access_write (off len : Nat) (bs : List Byte) (hreached : Reached s) (halive : alive s = true) :
    exec (.bar4Access off (some bs) len) s = .next (winWrite off (bs.take (winLen s - off)) (peep 10 0 4 1 s)) := by
  refine congrArg Host.Outcome.next ((if_neg (by simp [guard_of_reached hreached])).trans ?_)
  simp only [if_pos halive, alive_peep, winLen_peep]

/-! The registers of the window (R619, R620). -/

theorem exec_hdmctlEn (on : Bool) (h : Served .early s) : exec (.hdmctlEn on) s = .next
    (if !on && s.cfg.decoderCommitted then regAccessError HOSTIF.HDMCTL_EN.addr s else followWindow (setF HOSTIF.HDMCTL_EN (b2n on) s)) :=
  congrArg Host.Outcome.next (hostWrite_of_served _ h)

theorem exec_hdmsizeWrite (n : Nat) (h : Served .early s) : exec (.hdmsizeWrite n) s = .next
    (if winState s ≠ winOff then regAccessError HOSTIF.HDMSIZE_UNITS.addr s
     else if n ≤ 16384 then setF HOSTIF.HDMSIZE_UNITS n s else regAccessError HOSTIF.HDMSIZE_UNITS.addr s) :=
  congrArg Host.Outcome.next (hostWrite_of_served _ h)

theorem exec_hdmDecoderCommit (n : Nat) (h : Served .early s) : exec (.hdmDecoderCommit n) s = .next
    (if winState s = winReady ∧ n = winLen s then
      { s with cfg := { s.cfg with decoderCommitted := true, decoderSize := n, decoderError := false } }
     else { s with cfg := { s.cfg with decoderCommitted := false, decoderSize := 0, decoderError := true } }) :=
  congrArg Host.Outcome.next (hostWrite_of_served _ h)

theorem winState_setEn (v : Nat) : winState (setF HOSTIF.HDMCTL_EN v s) = winState s := getF_setF_ne _ _ _ _ (by decide)

/-- READY without EN, and without a committed decoder, begins RELEASING. -/
theorem followWindow_releases (hstate : winState s = winReady) (hen : getF HOSTIF.HDMCTL_EN s = 0) (hcommit : s.cfg.decoderCommitted = false) :
    followWindow s = setF HOSTIF.HDMSTAT_STATE winReleasing s :=
  if_pos (by simp [hstate, flag_eq_false hen, hcommit])

/-- OFF with EN begins ZEROING. -/
theorem followWindow_starts (hstate : winState s = winOff) (hen : getF HOSTIF.HDMCTL_EN s = 1) : followWindow s = startWindow s :=
  (if_neg (by simp [hstate, winOff, winReady])).trans (if_pos (by simp [hstate, flag_eq_true hen]))

/-- READY with EN, and OFF without it, rest. -/
theorem followWindow_ready (hstate : winState s = winReady) (hen : getF HOSTIF.HDMCTL_EN s = 1) : followWindow s = s := by
  simp [followWindow, hstate, flag_eq_true hen, winReady, winOff, winFailed]

theorem followWindow_off (hstate : winState s = winOff) (hen : getF HOSTIF.HDMCTL_EN s = 0) : followWindow s = s := by
  simp [followWindow, hstate, flag_eq_false hen, winReady, winOff, winFailed]

/-! Zeroing and release (R619, R624). -/

theorem memByte_wipeRange_out {lo hi a : Nat} (h : a < lo ∨ max lo hi ≤ a) : memByte a (wipeRange lo hi s) = memByte a s :=
  assocGet_splice_out _ _ _ _ _ _ h (le_max_left _ _) (fun p hp => absurd hp (by simp))

theorem memByte_wipeRange_in {lo hi a : Nat} (hlo : lo ≤ a) (hhi : a < hi) : memByte a (wipeRange lo hi s) = 0#8 :=
  (assocGet_splice_in _ _ _ _ _ _ hlo (hhi.trans_le (le_max_right _ _))).trans rfl

/-- A byte that reads zero does so after any wipe. -/
theorem memByte_wipeRange_zero {lo hi a : Nat} (h : memByte a s = 0#8) : memByte a (wipeRange lo hi s) = 0#8 := by
  by_cases hin : lo ≤ a ∧ a < max lo hi
  · exact (assocGet_splice_in _ _ _ _ _ _ hin.1 hin.2).trans rfl
  · rw [memByte_wipeRange_out (by omega), h]

/-- Every byte of a run reads zero once all runs are wiped. -/
theorem memByte_wipeRuns {l : List (Nat × Nat × Nat)} {a : Nat}
    (h : memByte a s = 0#8 ∨ ∃ r ∈ l, memAddr r.1 r.2.1 0 ≤ a ∧ a < memAddr r.1 (r.2.1 + r.2.2) 0) :
    memByte a (forEach l (fun r s => wipeRange (memAddr r.1 r.2.1 0) (memAddr r.1 (r.2.1 + r.2.2) 0) s) s) = 0#8 := by
  induction l generalizing s with
  | nil => simpa using h
  | cons r l ih =>
    rw [forEach_cons]
    obtain hzero | ⟨x, hx, hlo, hhi⟩ := h
    · exact ih (.inl (memByte_wipeRange_zero hzero))
    · obtain rfl | hrest := List.mem_cons.1 hx
      · exact ih (.inl (memByte_wipeRange_in hlo hhi))
      · exact ih (.inr ⟨x, hrest, hlo, hhi⟩)

theorem wipeWindow_flds : (wipeWindow s).flds = s.flds := forEach_keep (fun t => t.flds) _ _ _ fun _ _ _ => rfl
theorem wipeWindow_winRuns : (wipeWindow s).winRuns = s.winRuns := forEach_keep (fun t => t.winRuns) _ _ _ fun _ _ _ => rfl
theorem wipeWindow_inflight : (wipeWindow s).inflight = s.inflight := forEach_keep (fun t => t.inflight) _ _ _ fun _ _ _ => rfl

/-- A zeroed window is READY, and its bytes read zero. -/
theorem hdmZeroingDone_outcome (hstate : winState s = winZeroing) (halive : alive s = true) (hen : getF HOSTIF.HDMCTL_EN s = 1) :
    ∃ t, exec .hdmZeroingDone s = .next t ∧ winState t = winReady ∧ t.cdatSeq = s.cdatSeq + 1 ∧ t.winRuns = s.winRuns
      ∧ ∀ r ∈ s.winRuns, ∀ a, memAddr r.1 r.2.1 0 ≤ a → a < memAddr r.1 (r.2.1 + r.2.2) 0 → memByte a t = 0#8 := by
  have hready : winState (setF HOSTIF.HDMSTAT_STATE winReady { wipeWindow s with cdatSeq := s.cdatSeq + 1 }) = winReady := getF_setF_self _ _ _
  have hen' : getF HOSTIF.HDMCTL_EN (setF HOSTIF.HDMSTAT_STATE winReady { wipeWindow s with cdatSeq := s.cdatSeq + 1 }) = 1 := by
    rw [getF_setF_ne _ _ _ _ (by decide), ← hen, getF, getF, wipeWindow_flds]
  refine ⟨_, congrArg Host.Outcome.next ((if_pos (by simp [hstate, halive])).trans (followWindow_ready hready hen')), hready, rfl, wipeWindow_winRuns,
    fun r hr a hlo hhi => ?_⟩
  exact memByte_wipeRuns (s := s) (l := s.winRuns) (.inr ⟨r, hr, hlo, hhi⟩)

theorem unchargeWindow_flds : (unchargeWindow s).flds = s.flds := by
  unfold unchargeWindow
  split
  · exact forEach_keep (fun t => t.flds) _ _ _ fun _ _ _ => rfl
  · rfl

theorem unchargeWindow_inflight : (unchargeWindow s).inflight = s.inflight := by
  unfold unchargeWindow
  split
  · exact forEach_keep (fun t => t.inflight) _ _ _ fun _ _ _ => rfl
  · rfl

theorem freeWindow_spec (s : State) : winState (freeWindow s) = winOff ∧ getF HOSTIF.HDMCTL_EN (freeWindow s) = getF HOSTIF.HDMCTL_EN s
    ∧ (freeWindow s).winRuns = [] ∧ (freeWindow s).inflight = s.inflight := by
  refine ⟨?_, ?_, rfl, unchargeWindow_inflight.trans wipeWindow_inflight⟩
  · rw [freeWindow, winState, getF_setF_ne _ _ _ _ (by decide), getF_setF_self]
    rfl
  · rw [freeWindow, getF_setF_ne _ _ _ _ (by decide), getF_setF_ne _ _ _ _ (by decide), getF, getF]
    exact congrArg (assocGet _ · _) (unchargeWindow_flds.trans wipeWindow_flds)

/-- A released window is OFF without slots. -/
theorem hdmReleaseDrained_outcome (hstate : winState s = winReleasing) (halive : alive s = true) (hen : getF HOSTIF.HDMCTL_EN s = 0)
    (hfree : ∀ e ∈ s.inflight, namesWindow e = false) :
    ∃ t, exec .hdmReleaseDrained s = .next t ∧ winState t = winOff ∧ t.cdatSeq = s.cdatSeq + 1 ∧ t.winRuns = [] ∧ t.inflight = s.inflight := by
  obtain ⟨hoff, hkept, hruns, hflight⟩ := freeWindow_spec s
  have hany : s.inflight.any namesWindow = false := by simpa using hfree
  exact ⟨_, congrArg Host.Outcome.next ((if_pos (by simp [hstate, halive, hany])).trans
    (followWindow_off (s := { freeWindow s with cdatSeq := s.cdatSeq + 1 }) hoff (hkept.trans hen))), hoff, rfl, hruns, hflight⟩

end

/-- Settles O53, command by command. -/
theorem windowStates : Obligations.WindowStates := by
  intro s
  refine ⟨?train, ?down, exec_bar4Access_unsupported, ?read, ?early, fun off bs len => exec_bar4Access_write off len bs, fun a => rfl, ?registers,
    hdmZeroingDone_outcome, hdmReleaseDrained_outcome⟩
  case train =>
    intro hhold hdown
    refine ⟨fun wide rate hlow hhigh => ?_, exec_cxlLinkTrainingDone .down hhold hdown⟩
    obtain ⟨hup, hrate, hwide⟩ := cxlUp_spec (s := s) wide hhigh
    exact ⟨_, (exec_cxlLinkTrainingDone _ hhold hdown).trans (congrArg _ (if_pos ⟨hlow, hhigh⟩)), hup, hrate, hwide, cxlUp_eq wide rate⟩
  case down => exact fun hup => ⟨_, exec_cxlLinkDown hup, cxlDown_spec s⟩
  case read =>
    intro off len hreached halive hlen _
    obtain ⟨t, hexec, hmem, hout⟩ := exec_bar4Access_read off len hreached
    have hall : min len (winLen s - off) = len := by omega
    exact ⟨t, hexec, by simpa [halive, hall] using hout, hmem⟩
  case early =>
    intro off len hreached halive
    obtain ⟨t, hexec, hmem, hout⟩ := exec_bar4Access_read off len hreached
    exact ⟨t, hexec, by simpa [halive, winBytes] using hout, hmem⟩
  case registers =>
    intro h
    refine ⟨fun hcommit => ?_, fun hstate hcommit => ?_, fun hstate => ?_, fun n hstate hn => ?_, fun n hbad => ?_, fun n hstate hn => ?_,
        fun n hbad => ?_⟩
    · rw [exec_hdmctlEn false h, if_pos (by simp [hcommit])]
    · rw [exec_hdmctlEn false h, if_neg (by simp [hcommit])]
      exact congrArg _ (followWindow_releases ((winState_setEn _).trans hstate) (getF_setF_self _ _ _) hcommit)
    · rw [exec_hdmctlEn true h, if_neg (by simp)]
      exact congrArg _ (followWindow_starts ((winState_setEn _).trans hstate) (getF_setF_self _ _ _))
    · rw [exec_hdmsizeWrite n h, if_neg (not_not.2 hstate), if_pos hn]
    · rw [exec_hdmsizeWrite n h]
      by_cases hstate : winState s = winOff
      · rw [if_neg (not_not.2 hstate), if_neg (by simpa [hstate] using hbad)]
      · rw [if_pos hstate]
    · rw [exec_hdmDecoderCommit n h, if_pos ⟨hstate, hn⟩]
    · rw [exec_hdmDecoderCommit n h, if_neg fun hgood => hbad.elim (absurd hgood.1) (absurd hgood.2)]

end Sys2Proof.Machine
namespace Sys2Proof.Machine

/-! PROOFS. Configuration requests (R612, R655). -/

/-- The record of a descriptor that has completed with OK. -/
def completedRecord : DoneRec := ⟨⟨0, 0, some 0, 0, false, 0, 9, 0, 0, 0, .running, [], none, [], 0, 0⟩, stOk, 0, 0, 0, 0, 0⟩

/-- A queue that is ENABLED in D3hot with one record held: its QSTAT counts the descriptor of the record as in flight (R567, R612). -/
def enabledWithHeldRecord : State :=
  setF (CMDQ.QSTAT_STATE 0) qEnabled (setF (CMDQ.QSTAT_INFLIGHT 0) 1 { State.reset with
    porAsserted := false, perstAsserted := false
    cfg := { Cfg.init with busMaster := true, d3hot := true }
    qaux := [(0, { qauxInit with late := [completedRecord] })] })

/-- Refutes O10: a device that leaves D3hot writes the held record and then counts anew what is in flight, so that QSTAT[INFLIGHT] falls to 0;
the statement's next state is that of the record's write alone, in which the count still stands at 1. -/
theorem not_configRequests : ¬ Obligations.ConfigRequests := by
  rintro ⟨-, -, hleaves⟩
  have hclaim := hleaves 0 qauxInit completedRecord enabledWithHeldRecord (by decide) (by decide) (by decide) rfl
  have hcount := congrArg (getF (CMDQ.QSTAT_INFLIGHT 0)) (Host.Outcome.next.inj hclaim)
  exact absurd hcount (by decide)

end Sys2Proof.Machine
namespace Sys2Proof.Machine

/-! PROOFS. MSI-X, DOE, SPDM and the function-level reset (R622 to R627, R686). -/

section
variable {s : State}

/-! MSI-X (R622). -/

theorem exec_msixUnmask {v : Nat} (h : Served .early s) (hv : v < 2048) : exec (.msixUnmask v) s = .next (sendHeld (maskVector v false s)) :=
  congrArg Host.Outcome.next ((if_pos hv).trans (hostWrite_of_served _ h))

theorem sendHeld_of_disabled (h : s.cfg.msixEnable = false) : sendHeld s = s := if_pos (by simp [h])

/-- The one message that is held leaves, once nothing holds it. -/
theorem sendHeld_single {v : Nat} (henable : s.cfg.msixEnable = true) (hmask : s.cfg.funcMask = false) (hbus : busOk s = true)
    (hpending : s.cfg.pendingVec = [v]) (hunmasked : v ∈ s.cfg.unmasked) :
    sendHeld s = emit (.msix v (msixAddr v s) (msixData v s)) { s with cfg := { s.cfg with pendingVec := [] } } := by
  refine (if_neg (by simp [henable, hmask, hbus])).trans ?_
  simp [hpending, hunmasked, sortNat, insertNat, msixAddr, msixData]

theorem mem_unmasked_maskVector (v : Nat) : v ∈ (maskVector v false s).cfg.unmasked := List.mem_cons_self

/-! The mailbox (R623 to R625, R686). -/

theorem exec_doeAbort (h : configHeld s = false) : exec .doeAbort s = .next { s with doeError := false } :=
  congrArg Host.Outcome.next (if_neg (by simp [h]))

/-- An object that is served is answered with what its content function gives. -/
theorem doeServe_answers {kind : Nat} {f : State → List Byte × State} {bs : List Byte} {u : State} (hheld : configHeld s = false)
    (herror : s.doeError = false) (hf : f s = (bs, u)) : doeServe kind f s = emit (.doe kind bs) u := by
  refine (if_neg (by simp [hheld, herror])).trans ?_
  rw [hf]

theorem doeServe_silent (kind : Nat) (f : State → List Byte × State) (h : configHeld s = true ∨ s.doeError = true) : doeServe kind f s = s :=
  if_pos (by simpa using h)

theorem doeObject_answers {kind bytes : Nat} {f : State → List Byte × State} {bs : List Byte} {u : State} (hheld : configHeld s = false)
    (herror : s.doeError = false) (hbytes : bytes ≤ 65536) (hf : f s = (bs, u)) : doeObject kind bytes f s = emit (.doe kind bs) u :=
  (if_neg (by omega)).trans (doeServe_answers hheld herror hf)

theorem doeObject_tooLong {kind bytes : Nat} (f : State → List Byte × State) (hheld : configHeld s = false) (hbytes : 65536 < bytes) :
    doeObject kind bytes f s = { s with doeError := true } :=
  (if_pos hbytes).trans (if_neg (by simp [hheld]))

/-- A response of SPDM. -/
theorem spdm_answers {tag : Nat} {f : State → List Byte × State} {bs : List Byte} {u : State} (hheld : configHeld s = false)
    (herror : s.doeError = false) (hf : f s = (bs, u)) : spdm tag f s = .next (emit (.doe 2 (Config.otherStandard tag bs)) u) := by
  refine congrArg Host.Outcome.next (doeServe_answers hheld herror ?_)
  rw [hf]

theorem spdm_silent {o : Host.Outcome State Fault Refusal} {tag : Nat} {f : State → List Byte × State} (ho : o = spdm tag f s)
    (h : configHeld s = true ∨ s.doeError = true) : o = .next s :=
  ho.trans (congrArg Host.Outcome.next (doeServe_silent 2 _ h))

theorem exec_getVersion : exec .getVersion s = spdm 16 (fun s => ([0x12#8], s)) s := rfl
theorem exec_getCapabilities : exec .getCapabilities s = spdm 17 (fun s => ([], s)) s := rfl
theorem exec_negotiateAlgorithms : exec .negotiateAlgorithms s = spdm 18 (fun s => ([], s)) s := rfl
theorem exec_getDigests : exec .getDigests s = spdm 19 (fun s => (sha512 Config.certChain, s)) s := rfl

theorem signedResponse_eq {tag : Nat} {request content own : List Byte} {u : State} (hdraw : drawRandom 32 s = (own, u)) :
    signedResponse tag request content s = (content ++ own ++ Config.ed25519Sign identitySeed
      (Config.otherStandard (tag + 128) (request ++ (content ++ own))), u) := by
  rw [signedResponse, hdraw]

theorem exec_getCertificate (offset len : Nat) :
    exec (.getCertificate 0 offset len) s = spdm 20 (fun s => ((Config.certChain.drop offset).take len, s)) s := rfl

theorem exec_challengeSpdm (nonce : List Byte) :
    exec (.challengeSpdm 0 nonce) s = spdm 21 (fun s => signedResponse 21 nonce (sha512 Config.certChain) s) s := rfl

theorem exec_spdmUnsupportedRequest (code : Nat) :
    exec (.spdmUnsupportedRequest code) s = spdm 127 (fun s => (leBytes 1 7 ++ leBytes 1 code, s)) s := rfl

theorem exec_getCertificate_empty {slot : Nat} (offset len : Nat) (h : slot ≠ 0) : exec (.getCertificate slot offset len) s = spdmError 1 0 s :=
    if_neg h

theorem exec_challengeSpdm_empty {slot : Nat} (nonce : List Byte) (h : slot ≠ 0) : exec (.challengeSpdm slot nonce) s = spdmError 1 0 s := if_neg h

/-- What a request for a measurement is answered with, by its index: the number of blocks, a block, or all. -/
def measContent (i : Nat) (s : State) : List Byte :=
  if i = 0 then [6#8] else if i = 255 then [1, 2, 3, 4, 5, 6].flatMap (fun k => leBytes 1 k ++ measBlock k s) else leBytes 1 i ++ measBlock i s

theorem exec_getMeasurements {i : Nat} (signed : Bool) (nonce : List Byte) (hi : i ≤ 6 ∨ i = 255) : exec (.getMeasurements i signed nonce) s
    = spdm 22 (fun s => if signed then signedResponse 22 (leBytes 1 i ++ nonce) (measContent i s) s else (measContent i s, s)) s :=
  if_neg (by omega)

theorem exec_getMeasurements_unknown {i : Nat} (signed : Bool) (nonce : List Byte) (hi : 6 < i) (hall : i ≠ 255) :
    exec (.getMeasurements i signed nonce) s = spdmError 1 0 s :=
  if_pos ⟨hi, hall⟩

theorem measContent_eq {i : Nat} {content : List Byte} (h : (i = 0 ∧ content = [6#8]) ∨ (1 ≤ i ∧ i ≤ 6 ∧ content = leBytes 1 i ++ measBlock i s)
    ∨ (i = 255 ∧ content = [1, 2, 3, 4, 5, 6].flatMap (fun k => leBytes 1 k ++ measBlock k s))) : measContent i s = content := by
  obtain ⟨rfl, rfl⟩ | ⟨hlow, hhigh, rfl⟩ | ⟨rfl, rfl⟩ := h
  · rfl
  · rw [measContent, if_neg (by omega), if_neg (by omega)]
  · rfl

/-! The function-level reset (R627). -/

theorem exec_flr (h : configHeld s = false) : exec .flr s = .next (if alive s then forEach (List.range 72) resetRegion (forEach (List.range 72)
      (fun n u => dropTransfers n (s.inflight.map (fun e => e.id)) u) (flrDiscard { s with flrActive := true, doeError := false }))
    else { s with flrActive := true, doeError := false }) :=
  congrArg Host.Outcome.next (if_neg (by simp [h]))

/-- A field outside the addresses that are reset reads as before. -/
theorem getF_resetFields {g : Fld} {p : Nat → Bool} (h : p (g.key / 64) = false) : getF g (resetFields p s) = getF g s := by
  unfold getF resetFields
  exact assocGet_filter _ _ _ _ (by simp [h])

theorem getF_disableQueue_self (q : Nat) : getF (CMDQ.QSTAT_STATE q) (disableQueue q s) = 0 := getF_setF_self _ _ _

theorem getF_disableQueue_ne {q r : Nat} (h : r ≠ q) : getF (CMDQ.QSTAT_STATE r) (disableQueue q s) = getF (CMDQ.QSTAT_STATE r) s := by
  have hkey : (CMDQ.QSTAT_STATE r).key ≠ (CMDQ.QSTAT_STATE q).key := by
    simp only [key_qstat_state, queueKey]
    omega
  refine (getF_setF_ne _ _ _ _ hkey).trans (getF_resetFields ?_)
  simp only [key_qstat_state, queueKey, Bool.or_eq_false_iff, decide_eq_false_iff_not]
  omega

theorem getF_disableQueue_flrCount {q : Nat} (hq : q < 256) : getF HOSTIF.FLRCOUNT_COUNT (disableQueue q s) = getF HOSTIF.FLRCOUNT_COUNT s := by
  have hkey : HOSTIF.FLRCOUNT_COUNT.key = 0x03810014 * 64 := rfl
  refine (getF_setF_ne _ _ _ _ ?_).trans (getF_resetFields ?_)
  · rw [key_qstat_state, hkey, queueKey]
    omega
  · simp only [hkey, Bool.or_eq_false_iff, decide_eq_false_iff_not]
    omega

/-- Every queue of a list is DISABLED once each has been. -/
theorem getF_disableQueues {l : List Nat} {q : Nat} (h : q ∈ l ∨ getF (CMDQ.QSTAT_STATE q) s = 0) :
    getF (CMDQ.QSTAT_STATE q) (forEach l disableQueue s) = 0 := by
  induction l generalizing s with
  | nil => simpa using h
  | cons r l ih =>
    rw [forEach_cons]
    by_cases hr : q = r
    · exact ih (.inr (hr ▸ getF_disableQueue_self q))
    · refine ih (h.imp (fun hq => (List.mem_cons.1 hq).resolve_left hr) fun hzero => (getF_disableQueue_ne hr).trans hzero)

theorem getF_disableQueues_flrCount : getF HOSTIF.FLRCOUNT_COUNT (forEach (List.range 256) disableQueue s) = getF HOSTIF.FLRCOUNT_COUNT s :=
  forEach_keep _ _ _ _ fun _ hq _ => getF_disableQueue_flrCount (List.mem_range.1 hq)

/-- The state in which a function-level reset ends. -/
def flrEnded (s : State) : State :=
  satF HOSTIF.FLRCOUNT_COUNT 1 (forEach (List.range 256) disableQueue { s with cfg := configReset s.cfg, qaux := [], flrActive := false })

theorem exec_flrQuiesced (hactive : s.flrActive = true) (hempty : s.inflight = []) : exec .flrQuiesced s = .next (flrEnded s) :=
  congrArg Host.Outcome.next (if_pos (by simp [hactive, hempty]))

theorem exec_flrQuiesced_waits (h : s.flrActive = false ∨ s.inflight ≠ []) : exec .flrQuiesced s = .next s :=
  congrArg Host.Outcome.next (if_neg (by
    simp only [Bool.and_eq_true, decide_eq_true_eq, not_and]
    exact fun hactive => h.resolve_left (by simp [hactive])))

theorem flrEnded_kept {β : Type} (g : State → β) (hsetF : ∀ (f : Fld) (v : Nat) (t : State), g (setF f v t) = g t)
    (hreset : ∀ (p : Nat → Bool) (t : State), g (resetFields p t) = g t) :
    g (flrEnded s) = g { s with cfg := configReset s.cfg, qaux := [], flrActive := false } :=
  (hsetF _ _ _).trans (forEach_keep g _ _ _ fun _ _ _ => (hsetF _ _ _).trans (hreset _ _))

theorem getF_flrEnded_state {q : Nat} (hq : q < 256) : getF (CMDQ.QSTAT_STATE q) (flrEnded s) = 0 := by
  have hkey : (CMDQ.QSTAT_STATE q).key ≠ HOSTIF.FLRCOUNT_COUNT.key := by
    have hcount : HOSTIF.FLRCOUNT_COUNT.key = 0x03810014 * 64 := rfl
    rw [key_qstat_state, hcount, queueKey]
    omega
  exact (getF_setF_ne _ _ _ _ hkey).trans (getF_disableQueues (.inl (List.mem_range.2 hq)))

theorem getF_flrEnded_count :
    getF HOSTIF.FLRCOUNT_COUNT (flrEnded s) = satAdd HOSTIF.FLRCOUNT_COUNT.width (getF HOSTIF.FLRCOUNT_COUNT s) 1 := by
  have hcount := getF_disableQueues_flrCount (s := { s with cfg := configReset s.cfg, qaux := [], flrActive := false })
  have hsame : getF HOSTIF.FLRCOUNT_COUNT { s with cfg := configReset s.cfg, qaux := [], flrActive := false } = getF HOSTIF.FLRCOUNT_COUNT s := rfl
  rw [flrEnded, satF, getF_setF_self, hcount, hsame]
  refine Nat.mod_eq_of_lt ?_
  have hwidth : HOSTIF.FLRCOUNT_COUNT.width = 32 := rfl
  rw [hwidth, satAdd]
  omega

end

/-- Settles O54, command by command. -/
theorem hostProtocols : Obligations.HostProtocols := by
  intro s
  refine ⟨?unmask, ?disabled, exec_doeAbort, ?long, ?answers, ?silent, ?flr, ?quiesced, exec_flrQuiesced_waits⟩
  case unmask =>
    intro v h hv henable hmask hbus hpending
    have hsent := sendHeld_single (s := maskVector v false s) henable hmask hbus hpending (mem_unmasked_maskVector v)
    exact ⟨_, (exec_msixUnmask h hv).trans (congrArg _ hsent), rfl, mem_unmasked_maskVector v, rfl⟩
  case disabled =>
    intro v h hv hdisabled
    exact (exec_msixUnmask h hv).trans (congrArg _ (sendHeld_of_disabled (s := maskVector v false s) hdisabled))
  case long =>
    intro hheld index bytes hbytes
    exact ⟨congrArg _ (doeObject_tooLong _ hheld hbytes), congrArg _ (doeObject_tooLong _ hheld hbytes)⟩
  case answers =>
    intro hheld herror
    refine ⟨fun index bytes hbytes => ⟨congrArg _ (doeObject_answers hheld herror hbytes rfl),
        congrArg _ (doeObject_answers hheld herror hbytes rfl)⟩,
      spdm_answers hheld herror rfl, spdm_answers hheld herror rfl, spdm_answers hheld herror rfl, spdm_answers hheld herror rfl,
      fun offset len => spdm_answers hheld herror rfl, fun slot offset len nonce hslot => ⟨?_, ?_⟩, fun nonce own u hdraw => ?_,
      fun i nonce content hcontent => ?_, fun i sg nonce hi hall => ?_, fun code => spdm_answers hheld herror rfl⟩
    · rw [exec_getCertificate_empty offset len hslot, exec_challengeSpdm_empty nonce hslot]
    · rw [exec_getCertificate_empty offset len hslot]
      exact spdm_answers hheld herror rfl
    · exact spdm_answers hheld herror (signedResponse_eq hdraw)
    · have hi : i ≤ 6 ∨ i = 255 := by
        obtain h | h | h := hcontent <;> omega
      refine ⟨?_, fun own u hdraw => ?_⟩
      · rw [exec_getMeasurements false nonce hi]
        exact spdm_answers hheld herror (congrArg (·, s) (measContent_eq hcontent))
      · rw [exec_getMeasurements true nonce hi]
        refine spdm_answers hheld herror ?_
        rw [if_pos rfl, measContent_eq hcontent]
        exact signedResponse_eq hdraw
    · rw [exec_getMeasurements_unknown sg nonce hi hall]
      exact spdm_answers hheld herror rfl
  case silent =>
    intro h
    refine ⟨spdm_silent exec_getVersion h, spdm_silent exec_getCapabilities h, spdm_silent exec_negotiateAlgorithms h,
      spdm_silent exec_getDigests h, fun slot offset len i sg nonce code => ⟨?_, ?_, ?_, ?_⟩⟩
    · by_cases hslot : slot = 0
      · subst hslot
        exact spdm_silent (exec_getCertificate offset len) h
      · rw [exec_getCertificate_empty offset len hslot]
        exact spdm_silent rfl h
    · by_cases hslot : slot = 0
      · subst hslot
        exact spdm_silent (exec_challengeSpdm nonce) h
      · rw [exec_challengeSpdm_empty nonce hslot]
        exact spdm_silent rfl h
    · by_cases hi : i ≤ 6 ∨ i = 255
      · rw [exec_getMeasurements sg nonce hi]
        exact spdm_silent rfl h
      · rw [exec_getMeasurements_unknown sg nonce (by omega) (by omega)]
        exact spdm_silent rfl h
    · exact spdm_silent (exec_spdmUnsupportedRequest code) h
  case flr =>
    intro hheld
    rw [exec_flr hheld]
    exact ⟨fun halive => congrArg _ (if_pos halive), fun hdown => congrArg _ (if_neg (by simp [hdown]))⟩
  case quiesced =>
    intro hactive hempty
    exact ⟨_, exec_flrQuiesced hactive hempty, flrEnded_kept (fun t => t.flrActive) (fun _ _ _ => rfl) fun _ _ => rfl,
      flrEnded_kept (fun t => t.cfg) (fun _ _ _ => rfl) fun _ _ => rfl, flrEnded_kept (fun t => t.qaux) (fun _ _ _ => rfl) fun _ _ => rfl,
      flrEnded_kept (fun t => t.mem) (fun _ _ _ => rfl) fun _ _ => rfl, fun q hq => getF_flrEnded_state hq, getF_flrEnded_count⟩

end Sys2Proof.Machine
namespace Sys2Proof.Machine

/-! PROOFS. The arbiters (R635 to R638, R640, R644). -/

/-! The winner of a decision (R635). -/

theorem winnerOf_cons (i r : Nat) (s : State) (t : List Nat) : winnerOf i s (r :: t) = some (match winnerOf i s t with
    | none => r
    | some w => if inputOf i w s < inputOf i r s then r else w) := by
  rw [winnerOf]
  cases winnerOf i s t with
  | none => rfl
  | some w => exact (apply_ite some _ r w).symm

/-- The winner takes part, and nobody who does has a higher input number. -/
theorem winnerOf_spec {i w : Nat} {s : State} {ps : List Nat} (h : winnerOf i s ps = some w) : w ∈ ps ∧ ∀ r ∈ ps, inputOf i r s ≤ inputOf i w s := by
  induction ps generalizing w with
  | nil => simp [winnerOf] at h
  | cons r t ih =>
    rw [winnerOf_cons] at h
    cases ht : winnerOf i s t with
    | none =>
      have hnil : t = [] := by
        cases t with
        | nil => rfl
        | cons x l => simp [winnerOf_cons] at ht
      rw [ht] at h
      obtain rfl : r = w := Option.some.inj h
      simp [hnil]
    | some x =>
      obtain ⟨hx, hmax⟩ := ih ht
      rw [ht] at h
      by_cases hless : inputOf i x s < inputOf i r s
      · obtain rfl : r = w := by simpa [hless] using h
        exact ⟨List.mem_cons_self, List.forall_mem_cons.2 ⟨le_rfl, fun y hy => (hmax y hy).trans hless.le⟩⟩
      · obtain rfl : x = w := by simpa [hless] using h
        exact ⟨List.mem_cons_of_mem _ hx, List.forall_mem_cons.2 ⟨not_lt.1 hless, hmax⟩⟩

section
variable {i asking : Nat} {s u : State}

/-! The fields of STAT lie apart. -/

/-- The key of the first field of an arbiter's STAT. -/
def arbStatKey (i : Nat) : Nat := (0x03400000 + i * 0x1000 + 0x024) * 64

@[simp] theorem key_arb_asking (i : Nat) : (ARB.STAT_ASKING i).key = arbStatKey i := by simp only [Fld.key, ARB.STAT_ASKING, arbStatKey, Nat.add_zero]
@[simp] theorem key_arb_owner (i : Nat) : (ARB.STAT_OWNER i).key = arbStatKey i + 16 := by simp only [Fld.key, ARB.STAT_OWNER, arbStatKey]
@[simp] theorem key_arb_parked (i : Nat) : (ARB.STAT_PARKED i).key = arbStatKey i + 30 := by simp only [Fld.key, ARB.STAT_PARKED, arbStatKey]
@[simp] theorem key_arb_owned (i : Nat) : (ARB.STAT_OWNED i).key = arbStatKey i + 31 := by simp only [Fld.key, ARB.STAT_OWNED, arbStatKey]

/-! The grant (R635, R640). -/

theorem grant_spec (i w : Nat) (s : State) : getF (ARB.STAT_OWNED i) (grant i w s) = 1 ∧ getF (ARB.STAT_OWNER i) (grant i w s) = w % 16
    ∧ getF (ARB.STAT_PARKED i) (grant i w s) = 0 ∧ (grant i w s).inflight = s.inflight ∧ (grant i w s).mem = s.mem := by
  have hstamp : ∀ (g : Fld) (t : State) (l : List (Nat × Nat)), getF g { t with arbStamp := l } = getF g t := fun _ _ _ => rfl
  refine ⟨?_, ?_, ?_, rfl, rfl⟩
  · rw [grant, hstamp, getF_setF_ne _ _ _ _ (by simp), getF_setF_self]
    rfl
  · rw [grant, hstamp, getF_setF_ne _ _ _ _ (by simp), getF_setF_ne _ _ _ _ (by simp), getF_setF_ne _ _ _ _ (by simp), getF_setF_self]
    rfl
  · rw [grant, hstamp, getF_setF_ne _ _ _ _ (by simp), getF_setF_ne _ _ _ _ (by simp), getF_setF_self]
    rfl

theorem setCnt_inflight (i r v : Nat) (s : State) : (setCnt i r v s).inflight = s.inflight := by
  unfold setCnt
  split <;> rfl

theorem setCnt_mem (i r v : Nat) (s : State) : (setCnt i r v s).mem = s.mem := by
  unfold setCnt
  split <;> rfl

/-- A decision gives the resource to the winner, from a state that has counted it. -/
theorem decideArb_grants {w : Nat} (hw : winnerOf i u (participants i (getF (ARB.STAT_ASKING i) u) u).2 = some w) :
    ∃ v, decideArb i u = grant i w v ∧ v.inflight = u.inflight ∧ v.mem = u.mem := by
  unfold decideArb
  generalize participants i (getF (ARB.STAT_ASKING i) u) u = p at hw
  obtain ⟨forced, ps⟩ := p
  dsimp only at hw ⊢
  rw [hw]
  refine ⟨_, rfl, ?_, ?_⟩
  · have hcounts := forEach_keep (fun t => t.inflight) ps (fun r s => setCnt i r (if r = w then 0 else satAdd 8 (cntOf i r s) 1) s) u
      fun _ _ _ => setCnt_inflight _ _ _ _
    split
    · exact (trace_inflight _ _ _ _ _ _).trans ((peep_inflight _ _ _ _ _).trans ((peep_inflight _ _ _ _ _).trans hcounts))
    · exact (peep_inflight _ _ _ _ _).trans hcounts
  · have hcounts := forEach_keep (fun t => t.mem) ps (fun r s => setCnt i r (if r = w then 0 else satAdd 8 (cntOf i r s) 1) s) u
      fun _ _ _ => setCnt_mem _ _ _ _
    split
    · exact (trace_mem _ _ _ _ _ _).trans ((peep_mem _ _ _ _ _).trans ((peep_mem _ _ _ _ _).trans hcounts))
    · exact (peep_mem _ _ _ _ _).trans hcounts

/-! ARB_DECISION and ARB_RELEASE (R637, R638). -/

theorem exec_arbDecision (hkind : (arbKind i).isSome = true) (hu : u = raise i asking s) : exec (.arbDecision i asking) s =
    if flag (ARB.STAT_OWNED i) u || decide (getF (ARB.STAT_ASKING i) u = 0) || (regionOf (arbRegion i) u).inReset || fatal u then .next u
    else if flag (ARB.STAT_PARKED i) u && decide (getF (ARB.STAT_ASKING i) u = 2 ^ getF (ARB.STAT_OWNER i) u) then
      .next (serveGrant i (grant i (getF (ARB.STAT_OWNER i) u) u))
    else .next (serveGrant i (decideArb i u)) := by
  subst hu
  exact if_neg (by simp [Option.isNone_iff_eq_none, Option.isSome_iff_ne_none.1 hkind])

theorem exec_arbRelease (hkind : (arbKind i).isSome = true) (hu : u = raise i asking s) : exec (.arbRelease i asking) s =
    if flag (ARB.STAT_OWNED i) u && !(decide (724 ≤ i) && flag (CORE.MXSTAT_TRWAIT (i - 724)) u) then
      .next (setF (ARB.STAT_PARKED i) (b2n (putBits (getF (ARB.STAT_ASKING i) u) (getF (ARB.STAT_OWNER i) u) 1 0 = 0))
        (setF (ARB.STAT_OWNED i) 0 { u with arbStamp := assocSet 0 u.arbStamp i 0 }))
    else .next u := by
  subst hu
  exact if_neg (by simp [Option.isNone_iff_eq_none, Option.isSome_iff_ne_none.1 hkind])

/-- A free resource that is asked for, in a region that runs, is granted. -/
theorem exec_arbDecision_free (hkind : (arbKind i).isSome = true) (hu : u = raise i asking s) (hfree : getF (ARB.STAT_OWNED i) u ≠ 1)
    (hasked : getF (ARB.STAT_ASKING i) u ≠ 0) (hruns : (regionOf (arbRegion i) u).inReset = false) (hfatal : fatal u = false) :
    exec (.arbDecision i asking) s =
      if flag (ARB.STAT_PARKED i) u && decide (getF (ARB.STAT_ASKING i) u = 2 ^ getF (ARB.STAT_OWNER i) u) then
        .next (serveGrant i (grant i (getF (ARB.STAT_OWNER i) u) u))
      else .next (serveGrant i (decideArb i u)) :=
  (exec_arbDecision hkind hu).trans (if_neg (by simp [flag, hfree, hasked, hruns, hfatal]))

/-- A release frees the resource, and parks it when nobody else asks. -/
theorem arbRelease_frees (hkind : (arbKind i).isSome = true) (hu : u = raise i asking s) (howned : getF (ARB.STAT_OWNED i) u = 1)
    (hroom : i < 724 ∨ getF (CORE.MXSTAT_TRWAIT (i - 724)) u = 0) :
    ∃ t, exec (.arbRelease i asking) s = .next t ∧ getF (ARB.STAT_OWNED i) t = 0
      ∧ (putBits (getF (ARB.STAT_ASKING i) u) (getF (ARB.STAT_OWNER i) u) 1 0 = 0 → getF (ARB.STAT_PARKED i) t = 1)
      ∧ (putBits (getF (ARB.STAT_ASKING i) u) (getF (ARB.STAT_OWNER i) u) 1 0 ≠ 0 → getF (ARB.STAT_PARKED i) t = 0)
      ∧ t.inflight = s.inflight ∧ t.mem = s.mem := by
  have hkeeps : (decide (724 ≤ i) && flag (CORE.MXSTAT_TRWAIT (i - 724)) u) = false := by
    obtain hother | hnone := hroom
    · simp [hother]
    · simp [flag_eq_false hnone]
  refine ⟨_, (exec_arbRelease hkind hu).trans (if_pos (by simp [flag_eq_true howned, hkeeps])), ?_, fun hnobody => ?_, fun hsomebody => ?_, ?_, ?_⟩
  · rw [getF_setF_ne _ _ _ _ (by simp), getF_setF_self]
    rfl
  · rw [getF_setF_self, decide_eq_true hnobody]
    rfl
  · rw [getF_setF_self, decide_eq_false hsomebody]
    rfl
  · rw [hu]
    rfl
  · rw [hu]
    rfl

/-! INPUTMAP and the hold watchdog (R636, R640, R644). -/

theorem exec_inputmapWrite (v : Nat) (hkind : (arbKind i).isSome = true) (h : Served .early s) : exec (.inputmapWrite i v) s = .next
    (if mapValid i v then setF (ARB.INPUTMAP_MAP i) (v % 2 ^ (4 * arbReqs i)) (dropHeld (0x03400000 + i * 0x1000 + 8) s)
     else regAccessError (0x03400000 + i * 0x1000 + 8) (dropHeld (0x03400000 + i * 0x1000 + 8) s)) :=
  (if_neg (by simp [Option.isNone_iff_eq_none, Option.isSome_iff_ne_none.1 hkind])).trans (congrArg Host.Outcome.next (hostWrite_of_served _ h))

theorem exec_holdWatchdogBite {hold : Nat} (hkind : (arbKind i).isSome = true) (howned : getF (ARB.STAT_OWNED i) s = 1) (hfatal : fatal s = false)
    (hruns : (regionOf (arbRegion i) s).inReset = false) (hhold : hold = licSince (arbRegion i) (assocGet 0 s.arbStamp i) s) :
    exec (.holdWatchdogBite i) s = .next (if getF (ARB.HOLD_LIMIT i) s * 1024 < hold then
      resetRegion (arbRegion i) (satF (ARB.BITES_COUNT i) 1 (trace 10 1 (arbRegion i) (i + getF (ARB.STAT_OWNER i) s * 2 ^ 16) hold
        (errRecord clsArbiter 1 (arbRegion i) 0 noUnit [i, getF (ARB.STAT_OWNER i) s, inputOf i (getF (ARB.STAT_OWNER i) s) s, hold] s)))
      else s) := by
  subst hhold
  refine congrArg Host.Outcome.next ((if_neg ?_).trans ?_)
  · simp [Option.isNone_iff_eq_none, Option.isSome_iff_ne_none.1 hkind, flag_eq_true howned, hfatal]
  · simp only [hruns, Bool.not_false, Bool.and_true, decide_eq_true_eq]

end

/-- Settles O55: the winner by its recursion, then command by command. -/
theorem arbitersGrant : Obligations.ArbitersGrant := by
  refine ⟨fun i ps s => ⟨fun hps => ?some, fun w hw => winnerOf_spec hw⟩, fun i asking s u hkind hu =>
    ⟨fun howned => ?owned, fun hfree hasked hruns hfatal => ⟨fun hparked halone => ?parked, fun hother w hw => ?decided⟩, fun hqueue => ?none,
        fun m c hqueue => ?queue,
      fun hengine hwait => ?full, arbRelease_frees hkind hu, fun hfree => ?free, fun v h => ⟨fun hvalid => ?map, fun hbad => ?refused⟩,
      fun howned hfatal hruns hold hhold => ⟨fun hwithin => ?held, fun hbeyond => ?bites⟩⟩⟩
  case some =>
    obtain ⟨r, t, rfl⟩ := List.exists_cons_of_ne_nil hps
    rw [winnerOf_cons]
    rfl
  case owned => exact (exec_arbDecision hkind hu).trans (if_pos (by simp [flag_eq_true howned]))
  case parked =>
    exact (exec_arbDecision_free hkind hu hfree hasked hruns hfatal).trans (if_pos (by rw [flag_eq_true hparked, decide_eq_true halone]; rfl))
  case decided =>
    have hnot : ¬ (flag (ARB.STAT_PARKED i) u && decide (getF (ARB.STAT_ASKING i) u = 2 ^ getF (ARB.STAT_OWNER i) u)) = true := by
      rw [Bool.and_eq_true, decide_eq_true_eq, not_and_or]
      exact hother.imp_left (by simp [flag])
    obtain ⟨v, hv, hflight, hmem⟩ := decideArb_grants hw
    obtain ⟨hgranted, howner, hparked, hgflight, hgmem⟩ := grant_spec i w v
    rw [exec_arbDecision_free hkind hu hfree hasked hruns hfatal, if_neg hnot, hv]
    subst hu
    exact ⟨_, rfl, hgranted, howner, hparked, hgflight.trans hflight, hgmem.trans hmem⟩
  case none => rw [serveGrant, hqueue]
  case queue => rw [serveGrant, hqueue]
  case full => exact (exec_arbRelease hkind hu).trans (if_neg (by simp [hengine, flag_eq_true hwait]))
  case free => exact (exec_arbRelease hkind hu).trans (if_neg (by simp [flag, hfree]))
  case map => rw [exec_inputmapWrite v hkind h, if_pos hvalid]
  case refused => rw [exec_inputmapWrite v hkind h, if_neg (by simp [hbad])]
  case held => rw [exec_holdWatchdogBite hkind howned hfatal hruns hhold, if_neg (by omega)]
  case bites => rw [exec_holdWatchdogBite hkind howned hfatal hruns hhold, if_pos hbeyond]

end Sys2Proof.Machine
